-- ==== Sys2Proof/Word.lean ====
section
/-! DEFINITION. The word types of the GR2-GPE model: bytes, 32-bit register words and context numbers. -/

namespace Sys2Proof

/-- One byte (R4). -/
abbrev Byte := BitVec 8

/-- A 32-bit register word (R361). -/
abbrev Word := BitVec 32

/-- A hardware context CTX0 to CTX7 (R195). -/
abbrev CtxNo := Fin 8

/-- A reduction channel: 0 to 3 are IN0 to IN3, 4 is OUT0, 5 is OUT1 (R357). -/
abbrev Chan := Fin 6

end Sys2Proof
end

