-- ==== Sys2Proof/Syntax.lean ====
section
/-! DEFINITION. The commands of the block: one constructor of `Instr` for each row of spec/opcode_table.json, with the
operands this model gives it (the table gives none). A ring command names only its context: its packet lies in the ring. -/

namespace Sys2Proof

/-- Where a page's translation leads (R139): one of the 128 pages of the core's own 8 MiB store, or a remote page. -/
inductive Target where
  | core (page : Fin 128)
  | remote (page : Nat)
  deriving DecidableEq, Repr

/-- What a translation walk found for a present page (R152). -/
structure Xlat where
  target : Target
  read : Bool
  write : Bool
  deriving DecidableEq, Repr

/-- Where a chain credit comes from (R184): the chain entry it reaches, and the core that sent it. -/
structure CreditFrom where
  entry : Fin 4
  core : Fin 16
  deriving DecidableEq, Repr

/-- What a detaching chain member passes on (R184, R186): the credits it had left. -/
structure DetachTerms where
  credits : Fin 257
  deriving DecidableEq, Repr

/-- A reduction-port packet (R257, R258): the 64-byte header flit and 256 payload bytes. -/
structure Packet where
  hdr : BitVec 512
  payload : BitVec 2048
  deriving DecidableEq, Repr

/-- How one self-test item ended (R319). -/
inductive Outcome where
  | pass
  | fail
  | margin
  deriving DecidableEq, Repr

/-- What the hardware showed when one self-test item ran (R319, R320): the fields of its result record. -/
structure ItemResult where
  outcome : Outcome
  address : BitVec 32
  bit : BitVec 8
  fails : BitVec 16
  expected : BitVec 64
  observed : BitVec 64
  deriving DecidableEq, Repr

/-- What a read of a protected store met (R321, R322). -/
inductive Ecc where
  | clean
  | corrected (unit : BitVec 4) (word : Nat) (bit : BitVec 8)
  | uncorrectable (unit : BitVec 4) (word : Nat) (syndrome : BitVec 8)
  deriving DecidableEq, Repr

/-- A management service word that a plain management write reaches (R347). Staging words are numbered from their
lowest 32 bits. -/
inductive MgmtReg where
  | position
  | alert
  | commitErr
  | logReadIdx
  | logSummary
  | logFirst
  | regionStage (word : Fin 4)
  | groupStage (word : Fin 8)
  | keyStage (word : Fin 8)
  | readOnly (offset : BitVec 16)
  | unlisted (offset : BitVec 16)
  deriving DecidableEq, Repr

/-- The commands of the block. -/
inductive Instr where
  -- ring commands (R209)
  | nop (c : CtxNo)
  | gradw (c : CtxNo)
  | gradx (c : CtxNo)
  | reduce (c : CtxNo)
  | accload (c : CtxNo)
  | accstore (c : CtxNo)
  | zeroSlot (c : CtxNo)
  | zeroTensor (c : CtxNo)
  | descCreate (c : CtxNo)
  | descFree (c : CtxNo)
  | xpose (c : CtxNo)
  | permute (c : CtxNo)
  | gatherAcc (c : CtxNo)
  | qstat (c : CtxNo)
  | qcal (c : CtxNo)
  | bucketSend (c : CtxNo)
  | bucketRecv (c : CtxNo)
  | digestRead (c : CtxNo)
  | taskBegin (c : CtxNo)
  | taskCommit (c : CtxNo)
  | taskDiscard (c : CtxNo)
  | barrierSignal (c : CtxNo)
  | barrierWait (c : CtxNo)
  | fence (c : CtxNo)
  | ckptArm (c : CtxNo)
  | ctxExport (c : CtxNo)
  | ctxImport (c : CtxNo)
  | assumePosition (c : CtxNo)
  | tableLoad (c : CtxNo)
  | bistSlice (c : CtxNo) (results : List ItemResult)
  | chainSetup (c : CtxNo)
  -- command protocol (10)
  | commandAdmission (c : CtxNo)
  | statusReply (c : CtxNo)
  | eventRecord (c : CtxNo)
  | doorbell (c : CtxNo) (v : Word)
  | cplHead (c : CtxNo) (v : Word)
  | ctxCfg (c : CtxNo) (v : Word)
  | enable (c : CtxNo)
  | resume (c : CtxNo)
  | abort (c : CtxNo)
  | reset (c : CtxNo)
  | contextResetComplete (c : CtxNo)
  -- control window (19)
  | clearStall
  | clearMac
  | clearEnergy
  | clearIdle
  | clearMisc
  | clearTempMax
  | clearReduce
  | clearTick
  | clearOobSilent (c : CtxNo)
  | clearIdx (c : CtxNo)
  | clearSched (c : CtxNo)
  | firstValid
  | clearLost
  | logSummary (mask : Word)
  | logRdIdx (v : Word)
  | jobRelease (v : Word)
  | tlbInvalAll
  | tlbInvalPage (page : BitVec 32)
  | invalidationComplete
  | registerWrite (offset : BitVec 12) (width : Nat) (value : BitVec 64)
  -- management (17)
  | managementWrite (reg : MgmtReg) (secure : Bool) (value : Word)
  | bindingWordWrite (c : CtxNo) (secure : Bool) (value : Word)
  | keyCommit (secure : Bool) (value : Word)
  | keyWriteEffect
  | regionCommit (secure : Bool) (value : Word)
  | groupCommit (secure : Bool) (value : Word)
  | exportSeq (secure : Bool) (value : BitVec 64)
  | svnCommit (secure : Bool)
  | retainRequest
  | retainExit
  | offRequest
  | dbgChallenge
  | dbgResponse (level : Byte) (key : BitVec 776) (r s : BitVec 384)
  | dbgResponseVerified
  | lock
  -- ticks and scheduling (01, 12)
  | tickEdge
  | localBoundary
  | tickBoundary (temps : Vector (BitVec 16) 16)
  | settlePoint (c : CtxNo)
  | epochPoint
  | guardRead (c : CtxNo)
  | earlyDiscard (c : CtxNo)
  | barrierPoll (c : CtxNo)
  | barrierTimeout (c : CtxNo)
  | slice
  | drain (g : Fin 16)
  | preload (c : CtxNo)
  | segmentMerge (c : CtxNo)
  | mergeAddition (c : CtxNo)
  | writeBack (c : CtxNo)
  | clipWindowEnd (t : Fin 8)
  | headerUpdate (c : CtxNo)
  | journalCapture (c : CtxNo)
  | pageCopy (c : CtxNo)
  | gleanerWindow (c : CtxNo)
  -- memory (07)
  | requestComplete (idx : Nat) (ecc : Ecc)
  | correctedWriteBack (unit : BitVec 4) (word : Nat)
  | walk (page : BitVec 32) (found : Option Xlat)
  | park (c : CtxNo)
  -- chains (09)
  | chainBeat (e : Fin 4) (chainId : BitVec 12) (seq : BitVec 16) (beat : BitVec 48) (sig : Word) (data : BitVec 2048)
  | credit (src : CreditFrom)
  | detach (e : Fin 4) (cause : BitVec 2)
  | detachNotification (e : Fin 4) (fromSucc : Bool) (neighbour : Option (Fin 16)) (terms : DetachTerms)
  -- reduction port (13)
  | data (ch : Chan) (p : Packet)
  | result (ch : Chan) (p : Packet)
  | backup (p : Packet)
  | abortPacket (ch : Chan) (p : Packet)
  | lateInput (job : BitVec 12) (input : Fin 5)
  -- start-up and training (18)
  | probe (ch : Chan)
  | ack (ch : Chan) (step : BitVec 4) (pos : BitVec 15)
  | probeSend (ch : Chan)
  | trainData (ch : Chan) (p : Packet)
  | digest (ch : Chan) (pos : BitVec 15) (crc : BitVec 64)
  | trainingTimeout (ch : Chan)
  | retrain (ch : Chan) (wrongPos : Option (BitVec 15))
  -- power (15)
  | gnt
  | rampComplete
  | laneGroupRelease (g : Fin 16)
  | power
  -- self-test (16)
  | fallowSlice (results : List ItemResult)
  | forcedReservation
  | bankRewrite (unit : BitVec 4) (bank : Nat)
  | riskWindowEnd
  -- start-up sequence (18)
  | resetRelease
  | quickBist (failedLanes : List (Fin 130)) (failedColumns : List (BitVec 4 × Nat × Nat))
  | imageVerification
  | positionRead
  | trainingWindowEnd
  | neighbourReport
  | receiveBufferCredit (ch : Chan) (job : BitVec 12)
  deriving DecidableEq, Repr

end Sys2Proof
end

