-- ==== Sys2Proof/Machine/Bits.lean ====
section
/-! DEFINITION. Bit fields, saturating counters, two's complement and sparse tables: the helpers every unit uses. -/

namespace Sys2Proof.Machine

/-- Field of `len` bits at bit `lo` of a word, as a number (bit ranges are [msb:lsb], R4). -/
def fld {w : Nat} (x : BitVec w) (lo len : Nat) : Nat := x.toNat / 2 ^ lo % 2 ^ len

/-- One bit of a word. -/
def bitAt {w : Nat} (x : BitVec w) (i : Nat) : Bool := x.toNat / 2 ^ i % 2 == 1

/-- A word with its field of `len` bits at `lo` set to `v` (low bits of `v`). -/
def setFld {w : Nat} (x : BitVec w) (lo len v : Nat) : BitVec w :=
  BitVec.ofNat w (x.toNat % 2 ^ lo + v % 2 ^ len * 2 ^ lo + x.toNat / 2 ^ (lo + len) * 2 ^ (lo + len))

/-- Two's complement value of the low `len` bits of `n`. -/
def toSigned (len n : Nat) : Int :=
  if n % 2 ^ len < 2 ^ (len - 1) then (n % 2 ^ len : Nat) else (n % 2 ^ len : Nat) - (2 ^ len : Nat)

/-- A counter that saturates at its maximum. -/
def satAdd {w : Nat} (x : BitVec w) (n : Nat) : BitVec w :=
  BitVec.ofNat w (min (x.toNat + n) (2 ^ w - 1))

/-- Number of 1 bits among the lowest `n` bits. -/
def countOnes (x : Nat) : Nat → Nat
  | 0 => 0
  | n + 1 => countOnes x n + x / 2 ^ n % 2

/-- Quotient rounded up; 0 for a zero divisor. -/
def ceilDiv (a b : Nat) : Nat := (a + b - 1) / b

/-- (a - b) mod 2^32, the distance of two free-running indices (R195). -/
def dist32 (a b : Word) : Nat := (a - b).toNat

/-- Little-endian bytes of a number (R4). -/
def leBytes : Nat → Nat → List Byte
  | 0, _ => []
  | n + 1, x => BitVec.ofNat 8 x :: leBytes n (x / 256)

/-- The number that little-endian bytes spell (R4). -/
def ofLeBytes : List Byte → Nat
  | [] => 0
  | b :: t => b.toNat + 256 * ofLeBytes t

/-- A sparse table: strictly rising keys, no entry equal to the default. -/
abbrev Tbl (β : Type) := List (Nat × β)

/-- The entry of key `i`, or the default. -/
def Tbl.get {β : Type} (d : β) : Tbl β → Nat → β
  | [], _ => d
  | (k, v) :: t, i => if i = k then v else if i < k then d else Tbl.get d t i

/-- Put `v` at key `i`, keeping the canonical form: writing the default removes the entry. -/
def Tbl.put {β : Type} [DecidableEq β] (d : β) : Tbl β → Nat → β → Tbl β
  | [], i, v => if v = d then [] else [(i, v)]
  | (k, w) :: t, i, v =>
    if i < k then (if v = d then (k, w) :: t else (i, v) :: (k, w) :: t)
    else if i = k then (if v = d then t else (i, v) :: t)
    else (k, w) :: Tbl.put d t i v

/-- Every key is above `b`, keys rise, and no entry is the default. -/
def Tbl.wfFrom {β : Type} [DecidableEq β] (d : β) : Nat → Tbl β → Bool
  | _, [] => true
  | b, (k, v) :: t => decide (b ≤ k) && decide (v ≠ d) && Tbl.wfFrom d (k + 1) t

/-- The canonical form of a sparse table. -/
def Tbl.wf {β : Type} [DecidableEq β] (d : β) (t : Tbl β) : Bool := Tbl.wfFrom d 0 t

/-- The first element that passes the test, with its place. -/
def findAt {α : Type} (p : α → Bool) : List α → Nat → Option (Nat × α)
  | [], _ => none
  | a :: t, i => if p a then some (i, a) else findAt p t (i + 1)

/-- Replace the element at a place; unchanged when the place is beyond the end. -/
def setAt {α : Type} : List α → Nat → α → List α
  | [], _, _ => []
  | _ :: t, 0, x => x :: t
  | a :: t, i + 1, x => a :: setAt t i x

/-- Remove the element at a place. -/
def dropAt {α : Type} : List α → Nat → List α
  | [], _ => []
  | _ :: t, 0 => t
  | a :: t, i + 1 => a :: dropAt t i

/-- The natural numbers `lo` to `lo + n - 1`. -/
def upFrom (lo : Nat) : Nat → List Nat
  | 0 => []
  | n + 1 => lo :: upFrom (lo + 1) n

/-- A list cut into chunks of `n` (fuel bounds the number of chunks). -/
def chunks {α : Type} (n : Nat) : Nat → List α → List (List α)
  | 0, _ => []
  | _, [] => []
  | f + 1, l => l.take n :: chunks n f (l.drop n)

/-- Duplicates removed, first occurrences kept. -/
def dedup {α : Type} [DecidableEq α] : List α → List α → List α
  | [], _ => []
  | a :: t, seen => if a ∈ seen then dedup t seen else a :: dedup t (a :: seen)

end Sys2Proof.Machine
end

