-- ==== Sys2Proof/Machine/Num.lean ====
section
/-! DEFINITION. Numbers, formats and the one rounding rule (02): decode R18, R19; rounding R3, R30; outcomes R33 to R35;
exact sums and products R26, R32, R34; the compensated addition R77, R78. -/

namespace Sys2Proof.Machine

/-- A number as the engine sees it. Finite: (-1)^neg * mag * 2^exp. All NaNs are one (R19). -/
inductive Num where
  | nan
  | inf (neg : Bool)
  | fin (neg : Bool) (mag : Nat) (exp : Int)
  deriving DecidableEq, Repr

/-- The SPECIALS parameter of a format (R18). -/
inductive Specials where
  | finiteOnly
  | nanOnly
  | ieee
  deriving DecidableEq, Repr

/-- Parameters of a floating-point format (R18): exponent width, fraction width, bias, subnormals, specials. -/
structure FloatFmt where
  e : Nat
  m : Nat
  bias : Nat
  sub : Bool
  spec : Specials
  deriving DecidableEq, Repr

/-- Flags an operation can set (R33, R34): saturation, non-finite. -/
structure Flag where
  sat : Bool
  nf : Bool
  deriving DecidableEq, Repr

/-- No flag. -/
def Flag.clear : Flag := ⟨false, false⟩

/-- Both operations' flags. -/
def Flag.or (a b : Flag) : Flag := ⟨a.sat || b.sat, a.nf || b.nf⟩

def fmtBF16 : FloatFmt := ⟨8, 7, 127, true, .ieee⟩
def fmtFP16 : FloatFmt := ⟨5, 10, 15, true, .ieee⟩
def fmtE4M3 : FloatFmt := ⟨4, 3, 7, true, .nanOnly⟩
def fmtE5M2 : FloatFmt := ⟨5, 2, 15, true, .ieee⟩
def fmtFP32 : FloatFmt := ⟨8, 23, 127, true, .ieee⟩
def fmtA20 : FloatFmt := ⟨8, 11, 127, false, .ieee⟩
def fmtT25 : FloatFmt := ⟨8, 16, 127, false, .ieee⟩

/-- Smallest normal exponent, 1 - bias (R30). -/
def FloatFmt.emin (f : FloatFmt) : Int := 1 - (f.bias : Int)

/-- Largest finite magnitude as significand and exponent (R19's table, R30's maxf). -/
def FloatFmt.maxFin (f : FloatFmt) : Nat × Int :=
  match f.spec with
  | .ieee => (2 ^ (f.m + 1) - 1, (2 ^ f.e : Nat) - 2 - (f.bias : Int) - f.m)
  | .nanOnly => (2 ^ (f.m + 1) - 2, (2 ^ f.e : Nat) - 1 - (f.bias : Int) - f.m)
  | .finiteOnly => (2 ^ (f.m + 1) - 1, (2 ^ f.e : Nat) - 1 - (f.bias : Int) - f.m)

/-- R18: the value of an encoding. -/
def FloatFmt.decode (f : FloatFmt) (w : Nat) : Num :=
  let s := w / 2 ^ (f.e + f.m) % 2 == 1
  let ex := w / 2 ^ f.m % 2 ^ f.e
  let fr := w % 2 ^ f.m
  if ex = 2 ^ f.e - 1 ∧ f.spec = .ieee then (if fr = 0 then .inf s else .nan)
  else if ex = 2 ^ f.e - 1 ∧ f.spec = .nanOnly ∧ fr = 2 ^ f.m - 1 then .nan
  else if ex = 0 then (if f.sub then .fin s fr (1 - (f.bias : Int) - f.m) else .fin s 0 0)
  else .fin s (2 ^ f.m + fr) ((ex : Int) - f.bias - f.m)

/-- `mag * 2^sh` for a non-negative or negative shift, the second rounding down (used where it is exact). -/
def shiftNat (mag : Nat) (sh : Int) : Nat :=
  if 0 ≤ sh then mag * 2 ^ sh.toNat else mag / 2 ^ (-sh).toNat

/-- floor(log2(num / den)) for nonzero num and den. -/
def floorLog2 (num den : Nat) : Int :=
  let l : Int := (Nat.log2 num : Int) - (Nat.log2 den : Int)
  if (if 0 ≤ l then decide (den * 2 ^ l.toNat ≤ num) else decide (den ≤ num * 2 ^ (-l).toNat)) then l else l - 1

/-- a * 2^ea ≤ b * 2^eb, exactly. -/
def leScaled (a : Nat) (ea : Int) (b : Nat) (eb : Int) : Bool :=
  let e := min ea eb
  decide (a * 2 ^ (ea - e).toNat ≤ b * 2 ^ (eb - e).toNat)

/-- floor(num / den * 2^sh + 1/2): nearest, a tie away from zero (R30). -/
def roundHalfUp (num den : Nat) (sh : Int) : Nat :=
  let n := if 0 ≤ sh then num * 2 ^ sh.toNat else num
  let d := if 0 ≤ sh then den else den * 2 ^ (-sh).toNat
  (2 * n + d) / (2 * d)

/-- R30: the exact value (-1)^neg * num / den * 2^exp rounded to the format, and whether it saturated (R33). -/
def FloatFmt.roundRat (f : FloatFmt) (neg : Bool) (num den : Nat) (exp : Int) : Num × Bool :=
  if num = 0 then (.fin neg 0 0, false) else
  let e0 := floorLog2 num den + exp
  let e1 := if f.sub ∧ e0 < f.emin then f.emin else e0
  let q := e1 - f.m
  let m := roundHalfUp num den (exp - q)
  let mx := f.maxFin
  if ¬ leScaled m q mx.1 mx.2 then (.fin neg mx.1 mx.2, true)
  else if f.sub = false ∧ ¬ leScaled 1 f.emin m q then (.fin neg 0 0, false)
  else (.fin neg m q, false)

/-- The bits of a number the format holds exactly; infinities and NaN as R35 gives them, with its flags. -/
def FloatFmt.encode (f : FloatFmt) (v : Num) : Nat × Flag :=
  let put (neg : Bool) (mag : Nat) (exp : Int) : Nat :=
    let s := if neg then 2 ^ (f.e + f.m) else 0
    if mag = 0 then s else
    let e0 : Int := Nat.log2 mag + exp
    if e0 < f.emin then s + shiftNat mag (exp - (f.emin - f.m))
    else s + (e0 + f.bias).toNat * 2 ^ f.m + (shiftNat mag ((f.m : Int) - Nat.log2 mag) - 2 ^ f.m)
  match v with
  | .fin neg mag exp => (put neg mag exp, .clear)
  | .inf neg =>
    if f.spec = .ieee then ((if neg then 2 ^ (f.e + f.m) else 0) + (2 ^ f.e - 1) * 2 ^ f.m, ⟨false, true⟩)
    else (put neg f.maxFin.1 f.maxFin.2, ⟨true, true⟩)
  | .nan =>
    if f.spec = .ieee then ((2 ^ f.e - 1) * 2 ^ f.m + 2 ^ (f.m - 1), ⟨false, true⟩)
    else ((2 ^ f.e - 1) * 2 ^ f.m + (2 ^ f.m - 1), ⟨false, true⟩)

/-- A number rounded into the format (R30, R35), with SAT and NONFINITE. -/
def FloatFmt.round (f : FloatFmt) (v : Num) : Num × Flag :=
  match v with
  | .fin neg mag exp => let r := f.roundRat neg mag 1 exp; (r.1, ⟨r.2, false⟩)
  | .inf neg => if f.spec = .ieee then (.inf neg, ⟨false, true⟩) else (.fin neg f.maxFin.1 f.maxFin.2, ⟨true, true⟩)
  | .nan => (.nan, ⟨false, true⟩)

/-- A number rounded and encoded. -/
def FloatFmt.toBits (f : FloatFmt) (v : Num) : Nat × Flag :=
  let r := f.round v
  ((f.encode r.1).1, r.2)

/-- Is the number finite? -/
def Num.isFin : Num → Bool
  | .fin _ _ _ => true
  | _ => false

/-- Is the number a zero of either sign? -/
def Num.isZero : Num → Bool
  | .fin _ 0 _ => true
  | _ => false

/-- Exact negation. -/
def Num.neg : Num → Num
  | .nan => .nan
  | .inf s => .inf (!s)
  | .fin s m e => .fin (!s) m e

/-- Exact sum (R32, R34): opposite infinities give NaN; a zero sum is + unless both addends are negative. -/
def Num.add : Num → Num → Num
  | .nan, _ => .nan
  | _, .nan => .nan
  | .inf a, .inf b => if a = b then .inf a else .nan
  | .inf a, .fin _ _ _ => .inf a
  | .fin _ _ _, .inf b => .inf b
  | .fin sa ma ea, .fin sb mb eb =>
    let e := min ea eb
    let ia : Int := (if sa then -1 else 1) * ((ma * 2 ^ (ea - e).toNat : Nat) : Int)
    let ib : Int := (if sb then -1 else 1) * ((mb * 2 ^ (eb - e).toNat : Nat) : Int)
    let r := ia + ib
    if r = 0 then .fin (sa && sb) 0 0 else .fin (decide (r < 0)) r.natAbs e

/-- Exact product (R26, R32, R34): infinity times zero is NaN. -/
def Num.mul : Num → Num → Num
  | .nan, _ => .nan
  | _, .nan => .nan
  | .inf a, .inf b => .inf (a != b)
  | .inf a, .fin b m _ => if m = 0 then .nan else .inf (a != b)
  | .fin a m _, .inf b => if m = 0 then .nan else .inf (a != b)
  | .fin a ma ea, .fin b mb eb => .fin (a != b) (ma * mb) (ea + eb)

/-- a < b on numbers, NaN excluded; -0 below +0 (R71, R72). -/
def Num.lt : Num → Num → Bool
  | .nan, _ => false
  | _, .nan => false
  | .inf a, .inf b => a && !b
  | .inf a, .fin _ _ _ => a
  | .fin _ _ _, .inf b => !b
  | .fin sa ma ea, .fin sb mb eb =>
    if ma = 0 ∧ mb = 0 then sa && !sb
    else if sa && !sb then true
    else if !sa && sb then false
    else if sa then !leScaled ma ea mb eb
    else !leScaled mb eb ma ea

/-- FP32 bits as a number. -/
def ofF32 (w : BitVec 32) : Num := fmtFP32.decode w.toNat

/-- A number rounded to FP32 bits (R30). -/
def toF32 (v : Num) : BitVec 32 × Flag :=
  let r := fmtFP32.toBits v
  (BitVec.ofNat 32 r.1, r.2)

/-- A Clamp element: FP32 sum in the low half, FP32 compensation in the high half (R28). -/
abbrev W64 := BitVec 64

def W64.mk (s c : BitVec 32) : W64 := c ++ s
def W64.sum (x : W64) : BitVec 32 := x.extractLsb' 0 32
def W64.comp (x : W64) : BitVec 32 := x.extractLsb' 32 32

/-- R77, R78: compensated addition of an FP32 value into a Clamp element. -/
def clampAdd (a : W64) (x : BitVec 32) : W64 × Flag :=
  let s := ofF32 a.sum
  let c := ofF32 a.comp
  let v := ofF32 x
  if ¬ (s.isFin ∧ c.isFin ∧ v.isFin) then
    (W64.mk (toF32 ((s.add c).add v)).1 0#32, ⟨false, true⟩)
  else
    let t := fmtFP32.round (s.add v)
    let top (r : Num) : W64 × Flag := (W64.mk (toF32 r).1 0#32, ⟨true, false⟩)
    if t.2.sat then top t.1 else
    let e := (s.add v).add t.1.neg
    let w := fmtFP32.round (c.add e)
    if w.2.sat then top w.1 else
    let s2 := fmtFP32.round (t.1.add w.1)
    if s2.2.sat then top s2.1 else
    let c2 := if s2.1.isZero then 0#32 else (toF32 ((t.1.add w.1).add s2.1.neg)).1
    (W64.mk (toF32 s2.1).1 c2, .clear)

/-- The value of a Clamp or W64 element (R28). -/
def W64.value (a : W64) : Num :=
  let s := ofF32 a.sum
  let c := ofF32 a.comp
  match s, c with
  | .nan, _ => .nan
  | _, .nan => .nan
  | .inf b, _ => .inf b
  | _, .inf b => .inf b
  | s, c => s.add c

/-- R79: a W64 pair, normalised or not, as it is loaded. -/
def loadPair (a : W64) : W64 × Flag :=
  let r1 := clampAdd 0#64 a.sum
  let r2 := clampAdd r1.1 a.comp
  (r2.1, r1.2.or r2.2)

/-- R31: conversion to an integer code of n bits with scale and zero point; the code and how it clipped
(none, low, high). A NaN gives z (R35). -/
inductive Clip where
  | none
  | low
  | high
  deriving DecidableEq, Repr

def toCode (n : Nat) (scale : Num) (z : Nat) (v : Num) : Nat × Clip :=
  let top := 2 ^ n - 1
  match v, scale with
  | .nan, _ => (z, .none)
  | .inf true, _ => (0, .low)
  | .inf false, _ => (top, .high)
  | .fin s m e, .fin _ sm se =>
    if sm = 0 then (z, .none) else
    let r := roundHalfUp m sm (e - se)
    let q : Int := if s then (z : Int) - r else (z : Int) + r
    if q < 0 then (0, .low) else if (top : Int) < q then (top, .high) else (q.toNat, .none)
  | .fin _ _ _, _ => (z, .none)

/-- An integer as a number. -/
def Num.ofInt (i : Int) : Num := .fin (decide (i < 0)) i.natAbs 0

/-- An optional addition where an absent value enters no sum (R66). -/
def addAbsent (round : Num → Num × Flag) : Option Num → Option Num → Option Num × Flag
  | none, b => (b, .clear)
  | a, none => (a, .clear)
  | some a, some b => let r := round (a.add b); (some r.1, r.2)

/-- One level of the fixed pairwise tree (R81): node j adds inputs 2j and 2j + 1. -/
def treeLevel (node : Option Num → Option Num → Option Num × Flag) : List (Option Num) → List (Option Num) × Flag
  | [] => ([], .clear)
  | [a] => let r := node a none; ([r.1], r.2)
  | a :: b :: t =>
    let r := node a b
    let rest := treeLevel node t
    (r.1 :: rest.1, r.2.or rest.2)

/-- `levels` levels of the tree, down to its first node. -/
def treeSum (node : Option Num → Option Num → Option Num × Flag) : Nat → List (Option Num) → Option Num × Flag
  | 0, l => (l.headD none, .clear)
  | n + 1, l =>
    let r := treeLevel node l
    let rest := treeSum node n r.1
    (rest.1, r.2.or rest.2)

/-- A node of the lane adder tree: T25 (R81). -/
def nodeT25 : Option Num → Option Num → Option Num × Flag := addAbsent fmtT25.round

/-- R76: one accumulation into an A20 bank, the first being a write. -/
def accA20 (acc : Option Num) (p : Num) : Num × Flag :=
  match acc with
  | none => fmtA20.round p
  | some a => fmtA20.round (a.add p)

/-- R76: an interval sum over its products in order. -/
def intervalSum : Option Num → List Num → Option Num × Flag
  | acc, [] => (acc, .clear)
  | acc, p :: t =>
    let r := accA20 acc p
    let rest := intervalSum (some r.1) t
    (rest.1, r.2.or rest.2)

end Sys2Proof.Machine
end

