-- ==== Sys2Proof/Machine/Crypto.lean ====
section
/-! DEFINITION. The standard algorithms the manual names: CRC-32 (R183), CRC-64 (R278), SHA-384 and ECDSA P-384 (R337, R340),
AES-256-GCM (R295). The manual gives the CRCs' parameters; the other three are PRESUMED from their public standards (log 7). -/

namespace Sys2Proof.Machine

/-- One bit step of the reflected CRC-32. -/
def crc32Bits : Nat → Nat → Nat
  | 0, c => c
  | n + 1, c => crc32Bits n (if c % 2 = 1 then (c / 2) ^^^ 0xEDB88320 else c / 2)

/-- R183: CRC-32 of the IEEE 802.3 frame check sequence. -/
def crc32 (bytes : List Byte) : BitVec 32 :=
  BitVec.ofNat 32 ((bytes.foldl (fun c b => crc32Bits 8 (c ^^^ b.toNat)) 0xFFFFFFFF) ^^^ 0xFFFFFFFF)

/-- One bit step of CRC-64, most significant bit first. -/
def crc64Bits : Nat → Nat → Nat
  | 0, c => c
  | n + 1, c =>
    crc64Bits n (if c / 2 ^ 63 % 2 = 1 then (c * 2 % 2 ^ 64) ^^^ 0x42F0E1EBA9EA3693 else c * 2 % 2 ^ 64)

/-- R278: CRC-64 ECMA-182 continued from a digest over more bytes. -/
def crc64 (start : BitVec 64) (bytes : List Byte) : BitVec 64 :=
  BitVec.ofNat 64 (bytes.foldl (fun c b => crc64Bits 8 (c ^^^ (b.toNat * 2 ^ 56))) start.toNat)

/-! ### SHA-384 -/

def shaK0 : List Nat :=
  [0x428A2F98D728AE22, 0x7137449123EF65CD, 0xB5C0FBCFEC4D3B2F, 0xE9B5DBA58189DBBC,
   0x3956C25BF348B538, 0x59F111F1B605D019, 0x923F82A4AF194F9B, 0xAB1C5ED5DA6D8118,
   0xD807AA98A3030242, 0x12835B0145706FBE, 0x243185BE4EE4B28C, 0x550C7DC3D5FFB4E2,
   0x72BE5D74F27B896F, 0x80DEB1FE3B1696B1, 0x9BDC06A725C71235, 0xC19BF174CF692694,
   0xE49B69C19EF14AD2, 0xEFBE4786384F25E3, 0x0FC19DC68B8CD5B5, 0x240CA1CC77AC9C65,
   0x2DE92C6F592B0275, 0x4A7484AA6EA6E483, 0x5CB0A9DCBD41FBD4, 0x76F988DA831153B5,
   0x983E5152EE66DFAB, 0xA831C66D2DB43210, 0xB00327C898FB213F, 0xBF597FC7BEEF0EE4,
   0xC6E00BF33DA88FC2, 0xD5A79147930AA725, 0x06CA6351E003826F, 0x142929670A0E6E70,
   0x27B70A8546D22FFC, 0x2E1B21385C26C926, 0x4D2C6DFC5AC42AED, 0x53380D139D95B3DF,
   0x650A73548BAF63DE, 0x766A0ABB3C77B2A8, 0x81C2C92E47EDAEE6, 0x92722C851482353B]

def shaK1 : List Nat :=
  [0xA2BFE8A14CF10364, 0xA81A664BBC423001, 0xC24B8B70D0F89791, 0xC76C51A30654BE30,
   0xD192E819D6EF5218, 0xD69906245565A910, 0xF40E35855771202A, 0x106AA07032BBD1B8,
   0x19A4C116B8D2D0C8, 0x1E376C085141AB53, 0x2748774CDF8EEB99, 0x34B0BCB5E19B48A8,
   0x391C0CB3C5C95A63, 0x4ED8AA4AE3418ACB, 0x5B9CCA4F7763E373, 0x682E6FF3D6B2B8A3,
   0x748F82EE5DEFB2FC, 0x78A5636F43172F60, 0x84C87814A1F0AB72, 0x8CC702081A6439EC,
   0x90BEFFFA23631E28, 0xA4506CEBDE82BDE9, 0xBEF9A3F7B2C67915, 0xC67178F2E372532B,
   0xCA273ECEEA26619C, 0xD186B8C721C0C207, 0xEADA7DD6CDE0EB1E, 0xF57D4F7FEE6ED178,
   0x06F067AA72176FBA, 0x0A637DC5A2C898A6, 0x113F9804BEF90DAE, 0x1B710B35131C471B,
   0x28DB77F523047D84, 0x32CAAB7B40C72493, 0x3C9EBE0A15C9BEBC, 0x431D67C49C100D4C,
   0x4CC5D4BECB3E42B6, 0x597F299CFC657E2A, 0x5FCB6FAB3AD6FAEC, 0x6C44198C4A475817]

def shaH : List Nat :=
  [0xCBBB9D5DC1059ED8, 0x629A292A367CD507, 0x9159015A3070DD17, 0x152FECD8F70E5939,
   0x67332667FFC00B31, 0x8EB44A8768581511, 0xDB0C2E0D64F98FA7, 0x47B5481DBEFA4FA4]

def rot64 (x n : Nat) : Nat := (x / 2 ^ n + x % 2 ^ n * 2 ^ (64 - n)) % 2 ^ 64

/-- Big-endian number of bytes. -/
def ofBeBytes (l : List Byte) : Nat := l.foldl (fun a b => a * 256 + b.toNat) 0

/-- Big-endian bytes of a number. -/
def beBytes (n x : Nat) : List Byte := (leBytes n x).reverse

/-- The message schedule, newest word first. -/
def shaSchedule : Nat → List Nat → List Nat
  | 0, w => w
  | n + 1, w =>
    let a := w.getD 14 0
    let b := w.getD 1 0
    let s0 := rot64 a 1 ^^^ rot64 a 8 ^^^ (a / 2 ^ 7)
    let s1 := rot64 b 19 ^^^ rot64 b 61 ^^^ (b / 2 ^ 6)
    shaSchedule n ((w.getD 15 0 + s0 + w.getD 6 0 + s1) % 2 ^ 64 :: w)

/-- One round over the eight working words. -/
def shaRound (st : List Nat) (kw : Nat) : List Nat :=
  match st with
  | [a, b, c, d, e, f, g, h] =>
    let s1 := rot64 e 14 ^^^ rot64 e 18 ^^^ rot64 e 41
    let ch := (e &&& f) ^^^ ((2 ^ 64 - 1 - e) &&& g)
    let t1 := (h + s1 + ch + kw) % 2 ^ 64
    let s0 := rot64 a 28 ^^^ rot64 a 34 ^^^ rot64 a 39
    let mj := (a &&& b) ^^^ (a &&& c) ^^^ (b &&& c)
    [(t1 + s0 + mj) % 2 ^ 64, a, b, c, (d + t1) % 2 ^ 64, e, f, g]
  | l => l

def shaBlock (h : List Nat) (blk : List Byte) : List Nat :=
  let w := ((chunks 8 16 blk).map ofBeBytes).reverse
  let ws := (shaSchedule 64 w).reverse
  let st := (List.zipWith (· + ·) (shaK0 ++ shaK1) ws).foldl shaRound h
  List.zipWith (fun x y => (x + y) % 2 ^ 64) h st

/-- SHA-384 of a byte string, as a 384-bit number. -/
def sha384 (msg : List Byte) : BitVec 384 :=
  let n := msg.length
  let padded := msg ++ [0x80#8] ++ List.replicate ((239 - n % 128) % 128) 0#8 ++ beBytes 16 (8 * n)
  let h := (chunks 128 (n / 128 + 3) padded).foldl shaBlock shaH
  BitVec.ofNat 384 ((h.take 6).foldl (fun a x => a * 2 ^ 64 + x) 0)

/-! ### ECDSA over P-384 -/

def p384 : Nat := 2 ^ 384 - 2 ^ 128 - 2 ^ 96 + 2 ^ 32 - 1
def p384n : Nat := 0xFFFFFFFFFFFFFFFFFFFFFFFFFFFFFFFFFFFFFFFFFFFFFFFFC7634D81F4372DDF581A0DB248B0A77AECEC196ACCC52973
def p384b : Nat := 0xB3312FA7E23EE7E4988E056BE3F82D19181D9C6EFE8141120314088F5013875AC656398D8A2ED19D2A85C8EDD3EC2AEF
def p384gx : Nat := 0xAA87CA22BE8B05378EB1C71EF320AD746E1D3B628BA79B9859F741E082542A385502F25DBF55296C3A545E3872760AB7
def p384gy : Nat := 0x3617DE4A96262C6F5D9E98BF9292DC29F8F41DBD289A147CE9DA3113B5F0B8C00A60B1CE1D7E819D7A431D7C90EA0E5F

/-- b^e mod m over the lowest `bits` bits of e. -/
def powMod (m b : Nat) : Nat → Nat → Nat
  | 0, _ => 1 % m
  | bits + 1, e =>
    let r := powMod m (b * b % m) bits (e / 2)
    if e % 2 = 1 then b * r % m else r

def invMod (m a : Nat) : Nat := powMod m (a % m) 384 (m - 2)

/-- Point addition on P-384; none is the point at infinity. -/
def ecAdd : Option (Nat × Nat) → Option (Nat × Nat) → Option (Nat × Nat)
  | none, q => q
  | p, none => p
  | some (x1, y1), some (x2, y2) =>
    if x1 = x2 ∧ (y1 + y2) % p384 = 0 then none else
    let l := if x1 = x2 then (3 * x1 * x1 + (p384 - 3)) * invMod p384 (2 * y1) % p384
      else (y2 + p384 - y1) * invMod p384 (x2 + p384 - x1) % p384
    let x := (l * l + 2 * p384 - x1 - x2) % p384
    some (x, (l * (x1 + p384 - x) + p384 - y1) % p384)

def ecMul : Nat → Nat → Option (Nat × Nat) → Option (Nat × Nat)
  | 0, _, _ => none
  | bits + 1, k, p =>
    let r := ecMul bits (k / 2) (ecAdd p p)
    if k % 2 = 1 then ecAdd p r else r

/-- ECDSA P-384 verification of a digest, the key given uncompressed (0x04, x, y). -/
def ecdsaVerify (key : BitVec 776) (r s : Nat) (digest : BitVec 384) : Bool :=
  let x := fld key 384 384
  let y := fld key 0 384
  if fld key 768 8 ≠ 4 ∨ p384 ≤ x ∨ p384 ≤ y ∨ (y * y) % p384 ≠ (x * x * x + (p384 - 3) * x + p384b) % p384 then false
  else if r = 0 ∨ s = 0 ∨ p384n ≤ r ∨ p384n ≤ s then false
  else
    let w := invMod p384n s
    match ecAdd (ecMul 384 (digest.toNat * w % p384n) (some (p384gx, p384gy))) (ecMul 384 (r * w % p384n) (some (x, y))) with
    | none => false
    | some (vx, _) => vx % p384n == r

/-- The 97 bytes of a key in the order they are shifted or stored, first byte most significant. -/
def keyBytes (key : BitVec 776) : List Byte := beBytes 97 key.toNat

/-! ### AES-256-GCM -/

/-- Multiplication in GF(2^8), over the lowest `n` bits of the second factor. -/
def gf8Mul : Nat → Nat → Nat → Nat
  | 0, _, _ => 0
  | n + 1, a, b =>
    (if b % 2 = 1 then a else 0) ^^^ gf8Mul n (if a ≥ 128 then (a * 2 % 256) ^^^ 0x1B else a * 2) (b / 2)

def gf8Sq (a : Nat) : Nat := gf8Mul 8 a a

/-- The multiplicative inverse x^254. -/
def gf8Inv (x : Nat) : Nat :=
  let x2 := gf8Sq x
  let x4 := gf8Sq x2
  let x8 := gf8Sq x4
  let x16 := gf8Sq x8
  let x32 := gf8Sq x16
  let x64 := gf8Sq x32
  let x128 := gf8Sq x64
  let m := gf8Mul 8
  m x128 (m x64 (m x32 (m x16 (m x8 (m x4 x2)))))

def rotl8 (x n : Nat) : Nat := (x * 2 ^ n + x / 2 ^ (8 - n)) % 256

/-- The AES substitution box. -/
def aesSbox (x : Nat) : Nat :=
  let i := gf8Inv x
  i ^^^ rotl8 i 1 ^^^ rotl8 i 2 ^^^ rotl8 i 3 ^^^ rotl8 i 4 ^^^ 0x63

/-- The round constant 2^k of GF(2^8). -/
def gf8Pow2 : Nat → Nat
  | 0 => 1
  | k + 1 => gf8Mul 8 (gf8Pow2 k) 2

/-- Key expansion of a 32-byte key: words newest first. -/
def aesExpand : Nat → Nat → List (List Nat) → List (List Nat)
  | 0, _, ws => ws
  | n + 1, i, ws =>
    let prev := ws.getD 0 []
    let back := ws.getD 7 []
    let t := if i % 8 = 0 then
        match prev with
        | [a, b, c, d] => [aesSbox b ^^^ gf8Pow2 (i / 8 - 1), aesSbox c, aesSbox d, aesSbox a]
        | l => l
      else if i % 8 = 4 then prev.map aesSbox else prev
    aesExpand n (i + 1) (List.zipWith (· ^^^ ·) back t :: ws)

/-- The 15 round keys of 16 bytes. -/
def aesKeys (key : List Nat) : List (List Nat) :=
  chunks 16 15 ((aesExpand 52 8 (chunks 4 8 key).reverse).reverse.flatten)

def aesShift (s : List Nat) : List Nat :=
  (upFrom 0 16).map (fun i => s.getD ((i + 4 * (i % 4)) % 16) 0)

def aesMix (s : List Nat) : List Nat :=
  ((chunks 4 4 s).map (fun col =>
    match col with
    | [a, b, c, d] =>
      let m := gf8Mul 8
      [m a 2 ^^^ m b 3 ^^^ c ^^^ d, a ^^^ m b 2 ^^^ m c 3 ^^^ d, a ^^^ b ^^^ m c 2 ^^^ m d 3, m a 3 ^^^ b ^^^ c ^^^ m d 2]
    | l => l)).flatten

def aesRounds : List (List Nat) → List Nat → List Nat
  | [], s => s
  | [k], s => List.zipWith (· ^^^ ·) (aesShift (s.map aesSbox)) k
  | k :: ks, s => aesRounds ks (List.zipWith (· ^^^ ·) (aesMix (aesShift (s.map aesSbox))) k)

/-- One AES-256 block. -/
def aesBlock (keys : List (List Nat)) (blk : List Nat) : List Nat :=
  aesRounds keys.tail (List.zipWith (· ^^^ ·) blk (keys.headD []))

/-- Multiplication in GF(2^128), bit 127 being the polynomial's constant term (GCM's order). -/
def ghashMul : Nat → Nat → Nat → Nat → Nat
  | 0, _, _, z => z
  | n + 1, x, v, z =>
    ghashMul n x (if v % 2 = 1 then (v / 2) ^^^ (0xE1 * 2 ^ 120) else v / 2) (if x / 2 ^ n % 2 = 1 then z ^^^ v else z)

def natOfBe (l : List Nat) : Nat := l.foldl (fun a b => a * 256 + b) 0
def beOfNat (n x : Nat) : List Nat := (beBytes n x).map BitVec.toNat

def pad16 (l : List Nat) : List Nat := l ++ List.replicate ((16 - l.length % 16) % 16) 0

def ghash (h : Nat) (data : List Nat) : Nat :=
  (chunks 16 (data.length / 16 + 1) data).foldl (fun y b => ghashMul 128 (y ^^^ natOfBe b) h 0) 0

/-- The CTR key stream over the data, counter blocks from `ctr`. -/
def gcmCtr (keys : List (List Nat)) (iv : List Nat) : Nat → List (List Nat) → List Nat
  | _, [] => []
  | ctr, b :: t => List.zipWith (· ^^^ ·) b (aesBlock keys (iv ++ beOfNat 4 ctr)) ++ gcmCtr keys iv (ctr + 1) t

def gcmTag (keys : List (List Nat)) (iv aad cipher : List Nat) : List Nat :=
  let h := natOfBe (aesBlock keys (List.replicate 16 0))
  let s := ghash h (pad16 aad ++ pad16 cipher ++ beOfNat 8 (8 * aad.length) ++ beOfNat 8 (8 * cipher.length))
  List.zipWith (· ^^^ ·) (beOfNat 16 s) (aesBlock keys (iv ++ [0, 0, 0, 1]))

/-- R295: AES-256-GCM encryption; ciphertext and 16-byte tag. The key's byte 0 is its bits [7:0] (R4). -/
def gcmSeal (key : BitVec 256) (iv aad plain : List Byte) : List Byte × List Byte :=
  let nat := fun (l : List Byte) => l.map BitVec.toNat
  let ks := aesKeys (nat (leBytes 32 key.toNat))
  let c := gcmCtr ks (nat iv) 2 (chunks 16 (plain.length / 16 + 1) (nat plain))
  (c.map (BitVec.ofNat 8), (gcmTag ks (nat iv) (nat aad) c).map (BitVec.ofNat 8))

/-- R296: AES-256-GCM decryption; none when the tag does not verify. -/
def gcmOpen (key : BitVec 256) (iv aad cipher tag : List Byte) : Option (List Byte) :=
  let nat := fun (l : List Byte) => l.map BitVec.toNat
  let ks := aesKeys (nat (leBytes 32 key.toNat))
  if gcmTag ks (nat iv) (nat aad) (nat cipher) = nat tag then
    some ((gcmCtr ks (nat iv) 2 (chunks 16 (cipher.length / 16 + 1) (nat cipher))).map (BitVec.ofNat 8))
  else none

end Sys2Proof.Machine
end

