-- ==== Sys2Proof/Config.lean ====
section
/-! DEFINITION. What one manufactured engine fixes (fuses) and the free values: values the manual leaves open.
Every constant here is opaque, so no proof can use a value of it (log 4, log 6). -/

namespace Sys2Proof.Config

/-- The fuse field UNIQUE_ID (R340, R361). -/
opaque uniqueId : BitVec 64

/-- The fuse DEBUG_LOCK: true when blown (R339). -/
opaque debugLock : Bool

/-- The fuse field DEBUG_KEY_HASH, a SHA-384 digest (R340). -/
opaque debugKeyHash : BitVec 384

/-- The fuse field FW_KEY_HASH, a SHA-384 digest (R337). -/
opaque fwKeyHash : BitVec 384

/-- The number of bits of the fuse field FW_SVN blown when the engine first leaves reset, 0 to 32 (R337). -/
opaque fwSvnFuse : Fin 33

/-- FREE VALUE: the engine's random source (R295, R340), draw number n. -/
opaque random : Nat → BitVec 256

/-- FREE VALUE: which stall causes hold in EC n beyond those the model's state decides (R343), one bit a cause. -/
opaque stallCauses : Nat → BitVec 16

/-- FREE VALUE: EC without packets, bits the model does not derive, draw number n. -/
opaque freeWord : Nat → BitVec 32

/-- FREE VALUE: where a management service word lies inside its service's range, word number n (R347). -/
opaque mgmtWord : Nat → BitVec 8

/-- FREE VALUE: the IEEE 1149.1 IDCODE, which the spec does not give (R339). -/
opaque idcode : BitVec 32

end Sys2Proof.Config
end

