-- ==== Sys2Proof/Machine/State.lean ====
section
/-! DEFINITION. The state of the engine as plain data, and the state right after reset. -/

namespace Sys2Proof.Machine

/-- No meaning ever faults: the engine reports its errors in replies, records and the error log (R208, R199, R328).
The one constructor exists so that the interface has a type with a name; nothing raises it (safe). -/
inductive Fault where
  | never
  deriving DecidableEq, Repr

/-- `notModelled`: an instruction with no meaning yet, named by its mnemonic; raised only by a refused arm (safe). -/
inductive Refusal where
  | notModelled (mnemonic : String)
  deriving DecidableEq, Repr

/-- A byte memory: sparse, canonical, an unlisted address reading as 0 (log 3). -/
abbrev Memory := List Host.Cell

/-- The byte at an address. -/
def Memory.read (m : Memory) (a : Nat) : Byte := Tbl.get 0#8 m a

/-- Store one byte. -/
def Memory.write (m : Memory) (a : Nat) (b : Byte) : Memory := Tbl.put 0#8 m a b

/-- Canonical form: addresses strictly rising, no entry equal to what an unlisted address reads as. -/
def Memory.wf (m : Memory) : Bool := Tbl.wf 0#8 m

/-! ### Commands and contexts (10) -/

/-- The fields of a status reply that its command decides (R197). -/
structure Reply where
  status : Byte
  fieldSpace : BitVec 2
  fieldBit : BitVec 10
  entry : BitVec 16
  rng : Bool
  acc : Word
  result0 : Word
  result1 : Word
  result2 : Word
  lost : Word
  deriving DecidableEq, Repr

/-- A rescale table's header and entries as a command bound them (R124); `mine` is true where its context owned it then. -/
structure BoundTable where
  number : Fin 8
  mine : Bool
  hdr : BitVec 512
  entries : Tbl (BitVec 64)
  deriving DecidableEq, Repr

/-- One tile of a product command (R219): its destination rows in lane order, columns, segment and jig position. -/
structure TileSpec where
  rows : List Nat
  col0 : Nat
  cols : Nat
  rowOfs : Nat
  seg : Nat
  pos : Nat
  deriving DecidableEq, Repr

/-- Where a tile in progress stands (R98, R155): `drain` once its last interval has been filled (R191). -/
inductive TilePhase where
  | fresh
  | preload
  | run
  | drain
  | segDone
  | segMerge
  | mergeAdd
  | writeBack
  deriving DecidableEq, Repr

/-- A tile in progress with its committed-beat cursor (R45, R155, R216): its number, slot, the bank its first interval takes,
the intervals filled and committed, the next row, NEXT_POS, and the word its record will hold; `early` when its prologue overlaps an
epilogue (R191, R238); when its preload or its write-back row in progress began (R239); its freeze mask once it has been read (R111). -/
structure TileRun where
  tile : Nat
  phase : TilePhase
  slot : Nat
  resident : Bool
  firstB : Bool
  filled : Nat
  committed : Nat
  row : Nat
  nextPos : Nat
  recWord : Word
  early : Bool
  begun : Option Nat := none
  mask : Option (List Byte) := none
  deriving DecidableEq, Repr

/-- A product command in progress: what it bound, its tiling, and the tiles in progress in tiling order (R155, R216). `mine` lists
the resident slots it holds ACTIVE, `next` is the first tile not in progress yet, `lane0` its first lane in a J128C tile and
`lead` the sequence number of that tile's first member, `early` when it started in an earlier command's epilogue (R191), `wbFrom` the rows of the first tile in progress
that were written back before an export, `restored` the NEXT_POS that came with an image in which no tile was open (R138). -/
structure ProdJob where
  dW : Bool
  jig : Nat
  split : Nat
  interval : Nat
  eight : Bool
  opaTab : Option BoundTable
  dyTab : Option BoundTable
  dstTab : Option BoundTable
  tiles : List TileSpec
  next : Nat
  runs : List TileRun
  mine : List Nat
  lane0 : Nat
  lead : Word
  early : Bool
  acc : Word
  computed : Nat
  residentTiles : Nat
  records : Nat
  lost : Nat
  wrote : Bool
  hdrMax : Nat
  hdrFlags : Word
  rng : Bool
  wbFrom : Nat
  restored : Option Nat := none
  deriving DecidableEq, Repr

/-- A window of a GATHER_ACC whose writes are not all acknowledged: what it adds to the counts when it commits (R177). -/
structure GatherWin where
  pass : Nat
  win : Nat
  neg : Nat
  oob : Nat
  valid : Bool
  flags : Nat
  start : Nat
  raw : Nat
  deriving DecidableEq, Repr

/-- A GATHER_ACC in progress: the next window to start (`ended` past the last), the windows in flight, the committed counts. -/
structure GatherJob where
  pass : Nat
  win : Nat
  ended : Bool
  flying : List GatherWin
  neg : Nat
  oob : Nat
  used : Nat
  acc : Word
  deriving DecidableEq, Repr

/-- A header update a command owes (R107, R178): ADD or REPLACE, count, flags, write-backs to add. -/
structure HdrUpd where
  desc : Nat
  stream : Nat
  add : Bool
  count : Nat
  flags : Word
  wbs : Nat
  zero : Bool
  deriving DecidableEq, Repr

/-- The progress of a started command. A copy holds what its read phase staged, or what is left of the block it has read (R166, R169). -/
inductive Work where
  | product (j : ProdJob)
  | reduceRows (row : Nat) (acc : Word) (tab dtab : Option BoundTable) (early : Bool)
  | load (slot : Nat) (row : Nat) (begun : Option Nat)
  | store (slot : Nat) (row : Nat) (written : Nat) (flags : Nat) (tab : Option BoundTable) (mask : Option (List Byte))
  | zeroTensor (row : Nat)
  | copy (unit : Nat) (staged block : List Nat)
  | gather (g : GatherJob)
  | send (next : Nat)
  | recv (got elems : Nat) (minContrib maxRounds backups omitted : Nat) (sat nf : Bool)
  | waitCounter (last : BitVec 64) (seen : Option Nat) (boundaries : Nat) (ok : Bool) (timed : Bool)
  | closing (posted : Bool)
  | epochWait (watchBase watchPages slots : Nat)
  | exporting (due opens : Bool) (shot : Option (Nat × List Byte))
  | assume (since : Nat)
  | bist
  deriving DecidableEq, Repr

/-- Where a command stands. -/
inductive Phase where
  | queued
  | running (w : Work)
  | header (u : HdrUpd) (r : Reply)
  | finished (r : Reply)
  deriving DecidableEq, Repr

/-- An entry of the TLB: a page, its translation, and which of the 256 places it stands in (R152, R317). -/
structure TlbEntry where
  page : Nat
  xlat : Xlat
  place : Nat
  deriving DecidableEq, Repr

/-- An admitted command (R196): its packet, the custom format entries it bound (R24), the rescale tables it bound that have been
loaded again since (R124), its ring index and CMD_TAIL at its admission (R206), its phase, the faults it took, and the descriptor
image that a DESC_CREATE read as part of its admission (R141). -/
structure Cmd where
  pkt : BitVec 512
  fmts : Vector Word 8
  tabs : List BoundTable
  ringAt : Word
  tailAt : Word
  phase : Phase
  faults : Nat
  img : Option (BitVec 1024)
  deriving DecidableEq, Repr

/-- What an access demands of its page, and a fault it took: the fields of a PAGE_FAULT record (R157, R159). -/
structure FaultRec where
  vaddr : Nat
  desc : Nat
  read : Bool
  write : Bool
  perm : Bool
  noDesc : Bool
  header : Bool
  seq : BitVec 16
  stream : Nat
  faults : Nat
  guard : Bool
  deriving DecidableEq, Repr

/-- An event record not yet written: kind, payload, the tick of its event and its EVENT_SEQ (R199, R200). With `room` its entry
and its LOST are settled and only its page's walk is awaited; else it is held for ring space. -/
structure EventRec where
  room : Option (BitVec 16)
  kind : Byte
  payload : BitVec 128
  tick : Word
  seq : Word
  deriving DecidableEq, Repr

/-- A unit of the pre-image journal (R113, R115). -/
structure Unit where
  kind : Nat
  desc : Nat
  feat : Nat
  row : Nat
  col : Nat
  deriving DecidableEq, Repr

/-- A touch-table entry (R115). -/
structure Touch where
  ctx : CtxNo
  unit : Unit
  deriving DecidableEq, Repr

/-- The guard of a task (R250): latch 0 none, 1 COMMIT, 2 DISCARD. -/
structure Guard where
  addr : Nat
  region : Nat
  commitVal : Word
  discardVal : Word
  latch : Nat
  last : Word
  faults : Nat
  reading : Bool
  deriving DecidableEq, Repr

/-- An open task with its journal header (R113 to R116). -/
structure Task where
  journal : Nat
  seq : Word
  used : Nat
  capacity : Nat
  entries : Nat
  unguarded : Nat
  part : Bool
  firstSeq : BitVec 16
  first : Unit
  guard : Option Guard
  present : List Nat
  words : List (Nat × Word)
  seen : List Unit
  deriving DecidableEq, Repr

/-- A slice beside the lane bank (R237): its command, the units still admitted, and when the unit in progress began. -/
structure StreamRun where
  seq : Word
  left : Nat
  begun : Option Nat
  deriving DecidableEq, Repr

/-- Context states (R207). -/
inductive CtxState where
  | disabled
  | running
  | parked
  | stopped
  deriving DecidableEq, Repr

/-- A hardware context: its register block (R361, R365), its admitted commands, held records, task and counters. -/
structure Context where
  cfg : Word
  state : CtxState
  resetting : Bool
  ringFault : Bool
  doorbellErr : Bool
  cfgErr : Bool
  ctrlIgn : Bool
  headErr : Bool
  parkCause : BitVec 2
  bound : Bool
  key : Fin 16
  lost : BitVec 16
  cmdBase : BitVec 48
  cplBase : BitVec 48
  cmdHead : Word
  cmdTail : Word
  cplTail : Word
  cplHead : Word
  expSeq : Word
  eventSeq : Word
  oobSilent : Word
  idxNeg : Word
  idxOob : Word
  adj : Byte
  slices : Word
  cuts : Word
  overruns : Word
  heldTicks : Word
  bubbles : Word
  overrunEc : BitVec 48
  maxOverrun : BitVec 16
  cmds : List Cmd
  held : List EventRec
  task : Option Task
  early : Bool
  xlats : List (Nat × Xlat)
  fault : Option FaultRec
  faultAt : Nat
  wantUnit : Option Unit
  wantPage : Option Nat
  wantSeq : Word
  settled : Bool
  sumActual : Nat
  sumRaw : Nat
  unitsDone : Nat
  laneDone : Bool
  slicedTick : Bool
  stream : Option StreamRun
  streamDone : Bool
  overrunFrom : List Nat
  tracked : Bool
  deriving DecidableEq, Repr

/-! ### Descriptors, regions, translation, requests (07) -/

/-- A descriptor-table entry (R141, R142, R145). -/
structure Desc where
  image : BitVec 1024
  ctx : CtxNo
  region : Nat
  hdrRegion : Nat
  lo : Nat
  hi : Nat
  deriving DecidableEq, Repr

/-- A demand or prefetch page walk outstanding for a context, with what the access demands, and the number of requests that wait for a
prefetch's walk (R152, R154). -/
structure WalkReq where
  page : Nat
  ctx : CtxNo
  ring : Bool
  prefetch : Bool
  need : FaultRec
  many : Nat := 1
  deriving DecidableEq, Repr

/-- One stream's accesses in a unit: what its descriptor allows, and the bytes it touches as (address, length). `write`
false and `rfw` true is the read for write of R156; `rctx` is the context the region entry must list, when it is not the one
that makes the access; `row` is the table row that a GATHER_ACC's write updates (R176). -/
structure Acc where
  region : Nat
  lo : Nat
  hi : Nat
  write : Bool
  rfw : Bool
  desc : Nat
  stream : Nat
  header : Bool
  spans : List (Nat × Nat)
  rctx : Option CtxNo := none
  row : Option Nat := none
  deriving DecidableEq, Repr

/-- Request classes (R148). -/
inductive ReqClass where
  | rd
  | wr
  | rem
  deriving DecidableEq, Repr

/-- What a request serves, for the quotas of R254. -/
inductive ReqUse where
  | demand
  | journal
  | ckpt
  deriving DecidableEq, Repr

/-- A memory request in flight (R148, R149): it holds its slot until REQUEST_COMPLETE. -/
structure Req where
  cls : ReqClass
  write : Bool
  use : ReqUse
  bank : Fin 32
  ctx : CtxNo
  seq : Word
  page : Nat
  row : Option Nat
  deriving DecidableEq, Repr

/-- Requests of an access that have gone out before its unit runs (R149, R154): the first `count` of them. -/
structure Sent where
  ctx : CtxNo
  seq : Word
  acc : Acc
  count : Nat
  deriving DecidableEq, Repr

/-- The shared resources a stream or a copy waits for (R148, R149, R164, R166). -/
inductive Res where
  | rdSlot
  | wrSlot
  | remSlot
  | bank
  | quota
  | staging
  | dovetail
  deriving DecidableEq, Repr

/-- A request that waits for a resource (R254, R255): its place in the resource's row (0 highest), who waits, and the tick count
when it began to. -/
structure Wait where
  res : Res
  prio : Nat
  ctx : CtxNo
  seq : Word
  tick : Word
  deriving DecidableEq, Repr

/-- A row-lock entry (R176): a table row a window of a GATHER_ACC updates, until its write is acknowledged. -/
structure RowLock where
  ctx : CtxNo
  desc : Nat
  row : Nat
  seq : Word
  pass : Nat
  win : Nat
  deriving DecidableEq, Repr

/-- An accepted invalidation: all pages or one (R365). -/
structure Inval where
  all : Bool
  page : Nat
  deriving DecidableEq, Repr

/-! ### Clamp (05) and lane bank (03) -/

/-- Slot states (R98). -/
inductive SlotState where
  | free
  | preload
  | active
  | held
  | writeback
  | releasePending
  deriving DecidableEq, Repr

/-- A Clamp slot: tag fields (R99), accumulation word (R90), elements, uncorrectable elements (R322). -/
structure Slot where
  state : SlotState
  resident : Bool
  ctx : CtxNo
  gen : BitVec 7
  touched : Bool
  desc : Nat
  feat : Nat
  tileRow : Nat
  tileCol : Nat
  acc : Word
  elems : Tbl (BitVec 64)
  bad : List Nat
  deriving DecidableEq, Repr

/-- The interval a full accumulator bank holds (R45, R52): its tile and number, where it drains and the scale factors of R126. -/
structure Interval where
  ctx : CtxNo
  seq : Word
  tile : Nat
  number : Nat
  slot : Nat
  rows : List Nat
  lane0 : Nat
  cols : Nat
  rowScale : List Word
  colScale : List Word
  keepScale : Word
  scaled : Bool
  sat : Bool
  nf : Bool
  prescaled : Bool
  raw : Nat
  start : Nat
  deriving DecidableEq, Repr

/-- One accumulator bank of one lane group (R39, R47): A20 values by lane * 128 + cell, and its interval while it is full. -/
structure Bank where
  cells : Tbl (BitVec 20)
  interval : Option Interval
  deriving DecidableEq, Repr

/-- A beat of shared operand in a lane's skid buffer (R39, R42): its stored elements, and its tags: context, command, tile, interval, its
place in the interval, and the accumulator bank it selects (true: bank B). -/
structure SkidBeat where
  ctx : CtxNo
  seq : Word
  tile : Nat
  number : Nat
  place : Nat
  bankB : Bool
  elems : List Nat
  deriving DecidableEq, Repr

/-- What a slice runs of one tile (R62, R237): the units still admitted, and when the unit in progress began. -/
structure SlicePart where
  seq : Word
  tile : Nat
  left : Nat
  begun : Option Nat
  deriving DecidableEq, Repr

/-- A slice in progress on the lane bank (R237, R240), with the dovetail channels its column-wise streams hold (R60). -/
structure SliceRun where
  ctx : CtxNo
  parts : List SlicePart
  filler : Bool
  oversized : Bool
  channels : Nat
  deriving DecidableEq, Repr

/-- The lane bank (R37 to R48): both accumulator banks of each lane group, the full banks in the order they drain (true: bank B),
the beats each lane holds in its skid buffer (R39), what a lane group's bank will hold once they have moved in, the quarter EC up to which the Clamp adders are taken (R104), stationary banks,
lane totals, the bank each tile position ended in (R45). -/
structure Lane where
  bankA : Vector Bank 16
  bankB : Vector Bank 16
  drains : List (Fin 16 × Bool)
  skid : Tbl (List SkidBeat)
  ahead : List (Fin 16 × Bool × Bank)
  adders : Nat
  s0 : Tbl (BitVec 16)
  s1 : Tbl (BitVec 16)
  totals : Tbl (BitVec 57)
  lastJig : Nat
  endedInA : List Nat
  slice : Option SliceRun
  stopped : Bool
  deriving DecidableEq, Repr

/-! ### Quantisation (06) -/

/-- A rescale table with its owner, clip counters and range bank (R122, R129, R131, R132). A range entry holds the
minimum in its low and the maximum in its high half; the empty channel is (+inf, -inf). -/
structure RescaleTable where
  hdr : BitVec 512
  owner : Option CtxNo
  entries : Tbl (BitVec 64)
  conv : BitVec 48
  clipLow : BitVec 40
  clipHigh : BitVec 40
  winConv : Nat
  winClips : Nat
  drift : BitVec 16
  windows : Word
  ranges : Tbl (BitVec 64)
  nanCount : Word
  deriving DecidableEq, Repr

/-! ### Chains (09) -/

/-- A weight beat of a chain (R183): its command number, number, signature and 256 bytes. -/
structure Beat where
  seq : BitVec 16
  num : Nat
  sig : Word
  data : BitVec 2048
  deriving DecidableEq, Repr

/-- A beat in the chain-in slack (R184): has it entered the successor's slack, has the lane bank taken it? -/
structure SlackBeat where
  beat : Beat
  sent : Bool
  taken : Bool
  deriving DecidableEq, Repr

/-- What a chain entry sends to another core: a beat, a credit, or the notice of its detach with the credits it passes on (R184, R186). -/
inductive ChainMsg where
  | beat (core : BitVec 4) (chainId : BitVec 12) (b : Beat)
  | credit (core : BitVec 4) (chainId : BitVec 12)
  | detach (core : BitVec 4) (chainId : BitVec 12) (neighbour : Option (BitVec 4)) (credits : Nat)
  deriving DecidableEq, Repr

/-- A chain entry (R180) with the state of its current chained command (R183 to R187): `next` is the next expected beat,
`got` the beats the lane bank holds of the interval being filled, `out` the beats waiting for a credit, `kept` the newest
beats sent, `due` the cause of a detach that has come about, `late` true while beats below `next` are dropped; beats from `next` up
to `gapTo` it fetches itself before it accepts more (R186), `home` counts the credits of its own successor while another stands in, `count`
the chained commands that its current one stands for (R206), and `owed` the credits of beats it has refused. -/
structure Chain where
  entry : BitVec 64
  seq : BitVec 16
  sig : Word
  rxSig : Option Word
  next : Nat
  slack : List SlackBeat
  got : List Beat
  out : List Beat
  kept : List Beat
  credits : Nat
  home : Nat
  gapTo : Nat
  heldSince : Option Nat
  due : Option (BitVec 2)
  detached : Bool
  late : Bool
  head : Bool
  tail : Bool
  pred : BitVec 4
  succ : BitVec 4
  job : Option (CtxNo × Word)
  count : Nat
  owed : Nat
  deriving DecidableEq, Repr

/-! ### Reduction port (13) -/

/-- Job-context states (R260); FREE contexts are simply absent. -/
inductive JobState where
  | active
  | idle
  | failed
  deriving DecidableEq, Repr

/-- A job context of one channel (R260, R278): `timeout` is none until a bucket command of the job has given it, `credits`
counts the packets sent whose credit has not come back (R270). -/
structure JobCtx where
  job : BitVec 12
  state : JobState
  group : BitVec 256
  exact : Bool
  strict : Bool
  timeout : Option (BitVec 16)
  sent : BitVec 64
  recv : BitVec 64
  last : Nat
  credits : Nat
  deriving DecidableEq, Repr

/-- A reduction channel (R257, R270, R281): job contexts, credits not yet returned of jobs whose context was freed, packets that wait for
a context, receive buffer, counters. -/
structure Channel where
  jobs : List JobCtx
  owing : List (BitVec 12 × Nat)
  inq : List Packet
  rx : List Packet
  pktsSent : BitVec 48
  pktsRecv : BitVec 48
  creditWait : BitVec 48
  lateDrop : Word
  badPeer : Word
  deriving DecidableEq, Repr

/-- An expected input of a bucket at this node (R271): 0 to 3 are IN0 to IN3, 4 is the own contribution. `next` is the next
OFFSET to be taken, `lastAt` the OFFSET of its LAST packet, `gone` true once omitted, `backed` once replaced, `blast` when its
backup's latest packet came; `total`, `res` and `fwd` are a ring member's packets, next RESULT to come, next RESULT to send. -/
structure Input where
  job : BitVec 12
  bucket : Nat
  input : Nat
  next : Nat
  lastAt : Option Nat
  done : Bool
  gone : Bool
  backed : Bool
  last : Nat
  blast : Option Nat
  total : Nat
  res : Nat
  fwd : Nat
  deriving DecidableEq, Repr

/-- A partial-sum entry of a tree node (R257, R265). -/
structure Partial where
  job : BitVec 12
  bucket : Nat
  offset : Nat
  vals : List Word
  taken : List Nat
  hdr : BitVec 512
  contrib : Nat
  rounds : Nat
  omitted : Nat
  backups : Nat
  sat : Bool
  nf : Bool
  deriving DecidableEq, Repr

/-- A RESULT packet at this engine: the channels it must still go out on, whether it must still be written here, and the
channel it came on (none: this engine made it). -/
structure Held where
  pkt : Packet
  fwd : List Chan
  own : Bool
  via : Option Chan
  deriving DecidableEq, Repr

/-- What the engine remembers of a job across its channels (R260 to R262, R277). -/
structure Job where
  id : BitVec 12
  issuer : Option CtxNo
  sends : List Nat
  recvs : List Nat
  kept : Option (BitVec 128)
  sentUpTo : Nat
  deriving DecidableEq, Repr

/-- The reduction port: `aborts` wait for a credit; `out` lists the packets handed to the links and `creditOut` the credits
returned to them, oldest first, with their channel. -/
structure Port where
  chans : Vector Channel 6
  jobs : List Job
  inputs : List Input
  partials : List Partial
  results : List Held
  aborts : List (Chan × Packet)
  out : List (Chan × Packet)
  creditOut : List (Chan × BitVec 12)
  backupsUsed : Word
  omitted : Word
  failed : Word
  deriving DecidableEq, Repr

/-! ### Resilience (14) -/

/-- A page copy in flight (R287, R289): the context whose write waits for it, its window page, whether its writes are issued. -/
structure Flight where
  ctx : CtxNo
  page : Nat
  written : Bool
  deriving DecidableEq, Repr

/-- The checkpoint unit (R282 to R289): `area` is the descriptor of the area of an armed epoch with its number and format,
`copied` the window pages copied in slot order, those in flight with their writes issued among them. -/
structure Ckpt where
  epoch : Word
  armed : Bool
  policy : BitVec 2
  thresh : Byte
  pending : Option CtxNo
  effective : Bool
  incomplete : Bool
  slots : Nat
  area : Option (Nat × Desc × Word)
  areaCtx : CtxNo
  watchBase : Nat
  watchPages : Nat
  copied : List Nat
  flights : List Flight
  missedPages : List Nat
  unwatched : List Nat
  firstMissed : Nat
  openTick : Word
  deriving DecidableEq, Repr

/-- The risk level and the current window (R290). -/
structure Risk where
  level : Byte
  counts : Vector (BitVec 16) 4
  ticks : Nat
  deriving DecidableEq, Repr

/-! ### Error log, telemetry, power, self-test, security, start-up -/

/-- An error-log entry (R328). -/
structure LogEntry where
  cls : BitVec 6
  sev : BitVec 2
  unit : BitVec 4
  ctx : Option CtxNo
  rpt : BitVec 16
  firstTick : Word
  firstEc : BitVec 14
  lastTick : Word
  lastEc : BitVec 14
  detail0 : BitVec 64
  detail1 : BitVec 64
  at_ : Nat
  deriving DecidableEq, Repr

/-- The error log (R327, R361). -/
structure ErrLog where
  ring : List LogEntry
  next : Nat
  wr : Word
  rd : Word
  lost : Word
  summary : Word
  first : Option LogEntry
  firstSev : BitVec 2
  deriving DecidableEq, Repr

/-- Engine-wide telemetry (R244, R342). -/
structure Telemetry where
  stall : Vector (BitVec 48) 16
  busy : BitVec 48
  mac16 : BitVec 64
  mac8 : BitVec 64
  energy : BitVec 64
  prefetchDrop : Word
  detach : Word
  tokenWait : BitVec 48
  mgmtDenied : Word
  idle : BitVec 48
  fallow : BitVec 48
  deriving DecidableEq, Repr

/-- A ramp of the power controller (R307). -/
inductive Ramp where
  | wake (groups : List (Fin 16))
  | release (groups : List (Fin 16))
  | mode (eight : Bool)
  | retainIn
  | retainOut
  | startUp
  | bistWake
  | bistRelease
  deriving DecidableEq, Repr

/-- Power states of the engine's clock domain (R304); ACTIVE is `running` with a lane group awake. -/
inductive PowerState where
  | off
  | running
  | retain
  deriving DecidableEq, Repr

/-- The power and ramp controller (R306 to R309, R312); `req` and `ret` are the wires REQ and RET. -/
structure Power where
  state : PowerState
  awake : Vector Bool 16
  lastBeat : Vector Nat 16
  eight : Bool
  req : Bool
  ret : Bool
  held : Bool
  want : List Ramp
  ramp : Option Ramp
  rampStart : Nat
  reqSince : Nat
  waitTicks : Nat
  waitLogged : Bool
  retaining : Bool
  temp : Vector (BitVec 16) 16
  tempMax : Vector (BitVec 16) 16
  deriving DecidableEq, Repr

/-- Self-test and repair (R315, R316, R323 to R326). A self-test slice holds the lane bank until `busyUntil`; `owner` is the context of
a BIST_SLICE, `wake` the EC of its admission while it waits for its lane groups (R314, R320). -/
structure SelfTest where
  cursors : Vector Nat 7
  sweeps : Word
  lastSweep : Word
  dry : BitVec 16
  full : Bool
  forced : Bool
  forcedNext : Bool
  busyUntil : Nat
  wake : Option Nat
  owner : Option CtxNo
  sl0 : Option Nat
  sl1 : Option Nat
  sl0Bad : Bool
  sl1Bad : Bool
  mapDue : Option (Nat × Word)
  columns : List (Nat × Nat × Nat)
  rewriteDue : List (Nat × Nat × Nat × Word)
  ce : List (Nat × Nat)
  lastPass : Tbl Nat
  deriving DecidableEq, Repr

/-- Debug port levels (R339). -/
inductive DbgLevel where
  | locked
  | observe
  | full
  deriving DecidableEq, Repr

/-- Keys, export count and debug port (R331 to R341). -/
structure Security where
  keys : Vector (Option (BitVec 256)) 16
  pendKey : Option (Fin 16 × BitVec 256)
  exportSeq : BitVec 64
  exported : Bool
  dbg : DbgLevel
  dbgFull : Bool
  nonce : Option (BitVec 256)
  shifted : List (BitVec 256 × BitVec 64)
  response : Option (Byte × BitVec 776 × BitVec 384 × BitVec 384)
  failures : Nat
  refuses : Bool
  deriving DecidableEq, Repr

/-- Management-bus state (R347 to R349, R357). -/
structure Mgmt where
  position : BitVec 15
  region : BitVec 128
  group : BitVec 256
  key : BitVec 256
  commitErr : Bool
  alertFatal : Bool
  alertAuth : Bool
  alertPower : Bool
  powerReq : PowerState
  powerOk : Bool
  heartbeat : Word
  reports : Vector Word 6
  reportSeq : Word
  deriving DecidableEq, Repr

/-- Channel training (R354 to R358). -/
structure Train where
  partner : BitVec 15
  link : BitVec 2
  retrains : Byte
  probing : Bool
  probes : Nat
  nextProbe : Nat
  awaiting : Option Nat
  txReady : Bool
  txSent : Bool
  txDone : Bool
  rxCount : Nat
  rxOk : Bool
  rxStart : Nat
  rxCrc : BitVec 64
  rxDone : Bool
  deriving DecidableEq, Repr

/-- What a register write does at the end of its EC: clears of counters (R364), of LOG_LOST, an advance of LOG_RD_IDX (R368), the capture
of the first error re-armed (R369). -/
inductive LateAct where
  | counters (v : Word)
  | context (c : CtxNo) (v : Word)
  | lost
  | advance (v : Word)
  | rearm
  deriving DecidableEq, Repr

/-- Start-up and identity (R351, R361). -/
structure Engine where
  late : List LateAct
  step : BitVec 4
  position : BitVec 15
  jexloVer : Word
  svn : Nat
  fwSvn : Nat
  fatalClass : BitVec 6
  doorbellStop : Bool
  tempExc : BitVec 16
  invalLo : Word
  bistDone : Bool
  verified : Bool
  stepStart : Nat
  deriving DecidableEq, Repr

/-- The tick input's follower (R14, R353). `due` is a boundary that is decided: local or not, and its EC. -/
structure Tick where
  count : Word
  last : Nat
  run : Bool
  lastLocal : Bool
  first : Bool
  waitEdge : Bool
  due : Option (Bool × Nat)
  early : Word
  localCount : Word
  deriving DecidableEq, Repr

/-- The state of the block. -/
structure State where
  pending : List Instr
  now : Nat
  free : Nat
  core : Memory
  remote : Memory
  evt : BitVec 4
  eng : Engine
  tick : Tick
  ctxs : Vector Context 8
  fmts : Vector Word 8
  rts : Vector RescaleTable 8
  prio : Vector (BitVec 16) 8
  prioNext : Option (Vector (BitVec 16) 8)
  schedLast : Vector (Fin 8) 8
  schedTurn : Vector Nat 8
  stallMap : Vector (BitVec 4) 16
  rampTab : BitVec 640
  rampNext : Option (BitVec 640)
  riskTab : BitVec 640
  regions : Tbl (BitVec 128)
  groups : Vector (BitVec 256) 16
  descs : List (Nat × Desc)
  descGen : Tbl (BitVec 6)
  slots : Vector Slot 48
  touch : List Touch
  lane : Lane
  staging : List (Nat × Nat)
  tlb : List TlbEntry
  walks : List WalkReq
  invals : List Inval
  invalReq : Word
  invalDone : Word
  reqs : List Req
  sent : List Sent
  waits : List Wait
  dovetail : List (CtxNo × Word)
  locks : List RowLock
  chains : Vector Chain 4
  chainOut : List ChainMsg
  port : Port
  ckpt : Ckpt
  risk : Risk
  log : ErrLog
  tel : Telemetry
  pow : Power
  bist : SelfTest
  sec : Security
  mgmt : Mgmt
  train : Vector Train 6
  deriving DecidableEq, Repr

/-! ### Reset -/

/-- A context block after reset (R361, R365): CTX_CFG 0x0000_00C6, everything else zero, DISABLED. -/
def Context.reset : Context where
  cfg := 0x000000C6#32
  state := .disabled
  resetting := false
  ringFault := false
  doorbellErr := false
  cfgErr := false
  ctrlIgn := false
  headErr := false
  parkCause := 0
  bound := false
  key := 0
  lost := 0
  cmdBase := 0
  cplBase := 0
  cmdHead := 0
  cmdTail := 0
  cplTail := 0
  cplHead := 0
  expSeq := 0
  eventSeq := 0
  oobSilent := 0
  idxNeg := 0
  idxOob := 0
  adj := 0
  slices := 0
  cuts := 0
  overruns := 0
  heldTicks := 0
  bubbles := 0
  overrunEc := 0
  maxOverrun := 0
  cmds := []
  held := []
  task := none
  early := false
  xlats := []
  fault := none
  faultAt := 0
  wantUnit := none
  wantPage := none
  wantSeq := 0
  settled := false
  sumActual := 0
  sumRaw := 0
  unitsDone := 0
  laneDone := false
  slicedTick := false
  stream := none
  streamDone := false
  overrunFrom := []
  tracked := false

/-- The range-bank entry of an empty channel: minimum +inf, maximum -inf (R132). -/
def emptyRange : BitVec 64 := 0xFF8000007F800000#64

/-- A rescale table after reset: VALID = 0, no owner (R122). -/
def RescaleTable.reset : RescaleTable where
  hdr := 0
  owner := none
  entries := []
  conv := 0
  clipLow := 0
  clipHigh := 0
  winConv := 0
  winClips := 0
  drift := 0
  windows := 0
  ranges := []
  nanCount := 0

/-- A Clamp slot after reset: FREE, generation 0 (R96, R99). -/
def Slot.reset : Slot where
  state := .free
  resident := false
  ctx := 0
  gen := 0
  touched := false
  desc := 0
  feat := 0
  tileRow := 0
  tileCol := 0
  acc := 0
  elems := []
  bad := []

/-- An empty accumulator bank. -/
def Bank.empty : Bank := ⟨[], none⟩

def Lane.reset : Lane where
  bankA := Vector.replicate 16 .empty
  bankB := Vector.replicate 16 .empty
  drains := []
  skid := []
  ahead := []
  adders := 0
  s0 := []
  s1 := []
  totals := []
  lastJig := 0
  endedInA := []
  slice := none
  stopped := false

/-- A released chain entry with its slack empty. -/
def Chain.reset : Chain where
  entry := 0
  seq := 0
  sig := 0
  rxSig := none
  next := 0
  slack := []
  got := []
  out := []
  kept := []
  credits := 256
  home := 256
  gapTo := 0
  heldSince := none
  due := none
  detached := false
  late := false
  head := false
  tail := false
  pred := 0
  succ := 0
  job := none
  count := 1
  owed := 0

def Channel.reset : Channel := ⟨[], [], [], [], 0, 0, 0, 0, 0⟩

def Port.reset : Port := ⟨Vector.replicate 6 .reset, [], [], [], [], [], [], [], 0, 0, 0⟩

/-- R282: epoch 0 open, unarmed. -/
def Ckpt.reset : Ckpt where
  epoch := 0
  armed := false
  policy := 0
  thresh := 0
  pending := none
  effective := false
  incomplete := false
  slots := 0
  area := none
  areaCtx := 0
  watchBase := 0
  watchPages := 0
  copied := []
  flights := []
  missedPages := []
  unwatched := []
  firstMissed := 0
  openTick := 0

/-- An all-zero log entry. -/
def LogEntry.zero : LogEntry := ⟨0, 0, 0, none, 0, 0, 0, 0, 0, 0, 0, 0⟩

def ErrLog.reset : ErrLog := ⟨List.replicate 63 .zero, 0, 0, 0, 0, 0, none, 2⟩

def Telemetry.reset : Telemetry := ⟨Vector.replicate 16 0, 0, 0, 0, 0, 0, 0, 0, 0, 0, 0⟩

def Power.reset : Power where
  state := .off
  awake := Vector.replicate 16 false
  lastBeat := Vector.replicate 16 0
  eight := false
  req := false
  ret := false
  held := false
  want := []
  ramp := none
  rampStart := 0
  reqSince := 0
  waitTicks := 0
  waitLogged := false
  retaining := false
  temp := Vector.replicate 16 0
  tempMax := Vector.replicate 16 0

def SelfTest.reset : SelfTest where
  cursors := Vector.replicate 7 0
  sweeps := 0
  lastSweep := 0
  dry := 0
  full := false
  forced := false
  forcedNext := false
  busyUntil := 0
  wake := none
  owner := none
  sl0 := none
  sl1 := none
  sl0Bad := false
  sl1Bad := false
  mapDue := none
  columns := []
  rewriteDue := []
  ce := []
  lastPass := []

/-- R331, R339: every key slot empty; the debug port FULL when DEBUG_LOCK is unblown, else LOCKED. -/
def Security.reset : Security where
  keys := Vector.replicate 16 none
  pendKey := none
  exportSeq := 0
  exported := false
  dbg := if Config.debugLock then .locked else .full
  dbgFull := false
  nonce := none
  shifted := []
  response := none
  failures := 0
  refuses := false

/-- R357: every neighbour-report word holds PARTNER 0x7FFF and NO_ANSWER. -/
def Mgmt.reset : Mgmt where
  position := 0x7FFF
  region := 0
  group := 0
  key := 0
  commitErr := false
  alertFatal := false
  alertAuth := false
  alertPower := false
  powerReq := .running
  powerOk := false
  heartbeat := 0
  reports := Vector.replicate 6 0x00007FFF#32
  reportSeq := 0

def Train.reset : Train where
  partner := 0x7FFF
  link := 0
  retrains := 0
  probing := false
  probes := 0
  nextProbe := 0
  awaiting := none
  txReady := false
  txSent := false
  txDone := false
  rxCount := 0
  rxOk := true
  rxStart := 0
  rxCrc := 0
  rxDone := false

/-- R361: ENG_STATE.STEP 0x1, POSITION 0x7FFF, JEXLO_VER 0, TEMP_EXCURSION 100 degrees. -/
def Engine.reset : Engine where
  late := []
  step := 1
  position := 0x7FFF
  jexloVer := 0
  svn := 0
  fwSvn := Config.fwSvnFuse.val
  fatalClass := 0
  doorbellStop := false
  tempExc := 0x0640
  invalLo := 0
  bistDone := false
  verified := false
  stepStart := 0

def Tick.reset : Tick := ⟨0, 0, false, false, true, false, none, 0, 0⟩

/-- The ramp table in force after reset (R310): a 16-byte header, the 16-bit curve, the 8-bit curve. -/
def rampTabReset : BitVec 640 :=
  let pts : Nat := 0xFFEFDFCFBFAF9F8F70605040302010
  let pts := pts % 2 ^ 56 + 0x80 * 2 ^ 56 + pts / 2 ^ 56 * 2 ^ 64
  BitVec.ofNat 640 (0x0100 + 0x10 * 2 ^ 16
    + (0x0040 + pts * 2 ^ 32) * 2 ^ 128 + (0x0050 + pts * 2 ^ 32) * 2 ^ 384)

/-- The state right after reset. -/
def State.reset : State where
  pending := []
  now := 0
  free := 0
  core := []
  remote := []
  evt := 0
  eng := .reset
  tick := .reset
  ctxs := Vector.replicate 8 .reset
  fmts := Vector.replicate 8 0
  rts := Vector.replicate 8 .reset
  prio := Vector.replicate 8 0x0018
  prioNext := none
  schedLast := Vector.replicate 8 7
  schedTurn := Vector.replicate 8 255
  stallMap := Vector.ofFn (fun (c : Fin 16) => BitVec.ofNat 4 (15 - c.val))
  rampTab := rampTabReset
  rampNext := none
  riskTab := 0
  regions := []
  groups := Vector.replicate 16 0
  descs := []
  descGen := []
  slots := Vector.replicate 48 .reset
  touch := []
  lane := .reset
  staging := []
  tlb := []
  walks := []
  invals := []
  invalReq := 0
  invalDone := 0
  reqs := []
  sent := []
  waits := []
  dovetail := []
  locks := []
  chains := Vector.replicate 4 .reset
  chainOut := []
  port := .reset
  ckpt := .reset
  risk := ⟨0, Vector.replicate 4 0, 0⟩
  log := .reset
  tel := .reset
  pow := .reset
  bist := .reset
  sec := .reset
  mgmt := .reset
  train := Vector.replicate 6 .reset

end Sys2Proof.Machine
end

