-- ==== Sys2Proof/Machine/Ops.lean ====
section
/-! DEFINITION. Shared operations: contexts, error log, translation, requests, memory, completion ring, events, replies. -/

namespace Sys2Proof.Machine

/-- Every meaning answers a next state (log 1). -/
abbrev Out := Host.Outcome State Fault Refusal

/-! ### Contexts and slots -/

/-- Context `c`. -/
def State.ctx (s : State) (c : CtxNo) : Context := s.ctxs.get c

/-- The state with context `c` replaced. -/
def State.setCtx (s : State) (c : CtxNo) (x : Context) : State := { s with ctxs := s.ctxs.set c.val x c.isLt }

/-- The state with context `c` changed by `f`. -/
def State.modCtx (s : State) (c : CtxNo) (f : Context → Context) : State := s.setCtx c (f (s.ctx c))

/-- The context with number `n` modulo 8. -/
def ctxOf (n : Nat) : CtxNo := ⟨n % 8, Nat.mod_lt n (by decide)⟩

/-- All contexts, CTX0 first. -/
def allCtx : List CtxNo := [0, 1, 2, 3, 4, 5, 6, 7]

/-- Slot number `i`; slots beyond 47 read as a free slot. -/
def State.slot (s : State) (i : Nat) : Slot := s.slots.toList.getD i .reset

/-- The state with slot `i` replaced; nothing happens beyond 47. -/
def State.setSlot (s : State) (i : Nat) (x : Slot) : State := { s with slots := s.slots.setIfInBounds i x }

/-- The state with slot `i` changed by `f`. -/
def State.modSlot (s : State) (i : Nat) (f : Slot → Slot) : State := s.setSlot i (f (s.slot i))

/-- Rescale table `t`. -/
def State.rt (s : State) (t : Nat) : RescaleTable := s.rts.toList.getD t .reset

/-- The state with rescale table `t` replaced. -/
def State.setRt (s : State) (t : Nat) (x : RescaleTable) : State := { s with rts := s.rts.setIfInBounds t x }

/-- Chain entry number `e`, 0 to 3 for CH1 to CH4. -/
def State.chain (s : State) (e : Nat) : Chain := s.chains.toList.getD e .reset

/-- The state with chain entry `e` replaced. -/
def State.setChain (s : State) (e : Nat) (x : Chain) : State := { s with chains := s.chains.setIfInBounds e x }

/-- The engine is READY, not FATAL, and its clock runs (R330, R351, R305). -/
def State.up (s : State) : Bool := s.eng.step == 7 && s.pow.state == .running

/-- The engine stopped with a FATAL entry (R330, R352). -/
def State.isFatal (s : State) : Bool := s.eng.step == 15

/-! ### Error log (R327 to R330) -/

/-- EC since the last boundary, 14 bits, saturating (TICK_EC, R361). -/
def State.tickEc (s : State) : BitVec 14 := BitVec.ofNat 14 (min (s.now - s.tick.last) 0x3FFF)

/-- The ring slot of an entry: its number since reset modulo 63 (R368), told from the next entry's slot, since LOG_WR_IDX wraps. -/
def ErrLog.slot (l : ErrLog) (j : Word) : Nat := (l.next + 63 - dist32 l.wr j % 63) % 63

/-- Search of the newest unread entry that passes the test: the entries before ring slot `i`, `n` of them. -/
def logFind (ring : List LogEntry) (p : LogEntry → Bool) (i : Nat) : Nat → Option Nat
  | 0 => none
  | n + 1 =>
    let k := (i + 62) % 63
    if p (ring.getD k .zero) then some k else logFind ring p k n

/-- Is the entry one of this EC that comes after another by UNIT, then CLASS (R329)? -/
def LogEntry.after (x e : LogEntry) : Bool :=
  x.at_ == e.at_ && x.firstTick == e.firstTick && x.firstEc == e.firstEc
    && (decide (e.unit < x.unit) || (x.unit == e.unit && decide (e.cls < x.cls)))

/-- A new entry in the ring: at slot `i`, or before those of its EC that come after it, of the `n` unread ones. -/
def logPut (e : LogEntry) : Nat → Nat → List LogEntry → List LogEntry
  | 0, i, ring => setAt ring i e
  | n + 1, i, ring =>
    let k := (i + 62) % 63
    let x := ring.getD k .zero
    if x.after e then logPut e n k (setAt ring i x) else setAt ring i e

/-- The captured first error after a new entry: one captured in the same EC gives way to an entry that comes before it (R327, R329). -/
def ErrLog.capture (l : ErrLog) (e : LogEntry) : Option LogEntry :=
  if e.sev.toNat < l.firstSev.toNat then l.first
  else match l.first with
    | none => some e
    | some x => if x.after e then some e else some x

/-- The error log after a new entry: its place among those of its EC, an overwritten unread entry, the first-error capture (R327, R329). -/
def ErrLog.push (l : ErrLog) (e : LogEntry) : ErrLog :=
  let unread := dist32 l.wr l.rd
  let full := decide (63 ≤ unread)
  { l with
    ring := logPut e (min unread 62) l.next l.ring
    next := (l.next + 1) % 63
    wr := l.wr + 1
    rd := if full then l.rd + 1 else l.rd
    lost := if full then satAdd l.lost 1 else l.lost
    first := l.capture e }

/-- The log after one occurrence: coalesced into the newest unread matching entry within 1,024 EC, else a new entry (R329). -/
def State.logNext (s : State) (cls : BitVec 6) (sev : BitVec 2) (unit : BitVec 4) (c : Option CtxNo) (d0 d1 : BitVec 64) : ErrLog :=
  let l := s.log
  let same (e : LogEntry) : Bool :=
    e.cls == cls && e.unit == unit && e.ctx == c && e.detail0 == d0 && e.rpt != 0 && decide (s.now ≤ e.at_ + 1024)
  let l1 : ErrLog :=
    match logFind l.ring same l.next (dist32 l.wr l.rd) with
    | some i =>
      let e := l.ring.getD i .zero
      { l with ring := setAt l.ring i { e with rpt := satAdd e.rpt 1, lastTick := s.tick.count, lastEc := s.tickEc, at_ := s.now } }
    | none =>
      l.push { cls := cls, sev := sev, unit := unit, ctx := c, rpt := 1, firstTick := s.tick.count, firstEc := s.tickEc,
               lastTick := s.tick.count, lastEc := s.tickEc, detail0 := d0, detail1 := d1, at_ := s.now }
  { l1 with summary := setFld l1.summary cls.toNat 1 1 }

/-- One occurrence of an error; a FATAL one stops the engine (R330). Severities: 0 INFO, 1 CORRECTED, 2 UNCORRECTED, 3 FATAL. -/
def State.logErr (s : State) (cls : BitVec 6) (sev : BitVec 2) (unit : BitVec 4) (c : Option CtxNo)
    (d0 d1 : BitVec 64) : State :=
  let s1 := { s with log := s.logNext cls sev unit c d0 d1 }
  if sev = 3 then
    { s1 with eng := { s1.eng with step := 15, fatalClass := if s.isFatal then s1.eng.fatalClass else cls }
              mgmt := { s1.mgmt with alertFatal := true } }
  else s1

/-! ### Regions (R140, R335) -/

/-- Does region entry `idx` let context `c` reach bytes lo to hi with the rights asked for (R140, R163)? -/
def State.regionOk (s : State) (idx : Nat) (c : CtxNo) (lo hi : Nat) (rd wr : Bool) : Bool :=
  let e := Tbl.get 0 s.regions idx
  bitAt e 112 && (!rd || bitAt e 113) && (!wr || bitAt e 114) && bitAt e (120 + c.val)
    && decide (fld e 0 48 ≤ lo) && decide (hi ≤ fld e 64 48)

/-- The lowest-numbered region entry that covers and grants (R336), searched from entry `i`, `n` entries. -/
def State.findRegionFrom (s : State) (c : CtxNo) (lo hi : Nat) (rd wr : Bool) (i : Nat) : Nat → Option Nat
  | 0 => none
  | n + 1 => if s.regionOk i c lo hi rd wr then some i else s.findRegionFrom c lo hi rd wr (i + 1) n

/-- The lowest-numbered region entry that covers and grants. -/
def State.findRegion (s : State) (c : CtxNo) (lo hi : Nat) (rd wr : Bool) : Option Nat :=
  s.findRegionFrom c lo hi rd wr 0 256

/-! ### Translation (R139, R152, R154) -/

/-- The translation of a page in a list, or none. -/
def xlatFind (l : List (Nat × Xlat)) (page : Nat) : Option Xlat := (l.find? (fun p => p.1 == page)).map (·.2)

/-- The translation of a page in the TLB, or none. -/
def tlbFind (l : List TlbEntry) (page : Nat) : Option Xlat := (l.find? (fun e => e.page == page)).map (·.xlat)

/-- The translation a context's unit uses: one it already holds, else the TLB's. -/
def State.xlat (s : State) (c : CtxNo) (page : Nat) : Option Xlat :=
  match xlatFind (s.ctx c).xlats page with
  | some x => some x
  | none => tlbFind s.tlb page

/-- The place a page's entry takes: its own, the first free one, or that of the least recently used entry (R152, log 60). -/
def tlbPlace (l : List TlbEntry) (page : Nat) : Nat :=
  match l.find? (fun e => e.page == page), (List.range 256).find? (fun k => !l.any (fun e => e.place == k)), l.getLast? with
  | some e, _, _ => e.place
  | none, some k, _ => k
  | none, none, some e => e.place
  | none, none, none => 0

/-- The TLB, most recently used first, with an entry most recently used, the least recently used of 257 dropped (R152). -/
def tlbFill (l : List TlbEntry) (page : Nat) (x : Xlat) : List TlbEntry :=
  (⟨page, x, tlbPlace l page⟩ :: l.filter (fun e => e.page != page)).take 256

/-- Has the translation the permissions the access demands (R157)? -/
def permOk (x : Xlat) (n : FaultRec) : Bool := (!n.read || x.read) && (!n.write || x.write)

/-- The page of an address. -/
def pageOf (va : Nat) : Nat := va / 65536

/-- Is the access translated with permission? -/
def State.needOk (s : State) (c : CtxNo) (n : FaultRec) : Bool :=
  match s.xlat c (pageOf n.vaddr) with
  | some x => permOk x n
  | none => false

/-- Which of two requests a fault record reports: the lower STREAM, then the lower VADDR (R372). -/
def firstNeed (a b : FaultRec) : FaultRec :=
  if b.stream < a.stream ∨ (b.stream = a.stream ∧ b.vaddr < a.vaddr) then b else a

/-- A walk is asked for, at most eight outstanding, one a page and context (R152). A prefetch's walk becomes a demand's when its
beat is needed (R154). -/
def addWalk (l : List WalkReq) (w : WalkReq) : List WalkReq :=
  let same (v : WalkReq) : Bool := v.page == w.page && v.ctx == w.ctx && v.ring == w.ring
  if l.any same then
    l.map (fun v => if same v then { v with need := if v.prefetch then w.need else firstNeed v.need w.need, prefetch := false } else v)
  else if l.length < 8 then l ++ [w] else l

/-- The context keeps the translations its unit found, so that no replacement takes them away (log 10). -/
def State.pin (s : State) (c : CtxNo) (ns : List FaultRec) : State :=
  let got := ns.filterMap (fun n => (s.xlat c (pageOf n.vaddr)).map (fun x => (pageOf n.vaddr, x)))
  let xs := got.foldl (fun l p => if l.any (fun q => q.1 == p.1) then l else l ++ [p]) (s.ctx c).xlats
  let tlb := (dedup (got.map (·.1)) []).foldl (fun l p => match tlbFind l p with | some x => tlbFill l p x | none => l) s.tlb
  { (s.modCtx c (fun x => { x with xlats := xs })) with tlb := tlb }

/-- Is the command in the write phase of a staged copy or tile-pair swap (R169)? -/
def Cmd.writePhase (m : Cmd) : Bool :=
  match m.phase with
  | .running (.copy _ (_ :: _) _) => true
  | _ => false

/-- The context gives its unit's translations up: the unit committed or was discarded. A write phase keeps them (R169). -/
def State.unpin (s : State) (c : CtxNo) : State :=
  s.modCtx c (fun x => if x.cmds.any Cmd.writePhase then x else { x with xlats := [] })

/-- Every access of a unit is translated before the unit starts (R156): true and the state with its translations held, or
false and the state with walks asked for. -/
def State.acquire (s : State) (c : CtxNo) (ns : List FaultRec) : Bool × State :=
  let bad := ns.filter (fun n => !s.needOk c n)
  let s1 := s.pin c (ns.filter (fun n => s.needOk c n))
  match bad with
  | [] => (true, s1)
  | _ => (false, { s1 with walks := bad.foldl (fun l n => addWalk l ⟨pageOf n.vaddr, c, false, false, n, 1⟩) s1.walks })

/-! ### Memory -/

/-- Where a translated byte lies: true for the core store, and its place there (R139). -/
def physOf (x : Xlat) (va : Nat) : Bool × Nat :=
  match x.target with
  | .core p => (true, p.val * 65536 + va % 65536)
  | .remote p => (false, p * 65536 + va % 65536)

/-- A byte at its place. -/
def State.peekAt (s : State) (p : Bool × Nat) : Byte := if p.1 then s.core.read p.2 else s.remote.read p.2

/-- A byte stored at its place. -/
def State.pokeAt (s : State) (p : Bool × Nat) (b : Byte) : State :=
  if p.1 then { s with core := s.core.write p.2 b } else { s with remote := s.remote.write p.2 b }

/-- The byte a context reads at a virtual address; 0 without a translation (never used so). -/
def State.peek (s : State) (c : CtxNo) (va : Nat) : Byte :=
  match s.xlat c (pageOf va) with
  | some x => s.peekAt (physOf x va)
  | none => 0

/-- The byte a context stores at a virtual address. -/
def State.poke (s : State) (c : CtxNo) (va : Nat) (b : Byte) : State :=
  match s.xlat c (pageOf va) with
  | some x => s.pokeAt (physOf x va) b
  | none => s

/-- `n` bytes from a virtual address. -/
def State.peekN (s : State) (c : CtxNo) (va n : Nat) : List Byte := (upFrom va n).map (s.peek c)

/-- Bytes stored from a virtual address on. -/
def State.pokeN (s : State) (c : CtxNo) (va : Nat) : List Byte → State
  | [] => s
  | b :: t => (s.poke c va b).pokeN c (va + 1) t

/-- A little-endian value of `n` bytes (R4). -/
def State.peekLe (s : State) (c : CtxNo) (va n : Nat) : Nat := ofLeBytes (s.peekN c va n)

/-! ### Accesses and requests (R147 to R150, R163) -/

/-- A request of an access: its block, the bytes needed of it, its own first byte, and whether the region table refuses it
(R147, R163). -/
structure ReqPlan where
  base : Nat
  len : Nat
  first : Nat
  last : Nat
  lo : Nat
  refused : Bool
  deriving DecidableEq, Repr

/-- A span cut at 512-byte boundaries (fuel bounds the pieces). -/
def cutSpan : Nat → Nat → Nat → List (Nat × Nat)
  | 0, _, _ => []
  | f + 1, a, n =>
    if n = 0 then [] else
    let k := min n (512 - a % 512)
    (a, k) :: cutSpan f (a + k) (n - k)

/-- The request block an address falls in: a 512-byte segment of core store, a 2,048-byte remote block (R147, R150). -/
def State.blockOf (s : State) (c : CtxNo) (va : Nat) : Nat × Nat :=
  match s.xlat c (pageOf va) with
  | some ⟨.remote _, _, _⟩ => (va / 2048 * 2048, 2048)
  | _ => (va / 512 * 512, 512)

/-- Add a piece to the requests: a new request, or more bytes of one that is there. -/
def addPiece (l : List ReqPlan) (b : Nat × Nat) (a n : Nat) : List ReqPlan :=
  if l.any (fun r => r.base == b.1) then
    l.map (fun r => if r.base = b.1 then { r with first := min r.first a, last := max r.last (a + n - 1) } else r)
  else l ++ [⟨b.1, b.2, a, a + n - 1, a, false⟩]

/-- The requests of an access, in issue order, each checked against the region table (R140, R163): a read covers its block
inside the footprint, a write the bytes it carries. -/
def State.plan (s : State) (c : CtxNo) (a : Acc) : List ReqPlan :=
  let pieces := a.spans.flatMap (fun p => cutSpan (p.2 / 512 + 2) p.1 p.2)
  let rs := pieces.foldl (fun l p => addPiece l (s.blockOf c p.1) p.1 p.2) []
  rs.map (fun r =>
    let lo := if a.write then r.first else min r.first (max r.base a.lo)
    let hi := if a.write then r.last else max r.last (min (r.base + r.len - 1) a.hi)
    { r with lo := lo, refused := !s.regionOk a.region (a.rctx.getD c) lo hi (!a.write) (a.write || a.rfw) })

/-- What the allowed requests of an access demand of their pages. -/
def accNeeds (a : Acc) (seq : BitVec 16) (rs : List ReqPlan) : List FaultRec :=
  (rs.filter (fun r => !r.refused)).map (fun r =>
    { vaddr := r.lo, desc := a.desc, read := !a.write, write := a.write || a.rfw, perm := false, noDesc := false,
      header := a.header, seq := seq, stream := a.stream, faults := 0, guard := false })

/-- Refused byte ranges of an access, as (base, length). -/
def State.refusals (s : State) (c : CtxNo) (a : Acc) : List (Nat × Nat) :=
  ((s.plan c a).filter (fun r => r.refused)).map (fun r => (r.base, r.len))

/-- Is a byte in a refused request? -/
def inRefused (l : List (Nat × Nat)) (va : Nat) : Bool := l.any (fun p => decide (p.1 ≤ va ∧ va < p.1 + p.2))

/-- OOB_SILENT advances by one for each refused request (R163). -/
def State.countOob (s : State) (c : CtxNo) (n : Nat) : State :=
  s.modCtx c (fun x => { x with oobSilent := satAdd x.oobSilent n })

/-- A byte read through an access: a refused request returns zeros (R163). -/
def State.readB (s : State) (c : CtxNo) (bad : List (Nat × Nat)) (va : Nat) : Byte :=
  if inRefused bad va then 0 else s.peek c va

/-- A little-endian value read through an access. -/
def State.readLe (s : State) (c : CtxNo) (bad : List (Nat × Nat)) (va n : Nat) : Nat :=
  ofLeBytes ((upFrom va n).map (s.readB c bad))

/-- Bytes written through an access: those of a refused request are discarded (R163). -/
def State.writeB (s : State) (c : CtxNo) (bad : List (Nat × Nat)) (va : Nat) : List Byte → State
  | [] => s
  | b :: t => (if inRefused bad va then s else s.poke c va b).writeB c bad (va + 1) t

/-- Limit of a request class (R148). -/
def classLimit : ReqClass → Nat
  | .rd => 320
  | .wr => 128
  | .rem => 64

/-- The first element that passes the test removed. -/
def dropFirst {α : Type} (p : α → Bool) : List α → List α
  | [] => []
  | a :: t => if p a then t else a :: dropFirst p t

/-- Most requests a use may have outstanding in the write class (R254). -/
def useLimit : ReqUse → Nat
  | .demand => 128
  | .journal => 64
  | .ckpt => 32

/-- Place of a use in R254's row for write slots, highest first. -/
def usePrio : ReqUse → Nat
  | .ckpt => 0
  | .journal => 1
  | .demand => 2

/-- Requests of one class. -/
def Req.ofClass (k : ReqClass) (q : Req) : Bool := q.cls == k

/-- Core-store requests of one bank, reads and writes together (R149). -/
def Req.ofBank (b : Fin 32) (q : Req) : Bool := q.bank == b && q.cls != .rem

/-- Core-store writes of one use. -/
def Req.ofUse (u : ReqUse) (q : Req) : Bool := q.cls == .wr && q.use == u

/-- The bank of an address, its bits [13:9] (R149). -/
def bankOf (va : Nat) : Fin 32 := ⟨va / 512 % 32, Nat.mod_lt _ (by decide)⟩

/-- A request as it is issued at an address: its class by its target (R148). -/
def State.reqAt (s : State) (c : CtxNo) (seq : Word) (use : ReqUse) (write : Bool) (row : Option Nat) (va : Nat) : Req :=
  { cls := match s.xlat c (pageOf va) with
           | some ⟨.remote _, _, _⟩ => .rem
           | _ => if write then .wr else .rd
    write := write, use := use, bank := bankOf va, ctx := c, seq := seq, page := pageOf va, row := row }

/-- Is the page of a request translated with the permission it needs? -/
def State.reaches (s : State) (c : CtxNo) (a : Acc) (r : ReqPlan) : Bool :=
  match s.xlat c (pageOf r.lo) with
  | some x => (a.write || x.read) && (!(a.write || a.rfw) || x.write)
  | none => false

/-- The requests of an access in issue order (R148). -/
def State.accReqs (s : State) (c : CtxNo) (seq : Word) (use : ReqUse) (a : Acc) : List Req :=
  ((s.plan c a).filter (fun r => !r.refused && s.reaches c a r)).map (fun r => s.reqAt c seq use a.write a.row r.lo)

/-- The resource of a class. -/
def ReqClass.res : ReqClass → Res
  | .rd => .rdSlot
  | .wr => .wrSlot
  | .rem => .remSlot

/-- What a request lacks beside those in flight: a slot of its class, its use's share, room at its bank (R148, R149, R254). -/
def lackOf (l : List Req) (r : Req) : Option Res :=
  if classLimit r.cls ≤ (l.filter (Req.ofClass r.cls)).length then some r.cls.res
  else if r.cls == .wr && decide (useLimit r.use ≤ (l.filter (Req.ofUse r.use)).length) then some .quota
  else if r.cls != .rem && decide (48 ≤ (l.filter (Req.ofBank r.bank)).length) then some .bank
  else none

/-- Requests of one stream go out in order until one lacks something, a core-store write also while another waiter goes first: those in
flight then, how many went out, what the next one lacks (R148, R149). -/
def sendReqs (held : Bool) : List Req → List Req → List Req × Nat × Option Res
  | l, [] => (l, 0, none)
  | l, r :: t =>
    match (if held && r.cls == .wr then some .wrSlot else lackOf l r) with
    | some x => (l, 0, some x)
    | none => let q := sendReqs held (l ++ [r]) t; (q.1, q.2.1 + 1, q.2.2)

/-- How many requests of an access have gone out before its unit runs. -/
def State.sentOf (s : State) (c : CtxNo) (seq : Word) (a : Acc) : Nat :=
  match s.sent.find? (fun x => x.ctx == c && x.seq == seq && x.acc == a) with
  | some x => x.count
  | none => 0

/-- `n` more of them have gone out. -/
def State.noteSent (c : CtxNo) (seq : Word) (s : State) (x : Acc × Nat) : State :=
  if x.2 = 0 then s
  else { s with sent := s.sent.filter (fun y => !(y.ctx == c && y.seq == seq && y.acc == x.1)) ++ [⟨c, seq, x.1, s.sentOf c seq x.1 + x.2⟩] }

/-- The requests of an access that have not gone out. -/
def State.restReqs (s : State) (c : CtxNo) (seq : Word) (use : ReqUse) (a : Acc) : List Req := (s.accReqs c seq use a).drop (s.sentOf c seq a)

/-! ### Waiting for shared resources (R254, R255) -/

/-- Is this the wait of a command for a resource? -/
def Wait.is (w : Wait) (r : Res) (c : CtxNo) (seq : Word) : Bool := w.res == r && w.ctx == c && w.seq == seq

/-- Does waiter `w` go before a request of class `prio` that arrived at tick count `tick`? A higher class first (R254); a waiter
that has waited across a boundary before every request that arrived after it (R255, log 57). -/
def Wait.before (w : Wait) (prio : Nat) (tick : Word) : Bool := decide (w.prio < prio) || w.tick != tick

/-- Must a command let another waiter have the resource first? Within a class the oldest goes first (R254). -/
def State.behind (s : State) (r : Res) (prio : Nat) (c : CtxNo) (seq : Word) : Bool :=
  match findAt (fun w => w.is r c seq) s.waits 0 with
  | some (k, mine) =>
    (s.waits.take k).any (fun w => w.res == r && (w.prio == prio || w.before prio mine.tick))
      || (s.waits.drop (k + 1)).any (fun w => w.res == r && decide (w.prio < prio) && w.tick == mine.tick)
  | none => s.waits.any (fun w => w.res == r && (w.prio == prio || w.before prio s.tick.count))

/-- The command waits for the resource. -/
def State.await (s : State) (r : Res) (prio : Nat) (c : CtxNo) (seq : Word) : State :=
  if s.waits.any (fun w => w.is r c seq) then s else { s with waits := s.waits ++ [⟨r, prio, c, seq, s.tick.count⟩] }

/-- Waits of a command are over. -/
def State.unwait (s : State) (c : CtxNo) (seq : Word) : State :=
  { s with waits := s.waits.filter (fun w => !(w.ctx == c && w.seq == seq)) }

/-- Waits of a context are over, and what went out ahead is given up: it parks, stops or is reset. -/
def State.unwaitAll (s : State) (c : CtxNo) : State :=
  { s with waits := s.waits.filter (fun w => w.ctx != c), sent := s.sent.filter (fun x => x.ctx != c) }

/-- The requests of accesses as they can go out now, each stream on its own: those in flight then, how many of each access went out, the
first resource that one lacks. -/
def State.issueAll (s : State) (c : CtxNo) (seq : Word) (use : ReqUse) (as : List Acc) : List Req × List (Acc × Nat) × Option Res :=
  let held := s.behind .wrSlot (usePrio use) c seq
  as.foldl (fun p a =>
    let q := sendReqs held p.1 (s.restReqs c seq use a)
    (q.1, p.2.1 ++ [(a, q.2.1)], p.2.2.orElse (fun _ => q.2.2))) (s.reqs, [], none)

/-- The requests of a unit find their slots; or those that do go out, and the unit waits for what the next ones lack (R148, R149, R254,
R255). -/
def State.takeSlots (s : State) (c : CtxNo) (seq : Word) (use : ReqUse) (as : List Acc) : Bool × State :=
  let q := s.issueAll c seq use as
  match q.2.2 with
  | none => (true, s.unwait c seq)
  | some r => (false, (q.2.1.foldl (State.noteSent c seq) { s with reqs := q.1 }).await r (usePrio use) c seq)

/-- Requests that go out all at once, or none and their command waits: those of an image or of a page that is copied. -/
def State.takeRaw (s : State) (c : CtxNo) (seq : Word) (use : ReqUse) (rs : List Req) : Bool × State :=
  let q := sendReqs false s.reqs rs
  match q.2.2 with
  | none => (true, { (s.unwait c seq) with reqs := q.1 })
  | some r => (false, s.await r (usePrio use) c seq)

/-- The read requests of `n` bytes at an address that no descriptor covers: one a block (R147, R150). -/
def State.rawReads (s : State) (c : CtxNo) (seq : Word) (use : ReqUse) (va n : Nat) : List Req :=
  let pieces := cutSpan (n / 512 + 2) va n
  (dedup (pieces.map (fun p => max va (s.blockOf c p.1).1)) []).map (s.reqAt c seq use false none)

/-- The accesses of a unit are planned and translated, and the requests of `held` have slots: true when all is so. -/
def State.openSome (s : State) (c : CtxNo) (seq : Word) (use : ReqUse) (as held : List Acc) : Bool × State :=
  let r := s.acquire c (as.flatMap (fun a => accNeeds a (BitVec.ofNat 16 seq.toNat) (s.plan c a)))
  if !r.1 then r else r.2.takeSlots c seq use held

/-- The accesses of a unit are planned and translated, and its requests have slots: true when all is so. -/
def State.openFor (s : State) (c : CtxNo) (seq : Word) (use : ReqUse) (as : List Acc) : Bool × State := s.openSome c seq use as as

/-- The accesses of a demand unit that reads. -/
def State.openAll (s : State) (c : CtxNo) (seq : Word) (as : List Acc) : Bool × State := s.openFor c seq .demand as

/-- No write of the command waits for its acknowledgement. -/
def State.acked (s : State) (c : CtxNo) (seq : Word) : Bool := !s.reqs.any (fun r => r.write && r.ctx == c && r.seq == seq)

/-! ### Tracked writes (R286 to R288) -/

/-- The window page number of a page, when the epoch is armed and the page lies in the watch window. -/
def Ckpt.window (k : Ckpt) (page : Nat) : Option Nat :=
  if k.armed ∧ k.watchBase / 65536 ≤ page ∧ page < k.watchBase / 65536 + k.watchPages
  then some (page - k.watchBase / 65536) else none

/-- The copy of a window page that is in flight. -/
def Ckpt.flight (k : Ckpt) (i : Nat) : Option Flight := k.flights.find? (fun f => f.page == i)

/-- Is the window page's copy made, or was its first write let by uncopied (R287, R288)? -/
def Ckpt.settled (k : Ckpt) (i : Nat) : Bool := (k.copied.contains i && (k.flight i).isNone) || k.missedPages.contains i

/-- The first of the pages whose copy must come before the write (R287). -/
def Ckpt.firstUncopied (k : Ckpt) (pages : List Nat) : Option Nat :=
  pages.find? (fun p => match k.window p with
    | some i => !k.settled i
    | none => false)

/-- Pages an access writes. -/
def State.writePages (s : State) (c : CtxNo) (as : List Acc) : List Nat :=
  dedup ((as.filter (·.write)).flatMap (fun a => ((s.plan c a).filter (fun r => !r.refused)).map (fun r => pageOf r.first))) []

/-- A tracked write outside the window of an armed epoch counts its page once (R287). -/
def Ckpt.noteUnwatched (k : Ckpt) (pages : List Nat) : Ckpt :=
  if k.armed then
    { k with unwatched := pages.foldl (fun l p => if (k.window p).isSome || l.contains p then l else l ++ [p]) k.unwatched }
  else k

/-- A unit that has been opened writes pages; where an armed epoch asks for it, they are copied first (R287). -/
def State.copiedFirst (s : State) (c : CtxNo) (seq : Word) (as : List Acc) : Bool × State :=
  match s.ckpt.firstUncopied (s.writePages c as) with
  | some p => (false, s.modCtx c (fun x => { x with wantPage := some p, wantSeq := seq }))
  | none => (true, s)

/-- The accesses of a unit that writes: translated and, where an armed epoch asks for it, copied first (R156, R287). -/
def State.openWrites (s : State) (c : CtxNo) (seq : Word) (as : List Acc) : Bool × State :=
  let r := s.openAll c seq as
  if !r.1 then r else r.2.copiedFirst c seq as

/-- The requests of accesses are issued, but for those that have gone out: each holds its slot until it completes (R148). Its unit was opened,
so each finds one. -/
def State.issue (s : State) (c : CtxNo) (seq : Word) (use : ReqUse) (as : List Acc) : State :=
  { s with
    reqs := as.foldl (fun l a => (sendReqs false l (s.restReqs c seq use a)).1) s.reqs
    sent := s.sent.filter (fun x => !(x.ctx == c && x.seq == seq && as.contains x.acc)) }

/-- The unit commits: refused requests are counted, the tracked write noted, translations given up. -/
def State.endUnit (s : State) (c : CtxNo) (as : List Acc) : State :=
  let oob := (as.map (fun a => (s.refusals c a).length)).foldl (· + ·) 0
  let pages := s.writePages c as
  let s2 := { s with ckpt := s.ckpt.noteUnwatched pages }
  let s3 := if pages.isEmpty then s2 else s2.modCtx c (fun x => { x with tracked := true })
  (s3.countOob c oob).unpin c

/-- The unit issues its requests and commits. -/
def State.closeUnit (s : State) (c : CtxNo) (seq : Word) (as : List Acc) : State := (s.issue c seq .demand as).endUnit c as

/-! ### Packets, replies, handles -/

/-- A command's opcode (R193). -/
def Cmd.op (m : Cmd) : Nat := fld m.pkt 0 8

/-- A command's sequence number. -/
def Cmd.seq (m : Cmd) : Word := m.pkt.extractLsb' 32 32

/-- A packet field as a number. -/
def Cmd.f (m : Cmd) (lo len : Nat) : Nat := fld m.pkt lo len

/-- A packet bit. -/
def Cmd.bit (m : Cmd) (i : Nat) : Bool := bitAt m.pkt i

/-- A reply with a status and nothing else (R197). -/
def Reply.of (status : Byte) : Reply :=
  { status := status, fieldSpace := 0, fieldBit := 0, entry := 0xFFFF, rng := false, acc := 0, result0 := 0, result1 := 0,
    result2 := 0, lost := 0 }

/-- SUCCESS. -/
def Reply.ok : Reply := .of 0x00

/-- MALFORMED naming a packet field (R6, R197). -/
def Reply.bad (bit : Nat) : Reply := { Reply.of 0x01 with fieldSpace := 1, fieldBit := BitVec.ofNat 10 bit }

/-- MALFORMED naming a field of a descriptor image; `entry` is the handle, 0xFFFF for DESC_CREATE. -/
def Reply.badDesc (bit entry : Nat) : Reply :=
  { Reply.of 0x01 with fieldSpace := 2, fieldBit := BitVec.ofNat 10 bit, entry := BitVec.ofNat 16 entry }

/-- MALFORMED naming a field of a table image; 0xFFFF for its header. -/
def Reply.badTable (entry bit : Nat) : Reply :=
  { Reply.of 0x01 with fieldSpace := 3, fieldBit := BitVec.ofNat 10 bit, entry := BitVec.ofNat 16 entry }

def stHandle : Byte := 0x02
def stNoSlot : Byte := 0x03
def stTagConflict : Byte := 0x04
def stNoDesc : Byte := 0x05
def stDescInUse : Byte := 0x06
def stRegion : Byte := 0x07
def stOverlap : Byte := 0x08
def stTableOwner : Byte := 0x09
def stChainBusy : Byte := 0x0A
def stPageFault : Byte := 0x0B
def stBarrierTimeout : Byte := 0x0C
def stDiscardPartial : Byte := 0x0D
def stTaskState : Byte := 0x0E
def stJobFailed : Byte := 0x0F
def stJobBusy : Byte := 0x10
def stDenied : Byte := 0x11
def stAuth : Byte := 0x12

/-- A 32-bit word from a number. -/
def w32 (n : Nat) : Word := BitVec.ofNat 32 n

/-- Descriptor entry `i`. -/
def State.descAt (s : State) (i : Nat) : Option Desc := (s.descs.find? (fun p => p.1 == i)).map (·.2)

/-- R142: the descriptor a handle names for a context, or none for HANDLE_INVALID. -/
def State.handle (s : State) (c : CtxNo) (h : Nat) : Option Desc :=
  match s.descAt (h % 1024) with
  | some d => if h / 1024 % 64 = (Tbl.get 0 s.descGen (h % 1024)).toNat ∧ d.ctx = c then some d else none
  | none => none

/-- Is the slot resident in the sense of a handle or a tag match (R96, R117)? -/
def Slot.named (x : Slot) : Bool := x.resident && x.state != .free && x.state != .releasePending

/-- R96: the slot number a handle names for a context, or none for HANDLE_INVALID. -/
def State.slotHandle (s : State) (c : CtxNo) (h : Nat) : Option Nat :=
  let i := h % 64
  let x := s.slot i
  if i < 48 ∧ h / 64 % 8 = c.val ∧ h / 512 % 128 = x.gen.toNat ∧ x.named ∧ x.ctx = c then some i else none

/-- The handle of a slot (R96). -/
def Slot.handle (x : Slot) (i : Nat) : Nat := i + x.ctx.val * 64 + x.gen.toNat * 512

/-- A slot freed: no owner, the generation advanced when it was resident (R96, R98). -/
def Slot.release (x : Slot) : Slot := { Slot.reset with gen := if x.resident then x.gen + 1 else x.gen }

/-- Replace the command at place `i`. -/
def Context.setCmd (x : Context) (i : Nat) (m : Cmd) : Context := { x with cmds := setAt x.cmds i m }

/-- Put the command at place `i` of context `c` in a phase. -/
def State.setPhase (s : State) (c : CtxNo) (i : Nat) (p : Phase) : State :=
  s.modCtx c (fun x => match x.cmds[i]? with
    | some m => x.setCmd i { m with phase := p }
    | none => x)

/-- The command at place `i` waits for nothing any more, and needs nothing that went out ahead. -/
def State.unwaitCmd (s : State) (c : CtxNo) (i : Nat) : State :=
  match (s.ctx c).cmds[i]? with
  | some m => { (s.unwait c m.seq) with sent := s.sent.filter (fun x => !(x.ctx == c && x.seq == m.seq)) }
  | none => s

/-- The command at place `i` completes with a reply. -/
def State.finish (s : State) (c : CtxNo) (i : Nat) (r : Reply) : State := ((s.unwaitCmd c i).setPhase c i (.finished r)).unpin c

/-! ### Completion ring and event records (R195, R198 to R202) -/

/-- Depth of a ring: 2^6 to 2^16, other codes acting as 6 (R202). -/
def ringDepth (log2 : Nat) : Nat := if 6 ≤ log2 ∧ log2 ≤ 16 then 2 ^ log2 else 64

def Context.cmdDepth (x : Context) : Nat := ringDepth (fld x.cfg 0 5)
def Context.cplDepth (x : Context) : Nat := ringDepth (fld x.cfg 5 5)

/-- Free entries of the completion ring (R200). -/
def Context.cplFree (x : Context) : Nat := x.cplDepth - dist32 x.cplTail x.cplHead

/-- Ring pass marker of entry `i` (R198). -/
def phaseBit (i : Word) (depth : Nat) : Nat := (i.toNat / depth + 1) % 2

/-- Address of completion entry CPL_TAIL. -/
def Context.cplAddr (x : Context) : Nat := (x.cplBase.toNat + x.cplTail.toNat % x.cplDepth * 32) % 2 ^ 48

/-- What a ring access demands of its page (R161). -/
def ringNeed (va : Nat) (write : Bool) : FaultRec :=
  { vaddr := va, desc := 0, read := !write, write := write, perm := false, noDesc := true, header := false, seq := 0,
    stream := 0, faults := 0, guard := false }

/-- A page's TLB entry becomes the most recently used (R152). -/
def State.touchTlb (s : State) (page : Nat) : State :=
  { s with tlb := match tlbFind s.tlb page with
      | some x => tlbFill s.tlb page x
      | none => s.tlb }

/-- Is a ring page translated? If not, its walk is asked for. -/
def State.ringReady (s : State) (c : CtxNo) (va : Nat) (write : Bool) : Bool × State :=
  if s.needOk c (ringNeed va write) then (true, s.touchTlb (pageOf va))
  else (false, { s with walks := addWalk s.walks ⟨pageOf va, c, true, false, ringNeed va write, 1⟩ })

/-- One pulse of an event line (R12). -/
def State.pulse (s : State) (line : Nat) : State := { s with evt := setFld s.evt line 1 1 }

/-- A 32-byte completion entry is written with its PHASE, and CPL_TAIL advances (R198). -/
def State.postEntry (s : State) (c : CtxNo) (e : BitVec 256) : State :=
  let x := s.ctx c
  let e1 := setFld e 8 1 (phaseBit x.cplTail x.cplDepth)
  (s.pokeN c x.cplAddr (leBytes 32 e1.toNat)).modCtx c (fun y => { y with cplTail := y.cplTail + 1 })

/-- The 32 bytes of an event record (R199), PHASE aside. -/
def eventBits (c : CtxNo) (r : EventRec) (lost : BitVec 16) : BitVec 256 :=
  BitVec.ofNat 256 (r.kind.toNat + c.val * 2 ^ 10 + lost.toNat * 2 ^ 16 + r.tick.toNat * 2 ^ 32 + r.seq.toNat * 2 ^ 64
    + r.payload.toNat * 2 ^ 128)

/-- Free entries of the completion ring that no event record has taken (R200). -/
def Context.evtFree (x : Context) : Nat := x.cplFree - (x.held.filter (fun r => r.room.isSome)).length

/-- An event record is posted, with the lost count, which returns to 0 (R200), and its line pulses (R202). -/
def State.postEvent (s : State) (c : CtxNo) (r : EventRec) : State :=
  let x := s.ctx c
  let s1 := (s.postEntry c (eventBits c r (r.room.getD x.lost))).modCtx c (fun y => if r.room.isSome then y else { y with lost := 0 })
  if bitAt x.cfg 15 then s1.pulse (fld x.cfg 13 2) else s1

/-- Is the event kind one that is held rather than dropped (R199)? -/
def heldKind (kind : Byte) : Bool := kind == 0x01 || kind == 0x02 || kind == 0x05 || kind == 0x06

/-- Nothing is posted for a STOPPED context or a stopped engine (R207, R330). -/
def State.mute (s : State) (c : CtxNo) : Bool := (s.ctx c).state == .stopped || s.isFatal

/-- The record of an event has an entry: it is posted at once, or when the walk of the ring's page is back, behind the records
that wait so already. -/
def State.takeEntry (s : State) (c : CtxNo) (r : EventRec) : State :=
  let q := s.ringReady c (s.ctx c).cplAddr true
  if q.1 ∧ (s.ctx c).held.isEmpty then q.2.postEvent c r
  else q.2.modCtx c (fun y => { y with held := y.held ++ [{ r with room := some y.lost }], lost := 0 })

/-- An event of a context happens: its record is posted, held or dropped (R200). -/
def State.event (s : State) (c : CtxNo) (kind : Byte) (payload : BitVec 128) : State :=
  if s.mute c then s else
  let x := s.ctx c
  let r : EventRec := ⟨none, kind, payload, s.tick.count, x.eventSeq⟩
  let s1 := s.modCtx c (fun y => { y with eventSeq := y.eventSeq + 1 })
  if x.held.all (fun h => h.room.isSome) ∧ x.cmds.length < x.evtFree then s1.takeEntry c r
  else if heldKind kind then s1.modCtx c (fun y => { y with held := y.held ++ [r] })
  else s1.modCtx c (fun y => { y with lost := satAdd y.lost 1 })

/-! ### Byte areas, guards of rows -/

/-- Append bits: a number from (value, width) pairs, least significant first. -/
def packBits : List (Nat × Nat) → Nat
  | [] => 0
  | (v, w) :: t => v % 2 ^ w + 2 ^ w * packBits t

/-- The next free value (log 4). -/
def State.drawFree (s : State) : Nat × State := (s.free, { s with free := s.free + 1 })

end Sys2Proof.Machine
end

