-- ==== Sys2Proof/Machine/Operands.lean ====
section
/-! DEFINITION. Operand forms: descriptor fields, views and addresses (07), formats (02), codes and rescale tables (06), the
sedge generator (06), elements read and written. -/

namespace Sys2Proof.Machine

/-! ### Descriptor image fields (R141) -/

def Desc.base (d : Desc) : Nat := fld d.image 0 48
def Desc.format (d : Desc) : Nat := fld d.image 48 4
def Desc.ndim (d : Desc) : Nat := fld d.image 52 3
def Desc.canRead (d : Desc) : Bool := bitAt d.image 56
def Desc.canWrite (d : Desc) : Bool := bitAt d.image 57
def Desc.hdrEn (d : Desc) : Bool := bitAt d.image 58
def Desc.hdrAddr (d : Desc) : Nat := fld d.image 128 48
def Desc.size (d : Desc) (k : Nat) : Nat := fld d.image (256 + 128 * k) 32
def Desc.stride (d : Desc) (k : Nat) : Int := toSigned 40 (fld d.image (288 + 128 * k) 40)
def Desc.quant (d : Desc) : Bool := bitAt d.image 64
def Desc.stats (d : Desc) : Bool := bitAt d.image 65
def Desc.qtable (d : Desc) : Nat := fld d.image 66 3
def Desc.qaxis (d : Desc) : Nat := fld d.image 69 3
def Desc.chBase (d : Desc) : Nat := fld d.image 72 12

/-- The dimension numbers of a descriptor. -/
def Desc.dims (d : Desc) : List Nat := List.range d.ndim

/-- Number of elements. -/
def Desc.count (d : Desc) : Nat := (d.dims.map d.size).foldl (· * ·) 1

/-! ### Format table (R17, R22) -/

/-- The fixed format entries 0x0 to 0x7 as R22's words. -/
def fixedEntry (code : Nat) : Word :=
  let mk (cls e m sub spec bias width op out : Nat) : Word :=
    w32 (1 + cls * 2 + e * 2 ^ 4 + m * 2 ^ 8 + sub * 2 ^ 13 + spec * 2 ^ 14 + bias * 2 ^ 16 + width * 2 ^ 24 + op * 2 ^ 27
      + out * 2 ^ 28)
  match code with
  | 0 => mk 0 8 7 1 2 127 2 1 1
  | 1 => mk 0 5 10 1 2 15 2 1 1
  | 2 => mk 1 4 3 1 1 7 1 1 1
  | 3 => mk 1 5 2 1 2 15 1 1 1
  | 4 => mk 2 0 8 0 0 0 1 1 1
  | 5 => mk 2 0 4 0 0 0 0 1 1
  | 6 => mk 3 8 23 1 2 127 3 0 1
  | _ => mk 3 8 23 1 2 127 4 0 1

/-- The format-table entry of a code, custom ones from the given bound entries (R24). -/
def fmtEntry (fmts : Vector Word 8) (code : Nat) : Word :=
  if code < 8 then fixedEntry code else fmts.toList.getD (code - 8) 0

def fmtValid (e : Word) : Bool := bitAt e 0
def fmtClass (e : Word) : Nat := fld e 1 2
def fmtOperand (e : Word) : Bool := bitAt e 27
def fmtOutput (e : Word) : Bool := bitAt e 28
def fmtWidth (e : Word) : Nat := fld e 24 3

/-- Storage bits of an element: 4, 8, 16, 32 or 64. -/
def fmtBits (e : Word) : Nat := 4 * 2 ^ fmtWidth e

/-- The floating-point parameters an entry gives (R18). -/
def fmtFloat (e : Word) : FloatFmt :=
  { e := fld e 4 4, m := fld e 8 5, bias := fld e 16 8, sub := bitAt e 13,
    spec := match fld e 14 2 with
      | 0 => .finiteOnly
      | 1 => .nanOnly
      | _ => .ieee }

/-- Decode an element's stored bits as a float, unused high bits ignored (R18, R23). -/
def decodeElem (e : Word) (bits : Nat) : Num :=
  let f := fmtFloat e
  f.decode (bits % 2 ^ (1 + f.e + f.m))

/-! ### Footprint, walk order and views (R136, R143, R144, R211) -/

/-- Storage bytes of an element, or of a packed row of dimension 0. -/
def Desc.rowUnit (d : Desc) (e : Word) : Nat := if fmtWidth e = 0 then ceilDiv (d.size 0) 2 else fmtBits e / 8

/-- Dimensions that enter the address by their stride (all but dimension 0 of a 4-bit format). -/
def Desc.strided (d : Desc) (e : Word) : List Nat := if fmtWidth e = 0 then d.dims.drop 1 else d.dims

/-- R144: the footprint as signed bounds. -/
def Desc.footprint (d : Desc) (e : Word) : Int × Int :=
  (d.strided e).foldl (fun p k =>
      let x := d.stride k * ((d.size k : Int) - 1)
      if d.stride k < 0 then (p.1 + x, p.2) else (p.1, p.2 + x))
    ((d.base : Int), (d.base : Int) + d.rowUnit e - 1)

/-- R143: address of the element at coordinates, and whether it is the high nibble. -/
def Desc.addr (d : Desc) (e : Word) (coord : Nat → Nat) : Nat × Bool :=
  let off := ((d.strided e).map (fun k => d.stride k * (coord k : Int))).foldl (· + ·) (0 : Int)
  if fmtWidth e = 0 then (((d.base : Int) + (coord 0 / 2 : Nat) + off).toNat, coord 0 % 2 == 1)
  else (((d.base : Int) + off).toNat, false)

/-- Coordinate along dimension k of the element with logical index pos, over a list of dimensions (dimension 0 innermost). -/
def coordIn (size : Nat → Nat) : List Nat → Nat → Nat → Nat
  | [], _, _ => 0
  | k :: t, pos, q => if k = q then pos % max 1 (size k) else coordIn size t (pos / max 1 (size k)) q

/-- Coordinates of logical index pos (R136). -/
def Desc.coords (d : Desc) (pos : Nat) : Nat → Nat := coordIn d.size d.dims pos

/-- R136: the logical index of coordinates. -/
def Desc.logical (d : Desc) (coord : Nat → Nat) : Nat :=
  (d.dims.foldl (fun (p : Nat × Nat) k => (p.1 + coord k * p.2, p.2 * d.size k)) (0, 1)).1

/-- The dimensions other than the feature dimension. -/
def Desc.others (d : Desc) (feat : Nat) : List Nat := d.dims.filter (· != feat)

/-- R211: extent along the feature axis. -/
def Desc.cols (d : Desc) (feat : Nat) : Nat := d.size feat

/-- R211: extent along the flattened second axis. -/
def Desc.rows (d : Desc) (feat : Nat) : Nat := ((d.others feat).map d.size).foldl (· * ·) 1

/-- R211: coordinates of view element (row, col). -/
def Desc.view (d : Desc) (feat row col : Nat) : Nat → Nat :=
  fun k => if k = feat then col else coordIn d.size (d.others feat) row k

/-- A descriptor with its bound format entry. -/
structure Opnd where
  desc : Desc
  idx : Nat
  fmt : Word
  stream : Nat
  deriving DecidableEq, Repr

/-- The operand a handle names, for a command's bound formats. -/
def State.opnd (s : State) (fmts : Vector Word 8) (h stream : Nat) : Option Opnd :=
  (s.descAt (h % 1024)).map (fun d => ⟨d, h % 1024, fmtEntry fmts d.format, stream⟩)

/-- Address span of an element. -/
def Opnd.span (o : Opnd) (coord : Nat → Nat) : Nat × Nat := ((o.desc.addr o.fmt coord).1, max 1 (fmtBits o.fmt / 8))

/-- An access of the operand's stream over spans. -/
def Opnd.acc (o : Opnd) (write rfw : Bool) (spans : List (Nat × Nat)) : Acc :=
  { region := o.desc.region, lo := o.desc.lo, hi := o.desc.hi, write := write, rfw := rfw, desc := o.idx,
    stream := o.stream, header := false, spans := spans }

/-- The stored bits of an element. -/
def State.elemBits (s : State) (c : CtxNo) (bad : List (Nat × Nat)) (o : Opnd) (coord : Nat → Nat) : Nat :=
  let a := o.desc.addr o.fmt coord
  if fmtWidth o.fmt = 0 then
    let b := (s.readB c bad a.1).toNat
    if a.2 then b / 16 else b % 16
  else s.readLe c bad a.1 (fmtBits o.fmt / 8)

/-- Store the bits of an element; a nibble leaves its neighbour unchanged (R21). -/
def State.putBits (s : State) (c : CtxNo) (bad : List (Nat × Nat)) (o : Opnd) (coord : Nat → Nat) (v : Nat) : State :=
  let a := o.desc.addr o.fmt coord
  if fmtWidth o.fmt = 0 then
    let b := (s.readB c bad a.1).toNat
    s.writeB c bad a.1 [BitVec.ofNat 8 (if a.2 then b % 16 + v % 16 * 16 else b / 16 * 16 + v % 16)]
  else s.writeB c bad a.1 (leBytes (fmtBits o.fmt / 8) v)

/-! ### Byte areas (R212) -/

/-- Is the descriptor a byte area, in a format that may be named (R17)? -/
def Opnd.byteArea (o : Opnd) : Bool := o.desc.ndim == 1 && fmtValid o.fmt && fmtWidth o.fmt == 1

/-- May the descriptor be written (R17, R145)? -/
def Opnd.output (o : Opnd) : Bool := fmtValid o.fmt && fmtOutput o.fmt && o.desc.canWrite

/-- Address of byte `i` of a byte area. -/
def Opnd.byteAddr (o : Opnd) (i : Nat) : Nat := (o.desc.addr o.fmt (fun _ => i)).1

/-- Spans of bytes i to i + n - 1 of a byte area. -/
def Opnd.byteSpans (o : Opnd) (i n : Nat) : List (Nat × Nat) :=
  if o.desc.stride 0 = 1 then [(o.byteAddr i, n)] else (upFrom i n).map (fun k => (o.byteAddr k, 1))

/-- Bytes i to i + n - 1 of a byte area. -/
def State.areaBytes (s : State) (c : CtxNo) (bad : List (Nat × Nat)) (o : Opnd) (i n : Nat) : List Byte :=
  (upFrom i n).map (fun k => s.readB c bad (o.byteAddr k))

/-- Store bytes into a byte area from byte `i` on. -/
def State.putArea (s : State) (c : CtxNo) (bad : List (Nat × Nat)) (o : Opnd) (i : Nat) : List Byte → State
  | [] => s
  | b :: t => (s.writeB c bad (o.byteAddr i) [b]).putArea c bad o (i + 1) t

/-! ### Rescale tables (R120 to R128, R132) -/

def rtValid (h : BitVec 512) : Bool := bitAt h 0
def rtCode (h : BitVec 512) : Nat := fld h 1 1
def rtChannels (h : BitVec 512) : Nat := fld h 16 13
def rtThresh (h : BitVec 512) : Nat := fld h 32 20

/-- Bits of a code of a table: 8 for INT8, 4 for INT4. -/
def rtBits (h : BitVec 512) : Nat := if rtCode h = 0 then 8 else 4

/-- Scale of an entry. -/
def entScale (e : BitVec 64) : Num := ofF32 (e.extractLsb' 0 32)

/-- Zero point of an entry. -/
def entZero (e : BitVec 64) : Nat := fld e 32 8

/-- Table `t` as a command of context `c` binds it (R124). -/
def State.bindTable (s : State) (c : CtxNo) (t : Nat) : BoundTable :=
  ⟨⟨t % 8, Nat.mod_lt _ (by decide)⟩, (s.rt t).owner == some c, (s.rt t).hdr, (s.rt t).entries⟩

/-- Table `t` as the command bound it at its admission: as it stood before a later load, or as it stands (R24, R124). -/
def State.boundTable (s : State) (c : CtxNo) (m : Cmd) (t : Nat) : BoundTable :=
  (m.tabs.find? (fun b => b.number.val == t % 8)).getD (s.bindTable c t)

/-- The table of a quantised operand, as the command bound it; none when QUANT = 0. -/
def State.bindFor (s : State) (c : CtxNo) (m : Cmd) (o : Opnd) : Option BoundTable :=
  if o.desc.quant then some (s.boundTable c m o.desc.qtable) else none

/-- R121: the table entry number of an element. -/
def Desc.channel (d : Desc) (coord : Nat → Nat) : Nat :=
  if d.qaxis = 7 then d.chBase else d.chBase + coord d.qaxis

/-- Entry `ch` of a bound table. -/
def BoundTable.entry (b : BoundTable) (ch : Nat) : BitVec 64 := Tbl.get 0 b.entries ch

/-- An integer q - z as a number (R20). -/
def codeDiff (q z : Nat) : Num := Num.ofInt ((q : Int) - z)

/-- An element as the multiplier or tree sees it (R20, R36, R128): a float's value; a code's difference on the exact path,
or its prescaled BF16 value. -/
def opndValue (o : Opnd) (tab : Option BoundTable) (prescaled : Bool) (coord : Nat → Nat) (bits : Nat) : Num × Flag :=
  match tab with
  | none =>
    let v := decodeElem o.fmt bits
    (v, ⟨false, !v.isFin⟩)
  | some b =>
    let e := b.entry (o.desc.channel coord)
    let d := codeDiff bits (entZero e)
    if prescaled then fmtBF16.round ((entScale e).mul d) else (d, .clear)

/-! ### Operands as the lane bank holds them (R36, R39) -/

/-- Is the operand an 8-bit float at the multiplier when nothing widens it (R36)? -/
def eightBit (o : Opnd) : Bool := fmtClass o.fmt == 1 || (o.desc.quant && o.desc.format == 5)

/-- The float format in which a cell holds an operand after expansion and widening. -/
def Opnd.heldFmt (o : Opnd) (pres eight : Bool) : FloatFmt :=
  if pres || (eightBit o && !eight) then fmtBF16
  else if o.desc.quant then (if o.desc.format = 5 then fmtE4M3 else fmtFP16)
  else fmtFloat o.fmt

/-- A stationary bank's 16 bits: one 16-bit element or two 8-bit elements. -/
def holdPair (f : FloatFmt) (eight : Bool) (a : Num) (b : Option Num) : BitVec 16 :=
  let x := (f.encode a).1
  BitVec.ofNat 16 (if eight then x + 256 * (match b with
    | some v => (f.encode v).1
    | none => 0) else x)

/-- Element 0 or 1 of a held word. -/
def heldNum (f : FloatFmt) (eight : Bool) (w : BitVec 16) (k : Nat) : Num :=
  f.decode (if eight then w.toNat / 256 ^ k % 256 else w.toNat)

/-! ### Range banks (R132) -/

/-- FP32 bits of a range value; either zero is recorded as +0. -/
def rangeBits (v : Num) : Word := if v.isZero then 0 else (toF32 v).1

/-- One value recorded in a bank: minimum and maximum of its channel, NaNs counted. -/
def RescaleTable.record (t : RescaleTable) (ch : Nat) (v : Num) : RescaleTable :=
  match v with
  | .nan => { t with nanCount := satAdd t.nanCount 1 }
  | _ =>
    let e := Tbl.get emptyRange t.ranges ch
    let mn := e.extractLsb' 0 32
    let mx := e.extractLsb' 32 32
    let b := rangeBits v
    let mn2 := if (ofF32 b).lt (ofF32 mn) then b else mn
    let mx2 := if (ofF32 mx).lt (ofF32 b) then b else mx
    { t with ranges := Tbl.put emptyRange t.ranges ch (mx2 ++ mn2) }

/-- One value recorded in bank `n`. -/
def State.recordRange (s : State) (n ch : Nat) (v : Num) : State := s.setRt n ((s.rt n).record ch v)

/-- The values of an operand stream with STATS = 1, QUANT = 0 recorded (R132). -/
def State.recordStats (s : State) (o : Opnd) (vals : List ((Nat → Nat) × Num)) : State :=
  if o.desc.stats && !o.desc.quant then
    vals.foldl (fun t p => t.recordRange o.desc.qtable (o.desc.channel p.1) p.2) s
  else s

/-! ### Sedge generator (R135) -/

/-- Six rounds of the counter-based draw. -/
def sedgeRounds : Nat → Nat → Nat → Nat → Nat → Nat
  | 0, a, b, _, _ => Nat.xor a b
  | n + 1, a, b, k, m =>
    let p := a * 0xA7D31C4B
    sedgeRounds n (Nat.xor (Nat.xor (p / 2 ^ 32) b) k) (p % 2 ^ 32) ((k + m + 0x5E91B26F) % 2 ^ 32) m

/-- R135: the draw for an element. -/
def sedge (seed stream pos : Nat) : Nat :=
  sedgeRounds 6 (pos % 2 ^ 32) (pos / 2 ^ 32) (seed % 2 ^ 32) (Nat.xor (seed / 2 ^ 32) stream)

/-- R135: is the element kept? -/
def sedgeKeep (seed stream keep pos : Nat) : Bool := decide (sedge seed stream pos / 2 ^ 8 < keep)

/-! ### Streams' reading direction (R213) -/

/-- Twice the spacing in bytes of a dimension for R213. -/
def Desc.spacing (d : Desc) (e : Word) (k : Nat) : Nat :=
  if fmtWidth e = 0 ∧ k = 0 then 1 else 2 * (d.stride k).natAbs

/-- The deciding dimension of R213, or none. -/
def Desc.deciding (d : Desc) (e : Word) : Option Nat :=
  (d.dims.filter (fun k => decide (1 < d.size k))).foldl (fun best k =>
    match best with
    | none => some k
    | some b => if d.spacing e k < d.spacing e b then some k else some b) none

/-- Is a stream whose beats run along the feature axis (true) or the other axis (false) read row-wise? -/
def Opnd.rowWise (o : Opnd) (feat : Nat) (alongFeat : Bool) : Bool :=
  match o.desc.deciding o.fmt with
  | none => true
  | some k => (k == feat) == alongFeat

end Sys2Proof.Machine
end

