-- ==== Sys2Proof/Machine/Flags.lean ====
section
/-! DEFINITION. The slot accumulation word and the tensor header: promotion counts, sticky flags (R90 to R94, R106, R107). -/

namespace Sys2Proof.Machine

/-- PROMO_COUNT of an accumulation word (R90). -/
def accCount (w : Word) : Nat := fld w 0 24

/-- The flag bits of an accumulation word: SAT, NONFINITE, BOUND_LAPSE, PRESCALED. -/
def accFlags (w : Word) : Nat := fld w 24 4

/-- An accumulation word from a count and flag bits; a count above 2^23 sets BOUND_LAPSE (R92), and it saturates. -/
def accMake (count flags : Nat) : Word :=
  let lapse := if 2 ^ 23 < count then 4 else 0
  w32 (min count 0xFFFFFF + Nat.lor (flags % 16) lapse * 2 ^ 24)

/-- Flag bits of SAT and NONFINITE. -/
def Flag.bits (f : Flag) : Nat := (if f.sat then 1 else 0) + (if f.nf then 2 else 0)

/-- The word with flags set (R93). -/
def accSet (w : Word) (flags : Nat) : Word := accMake (accCount w) (Nat.lor (accFlags w) flags)

/-- R91: a drain of one interval. -/
def accDrain (w : Word) (flags : Nat) : Word := accMake (accCount w + 1) (Nat.lor (accFlags w) flags)

/-- R91, R94: a merge of a segment or shadow: 1 plus its count, its flags. -/
def accMerge (w seg : Word) (flags : Nat) : Word :=
  accMake (accCount w + 1 + accCount seg) (Nat.lor (Nat.lor (accFlags w) (accFlags seg)) flags)

/-- R108: OR of flags and the largest count. -/
def accJoin (a b : Word) : Word :=
  w32 (max (accCount a) (accCount b) + Nat.lor (accFlags a) (accFlags b) * 2 ^ 24)

/-- Header flag nibble LAPSE, SAT, NONFINITE, PRESCALED (R106) as accumulation-word flags, and back. -/
def hdrToAcc (n : Nat) : Nat := n / 2 % 2 + n / 4 % 2 * 2 + n % 2 * 4 + n / 8 % 2 * 8
def accToHdr (n : Nat) : Nat := n / 4 % 2 + n % 2 * 2 + n / 2 % 2 * 4 + n / 8 % 2 * 8

/-- R91, R94: the word after a preload from a gradient tensor's header. -/
def accFromHeader (h : Nat) (nf : Bool) : Word :=
  accMake (min (h % 2 ^ 32) 0xFFFFFF) (Nat.lor (hdrToAcc (h / 2 ^ 32 % 16)) (if nf then 2 else 0))

/-- R91, R94: the word after a preload from a bias or residual tensor. -/
def accFromBias (nf : Bool) : Word := accMake 0 (if nf then 2 else 0)

/-- R107, R178: the new header: ADD adds the count (plus one per `one`), REPLACE sets it; flags are ORed; WB_COUNT advances. -/
def hdrUpdate (h : Nat) (add : Bool) (count flags wbs : Nat) : Nat :=
  let acc := if add then h % 2 ^ 32 + count else count
  let fl := Nat.lor (Nat.lor (h / 2 ^ 32 % 16) (accToHdr flags)) (if 2 ^ 23 < acc then 1 else 0)
  let wb := min (h / 2 ^ 64 % 2 ^ 32 + wbs) 0xFFFFFFFF
  min acc 0xFFFFFFFF + fl * 2 ^ 32 + wb * 2 ^ 64

end Sys2Proof.Machine
end

