-- ==== Sys2Proof/Machine/Ring.lean ====
section
/-! DEFINITION. Ring order: which command of a context may start, and which earlier ones it waits for (R109, R203, R209). -/

namespace Sys2Proof.Machine

def Phase.isQueued : Phase → Bool
  | .queued => true
  | _ => false

def Phase.isRunning : Phase → Bool
  | .running _ => true
  | _ => false

/-- Has the command completed, every write acknowledged (R148, R189)? -/
def State.cmdDone (s : State) (c : CtxNo) (m : Cmd) : Bool :=
  match m.phase with
  | .finished _ => s.acked c m.seq
  | _ => false

/-- The context runs: the engine is up, the context RUNNING and not waiting to park or to reset. -/
def State.alert (s : State) (c : CtxNo) : Bool :=
  s.up && (s.ctx c).state == .running && !(s.ctx c).resetting && (s.ctx c).fault.isNone

/-- A CTX_EXPORT whose boundary has come (R293). -/
def Cmd.exportDue (m : Cmd) : Bool :=
  match m.phase with
  | .running (.exporting due _ _) => due
  | _ => false

/-- Does an export whose boundary has come wait for its target's state (R293)? Told by whether a CKPT_ARM may take effect at that boundary,
and by the target. -/
def State.unshot (s : State) (f : Bool → CtxNo → Bool) : Bool :=
  s.ctxs.toList.any (fun x => x.cmds.any (fun m => match m.phase with
    | .running (.exporting true opens none) => f opens (ctxOf (m.f 128 3))
    | _ => false))

/-- Has the context a bucket command in flight, and so no settle point (R280)? -/
def Context.bucketRuns (x : Context) : Bool :=
  x.cmds.any (fun m => match m.phase with
    | .running (.send _) => true
    | .running (.recv _ _ _ _ _ _ _ _) => true
    | _ => false)

/-- From its settle point until the image is written an exported context starts no commit unit (R293). -/
def State.exportHolds (s : State) (c : CtxNo) : Bool :=
  (s.ctx c).settled && s.ctxs.toList.any (fun x => x.cmds.any (fun m => m.exportDue && m.f 128 3 == c.val))

/-- The context may start a commit unit: it runs, and neither an epoch point (R283), an export nor an entry to RETAIN (R305)
holds it. -/
def State.active (s : State) (c : CtxNo) : Bool := s.alert c && !s.ckpt.effective && !s.exportHolds c && !s.pow.retaining

/-- Does the phase hold a started unit of its own: a preload, or a write-back row of a product (R155, R239)? -/
def Phase.begun : Phase → Bool
  | .running (.product j) => j.runs.any (fun r => r.begun.isSome)
  | .running (.load _ _ b) => b.isSome
  | _ => false

/-- Has a unit of the context's command started and not committed (R155)? -/
def State.begun (s : State) (c : CtxNo) (seq : Word) : Bool :=
  (s.ctx c).stream.any (fun r => r.seq == seq && r.begun.isSome)
    || s.lane.slice.any (fun r => r.ctx == c && r.parts.any (fun q => q.seq == seq && q.begun.isSome))
    || (s.ctx c).cmds.any (fun m => m.seq == seq && m.phase.begun)

/-- May units of the command go on: a started one does even while none may start (R283, R293, R305). -/
def State.goesOn (s : State) (c : CtxNo) (seq : Word) : Bool := s.active c || (s.alert c && s.begun c seq)

/-- Every command before place `i` has completed. -/
def State.earlierDone (s : State) (c : CtxNo) (i : Nat) : Bool := ((s.ctx c).cmds.take i).all (s.cmdDone c)

/-- A command that holds the later ones of its context until it has finished (R189, R192, R251), a CKPT_ARM or an export of its
own context until its reply is posted (R283, R293). -/
def Cmd.holdsLater (m : Cmd) (c : CtxNo) : Bool :=
  match m.phase with
  | .finished _ => m.op == 0x30 || (m.op == 0x31 && m.f 128 3 == c.val)
  | _ => (m.op == 0x2B && m.bit 12) || m.op == 0x2C || m.op == 0x29 || m.op == 0x2A || m.op == 0x30
      || (m.op == 0x31 && m.f 128 3 == c.val)

/-- Does the command, an export that waits for its tick boundary, let a CKPT_ARM of its own context pass (R283, R302)? -/
def Cmd.letsArm (m : Cmd) (op : Nat) : Bool :=
  op == 0x30 && (match m.phase with
    | .running (.exporting due _ _) => !due
    | _ => false)

/-- The first command of the context that has not started. -/
def Context.firstQueued (x : Context) : Option (Nat × Cmd) := findAt (fun m => m.phase.isQueued) x.cmds 0

/-- Is a bank of the unit to be rewritten since a boundary (R324)? -/
def State.unitShut (s : State) (u : Nat) : Bool := s.bist.rewriteDue.any (fun x => x.1 == u && x.2.2.2 != s.tick.count)

/-- Does the command use descriptors, tables or its queue once it has started: all but NOP, BARRIER and FENCE (log 48)? -/
def Cmd.usesTables (m : Cmd) : Bool := !(m.op == 0x00 || m.op == 0x2B || m.op == 0x2C)

/-- Is the command new work on a bank of the descriptor table, the queues or the tables that is to be rewritten (R324)? -/
def State.barred (s : State) (m : Cmd) : Bool := m.usesTables && (s.unitShut 3 || s.unitShut 4 || s.unitShut 6)

/-- The command to start, when it has this opcode and nothing holds it back (R203, R324). -/
def State.starting (s : State) (c : CtxNo) (op : Nat) : Option (Nat × Cmd) :=
  if s.active c then
    match (s.ctx c).firstQueued with
    | some (i, m) => if m.op = op ∧ ¬ ((s.ctx c).cmds.take i).any (fun k => k.holdsLater c && !k.letsArm op) ∧ ¬ s.barred m then some (i, m) else none
    | none => none
  else none

/-- The first started and unfinished command of this opcode that may go on; a started unit and a write phase always may (R283). -/
def State.continuing (s : State) (c : CtxNo) (op : Nat) : Option (Nat × Cmd) :=
  if s.alert c then findAt (fun m => m.op == op && m.phase.isRunning && (s.goesOn c m.seq || m.writePhase)) (s.ctx c).cmds 0 else none

/-- The command that acts at its own admission, wherever it stands (R24, R141). -/
def State.atAdmission (s : State) (c : CtxNo) (op : Nat) : Option (Nat × Cmd) :=
  if s.active c then findAt (fun m => m.op == op && m.phase.isQueued && m.img.isNone && !s.barred m) (s.ctx c).cmds 0 else none

/-- Packet positions of the descriptor handles a command reads through. -/
def Cmd.readFields (m : Cmd) : List Nat :=
  let opt (b : Bool) (l : Nat) : List Nat := if b then [l] else []
  match m.op with
  | 0x01 | 0x02 => [128, 144] ++ opt (m.f 240 2 == 2) 176 ++ opt (m.bit 14) 208 ++ opt (m.bit 16) 432 ++ opt (m.bit 17) 448
  | 0x03 | 0x12 | 0x13 => [128]
  | 0x04 => opt (m.f 179 2 == 2) 160
  | 0x05 => opt (m.bit 14) 144
  | 0x14 => [128, 144]
  | 0x20 => [128]
  | _ => []

/-- Packet positions of the descriptor handles a command writes through. -/
def Cmd.writeFields (m : Cmd) : List Nat :=
  let opt (b : Bool) (l : Nat) : List Nat := if b then [l] else []
  match m.op with
  | 0x01 | 0x02 => [160] ++ opt (m.bit 15) 192
  | 0x03 | 0x12 | 0x13 => [144]
  | 0x05 => opt (m.bit 15) 160
  | 0x06 => opt (m.bit 12) 128
  | 0x14 => [160]
  | 0x18 => [144] ++ opt (m.bit 13) 160
  | 0x21 | 0x22 => [128]
  | 0x31 | 0x39 => [144]
  | _ => []

/-- Footprint and header of a descriptor as byte ranges. -/
def Desc.ranges (d : Desc) : List (Nat × Nat) := (d.lo, d.hi) :: (if d.hdrEn then [(d.hdrAddr, d.hdrAddr + 15)] else [])

/-- The slot a started ACCSTORE or ACCLOAD works on, or the slot its handle names. -/
def State.cmdSlot (s : State) (c : CtxNo) (m : Cmd) : Option Nat :=
  match m.phase with
  | .running (.store i _ _ _ _ _) => some i
  | .running (.load i _ _) => some i
  | _ => if m.op = 0x05 ∨ (m.op = 0x04 ∧ ¬ m.bit 12) ∨ (m.op = 0x06 ∧ ¬ m.bit 12) then s.slotHandle c (m.f 128 16) else none

/-- Resident slots of the context whose tag a product command's tiles match (R100). -/
def State.matched (s : State) (c : CtxNo) (dst feat : Nat) : List Nat :=
  (List.range 48).filter (fun i =>
    let x := s.slot i
    x.named && x.ctx == c && x.desc == dst && x.feat == feat)

/-- Slots a command changes or reads (R109). -/
def State.cmdSlots (s : State) (c : CtxNo) (m : Cmd) : List Nat :=
  if m.op = 1 ∨ m.op = 2 then s.matched c (m.f 160 10) (m.f 230 3)
  else match s.cmdSlot c m with
    | some i => [i]
    | none => []

/-- Byte ranges a command reads. -/
def State.cmdReads (s : State) (c : CtxNo) (m : Cmd) : List (Nat × Nat) :=
  let ds := m.readFields.filterMap (fun l => s.descAt (m.f l 10))
  let own := match s.cmdSlot c m with
    | some i => if m.op = 0x04 ∧ m.f 179 2 = 1 then (s.descAt (s.slot i).desc).toList else []
    | none => []
  let res := if m.op = 0x04 ∧ m.bit 12 ∧ m.f 179 2 = 1 then (s.descAt (m.f 144 10)).toList else []
  (ds ++ own ++ res).flatMap Desc.ranges

/-- Is every block of a product's destination a resident slot of the context (R100)? Re-packed tiles may match none. -/
def State.allResident (s : State) (c : CtxNo) (m : Cmd) : Bool :=
  match s.descAt (m.f 160 10) with
  | none => false
  | some d =>
    let ks := s.matched c (m.f 160 10) (m.f 230 3)
    !m.bit 16 && !m.bit 17 && (List.range (ceilDiv (d.rows (m.f 230 3)) 128)).all (fun rb =>
      (List.range (ceilDiv (d.cols (m.f 230 3)) 128)).all (fun cb =>
        ks.any (fun k => (s.slot k).tileRow == rb && (s.slot k).tileCol == cb)))

/-- Byte ranges a command writes: a product none of its destination's when every block is resident, a SIGNAL its counter. -/
def State.cmdWrites (s : State) (c : CtxNo) (m : Cmd) : List (Nat × Nat) :=
  if m.op = 0x2B then (if m.bit 12 then [] else [(m.f 128 48, m.f 128 48 + 7)]) else
  let fields := if (m.op == 1 || m.op == 2) && s.allResident c m then m.writeFields.filter (· != 160) else m.writeFields
  let ds := fields.filterMap (fun l => s.descAt (m.f l 10))
  let own := match s.cmdSlot c m with
    | some i => if m.op = 0x05 then (s.descAt (s.slot i).desc).toList else []
    | none => []
  (ds ++ own).flatMap Desc.ranges

/-- Do two lists of byte ranges meet? -/
def rangesMeet (a b : List (Nat × Nat)) : Bool :=
  a.any (fun p => b.any (fun q => decide (p.1 ≤ q.2 ∧ q.1 ≤ p.2)))

/-- Rescale tables a QSTAT or QCAL names. -/
def Cmd.statTables (m : Cmd) : List Nat :=
  match m.op with
  | 0x18 => [m.f 128 3]
  | 0x19 => [m.f 128 3, m.f 131 3]
  | _ => []

/-- The table a descriptor names. -/
def Desc.table (d : Desc) : Option Nat := if d.quant || d.stats then some d.qtable else none

/-- Every rescale table a command names: by field, through its descriptors, or through its slot's tag. -/
def State.cmdTables (s : State) (c : CtxNo) (m : Cmd) : List Nat :=
  m.statTables ++ (if m.op = 0x38 ∧ 1 ≤ m.f 128 4 ∧ m.f 128 4 ≤ 8 then [m.f 128 4 - 1] else [])
    ++ (m.readFields ++ m.writeFields).filterMap (fun l => (s.descAt (m.f l 10)).bind Desc.table)
    ++ (if m.op = 0x05 then (s.cmdSlots c m).filterMap (fun k => (s.descAt (s.slot k).desc).bind Desc.table) else [])

/-- Does command `a`, an ACCSTORE with RELEASE, decide what a later resident ACCLOAD or product finds resident (R100, R117, R197)? -/
def State.releases (s : State) (c : CtxNo) (a b : Cmd) : Bool :=
  a.op == 5 && a.bit 12 && ((b.op == 4 && b.bit 12) || (s.cmdSlots c a).any (fun i => (s.cmdSlots c b).contains i))

/-- Do the two commands share bytes that one of them writes? -/
def State.bytesMeet (s : State) (c : CtxNo) (a b : Cmd) : Bool :=
  rangesMeet (s.cmdWrites c a) (s.cmdReads c b ++ s.cmdWrites c b) || rangesMeet (s.cmdReads c a) (s.cmdWrites c b)

/-- Do the two commands name one slot? -/
def State.slotsMeet (s : State) (c : CtxNo) (a b : Cmd) : Bool := (s.cmdSlots c a).any (fun i => (s.cmdSlots c b).contains i)

/-- Does one act on a rescale table that the other names (R133, R134)? -/
def State.tablesMeet (s : State) (c : CtxNo) (a b : Cmd) : Bool :=
  a.statTables.any (fun t => (s.cmdTables c b).contains t) || b.statTables.any (fun t => (s.cmdTables c a).contains t)

/-- Commands that move or compute data: within a context they run one after another but for the overlaps of R203 (R248). -/
def Cmd.isData (m : Cmd) : Bool := [0x01, 0x02, 0x03, 0x04, 0x05, 0x06, 0x12, 0x13, 0x14].contains m.op

/-- BUCKET_SEND and BUCKET_RECV: later commands do not wait for them (R262). -/
def Cmd.isBucket (m : Cmd) : Bool := m.op == 0x20 || m.op == 0x21

/-- Has every tile taken its last interval: is the tile past its loads (R191)? -/
def TilePhase.loaded : TilePhase → Bool
  | .fresh => false
  | .preload => false
  | .run => false
  | _ => true

/-- R191: a product whose last load or lane-operand beat has entered the lane bank is in its epilogue. -/
def Cmd.inEpilogue (m : Cmd) : Bool :=
  match m.phase with
  | .running (.product j) => !j.tiles.isEmpty && decide (j.tiles.length ≤ j.next) && j.runs.all (fun r => r.phase.loaded)
  | .header _ _ => m.op == 1 || m.op == 2
  | _ => false

/-- May product or REDUCE `m` run its prologue beside the epilogue of `k` (R191)? No FENCE lies between, or `k` held `m` back. -/
def State.prologueOk (s : State) (c : CtxNo) (k m : Cmd) : Bool :=
  [0x01, 0x02, 0x03].contains m.op && k.inEpilogue && !rangesMeet (s.cmdWrites c k) (s.cmdReads c m) && !s.slotsMeet c k m && !s.pow.req

/-- R109, R110: a MERGE product on slots of an earlier command starts beside it: its tiles that match resident slots compute into shadow
slots, the others wait. What it reads the earlier command does not write, and of what it writes only its destination meets it. -/
def State.shadows (s : State) (c : CtxNo) (k m : Cmd) : Bool :=
  let side := ((m.writeFields.filter (· != 160)).filterMap (fun l => s.descAt (m.f l 10))).flatMap Desc.ranges
  (m.op == 1 || m.op == 2) && m.bit 12 && s.slotsMeet c k m && !s.releases c k m
    && !rangesMeet (s.cmdWrites c k) (s.cmdReads c m ++ side) && !rangesMeet (s.cmdReads c k) side

/-- A GATHER_ACC may start its windows while the last ones of an earlier one are in flight; row locks order their updates (R176). -/
def State.gathers (s : State) (c : CtxNo) (k m : Cmd) : Bool :=
  m.op == 0x14 && !rangesMeet (s.cmdWrites c k) ((m.readFields.filterMap (fun l => s.descAt (m.f l 10))).flatMap Desc.ranges)
    && (match k.phase with
        | .running (.gather g) => g.ended
        | _ => false)

/-- May command `m` start while the earlier command `k` is unfinished (R109, R203, R209, R248, R262)? -/
def State.letsStart (s : State) (c : CtxNo) (k m : Cmd) : Bool :=
  k.isBucket
    || (if k.isData && m.isData then
        (match k.phase with
         | .finished _ => !s.bytesMeet c k m
         | _ => s.shadows c k m || s.prologueOk c k m || s.gathers c k m)
      else !s.bytesMeet c k m && !s.tablesMeet c k m)

/-- No unfinished earlier command holds the command at place `i` back. -/
def State.noConflict (s : State) (c : CtxNo) (i : Nat) (m : Cmd) : Bool :=
  ((s.ctx c).cmds.take i).all (fun k => s.cmdDone c k || s.letsStart c k m)

/-- Has the command finished, as far as the lane bank is concerned? -/
def Phase.isOver : Phase → Bool
  | .finished _ => true
  | _ => false

/-- Has every tile of the product its slot? -/
def Cmd.placed (m : Cmd) : Bool :=
  match m.phase with
  | .running (.product j) => decide (j.tiles.length ≤ j.next) && j.runs.all (fun r => r.phase != .fresh)
  | .queued => false
  | _ => true

/-- May the intervals of the product or REDUCE at place `i` run: is it past its prologue (R191, R203)? A shadow takes slots once the
commands before it need none (log 12). -/
def State.laneFree (s : State) (c : CtxNo) (i : Nat) (m : Cmd) : Bool :=
  ((s.ctx c).cmds.take i).all (fun k => !k.isData || k.phase.isOver || (s.shadows c k m && k.placed)
    || (match k.phase, m.phase with
        | .running (.product j), .running (.product j2) => j.lead == j2.lead
        | _, _ => false))

/-- No earlier unfinished command writes the `n` bytes at `va`, so a read of them sees every earlier write (R203). -/
def State.readFree (s : State) (c : CtxNo) (i va n : Nat) : Bool :=
  ((s.ctx c).cmds.take i).all (fun k => s.cmdDone c k || k.isBucket || !rangesMeet (s.cmdWrites c k) [(va, va + n - 1)])

/-! ### Checks every opcode makes (R210) -/

/-- The first failing check of a list, as the reply it gives. -/
def firstBad : List (Bool × Reply) → Option Reply
  | [] => none
  | (true, _) :: t => firstBad t
  | (false, r) :: _ => some r

/-- OPFLAGS bits the opcode names (R209). -/
def namedFlags (op : Nat) : List Nat :=
  match op with
  | 0x01 | 0x02 => [12, 13, 14, 15, 16, 17]
  | 0x04 | 0x06 | 0x19 | 0x28 | 0x2B => [12]
  | 0x05 => [12, 14, 15]
  | 0x18 => [12, 13]
  | _ => []

/-- Parameter bits that a field map names, as (lowest bit, width) pairs. -/
def namedParams (op : Nat) : List (Nat × Nat) :=
  match op with
  | 0x01 | 0x02 => [(128, 118), (256, 121), (384, 35), (432, 32)]
  | 0x03 => [(128, 40)]
  | 0x04 => [(128, 55), (192, 64)]
  | 0x05 => [(128, 50)]
  | 0x06 | 0x11 => [(128, 16)]
  | 0x10 => [(128, 48)]
  | 0x12 => [(128, 38)]
  | 0x13 => [(128, 50)]
  | 0x14 => [(128, 50)]
  | 0x18 => [(128, 3), (144, 32)]
  | 0x19 => [(128, 7)]
  | 0x20 | 0x21 => [(128, 28), (160, 18), (192, 16)]
  | 0x22 => [(128, 28)]
  | 0x28 => [(128, 128)]
  | 0x2B => [(128, 128)]
  | 0x30 => [(128, 26)]
  | 0x31 | 0x32 => [(128, 3), (144, 16)]
  | 0x33 => [(128, 15), (144, 16)]
  | 0x38 => [(128, 4), (144, 80)]
  | 0x39 => [(128, 4), (144, 64)]
  | 0x3A => [(128, 67)]
  | _ => []

/-- Is packet bit `b` reserved for the opcode? -/
def reservedBit (op b : Nat) : Bool :=
  if b < 24 then !(namedFlags op).contains b
  else !(namedParams op).any (fun p => decide (p.1 ≤ b ∧ b < p.1 + p.2))

/-- The lowest nonzero reserved OPFLAGS or parameter bit (R210). -/
def Cmd.reservedSet (m : Cmd) : Option Nat :=
  (upFrom 12 12 ++ upFrom 128 384).find? (fun b => reservedBit m.op b && m.bit b)

/-- R210: the reserved-bit check. -/
def Cmd.reservedBad (m : Cmd) : Option Reply := m.reservedSet.map (fun b => .bad b)

/-! ### A slot's generation (R96, R109) -/

/-- The slot that an admitted ACCSTORE with RELEASE names: its handle is good from no other command on (R109). -/
def State.releaseOf (s : State) (c : CtxNo) (m : Cmd) : Option Nat :=
  if m.phase.isQueued && m.op == 5 && m.bit 12 && m.reservedBad.isNone then s.slotHandle c (m.f 128 16) else none

/-- A slot's generation as it is seen: it has advanced with the admission of an ACCSTORE with RELEASE that names the slot (R109). -/
def State.slotGen (s : State) (k : Nat) : BitVec 7 :=
  let c := (s.slot k).ctx
  if (s.ctx c).cmds.any (fun m => s.releaseOf c m == some k) then (s.slot k).gen + 1 else (s.slot k).gen

/-- The slot as it is read from outside its context's commands. -/
def State.seenSlot (s : State) (k : Nat) : Slot := { s.slot k with gen := s.slotGen k }

/-- An admitted ACCSTORE with RELEASE ends before it starts: the generation that it has advanced stays so. -/
def State.keepGen (s : State) (c : CtxNo) (m : Cmd) : State :=
  match s.releaseOf c m with
  | some k => s.setSlot k (s.seenSlot k)
  | none => s

/-- The opcodes of the catalogue (R209). -/
def opcodes : List Nat :=
  [0x00, 0x01, 0x02, 0x03, 0x04, 0x05, 0x06, 0x10, 0x11, 0x12, 0x13, 0x14, 0x18, 0x19, 0x20, 0x21, 0x22, 0x28, 0x29, 0x2A,
   0x2B, 0x2C, 0x30, 0x31, 0x32, 0x33, 0x38, 0x39, 0x3A]

/-- Is the context bound to the secure-firmware key slot (R331)? -/
def State.secureCtx (s : State) (c : CtxNo) : Bool := (s.ctx c).bound && (s.ctx c).key == 0

end Sys2Proof.Machine
end

