-- ==== Sys2Proof/Machine/Links.lean ====
section
/-! DEFINITION. A chain entry's links (R183 to R187): slack, credits, forwarding, and its order at each chained command. -/

namespace Sys2Proof.Machine

/-- Fields of a chain entry (R180). -/
def Chain.valid (k : Chain) : Bool := bitAt k.entry 0
def Chain.index (k : Chain) : Nat := fld k.entry 1 4
def Chain.last (k : Chain) : Nat := fld k.entry 5 4
def Chain.id (k : Chain) : BitVec 12 := k.entry.extractLsb' 17 12
def Chain.owner (k : Chain) : CtxNo := ctxOf (fld k.entry 29 3)

/-- The neighbours the entry was set up with (R180). -/
def Chain.ownPred (k : Chain) : BitVec 4 := BitVec.ofNat 4 (fld k.entry 9 4)
def Chain.ownSucc (k : Chain) : BitVec 4 := BitVec.ofNat 4 (fld k.entry 13 4)

/-- R180: 0 selects 4,096 EC. -/
def Chain.detachCycles (k : Chain) : Nat := if fld k.entry 32 16 = 0 then 4096 else fld k.entry 32 16

/-- R184: entries taken by the lane bank and in the successor's slack are freed; the number freed, and the entry. Nothing of a
tail or a detached member goes on to a successor. -/
def Chain.free (k : Chain) : Nat × Chain :=
  let keep := k.slack.filter (fun b => !(b.taken && (b.sent || k.tail || k.detached)))
  (k.slack.length - keep.length, { k with slack := keep })

/-- R185: is the slack held locally? -/
def Chain.heldLocally (k : Chain) : Bool :=
  match k.slack with
  | b :: _ => k.slack.length == 256 && (b.sent || k.tail) && !b.taken
  | [] => false

/-- R185: the EC since which the slack is held locally. -/
def Chain.noteHeld (k : Chain) (now : Nat) : Chain :=
  { k with heldSince := if k.heldLocally then some (k.heldSince.getD now) else none }

/-- A beat goes to the successor against a credit (R184). -/
def Chain.sendOne (k : Chain) (b : Beat) (rest : List Beat) : Chain :=
  { k with
    out := rest, credits := k.credits - 1, kept := (k.kept ++ [b]).drop (k.kept.length + 1 - 255)
    slack := k.slack.map (fun x => if x.beat.seq = b.seq ∧ x.beat.num = b.num then { x with sent := true } else x) }

/-- Waiting beats are sent while there are credits (at most `n`): the messages and the entry. -/
def Chain.forward (k : Chain) : Nat → List ChainMsg × Chain
  | 0 => ([], k)
  | n + 1 =>
    match k.out with
    | b :: rest =>
      if k.credits = 0 ∨ k.tail ∨ k.detached then ([], k)
      else
        let r := (k.sendOne b rest).forward n
        (.beat k.succ k.id b :: r.1, r.2)
    | [] => ([], k)

/-- Entry `e` after a change: it forwards what it can, frees entries and returns their credits (R184, R185). -/
def State.settleChain (s : State) (e : Nat) (k : Chain) : State :=
  let f := k.forward 2048
  let g := f.2.free
  let msgs := f.1 ++ (if k.head then [] else List.replicate g.1 (.credit k.pred k.id))
  { s.setChain e (g.2.noteHeld s.now) with chainOut := s.chainOut ++ msgs }

/-! ### Credits (R184) -/

/-- Does the entry stand at the chain's end only because the members after it have detached (R186)? -/
def Chain.cutOff (k : Chain) : Bool := k.tail && k.index != k.last

/-- A credit from a core: for the present successor, or for the entry's own while another stands in for it, or none. -/
def Chain.credit (k : Chain) (core : BitVec 4) : Chain :=
  if core = k.succ ∧ ¬ k.cutOff then { k with credits := min 256 (k.credits + 1) }
  else if core = k.ownSucc then { k with home := min 256 (k.home + 1) } else k

/-- Has the entry another successor than its own for the rest of the command? -/
def Chain.relinked (k : Chain) : Bool := k.tail != (k.index == k.last) || k.succ != k.ownSucc

/-- The beats the entry has accepted or will take from the chain next: past a gap, those that wait behind it (R186). -/
def Chain.expect (k : Chain) : Nat :=
  if k.next < k.gapTo then k.gapTo + (k.slack.filter (fun b => decide (k.gapTo ≤ b.beat.num))).length else k.next

/-! ### The order of a chained command (R183, R186) -/

/-- The chain stands in full order for the next chained command (R186): credits of its own successor count again. -/
def Chain.reform (k : Chain) : Chain :=
  { k with
    credits := if k.relinked then k.home else k.credits
    home := 256, rxSig := none, next := 0, gapTo := 0, slack := [], got := [], out := [], kept := [], heldSince := none, due := none
    late := false, detached := false, job := none, count := 1, owed := 0, head := k.index == 0, tail := k.index == k.last
    pred := k.ownPred, succ := k.ownSucc }

/-- The credits a member owes its own predecessor as the chain re-forms: those of the entries that are free now, where another
predecessor held them, those of the beats it dropped, and those of the beats it refused (R184, R186). -/
def Chain.reformCredits (k : Chain) : List ChainMsg :=
  let n := if k.index = 0 then 0 else if k.pred = k.ownPred ∧ ¬ k.head then k.slack.length + k.owed else 256
  List.replicate n (.credit k.ownPred k.id)

/-- A chained command begins at its entry, for `n` commands of a J128C tile: a beat 0 that came before it must carry its signature (R183,
R206). -/
def Chain.start (k : Chain) (c : CtxNo) (seq : Word) (sig : Word) (n : Nat) : Chain :=
  { k with sig := sig, job := some (c, seq), count := n
           due := match k.rxSig with
             | some x => if x = sig ∨ k.detached then k.due else some 1
             | none => k.due }

/-- A context's entry must leave its chain (R187). -/
def Chain.mustLeave (k : Chain) (c : CtxNo) (cause : BitVec 2) : Chain :=
  if k.valid && k.owner == c && !k.detached && k.due.isNone then { k with due := some cause } else k

/-! ### Beats of an interval (R182 to R184, R186) -/

/-- The lane bank takes the beats of an interval, numbers `lo` to `hi - 1`, that lie in the slack. -/
def Chain.take (k : Chain) (lo hi : Nat) : Chain :=
  let mine (b : SlackBeat) : Bool := b.beat.seq == k.seq && decide (lo ≤ b.beat.num ∧ b.beat.num < hi) && !b.taken
  { k with got := k.got ++ (k.slack.filter mine).map (·.beat)
           slack := k.slack.map (fun b => if mine b then { b with taken := true } else b) }

/-- May an interval whose beats end at `n` be filled (R183, R184, R186)? A detached member fetches for itself; the head waits
until every earlier beat of its own has been sent; another member, until each beat has come or lies in the gap it fetches itself. -/
def Chain.ready (k : Chain) (n : Nat) : Bool :=
  k.due.isNone && (k.detached || (if k.head then k.out.isEmpty else decide (n ≤ k.expect)))

/-- The beats of an interval up to `hi` are used up. What the member fetched itself it forwards: all of it as the head, the gap as a
member (R184, R186); with the gap closed the beats that waited behind it follow. -/
def Chain.use (k : Chain) (hi : Nat) (beats : List Beat) : Chain :=
  if k.detached then { k with got := [], next := max k.next hi }
  else if k.head then
    let own := beats.filter (fun b => decide (k.next ≤ b.num))
    { k with got := [], next := max k.next hi, out := if k.tail then k.out else k.out ++ own }
  else if k.next < k.gapTo then
    let own := beats.filter (fun b => decide (k.next ≤ b.num ∧ b.num < k.gapTo))
    let held := (k.slack.filter (fun b => decide (k.gapTo ≤ b.beat.num))).map (·.beat)
    if k.gapTo ≤ hi then
      { k with got := [], next := k.gapTo + held.length, gapTo := 0, out := if k.tail then k.out else k.out ++ own ++ held }
    else { k with got := [], next := max k.next hi, out := if k.tail then k.out else k.out ++ own }
  else { k with got := [] }

/-- The bits of element `i` of a beat of `w`-bit elements. -/
def Beat.elem (b : Beat) (w i : Nat) : Nat := fld b.data (w * i) w

/-- A beat's bytes from its elements. -/
def beatData (w : Nat) (els : List Nat) : BitVec 2048 := BitVec.ofNat 2048 (packBits (els.map (fun b => (b, w))))

/-! ### Detaching (R186, R188) -/

/-- CHAIN_DETACH payload (R188). -/
def detachPayload (k : Chain) (cause : BitVec 2) (seq : Nat) (beat : Nat) : BitVec 128 :=
  BitVec.ofNat 128 (packBits [(k.id.toNat, 12), (k.index, 4), (cause.toNat, 2), (0, 14), (seq, 16), (0, 16), (beat, 48),
    (fld k.entry 48 16, 16)])

/-- Messages of a detaching member to its neighbours (R186); its predecessor, the new sender, takes over its credits (R184). -/
def Chain.notices (k : Chain) : List ChainMsg :=
  (if k.head then [] else [.detach k.pred k.id (if k.tail then none else some k.succ) k.credits])
    ++ (if k.tail then [] else [.detach k.succ k.id (if k.head then none else some k.pred) 0])

/-- The entry after its detach: it forwards nothing more, it consumes what its slack holds, and DETACHES advances (R186, R188). -/
def Chain.leave (k : Chain) : Chain :=
  { k with detached := true, due := none, heldSince := none, out := [], kept := [], gapTo := 0
           slack := k.slack.filter (fun b => decide (b.beat.num < k.next)), credits := if k.tail then k.credits else 0
           entry := setFld k.entry 48 16 (min 0xFFFF (fld k.entry 48 16 + 1)) }

/-- The sequence number of the entry's chained command: the one in progress, or the first that waits in the context (R188). -/
def State.chainSeq (s : State) (e : Nat) (k : Chain) : Option Word :=
  match k.job with
  | some (_, q) => some q
  | none => ((s.ctx k.owner).cmds.find? (fun m => m.op == 2 && m.f 416 3 == e + 1 && !m.phase.isOver)).map Cmd.seq

/-- The member leaves its chain for the rest of the command, with its record and counters (R186, R188). One whose chained command has
not been admitted yet has no sequence number to report: a free value (log 4). -/
def State.leaveChain (s : State) (e : Nat) (cause : BitVec 2) (beat : Nat) : State :=
  let k := s.chain e
  let d := s.drawFree
  let q : Nat × State := match s.chainSeq e k with
    | some w => (w.toNat % 65536, s)
    | none => ((Config.freeWord d.1).toNat % 65536, d.2)
  let k1 := k.leave
  let s1 := { q.2.setChain e k1 with chainOut := s.chainOut ++ k.notices, tel := { s.tel with detach := satAdd s.tel.detach 1 } }
  s1.event k1.owner 0x04 (detachPayload k1 cause q.1 beat)

/-- A chained command ends: a detach that has come about happens first (R187); then the entry counts its commands and stands in the full
order again, its free entries credited to its own predecessor (R183, R184, R186). -/
def State.finishChain (s : State) (e : Nat) : State :=
  let s1 := match (s.chain e).due with
    | some cause => s.leaveChain e cause (s.chain e).next
    | none => s
  let k := s1.chain e
  { s1.setChain e { k.reform with seq := k.seq + BitVec.ofNat 16 k.count } with chainOut := s1.chainOut ++ k.reformCredits }

/-- Has the entry sent every beat of its command (R184)? A command's reply waits for it (log 58). -/
def Chain.drained (k : Chain) : Bool := k.out.isEmpty || k.tail || k.detached

end Sys2Proof.Machine
end

