-- ==== Sys2Proof/Machine/Product.lean ====
section
/-! DEFINITION. GRADW and GRADX (11): handle checks, the checks of R215, the tiling rule R218 to R220, the start of a product. -/

namespace Sys2Proof.Machine

/-- A product command's operands, as its handles name them. -/
structure ProdOps where
  dW : Bool
  opa : Opnd
  dy : Opnd
  dst : Opnd
  pre : Option Opnd
  recd : Option Opnd
  frz : Option Opnd
  rowm : Option Opnd
  blkm : Option Opnd
  deriving DecidableEq, Repr

def Cmd.opaFeat (m : Cmd) : Nat := m.f 224 3
def Cmd.dyFeat (m : Cmd) : Nat := m.f 227 3
def Cmd.dstFeat (m : Cmd) : Nat := m.f 230 3
def Cmd.preSrc (m : Cmd) : Nat := m.f 240 2
def Cmd.preLayout (m : Cmd) : Nat := m.f 242 2
def Cmd.wbAdd (m : Cmd) : Bool := !m.bit 244
def Cmd.chainNo (m : Cmd) : Nat := m.f 416 3
def Cmd.gate (m : Cmd) : Bool := m.bit 13
def Cmd.legacy (m : Cmd) : Bool := m.bit 16 || m.bit 17

/-- Handle fields a product command uses, in the order of its parameter table (R210, R214). -/
def prodHandleFields (m : Cmd) : List Nat :=
  let opt (b : Bool) (l : Nat) : List Nat := if b then [l] else []
  [128, 144, 160] ++ opt (m.preSrc == 2) 176 ++ opt (m.bit 15) 192 ++ opt (m.bit 14) 208
    ++ opt (m.bit 16) 432 ++ opt (m.bit 17) 448

/-- A chain entry named by CHAIN is valid and the context's own (R182). -/
def State.chainHandleOk (s : State) (c : CtxNo) (n : Nat) : Bool :=
  let e := (s.chain (n - 1)).entry
  bitAt e 0 && fld e 29 3 == c.val

/-- R210: every handle of a product command is good. -/
def State.prodHandlesOk (s : State) (c : CtxNo) (m : Cmd) (dW : Bool) : Bool :=
  (prodHandleFields m).all (fun l => (s.handle c (m.f l 16)).isSome)
    && (dW || m.chainNo == 0 || 4 < m.chainNo || s.chainHandleOk c m.chainNo)

/-- The operand of a handle field when it is used. -/
def State.optOpnd (s : State) (m : Cmd) (used : Bool) (lo stream : Nat) : Option Opnd :=
  if used then s.opnd m.fmts (m.f lo 16) stream else none

/-- The operands of a product command whose handles are good. -/
def State.prod (s : State) (m : Cmd) (dW : Bool) : Option ProdOps :=
  match s.opnd m.fmts (m.f 128 16) 0, s.opnd m.fmts (m.f 144 16) 1, s.opnd m.fmts (m.f 160 16) 2 with
  | some a, some y, some d =>
    some { dW := dW, opa := a, dy := y, dst := d
           pre := if m.preSrc = 1 then some d else s.optOpnd m (m.preSrc == 2) 176 3
           recd := s.optOpnd m (m.bit 15) 192 4, frz := s.optOpnd m (m.bit 14) 208 5
           rowm := s.optOpnd m (m.bit 16) 432 6, blkm := s.optOpnd m (m.bit 17) 448 7 }
  | _, _, _ => none

/-! ### Extents -/

/-- Rows of the destination view: K for GRADW, tokens for GRADX (the lane axis L of R218). -/
def ProdOps.lanes (p : ProdOps) (m : Cmd) : Nat := if p.dW then p.opa.desc.cols m.opaFeat else p.dy.desc.rows m.dyFeat

/-- Columns of the destination view: N for GRADW, I for GRADX. -/
def ProdOps.colExt (p : ProdOps) (m : Cmd) : Nat := if p.dW then p.dy.desc.cols m.dyFeat else p.opa.desc.rows m.opaFeat

/-- Token extent T. -/
def ProdOps.tokens (p : ProdOps) (m : Cmd) : Nat := p.dy.desc.rows m.dyFeat

/-- The j extent J of a GRADX. -/
def ProdOps.jext (p : ProdOps) (m : Cmd) : Nat := p.opa.desc.cols m.opaFeat

/-! ### Quantised operands (R121, R125, R36) -/

/-- R125, R128: does a quantised operand take the PRESCALED path? -/
def prescaledOp (dW : Bool) (o : Opnd) (feat : Nat) : Bool :=
  o.desc.quant && o.desc.qaxis != 7 && (if dW then o.desc.qaxis != feat else o.desc.qaxis == feat)

/-- R36: does the pair run in 8-bit mode? -/
def ProdOps.eight (p : ProdOps) (m : Cmd) : Bool :=
  eightBit p.opa && eightBit p.dy && !prescaledOp p.dW p.opa m.opaFeat && !prescaledOp p.dW p.dy m.dyFeat

/-- R121: the first failure of an operand's quantisation word, by the table its command bound; `h` is the handle. -/
def State.quantBad (s : State) (c : CtxNo) (m : Cmd) (o : Opnd) (h : Nat) : Option Reply :=
  let d := o.desc
  let t := s.boundTable c m d.qtable
  let isCode := d.format == 4 || d.format == 5
  let top := if d.qaxis = 7 then 0 else d.size d.qaxis - 1
  firstBad [
    (!(d.quant && (!isCode || (d.format == 5) != (rtCode t.hdr == 1))), .badDesc 64 h),
    (!(!d.quant && isCode), .badDesc 64 h),
    (!(d.quant && d.stats), .badDesc 65 h),
    (!((d.quant || d.stats) && (!rtValid t.hdr || !t.mine)), .badDesc 66 h),
    (!((d.quant || d.stats) && decide (rtChannels t.hdr ≤ d.chBase + top)), .badDesc 72 h)]

/-- A destination's QAXIS is per-tensor or names an axis of its output view (06, output encoding). -/
def qaxisOk (o : Opnd) (feat : Nat) : Bool :=
  !o.desc.quant || o.desc.qaxis == 7 || o.desc.qaxis == feat || o.desc.others feat == [o.desc.qaxis]

/-! ### Preload sources (R79) -/

/-- Formats a preload source may have. -/
def preFormat (code : Nat) : Bool := code < 4 || code == 6 || code == 7

/-- R79: does the source fit a destination view of rows × cols with column dimension feat? -/
def preFits (o : Opnd) (layout feat rows cols : Nat) : Bool :=
  preFormat o.desc.format && fmtValid o.fmt &&
  (match layout with
   | 0 => decide (feat < o.desc.ndim) && o.desc.rows feat == rows && o.desc.cols feat == cols
   | 1 => o.desc.count == cols
   | _ => o.desc.count == rows)

/-- R79: coordinates of the source element for destination element (row, col). -/
def preCoord (o : Opnd) (layout feat row col : Nat) : Nat → Nat :=
  match layout with
  | 0 => o.desc.view feat row col
  | 1 => o.desc.coords col
  | _ => o.desc.coords row

/-! ### Tiling (R74, R218 to R220) -/

/-- R74: the promotion interval P in products. -/
def promoP (code : Nat) (eight : Bool) : Nat :=
  match code with
  | 0 => if eight then 64 else 32
  | 1 => 16
  | _ => 8

/-- Tiles per round of a jig (R62): 1 J128, 2 J64x2, 3 J32x4, 4 J128C with its one combined tile. -/
def jigTiles (jig : Nat) : Nat :=
  match jig with
  | 2 => 2
  | 3 => 4
  | _ => 1

/-- Column-wise streams of one tile (R213). -/
def ProdOps.colwise (p : ProdOps) (m : Cmd) : Nat :=
  (if p.opa.rowWise m.opaFeat true then 0 else 1) + (if p.dy.rowWise m.dyFeat p.dW then 0 else 1)

/-- A jig passes the limits of R60, R16 and R182. -/
def ProdOps.jigOk (p : ProdOps) (m : Cmd) (jig : Nat) : Bool :=
  decide (jigTiles jig * p.colwise m ≤ 4) && (!(m.legacy || m.chainNo != 0) || jig == 1)

/-- 128-blocks of a jig's rows and columns. -/
def ProdOps.blocks (p : ProdOps) (m : Cmd) (jig : Nat) : Nat :=
  ceilDiv (p.lanes m) (128 / jigTiles jig) * ceilDiv (p.colExt m) 128

/-- The token split of a jig: none when SPLIT excludes the jig (R218, R220). -/
def ProdOps.splitOf (p : ProdOps) (m : Cmd) (jig : Nat) : Option Nat :=
  let n := jigTiles jig
  let can := p.dW && p.blocks m jig == 1 && decide (1 < n)
  match m.f 236 2 with
  | 0 => some (if can && decide (n * promoP (m.f 238 2) (p.eight m) ≤ p.tokens m) then n else 1)
  | 1 => some 1
  | _ => if can then some n else none

/-- Four times the cost of a jig with split s (R218). -/
def ProdOps.cost (p : ProdOps) (m : Cmd) (jig sp : Nat) : Nat :=
  let rounds := ceilDiv (p.blocks m jig * sp) (jigTiles jig)
  let pp := promoP (m.f 238 2) (p.eight m)
  let per := if p.dW then ceilDiv (p.tokens m) (sp * pp) * pp else ceilDiv (p.jext m) (if p.eight m then 256 else 128) * 128
  rounds * per * (if jig = 3 then 5 else 4)

/-- The jigs R218 evaluates: the pinned one, or all that pass the limits. -/
def ProdOps.jigs (p : ProdOps) (m : Cmd) : List Nat :=
  if m.f 233 3 = 0 then [1, 2, 3].filter (p.jigOk m) else [m.f 233 3]

/-- R218: the best jig and split, earlier jigs winning ties. -/
def ProdOps.choose (p : ProdOps) (m : Cmd) : Option (Nat × Nat) :=
  ((p.jigs m).filterMap (fun j => (p.splitOf m j).map (fun sp => (j, sp)))).foldl (fun best x =>
    match best with
    | none => some x
    | some b => if p.cost m x.1 x.2 < p.cost m b.1 b.2 then some x else some b) none

/-! ### Checks (R215) -/

/-- Is an operand a byte area of at least `n` bytes (R212)? -/
def Opnd.areaOk (o : Opnd) (n : Nat) : Bool := o.byteArea && decide (n ≤ o.desc.size 0)

/-- Do two footprints meet? -/
def descMeet (a b : Desc) : Bool := decide (a.lo ≤ b.hi ∧ b.lo ≤ a.hi)

/-- Option-free form of a check on an optional operand. -/
def optOk (o : Option Opnd) (p : Opnd → Bool) : Bool :=
  match o with
  | some x => p x
  | none => true

/-- A KEEP_SCALE is positive and finite (R215 check 10). -/
def posFinite (w : Word) : Bool :=
  match ofF32 w with
  | .fin false mag _ => decide (0 < mag)
  | _ => false

/-- R215: the first failing check of a product command. The quantisation word of PRE_DESC comes between checks 9 and 10 (log 76). -/
def State.prodBad (s : State) (c : CtxNo) (m : Cmd) (p : ProdOps) : Option Reply :=
  let dstRows := p.dst.desc.rows m.dstFeat
  let dstCols := p.dst.desc.cols m.dstFeat
  let ext := if m.bit 245 then dstCols else dstRows
  let q (o : Opnd) (lo : Nat) : List (Bool × Reply) :=
    match s.quantBad c m o (m.f lo 16) with
    | some r => [(false, r)]
    | none => []
  firstBad (
    [ -- 1
      (p.opa.desc.canRead, .bad 128), (p.dy.desc.canRead, .bad 144),
      (p.dst.desc.canWrite && (!(m.wbAdd || m.preSrc == 1) || p.dst.desc.canRead), .bad 160),
      -- 2
      (decide (m.opaFeat < p.opa.desc.ndim), .bad 224), (decide (m.dyFeat < p.dy.desc.ndim), .bad 227),
      (decide (m.dstFeat < p.dst.desc.ndim), .bad 230),
      -- 3
      (if p.dW then p.opa.desc.rows m.opaFeat == p.tokens m else p.jext m == p.dy.desc.cols m.dyFeat, .bad 144),
      -- 4
      (decide (1 ≤ p.tokens m ∧ p.tokens m ≤ 2 ^ 20), .bad 144),
      -- 5
      (dstRows == p.lanes m && dstCols == p.colExt m, .bad 160)]
    -- 6
    ++ [(fmtValid p.opa.fmt && fmtOperand p.opa.fmt, .bad 128)] ++ q p.opa 128
    ++ [(fmtValid p.dy.fmt && fmtOperand p.dy.fmt, .bad 144)] ++ q p.dy 144
    ++ [(fmtValid p.dst.fmt && fmtOutput p.dst.fmt, .bad 160)] ++ q p.dst 160
    ++ [ (qaxisOk p.dst m.dstFeat, .badDesc 69 (m.f 160 16)),
      (!m.wbAdd || ((p.dst.desc.format == 6 || p.dst.desc.format == 7) && p.dst.desc.hdrEn), .bad 244),
      -- 7
      (decide (m.f 233 3 ≤ 3), .bad 233),
      (m.f 236 2 != 3 && (p.dW || m.f 236 2 == 0), .bad 236),
      (m.f 238 2 != 3 && (p.dW || m.f 238 2 == 0), .bad 238),
      (m.preSrc != 3, .bad 240),
      (!(m.preSrc == 2 && m.preLayout == 3), .bad 242),
      -- 8
      (!(m.preSrc == 1 && m.wbAdd), .bad 240),
      -- 9
      (optOk p.pre (fun o => if m.preSrc = 1 then preFormat o.desc.format
        else o.desc.canRead && preFits o m.preLayout m.dstFeat dstRows dstCols), .bad (if m.preSrc = 1 then 240 else 176))]
    ++ (match m.preSrc, p.pre with
      | 2, some o => q o 176
      | _, _ => [])
    ++ [ -- 10
      (!m.gate || decide (m.f 352 25 ≤ 2 ^ 24), .bad 352),
      (!m.gate || posFinite (w32 (m.f 384 32)), .bad 384),
      -- 11
      (optOk p.recd (fun o => o.areaOk 0 && o.desc.canWrite), .bad 192),
      (optOk p.frz (fun o => o.areaOk (ceilDiv ext 8) && o.desc.canRead), .bad 208),
      (optOk p.rowm (fun o => o.areaOk (ceilDiv dstRows 8) && o.desc.canRead), .bad 432),
      (optOk p.blkm (fun o => o.areaOk (ceilDiv (ceilDiv dstRows 128 * ceilDiv dstCols 128) 8) && o.desc.canRead), .bad 448),
      -- 12
      (!(descMeet p.dst.desc p.opa.desc || descMeet p.dst.desc p.dy.desc
          || (m.preSrc == 2 && !optOk p.pre (fun o => !descMeet p.dst.desc o.desc))
          || !optOk p.frz (fun o => !descMeet p.dst.desc o.desc) || !optOk p.rowm (fun o => !descMeet p.dst.desc o.desc)
          || !optOk p.blkm (fun o => !descMeet p.dst.desc o.desc)), .bad 160),
      -- 13
      (if p.dW then m.chainNo == 0 else decide (m.chainNo ≤ 4), .bad 416),
      (m.chainNo == 0 || decide (m.f 233 3 ≤ 1), .bad 233),
      -- 14
      (m.f 233 3 == 0 || p.jigOk m (m.f 233 3), .bad 233),
      ((p.choose m).isSome, .bad 236)])

/-! ### Tiles (R69, R82, R217, R219) -/

/-- R82: tokens per segment. -/
def ProdOps.lseg (p : ProdOps) (m : Cmd) (sp : Nat) : Nat :=
  let pp := promoP (m.f 238 2) (p.eight m)
  ceilDiv (p.tokens m) (sp * pp) * pp

/-- First token of segment q and the token after its last. -/
def ProdOps.segment (p : ProdOps) (m : Cmd) (sp q : Nat) : Nat × Nat :=
  (min (p.tokens m) (q * p.lseg m sp), min (p.tokens m) ((q + 1) * p.lseg m sp))

/-- The tiles of one block: one a non-empty segment. -/
def ProdOps.blockTiles (p : ProdOps) (m : Cmd) (sp : Nat) (rows : List Nat) (col0 cols : Nat) : List TileSpec :=
  (List.range sp).filterMap (fun q =>
    let g := p.segment m sp q
    if sp = 1 ∨ g.1 < g.2 then some ⟨rows, col0, cols, 0, q, 0⟩ else none)

/-- Rows of a destination in blocks of `w` (R219); under legacy masks the unmasked rows of a column block re-packed (R69). -/
def rowBlocks (rows : List Nat) (w : Nat) : List (List Nat) := chunks w (rows.length + 1) rows

/-- The mask bit j of a byte list (R217). -/
def maskBit (bytes : List Byte) (j : Nat) : Bool := bitAt (bytes.getD (j / 8) 0) (j % 8)

/-- The tiles of a command in order, each with its jig position and the offset of its first row in its block in units of 32, which is 0
for a tile of 128 lanes (R108). -/
def ProdOps.tiles (p : ProdOps) (m : Cmd) (jig sp : Nat) (rowm blkm : List Byte) : List TileSpec :=
  let nrb := ceilDiv (p.lanes m) 128
  let ts := (List.range (ceilDiv (p.colExt m) 128)).flatMap (fun cb =>
    let rows := (List.range (p.lanes m)).filter (fun r => !maskBit rowm r && !maskBit blkm (r / 128 + cb * nrb))
    (rowBlocks rows (128 / jigTiles jig)).flatMap (fun rs =>
      p.blockTiles m sp rs (cb * 128) (min 128 (p.colExt m - cb * 128))))
  (List.zip ts (List.range ts.length)).map (fun x => { x.1 with pos := x.2 % jigTiles jig, rowOfs := if jigTiles jig = 1 then 0 else x.1.rows.headD 0 % 128 / 32 })

/-! ### Start -/

/-- Width of a j-block (R50, R53). -/
def ProdOps.jbw (p : ProdOps) (m : Cmd) : Nat := if p.eight m then 256 else 128

/-- Weight beats of one tile of a GRADX (R183): one for each column and j-block. -/
def ProdOps.tileBeats (p : ProdOps) (m : Cmd) (t : TileSpec) : Nat := t.cols * ceilDiv (p.jext m) (p.jbw m)

/-- Weight beats of the command's stream before tile number `n` (R183). -/
def ProdOps.beatBase (p : ProdOps) (m : Cmd) (ts : List TileSpec) (n : Nat) : Nat :=
  ((ts.take n).map (p.tileBeats m)).foldl (· + ·) 0

/-- R183: the STREAM_SIG record of a chained command. -/
def ProdOps.sig (p : ProdOps) (m : Cmd) (jig : Nat) (ts : List TileSpec) : Word :=
  let d := p.opa.desc
  let sizes := (List.range 6).flatMap (fun k => leBytes 4 (if k < d.ndim then d.size k else 0))
  crc32 (leBytes 1 d.format ++ leBytes 1 d.ndim ++ leBytes 1 m.opaFeat ++ leBytes 1 jig ++ sizes
    ++ leBytes 4 (p.colExt m) ++ leBytes 4 (p.jext m) ++ leBytes 4 ts.length ++ leBytes 8 (p.beatBase m ts ts.length))

/-- A chained GRADX becomes its entry's current command, for `n` commands of its J128C tile (R182, R183, R206). -/
def State.chainBegin (s : State) (c : CtxNo) (m : Cmd) (sig : Word) (n : Nat) : State :=
  if m.op ≠ 2 ∨ m.chainNo = 0 then s else s.setChain (m.chainNo - 1) ((s.chain (m.chainNo - 1)).start c m.seq sig n)

/-- Is the entry of a chained GRADX free for it: has the chained command before it ended (R183)? -/
def State.chainIdle (s : State) (m : Cmd) : Bool :=
  m.op != 2 || m.chainNo == 0 || 4 < m.chainNo || (s.chain (m.chainNo - 1)).job.isNone

/-- Has a chained command, its entry's current one, sent every beat it forwards (R184, log 58)? -/
def State.chainDrained (s : State) (m : Cmd) : Bool :=
  m.op != 2 || m.chainNo == 0 || (s.chain (m.chainNo - 1)).drained || !(s.chain (m.chainNo - 1)).job.any (fun x => x.2 == m.seq)

/-- A chained command ends: its entry counts it and waits for the next (R183, R186). -/
def State.chainEnd (s : State) (m : Cmd) : State :=
  if m.op ≠ 2 ∨ m.chainNo = 0 then s else
  match (s.chain (m.chainNo - 1)).job with
  | some (_, q) => if q = m.seq then s.finishChain (m.chainNo - 1) else s
  | none => s

/-- The job of a product command that passed its checks. -/
def State.prodJob (s : State) (c : CtxNo) (m : Cmd) (p : ProdOps) (jig sp lane0 : Nat) (lead : Word) (early : Bool) (ts : List TileSpec) : ProdJob :=
  { dW := p.dW, jig := jig, split := sp, interval := promoP (m.f 238 2) (p.eight m), eight := p.eight m
    opaTab := s.bindFor c m p.opa, dyTab := s.bindFor c m p.dy, dstTab := s.bindFor c m p.dst
    tiles := ts, next := 0, runs := [], mine := [], lane0 := lane0, lead := lead, early := early, acc := 0, computed := 0
    residentTiles := 0, records := 0, lost := 0, wrote := false, hdrMax := 0, hdrFlags := 0, rng := false, wbFrom := 0 }

/-- The reply of a product command (R216). -/
def ProdJob.reply (j : ProdJob) (status : Byte) : Reply :=
  { Reply.of status with
    acc := j.acc, rng := j.rng, lost := w32 j.lost, result0 := w32 j.computed
    result1 := w32 (j.jig + (if j.split = 4 then 2 else if j.split = 2 then 1 else 0) * 8), result2 := w32 j.residentTiles }

/-- Resident slots go back to HELD: their command adds nothing more into them (R98). -/
def State.holdSlots (s : State) (ks : List Nat) : State := ks.foldl (fun t k => t.modSlot k (fun x => { x with state := .held })) s

/-- A product command has no tile left, or is aborted: its resident slots are HELD, its header is updated, if it wrote, and its reply
follows (R98, R107, R160). -/
def State.productEnd (s : State) (c : CtxNo) (i : Nat) (m : Cmd) (j : ProdJob) (status : Byte) : State :=
  let s1 := (s.chainEnd m).holdSlots j.mine
  match s1.descAt (m.f 160 10) with
  | some d =>
    if j.wrote && d.hdrEn then
      s1.setPhase c i (.header { desc := m.f 160 10, stream := 2, add := m.wbAdd, count := j.hdrMax + (if m.wbAdd then 1 else 0)
                                 flags := j.hdrFlags, wbs := 1, zero := false } (j.reply status))
    else s1.finish c i (j.reply status)
  | none => s1.finish c i (j.reply status)

/-- Whole bytes of an optional mask area. -/
def State.maskBytes (s : State) (c : CtxNo) (o : Option Opnd) (n : Nat) : List Byte :=
  match o with
  | some x => s.areaBytes c (s.refusals c (x.acc false false (x.byteSpans 0 n))) x 0 n
  | none => []

/-- The tiles of a product command, once its mask areas can be read (R69, R219). -/
def State.tileOut (s : State) (c : CtxNo) (m : Cmd) (p : ProdOps) (jig sp : Nat) : Bool × State × List TileSpec :=
  let nr := ceilDiv (p.lanes m) 8
  let nb := ceilDiv (ceilDiv (p.lanes m) 128 * ceilDiv (p.colExt m) 128) 8
  let area (o : Option Opnd) (n : Nat) : List Acc :=
    match o with
    | some x => [x.acc false false (x.byteSpans 0 n)]
    | none => []
  let as := area p.rowm nr ++ area p.blkm nb
  let r := s.openAll c m.seq as
  if !r.1 then (false, r.2, [])
  else (true, r.2.closeUnit c m.seq as, p.tiles m jig sp (r.2.maskBytes c p.rowm nr) (r.2.maskBytes c p.blkm nb))

/-! ### J128C groups (R63, R206) -/

/-- Lane groups a member of a J128C tile takes (R63). -/
def ProdOps.groups (p : ProdOps) (m : Cmd) : Nat := ceilDiv (p.lanes m) 8

/-- May a command be a member of a J128C tile at all: nothing pinned, NOCOAL 0, no legacy mask, no token split alone (R206)? -/
def ProdOps.combines (p : ProdOps) (m : Cmd) : Bool :=
  !m.bit 10 && m.f 233 3 == 0 && m.f 236 2 == 0 && !m.legacy
    && (match p.choose m with
        | some (_, sp) => sp == 1
        | none => false)

/-- Have two members the same shared operand: dY and its tokens for GRADW, the weights for GRADX (R63)? -/
def sameShared (dW : Bool) (a b : Cmd) : Bool :=
  if dW then a.f 144 16 == b.f 144 16 && a.dyFeat == b.dyFeat else a.f 128 16 == b.f 128 16 && a.opaFeat == b.opaFeat

/-- Have two members the same gate (R206)? -/
def sameGate (a b : Cmd) : Bool :=
  a.gate == b.gate && (!a.gate || (a.f 256 64 == b.f 256 64 && a.f 320 32 == b.f 320 32 && a.f 352 25 == b.f 352 25 && a.f 384 32 == b.f 384 32))

/-- Column-wise streams of a combined tile, the shared stream counted once (R206). -/
def groupColwise (l : List (Cmd × ProdOps)) : Nat :=
  let lane (x : Cmd × ProdOps) : Nat :=
    if x.2.dW then (if x.2.opa.rowWise x.1.opaFeat true then 0 else 1) else (if x.2.dy.rowWise x.1.dyFeat false then 0 else 1)
  let shared (x : Cmd × ProdOps) : Nat := x.2.colwise x.1 - lane x
  (match l with
   | x :: _ => shared x
   | [] => 0) + (l.map lane).foldl (· + ·) 0

/-- Byte ranges behind packet positions, whatever is resident. -/
def State.fieldRanges (s : State) (m : Cmd) (ls : List Nat) : List (Nat × Nat) :=
  (ls.filterMap (fun l => s.descAt (m.f l 10))).flatMap Desc.ranges

/-- R206: does the command join the group `got` of the leader at place `i`? It passes its own checks, and touches no byte that a member
before it writes. -/
def State.joins (s : State) (c : CtxNo) (i : Nat) (lead k : Cmd) (p0 : ProdOps) (got : List (Cmd × ProdOps)) : Option ProdOps :=
  let covered := decide (1 ≤ dist32 lead.tailAt k.ringAt ∧ dist32 lead.tailAt k.ringAt ≤ 65536)
  if k.phase.isQueued && k.op == lead.op && covered && s.prodHandlesOk c k p0.dW && k.reservedBad.isNone && s.noConflict c i k then
    match s.prod k p0.dW with
    | none => none
    | some p =>
      let all := got ++ [(k, p)]
      let ws := got.flatMap (fun x => s.fieldRanges x.1 x.1.writeFields)
      if (s.prodBad c k p).isNone && p.combines k && decide (p.lanes k ≤ 64) && (k.chainNo == lead.chainNo || k.chainNo == 0) && sameShared p0.dW lead k && sameGate lead k && k.f 238 2 == lead.f 238 2
          && p.eight k == p0.eight lead && decide (groupColwise all ≤ 4) && decide (all.length ≤ 16)
          && decide ((all.map (fun x => x.2.groups x.1)).foldl (· + ·) 0 ≤ 16)
          && !rangesMeet ws (s.fieldRanges k (k.readFields ++ k.writeFields)) then some p else none
  else none

/-- The commands that join, with their places: those that directly follow, up to the first that does not (R206). -/
def State.joiners (s : State) (c : CtxNo) (i : Nat) (lead : Cmd) (p0 : ProdOps) : List Cmd → Nat → List (Cmd × ProdOps) → List (Nat × Cmd × ProdOps)
  | [], _, _ => []
  | k :: t, n, got =>
    match s.joins c i lead k p0 got with
    | some p => (n, k, p) :: s.joiners c i lead p0 t (n + 1) (got ++ [(k, p)])
    | none => []

/-- The commands of a J128C tile with the leader first; none when the leader runs alone (R63, R206). -/
def State.combined (s : State) (c : CtxNo) (i : Nat) (m : Cmd) (p : ProdOps) : List (Nat × Cmd × ProdOps) :=
  if p.combines m then
    match s.joiners c i m p ((s.ctx c).cmds.drop (i + 1)) (i + 1) [(m, p)] with
    | [] => []
    | l => (i, m, p) :: l
  else []

/-- Does an earlier unfinished command run its epilogue (R191)? -/
def State.overlaps (s : State) (c : CtxNo) (i : Nat) : Bool := ((s.ctx c).cmds.take i).any (fun k => !s.cmdDone c k && k.inEpilogue)

/-- The members of a J128C tile start, each with its run of whole lane groups in member order (R63). -/
def State.startGroup (s : State) (c : CtxNo) (lead : Word) (early : Bool) : List (Nat × Cmd × ProdOps) → Nat → State
  | [], _ => s
  | (i, m, p) :: t, g =>
    (s.setPhase c i (.running (.product (s.prodJob c m p 4 1 (8 * g) lead early (p.tiles m 4 1 [] []))))).startGroup c lead early t (g + p.groups m)

/-- A product command whose checks passed starts: its tiles, its place in a J128C tile or in its chain. -/
def State.launch (s : State) (c : CtxNo) (i : Nat) (m : Cmd) (p : ProdOps) (jig sp : Nat) : State :=
  let early := s.overlaps c i
  match s.combined c i m p with
  | x :: t =>
    let mine := ((x :: t).filter (fun y => y.2.1.chainNo == m.chainNo)).length
    (s.chainBegin c m (p.sig m 4 (p.tiles m 4 1 [] [])) mine).startGroup c m.seq early (x :: t) 0
  | [] =>
    let r := s.tileOut c m p jig sp
    if !r.1 then r.2.1 else
    let ts := r.2.2
    let j := r.2.1.prodJob c m p jig sp 0 m.seq early ts
    let s1 := r.2.1.chainBegin c m (p.sig m 1 ts) 1
    if ts.isEmpty then (s1.chainEnd m).finish c i (j.reply 0) else s1.setPhase c i (.running (.product j))

/-- R216, R217: start a product command: checks, masks, tiling; malformed commands change nothing (R6). -/
def State.startProduct (s : State) (c : CtxNo) (dW : Bool) : State :=
  match s.starting c (if dW then 0x01 else 0x02) with
  | none => s
  | some (i, m) =>
    if !(s.noConflict c i m && s.chainIdle m) then s
    else if !s.prodHandlesOk c m dW then s.finish c i (.of stHandle)
    else match m.reservedBad, s.prod m dW with
      | some r, _ => s.finish c i r
      | none, none => s.finish c i (.of stHandle)
      | none, some p =>
        match s.prodBad c m p, p.choose m with
        | some r, _ => s.finish c i r
        | none, none => s.finish c i (.bad 236)
        | none, some (jig, sp) => s.launch c i m p jig sp

/-- GRADW (R216). -/
def execGradw (c : CtxNo) (s : State) : Out := .next (s.startProduct c true)

/-- GRADX (R216). -/
def execGradx (c : CtxNo) (s : State) : Out := .next (s.startProduct c false)

end Sys2Proof.Machine
end

