-- ==== Sys2Proof/Machine/Tiles.lean ====
section
/-! DEFINITION. Tiles of a product (03, 04): their intervals and estimates, the operands an interval reads, the products and sums in
the cells, the beats of a chained tile. -/

namespace Sys2Proof.Machine

/-! ### A tile and its intervals (R45, R52, R238) -/

def noTile : TileSpec := ⟨[], 0, 0, 0, 0, 0⟩

/-- Tile number `n` of a job. -/
def ProdJob.tileAt (j : ProdJob) (n : Nat) : TileSpec := j.tiles.getD n noTile

/-- First lane of a tile: its jig position times the lanes of a tile, or the first lane of its member's lane groups (R41, R63). -/
def ProdJob.laneOf (j : ProdJob) (t : TileSpec) : Nat := if j.jig = 4 then j.lane0 else t.pos * (128 / jigTiles j.jig)

/-- Number of intervals of a tile (R45, R52). -/
def ProdOps.intervals (p : ProdOps) (m : Cmd) (j : ProdJob) (t : TileSpec) : Nat :=
  if p.dW then
    let g := p.segment m j.split t.seg
    ceilDiv (g.2 - g.1) j.interval
  else ceilDiv (ceilDiv (p.jext m) (p.jbw m)) 8

/-- First and end index of interval k along the reduction axis: tokens for GRADW, j for GRADX. -/
def ProdOps.span (p : ProdOps) (m : Cmd) (j : ProdJob) (t : TileSpec) (k : Nat) : Nat × Nat :=
  if p.dW then
    let g := p.segment m j.split t.seg
    (g.1 + k * j.interval, min g.2 (g.1 + (k + 1) * j.interval))
  else (k * 8 * p.jbw m, min (p.jext m) ((k + 1) * 8 * p.jbw m))

/-- Shared-operand beats of interval k. -/
def ProdOps.beatCount (p : ProdOps) (m : Cmd) (j : ProdJob) (t : TileSpec) (k : Nat) : Nat :=
  let g := p.span m j t k
  if p.dW then (if j.eight then ceilDiv (g.2 - g.1) 2 else g.2 - g.1) else t.cols * ceilDiv (g.2 - g.1) (p.jbw m)

/-- R238: raw estimate of interval k in EC; `port` is what its remote bytes take of the remote port. -/
def ProdOps.rawEst (p : ProdOps) (m : Cmd) (j : ProdJob) (t : TileSpec) (k port : Nat) : Nat :=
  let g := p.span m j t k
  let n := g.2 - g.1
  let e := if p.dW then max (p.beatCount m j t k) 32
    else ((List.range (ceilDiv n (p.jbw m))).map (fun b =>
      let v := min (p.jbw m) (n - b * p.jbw m)
      max t.cols (if v = p.jbw m then 128 else v))).foldl (· + ·) 0
  max (if j.jig = 3 then ceilDiv (e * 5) 4 else e) port

/-- R238: the prologue of a tile with `fills` column-wise streams: a block fill for each, another for the re-pack of R69, the first
stationary load of a GRADX. -/
def ProdOps.prologue (p : ProdOps) (m : Cmd) (fills : Nat) : Nat :=
  8 + 128 * fills + (if p.dW then 0 else 128) + (if m.legacy then 128 else 0)

/-- R239: an adjusted estimate. -/
def adjusted (adj : Byte) (raw : Nat) : Nat := ceilDiv (raw * (256 + adj.toNat)) 256

/-- Slot row of each lane of a tile: the row within its block, or the lane where a re-packed tile spans blocks (R47, R69). -/
def TileSpec.slotRows (t : TileSpec) : List Nat :=
  let b := t.rows.headD 0 / 128
  if t.rows.all (fun r => r / 128 == b) then t.rows.map (· % 128) else List.range t.rows.length

/-- The resident slot a tile's block matches (R100). A re-packed tile whose rows span several blocks matches none (log 59). -/
def State.residentFor (s : State) (c : CtxNo) (m : Cmd) (t : TileSpec) : Option Nat :=
  let b := t.rows.headD 0 / 128
  if t.rows.all (fun r => r / 128 == b) then
    (s.matched c (m.f 160 10) m.dstFeat).find? (fun i => (s.slot i).tileRow == b && (s.slot i).tileCol == t.col0 / 128)
  else none

/-! ### What an interval reads (R44, R50, R58, R69) -/

/-- Rows of the lane-operand stream that a tile's beats read: its own, or under a legacy mask its whole operand blocks (R69). -/
def ProdOps.readRows (p : ProdOps) (m : Cmd) (t : TileSpec) : List Nat :=
  if m.legacy then (dedup (t.rows.map (· / 128)) []).flatMap (fun b => upFrom (b * 128) (min 128 (p.lanes m - b * 128))) else t.rows

/-- The elements of operand A that interval k of a tile takes, for lanes `rows`. -/
def ProdOps.opaElems (p : ProdOps) (m : Cmd) (j : ProdJob) (t : TileSpec) (k : Nat) (rows : List Nat) : List (Nat → Nat) :=
  let g := p.span m j t k
  let ax := upFrom g.1 (g.2 - g.1)
  if p.dW then ax.flatMap (fun x => rows.map (fun r => p.opa.desc.view m.opaFeat x r))
  else (upFrom t.col0 t.cols).flatMap (fun i => ax.map (fun jj => p.opa.desc.view m.opaFeat i jj))

/-- The elements of dY that interval k of a tile takes, for lanes `rows`. -/
def ProdOps.dyElems (p : ProdOps) (m : Cmd) (j : ProdJob) (t : TileSpec) (k : Nat) (rows : List Nat) : List (Nat → Nat) :=
  let g := p.span m j t k
  let ax := upFrom g.1 (g.2 - g.1)
  if p.dW then ax.flatMap (fun x => (upFrom t.col0 t.cols).map (fun n => p.dy.desc.view m.dyFeat x n))
  else rows.flatMap (fun x => ax.map (fun jj => p.dy.desc.view m.dyFeat x jj))

/-- The position of the first dY element not yet consumed after `k` intervals (R138). -/
def ProdOps.nextPos (p : ProdOps) (m : Cmd) (j : ProdJob) (t : TileSpec) (k : Nat) : Nat :=
  let g := (p.span m j t k).1
  if p.dW then p.dy.desc.logical (p.dy.desc.view m.dyFeat g t.col0)
  else p.dy.desc.logical (p.dy.desc.view m.dyFeat (t.rows.headD 0) g)

/-- The stored bits of a stream's elements; those a chain gave are not read. -/
def State.streamBits (s : State) (c : CtxNo) (o : Opnd) (bad : List (Nat × Nat)) (els : List (Nat → Nat)) (given : List (Option Nat)) :
    List Nat :=
  (els.zip given).map (fun x => x.2.getD (s.elemBits c bad o x.1))

/-- A stream element: its value as the multiplier takes it, the flags it sets, its raw value for the range bank. -/
def Opnd.value (o : Opnd) (tab : Option BoundTable) (pres : Bool) (e : Nat → Nat) (bits : Nat) : Num × Flag × Num :=
  let v := opndValue o tab pres e bits
  (v.1, v.2, decodeElem o.fmt bits)

/-- R137: the gate on a dY element. -/
def gated (m : Cmd) (o : Opnd) (e : Nat → Nat) (v : Num) : Num :=
  if m.gate && !sedgeKeep (m.f 256 64) (m.f 320 32) (m.f 352 25) (o.desc.logical e) then .fin false 0 0 else v

/-- Flags of a list joined. -/
def joinFlags (l : List Flag) : Flag := l.foldl Flag.or .clear

/-! ### Cells, trees and stationary banks (R44, R50 to R53, R66, R75, R76, R81) -/

/-- A product with the flag of a NaN it produced (R34). -/
def mulFlag (a b : Num) : Num × Flag :=
  let r := a.mul b
  (r, ⟨false, r == .nan⟩)

/-- A block's tree: in 8-bit mode the pair level first, then seven levels (R50, R53, R81). -/
def blockTree (eight : Bool) (vals : List Num) : Option Num × Flag :=
  let leaves := vals.map some
  if eight then
    let l := treeLevel nodeT25 leaves
    let r := treeSum nodeT25 7 l.1
    (r.1, l.2.or r.2)
  else treeSum nodeT25 7 leaves

/-- One GRADX lane and column: its j-blocks' tree results in order, accumulated in A20 (R50, R53, R66, R76, R81). -/
def dxCell (eight : Bool) (jbw : Nat) (prods : List Num) : Num × Flag :=
  let trees := (chunks jbw (prods.length + 1) prods).map (blockTree eight)
  let r := intervalSum none (trees.filterMap (·.1))
  (r.1.getD (.fin false 0 0), (joinFlags (trees.map (·.2))).or r.2)

/-- One GRADW cell: its products in token order, accumulated in A20 (R44, R75, R76). -/
def dwCell (prods : List Num) : Num × Flag :=
  let r := intervalSum none prods
  (r.1.getD (.fin false 0 0), r.2)

/-- Element (a, b) of a row-major list of rows of `n`. -/
def at2 (l : Array Num) (n a b : Nat) : Num := l.getD (a * n + b) .nan

/-- The words a stationary bank takes for a block of `vals.length` columns of one lane (R50, R51, R53). -/
def holdRow (f : FloatFmt) (eight : Bool) : List Num → List (BitVec 16)
  | [] => []
  | [a] => [holdPair f eight a none]
  | a :: b :: t => if eight then holdPair f eight a (some b) :: holdRow f eight t else holdPair f eight a none :: holdRow f eight (b :: t)

/-- The block's words of each lane laid into a stationary bank from lane `lane` on; what no load beat reaches stays. -/
def bankLoad (old : Tbl (BitVec 16)) (lane : Nat) : List (List (BitVec 16)) → Tbl (BitVec 16)
  | [] => old.filter (fun e => decide (lane * 128 ≤ e.1))
  | ws :: t =>
    ((List.range ws.length).zip ws).filterMap (fun x => if x.2 = 0 then none else some (lane * 128 + x.1, x.2))
      ++ old.filter (fun e => decide (lane * 128 + ws.length ≤ e.1 ∧ e.1 < (lane + 1) * 128)) ++ bankLoad old (lane + 1) t

/-- A stationary bank after the load of a block into the lanes from `lane0` on (R51, R70). -/
def loadBank (old : Tbl (BitVec 16)) (lane0 : Nat) (rows : List (List (BitVec 16))) : Tbl (BitVec 16) :=
  old.filter (fun e => decide (e.1 < lane0 * 128)) ++ bankLoad old lane0 rows

/-- The lane bank after its blocks are loaded, S0 and S1 in turn from block number `b` on (R51, R70). -/
def Lane.loadBlocks (l : Lane) (lane0 : Nat) : Nat → List (List (List (BitVec 16))) → Lane
  | _, [] => l
  | b, rows :: t =>
    (if b % 2 = 0 then { l with s0 := loadBank l.s0 lane0 rows } else { l with s1 := loadBank l.s1 lane0 rows }).loadBlocks lane0 (b + 1) t

/-- The j-blocks of interval k as the stationary banks hold them: by block, lane, cell; `yv` holds the gated dY values. -/
def ProdOps.holdBlocks (p : ProdOps) (m : Cmd) (j : ProdJob) (t : TileSpec) (k : Nat) (yv : Array Num) : List (List (List (BitVec 16))) :=
  let g := p.span m j t k
  let n := g.2 - g.1
  let w := p.jbw m
  let f := p.dy.heldFmt (prescaledOp p.dW p.dy m.dyFeat) j.eight
  (List.range (ceilDiv n w)).map (fun b => (List.range t.rows.length).map (fun l =>
    holdRow f j.eight ((List.range (min w (n - b * w))).map (fun x => at2 yv n l (b * w + x)))))

/-- dY element x of lane l, read from the stationary bank that holds its block (R50, R53). -/
def heldElem (f : FloatFmt) (eight : Bool) (w : Nat) (banks : Array (Array (Array (BitVec 16)))) (l x : Nat) : Num :=
  let c := x % w
  heldNum f eight (((banks.getD (x / w) #[]).getD l #[]).getD (if eight then c / 2 else c) 0) (c % 2)

/-- A20 values of interval k by lane * 128 + cell, with the flags of the interval. `av` and `yv` are the operand values, `banks` the
stationary blocks of a GRADX. -/
def ProdOps.bankCells (p : ProdOps) (m : Cmd) (j : ProdJob) (t : TileSpec) (k : Nat) (av yv : Array Num)
    (banks : Array (Array (Array (BitVec 16)))) : Tbl (BitVec 20) × Flag :=
  let g := p.span m j t k
  let n := g.2 - g.1
  let L := t.rows.length
  let f := p.dy.heldFmt (prescaledOp p.dW p.dy m.dyFeat) j.eight
  let cell (l cc : Nat) : Num × Flag :=
    let pf := (List.range n).map (fun x =>
      if p.dW then mulFlag (at2 av L x l) (at2 yv t.cols x cc) else mulFlag (heldElem f j.eight (p.jbw m) banks l x) (at2 av n cc x))
    let r := if p.dW then dwCell (pf.map (·.1)) else dxCell j.eight (p.jbw m) (pf.map (·.1))
    (r.1, (joinFlags (pf.map (·.2))).or r.2)
  let all := (List.range L).flatMap (fun l => (List.range t.cols).map (fun cc => ((j.laneOf t + l) * 128 + cc, cell l cc)))
  (all.filterMap (fun x =>
      let b := BitVec.ofNat 20 (fmtA20.encode x.2.1).1
      if b = 0 then none else some (x.1, b)), joinFlags (all.map (·.2.2)))

/-- FP32 bits of the scale of an exact-path operand at an element; 1.0 when it has none (R126). -/
def scaleOf (o : Opnd) (tab : Option BoundTable) (pres : Bool) (e : Nat → Nat) : Word :=
  match tab with
  | some b => if pres then 0x3F800000 else (b.entry (o.desc.channel e)).extractLsb' 0 32
  | none => 0x3F800000

/-- The interval record of interval k of a tile run. -/
def ProdOps.intervalOf (p : ProdOps) (m : Cmd) (j : ProdJob) (c : CtxNo) (r : TileRun) (k now raw : Nat) (f : Flag) : Interval :=
  let t := j.tileAt r.tile
  let pa := prescaledOp p.dW p.opa m.opaFeat
  let py := prescaledOp p.dW p.dy m.dyFeat
  let rowS (x : Nat) : Word := if p.dW then scaleOf p.opa j.opaTab pa (p.opa.desc.view m.opaFeat 0 x)
    else scaleOf p.dy j.dyTab py (p.dy.desc.view m.dyFeat x 0)
  let colS (n : Nat) : Word := if p.dW then scaleOf p.dy j.dyTab py (p.dy.desc.view m.dyFeat 0 n)
    else scaleOf p.opa j.opaTab pa (p.opa.desc.view m.opaFeat n 0)
  { ctx := c, seq := m.seq, tile := r.tile, number := k, slot := r.slot, rows := t.slotRows, lane0 := j.laneOf t, cols := t.cols
    rowScale := t.rows.map rowS, colScale := (upFrom t.col0 t.cols).map colS
    keepScale := if m.gate then w32 (m.f 384 32) else 0x3F800000
    scaled := m.gate || (p.opa.desc.quant && !pa) || (p.dy.desc.quant && !py)
    sat := f.sat, nf := f.nf, prescaled := pa || py, raw := raw, start := now }

/-! ### Beats of a chained tile (R182 to R184) -/

/-- First weight beat of interval k of tile number `n` (R183). -/
def ProdOps.beatFrom (p : ProdOps) (m : Cmd) (j : ProdJob) (n k : Nat) : Nat :=
  p.beatBase m j.tiles n + (j.tileAt n).cols * ((p.span m j (j.tileAt n) k).1 / p.jbw m)

/-- Weight beats of the command's stream up to and including interval k of tile number `n` (R183). -/
def ProdOps.beatsTo (p : ProdOps) (m : Cmd) (j : ProdJob) (n k : Nat) : Nat :=
  p.beatBase m j.tiles n + (j.tileAt n).cols * ceilDiv (p.span m j (j.tileAt n) k).2 (p.jbw m)

/-- The beat and place in it of each weight element of interval k, in the order of `opaElems` (R53, R183). -/
def ProdOps.beatPlaces (p : ProdOps) (m : Cmd) (j : ProdJob) (n k : Nat) : List (Nat × Nat) :=
  let t := j.tileAt n
  let g := p.span m j t k
  let w := p.jbw m
  let base := p.beatBase m j.tiles n
  (List.range t.cols).flatMap (fun i => (upFrom g.1 (g.2 - g.1)).map (fun jj => (base + t.cols * (jj / w) + i, jj % w)))

/-- The bits a chained member's slack gave for each weight element of interval k; none: fetched from its own memory (R182). -/
def ProdOps.given (p : ProdOps) (m : Cmd) (j : ProdJob) (n k : Nat) (e : Chain) : List (Option Nat) :=
  (p.beatPlaces m j n k).map (fun x => (e.got.find? (fun b => b.num == x.1)).map (fun b => b.elem (fmtBits p.opa.fmt) x.2))

/-- The beats of interval k as a sender forwards them. -/
def ProdOps.beatsOf (p : ProdOps) (m : Cmd) (j : ProdJob) (n k : Nat) (e : Chain) (bits : List Nat) : List Beat :=
  let lo := p.beatFrom m j n k
  let all := (p.beatPlaces m j n k).zip bits
  (upFrom lo (p.beatsTo m j n k - lo)).map (fun b =>
    ⟨e.seq, b, e.sig, beatData (fmtBits p.opa.fmt) ((all.filter (fun x => x.1.1 == b)).map (·.2))⟩)

/-- The first weight beat of the interval at the cursor: of the first tile in progress, or of the next one. -/
def ProdOps.cursorBeat (p : ProdOps) (m : Cmd) (j : ProdJob) : Nat :=
  match j.runs.find? (fun r => !r.phase.loaded) with
  | some r => p.beatFrom m j r.tile r.committed
  | none => p.beatBase m j.tiles j.next

/-- The chain entry of a chained command. -/
def State.chainOf (s : State) (m : Cmd) : Option Chain := if m.op = 2 ∧ m.chainNo ≠ 0 then some (s.chain (m.chainNo - 1)) else none

/-- The lane bank takes what the slack holds of interval k (R184). -/
def State.chainTake (s : State) (m : Cmd) (p : ProdOps) (j : ProdJob) (n k : Nat) : State :=
  match s.chainOf m with
  | some e => s.settleChain (m.chainNo - 1) (e.take (p.beatFrom m j n k) (p.beatsTo m j n k))
  | none => s

/-- The interval's beats are used up; a sender forwards its own (R184, R186). -/
def State.chainUse (s : State) (m : Cmd) (p : ProdOps) (j : ProdJob) (n k : Nat) (bits : List Nat) : State :=
  match s.chainOf m with
  | some e => s.settleChain (m.chainNo - 1) (e.use (p.beatsTo m j n k) (p.beatsOf m j n k e bits))
  | none => s

/-- Is the chain's entry, if the product has one, ready for the beats of interval `k`? -/
def State.beatsReady (s : State) (m : Cmd) (p : ProdOps) (j : ProdJob) (n k : Nat) : Bool :=
  match s.chainOf m with
  | some e => e.ready (p.beatsTo m j n k)
  | none => true

/-- The A-stream elements of interval `k` that the chain gave. -/
def State.chainGiven (s : State) (m : Cmd) (p : ProdOps) (j : ProdJob) (n k : Nat) : List (Option Nat) :=
  match s.chainOf m with
  | some e => p.given m j n k e
  | none => (p.opaElems m j (j.tileAt n) k (j.tileAt n).rows).map (fun _ => none)

end Sys2Proof.Machine
end

