-- ==== Sys2Proof/Machine/Reduce.lean ====
section
/-! DEFINITION. REDUCE (03, 11): rows reduced in the lane bank, output conversion with clip counting (06), the tile as one unit. -/

namespace Sys2Proof.Machine

/-! ### Reducing a row (R70 to R72) -/

/-- The canonical choice of MAX and MIN between two values, a NaN winning (R71). -/
def pickMax (a b : Num) : Num := if a == .nan || b == .nan then .nan else if a.lt b then b else a
def pickMin (a b : Num) : Num := if a == .nan || b == .nan then .nan else if b.lt a then b else a

/-- Does the later element replace the selected one (R72)? A NaN ranks above every value, ties keep the lower position. -/
def idxBetter (max : Bool) (best v : Num) : Bool :=
  if best == .nan then false else if v == .nan then true else if max then best.lt v else v.lt best

/-- R72: position and value of the selected element. -/
def selectIdx (max : Bool) : List Num → Nat → Nat → Num → Nat × Num
  | [], _, at_, best => (at_, best)
  | v :: t, pos, at_, best => if idxBetter max best v then selectIdx max t (pos + 1) pos v else selectIdx max t (pos + 1) at_ best

/-- R71: the T25 sum of a row: each block's tree, then the lane total, the first block's result written. A row of one element passes
through the tree (R66) and is rounded where the lane total register takes it (R25). -/
def sumRow (eight : Bool) (blk : Nat) (vals : List Num) : Num × Flag :=
  let trees := (chunks blk (vals.length + 1) vals).map (blockTree eight)
  let tot := trees.foldl (fun (a : Option Num × Flag) t =>
      let r := nodeT25 a.1 t.1
      (r.1, a.2.or (t.2.or r.2))) (none, Flag.clear)
  (tot.1.getD (.fin false 0 0), tot.2)

/-- R70 to R72: what a row leaves in its lane total register, and the flags of the sums. -/
def reduceTotal (op : Nat) (eight : Bool) (vals : List Num) : Num × Nat × Flag :=
  match vals with
  | [] => (.fin false 0 0, 0, .clear)
  | v :: t =>
    if op = 3 ∨ op = 4 then
      let k := selectIdx (op == 3) t 1 0 v
      (k.2, k.1, .clear)
    else if op = 0 then
      let r := sumRow eight (if eight then 256 else 128) vals
      (r.1, 0, r.2)
    else (t.foldl (if op = 1 then pickMax else pickMin) v, 0, .clear)

/-- A lane total register: the T25 value in its low 25 bits, the index above it (R39); T25 holds a zero fraction only under an
exponent field of 0, so a subnormal is held as a zero of its sign (R25). -/
def totalWord (v : Num) (idx : Nat) : BitVec 57 := BitVec.ofNat 57 ((fmtT25.toBits v).1 + idx * 2 ^ 25)

/-- The value and the index in a lane total register. -/
def totalValue (w : BitVec 57) : Num := fmtT25.decode (fld w 0 25)
def totalIndex (w : BitVec 57) : Nat := fld w 25 32

/-! ### Output conversion and clip counting (R29, R31, R35, R129 to R131) -/

/-- A number as stored bits of an output format, encoded to codes through a table where the format is an integer (R29, R31). A finite
value that a code clips sets SAT (R35). -/
def outBits (o : Opnd) (tab : Option BoundTable) (coord : Nat → Nat) (v : Num) : Nat × Flag × Clip :=
  match tab with
  | some b =>
    let e := b.entry (o.desc.channel coord)
    let q := toCode (rtBits b.hdr) (entScale e) (entZero e) v
    (q.1, ⟨q.2 != .none && v.isFin, !v.isFin⟩, q.2)
  | none => let r := (fmtFloat o.fmt).toBits v; (r.1, r.2, .none)

/-- R71, R72, R126: the stored bits of a reduced row from its lane total, with the flags and the value kept for conversion counting. -/
def reduceOut (op : Nat) (src dst : Opnd) (srcTab dstTab : Option BoundTable) (pres : Bool) (srcCoord dstCoord : Nat → Nat)
    (w : BitVec 57) : Nat × Flag × Clip × Num :=
  if op = 3 ∨ op = 4 then (totalIndex w, .clear, .none, .fin false 0 0)
  else
    let v := if srcTab.isSome && !pres then (totalValue w).mul (ofF32 (scaleOf src srcTab pres srcCoord)) else totalValue w
    let b := outBits dst dstTab dstCoord v
    (b.1, b.2.1, b.2.2, v)

/-- R130: WIN_CONV has reached 2^20, so WIN_CONV and WIN_CLIPS return to 0 and the next window begins. -/
def State.windowEnd (s : State) (t : Nat) : State :=
  let x := s.rt t
  if 2 ^ 20 ≤ x.winConv then s.setRt t { x with winConv := 0, winClips := 0, windows := x.windows + 1 } else s

/-- The CALIB_DRIFT payload (R131). -/
def driftPayload (t : Nat) (x : RescaleTable) (ch : Nat) (seq : BitVec 16) : BitVec 128 :=
  BitVec.ofNat 128 (packBits [(t, 3), (rtCode x.hdr, 1), (0, 12), (seq.toNat, 16), (x.windows.toNat, 32),
    (min (rtThresh x.hdr + 1) (2 ^ 20), 21), (ch, 12)])

/-- One conversion through table `t` counted, in the window that is open; a CALIB_DRIFT record when the window's clips first
exceed the threshold (R129 to R132). -/
def State.countConv (s0 : State) (t : Nat) (ch : Nat) (seq : BitVec 16) (v : Num) (k : Clip) : State :=
  let s := s0.windowEnd t
  let x := (s.rt t).record ch (ofF32 (toF32 v).1)
  let clipped := k != .none
  let x1 := { x with
    conv := satAdd x.conv 1
    clipLow := if k = .low then satAdd x.clipLow 1 else x.clipLow
    clipHigh := if k = .high then satAdd x.clipHigh 1 else x.clipHigh
    winConv := x.winConv + 1
    winClips := if clipped then x.winClips + 1 else x.winClips }
  let drift := clipped && rtThresh x.hdr != 0 && x.winClips == rtThresh x.hdr
  let x2 := if drift then { x1 with drift := satAdd x1.drift 1 } else x1
  match drift, x.owner with
  | true, some c => (s.setRt t x2).event c 0x03 (driftPayload t x ch seq)
  | _, _ => s.setRt t x2

/-! ### The command (R221) -/

/-- Elements of the rows of a REDUCE tile. -/
def reduceElems (o : Opnd) (axis row n : Nat) : List (List (Nat → Nat)) :=
  (upFrom row n).map (fun r => (List.range (o.desc.size axis)).map (fun k => o.desc.view axis r k))

/-- A REDUCE source whose QAXIS is the reduced axis takes the prescaled path (R125, R128, log 61). -/
def reducePres (src : Opnd) (axis : Nat) : Bool := src.desc.quant && src.desc.qaxis == axis

/-- Does a REDUCE run its lanes in 8-bit mode (R36, R70)? -/
def reduceEight (src : Opnd) (axis : Nat) : Bool := eightBit src && !reducePres src axis

/-- Blocks of a REDUCE row (R70). -/
def reduceBlocks (o : Opnd) (axis : Nat) : Nat := ceilDiv (o.desc.size axis) (if reduceEight o axis then 256 else 128)

/-- R238: the raw estimate of a REDUCE tile; `port` is what its remote bytes take of the remote port. -/
def reduceEst (o : Opnd) (axis port : Nat) : Nat := max (128 * reduceBlocks o axis + 32) port

/-- R238: the prologue of a REDUCE tile: its first stationary load, and a block fill when its stream is read column-wise (R61, R213). -/
def reducePrologue (o : Opnd) (axis : Nat) : Nat := 8 + 128 + (if o.rowWise axis false then 0 else 128)

/-- Checks of REDUCE (R221, R17, R36); that R121 holds of its operands, and where the access checks and PROMO_P stand, is log 77. -/
def State.reduceBad (s : State) (c : CtxNo) (m : Cmd) (src dst : Opnd) : Option Reply :=
  let axis := m.f 160 3
  let op := m.f 163 3
  let q (o : Opnd) (lo : Nat) : List (Bool × Reply) :=
    match s.quantBad c m o (m.f lo 16) with
    | some r => [(false, r)]
    | none => []
  firstBad (
    [(src.desc.canRead && fmtValid src.fmt && fmtOperand src.fmt, .bad 128)] ++ q src 128
    ++ [(dst.desc.canWrite, .bad 144), (decide (axis < src.desc.ndim ∧ 0 < src.desc.size axis), .bad 160),
      (decide (op ≤ 4), .bad 163), (m.f 166 2 == 0, .bad 166), (dst.desc.count == src.desc.rows axis, .bad 144),
      (if op ≤ 2 then fmtValid dst.fmt && fmtOutput dst.fmt && dst.desc.format != 7 else dst.desc.format == 6, .bad 144)]
    ++ q dst 144
    ++ [(!descMeet src.desc dst.desc, .bad 144)])

/-- REDUCE starts when nothing earlier conflicts and its checks pass; it binds its tables (R124, R221). -/
def State.startReduce (s : State) (c : CtxNo) : State :=
  match s.starting c 0x03 with
  | none => s
  | some (i, m) =>
    if !s.noConflict c i m then s else
    match s.handle c (m.f 128 16), s.handle c (m.f 144 16), s.opnd m.fmts (m.f 128 16) 0, s.opnd m.fmts (m.f 144 16) 1 with
    | some _, some _, some src, some dst =>
      match m.reservedBad with
      | some r => s.finish c i r
      | none =>
        match s.reduceBad c m src dst with
        | some r => s.finish c i r
        | none => s.setPhase c i (.running (.reduceRows 0 0 (s.bindFor c m src) (s.bindFor c m dst) (s.overlaps c i)))
    | _, _, _, _ => s.finish c i (.of stHandle)

/-- REDUCE (R221): its tiles then run on the lane bank. -/
def execReduce (c : CtxNo) (s : State) : Out := .next (s.startReduce c)

/-- The accesses of a REDUCE tile: the rows read, their results written. -/
def reduceAccs (src dst : Opnd) (axis row n : Nat) : List Acc :=
  [src.acc false false ((reduceElems src axis row n).flatten.map src.span),
    dst.acc true false ((upFrom row n).map (fun r => dst.span (dst.desc.coords r)))]

/-- A source row as it is read: the raw values, the values as the trees take them with their flags. -/
def State.reduceRead (s : State) (c : CtxNo) (bad : List (Nat × Nat)) (src : Opnd) (tab : Option BoundTable) (pres : Bool)
    (els : List (Nat → Nat)) : List (Num × Flag × Num) :=
  els.map (fun e => src.value tab pres e (s.elemBits c bad src e))

/-- The blocks of the rows of a REDUCE tile as S0 and S1 hold them: by block, lane, cell (R70). -/
def reduceHold (f : FloatFmt) (eight : Bool) (rows : List (List Num)) : List (List (List (BitVec 16))) :=
  let w := if eight then 256 else 128
  let blocks := ceilDiv ((rows.map List.length).foldl max 0) w
  (List.range blocks).map (fun b => rows.map (fun r => holdRow f eight ((r.drop (b * w)).take w)))

/-- A row's values read back from the stationary banks that hold its blocks, block after block (R70). -/
def heldRow (f : FloatFmt) (eight : Bool) (vals : List Num) : List Num :=
  let w := if eight then 256 else 128
  (chunks w (vals.length + 1) vals).flatMap (fun blk =>
    let ws := (holdRow f eight blk).toArray
    (List.range blk.length).map (fun x => heldNum f eight (ws.getD (if eight then x / 2 else x) 0) (x % 2)))

/-- The lane total registers of lanes 0 on written (R70). -/
def Lane.putTotals (l : Lane) (ws : List (BitVec 57)) : Lane :=
  { l with totals := ((List.range ws.length).zip ws).foldl (fun t x => Tbl.put 0 t x.1 x.2) l.totals }

/-- One result row written, and counted when it goes through a table. -/
def State.reducePut (c : CtxNo) (seq : BitVec 16) (badW : List (Nat × Nat)) (dst : Opnd) (counted : Bool) (s : State)
    (x : Nat × (Nat × Flag × Clip × Num)) : State :=
  let t1 := s.putBits c badW dst (dst.desc.coords x.1) x.2.1
  if counted then t1.countConv dst.desc.qtable (dst.desc.channel (dst.desc.coords x.1)) seq x.2.2.2.2 x.2.2.2.1 else t1

/-- One REDUCE tile whole: 128 rows loaded into the stationary banks block by block, reduced into the lane totals, and written (R70, R155).
The reply carries the OR of the tiles' flags (R34, R128, R197). -/
def State.reduceTile (s : State) (c : CtxNo) (i : Nat) (m : Cmd) (row : Nat) (acc : Word) (tab dtab : Option BoundTable)
    (src dst : Opnd) : Bool × State :=
  let axis := m.f 160 3
  let op := m.f 163 3
  let total := src.desc.rows axis
  let n := min 128 (total - row)
  let as := reduceAccs src dst axis row n
  let o := s.openWrites c m.seq as
  if !o.1 then (false, o.2) else
  let s1 := o.2
  let pres := reducePres src axis
  let eight := reduceEight src axis
  let f := src.heldFmt pres eight
  let els := reduceElems src axis row n
  let bad := (as.take 1).flatMap (s1.refusals c)
  let badW := (as.drop 1).flatMap (s1.refusals c)
  let rows := els.map (s1.reduceRead c bad src tab pres)
  let tots := rows.map (fun r => reduceTotal op eight (heldRow f eight (r.map (·.1))))
  let words := tots.map (fun x => totalWord x.1 x.2.1)
  let lane := (s1.lane.loadBlocks 0 0 (reduceHold f eight (rows.map (fun r => r.map (·.1))))).putTotals words
  let outs := ((upFrom row n).zip words).map (fun x =>
    (x.1, reduceOut op src dst tab dtab pres (src.desc.view axis x.1 0) (dst.desc.coords x.1) x.2))
  let s2 := (els.zip rows).foldl (fun t x => t.recordStats src (x.1.zip (x.2.map (·.2.2)))) { s1 with lane := lane }
  let s3 := outs.foldl (State.reducePut c (BitVec.ofNat 16 m.seq.toNat) badW dst dtab.isSome) s2
  let fl := (joinFlags (rows.flatMap (fun r => r.map (·.2.1)))).or ((joinFlags (tots.map (·.2.2))).or (joinFlags (outs.map (·.2.2.1))))
  let acc1 := accSet acc (fl.bits + (if pres then 8 else 0))
  let s4 := s3.closeUnit c m.seq as
  if total ≤ row + n then (true, s4.finish c i { Reply.ok with acc := acc1, result0 := w32 total })
  else (true, s4.setPhase c i (.running (.reduceRows (row + n) acc1 tab dtab false)))

end Sys2Proof.Machine
end

