-- ==== Sys2Proof/Machine/Lane.lean ====
section
/-! DEFINITION. The lane bank (03, 04, 12): SLICE picks a context and fills accumulator banks with intervals; DRAIN promotes a
lane group's values into the Clamp. -/

namespace Sys2Proof.Machine

/-! ### Power of lane groups (R307, R308) -/

/-- Lane groups a run of lanes uses. -/
def laneGroups (lane0 n : Nat) : List (Fin 16) :=
  (List.range 16).filterMap (fun g =>
    if h : g < 16 then (if lane0 < 8 * g + 8 ∧ 8 * g < lane0 + n then some ⟨g, h⟩ else none) else none)

/-- All lane groups. -/
def allGroups : List (Fin 16) := [0, 1, 2, 3, 4, 5, 6, 7, 8, 9, 10, 11, 12, 13, 14, 15]

/-- Lane groups in ascending order, each once. -/
def sortGroups (gs : List (Fin 16)) : List (Fin 16) := allGroups.filter gs.contains

/-- REQ is high while a ramp is wanted or a token is held, but in the EC of RET; each wait for a token is counted from its start (R309). -/
def Power.request (p : Power) (now : Nat) : Power :=
  if p.held || (!p.ret && !p.want.isEmpty) then { p with req := true, reqSince := if p.req then p.reqSince else now }
  else { p with req := false, waitTicks := 0, waitLogged := false }

/-- A ramp is wanted, and waits for its token (R309). -/
def Power.ask (p : Power) (now : Nat) (r : Ramp) : Power :=
  if p.want.contains r ∨ p.ramp = some r then p else ({ p with want := p.want ++ [r] }).request now

/-- Groups that the ramp in progress raises, in the order in which they rise (R307). -/
def Power.rising (p : Power) : List (Fin 16) :=
  match p.ramp with
  | some (.wake gs) => gs
  | some .bistWake => allGroups
  | _ => []

/-- Groups that the ramp in progress lowers, in the order in which they fall (R307). -/
def Power.falling (p : Power) : List (Fin 16) :=
  match p.ramp with
  | some (.release gs) => gs
  | some .bistRelease => allGroups.reverse
  | _ => []

/-- Can the groups take beats in the mode: awake, not being lowered, and no mode change under way (R307)? -/
def Power.readyFor (p : Power) (gs : List (Fin 16)) (eight : Bool) : Bool :=
  gs.all (fun g => p.awake.get g && !p.falling.contains g) && p.eight == eight && !(match p.ramp with | some (.mode _) => true | _ => false)

/-- A wanted ramp once groups are needed: they are released no more, since they are used as they are (R308). -/
def Ramp.sparing (gs : List (Fin 16)) : Ramp → Option Ramp
  | .release l =>
    let l1 := l.filter (fun g => !gs.contains g)
    if l1.isEmpty then none else some (.release l1)
  | r => some r

/-- Is it a mode change; is it a release; is it a wake? -/
def Ramp.isMode : Ramp → Bool
  | .mode _ => true
  | _ => false
def Ramp.isRelease : Ramp → Bool
  | .release _ => true
  | _ => false
def Ramp.wakes : Ramp → List (Fin 16)
  | .wake gs => gs
  | _ => []

/-- Groups are to be woken, in one ramp with those whose wake is wanted already; releases that have not begun are cancelled (R308). -/
def Power.wantWake (p : Power) (now : Nat) (cold : List (Fin 16)) : Power :=
  let gs := sortGroups (p.want.flatMap Ramp.wakes ++ cold)
  ({ p with want := p.want.filter (fun (r : Ramp) => !r.isRelease && r.wakes.isEmpty) ++ [Ramp.wake gs] }).request now

/-- The wake or the mode change that the groups need (R307). Groups that are awake, or rise already, are not ramped again (R311). -/
def Power.prepare (p : Power) (now : Nat) (gs : List (Fin 16)) (eight : Bool) : Power :=
  let p0 := { p with want := (p.want.filter (fun (r : Ramp) => !r.isMode)).filterMap (Ramp.sparing gs) }
  let cold := gs.filter (fun g => (!p.awake.get g || p.falling.contains g) && !p.rising.contains g)
  if p.eight ≠ eight then
    if p.awake.toList.any id || p.ramp.isSome then ({ p0 with want := p0.want ++ [Ramp.mode eight] }).request now
    else ({ p0 with eight := eight }).wantWake now cold
  else if cold.isEmpty then p0.request now else p0.wantWake now cold

/-- Groups take beats now (R308). -/
def Power.beat (p : Power) (now : Nat) (gs : List (Fin 16)) : Power :=
  { p with lastBeat := gs.foldl (fun v g => v.set g.val now g.isLt) p.lastBeat }

/-! ### Started commands and their tiles -/

/-- Low 16 bits of a sequence number, as a PAGE_FAULT record names it (R159). -/
def seq16 (q : Word) : BitVec 16 := BitVec.ofNat 16 q.toNat

/-- The command at place `i`. -/
def State.cmdAt (s : State) (c : CtxNo) (i : Nat) : Option Cmd := (s.ctx c).cmds[i]?

/-- Put a product command's job back. -/
def State.setJob (s : State) (c : CtxNo) (i : Nat) (j : ProdJob) : State := s.setPhase c i (.running (.product j))

/-- A job with its run of tile `n` changed. -/
def ProdJob.modRun (j : ProdJob) (n : Nat) (f : TileRun → TileRun) : ProdJob :=
  { j with runs := j.runs.map (fun r => if r.tile = n then f r else r) }

/-- A tile in progress with its command. -/
structure LanePart where
  place : Nat
  cmd : Cmd
  job : ProdJob
  ops : ProdOps
  run : TileRun
  deriving DecidableEq, Repr

/-- The tile's rows, columns and place. -/
def LanePart.tile (x : LanePart) : TileSpec := x.job.tileAt x.run.tile

/-- Lane groups of the tile. -/
def LanePart.groups (x : LanePart) : List (Fin 16) := laneGroups (x.job.laneOf x.tile) x.tile.rows.length

/-- The commands of a context with their places. -/
def Context.placed (x : Context) : List (Nat × Cmd) := (List.range x.cmds.length).zip x.cmds

/-- The run of tile `n` that the command at a place has under a leader. -/
def State.partOf (s : State) (lead : Word) (n : Nat) (x : Nat × Cmd) : Option LanePart :=
  match x.2.phase with
  | .running (.product j) =>
    if j.lead ≠ lead then none else
    match s.prod x.2 j.dW, j.runs.find? (fun r => r.tile == n) with
    | some p, some r => some ⟨x.1, x.2, j, p, r⟩
    | _, _ => none
  | _ => none

/-- The members' parts of tile `n`: one command's tile, or those of a J128C tile with the leader first (R63). -/
def State.partsAt (s : State) (c : CtxNo) (lead : Word) (n : Nat) : List LanePart := (s.ctx c).placed.filterMap (s.partOf lead n)

/-- The started products under a leader: one, or the members of a J128C tile. -/
def State.members (s : State) (c : CtxNo) (lead : Word) : List (Nat × Cmd × ProdJob) :=
  (s.ctx c).placed.filterMap (fun x => match x.2.phase with
    | .running (.product j) => if j.lead = lead then some (x.1, x.2, j) else none
    | _ => none)

/-- Can tile `n` take its next interval, in every member at the same one? -/
def State.tileReady (s : State) (c : CtxNo) (lead : Word) (n : Nat) : Bool :=
  let ps := s.partsAt c lead n
  ps.length == (s.members c lead).length
    && (match ps with
        | [] => false
        | x :: _ => ps.all (fun y => y.run.phase == .run && y.run.filled == x.run.filled))

/-! ### Slots and captures (R97, R113) -/

/-- Is the slot's bank to be rewritten since a boundary, so that no new work of its slots is admitted (R324)? -/
def State.slotShut (s : State) (k : Nat) : Bool :=
  s.bist.rewriteDue.any (fun x => x.1 == 1 && x.2.1 == k / 4 && x.2.2.2 != s.tick.count)

/-- The lowest-numbered FREE slot (R97); none while its bank is to be rewritten (R324). -/
def State.freeSlot (s : State) : Option Nat :=
  ((List.range 48).find? (fun i => (s.slot i).state == .free)).filter (fun i => !s.slotShut i)

/-- Slots that count as resident (R97). -/
def State.residentCount (s : State) : Nat :=
  ((List.range 48).filter (fun i => (s.slot i).resident && (s.slot i).state != .free)).length

/-! ### Journal gate (R113) -/

/-- Must the unit be captured, or counted as unguarded, before the context writes it? -/
def State.mustCapture (s : State) (c : CtxNo) (u : Unit) : Bool :=
  match (s.ctx c).task with
  | none => false
  | some t =>
    if u.kind = 3 then t.present.contains u.row && !(s.slot u.row).touched && !t.seen.contains u
    else !s.touch.any (fun x => x.ctx == c && x.unit == u) && !t.seen.contains u

/-- The unit's capture is asked of JOURNAL_CAPTURE. -/
def State.askCapture (s : State) (c : CtxNo) (u : Unit) (seq : Word) : State :=
  s.modCtx c (fun x => { x with wantUnit := some u, wantSeq := seq })

/-- The journal unit of a resident slot. -/
def slotUnit (i : Nat) : Unit := ⟨3, 0, 0, i, 0⟩

/-! ### Slot assignment (R97, R98, R100, R110) -/

/-- A slot taken for a tile, every element (+0, +0). -/
def Slot.take (x : Slot) (st : SlotState) (c : CtxNo) (desc feat row col : Nat) : Slot :=
  { Slot.reset with state := st, ctx := c, gen := x.gen, desc := desc, feat := feat, tileRow := row, tileCol := col }

/-! ### Opening tiles and assigning slots (R97, R98, R100, R110) -/

/-- May the job's next tile begin: at most four tiles are in progress, and none in its jig position still takes beats (log 12)? -/
def ProdJob.opens (j : ProdJob) : Bool :=
  let t := j.tileAt j.next
  decide (j.next < j.tiles.length ∧ j.runs.length < 4)
    && (match j.runs with
        | r :: _ => decide (j.next < r.tile + 4)
        | [] => true)
    && !j.runs.any (fun r => !r.phase.loaded && (j.tileAt r.tile).pos == t.pos)

/-- The position of the first dY element of tile number `n` (R138). -/
def ProdOps.firstPos (p : ProdOps) (m : Cmd) (j : ProdJob) (n : Nat) : Nat := p.nextPos m j (j.tileAt n) 0

/-- The job's next tiles begin (at most `n`), each at its first position; the first tile's prologue overlaps the epilogue of the command
before, where there is one (R138, R191, R238). -/
def ProdJob.openTiles (j : ProdJob) (pos : Nat → Nat) : Nat → ProdJob
  | 0 => j
  | n + 1 =>
    if j.opens then
      let r : TileRun :=
        { tile := j.next, phase := .fresh, slot := 0, resident := false, firstB := false, filled := 0, committed := 0, row := 0
          nextPos := pos j.next, recWord := 0, early := j.next == 0 && j.early }
      ({ j with next := j.next + 1, runs := j.runs ++ [r] } : ProdJob).openTiles pos n
    else j

/-- Does the tile accumulate directly into the resident slot its block matches: without MERGE, and as the first segment (R100)? -/
def State.direct (s : State) (c : CtxNo) (m : Cmd) (t : TileSpec) : Option Nat :=
  if t.seg = 0 ∧ ¬ m.bit 12 then s.residentFor c m t else none

/-- Transient slots that the fresh tiles of a job take together: a block's segments all at once (R82). -/
def State.wantSlots (s : State) (c : CtxNo) (m : Cmd) (j : ProdJob) : Nat :=
  if j.split ≤ 1 then 1
  else (j.runs.filter (fun r => r.phase == .fresh && (s.direct c m (j.tileAt r.tile)).isNone)).length

/-- Does a tile that matches no resident slot wait: does an earlier command that the MERGE product at place `i` runs beside still work on
bytes of theirs (R109)? -/
def State.tileBarred (s : State) (c : CtxNo) (i : Nat) (m : Cmd) (t : TileSpec) : Bool :=
  (s.residentFor c m t).isNone && ((s.ctx c).cmds.take i).any (fun k =>
    k.isData && s.slotsMeet c k m && !s.cmdDone c k && !(k.phase.isOver && !s.bytesMeet c k m))

/-- Can the tile have its slot now (R97, R109)? -/
def State.slotFor (s : State) (c : CtxNo) (i : Nat) (m : Cmd) (j : ProdJob) (t : TileSpec) : Bool :=
  if s.tileBarred c i m t then false else
  match s.direct c m t with
  | some k => j.mine.contains k || ((s.slot k).state == .held && (!j.mine.isEmpty || !s.slotShut k))
  | none => s.freeSlot.isSome && decide (s.wantSlots c m j ≤ ((List.range 48).filter (fun i => (s.slot i).state == .free)).length)

/-- A run with its slot. -/
def TileRun.assign (r : TileRun) (slot : Nat) (ph : TilePhase) (res : Bool) (pos : Nat) : TileRun :=
  { r with slot := slot, phase := ph, resident := res, nextPos := pos }

/-- A fresh tile gets its slot: the matching resident slot, or a transient one to be preloaded or zeroed. -/
def State.assign (c : CtxNo) (i : Nat) (s : State) (n : Nat) : State :=
  match s.cmdAt c i with
  | none => s
  | some m =>
    match m.phase with
    | .running (.product j) =>
      let t := j.tileAt n
      if !s.slotFor c i m j t then s else
      match s.prod m j.dW with
      | none => s
      | some p =>
        let res := (s.residentFor c m t).isSome
        let pos (r : TileRun) : Nat := p.nextPos m j t r.committed
        match s.direct c m t with
        | some k =>
          let j1 := j.modRun n (fun r => r.assign k .run res (pos r))
          if j.mine.contains k then s.setJob c i j1
          else if s.mustCapture c (slotUnit k) then s.askCapture c (slotUnit k) m.seq
          else (s.modSlot k (fun x => { x with state := .active })).setJob c i { j1 with mine := j.mine ++ [k] }
        | none =>
          match s.freeSlot with
          | none => s
          | some f =>
            let pre := t.seg = 0 && !res && m.preSrc != 0
            (s.modSlot f (fun x => x.take (if pre then .preload else .active) c (m.f 160 10) m.dstFeat (t.rows.headD 0 / 128)
              (t.col0 / 128))).setJob c i (j.modRun n (fun r => r.assign f (if pre then .preload else .run) res (pos r)))
    | _ => s

/-- Does the job open a tile, or assign a slot, if it is given the chance? -/
def State.placeable (s : State) (c : CtxNo) (x : Nat × Cmd × ProdJob) : Bool :=
  x.2.2.opens || x.2.2.runs.any (fun r => r.phase == .fresh && s.slotFor c x.1 x.2.1 x.2.2 (x.2.2.tileAt r.tile))

/-- Tiles of the job at a place are opened and get their slots in tiling order. -/
def State.place (c : CtxNo) (s : State) (x : Nat × Cmd × ProdJob) : State :=
  match s.prod x.2.1 x.2.2.dW with
  | none => s
  | some p =>
  let j := x.2.2.openTiles (p.firstPos x.2.1 x.2.2) 4
  ((j.runs.filter (fun r => r.phase == .fresh)).map (fun r => r.tile)).foldl (State.assign c x.1) (s.setJob c x.1 j)

/-! ### Scheduling (R205, R240, R247) -/

/-- The reserve of R256 in a whole tick. -/
def State.fullReserve (s : State) : Nat := if s.bist.forced then 1800 else 0

/-- The reserve of R256 that still lies ahead in the tick. -/
def State.reserve (s : State) : Nat := min s.fullReserve (14000 - min 14000 (s.now - s.tick.last))

/-- EC left before the next nominal boundary, less the reserve (R240). -/
def State.remaining (s : State) : Nat := 14000 - min 14000 (s.now - s.tick.last) - s.reserve

/-- Has the command a tile to open, to place or to run, or a REDUCE tile? An imported product has its tiling to make again. -/
def Cmd.laneWork (m : Cmd) : Bool :=
  match m.phase with
  | .running (.product j) => j.tiles.isEmpty || j.opens || j.runs.any (fun r => r.phase == .fresh || r.phase == .run)
  | .running (.reduceRows _ _ _ _ _) => true
  | _ => false

/-- The lane-bank work a context could run next: its first started product or REDUCE with a tile to run. -/
def State.laneCmd (s : State) (c : CtxNo) : Option (Nat × Cmd) :=
  (s.ctx c).placed.find? (fun x => x.2.laneWork && s.laneFree c x.1 x.2)

/-- The tiles of a job that can take intervals. -/
def State.readyTiles (s : State) (c : CtxNo) (j : ProdJob) : List Nat :=
  (j.runs.map (fun r => r.tile)).filter (s.tileReady c j.lead)

/-- Lane groups and mode the work needs. -/
def State.workGroups (s : State) (c : CtxNo) (m : Cmd) : List (Fin 16) × Bool :=
  match m.phase with
  | .running (.product j) =>
    (dedup ((s.readyTiles c j).flatMap (fun n => (s.partsAt c j.lead n).flatMap LanePart.groups)) [], j.eight)
  | .running (.reduceRows row _ _ _ _) =>
    match s.opnd m.fmts (m.f 128 16) 0 with
    | some o => (laneGroups 0 (min 128 (o.desc.rows (m.f 160 3) - row)), reduceEight o (m.f 160 3))
    | none => ([], false)
  | _ => ([], false)

/-- Does the command, or the J128C tile it leads, wait for memory, a capture or a page copy (R205)? -/
def State.memoryWait (s : State) (c : CtxNo) (m : Cmd) : Bool :=
  s.walks.any (fun w => w.ctx == c && !w.prefetch && !w.ring && w.need.seq == seq16 m.seq)
    || (((s.ctx c).wantUnit.isSome || (s.ctx c).wantPage.isSome) && (s.ctx c).wantSeq == m.seq)

/-- Can the work go on: a tile to open, to place or to run, or a REDUCE tile? A tile that waits for a slot cannot. -/
def State.runnable (s : State) (c : CtxNo) (m : Cmd) : Bool :=
  match m.phase with
  | .running (.product j) =>
    j.tiles.isEmpty || (s.members c j.lead).any (s.placeable c) || !(s.readyTiles c j).isEmpty
  | _ => true

/-- May the context be picked (R205, R240)? -/
def State.laneReady (s : State) (c : CtxNo) : Bool :=
  s.active c && !(s.ctx c).laneDone && (match s.laneCmd c with
    | some (_, m) => !s.memoryWait c m && s.runnable c m
    | none => false)

/-- Does a chained command wait for the beats of its next interval? -/
def State.beatWait (s : State) (c : CtxNo) (m : Cmd) : Bool :=
  match m.phase with
  | .running (.product j) => (s.readyTiles c j).any (fun n => ((s.partsAt c j.lead n).take 1).any (fun x =>
      !s.beatsReady x.cmd x.ops x.job n x.run.filled))
  | _ => false

/-! ### Self-test slices in the context's turn (R164, R314, R320) -/

/-- EC per item. -/
def itemEc (u : Nat) : Nat := [400, 380, 100, 240, 200, 100, 180].getD u 0

/-- Granules of staging an item takes: 40, 4, 12, 0, 8, 0 and 20 KiB. -/
def itemGranules (u : Nat) : Nat := [0, 10, 1, 3, 2, 0, 5].getD u 0

/-- Items that fit the EC, at most `n` (R314, R320). -/
def itemsFit (u n budget : Nat) : Nat := min n ((min 1800 budget - 80) / itemEc u)

/-- Who holds the staging of a self-test slice: no context (R164). -/
def benchUser : Nat := 8 * 2 ^ 33

/-- Granules of staging free; none while a bank of the buffer is to be rewritten (R324, log 48). -/
def State.stagingFree (s : State) : Nat :=
  if s.unitShut 2 then 0 else 64 - (s.staging.map (·.1)).foldl (· + ·) 0

/-- A unit whose items can run now: staging can be had at once, and no copy waits for it; a slice never waits for staging (R254, R314). -/
def State.unitFree (s : State) (u : Nat) : Bool :=
  itemGranules u == 0 || (decide (itemGranules u ≤ s.stagingFree) && !s.waits.any (fun w => w.res == .staging))

/-- EC of a BIST_SLICE's items that fit. -/
def bistEc (m : Cmd) : Nat := 80 + itemsFit (m.f 128 4) (m.f 192 16) 1800 * itemEc (m.f 128 4)

/-- Has the context a BIST_SLICE that could run now: checked, and its items fit the tick and their staging (R320)? -/
def State.benchReady (s : State) (c : CtxNo) : Bool :=
  s.active c && (s.ctx c).cmds.any (fun m => m.op == 0x39 && m.phase.isRunning && s.unitFree (m.f 128 4) && decide (bistEc m ≤ s.remaining))

/-! ### The pick (R205) -/

def prioLevel (p : BitVec 16) : Fin 8 := ⟨fld p 0 3, Nat.mod_lt _ (by decide)⟩
def prioBubble (p : BitVec 16) : Bool := bitAt p 3
def prioQuantum (p : BitVec 16) : Nat := max 1 (fld p 4 8)

/-- The contexts in round-robin order after a context. -/
def rotate (last : CtxNo) : List CtxNo := allCtx.drop (last.val + 1) ++ allCtx.take (last.val + 1)

/-- LEVEL of a context. -/
def State.level (s : State) (c : CtxNo) : Fin 8 := prioLevel (s.prio.get c)

/-- Does the context's turn among those of its LEVEL go on: has it run less than QUANTUM tiles in it? -/
def State.inTurn (s : State) (c : CtxNo) : Bool :=
  s.schedLast.get (s.level c) == c && decide (s.schedTurn.get (s.level c) < prioQuantum (s.prio.get c))

/-- R205: the pick among candidate contexts: highest LEVEL, then round robin, each for QUANTUM tiles. -/
def State.pickCtx (s : State) (cs : List CtxNo) : Option CtxNo :=
  let top := (cs.map s.level).foldl (fun a b => if a < b then b else a) 0
  let eq := cs.filter (fun c => s.level c == top)
  match eq.find? s.inTurn with
  | some c => some c
  | none => (rotate (s.schedLast.get top)).find? (fun c => eq.contains c)

/-- A picked context's turn goes on, or starts. -/
def State.takeTurn (s : State) (c : CtxNo) : State :=
  if s.inTurn c then s
  else
    let l := s.level c
    { s with schedLast := s.schedLast.set l.val c l.isLt, schedTurn := s.schedTurn.set l.val 0 l.isLt }

/-- A tile of the context has run, in its turn: one that a bubble filler ran is not counted (R205, R247). -/
def State.turnTile (s : State) (c : CtxNo) : State :=
  let l := s.level c
  if s.schedLast.get l ≠ c ∨ s.lane.slice.any (fun r => r.filler) then s
  else { s with schedTurn := s.schedTurn.set l.val (s.schedTurn.get l + 1) l.isLt }

/-- R240: how many units from `k` on fit the budget (at most `n` looked at). -/
def fitUnits (est : Nat → Nat) (budget : Nat) : Nat → Nat → Nat
  | 0, _ => 0
  | n + 1, k => if est k ≤ budget then 1 + fitUnits est (budget - est k) n (k + 1) else 0

/-- R240, R243, R247: the units from `k` on, `n` of them left, that a slice of a context takes, and whether the unit is oversized: it
could not fit a whole tick, so it runs alone, as the first slice of its context after a boundary. `pro` is the prologue (log 9). -/
def State.fitSlice (s : State) (c : CtxNo) (filler : Bool) (est : Nat → Nat) (pro n k : Nat) : Nat × Bool :=
  let adj := (s.ctx c).adj
  let cost (u : Nat) : Nat := adjusted adj (est u + if u = k then pro else 0)
  if 14000 - s.fullReserve < cost k then (if filler || (s.ctx c).slicedTick then 0 else 1, true)
  else (fitUnits cost (if filler then min s.remaining 2048 else s.remaining) n k, false)

/-- A slice is noted: it counts (R244), and a picked context's turn goes on (R205). -/
def State.noteSlice (s : State) (c : CtxNo) (filler : Bool) : State :=
  let s1 := s.modCtx c (fun x => { x with slicedTick := true, slices := satAdd x.slices 1, bubbles := if filler then satAdd x.bubbles 1 else x.bubbles })
  if filler then s1 else s1.takeTurn c

/-- R138: a position restored from an image that differs from the recomputed one is replaced, logged and reported. -/
def State.resync (s : State) (c : CtxNo) (i : Nat) (m : Cmd) (p : ProdOps) (j : ProdJob) : State :=
  let pos (r : TileRun) : Nat := p.nextPos m j (j.tileAt r.tile) r.committed
  let off := j.runs.filter (fun r => m.gate && r.nextPos != pos r)
  let wrong := off.map (fun r => (r.nextPos, pos r)) ++ (match j.restored with
    | some v => if m.gate && j.runs.isEmpty && decide (j.next < j.tiles.length) && v != p.firstPos m j j.next then [(v, p.firstPos m j j.next)] else []
    | none => [])
  wrong.foldl (fun t x => t.logErr 0x08 0 0x8 (some c) (BitVec.ofNat 64 x.1) (BitVec.ofNat 64 x.2))
    (s.setJob c i { j with runs := j.runs.map (fun r => { r with nextPos := pos r }), restored := none, rng := j.rng || !wrong.isEmpty })

/-- The tiles in progress of an imported command, once its tiling is known: a first segment has its resident slot again, and only the
first tile's NEXT_POS came with the image (log 22). -/
def ProdJob.regain (j : ProdJob) (s : State) (c : CtxNo) (m : Cmd) (p : ProdOps) (ts : List TileSpec) : ProdJob :=
  let j1 := { j with tiles := ts }
  let slot (r : TileRun) : Nat := (s.direct c m (j1.tileAt r.tile)).getD 0
  let rs := j1.runs.map (fun r => if r.phase = .segDone then { r with slot := slot r } else r)
  { j1 with
    mine := (rs.filter (fun r => r.phase == .segDone)).map (fun r => r.slot)
    runs := rs.take 1 ++ (rs.drop 1).map (fun r => { r with nextPos := p.nextPos m j1 (j1.tileAt r.tile) r.committed }) }

/-- An imported product command is tiled again, from its masks (R297). -/
def State.retile (s : State) (c : CtxNo) (i : Nat) (m : Cmd) (j : ProdJob) (p : ProdOps) : State :=
  let r := s.tileOut c m p j.jig j.split
  if !r.1 then r.2.1 else r.2.1.resync c i m p (j.regain r.2.1 c m p r.2.2)

/-- Column-wise dovetail channels for a slice: the lane bank goes before copies, but for those that have aged (R60, R254, R255). -/
def State.channels (s : State) (c : CtxNo) (seq : Word) (need : Nat) : Bool × State :=
  if need = 0 then (true, s)
  else if 4 - 2 * s.dovetail.length < need || s.behind .dovetail 0 c seq then (false, s.await .dovetail 0 c seq)
  else (true, s.unwait c seq)

/-- The first bank of a tile whose first interval is next, and the jig the lane bank now runs (R45): a change of jig starts anew. -/
def Lane.enter (l : Lane) (jig : Nat) : Lane := { l with lastJig := jig, endedInA := if jig = l.lastJig then l.endedInA else [] }

/-- The lane operands of interval `k`, read whole blocks at a time under a legacy mask (R69). -/
def LanePart.laneAcc (x : LanePart) (k : Nat) : Acc :=
  let rs := x.ops.readRows x.cmd x.tile
  if x.ops.dW then x.ops.opa.acc false false ((x.ops.opaElems x.cmd x.job x.tile k rs).map x.ops.opa.span)
  else x.ops.dy.acc false false ((x.ops.dyElems x.cmd x.job x.tile k rs).map x.ops.dy.span)

/-- The shared operands of interval `k`, but for the elements a chain gave. -/
def LanePart.sharedAcc (x : LanePart) (k : Nat) (given : List (Option Nat)) : Acc :=
  if x.ops.dW then x.ops.dy.acc false false ((x.ops.dyElems x.cmd x.job x.tile k x.tile.rows).map x.ops.dy.span)
  else
    let es := (x.ops.opaElems x.cmd x.job x.tile k x.tile.rows).zip given
    x.ops.opa.acc false false ((es.filter (fun e => e.2.isNone)).map (fun e => x.ops.opa.span e.1))

/-- The accesses of an interval of a tile: each member's lane operands, the shared operands once (R63). -/
def partAccs (ps : List LanePart) (k : Nat) (given : List (Option Nat)) : List Acc :=
  match ps with
  | [] => []
  | x :: _ => ps.map (fun y => y.laneAcc k) ++ [x.sharedAcc k given]

/-- EC that an access's remote bytes take of the remote port (R238). -/
def State.portEc (s : State) (c : CtxNo) (a : Acc) : Nat :=
  let rs := (s.plan c a).filter (fun r => !r.refused && r.len == 2048)
  ceilDiv ((rs.map (fun r => r.last + 1 - r.first)).foldl (· + ·) 0) 128

/-- The raw estimate of interval `k` of a tile (R238). -/
def State.partEst (s : State) (c : CtxNo) (ps : List LanePart) (k : Nat) : Nat :=
  let port := ((ps.map (fun y => s.portEc c (y.laneAcc k)))
    ++ (ps.take 1).map (fun x => s.portEc c (x.sharedAcc k (s.chainGiven x.cmd x.ops x.job x.run.tile k)))).foldl max 0
  (ps.map (fun x => x.ops.rawEst x.cmd x.job x.tile k port)).foldl max 0

/-- Column-wise streams of a tile (R60, R206, R213). -/
def partFills (ps : List LanePart) : Nat := groupColwise (ps.map (fun x => (x.cmd, x.ops)))

/-- What a slice takes of a tile: its units, whether the first is oversized, its channels. -/
structure FitTile where
  tile : Nat
  units : Nat
  large : Bool
  channels : Nat
  deriving DecidableEq, Repr

/-- The units of a tile that a slice takes. -/
def State.admitTile (s : State) (c : CtxNo) (filler : Bool) (lead : Word) (n : Nat) : FitTile :=
  let ps := s.partsAt c lead n
  match ps with
  | [] => ⟨n, 0, false, 0⟩
  | x :: _ =>
    let k := x.run.filled
    let left := x.ops.intervals x.cmd x.job x.tile - k
    let pro := if k = 0 ∧ ¬ x.run.early then x.ops.prologue x.cmd (partFills ps) else 0
    let q := s.fitSlice c filler (s.partEst c ps) pro left k
    ⟨n, q.1, q.2, partFills ps⟩

/-- A tile of the slice enters the lane bank: its first bank is chosen as its first interval comes (R45). -/
def State.enterTile (c : CtxNo) (lead : Word) (s : State) (n : Nat) : State :=
  (s.partsAt c lead n).foldl (fun t x =>
    if x.run.filled ≠ 0 then t
    else t.setJob c x.place (x.job.modRun n (fun r =>
      { r with firstB := x.job.jig = s.lane.lastJig && s.lane.endedInA.contains x.tile.pos }))) s

/-- R240, R243, R247: a slice of the tiles in progress of a product, or the context is not ready for the rest of the tick. An oversized
unit runs alone. -/
def State.admitProduct (s : State) (c : CtxNo) (filler : Bool) (j : ProdJob) : State :=
  let all := ((s.readyTiles c j).map (s.admitTile c filler j.lead)).filter (fun x => x.units != 0)
  let fit := match all.find? (fun x => x.large) with
    | some x => [x]
    | none => all
  if fit.isEmpty then s.modCtx c (fun x => { x with laneDone := true })
  else
    let need := (fit.map (fun x => x.channels)).foldl (· + ·) 0
    let d := s.channels c j.lead need
    if !d.1 then d.2 else
    let s1 := (fit.map (fun x => x.tile)).foldl (State.enterTile c j.lead) d.2
    let run : SliceRun := { ctx := c, parts := fit.map (fun x => ⟨j.lead, x.tile, x.units, none⟩), filler := filler
                            oversized := fit.any (fun x => x.large), channels := need }
    ({ s1 with lane := { s1.lane.enter j.jig with slice := some run } }).noteSlice c filler

/-- A slice of one REDUCE tile, the unit a REDUCE commits (R155, R240). -/
def State.admitReduce (s : State) (c : CtxNo) (filler : Bool) (m : Cmd) (row : Nat) (early : Bool) : State :=
  match s.opnd m.fmts (m.f 128 16) 0 with
  | none => s
  | some o =>
    let axis := m.f 160 3
    let a := o.acc false false ((reduceElems o axis row (min 128 (o.desc.rows axis - row))).flatten.map o.span)
    let q := s.fitSlice c filler (fun _ => reduceEst o axis (s.portEc c a)) (if early then 0 else reducePrologue o axis) 1 0
    if q.1 = 0 then s.modCtx c (fun x => { x with laneDone := true })
    else
      let need := if o.rowWise axis false then 0 else 1
      let d := s.channels c m.seq need
      if !d.1 then d.2 else
      let run : SliceRun := { ctx := c, parts := [⟨m.seq, row / 128, 1, none⟩], filler := filler, oversized := q.2, channels := need }
      ({ d.2 with lane := { d.2.lane.enter 1 with slice := some run } }).noteSlice c filler

/-- The picked context's work moves: its tiles are opened and placed, or a slice of them is admitted. -/
def State.admitSlice (s : State) (c : CtxNo) (filler : Bool) : State :=
  match s.laneCmd c with
  | none => s
  | some (i, m) =>
    match m.phase with
    | .running (.product j) =>
      if j.tiles.isEmpty then
        match s.prod m j.dW with
        | some p => s.retile c i m j p
        | none => s
      else
        let ms := s.members c j.lead
        if ms.any (s.placeable c) then ms.foldl (State.place c) s else s.admitProduct c filler j
    | .running (.reduceRows row _ _ _ early) => s.admitReduce c filler m row early
    | _ => s

/-- Can the first unit of the context's next tile start: can its operands be read now? If none of its tiles can, what the first one lacks is
asked for (R205, R247). -/
def State.firstOpen (s : State) (c : CtxNo) : Bool × State :=
  match s.laneCmd c with
  | none => (false, s)
  | some (_, m) =>
    match m.phase with
    | .running (.product j) =>
      if (s.members c j.lead).any (s.placeable c) then (true, s) else
      let qs := (s.readyTiles c j).map (fun n =>
        match s.partsAt c j.lead n with
        | [] => (true, s)
        | x :: t => s.openAll c j.lead (partAccs (x :: t) x.run.filled (s.chainGiven x.cmd x.ops x.job n x.run.filled)))
      if qs.isEmpty || qs.any (fun q => q.1) then (true, s) else (qs.headD (true, s))
    | .running (.reduceRows row _ _ _ _) =>
      match s.opnd m.fmts (m.f 128 16) 0, s.opnd m.fmts (m.f 144 16) 1 with
      | some src, some dst =>
        let q := s.openAll c m.seq (reduceAccs src dst (m.f 160 3) row (min 128 (src.desc.rows (m.f 160 3) - row)))
        if q.1 then (true, s) else q
      | _, _ => (true, s)
    | _ => (true, s)

/-- The groups and the mode of the context's next tile are asked for (R307, R311). -/
def State.prepareFor (s : State) (c : CtxNo) : State :=
  match s.laneCmd c with
  | some (_, m) => let g := s.workGroups c m; { s with pow := s.pow.prepare s.now g.1 g.2 }
  | none => s

/-- Does the context's next tile wait for a lane-group wake, and so for a ramp token, or for its chain (R247)? -/
def State.laneWaits (s : State) (c : CtxNo) : Bool :=
  match s.laneCmd c with
  | some (_, m) => let g := s.workGroups c m; !s.pow.readyFor g.1 g.2 || s.beatWait c m
  | none => true

/-- Can the context's next tile start at once? -/
def State.startsNow (s : State) (c : CtxNo) : Bool := s.laneReady c && !s.laneWaits c && (s.firstOpen c).1

/-- Contexts that are ready: with lane-bank work, or with a BIST_SLICE (R205, R320). -/
def State.readyCtxs (s : State) : List CtxNo := allCtx.filter (fun c => s.laneReady c || s.benchReady c)

/-- May slices be admitted? -/
def State.admits (s : State) : Bool :=
  !s.lane.stopped && s.up && !s.pow.retaining && !s.ckpt.effective && decide (s.bist.busyUntil ≤ s.now)

/-- The lane bank is idle: pick a context, run a bubble filler while the pick waits (R205, R247). A pick whose turn is a BIST_SLICE's waits
for that command (R320). -/
def State.slicePick (s : State) : State :=
  if !s.admits then s else
  match s.pickCtx s.readyCtxs with
  | none => s
  | some c =>
    if !s.laneReady c then s else
    let q := (s.prepareFor c).firstOpen c
    if q.1 && !q.2.laneWaits c then q.2.admitSlice c false
    else
      match q.2.pickCtx (allCtx.filter (fun d => d != c && prioBubble (q.2.prio.get d) && q.2.startsNow d)) with
      | some d => q.2.admitSlice d true
      | none => q.2

/-- A slice that has started all its units still drains: the tile that follows asks for its groups in its prologue's first EC (R311). -/
def State.prepareNext (s : State) : State :=
  if !s.admits then s else
  match s.pickCtx s.readyCtxs with
  | some c => s.prepareFor c
  | none => s

/-! ### Filling banks (R42, R44, R45, R48, R50 to R53, R63) -/

/-- A bank of a lane group; true for bank B. -/
def Lane.bank (l : Lane) (g : Fin 16) (b : Bool) : Bank := if b then l.bankB.get g else l.bankA.get g

/-- A lane group with a bank replaced. -/
def Lane.setBank (l : Lane) (g : Fin 16) (b : Bool) (x : Bank) : Lane :=
  if b then { l with bankB := l.bankB.set g.val x g.isLt } else { l with bankA := l.bankA.set g.val x g.isLt }

/-- Can an interval of `n` beats enter every lane group: its bank is empty there, or the skid buffers hold its beats (R42, R48)? -/
def Lane.room (l : Lane) (gs : List (Fin 16)) (b : Bool) (n : Nat) : Bool :=
  gs.all (fun g => !l.ahead.any (fun e => e.1 == g) && ((l.bank g b).interval.isNone || decide (n ≤ 16)))

/-- Each lane of the group that the interval has puts its beats into its skid buffer (R42). -/
def Lane.buffer (l : Lane) (g : Fin 16) (it : Interval) (beats : List SkidBeat) : Lane :=
  let mine := (upFrom (8 * g.val) 8).filter (fun n => decide (it.lane0 ≤ n ∧ n < it.lane0 + it.rows.length))
  { l with skid := mine.foldl (fun t n => Tbl.put [] t n beats) l.skid }

/-- The skid buffers of a lane group are taken from: its beats move into their bank (R42). -/
def Lane.unbuffer (l : Lane) (g : Fin 16) : Lane := { l with skid := l.skid.filter (fun e => e.1 / 8 != g.val) }

/-- A lane group takes its part of an interval: into its bank, which is then ready to drain, or, while that is full, as beats into its
skid buffers (R42, R47, R48). -/
def Lane.takePart (l : Lane) (g : Fin 16) (b : Bool) (x : Bank) (it : Interval) (beats : List SkidBeat) : Lane :=
  if (l.bank g b).interval.isNone then { l.setBank g b x with drains := l.drains ++ [(g, b)] }
  else ({ l with ahead := l.ahead ++ [(g, b, x)] }).buffer g it beats

/-- What filling an interval yields for one tile: bank contents, the interval's record, stationary blocks, what range banks record, the
stored bits of the A stream, and those of the shared operand's beats. -/
structure FillData where
  cells : Tbl (BitVec 20)
  it : Interval
  blocks : List (List (List (BitVec 16)))
  opaVals : List ((Nat → Nat) × Num)
  dyVals : List ((Nat → Nat) × Num)
  bits : List Nat
  beats : List (List Nat)

/-- The stored bits of an interval's shared operand as its beats carry them (R44, R50, R53). -/
def LanePart.beats (x : LanePart) (k : Nat) (bits : List Nat) : List (List Nat) :=
  let g := x.ops.span x.cmd x.job x.tile k
  let n := g.2 - g.1
  let w := x.ops.jbw x.cmd
  if x.ops.dW then chunks (if x.job.eight then 2 * x.tile.cols else x.tile.cols) (bits.length + 1) bits
  else (List.range (ceilDiv n w)).flatMap (fun b => (List.range x.tile.cols).map (fun i =>
    (bits.drop (i * n + b * w)).take (min w (n - b * w))))

/-- Those beats with their tags (R39). -/
def LanePart.skidBeats (x : LanePart) (c : CtxNo) (k : Nat) (useB : Bool) (beats : List (List Nat)) : List SkidBeat :=
  ((List.range beats.length).zip beats).map (fun e => ⟨c, x.cmd.seq, x.run.tile, k, e.1, useB, e.2⟩)

/-- Interval `k` of a tile computed from its operands (R44, R46, R50 to R53, R66). Range banks take dY as it is before the gate (log 62). -/
def State.fillData (s : State) (c : CtxNo) (x : LanePart) (k raw start : Nat) (given : List (Option Nat)) : FillData :=
  let p := x.ops
  let m := x.cmd
  let ae := p.opaElems m x.job x.tile k x.tile.rows
  let ye := p.dyElems m x.job x.tile k x.tile.rows
  let badL := s.refusals c (x.laneAcc k)
  let badS := s.refusals c (x.sharedAcc k given)
  let ab := s.streamBits c p.opa (if p.dW then badL else badS) ae given
  let yb := s.streamBits c p.dy (if p.dW then badS else badL) ye (ye.map (fun _ => none))
  let av := (ae.zip ab).map (fun e => p.opa.value x.job.opaTab (prescaledOp p.dW p.opa m.opaFeat) e.1 e.2)
  let yv := (ye.zip yb).map (fun e => p.dy.value x.job.dyTab (prescaledOp p.dW p.dy m.dyFeat) e.1 e.2)
  let yg := ((ye.zip yv).map (fun e => gated m p.dy e.1 e.2.1)).toArray
  let blocks := if p.dW then [] else p.holdBlocks m x.job x.tile k yg
  let r := p.bankCells m x.job x.tile k (av.map (·.1)).toArray yg ((blocks.map (fun b => (b.map List.toArray).toArray)).toArray)
  let fl := (joinFlags (av.map (·.2.1))).or ((joinFlags (yv.map (·.2.1))).or r.2)
  { cells := r.1, it := p.intervalOf m x.job c x.run k start raw fl, blocks := blocks
    opaVals := ae.zip (av.map (·.2.2)), dyVals := ye.zip (yv.map (·.2.2)), bits := ab, beats := x.beats k (if p.dW then yb else ab) }

/-- A tile's filled interval enters its lane groups; its stationary blocks have been loaded (R47, R51). -/
def Lane.fill (l : Lane) (c : CtxNo) (x : LanePart) (useB : Bool) (d : FillData) : Lane :=
  x.groups.foldl (fun t g => t.takePart g useB
      ⟨d.cells.filter (fun e => decide (g.val * 1024 ≤ e.1 ∧ e.1 < (g.val + 1) * 1024)), some d.it⟩ d.it
      (x.skidBeats c x.run.filled useB d.beats))
    (l.loadBlocks (x.job.laneOf x.tile) (8 * x.run.filled) d.blocks)

/-- A tile with one more interval filled; past its last it only drains (R191). -/
def TileRun.fillOne (r : TileRun) (n : Nat) : TileRun := { r with filled := r.filled + 1, phase := if n ≤ r.filled + 1 then .drain else .run }

/-- One member's interval is filled: its banks, counts, range banks and cursor; the shared stream is recorded for the first member only. -/
def State.fillMember (c : CtxNo) (raw start : Nat) (useB : Bool) (given : List (Option Nat)) (s : State) (x : LanePart × Bool) : State :=
  let y := x.1
  let k := y.run.filled
  let d := s.fillData c y k raw start given
  let g := y.ops.span y.cmd y.job y.tile k
  let macs := (g.2 - g.1) * y.tile.rows.length * y.tile.cols
  let s1 := { s with
    lane := s.lane.fill c y useB d
    tel := if y.job.eight then { s.tel with mac8 := satAdd s.tel.mac8 macs } else { s.tel with mac16 := satAdd s.tel.mac16 macs }
    pow := s.pow.beat s.now y.groups }
  let s2 := if x.2 || y.ops.dW then s1.recordStats y.ops.opa d.opaVals else s1
  let s3 := if x.2 || !y.ops.dW then s2.recordStats y.ops.dy d.dyVals else s2
  let s4 := s3.setJob c y.place (y.job.modRun y.run.tile (fun r => r.fillOne (y.ops.intervals y.cmd y.job y.tile)))
  if x.2 then s4.chainUse y.cmd y.ops y.job y.run.tile k d.bits else s4

/-- Requests in order while their bytes keep within 32 KiB and slots of their class are free (R154). -/
def readAhead : List ReqPlan → Nat → Nat → Nat → List ReqPlan
  | [], _, _, _ => []
  | r :: t, bytes, rd, rem =>
    let far := r.len == 2048
    if bytes < r.len ∨ (if far then rem else rd) = 0 then []
    else r :: readAhead t (bytes - r.len) (if far then rd else rd - 1) (if far then rem - 1 else rem)

/-- A request ahead waits for the walk of its page (R152, R154): at most eight walks are outstanding. -/
def addPrefetch (c : CtxNo) (l : List WalkReq) (n : FaultRec) : List WalkReq :=
  let same (w : WalkReq) : Bool := w.page == pageOf n.vaddr && w.ctx == c && !w.ring
  if l.any same then l.map (fun w => if same w && w.prefetch then { w with many := w.many + 1 } else w)
  else if 8 ≤ l.length then l
  else l ++ [⟨pageOf n.vaddr, c, false, true, n, 1⟩]

/-- One stream reads ahead (R154): the requests whose pages are translated go out in order, the others wait for their walks; those that the
region table refuses are dropped and counted. -/
def State.prefetchAcc (c : CtxNo) (seq : Word) (s : State) (a : Acc) : State :=
  if 0 < s.sentOf c seq a then s else
  let free (k : ReqClass) : Nat := classLimit k - (s.reqs.filter (Req.ofClass k)).length
  let rs := readAhead (s.plan c a) 32768 (free .rd) (free .rem)
  let ok := rs.filter (fun r => !r.refused)
  let go := ok.takeWhile (s.reaches c a)
  let q := sendReqs false s.reqs (go.map (fun r => s.reqAt c seq .demand false none r.lo))
  let ns := (accNeeds a (seq16 seq) (ok.drop go.length)).filter (fun n => !s.needOk c n)
  { (State.noteSent c seq { s with reqs := q.1 } (a, q.2.1)) with
    walks := ns.foldl (addPrefetch c) s.walks
    tel := { s.tel with prefetchDrop := satAdd s.tel.prefetchDrop (rs.filter (·.refused)).length } }

/-- What streams will read next is read ahead on free walks and slots (R154). -/
def State.prefetch (s : State) (c : CtxNo) (seq : Word) (as : List Acc) : State := as.foldl (State.prefetchAcc c seq) s

/-- The next interval of the tiles, or the first of the tile that follows in their place; of a chained command only its dY. -/
def State.nextAccs (s : State) (ps : List LanePart) (k : Nat) : List Acc :=
  match ps with
  | [] => []
  | x :: _ =>
    let same := decide (k + 1 < x.ops.intervals x.cmd x.job x.tile)
    let n := if same then x.run.tile else x.run.tile + jigTiles x.job.jig
    let qs := if n < x.job.tiles.length then ps.map (fun y => { y with run := { y.run with tile := n } }) else []
    let as := partAccs qs (if same then k + 1 else 0) (s.chainGiven x.cmd x.ops x.job n (if same then k + 1 else 0))
    if (s.chainOf x.cmd).isSome then as.take 1 else as

/-- A part of the slice has one unit less to start. -/
def Lane.startUnit (l : Lane) (lead : Word) (n : Nat) : Lane :=
  { l with slice := l.slice.map (fun r => { r with parts := r.parts.map (fun q =>
      if q.seq = lead ∧ q.tile = n then { q with left := q.left - 1, begun := none } else q) }) }

/-- The next unit of a part of the slice starts (R239). -/
def Lane.beginUnit (l : Lane) (lead : Word) (n now : Nat) : Lane :=
  { l with slice := l.slice.map (fun r => { r with parts := r.parts.map (fun q =>
      if q.seq = lead ∧ q.tile = n then { q with begun := some (q.begun.getD now) } else q) }) }

/-- Fill the banks of a tile's next interval, when every lane group has room and the data can be read. -/
def State.fillPart (s : State) (c : CtxNo) (q : SlicePart) : State :=
  let ps := s.partsAt c q.seq q.tile
  match ps with
  | [] => s
  | x :: rest =>
    let k := x.run.filled
    let useB := xor x.run.firstB (k % 2 == 1)
    let gs := ps.flatMap LanePart.groups
    if !s.lane.room gs useB (x.ops.beatCount x.cmd x.job x.tile k) then s
    else if !s.pow.readyFor gs x.job.eight then { s with pow := s.pow.prepare s.now gs x.job.eight }
    else
      let s0 := s.chainTake x.cmd x.ops x.job q.tile k
      if !s0.beatsReady x.cmd x.ops x.job q.tile k then s0
      else
        let given := s0.chainGiven x.cmd x.ops x.job q.tile k
        let as := partAccs ps k given
        let o := ({ s0 with lane := s0.lane.beginUnit q.seq q.tile s0.now }).openAll c q.seq as
        if !o.1 then o.2
        else
          let raw := o.2.partEst c ps k
          let s1 := ((x, true) :: rest.map (fun y => (y, false))).foldl (State.fillMember c raw (q.begun.getD s0.now) useB given) o.2
          let s2 := ({ s1 with lane := s1.lane.startUnit q.seq q.tile }).closeUnit c q.seq as
          s2.prefetch c q.seq (s2.nextAccs ps k)

/-! ### Overruns and the end of a slice (R239, R241, R242) -/

/-- Intervals that banks and skid buffers hold. -/
def Lane.intervals (l : Lane) : List Interval :=
  l.bankA.toList.filterMap (·.interval) ++ l.bankB.toList.filterMap (·.interval) ++ l.ahead.filterMap (fun e => e.2.2.interval)

/-- When a command's own started unit began: a window of a GATHER_ACC, a preload row, a write-back row. -/
def Cmd.starts (m : Cmd) : List Nat :=
  match m.phase with
  | .running (.gather g) => g.flying.map (fun w => w.start)
  | .running (.product j) => j.runs.filterMap (fun r => r.begun)
  | .running (.load _ _ b) => b.toList
  | _ => []

/-- When the started and uncommitted units of a context began, an oversized one aside (R242, R243). -/
def State.unitStarts (s : State) (c : CtxNo) : List Nat :=
  (s.lane.intervals.filter (fun it => it.ctx == c)).map (fun it => it.start)
    ++ (match s.lane.slice with
        | some r => if r.ctx = c ∧ ¬ r.oversized then r.parts.filterMap (fun q => q.begun) else []
        | none => [])
    ++ (match (s.ctx c).stream with
        | some r => r.begun.toList
        | none => [])
    ++ (s.ctx c).cmds.flatMap Cmd.starts

/-- Boundaries that no started unit of the context crosses any more: the EC since each are counted (R242). -/
def State.endOverrun (s : State) (c : CtxNo) : State :=
  let starts := s.unitStarts c
  s.modCtx c (fun x =>
    let done := x.overrunFrom.filter (fun b => !starts.any (fun t => decide (t < b)))
    { x with
      overrunFrom := x.overrunFrom.filter (fun b => starts.any (fun t => decide (t < b)))
      overrunEc := satAdd x.overrunEc ((done.map (fun b => s.now - b)).foldl (· + ·) 0)
      maxOverrun := BitVec.ofNat 16 (max x.maxOverrun.toNat (min 0xFFFF ((done.map (fun b => s.now - b)).foldl max 0))) })

/-- A unit of the context commits: its EC join the tick's sums (R239). -/
def Context.unitCommit (x : Context) (now start raw : Nat) : Context :=
  { x with sumActual := x.sumActual + (now - start), sumRaw := x.sumRaw + raw, unitsDone := x.unitsDone + 1 }

/-- The slice ends; a planned cut when a tile has units left (R241). -/
def State.endSlice (s : State) (c : CtxNo) (cut : Bool) : State :=
  ({ s with lane := { s.lane with slice := none } }).modCtx c (fun x => if cut then { x with cuts := satAdd x.cuts 1 } else x)

/-- Has a part of the slice started all its units, and are they committed? -/
def State.partOver (s : State) (c : CtxNo) (q : SlicePart) : Bool :=
  decide (q.left = 0) && (s.partsAt c q.seq q.tile).all (fun x => x.run.filled == x.run.committed)

/-- Is a tile of the slice in the middle of its intervals? -/
def State.partCut (s : State) (c : CtxNo) (q : SlicePart) : Bool := (s.partsAt c q.seq q.tile).any (fun x => x.run.phase == .run)

/-- The slice ends if all its parts are over (R241). -/
def State.trySliceEnd (s : State) : State :=
  match s.lane.slice with
  | none => s
  | some r => if r.parts.all (s.partOver r.ctx) then s.endSlice r.ctx (r.parts.any (s.partCut r.ctx)) else s

/-- The command at a sequence number that is running. -/
def State.runningCmd (s : State) (c : CtxNo) (seq : Word) : Option (Nat × Cmd) :=
  findAt (fun m => m.seq == seq && m.phase.isRunning) (s.ctx c).cmds 0

/-- A REDUCE tile in the slice: its unit begins, then runs whole and commits. -/
def State.sliceReduce (s : State) (c : CtxNo) (q : SlicePart) (i : Nat) (m : Cmd) (row : Nat) (acc : Word) (tab dtab : Option BoundTable) : State :=
  match q.begun with
  | none =>
    let g := s.workGroups c m
    if !s.pow.readyFor g.1 g.2 then { s with pow := s.pow.prepare s.now g.1 g.2 } else
    { s with
      lane := { s.lane with slice := s.lane.slice.map (fun r => { r with parts := r.parts.map (fun x => { x with begun := some s.now }) }) }
      pow := s.pow.beat s.now g.1 }
  | some t =>
    match s.opnd m.fmts (m.f 128 16) 0, s.opnd m.fmts (m.f 144 16) 1 with
    | some src, some dst =>
      let axis := m.f 160 3
      let a := src.acc false false ((reduceElems src axis row (min 128 (src.desc.rows axis - row))).flatten.map src.span)
      let raw := reduceEst src axis (s.portEc c a)
      let r := s.reduceTile c i m row acc tab dtab src dst
      if r.1 then (((r.2.turnTile c).endSlice c false).modCtx c (fun x => x.unitCommit s.now t raw)).endOverrun c else r.2
    | _, _ => s

/-- One part of a slice in progress moves: its next unit may start, or the one it has started goes on. -/
def State.slicePart (c : CtxNo) (s : State) (q : SlicePart) : State :=
  if q.left = 0 || (q.begun.isNone && !s.active c) then s else
  match s.runningCmd c q.seq with
  | some (i, m) =>
    match m.phase with
    | .running (.reduceRows row acc tab dtab _) => s.sliceReduce c q i m row acc tab dtab
    | _ => s.fillPart c q
  | none => s.fillPart c q

/-- A slice in progress goes on: each tile takes its next interval where it can, a REDUCE tile runs whole. -/
def State.sliceRun (s : State) (r : SliceRun) : State :=
  if !s.up then s
  else if r.parts.all (fun q => s.partOver r.ctx q || ((s.partsAt r.ctx q.seq q.tile).isEmpty && (s.runningCmd r.ctx q.seq).isNone)) then
    s.endSlice r.ctx (r.parts.any (s.partCut r.ctx))
  else if r.parts.all (fun q => q.left == 0) then s.prepareNext
  else if !s.alert r.ctx then s
  else r.parts.foldl (State.slicePart r.ctx) s

/-- A loaded priority table takes effect at the next tile boundary (R205). -/
def State.takePrio (s : State) : State :=
  match s.prioNext with
  | some p => { s with prio := p, prioNext := none }
  | none => s

/-- SLICE (R237 to R241, R246, R247). -/
def execSlice (s : State) : Out :=
  .next (match s.lane.slice with
    | some r => s.sliceRun r
    | none => s.takePrio.slicePick)

/-! ### Draining (R47, R77, R91, R126) -/

/-- A slot element as a reader takes it: an uncorrectable one is NaN (R322). -/
def Slot.elem (x : Slot) (i : Nat) : W64 := if x.bad.contains i then W64.mk 0x7FC00000 0 else Tbl.get 0 x.elems i

/-- Is a slot element uncorrectable? -/
def Slot.elemBad (x : Slot) (i : Nat) : Bool := x.bad.contains i

/-- An element stored after a read of it; an uncorrectable word stays so (R322). -/
def Slot.putElem (x : Slot) (i : Nat) (v : W64) : Slot := { x with elems := Tbl.put 0 x.elems i v }

/-- R126: an interval sum multiplied exactly by g and rounded once to FP32: the one further rounding that the bounds of R127 allow for. -/
def scaleSum (it : Interval) (lane cell : Nat) (x : Num) : Num × Flag :=
  if it.scaled then
    let g := ((ofF32 (it.rowScale.getD lane 0x3F800000)).mul (ofF32 (it.colScale.getD cell 0x3F800000))).mul (ofF32 it.keepScale)
    fmtFP32.round (x.mul g)
  else (x, .clear)

/-- One value promoted into its slot element. -/
def Slot.promote (x : Slot) (it : Interval) (lane cell : Nat) (v : BitVec 20) : Slot :=
  let e := it.rows.getD lane 0 * 128 + cell
  let sc := scaleSum it lane cell (fmtA20.decode v.toNat)
  let r := clampAdd (x.elem e) (toF32 sc.1).1
  let y := x.putElem e r.1
  { y with acc := accSet y.acc (sc.2.or (r.2.or ⟨false, x.elemBad e⟩)).bits }

/-- Drain lane group g of a full bank: eight lanes (R47). -/
def Slot.drain (x : Slot) (it : Interval) (cells : Tbl (BitVec 20)) (g : Nat) : Slot :=
  (upFrom (8 * g) 8).foldl (fun y lane =>
    if it.lane0 ≤ lane ∧ lane < it.lane0 + it.rows.length then
      (List.range it.cols).foldl (fun z cell => z.promote it (lane - it.lane0) cell (Tbl.get 0 cells (lane * 128 + cell))) y
    else y) x

/-- The Clamp adders are taken for `quarters` of an EC more: preloads, merges and write-backs go before drains (R104). -/
def State.useAdders (s : State) (quarters : Nat) : State :=
  { s with lane := { s.lane with adders := max s.lane.adders (4 * s.now) + quarters } }

/-- The job's tile is done with: it leaves, and with the last one the command ends (R107), once a chained one has sent its beats. -/
def State.leaveTile (s : State) (c : CtxNo) (i : Nat) (m : Cmd) (j : ProdJob) (n : Nat) : State :=
  let j1 := { j with runs := j.runs.filter (fun r => r.tile != n), wbFrom := 0 }
  if j1.runs.isEmpty && decide (j1.tiles.length ≤ j1.next) && s.chainDrained m then s.productEnd c i m j1 0x00
  else s.setJob c i j1

/-- Will the command add to the slot again: through a tile not begun, or one in progress besides tile `n` (R98)? -/
def State.addsLater (s : State) (c : CtxNo) (m : Cmd) (j : ProdJob) (n k : Nat) : Bool :=
  (j.tiles.drop j.next).any (fun t => s.residentFor c m t == some k)
    || j.runs.any (fun r => r.tile != n && r.phase != .writeBack && s.residentFor c m (j.tileAt r.tile) == some k)

/-- The tile's last addition into a resident slot is complete (R98, R108, R216). The `tiles` segments of a split block count as tiles that
reached the slot, and one record stands for them (log 63). -/
def State.residentDone (s : State) (c : CtxNo) (i : Nat) (m : Cmd) (j : ProdJob) (n k tiles : Nat) : State :=
  let w := (s.slot k).acc
  let more := s.addsLater c m j n k
  let s1 := if more then s else s.holdSlots [k]
  let j1 := { j.modRun n (fun r => { r with slot := k, phase := .writeBack, recWord := w }) with
              acc := accJoin j.acc w, residentTiles := j.residentTiles + tiles, mine := if more then j.mine else j.mine.filter (· != k) }
  if m.bit 15 then s1.setJob c i j1 else s1.leaveTile c i m j1 n

/-- A tile's intervals are all added: the tile is in its slot, which goes to the resident value, to a merge, or to memory. -/
def State.tileIn (s : State) (c : CtxNo) (i : Nat) (m : Cmd) (j : ProdJob) (n slot : Nat) (res : Bool) (tiles : Nat) : State :=
  if res then
    if m.bit 12 then s.setJob c i (j.modRun n (fun r => { r with phase := .mergeAdd }))
    else s.residentDone c i m j n slot tiles
  else (s.modSlot slot (fun x => { x with state := .writeback })).setJob c i
    (j.modRun n (fun r => { r with phase := .writeBack, row := if (j.runs.map (fun q => q.tile)).headD n = n then j.wbFrom else 0 }))

/-- The bank a finished product tile's last interval took is noted (R45); REDUCE tiles and tiles that are cut note none (log 75). -/
def Lane.noteEnd (l : Lane) (pos : Nat) (endA : Bool) : Lane :=
  { l with endedInA := if endA then (if l.endedInA.contains pos then l.endedInA else pos :: l.endedInA) else l.endedInA.filter (· != pos) }

/-- The tile's last interval is committed: the segments of a block wait for each other, to be merged into the first (R82). -/
def State.tileDone (s : State) (c : CtxNo) (i : Nat) (m : Cmd) (j : ProdJob) (r : TileRun) : State :=
  let s0 := if j.lead = m.seq then s.turnTile c else s
  let s1 := { s0 with lane := s0.lane.noteEnd (j.tileAt r.tile).pos (xor r.firstB (r.filled % 2 == 1)) }
  let j1 := { j with computed := j.computed + 1 }
  if 1 < j.tiles.length ∧ 1 < j.split then
    let j2 := j1.modRun r.tile (fun q => { q with phase := .segDone })
    if j2.tiles.length ≤ j2.next ∧ j2.runs.all (fun q => q.phase == .segDone) then
      s1.setJob c i (j2.modRun 0 (fun q => { q with phase := .segMerge }))
    else s1.setJob c i j2
  else s1.tileIn c i m j1 r.tile r.slot r.resident 1

/-- An interval has left every bank: it is committed (R91, R155), its unit is counted, and its slice may end. -/
def State.commitInterval (s : State) (it : Interval) : State :=
  let s1 := s.modSlot it.slot (fun x => { x with acc := accDrain x.acc (if it.prescaled then 8 else 0) })
  let s2 := (s1.modCtx it.ctx (fun x => x.unitCommit s.now it.start it.raw)).endOverrun it.ctx
  match s2.runningCmd it.ctx it.seq with
  | none => s2
  | some (i, m) =>
    match m.phase with
    | .running (.product j) =>
      match s2.prod m j.dW, j.runs.find? (fun r => r.tile == it.tile) with
      | some p, some r =>
        let t := j.tileAt r.tile
        let r1 := { r with committed := r.committed + 1, nextPos := p.nextPos m j t (r.committed + 1) }
        let j1 := j.modRun r.tile (fun _ => r1)
        (if p.intervals m j t ≤ r1.committed then s2.tileDone it.ctx i m j1 r1 else s2.setJob it.ctx i j1).trySliceEnd
      | _, _ => s2
    | _ => s2

/-- A bank of a lane group empties: beats its skid buffers hold for that bank move in, and wait to drain in their turn (R42, R48). -/
def Lane.emptyBank (l : Lane) (g : Fin 16) (b : Bool) : Lane :=
  let l1 := l.setBank g b .empty
  match findAt (fun e => e.1 == g && e.2.1 == b) l.ahead 0 with
  | some (n, e) => { l1.setBank g b e.2.2 with ahead := dropAt l.ahead n, drains := l1.drains ++ [(g, b)] }.unbuffer g
  | none => l1

/-- Has every lane group drained the interval? -/
def Lane.drained (l : Lane) (it : Interval) : Bool :=
  !l.intervals.any (fun x => x.ctx == it.ctx && x.seq == it.seq && x.tile == it.tile && x.number == it.number)

/-- Is the interval the first into a transient slot that starts from (+0, +0)? Its drain writes each word whole (R322). -/
def State.intoEmpty (s : State) (it : Interval) : Bool :=
  it.number == 0 && !(s.slot it.slot).resident && (match s.runningCmd it.ctx it.seq with
    | some (_, m) =>
      (match m.phase with
       | .running (.product j) => m.preSrc == 0 || (j.tileAt it.tile).seg != 0
       | _ => false)
    | none => false)

/-- Does lane group `g` hold the slot element of an interval? -/
def Interval.holds (it : Interval) (g : Nat) (e : Nat) : Bool :=
  decide (e % 128 < it.cols) && (upFrom (8 * g) 8).any (fun lane =>
    decide (it.lane0 ≤ lane ∧ lane < it.lane0 + it.rows.length) && it.rows.getD (lane - it.lane0) 0 == e / 128)

/-- Uncorrectable words that a drain into an empty slot replaces whole are so no more (R322). -/
def Slot.rewrite (x : Slot) (it : Interval) (g : Nat) : Slot := { x with bad := x.bad.filter (fun e => !it.holds g e) }

/-- Drain lane group `g` when its bank is the next in order and the Clamp adders are free (R47, R48). -/
def State.drainGroup (s : State) (g : Fin 16) : State :=
  match s.lane.drains with
  | [] => s
  | (h, b) :: rest =>
    if h ≠ g ∨ 4 * s.now < s.lane.adders then s else
    let bank := s.lane.bank g b
    match bank.interval with
    | none => { s with lane := { s.lane with drains := rest } }
    | some it =>
      let s1 := s.modSlot it.slot (fun x =>
        let y := (if s.intoEmpty it then x.rewrite it g.val else x).drain it bank.cells g.val
        { y with acc := accSet y.acc (⟨it.sat, it.nf⟩ : Flag).bits })
      let s2 := { s1 with lane := ({ s1.lane with drains := rest }).emptyBank g b }
      if s2.lane.drained it then s2.commitInterval it else s2

/-- DRAIN (R47). -/
def execDrain (g : Fin 16) (s : State) : Out := .next (if s.up then s.drainGroup g else s)

end Sys2Proof.Machine
end

