-- ==== Sys2Proof/Machine/Clamp.lean ====
section
/-! DEFINITION. The Clamp (04, 05, 11): ACCLOAD, ACCSTORE, ZERO, preloads, merges, write-backs, tile records, header updates. -/

namespace Sys2Proof.Machine

/-! ### Rows of a unit sequence -/

/-- Rows run one after another until one is blocked or none is left (at most `n`). -/
def runRows (f : State → Bool × State) : Nat → State → State
  | 0, s => s
  | n + 1, s =>
    let r := f s
    if r.1 then runRows f n r.2 else r.2

/-! ### Slices beside the lane bank (R237 to R241) -/

/-- May the next unit of a command that does not use the lane bank run: a slice of it is in progress, or one is admitted? `est` estimates
the `n` units it has left. Otherwise the context has none ready for the rest of the tick (R240). -/
def State.streamGo (s : State) (c : CtxNo) (seq : Word) (est : Nat → Nat) (n : Nat) : Bool × State :=
  let x := s.ctx c
  match x.stream with
  | some r => (r.seq == seq && decide (0 < r.left) && (s.active c || r.begun.isSome), s)
  | none =>
    if x.streamDone || !s.active c then (false, s) else
    match fitUnits (fun u => adjusted x.adj (est u)) s.remaining n 0 with
    | 0 => (false, s.modCtx c (fun y => { y with streamDone := true }))
    | k + 1 => (true, s.modCtx c (fun y => { y with stream := some ⟨seq, k + 1, none⟩, slices := satAdd y.slices 1 }))

/-- A unit of the slice starts (R239). -/
def State.streamStart (s : State) (c : CtxNo) : State :=
  s.modCtx c (fun y => { y with stream := y.stream.map (fun r => { r with begun := some (r.begun.getD s.now) }) })

/-- The slice goes on to its next unit; after its last one it ends, as a planned cut when the command has `more` units (R241). -/
def State.streamNext (s : State) (c : CtxNo) (more : Bool) : State :=
  s.modCtx c (fun y =>
    match y.stream with
    | none => y
    | some r =>
      if r.left ≤ 1 ∨ ¬ more then { y with stream := none, cuts := if more then satAdd y.cuts 1 else y.cuts }
      else { y with stream := some { r with left := r.left - 1, begun := none } })

/-- When the unit in progress of the slice started. -/
def State.streamBegun (s : State) (c : CtxNo) : Nat := ((s.ctx c).stream.bind (fun r => r.begun)).getD s.now

/-- A unit of the slice commits: its EC join the tick's sums, and overruns end (R239, R242). -/
def State.streamCommit (s : State) (c : CtxNo) (raw : Nat) (more : Bool) : State :=
  (((s.modCtx c (fun y => y.unitCommit s.now (s.streamBegun c) raw))).streamNext c more).endOverrun c

/-- Is a slice of the command in progress? -/
def State.streaming (s : State) (c : CtxNo) : Bool := (s.ctx c).stream.isSome

/-! ### Tensor headers (R106) -/

/-- An access to an operand's tensor header. -/
def Opnd.hdrAcc (o : Opnd) (write rfw : Bool) : Acc :=
  { region := o.desc.hdrRegion, lo := o.desc.hdrAddr, hi := o.desc.hdrAddr + 15, write := write, rfw := rfw, desc := o.idx,
    stream := o.stream, header := true, spans := [(o.desc.hdrAddr, 16)] }

/-- The header's 128 bits. -/
def State.readHdr (s : State) (c : CtxNo) (o : Opnd) : Nat := s.readLe c (s.refusals c (o.hdrAcc false false)) o.desc.hdrAddr 16

/-! ### Preload (R79, R80) -/

/-- R79: a source element as it is loaded. -/
def loadElem (o : Opnd) (bits : Nat) : W64 × Flag :=
  if o.desc.format = 7 then loadPair (BitVec.ofNat 64 bits) else clampAdd 0#64 (toF32 (decodeElem o.fmt bits)).1

/-- The first row of a preload: the slot is emptied, and its word set from the source's header or cleared (R91, R94). -/
def Slot.preStart (x : Slot) (src : Option Opnd) (hdr : Nat) : Slot :=
  { x with
    elems := [], bad := []
    acc := match src with
      | none => 0
      | some o => if o.desc.hdrEn then accFromHeader hdr false else accFromBias false }

/-- One element loaded into place `e`, with the flags of its additions (R78, R93). -/
def Slot.loadAt (x : Slot) (e : Nat) (r : W64 × Flag) : Slot :=
  { x with elems := Tbl.put 0 x.elems e r.1, acc := accSet x.acc r.2.bits }

/-- One slot row loaded, a unit that started before (R155): destination row `drow`, slot row `srow`, columns from `col0`; with the header when it is the
first row. False when it must wait. It takes the Clamp adders for a quarter of an EC (R80). -/
def State.preRow (s : State) (c : CtxNo) (seq : Word) (o : Opnd) (layout feat slot : Nat) (first : Bool) (drow srow col0 cols : Nat) :
    Bool × State :=
  let co (k : Nat) := preCoord o layout feat drow (col0 + k)
  let a := o.acc false false ((List.range cols).map (fun k => o.span (co k)))
  let as := a :: (if first && o.desc.hdrEn then [o.hdrAcc false false] else [])
  let r := s.openAll c seq as
  if !r.1 then r else
  let s1 := r.2
  let bad := s1.refusals c a
  let s2 := if first then s1.modSlot slot (fun x => x.preStart (some o) (s1.readHdr c o)) else s1
  let s3 := s2.modSlot slot (fun x =>
    (List.range cols).foldl (fun y k => y.loadAt (srow * 128 + k) (loadElem o (s1.elemBits c bad o (co k)))) x)
  (true, (s3.closeUnit c seq as).useAdders 1)

/-- Tile `n` of the product at a place. -/
def State.runAt (s : State) (c : CtxNo) (i n : Nat) : Option LanePart :=
  match s.cmdAt c i with
  | none => none
  | some m =>
    match m.phase with
    | .running (.product j) => s.partOf j.lead n (i, m)
    | _ => none

/-- The first tile in a phase, in ring and tiling order. -/
def State.firstRun (s : State) (c : CtxNo) (ph : TilePhase) : Option LanePart :=
  ((s.ctx c).placed.flatMap (fun x => match x.2.phase with
    | .running (.product j) => (j.runs.filter (fun r => r.phase == ph)).map (fun r => (x.1, r.tile))
    | _ => [])).head?.bind (fun y => s.runAt c y.1 y.2)

/-- R238: what row `k` of the `n` rows of a preload has of its slot's 32 EC, or what its bytes take of the remote port (log 9). -/
def State.preEst (s : State) (c : CtxNo) (o : Opnd) (layout feat n k drow col0 cols : Nat) : Nat :=
  max (32 * (k + 1) / n - 32 * k / n)
    (s.portEc c (o.acc false false ((List.range cols).map (fun j => o.span (preCoord o layout feat drow (col0 + j))))))

/-- A row of a preload or of a tile's write-back commits: its EC join the tick's sums, and overruns end (R239, R242). -/
def State.rowCommit (s : State) (c : CtxNo) (start raw : Nat) : State := (s.modCtx c (fun x => x.unitCommit s.now start raw)).endOverrun c

/-- A product tile's next preload row. -/
def State.preTileRow (c : CtxNo) (i n : Nat) (s : State) : Bool × State :=
  match s.runAt c i n with
  | none => (false, s)
  | some x =>
    match x.ops.pre with
    | none => (false, s)
    | some o =>
      if x.run.phase ≠ .preload then (false, s)
      else if x.tile.rows.length ≤ x.run.row then
        (false, (s.modSlot x.run.slot (fun y => { y with state := .active })).setJob c i
          (x.job.modRun n (fun r => { r with phase := .run, row := 0 })))
      else if x.run.begun.isNone && !s.active c then (false, s)
      else
        let t := x.run.begun.getD s.now
        let layout := if x.cmd.preSrc = 1 then 0 else x.cmd.preLayout
        let drow := x.tile.rows.getD x.run.row 0
        let raw := s.preEst c o layout x.cmd.dstFeat x.tile.rows.length x.run.row drow x.tile.col0 x.tile.cols
        let r := (s.setJob c i (x.job.modRun n (fun q => { q with begun := some t }))).preRow c x.cmd.seq o layout x.cmd.dstFeat x.run.slot
          (x.run.row == 0) drow (x.tile.slotRows.getD x.run.row 0) x.tile.col0 x.tile.cols
        (r.1, if r.1 then (r.2.setJob c i (x.job.modRun n (fun q => { q with row := q.row + 1, begun := none }))).rowCommit c t raw else r.2)

/-- The block a slot's tag names: first row, number of rows, first column, number of columns inside the view. -/
def Slot.block (x : Slot) (o : Opnd) : Nat × Nat × Nat × Nat :=
  (x.tileRow * 128, min 128 (o.desc.rows x.feat - x.tileRow * 128), x.tileCol * 128, min 128 (o.desc.cols x.feat - x.tileCol * 128))

/-- The preload source of a started ACCLOAD; none for zero. -/
def State.loadSrc (s : State) (m : Cmd) (x : Slot) : Option Opnd :=
  match m.f 179 2 with
  | 1 => s.opnd m.fmts x.desc 0
  | 2 => s.opnd m.fmts (m.f 160 16) 1
  | _ => none

/-- A preload of an ACCLOAD ends: the slot is HELD, the reply carries its word and handle (R222). -/
def State.loadEnd (s : State) (c : CtxNo) (i : Nat) (m : Cmd) (slot : Nat) : State :=
  let x := { s.slot slot with state := .held }
  (s.setSlot slot x).finish c i
    { Reply.ok with acc := x.acc, result0 := if m.bit 12 then w32 (x.handle slot) else 0 }

/-- An ACCLOAD's next preload row. -/
def State.preLoadRow (c : CtxNo) (i : Nat) (s : State) : Bool × State :=
  match s.cmdAt c i with
  | none => (false, s)
  | some m =>
    match m.phase with
    | .running (.load slot row begun) =>
      let x := s.slot slot
      match s.loadSrc m x, s.opnd m.fmts x.desc 0 with
      | some o, some d =>
        let b := x.block d
        if b.2.1 ≤ row then (false, s.loadEnd c i m slot)
        else if begun.isNone && !s.active c then (false, s)
        else
          let t := begun.getD s.now
          let layout := if m.f 179 2 = 1 then 0 else m.f 181 2
          let raw := s.preEst c o layout x.feat b.2.1 row (b.1 + row) b.2.2.1 b.2.2.2
          let r := (s.setPhase c i (.running (.load slot row (some t)))).preRow c m.seq o layout x.feat slot (row == 0) (b.1 + row) row
            b.2.2.1 b.2.2.2
          (r.1, if r.1 then (r.2.setPhase c i (.running (.load slot (row + 1) none))).rowCommit c t raw else r.2)
      | _, _ => (false, (s.modSlot slot (fun y => y.preStart none 0)).loadEnd c i m slot)
    | _ => (false, s)

/-- An ACCLOAD with its preload in progress. -/
def Cmd.loading (m : Cmd) : Bool :=
  match m.phase with
  | .running (.load _ _ _) => true
  | _ => false

/-- The rows of the first preload in progress: of an ACCLOAD, or of a product's tile. -/
def State.preloadRows (s : State) (c : CtxNo) : State :=
  if !s.alert c then s else
  match findAt Cmd.loading (s.ctx c).cmds 0, s.firstRun c .preload with
  | some (i, _), none => runRows (State.preLoadRow c i) 129 s
  | none, some x => runRows (State.preTileRow c x.place x.run.tile) 129 s
  | some (i, _), some x => if i < x.place then runRows (State.preLoadRow c i) 129 s else runRows (State.preTileRow c x.place x.run.tile) 129 s
  | none, none => s

/-- PRELOAD (R79, R80). -/
def execPreload (c : CtxNo) (s : State) : Out := .next (s.preloadRows c)

/-! ### ACCLOAD (R222) -/

/-- R210: the handles of an ACCLOAD. -/
def State.accloadHandlesOk (s : State) (c : CtxNo) (m : Cmd) : Bool :=
  (if m.bit 12 then (s.handle c (m.f 144 16)).isSome else (s.slotHandle c (m.f 128 16)).isSome)
    && (m.f 179 2 != 2 || (s.handle c (m.f 160 16)).isSome)

/-- The checks of R222, with the descriptor and column dimension the slot stands for. -/
def State.accloadBad (s : State) (c : CtxNo) (m : Cmd) (d : Opnd) (feat trow tcol : Nat) : Option Reply :=
  let res := m.bit 12
  let src := if m.f 179 2 = 1 then some d else if m.f 179 2 = 2 then s.opnd m.fmts (m.f 160 16) 1 else none
  let rows := d.desc.rows feat
  let cols := d.desc.cols feat
  firstBad [
    (m.f 179 2 != 3, .bad 179), (!(m.f 179 2 == 2 && m.f 181 2 == 3), .bad 181),
    (!res || d.output, .bad 144), (m.f 179 2 != 1 || d.desc.canRead, .bad 179),
    (!res || decide (feat < d.desc.ndim), .bad 176),
    (!res || decide (trow * 128 < rows), .bad 192), (!res || decide (tcol * 128 < cols), .bad 224),
    (optOk src (fun o => (m.f 179 2 == 1 || o.desc.canRead) && preFits o (if m.f 179 2 = 1 then 0 else m.f 181 2) feat rows cols),
      .bad (if m.f 179 2 = 1 then 179 else 160)),
    (!res || !(s.matched c d.idx feat).any (fun k => (s.slot k).tileRow == trow && (s.slot k).tileCol == tcol), .of stTagConflict),
    (!res || decide (s.residentCount < 40), .of stNoSlot)]

/-- ACCLOAD starts: its slot is allocated or taken, and its preload begins. -/
def State.startAccload (s : State) (c : CtxNo) : State :=
  match s.starting c 0x04 with
  | none => s
  | some (i, m) =>
    if !s.noConflict c i m then s
    else if !s.accloadHandlesOk c m then s.finish c i (.of stHandle)
    else
      let res := m.bit 12
      let k := m.f 128 6
      let x := s.slot k
      let feat := if res then m.f 176 3 else x.feat
      match m.reservedBad, s.opnd m.fmts (if res then m.f 144 16 else x.desc) 0 with
      | some r, _ => s.finish c i r
      | none, none => s.finish c i (.of stHandle)
      | none, some d =>
        match s.accloadBad c m d feat (m.f 192 32) (m.f 224 32) with
        | some r => s.finish c i r
        | none =>
          if res then
            match s.freeSlot with
            | none => s
            | some f =>
              (s.modSlot f (fun y => { y.take .preload c d.idx feat (m.f 192 32) (m.f 224 32) with resident := true })).setPhase c i
                (.running (.load f 0 none))
          else if x.state ≠ .held || s.slotShut k then s
          else if s.mustCapture c (slotUnit k) then s.askCapture c (slotUnit k) m.seq
          else (s.modSlot k (fun y => { y with state := .preload })).setPhase c i (.running (.load k 0 none))

/-- ACCLOAD (R222). -/
def execAccload (c : CtxNo) (s : State) : Out := .next (s.startAccload c)

/-! ### Write-back rows (R83, R101, R102, R111) -/

/-- What a write-back writes: destination rows with their slot rows, columns, mode, freeze mask. -/
structure WbPlan where
  dst : Opnd
  tab : Option BoundTable
  add : Bool
  feat : Nat
  slot : Nat
  rows : List Nat
  slotRows : List Nat
  col0 : Nat
  cols : Nat
  frz : Option Opnd
  axisCols : Bool
  seq : Word
  mask : Option (List Byte)
  deriving DecidableEq, Repr

/-- First byte and number of bytes of the freeze mask that cover the tile (R111). -/
def WbPlan.maskRange (w : WbPlan) (size : Nat) : Nat × Nat :=
  let first := if w.axisCols then w.col0 else w.rows.headD 0
  let last := if w.axisCols then w.col0 + w.cols - 1 else w.rows.foldl max 0
  let lo := first / 128 * 16
  (lo, min (last / 128 * 16 + 16) size - lo)

/-- The mask's access. -/
def WbPlan.maskAccs (w : WbPlan) : List Acc :=
  match w.frz with
  | some o => let g := w.maskRange (o.desc.size 0); [o.acc false false (o.byteSpans g.1 g.2)]
  | none => []

/-- The mask's bytes. -/
def State.freezeBytes (s : State) (c : CtxNo) (w : WbPlan) : List Byte :=
  match w.frz with
  | some o => let g := w.maskRange (o.desc.size 0); s.areaBytes c ((w.maskAccs).flatMap (s.refusals c)) o g.1 g.2
  | none => []

/-- The freeze mask is read once, just before the write-back of its tile (R111). -/
def State.readMask (s : State) (c : CtxNo) (w : WbPlan) : Bool × State × List Byte :=
  match w.mask with
  | some b => (true, s, b)
  | none =>
    let o := s.openAll c w.seq w.maskAccs
    if !o.1 then (false, o.2, []) else (true, o.2.closeUnit c w.seq w.maskAccs, o.2.freezeBytes c w)

/-- Is index `x` along the freeze axis frozen? -/
def WbPlan.frozen (w : WbPlan) (bytes : List Byte) : Nat → Bool :=
  match w.frz with
  | some o => let g := w.maskRange (o.desc.size 0); fun x => maskBit bytes (x - g.1 * 8)
  | none => fun _ => false

/-- Columns of a row that are written: offsets within the tile. -/
def WbPlan.live (w : WbPlan) (fz : Nat → Bool) (row : Nat) : List Nat :=
  if w.axisCols then (List.range w.cols).filter (fun k => !fz (w.col0 + k))
  else if fz row then [] else List.range w.cols

/-- Rows or columns along the freeze axis that the mask names (FROZEN of R108). -/
def WbPlan.frozenCount (w : WbPlan) (fz : Nat → Bool) : Nat :=
  if w.axisCols then ((upFrom w.col0 w.cols).filter fz).length else (w.rows.filter fz).length

/-- R83: the bits an ADD write-back stores over `g`. -/
def addElem (wide : Bool) (g : Nat) (e : W64) : Nat × Flag :=
  let g0 : W64 × Flag := if wide then loadPair (BitVec.ofNat 64 g) else (W64.mk (BitVec.ofNat 32 g) 0, .clear)
  let r1 := clampAdd g0.1 e.sum
  let r2 := clampAdd r1.1 e.comp
  let f := g0.2.or (r1.2.or r2.2)
  if wide then (r2.1.toNat, f)
  else
    let o := toF32 r2.1.value
    (o.1.toNat, f.or o.2)

/-- R83, R29, R31: the bits a REPLACE write-back stores, with how a code clipped. -/
def replaceElem (o : Opnd) (tab : Option BoundTable) (coord : Nat → Nat) (e : W64) : Nat × Flag × Clip :=
  if o.desc.format = 7 then (e.toNat, .clear, .none) else outBits o tab coord e.value

/-- R238: the estimate of row number `k` of a write-back in EC: the write EC of R103's table over 128, at least 1, or what the read of an
ADD takes of the remote port. -/
def State.rowEc (s : State) (c : CtxNo) (w : WbPlan) (k : Nat) : Nat :=
  let sp := (List.range w.cols).map (fun j => w.dst.span (w.dst.desc.view w.feat (w.rows.getD k 0) (w.col0 + j)))
  max (if w.dst.desc.format = 7 then 2 else 1) (if w.add then s.portEc c (w.dst.acc false true sp) else 0)

/-- Clamp adder operations per element of a write-back row, each a quarter of an EC for 128 elements (R103). -/
def WbPlan.adderOps (w : WbPlan) : Nat :=
  if w.add then (if w.dst.desc.format = 7 then 4 else 3) else if w.dst.desc.format = 7 then 0 else 1

/-- One element written; the flags it sets are gathered. -/
def State.wbElem (c : CtxNo) (w : WbPlan) (x : Slot) (badR badW : List (Nat × Nat)) (row srow : Nat) (p : State × Flag) (k : Nat) :
    State × Flag :=
  let co := w.dst.desc.view w.feat row (w.col0 + k)
  let e := x.elem (srow * 128 + k)
  let ue : Flag := ⟨false, x.elemBad (srow * 128 + k)⟩
  if w.add then
    let r := addElem (w.dst.desc.format == 7) (p.1.elemBits c badR w.dst co) e
    (p.1.putBits c badW w.dst co r.1, p.2.or (ue.or r.2))
  else
    let r := replaceElem w.dst w.tab co e
    let s1 := p.1.putBits c badW w.dst co r.1
    let s2 := match w.tab with
      | some b => s1.countConv b.number.val (w.dst.desc.channel co) (seq16 w.seq) e.value r.2.2
      | none => s1
    (s2, p.2.or (ue.or r.2.1))

/-- The accesses of a row: for ADD a read for write and a write, for REPLACE the write. -/
def WbPlan.rowAccs (w : WbPlan) (row : Nat) (ks : List Nat) : List Acc :=
  let sp := ks.map (fun k => w.dst.span (w.dst.desc.view w.feat row (w.col0 + k)))
  (if w.add then [w.dst.acc false true sp] else []) ++ [w.dst.acc true false sp]

/-- The journal unit of the block a row lies in (R113). -/
def WbPlan.unit (w : WbPlan) (row : Nat) : Unit := ⟨1, w.dst.idx, w.feat, row / 128, w.col0 / 128⟩

/-- Row number `k` of the plan written, or false with what it waits for asked. -/
def State.wbRow (s : State) (c : CtxNo) (w : WbPlan) (fz : Nat → Bool) (k : Nat) : Bool × State × Flag :=
  let row := w.rows.getD k 0
  let ks := w.live fz row
  if ks.isEmpty then (true, s, .clear)
  else if s.mustCapture c (w.unit row) then (false, s.askCapture c (w.unit row) w.seq, .clear)
  else
    let as := w.rowAccs row ks
    let r := s.openWrites c w.seq as
    if !r.1 then (false, r.2, .clear) else
    let s1 := r.2
    let badR := s1.refusals c (w.dst.acc false true ((as.headD (w.dst.acc false true [])).spans))
    let badW := s1.refusals c (w.dst.acc true false ((as.headD (w.dst.acc false true [])).spans))
    let q := ks.foldl (State.wbElem c w (s1.slot w.slot) badR badW row (w.slotRows.getD k 0)) (s1, Flag.clear)
    (true, (q.1.closeUnit c w.seq as).useAdders w.adderOps, q.2)

/-! ### Tile records (R108) -/

/-- The 16 bytes of a tile record. -/
def tileRecord (row col : Nat) (acc : Word) (rows cols frozen : Nat) (res merged : Bool) (ofs : Nat) : Nat :=
  packBits [(row, 32), (col, 32), (acc.toNat, 32), (rows, 8), (cols, 8), (frozen, 8), (res.toNat, 1), (merged.toNat, 1), (ofs, 2)]

/-- Record number `k` written into the record area: done and written, done and lost, or waiting. -/
def State.putRecord (s : State) (c : CtxNo) (seq : Word) (o : Opnd) (k v : Nat) : Bool × Bool × State :=
  if o.desc.size 0 < 16 * (k + 1) then (true, true, s)
  else
    let a := o.acc true false (o.byteSpans (16 * k) 16)
    let r := s.openWrites c seq [a]
    if !r.1 then (false, false, r.2)
    else (true, false, (r.2.putArea c (r.2.refusals c a) o (16 * k) (leBytes 16 v)).closeUnit c seq [a])

/-- The record of a product tile, when REC_EN asks for one. -/
def State.jobRecord (s : State) (c : CtxNo) (m : Cmd) (p : ProdOps) (j : ProdJob) (v : Nat) : Bool × State × ProdJob :=
  match p.recd with
  | none => (true, s, j)
  | some o =>
    let r := s.putRecord c m.seq o j.records v
    if !r.1 then (false, r.2.2, j)
    else (true, r.2.2, if r.2.1 then { j with lost := j.lost + 1 } else { j with records := j.records + 1 })

/-! ### Write-back of product tiles and of ACCSTORE -/

/-- The write-back plan of a product tile. -/
def LanePart.wb (x : LanePart) : WbPlan :=
  { dst := x.ops.dst, tab := x.job.dstTab, add := x.cmd.wbAdd, feat := x.cmd.dstFeat, slot := x.run.slot, rows := x.tile.rows
    slotRows := x.tile.slotRows, col0 := x.tile.col0, cols := x.tile.cols, frz := x.ops.frz, axisCols := x.cmd.bit 245, seq := x.cmd.seq
    mask := x.run.mask }

/-- The record of a tile with its word, FROZEN count and marks. -/
def LanePart.record (x : LanePart) (word : Word) (frozen : Nat) (res merged : Bool) : Nat :=
  tileRecord (x.tile.rows.headD 0 / 128) (x.tile.col0 / 128) word x.tile.rows.length x.tile.cols frozen res merged x.tile.rowOfs

/-- A product tile's next row; its share of the header update grows with it (R107, R112). -/
def State.wbTileRow (c : CtxNo) (i n : Nat) (w : WbPlan) (fz : Nat → Bool) (s : State) : Bool × State :=
  match s.runAt c i n with
  | none => (false, s)
  | some x =>
    if x.tile.rows.length ≤ x.run.row || (x.run.begun.isNone && !s.active c) then (false, s)
    else
      let t := x.run.begun.getD s.now
      let r := (s.setJob c i (x.job.modRun n (fun q => { q with begun := some t }))).wbRow c w fz x.run.row
      if !r.1 then (false, r.2.1)
      else
        let word := accSet (s.slot x.run.slot).acc r.2.2.bits
        let any := !(w.live fz (w.rows.getD x.run.row 0)).isEmpty
        let j := x.job.modRun n (fun q => { q with row := q.row + 1, begun := none })
        (true, State.rowCommit (c := c) (start := t) (raw := s.rowEc c w x.run.row) <|
          (r.2.1.modSlot x.run.slot (fun y => { y with acc := word })).setJob c i
          { j with wrote := j.wrote || any
                   hdrMax := if any then max j.hdrMax (accCount word) else j.hdrMax
                   hdrFlags := if any then w32 (Nat.lor j.hdrFlags.toNat (accFlags word)) else j.hdrFlags })

/-- A tile's rows are written: its record, its share of the header update, its slot freed, the next tile (R102, R107, R112). -/
def State.wbTileEnd (s : State) (c : CtxNo) (x : LanePart) (w : WbPlan) (fz : Nat → Bool) : State :=
  let word := (s.slot x.run.slot).acc
  let r := s.jobRecord c x.cmd x.ops x.job (x.record word (w.frozenCount fz) false false)
  if !r.1 then r.2.1 else
  let any := x.tile.rows.any (fun y => !(w.live fz y).isEmpty)
  let j1 := r.2.2
  let j2 := { j1 with acc := accJoin j1.acc word
                      hdrFlags := if any then w32 (Nat.lor j1.hdrFlags.toNat (accFlags word)) else j1.hdrFlags }
  (r.2.1.modSlot x.run.slot Slot.release).leaveTile c x.place x.cmd j2 x.run.tile

/-- The write-back phase of a product's first tile: the rows of a transient slot, or the record of a resident tile, whose FROZEN is 0 since
nothing of it is written back (log 64). -/
def State.wbTile (s : State) (c : CtxNo) (x : LanePart) : State :=
  let n := x.run.tile
  if x.run.resident then
    if !s.active c then s else
    let r := s.jobRecord c x.cmd x.ops x.job (x.record x.run.recWord 0 true (x.cmd.bit 12))
    if r.1 then r.2.1.leaveTile c x.place x.cmd r.2.2 n else r.2.1
  else
    let w := x.wb
    if x.run.mask.isNone && !s.active c then s else
    let o := s.readMask c w
    if !o.1 then o.2.1 else
    let fz := w.frozen o.2.2
    let s1 := runRows (State.wbTileRow c x.place n w fz) 129
      (o.2.1.setJob c x.place (x.job.modRun n (fun q => { q with mask := some o.2.2 })))
    match s1.runAt c x.place n with
    | none => s1
    | some y => if y.tile.rows.length ≤ y.run.row && s1.active c then s1.wbTileEnd c y w fz else s1

/-- The write-back plan of an ACCSTORE of slot `k`. -/
def State.storePlan (s : State) (m : Cmd) (k : Nat) (tab : Option BoundTable) (mask : Option (List Byte)) : Option WbPlan :=
  let x := s.slot k
  (s.opnd m.fmts x.desc 0).map (fun d =>
    let b := x.block d
    { dst := d, tab := tab, add := !m.bit 176, feat := x.feat, slot := k, rows := upFrom b.1 b.2.1, slotRows := List.range b.2.1
      col0 := b.2.2.1, cols := b.2.2.2, frz := if m.bit 14 then s.opnd m.fmts (m.f 144 16) 0 else none, axisCols := m.bit 177
      seq := m.seq, mask := mask })

/-- An ACCSTORE's next row. -/
def State.wbStoreRow (c : CtxNo) (i : Nat) (w : WbPlan) (fz : Nat → Bool) (s : State) : Bool × State :=
  match s.cmdAt c i with
  | none => (false, s)
  | some m =>
    match m.phase with
    | .running (.store k row written flags tab mask) =>
      if w.rows.length ≤ row then (false, s)
      else
        let g := s.streamGo c m.seq (fun u => s.rowEc c w (row + u)) (w.rows.length - row)
        if !g.1 then g else
        let r := (g.2.streamStart c).wbRow c w fz row
        if !r.1 then (false, r.2.1)
        else
          let n := if (w.live fz (w.rows.getD row 0)).isEmpty then written else written + 1
          let s1 := (r.2.1.setPhase c i (.running (.store k (row + 1) n (Nat.lor flags r.2.2.bits) tab mask))).streamCommit c (s.rowEc c w row)
            (decide (row + 1 < w.rows.length))
          (s1.streaming c, s1)
    | _ => (false, s)

/-- A slot leaves its write-back: HELD, or released at once or at the end of the task (R98, R117, R223). -/
def State.storeRelease (s : State) (c : CtxNo) (k : Nat) (rel : Bool) : State :=
  s.modSlot k (fun x =>
    if !rel then { x with state := .held }
    else if (s.ctx c).task.isSome then { x with state := .releasePending }
    else { Slot.reset with gen := x.gen })

/-- The end of an ACCSTORE: its slot goes on, then the header update if anything was written, then the reply. -/
def State.storeEnd (s : State) (c : CtxNo) (i : Nat) (m : Cmd) (w : WbPlan) (written : Nat) (word : Word) (r : Reply) : State :=
  let s1 := s.storeRelease c w.slot (m.bit 12)
  if 0 < written ∧ w.dst.desc.hdrEn then
    s1.setPhase c i (.header { desc := w.dst.idx, stream := 0, add := w.add, count := accCount word + (if w.add then 1 else 0)
                               flags := w32 (accFlags word), wbs := 1, zero := false } r)
  else s1.finish c i r

/-- The rows of an ACCSTORE, its record and its end. -/
def State.wbStore (s : State) (c : CtxNo) (i : Nat) (m : Cmd) (k row written flags : Nat) (tab : Option BoundTable)
    (mask : Option (List Byte)) : State :=
  match s.storePlan m k tab mask with
  | none => s
  | some w =>
    if mask.isNone && !s.active c then s else
    let o := s.readMask c w
    if !o.1 then o.2.1 else
    let fz := w.frozen o.2.2
    let s1 := runRows (State.wbStoreRow c i w fz) 129 (o.2.1.setPhase c i (.running (.store k row written flags tab (some o.2.2))))
    match s1.cmdAt c i with
    | none => s1
    | some m1 =>
      match m1.phase with
      | .running (.store _ row written flags _ _) =>
        if row < w.rows.length || !s1.active c then s1 else
        let x := s1.slot k
        let word := accSet x.acc flags
        let v := tileRecord x.tileRow x.tileCol word w.rows.length w.cols (w.frozenCount fz) false false 0
        let r : Bool × Bool × State :=
          match (if m.bit 15 then s1.opnd m.fmts (m.f 160 16) 1 else none) with
          | some q => s1.putRecord c m.seq q 0 v
          | none => (true, false, s1)
        if !r.1 then r.2.2 else
        (r.2.2.modSlot k (fun y => { y with acc := word })).storeEnd c i m w written word
          { Reply.ok with acc := word, result0 := w32 written, lost := if r.2.1 then 1 else 0 }
      | _ => s1

/-- A command with a write-back in progress: of its first tile, or the end of a product that waited for its chain. -/
def State.writingBack (s : State) (m : Cmd) : Bool :=
  match m.phase with
  | .running (.store _ _ _ _ _ _) => true
  | .running (.product j) =>
    (match j.runs with
     | r :: _ => r.phase == .writeBack
     | [] => !j.tiles.isEmpty && decide (j.tiles.length ≤ j.next) && s.chainDrained m)
  | _ => false

/-- The first write-back in progress goes on. -/
def State.writeBack (s : State) (c : CtxNo) : State :=
  if !s.alert c then s else
  match findAt s.writingBack (s.ctx c).cmds 0 with
  | none => s
  | some (i, m) =>
    match m.phase with
    | .running (.product j) =>
      match j.runs with
      | r :: _ =>
        match s.runAt c i r.tile with
        | some x => s.wbTile c x
        | none => s
      | [] => if s.active c then s.productEnd c i m j 0x00 else s
    | .running (.store k row written flags tab mask) => s.wbStore c i m k row written flags tab mask
    | _ => s

/-- WRITE_BACK (R101, R102, R83, R111, R108). -/
def execWriteBack (c : CtxNo) (s : State) : Out := .next (s.writeBack c)

/-- CLIP_WINDOW_END (R130). -/
def execClipWindowEnd (t : Fin 8) (s : State) : Out := .next (s.windowEnd t.val)

/-! ### ACCSTORE (R223) -/

/-- R210: the handles of an ACCSTORE. -/
def State.accstoreHandlesOk (s : State) (c : CtxNo) (m : Cmd) : Bool :=
  (s.slotHandle c (m.f 128 16)).isSome && (!m.bit 14 || (s.handle c (m.f 144 16)).isSome)
    && (!m.bit 15 || (s.handle c (m.f 160 16)).isSome)

/-- The handle that names descriptor entry `i` now. -/
def State.handleOf (s : State) (i : Nat) : Nat := i + (Tbl.get 0 s.descGen i).toNat * 1024

/-- The checks of an ACCSTORE (R101, R111, R121, R212). -/
def State.accstoreBad (s : State) (c : CtxNo) (m : Cmd) (w : WbPlan) : Option Reply :=
  let d := w.dst.desc
  let ext := if m.bit 177 then d.cols w.feat else d.rows w.feat
  firstBad ([
    (optOk w.frz (fun o => o.areaOk (ceilDiv ext 8) && o.desc.canRead), .bad 144),
    (!m.bit 15 || optOk (s.opnd m.fmts (m.f 160 16) 1) (fun o => o.areaOk 0 && o.desc.canWrite), .bad 160),
    (w.dst.output, .bad 176),
    (!w.add || ((d.format == 6 || d.format == 7) && d.hdrEn && d.canRead), .bad 176)]
    ++ (match s.quantBad c m w.dst (s.handleOf w.dst.idx) with
      | some r => [(false, r)]
      | none => [])
    ++ [(qaxisOk w.dst w.feat, .badDesc 69 (s.handleOf w.dst.idx))])

/-- ACCSTORE starts: the slot goes to WRITEBACK; with RELEASE its generation advances (R109). -/
def State.startAccstore (s : State) (c : CtxNo) : State :=
  match s.starting c 0x05 with
  | none => s
  | some (i, m) =>
    let k := m.f 128 6
    if !s.noConflict c i m then s
    else if !s.accstoreHandlesOk c m then s.finish c i (.of stHandle)
    else match m.reservedBad, s.storePlan m k none none with
      | some r, _ => s.finish c i r
      | none, none => s.finish c i (.of stHandle)
      | none, some w =>
        match s.accstoreBad c m w with
        | some r => s.finish c i r
        | none =>
          if (s.slot k).state ≠ .held || s.slotShut k then s
          else if m.bit 12 && s.mustCapture c (slotUnit k) then s.askCapture c (slotUnit k) m.seq
          else
            (s.modSlot k (fun x => { x with state := .writeback, gen := if m.bit 12 then x.gen + 1 else x.gen })).setPhase c i
              (.running (.store k 0 0 0 (s.bindFor c m w.dst) none))

/-- ACCSTORE (R223): its rows then run as WRITE_BACK. -/
def execAccstore (c : CtxNo) (s : State) : Out := .next (s.startAccstore c)

/-! ### ZERO (R98, R224) -/

/-- ZERO of a slot: every element (+0, +0), its word zero; the slot is HELD again. -/
def State.startZeroSlot (s : State) (c : CtxNo) : State :=
  match s.starting c 0x06 with
  | none => s
  | some (i, m) =>
    if m.bit 12 then s
    else if !s.noConflict c i m then s
    else match s.slotHandle c (m.f 128 16), m.reservedBad with
      | none, _ => s.finish c i (.of stHandle)
      | some _, some r => s.finish c i r
      | some k, none =>
        if (s.slot k).state ≠ .held || s.slotShut k then s
        else if s.mustCapture c (slotUnit k) then s.askCapture c (slotUnit k) m.seq
        else (s.modSlot k (fun x => { x with elems := [], bad := [], acc := 0 })).finish c i .ok

/-- ZERO with TENSOR = 0 (R98). -/
def execZeroSlot (c : CtxNo) (s : State) : Out := .next (s.startZeroSlot c)

/-- Unit number `u` of a ZERO of a tensor: one row of one 128-column block, column blocks outer (R219, R224). -/
def zeroUnit (o : Opnd) (u : Nat) : Nat × Nat × Nat :=
  let rows := max 1 (o.desc.rows 0)
  (u % rows, u / rows * 128, min 128 (o.desc.cols 0 - u / rows * 128))

/-- Number of units of a ZERO of a tensor. -/
def zeroUnits (o : Opnd) : Nat := o.desc.rows 0 * ceilDiv (o.desc.cols 0) 128

/-- One unit of a ZERO of a tensor. -/
def State.zeroRow (c : CtxNo) (i : Nat) (o : Opnd) (s : State) : Bool × State :=
  match s.cmdAt c i with
  | none => (false, s)
  | some m =>
    match m.phase with
    | .running (.zeroTensor u) =>
      if zeroUnits o ≤ u then
        (false, if o.desc.hdrEn then
            s.setPhase c i (.header { desc := o.idx, stream := 0, add := false, count := 0, flags := 0, wbs := 0, zero := true } .ok)
          else s.finish c i .ok)
      else
        let z := zeroUnit o u
        let unit : Unit := ⟨1, o.idx, 0, z.1 / 128, z.2.1 / 128⟩
        if s.mustCapture c unit then (false, s.askCapture c unit m.seq) else
        let cs := (List.range z.2.2).map (fun k => o.desc.view 0 z.1 (z.2.1 + k))
        let a := o.acc true false (cs.map o.span)
        let ec := if o.desc.format = 7 then 2 else 1
        let g := s.streamGo c m.seq (fun _ => ec) (zeroUnits o - u)
        if !g.1 then g else
        let r := (g.2.streamStart c).openWrites c m.seq [a]
        if !r.1 then r else
        let s1 := cs.foldl (fun t co => t.putBits c (r.2.refusals c a) o co 0) r.2
        let s2 := ((s1.closeUnit c m.seq [a]).setPhase c i (.running (.zeroTensor (u + 1)))).streamCommit c ec
          (decide (u + 1 < zeroUnits o))
        (s2.streaming c || decide (zeroUnits o ≤ u + 1), s2)
    | _ => (false, s)

/-- ZERO of a tensor starts or goes on. -/
def State.zeroTensor (s : State) (c : CtxNo) : State :=
  match s.continuing c 0x06 with
  | some (i, m) =>
    match s.opnd m.fmts (m.f 128 16) 0 with
    | some o => runRows (State.zeroRow c i o) (zeroUnits o + 1) s
    | none => s
  | none =>
    match s.starting c 0x06 with
    | none => s
    | some (i, m) =>
      if !m.bit 12 then s
      else if !s.noConflict c i m then s
      else match s.handle c (m.f 128 16), m.reservedBad, s.opnd m.fmts (m.f 128 16) 0 with
        | some _, none, some o =>
          if o.output && fmtClass o.fmt != 2 then
            runRows (State.zeroRow c i o) (zeroUnits o + 1) (s.setPhase c i (.running (.zeroTensor 0)))
          else s.finish c i (.bad 128)
        | some _, some r, _ => s.finish c i r
        | _, _, _ => s.finish c i (.of stHandle)

/-- ZERO with TENSOR = 1 (R224). -/
def execZeroTensor (c : CtxNo) (s : State) : Out := .next (s.zeroTensor c)

/-! ### Merges (R82, R110) -/

/-- Places of a slot that hold anything but (+0, +0), or are uncorrectable. -/
def Slot.places (x : Slot) : List Nat := x.elems.map (·.1) ++ x.bad

/-- Every element of slot `y` added into slot `x`, sum then compensation. -/
def Slot.mergeIn (x y : Slot) : Slot :=
  (dedup (x.places ++ y.places) []).foldl (fun z e =>
    let r1 := clampAdd (x.elem e) (y.elem e).sum
    let r2 := clampAdd r1.1 (y.elem e).comp
    let f := r1.2.or (r2.2.or ⟨false, x.elemBad e || y.elemBad e⟩)
    let z1 := z.putElem e r2.1
    { z1 with acc := accSet z1.acc f.bits }) x

/-- A merge with its count and flags (R91, R94). -/
def Slot.merge (x y : Slot) : Slot := let z := x.mergeIn y; { z with acc := accMerge z.acc y.acc 0 }

/-- R82: the later segments merged into segment 0 in ascending order, their slots freed; then the tile goes on. -/
def State.segMerge (s : State) (c : CtxNo) : State :=
  if !s.active c then s else
  match s.firstRun c .segMerge with
  | none => s
  | some x =>
    let base := x.run.slot
    let later := (x.job.runs.filter (fun r => r.tile != x.run.tile)).map (fun r => r.slot)
    let y := later.foldl (fun z k => z.merge (s.slot k)) (s.slot base)
    let s1 := (later.foldl (fun t k => t.modSlot k Slot.release) (s.setSlot base y)).useAdders (2 * x.tile.rows.length * later.length)
    s1.tileIn c x.place x.cmd { x.job with runs := [x.run] } x.run.tile base x.run.resident (later.length + 1)

/-- SEGMENT_MERGE (R82). -/
def execSegmentMerge (c : CtxNo) (s : State) : Out := .next (s.segMerge c)

/-- No earlier unfinished command writes the slot (R109, R110). -/
def State.noEarlierWriter (s : State) (c : CtxNo) (i k : Nat) : Bool :=
  ((s.ctx c).cmds.take i).all (fun m => !(m.phase.isQueued || m.phase.isRunning) || !(s.cmdSlots c m).contains k)

/-- R110: a complete shadow slot added into its resident slot once every earlier writer has finished. -/
def State.mergeAdd (s : State) (c : CtxNo) : State :=
  if !s.active c then s else
  match s.firstRun c .mergeAdd with
  | none => s
  | some x =>
    match s.residentFor c x.cmd x.tile with
    | none => s
    | some k =>
      let mine := x.job.mine.contains k
      if !(mine || (s.slot k).state == .held) || !s.noEarlierWriter c x.place k then s
      else if s.mustCapture c (slotUnit k) then s.askCapture c (slotUnit k) x.cmd.seq
      else
        let s1 := ((s.setSlot k { (s.slot k).merge (s.slot x.run.slot) with state := .active }).modSlot x.run.slot Slot.release).useAdders
          (2 * x.tile.rows.length)
        s1.residentDone c x.place x.cmd { x.job with mine := if mine then x.job.mine else x.job.mine ++ [k] } x.run.tile k
          (if x.job.split ≤ 1 then 1 else x.job.tiles.length)

/-- MERGE_ADDITION (R110). -/
def execMergeAddition (c : CtxNo) (s : State) : Out := .next (s.mergeAdd c)

/-! ### Header update (R107, R178) -/

/-- A command that owes a header update. -/
def Cmd.owesHeader (m : Cmd) : Bool :=
  match m.phase with
  | .header _ _ => true
  | _ => false

/-- The header of the first command that owes one is read, updated and written; the command completes. The header of a table that a
GATHER_ACC updated is not captured (R231). -/
def State.headerUpdate (s : State) (c : CtxNo) : State :=
  if !s.active c then s else
  match findAt Cmd.owesHeader (s.ctx c).cmds 0 with
  | none => s
  | some (i, m) =>
    match m.phase with
    | .header u r =>
      match s.opnd m.fmts u.desc u.stream with
      | none => s.finish c i r
      | some o =>
        let unit : Unit := ⟨2, u.desc, 0, 0, 0⟩
        if m.op ≠ 0x14 ∧ s.mustCapture c unit then s.askCapture c unit m.seq else
        let as := (if u.zero then [] else [o.hdrAcc false true]) ++ [o.hdrAcc true false]
        let q := s.openWrites c m.seq as
        if !q.1 then q.2 else
        let h := q.2.readHdr c o
        let v := if u.zero then 0 else hdrUpdate h u.add u.count u.flags.toNat u.wbs
        let s1 := q.2.writeB c (q.2.refusals c (o.hdrAcc true false)) o.desc.hdrAddr (leBytes 16 v)
        (s1.closeUnit c m.seq as).finish c i r
    | _ => s

/-- HEADER_UPDATE (R107). -/
def execHeaderUpdate (c : CtxNo) (s : State) : Out := .next (s.headerUpdate c)

end Sys2Proof.Machine
end

