-- ==== Sys2Proof/Machine/Copy.lean ====
section
/-! DEFINITION. XPOSE and PERMUTE (07): direct copies, staged copies, tile-pair swaps (R164 to R169). -/

namespace Sys2Proof.Machine

/-- R226: the permutation a copy names, `perm[d]` at place d. -/
def Cmd.perm (m : Cmd) (ndim : Nat) : List Nat :=
  if m.op = 0x12 then
    let a := m.f 160 3
    let b := m.f 163 3
    (List.range ndim).map (fun d => if d = a then b else if d = b then a else d)
  else (List.range ndim).map (fun d => m.f (160 + 3 * d) 3)

/-- R165: the source coordinates of a destination element. -/
def permSource (perm : List Nat) (co : Nat → Nat) : Nat → Nat :=
  fun k => match findAt (· == k) perm 0 with
    | some (d, _) => co d
    | none => 0

/-- How a copy runs (R166, R167): without overlap by rows, or by blocks of destination dimensions 0 and `dim`. -/
inductive CopyMode where
  | rows
  | blocks (dim : Nat)
  | identity
  | swap (a b : Nat)
  | staged
  | refused
  deriving DecidableEq, Repr

/-- Same BASE, FORMAT, sizes and strides. -/
def sameLayout (a b : Desc) : Bool :=
  a.base == b.base && a.format == b.format && a.ndim == b.ndim
    && a.dims.all (fun k => a.size k == b.size k && a.stride k == b.stride k)

/-- Bytes of all elements, packed rows of 4-bit formats whole. -/
def Opnd.bytes (o : Opnd) : Nat :=
  if fmtWidth o.fmt = 0 then ceilDiv (o.desc.size 0) 2 * (o.desc.count / max 1 (o.desc.size 0)) else o.desc.count * (fmtBits o.fmt / 8)

/-- The two dimensions a permutation exchanges, when it fixes the rest. -/
def exchanged (perm : List Nat) : Option (Nat × Nat) :=
  match (List.range perm.length).filter (fun d => perm.getD d d != d) with
  | [a, b] => some (a, b)
  | _ => none

/-- R167: the first matching row of the overlap table. -/
def copyMode (src dst : Opnd) (perm : List Nat) : CopyMode :=
  if !descMeet src.desc dst.desc then
    match findAt (· == 0) perm 0 with
    | some (d, _) => if d = 0 then .rows else .blocks d
    | none => .rows
  else if sameLayout src.desc dst.desc && perm == List.range src.desc.ndim then .identity
  else
    let square := match exchanged perm with
      | some (a, b) => if sameLayout src.desc dst.desc && src.desc.size a == src.desc.size b && src.desc.size a % 128 == 0 then some (a, b) else none
      | none => none
    match square with
    | some (a, b) => .swap a b
    | none => if ceilDiv src.bytes 4096 * 4096 ≤ 262144 then .staged else .refused

/-! ### Units -/

/-- Elements gathered by the 512-byte destination segment they lie in, segments in the order in which they are first met (R155). -/
def Opnd.bySegment (o : Opnd) (els : List (Nat → Nat)) : List (List (Nat → Nat)) :=
  let at_ := els.map (fun e => ((o.desc.addr o.fmt e).1 / 512, e))
  (dedup (at_.map (·.1)) []).map (fun g => (at_.filter (fun x => x.1 == g)).map (·.2))

/-- The destination elements of the 128 x 128 blocks of dimensions 0 and `dim`: blocks along dimension 0 inside those along `dim`, the
other dimensions outside in walk order (R166). -/
def copyBlocks (d : Desc) (dim : Nat) : List (List (Nat → Nat)) :=
  let rest := d.dims.filter (fun k => k != 0 && k != dim)
  let outer := (rest.map d.size).foldl (· * ·) 1
  (List.range outer).flatMap (fun o => (List.range (ceilDiv (d.size dim) 128)).flatMap (fun q => (List.range (ceilDiv (d.size 0) 128)).map (fun p =>
    (upFrom (128 * q) (min 128 (d.size dim - 128 * q))).flatMap (fun j => (upFrom (128 * p) (min 128 (d.size 0 - 128 * p))).map (fun i =>
      fun k => if k = 0 then i else if k = dim then j else coordIn d.size rest o k)))))

/-- The units of a direct copy: destination segments by rows, or those of one block after another; true where a block ends. -/
def directUnits (mode : CopyMode) (dst : Opnd) : List (List (Nat → Nat) × Bool) :=
  match mode with
  | .rows => (dst.bySegment ((List.range dst.desc.count).map dst.desc.coords)).map (fun u => (u, false))
  | .blocks dim => (copyBlocks dst.desc dim).flatMap (fun b =>
      let us := dst.bySegment b
      ((List.range us.length).zip us).map (fun x => (x.2, x.1 + 1 == us.length)))
  | _ => []

/-- The tile pairs of a square of `n` tiles a side: p ascending, q from p upward (R168). -/
def tilePairs (n : Nat) : List (Nat × Nat) := (List.range n).flatMap (fun p => (upFrom p (n - p)).map (fun q => (p, q)))

/-- Coordinates of tile (p, q) of dimensions a and b, the others from `o`, their walk-order index. -/
def tileElems (d : Desc) (a b p q o : Nat) : List (Nat → Nat) :=
  let rest := d.dims.filter (fun k => k != a && k != b)
  (upFrom (128 * p) 128).flatMap (fun i => (upFrom (128 * q) 128).map (fun j =>
    fun k => if k = a then i else if k = b then j else coordIn d.size rest o k))

/-- Elements of swap unit `u`: pairs inside, the other dimensions outside in walk order. -/
def swapElems (d : Desc) (a b u : Nat) : List (Nat → Nat) :=
  let ps := tilePairs (d.size a / 128)
  let pq := ps.getD (u % max 1 ps.length) (0, 0)
  let o := u / max 1 ps.length
  tileElems d a b pq.1 pq.2 o ++ (if pq.1 = pq.2 then [] else tileElems d a b pq.2 pq.1 o)

/-- Number of swap units. -/
def swapUnits (d : Desc) (a b : Nat) : Nat :=
  (tilePairs (d.size a / 128)).length * (d.count / max 1 (d.size a * d.size b))

/-- Destination elements of unit `u` of a staged copy or tile-pair swap; none when it is over. -/
def stagedUnit (mode : CopyMode) (dst : Opnd) (u : Nat) : Option (List (Nat → Nat)) :=
  match mode with
  | .swap a b => if u < swapUnits dst.desc a b then some (swapElems dst.desc a b u) else none
  | .staged => if u = 0 then some ((List.range dst.desc.count).map dst.desc.coords) else none
  | _ => none

/-- Number of units of a staged copy or tile-pair swap. -/
def stagedUnits (mode : CopyMode) (dst : Opnd) : Nat :=
  match mode with
  | .swap a b => swapUnits dst.desc a b
  | _ => 1

/-- Does a copy by blocks go through the staging buffer: 32-bit, 64-bit and 4-bit formats (R164, R166)? -/
def stagedBlocks (o : Opnd) : Bool := fmtBits o.fmt != 8 && fmtBits o.fmt != 16

/-- Granules of staging a unit takes (R164). -/
def copyGranules (mode : CopyMode) (src : Opnd) : Nat :=
  match mode with
  | .swap _ _ => 2 * 16384 * fmtBits src.fmt / 8 / 4096
  | .staged => ceilDiv src.bytes 4096
  | .blocks _ => if stagedBlocks src then 16384 * fmtBits src.fmt / 8 / 4096 else 0
  | _ => 0

/-- Who holds a staging allocation: context and sequence number. -/
def stagingUser (c : CtxNo) (seq : Word) : Nat := c.val + 8 * seq.toNat

/-- A user takes its whole allocation, or waits for it in its place of R254's row; what it holds already it keeps (R164, R255). -/
def State.takeStaging (s : State) (c : CtxNo) (seq : Word) (prio granules user : Nat) : Bool × State :=
  if granules = 0 || s.staging.any (fun p => p.2 == user) then (true, s)
  else if s.stagingFree < granules || s.behind .staging prio c seq then (false, s.await .staging prio c seq)
  else (true, { (s.unwait c seq) with staging := s.staging ++ [(granules, user)] })

/-- A user gives its allocation back. -/
def State.dropStaging (s : State) (user : Nat) : State := { s with staging := s.staging.filter (fun p => p.2 != user) }

/-- Column-wise channels that lane-bank slices and copies leave free (R60). -/
def State.dovetailFree (s : State) : Nat :=
  4 - ((match s.lane.slice with
    | some r => r.channels
    | none => 0) + 2 * s.dovetail.length)

/-- A copy takes its two channels, or waits behind the lane bank's streams; it holds them for its slice (R166, R254, R255). -/
def State.takeDovetail (s : State) (c : CtxNo) (seq : Word) : Bool × State :=
  if s.dovetail.contains (c, seq) then (true, s)
  else if s.dovetailFree < 2 || s.behind .dovetail 1 c seq then (false, s.await .dovetail 1 c seq)
  else (true, { (s.unwait c seq) with dovetail := s.dovetail ++ [(c, seq)] })

/-- A copy gives back its channels and its block's staging: its slice or its block is over (R241). -/
def State.dropCopy (s : State) (c : CtxNo) (seq : Word) : State :=
  { s.dropStaging (stagingUser c seq) with dovetail := s.dovetail.filter (fun x => x != (c, seq)) }

/-! ### Phases -/

/-- The source access of a unit. -/
def copyReads (src : Opnd) (perm : List Nat) (els : List (Nat → Nat)) : Acc :=
  src.acc false false (els.map (fun e => src.span (permSource perm e)))

/-- The destination access of a unit. -/
def copyWrites (dst : Opnd) (els : List (Nat → Nat)) : Acc := dst.acc true false (els.map dst.span)

/-- R238: the estimate of a direct unit: 1, or what its bytes take of the remote port. -/
def State.directEst (s : State) (c : CtxNo) (src : Opnd) (perm : List Nat) (els : List (Nat → Nat)) : Nat :=
  max 1 (s.portEc c (copyReads src perm els))

/-- The unit's source bits read. -/
def State.copyBits (s : State) (c : CtxNo) (src : Opnd) (perm : List Nat) (els : List (Nat → Nat)) : List Nat :=
  let bad := s.refusals c (copyReads src perm els)
  els.map (fun e => s.elemBits c bad src (permSource perm e))

/-- The unit's destination bits stored. -/
def State.copyStore (s : State) (c : CtxNo) (dst : Opnd) (els : List (Nat → Nat)) (vals : List Nat) : State :=
  let bad := s.refusals c (copyWrites dst els)
  (List.zip els vals).foldl (fun t x => t.putBits c bad dst x.1 x.2) s

/-- What a unit of a direct copy needs besides its requests: nothing by rows, two channels or a block of staging by blocks. -/
def State.copyHolds (s : State) (c : CtxNo) (m : Cmd) (mode : CopyMode) (src : Opnd) : Bool × State :=
  match mode with
  | .blocks _ =>
    if stagedBlocks src then s.takeStaging c m.seq 1 (copyGranules mode src) (stagingUser c m.seq) else s.takeDovetail c m.seq
  | _ => (true, s)

/-- After a unit: a block's staging is given back with its last unit, everything with the end of the slice. -/
def State.copyRelease (s : State) (c : CtxNo) (m : Cmd) (blockEnd : Bool) : State :=
  if !s.streaming c then s.dropCopy c m.seq else if blockEnd then s.dropStaging (stagingUser c m.seq) else s

/-- The elements of the block at unit `u`, from that unit on. -/
def blockRest : List (List (Nat → Nat) × Bool) → List (Nat → Nat)
  | [] => []
  | (els, true) :: _ => els
  | (els, false) :: t => els ++ blockRest t

/-- What is left of a block is read whole, through the channels or into staging, before its first segment is written (R166). -/
def State.copyBlock (s : State) (c : CtxNo) (i : Nat) (m : Cmd) (src : Opnd) (perm : List Nat) (els : List (Nat → Nat)) (u : Nat) :
    Bool × State :=
  let a := copyReads src perm els
  let r := s.openAll c m.seq [a]
  if !r.1 then r else
  (true, (r.2.closeUnit c m.seq [a]).setPhase c i (.running (.copy u [] (r.2.copyBits c src perm els))))

/-- A destination segment is written: read in the same step by rows, from what was read of its block otherwise (R155, R166). -/
def State.copySegment (s : State) (c : CtxNo) (i : Nat) (m : Cmd) (src dst : Opnd) (perm : List Nat) (byRows : Bool) (els : List (Nat → Nat))
    (blockEnd more : Bool) (u : Nat) (blk : List Nat) : Bool × State :=
  let as := (if byRows then [copyReads src perm els] else []) ++ [copyWrites dst els]
  let r := s.openWrites c m.seq as
  if !r.1 then r else
  let vals := if byRows then r.2.copyBits c src perm els else blk
  let s1 := ((r.2.copyStore c dst els vals).closeUnit c m.seq as).streamCommit c (s.directEst c src perm els) more
  let s2 := (s1.setPhase c i (.running (.copy (u + 1) [] (if s1.streaming c then blk.drop els.length else [])))).copyRelease c m blockEnd
  (s2.streaming c || !more, s2)

/-- The next direct unit of the copy at place `i`: a destination segment, or the read of its block. -/
def State.copyDirect (c : CtxNo) (i : Nat) (src dst : Opnd) (perm : List Nat) (mode : CopyMode) (units : List (List (Nat → Nat) × Bool))
    (s : State) : Bool × State :=
  match s.cmdAt c i with
  | none => (false, s)
  | some m =>
    match m.phase with
    | .running (.copy u _ blk) =>
      match units[u]? with
      | none => (false, s.finish c i .ok)
      | some (els, blockEnd) =>
        let g := s.streamGo c m.seq (fun k => s.directEst c src perm ((units.getD (u + k) ([], false)).1)) (units.length - u)
        if !g.1 then g else
        let h := g.2.copyHolds c m mode src
        if !h.1 then h else
        let s1 := h.2.streamStart c
        if mode != .rows && blk.isEmpty then s1.copyBlock c i m src perm (blockRest (units.drop u)) u
        else s1.copySegment c i m src dst perm (mode == .rows) els blockEnd (decide (u + 1 < units.length)) u blk
    | _ => (false, s)

/-- R238: the estimate of staged unit `u`, both its phases; its read at the remote port's rate where that is slower. -/
def State.stagedEst (s : State) (c : CtxNo) (src dst : Opnd) (perm : List Nat) (mode : CopyMode) (u : Nat) : Nat :=
  let els := (stagedUnit mode dst u).getD []
  let bytes := ceilDiv (els.length * fmtBits src.fmt) 8
  max (ceilDiv bytes 1024) (s.portEc c (copyReads src perm els)) + ceilDiv bytes 512

/-- The read phase of a staged unit: staging taken, every source byte read, every destination page translated (R169). A fault in it gives
the staging back when the context parks. -/
def State.copyRead (s : State) (c : CtxNo) (i : Nat) (m : Cmd) (src dst : Opnd) (perm : List Nat) (mode : CopyMode) (u : Nat) : State :=
  match stagedUnit mode dst u with
  | none => s.finish c i .ok
  | some els =>
    let g := s.streamGo c m.seq (fun k => s.stagedEst c src dst perm mode (u + k)) (stagedUnits mode dst - u)
    if !g.1 then g.2 else
    let h := g.2.takeStaging c m.seq 1 (copyGranules mode src) (stagingUser c m.seq)
    if !h.1 then h.2 else
    let a := copyReads src perm els
    let w := copyWrites dst els
    let o := (h.2.streamStart c).openSome c m.seq .demand [a, w] [a]
    if !o.1 then o.2 else
    let r := o.2.copiedFirst c m.seq [w]
    if !r.1 then r.2 else
    ((r.2.countOob c (r.2.refusals c a).length).issue c m.seq .demand [a]).setPhase c i (.running (.copy u (r.2.copyBits c src perm els) []))

/-- The write phase of a staged unit, once its requests have slots; when its context parks, they have been acknowledged by then (R157). It
does not park; a request without its page or permission is discarded and counted,
and the copy then stops with PAGE_FAULT (R169, R371). -/
def State.copyWrite (s0 : State) (c : CtxNo) (i : Nat) (m : Cmd) (src dst : Opnd) (perm : List Nat) (mode : CopyMode) (u : Nat)
    (vals : List Nat) (parking : Bool) : State :=
  match stagedUnit mode dst u with
  | none => s0.finish c i .ok
  | some els =>
    let a := copyWrites dst els
    let o := if parking then (true, s0) else s0.takeSlots c m.seq .demand [a]
    if !o.1 then o.2 else
    let s := o.2
    let lost := (accNeeds a 0 (s.plan c a)).filter (fun n => !s.needOk c n)
    let bad := s.refusals c a ++ lost.map (fun n => (pageOf n.vaddr * 65536, 65536))
    let s1 := (List.zip els vals).foldl (fun t x => t.putBits c bad dst x.1 x.2) s
    let s2 := (s1.countOob c lost.length).dropStaging (stagingUser c m.seq)
    let s3 := if parking then s2.endUnit c [a] else s2.closeUnit c m.seq [a]
    let more := lost.isEmpty && decide (u + 1 < stagedUnits mode dst)
    let s4 := s3.streamCommit c (s0.stagedEst c src dst perm mode u) more
    if lost.isEmpty then (s4.setPhase c i (.running (.copy (u + 1) [] []))).unpin c else s4.finish c i (.of stPageFault)

/-- The operands of a copy command. -/
def State.copyOps (s : State) (m : Cmd) : Option (Opnd × Opnd) :=
  match s.opnd m.fmts (m.f 128 16) 0, s.opnd m.fmts (m.f 144 16) 1 with
  | some a, some b => some (a, b)
  | _, _ => none

/-- A copy in progress goes on: direct units one after another, a staged one by one phase. -/
def State.copyStep (s : State) (c : CtxNo) (i : Nat) (m : Cmd) (parking : Bool) : State :=
  match s.copyOps m, m.phase with
  | some (src, dst), .running (.copy u vals _) =>
    let perm := m.perm src.desc.ndim
    let mode := copyMode src dst perm
    match mode, vals with
    | .rows, _ => let us := directUnits mode dst; runRows (State.copyDirect c i src dst perm mode us) (2 * us.length + 1) s
    | .blocks _, _ => let us := directUnits mode dst; runRows (State.copyDirect c i src dst perm mode us) (2 * us.length + 1) s
    | _, [] => s.copyRead c i m src dst perm mode u
    | _, _ => s.copyWrite c i m src dst perm mode u vals parking
  | _, _ => s

/-- The write phases of a context in progress run to their end: they never park (R169). -/
def State.endWrites (s : State) (c : CtxNo) : State :=
  (List.range (s.ctx c).cmds.length).foldl (fun t i =>
    match t.cmdAt c i with
    | some m => if m.writePhase then t.copyStep c i m true else t
    | none => t) s

/-! ### Start (R165, R226) -/

/-- R226: the permutation fields that fail, as the bit to name. -/
def Cmd.permBad (m : Cmd) (ndim : Nat) : Option Nat :=
  if m.op = 0x12 then
    if m.f 160 3 ≠ m.f 163 3 ∧ m.f 160 3 < ndim ∧ m.f 163 3 < ndim then none else some 163
  else
    ((List.range 6).find? (fun d =>
      if d < ndim then decide (ndim ≤ m.f (160 + 3 * d) 3) || ((List.range d).any (fun e => m.f (160 + 3 * e) 3 == m.f (160 + 3 * d) 3))
      else m.f (160 + 3 * d) 3 != 0)).map (fun d => 160 + 3 * d)

/-- The checks of a copy, in the order of R165's list: formats and dimensions, sizes, the permutation, access rights. A custom format's use
(R17) is checked with the formats; a size is compared where perm[d] names a dimension (log 72). -/
def copyBad (m : Cmd) (src dst : Opnd) : Option Reply :=
  let n := src.desc.ndim
  firstBad [
    (src.desc.format == dst.desc.format && n == dst.desc.ndim, .bad 144),
    (fmtValid src.fmt, .bad 128), (fmtValid dst.fmt && fmtOutput dst.fmt, .bad 144),
    ((List.range n).all (fun d => let e := (m.perm n).getD d 0; decide (n ≤ e) || dst.desc.size d == src.desc.size e), .bad 144),
    match m.permBad n with
      | some b => (false, .bad b)
      | none => (true, .ok),
    (src.desc.canRead, .bad 128), (dst.desc.canWrite, .bad 144)]

/-- XPOSE or PERMUTE starts or goes on. -/
def State.copyCmd (s : State) (c : CtxNo) (op : Nat) : State :=
  match s.continuing c op with
  | some (i, m) => s.copyStep c i m false
  | none =>
    match s.starting c op with
    | none => s
    | some (i, m) =>
      if !s.noConflict c i m then s
      else match s.handle c (m.f 128 16), s.handle c (m.f 144 16), s.copyOps m with
        | some _, some _, some (src, dst) =>
          match m.reservedBad, copyBad m src dst with
          | some r, _ => s.finish c i r
          | none, some r => s.finish c i r
          | none, none =>
            match copyMode src dst (m.perm src.desc.ndim) with
            | .identity => s.finish c i .ok
            | .refused => s.finish c i (.of stOverlap)
            | _ => (s.setPhase c i (.running (.copy 0 [] []))).copyStep c i { m with phase := .running (.copy 0 [] []) } false
        | _, _, _ => s.finish c i (.of stHandle)

/-- XPOSE (R165). -/
def execXpose (c : CtxNo) (s : State) : Out := .next (s.copyCmd c 0x12)

/-- PERMUTE (R165). -/
def execPermute (c : CtxNo) (s : State) : Out := .next (s.copyCmd c 0x13)

end Sys2Proof.Machine
end

