-- ==== Sys2Proof/Machine/Protocol.lean ====
section
/-! DEFINITION. The command protocol (10, 19): admission, replies, event records, the registers of a context block, enabling,
parking, resuming, aborting and resetting a context. -/

namespace Sys2Proof.Machine

/-! ### Access to the register window (R362) -/

/-- Does the window take writes (R362)? -/
def State.windowOpen (s : State) : Bool := s.eng.step == 7 && s.pow.state != .retain

/-- Does it take writes to LOG_CTL, LOG_RD_IDX and LOG_SUMMARY (R362)? -/
def State.logOpen (s : State) : Bool :=
  decide (2 ≤ s.eng.step.toNat ∧ s.eng.step.toNat ≤ 7) && s.pow.state != .retain && s.pow.state != .off

/-- A context-block write was ignored: CTRL_IGN (R366, R367). -/
def State.ignored (s : State) (c : CtxNo) : State := s.modCtx c (fun x => { x with ctrlIgn := true })

/-! ### Admission (R194 to R196) -/

/-- May a command of opcode `op` be admitted next as far as the context's own earlier commands are concerned (R141, R192, R234, R251,
R252, R283)? -/
def State.admissionFree (s : State) (c : CtxNo) (op : Nat) : Bool :=
  !(s.ctx c).early && !(s.ctx c).cmds.any (fun m =>
    (m.phase.isQueued && m.img.isNone && (m.op == 0x10 || m.op == 0x38)) || (m.holdsLater c && m.op != 0x2B && !m.letsArm op))

/-- R24: no later command of any context is admitted while a TABLE_LOAD of a running context is being admitted. -/
def State.tableFree (s : State) (c : CtxNo) : Bool :=
  allCtx.all (fun d => d == c || (s.ctx d).state != .running || !(s.ctx d).cmds.any (fun m => m.phase.isQueued && m.op == 0x38))

/-- Entries a header's LENGTH states; a reserved LENGTH occupies one (R194). -/
def entryCount (p : BitVec 512) : Nat := if fld p 27 2 = 2 then 2 else 1

/-- R194: the first header check that fails. -/
def headerBad (c : CtxNo) (expSeq : Word) (p : BitVec 512) : Option Reply :=
  firstBad [
    (opcodes.contains (fld p 0 8), .bad 0), (fld p 24 3 == c.val, .bad 24), (fld p 27 2 == 1, .bad 27),
    (!bitAt p 11, .bad 11), (fld p 29 3 == 0, .bad 29), (fld p 64 64 == 0, .bad 64),
    (p.extractLsb' 32 32 == expSeq, .bad 32)]

/-- R196: the command a context admits, complete already when its header is malformed. -/
def admitted (c : CtxNo) (x : Context) (fmts : Vector Word 8) (p : BitVec 512) : Cmd :=
  { pkt := p, fmts := fmts, tabs := [], ringAt := x.cmdHead, tailAt := x.cmdTail, faults := 0, img := none
    phase := match headerBad c x.expSeq p with
      | some r => .finished r
      | none => .queued }

/-- Address of command entry `i` (R195). -/
def Context.entryAddr (x : Context) (i : Word) : Nat := (x.cmdBase.toNat + i.toNat % x.cmdDepth * 64) % 2 ^ 48

/-- Address of command entry CMD_HEAD. -/
def Context.cmdAddr (x : Context) : Nat := x.entryAddr x.cmdHead

/-- May the command processor read the context's next entry (R195, R196)? An event record that has its entry counts with those in use
(R200). A CKPT_ARM can be read where nothing else is admitted, and nothing while a bank of the queues is to be rewritten (R324, log 48). -/
def State.admissible (s : State) (c : CtxNo) : Bool :=
  let x := s.ctx c
  s.active c && decide (0 < dist32 x.cmdTail x.cmdHead) && decide (x.cmds.length < 64)
    && decide (x.cmds.length < x.evtFree) && s.admissionFree c 0x30 && s.tableFree c && !s.unitShut 4

/-- Every entry of the next command is read; the second one changes nothing, since no opcode takes two (R194, R195). -/
def State.readEntries (s : State) (c : CtxNo) (n : Nat) : Bool × State :=
  if n = 2 then s.ringReady c ((s.ctx c).entryAddr ((s.ctx c).cmdHead + 1)) false else (true, s)

/-- The next command is read, checked and admitted; EXP_SEQ advances whether or not it is malformed (R194). -/
def State.admitNext (s : State) (c : CtxNo) : State :=
  if !s.admissible c then s else
  let x := s.ctx c
  let r := s.ringReady c x.cmdAddr false
  if !r.1 then r.2 else
  let p : BitVec 512 := BitVec.ofNat 512 (s.peekLe c x.cmdAddr 64)
  let n := entryCount p
  if !s.admissionFree c (fld p 0 8) then r.2 else
  if dist32 x.cmdTail x.cmdHead < n then r.2 else
  let q := r.2.readEntries c n
  if !q.1 then q.2 else
  q.2.modCtx c (fun y => { y with
    cmdHead := y.cmdHead + BitVec.ofNat 32 n, expSeq := y.expSeq + 1, cmds := y.cmds ++ [admitted c y q.2.fmts p] })

/-- COMMAND_ADMISSION (R194, R196). -/
def execCommandAdmission (c : CtxNo) (s : State) : Out := .next (s.admitNext c)

/-! ### Status replies and event records (R197 to R200) -/

/-- The 32 bytes of a status reply (R197), PHASE aside. -/
def replyBits (c : CtxNo) (m : Cmd) (r : Reply) : BitVec 256 :=
  BitVec.ofNat 256 (packBits [(0, 9), (r.rng.toNat, 1), (c.val, 3), (0, 3), (r.status.toNat, 8), (m.op, 8), (m.seq.toNat, 32),
    (r.fieldSpace.toNat, 2), (r.fieldBit.toNat, 10), (0, 4), (r.entry.toNat, 16), (r.acc.toNat, 32), (r.result0.toNat, 32),
    (r.result1.toNat, 32), (r.lost.toNat, 32), (r.result2.toNat, 32)])

/-- May entries of the context be posted (R207, R330, R362)? -/
def State.posting (s : State) (c : CtxNo) : Bool := !s.mute c && !(s.ctx c).resetting && s.pow.state == .running

/-- The first command's reply is posted, in ring order; a QUIET success posts nothing (R198). While the context is parked its ADMITTED does
not change (R158). -/
def State.postReply (s : State) (c : CtxNo) : State :=
  if !s.posting c || (s.ctx c).state == .parked then s else
  match (s.ctx c).cmds with
  | [] => s
  | m :: rest =>
    match m.phase with
    | .finished r =>
      if !s.acked c m.seq then s
      else if m.bit 9 && r.status == 0 then s.modCtx c (fun x => { x with cmds := rest })
      else
        let q := s.ringReady c (s.ctx c).cplAddr true
        if !q.1 then q.2 else
        let s1 := (q.2.postEntry c (replyBits c m r)).modCtx c (fun x => { x with cmds := rest })
        if m.bit 8 || bitAt (s.ctx c).cfg 12 then s1.pulse (fld (s.ctx c).cfg 10 2) else s1
    | _ => s

/-- STATUS_REPLY (R198). -/
def execStatusReply (c : CtxNo) (s : State) : Out := .next (s.postReply c)

/-- The oldest held record is posted once an entry is free, or its page is translated when its entry is settled (R200). -/
def State.postHeld (s : State) (c : CtxNo) : State :=
  if !s.posting c then s else
  match (s.ctx c).held with
  | [] => s
  | r :: rest =>
    if r.room.isNone ∧ (s.ctx c).evtFree ≤ (s.ctx c).cmds.length then s else
    let q := s.ringReady c (s.ctx c).cplAddr true
    if !q.1 then q.2 else (q.2.modCtx c (fun x => { x with held := rest })).postEvent c r

/-- EVENT_RECORD (R200). -/
def execEventRecord (c : CtxNo) (s : State) : Out := .next (s.postHeld c)

/-! ### Stopping a context's lane work (R157, R207) -/

/-- Does a lane group hold an interval of the context? -/
def State.bankHeld (s : State) (c : CtxNo) : Bool := s.lane.intervals.any (fun it => it.ctx == c)

/-- The bank that is next in order drains, once the Clamp adders are free. -/
def State.drainNext (s : State) : State :=
  match s.lane.drains with
  | (g, _) :: _ => ({ s with lane := { s.lane with adders := 0 } }).drainGroup g
  | [] => s

/-- Full banks drain until none is the context's (at most `n` of them). -/
def State.drainOwn (c : CtxNo) : Nat → State → State
  | 0, s => s
  | n + 1, s => if s.bankHeld c then State.drainOwn c n s.drainNext else s

/-- The context's slice ends; its full banks drain on their own. -/
def State.dropSlice (s : State) (c : CtxNo) : State :=
  match s.lane.slice with
  | some r => if r.ctx = c then { s with lane := { s.lane with slice := none } } else s
  | none => s

/-- The context gives up its staging, channels, waits and outstanding translations; a guard read and ring accesses go on (R157). -/
def State.dropHolds (s : State) (c : CtxNo) : State :=
  { (s.unwaitAll c) with
    staging := s.staging.filter (fun p => p.2 % 8 != c.val || p.2 == benchUser), dovetail := s.dovetail.filter (fun x => x.1 != c)
    walks := s.walks.filter (fun w => w.ctx != c || w.ring || w.need.guard)
    ckpt := { s.ckpt with flights := s.ckpt.flights.filter (fun f => f.ctx != c || f.written) } }

/-- A command's started unit is given up: a row starts anew, a block is read again, and so is a freeze mask (R155, R157). -/
def Cmd.dropUnit (m : Cmd) : Cmd :=
  match m.phase with
  | .running (.copy u v (_ :: _)) => { m with phase := .running (.copy u v []) }
  | .running (.load k row _) => { m with phase := .running (.load k row none) }
  | .running (.store k row n f tab _) => { m with phase := .running (.store k row n f tab none) }
  | .running (.product j) => { m with phase := .running (.product { j with runs := j.runs.map (fun r => { r with begun := none, mask := none }) }) }
  | _ => m

/-- The context's units end: its slice is given up, its full banks drain, write phases run to their end, the rest is discarded (R157). -/
def State.settleUnits (s : State) (c : CtxNo) : State :=
  ((((State.drainOwn c 64 (s.dropSlice c)).endWrites c).dropHolds c).modCtx c
    (fun x => { x with xlats := [], wantUnit := none, wantPage := none, stream := none, cmds := x.cmds.map Cmd.dropUnit })).endOverrun c

/-- The context stops for good, until its reset; units already started finish as when it parks (R207). -/
def State.stopCtx (s : State) (c : CtxNo) : State := (s.settleUnits c).modCtx c (fun x => { x with state := .stopped })

/-! ### Registers of the context block (R195, R202, R366) -/

/-- R195: a doorbell with value v. -/
def State.ring (s : State) (c : CtxNo) (v : Word) : State :=
  let x := s.ctx c
  if x.cmdDepth < dist32 v x.cmdHead ∨ x.cmdDepth < dist32 v x.cmdTail then
    let s1 := (s.modCtx c (fun y => { y with doorbellErr := true })).logErr 0x09 2 0x8 (some c) (v.setWidth 64) 1
    if s.eng.doorbellStop then s1.stopCtx c else s1
  else s.modCtx c (fun y => { y with cmdTail := v })

/-- A write to CMD_TAIL (R366). -/
def State.writeTail (s : State) (c : CtxNo) (v : Word) : State :=
  if !s.windowOpen then s
  else if (s.ctx c).resetting then s.ignored c
  else match (s.ctx c).state with
    | .disabled => s.modCtx c (fun x => { x with cmdTail := v })
    | .stopped => s.ignored c
    | _ => s.ring c v

/-- DOORBELL (R195, R366). -/
def execDoorbell (c : CtxNo) (v : Word) (s : State) : Out := .next (s.writeTail c v)

/-- A write to CPL_HEAD (R366). -/
def State.writeHead (s : State) (c : CtxNo) (v : Word) : State :=
  if !s.windowOpen then s
  else if (s.ctx c).resetting then s.ignored c
  else match (s.ctx c).state with
    | .disabled => s.modCtx c (fun x => { x with cplHead := v })
    | .stopped => s.ignored c
    | _ =>
      let x := s.ctx c
      if dist32 x.cplTail v ≤ dist32 x.cplTail x.cplHead then s.modCtx c (fun y => { y with cplHead := v })
      else s.modCtx c (fun y => { y with headErr := true })

/-- CPL_HEAD (R366). -/
def execCplHead (c : CtxNo) (v : Word) (s : State) : Out := .next (s.writeHead c v)

/-- A write that only a DISABLED context takes; otherwise CFG_ERR (R202, R366). -/
def State.writeCfg (s : State) (c : CtxNo) (f : Context → Context) : State :=
  if !s.windowOpen then s
  else if (s.ctx c).resetting then s.ignored c
  else if (s.ctx c).state = .disabled then s.modCtx c f
  else s.modCtx c (fun x => { x with cfgErr := true })

/-- CTX_CFG (R202): reserved bits stay zero. -/
def execCtxCfg (c : CtxNo) (v : Word) (s : State) : Out := .next (s.writeCfg c (fun x => { x with cfg := v &&& 0xFFFF#32 }))

/-- R367: the enable conditions. -/
def Context.enableOk (x : Context) : Bool :=
  x.cmdBase.toNat % (64 * x.cmdDepth) == 0 && x.cplBase.toNat % (32 * x.cplDepth) == 0 && x.cplHead == x.cplTail
    && decide (dist32 x.cmdTail x.cmdHead ≤ x.cmdDepth)

/-- A CTX_CTRL write is taken: the window is open and no reset is in progress; otherwise it is ignored (R362, R366). -/
def State.control (s : State) (c : CtxNo) (ok : CtxState → Bool) (f : State) : State :=
  if !s.windowOpen then s
  else if (s.ctx c).resetting || !ok (s.ctx c).state then s.ignored c
  else f

/-- ENABLE (R367). -/
def execEnable (c : CtxNo) (s : State) : Out :=
  .next (s.control c (· == .disabled) (s.modCtx c (fun x =>
    if x.enableOk then { x with state := .running } else { x with cfgErr := true })))

/-! ### Parking (R157 to R159) -/

/-- R159: the payload of a PAGE_FAULT record. -/
def FaultRec.payload (f : FaultRec) : BitVec 128 :=
  BitVec.ofNat 128 (packBits [(f.vaddr, 48), (if f.noDesc then 0 else f.desc, 10), (f.write.toNat, 1), (f.perm.toNat, 1),
    (f.noDesc.toNat, 1), ((f.header && !f.noDesc).toNat, 1), (0, 2), (f.seq.toNat, 16), (if f.noDesc then 0 else f.stream, 3), (0, 13),
    (f.faults, 32)])

/-- The fault counted at its command, or at its guarded task (R159). -/
def Context.countFault (x : Context) (f : FaultRec) : Context × FaultRec :=
  if f.guard then
    match x.task with
    | some t =>
      match t.guard with
      | some g =>
        let n := min (g.faults + 1) 0xFFFFFFFF
        ({ x with task := some { t with guard := some { g with faults := n } } }, { f with faults := n })
      | none => (x, f)
    | none => (x, f)
  else
    match findAt (fun m => seq16 m.seq == f.seq) x.cmds 0 with
    | some (i, m) =>
      let n := min (m.faults + 1) 0xFFFFFFFF
      (x.setCmd i { m with faults := n }, { f with faults := n })
    | none => (x, { f with faults := 1 })

/-- A BARRIER WAIT that has timed out and polls while its context is parked (R190). -/
def Cmd.timedOut (m : Cmd) : Bool :=
  match m.phase with
  | .running (.waitCounter _ _ _ _ timed) => timed
  | _ => false

/-- Is the context parked by a WAIT's timeout, imported so or not (R190, R297)? -/
def Context.waitPark (x : Context) : Bool := x.state == .parked && x.cmds.any Cmd.timedOut

/-- Is a fault of the context waiting to park it? A WAIT that polls while parked by its timeout can fault too (R190). -/
def Context.mustPark (x : Context) : Bool := x.fault.isSome && !x.resetting && (x.state == .running || x.waitPark)

/-- Polling stops as the context parks with a fault (R190). -/
def Context.stopPolls (x : Context) : Context :=
  { x with cmds := x.cmds.map (fun m => match m.phase with
      | .running (.waitCounter v seen n ok _) => { m with phase := .running (.waitCounter v seen n ok false) }
      | _ => m) }

/-- R157: the context parks with its fault and posts one PAGE_FAULT record. -/
def State.park (s : State) (c : CtxNo) : State :=
  if !s.up || !(s.ctx c).mustPark then s else
  match (s.ctx c).fault with
  | none => s
  | some f0 =>
    let s0 := s.settleUnits c
    let s1 := { s0 with chains := s0.chains.map (fun (k : Chain) => k.mustLeave c 2) }
    let q := (s1.ctx c).countFault f0
    (s1.setCtx c { q.1.stopPolls with fault := some q.2, state := .parked, parkCause := 0 }).event c 0x01 q.2.payload

/-- PARK (R157). -/
def execPark (c : CtxNo) (s : State) : Out := .next (s.park c)

/-! ### Resume (R160, R190, R252) -/

/-- What RESUME does to a command: a satisfied WAIT completes, another counts its boundaries from zero; a gated product's
position is recomputed (R138). -/
def State.resumeCmd (s : State) (c : CtxNo) (i : Nat) : State :=
  match s.cmdAt c i with
  | none => s
  | some m =>
    match m.phase with
    | .running (.waitCounter v seen _ ok _) =>
      if ok then s.finish c i { Reply.ok with result0 := v.setWidth 32, result1 := (v.ushiftRight 32).setWidth 32 }
      else s.setPhase c i (.running (.waitCounter v seen 0 false false))
    | .running (.product j) =>
      match s.prod m j.dW with
      | some p => if j.tiles.isEmpty then s else s.resync c i m p j
      | none => s
    | _ => s

/-- RESUME: the faulting request is issued again, the context runs, its commands go on from their cursors. -/
def State.resumeCtx (s : State) (c : CtxNo) : State :=
  let x := s.ctx c
  let s1 := match x.fault with
    | some f => if f.guard || s.needOk c f then s else { s with walks := addWalk s.walks ⟨pageOf f.vaddr, c, false, false, f, 1⟩ }
    | none => s
  (List.range x.cmds.length).foldl (fun t i => t.resumeCmd c i) (s1.modCtx c (fun y => { y with state := .running, fault := none }))

/-- RESUME (R160). -/
def execResume (c : CtxNo) (s : State) : Out := .next (s.control c (· == .parked) (s.resumeCtx c))

/-! ### Abort (R160, R190) -/

/-- Slots that a product's tiles in progress hold; a resident tile whose record is still to be written holds none. -/
def ProdJob.held (j : ProdJob) : List Nat :=
  (j.runs.filter (fun r => r.phase != .fresh && !(r.resident && r.phase == .writeBack))).map (fun r => r.slot)

/-- A slot given up by a command that ends early: a transient one is freed, a resident one is HELD again. -/
def Slot.giveUp (x : Slot) : Slot := if x.resident then { x with state := .held } else x.release

/-- The slots of a product's tiles in progress are given up (R160). -/
def State.dropTiles (s : State) (j : ProdJob) : State := j.held.foldl (fun t k => t.modSlot k Slot.giveUp) s

/-- A window of a GATHER_ACC commits: its counts and flags join the command's (R177). -/
def GatherJob.commit (g : GatherJob) (w : GatherWin) : GatherJob :=
  { g with flying := g.flying.filter (fun x => x != w), neg := g.neg + w.neg, oob := g.oob + w.oob
           used := g.used + w.valid.toNat, acc := accSet g.acc w.flags }

/-- An ACCSTORE ended early: the slot HELD again or released, the header updated if rows were written (R160). -/
def State.abortStore (s : State) (c : CtxNo) (i : Nat) (m : Cmd) (k written flags : Nat) (tab : Option BoundTable) : State :=
  match s.storePlan m k tab none with
  | none => s.finish c i (.of stPageFault)
  | some w =>
    let acc := (s.slot k).acc
    s.storeEnd c i m w written (accSet acc flags) { Reply.of stPageFault with acc := acc, result0 := w32 written }

/-- The end of a GATHER_ACC: its table's header update, if it wrote, and its reply (R178). -/
def State.gatherEnd (s : State) (c : CtxNo) (i : Nat) (m : Cmd) (g : GatherJob) (status : Byte) : State :=
  let r : Reply := { Reply.of status with acc := g.acc, result0 := w32 g.neg, result1 := w32 g.oob, result2 := w32 g.used }
  match s.descAt (m.f 160 10) with
  | some d =>
    if d.hdrEn ∧ 0 < g.used then
      s.setPhase c i (.header { desc := m.f 160 10, stream := 2, add := true, count := g.used, flags := w32 (accFlags g.acc), wbs := g.used
                                zero := false } r)
    else s.finish c i r
  | none => s.finish c i r

/-- The windows in flight of an aborted GATHER_ACC finish: their writes were issued whole (R157, R177). -/
def State.commitFlying (s : State) (c : CtxNo) (g : GatherJob) : State × GatherJob :=
  let neg := (g.flying.map (fun w => w.neg)).foldl (· + ·) 0
  let oob := (g.flying.map (fun w => w.oob)).foldl (· + ·) 0
  (s.modCtx c (fun x => { x with idxNeg := satAdd x.idxNeg neg, idxOob := satAdd x.idxOob oob }), g.flying.foldl GatherJob.commit g)

/-- The command at place `i` ends with PAGE_FAULT, a timed-out WAIT with BARRIER_TIMEOUT; its committed units stand (R160, R190). A chained GRADX
that has not started is counted by its entry (R183). -/
def State.abortCmd (s : State) (c : CtxNo) (i : Nat) (m : Cmd) : State :=
  match m.phase with
  | .running (.product j) => (s.dropTiles j).productEnd c i m j stPageFault
  | .running (.load k _ _) =>
    let x := { s.slot k with state := .held }
    (s.setSlot k x).finish c i { Reply.of stPageFault with acc := x.acc, result0 := if m.bit 12 then w32 (x.handle k) else 0 }
  | .running (.store k _ written flags tab _) => s.abortStore c i m k written flags tab
  | .running (.waitCounter v _ _ _ timed) =>
    s.finish c i { Reply.of (if timed then stBarrierTimeout else stPageFault) with
                   result0 := v.setWidth 32, result1 := (v.ushiftRight 32).setWidth 32 }
  | .running (.gather g) => let q := s.commitFlying c g; q.1.gatherEnd c i m q.2 stPageFault
  | .running (.reduceRows _ acc _ _ _) => s.finish c i { Reply.of stPageFault with acc := acc }
  | .header u r =>
    if u.zero || (match (s.ctx c).fault with
        | some f => f.header && f.seq == seq16 m.seq
        | none => false) then s.finish c i { r with status := stPageFault }
    else s.setPhase c i (.header u { r with status := stPageFault })
  | _ => (if m.op = 2 ∧ m.chainNo ≠ 0 ∧ s.chainIdle m then s.finishChain (m.chainNo - 1) else s.keepGen c m).finish c i (.of stPageFault)

/-- A command in progress. -/
def Cmd.inProgress (m : Cmd) : Bool := m.phase.isRunning || m.owesHeader

/-- The command that a fault record names and that has not started. -/
def Context.faultQueued (x : Context) (f : FaultRec) (ops : List Nat) : Option (Nat × Cmd) :=
  findAt (fun m => m.phase.isQueued && ops.contains m.op && seq16 m.seq == f.seq) x.cmds 0

/-- The parked command that ABORT ends (R160, R190): the timed-out WAIT; a DESC_CREATE or TABLE_LOAD whose image read faulted, which
then is the head (R24, R141); else the first one in progress, also where a guard read faulted; or the one that faulted as it started. -/
def Context.abortTarget (x : Context) : Option (Nat × Cmd) :=
  if x.waitPark then findAt Cmd.timedOut x.cmds 0 else
  match x.fault with
  | none => findAt Cmd.inProgress x.cmds 0
  | some f =>
    if f.guard then findAt Cmd.inProgress x.cmds 0 else
    match x.faultQueued f [0x10, 0x38], findAt Cmd.inProgress x.cmds 0 with
    | some t, _ => some t
    | none, some t => some t
    | none, none => x.faultQueued f opcodes

/-- ABORT: the parked command ends, the context goes on with the next. After an early discard it acts as RESUME (R367). -/
def State.abortCtx (s : State) (c : CtxNo) : State :=
  let x := s.ctx c
  match (if x.parkCause = 2 then none else x.abortTarget) with
  | none => s.resumeCtx c
  | some (i, m) =>
    let s1 := s.abortCmd c i m
    (s1.modCtx c (fun y => { y with fault := none })).resumeCtx c

/-- ABORT (R160, R367). -/
def execAbort (c : CtxNo) (s : State) : Out :=
  .next (s.control c (· == .parked) (s.abortCtx c))

/-! ### Context reset (R207) -/

/-- A reset begins: admission stops and every started command stops at its cursor; the rest happens when the started units have
completed (R207). -/
def State.beginReset (s : State) (c : CtxNo) : State :=
  let s1 := s.settleUnits c
  ({ s1 with walks := s1.walks.filter (fun w => w.ctx != c) }).modCtx c (fun x => { x with resetting := true, fault := none })

/-- RESET (R207). -/
def execReset (c : CtxNo) (s : State) : Out := .next (s.control c (fun _ => true) (s.beginReset c))

/-- The journal header of an open task (R114), as a number. -/
def Task.header (t : Task) : Nat :=
  packBits [(t.used, 32), (t.capacity, 32), (t.entries, 32), (t.unguarded, 32), (t.part.toNat, 1), (0, 15), (t.firstSeq.toNat, 16),
    (t.first.kind, 4), (t.first.desc, 10), (0, 18), (t.first.row, 32), (t.first.col, 32)]

/-- The slots and touch-table entries of a task are given up as at its commit (R117). -/
def State.releaseTask (s : State) (c : CtxNo) : State :=
  let s1 := (List.range 48).foldl (fun t k => t.modSlot k (fun x =>
    if x.ctx = c ∧ x.state ≠ .free then (if x.state = .releasePending then { Slot.reset with gen := x.gen } else { x with touched := false })
    else x)) s
  { s1 with touch := s1.touch.filter (fun e => e.ctx != c) }.modCtx c (fun x => { x with task := none, early := false })

/-- The access of a journal's own bytes. -/
def Opnd.areaAcc (o : Opnd) (i n : Nat) : Acc := o.acc true false (o.byteSpans i n)

/-- The journal's area, read and written as bytes. -/
def State.journal (s : State) (t : Task) : Option Opnd := s.opnd s.fmts t.journal 0

/-- What the journal header of the context's open task demands of its page. -/
def State.headerNeeds (s : State) (c : CtxNo) : List FaultRec :=
  match (s.ctx c).task with
  | none => []
  | some t =>
    match s.journal t with
    | some o => let a := o.areaAcc 0 64; accNeeds a 0 (s.plan c a)
    | none => []

/-- The journal header written, if its page is present (R207). -/
def State.journalHeader (s : State) (c : CtxNo) (t : Task) : State :=
  match s.journal t with
  | none => s
  | some o =>
    let a := o.areaAcc 0 64
    if (accNeeds a 0 (s.plan c a)).all (s.needOk c) then s.putArea c (s.refusals c a) o 0 (leBytes 64 t.header) else s

/-- Slots of a context that are not resident are freed; an unfinished resident one is HELD again. -/
def State.freeTransient (s : State) (c : CtxNo) : State :=
  (List.range 48).foldl (fun t k => t.modSlot k (fun x =>
    if x.ctx = c ∧ x.state ≠ .free ∧ x.state ≠ .releasePending then x.giveUp else x)) s

/-- An ACCSTORE with RELEASE in progress made its handle invalid, so its slot is released with the reset (R109). -/
def State.dropStores (s : State) (c : CtxNo) : State :=
  (s.ctx c).cmds.foldl (fun t m => match m.phase with
    | .running (.store k _ _ _ _ _) => if m.bit 12 then t.storeRelease c k true else t
    | _ => t) s

/-- A chained command of the context is discarded: its entry detaches, and the chain re-forms (R183, R187). -/
def State.dropChain (c : CtxNo) (s : State) (e : Nat) : State :=
  match (s.chain e).job with
  | some (d, _) => if d = c then (s.setChain e ((s.chain e).mustLeave c 2)).finishChain e else s
  | none => s

/-- R207 steps 3 to 8. -/
def State.resetCtx (s : State) (c : CtxNo) : State :=
  let s0 := (List.range 4).foldl (State.dropChain c) ((s.ctx c).cmds.foldl (fun t m => t.keepGen c m) (s.dropStores c))
  let s1 := s0.freeTransient c
  let s2 := match (s1.ctx c).task with
    | some t => (s1.journalHeader c t).releaseTask c
    | none => s1
  let s3 := { s2 with locks := s2.locks.filter (fun l => l.ctx != c), walks := s2.walks.filter (fun w => w.ctx != c) }
  s3.modCtx c (fun x => { x with
    state := .disabled, resetting := false, ringFault := false, doorbellErr := false, cfgErr := false, ctrlIgn := false
    headErr := false, lost := 0, cmdHead := 0, cplTail := 0, expSeq := 0, eventSeq := 0, cmds := [], held := [], early := false
    xlats := [], fault := none, settled := false, overrunFrom := [], adj := 0, sumActual := 0, sumRaw := 0, unitsDone := 0, stream := none })

/-- The journal header's page is looked up before a reset completes: it is asked for until its walk finds it present or absent. -/
def State.headerLookup (s : State) (c : CtxNo) : Bool × State :=
  let ns := (s.headerNeeds c).filter (fun n => !s.needOk c n)
  if ns.isEmpty || (s.ctx c).fault.isSome then (true, s)
  else (false, { s with walks := ns.foldl (fun l n => addWalk l ⟨pageOf n.vaddr, c, false, false, n, 1⟩) s.walks })

/-- CONTEXT_RESET_COMPLETE (R207): once the last started unit of the context has completed. -/
def execContextResetComplete (c : CtxNo) (s : State) : Out :=
  .next (
    if !(s.ctx c).resetting || s.pow.state != .running || s.reqs.any (fun r => r.ctx == c) then s
    else
      let q := s.headerLookup c
      if q.1 then q.2.resetCtx c else q.2)

end Sys2Proof.Machine
end

