-- ==== Sys2Proof/Machine/Commands.lean ====
section
/-! DEFINITION. NOP, FENCE, BARRIER (09, 11), DESC_CREATE and DESC_FREE (07, 11). -/

namespace Sys2Proof.Machine

/-! ### NOP and FENCE (R192, R232) -/

/-- NOP (R232): no effect; its reply is posted in ring order. -/
def execNop (c : CtxNo) (s : State) : Out :=
  .next (match s.starting c 0x00 with
    | some (i, m) => s.finish c i (m.reservedBad.getD .ok)
    | none => s)

/-- FENCE (R192): completes once it is the first command of its context, every earlier reply posted. -/
def execFence (c : CtxNo) (s : State) : Out :=
  .next (match s.starting c 0x2C with
    | some (i, m) => if i = 0 then s.finish c i (m.reservedBad.getD .ok) else s
    | none => s)

/-! ### BARRIER (R189, R190) -/

/-- Counter address of a BARRIER. -/
def Cmd.counter (m : Cmd) : Nat := m.f 128 48

/-- R189: the checks of a BARRIER. -/
def State.barrierBad (s : State) (c : CtxNo) (m : Cmd) : Option Reply :=
  match m.reservedBad with
  | some r => some r
  | none => firstBad [(m.counter % 8 == 0, .bad 128), ((s.findRegion c m.counter (m.counter + 7) true true).isSome, .of stRegion)]

/-- What an access to the counter demands of its page (R159: through no descriptor). -/
def Cmd.counterNeed (m : Cmd) (write : Bool) : FaultRec :=
  { ringNeed m.counter write with read := true, seq := seq16 m.seq }

/-- The counter's reply fields (R232). -/
def counterReply (v : BitVec 64) : Reply :=
  { Reply.ok with result0 := v.setWidth 32, result1 := (v.ushiftRight 32).setWidth 32 }

/-- SIGNAL: after every earlier command has completed, INCREMENT is added once (R189). -/
def State.signal (s : State) (c : CtxNo) : State :=
  match s.starting c 0x2B with
  | none => s
  | some (i, m) =>
    if m.bit 12 || !s.earlierDone c i then s
    else match s.barrierBad c m with
      | some r => s.finish c i r
      | none =>
        let q := s.acquire c [m.counterNeed true]
        if !q.1 then q.2 else
        let v : BitVec 64 := BitVec.ofNat 64 (q.2.peekLe c m.counter 8) + m.pkt.extractLsb' 192 64
        (q.2.pokeN c m.counter (leBytes 8 v.toNat)).finish c i (counterReply v)

/-- BARRIER_SIGNAL (R189). -/
def execBarrierSignal (c : CtxNo) (s : State) : Out := .next (s.signal c)

/-- Is the counter at or past TARGET (R189)? -/
def reached (v target : BitVec 64) : Bool := !(v - target).msb

/-- One poll of the WAIT at place `i`: satisfied it completes, or waits for RESUME when its context is parked. `seen` is the EC of the first
read that found it unsatisfied (R190). -/
def State.poll (s : State) (c : CtxNo) (i : Nat) (m : Cmd) (seen : Option Nat) (n : Nat) (timed : Bool) : State :=
  let q := s.acquire c [m.counterNeed false]
  if !q.1 then q.2 else
  let ok := (s.findRegion c m.counter (m.counter + 7) true false).isSome
  let v : BitVec 64 := if ok then BitVec.ofNat 64 (q.2.peekLe c m.counter 8) else 0
  let s1 := (if ok then q.2 else q.2.countOob c 1).unpin c
  if reached v (m.pkt.extractLsb' 192 64) then
    if (s.ctx c).state = .parked then s1.setPhase c i (.running (.waitCounter v seen n true timed))
    else s1.finish c i (counterReply v)
  else s1.setPhase c i (.running (.waitCounter v (some (seen.getD s.now)) (if seen.isSome then n else 0) false timed))

/-- WAIT: its checks and its first read, which sees what earlier commands write (R189, R203). -/
def State.startWait (s : State) (c : CtxNo) : State :=
  match s.starting c 0x2B with
  | none => s
  | some (i, m) =>
    if !m.bit 12 then s
    else match s.barrierBad c m with
      | some r => s.finish c i r
      | none =>
        if !s.readFree c i m.counter 8 then s
        else (s.setPhase c i (.running (.waitCounter 0 none 0 false false))).poll c i m none 0 false

/-- BARRIER_WAIT (R189). -/
def execBarrierWait (c : CtxNo) (s : State) : Out := .next (s.startWait c)

/-- The WAIT in progress of a context. -/
def Context.waiting (x : Context) : Option (Nat × Cmd × BitVec 64 × Option Nat × Nat × Bool × Bool) :=
  match findAt (fun m => match m.phase with
      | .running (.waitCounter _ _ _ _ _) => true
      | _ => false) x.cmds 0 with
  | some (i, m) =>
    match m.phase with
    | .running (.waitCounter v seen n ok timed) => some (i, m, v, seen, n, ok, timed)
    | _ => none
  | none => none

/-- BARRIER_POLL (R189, R190): polling goes on while the context is parked by its timeout. -/
def execBarrierPoll (c : CtxNo) (s : State) : Out :=
  .next (
    let x := s.ctx c
    if !s.up || x.resetting || x.fault.isSome then s else
    match x.waiting with
    | some (i, m, _, seen, n, ok, timed) =>
      if x.state == .running || (x.waitPark && !ok) then s.poll c i m seen n timed else s
    | none => s)

/-- BARRIER_TIMEOUT payload (R201). -/
def timeoutPayload (v : BitVec 64) (seq : BitVec 16) : BitVec 128 := BitVec.ofNat 128 (v.toNat + seq.toNat * 2 ^ 64)

/-- BARRIER_TIMEOUT (R190): TIMEOUT boundaries counted and the WAIT unsatisfied. -/
def execBarrierTimeout (c : CtxNo) (s : State) : Out :=
  .next (
    if !s.active c then s else
    match (s.ctx c).waiting with
    | some (i, m, v, seen, n, _, _) =>
      if m.f 176 16 ≠ 0 ∧ m.f 176 16 ≤ n then
        let s1 := (s.settleUnits c).setPhase c i (.running (.waitCounter v seen n false true))
        (s1.modCtx c (fun y => { y with state := .parked, parkCause := 1 })).event c 0x02 (timeoutPayload v (seq16 m.seq))
      else s
    | none => s)

/-! ### DESC_CREATE (R141, R145, R225) -/

/-- The lowest-numbered free descriptor entry, from `i`, `n` entries looked at. -/
def State.freeDesc (s : State) (i : Nat) : Nat → Option Nat
  | 0 => none
  | n + 1 => if (s.descAt i).isNone then some i else s.freeDesc (i + 1) n

/-- Check 2 of R145 as (holds, named bit). -/
def imageChecks (d : Desc) : List (Bool × Nat) :=
  [(decide (1 ≤ d.ndim ∧ d.ndim ≤ 6), 52), (d.canRead || d.canWrite, 56), (fld d.image 55 1 == 0, 55), (fld d.image 59 5 == 0, 59),
    (fld d.image 96 32 == 0, 96), (fld d.image 176 80 == 0, 176)]
  ++ (List.range 6).map (fun k => (fld d.image (328 + 128 * k) 56 == 0, 328 + 128 * k))
  ++ [(d.hdrEn || fld d.image 128 48 == 0, 128)]
  ++ (upFrom d.ndim (6 - d.ndim)).flatMap (fun k =>
      [(d.size k == 0, 256 + 128 * k), (fld d.image (288 + 128 * k) 40 == 0, 288 + 128 * k)])

/-- Check 4: the dimension at which the running product first exceeds 2^48. -/
def overDim (size : Nat → Nat) : List Nat → Nat → Option Nat
  | [], _ => none
  | k :: t, p => if 2 ^ 48 < p * size k then some k else overDim size t (p * size k)

/-- Insert by ascending stride magnitude, ties by ascending dimension. -/
def insertDim (st : Nat → Nat) (k : Nat) : List Nat → List Nat
  | [] => [k]
  | a :: t => if st k < st a then k :: a :: t else a :: insertDim st k t

/-- Check 9: the first dimension whose stride is below the span of those before it. -/
def overlapDim (st size : Nat → Nat) : List Nat → Nat → Option Nat
  | [], _ => none
  | k :: t, span => if st k < span then some k else overlapDim st size t (span + st k * (size k - 1))

/-- R145 check 9: the dimension that fails, if any. -/
def Desc.shares (d : Desc) (e : Word) : Option Nat :=
  let st (k : Nat) := (d.stride k).natAbs
  let dims := ((d.strided e).filter (fun k => decide (1 < d.size k))).foldl (fun l k => insertDim st k l) []
  overlapDim st d.size dims (d.rowUnit e)

/-- R145: the first failing check of a descriptor image, with the format table as its command bound it. -/
def State.imageBad (s : State) (c : CtxNo) (fmts : Vector Word 8) (d : Desc) : Option Reply :=
  let e := fmtEntry fmts d.format
  let bad (b : Nat) : Reply := .badDesc b 0xFFFF
  let fp := d.footprint e
  let w := fmtBits e / 8
  firstBad (
    [((s.freeDesc 0 1024).isSome, .of stNoDesc)] ++ (imageChecks d).map (fun x => (x.1, bad x.2))
    ++ d.dims.map (fun k => (d.size k != 0, bad (256 + 128 * k)))
    ++ [match overDim d.size d.dims 1 with
        | some k => (false, bad (256 + 128 * k))
        | none => (true, .ok),
      (fmtValid e, bad 48)]
    ++ (if fmtWidth e = 0 then [(fld d.image 288 40 == 0, bad 288)]
        else (d.base % w == 0, bad 0) :: d.dims.map (fun k => (d.stride k % (w : Int) == 0, bad (288 + 128 * k))))
    ++ [(decide (0 ≤ fp.1 ∧ fp.2 < 2 ^ 48), bad 0),
      ((s.findRegion c fp.1.toNat fp.2.toNat d.canRead d.canWrite).isSome, .of stRegion),
      match (if d.canWrite then d.shares e else none) with
        | some k => (false, bad (288 + 128 * k))
        | none => (true, .ok),
      (!d.hdrEn || d.format == 6 || d.format == 7, bad 48), (!d.hdrEn || d.hdrAddr % 16 == 0, bad 128),
      (!d.hdrEn || decide ((d.hdrAddr + 15 : Int) < fp.1 ∨ fp.2 < (d.hdrAddr : Int)), bad 128),
      (!d.hdrEn || (s.findRegion c d.hdrAddr (d.hdrAddr + 15) true true).isSome, .of stRegion),
      ((decide (d.qaxis < d.ndim) || d.qaxis == 7) && d.qaxis != 6 && fld d.image 84 12 == 0, bad 64)])

/-- The entry a good image makes. -/
def State.newDesc (s : State) (c : CtxNo) (fmts : Vector Word 8) (img : BitVec 1024) : Desc :=
  let d : Desc := ⟨img, c, 0, 0, 0, 0⟩
  let fp := d.footprint (fmtEntry fmts d.format)
  { d with
    region := (s.findRegion c fp.1.toNat fp.2.toNat d.canRead d.canWrite).getD 0
    hdrRegion := (s.findRegion c d.hdrAddr (d.hdrAddr + 15) true true).getD 0
    lo := fp.1.toNat, hi := fp.2.toNat }

/-- What a read of an image demands of a page: through no descriptor (log 21). -/
def imageNeeds (va n : Nat) (seq : Word) : List FaultRec :=
  (upFrom (pageOf va) (pageOf (va + n - 1) - pageOf va + 1)).map (fun p =>
    { ringNeed (if p = pageOf va then va else p * 65536) false with seq := seq16 seq })

/-- An image is read: its pages translated, its read requests holding slots (R148); true when it is so. -/
def State.readImageRaw (s : State) (c : CtxNo) (seq : Word) (va n : Nat) : Bool × State :=
  let q := s.acquire c (imageNeeds va n seq)
  if !q.1 then q else q.2.takeRaw c seq .demand (q.2.rawReads c seq .demand va n)

/-- DESC_CREATE: its image is read, once, as part of its admission (R141), after earlier commands have written it (R203). -/
def State.fetchDesc (s : State) (c : CtxNo) : State :=
  match s.atAdmission c 0x10 with
  | none => s
  | some (i, m) =>
    let va := m.f 128 48
    match m.reservedBad with
    | some r => s.finish c i r
    | none =>
      if va % 128 ≠ 0 then s.finish c i (.bad 128)
      else if (s.findRegion c va (va + 127) true false).isNone then s.finish c i (.of stRegion)
      else if !s.readFree c i va 128 then s
      else
        let q := s.readImageRaw c m.seq va 128
        if !q.1 then q.2 else
        (q.2.modCtx c (fun x => x.setCmd i { m with img := some (BitVec.ofNat 1024 (q.2.peekLe c va 128)) })).unpin c

/-- DESC_CREATE starts in ring order (R203): its image is checked and the entry made. -/
def State.makeDesc (s : State) (c : CtxNo) : State :=
  match s.starting c 0x10 with
  | none => s
  | some (i, m) =>
    match m.img with
    | none => s
    | some img =>
      let d := s.newDesc c m.fmts img
      match s.imageBad c m.fmts d, s.freeDesc 0 1024 with
      | some r, _ => s.finish c i r
      | none, none => s.finish c i (.of stNoDesc)
      | none, some k => ({ s with descs := s.descs ++ [(k, d)] }).finish c i { Reply.ok with result0 := w32 (s.handleOf k) }

/-- DESC_CREATE: the image read, then the entry made. -/
def State.createDesc (s : State) (c : CtxNo) : State := (s.fetchDesc c).makeDesc c

/-- DESC_CREATE (R145). -/
def execDescCreate (c : CtxNo) (s : State) : Out := .next (s.createDesc c)

/-! ### DESC_FREE (R118, R146) -/

/-- R118: is the descriptor in use? -/
def State.descInUse (s : State) (k : Nat) : Bool :=
  allCtx.any (fun c => match (s.ctx c).task with
    | some t => t.journal == k
    | none => false)
  || s.touch.any (fun e => e.unit.desc == k)
  || s.slots.toList.any (fun x => x.resident && x.state != .free && x.desc == k)

/-- DESC_FREE: after every earlier command, the entry is freed and its generation advances (R146). -/
def State.freeDescCmd (s : State) (c : CtxNo) : State :=
  match s.starting c 0x11 with
  | none => s
  | some (i, m) =>
    if !s.earlierDone c i then s
    else match s.handle c (m.f 128 16), m.reservedBad with
      | none, _ => s.finish c i (.of stHandle)
      | some _, some r => s.finish c i r
      | some _, none =>
        let k := m.f 128 10
        if s.descInUse k then s.finish c i (.of stDescInUse)
        else
          ({ s with descs := s.descs.filter (fun p => p.1 != k)
                    descGen := Tbl.put 0 s.descGen k (Tbl.get 0 s.descGen k + 1) }).finish c i .ok

/-- DESC_FREE (R146). -/
def execDescFree (c : CtxNo) (s : State) : Out := .next (s.freeDescCmd c)

end Sys2Proof.Machine
end

