-- ==== Sys2Proof/Machine/Quant.lean ====
section
/-! DEFINITION. QSTAT and QCAL (06, 11). -/

namespace Sys2Proof.Machine

/-- R228: a table a QSTAT or QCAL names must be valid and owned; `bit` is the packet field. -/
def State.statTableBad (s : State) (c : CtxNo) (t bit : Nat) : Option Reply :=
  let x := s.rt t
  if x.owner.isSome ∧ x.owner ≠ some c then some (.of stTableOwner)
  else if x.owner = none ∨ ¬ rtValid x.hdr then some (.bad bit)
  else none

/-- The bank of a table emptied (R132); NAN_COUNT stays (log 27). -/
def RescaleTable.clearBank (t : RescaleTable) : RescaleTable := { t with ranges := [] }

/-- The clip counters and the window of a table cleared (R123, R134). -/
def RescaleTable.clearCounts (t : RescaleTable) : RescaleTable :=
  { t with conv := 0, clipLow := 0, clipHigh := 0, winConv := 0, winClips := 0, drift := 0 }

/-! ### QSTAT (R134) -/

/-- The QSTAT record, as a number. -/
def RescaleTable.statRecord (t : RescaleTable) : Nat :=
  packBits [(t.conv.toNat, 48), (t.drift.toNat, 16), (t.clipLow.toNat, 40), (t.clipHigh.toNat, 40), (t.winConv, 20), (t.winClips, 21),
    (0, 7), (t.nanCount.toNat, 32), (t.ranges.length, 13), (0, 19), (t.hdr.toNat, 256)]

/-- The 32,768 bytes of a bank: minimum then maximum of each channel. -/
def RescaleTable.bankBytes (t : RescaleTable) : List Byte :=
  (List.range 4096).flatMap (fun ch => leBytes 8 (Tbl.get emptyRange t.ranges ch).toNat)

/-- R228, R212: the checks of a QSTAT after its handles. -/
def State.qstatBad (s : State) (c : CtxNo) (m : Cmd) (recd : Opnd) (rng : Option Opnd) : Option Reply :=
  match m.reservedBad, s.statTableBad c (m.f 128 3) 128 with
  | some r, _ => some r
  | none, some r => some r
  | none, none =>
    firstBad [(recd.areaOk 64 && recd.desc.canWrite, .bad 144), (optOk rng (fun o => o.areaOk 32768 && o.desc.canWrite), .bad 160)]

/-- QSTAT: the record, the bank with RANGES, then the clears (R134). -/
def State.qstat (s : State) (c : CtxNo) : State :=
  match s.starting c 0x18 with
  | none => s
  | some (i, m) =>
    if !s.noConflict c i m then s
    else if (s.handle c (m.f 144 16)).isNone || (m.bit 13 && (s.handle c (m.f 160 16)).isNone) then s.finish c i (.of stHandle)
    else
      let rng := if m.bit 13 then s.opnd m.fmts (m.f 160 16) 1 else none
      match s.opnd m.fmts (m.f 144 16) 0 with
      | none => s.finish c i (.of stHandle)
      | some recd =>
        match s.qstatBad c m recd rng with
        | some r => s.finish c i r
        | none =>
          let as := recd.acc true false (recd.byteSpans 0 64) ::
            (match rng with
             | some o => [o.acc true false (o.byteSpans 0 32768)]
             | none => [])
          let q := s.openWrites c m.seq as
          if !q.1 then q.2 else
          let t := m.f 128 3
          let s1 := q.2.windowEnd t
          let s2 := s1.putArea c (s1.refusals c (recd.acc true false (recd.byteSpans 0 64))) recd 0 (leBytes 64 (s1.rt t).statRecord)
          let s3 := match rng with
            | some o => s2.putArea c (s2.refusals c (o.acc true false (o.byteSpans 0 32768))) o 0 (s1.rt t).bankBytes
            | none => s2
          let s4 := if m.bit 12 then s3.setRt t { (s3.rt t).clearCounts.clearBank with nanCount := 0 } else s3
          (s4.closeUnit c m.seq as).finish c i .ok

/-- QSTAT (R134). -/
def execQstat (c : CtxNo) (s : State) : Out := .next (s.qstat c)

/-! ### QCAL (R133) -/

/-- What QCAL makes of one channel. -/
inductive Cal where
  | infinite
  | constant (scale : Word) (zp : Nat)
  | range (scale : Word) (zp : Nat) (low : Bool)
  deriving DecidableEq, Repr

/-- 2^-126 in FP32. -/
def minScale : Word := 0x00800000

/-- R133, for a channel that is not empty: its minimum and maximum, for codes of n bits. -/
def calibrate (n : Nat) (mn mx : Word) : Cal :=
  let a := ofF32 mn
  let b := ofF32 mx
  let top := 2 ^ n - 1
  if a = .inf true ∨ b = .inf false then .infinite
  else if !(a.lt b) then
    if a.isZero then .constant 0x3F800000 0
    else if a.lt (.fin false 0 0) then .constant (toF32 a.neg).1 top
    else .constant mn 0
  else
    let lo := if a.lt (.fin false 0 0) then a else .fin false 0 0
    let hi := if (Num.fin false 0 0).lt b then b else .fin false 0 0
    match hi.add lo.neg with
    | .fin _ m e =>
      let q := (fmtFP32.roundRat false m top e).1
      let low := q.lt (ofF32 minScale)
      let sc := if low then minScale else BitVec.ofNat 32 (fmtFP32.encode q).1
      let z := match lo, ofF32 sc with
        | .fin _ lm le, .fin _ sm se => if sm = 0 then 0 else roundHalfUp lm sm (le - se)
        | _, _ => 0
      .range sc (min top z) low
    | _ => .infinite

/-- Counts of a QCAL: updated, constant, infinite, low, highest updated entry plus one. -/
structure CalCounts where
  updated : Nat
  constant : Nat
  infinite : Nat
  low : Nat
  top : Nat
  deriving DecidableEq, Repr

/-- One channel of the bank calibrated into the table's entries. -/
def calStep (n : Nat) (p : Tbl (BitVec 64) × CalCounts) (x : Nat × BitVec 64) : Tbl (BitVec 64) × CalCounts :=
  let put (scale : Word) (z : Nat) (const : Bool) : Tbl (BitVec 64) :=
    Tbl.put 0 p.1 x.1 (BitVec.ofNat 64 (packBits [(scale.toNat, 32), (z, 8), (const.toNat, 1)]))
  let k := p.2
  match calibrate n (x.2.extractLsb' 0 32) (x.2.extractLsb' 32 32) with
  | .infinite => (p.1, { k with infinite := k.infinite + 1 })
  | .constant sc z => (put sc z true, { k with updated := k.updated + 1, constant := k.constant + 1, top := max k.top (x.1 + 1) })
  | .range sc z low =>
    (put sc z false, { k with updated := k.updated + 1, low := if low then k.low + 1 else k.low, top := max k.top (x.1 + 1) })

/-- QCAL of bank b into table t (R133, R228). -/
def State.qcal (s : State) (c : CtxNo) : State :=
  match s.starting c 0x19 with
  | none => s
  | some (i, m) =>
    if !s.noConflict c i m then s
    else
      let b := m.f 128 3
      let t := m.f 131 3
      match m.reservedBad, s.statTableBad c b 128, s.statTableBad c t 131 with
      | some r, _, _ => s.finish c i r
      | none, some r, _ => s.finish c i r
      | none, none, some r => s.finish c i r
      | none, none, none =>
        let code := m.f 134 1
        let bank := (s.rt b).ranges
        let x := s.rt t
        let r := bank.foldl (calStep (if code = 0 then 8 else 4)) (x.entries, ⟨0, 0, 0, 0, 0⟩)
        let hdr := setFld (setFld x.hdr 1 1 code) 16 13 (max (rtChannels x.hdr) r.2.top)
        let s1 := s.setRt t { x with hdr := hdr, entries := r.1 }
        let s2 := if m.bit 12 then s1.setRt b (s1.rt b).clearBank else s1
        s2.finish c i { Reply.ok with
          result0 := w32 (r.2.updated + r.2.constant * 2 ^ 16)
          result1 := w32 (4096 - bank.length + r.2.infinite * 2 ^ 16)
          result2 := w32 r.2.low }

/-- QCAL (R133). -/
def execQcal (c : CtxNo) (s : State) : Out := .next (s.qcal c)

end Sys2Proof.Machine
end

