-- ==== Sys2Proof/Machine/Tables.lean ====
section
/-! DEFINITION. TABLE_LOAD (11): images of the format, rescale, ramp, risk, stall-cause and priority tables and their checks. -/

namespace Sys2Proof.Machine

/-- Checks of one table entry as (holds, bit named), turned into replies. -/
def entryChecks (entry : Nat) (l : List (Bool × Nat)) : List (Bool × Reply) := l.map (fun x => (x.1, .badTable entry x.2))

/-- R23: the checks of a custom format entry, number 8 to 15. -/
def formatChecks (k : Nat) (e : Word) : List (Bool × Reply) :=
  let x := fld e 4 4
  let m := fld e 8 5
  let total := 1 + x + m
  let c : List (Bool × Nat) := [
    (fmtClass e == 1, 1), (decide (2 ≤ x ∧ x ≤ 5), 4), (decide (m ≤ 3), 8), (decide (4 ≤ total ∧ total ≤ 8), 8),
    (fmtWidth e == (if total = 4 then 0 else 1), 24), (decide (1 ≤ fld e 16 8 ∧ fld e 16 8 ≤ 31), 16), (fld e 14 2 != 3, 14),
    (fmtOperand e, 27), (!fmtOutput e, 28), (fld e 3 1 == 0, 3), (fld e 29 3 == 0, 29)]
  if fmtValid e then entryChecks k c else []

/-- Word `k` of an image. -/
def imageWord {w : Nat} (img : BitVec w) (k : Nat) : Word := img.extractLsb' (32 * k) 32

/-- R22, R23: the format table's image. -/
def formatBad (img : BitVec 256) : Option Reply := firstBad ((List.range 8).flatMap (fun k => formatChecks (8 + k) (imageWord img k)))

/-- R123: one rescale entry. -/
def rescaleChecks (code k : Nat) (e : BitVec 64) : List (Bool × Reply) :=
  entryChecks k [(decide (1 ≤ fld e 23 8 ∧ fld e 23 8 ≤ 254) && !bitAt e 31, 0), (decide (fld e 32 8 ≤ (if code = 0 then 255 else 15)), 32),
    (fld e 41 23 == 0, 41)]

/-- R123: a rescale image with VALID = 1; `n` entries by its length. -/
def rescaleBad (hdr : BitVec 512) (n : Nat) (entries : List (BitVec 64)) : Option Reply :=
  firstBad (
    entryChecks 0xFFFF [(decide (1 ≤ rtChannels hdr ∧ rtChannels hdr ≤ 4096), 16)]
    ++ [(n == rtChannels hdr, .bad 192)]
    ++ entryChecks 0xFFFF [(fld hdr 2 14 == 0, 2), (fld hdr 29 3 == 0, 29), (fld hdr 52 460 == 0, 52)]
    ++ (List.zip (List.range entries.length) entries).flatMap (fun x => rescaleChecks (rtCode hdr) x.1 x.2))

/-- Curve points of a ramp curve. -/
def curvePoint (cv : BitVec 256) (k : Nat) : Nat := fld cv (32 + 8 * k) 8

/-- R310: one ramp curve, entry k with awake level L. -/
def curveChecks (k lvl : Nat) (cv : BitVec 256) : List (Bool × Reply) :=
  let st := fld cv 0 16
  let prev (j : Nat) : Nat := if j = 0 then 0 else curvePoint cv (j - 1)
  entryChecks k (
    [(st % 16 == 0 && decide (64 ≤ st ∧ st ≤ 4096), 0)]
    ++ (List.range 16).map (fun j => (decide (prev j ≤ curvePoint cv j), 32 + 8 * j))
    ++ [(curvePoint cv 15 == 255, 152)]
    ++ (List.range 16).map (fun j => (decide (16 * lvl * (curvePoint cv j - prev j) ≤ 5100 * st), 32 + 8 * j)))

/-- R310: the ramp table's image. Which of several failing checks the reply names is log 42. -/
def rampBad (img : BitVec 640) : Option Reply :=
  let a : BitVec 256 := img.extractLsb' 128 256
  let b : BitVec 256 := img.extractLsb' 384 256
  firstBad (
    curveChecks 0 1250 a ++ curveChecks 1 1500 b
    ++ entryChecks 0xFFFF [(decide (13 ≤ fld img 16 8), 16), (decide (64 ≤ fld img 0 16), 0), (fld img 24 104 == 0, 24)]
    ++ entryChecks 0 [(fld a 16 16 == 0, 16), (fld a 160 96 == 0, 160)]
    ++ entryChecks 1 [(fld b 16 16 == 0, 16), (fld b 160 96 == 0, 160)])

/-- R291: the risk table's image. -/
def riskBad (img : BitVec 640) : Option Reply :=
  firstBad (entryChecks 0xFFFF [(fld img 40 88 == 0, 40)] ++ (List.range 4).flatMap (fun i =>
    let b := 128 + 128 * i
    entryChecks i ([1, 2, 3].map (fun k => (decide (fld img (b + 16 * (k - 1)) 16 ≤ fld img (b + 16 * k) 16), 16 * k))
      ++ [(fld img (b + 104) 24 == 0, 104)])))

/-- R344: the stall-cause map's image. -/
def stallBad (img : BitVec 128) : Option Reply :=
  firstBad ((List.range 16).flatMap (fun k =>
    entryChecks k [(fld img (8 * k + 4) 4 == 0, 4), ((List.range k).all (fun j => fld img (8 * j) 4 != fld img (8 * k) 4), 0)]))

/-- R205: the priority table's image. -/
def prioBad (img : BitVec 128) : Option Reply :=
  firstBad ((List.range 8).flatMap (fun k => entryChecks k [(fld img (16 * k + 12) 4 == 0, 12)]))

/-- A custom entry as it is stored: reserved bits read as zero (R22). -/
def formatStored (e : Word) : Word := setFld (setFld e 3 1 0) 29 3 0

/-- Is the length right for the table (R234)? -/
def tableLenOk (id n : Nat) : Bool :=
  match id with
  | 0x0 => n == 32
  | 0x9 => n == 80
  | 0xA => n == 80
  | 0xB => n == 16
  | 0xC => n == 16
  | _ => decide (72 ≤ n ∧ n ≤ 64 + 8 * 4096) && n % 8 == 0

/-- A rescale table after an accepted load (R123). -/
def RescaleTable.load (t : RescaleTable) (c : CtxNo) (hdr : BitVec 512) (entries : List (BitVec 64)) : RescaleTable :=
  { t.clearCounts.clearBank with
    hdr := hdr, owner := some c, windows := 0
    entries := (List.zip (List.range entries.length) entries).foldl (fun l x => Tbl.put 0 l x.1 x.2) t.entries }

/-- A rescale image installed, refused, or the table released (R123). The owner is checked first, and a release of a table that nobody owns
changes nothing (log 68). -/
def State.loadRescale (s : State) (c : CtxNo) (t : Nat) (img : BitVec 263168) (n : Nat) : Option Reply × State :=
  let hdr : BitVec 512 := img.extractLsb' 0 512
  let entries := (List.range n).map (fun k => img.extractLsb' (512 + 64 * k) 64)
  let x := s.rt t
  if x.owner.isSome ∧ x.owner ≠ some c then (some (.of stTableOwner), s)
  else if !rtValid hdr then
    (none, if x.owner = some c then s.setRt t { x with owner := none, hdr := setFld x.hdr 0 1 0 } else s)
  else match rescaleBad hdr n entries with
    | some r => (some r, s)
    | none => (none, s.setRt t (x.load c hdr entries))

/-- An image checked and installed (R24): the reply of a refusal, and the state after. -/
def State.install (s : State) (c : CtxNo) (id n img : Nat) : Option Reply × State :=
  match id with
  | 0x0 =>
    let i : BitVec 256 := BitVec.ofNat 256 img
    match formatBad i with
    | some r => (some r, s)
    | none => (none, { s with fmts := Vector.ofFn (fun (k : Fin 8) => formatStored (imageWord i k.val)) })
  | 0x9 =>
    match rampBad (BitVec.ofNat 640 img) with
    | some r => (some r, s)
    | none => (none, { s with rampNext := some (BitVec.ofNat 640 img) })
  | 0xA =>
    match riskBad (BitVec.ofNat 640 img) with
    | some r => (some r, s)
    | none => (none, { s with riskTab := BitVec.ofNat 640 img, risk := { s.risk with counts := Vector.replicate 4 0, ticks := 0 } })
  | 0xB =>
    let i : BitVec 128 := BitVec.ofNat 128 img
    match stallBad i with
    | some r => (some r, s)
    | none => (none, { s with stallMap := Vector.ofFn (fun (k : Fin 16) => i.extractLsb' (8 * k.val) 4) })
  | 0xC =>
    let i : BitVec 128 := BitVec.ofNat 128 img
    match prioBad i with
    | some r => (some r, s)
    | none => (none, { s with prioNext := some (Vector.ofFn (fun (k : Fin 8) => i.extractLsb' (16 * k.val) 16)) })
  | t => s.loadRescale c (t - 1) (BitVec.ofNat 263168 img) ((n - 64) / 8)

/-- R234: the checks of a TABLE_LOAD before its image is read. -/
def State.tableBad (s : State) (c : CtxNo) (m : Cmd) : Option Reply :=
  let id := m.f 128 4
  let va := m.f 144 48
  let n := m.f 192 32
  if (id = 0x9 ∨ id = 0xA) ∧ ¬ s.secureCtx c then some (.of stDenied)
  else match m.reservedBad with
    | some r => some r
    | none => firstBad [(decide (id ≤ 0xC), .bad 128), (va % 32 == 0, .bad 144), (tableLenOk id n, .bad 192),
        (decide (va + n ≤ 2 ^ 48) && (s.findRegion c va (va + n - 1) true false).isSome, .of stRegion)]

/-- Commands of the context that have not started keep table `t` as they bound it (R124). -/
def State.keepBound (s : State) (c : CtxNo) (t i : Nat) : State :=
  let b := s.bindTable c t
  s.modCtx c (fun x => { x with cmds := (x.cmds.take i).map (fun m =>
      if m.phase.isQueued && !m.tabs.any (fun k => k.number == b.number) then { m with tabs := m.tabs ++ [b] } else m) ++ x.cmds.drop i })

/-- TABLE_LOAD acts at its own admission (R24); a rescale table's load waits for earlier QCALs and QSTATs that name the table
(R133, R134), and earlier commands keep the entries they bound (R124). -/
def State.tableLoad (s : State) (c : CtxNo) : State :=
  match s.atAdmission c 0x38 with
  | none => s
  | some (i, m) =>
    let id := m.f 128 4
    let rescale := decide (1 ≤ id ∧ id ≤ 8)
    if rescale && ((s.ctx c).cmds.take i).any (fun k => !s.cmdDone c k && k.statTables.contains (id - 1)) then s
    else if !s.readFree c i (m.f 144 48) (m.f 192 32) then s
    else match s.tableBad c m with
      | some r => s.finish c i r
      | none =>
        let q := s.readImageRaw c m.seq (m.f 144 48) (m.f 192 32)
        if !q.1 then q.2 else
        let q2 := if rescale then q.2.keepBound c (id - 1) i else q.2
        let r := q2.install c id (m.f 192 32) (q2.peekLe c (m.f 144 48) (m.f 192 32))
        r.2.finish c i (r.1.getD .ok)

/-- TABLE_LOAD (R234). -/
def execTableLoad (c : CtxNo) (s : State) : Out := .next (s.tableLoad c)

end Sys2Proof.Machine
end

