-- ==== Sys2Proof/Machine/Gleaner.lean ====
section
/-! DEFINITION. The gleaner (08): GATHER_ACC and its combining windows. -/

namespace Sys2Proof.Machine

/-- The operands of a GATHER_ACC. -/
structure GatherOps where
  idx : Opnd
  dat : Opnd
  tbl : Opnd
  deriving DecidableEq, Repr

def State.gatherOps (s : State) (m : Cmd) : Option GatherOps :=
  match s.opnd m.fmts (m.f 128 16) 0, s.opnd m.fmts (m.f 144 16) 1, s.opnd m.fmts (m.f 160 16) 2 with
  | some a, some b, some t => some ⟨a, b, t⟩
  | _, _, _ => none

/-- R170: the checks of a GATHER_ACC. -/
def gatherBad (m : Cmd) (g : GatherOps) : Option Reply :=
  let t := g.idx.desc.size 0
  let e := g.dat.desc.size 0
  firstBad [
    (g.idx.desc.canRead && g.idx.desc.ndim == 1 && decide (t ≤ 2 ^ 20) && fmtValid g.idx.fmt, .bad 128),
    (g.dat.desc.canRead && g.dat.desc.ndim == 2 && g.dat.desc.size 1 == t && !g.dat.desc.quant
      && (g.dat.desc.format < 4 || g.dat.desc.format == 6), .bad 144),
    (g.tbl.desc.canRead && g.tbl.desc.canWrite && g.tbl.desc.ndim == 2 && g.tbl.desc.size 0 == e
      && (g.tbl.desc.format < 2 || g.tbl.desc.format == 6 || g.tbl.desc.format == 7), .bad 160),
    (m.f 176 2 != 3 && fmtWidth g.idx.fmt == m.f 176 2 + 2, .bad 176)]

/-- GATHER_ACC (R170, R227): its checks; its windows then run as GLEANER_WINDOW. -/
def State.startGather (s : State) (c : CtxNo) : State :=
  match s.starting c 0x14 with
  | none => s
  | some (i, m) =>
    if !s.noConflict c i m then s
    else match s.handle c (m.f 128 16), s.handle c (m.f 144 16), s.handle c (m.f 160 16), s.gatherOps m with
      | some _, some _, some _, some g =>
        match m.reservedBad, gatherBad m g with
        | some r, _ => s.finish c i r
        | none, some r => s.finish c i r
        | none, none => s.setPhase c i (.running (.gather ⟨0, 0, false, [], 0, 0, 0, 0⟩))
      | _, _, _, _ => s.finish c i (.of stHandle)

/-- GATHER_ACC (R172). -/
def execGatherAcc (c : CtxNo) (s : State) : Out := .next (s.startGather c)

/-- Entries of window `w`: positions (R172). -/
def windowEntries (t w : Nat) : List Nat := upFrom (32 * w) (min 32 (t - 32 * w))

/-- Columns of pass `k`: first and number (R175). -/
def passCols (e k : Nat) : Nat × Nat := (1024 * k, min 1024 (e - 1024 * k))

/-- An index element as a signed integer (R171). -/
def indexValue (m : Cmd) (bits : Nat) : Int := toSigned (16 * 2 ^ m.f 176 2) bits

/-- R173: the bits of a table element after an update with pre-sum `acc`. -/
def gatherUpdate (o : Opnd) (g : Nat) (acc : Num) : Nat × Flag :=
  if o.desc.format = 7 then
    let a := loadPair (BitVec.ofNat 64 g)
    let r := clampAdd a.1 (toF32 acc).1
    (r.1.toNat, a.2.or r.2)
  else
    let v := decodeElem o.fmt g
    let r := (fmtFloat o.fmt).toBits (v.add acc)
    (r.1, r.2.or ⟨false, !v.isFin⟩)

/-- The pre-sum of one column over the window's entries of one row, in stream order (R172). -/
def preSum : Option Num → List Num → Option Num × Flag
  | acc, [] => (acc, .clear)
  | acc, v :: t =>
    let nf : Flag := ⟨false, !v.isFin⟩
    match acc with
    | none => let r := preSum (some v) t; (r.1, nf.or r.2)
    | some a =>
      let x := fmtFP32.round (a.add v)
      let r := preSum (some x.1) t
      (r.1, nf.or (x.2.or r.2))

/-- A data element's address coordinates: column e of row i. -/
def at2d (e i : Nat) : Nat → Nat := fun k => if k = 0 then e else if k = 1 then i else 0

/-- The spans of columns of a row. -/
def Opnd.rowSpans (o : Opnd) (row col0 n : Nat) : List (Nat × Nat) := (upFrom col0 n).map (fun e => o.span (at2d e row))

/-- The updates of one row in a pass, with data as `src` holds it: read before any table write (R177). -/
def State.gatherRow (src : State) (c : CtxNo) (g : GatherOps) (badD badT badW : List (Nat × Nat)) (col0 n : Nat) (p : State × Flag)
    (x : Nat × List Nat) : State × Flag :=
  (upFrom col0 n).foldl (fun q e =>
    let vs := x.2.map (fun i => decodeElem g.dat.fmt (src.elemBits c badD g.dat (at2d e i)))
    let a := preSum none vs
    let u := gatherUpdate g.tbl (q.1.elemBits c badT g.tbl (at2d e x.1)) (a.1.getD (.fin false 0 0))
    (q.1.putBits c badW g.tbl (at2d e x.1) u.1, q.2.or (a.2.or u.2))) p

/-- Row locks whose writes have all been acknowledged are freed (R176). -/
def State.freeLocks (s : State) : State :=
  { s with locks := s.locks.filter (fun l => s.reqs.any (fun r => r.ctx == l.ctx && r.seq == l.seq && r.row == some l.row)) }

/-- May a window take locks on these rows of table `d`: enough entries free, no row locked, fewer than two windows in flight (R176)? -/
def State.locksFree (s : State) (d : Nat) (rows : List Nat) : Bool :=
  decide (s.locks.length + rows.length ≤ 64) && !s.locks.any (fun l => l.desc == d && rows.contains l.row)
    && decide ((dedup (s.locks.map (fun l => (l.ctx, l.seq, l.pass, l.win))) []).length < 2)

/-- Does a window hold locks still: is one of its writes not acknowledged? -/
def State.windowFlies (s : State) (c : CtxNo) (seq : Word) (w : GatherWin) : Bool :=
  s.locks.any (fun l => l.ctx == c && l.seq == seq && l.pass == w.pass && l.win == w.win)

/-- The windows in flight of a command commit in order, each when its writes have been acknowledged (R177; at most `n`). -/
def State.gatherCommits (s : State) (c : CtxNo) (seq : Word) : Nat → GatherJob → State × GatherJob
  | 0, g => (s, g)
  | n + 1, g =>
    match g.flying with
    | [] => (s, g)
    | w :: _ =>
      if s.windowFlies c seq w then (s, g)
      else
        (s.modCtx c (fun x => { x.unitCommit s.now w.start w.raw with
          idxNeg := satAdd x.idxNeg w.neg, idxOob := satAdd x.idxOob w.oob })).gatherCommits c seq n (g.commit w)

/-- A GATHER_ACC at a place: its acknowledged windows commit, and after its last one it ends (R177, R178). -/
def State.gatherSettle (c : CtxNo) (s : State) (x : Nat × Cmd) : State :=
  match x.2.phase with
  | .running (.gather g) =>
    let q := s.gatherCommits c x.2.seq g.flying.length g
    if q.2.ended && q.2.flying.isEmpty then (q.1.gatherEnd c x.1 x.2 q.2 0x00).endOverrun c
    else if q.2 = g then q.1
    else (q.1.setPhase c x.1 (.running (.gather q.2))).endOverrun c
  | _ => s

/-- The windows of every GATHER_ACC of a context. -/
def State.gatherAll (s : State) (c : CtxNo) : State := (s.ctx c).placed.foldl (State.gatherSettle c) s

/-- Row locks whose writes have been acknowledged are freed, and windows commit (R176, R177). -/
def State.rowsDone (s : State) : State := allCtx.foldl State.gatherAll s.freeLocks

/-! ### A window (R172, R177) -/

/-- What a window's index elements name: entries skipped below and beyond the table, its distinct rows, each with its entries in stream
order (R171, R172). -/
structure GatherPlan where
  neg : Nat
  oob : Nat
  rows : List (Nat × List Nat)
  deriving DecidableEq, Repr

/-- The valid entries of a window. -/
def GatherPlan.entries (p : GatherPlan) : List Nat := p.rows.flatMap (·.2)

/-- The index elements of a window, read. -/
def State.gatherPlan (s : State) (c : CtxNo) (m : Cmd) (g : GatherOps) (ia : Acc) (es : List Nat) : GatherPlan :=
  let bad := s.refusals c ia
  let n := g.tbl.desc.size 1
  let vals := es.map (fun x => (x, indexValue m (s.elemBits c bad g.idx (fun _ => x))))
  let ok := vals.filter (fun x => decide (0 ≤ x.2 ∧ x.2 < (n : Int)))
  { neg := (vals.filter (fun x => decide (x.2 < 0))).length, oob := (vals.filter (fun x => decide ((n : Int) ≤ x.2))).length
    rows := (dedup (ok.map (fun x => x.2.toNat)) []).map (fun r => (r, (ok.filter (fun x => x.2.toNat == r)).map (·.1))) }

/-- Windows of a pass, and passes, of a GATHER_ACC (R172, R175). -/
def GatherOps.windows (g : GatherOps) : Nat := ceilDiv (g.idx.desc.size 0) 32
def GatherOps.passes (g : GatherOps) : Nat := ceilDiv (g.dat.desc.size 0) 1024

/-- Windows a job has not started. -/
def GatherOps.left (g : GatherOps) (j : GatherJob) : Nat := g.windows * (g.passes - j.pass) - j.win

/-- The cursor after a window (R175). -/
def GatherOps.next (g : GatherOps) (j : GatherJob) : GatherJob :=
  if j.win + 1 < g.windows then { j with win := j.win + 1 }
  else if j.pass + 1 < g.passes then { j with pass := j.pass + 1, win := 0 }
  else { j with win := j.win + 1, ended := true }

/-- The read, write and add bounds of a window with `n` valid entries and `d` rows over `cols` columns, the largest (R238). -/
def GatherOps.bound (g : GatherOps) (cols n d : Nat) : Nat :=
  let db := fmtBits g.dat.fmt / 8
  let tb := fmtBits g.tbl.fmt / 8
  max (max (ceilDiv (cols * (n * db + d * tb)) 1024) (ceilDiv (cols * d * tb) 512)) (ceilDiv (cols * n) 256)

/-- A window's accesses: index, data, table rows read, table rows written each by itself. -/
structure GatherAccs where
  idx : Acc
  dat : Acc
  rd : Acc
  wr : List (Nat × Acc)
  deriving DecidableEq, Repr

/-- The accesses of a window whose index elements have been read. -/
def GatherOps.accs (g : GatherOps) (ia : Acc) (p : GatherPlan) (col0 n : Nat) : GatherAccs :=
  let sp := p.rows.map (fun r => (r.1, g.tbl.rowSpans r.1 col0 n))
  { idx := ia, dat := g.dat.acc false false (p.entries.flatMap (fun x => g.dat.rowSpans x col0 n))
    rd := g.tbl.acc false true (sp.flatMap (·.2)), wr := sp.map (fun x => (x.1, { g.tbl.acc true false x.2 with row := some x.1 })) }

/-- All of them. -/
def GatherAccs.all (a : GatherAccs) : List Acc := [a.idx, a.dat, a.rd] ++ a.wr.map (·.2)

/-- R238: the estimate of a window; of one whose index elements have not been read, as though its entries named the table's first
rows in order (log 69). -/
def State.gatherEst (s : State) (c : CtxNo) (g : GatherOps) (j : GatherJob) (a : GatherAccs) (p : GatherPlan) (u : Nat) : Nat :=
  if u ≠ 0 then
    let ju := Nat.repeat g.next u j
    let cs := passCols (g.dat.desc.size 0) ju.pass
    let es := windowEntries (g.idx.desc.size 0) ju.win
    let b := g.accs a.idx ⟨0, 0, (List.range es.length).zip (es.map (fun e => [e]))⟩ cs.1 cs.2
    max (g.bound cs.2 es.length es.length) (s.portEc c b.dat + 2 * s.portEc c b.rd)
  else
    let locked := p.rows.any (fun r => s.locks.any (fun l => l.desc == g.tbl.idx && l.row == r.1))
    let ec := max (g.bound (passCols (g.dat.desc.size 0) j.pass).2 p.entries.length p.rows.length)
      (s.portEc c a.dat + 2 * s.portEc c a.rd)
    if locked then max 320 ec else ec

/-- A window runs: its rows take their locks, every element is read, added and written, and it flies until its writes are acknowledged. Its
data feeds no range bank (log 67). -/
def State.gatherRun (s : State) (c : CtxNo) (i : Nat) (m : Cmd) (g : GatherOps) (j : GatherJob) (a : GatherAccs) (p : GatherPlan) (raw : Nat) :
    State :=
  let cs := passCols (g.dat.desc.size 0) j.pass
  let badW := a.wr.flatMap (fun x => s.refusals c x.2)
  let res := p.rows.foldl (State.gatherRow s c g (s.refusals c a.dat) (s.refusals c a.rd) badW cs.1 cs.2) (s, Flag.clear)
  let s2 := res.1.issue c m.seq .demand (a.wr.map (·.2))
  let pages := s2.writePages c (a.wr.map (·.2))
  let s3 := { s2 with
    ckpt := s2.ckpt.noteUnwatched pages
    locks := s2.locks ++ p.rows.map (fun (r : Nat × List Nat) => (⟨c, g.tbl.idx, r.1, m.seq, j.pass, j.win⟩ : RowLock)) }
  let oob := (a.wr.map (fun x => (s.refusals c x.2).length)).foldl (· + ·) 0
  let s4 := ((s3.closeUnit c m.seq [a.idx, a.dat, a.rd]).countOob c oob).modCtx c (fun x => { x with tracked := x.tracked || !pages.isEmpty })
  let first := decide (j.pass = 0)
  let w : GatherWin := { pass := j.pass, win := j.win, neg := if first then p.neg else 0, oob := if first then p.oob else 0
                         valid := first && !p.rows.isEmpty, flags := res.2.bits, start := s.streamBegun c, raw := raw }
  let j1 := g.next { j with flying := j.flying ++ [w] }
  ((s4.setPhase c i (.running (.gather j1))).streamNext c (!j1.ended)).rowsDone

/-- One window of one pass (R177): index and data read, table pages translated, its rows' locks free, its rows captured; then it runs. -/
def State.gatherWindow (s : State) (c : CtxNo) (i : Nat) (m : Cmd) (g : GatherOps) (j : GatherJob) : State :=
  let es := windowEntries (g.idx.desc.size 0) j.win
  let ia := g.idx.acc false false (es.map (fun x => g.idx.span (fun _ => x)))
  let q := s.openAll c m.seq [ia]
  if !q.1 then q.2 else
  let p := q.2.gatherPlan c m g ia es
  let cs := passCols (g.dat.desc.size 0) j.pass
  let a := g.accs ia p cs.1 cs.2
  let est := q.2.gatherEst c g j a p
  let t := q.2.streamGo c m.seq est (g.left j)
  if !t.1 then t.2 else
  let o := (t.2.streamStart c).openWrites c m.seq a.all
  if !o.1 then o.2
  else if !o.2.locksFree g.tbl.idx (p.rows.map (·.1)) then o.2
  else
    match (p.rows.map (fun (r : Nat × List Nat) => (⟨4, g.tbl.idx, 0, r.1, 0⟩ : Unit))).find? (o.2.mustCapture c) with
    | some u => o.2.askCapture c u m.seq
    | none => o.2.gatherRun c i m g j a p (est 0)

/-- A GATHER_ACC with windows to start. -/
def Cmd.gathering (m : Cmd) : Bool :=
  match m.phase with
  | .running (.gather g) => !g.ended
  | _ => false

/-- The next window of the first GATHER_ACC in progress. -/
def State.gleaner (s : State) (c : CtxNo) : State :=
  match findAt Cmd.gathering (s.ctx c).cmds 0 with
  | some (i, m) =>
    if !s.goesOn c m.seq then s else
    match m.phase, s.gatherOps m with
    | .running (.gather j), some g => s.gatherWindow c i m g j
    | _, _ => s
  | none => s

/-- GLEANER_WINDOW (R177). -/
def execGleanerWindow (c : CtxNo) (s : State) : Out := .next (s.gleaner c)

end Sys2Proof.Machine
end

