-- ==== Sys2Proof/Machine/Chain.lean ====
section
/-! DEFINITION. Weight chains (09): CHAIN_SETUP, and what comes over a chain: beats, credits, detaches and their notices. -/

namespace Sys2Proof.Machine

/-! ### CHAIN_SETUP (R180, R181, R236) -/

/-- R181: the checks of an entry image that sets an entry up; `core` is this engine's own core number. -/
def setupBad (core : Nat) (m : Cmd) : Option Reply :=
  let idx := m.f 129 4
  let len := m.f 133 4
  let det := m.f 160 16
  firstBad [
    (decide (idx ≤ len), .bad 129), (len != 0, .bad 133), (det == 0 || decide (256 ≤ det), .bad 160),
    (idx == 0 || m.f 137 4 != core, .bad 137), (idx == len || m.f 141 4 != core, .bad 141)]

/-- The entry an image makes: its CTX the issuing context's, no detaches yet (R236). CHAIN_SEQ starts at 0 (log 29). -/
def newChain (c : CtxNo) (img : BitVec 64) : Chain :=
  ({ Chain.reset with entry := setFld (setFld img 29 3 c.val) 48 16 0 }).reform

/-- Does an unfinished earlier command name the entry (R181)? -/
def State.chainUsed (s : State) (c : CtxNo) (i e : Nat) : Bool :=
  ((s.ctx c).cmds.take i).any (fun k => !s.cmdDone c k && k.op == 2 && k.chainNo == e)

/-- CHAIN_SETUP: an entry written, or released once the commands that name it have completed (R181, R236); ENTRY 5 to 7,
which no entry has, are HANDLE_INVALID (log 29). -/
def State.setupChain (s : State) (c : CtxNo) : State :=
  match s.starting c 0x3A with
  | none => s
  | some (i, m) =>
    let e := m.f 192 3
    if m.bit 128 then
      match m.reservedBad, setupBad (fld s.eng.position 0 4) m with
      | some r, _ => s.finish c i r
      | none, some r => s.finish c i r
      | none, none =>
        match (List.range 4).find? (fun n => !(s.chain n).valid) with
        | none => s.finish c i (.of stChainBusy)
        | some n => (s.setChain n (newChain c (m.pkt.extractLsb' 128 64))).finish c i { Reply.ok with result0 := w32 (n + 1) }
    else if e ≠ 0 ∧ ¬ (e ≤ 4 ∧ s.chainHandleOk c e) then s.finish c i (.of stHandle)
    else match m.reservedBad with
      | some r => s.finish c i r
      | none =>
        if e = 0 then s.finish c i (.bad 192)
        else if s.chainUsed c i e then s
        else (s.setChain (e - 1) .reset).finish c i .ok

/-- CHAIN_SETUP (R181). -/
def execChainSetup (c : CtxNo) (s : State) : Out := .next (s.setupChain c)

/-! ### Beats and credits (R183, R184) -/

/-- R183: does the entry accept the beat? The first beat of a new sender may leave a gap, which the entry fetches itself (R186). -/
def Chain.accepts (k : Chain) (chainId : BitVec 12) (b : Beat) : Bool :=
  chainId == k.id && b.seq == k.seq && (b.num == k.expect || (k.late && decide (k.expect < b.num))) && (b.num != 0 || k.job.isNone || b.sig == k.sig)

/-- A new sender's oldest retained beat is above the next one expected: the entry fetches what lies before it (R186). Beats that waited
behind an earlier gap are fetched again, and their entries are free. -/
def Chain.openGap (k : Chain) (n : Nat) : Chain :=
  { k with gapTo := n, slack := k.slack.map (fun x => if k.next ≤ x.beat.num then { x with sent := true, taken := true } else x) }

/-- A beat that the entry accepts enters the slack and is passed on; behind a gap it waits until the gap has been fetched (R186). -/
def Chain.accept (k0 : Chain) (b : Beat) : Chain :=
  let k := if k0.expect < b.num then k0.openGap b.num else k0
  let gap := decide (k.next < k.gapTo)
  { k with
    next := if gap then k.next else k.next + 1, late := false, rxSig := if b.num = 0 then some b.sig else k.rxSig
    slack := k.slack ++ [⟨b, false, false⟩], out := if k.tail || gap then k.out else k.out ++ [b] }

/-- A beat reaches the chain-in slack: accepted, dropped as already received, or refused, which makes the member detach
(R183, R186, R187). A detached member takes no beat. -/
def State.chainBeat (s : State) (e : Nat) (chainId : BitVec 12) (b : Beat) : State :=
  let k := s.chain e
  if !s.up || !k.valid || k.head || decide (256 ≤ k.slack.length) then s
  else if k.due.isSome then s.setChain e { k with owed := k.owed + 1 }
  else if k.detached || (k.late && chainId == k.id && b.seq == k.seq && decide (b.num < k.expect)) then
    { s with chainOut := s.chainOut ++ [.credit k.pred k.id] }
  else if k.accepts chainId b then s.settleChain e (k.accept b)
  else s.setChain e { k with due := some 1, owed := k.owed + 1 }

/-- CHAIN_BEAT (R183). -/
def execChainBeat (e : Fin 4) (chainId : BitVec 12) (seq : BitVec 16) (beat : BitVec 48) (sig : Word) (data : BitVec 2048)
    (s : State) : Out := .next (s.chainBeat e.val chainId ⟨seq, beat.toNat, sig, data⟩)

/-- CREDIT (R184): a successor freed an entry. -/
def execCredit (src : CreditFrom) (s : State) : Out :=
  .next (
    let k := s.chain src.entry.val
    if s.up && k.valid then s.settleChain src.entry.val (k.credit (BitVec.ofNat 4 src.core.val)) else s)

/-! ### Detaching (R185 to R188) -/

/-- Has this cause of a detach come about? -/
def Chain.leaves (k : Chain) (now : Nat) (cause : BitVec 2) : Bool :=
  k.valid && !k.detached && (if cause = 0 then
    k.due.isNone && (match k.heldSince with
      | some t => decide (k.detachCycles ≤ now - t)
      | none => false)
    else k.due == some cause)

/-- The first weight beat of the interval at the cursor of the chained command. -/
def State.cursorBeat (s : State) (k : Chain) : Nat :=
  match k.job with
  | none => k.next
  | some (c, q) =>
    match findAt (fun m => m.seq == q && m.phase.isRunning) (s.ctx c).cmds 0 with
    | some (_, m) =>
      match m.phase with
      | .running (.product j) =>
        match s.prod m false with
        | some p => p.cursorBeat m j
        | none => k.next
      | _ => k.next
    | none => k.next

/-- DETACH: the member leaves its chain (R186). The first beat it fetches itself is the first it never received; a head and an imported
member fetch from their cursor. -/
def State.detach (s : State) (e : Nat) (cause : BitVec 2) : State :=
  let k := s.chain e
  if !s.up || !k.leaves s.now cause then s
  else s.leaveChain e cause (if cause = 3 || k.head then s.cursorBeat k else k.next)

/-- DETACH (R186). -/
def execDetach (e : Fin 4) (cause : BitVec 2) (s : State) : Out := .next (s.detach e.val cause)

/-- R186: a neighbour has detached; `neighbour` is the member beyond it, none when it was an end of the chain. A new sender starts from
its oldest retained beat, on the credits the detached member held; a receiver drops its beats below the next one it expects. -/
def Chain.rejoin (k : Chain) (fromSucc : Bool) (neighbour : Option (Fin 16)) (credits : Nat) : Chain :=
  let home := if k.relinked then k.home else k.credits
  match fromSucc, neighbour with
  | true, none => { k with tail := true, out := [], home := home }
  | true, some n => { k with succ := BitVec.ofNat 4 n.val, out := k.kept ++ k.out, kept := [], home := home, credits := credits }
  | false, none => { k with head := true, gapTo := 0, slack := k.slack.filter (fun b => decide (b.beat.num < k.next)) }
  | false, some n => { k with pred := BitVec.ofNat 4 n.val, late := true }

/-- DETACH_NOTIFICATION (R186). -/
def execDetachNotification (e : Fin 4) (fromSucc : Bool) (neighbour : Option (Fin 16)) (terms : DetachTerms) (s : State) : Out :=
  .next (
    let k := s.chain e.val
    if s.up && k.valid && !k.detached then s.settleChain e.val (k.rejoin fromSucc neighbour terms.credits.val) else s)

end Sys2Proof.Machine
end

