-- ==== Sys2Proof/Machine/Xlat.lean ====
section
/-! DEFINITION. Translation walks, completing requests with their ECC events, and invalidations (07, 16, 19). -/

namespace Sys2Proof.Machine

/-- A risk input counts one event (R290): 0 ECC, 1 BIST, 2 LINK, 3 THERMAL. -/
def State.riskNote (s : State) (i : Fin 4) : State :=
  { s with risk := { s.risk with counts := s.risk.counts.set i.val (satAdd (s.risk.counts.get i) 1) i.isLt } }

/-- The engine's clock runs and it has not stopped (R305, R330). -/
def State.alive (s : State) : Bool := s.pow.state == .running && !s.isFatal

/-! ### Walks (R152, R154, R157, R161) -/

/-- A ring access faulted: the context stops, with RING_FAULT and a RING entry (R161). -/
def State.ringFault (s : State) (c : CtxNo) (va : Nat) : State :=
  (((s.stopCtx c).modCtx c (fun x => { x with ringFault := true })).logErr 0x09 2 0x8 (some c) (BitVec.ofNat 64 va) 0)

/-- Can the context take a fault now (R157, R190)? One that is being reset notes that its journal header's page is absent (R207). -/
def Context.canFault (x : Context) : Bool :=
  x.fault.isNone && (x.resetting || x.state == .running || x.waitPark)

/-- The guard read in flight ends. -/
def Context.endGuardRead (x : Context) : Context :=
  { x with task := x.task.map (fun t => { t with guard := t.guard.map (fun g => { g with reading := false }) }) }

/-- A fault beside one that has not yet parked the context: of requests that fault in one EC the record reports the one with the lowest STREAM,
then the lowest VADDR (R372); a later one adds nothing (R157). -/
def Context.joinFault (x : Context) (f : FaultRec) (now : Nat) : Context :=
  match x.fault with
  | some g => if x.mustPark ∧ x.faultAt = now ∧ ¬ f.guard ∧ ¬ g.guard then { x with fault := some (firstNeed g f) } else x
  | none => x

/-- A demand request faulted: PARK follows (R157). -/
def State.takeFault (s : State) (c : CtxNo) (f : FaultRec) : State :=
  let s1 := if f.guard then s.modCtx c Context.endGuardRead else s
  if (s.ctx c).canFault then s1.modCtx c (fun x => { x with fault := some f, faultAt := s.now }) else s1.modCtx c (fun x => x.joinFault f s.now)

/-- A walk came back to one request that waited for it. -/
def State.walkBack (found : Option Xlat) (s : State) (w : WalkReq) : State :=
  let ok := match found with
    | some x => permOk x w.need
    | none => false
  if ok then s
  else if w.prefetch then { s with tel := { s.tel with prefetchDrop := satAdd s.tel.prefetchDrop w.many } }
  else if w.ring then (if (s.ctx w.ctx).state == .stopped then s else s.ringFault w.ctx w.need.vaddr)
  else s.takeFault w.ctx { w.need with perm := found.isSome }

/-- A translation walk of a page completes for every request that waits for it. -/
def State.walkDone (s : State) (page : Nat) (found : Option Xlat) : State :=
  let mine := s.walks.filter (fun w => w.page == page)
  if !s.alive || mine.isEmpty then s else
  let s1 := { s with
    walks := s.walks.filter (fun w => w.page != page)
    tlb := match found with
      | some x => tlbFill s.tlb page x
      | none => s.tlb.filter (fun e => e.page != page) }
  mine.foldl (State.walkBack found) s1

/-- WALK (R152). -/
def execWalk (page : BitVec 32) (found : Option Xlat) (s : State) : Out := .next (s.walkDone page.toNat found)

/-! ### ECC (R321, R322) -/

/-- Clamp words that are slot elements. -/
def clampWords : Nat := 48 * 16384

/-- A correctable error of a unit (R321). -/
def State.eccCorrected (s : State) (unit : BitVec 4) (word : Nat) (bit : BitVec 8) : State :=
  if unit.toNat = 0 ∨ 7 < unit.toNat then s else
  let s1 := s.logErr 0x01 1 unit none (BitVec.ofNat 64 word) (bit.setWidth 64)
  if unit = 5 then { s1 with tlb := s1.tlb.filter (fun e => e.place != word) }
  else
    let s2 := { s1 with bist := { s1.bist with ce := s1.bist.ce ++ [(unit.toNat, word)] } }
    if unit.toNat ≤ 4 then s2.riskNote 0 else s2

/-- An uncorrectable error of a unit (R322): the Clamp's element reads as NaN from now on; elsewhere the engine stops. -/
def State.eccLost (s : State) (unit : BitVec 4) (word : Nat) (syndrome : BitVec 8) : State :=
  if unit.toNat = 0 ∨ 7 < unit.toNat then s
  else if unit = 5 then s.eccCorrected 5 word syndrome
  else if unit = 1 then
    let s1 := s.logErr 0x02 2 1 none (BitVec.ofNat 64 word) (syndrome.setWidth 64)
    if clampWords ≤ word then s1
    else s1.modSlot (word / 16384) (fun x =>
      if x.bad.contains (word % 16384) then x else { x with bad := x.bad ++ [word % 16384] })
  else s.logErr 0x02 3 unit none (BitVec.ofNat 64 word) (syndrome.setWidth 64)

/-- What a read met. -/
def State.ecc (s : State) : Ecc → State
  | .clean => s
  | .corrected u w b => s.eccCorrected u w b
  | .uncorrectable u w y => s.eccLost u w y

/-- A request completes: it frees its slot, and the row locks its acknowledgement held; windows commit (R148, R176, R177). An index past the
list is a read whose request the model does not hold (log 11). The ECC event of the read is handled (R321). -/
def State.requestDone (s : State) (idx : Nat) (e : Ecc) : State :=
  if !s.alive then s else
  (({ s with reqs := dropAt s.reqs idx }).rowsDone).ecc e

/-- REQUEST_COMPLETE (R148). -/
def execRequestComplete (idx : Nat) (e : Ecc) (s : State) : Out := .next (s.requestDone idx e)

/-- CORRECTED_WRITE_BACK (R321): the corrected word is written back. -/
def execCorrectedWriteBack (unit : BitVec 4) (word : Nat) (s : State) : Out :=
  .next (if s.alive then { s with bist := { s.bist with ce := dropFirst (· == (unit.toNat, word)) s.bist.ce } } else s)

/-! ### Invalidations (R153, R365) -/

/-- Does the invalidation name the page? -/
def Inval.names (v : Inval) (page : Nat) : Bool := v.all || v.page == page

/-- An invalidation accepted, unless 16 are outstanding (R365). -/
def State.invalidate (s : State) (v : Inval) : State :=
  if !s.windowOpen || decide (16 ≤ s.invals.length) then s
  else { s with invals := s.invals ++ [v], invalReq := s.invalReq + 1, tlb := s.tlb.filter (fun e => !v.names e.page) }

/-- TLB_INVAL's lower half as last written (R363). -/
def State.keepInvalLo (s : State) (v : Word) : State := if s.windowOpen then { s with eng := { s.eng with invalLo := v } } else s

/-- TLB_INVAL with ALL = 1. -/
def execTlbInvalAll (s : State) : Out := .next ((s.keepInvalLo 1).invalidate ⟨true, 0⟩)

/-- TLB_INVAL of one page. -/
def execTlbInvalPage (page : BitVec 32) (s : State) : Out :=
  .next ((s.keepInvalLo (page.extractLsb' 0 16 ++ 0#16)).invalidate ⟨false, page.toNat⟩)

/-- Does a request in flight, or a commit unit, use a named translation (R153)? -/
def State.invalBusy (s : State) (v : Inval) : Bool :=
  s.reqs.any (fun r => v.names r.page) || allCtx.any (fun c => (s.ctx c).xlats.any (fun p => v.names p.1))

/-- The oldest invalidation completes. -/
def State.invalComplete (s : State) : State :=
  match s.invals with
  | [] => s
  | v :: rest =>
    if !s.alive || s.invalBusy v then s
    else { s with invals := rest, invalDone := s.invalDone + 1, tlb := s.tlb.filter (fun e => !v.names e.page) }

/-- INVALIDATION_COMPLETE (R153, R365). -/
def execInvalidationComplete (s : State) : Out := .next s.invalComplete

end Sys2Proof.Machine
end

