-- ==== Sys2Proof/Machine/Tasks.lean ====
section
/-! DEFINITION. Tasks (05, 12): the scribe journal, TASK_BEGIN, TASK_COMMIT, TASK_DISCARD, guards and early discards. -/

namespace Sys2Proof.Machine

/-! ### Units of the journal (R113, R114) -/

/-- Element rows of a unit, in the order its payload holds them: each a list of coordinates. -/
def unitRows (o : Opnd) (u : Unit) : List (List (Nat → Nat)) :=
  if u.kind = 1 then
    let r0 := 128 * u.row
    let c0 := 128 * u.col
    (upFrom r0 (min 128 (o.desc.rows u.feat - r0))).map (fun r =>
      (upFrom c0 (min 128 (o.desc.cols u.feat - c0))).map (fun k => o.desc.view u.feat r k))
  else [(List.range (o.desc.size 0)).map (fun k => fun d => if d = 0 then k else u.row)]

/-- Bytes of a row of `n` elements; 4-bit elements are padded to whole bytes (R21). -/
def rowBytes (o : Opnd) (n : Nat) : Nat := ceilDiv (n * fmtBits o.fmt) 8

/-- Payload bytes of a unit. -/
def unitBytes (o : Option Opnd) (u : Unit) : Nat :=
  if u.kind = 2 then 16 else if u.kind = 3 then 131072 else
  match o with
  | some x => ((unitRows x u).map (fun l => rowBytes x l.length)).foldl (· + ·) 0
  | none => 0

/-- Length of an entry: 32 bytes and the payload padded to 32 (R114). -/
def entryBytes (n : Nat) : Nat := 32 + ceilDiv n 32 * 32

/-- The access to a unit's bytes; a slot has none. -/
def unitAccs (o : Option Opnd) (u : Unit) (write : Bool) : List Acc :=
  match o with
  | none => []
  | some x =>
    if u.kind = 3 then [] else if u.kind = 2 then [x.hdrAcc write false]
    else [x.acc write false ((unitRows x u).flatMap (fun l => l.map x.span))]

/-- A unit's bytes as they stand. -/
def State.unitBytesOf (s : State) (c : CtxNo) (o : Option Opnd) (u : Unit) : List Byte :=
  if u.kind = 3 then
    (List.range 16384).flatMap (fun k => leBytes 8 ((s.slot u.row).elem k).toNat)
  else match o with
    | none => []
    | some x =>
      if u.kind = 2 then leBytes 16 (s.readHdr c x)
      else
        let bad := (unitAccs o u false).flatMap (s.refusals c)
        (unitRows x u).flatMap (fun l =>
          leBytes (rowBytes x l.length) (packBits (l.map (fun co => (s.elemBits c bad x co, fmtBits x.fmt)))))

/-- The accumulation word of a present slot that a discard restores: the one held at TASK_BEGIN (R370). -/
def Task.word (t : Task) (k : Nat) (now : Word) : Word :=
  match t.words.find? (fun p => p.1 == k) with
  | some p => p.2
  | none => now

/-- The ACC_WORD of a slot's entry: the word at TASK_BEGIN, with NONFINITE where a word of the payload is uncorrectable (R114, R322, R370). -/
def State.entryWord (s : State) (t : Task) (k : Nat) : Word :=
  let x := s.slot k
  accSet (t.word k x.acc) (⟨false, !x.bad.isEmpty⟩ : Flag).bits

/-- The 32-byte header of a journal entry (R114). -/
def State.entryHeader (s : State) (t : Task) (o : Option Opnd) (u : Unit) (n : Nat) (seq : Word) : Nat :=
  let x := s.slot u.row
  let slot := u.kind == 3
  let rows := if u.kind = 1 then (match o with
    | some y => min 128 (y.desc.rows u.feat - 128 * u.row)
    | none => 0) else 0
  let cols := if u.kind = 1 then (match o with
    | some y => min 128 (y.desc.cols u.feat - 128 * u.col)
    | none => 0) else 0
  packBits [(u.kind, 4), (if u.kind = 1 then u.feat else 0, 3), (0, 9), (if slot then x.desc else u.desc, 10), (0, 6),
    (if slot then x.tileRow else u.row, 32), (if slot then x.tileCol else u.col, 32), (n, 32), (rows, 8), (cols, 8),
    (if slot then x.handle u.row else 0, 16), (if slot then (s.entryWord t u.row).toNat else 0, 32), (seq.toNat, 16), (0, 48)]

/-! ### Capture (R113 to R116) -/

/-- STREAM of a unit's descriptor in the command that writes it (R372). -/
def unitStream (op : Nat) : Nat := if op = 1 ∨ op = 2 ∨ op = 0x14 then 2 else 0

/-- The unit is first written without a pre-image: it is counted, and the first one makes the task partial (R116). -/
def Task.passUnit (t : Task) (u : Unit) (seq : Word) : Task :=
  if t.part then { t with unguarded := min 0xFFFFFFFF (t.unguarded + 1), seen := t.seen ++ [u] }
  else { t with part := true, firstSeq := seq16 seq, first := u, unguarded := 1, seen := t.seen ++ [u] }

/-- The task replaced; no capture is asked for any longer. -/
def State.putTask (s : State) (c : CtxNo) (t : Task) : State := s.modCtx c (fun x => { x with task := some t, wantUnit := none })

/-- A unit as journal fields name it: a slot by its tag (R114). -/
def State.namedUnit (s : State) (u : Unit) : Unit :=
  if u.kind = 3 then ⟨3, (s.slot u.row).desc, 0, (s.slot u.row).tileRow, (s.slot u.row).tileCol⟩ else u

/-- The first unit that cannot be captured: the journal header is written with PARTIAL (R114, R116). -/
def State.becomePartial (s : State) (c : CtxNo) (t : Task) (u : Unit) (seq : Word) (o : Opnd) : State :=
  let a := { o.areaAcc 0 64 with stream := 0 }
  let r := s.openFor c seq .journal [a]
  if !r.1 then r.2 else
  let t1 := t.passUnit (s.namedUnit u) seq
  let t1 := { t1 with seen := t.seen ++ [u] }
  let s1 := r.2.putArea c (r.2.refusals c a) o 0 (leBytes 64 t1.header)
  ((s1.issue c seq .journal [a]).unpin c).putTask c t1

/-- The unit's entry is written and the unit marked as captured; reading an uncorrectable word of a slot sets its NONFINITE (R322). -/
def State.captureUnit (s : State) (c : CtxNo) (t : Task) (u : Unit) (seq : Word) (j : Opnd) (o : Option Opnd) : State :=
  let n := unitBytes o u
  let len := entryBytes n
  let a := j.areaAcc t.used len
  let as := unitAccs o u false ++ [a]
  let r := s.openFor c seq .journal as
  if !r.1 then r.2 else
  let s1 := r.2
  let bytes := leBytes 32 (s1.entryHeader t o u n seq) ++ s1.unitBytesOf c o u
  let bytes := bytes ++ List.replicate (len - bytes.length) (0 : Byte)
  let oob := (as.map (fun a => (s1.refusals c a).length)).foldl (· + ·) 0
  let s2 := ((s1.putArea c (s1.refusals c a) j t.used bytes).issue c seq .journal as).countOob c oob
  let s3 := if u.kind = 3 then s2.modSlot u.row (fun x => { x with touched := true, acc := accSet x.acc (⟨false, !x.bad.isEmpty⟩ : Flag).bits })
    else { s2 with touch := s2.touch ++ [⟨c, u⟩] }
  (s3.unpin c).putTask c { t with used := t.used + len, entries := t.entries + 1 }

/-- The capture that a unit's first write waits for; none where its entry does not fit or the touch table is full, whatever the unit
(R116). -/
def State.capture (s : State) (c : CtxNo) : State :=
  let x := s.ctx c
  if !s.goesOn c x.wantSeq then s else
  match x.wantUnit, x.task with
  | some u, some t =>
    if !s.mustCapture c u then s.putTask c t
    else if t.part then s.putTask c (t.passUnit u x.wantSeq)
    else
      let cmd := findAt (fun m => m.seq == x.wantSeq) x.cmds 0
      let fmts := (cmd.map (fun p => p.2.fmts)).getD s.fmts
      let o := if u.kind = 3 then none else s.opnd fmts u.desc (unitStream ((cmd.map (fun p => p.2.op)).getD 0))
      match s.journal t with
      | none => s.putTask c (t.passUnit u x.wantSeq)
      | some j =>
        if t.capacity < t.used + entryBytes (unitBytes o u) ∨ 4096 ≤ s.touch.length then
          s.becomePartial c t u x.wantSeq j
        else s.captureUnit c t u x.wantSeq j o
  | _, _ => s.modCtx c (fun y => { y with wantUnit := none })

/-- JOURNAL_CAPTURE (R113). -/
def execJournalCapture (c : CtxNo) (s : State) : Out := .next (s.capture c)

/-! ### TASK_BEGIN (R114, R115, R230) -/

/-- Checks of TASK_BEGIN that need no translation; `early` those before it (R230, R115). -/
def taskAreaBad (j : Opnd) : Option Reply :=
  firstBad [(j.desc.canWrite && j.byteArea && decide (64 ≤ j.desc.size 0), .bad 128)]

/-- The checks after JOURNAL_DESC's. -/
def State.taskBad (s : State) (c : CtxNo) (m : Cmd) : Option Reply :=
  let g := m.bit 12
  let addr := m.f 144 48
  firstBad [
    (!g || addr % 4 == 0, .bad 144), (!g || m.f 192 32 != m.f 224 32, .bad 224),
    (!g || (s.findRegion c addr (addr + 3) true false).isSome, .of stRegion), ((s.ctx c).task.isNone, .of stTaskState)]

/-- What the check that the journal lies in core store demands: its pages translated (R115). -/
def areaNeeds (j : Opnd) (seq : Word) : List FaultRec :=
  (upFrom (pageOf j.desc.lo) (pageOf j.desc.hi - pageOf j.desc.lo + 1)).map (fun p =>
    { vaddr := max j.desc.lo (p * 65536), desc := j.idx, read := false, write := false, perm := false, noDesc := false
      header := false, seq := seq16 seq, stream := 0, faults := 0, guard := false })

/-- Does every page of the area lead to core store? -/
def State.areaInCore (s : State) (c : CtxNo) (ns : List FaultRec) : Bool :=
  ns.all (fun n => match s.xlat c (pageOf n.vaddr) with
    | some ⟨.core _, _, _⟩ => true
    | _ => false)

/-- The task a TASK_BEGIN opens. -/
def State.newTask (s : State) (c : CtxNo) (m : Cmd) (j : Opnd) : Task :=
  let addr := m.f 144 48
  { journal := j.idx, seq := m.seq, used := 64, capacity := j.desc.size 0, entries := 0, unguarded := 0, part := false
    firstSeq := 0, first := ⟨0, 0, 0, 0, 0⟩
    guard := if m.bit 12 then
        some { addr := addr, region := (s.findRegion c addr (addr + 3) true false).getD 0, commitVal := w32 (m.f 192 32)
               discardVal := w32 (m.f 224 32), latch := 0, last := 0, faults := 0, reading := false }
      else none
    present := (List.range 48).filter (fun k => (s.slot k).resident && (s.slot k).ctx == c && (s.slot k).state != .free)
    words := ((List.range 48).filter (fun k => (s.slot k).resident && (s.slot k).ctx == c)).map (fun k => (k, (s.slot k).acc))
    seen := [] }

/-- TASK_BEGIN: after every earlier command (R192), the task opens and its journal header is written (R114). -/
def State.beginTask (s : State) (c : CtxNo) : State :=
  match s.starting c 0x28 with
  | none => s
  | some (i, m) =>
    if !s.earlierDone c i then s else
    match s.handle c (m.f 128 16), s.opnd m.fmts (m.f 128 16) 0, m.reservedBad with
    | some _, some j, none =>
      match taskAreaBad j with
      | some r => s.finish c i r
      | none =>
        let ns := areaNeeds j m.seq
        let q := s.acquire c ns
        if !q.1 then q.2
        else if !q.2.areaInCore c ns then q.2.finish c i (.bad 128)
        else match q.2.taskBad c m with
          | some r => q.2.finish c i r
          | none =>
            let a := j.areaAcc 0 64
            let o := q.2.openFor c m.seq .journal [a]
            if !o.1 then o.2 else
            let t := o.2.newTask c m j
            let s1 := ((o.2.putArea c (o.2.refusals c a) j 0 (leBytes 64 t.header)).issue c m.seq .journal [a])
            (s1.modCtx c (fun x => { x with task := some t })).finish c i .ok
    | some _, some _, some r => s.finish c i r
    | _, _, _ => s.finish c i (.of stHandle)

/-- TASK_BEGIN (R230). -/
def execTaskBegin (c : CtxNo) (s : State) : Out := .next (s.beginTask c)

/-! ### Closing a task (R117, R251) -/

/-- The journal header written at a commit; true when it could be. -/
def State.commitTask (s : State) (c : CtxNo) (t : Task) (seq : Word) : Bool × State :=
  match s.journal t with
  | none => (true, s.releaseTask c)
  | some j =>
    let a := j.areaAcc 0 64
    let r := s.openFor c seq .journal [a]
    if !r.1 then r
    else (true, ((r.2.putArea c (r.2.refusals c a) j 0 (leBytes 64 t.header)).issue c seq .journal [a]).releaseTask c)

/-- A journal entry as read back: its unit, handle, accumulation word and where its payload lies. -/
structure JEntry where
  unit : Unit
  handle : Nat
  acc : Word
  off : Nat
  bytes : Nat
  deriving DecidableEq, Repr

/-- The journal's entries in capture order, read from its area from byte `off` on (at most `n`). -/
def State.journalEntries (s : State) (c : CtxNo) (bad : List (Nat × Nat)) (j : Opnd) : Nat → Nat → List JEntry
  | 0, _ => []
  | n + 1, off =>
    let h : BitVec 256 := BitVec.ofNat 256 (ofLeBytes (s.areaBytes c bad j off 32))
    let len := fld h 96 32
    let kind := fld h 0 4
    let slot := fld h 144 16
    let u : Unit := if kind = 3 then ⟨3, 0, 0, slot % 64, 0⟩ else ⟨kind, fld h 16 10, fld h 4 3, fld h 32 32, fld h 64 32⟩
    ⟨u, slot, h.extractLsb' 160 32, off + 32, len⟩ :: s.journalEntries c bad j n (off + entryBytes len)

/-- The operand of an entry's unit. -/
def State.entryOpnd (s : State) (fmts : Vector Word 8) (e : JEntry) : Option Opnd :=
  if e.unit.kind = 3 then none else s.opnd fmts e.unit.desc 0

/-- A unit's bytes put back from its payload (R117). -/
def State.restoreUnit (c : CtxNo) (fmts : Vector Word 8) (j : Opnd) (s : State) (e : JEntry) : State :=
  let bad := s.refusals c (j.acc false false (j.byteSpans e.off e.bytes))
  let pay := s.areaBytes c bad j e.off e.bytes
  if e.unit.kind = 3 then
    s.modSlot e.unit.row (fun x =>
      { x with
        state := .held, resident := true, gen := BitVec.ofNat 7 (e.handle / 512 % 128), acc := e.acc, bad := []
        elems := ((List.range 16384).zip (chunks 8 16384 pay)).foldl
          (fun l p => Tbl.put 0 l p.1 (BitVec.ofNat 64 (ofLeBytes p.2))) [] })
  else match s.entryOpnd fmts e with
    | none => s
    | some o =>
      let badW := (unitAccs (some o) e.unit true).flatMap (s.refusals c)
      if e.unit.kind = 2 then s.writeB c badW o.desc.hdrAddr pay
      else
        let put (p : State × List Byte) (l : List (Nat → Nat)) : State × List Byte :=
          let n := rowBytes o l.length
          let row := ofLeBytes (p.2.take n)
          let s1 := ((List.range l.length).zip l).foldl (fun t q =>
            t.putBits c badW o q.2 (row / 2 ^ (fmtBits o.fmt * q.1) % 2 ^ fmtBits o.fmt)) p.1
          (s1, p.2.drop n)
        ((unitRows o e.unit).foldl put (s, pay)).1

/-- Slots after a discard (R117): those made resident inside the task are released, a pending one of before is HELD again; one of before that
was not written without a pre-image has its accumulation word of TASK_BEGIN (R370). -/
def Task.discardSlot (t : Task) (c : CtxNo) (k : Nat) (x : Slot) : Slot :=
  if x.ctx ≠ c ∨ x.state = .free then x
  else if t.present.contains k then
    let y := if t.seen.any (fun u => u.kind == 3 && u.row == k) then x else { x with acc := t.word k x.acc }
    if x.state = .releasePending then { y with state := .held, resident := true, gen := x.gen - 1 } else y
  else if x.state = .releasePending then { Slot.reset with gen := x.gen } else x.release

/-- TASK_DISCARD's restores, newest first, with every page translated before the first write, then the end of the task: done,
the state and the number of entries restored. -/
def State.restoreTask (s : State) (c : CtxNo) (t : Task) (fmts : Vector Word 8) (seq : Word) : Bool × State × Nat :=
  match s.journal t with
  | none => (true, s.releaseTask c, 0)
  | some j =>
    let ja := { j.areaAcc 0 t.used with write := false }
    let q := s.openAll c seq [ja]
    if !q.1 then (false, q.2, 0) else
    let es := q.2.journalEntries c (q.2.refusals c ja) j t.entries 64
    let was := es.flatMap (fun e => unitAccs (q.2.entryOpnd fmts e) e.unit true)
    let hdr := j.areaAcc 0 64
    let o := q.2.openWrites c seq was
    if !o.1 then (false, o.2, 0) else
    let p := o.2.openFor c seq .journal [hdr]
    if !p.1 then (false, p.2, 0) else
    let s1 := (List.range 48).foldl (fun u k => u.modSlot k (t.discardSlot c k)) p.2
    let s2 := es.reverse.foldl (State.restoreUnit c fmts j) s1
    let s3 := (s2.putArea c (s2.refusals c hdr) j 0 (leBytes 64 t.header)).issue c seq .journal [hdr]
    (true, (s3.closeUnit c seq (ja :: was)).releaseTask c, es.length)

/-- TASK_GUARD payload (R253). -/
def guardPayload (t : Task) (g : Guard) (cause : Nat) : BitVec 128 :=
  BitVec.ofNat 128 (packBits [(cause, 2), (0, 14), (t.seq.toNat, 16), (g.last.toNat, 32), (t.entries, 32), (t.unguarded, 32)])

/-- RESULT2 of a guarded closing command (R251). -/
def latchWord (t : Task) : Word :=
  match t.guard with
  | some g => w32 g.latch
  | none => 0

/-- The task is committed and the command at place `i` completes (R117, R230). -/
def State.closeCommit (s : State) (c : CtxNo) (i : Nat) (m : Cmd) (t : Task) : State :=
  let r := s.commitTask c t m.seq
  if !r.1 then r.2
  else r.2.finish c i { Reply.ok with result0 := w32 t.entries, result1 := w32 t.unguarded, result2 := latchWord t }

/-- The task is discarded and the command at place `i` completes. -/
def State.closeDiscard (s : State) (c : CtxNo) (i : Nat) (m : Cmd) (t : Task) : State :=
  let r := s.restoreTask c t m.fmts m.seq
  if !r.1 then r.2.1
  else r.2.1.finish c i { Reply.of (if t.unguarded = 0 then 0 else stDiscardPartial) with
                          result0 := w32 t.unguarded, result1 := w32 r.2.2, result2 := latchWord t }

/-- A closing command acts: by its opcode, or by the latched decision; before that one it waits, with one record (R251). -/
def State.closeTask (s : State) (c : CtxNo) (i : Nat) (m : Cmd) (posted : Bool) : State :=
  match (s.ctx c).task with
  | none => s.finish c i (.of stTaskState)
  | some t =>
    match t.guard with
    | none => if m.op = 0x29 then s.closeCommit c i m t else s.closeDiscard c i m t
    | some g =>
      if g.latch = 1 then s.closeCommit c i m t
      else if g.latch = 2 then s.closeDiscard c i m t
      else if posted then s
      else (s.setPhase c i (.running (.closing true))).event c 0x05 (guardPayload t g 0)

/-- TASK_COMMIT or TASK_DISCARD: its start after every earlier command, or its wait for the guard (R117, R251). -/
def State.closing (s : State) (c : CtxNo) (op : Nat) : State :=
  match s.continuing c op with
  | some (i, m) => s.closeTask c i m true
  | none =>
    match s.starting c op with
    | none => s
    | some (i, m) =>
      if !s.earlierDone c i then s
      else match m.reservedBad with
        | some r => s.finish c i r
        | none => s.closeTask c i m false

/-- TASK_COMMIT (R117). -/
def execTaskCommit (c : CtxNo) (s : State) : Out := .next (s.closing c 0x29)

/-- TASK_DISCARD (R117). -/
def execTaskDiscard (c : CtxNo) (s : State) : Out := .next (s.closing c 0x2A)

/-! ### Guards (R250) and early discards (R252) -/

/-- What a guard read demands of its page (R250). -/
def guardNeed (t : Task) (g : Guard) : FaultRec := { ringNeed g.addr false with seq := seq16 t.seq, guard := true }

/-- Has the closing command of the open task been admitted (R252)? One that is malformed closes nothing; an earlier task's has finished. -/
def Context.closes (x : Context) : Bool := x.cmds.any (fun m => (m.op == 0x29 || m.op == 0x2A) && !m.phase.isOver && m.reservedBad.isNone)

/-- A guard word read: latched when it is a decision; a discard before the closing command is admitted is an early one. -/
def State.guardValue (s : State) (c : CtxNo) (t : Task) (g : Guard) : State :=
  let ok := s.regionOk g.region c g.addr (g.addr + 3) true false
  let v : Word := if ok then w32 (s.peekLe c g.addr 4) else 0
  let s1 := if ok then s else s.countOob c 1
  let latch := if v = g.commitVal then 1 else if v = g.discardVal then 2 else 0
  s1.modCtx c (fun x => { x with
    task := some { t with guard := some { g with last := v, latch := latch, reading := false } }
    early := x.early || (latch == 2 && !x.closes) })

/-- A guard read issued at a boundary comes back, or waits for its walk (R245, R250). -/
def State.guardRead (s : State) (c : CtxNo) : State :=
  match (s.ctx c).task with
  | none => s
  | some t =>
    match t.guard with
    | none => s
    | some g =>
      if !s.alive || !g.reading || g.latch ≠ 0 then s
      else
        let n := guardNeed t g
        if !s.regionOk g.region c g.addr (g.addr + 3) true false || s.needOk c n then s.guardValue c t g
        else { s with walks := addWalk s.walks ⟨pageOf g.addr, c, false, false, n, 1⟩ }

/-- GUARD_READ (R250). -/
def execGuardRead (c : CtxNo) (s : State) : Out := .next (s.guardRead c)

/-- R252: once every admitted command has completed, the journal is restored, the record posted, the context parked. -/
def State.earlyDiscard (s : State) (c : CtxNo) : State :=
  let x := s.ctx c
  if !s.active c || !x.early || !s.earlierDone c x.cmds.length then s else
  match x.task with
  | none => s
  | some t =>
    let r := s.restoreTask c t s.fmts t.seq
    if !r.1 then r.2.1 else
    let s1 := match t.guard with
      | some g => r.2.1.event c 0x05 (guardPayload t g 1)
      | none => r.2.1
    s1.modCtx c (fun y => { y with state := .parked, parkCause := 2, early := false, xlats := [] })

/-- EARLY_DISCARD (R252). -/
def execEarlyDiscard (c : CtxNo) (s : State) : Out := .next (s.earlyDiscard c)

end Sys2Proof.Machine
end

