-- ==== Sys2Proof/Machine/Ckpt.lean ====
section
/-! DEFINITION. Copy-on-first-touch epochs (14): CKPT_ARM, the epoch point, page copies. -/

namespace Sys2Proof.Machine

/-! ### The checkpoint area (R284, R285) -/

/-- Directory offset of an area. -/
def dirOffset (pages : Nat) : Nat := ceilDiv (256 + ceilDiv pages 8) 256 * 256

/-- Offset of copy 0 when the area holds `n` copies. -/
def copyBase (b n : Nat) : Nat := ceilDiv (b + 8 * n) 512 * 512

/-- The largest number of copies, at most `n`, that fits length `len`. -/
def fitCopies (len b : Nat) : Nat → Nat
  | 0 => 0
  | n + 1 => if len < copyBase b (n + 1) + 65536 * (n + 1) then fitCopies len b n else n + 1

/-- R285: COPY_SLOTS of an area of `len` bytes. -/
def copySlots (len pages : Nat) : Nat :=
  let b := dirOffset pages
  fitCopies len b ((len - b) / 65544)

/-- The area as an operand. -/
def Ckpt.opnd (k : Ckpt) : Option Opnd := k.area.map (fun a => ⟨a.2.1, a.1, a.2.2, 0⟩)

/-- A write into the area: bytes `i` to `i + n - 1`; its region entry must list the context that armed the epoch. -/
def Ckpt.areaAcc (k : Ckpt) (o : Opnd) (i n : Nat) : Acc := { o.acc true false (o.byteSpans i n) with rctx := some k.areaCtx }

/-- The engine's fields of the area header (R284), as a number shifted to their place. -/
def Ckpt.headerBits (k : Ckpt) (isOpen : Bool) (close : Word) : Nat :=
  packBits [(k.watchBase, 48), (0, 16), (k.watchPages, 32), (0, 32), (k.epoch.toNat, 32), (1, 1), (isOpen.toNat, 1),
    (k.incomplete.toNat, 1), (0, 29), (k.slots, 32), (if isOpen then 0 else k.copied.length, 32),
    (min 0xFFFFFFFF k.unwatched.length, 32), (min 0xFFFFFFFF k.missedPages.length, 32), (k.firstMissed, 48), (0, 16),
    (k.openTick.toNat, 32), (close.toNat, 32)]

/-- The bitmap's bytes: bit j of byte j/8 is window page j. -/
def Ckpt.bitmap (k : Ckpt) : List Byte :=
  (List.range (ceilDiv k.watchPages 8)).map (fun i =>
    BitVec.ofNat 8 (packBits ((upFrom (8 * i) 8).map (fun j => ((k.copied.contains j && (k.flight j).isNone).toNat, 1)))))

/-- Bytes to be written into an area: the unit's state that lays it out, the area, an offset. -/
structure AreaPart where
  unit : Ckpt
  area : Opnd
  off : Nat
  bytes : List Byte

/-- The access of a part. -/
def AreaPart.acc (p : AreaPart) : Acc := p.unit.areaAcc p.area p.off p.bytes.length

/-- Parts written for context `c`, once their pages are translated and they have slots (R254, R286: no tracked writes). -/
def State.areaWrite (s : State) (c : CtxNo) (seq : Word) (ps : List AreaPart) : Bool × State :=
  let r := s.openFor c seq .ckpt (ps.map AreaPart.acc)
  if !r.1 then r
  else
    let s1 := ps.foldl (fun t p => t.putArea c (t.refusals c p.acc) p.area p.off p.bytes) r.2
    (true, s1.issue c seq .ckpt (ps.map AreaPart.acc))

/-! ### CKPT_ARM (R283) -/

/-- WATCH_BASE and WATCH_PAGES of a header. -/
def watchOf (h : BitVec 128) : Nat × Nat := (fld h 0 48, fld h 64 32)

/-- Check 2: a writable byte area of at least its header, on a 512-byte boundary. -/
def ckptAreaOk (o : Opnd) : Bool :=
  o.desc.canWrite && o.byteArea && decide (256 ≤ o.desc.size 0) && o.byteAddr 0 % 512 == 0

/-- Checks 3 to 6. -/
def State.ckptBad (s : State) (c : CtxNo) (o : Opnd) (h : BitVec 128) : Option Reply :=
  let w := watchOf h
  let hi := w.1 + 65536 * w.2 - 1
  firstBad [
    (w.1 % 65536 == 0 && decide (1 ≤ w.2 ∧ w.2 ≤ 65536), .bad 128),
    ((List.range w.2).all (fun i => (s.findRegion c (w.1 + 65536 * i) (w.1 + 65536 * i + 65535) true false).isSome), .of stRegion),
    (decide (hi < o.desc.lo ∨ o.desc.hi < w.1), .bad 128),
    (decide (1 ≤ copySlots (o.desc.size 0) w.2), .bad 128)]

/-- Every earlier command has completed, but for exports that wait for their boundary (R283). -/
def State.earlierButExports (s : State) (c : CtxNo) (i : Nat) : Bool :=
  ((s.ctx c).cmds.take i).all (fun m => s.cmdDone c m || (match m.phase with
    | .running (.exporting due _ _) => !due
    | _ => false))

/-- The armed command waits for its boundary with what it read. -/
def State.ckptWait (s : State) (c : CtxNo) (i : Nat) (base pages slots : Nat) : State :=
  { (s.setPhase c i (.running (.epochWait base pages slots))) with ckpt := { s.ckpt with pending := some c } }

/-- CKPT_ARM: after the earlier commands, its checks; then it waits for a tick boundary. One waits at a time. -/
def State.ckptArm (s : State) (c : CtxNo) : State :=
  match s.starting c 0x30 with
  | none => s
  | some (i, m) =>
    if !s.earlierButExports c i || s.ckpt.pending.isSome then s else
    if m.f 144 2 = 0 then
      match m.reservedBad with
      | some r => s.finish c i r
      | none => s.ckptWait c i 0 0 0
    else match s.handle c (m.f 128 16), s.opnd m.fmts (m.f 128 16) 0, m.reservedBad with
      | some _, some o, none =>
        if !ckptAreaOk o then s.finish c i (.bad 128)
        else
          let a := o.acc false false (o.byteSpans 0 16)
          let q := s.openAll c m.seq [a]
          if !q.1 then q.2 else
          let h : BitVec 128 := BitVec.ofNat 128 (ofLeBytes (q.2.areaBytes c (q.2.refusals c a) o 0 16))
          let s1 := q.2.closeUnit c m.seq [a]
          match s1.ckptBad c o h with
          | some r => s1.finish c i r
          | none => s1.ckptWait c i (watchOf h).1 (watchOf h).2 (copySlots (o.desc.size 0) (watchOf h).2)
      | some _, some _, some r => s.finish c i r
      | _, _, _ => s.finish c i (.of stHandle)

/-- CKPT_ARM (R283). -/
def execCkptArm (c : CtxNo) (s : State) : Out := .next (s.ckptArm c)

/-! ### The epoch point (R282, R283) -/

/-- Has a started unit issued its first memory write and not its last? Only a write phase can. -/
def State.writingUnit (s : State) : Bool := allCtx.any (fun c => (s.ctx c).cmds.any Cmd.writePhase)

/-- Is the next epoch armed (the table CKPT_ARM modes)? -/
def armedBy (mode : Nat) (level thresh : Nat) : Bool := mode == 1 || mode == 2 || (mode == 3 && decide (thresh ≤ level))

/-- POLICY after a CKPT_ARM. -/
def policyAfter (mode : Nat) (old : BitVec 2) : BitVec 2 := if mode = 0 then 0 else if mode = 2 then 1 else if mode = 3 then 2 else old

/-- The unit with the next epoch open. -/
def Ckpt.opened (k : Ckpt) (c : CtxNo) (m : Cmd) (armed : Bool) (base pages slots : Nat) (area : Option (Nat × Desc × Word))
    (tick : Word) : Ckpt :=
  let pol := policyAfter (m.f 144 2) k.policy
  { k with
    epoch := k.epoch + 1, armed := armed, policy := pol
    thresh := if pol = 2 then (if m.f 144 2 = 3 then BitVec.ofNat 8 (m.f 146 8) else k.thresh) else 0
    pending := none, effective := false, incomplete := false, slots := if armed then slots else 0
    area := if armed then area else none, areaCtx := c, watchBase := if armed then base else 0
    watchPages := if armed then pages else 0, copied := [], flights := [], missedPages := [], unwatched := [], firstMissed := 0, openTick := tick }

/-- What is written into an armed unit's area. -/
def Ckpt.parts (k : Ckpt) (l : List (Nat × List Byte)) : List AreaPart :=
  match k.armed, k.opnd with
  | true, some o => l.map (fun x => ⟨k, o, x.1, x.2⟩)
  | _, _ => []

/-- What is written at the epoch point: the closing area's header and bitmap, the opening one's header. -/
def State.epochParts (s : State) (k1 : Ckpt) : List AreaPart :=
  s.ckpt.parts [(0, leBytes 256 (s.ckpt.headerBits false s.tick.count)), (256, s.ckpt.bitmap)] ++ k1.parts [(0, leBytes 256 (k1.headerBits true 0))]

/-- Have the writes of the context's page copy been acknowledged? -/
def State.copyAcked (s : State) (c : CtxNo) : Bool := !s.reqs.any (fun r => r.use == .ckpt && r.ctx == c)

/-- Copies whose writes have been acknowledged are no longer in flight: their pages' bits are set (R287). -/
def State.landCopies (s : State) : State :=
  { s with ckpt := { s.ckpt with flights := s.ckpt.flights.filter (fun f => !(f.written && s.copyAcked f.ctx)) } }

/-- The epoch point: the epoch closes, the next opens, the command's reply is ready. The settle points of exports due at its boundary come
before it (R302). -/
def State.epochPoint (s : State) : State :=
  if !s.up || !s.ckpt.effective || s.writingUnit || s.landCopies.ckpt.flights.any (fun f => f.written)
    || s.unshot (fun opens t => opens && !(s.ctx t).bucketRuns) then s else
  match s.ckpt.pending with
  | none => s
  | some c =>
    let gone := (s.ctx c).state == .stopped || (s.ctx c).state == .disabled
    match (if gone then none else findAt (fun m => m.op == 0x30 && m.phase.isRunning) (s.ctx c).cmds 0) with
    | none => { s with ckpt := { s.ckpt with pending := none, effective := false } }
    | some (i, m) =>
      match m.phase with
      | .running (.epochWait base pages slots) =>
        let armed := armedBy (m.f 144 2) s.risk.level.toNat (m.f 146 8)
        let area := (s.opnd m.fmts (m.f 128 16) 0).map (fun o => (o.idx, o.desc, o.fmt))
        let k1 := s.ckpt.opened c m (armed && area.isSome) base pages slots area s.tick.count
        let r := s.areaWrite c m.seq (s.epochParts k1)
        if !r.1 then r.2 else
        let s1 := { r.2 with ckpt := k1, ctxs := r.2.ctxs.map (fun (x : Context) => { x with tracked := false }) }
        s1.finish c i { Reply.ok with
          result0 := k1.epoch, result1 := w32 k1.slots, result2 := if k1.armed then 1 else 0 }
      | _ => s

/-- EPOCH_POINT (R283). -/
def execEpochPoint (s : State) : Out := .next s.epochPoint

/-! ### Page copies (R287, R288) -/

/-- A first write that finds every copy slot used goes ahead uncopied (R288). -/
def Ckpt.miss (k : Ckpt) (i page : Nat) : Ckpt :=
  { k with incomplete := true, missedPages := k.missedPages ++ [i]
           firstMissed := if k.missedPages.isEmpty then page * 65536 else k.firstMissed }

/-- The page as it stands, read through the translation the write obtained (R287). -/
def State.pageBytes (s : State) (c : CtxNo) (page : Nat) : List Byte := s.peekN c (page * 65536) 65536

/-- The next copy slot's bytes and directory entry. -/
def Ckpt.copyParts (k : Ckpt) (o : Opnd) (i : Nat) (bytes : List Byte) : List AreaPart :=
  let b := dirOffset k.watchPages
  let n := k.copied.length
  [⟨k, o, copyBase b k.slots + 65536 * n, bytes⟩, ⟨k, o, b + 8 * n, leBytes 8 (i + k.epoch.toNat * 2 ^ 32)⟩]

/-- Who holds a page copy's staging. -/
def copyUser (c : CtxNo) : Nat := c.val + 8 * 2 ^ 32

/-- The context waits for no page copy any more. -/
def State.copyDone (s : State) (c : CtxNo) : State := (s.dropStaging (copyUser c)).modCtx c (fun y => { y with wantPage := none })

/-- The copy of window page `i` starts: it takes staging, and reads the page into it. At most four are in flight (R287, R289). -/
def State.startCopy (s : State) (c : CtxNo) (seq : Word) (p i : Nat) : State :=
  if 4 ≤ s.ckpt.flights.length then s else
  let h := s.takeStaging c seq 0 16 (copyUser c)
  if !h.1 then h.2 else
  let r := h.2.takeRaw c seq .ckpt (h.2.rawReads c seq .ckpt (p * 65536) 65536)
  if !r.1 then r.2 else { r.2 with ckpt := { r.2.ckpt with flights := r.2.ckpt.flights ++ [⟨c, i, false⟩] } }

/-- The page's bytes and its directory entry are written into the next copy slot: one copy after another, so that slots and entries are
filled in ascending order (R285, R287, log 70). -/
def State.writeCopy (s : State) (c : CtxNo) (seq : Word) (o : Opnd) (p i : Nat) : State :=
  if s.ckpt.flights.find? (fun f => !f.written) != some ⟨c, i, false⟩ then s else
  let r := s.areaWrite c seq (s.ckpt.copyParts o i (s.pageBytes c p))
  if !r.1 then r.2 else
  { r.2 with ckpt := { r.2.ckpt with
      copied := r.2.ckpt.copied ++ [i]
      flights := r.2.ckpt.flights.map (fun f => if f.page = i then { f with written := true } else f) } }

/-- Copy slots used, or taken by copies in flight (R288). -/
def Ckpt.slotsUsed (k : Ckpt) : Nat := k.copied.length + (k.flights.filter (fun f => !f.written)).length

/-- The copy that a context's tracked write waits for: it starts, is written, and once its writes have been acknowledged the write may
proceed; another context's copy of the page is waited for (R287). With every slot used the write proceeds at once (R288). -/
def State.pageCopy (s0 : State) (c : CtxNo) : State :=
  let x := s0.ctx c
  if !s0.alert c then s0 else
  match x.wantPage with
  | none => s0
  | some p =>
    let s := s0.landCopies
    let k := s.ckpt
    match k.window p, k.opnd with
    | some i, some o =>
      if k.settled i then s.copyDone c else
      match k.flight i with
      | some f =>
        if f.ctx = c && !f.written && s.goesOn c x.wantSeq then s.writeCopy c x.wantSeq o p i else s
      | none =>
        if !s.goesOn c x.wantSeq then s
        else if k.slots ≤ k.slotsUsed then ({ s with ckpt := k.miss i p }).copyDone c
        else if (s.xlat c p).isNone then s.copyDone c
        else s.startCopy c x.wantSeq p i
    | _, _ => s.copyDone c

/-- PAGE_COPY (R287). -/
def execPageCopy (c : CtxNo) (s : State) : Out := .next (s.pageCopy c)

end Sys2Proof.Machine
end

