-- ==== Sys2Proof/Machine/Image.lean ====
section
/-! DEFINITION. Export images (14): the header's fields and the bytes of each section, written and read back. The spec lists
each section's contents and length; the order of the fields inside the context section and the cursor records is the model's
(log 22). -/

namespace Sys2Proof.Machine

/-- The values of consecutive fields of the given widths, least significant first. -/
def unpackBits : List Nat → Nat → List Nat
  | [], _ => []
  | w :: t, x => x % 2 ^ w :: unpackBits t (x / 2 ^ w)

/-- Bit mask of a list of numbers below `n`. -/
def maskOf (n : Nat) (l : List Nat) : Nat := packBits ((List.range n).map (fun k => ((l.contains k).toNat, 1)))

/-- The numbers below `n` whose bit is set. -/
def ofMask (n x : Nat) : List Nat := (List.range n).filter (fun k => x / 2 ^ k % 2 == 1)

def CtxState.code : CtxState → Nat
  | .disabled => 0
  | .running => 1
  | .parked => 2
  | .stopped => 3

def CtxState.ofCode (n : Nat) : CtxState := if n = 0 then .disabled else if n = 1 then .running else if n = 2 then .parked else .stopped

def SlotState.code : SlotState → Nat
  | .free => 0
  | .preload => 1
  | .active => 2
  | .held => 3
  | .writeback => 4
  | .releasePending => 5

def SlotState.ofCode (n : Nat) : SlotState :=
  match n with
  | 1 => .preload
  | 2 => .active
  | 3 => .held
  | 4 => .writeback
  | 5 => .releasePending
  | _ => .free

/-- What a context owns, by number, in ascending order. -/
def State.ownDescs (s : State) (c : CtxNo) : List Nat := (List.range 1024).filter (fun k => match s.descAt k with
  | some d => d.ctx == c
  | none => false)
def State.ownSlots (s : State) (c : CtxNo) : List Nat :=
  (List.range 48).filter (fun k => (s.slot k).resident && (s.slot k).ctx == c && (s.slot k).state != .free)
def State.ownTables (s : State) (c : CtxNo) : List Nat := (List.range 8).filter (fun t => (s.rt t).owner == some c)
def State.ownChains (s : State) (c : CtxNo) : List Nat := (List.range 4).filter (fun e => (s.chain e).valid && (s.chain e).owner == c)
def State.ownTouch (s : State) (c : CtxNo) : List Touch := s.touch.filter (fun t => t.ctx == c)

/-! ### Cursor records -/

/-- A reply's fields. -/
def Reply.pack (r : Reply) : List (Nat × Nat) :=
  [(r.status.toNat, 8), (r.fieldSpace.toNat, 2), (r.fieldBit.toNat, 10), (r.entry.toNat, 16), (r.rng.toNat, 1), (r.acc.toNat, 32),
   (r.result0.toNat, 32), (r.result1.toNat, 32), (r.result2.toNat, 32), (r.lost.toNat, 32)]

def replyWidths : List Nat := [8, 2, 10, 16, 1, 32, 32, 32, 32, 32]

/-- A reply from its fields. -/
def Reply.unpack (l : List Nat) : Reply :=
  let g (k : Nat) : Nat := l.getD k 0
  { status := BitVec.ofNat 8 (g 0), fieldSpace := BitVec.ofNat 2 (g 1), fieldBit := BitVec.ofNat 10 (g 2), entry := BitVec.ofNat 16 (g 3)
    rng := g 4 == 1, acc := w32 (g 5), result0 := w32 (g 6), result1 := w32 (g 7), result2 := w32 (g 8), lost := w32 (g 9) }

/-- Does the tile add directly into its resident slot, so that its committed intervals stand at an export? -/
def ProdJob.stands (j : ProdJob) (merge : Bool) (r : TileRun) : Bool := !merge && r.resident && (decide (j.split ≤ 1) || r.tile == 0)

/-- A tile in progress as its cursor record holds it: committed intervals, a code (0 from there, 1 a first segment that waits for its
merge, 2 a resident tile that waits for its record), record word. Transient slots are no part of an image, so what they hold is computed
again (log 22). -/
def ProdJob.runCode (j : ProdJob) (merge : Bool) (r : TileRun) : Nat × Nat × Nat :=
  match r.phase with
  | .fresh => (r.committed, 0, 0)
  | .writeBack => if r.resident then (0, 2, r.recWord.toNat) else (0, 0, 0)
  | .segDone => if j.stands merge r then (0, 1, 0) else (0, 0, 0)
  | .segMerge => if j.stands merge r then (0, 1, 0) else (0, 0, 0)
  | .mergeAdd => (0, 0, 0)
  | _ => if j.stands merge r then (r.committed, 0, 0) else (0, 0, 0)

/-- The first tile that has not left the command. -/
def ProdJob.head (j : ProdJob) : Nat :=
  match j.runs with
  | r :: _ => r.tile
  | [] => j.next

/-- Are segments of a block merged into a tile that does not stand at an export, so that all of them are computed again (R82, R84)? -/
def ProdJob.segsLost (j : ProdJob) (merge : Bool) : Bool :=
  decide (1 < j.split) && j.runs.any (fun r => !j.stands merge r && (r.phase == .writeBack || r.phase == .mergeAdd))

/-- The tiles in progress: four from the head on, a tile that has left before it with code 3. -/
def ProdJob.runFields (j : ProdJob) (merge : Bool) : List (Nat × Nat) :=
  (upFrom j.head 4).flatMap (fun n =>
    let x := match j.runs.find? (fun r => r.tile == n) with
      | some r => j.runCode merge r
      | none => (0, if j.segsLost merge && decide (n < j.tiles.length) then 0 else 3, 0)
    [(x.1, 22), (x.2.1, 2), (x.2.2, 28)])

/-- NEXT_POS of the first tile in progress at its cursor, or of the tile to be opened next (R138). -/
def State.headPos (s : State) (m : Cmd) (j : ProdJob) : Nat :=
  match j.runs with
  | [] =>
    match (if j.tiles.length ≤ j.next then none else s.prod m j.dW) with
    | some p => p.firstPos m j j.next
    | none => j.restored.getD 0
  | r :: _ =>
    match (if j.tiles.isEmpty || (j.runCode (m.bit 12) r).1 == r.committed then none else s.prod m j.dW) with
    | some p => p.nextPos m j (j.tileAt r.tile) 0
    | none => r.nextPos

/-- Rows of the first tile in progress that have been written back. -/
def ProdJob.wbRows (j : ProdJob) : Nat :=
  match j.runs with
  | r :: _ => if r.phase = .writeBack then (if r.resident then 0 else r.row) else j.wbFrom
  | [] => j.wbFrom

/-- The progress of a started command as fields: a kind, then its own. -/
def State.packWork (s : State) (c : CtxNo) (m : Cmd) : Work → List (Nat × Nat)
  | .product j =>
    [(1, 4), (j.jig, 3), (j.split, 3), (j.head, 32), (j.next - j.head, 3), (j.acc.toNat, 28), (j.residentTiles, 32), (j.wrote.toNat, 1),
     (j.hdrMax, 24), (j.hdrFlags.toNat, 4), (s.headPos m j, 48), (j.rng.toNat, 1), (j.wbRows, 8), ((m.seq - j.lead).toNat, 4), (j.lane0 / 8, 4)]
      ++ j.runFields (m.bit 12)
  | .reduceRows row acc _ _ _ => [(2, 4), (row, 48), (acc.toNat, 32)]
  | .load slot row _ => [(3, 4), (slot, 6), (row, 8)]
  | .store slot row written flags _ _ => [(4, 4), (slot, 6), (row, 8), (written, 8), (flags, 4)]
  | .zeroTensor row => [(5, 4), (row, 48)]
  | .copy u _ _ => [(6, 4), (u, 48)]
  | .gather g => [(7, 4), (g.pass, 24), (g.win, 24), (g.neg, 32), (g.oob, 32), (g.used, 32), (g.acc.toNat, 32)]
  | .waitCounter v seen n ok timed => [(8, 4), (v.toNat, 64), (seen.isSome.toNat, 1), (n, 16), (ok.toNat, 1), (timed.toNat, 1)]
  | .closing posted => [(9, 4), (posted.toNat, 1), (((s.ctx c).task.map latchWord).getD 0 |>.toNat, 2)]
  | .send _ => [(0, 4), (m.tailAt.toNat, 32)]
  | .recv _ _ _ _ _ _ _ _ => [(0, 4), (m.tailAt.toNat, 32)]
  | .epochWait _ _ _ => [(0, 4), (m.tailAt.toNat, 32)]
  | .exporting _ _ _ => [(0, 4), (m.tailAt.toNat, 32)]
  | .assume _ => [(0, 4), (m.tailAt.toNat, 32)]
  | .bist => [(0, 4), (m.tailAt.toNat, 32)]

/-- The fault that the context's park left pending at the command. -/
def Context.faultOf (x : Context) (m : Cmd) : Option FaultRec := x.fault.filter (fun f => !f.guard && f.seq == seq16 m.seq)

/-- A pending fault's fields. -/
def faultFields (o : Option FaultRec) : List (Nat × Nat) :=
  match o with
  | some f => [(1, 1), (f.vaddr, 48), (f.desc, 10), (f.read.toNat, 1), (f.write.toNat, 1), (f.perm.toNat, 1), (f.noDesc.toNat, 1), (f.header.toNat, 1), (f.stream, 3)]
  | none => [(0, 67)]

/-- The 64-byte cursor record of a command: its faults, its pending fault, its phase. -/
def State.cursor (s : State) (c : CtxNo) (m : Cmd) : Nat :=
  packBits ([(min 0xFFFFFFFF m.faults, 32)] ++ faultFields ((s.ctx c).faultOf m) ++ (match m.phase with
    | .queued => [(0, 4), (m.tailAt.toNat, 32)]
    | .running w => s.packWork c m w
    | .header u r => [(14, 4), (u.desc, 10), (u.stream, 3), (u.add.toNat, 1), (u.count, 32), (u.flags.toNat, 32), (u.wbs, 32), (u.zero.toNat, 1)]
        ++ r.pack
    | .finished r => (15, 4) :: r.pack))

/-- Widths of the fields after the kind. -/
def cursorWidths (kind : Nat) : List Nat :=
  match kind with
  | 0 => [32]
  | 1 => [3, 3, 32, 3, 28, 32, 1, 24, 4, 48, 1, 8, 4, 4] ++ [22, 2, 28] ++ [22, 2, 28] ++ [22, 2, 28] ++ [22, 2, 28]
  | 2 => [48, 32]
  | 3 => [6, 8]
  | 4 => [6, 8, 8, 4]
  | 5 => [48]
  | 6 => [48]
  | 7 => [24, 24, 32, 32, 32, 32]
  | 8 => [64, 1, 16, 1, 1]
  | 9 => [1, 2]
  | 14 => [10, 3, 1, 32, 32, 32, 1] ++ replyWidths
  | 15 => replyWidths
  | _ => []

/-- Tile number `n` of a command read back from its committed intervals, code and record word. -/
def readRun (n pos committed code recWord : Nat) : TileRun :=
  { tile := n, phase := if code = 1 then .segDone else if code = 2 then .writeBack else .fresh, slot := 0, resident := code != 0
    firstB := false, filled := committed, committed := committed, row := 0, nextPos := pos, recWord := w32 recWord, early := false }

/-- A product's job read back; its tiles come again with its first slice, its tables are bound again (log 22). -/
def State.readJob (s : State) (c : CtxNo) (m : Cmd) (g : Nat → Nat) : ProdJob :=
  let dW := m.op == 1
  let codes := (List.range (g 3)).map (fun k => g (15 + 3 * k))
  let recs := if m.bit 15 ∧ g 1 ≤ 1 then g 2 else 0
  let base : ProdJob :=
    { dW := dW, jig := g 0, split := g 1, interval := 32, eight := false, opaTab := none, dyTab := none, dstTab := none, tiles := []
      next := g 2 + g 3
      runs := (List.range (g 3)).filterMap (fun k =>
        if codes.getD k 3 = 3 then none
        else some (readRun (g 2 + k) (if k = 0 then g 9 else 0) (g (14 + 3 * k)) (codes.getD k 0) (g (16 + 3 * k))))
      mine := [], lane0 := 8 * g 13, lead := m.seq - w32 (g 12), early := false, acc := w32 (g 4)
      computed := g 2 + (codes.filter (· != 0)).length, residentTiles := g 5, records := recs, lost := 0, wrote := g 6 == 1, hdrMax := g 7
      hdrFlags := w32 (g 8), rng := g 10 == 1, wbFrom := g 11, restored := if g 3 = 0 then some (g 9) else none }
  match s.prod m dW with
  | none => base
  | some p =>
    let room := match p.recd with
      | some o => o.desc.size 0 / 16
      | none => 0
    { base with
      eight := p.eight m, interval := promoP (m.f 238 2) (p.eight m), opaTab := s.bindFor c m p.opa, dyTab := s.bindFor c m p.dy
      dstTab := s.bindFor c m p.dst, records := min recs room, lost := recs - room }

/-- The phase field of a cursor record: its kind and its fields. -/
def phaseOf (r : Nat) : Nat × List Nat :=
  let kind := r / 2 ^ 99 % 16
  (kind, unpackBits (cursorWidths kind) (r / 2 ^ 103))

/-- A command's phase read back from its cursor record. -/
def State.readPhase (s : State) (c : CtxNo) (m : Cmd) (r : Nat) : Phase :=
  let l := (phaseOf r).2
  let g (k : Nat) : Nat := l.getD k 0
  let tab (lo : Nat) : Option BoundTable := (s.opnd m.fmts (m.f lo 16) 0).bind (s.bindFor c m)
  match (phaseOf r).1 with
  | 1 => .running (.product (s.readJob c m g))
  | 2 => .running (.reduceRows (g 0) (w32 (g 1)) (tab 128) (tab 144) false)
  | 3 => .running (.load (g 0) (g 1) none)
  | 4 => .running (.store (g 0) (g 1) (g 2) (g 3) ((s.opnd m.fmts (s.slot (g 0)).desc 0).bind (s.bindFor c m)) none)
  | 5 => .running (.zeroTensor (g 0))
  | 6 => .running (.copy (g 0) [] [])
  | 7 => .running (.gather ⟨g 0, g 1, false, [], g 2, g 3, g 4, w32 (g 5)⟩)
  | 8 => .running (.waitCounter (BitVec.ofNat 64 (g 0)) (if g 1 = 1 then some 0 else none) (g 2) (g 3 == 1) (g 4 == 1))
  | 9 => .running (.closing (g 0 == 1))
  | 14 => .header ⟨g 0, g 1, g 2 == 1, g 3, w32 (g 4), g 5, g 6 == 1⟩ (Reply.unpack (l.drop 7))
  | 15 => .finished (Reply.unpack l)
  | _ => .queued

/-- The pending fault in a cursor record, if there is one. -/
def readFault (m : Cmd) (r : Nat) : Option FaultRec :=
  let g (k : Nat) : Nat := (unpackBits [32, 1, 48, 10, 1, 1, 1, 1, 1, 3] r).getD k 0
  if g 1 = 0 then none
  else some ⟨g 2, g 3, g 4 == 1, g 5 == 1, g 6 == 1, g 7 == 1, g 8 == 1, seq16 m.seq, g 9, g 0, false⟩

/-! ### Sections written (R294) -/

/-- Widths of the context section's fields. -/
def ctxWidths : List Nat :=
  [32, 48, 48, 32, 32, 32, 32, 32, 7, 16, 32, 1, 1, 1, 1, 1, 2, 8, 32, 32, 32, 32, 32, 48, 16, 32, 32, 32, 1, 48, 8, 4, 48]
    ++ List.replicate 48 32

/-- The context section's values. -/
def State.ctxValues (s : State) (c : CtxNo) : List Nat :=
  let x := s.ctx c
  [x.cfg.toNat, x.cmdBase.toNat, x.cplBase.toNat, x.cmdHead.toNat, x.cmdTail.toNat, x.cplHead.toNat, x.cplTail.toNat, x.expSeq.toNat,
   x.cmds.length, x.lost.toNat, x.eventSeq.toNat, x.ringFault.toNat, x.doorbellErr.toNat, x.cfgErr.toNat, x.ctrlIgn.toNat,
   x.headErr.toNat, x.parkCause.toNat, x.adj.toNat, x.slices.toNat, x.cuts.toNat, x.overruns.toNat, x.heldTicks.toNat,
   x.bubbles.toNat, x.overrunEc.toNat, x.maxOverrun.toNat, x.oobSilent.toNat, x.idxNeg.toNat, x.idxOob.toNat, x.early.toNat,
   maskOf 48 (s.ownSlots c), maskOf 8 (s.ownTables c), maskOf 4 (s.ownChains c),
   maskOf 48 (match x.task with
     | some t => t.present
     | none => [])]
    ++ (List.range 48).map (fun k => match x.task with
      | some t => (t.word k 0).toNat
      | none => 0)

/-- A command's 128 bytes. -/
def State.cmdBytes (s : State) (c : CtxNo) (m : Cmd) : List Byte := leBytes 64 m.pkt.toNat ++ leBytes 64 (s.cursor c m)

/-- A descriptor's 160 bytes: image, handle, footprint, region indexes. -/
def State.descBytes (s : State) (k : Nat) : List Byte :=
  match s.descAt k with
  | none => []
  | some d => leBytes 128 d.image.toNat ++ leBytes 32 (packBits [(s.handleOf k, 16), (d.lo, 48), (d.hi, 48), (d.region, 8), (d.hdrRegion, 8)])

/-- R99: a slot's tag. -/
def Slot.tag (x : Slot) : Nat :=
  packBits [((x.state != .free).toNat, 1), (x.resident.toNat, 1), (x.state.code, 3), (x.ctx.val, 3), (x.gen.toNat, 7), (x.touched.toNat, 1),
    (x.desc, 10), (x.feat, 3), (0, 3), (x.tileRow, 32), (x.tileCol, 32), (x.acc.toNat, 32)]

/-- A slot's tag and elements, as a reader takes them (R109, R322). -/
def Slot.bytes (x : Slot) : List Byte := leBytes 16 x.tag ++ (List.range 16384).flatMap (fun k => leBytes 8 (x.elem k).toNat)

/-- The task section's 96 bytes; `fault` is a pending fault of a guard read. -/
def taskBytes (t : Option Task) (handle : Nat) (fault : Option FaultRec) : List Byte :=
  match t with
  | none => leBytes 96 0
  | some t =>
    let g := t.guard.getD ⟨0, 0, 0, 0, 0, 0, 0, false⟩
    leBytes 96 (packBits [(t.header, 512), (1, 1), (handle, 16), (t.guard.isSome.toNat, 1), (g.addr, 48), (g.region, 8), (g.commitVal.toNat, 32),
      (g.discardVal.toNat, 32), (g.latch, 2), (g.last.toNat, 32), (g.faults, 32), (t.seq.toNat, 32), (fault.isSome.toNat, 1),
      ((fault.map FaultRec.perm).getD false |>.toNat, 1)])

/-- A touch entry's 16 bytes. -/
def Touch.bytes (t : Touch) : List Byte :=
  leBytes 16 (packBits [(t.unit.kind, 4), (t.unit.desc, 10), (t.unit.feat, 3), (0, 15), (t.unit.row, 32), (t.unit.col, 32)])

/-- A rescale table's 65,632 bytes. -/
def RescaleTable.bytes (t : RescaleTable) : List Byte :=
  leBytes 64 t.hdr.toNat ++ (List.range 4096).flatMap (fun k => leBytes 8 (Tbl.get 0 t.entries k).toNat)
    ++ (List.range 4096).flatMap (fun k => leBytes 8 (Tbl.get emptyRange t.ranges k).toNat)
    ++ leBytes 32 (packBits [(t.conv.toNat, 48), (t.clipLow.toNat, 40), (t.clipHigh.toNat, 40), (t.winConv, 21), (t.winClips, 21),
        (t.drift.toNat, 16), (t.windows.toNat, 32), (t.nanCount.toNat, 32)])

/-- The sections of a context's image, in order. -/
def State.imageBody (s : State) (c : CtxNo) : List Byte :=
  let x := s.ctx c
  leBytes 512 (packBits ((s.ctxValues c).zip ctxWidths))
    ++ x.cmds.flatMap (s.cmdBytes c) ++ (s.ownDescs c).flatMap s.descBytes ++ (s.ownSlots c).flatMap (fun k => (s.seenSlot k).bytes)
    ++ (s.ownChains c).flatMap (fun e => leBytes 8 (s.chain e).entry.toNat)
    ++ taskBytes x.task (match x.task with
      | some t => s.handleOf t.journal
      | none => 0) (x.fault.filter (fun f => f.guard))
    ++ (s.ownTouch c).flatMap Touch.bytes ++ (s.ownTables c).flatMap (fun t => (s.rt t).bytes)

/-- Length of the sections by their counts. -/
def bodyBytes (nCmd nDesc nSlot nTouch nTable nChain : Nat) : Nat :=
  512 + 128 * nCmd + 160 * nDesc + 131088 * nSlot + 8 * nChain + 96 + 16 * nTouch + 65632 * nTable

/-- The sections' length of a context's image. -/
def State.imageBodyLen (s : State) (c : CtxNo) : Nat :=
  bodyBytes (s.ctx c).cmds.length (s.ownDescs c).length (s.ownSlots c).length (s.ownTouch c).length (s.ownTables c).length
    (s.ownChains c).length

/-- The header's fields at the settle point (R294), EXPORT_SEQ and IV still 0. `opens` where a CKPT_ARM takes effect at the export's
boundary: until its epoch point the image belongs to the epoch that it opens, in which the context has written nothing. -/
def State.imageHeader (s : State) (c : CtxNo) (opens : Bool) : Nat :=
  let x := s.ctx c
  let next := opens && s.ckpt.effective
  packBits [(1, 16), (0, 16), (s.eng.jexloVer.toNat, 32), (s.eng.position.toNat, 15), (0, 1), (c.val, 3), (x.state.code, 2),
    ((x.tracked && !next).toNat, 1), (s.ckpt.armed.toNat, 1), (0, 9), (x.key.val, 8), (0, 24), (s.ckpt.epoch.toNat + next.toNat, 32)
    , (s.tick.count.toNat, 32), (0, 160), (s.imageBodyLen c, 32), (x.cmds.length, 7), ((s.ownDescs c).length, 11), ((s.ownSlots c).length, 6)
    , ((s.ownTouch c).length, 13), ((s.ownTables c).length, 4), ((s.ownChains c).length, 3)]

/-- The whole image of a state taken at a settle point, sealed under a key with the current EXPORT_SEQ and random draw `n` (R295). -/
def State.sealImage (s : State) (key : BitVec 256) (hdr : Nat) (body : List Byte) (n : Nat) : List Byte :=
  let iv := s.sec.exportSeq.toNat % 2 ^ 48 + (Config.random n).toNat % 2 ^ 48 * 2 ^ 48
  let h := leBytes 128 (hdr + s.sec.exportSeq.toNat * 2 ^ 192 + iv * 2 ^ 256)
  let r := gcmSeal key (leBytes 12 iv) h body
  h ++ r.1 ++ r.2

/-! ### Sections read back (R296, R297) -/

/-- Bytes `off` to `off + n - 1` as a number. -/
def numAt (l : List Byte) (off n : Nat) : Nat := ofLeBytes ((l.drop off).take n)

/-- A descriptor entry read back: its number, generation and entry, for the context. -/
def readDesc (c : CtxNo) (l : List Byte) (off : Nat) : Nat × BitVec 6 × Desc :=
  let f := unpackBits [16, 48, 48, 8, 8] (numAt l (off + 128) 32)
  let g (k : Nat) : Nat := f.getD k 0
  (g 0 % 1024, BitVec.ofNat 6 (g 0 / 1024), ⟨BitVec.ofNat 1024 (numAt l off 128), c, g 3, g 4, g 1, g 2⟩)

/-- A slot read back for the context; one whose tile was in progress is HELD (log 22). -/
def readSlot (c : CtxNo) (l : List Byte) (off : Nat) : Slot :=
  let f := unpackBits [1, 1, 3, 3, 7, 1, 10, 3, 3, 32, 32, 32] (numAt l off 16)
  let g (k : Nat) : Nat := f.getD k 0
  let st := SlotState.ofCode (g 2)
  { state := if st = .active then .held else st, resident := g 1 == 1, ctx := c, gen := BitVec.ofNat 7 (g 4), touched := g 5 == 1
    desc := g 6, feat := g 7, tileRow := g 9, tileCol := g 10, acc := w32 (g 11), bad := []
    elems := ((List.range 16384).zip (chunks 8 16384 ((l.drop (off + 16)).take 131072))).foldl
      (fun t p => Tbl.put 0 t p.1 (BitVec.ofNat 64 (ofLeBytes p.2))) [] }

/-- The fields of the task section. -/
def taskFields (l : List Byte) (off : Nat) : List Nat :=
  unpackBits [32, 32, 32, 32, 1, 15, 16, 4, 10, 18, 32, 32, 256, 1, 16, 1, 48, 8, 32, 32, 2, 32, 32, 32, 1, 1] (numAt l off 96)

/-- The task section read back. The units first written without a pre-image are counted in it, not listed (log 66). -/
def readTask (l : List Byte) (off : Nat) (present : List Nat) (words : List (Nat × Word)) : Option Task :=
  let g (k : Nat) : Nat := (taskFields l off).getD k 0
  if g 13 = 0 then none else some
    { journal := g 14 % 1024, seq := w32 (g 23), used := g 0, capacity := g 1, entries := g 2, unguarded := g 3, part := g 4 == 1
      firstSeq := BitVec.ofNat 16 (g 6), first := ⟨g 7, g 8, 0, g 10, g 11⟩
      guard := if g 15 = 1 then some ⟨g 16, g 17, w32 (g 18), w32 (g 19), g 20, w32 (g 21), g 22, false⟩ else none
      present := present, words := words, seen := [] }

/-- The pending fault of a guard read in the task section, if there is one. -/
def readGuardFault (l : List Byte) (off : Nat) : Option FaultRec :=
  let g (k : Nat) : Nat := (taskFields l off).getD k 0
  if g 24 = 0 then none
  else some { ringNeed (g 16) false with seq := seq16 (w32 (g 23)), guard := true, perm := g 25 == 1, faults := g 22 }

/-- A touch entry read back. -/
def readTouch (c : CtxNo) (l : List Byte) (off : Nat) : Touch :=
  let f := unpackBits [4, 10, 3, 15, 32, 32] (numAt l off 16)
  let g (k : Nat) : Nat := f.getD k 0
  ⟨c, ⟨g 0, g 1, g 2, g 4, g 5⟩⟩

/-- A rescale table read back. -/
def readTable (c : CtxNo) (l : List Byte) (off : Nat) : RescaleTable :=
  let f := unpackBits [48, 40, 40, 21, 21, 16, 32, 32] (numAt l (off + 65600) 32)
  let g (k : Nat) : Nat := f.getD k 0
  let words (o : Nat) (d : BitVec 64) : Tbl (BitVec 64) :=
    ((List.range 4096).zip (chunks 8 4096 ((l.drop o).take 32768))).foldl (fun t p => Tbl.put d t p.1 (BitVec.ofNat 64 (ofLeBytes p.2))) []
  { hdr := BitVec.ofNat 512 (numAt l off 64), owner := some c, entries := words (off + 64) 0, conv := BitVec.ofNat 48 (g 0)
    clipLow := BitVec.ofNat 40 (g 1), clipHigh := BitVec.ofNat 40 (g 2), winConv := g 3, winClips := g 4, drift := BitVec.ofNat 16 (g 5)
    windows := w32 (g 6), ranges := words (off + 32832) emptyRange, nanCount := w32 (g 7) }

/-- The context's fields read back; its commands, task and pending fault with them. -/
def Context.readBack (x : Context) (v : List Nat) (st : CtxState) (cmds : List Cmd) (task : Option Task) (fault : Option FaultRec) : Context :=
  let g (k : Nat) : Nat := v.getD k 0
  let b (k : Nat) : Bool := g k == 1
  { Context.reset with
    bound := x.bound, key := x.key, state := st, cfg := w32 (g 0), cmdBase := BitVec.ofNat 48 (g 1), cplBase := BitVec.ofNat 48 (g 2)
    cmdHead := w32 (g 3), cmdTail := w32 (g 4), cplHead := w32 (g 5), cplTail := w32 (g 6), expSeq := w32 (g 7)
    lost := BitVec.ofNat 16 (g 9), eventSeq := w32 (g 10), ringFault := b 11, doorbellErr := b 12, cfgErr := b 13, ctrlIgn := b 14
    headErr := b 15, parkCause := if st = .parked then 3 else BitVec.ofNat 2 (g 16), adj := BitVec.ofNat 8 (g 17), slices := w32 (g 18)
    cuts := w32 (g 19), overruns := w32 (g 20), heldTicks := w32 (g 21), bubbles := w32 (g 22), overrunEc := BitVec.ofNat 48 (g 23)
    maxOverrun := BitVec.ofNat 16 (g 24), oobSilent := w32 (g 25), idxNeg := w32 (g 26), idxOob := w32 (g 27), early := b 28
    cmds := cmds, task := task, fault := fault }

end Sys2Proof.Machine
end

