-- ==== Sys2Proof/Machine/Export.lean ====
section
/-! DEFINITION. CTX_EXPORT, settle points, CTX_IMPORT and ASSUME_POSITION (12, 14, 17). -/

namespace Sys2Proof.Machine

/-- The key that seals and opens images of a context: none when unbound or its slot is empty (R332), or once the debug port has been
at FULL by a response (R340). -/
def State.imageKey (s : State) (c : CtxNo) : Option (BitVec 256) :=
  if (s.ctx c).bound && !s.sec.dbgFull then s.sec.keys.get (s.ctx c).key else none

/-! ### CTX_EXPORT (R233, R293) -/

/-- CTX_EXPORT: its checks; once no earlier command uses the bytes that it will write (R203), it waits for the next tick boundary and its
target's settle point. -/
def State.startExport (s : State) (c : CtxNo) : State :=
  match s.starting c 0x31 with
  | none => s
  | some (i, m) =>
    let t := ctxOf (m.f 128 3)
    if t ≠ c ∧ ¬ s.secureCtx c then s.finish c i (.of stDenied)
    else match s.handle c (m.f 144 16), s.opnd m.fmts (m.f 144 16) 0, m.reservedBad with
      | some _, some o, none =>
        if !(o.desc.canWrite && o.byteArea) then s.finish c i (.bad 144)
        else if (s.imageKey t).isNone then s.finish c i (.of stAuth)
        else if !s.noConflict c i m then s
        else s.setPhase c i (.running (.exporting false false none))
      | some _, some _, some r => s.finish c i r
      | _, _, _ => s.finish c i (.of stHandle)

/-- CTX_EXPORT (R293). -/
def execCtxExport (c : CtxNo) (s : State) : Out := .next (s.startExport c)

/-! ### Settle points (R242, R293) -/

/-- Does an oversized unit of the context run, from its admission to its commit (R243)? -/
def State.oversizedRuns (s : State) (c : CtxNo) : Bool :=
  match s.lane.slice with
  | some r => r.ctx == c && r.oversized
  | none => false

/-- Does the context hold no started commit unit, and no bucket command in flight (R242, R243, R280)? -/
def State.canSettle (s : State) (c : CtxNo) : Bool :=
  (s.unitStarts c).isEmpty && !s.oversizedRuns c && !(s.ctx c).cmds.any Cmd.writePhase && !(s.ctx c).bucketRuns

/-- The exports that wait for context `c` take its state: the header's fields and the sections (R293, R294). -/
def Context.noteExports (x : Context) (c : CtxNo) (header : Bool → Nat) (body : List Byte) : Context :=
  { x with cmds := x.cmds.map (fun (m : Cmd) =>
      match m.phase with
      | .running (.exporting true opens none) =>
        if m.f 128 3 = c.val then { m with phase := .running (.exporting true opens (some (header opens, body))) } else m
      | _ => m) }

/-- The export reads the context's slots: an uncorrectable word sets NONFINITE of its slot (R293, R322). -/
def State.readOwnSlots (s : State) (c : CtxNo) : State :=
  (s.ownSlots c).foldl (fun t k => t.modSlot k (fun x => { x with acc := accSet x.acc (⟨false, !x.bad.isEmpty⟩ : Flag).bits })) s

/-- The context's settle point is reached (R242, R293). -/
def State.settle (s0 : State) (c : CtxNo) : State :=
  let s := s0.readOwnSlots c
  let note (x : Context) : Context := x.noteExports c (s.imageHeader c) (s.imageBody c)
  { s with ctxs := (s.ctxs.map note).set c.val { note (s.ctx c) with settled := true } c.isLt }

/-- The first export whose target is the context and whose boundary has come: its context, place and command. -/
def State.dueExport (s : State) (c : CtxNo) : Option (CtxNo × Nat × Cmd) :=
  allCtx.findSome? (fun d => (findAt (fun m => m.exportDue && m.f 128 3 == c.val) (s.ctx d).cmds 0).map (fun p => (d, p.1, p.2)))

/-- Journal header of the target's open task, written at its export (R114). -/
def State.exportJournal (s : State) (c : CtxNo) : List (Opnd × Acc × List Byte) :=
  match (s.ctx c).task with
  | none => []
  | some t =>
    match s.journal t with
    | none => []
    | some o => [(o, { o.areaAcc 0 64 with rctx := some c }, leBytes 64 t.header)]

/-- The image of a state taken at a settle point is written, or refused for want of room, and the reply (R233, R293). -/
def State.writeImage (s : State) (d : CtxNo) (i : Nat) (m : Cmd) (c : CtxNo) (hdr : Nat) (body : List Byte) : State :=
  match s.opnd m.fmts (m.f 144 16) 0, s.imageKey c with
  | some o, some key =>
    let len := 128 + body.length + 16
    if o.desc.size 0 < len then s.finish d i { Reply.bad 144 with result0 := w32 len }
    else
      let a := o.acc true false (o.byteSpans 0 len)
      let js := s.exportJournal c
      let as := a :: js.map (fun x => x.2.1)
      let q := s.openAll d m.seq as
      if !q.1 then q.2 else
      let r := q.2.drawFree
      let s1 := js.foldl (fun t x => t.putArea d (t.refusals d x.2.1) x.1 0 x.2.2) r.2
      let s2 := ((s1.putArea d (s1.refusals d a) o 0 (q.2.sealImage key hdr body r.1)).issue d m.seq .demand as).countOob d
        (q.2.refusals d a).length
      let s3 := { s2 with sec := { s2.sec with exportSeq := s2.sec.exportSeq + 1, exported := true } }
      s3.finish d i { Reply.ok with result0 := w32 len, result1 := w32 (fld (BitVec.ofNat 1024 hdr) 160 32) }
  | none, _ => s.finish d i (.of stHandle)
  | _, none => s.finish d i (.of stAuth)

/-- A context's settle point for the boundary, and the first export that waits for it. While an image is not yet written the context stays as
it settled, also for an export whose boundary comes later. -/
def State.settlePoint (s : State) (c : CtxNo) : State :=
  if !s.up || !s.canSettle c then s else
  let s1 := if (s.ctx c).settled && !s.unshot (fun _ t => t == c) then s else s.settle c
  match s1.dueExport c with
  | none => s1
  | some (d, i, m) =>
    if !s1.alert d then s1 else
    match m.phase with
    | .running (.exporting _ _ (some x)) => s1.writeImage d i m c x.1 x.2
    | _ => s1

/-- SETTLE_POINT (R242, R293). -/
def execSettlePoint (c : CtxNo) (s : State) : Out := .next (s.settlePoint c)

/-! ### CTX_IMPORT (R296, R297) -/

/-- Counts of an image header: commands, descriptors, slots, touch entries, tables, chains. -/
def imageCounts (h : BitVec 1024) : List Nat := [fld h 384 7, fld h 391 11, fld h 402 6, fld h 408 13, fld h 421 4, fld h 425 3]

/-- Section offsets in the image's sections: commands, descriptors, slots, chains, task, touch entries, tables. -/
def sectionAt (h : BitVec 1024) (k : Nat) : Nat :=
  let n (j : Nat) : Nat := (imageCounts h).getD j 0
  let sizes := [512, 128 * n 0, 160 * n 1, 131088 * n 2, 8 * n 5, 96, 16 * n 3]
  ((sizes.take (k + 1)).foldl (· + ·) 0)

/-- Checks 2 and 3 of CTX_IMPORT; `len` is the image area's length. -/
def State.imageHeaderBad (s : State) (h : BitVec 1024) (len : Nat) : Option Reply :=
  firstBad [
    (fld h 0 16 == 1 && fld h 48 16 == fld s.eng.jexloVer 16 16 && len == 128 + fld h 352 32 + 16, .bad 144),
    (fld h 64 15 == s.eng.position.toNat, .bad 144)]

/-- What the sections hold, read back for the target context. -/
structure Import where
  values : List Nat
  descs : List (Nat × BitVec 6 × Desc)
  slots : List (Nat × Slot)
  chains : List (Nat × BitVec 64)
  task : Option Task
  guardFault : Option FaultRec
  touch : List Touch
  tables : List (Nat × RescaleTable)
  cmds : List (BitVec 512 × Nat)

/-- The sections of an opened image. -/
def readImage (c : CtxNo) (h : BitVec 1024) (b : List Byte) : Import :=
  let n (j : Nat) : Nat := (imageCounts h).getD j 0
  let v := unpackBits ctxWidths (numAt b 0 512)
  let each {α : Type} (k cnt size : Nat) (f : Nat → α) : List α := (List.range cnt).map (fun i => f (sectionAt h k + size * i))
  { values := v
    cmds := each 0 (n 0) 128 (fun o => (BitVec.ofNat 512 (numAt b o 64), numAt b (o + 64) 64))
    descs := each 1 (n 1) 160 (readDesc c b)
    slots := (ofMask 48 (v.getD 29 0)).zip (each 2 (n 2) 131088 (readSlot c b))
    chains := (ofMask 4 (v.getD 31 0)).zip (each 3 (n 5) 8 (fun o => BitVec.ofNat 64 (numAt b o 8)))
    task := readTask b (sectionAt h 4) (ofMask 48 (v.getD 32 0)) ((ofMask 48 (v.getD 32 0)).map (fun k => (k, w32 (v.getD (33 + k) 0))))
    guardFault := readGuardFault b (sectionAt h 4)
    touch := each 5 (n 3) 16 (readTouch c b)
    tables := (ofMask 8 (v.getD 30 0)).zip (each 6 (n 4) 65632 (readTable c b)) }

/-- Checks 7 and 8 of R145 for a restored descriptor: its region entry as found now; none when refused. A header's entry is found again
where there is one, and its requests are checked against it (R163). -/
def State.regionsFor (s : State) (c : CtxNo) (d : Desc) : Option Desc :=
  (s.findRegion c d.lo d.hi d.canRead d.canWrite).map (fun r =>
    { d with region := r, hdrRegion := (s.findRegion c d.hdrAddr (d.hdrAddr + 15) true true).getD d.hdrRegion })

/-- Checks 5 to 9 of CTX_IMPORT. -/
def State.importBad (s : State) (c : CtxNo) (x : Import) : Option Reply :=
  firstBad [
    (x.descs.all (fun p => (s.descAt p.1).isNone), .of stNoDesc),
    (x.descs.all (fun p => (s.regionsFor c p.2.2).isSome && decide (p.2.2.hi < 2 ^ 48)), .of stRegion),
    (x.slots.all (fun p => (s.slot p.1).state == .free) && decide (s.residentCount + x.slots.length ≤ 40), .of stNoSlot),
    (decide (s.touch.length + x.touch.length ≤ 4096), .of stNoSlot),
    (x.tables.all (fun p => (s.rt p.1).owner.isNone), .of stTableOwner),
    (x.chains.all (fun p => !(s.chain p.1).valid), .of stChainBusy)]

/-- A restored chain entry: its chained command, if one was in progress, must leave the chain (R187). Its place in the count of
chained commands is not in the image: a free value (log 4). -/
def readChain (c : CtxNo) (e : Nat) (entry : BitVec 64) (seq : BitVec 16) (cmds : List Cmd) : Chain :=
  let k := { Chain.reset with entry := setFld entry 29 3 c.val, seq := seq }.reform
  match findAt (fun m => m.op == 2 && m.f 416 3 == e + 1 && m.phase.isRunning) cmds 0 with
  | some (_, m) => { k with job := some (c, m.seq), due := some 3 }
  | none => k

/-- Everything but the context block restored (R297). -/
def State.restoreParts (s : State) (c : CtxNo) (x : Import) : State :=
  let ds := x.descs.map (fun p => (p.1, (s.regionsFor c p.2.2).getD p.2.2))
  let s1 := { s with
    descs := s.descs ++ ds
    descGen := x.descs.foldl (fun l p => Tbl.put 0 l p.1 p.2.1) s.descGen
    touch := s.touch ++ x.touch }
  let s2 := x.slots.foldl (fun t p => t.setSlot p.1 p.2) s1
  x.tables.foldl (fun t p => t.setRt p.1 p.2) s2

/-- Ring indices of consecutive packets from index `i` on. -/
def ringPlaces : Word → List (BitVec 512) → List Word
  | _, [] => []
  | i, p :: t => i :: ringPlaces (i + BitVec.ofNat 32 (entryCount p)) t

/-- The restored commands of the context: those before CMD_HEAD. A queued one has the CMD_TAIL of its admission (R206). -/
def State.readCmds (s : State) (c : CtxNo) (head : Word) (l : List (BitVec 512 × Nat)) : List Cmd :=
  let n := (l.map (fun p => entryCount p.1)).foldl (· + ·) 0
  (l.zip (ringPlaces (head - BitVec.ofNat 32 n) (l.map (·.1)))).map (fun x =>
    let f := phaseOf x.1.2
    let m : Cmd := { pkt := x.1.1, fmts := s.fmts, tabs := [], ringAt := x.2, tailAt := if f.1 = 0 then w32 (f.2.headD 0) else x.2
                     phase := .queued, faults := x.1.2 % 2 ^ 32, img := none }
    { m with phase := s.readPhase c m x.1.2 })

/-- The pending fault of an image: in a command's cursor record, or of a guard read. -/
def Import.fault (x : Import) (cmds : List Cmd) : Option FaultRec :=
  ((cmds.zip x.cmds).filterMap (fun p => readFault p.1 p.2.2)).head?.or x.guardFault

/-- A restored slot whose generation had advanced with the admission of a restored ACCSTORE with RELEASE (R109). -/
def Slot.beforeRelease (x : Slot) (k : Nat) (cmds : List Cmd) : Slot :=
  if cmds.any (fun m => m.phase.isQueued && m.op == 5 && m.bit 12 && m.reservedBad.isNone && m.f 128 16 == { x with gen := x.gen - 1 }.handle k)
  then { x with gen := x.gen - 1 } else x

/-- An accepted import (R297). -/
def State.restoreImage (s : State) (c : CtxNo) (h : BitVec 1024) (x : Import) : State :=
  let s1 := s.restoreParts c x
  let cmds := s1.readCmds c (w32 (x.values.getD 3 0)) x.cmds
  let s2 := x.chains.foldl (fun t p =>
    let r := t.drawFree
    r.2.setChain p.1 (readChain c p.1 p.2 ((Config.freeWord r.1).setWidth 16) cmds)) s1
  let s3 := x.slots.foldl (fun t p => t.modSlot p.1 (fun y => y.beforeRelease p.1 cmds)) s2
  s3.modCtx c (fun y => y.readBack x.values (CtxState.ofCode (fld h 83 2)) cmds x.task (x.fault cmds))

/-- The image opened under the target's key, when its KEY_SLOT is the slot the target is bound to (check 4). -/
def State.openImage (s : State) (t : CtxNo) (h : BitVec 1024) (bytes : List Byte) : Option (List Byte) :=
  match s.imageKey t with
  | none => none
  | some key =>
    if (s.ctx t).key.val ≠ fld h 96 8 then none
    else
      let n := fld h 352 32
      gcmOpen key (leBytes 12 (fld h 256 96)) (bytes.take 128) ((bytes.drop 128).take n) ((bytes.drop (128 + n)).take 16)

/-- CTX_IMPORT after its handle and reserved-bit checks. -/
def State.importImage (s : State) (c : CtxNo) (i : Nat) (m : Cmd) (o : Opnd) : State :=
  let t := ctxOf (m.f 128 3)
  if (s.ctx t).state ≠ .disabled ∨ (s.ctx t).resetting then s.finish c i (.bad 128)
  else if !(o.desc.canRead && o.byteArea && decide (128 ≤ o.desc.size 0)) then s.finish c i (.bad 144)
  else
    let a1 := o.acc false false (o.byteSpans 0 128)
    let q := s.openAll c m.seq [a1]
    if !q.1 then q.2 else
    let h : BitVec 1024 := BitVec.ofNat 1024 (ofLeBytes (q.2.areaBytes c (q.2.refusals c a1) o 0 128))
    match q.2.imageHeaderBad h (o.desc.size 0) with
    | some r => q.2.finish c i r
    | none =>
      let a := o.acc false false (o.byteSpans 0 (o.desc.size 0))
      let p := q.2.openAll c m.seq [a]
      if !p.1 then p.2 else
      let bytes := p.2.areaBytes c (p.2.refusals c a) o 0 (o.desc.size 0)
      let s1 := p.2.closeUnit c m.seq [a]
      match s1.openImage t h bytes with
      | none => s1.finish c i (.of stAuth)
      | some body =>
        let x := readImage t h body
        match s1.importBad t x with
        | some r => s1.finish c i r
        | none => (s1.restoreImage t h x).finish c i { Reply.ok with result0 := w32 (fld h 160 32) }

/-- CTX_IMPORT: after every earlier command, from a secure context only. -/
def State.startImport (s : State) (c : CtxNo) : State :=
  match s.starting c 0x32 with
  | none => s
  | some (i, m) =>
    if !s.earlierDone c i then s
    else if !s.secureCtx c then s.finish c i (.of stDenied)
    else match s.handle c (m.f 144 16), s.opnd m.fmts (m.f 144 16) 0, m.reservedBad with
      | some _, some o, none => s.importImage c i m o
      | some _, some _, some r => s.finish c i r
      | _, _, _ => s.finish c i (.of stHandle)

/-- CTX_IMPORT (R296). -/
def execCtxImport (c : CtxNo) (s : State) : Out := .next (s.startImport c)

/-! ### ASSUME_POSITION (R298, R299) -/

/-- Is a position valid: its die number below 20 (R8)? -/
def positionOk (p : Nat) : Bool := decide (p / 16 % 32 < 20)

/-- Is a job context ACTIVE on any channel? -/
def State.jobActive (s : State) : Bool := s.port.chans.toList.any (fun ch => ch.jobs.any (fun j => j.state == .active))

/-- R259: reserved bits of a group entry that must be zero. -/
def groupReservedOk (g : BitVec 256) : Bool :=
  [(9, 3), (31, 1), (47, 1), (51, 13), (79, 1), (95, 1), (111, 1), (127, 1), (143, 1), (159, 1), (175, 1), (207, 49)].all
    (fun p => fld g p.1 p.2 == 0)

/-- R299: a job record's reserved bits. -/
def recordReservedOk (r : BitVec 128) : Bool := fld r 21 11 == 0 && fld r 48 80 == 0

/-- The job context a record makes on one channel: digests zero, IDLE or FAILED, its group entry copied. -/
def recordCtx (groups : Vector (BitVec 256) 16) (r : BitVec 128) (now : Nat) : JobCtx :=
  { job := r.extractLsb' 0 12, state := if bitAt r 20 then .failed else .idle, group := groups.toList.getD (fld r 8 4) 0, exact := bitAt r 18
    strict := bitAt r 19, timeout := some (r.extractLsb' 32 16), sent := 0, recv := 0, last := now, credits := 0 }

/-- A channel whose job contexts are those of the records that mark it; at most 64, later records replacing the oldest (R260). -/
def Channel.assume (ch : Channel) (groups : Vector (BitVec 256) 16) (k : Nat) (recs : List (BitVec 128)) (now : Nat) : Channel :=
  let mine := recs.filter (fun r => bitAt r (12 + k))
  { ch with
    jobs := (mine.map (fun r => recordCtx groups r now)).drop (mine.length - 64), inq := [], rx := []
    owing := ch.owing ++ (ch.jobs.filter (fun j => j.credits != 0)).map (fun j => (j.job, j.credits)) }

/-- A channel's neighbour-report word (R357). -/
def Train.word (t : Train) : Word := BitVec.ofNat 32 (packBits [(t.partner.toNat, 16), (t.link.toNat, 2), (0, 6), (t.retrains.toNat, 8)])

/-- One report word brought up to date; REPORT_SEQ advances when it changes (R357). -/
def State.reportCh (s : State) (k : Chan) : State :=
  let w := (s.train.get k).word
  if s.mgmt.reports.get k = w then s
  else { s with mgmt := { s.mgmt with reports := s.mgmt.reports.set k.val w k.isLt, reportSeq := s.mgmt.reportSeq + 1 } }

/-- The whole report brought up to date. -/
def State.report (s : State) : State := ([0, 1, 2, 3, 4, 5] : List Chan).foldl State.reportCh s

/-- Training starts again on every channel, as at start-up (R298, R356). -/
def Train.restart (t : Train) (now : Nat) : Train :=
  { Train.reset with retrains := t.retrains, partner := t.partner, probing := true, nextProbe := now }

/-- Steps 1 to 5: channels stopped, position, group table and job contexts replaced, training begun. -/
def State.takePosition (s : State) (pos : Nat) (groups : Vector (BitVec 256) 16) (recs : List (BitVec 128)) : State :=
  State.report { s with
    eng := { s.eng with position := BitVec.ofNat 15 pos }
    groups := groups
    port := { s.port with
      chans := Vector.ofFn (fun (k : Fin 6) => (s.port.chans.get k).assume groups k.val recs s.now)
      jobs := [], inputs := [], partials := [], results := [], aborts := [] }
    train := s.train.map (fun (t : Train) => t.restart s.now) }

/-- The area of JOBS_DESC: header, group table, records (R299). -/
def State.assumeArea (s : State) (c : CtxNo) (i : Nat) (m : Cmd) (o : Opnd) : State :=
  let len := min (o.desc.size 0) (528 + 16 * 4096)
  let a := o.acc false false (o.byteSpans 0 len)
  let q := s.openAll c m.seq [a]
  if !q.1 then q.2 else
  let b := q.2.areaBytes c (q.2.refusals c a) o 0 len
  let s1 := q.2.closeUnit c m.seq [a]
  let n := numAt b 0 16 % 2 ^ 13
  let groups : Vector (BitVec 256) 16 := Vector.ofFn (fun (k : Fin 16) => BitVec.ofNat 256 (numAt b (16 + 32 * k.val) 32))
  let recs : List (BitVec 128) := (List.range n).map (fun k => BitVec.ofNat 128 (numAt b (528 + 16 * k) 16))
  if 4096 < n ∨ o.desc.size 0 < 528 + 16 * n ∨ numAt b 0 16 / 2 ^ 13 ≠ 0 ∨ ¬ (groups.toList.all groupReservedOk && recs.all recordReservedOk)
  then s1.finish c i (.bad 144)
  else (s1.takePosition (m.f 128 15) groups recs).setPhase c i (.running (.assume s.now))

/-- ASSUME_POSITION's checks, or its reply once every channel has trained or 2 ms have passed (R298). -/
def State.assumePosition (s : State) (c : CtxNo) : State :=
  match s.continuing c 0x33 with
  | some (i, m) =>
    match m.phase with
    | .running (.assume since) =>
      let up := s.train.toList.map (fun t => t.link == 1)
      if up.all id ∨ since + 2800000 ≤ s.now then
        s.finish c i { Reply.ok with result0 := w32 (packBits (up.map (fun b => (b.toNat, 1)))) }
      else s
    | _ => s
  | none =>
    match s.starting c 0x33 with
    | none => s
    | some (i, m) =>
      if !s.earlierDone c i then s
      else if !s.secureCtx c then s.finish c i (.of stDenied)
      else match s.handle c (m.f 144 16), s.opnd m.fmts (m.f 144 16) 0, m.reservedBad with
        | some _, some o, none =>
          if !positionOk (m.f 128 15) || (allCtx.any (fun d => d != c && (s.ctx d).state != .disabled)) || s.jobActive then
            s.finish c i (.bad 128)
          else if !(o.desc.canRead && o.byteArea && decide (528 ≤ o.desc.size 0)) then s.finish c i (.bad 144)
          else s.assumeArea c i m o
        | some _, some _, some r => s.finish c i r
        | _, _, _ => s.finish c i (.of stHandle)

/-- ASSUME_POSITION (R298). -/
def execAssumePosition (c : CtxNo) (s : State) : Out := .next (s.assumePosition c)

end Sys2Proof.Machine
end

