-- ==== Sys2Proof/Machine/Packet.lean ====
section
/-! DEFINITION. Reduction-port packets, group entries and the channels a job uses (13). -/

namespace Sys2Proof

open Machine

/-! ### Packet header (R258) -/

def Packet.job (p : Packet) : BitVec 12 := p.hdr.extractLsb' 0 12
def Packet.kind (p : Packet) : Nat := fld p.hdr 12 4
def Packet.bucket (p : Packet) : Nat := fld p.hdr 16 16
def Packet.offset (p : Packet) : Nat := fld p.hdr 32 21
def Packet.isLast (p : Packet) : Bool := bitAt p.hdr 53
def Packet.strict (p : Packet) : Bool := bitAt p.hdr 54
def Packet.exact (p : Packet) : Bool := bitAt p.hdr 55
def Packet.valid (p : Packet) : Nat := fld p.hdr 56 7
def Packet.pos (p : Packet) : Nat := fld p.hdr 64 15
def Packet.subject (p : Packet) : Nat := fld p.hdr 80 15
def Packet.contrib (p : Packet) : Nat := fld p.hdr 96 16
def Packet.rounds (p : Packet) : Nat := fld p.hdr 112 16
def Packet.hops (p : Packet) : Nat := fld p.hdr 128 16
def Packet.omitted (p : Packet) : Nat := fld p.hdr 144 16
def Packet.backups (p : Packet) : Nat := fld p.hdr 160 16
def Packet.sat (p : Packet) : Bool := bitAt p.hdr 176
def Packet.nf (p : Packet) : Bool := bitAt p.hdr 177

/-- Payload element `k` (R258). -/
def Packet.elem (p : Packet) (k : Nat) : Nat := fld p.payload (16 * k) 16

end Sys2Proof

namespace Sys2Proof.Machine

/-- A 16-bit field that saturates. -/
def sat16 (n : Nat) : Nat := min n 0xFFFF

/-- The fields of a header that its maker decides. -/
structure HdrSpec where
  kind : Nat
  job : BitVec 12
  bucket : Nat
  offset : Nat
  isLast : Bool
  strict : Bool
  exact : Bool
  valid : Nat
  pos : Nat
  subject : Nat
  contrib : Nat
  rounds : Nat
  hops : Nat
  omitted : Nat
  backups : Nat
  sat : Bool
  nf : Bool
  cause : Nat
  deriving DecidableEq, Repr

/-- The header flit (R258). -/
def HdrSpec.bits (h : HdrSpec) : BitVec 512 :=
  BitVec.ofNat 512 (packBits [(h.job.toNat, 12), (h.kind, 4), (h.bucket, 16), (h.offset, 21), (h.isLast.toNat, 1), (h.strict.toNat, 1),
    (h.exact.toNat, 1), (h.valid, 7), (0, 1), (h.pos, 15), (0, 1), (h.subject, 15), (0, 1), (sat16 h.contrib, 16), (sat16 h.rounds, 16),
    (sat16 h.hops, 16), (sat16 h.omitted, 16), (sat16 h.backups, 16), (h.sat.toNat, 1), (h.nf.toNat, 1), (h.cause, 2)])

/-- A packet from its header fields and its elements; positions beyond them carry zero (R258). -/
def HdrSpec.packet (h : HdrSpec) (vals : List Nat) : Packet :=
  ⟨h.bits, BitVec.ofNat 2048 (packBits (vals.map (fun v => (v, 16))))⟩

end Sys2Proof.Machine

namespace Sys2Proof

open Machine

/-- The fields of a received header. -/
def Packet.spec (p : Packet) : HdrSpec :=
  { kind := p.kind, job := p.job, bucket := p.bucket, offset := p.offset, isLast := p.isLast, strict := p.strict, exact := p.exact
    valid := p.valid, pos := p.pos, subject := p.subject, contrib := p.contrib, rounds := p.rounds, hops := p.hops
    omitted := p.omitted, backups := p.backups, sat := p.sat, nf := p.nf, cause := fld p.hdr 178 2 }

/-- A RESULT as it is forwarded: only HOPS changes (R264). -/
def Packet.onward (p : Packet) : Packet := { p with hdr := setFld p.hdr 128 16 (sat16 (p.hops + 1)) }

/-- The 320 bytes of a packet, header flit first (R278). -/
def Packet.bytes (p : Packet) : List Byte := leBytes 64 p.hdr.toNat ++ leBytes 256 p.payload.toNat

end Sys2Proof

namespace Sys2Proof.Machine

/-! ### Group entry (R259) -/

abbrev Group := BitVec 256

def gValid (g : Group) : Bool := bitAt g 0
def gNode (g : Group) : Nat := fld g 1 2
def gRoot (g : Group) : Bool := bitAt g 3
def gMembers (g : Group) : Nat := fld g 16 15 + 1
def gIndex (g : Group) : Nat := fld g 32 15
def gRingIn (g : Group) : Nat := fld g 48 2
def gRingOut (g : Group) : Chan := if bitAt g 50 then 5 else 4
def gChild (g : Group) (k : Nat) : Nat := fld g (96 + 16 * k) 15

/-- Does this engine host a tree node? -/
def gHosts (g : Group) : Bool := gNode g == 1 || gNode g == 2

/-- The channels that carry tree inputs to the node here. -/
def gInputs (g : Group) : List Nat := if gHosts g then (List.range 4).filter (fun k => bitAt g (4 + k)) else []

/-- Does IN3 carry backup copies (R259)? -/
def gBackup (g : Group) : Bool := bitAt g 8 && gNode g == 1 && !bitAt g 7

/-- The expected inputs of the node here, the own contribution of a level-1 node last (R265). -/
def gExpected (g : Group) : List Nat := gInputs g ++ (if gNode g = 1 then [4] else [])

/-- Channel number `k` modulo 6. -/
def chanOf (k : Nat) : Chan := ⟨k % 6, Nat.mod_lt k (by decide)⟩

/-- The channels a node sends results down (R264). -/
def gDown (g : Group) : List Chan := (gInputs g ++ (if gBackup g then [3] else [])).map chanOf

/-- A backup sender's entry (R273). -/
def gIsBackup (g : Group) : Bool := bitAt g 191 && gNode g == 0

/-- The channels a job uses at this engine (R260, R264, R267). -/
def gChannels (g : Group) (strict : Bool) : List Chan :=
  if strict then [chanOf (gRingIn g), gRingOut g]
  else gDown g ++ (if gHosts g && !gRoot g then [4] else []) ++ (if gNode g = 1 then [] else [5])

/-- Where a normal-mode member's result comes from; none: the root's own sum (R264). -/
def gResultFrom (g : Group) : Option Chan :=
  if gHosts g then (if gRoot g then none else some 4) else some 5

/-- The position a packet must come from; none: no such packet belongs on the channel (R275). A RESULT keeps the position of
the engine that made it (R264), so it has none to match and only its channel counts. -/
def peerOf (g : Group) (strict : Bool) (ch : Chan) (kind : Nat) : Option Nat :=
  let down := if gInputs g |>.contains ch.val then some (gChild g ch.val) else none
  if !gValid g then none
  else if strict then
    if kind ≠ 2 ∧ ch.val = gRingIn g then some (fld g 160 15)
    else if kind = 3 ∧ ch = gRingOut g then some (fld g 176 15) else none
  else match kind with
    | 0 => down
    | 2 => if gBackup g && ch == 3 then some (gChild g 3) else none
    | 3 =>
      if ch = 4 then (if gHosts g && !gRoot g then some (fld g 64 15) else none)
      else if ch = 5 then (if gNode g = 1 then none else some (fld g 80 15))
      else if gBackup g && ch == 3 then some (gChild g 3) else down
    | _ => none

/-- Does a RESULT belong on the channel? -/
def resultHere (g : Group) (strict : Bool) (ch : Chan) : Bool :=
  gValid g && (if strict then ch.val == gRingIn g else gResultFrom g == some ch)

/-- Does a RESULT come here that no one takes: the node above sends its results down every channel of IN_MASK, also to a member that
hosts an upper node and takes its result on OUT0 (R264)? -/
def resultUnused (g : Group) (strict : Bool) (ch : Chan) : Bool :=
  gValid g && !strict && ch == 5 && gNode g == 2

/-- The expected input that a position is, at a node whose engine is at `own`. -/
def inputAt (g : Group) (own pos : Nat) : Option Nat :=
  (gExpected g).find? (fun k => (if k = 4 then own else gChild g k) == pos)

/-- Ring: does member `r` of `m` start packet `p`, and does it own it (R267)? -/
def ringStarts (m r p : Nat) : Bool := (p % m + 1) % m == r
def ringOwns (m r p : Nat) : Bool := p % m == r

/-- Does the member send a RESULT packet for `p` on: every one but member (o - 1) mod M (R267)? -/
def ringSends (m r p : Nat) : Bool := (p % m + m - 1) % m != r

end Sys2Proof.Machine
end

