-- ==== Sys2Proof/Machine/Port.lean ====
section
/-! DEFINITION. The reduction port (13): job contexts, credits, tree nodes, forwarding, late inputs, failure. -/

namespace Sys2Proof.Machine

/-! ### Access -/

/-- Channel `k` of the port. -/
def State.portCh (s : State) (k : Chan) : Channel := s.port.chans.get k

/-- The state with the port changed by `f`. -/
def State.modPort (s : State) (f : Port → Port) : State := { s with port := f s.port }

/-- The state with channel `k` changed by `f`. -/
def State.modCh (s : State) (k : Chan) (f : Channel → Channel) : State :=
  s.modPort (fun (p : Port) => { p with chans := p.chans.set k.val (f (s.portCh k)) k.isLt })

/-- All channels. -/
def allChans : List Chan := [0, 1, 2, 3, 4, 5]

/-- The job context of a channel. -/
def Channel.ctx (ch : Channel) (job : BitVec 12) : Option JobCtx := ch.jobs.find? (fun (j : JobCtx) => j.job == job)

/-- The job context of a channel changed by `f`. -/
def Channel.modJob (ch : Channel) (job : BitVec 12) (f : JobCtx → JobCtx) : Channel :=
  { ch with jobs := ch.jobs.map (fun (j : JobCtx) => if j.job = job then f j else j) }

/-- The job's contexts at this engine. -/
def State.jobCtxs (s : State) (job : BitVec 12) : List JobCtx := allChans.filterMap (fun k => (s.portCh k).ctx job)

/-- The engine's record of a job; a new one is empty. -/
def State.jobRec (s : State) (job : BitVec 12) : Job :=
  (s.port.jobs.find? (fun (j : Job) => j.id == job)).getD ⟨job, none, [], [], none, 0⟩

/-- The engine's record of a job changed by `f`. -/
def State.modJob (s : State) (job : BitVec 12) (f : Job → Job) : State :=
  s.modPort (fun (p : Port) => { p with jobs := f (s.jobRec job) :: p.jobs.filter (fun (j : Job) => j.id != job) })

/-- The group table's entry of a job (R259). -/
def State.groupEntry (s : State) (job : BitVec 12) : Group := s.groups.toList.getD (fld job 8 4) 0

/-- The group entry of a job: its contexts' copy, else the table's (R259). -/
def State.jobGroup (s : State) (job : BitVec 12) : Group :=
  match s.jobCtxs job with
  | j :: _ => j.group
  | [] => s.groupEntry job

/-- Has the job failed at this engine (R274)? -/
def State.jobFailed (s : State) (job : BitVec 12) : Bool := (s.jobCtxs job).any (fun (j : JobCtx) => j.state == .failed)

/-- Packets of a job in the buffers of the channels. -/
def State.jobPackets (s : State) (job : BitVec 12) : Bool :=
  allChans.any (fun k => (s.portCh k).rx.any (fun p => p.job == job) || (s.portCh k).inq.any (fun p => p.job == job))

/-- A running bucket command of the job. -/
def Cmd.bucketOf (m : Cmd) (job : BitVec 12) : Bool :=
  (m.op == 0x20 || m.op == 0x21) && m.f 144 12 == job.toNat && m.phase.isRunning

/-- Is a bucket command, or a bucket packet, of the job in flight here (R260)? -/
def State.jobBusy (s : State) (job : BitVec 12) : Bool :=
  s.ctxs.toList.any (fun (x : Context) => x.cmds.any (fun m => m.bucketOf job)) || s.jobPackets job
    || s.port.partials.any (fun (p : Partial) => p.job == job) || s.port.results.any (fun (h : Held) => h.pkt.job == job)
    || s.port.inputs.any (fun (i : Input) => i.job == job && !i.done && !i.gone)

/-- Contexts of jobs become ACTIVE or IDLE as their bucket commands and packets come and go; a FAILED one stays (R260). -/
def State.refreshJobs (s : State) : State :=
  s.modPort (fun (p : Port) => { p with chans := p.chans.map (fun (ch : Channel) =>
    { ch with jobs := ch.jobs.map (fun (j : JobCtx) =>
        if j.state = .failed then j else { j with state := if s.jobBusy j.job then .active else .idle }) }) })

/-- A job without contexts and with nothing in flight is forgotten; a kept record goes with it (R277). -/
def State.forget (s : State) (job : BitVec 12) : State :=
  if (s.jobCtxs job).isEmpty && !s.jobBusy job then
    s.modPort (fun (p : Port) => { p with
      jobs := p.jobs.filter (fun (j : Job) => j.id != job), inputs := p.inputs.filter (fun (i : Input) => i.job != job) })
  else s

/-! ### Contexts (R260) -/

/-- Credits of a job without a context that have not been returned (R270). -/
def Channel.owed (ch : Channel) (job : BitVec 12) : Nat := ((ch.owing.find? (fun x => x.1 == job)).map (·.2)).getD 0

/-- Contexts freed: their packets still stand in the receiver's buffer, so their credits stay counted (R270). -/
def Channel.freeCtxs (ch : Channel) (p : JobCtx → Bool) : Channel :=
  let gone := ch.jobs.filter (fun (j : JobCtx) => p j && j.credits != 0)
  { ch with jobs := ch.jobs.filter (fun (j : JobCtx) => !p j), owing := ch.owing ++ gone.map (fun (j : JobCtx) => (j.job, j.credits)) }

/-- A context allocated: credits of the job that are still out are its own again. -/
def Channel.addCtx (ch : Channel) (j : JobCtx) : Channel :=
  { ch with jobs := ch.jobs ++ [{ j with credits := ch.owed j.job }], owing := ch.owing.filter (fun x => x.1 != j.job) }

/-- A credit of a job returns (R270). -/
def Channel.credit (ch : Channel) (job : BitVec 12) : Channel :=
  match ch.ctx job with
  | some _ => ch.modJob job (fun (j : JobCtx) => { j with credits := j.credits - 1 })
  | none =>
    { ch with owing := (ch.owing.map (fun x => if x.1 = job then (x.1, x.2 - 1) else x)).filter (fun x => x.2 != 0) }

/-- The context whose last activity is oldest among those that may be reclaimed. -/
def oldestIdle : List JobCtx → Option JobCtx
  | [] => none
  | j :: t =>
    match oldestIdle t with
    | none => if j.state = .active then none else some j
    | some b => if j.state = .active then some b else if b.last < j.last then some b else some j

/-- A channel with a context for the job: the one it has, a new one, or one reclaimed; none when all are ACTIVE. -/
def State.allocCtx (s : State) (k : Chan) (j : JobCtx) : Option State :=
  let ch := s.portCh k
  match ch.ctx j.job with
  | some _ => some s
  | none =>
    if ch.jobs.length < 64 then some (s.modCh k (fun (c : Channel) => c.addCtx j))
    else match oldestIdle ch.jobs with
      | none => none
      | some v => some ((s.modCh k (fun (c : Channel) => (c.freeCtxs (fun (x : JobCtx) => x.job == v.job)).addCtx j)).forget v.job)

/-- A fresh context: it copies the table's entry at its allocation (R259), and is FAILED in a job that has failed (R274). -/
def State.freshCtx (s : State) (job : BitVec 12) (exact strict : Bool) (timeout : Option (BitVec 16)) : JobCtx :=
  { job := job, state := if s.jobFailed job then .failed else .active, group := s.groupEntry job, exact := exact, strict := strict
    timeout := timeout, sent := 0, recv := 0, last := s.now, credits := 0 }

/-! ### Credits and links (R270, R278, R281) -/

/-- Packets a job holds of the shared buffer at the receiver. -/
def JobCtx.shared (j : JobCtx) : Nat := j.credits - 2

/-- Packets in the shared part of the receiver's buffer: those beyond the reserves, and all of jobs whose context was freed. -/
def Channel.shared (ch : Channel) : Nat := (ch.jobs.map JobCtx.shared).foldl (· + ·) 0 + (ch.owing.map (·.2)).foldl (· + ·) 0

/-- Is there a credit for another packet of the job: its reserve of two, or the shared 256, 192 a job at most? -/
def Channel.creditFor (ch : Channel) (job : BitVec 12) : Bool :=
  let n := match ch.ctx job with
    | some j => j.credits
    | none => ch.owed job
  decide (n < 2) || (decide (n - 2 < 192) && decide (ch.shared < 256))

/-- A channel that trains again holds its job packets in their buffers: none is sent on it, and none that came over it is taken (R358). -/
def State.retraining (s : State) (k : Chan) : Bool := (s.train.get k).retrains != 0 && (s.train.get k).link != 1

/-- A packet handed to a channel's link, against a credit; none when it has to wait. -/
def State.trySend (s : State) (k : Chan) (p : Packet) : Option State :=
  if s.retraining k then none else
  match s.allocCtx k (s.freshCtx p.job p.exact p.strict none) with
  | none => none
  | some s1 =>
    if !(s1.portCh k).creditFor p.job then none else
    let s2 := s1.modCh k (fun (ch : Channel) => { (ch.modJob p.job (fun (j : JobCtx) =>
      { j with sent := crc64 j.sent p.bytes, last := s.now, credits := j.credits + 1 })) with pktsSent := satAdd ch.pktsSent 1 })
    some (s2.modPort (fun (q : Port) => { q with out := q.out ++ [(k, p)] }))

/-- A packet leaves its receive buffer: its credit returns to the sender (R270). -/
def State.freeBuffer (s : State) (k : Chan) (job : BitVec 12) : State :=
  s.modPort (fun (p : Port) => { p with creditOut := p.creditOut ++ [(k, job)] })

/-- A packet removed from a channel's buffer, with its credit. -/
def State.dropRx (s : State) (k : Chan) (p : Packet) : State :=
  (s.modCh k (fun (ch : Channel) => { ch with rx := dropFirst (fun q => q == p) ch.rx })).freeBuffer k p.job

/-- A packet dropped under R272. -/
def State.lateDrop (s : State) (k : Chan) : State := s.modCh k (fun (ch : Channel) => { ch with lateDrop := satAdd ch.lateDrop 1 })

/-! ### Records and failure (R274, R277) -/

/-- The REDUCE_JOB payload (R277). -/
def reducePayload (job : BitVec 12) (cause bucket pos chan offset idle : Nat) : BitVec 128 :=
  BitVec.ofNat 128 (packBits [(job.toNat, 12), (cause, 4), (bucket, 16), (pos, 15), (0, 1), (chan, 3), (0, 13), (offset, 21), (0, 11),
    (min idle 0xFFFFFFFF, 32)])

/-- A record to the context of the job's most recent bucket command; before any, the first is kept (R277). -/
def State.reduceRecord (s : State) (job : BitVec 12) (payload : BitVec 128) : State :=
  let j := s.jobRec job
  match j.issuer with
  | some c => s.event c 0x06 payload
  | none => if j.kept.isSome then s else s.modJob job (fun (x : Job) => { x with kept := some payload })

/-- Microseconds of 1,400 EC since a time. -/
def State.idleUs (s : State) (since : Nat) : Nat := (s.now - since) / 1400

/-- What a BUCKET_RECV reports (R276). -/
def recvReply (status : Byte) (elems minContrib maxRounds backups omitted : Nat) (f : Flag) : Reply :=
  { Reply.of status with
    acc := accMake 0 f.bits, result0 := w32 elems, result1 := w32 (minContrib + maxRounds * 2 ^ 16)
    result2 := w32 (backups + omitted * 2 ^ 16) }

/-- The reply of a bucket command that ends with a status; RESULT1 of one that wrote nothing is log 35. -/
def Cmd.bucketReply (m : Cmd) (status : Byte) : Reply :=
  match m.phase with
  | .running (.send next) => { Reply.of status with result0 := w32 next }
  | .running (.recv _ elems mc mr b o sat nf) => recvReply status elems mc mr b o ⟨sat, nf⟩
  | _ => .of status

/-- Every in-flight bucket command of the job completes with JOB_FAILED. -/
def State.failCmds (s : State) (job : BitVec 12) : State :=
  allCtx.foldl (fun t c => (List.range (t.ctx c).cmds.length).foldl (fun u i =>
    match u.cmdAt c i with
    | some m => if m.bucketOf job then u.finish c i (m.bucketReply stJobFailed) else u
    | none => u) t) s

/-- Everything of a job leaves the port's stores; credits return. -/
def State.dropJob (s : State) (job : BitVec 12) : State :=
  let s1 := allChans.foldl (fun t k => ((t.portCh k).rx.filter (fun p => p.job == job)).foldl (fun u p => u.dropRx k p) t) s
  let s2 := s1.port.results.foldl (fun t (h : Held) =>
    match h.via with
    | some k => if h.pkt.job = job then t.freeBuffer k job else t
    | none => t) s1
  s2.modPort (fun (p : Port) => { p with
    partials := p.partials.filter (fun (x : Partial) => x.job != job)
    results := p.results.filter (fun (h : Held) => h.pkt.job != job)
    inputs := p.inputs.filter (fun (i : Input) => i.job != job) })

/-- An ABORT packet of the job (R258, R274). -/
def State.abortOf (s : State) (job : BitVec 12) (exact strict : Bool) (bucket cause : Nat) : Packet :=
  let pos := s.eng.position.toNat
  HdrSpec.packet { kind := 3, job := job, bucket := bucket, offset := 0, isLast := false, strict := strict, exact := exact, valid := 0, pos := pos,
                   subject := pos, contrib := 0, rounds := 0, hops := 1, omitted := 0, backups := 0, sat := false, nf := false, cause := cause } []

/-- A job fails (R274): contexts FAILED, an ABORT on every channel but the source, commands completed, one record. `cause` is the
record's, `abort` the packet's; `src` the channel it came from, if an ABORT made it fail. -/
def State.failJob (s : State) (job : BitVec 12) (cause abort : Nat) (src : Option Chan) (bucket pos chan offset idle : Nat) : State :=
  let g := s.jobGroup job
  match s.jobCtxs job with
  | [] => s
  | j :: _ =>
    if s.jobFailed job then s else
    let pkt := s.abortOf job j.exact j.strict bucket abort
    let outs := (dedup (gChannels g j.strict) []).filter (fun k => some k != src)
    let s1 := s.modPort (fun (p : Port) => { p with
      chans := p.chans.map (fun (ch : Channel) => ch.modJob job (fun (x : JobCtx) => { x with state := .failed }))
      failed := satAdd p.failed 1 })
    let s2 := (s1.failCmds job).dropJob job
    let s3 := s2.modPort (fun (p : Port) => { p with aborts := p.aborts ++ outs.map (fun k => (k, pkt)) })
    s3.reduceRecord job (reducePayload job cause bucket pos chan offset idle)

/-! ### Expected inputs (R271) -/

/-- An expected input that has delivered nothing; its timer, and a backup's, begin now. -/
def freshInput (job : BitVec 12) (bucket k now : Nat) : Input :=
  { job := job, bucket := bucket, input := k, next := 0, lastAt := none, done := false, gone := false, backed := false, last := now
    blast := some now, total := 0, res := 0, fwd := 0 }

/-- The input of a bucket. -/
def State.input (s : State) (job : BitVec 12) (bucket k : Nat) : Option Input :=
  s.port.inputs.find? (fun (i : Input) => i.job == job && i.bucket == bucket && i.input == k)

/-- The input of a bucket changed by `f`. -/
def State.modInput (s : State) (job : BitVec 12) (bucket k : Nat) (f : Input → Input) : State :=
  s.modPort (fun (p : Port) => { p with inputs := p.inputs.map (fun (i : Input) =>
    if i.job = job ∧ i.bucket = bucket ∧ i.input = k then f i else i) })

/-- From the first packet of a bucket that reaches the node on, its inputs are expected. -/
def State.expect (s : State) (job : BitVec 12) (bucket : Nat) (ks : List Nat) : State :=
  let new := ks.filter (fun k => (s.input job bucket k).isNone)
  s.modPort (fun (p : Port) => { p with inputs := p.inputs ++ new.map (fun k => freshInput job bucket k s.now) })

/-- The position of an expected input. -/
def State.inputPos (s : State) (g : Group) (strict : Bool) (k : Nat) : Nat :=
  if strict then fld g 160 15 else if k = 4 then s.eng.position.toNat else gChild g k

/-! ### The tree node (R265) -/

/-- What came of offering a packet to the node: it waits, it clashes, or it was taken. -/
inductive Take where
  | wait
  | clash
  | done (s : State)

/-- Entries of the partial-sum store a job holds, node sums that wait to leave included. -/
def State.partialsOf (s : State) (job : BitVec 12) : Nat :=
  (s.port.partials.filter (fun (p : Partial) => p.job == job)).length
    + (s.port.results.filter (fun (h : Held) => h.pkt.job == job && h.via.isNone && !h.pkt.strict)).length

/-- The jobs with a tree node here. -/
def State.treeJobs (s : State) : List (BitVec 12) :=
  dedup (allChans.flatMap (fun k => ((s.portCh k).jobs.filter (fun (j : JobCtx) => !j.strict && gHosts j.group)).map (·.job))) []

/-- Entries of the partial-sum store in use. -/
def State.partialsUsed (s : State) : Nat :=
  s.port.partials.length + (s.port.results.filter (fun (h : Held) => h.via.isNone && !h.pkt.strict)).length

/-- Is a new partial-sum entry free for the job (R270)? The store has 256 (R257). -/
def State.partialFree (s : State) (job : BitVec 12) : Bool :=
  let js := s.treeJobs
  let shared := (js.map (fun j => s.partialsOf j - 2)).foldl (· + ·) 0
  decide (s.partialsUsed < 256) &&
    (decide (s.partialsOf job < 2) || (decide (s.partialsOf job - 2 < 96) && decide (shared + 2 * js.length < 256)))

/-- A partial sum with a packet's elements: a copy of the first, then one FP32 addition an element (R265); its HOPS is the largest of
the inputs' (log 34). -/
def Partial.add (x : Partial) (p : Packet) : Partial :=
  let es := (List.range (p.valid + 1)).map (fun k => ofF32 (w32 (p.elem k * 2 ^ 16)))
  let r : List (Word × Flag) :=
    if x.vals.isEmpty then es.map (fun e => ((toF32 e).1, ⟨false, !e.isFin⟩))
    else (x.vals.zip es).map (fun v => toF32 ((ofF32 v.1).add v.2))
  let f := joinFlags (r.map (·.2))
  { x with
    hdr := setFld x.hdr 128 16 (max (fld x.hdr 128 16) p.hops)
    vals := r.map (·.1), contrib := sat16 (x.contrib + p.contrib), rounds := max x.rounds p.rounds, omitted := sat16 (x.omitted + p.omitted)
    backups := sat16 (x.backups + p.backups), sat := x.sat || p.sat || f.sat, nf := x.nf || p.nf || f.nf }

/-- The node takes a packet of input `k`, as a backup's or as its own. -/
def State.nodeTake (s : State) (k : Nat) (p : Packet) (backup : Bool) : Take :=
  let mine (x : Partial) : Bool := x.job == p.job && x.bucket == p.bucket && x.offset == p.offset
  let note (x : Partial) : Partial :=
    let y := x.add p
    { y with taken := y.taken ++ [k], backups := sat16 (y.backups + (if backup then 1 else 0)) }
  let after (t : State) : State := t.modInput p.job p.bucket k (fun (i : Input) => { i with next := p.offset + 1, done := i.done || p.isLast })
  match s.port.partials.find? mine with
  | some x =>
    let q : Packet := ⟨x.hdr, 0⟩
    if q.valid ≠ p.valid ∨ q.isLast ≠ p.isLast then .clash
    else .done (after (s.modPort (fun (t : Port) => { t with partials := t.partials.map (fun (y : Partial) => if mine y then note y else y) })))
  | none =>
    if !s.partialFree p.job then .wait
    else
      let x : Partial := { job := p.job, bucket := p.bucket, offset := p.offset, vals := [], taken := [], hdr := p.hdr, contrib := 0, rounds := 0,
                           omitted := 0, backups := 0, sat := false, nf := false }
      .done (after (s.modPort (fun (t : Port) => { t with partials := t.partials ++ [note x] })))

/-- A BACKUP packet whose primary has delivered is dropped (R272). -/
def State.dropBackups (s : State) (job : BitVec 12) (bucket pos offset : Nat) : State :=
  ((s.portCh 3).rx.filter (fun p => p.kind == 2 && p.job == job && p.bucket == bucket && p.subject == pos && decide (p.offset ≤ offset))).foldl
    (fun t p => (t.dropRx 3 p).lateDrop 3) s

/-- The job fails on a mismatching packet of a channel (R275). -/
def State.mismatch (s : State) (k : Chan) (p : Packet) : State :=
  s.failJob p.job 3 1 none p.bucket p.pos k.val p.offset 0

/-- One waiting DATA packet of a channel offered to the node; jobs that wait are in `held`. A packet that reached the channel before
its input's deadline was delivered (R272); one that comes later never enters the buffer. -/
def State.takeRx (k : Chan) (a : State × List (BitVec 12)) (p : Packet) : State × List (BitVec 12) :=
  let s := a.1
  if p.kind ≠ 0 ∨ p.strict ∨ a.2.contains p.job then a else
  match s.input p.job p.bucket k.val with
  | none => a
  | some _ =>
    match s.nodeTake k.val p false with
      | .wait => (s, a.2 ++ [p.job])
      | .clash => (s.mismatch k p, a.2)
      | .done t => ((t.dropRx k p).dropBackups p.job p.bucket (gChild (s.jobGroup p.job) k.val) p.offset, a.2)

/-- The waiting DATA packets of a channel, in order; a job that waits does not hold up the others (R270). -/
def State.takeChan (s : State) (k : Chan) : State :=
  if s.retraining k then s else ((s.portCh k).rx.foldl (State.takeRx k) (s, [])).1

/-- The packets of an input that have reached this engine and have not been taken: its own and, once it is replaced, its backup's. They
count as delivered (R272). -/
def State.waiting (s : State) (i : Input) : List Packet :=
  let mine (n : Nat) (p : Packet) : Bool := p.kind == n && p.job == i.job && p.bucket == i.bucket
  let pos := s.inputPos (s.jobGroup i.job) false i.input
  (if i.input = 4 then [] else (s.portCh (chanOf i.input)).rx.filter (mine 0))
    ++ (if i.backed then (s.portCh 3).rx.filter (fun p => mine 2 p && p.subject == pos) else [])

/-- A replaced input's next packet, not delivered by itself, is taken from its backup (R272); what had reached IN3 is taken even where the
backup turned out late. -/
def State.supply (s : State) (i : Input) : State :=
  if !i.backed || i.done || s.retraining 3 || (s.waiting i).any (fun p => p.kind == 0 && p.offset == i.next) then s else
  let pos := s.inputPos (s.jobGroup i.job) false i.input
  match (s.portCh 3).rx.find? (fun p => p.kind == 2 && p.job == i.job && p.bucket == i.bucket && p.subject == pos && p.offset == i.next) with
  | none => s
  | some p =>
    match s.nodeTake i.input p true with
    | .wait => s
    | .clash => s.mismatch 3 p
    | .done t =>
      (t.dropRx 3 p).modInput i.job i.bucket i.input (fun (x : Input) => { x with lastAt := if p.isLast then some p.offset else x.lastAt })

/-- Is every expected input of a partial sum taken or omitted? -/
def State.complete (s : State) (x : Partial) : Bool :=
  (gExpected (s.jobGroup x.job)).all (fun k => x.taken.contains k || (match s.input x.job x.bucket k with
    | some i => i.gone && !(s.waiting i).any (fun p => p.offset == x.offset)
    | none => false))

/-- May a node's sum leave: no lower bucket of the job has sums to come (R262)? -/
def State.sumTurn (s : State) (x : Partial) : Bool :=
  !s.port.partials.any (fun (y : Partial) => y.job == x.job && decide (y.bucket < x.bucket))
    && s.port.inputs.all (fun (i : Input) => i.job != x.job || decide (x.bucket ≤ i.bucket) || i.done || (i.gone && (s.waiting i).isEmpty))

/-- Is a partial sum complete, and is it its turn? -/
def State.sumDone (s : State) (x : Partial) : Bool := s.complete x && s.sumTurn x

/-- The node's output packet (R265), its HOPS one more than the inputs' largest (log 34). -/
def State.nodeOut (s : State) (x : Partial) : Packet :=
  let g := s.jobGroup x.job
  let q : Packet := ⟨x.hdr, 0⟩
  let r := x.vals.map (fun v => fmtBF16.toBits (ofF32 v))
  let f := joinFlags (r.map (·.2))
  let out := (gExpected g).filter (fun k => !x.taken.contains k)
  let pos := s.eng.position.toNat
  HdrSpec.packet { q.spec with
    kind := if gRoot g then 1 else 0, pos := pos, subject := pos, contrib := x.contrib, rounds := x.rounds + 1, hops := q.hops + 1
    omitted := x.omitted + out.length, backups := x.backups, sat := x.sat || f.sat, nf := x.nf || f.nf, cause := 0 } (r.map (·.1))

/-- Complete partial sums become packets to send, the root's also a result to write (R264). -/
def State.finishPartials (s : State) : State :=
  let done := s.port.partials.filter s.sumDone
  let mk (x : Partial) : Held :=
    let g := s.jobGroup x.job
    if gRoot g then ⟨s.nodeOut x, gDown g, true, none⟩ else ⟨s.nodeOut x, [4], false, none⟩
  s.modPort (fun (p : Port) => { p with
    partials := p.partials.filter (fun (x : Partial) => !s.sumDone x), results := p.results ++ done.map mk })

/-! ### Forwarding (R264, R267, R268) -/

/-- The next RESULT packet a ring member sends on, from cursor `f`. -/
def nextFwd (m r f : Nat) : Nat := if ringSends m r f then f else f + 1

/-- Has the ring member sent every RESULT of the bucket? A ring of one sends none. -/
def Input.ringClear (i : Input) (m r : Nat) : Bool := m == 1 || decide (i.total ≤ nextFwd m r i.fwd)

/-- Is the packet the first of its job in its receive buffer? Packets of the same job queue behind one that waits (R266); a channel that
trains again holds all of them (R358). -/
def State.resultHead (s : State) (h : Held) : Bool :=
  !(match h.via with
    | some k => s.retraining k
    | none => false)
  && (h.via.isNone || s.port.results.find? (fun (x : Held) => x.via == h.via && x.pkt.job == h.pkt.job) == some h)

/-- May the packet leave now: for a ring, after every DATA packet of its bucket, written here, in ascending OFFSET (R268)? -/
def State.mayForward (s : State) (h : Held) : Bool :=
  if !h.pkt.strict then true else
  let g := s.jobGroup h.pkt.job
  match s.input h.pkt.job h.pkt.bucket (gRingIn g) with
  | none => false
  | some i => !h.own && decide (h.pkt.bucket < (s.jobRec h.pkt.job).sentUpTo) && nextFwd (gMembers g) (gIndex g) i.fwd == h.pkt.offset

/-- A packet that is passed on counts a channel traversal; one made here leaves as it is. -/
def Held.packet (h : Held) : Packet := if h.via.isSome then h.pkt.onward else h.pkt

/-- One channel of one packet that is to be sent on. -/
def State.forwardOn (a : State × List (Chan × BitVec 12) × Held) (k : Chan) : State × List (Chan × BitVec 12) × Held :=
  let s := a.1
  let h := a.2.2
  if a.2.1.contains (k, h.pkt.job) then a
  else if !s.mayForward h then (s, a.2.1 ++ [(k, h.pkt.job)], h)
  else match s.trySend k h.packet with
    | none => (s, a.2.1 ++ [(k, h.pkt.job)], h)
    | some t =>
      let t1 := if h.pkt.strict then
          t.modInput h.pkt.job h.pkt.bucket (gRingIn (t.jobGroup h.pkt.job)) (fun (i : Input) => { i with fwd := h.pkt.offset + 1 })
        else t
      (t1, a.2.1, { h with fwd := h.fwd.filter (fun x => x != k) })

/-- One packet that is to be sent on, on each of its channels. -/
def State.forwardHeld (a : State × List (Chan × BitVec 12) × List Held) (h : Held) : State × List (Chan × BitVec 12) × List Held :=
  if !a.1.resultHead h then (a.1, a.2.1, a.2.2 ++ [h]) else
  let r := h.fwd.foldl State.forwardOn (a.1, a.2.1, h)
  (r.1, r.2.1, a.2.2 ++ [r.2.2])

/-- Packets leave against their credits; a packet done with returns its credit. -/
def State.forward (s : State) : State :=
  let r := s.port.results.foldl State.forwardHeld (s, [], [])
  let past := r.2.2.filter (fun (h : Held) => h.fwd.isEmpty && !h.own)
  let s1 := r.1.modPort (fun (p : Port) => { p with results := r.2.2.filter (fun (h : Held) => !(h.fwd.isEmpty && !h.own)) })
  past.foldl (fun t (h : Held) => match h.via with
    | some k => t.freeBuffer k h.pkt.job
    | none => t) s1

/-- Waiting ABORT packets leave against their credits. -/
def State.sendAborts (s : State) : State :=
  s.port.aborts.foldl (fun (t : State) x => match t.trySend x.1 x.2 with
    | some u => u.modPort (fun (p : Port) => { p with aborts := dropFirst (fun y => y == x) p.aborts })
    | none => t) s

/-! ### Arrival (R260, R272, R275) -/

/-- Ring: does the member still expect a packet from its predecessor? -/
def Input.ringDone (i : Input) (m r : Nat) : Bool :=
  let look (a : Nat) : List Nat := upFrom a (min 2 (i.total - a))
  !(look i.next).any (fun p => !ringStarts m r p) && !(look i.res).any (fun p => !ringOwns m r p)

/-- A ring member's input, noted as done when nothing more is to come. -/
def State.ringNote (s : State) (job : BitVec 12) (bucket : Nat) (f : Input → Input) : State :=
  let g := s.jobGroup job
  s.modInput job bucket (gRingIn g) (fun (i : Input) =>
    let x := f i
    { x with done := decide (0 < x.total) && x.ringDone (gMembers g) (gIndex g) })

/-- A packet waits in its channel's receive buffer. -/
def State.keepRx (s : State) (k : Chan) (p : Packet) : State := s.modCh k (fun (ch : Channel) => { ch with rx := ch.rx ++ [p] })

/-- Does a packet of the input lie beyond the input's LAST packet (R275)? -/
def State.pastLast (s : State) (job : BitVec 12) (bucket k offset : Nat) : Bool :=
  match (s.input job bucket k).bind (fun (i : Input) => i.lastAt) with
  | some l => decide (l < offset)
  | none => false

/-- A DATA packet of the right sender. -/
def State.arriveData (s : State) (k : Chan) (g : Group) (p : Packet) : State :=
  let s1 := if p.strict then s.expect p.job p.bucket [k.val] else s.expect p.job p.bucket (gExpected g)
  match s1.input p.job p.bucket k.val with
  | none => s1.freeBuffer k p.job
  | some i =>
    if s1.pastLast p.job p.bucket k.val p.offset then (s1.freeBuffer k p.job).mismatch k p
    else
      let s2 := s1.modInput p.job p.bucket k.val (fun (x : Input) => { x with last := s.now, lastAt := if p.isLast then some p.offset else x.lastAt })
      if i.gone || i.backed || decide (p.offset < i.next) then (s2.lateDrop k).freeBuffer k p.job else s2.keepRx k p

/-- A BACKUP packet of the right sender: kept while its input has not delivered (R272). It comes from no input, so it makes none expected
(R271). One beyond its input's LAST packet, or the backup's, does not match (R275). -/
def State.arriveBackup (s : State) (g : Group) (p : Packet) : State :=
  match inputAt g s.eng.position.toNat p.subject with
  | none => (s.modCh 3 (fun (ch : Channel) => { ch with badPeer := satAdd ch.badPeer 1 })).freeBuffer 3 p.job
  | some k =>
    let s1 := s.modInput p.job p.bucket k (fun (x : Input) => { x with blast := some s.now })
    let ends (q : Packet) : Bool :=
      q.kind == 2 && q.job == p.job && q.bucket == p.bucket && q.subject == p.subject && q.isLast && decide (q.offset < p.offset)
    if s1.pastLast p.job p.bucket k p.offset || (s1.portCh 3).rx.any ends then (s1.freeBuffer 3 p.job).mismatch 3 p else
    match s1.input p.job p.bucket k with
    | none => s1.keepRx 3 p
    | some i =>
      if i.done || i.gone || decide (p.offset < i.next) then (s1.lateDrop 3).freeBuffer 3 p.job else s1.keepRx 3 p

/-- A RESULT packet: to be written here and, at a node or a ring member before the last, sent on. On a ring it comes from the member's
one input, and one beyond that input's LAST packet does not match (R275). -/
def State.arriveResult (s : State) (k : Chan) (g : Group) (p : Packet) : State :=
  if p.strict && s.pastLast p.job p.bucket k.val p.offset then (s.freeBuffer k p.job).mismatch k p else
  let fwd := if p.strict then (if ringSends (gMembers g) (gIndex g) p.offset then [gRingOut g] else []) else gDown g
  let s1 := s.modPort (fun (q : Port) => { q with results := q.results ++ [⟨p, fwd, true, some k⟩] })
  if p.strict then s1.ringNote p.job p.bucket (fun (i : Input) => { i with res := p.offset + 1, last := s.now, lastAt := if p.isLast then some p.offset else i.lastAt }) else s1

/-- A packet with its job context (R275, R274). -/
def State.arrive (s : State) (k : Chan) (p : Packet) (j : JobCtx) : State :=
  let g := j.group
  let known := if p.kind = 1 then resultHere g j.strict k else peerOf g j.strict k p.kind == some p.pos
  if j.state = .failed then s.freeBuffer k p.job
  else if p.kind = 1 && resultUnused g j.strict k then s.freeBuffer k p.job
  else if !known then (s.modCh k (fun (ch : Channel) => { ch with badPeer := satAdd ch.badPeer 1 })).freeBuffer k p.job
  else if p.strict ≠ j.strict ∨ p.exact ≠ j.exact then (s.freeBuffer k p.job).mismatch k p
  else match p.kind with
    | 0 => s.arriveData k g p
    | 1 => s.arriveResult k g p
    | 2 => s.arriveBackup g p
    | _ => (s.freeBuffer k p.job).failJob p.job 4 (fld p.hdr 178 2) (some k) p.bucket p.pos k.val p.offset 0

/-- The packet at the head of a channel finds its job context, or waits (R260, R358); it is then taken from the link (R278). -/
def State.acceptHead (s : State) (k : Chan) : State :=
  if s.retraining k then s else
  match (s.portCh k).inq with
  | [] => s
  | p :: rest =>
    match s.allocCtx k (s.freshCtx p.job p.exact p.strict none) with
    | none => s
    | some s1 =>
      let s2 := s1.modCh k (fun (ch : Channel) => { (ch.modJob p.job (fun (j : JobCtx) =>
        { j with recv := crc64 j.recv p.bytes, last := s.now })) with inq := rest, pktsRecv := satAdd ch.pktsRecv 1 })
      match (s2.portCh k).ctx p.job with
      | some j => s2.arrive k p j
      | none => s2

/-! ### One pass over the port -/

/-- Packets accepted, node inputs taken, backups supplied, sums finished, packets sent on. -/
def State.portPass (s : State) : State :=
  let s1 := allChans.foldl State.acceptHead s
  let s2 := [0, 1, 2, 3].foldl State.takeChan s1
  let s3 := s2.port.inputs.foldl State.supply s2
  s3.finishPartials.forward.sendAborts.refreshJobs

/-- Packets anywhere in the port. -/
def Port.load (p : Port) : Nat :=
  (p.chans.toList.map (fun (ch : Channel) => ch.inq.length + ch.rx.length)).foldl (· + ·) 0 + p.results.length + p.partials.length
    + p.aborts.length

/-- Passes until nothing can move (at most `n`). -/
def State.portPasses : Nat → State → State
  | 0, s => s
  | n + 1, s => State.portPasses n s.portPass

/-- Everything that can move in the port moves. -/
def State.portRun (s : State) : State := State.portPasses (s.port.load + 2) s

/-! ### Late inputs (R271, R272) -/

/-- The job's TIMEOUT in EC; 500 µs when it is 0, or when no bucket command has given one. -/
def State.jobTimeout (s : State) (job : BitVec 12) : Nat :=
  match (s.jobCtxs job).findSome? (fun (j : JobCtx) => j.timeout) with
  | some t => (if t = 0 then 500 else t.toNat) * 1400
  | none => 500 * 1400

/-- Has the input's timer run out? A replaced input's timer is its backup's; a ring member's begins with its own BUCKET_SEND. -/
def State.isLate (s : State) (i : Input) : Bool :=
  !i.done && !i.gone && (i.total != 0 || (s.jobCtxs i.job).all (fun (j : JobCtx) => !j.strict)) && decide ((if i.backed then i.blast.getD i.last else i.last) + s.jobTimeout i.job ≤ s.now)

/-- Has a backup of the input reached IN3, and is it not itself late? -/
def State.backupReady (s : State) (g : Group) (i : Input) : Bool :=
  let pos := s.inputPos g false i.input
  let ps := (s.portCh 3).rx.filter (fun p => p.kind == 2 && p.job == i.job && p.bucket == i.bucket && p.subject == pos)
  gBackup g && !i.backed && !ps.isEmpty
    && (ps.any (fun p => p.isLast) || decide (s.now < i.blast.getD i.last + s.jobTimeout i.job))

/-- The first packet of a late input that has not been delivered (R272, R277): of a ring's, a DATA packet that the predecessor still sends,
else a RESULT packet. -/
def State.firstMissing (s : State) (g : Group) (strict : Bool) (i : Input) : Nat :=
  let d := (s.waiting i).foldl (fun n p => max n (p.offset + 1)) i.next
  let look (a : Nat) : List Nat := upFrom a (min 2 (i.total - a))
  if !strict then d
  else match (look d).find? (fun p => !ringStarts (gMembers g) (gIndex g) p) with
    | some p => p
    | none => ((look i.res).find? (fun p => !ringOwns (gMembers g) (gIndex g) p)).getD i.res

/-- A late input of a job: replaced, omitted, or the job fails (R272, R274). A backup that is late too keeps what it has delivered. -/
def State.late (s : State) (i : Input) : State :=
  match s.jobCtxs i.job with
  | [] => s
  | j :: _ =>
    let g := j.group
    let pos := s.inputPos g j.strict i.input
    let chan := if i.input = 4 then 6 else i.input
    let idle := s.idleUs i.last
    let first := s.firstMissing g j.strict i
    let note (t : State) (cause : Nat) : State := t.reduceRecord i.job (reducePayload i.job cause i.bucket pos chan first idle)
    if j.exact || j.strict then s.failJob i.job 2 0 none i.bucket pos chan first idle
    else if s.backupReady g i then
      let s1 := s.modInput i.job i.bucket i.input (fun (x : Input) => { x with backed := true })
      note (s1.modPort (fun (p : Port) => { p with backupsUsed := satAdd p.backupsUsed 1 })) 0
    else
      let s0 := s.modInput i.job i.bucket i.input (fun (x : Input) => { x with gone := true })
      let s1 := if i.backed then s0 else s0.dropBackups i.job i.bucket pos (2 ^ 21)
      note (s1.modPort (fun (p : Port) => { p with omitted := satAdd p.omitted 1 })) 1

end Sys2Proof.Machine
end

