-- ==== Sys2Proof/Machine/Bucket.lean ====
section
/-! DEFINITION. BUCKET_SEND, BUCKET_RECV, DIGEST_READ and the packets that arrive (13). -/

namespace Sys2Proof.Machine

/-! ### Starting a bucket command (R261) -/

/-- JOB_ID of a bucket command. -/
def Cmd.job (m : Cmd) : BitVec 12 := m.pkt.extractLsb' 144 12

/-- BUCKET of a bucket command. -/
def Cmd.bucket (m : Cmd) : Nat := m.f 160 16

/-- Checks 1 to 5 of R261, with R273's check after the group's. -/
def State.bucketBad (s : State) (c : CtxNo) (m : Cmd) (o : Opnd) : Option Reply :=
  let g := s.jobGroup m.job
  let cs := s.jobCtxs m.job
  let code := o.desc.format
  firstBad [
    ((s.ctx c).task.isNone, .bad 0), (gValid g, .bad 144),
    (!gIsBackup g || !m.bit 177, .bad 177), (!gIsBackup g || !m.bit 176, .bad 176),
    ((if m.op = 0x20 then o.desc.canRead else o.desc.canWrite) && (code == 0 || code == 6 || code == 7), .bad 128),
    (decide (1 ≤ o.desc.count ∧ o.desc.count ≤ 2 ^ 28), .bad 128),
    (cs.all (fun (j : JobCtx) => j.exact == m.bit 176), .bad 176), (cs.all (fun (j : JobCtx) => j.strict == m.bit 177), .bad 177),
    (cs.all (fun (j : JobCtx) => (j.timeout.getD (m.pkt.extractLsb' 192 16)) == m.pkt.extractLsb' 192 16), .bad 192)]

/-- Every channel of the job with a context, or none when one cannot be had (check 8). -/
def State.allocAll (s : State) (m : Cmd) (ks : List Chan) : Option State :=
  let j := s.freshCtx m.job (m.bit 176) (m.bit 177) (some (m.pkt.extractLsb' 192 16))
  ks.foldl (fun (t : Option State) k => t.bind (fun u => u.allocCtx k j)) (some s)

/-- The command issues its job: the record kept for it is posted (R277). -/
def State.issueJob (s : State) (c : CtxNo) (m : Cmd) : State :=
  let s1 := s.modJob m.job (fun (x : Job) => { x with issuer := some c, kept := none })
  match (s.jobRec m.job).kept with
  | some r => s1.event c 0x06 r
  | none => s1

/-- Packets of the command's bucket. -/
def Opnd.packets (o : Opnd) : Nat := ceilDiv o.desc.count 128

/-- The command is in flight: its contexts are used, a ring member's input is expected from now on (R271). -/
def State.openBucket (s : State) (m : Cmd) (o : Opnd) : State :=
  let g := s.jobGroup m.job
  let touch (j : JobCtx) : JobCtx := { j with timeout := some (j.timeout.getD (m.pkt.extractLsb' 192 16)), last := s.now }
  let s1 := s.modPort (fun (p : Port) => { p with chans := p.chans.map (fun (ch : Channel) => ch.modJob m.job touch) })
  let s2 := s1.modJob m.job (fun (x : Job) =>
    if m.op = 0x20 then { x with sends := x.sends ++ [m.bucket] } else { x with recvs := x.recvs ++ [m.bucket] })
  if m.op = 0x20 ∧ m.bit 177 then
    (s2.expect m.job m.bucket [gRingIn g]).ringNote m.job m.bucket (fun (i : Input) => { i with total := o.packets, last := s.now })
  else s2

/-- A bucket command starts, in ring order: its checks (R261). One that is malformed changes nothing (R6); any other is its job's most recent
bucket command from then on (R277). -/
def State.startBucket (s : State) (c : CtxNo) (op : Nat) (w : Work) : State :=
  match s.starting c op with
  | none => s
  | some (i, m) =>
    match s.handle c (m.f 128 16), s.opnd m.fmts (m.f 128 16) 0, m.reservedBad with
    | some _, some o, none =>
      match s.bucketBad c m o with
      | some r => s.finish c i r
      | none =>
        let x := s.jobRec m.job
        if s.jobFailed m.job then (s.issueJob c m).finish c i (.of stJobFailed)
        else if (if op = 0x20 then x.sends else x.recvs).contains m.bucket then s.finish c i (.bad 160)
        else match (s.issueJob c m).allocAll m (dedup (gChannels (s.jobGroup m.job) (m.bit 177)) []) with
          | none => (s.issueJob c m).finish c i (.of stJobBusy)
          | some s2 => (s2.openBucket m o).setPhase c i (.running w)
    | some _, some _, some r => s.finish c i r
    | _, _, _ => s.finish c i (.of stHandle)

/-! ### BUCKET_SEND (R262 to R268) -/

/-- Every earlier command of the context has completed, bucket commands aside (R262). -/
def State.producersDone (s : State) (c : CtxNo) (i : Nat) : Bool :=
  ((s.ctx c).cmds.take i).all (fun m => (m.op == 0x20 || m.op == 0x21) || s.cmdDone c m)

/-- Coordinates of the elements of packet `n` of an operand. -/
def Opnd.packetElems (o : Opnd) (n : Nat) : List (Nat → Nat) :=
  (upFrom (128 * n) (min 128 (o.desc.count - 128 * n))).map o.desc.coords

/-- The leaf conversion of an element (R263): rounded once to BF16; a BF16 source is not changed. -/
def leafBits (o : Opnd) (bits : Nat) : Nat × Flag :=
  let v := if o.desc.format = 7 then W64.value (BitVec.ofNat 64 bits) else decodeElem o.fmt bits
  if o.desc.format = 0 then (bits, ⟨false, !v.isFin⟩)
  else
    let r := fmtBF16.toBits v
    (r.1, r.2.or ⟨false, !v.isFin⟩)

/-- The header of the contribution's packet `n`: it crosses a channel unless the own node, or a ring of one, takes it (R258). -/
def State.leafSpec (s : State) (m : Cmd) (o : Opnd) (n : Nat) (f : Flag) : HdrSpec :=
  let g := s.jobGroup m.job
  let pos := s.eng.position.toNat
  let stays := if m.bit 177 then gMembers g == 1 else gNode g == 1
  { kind := if gIsBackup g then 2 else 0, job := m.job, bucket := m.bucket, offset := n, isLast := n + 1 == o.packets, strict := m.bit 177
    exact := m.bit 176, valid := (o.packetElems n).length - 1, pos := pos, subject := if gIsBackup g then fld g 192 15 else pos, contrib := 1
    rounds := 1, hops := if stays then 0 else 1, omitted := 0, backups := 0, sat := f.sat, nf := f.nf, cause := 0 }

/-- One element of the strict ring's addition (R267). -/
def ringAdd (a c : Nat) : Nat × Flag :=
  let t := toF32 ((ofF32 (w32 (a * 2 ^ 16))).add (ofF32 (w32 (c * 2 ^ 16))))
  let r := fmtBF16.toBits (ofF32 t.1)
  (r.1, t.2.or r.2)

/-- The ring's new partial result: the predecessor's packet with the own contribution added (R267). -/
def ringJoin (own : HdrSpec) (vals : List Nat) (q : Packet) : Packet :=
  let r := (vals.zip (List.range vals.length)).map (fun x => ringAdd (q.elem x.2) x.1)
  let f := joinFlags (r.map (·.2))
  HdrSpec.packet { own with
    contrib := q.contrib + 1, rounds := q.rounds + 1, hops := q.hops + 1, omitted := q.omitted, backups := q.backups
    sat := own.sat || q.sat || f.sat, nf := own.nf || q.nf || f.nf } (r.map (·.1))

/-- Does a RESULT of a lower bucket wait on the channel? Packets of its job queue behind it (R266). -/
def State.resultWaits (s : State) (k : Chan) (job : BitVec 12) (bucket : Nat) : Bool :=
  s.port.results.any (fun (h : Held) => h.via == some k && h.own && h.pkt.job == job && decide (h.pkt.bucket < bucket))

/-- The predecessor's DATA packet for a packet, when it is its turn. -/
def State.ringData (s : State) (k : Chan) (job : BitVec 12) (bucket offset : Nat) : Option Packet :=
  if s.retraining k || s.resultWaits k job bucket then none
  else (s.portCh k).rx.find? (fun p => p.kind == 0 && p.job == job && p.bucket == bucket && p.offset == offset)

/-- A strict member's packet `n` with its contribution read: sent on, or kept as the result by its owner. False when it waits. -/
def State.ringStep (s : State) (own : HdrSpec) (vals : List Nat) : Option State :=
  let g := s.jobGroup own.job
  let mem := gMembers g
  let me := gIndex g
  let k := chanOf (gRingIn g)
  let keep (t : State) (p : Packet) : State :=
    let fwd := if ringSends mem me own.offset then [gRingOut g] else []
    t.modPort (fun (q : Port) => { q with results := q.results ++ [⟨{ p with hdr := setFld p.hdr 12 4 1 }, fwd, true, none⟩] })
  if ringStarts mem me own.offset then
    let p := own.packet vals
    if mem = 1 then some (keep s p) else s.trySend (gRingOut g) p
  else
    match s.ringData k own.job own.bucket own.offset with
    | none => none
    | some q =>
      if q.valid ≠ own.valid ∨ q.isLast ≠ own.isLast then some (s.mismatch k q)
      else
        let p := ringJoin own vals q
        let next (t : State) : State := (t.dropRx k q).ringNote own.job own.bucket (fun (i : Input) => { i with next := own.offset + 1 })
        if ringOwns mem me own.offset then some (next (keep s p)) else (s.trySend (gRingOut g) p).map next

/-- A contribution's packet sent, or taken by the own node; none when it waits. A contribution that was omitted is dropped. -/
def State.placePacket (s : State) (own : HdrSpec) (vals : List Nat) : Option State :=
  let g := s.jobGroup own.job
  if own.strict then s.ringStep own vals
  else if gNode g = 1 then
    let s1 := s.expect own.job own.bucket (gExpected g)
    match s1.input own.job own.bucket 4 with
    | none => some s1
    | some i =>
      if i.gone || i.backed then some s1
      else match s1.nodeTake 4 (own.packet vals) false with
        | .wait => none
        | .clash => some (s1.failJob own.job 3 1 none own.bucket own.pos 6 own.offset 0)
        | .done t => some ((t.dropBackups own.job own.bucket own.pos own.offset).modInput own.job own.bucket 4 (fun (x : Input) => { x with last := s.now }))
  else s.trySend 5 (own.packet vals)

/-- May the command send now: its producers have completed, every lower bucket of the job has gone (R262, R268)? -/
def State.maySend (s : State) (c : CtxNo) (i : Nat) (m : Cmd) : Bool :=
  let g := s.jobGroup m.job
  s.producersDone c i && decide (m.bucket ≤ (s.jobRec m.job).sentUpTo)
    && (!m.bit 177 || s.port.inputs.all (fun (x : Input) =>
      x.job != m.job || decide (m.bucket ≤ x.bucket) || x.ringClear (gMembers g) (gIndex g)))

/-- Is the command's next packet ready for channel `k`: its source can be read, and a ring member holds what it adds to (R268, R281)? -/
def State.sendReady (s : State) (c : CtxNo) (i : Nat) (m : Cmd) (k : Chan) : Bool :=
  match m.phase, s.opnd m.fmts (m.f 128 16) 0 with
  | .running (.send n), some o =>
    let g := s.jobGroup m.job
    let mem := gMembers g
    let me := gIndex g
    let sends := if m.bit 177 then gRingOut g == k && !ringOwns mem me n
        && (ringStarts mem me n || (s.ringData (chanOf (gRingIn g)) m.job m.bucket n).isSome)
      else gNode g != 1 && k == 5
    sends && decide (n < o.packets) && s.active c && s.maySend c i m
      && (s.openAll c m.seq [o.acc false false ((o.packetElems n).map o.span)]).1
  | _, _ => false

/-- One packet of the BUCKET_SEND at place `i` (R280): read, converted, sent. -/
def State.sendPacket (c : CtxNo) (i : Nat) (s : State) : Bool × State :=
  match s.cmdAt c i with
  | none => (false, s)
  | some m =>
    match m.phase, s.opnd m.fmts (m.f 128 16) 0 with
    | .running (.send n), some o =>
      if !s.active c || !s.maySend c i m then (false, s)
      else if o.packets ≤ n then
        (false, (s.modJob m.job (fun (x : Job) => { x with sentUpTo := max x.sentUpTo (m.bucket + 1) })).finish c i { Reply.ok with result0 := w32 n })
      else
        let els := o.packetElems n
        let a := o.acc false false (els.map o.span)
        let q := s.openAll c m.seq [a]
        if !q.1 then q else
        let r := els.map (fun e => leafBits o (q.2.elemBits c (q.2.refusals c a) o e))
        match q.2.placePacket (q.2.leafSpec m o n (joinFlags (r.map (·.2)))) (r.map (·.1)) with
        | none => (false, s)
        | some t => (true, match t.cmdAt c i with
          | some m2 => if m2.phase.isRunning then (t.closeUnit c m.seq [a]).setPhase c i (.running (.send (n + 1))) else t
          | none => t)
    | _, _ => (false, s)

/-- The packets of a context's sends in progress. -/
def State.sendAll (s : State) (c : CtxNo) : State :=
  (List.range (s.ctx c).cmds.length).foldl (fun t i =>
    match t.cmdAt c i with
    | some m =>
      match m.phase, t.opnd m.fmts (m.f 128 16) 0 with
      | .running (.send n), some o => runRows (State.sendPacket c i) (o.packets + 1 - n) t
      | _, _ => t
    | none => t) s

/-! ### BUCKET_RECV (R263, R266, R267) -/

/-- The bits a result element is written as: exact; a NaN that is widened is FP32's canonical one (R263, R19). -/
def resultBits (code v : Nat) : Nat :=
  if code = 0 then v else if v / 2 ^ 7 % 2 ^ 8 = 255 ∧ v % 2 ^ 7 ≠ 0 then 0x7FC00000 else v * 2 ^ 16

/-- A result read back from its destination as BF16 (R267). -/
def readBack (code bits : Nat) : Nat := if code = 0 then bits else bits / 2 ^ 16 % 2 ^ 16

/-- The next result of a bucket to be written here. -/
def State.nextResult (s : State) (m : Cmd) : Option Held :=
  s.port.results.find? (fun (h : Held) => h.own && h.pkt.job == m.job && h.pkt.bucket == m.bucket && s.resultHead h)

/-- Has the bucket's source packet `n` been read here? A contribution that the own node omitted is not waited for (R263, log 71). -/
def State.sourceRead (s : State) (job : BitVec 12) (bucket n : Nat) : Bool :=
  (match s.input job bucket 4 with
    | some i => i.gone
    | none => false)
  || ((s.jobRec job).sends.contains bucket && !s.ctxs.toList.any (fun (x : Context) => x.cmds.any (fun m =>
      m.op == 0x20 && m.job == job && m.bucket == bucket && (match m.phase with
        | .running (.send k) => decide (k ≤ n)
        | _ => false))))

/-- One result packet of the BUCKET_RECV at place `i` written (R280); an owner reads back what it will send on (R267). -/
def State.recvPacket (c : CtxNo) (i : Nat) (s : State) : Bool × State :=
  match s.cmdAt c i with
  | none => (false, s)
  | some m =>
    match m.phase, s.opnd m.fmts (m.f 128 16) 0, s.nextResult m with
    | .running (.recv got elems mc mr b o sat nf), some d, some h =>
      let p := h.pkt
      if !s.active c || !s.sourceRead m.job m.bucket p.offset then (false, s) else
      let els := (d.packetElems p.offset).take (p.valid + 1)
      let w := d.acc true false (els.map d.span)
      let owner := p.strict && h.via.isNone && !h.fwd.isEmpty
      let as := w :: (if owner then [d.acc false false (els.map d.span)] else [])
      let q := s.openWrites c m.seq as
      if !q.1 then q else
      let badW := q.2.refusals c w
      let vals := (List.range els.length).map p.elem
      let s1 := (els.zip vals).foldl (fun t x => t.putBits c badW d x.1 (resultBits d.desc.format x.2)) q.2
      let back := match as with
        | [_, rd] => els.map (fun e => readBack d.desc.format (s1.elemBits c (s1.refusals c rd) d e))
        | _ => vals
      let pkt := if owner then HdrSpec.packet p.spec back else p
      let s2 := (s1.closeUnit c m.seq as).modPort (fun (t : Port) => { t with
        results := t.results.map (fun (x : Held) => if x = h then { x with pkt := pkt, own := false } else x) })
      let mc2 := min mc p.contrib
      let mr2 := max mr p.rounds
      let b2 := if p.isLast then p.backups else b
      let o2 := if p.isLast then p.omitted else o
      let past := if p.strict then d.packets ≤ got + 1 else p.isLast
      let n2 := elems + els.length
      if past then (true, s2.finish c i (recvReply 0 n2 mc2 mr2 b2 o2 ⟨sat || p.sat, nf || p.nf⟩))
      else (true, s2.setPhase c i (.running (.recv (got + 1) n2 mc2 mr2 b2 o2 (sat || p.sat) (nf || p.nf))))
    | _, _, _ => (false, s)

/-- The results of a context's receives in progress. -/
def State.recvAll (s : State) (c : CtxNo) : State :=
  (List.range (s.ctx c).cmds.length).foldl (fun t i => runRows (State.recvPacket c i) (t.port.results.length + 1) t) s

/-- Packets move, contributions are sent, results are written. -/
def State.portRound (s : State) : State :=
  let s1 := (allCtx.foldl State.sendAll s.portRun).portRun
  (allCtx.foldl State.recvAll s1).portRun

/-- Everything that can move in the port and its bucket commands moves; what queued behind a result moves in the second round. -/
def State.portStep (s : State) : State := s.portRound.portRound

/-- BUCKET_SEND (R261, R262). -/
def execBucketSend (c : CtxNo) (s : State) : Out :=
  .next (if s.up then (s.startBucket c 0x20 (.send 0)).portStep else s)

/-- BUCKET_RECV (R261, R266); the least CONTRIB of no packet yet is 0xFFFF (log 35). -/
def execBucketRecv (c : CtxNo) (s : State) : Out :=
  .next (if s.up then (s.startBucket c 0x21 (.recv 0 0 0xFFFF 0 0 0 false false)).portStep else s)

/-! ### Packets from the links -/

/-- A packet of kind `n` reaches a channel; a packet of another kind is not this event (log 1). -/
def State.packetIn (s : State) (k : Chan) (p : Packet) (n : Nat) : State :=
  if s.up && p.kind == n then (s.modCh k (fun (ch : Channel) => { ch with inq := ch.inq ++ [p] })).portStep else s

/-- DATA (R265, R267). -/
def execData (k : Chan) (p : Packet) (s : State) : Out := .next (s.packetIn k p 0)

/-- RESULT (R264, R267). -/
def execResult (k : Chan) (p : Packet) (s : State) : Out := .next (s.packetIn k p 1)

/-- BACKUP (R272): on IN3. -/
def execBackup (p : Packet) (s : State) : Out := .next (s.packetIn 3 p 2)

/-- ABORT_PACKET (R274). -/
def execAbortPacket (k : Chan) (p : Packet) (s : State) : Out := .next (s.packetIn k p 3)

/-- LATE_INPUT (R271): the lowest bucket whose input of this number is late. -/
def execLateInput (job : BitVec 12) (input : Fin 5) (s : State) : Out :=
  .next (if !s.up then s else
    match s.port.inputs.find? (fun (i : Input) => i.job == job && i.input == input.val && s.isLate i) with
    | some i => (s.late i).portStep
    | none => s)

/-- RECEIVE_BUFFER_CREDIT (R270): a credit of a job returns, and the job's next packet may go. -/
def execReceiveBufferCredit (k : Chan) (job : BitVec 12) (s : State) : Out :=
  .next (if s.up then
      (s.modCh k (fun (ch : Channel) => ch.credit job)).portStep
    else s)

/-- A write of JOB_RELEASE (R260): the job's contexts that are not ACTIVE become FREE. -/
def State.releaseJob (s : State) (job : BitVec 12) : State :=
  ((s.modPort (fun (p : Port) => { p with chans := p.chans.map (fun (ch : Channel) =>
    ch.freeCtxs (fun (j : JobCtx) => j.job == job && j.state != .active)) })).forget job).portStep

/-- JOB_RELEASE (R260). -/
def execJobRelease (v : Word) (s : State) : Out := .next (if s.windowOpen then s.releaseJob (v.setWidth 12) else s)

/-! ### DIGEST_READ (R229, R279) -/

/-- The 96 bytes of the digests, and which channels hold a context. -/
def State.digests (s : State) (job : BitVec 12) : List Byte × Nat :=
  let cs := allChans.map (fun k => (s.portCh k).ctx job)
  (cs.flatMap (fun j => match j with
      | some x => leBytes 8 x.sent.toNat ++ leBytes 8 x.recv.toNat
      | none => List.replicate 16 0),
   packBits (cs.map (fun j => (j.isSome.toNat, 1))))

/-- Have the context's earlier commands of the job completed (R209)? -/
def State.jobQuiet (s : State) (c : CtxNo) (i : Nat) (job : BitVec 12) : Bool :=
  ((s.ctx c).cmds.take i).all (fun m => !((m.op == 0x20 || m.op == 0x21 || m.op == 0x22) && m.job == job) || s.cmdDone c m)

/-- DIGEST_READ: its checks, the write, the reply. -/
def State.digestRead (s : State) (c : CtxNo) : State :=
  match s.starting c 0x22 with
  | none => s
  | some (i, m) =>
    if !s.noConflict c i m || !s.jobQuiet c i m.job then s
    else match s.handle c (m.f 128 16), s.opnd m.fmts (m.f 128 16) 0, m.reservedBad with
      | some _, some o, none =>
        if !(o.desc.canWrite && o.areaOk 96) then s.finish c i (.bad 128)
        else
          let a := o.acc true false (o.byteSpans 0 96)
          let q := s.openWrites c m.seq [a]
          if !q.1 then q.2 else
          let d := q.2.digests m.job
          let s1 := (q.2.putArea c (q.2.refusals c a) o 0 d.1).closeUnit c m.seq [a]
          s1.finish c i { Reply.ok with result0 := w32 d.2 }
      | some _, some _, some r => s.finish c i r
      | _, _, _ => s.finish c i (.of stHandle)

/-- DIGEST_READ (R229). -/
def execDigestRead (c : CtxNo) (s : State) : Out := .next (s.digestRead c)

end Sys2Proof.Machine
end

