-- ==== Sys2Proof/Machine/Regs.lean ====
section
/-! DEFINITION. The control register window (19): counter clears, error-log registers, every register write and read. -/

namespace Sys2Proof.Machine

/-! ### Counter clears (R364) -/

/-- A write the window takes (R362). -/
def State.whenOpen (s : State) (f : State) : State := if s.windowOpen then f else s

def State.clearStall (s : State) : State := { s with tel := { s.tel with stall := Vector.replicate 16 0, busy := 0 } }
def State.clearMac (s : State) : State := { s with tel := { s.tel with mac16 := 0, mac8 := 0 } }
def State.clearEnergy (s : State) : State := { s with tel := { s.tel with energy := 0 } }
def State.clearIdle (s : State) : State := { s with tel := { s.tel with idle := 0, fallow := 0 } }
def State.clearMisc (s : State) : State :=
  { s with tel := { s.tel with prefetchDrop := 0, detach := 0, tokenWait := 0, mgmtDenied := 0 } }
def State.clearTempMax (s : State) : State := { s with pow := { s.pow with tempMax := s.pow.temp } }
def State.clearReduce (s : State) : State :=
  s.modPort (fun (p : Port) => { p with
    chans := p.chans.map (fun (ch : Channel) => { ch with pktsSent := 0, pktsRecv := 0, creditWait := 0, lateDrop := 0, badPeer := 0 })
    backupsUsed := 0, omitted := 0, failed := 0 })
def State.clearTick (s : State) : State := { s with tick := { s.tick with early := 0, localCount := 0 } }

/-- A write takes effect at the end of its EC (R364, R368, R369). -/
def State.later (s : State) (a : LateAct) : State := { s with eng := { s.eng with late := s.eng.late ++ [a] } }

/-- A CNT_CLEAR write: what it names is set to zero at the end of its EC (R364). -/
def State.writeClear (s : State) (v : Word) : State := s.whenOpen (s.later (.counters v))

/-- CNT_CLEAR.STALL. -/
def execClearStall (s : State) : Out := .next (s.writeClear 1)
/-- CNT_CLEAR.MAC. -/
def execClearMac (s : State) : Out := .next (s.writeClear 2)
/-- CNT_CLEAR.ENERGY. -/
def execClearEnergy (s : State) : Out := .next (s.writeClear 4)
/-- CNT_CLEAR.IDLE. -/
def execClearIdle (s : State) : Out := .next (s.writeClear 8)
/-- CNT_CLEAR.MISC. -/
def execClearMisc (s : State) : Out := .next (s.writeClear 16)
/-- CNT_CLEAR.TEMP_MAX: each becomes its current TEMP. -/
def execClearTempMax (s : State) : Out := .next (s.writeClear 32)
/-- CNT_CLEAR.REDUCE: every counter of R281. -/
def execClearReduce (s : State) : Out := .next (s.writeClear 64)
/-- CNT_CLEAR.TICK. -/
def execClearTick (s : State) : Out := .next (s.writeClear 128)

/-- One bit of a CNT_CLEAR write. -/
def State.clearIf (s : State) (v : Word) (b : Nat) (f : State → State) : State := if bitAt v b then f s else s

/-- The counters that a CNT_CLEAR value names are set to zero. -/
def State.cntClear (s : State) (v : Word) : State :=
  (((((((s.clearIf v 0 State.clearStall).clearIf v 1 State.clearMac).clearIf v 2 State.clearEnergy).clearIf v 3 State.clearIdle).clearIf v 4
    State.clearMisc).clearIf v 5 State.clearTempMax).clearIf v 6 State.clearReduce).clearIf v 7 State.clearTick

/-- A write to a register of a context's block: ignored, with CTRL_IGN, while the context is being reset (CTX_STATUS aside). -/
def State.blockWrite (s : State) (c : CtxNo) (f : State → State) : State :=
  if !s.windowOpen then s else if (s.ctx c).resetting then s.ignored c else f s

def Context.clearOob (x : Context) : Context := { x with oobSilent := 0 }
def Context.clearIdx (x : Context) : Context := { x with idxNeg := 0, idxOob := 0 }
def Context.clearSched (x : Context) : Context :=
  { x with slices := 0, cuts := 0, overruns := 0, overrunEc := 0, maxOverrun := 0, heldTicks := 0, bubbles := 0 }

/-- A CTX_CLEAR write: what it names is set to zero at the end of its EC (R364). -/
def State.writeCtxClear (s : State) (c : CtxNo) (v : Word) : State := s.blockWrite c (fun t => t.later (.context c v))

/-- CTX_CLEAR.OOB_SILENT. -/
def execClearOobSilent (c : CtxNo) (s : State) : Out := .next (s.writeCtxClear c 1)
/-- CTX_CLEAR: IDX_NEG and IDX_OOB. -/
def execClearIdx (c : CtxNo) (s : State) : Out := .next (s.writeCtxClear c 2)
/-- CTX_CLEAR: the scheduling counters of R244. -/
def execClearSched (c : CtxNo) (s : State) : Out := .next (s.writeCtxClear c 4)

/-- The counters of a context that a CTX_CLEAR value names are set to zero. -/
def State.ctxClear (s : State) (c : CtxNo) (v : Word) : State :=
  s.modCtx c (fun x =>
    let a := if bitAt v 0 then x.clearOob else x
    let b := if bitAt v 1 then a.clearIdx else a
    if bitAt v 2 then b.clearSched else b)

/-! ### Error-log registers (R368, R369) -/

/-- FIRST_VALID written 1: the first-error entry is cleared and the capture armed again. -/
def ErrLog.rearm (l : ErrLog) : ErrLog := { l with first := none }

/-- LOG_SUMMARY written: W1C. -/
def ErrLog.ack (l : ErrLog) (mask : Word) : ErrLog := { l with summary := l.summary &&& ~~~mask }

/-- Does LOG_RD_IDX take the value: it neither moves backwards nor passes LOG_WR_IDX (R368)? -/
def ErrLog.rdOk (l : ErrLog) (v : Word) : Bool := decide (dist32 l.wr v ≤ dist32 l.wr l.rd)

/-- LOG_RD_IDX takes the later of a written position and its own (R368). -/
def ErrLog.advance (l : ErrLog) (v : Word) : ErrLog := if l.rdOk v then { l with rd := v } else l

/-- A write the log registers take (R362). -/
def State.logWrite (s : State) (f : ErrLog → ErrLog) : State := if s.logOpen then { s with log := f s.log } else s

/-- A log-register write that takes effect at the end of its EC. -/
def State.logLater (s : State) (a : LateAct) : State := if s.logOpen then s.later a else s

/-- LOG_CTL.FIRST_VALID (R369): entries of this EC are not captured. -/
def execFirstValid (s : State) : Out := .next (s.logLater .rearm)
/-- LOG_CTL.CLEAR_LOST (R364). -/
def execClearLost (s : State) : Out := .next (s.logLater .lost)
/-- LOG_SUMMARY (R327). -/
def execLogSummary (mask : Word) (s : State) : Out := .next (s.logWrite (fun l => l.ack mask))
/-- A LOG_RD_IDX write (R368): accepted or ignored now, taken at the end of its EC. -/
def State.writeRdIdx (s : State) (v : Word) : State := if s.log.rdOk v then s.logLater (.advance v) else s

/-- LOG_RD_IDX (R368). -/
def execLogRdIdx (v : Word) (s : State) : Out := .next (s.writeRdIdx v)

/-- A LOG_CTL write: FIRST_SEV for later entries at once, FIRST_VALID and CLEAR_LOST at the end of the EC. -/
def State.writeLogCtl (s : State) (v : Word) : State :=
  let a := s.logWrite (fun (l : ErrLog) => { l with firstSev := v.extractLsb' 0 2 })
  let b := if bitAt v 8 then a.logLater .rearm else a
  if bitAt v 16 then b.logLater .lost else b

/-- What a late write does (R364, R368, R369). -/
def State.act (s : State) : LateAct → State
  | .counters v => s.cntClear v
  | .context c v => s.ctxClear c v
  | .lost => { s with log := { s.log with lost := 0 } }
  | .advance v => { s with log := s.log.advance v }
  | .rearm => { s with log := s.log.rearm }

/-- The end of an EC: what its writes left for it is done, after every count and occurrence of the EC. -/
def State.endEc (s : State) : State :=
  let t := s.eng.late.foldl State.act s
  { t with eng := { t.eng with late := [] } }

/-! ### Register writes (R361 to R367) -/

/-- A CTX_CTRL write (R367). -/
def State.ctxCtrl (s : State) (c : CtxNo) (v : Word) : State :=
  match fld v 0 4 with
  | 1 => s.control c (· == .disabled) (s.modCtx c (fun x => if x.enableOk then { x with state := .running } else { x with cfgErr := true }))
  | 2 => s.control c (· == .parked) (s.resumeCtx c)
  | 3 => s.control c (· == .parked) (s.abortCtx c)
  | 4 => s.control c (fun _ => true) (s.beginReset c)
  | _ => s.ignored c

/-- Half `h` of a 64-bit register. -/
def setHalf (x : BitVec 48) (h : Nat) (v : Word) : BitVec 48 := if h = 0 then setFld x 0 32 v.toNat else setFld x 32 16 v.toNat

/-- A 32-bit write inside a context's block. -/
def State.writeBlock (s : State) (c : CtxNo) (ofs : Nat) (v : Word) : State :=
  match ofs with
  | 0x00 => s.writeCfg c (fun x => { x with cfg := v &&& 0xFFFF#32 })
  | 0x04 => if (s.ctx c).resetting then s.ignored c else s.ctxCtrl c v
  | 0x08 => s.modCtx c (fun x => { x with ctrlIgn := x.ctrlIgn && !bitAt v 6, headErr := x.headErr && !bitAt v 7 })
  | 0x10 => s.writeCfg c (fun x => { x with cmdBase := setHalf x.cmdBase 0 v })
  | 0x14 => s.writeCfg c (fun x => { x with cmdBase := setHalf x.cmdBase 1 v })
  | 0x18 => s.writeCfg c (fun x => { x with cplBase := setHalf x.cplBase 0 v })
  | 0x1C => s.writeCfg c (fun x => { x with cplBase := setHalf x.cplBase 1 v })
  | 0x24 => s.writeTail c v
  | 0x2C => s.writeHead c v
  | 0x44 => s.writeCtxClear c v
  | _ => if ofs < 0x6C then s.blockWrite c id else s

/-- The invalidation that a TLB_INVAL value names. -/
def invalOf (v : BitVec 64) : Inval := if bitAt v 0 then ⟨true, 0⟩ else ⟨false, fld v 16 32⟩

/-- An aligned 32-bit write at an offset. -/
def State.write32 (s : State) (ofs : Nat) (v : Word) : State :=
  match ofs with
  | 0x180 => s.writeLogCtl v
  | 0x188 => s.writeRdIdx v
  | 0x190 => s.logWrite (fun l => l.ack v)
  | _ =>
    if !s.windowOpen then s
    else if 0x200 ≤ ofs ∧ ofs < 0x600 then s.writeBlock (ctxOf ((ofs - 0x200) / 0x80)) (ofs % 0x80) v
    else match ofs with
      | 0x020 => { s with eng := { s.eng with doorbellStop := bitAt v 0 } }
      | 0x024 => s.writeClear v
      | 0x028 => s.releaseJob (v.setWidth 12)
      | 0x02C => { s with eng := { s.eng with tempExc := v.setWidth 16 } }
      | 0x030 => { s with eng := { s.eng with invalLo := v } }
      | 0x034 => s.invalidate (invalOf (v ++ s.eng.invalLo))
      | _ => s

/-- R11: aligned 32-bit writes; aligned 64-bit ones as two in ascending order (the two halves of a 64-bit register take effect
together, since nothing runs between them); every other width or alignment is ignored. -/
def State.writeReg (s : State) (ofs width : Nat) (v : BitVec 64) : State :=
  if width = 32 ∧ ofs % 4 = 0 then s.write32 ofs (v.setWidth 32)
  else if width = 64 ∧ ofs % 8 = 0 then (s.write32 ofs (v.setWidth 32)).write32 (ofs + 4) ((v.ushiftRight 32).setWidth 32)
  else s

/-- REGISTER_WRITE (R361, R362, R11). -/
def execRegisterWrite (ofs : BitVec 12) (width : Nat) (v : BitVec 64) (s : State) : Out := .next (s.writeReg ofs.toNat width v)

/-! ### Register reads (R361) -/

/-- The 32 bytes of a log entry (R328). -/
def LogEntry.bits (e : LogEntry) : Nat :=
  packBits [(e.cls.toNat, 6), (e.sev.toNat, 2), (e.unit.toNat, 4), ((e.ctx.map (·.val)).getD 0, 3), (e.ctx.isSome.toNat, 1), (e.rpt.toNat, 16),
    (e.firstTick.toNat, 32), (e.firstEc.toNat, 14), (0, 2), (e.lastTick.toNat, 32), (e.lastEc.toNat, 14), (0, 2), (e.detail0.toNat, 64),
    (e.detail1.toNat, 64)]

/-- CTX_STATUS. -/
def Context.status (x : Context) : Nat :=
  let t := x.task
  let latch := match t with
    | some k => (k.guard.map (fun (g : Guard) => g.latch)).getD 0
    | none => 0
  packBits [(x.state.code, 2), (x.resetting.toNat, 1), (x.ringFault.toNat, 1), (x.doorbellErr.toNat, 1), (x.cfgErr.toNat, 1), (x.ctrlIgn.toNat, 1),
    (x.headErr.toNat, 1), (x.parkCause.toNat, 2), (t.isSome.toNat, 1), (((t.map (fun (k : Task) => k.part)).getD false).toNat, 1), (latch, 2),
    (x.bound.toNat, 1), (0, 1), (x.adj.toNat, 8)]

/-- Is a lane group awake (R304)? -/
def Power.isActive (p : Power) : Bool := p.awake.toList.any id

/-- ENG_STATE. -/
def State.engState (s : State) : Nat :=
  packBits [(s.eng.step.toNat, 4), (s.pow.isActive.toNat, 1), (s.sec.dbgFull.toNat, 1), (0, 2), (s.risk.level.toNat, 8),
    (if s.isFatal then s.eng.fatalClass.toNat else 0, 6)]

/-- CKPT_STATE. -/
def Ckpt.state (k : Ckpt) : Nat :=
  packBits [(k.policy.toNat, 2), (k.armed.toNat, 1), (k.incomplete.toNat, 1), (k.pending.isSome.toNat, 1), (0, 3), (k.thresh.toNat, 8)]

/-- Offset, width in bytes and value of a register. -/
abbrev Reg := Nat × Nat × Nat

/-- Engine, tick, checkpoint and self-test registers. -/
def State.engineRegs (s : State) : List Reg :=
  [(0x000, 4, 0x00010A2C), (0x004, 4, s.eng.position.toNat), (0x008, 4, s.eng.jexloVer.toNat), (0x00C, 4, s.engState),
   (0x010, 8, Config.uniqueId.toNat), (0x020, 4, s.eng.doorbellStop.toNat), (0x02C, 4, s.eng.tempExc.toNat),
   (0x038, 4, s.invalReq.toNat), (0x03C, 4, s.invalDone.toNat), (0x040, 4, s.tick.count.toNat),
   (0x044, 4, s.tickEc.toNat + (if s.tick.lastLocal then 2 ^ 31 else 0)), (0x048, 4, s.tick.early.toNat), (0x04C, 4, s.tick.localCount.toNat),
   (0x050, 4, s.ckpt.state), (0x054, 4, s.ckpt.epoch.toNat), (0x058, 4, s.ckpt.copied.length), (0x05C, 4, if s.ckpt.armed then s.ckpt.slots else 0),
   (0x060, 4, s.bist.sweeps.toNat), (0x064, 4, s.bist.lastSweep.toNat), (0x068, 4, s.bist.dry.toNat),
   (0x070, 16, packBits (s.bist.cursors.toList.map (fun n => (n, 16)))),
   (0x180, 4, s.log.firstSev.toNat + (if s.log.first.isSome then 2 ^ 8 else 0)), (0x184, 4, s.log.wr.toNat), (0x188, 4, s.log.rd.toNat),
   (0x18C, 4, s.log.lost.toNat), (0x190, 4, s.log.summary.toNat), (0x1A0, 32, (s.log.first.map LogEntry.bits).getD 0)]

/-- Admitted commands: a DESC_CREATE or TABLE_LOAD whose image has not been read is still being admitted (R141, R196). -/
def Context.admittedCount (x : Context) : Nat :=
  (x.cmds.filter (fun m => !(m.phase.isQueued && m.img.isNone && (m.op == 0x10 || m.op == 0x38)))).length

/-- A context's block. -/
def State.blockRegs (s : State) (c : CtxNo) : List Reg :=
  let x := s.ctx c
  let b := 0x200 + 0x80 * c.val
  [(b, 4, x.cfg.toNat), (b + 0x08, 4, x.status), (b + 0x0C, 4, x.lost.toNat), (b + 0x10, 8, x.cmdBase.toNat), (b + 0x18, 8, x.cplBase.toNat),
   (b + 0x20, 4, x.cmdHead.toNat), (b + 0x24, 4, x.cmdTail.toNat), (b + 0x28, 4, x.cplTail.toNat), (b + 0x2C, 4, x.cplHead.toNat),
   (b + 0x30, 4, x.expSeq.toNat), (b + 0x34, 4, x.eventSeq.toNat), (b + 0x38, 4, x.oobSilent.toNat), (b + 0x3C, 4, x.idxNeg.toNat),
   (b + 0x40, 4, x.idxOob.toNat), (b + 0x48, 4, x.slices.toNat), (b + 0x4C, 4, x.cuts.toNat), (b + 0x50, 4, x.overruns.toNat),
   (b + 0x54, 4, x.heldTicks.toNat), (b + 0x58, 4, x.bubbles.toNat), (b + 0x5C, 4, x.maxOverrun.toNat), (b + 0x60, 8, x.overrunEc.toNat),
   (b + 0x68, 4, x.admittedCount)]

/-- Telemetry, channel counters, temperatures. -/
def State.counterRegs (s : State) : List Reg :=
  (List.range 16).map (fun c => (0x600 + 8 * c, 8, (s.tel.stall.toList.getD c 0).toNat))
  ++ [(0x680, 8, s.tel.busy.toNat), (0x688, 8, s.tel.mac16.toNat), (0x690, 8, s.tel.mac8.toNat), (0x698, 8, s.tel.energy.toNat),
      (0x6A0, 8, s.tel.tokenWait.toNat), (0x6A8, 8, s.tel.idle.toNat), (0x6B0, 8, s.tel.fallow.toNat), (0x6B8, 4, s.tel.prefetchDrop.toNat),
      (0x6BC, 4, s.tel.detach.toNat), (0x6C0, 4, s.tel.mgmtDenied.toNat), (0x6C4, 4, s.port.backupsUsed.toNat),
      (0x6C8, 4, s.port.omitted.toNat), (0x6CC, 4, s.port.failed.toNat)]
  ++ (List.range 16).map (fun g => (0x700 + 4 * g, 4, (s.pow.temp.toList.getD g 0).toNat + (s.pow.tempMax.toList.getD g 0).toNat * 2 ^ 16))
  ++ allChans.map (fun k =>
      let ch := s.portCh k
      (0x740 + 0x20 * k.val, 32, packBits [(ch.pktsSent.toNat, 64), (ch.pktsRecv.toNat, 64), (ch.creditWait.toNat, 64), (ch.lateDrop.toNat, 32),
        (ch.badPeer.toNat, 32)]))

/-- Every readable register of the window (R361). -/
def State.regs (s : State) : List Reg :=
  s.engineRegs ++ allCtx.flatMap s.blockRegs ++ s.counterRegs
    ++ (List.range 63).map (fun i => (0x800 + 0x20 * i, 32, (s.log.ring.getD i .zero).bits))

/-- Is the window served with current values: from the end of step 0x1, and neither in OFF nor in RETAIN (R362)? -/
def State.windowReads (s : State) : Bool := s.pow.state != .off && s.pow.state != .retain && s.eng.step != 1

/-- An aligned 32-bit read; write-only and unlisted offsets read as zero (R5), and so does everything in RETAIN (R362); where the window is not
served the model reads zero (log 56). -/
def State.read32 (s : State) (ofs : Nat) : Word :=
  if !s.windowReads then 0 else
  match s.regs.find? (fun r => decide (r.1 ≤ ofs ∧ ofs < r.1 + r.2.1)) with
  | some r => w32 (r.2.2 / 2 ^ (8 * (ofs - r.1)))
  | none => 0

/-- R11: a read of the window. -/
def State.readReg (s : State) (ofs width : Nat) : BitVec 64 :=
  if width = 32 ∧ ofs % 4 = 0 then (s.read32 ofs).setWidth 64
  else if width = 64 ∧ ofs % 8 = 0 then s.read32 (ofs + 4) ++ s.read32 ofs
  else 0

end Sys2Proof.Machine
end

