-- ==== Sys2Proof/Machine/Mgmt.lean ====
section
/-! DEFINITION. Management services and the debug port (17). -/

namespace Sys2Proof.Machine

/-! ### Access (R347) -/

/-- The management bus is out of reset: the engine is not in OFF. -/
def State.mgmtUp (s : State) : Bool := s.pow.state != .off

/-- The management bus and the engine's clock run. -/
def State.served (s : State) : Bool := s.pow.state == .running

/-- A refused management write: counted, and the first since the counter was cleared writes an entry (R347). -/
def State.denied (s : State) (offset : Nat) : State :=
  let n := satAdd s.tel.mgmtDenied 1
  let s1 := { s with tel := { s.tel with mgmtDenied := n } }
  if s.tel.mgmtDenied = 0 then s1.logErr 0x0F 0 0xF none (BitVec.ofNat 64 offset) (n.setWidth 64) else s1

/-- A management offset: the service's base and, inside its 256 bytes, a place the manual does not give (log 4). -/
def mgmtOffset (base k : Nat) : Nat := base + (Config.mgmtWord k).toNat

/-- A write that only secure firmware may make. -/
def State.secureWrite (s : State) (secure : Bool) (offset : Nat) (f : State) : State :=
  if !s.served then s else if !secure then s.denied offset else f

/-- Word `k` of staging replaced. -/
def setWord {w : Nat} (x : BitVec w) (k : Nat) (v : Word) : BitVec w := setFld x (32 * k) 32 v.toNat

/-- POSITION may be written until start-up has read it (R347, R353): in OFF too, before release. -/
def State.positionOpen (s : State) : Bool := decide (s.eng.step.toNat ≤ 4)

/-- ALERT's causes acknowledged (W1C): bit 0 FATAL, bit 1 the failure of R337, bit 2 a power request's completion. -/
def Mgmt.ackAlert (m : Mgmt) (v : Word) : Mgmt :=
  { m with alertFatal := m.alertFatal && !bitAt v 0, alertAuth := m.alertAuth && !bitAt v 1, alertPower := m.alertPower && !bitAt v 2 }

/-- A write of a read-only word or an unlisted offset changes nothing (R5, R347); in a secure service it is counted without SECURE. -/
def State.otherWrite (s : State) (secure : Bool) (offset : Nat) : State :=
  if 0x3000 ≤ offset ∧ offset ≤ 0x33FF then s.secureWrite secure offset s else s

/-- The management services with no behaviour of their own (R347). -/
def State.mgmtWrite (s : State) (reg : MgmtReg) (secure : Bool) (v : Word) : State :=
  let go (base k : Nat) (f : State) : State := s.secureWrite secure (mgmtOffset base k) f
  match reg with
  | .position =>
    if !secure then (if s.served then s.denied (mgmtOffset 0x0000 0) else s)
    else if s.positionOpen then { s with mgmt := { s.mgmt with position := v.setWidth 15 } } else s
  | .alert => if s.mgmtUp then { s with mgmt := s.mgmt.ackAlert v } else s
  | .commitErr => if s.mgmtUp then { s with mgmt := { s.mgmt with commitErr := s.mgmt.commitErr && !bitAt v 0 } } else s
  | .logReadIdx => go 0x1000 1 (s.writeRdIdx v)
  | .logSummary => go 0x1000 2 (s.logWrite (fun l => l.ack v))
  | .logFirst => go 0x1000 3 (if bitAt v 0 then s.logLater .rearm else s)
  | .regionStage k => go 0x3000 (16 + k.val) { s with mgmt := { s.mgmt with region := setWord s.mgmt.region k.val v } }
  | .groupStage k => go 0x3100 (32 + k.val) { s with mgmt := { s.mgmt with group := setWord s.mgmt.group k.val v } }
  | .keyStage k => go 0x3200 (48 + k.val) { s with mgmt := { s.mgmt with key := setWord s.mgmt.key k.val v } }
  | .readOnly offset => s.otherWrite secure offset.toNat
  | .unlisted offset => s.otherWrite secure offset.toNat

/-- MANAGEMENT_WRITE (R347). -/
def execManagementWrite (reg : MgmtReg) (secure : Bool) (v : Word) (s : State) : Out := .next (s.mgmtWrite reg secure v)

/-! ### Reads over the management bus and the debug port (R347, R339) -/

/-- The repair store (R326): the lane each spare stands for, with 1 added, and the column maps as unit, bank and column. -/
def SelfTest.repairStore (b : SelfTest) : List Nat :=
  [(b.sl0.map (· + 1)).getD 0, (b.sl1.map (· + 1)).getD 0] ++ b.columns.flatMap (fun x => [x.1, x.2.1, x.2.2])

/-- The error log (R327): first-error entry, ring, indices, LOST, summary mask. -/
def ErrLog.contents (l : ErrLog) : List Nat :=
  (l.first.map LogEntry.bits).getD 0 :: l.ring.map LogEntry.bits ++ [l.wr.toNat, l.rd.toNat, l.lost.toNat, l.summary.toNat]

/-- Power states as the power service names them (R347, log 4). -/
def PowerState.code : PowerState → Nat
  | .off => 0
  | .running => 1
  | .retain => 2

def DbgLevel.code : DbgLevel → Nat
  | .locked => 0
  | .observe => 1
  | .full => 2

/-- What a read of a management service shows, in the order of its row in R347 (R357 for the neighbour report). A secure service reads
as zeros without SECURE, and so do staging words and unlisted offsets. -/
def State.mgmtRead (s : State) (service : Nat) (secure : Bool) : List Nat :=
  if !s.mgmtUp then [] else
  match service with
  | 0x0000 => [Config.uniqueId.toNat, s.eng.jexloVer.toNat, s.eng.fwSvn, s.sec.dbg.code, s.sec.dbgFull.toNat, s.mgmt.position.toNat]
  | 0x0100 => [s.eng.step.toNat, s.mgmt.alertFatal.toNat + 2 * s.mgmt.alertAuth.toNat + 4 * s.mgmt.alertPower.toNat, s.mgmt.heartbeat.toNat,
      s.eng.fatalClass.toNat, s.mgmt.commitErr.toNat] ++ s.mgmt.reports.toList.map BitVec.toNat ++ [s.mgmt.reportSeq.toNat]
  | 0x0200 => [s.mgmt.powerReq.code, s.mgmt.powerOk.toNat]
  | 0x0300 => s.risk.level.toNat :: s.risk.counts.toList.map BitVec.toNat
  | 0x0400 => (s.counterRegs ++ allCtx.flatMap s.blockRegs).map (fun r => r.2.2)
  | 0x1000 => s.log.contents
  | 0x2000 => s.bist.repairStore
  | 0x3200 => if secure then s.sec.pendKey.isSome.toNat :: allCtx.map (fun c => (s.ctx c).key.val + 16 * (s.ctx c).bound.toNat) else []
  | 0x3300 => if secure then [s.sec.exportSeq.toNat, s.eng.fwSvn] else []
  | _ => []

/-- A word of the status service by its offset, for the offsets R357 gives: the neighbour report and REPORT_SEQ. -/
def State.statusWord (s : State) (offset : Nat) : Option Word :=
  if s.mgmtUp ∧ 0x0180 ≤ offset ∧ offset ≤ 0x0194 ∧ offset % 4 = 0 then s.mgmt.reports.toList[(offset - 0x0180) / 4]?
  else if s.mgmtUp ∧ offset = 0x0198 then some s.mgmt.reportSeq else none

/-- A consistency check of the engine's firmware failed (R330): class FIRMWARE, with the check's code and where it ran, 0 the scheduler and
1 the service core. The spec does not say what is checked, so no command raises it (log 65). -/
def State.firmwareFail (s : State) (code : BitVec 64) (service : Bool) : State := s.logErr 0x0B 3 0x8 none code (if service then 1 else 0)

/-- What the read-only segments show at OBSERVE and above: registers, slot tags, error log, repair store (R339). -/
def State.dbgObserve (s : State) : Option (List Reg × List Nat × List Nat × List Nat) :=
  if s.sec.dbg = .locked ∨ ¬ s.mgmtUp then none
  else some (s.regs, (List.range 48).map (fun k => (s.seenSlot k).tag), s.log.contents, s.bist.repairStore)

/-! ### Keys and bindings (R331 to R333) -/

/-- BINDING_WORD_WRITE (R332): only while the context is DISABLED; at any other time ignored and counted. -/
def execBindingWordWrite (c : CtxNo) (secure : Bool) (v : Word) (s : State) : Out :=
  let off := mgmtOffset 0x3200 (64 + c.val)
  .next (s.secureWrite secure off (
    if (s.ctx c).state = .disabled then
      s.modCtx c (fun x => { x with key := ⟨fld v 0 4, Nat.mod_lt _ (by decide)⟩, bound := bitAt v 4 })
    else s.denied off))

/-- A committed key takes effect (R333): no image is being sealed or opened between two steps. -/
def State.takeKey (s : State) : State :=
  match s.sec.pendKey with
  | none => s
  | some (i, k) => { s with sec := { s.sec with keys := s.sec.keys.set i.val (some k) i.isLt, pendKey := none } }

/-- A commit write's index, when it is in range and every other bit is zero (R348). -/
def commitIndex (v : Word) (n : Nat) : Option Nat := if v.toNat < n then some v.toNat else none

/-- A refused commit. -/
def State.commitError (s : State) : State := { s with mgmt := { s.mgmt with commitErr := true } }

/-- KEY_COMMIT (R348): the staged key waits for its slot (R333); an earlier one takes effect first. -/
def execKeyCommit (secure : Bool) (v : Word) (s : State) : Out :=
  .next (s.secureWrite secure (mgmtOffset 0x3200 80) (
    if h : v.toNat < 16 then { s.takeKey with sec := { s.takeKey.sec with pendKey := some (⟨v.toNat, h⟩, s.mgmt.key) } }
    else s.commitError))

/-- KEY_WRITE_EFFECT (R333). -/
def execKeyWriteEffect (s : State) : Out := .next (if s.served then s.takeKey else s)

/-! ### Region and group table (R335, R336, R348) -/

/-- R348: a staged region entry that may be committed. -/
def regionStagedOk (r : BitVec 128) : Bool := fld r 48 16 == 0 && fld r 115 5 == 0 && decide (fld r 0 48 ≤ fld r 64 48)

/-- REGION_COMMIT (R348, R336). -/
def execRegionCommit (secure : Bool) (v : Word) (s : State) : Out :=
  .next (s.secureWrite secure (mgmtOffset 0x3000 20) (
    match commitIndex v 256, regionStagedOk s.mgmt.region with
    | some i, true => { s with regions := Tbl.put 0 s.regions i s.mgmt.region }
    | _, _ => s.commitError))

/-- GROUP_COMMIT (R348, R259). -/
def execGroupCommit (secure : Bool) (v : Word) (s : State) : Out :=
  .next (s.secureWrite secure (mgmtOffset 0x3100 40) (
    match commitIndex v 16, groupReservedOk s.mgmt.group with
    | some i, true => { s with groups := s.groups.setIfInBounds i s.mgmt.group }
    | _, _ => s.commitError))

/-! ### Counters and fuses (R334, R338) -/

/-- EXPORT_SEQ (R334): accepted only while no export has been made since reset. All 64 bits come in one command
(log 74). -/
def execExportSeq (secure : Bool) (v : BitVec 64) (s : State) : Out :=
  let off := mgmtOffset 0x3300 96
  .next (s.secureWrite secure off (if s.sec.exported then s.denied off else { s with sec := { s.sec with exportSeq := v } }))

/-- SVN_COMMIT (R338): bits are blown up to the running image's SVN, never cleared. -/
def execSvnCommit (secure : Bool) (s : State) : Out :=
  .next (s.secureWrite secure (mgmtOffset 0x3300 97) { s with eng := { s.eng with fwSvn := max s.eng.fwSvn s.eng.svn } })

/-! ### Debug port (R339 to R341) -/

/-- DBG_CHALLENGE (R340): a fresh nonce and UNIQUE_ID are shifted out; refused after three consecutive failures (R341). -/
def execDbgChallenge (s : State) : Out :=
  .next (if !s.mgmtUp || s.sec.refuses then s else
    let r := s.drawFree
    let n := Config.random r.1
    { r.2 with sec := { r.2.sec with nonce := some n, shifted := r.2.sec.shifted ++ [(n, Config.uniqueId)] } })

/-- DBG_RESPONSE (R340): the response shifted in waits for the service core. -/
def execDbgResponse (level : Byte) (key : BitVec 776) (r q : BitVec 384) (s : State) : Out :=
  .next (if s.mgmtUp then { s with sec := { s.sec with response := some (level, key, r, q) } } else s)

/-- R340: the bytes a response signs: nonce, UNIQUE_ID, level, as they are shifted. -/
def responseBytes (nonce : BitVec 256) (level : Byte) : List Byte := leBytes 32 nonce.toNat ++ leBytes 8 Config.uniqueId.toNat ++ [level]

/-- R340: does a response verify against the current nonce? -/
def responseOk (nonce : Option (BitVec 256)) (level : Byte) (key : BitVec 776) (r q : BitVec 384) : Bool :=
  match nonce with
  | none => false
  | some n => (level == 1 || level == 2) && sha384 (keyBytes key) == Config.debugKeyHash
      && ecdsaVerify key r.toNat q.toNat (sha384 (responseBytes n level))

/-- The port at a requested level; before FULL the key slots are emptied and the sticky bit set (R340). -/
def Security.unlock (x : Security) (level : Byte) : Security :=
  if level = 2 then { x with dbg := .full, dbgFull := true, keys := Vector.replicate 16 none, pendKey := none, failures := 0 }
  else { x with dbg := if x.dbg = .full then .full else .observe, failures := 0 }

/-- DBG_RESPONSE_VERIFIED (R340, R341). -/
def execDbgResponseVerified (s : State) : Out :=
  .next (match s.sec.response with
    | none => s
    | some (level, key, r, q) =>
      if !s.alive then s else
      if responseOk s.sec.nonce level key r q then
        ({ s with sec := { s.sec.unlock level with response := none } }).logErr 0x0D 0 0x8 none (level.setWidth 64) (BitVec.ofNat 64 s.sec.failures)
      else
        let n := s.sec.failures + 1
        let shut := decide (3 ≤ n)
        ({ s with sec := { s.sec with response := none, failures := n, refuses := s.sec.refuses || shut } }).logErr 0x0E 2 0x8 none
          (BitVec.ofNat 64 n) (if s.sec.refuses || shut then 1 else 0))

/-- The debug port's read of a slot's tag: none while the port is LOCKED (R99, R339). -/
def State.dbgReadTag (s : State) (k : Nat) : Option (BitVec 128) :=
  if s.sec.dbg = .locked ∨ ¬ s.mgmtUp ∨ 48 ≤ k then none else some (BitVec.ofNat 128 (s.seenSlot k).tag)

/-- IDCODE (R339), which every level reaches. -/
def State.dbgIdcode (s : State) : Option Word := if s.mgmtUp then some Config.idcode else none

/-- BYPASS (R339): the bits shifted in come out one shift later, behind a 0 (IEEE 1149.1, log 4). -/
def State.dbgBypass (s : State) (bits : List Bool) : Option (List Bool) := if s.mgmtUp then some ((false :: bits).take bits.length) else none

/-- Is every segment reachable, for reads and writes (R339)? -/
def State.dbgFull (s : State) : Bool := s.mgmtUp && s.sec.dbg == .full

/-- At FULL the Clamp's data can be read (R339). -/
def State.dbgClamp (s : State) (k e : Nat) : Option (BitVec 64) := if s.dbgFull then some (Tbl.get 0 (s.slot k).elems e) else none

/-- At FULL the Clamp's data can be written. -/
def State.dbgPutClamp (s : State) (k e : Nat) (v : BitVec 64) : State :=
  if s.dbgFull then s.modSlot k (fun x => { (x.putElem e v) with bad := x.bad.filter (· != e) }) else s

/-- At FULL a scan of the lane bank reads its A20, T25 and stationary state (R39, R339). -/
def State.dbgScan (s : State) : Option Lane := if s.dbgFull then some s.lane else none

/-- At FULL the scan writes the lane bank: what is shifted in takes the place of the A20 banks, lane totals and stationary banks. -/
def State.dbgScanIn (s : State) (l : Lane) : State :=
  if s.dbgFull then { s with lane := { s.lane with bankA := l.bankA, bankB := l.bankB, s0 := l.s0, s1 := l.s1, totals := l.totals } } else s

/-- At FULL the register segments can be written as the window is (R339). -/
def State.dbgWrite (s : State) (offset : Nat) (v : Word) : State := if s.dbgFull then s.write32 offset v else s

/-- LOCK (R339): the port returns to LOCKED. -/
def execLock (s : State) : Out := .next (if s.mgmtUp then { s with sec := { s.sec with dbg := .locked } } else s)

end Sys2Proof.Machine
end

