-- ==== Sys2Proof/Machine/Power.lean ====
section
/-! DEFINITION. Power states, ramps and ramp tokens (15), and the modelled current (17). -/

namespace Sys2Proof.Machine

/-! ### The ramp table (R310) -/

def State.dwell (s : State) : Nat := fld s.rampTab 0 16
def State.modeStep (s : State) : Nat := fld s.rampTab 16 8

/-- First bit of a mode's curve. -/
def curveAt (eight : Bool) : Nat := if eight then 384 else 128

/-- STEP_EC of a mode's curve. -/
def State.stepEc (s : State) (eight : Bool) : Nat := fld s.rampTab (curveAt eight) 16

/-- Point P_k of a mode's curve. -/
def State.point (s : State) (eight : Bool) (k : Nat) : Nat := fld s.rampTab (curveAt eight + 32 + 8 * k) 8

/-- A lane group's awake level in mA (R306). -/
def levelMa (eight : Bool) : Nat := if eight then 1500 else 1250

/-- The curve after `t` EC, in mA: linear from point to point; fractions round down (R307, R310, R345). -/
def State.curveMa (s : State) (eight : Bool) (t : Nat) : Nat :=
  if s.stepEc eight ≤ t then levelMa eight else
  let seg := s.stepEc eight / 16
  let n := t / max 1 seg
  let lo := if n = 0 then 0 else s.point eight (n - 1)
  levelMa eight * (lo * (seg - t % max 1 seg) + s.point eight n * (t % max 1 seg)) / (255 * max 1 seg)

/-- EC a ramp takes (R307, R351). -/
def State.rampEc (s : State) (r : Ramp) : Nat :=
  match r with
  | .wake gs => gs.length * s.stepEc s.pow.eight
  | .release gs => gs.length * s.stepEc s.pow.eight
  | .mode _ => (s.pow.awake.toList.filter id).length * s.modeStep
  | .bistWake => 16 * s.stepEc s.pow.eight
  | .bistRelease => 16 * s.stepEc s.pow.eight
  | _ => 256

/-- Place of an element in a list. -/
def placeIn {α : Type} [BEq α] (a : α) (l : List α) : Nat := ((findAt (· == a) l 0).map (·.1)).getD 0

/-- EC since a group's own part of the ramp in progress began: group number `k` starts `k` steps into it. -/
def State.rampAge (s : State) (step k : Nat) : Nat := s.now - (s.pow.rampStart + k * step)

/-- Awake groups in the order in which a mode change moves them: ascending for an increase, descending for a decrease (R307). -/
def Power.modeOrder (p : Power) (eight : Bool) : List (Fin 16) :=
  let gs := allGroups.filter (fun g => p.awake.get g)
  if eight then gs else gs.reverse

/-- A lane group's current in mA (R306, R307, R345). -/
def State.groupMa (s : State) (g : Fin 16) : Nat :=
  let step := s.stepEc s.pow.eight
  if s.pow.rising.contains g && !s.pow.awake.get g then s.curveMa s.pow.eight (s.rampAge step (placeIn g s.pow.rising))
  else if !s.pow.awake.get g then 0
  else if s.pow.falling.contains g then s.curveMa s.pow.eight (step - min step (s.rampAge step (placeIn g s.pow.falling)))
  else match s.pow.ramp with
    | some (.mode e) =>
      let t := min s.modeStep (s.rampAge s.modeStep (placeIn g (s.pow.modeOrder e)))
      (levelMa s.pow.eight * (s.modeStep - t) + levelMa e * t) / max 1 s.modeStep
    | _ => levelMa s.pow.eight

/-- The idle load in mA: 4,000, less on the line of a RETAIN ramp or of start-up (R307, R345, R351). -/
def State.idleMa (s : State) : Nat :=
  let t := min 256 (s.now - s.pow.rampStart)
  match s.pow.ramp with
  | some .retainIn => 4000 - 3800 * t / 256
  | some .retainOut => 200 + 3800 * t / 256
  | some .startUp => 4000 * t / 256
  | _ => if s.eng.step = 1 then 0 else 4000

/-- The modelled current in mA (R345). -/
def State.currentMa (s : State) : Nat := s.idleMa + (allGroups.map s.groupMa).foldl (· + ·) 0

/-! ### Tokens (R309) -/

/-- A wanted ramp as it would start now: groups that are awake are not woken, groups that have taken beats since are not released (R306,
R308), the mode in force is not changed to. -/
def State.stillWanted (s : State) : Ramp → Option Ramp
  | .wake gs =>
    let l := (sortGroups gs).filter (fun g => !s.pow.awake.get g)
    if l.isEmpty then none else some (.wake l)
  | .release gs =>
    let l := (sortGroups gs).filter (fun g => s.pow.awake.get g && decide (s.pow.lastBeat.get g + s.dwell ≤ s.now))
    if l.isEmpty then none else some (.release l.reverse)
  | .mode e => if s.pow.eight = e then none else some (.mode e)
  | r => some r

/-- The token is returned: RET is pulsed and REQ falls in the same EC (R309). -/
def Power.giveToken (p : Power) : Power := { p with held := false, ramp := none, req := false, ret := true, waitTicks := 0, waitLogged := false }

/-- The ramp that a token is for: the oldest one still wanted; a loaded ramp table takes effect with it (R310). Where none is, the token is
returned at once. -/
def State.startRamp (s : State) : State :=
  match s.pow.want.filterMap s.stillWanted with
  | [] => { s with pow := { s.pow.giveToken with want := [] } }
  | r :: rest =>
    { s with
      rampTab := s.rampNext.getD s.rampTab, rampNext := none
      pow := { s.pow with held := true, want := rest, ramp := some r, rampStart := s.now, waitTicks := 0, waitLogged := false } }

/-- GNT (R309): a pulse while REQ is low, or while the token is held, is ignored. -/
def execGnt (s : State) : Out := .next (if s.pow.req && !s.pow.held then s.startRamp else s)

/-- Groups of a ramp whose own part has run its `step` EC by now rise, in order; a group's dwell counts from there (R307, R308, log 73). -/
def Power.rise (p : Power) (now step : Nat) : Nat → List (Fin 16) → Power
  | _, [] => p
  | t, g :: rest =>
    let q := if p.awake.get g || decide (now < t + step) then p
      else { p with awake := p.awake.set g.val true g.isLt, lastBeat := p.lastBeat.set g.val (t + step) g.isLt }
    q.rise now step (t + step) rest

/-- Groups of a ramp whose own part has run its `step` EC by now are released, in order (R307). -/
def Power.fall (p : Power) (now step : Nat) : Nat → List (Fin 16) → Power
  | _, [] => p
  | t, g :: rest =>
    let q := if now < t + step then p else { p with awake := p.awake.set g.val false g.isLt }
    q.fall now step (t + step) rest

/-- Have the beats of the old mode left L6: the slice has started every unit, and no skid buffer holds a beat (R311)? -/
def Lane.beatsOut (l : Lane) : Bool :=
  l.ahead.isEmpty && (match l.slice with
    | some r => r.parts.all (fun q => q.left == 0)
    | none => true)

/-- The ramp in progress at this EC (R304, R307): groups whose part is over are awake, or released; a mode change has not begun while beats
of the old mode are on their way (R311). -/
def State.rampProgress (s : State) : State :=
  let step := s.stepEc s.pow.eight
  let p := (s.pow.rise s.now step s.pow.rampStart s.pow.rising).fall s.now step s.pow.rampStart s.pow.falling
  { s with pow := match s.pow.ramp with
      | some (.mode _) => if s.lane.beatsOut then p else { p with rampStart := s.now }
      | _ => p }

/-- One more EC has passed. -/
def State.clockOn (s : State) : State := ({ s with now := s.now + 1 }).rampProgress

/-- RET's EC is over: REQ rises for the next wanted ramp. -/
def Power.retDone (p : Power) (now : Nat) : Power := if p.ret then ({ p with ret := false }).request now else p

/-- The self-test controller after RETAIN: the repair store and the counters stay (R326), the cursors and the table of passes go. -/
def SelfTest.retained (b : SelfTest) : SelfTest :=
  { SelfTest.reset with
    sweeps := b.sweeps, lastSweep := b.lastSweep, dry := b.dry, sl0 := b.sl0, sl1 := b.sl1, sl0Bad := b.sl0Bad, sl1Bad := b.sl1Bad
    mapDue := b.mapDue, columns := b.columns, rewriteDue := b.rewriteDue }

/-- RETAIN holds the Clamp, the repair store and the retention registers: what R305 lists, the counters it freezes, and what other rules keep
until reset (R341, R346). Everything else is lost, and stands as after a reset (R13, log 41). -/
def State.retained (s0 : State) : State :=
  let s := s0.endEc
  State.report { s with
    ctxs := s.ctxs.map (fun (x : Context) => { x with xlats := [], wantUnit := none, wantPage := none, stream := none })
    lane := { Lane.reset with stopped := s.lane.stopped }, staging := [], tlb := [], walks := [], reqs := [], sent := [], waits := []
    dovetail := [], locks := [], invals := [], invalReq := 0, invalDone := 0, regions := [], risk := ⟨0, Vector.replicate 4 0, 0⟩
    schedLast := Vector.replicate 8 7, schedTurn := Vector.replicate 8 255
    eng := { s.eng with doorbellStop := Engine.reset.doorbellStop, tempExc := Engine.reset.tempExc, invalLo := 0 }
    tick := { s.tick with run := false, due := none }
    ckpt := { s.ckpt with policy := 0, thresh := 0, flights := [] }
    bist := s.bist.retained
    port := { Port.reset with
      chans := s.port.chans.map (fun (ch : Channel) => { ch with jobs := [], owing := [], inq := [], rx := [] })
      backupsUsed := s.port.backupsUsed, omitted := s.port.omitted, failed := s.port.failed }
    sec := { s.sec with keys := Vector.replicate 16 none, pendKey := none, nonce := none, shifted := [], response := none }
    mgmt := { s.mgmt with region := 0, group := 0, key := 0 }
    train := State.reset.train }

/-- A start-up ramp's end (R351); an engine that has stopped stays so (R330, R352). -/
def State.startUpRamp (s : State) (r : Ramp) (p : Power) : State :=
  if s.isFatal then { s with pow := p } else
  match r with
  | .startUp =>
    { s with pow := p.ask s.now .bistWake, eng := { s.eng with step := 2, stepStart := s.now }, tick := { s.tick with last := s.now, first := true } }
  | .bistWake => { s with pow := p.ask s.now .bistRelease }
  | _ => { s with pow := p, eng := { s.eng with bistDone := true } }

/-- What a ramp leaves (R304, R305, R307, R351). -/
def State.rampDone (s0 : State) (r : Ramp) : State :=
  let s := s0.rampProgress
  let p := s.pow.giveToken
  match r with
  | .wake _ => { s with pow := p }
  | .release _ => { s with pow := p }
  | .mode e => { s with pow := { p with eight := e } }
  | .retainIn =>
    let t := s.retained
    { t with pow := { p with state := .retain, retaining := false }, mgmt := { t.mgmt with powerOk := true, alertPower := true } }
  | .retainOut =>
    { s with pow := { p with state := .running }, mgmt := { s.mgmt with powerOk := true, alertPower := true }
             tick := { s.tick with waitEdge := true, due := none, last := s.now } }
  | .startUp => s.startUpRamp .startUp p
  | .bistWake => s.startUpRamp .bistWake p
  | .bistRelease => s.startUpRamp .bistRelease p

/-- Is every context at a settle point (R242)? -/
def State.allSettled (s : State) : Bool := allCtx.all s.canSettle

/-- R305: settled, with every lane group released, the engine asks for the token of its entry to RETAIN. -/
def State.retainNext (s : State) : State :=
  if s.pow.retaining && s.allSettled && !s.pow.isActive && s.pow.ramp.isNone then { s with pow := s.pow.ask s.now .retainIn } else s

/-- Has the ramp run its EC? A mode change begins once the beats of the old mode are out (R311). -/
def State.rampOver (s : State) (r : Ramp) : Bool := decide (s.pow.rampStart + s.rampEc r ≤ s.now) && (!r.isMode || s.lane.beatsOut)

/-- RAMP_COMPLETE (R307): the ramp has run its EC. -/
def execRampComplete (s : State) : Out :=
  .next (match s.pow.ramp with
    | some r => if s.rampOver r then (s.rampDone r).retainNext else s
    | none => s)

/-- A group is to be released, in one ramp with those whose release is wanted already. -/
def Power.wantRelease (p : Power) (now : Nat) (g : Fin 16) : Power :=
  if p.want.any Ramp.isRelease then
    { p with want := p.want.map (fun r => match r with
        | .release gs => .release (sortGroups (g :: gs)).reverse
        | _ => r) }
  else p.ask now (.release [g])

/-- LANE_GROUP_RELEASE (R308): a group without a beat for RELEASE_DWELL EC; the release asks for its token. -/
def execLaneGroupRelease (g : Fin 16) (s : State) : Out :=
  .next (
    let p := s.pow
    let asked := (p.ramp.toList ++ p.want).any (fun r => match r with
      | .release gs => gs.contains g
      | _ => false)
    if !s.alive || s.eng.step != 7 || !p.awake.get g || asked || decide (s.now < p.lastBeat.get g + s.dwell) then s
    else { s with pow := p.wantRelease s.now g })

/-- POWER (R309): the wait for a token has lasted 1,000 ticks; one entry is written. -/
def execPower (s : State) : Out :=
  .next (if s.pow.req && !s.pow.held && !s.pow.waitLogged && decide (1000 ≤ s.pow.waitTicks) && s.served then
      ({ s with pow := { s.pow with waitLogged := true } }).logErr 0x0A 0 0xB none (BitVec.ofNat 64 s.pow.waitTicks) 0
    else s)

/-! ### State requests (R304, R305) -/

/-- RETAIN_REQUEST (R305), from IDLE or ACTIVE: refused while a job context is ACTIVE; else no new slice is admitted, and the entry follows.
Wakes and mode changes that have not begun are given up with the slices that wanted them. -/
def execRetainRequest (s : State) : Out :=
  .next (
    if s.pow.state != .running || s.pow.retaining then s
    else if s.jobActive then { s with mgmt := { s.mgmt with powerReq := .retain, powerOk := false } }
    else
      let want := s.pow.want.filter (fun r => !r.isMode && r.wakes.isEmpty)
      ({ s with pow := ({ s.pow with retaining := true, want := want }).request s.now, mgmt := { s.mgmt with powerReq := .retain } }).retainNext)

/-- RETAIN_EXIT (R305): the exit ramp asks for its token. -/
def execRetainExit (s : State) : Out :=
  .next (if s.pow.state = .retain then { s with pow := s.pow.ask s.now .retainOut, mgmt := { s.mgmt with powerReq := .running } } else s)

/-- OFF: nothing of the engine is held; memory, fuses and the model's own counters stay (R304, R326). -/
def State.off (s : State) : State :=
  { State.reset with
    pending := s.pending, now := s.now, free := s.free, core := s.core, remote := s.remote
    eng := { Engine.reset with fwSvn := s.eng.fwSvn }
    mgmt := { Mgmt.reset with powerReq := .off, powerOk := true, alertPower := true } }

/-- OFF_REQUEST (R304): from any state. -/
def execOffRequest (s : State) : Out := .next s.off

end Sys2Proof.Machine
end

