-- ==== Sys2Proof/Machine/SelfTest.lean ====
section
/-! DEFINITION. In-service self-test and repair (16): items, fallow slices, BIST_SLICE, bank rewrites, the quick BIST. -/

namespace Sys2Proof.Machine

/-! ### Units (R313, R314, R324) -/

/-- Items of a unit. -/
def unitItems (u : Nat) : Nat := [11424, 192, 64, 16, 32, 4, 32].getD u 0

/-- Spare columns a bank of the unit has; the TLB has none. -/
def unitSpares (u : Nat) : Nat := [0, 2, 2, 2, 1, 0, 1].getD u 0

/-- 64-bit words of a bank of the unit. -/
def bankWords (u : Nat) : Nat := [1, 65536, 4096, 20480, 8192, 1, 8192].getD u 1

/-- Banks of the unit. -/
def unitBanks (u : Nat) : Nat := [0, 12, 8, 1, 4, 0, 8].getD u 0

/-- The bank of a word; words past the banks' data belong to the last one. -/
def bankOfWord (u w : Nat) : Nat := min (w / bankWords u) (unitBanks u - 1)

/-! ### Outcomes (R319, R320) -/

/-- An item that passed. -/
def itemPass : ItemResult := ⟨.pass, 0, 0, 0, 0, 0⟩

/-- An outcome a unit can have: only SRAM units read at a reduced margin (R319). -/
def itemSeen (r : ItemResult) (u : Nat) : Outcome :=
  if r.outcome = .margin ∧ (u = 0 ∨ u = 5) then .pass else r.outcome

/-- A result record (R320): repair code, outcome code, item, tick. -/
def itemRecord (u outcome repair item : Nat) (r : ItemResult) (tick : Word) : BitVec 256 :=
  BitVec.ofNat 256 (packBits [(u, 4), (outcome, 4), (repair, 3), (0, 5), (item, 16), (r.address.toNat, 32), (r.bit.toNat, 8), (0, 8),
    (r.fails.toNat, 16), (0, 16), (tick.toNat, 32), (r.expected.toNat, 64), (r.observed.toNat, 64)])

/-! ### Repair (R323 to R325) -/

/-- The lane bank's spare of a half: mapped lane, spare known bad. -/
def SelfTest.spare (b : SelfTest) (upper : Bool) : Option Nat × Bool := if upper then (b.sl1, b.sl1Bad) else (b.sl0, b.sl0Bad)

/-- A lane map scheduled for the half. -/
def SelfTest.halfDue (b : SelfTest) (upper : Bool) : Bool :=
  match b.mapDue with
  | some (l, _) => decide (64 ≤ l) == upper
  | none => false

/-- A failure of a physical lane (R323, R325): the repair code of its record, and the state after. -/
def State.laneFailed (s : State) (lane : Nat) : Nat × State :=
  let gone (t : State) : Nat × State :=
    (3, t.logErr 0x06 3 0xE none (BitVec.ofNat 64 lane) (t.tick.count.setWidth 64))
  if 128 ≤ lane then
    let upper := lane != 128
    if (s.bist.spare upper).1.isSome ∨ s.bist.halfDue upper then gone s
    else (0, { s with bist := if upper then { s.bist with sl1Bad := true } else { s.bist with sl0Bad := true } })
  else
    let upper := decide (64 ≤ lane)
    let sp := s.bist.spare upper
    if sp.1.isSome ∨ sp.2 ∨ s.bist.halfDue upper ∨ s.bist.mapDue.isSome then gone s
    else (1, { s with bist := { s.bist with mapDue := some (lane, s.tick.count) }, lane := { s.lane with stopped := true } })

/-- Spare columns of a bank that are mapped or about to be. -/
def SelfTest.columnsUsed (b : SelfTest) (u bank : Nat) : Nat :=
  (b.columns.filter (fun x => x.1 == u && x.2.1 == bank)).length + (b.rewriteDue.filter (fun x => x.1 == u && x.2.1 == bank)).length

/-- Bank and column as an entry's DETAIL0. -/
def columnDetail (bank col : Nat) : BitVec 64 := BitVec.ofNat 64 (col + bank * 2 ^ 16)

/-- A failing column of a bank (R324, R325): one whose map is scheduled already takes no second spare. -/
def State.columnFailed (s : State) (u bank col : Nat) : Nat × State :=
  if s.bist.rewriteDue.any (fun x => x.1 == u && x.2.1 == bank && x.2.2.1 == col) then (2, s)
  else if s.bist.columnsUsed u bank < unitSpares u then
    (2, { s with bist := { s.bist with rewriteDue := s.bist.rewriteDue ++ [(u, bank, col, s.tick.count)] } })
  else (3, s.logErr 0x06 2 0xE none (columnDetail bank col) (s.tick.count.setWidth 64))

/-- A unit code as entries carry it. -/
def unitCode (u : Nat) : BitVec 4 := BitVec.ofNat 4 u

/-- Key of an item in the table of latest passes. -/
def itemKey (u i : Nat) : Nat := u * 2 ^ 16 + i

/-- The entries in the 64 places of a TLB item are invalidated before they are tested (R317). -/
def State.beforeItem (s : State) (u i : Nat) : State :=
  if u = 5 then { s with tlb := s.tlb.filter (fun e => e.place / 64 != i) } else s

/-- One item has run (R319): its record, did it fail a lane, and the state after. `fallow` items count as a risk input (R290). -/
def State.itemDone (s0 : State) (u i : Nat) (r : ItemResult) (fallow : Bool) : BitVec 256 × Bool × State :=
  let s := s0.beforeItem u i
  let tick := s.tick.count
  match itemSeen r u with
  | .pass =>
    (itemRecord u 0 0 i r tick, false, { s with bist := { s.bist with lastPass := Tbl.put 0 s.bist.lastPass (itemKey u i) tick.toNat } })
  | .margin =>
    let w := itemRecord u 2 0 i r tick
    let s1 := s.logErr 0x04 1 (unitCode u) none (w.extractLsb' 0 64) (r.bit.setWidth 64)
    (w, false, if fallow then s1.riskNote 1 else s1)
  | .fail =>
    let lane := r.address.toNat % 256
    let last := Tbl.get 0 s.bist.lastPass (itemKey u i)
    let rep (t : State) : Nat × State := if u = 0 then t.laneFailed lane else t.columnFailed u (bankOfWord u r.address.toNat) r.bit.toNat
    let code := (rep s).1
    let w := itemRecord u 1 code i r tick
    let s1 := s.logErr 0x03 2 (unitCode u) none (w.extractLsb' 0 64) (BitVec.ofNat 64 (r.bit.toNat + last * 2 ^ 32))
    (w, u == 0, (rep s1).2)

/-! ### Slices of items (R314) -/

/-- The lane group of a lane-bank item; none for the spares' group 16. -/
def itemGroup (i : Nat) : Option (Fin 16) := if h : i / 672 < 16 then some ⟨i / 672, h⟩ else none

/-- The lane groups of items `i` to `i + n - 1` are awake; otherwise their wake is asked for. -/
def State.groupReady (s : State) (u i n : Nat) : Bool × State :=
  let gs := if u = 0 then dedup ((upFrom i n).filterMap itemGroup) [] else []
  if gs.all (fun g => s.pow.awake.get g) then (true, { s with pow := s.pow.beat s.now gs })
  else (false, { s with pow := s.pow.prepare s.now gs s.pow.eight })

/-- Does the lane bank hold nothing? -/
def Lane.idle (l : Lane) : Bool := l.slice.isNone && l.intervals.isEmpty

/-- A slice holds its staging until its last item has run (R164, R317). -/
def State.takeBench (s : State) (u : Nat) : State :=
  if itemGranules u = 0 then s else { s with staging := s.staging ++ [(itemGranules u, benchUser)] }

/-- Does a group-16 item have an unassigned spare to test (R325)? -/
def State.spareFree (s : State) : Bool := s.bist.sl0.isNone || s.bist.sl1.isNone

/-- The result of an item: what the hardware showed, or a pass where it showed nothing or nothing ran. -/
def State.itemResult (s : State) (u i : Nat) (rs : List ItemResult) (k : Nat) : ItemResult :=
  if u = 0 ∧ (itemGroup i).isNone ∧ ¬ s.spareFree then itemPass else rs.getD k itemPass

/-- Items run in order until a lane fails: their records in order, how many failed, how many hit their margin. -/
def State.runItems (u i : Nat) (rs : List ItemResult) (fallow : Bool) : Nat → Nat → State → List (BitVec 256) × State
  | 0, _, s => ([], s)
  | n + 1, k, s =>
    let d := s.itemDone u (i + k) (s.itemResult u (i + k) rs k) fallow
    if d.2.1 then ([d.1], d.2.2)
    else
      let rest := State.runItems u i rs fallow n (k + 1) d.2.2
      (d.1 :: rest.1, rest.2)

/-! ### FALLOW_SLICE (R314 to R316) -/

/-- EC left for a fallow slice: up to the boundary, or in a forced tick from EC 12,200 on (R256). -/
def State.fallowBudget (s : State) : Nat :=
  let e := s.now - s.tick.last
  if s.bist.forced then (if 12200 ≤ e then 14000 - min 14000 e else 12200 - e) else 14000 - min 14000 e

/-- Is the lane bank free for a self-test slice? -/
def State.benchFree (s : State) : Bool := s.up && !s.lane.stopped && s.lane.idle && !s.pow.retaining && decide (s.bist.busyUntil ≤ s.now)

/-- May a fallow slice be admitted: the lane bank free, no context ready, or the forced reserve reached (R254, R314)? -/
def State.fallowFree (s : State) : Bool :=
  s.benchFree && ((s.bist.forced && decide (12200 ≤ s.now - s.tick.last)) || s.readyCtxs.isEmpty)

/-- The cursor of a unit. -/
def SelfTest.cursor (b : SelfTest) (u : Nat) : Nat := b.cursors.toList.getD u 0

/-- The first unit with items pending whose staging can be had, in the order of R314. -/
def State.fallowUnit (s : State) : Option Nat :=
  [1, 2, 3, 4, 5, 6, 0].find? (fun u => decide (s.bist.cursor u < unitItems u) && s.unitFree u)

/-- The cursor advanced; when the last pending item has run, the sweep is over (R316). -/
def State.advanceCursor (s : State) (u n : Nat) : State :=
  let cs := s.bist.cursors.setIfInBounds u (s.bist.cursor u + n)
  if (List.range 7).all (fun v => decide (unitItems v ≤ cs.toList.getD v 0)) then
    { s with bist := { s.bist with cursors := Vector.replicate 7 0, sweeps := s.bist.sweeps + 1, lastSweep := s.tick.count } }
  else { s with bist := { s.bist with cursors := cs } }

/-- The fallow slice whose admission was `since` EC ago: whole items of one unit, those that still fit, once its lane groups are awake.
In a forced tick a list shorter than planned is a slice cut short at the boundary. -/
def State.fallowRun (s : State) (u since : Nat) (rs : List ItemResult) : State :=
  let i := s.bist.cursor u
  let n := itemsFit u (unitItems u - i) (min (1800 - since) s.fallowBudget)
  if n = 0 then { s with bist := { s.bist with busyUntil := min s.bist.busyUntil s.now, wake := none } } else
  let g := s.groupReady u i n
  if !g.1 then
    { g.2 with bist := { s.bist with wake := some (s.now - since), owner := none, busyUntil := s.now + min (1800 - since) s.fallowBudget } }
  else
    let cut := s.bist.forced && decide (rs.length < n)
    let r := State.runItems u i rs true (if cut then rs.length else n) 0 (g.2.takeBench u)
    let s1 := r.2.advanceCursor u r.1.length
    let b := { s1.bist with busyUntil := s1.now + 80 + r.1.length * itemEc u, wake := none, owner := none }
    { s1 with bist := if cut then b else { b with dry := 0, full := true } }

/-- A fallow slice is admitted, or one that waited for its lane groups goes on. -/
def State.fallow (s : State) (rs : List ItemResult) : State :=
  match s.bist.wake, s.bist.owner with
  | some t, none => if s.up && !s.lane.stopped && s.lane.idle then s.fallowRun 0 (s.now - t) rs else s
  | _, _ =>
    if !s.fallowFree then s else
    match s.fallowUnit with
    | none => s
    | some u => s.fallowRun u 0 rs

/-- FALLOW_SLICE (R314). -/
def execFallowSlice (rs : List ItemResult) (s : State) : Out := .next (s.fallow rs)

/-- FORCED_RESERVATION (R256): the tick that starts reserves its final 1,800 EC. -/
def execForcedReservation (s : State) : Out :=
  .next (if s.bist.forcedNext && s.up then { s with bist := { s.bist with forced := true, forcedNext := false } } else s)

/-! ### BIST_SLICE (R235, R320) -/

/-- R320: the checks of a BIST_SLICE. -/
def bistBad (m : Cmd) (o : Opnd) : Option Reply :=
  let u := m.f 128 4
  firstBad [
    (decide (u ≤ 6), .bad 128), (decide (1 ≤ m.f 192 16 ∧ m.f 160 32 + m.f 192 16 ≤ unitItems u), .bad 192),
    (o.desc.canWrite && o.areaOk (32 * m.f 192 16), .bad 144)]

/-- EC since the context's BIST_SLICE was admitted, when it waits for its lane groups. -/
def SelfTest.waited (b : SelfTest) (c : CtxNo) (now : Nat) : Option Nat := if b.owner = some c then b.wake.map (fun t => now - t) else none

/-- Is it the turn of the context's BIST_SLICE: the lane bank free, the tick long enough, its staging granted, and the context the pick
among those that could run (R205, R235, R320)? -/
def State.bistTurn (s : State) (c : CtxNo) (m : Cmd) : Bool :=
  s.benchFree && s.unitFree (m.f 128 4) && decide (bistEc m ≤ s.remaining)
    && s.pickCtx (allCtx.filter (fun d => d == c || s.readyCtxs.contains d)) == some c

/-- The items of a BIST_SLICE admitted `since` EC ago run, those that fit, and its records are written; a slice whose lane groups are
released waits for their wake. -/
def State.bistRun (s : State) (c : CtxNo) (i : Nat) (m : Cmd) (o : Opnd) (rs : List ItemResult) (since : Nat) : State :=
  let u := m.f 128 4
  let start := m.f 160 32
  let count := m.f 192 16
  let a := o.acc true false (o.byteSpans 0 (32 * count))
  let q := s.openWrites c m.seq [a]
  if !q.1 then q.2 else
  let n := itemsFit u count (1800 - since)
  let g := q.2.groupReady u start n
  if !g.1 then { g.2 with bist := { g.2.bist with wake := some (s.now - since), owner := some c, busyUntil := s.now + (1800 - since) } } else
  let r0 := State.runItems u start rs false n 0 (((g.2.takeTurn c).turnTile c).takeBench u)
  let r := (r0.1, { r0.2 with bist := { r0.2.bist with
    busyUntil := s.now + 80 + r0.1.length * itemEc u, wake := none, owner := some c } })
  let idle := (upFrom r.1.length (count - r.1.length)).map (fun k => itemRecord u 3 0 (start + k) itemPass s.tick.count)
  let s1 := (r.2.putArea c (q.2.refusals c a) o 0 ((r.1 ++ idle).flatMap (fun w => leBytes 32 w.toNat))).closeUnit c m.seq [a]
  let with_ (k : Nat) : Nat := (r.1.filter (fun w => fld w 4 4 == k)).length
  s1.finish c i { Reply.ok with result0 := w32 r.1.length, result1 := w32 (with_ 1), result2 := w32 (with_ 2) }

/-- BIST_SLICE: its checks; it runs in the context's turn. -/
def State.bistSlice (s : State) (c : CtxNo) (rs : List ItemResult) : State :=
  let go (i : Nat) (m : Cmd) (t : State) : State :=
    match t.opnd m.fmts (m.f 144 16) 0, t.bist.waited c t.now with
    | some o, some w => if t.up && t.lane.idle then t.bistRun c i m o rs w else t
    | some o, none => if t.bistTurn c m then t.bistRun c i m o rs 0 else t
    | none, _ => t
  match s.continuing c 0x39 with
  | some (i, m) => go i m s
  | none =>
    match s.starting c 0x39 with
    | none => s
    | some (i, m) =>
      match s.handle c (m.f 144 16), s.opnd m.fmts (m.f 144 16) 0, m.reservedBad with
      | some _, some o, none =>
        match bistBad m o with
        | some r => s.finish c i r
        | none => if s.noConflict c i m then go i m (s.setPhase c i (.running .bist)) else s
      | some _, some _, some r => s.finish c i r
      | _, _, _ => s.finish c i (.of stHandle)

/-- BIST_SLICE (R320). -/
def execBistSlice (c : CtxNo) (rs : List ItemResult) (s : State) : Out := .next (s.bistSlice c rs)

/-! ### Quick BIST (R351, R324, R325) -/

/-- A lane the quick BIST finds bad: its half's spare takes its place at once, or no spare is left. -/
def State.quickLane (s : State) (lane : Nat) : State :=
  let gone := s.logErr 0x06 3 0xE none (BitVec.ofNat 64 lane) (s.tick.count.setWidth 64)
  let upper := if lane < 128 then decide (64 ≤ lane) else lane != 128
  let sp := s.bist.spare upper
  if lane < 128 then
    if sp.1.isSome || sp.2 then gone
    else
      ({ s with bist := if upper then { s.bist with sl1 := some lane } else { s.bist with sl0 := some lane } }).logErr 0x05 0 0xE none
        (BitVec.ofNat 64 lane) (s.tick.count.setWidth 64)
  else if sp.1.isSome then gone
  else { s with bist := if upper then { s.bist with sl1Bad := true } else { s.bist with sl0Bad := true } }

/-- A column the quick BIST finds bad: mapped at once, and once only, while its bank has a spare column. -/
def State.quickColumn (s : State) (u bank col : Nat) : State :=
  if s.bist.columns.contains (u, bank, col) then s
  else if s.bist.columnsUsed u bank < unitSpares u then
    ({ s with bist := { s.bist with columns := s.bist.columns ++ [(u, bank, col)] } }).logErr 0x05 0 0xE none (columnDetail bank col)
      (s.tick.count.setWidth 64)
  else s.logErr 0x06 2 0xE none (columnDetail bank col) (s.tick.count.setWidth 64)

/-- QUICK_BIST (R351): once the wake and the release of all lane groups are over, its failures are mapped and step 0x3 begins. -/
def execQuickBist (lanes : List (Fin 130)) (columns : List (BitVec 4 × Nat × Nat)) (s : State) : Out :=
  .next (
    if s.pow.state != .running || s.eng.step != 2 || !s.eng.bistDone then s else
    let spares := lanes.filter (fun l => decide (128 ≤ l.val))
    let plain := lanes.filter (fun l => decide (l.val < 128))
    let s1 := (spares ++ plain).foldl (fun t l => t.quickLane l.val) s
    let s2 := columns.foldl (fun t x => t.quickColumn x.1.toNat x.2.1 x.2.2) s1
    if s2.isFatal then s2 else { s2 with eng := { s2.eng with step := 3, stepStart := s2.now } })

/-! ### Maps that take effect (R323, R324) -/

/-- A scheduled lane map takes effect while the lane bank holds nothing (R323). -/
def State.takeMap (s : State) : State :=
  match s.bist.mapDue with
  | none => s
  | some (lane, tick) =>
    if !s.lane.intervals.isEmpty then s else
    let b := if lane < 64 then { s.bist with sl0 := some lane, mapDue := none } else { s.bist with sl1 := some lane, mapDue := none }
    ({ s with bist := b, lane := { s.lane with stopped := false } }).logErr 0x05 0 0xE none (BitVec.ofNat 64 lane) (tick.setWidth 64)

/-- Has started work on the bank finished (R324)? Every started command that may go on uses the descriptor table, the queues and the
tables (log 48). -/
def State.bankQuiet (s : State) (u bank : Nat) : Bool :=
  if u = 1 then (upFrom (4 * bank) 4).all (fun k => match (s.slot k).state with
    | .preload => false
    | .active => false
    | .writeback => false
    | _ => true)
  else if u = 2 then s.staging.isEmpty
  else allCtx.all (fun c => !s.alert c || (s.ctx c).cmds.all (fun m => m.phase.isQueued || m.phase.isOver || !m.usesTables))

/-- BANK_REWRITE (R324): after the boundary that follows the failure, the bank is rewritten into its remapped columns. -/
def State.bankRewrite (s : State) (u bank : Nat) : State :=
  let mine (x : Nat × Nat × Nat × Word) : Bool := x.1 == u && x.2.1 == bank && x.2.2.2 != s.tick.count
  let due := s.bist.rewriteDue.filter mine
  if !s.alive || due.isEmpty || !s.bankQuiet u bank then s else
  let s1 := { s with bist := { s.bist with
    rewriteDue := s.bist.rewriteDue.filter (fun x => !mine x), columns := s.bist.columns ++ due.map (fun x => (x.1, x.2.1, x.2.2.1)) } }
  due.foldl (fun t x => t.logErr 0x05 0 0xE none (columnDetail bank x.2.2.1) (x.2.2.2.setWidth 64)) s1

/-- BANK_REWRITE (R324). -/
def execBankRewrite (unit : BitVec 4) (bank : Nat) (s : State) : Out := .next (s.bankRewrite unit.toNat bank)

/-! ### Risk window (R290, R291) -/

/-- The points of one input: the weight at the number of thresholds its count reaches. -/
def riskPoints (tab : BitVec 640) (i count : Nat) : Nat :=
  let b := 128 + 128 * i
  let level := ((List.range 4).filter (fun k => decide (fld tab (b + 16 * k) 16 ≤ count))).length
  fld tab (b + 64 + 8 * level) 8

/-- Length of a risk window in ticks. -/
def windowTicks (tab : BitVec 640) : Nat := if fld tab 0 32 = 0 then 100000 else fld tab 0 32

/-- R290: the level from the window's counts. -/
def riskLevel (tab : BitVec 640) (counts : Vector (BitVec 16) 4) : Nat :=
  min 255 (fld tab 32 8 + ((List.range 4).map (fun i => riskPoints tab i (counts.toList.getD i 0).toNat)).foldl (· + ·) 0)

/-- RISK_WINDOW_END (R290): WINDOW_TICKS boundaries have passed. -/
def execRiskWindowEnd (s : State) : Out :=
  .next (if s.alive && decide (windowTicks s.riskTab ≤ s.risk.ticks) then
      { s with risk := ⟨BitVec.ofNat 8 (riskLevel s.riskTab s.risk.counts), Vector.replicate 4 0, 0⟩ }
    else s)

end Sys2Proof.Machine
end

