-- ==== Sys2Proof/Machine/Startup.lean ====
section
/-! DEFINITION. Reset and start-up (18): the sequence, image verification, probes, channel training, the neighbour report. -/

namespace Sys2Proof.Machine

/-! ### The sequence (R351, R353) -/

/-- A start-up step begins. -/
def State.startStep (s : State) (n : BitVec 4) : State := { s with eng := { s.eng with step := n, stepStart := s.now } }

/-- RESET_RELEASE (R351): OFF ends; the power ramp asks for its token. -/
def execResetRelease (s : State) : Out :=
  .next (if s.pow.state = .off then { s.startStep 1 with pow := ({ s.pow with state := .running }).ask s.now .startUp } else s)

/-! ### Image verification (R337, R353) -/

/-- Core-store offset of the Jexlo image (R353). -/
def imageBase : Nat := 0x6F0000

/-- `n` bytes of the image from its byte `k` on: by core-store offset, no translation, no region table (R353). -/
def State.imageBytes (s : State) (k n : Nat) : List Byte := (upFrom (imageBase + k) n).map s.core.read

/-- The image header (R337). -/
def State.jexloHeader (s : State) : BitVec 512 := BitVec.ofNat 512 (ofLeBytes (s.imageBytes 0 64))

/-- Check 1: MAGIC, the lengths, the reserved fields. -/
def jexloHeaderOk (h : BitVec 512) : Bool :=
  fld h 0 32 == 0x4F4C584A && fld h 96 32 % 4096 == 0 && decide (fld h 96 32 ≤ 524288) && fld h 128 32 % 4096 == 0
    && decide (fld h 128 32 ≤ 524288) && fld h 72 24 == 0 && fld h 160 352 == 0

/-- Byte of the image at which the public-key block starts. -/
def jexloKeyAt (h : BitVec 512) : Nat := 64 + fld h 96 32 + fld h 128 32

/-- The public key, uncompressed, first byte most significant. -/
def State.jexloKey (s : State) : BitVec 776 := BitVec.ofNat 776 (ofBeBytes (s.imageBytes (jexloKeyAt s.jexloHeader) 97))

/-- A number of the signature: 48 bytes, big-endian. -/
def State.jexloSig (s : State) (k : Nat) : Nat := ofBeBytes (s.imageBytes (jexloKeyAt s.jexloHeader + 128 + 48 * k) 48)

/-- R337: the number of the first failing check, 0 when all pass. -/
def State.imageCheck (s : State) : Nat :=
  let h := s.jexloHeader
  if !jexloHeaderOk h then 1
  else if sha384 (keyBytes s.jexloKey) ≠ Config.fwKeyHash then 2
  else if !ecdsaVerify s.jexloKey (s.jexloSig 0) (s.jexloSig 1) (sha384 (s.imageBytes 0 (jexloKeyAt h + 128))) then 3
  else if fld h 64 8 < s.eng.fwSvn then 4
  else 0

/-- IMAGE_VERIFICATION (R337): the image is taken, or start-up stops with FW_AUTH and ALERT. -/
def execImageVerification (s : State) : Out :=
  .next (
    if s.pow.state != .running || s.eng.step != 3 then s else
    let h := s.jexloHeader
    match s.imageCheck with
    | 0 =>
      let s1 := s.startStep 4
      { s1 with eng := { s1.eng with jexloVer := h.extractLsb' 32 32, svn := fld h 64 8, verified := true } }
    | n =>
      let s1 := s.logErr 0x0C 3 0x8 none (BitVec.ofNat 64 n) (BitVec.ofNat 64 (fld h 32 32))
      { s1 with mgmt := { s1.mgmt with alertAuth := true } })

/-! ### Position (R8) -/

/-- Channel `k`'s training changed; the report follows once it has been written (R357). -/
def State.modTrain (s : State) (k : Chan) (f : Train → Train) : State :=
  let s1 := { s with train := s.train.set k.val (f (s.train.get k)) k.isLt }
  if s.eng.step = 7 then s1.reportCh k else s1

/-- POSITION_READ (R8): training begins on every channel, or start-up stops with POSITION_INVALID. -/
def execPositionRead (s : State) : Out :=
  .next (
    if s.pow.state != .running || s.eng.step != 4 then s
    else if !positionOk s.mgmt.position.toNat then s.logErr 0x10 3 0xF none (s.mgmt.position.setWidth 64) 0
    else
      let s1 := s.startStep 5
      { s1 with eng := { s1.eng with position := s.mgmt.position }
                train := s.train.map (fun (t : Train) => { t with probing := true, nextProbe := s.now }) })

/-! ### TRAIN packets (R354) -/

/-- The engine trains: at step 0x5 or later, and not stopped. -/
def State.trains (s : State) : Bool := s.pow.state == .running && decide (5 ≤ s.eng.step.toNat ∧ s.eng.step.toNat ≤ 7)

/-- A TRAIN packet of this engine: subtype in BUCKET, JOB_ID 0. -/
def State.trainPacket (s : State) (sub offset : Nat) (vals : List Nat) : Packet :=
  HdrSpec.packet { kind := 4, job := 0, bucket := sub, offset := offset, isLast := false, strict := false, exact := false
                   valid := if vals.isEmpty then 0 else 127, pos := s.eng.position.toNat, subject := s.eng.position.toNat, contrib := 0, rounds := 0
                   hops := 0, omitted := 0, backups := 0, sat := false, nf := false, cause := 0 } vals

/-- TRAIN packets handed to a channel's link: they need no credit. Counters freeze in RETAIN (R305). -/
def State.sendTrain (s : State) (k : Chan) (ps : List Packet) : State :=
  let s1 := s.modPort (fun (p : Port) => { p with out := p.out ++ ps.map (fun x => (k, x)) })
  if s.pow.state = .running then s1.modCh k (fun (ch : Channel) => { ch with pktsSent := satAdd ch.pktsSent ps.length }) else s1

/-- A TRAIN packet taken from a channel's link. -/
def State.tookTrain (s : State) (k : Chan) : State :=
  if s.pow.state ≠ .running then s else s.modCh k (fun (ch : Channel) => { ch with pktsRecv := satAdd ch.pktsRecv 1 })

/-- An ACK goes out: the sender's STEP in OFFSET (R354). -/
def State.sendAck (s : State) (k : Chan) : State := s.sendTrain k [s.trainPacket 1 s.eng.step.toNat []]

/-- PROBE (R354): answered from the end of step 0x1 on in every state but OFF. A partner that probes is not FATAL (R355). -/
def execProbe (k : Chan) (s : State) : Out :=
  .next (
    if s.pow.state = .off || s.eng.step = 1 then s else
    let s1 := (s.tookTrain k).sendAck k
    if (s.train.get k).link = 3 && s.trains then
      s1.modTrain k (fun t => { t with link := 0, probing := true, nextProbe := s.now })
    else s1)

/-! ### Retraining (R358) -/

/-- A trained channel trains again: RETRAINS and the LINK input advance, an entry is written. -/
def State.retrainCh (s : State) (k : Chan) : State :=
  let n := satAdd (s.train.get k).retrains 1
  ((s.modTrain k (fun t => { t.restart s.now with retrains := n })).riskNote 2).logErr 0x13 0 0xA none (BitVec.ofNat 64 k.val) (n.setWidth 64)

/-- Is the channel trained with a partner at another position? -/
def State.strange (s : State) (k : Chan) (pos : BitVec 15) : Bool := (s.train.get k).link == 1 && (s.train.get k).partner != pos

/-- RETRAIN (R358): the link layer reports the link down, or a packet came from a position other than PARTNER. -/
def execRetrain (k : Chan) (wrongPos : Option (BitVec 15)) (s : State) : Out :=
  .next (
    if !s.trains then s else
    match wrongPos with
    | none => if (s.train.get k).link = 1 then s.retrainCh k else s
    | some p => if s.strange k p then s.retrainCh k else s)

/-- A packet from another position than PARTNER makes a trained channel train again before it is taken (R358). -/
def State.meet (s : State) (k : Chan) (pos : BitVec 15) : State := if s.strange k pos then s.retrainCh k else s

/-! ### Probing (R355) -/

/-- EC after which a probe without an ACK counts as unanswered: 100 µs. -/
def probeWait : Nat := 140000

/-- EC from probe `n` (0 is the first) to the next: 0.2, 0.4, 0.8, 1.6 and then 3.2 ms. -/
def probeGap (n : Nat) : Nat := 280000 * 2 ^ min n 4

/-- EC from a probe to the next, after READY always 3.2 ms. -/
def State.gapNow (s : State) (t : Train) : Nat := if s.eng.step = 7 then probeGap 4 else probeGap t.probes

/-- PROBE_SEND (R355): an untrained channel's probe is due. After READY probing goes on. -/
def execProbeSend (k : Chan) (s : State) : Out :=
  let t := s.train.get k
  .next (
    if !s.trains || t.link = 1 || t.link = 3 || decide (s.now < t.nextProbe) || !(t.probing || s.eng.step == 7) then s
    else
      (s.modTrain k (fun t => { t with probes := t.probes + 1, nextProbe := s.now + s.gapNow t, awaiting := some s.now, probing := true })).sendTrain k
        [s.trainPacket 0 0 []])

/-! ### Training (R356) -/

/-- Both directions are trained. -/
def Train.both (t : Train) : Train := if t.txDone && t.rxDone then { t with link := 1, probing := false } else t

/-- An ACK's partner: after a retrain another position than before is logged (R358). -/
def State.newPartner (s : State) (k : Chan) (pos : BitVec 15) : State :=
  let t := s.train.get k
  let s1 := s.modTrain k (fun t => { t with partner := pos })
  if t.retrains ≠ 0 ∧ t.partner ≠ 0x7FFF ∧ t.partner ≠ pos then s1.logErr 0x12 2 0xA none (BitVec.ofNat 64 k.val) (pos.setWidth 64) else s1

/-- What an ACK of a partner at step 0x5 or later does: it answers a probe, it starts the sender, it ends its direction. -/
def Train.acked (t : Train) (now : Nat) : Train :=
  let inTime := match t.awaiting with
    | some a => decide (now ≤ a + probeWait)
    | none => false
  let t1 := { t with link := if t.link = 3 then 0 else t.link, txReady := true, awaiting := none, probing := t.probing && !inTime }
  if t.txSent && !t.txDone && !inTime then ({ t1 with txDone := true }).both else t1

/-- ACK (R355, R356). -/
def execAck (k : Chan) (step : BitVec 4) (pos : BitVec 15) (s : State) : Out :=
  .next (
    if !s.trains then s else
    let s1 := ((s.tookTrain k).meet k pos).newPartner k pos
    if step = 15 then s1.modTrain k (fun t => { t with link := 3, probing := false, awaiting := none })
    else if step.toNat < 5 then
      s1.modTrain k (fun t => if t.link = 3 then { t with link := 0, probing := true, nextProbe := s.now } else t)
    else s1.modTrain k (fun t => t.acked s.now))

/-- The pattern: the BF16 bits of element `e` of DATA packet `k`. -/
def patternBits (k e : Nat) : Nat := (k * 128 + e) * 0x2D1B % 0x7F80 + (e + k) % 2 * 0x8000

/-- Every element of DATA packet `k` added to its regenerated negation gives +0. -/
def patternOk (p : Packet) (k : Nat) : Bool :=
  (List.range 128).all (fun e => (toF32 ((fmtBF16.decode (p.elem e)).add (fmtBF16.decode (patternBits k e)).neg)).1 == 0)

/-- The receiver starts over. -/
def Train.rxReset (t : Train) : Train := { t with rxCount := 0, rxOk := true, rxStart := 0, rxCrc := 0 }

/-- A DATA packet taken: its sums, its position, the digest. -/
def Train.taken (t : Train) (p : Packet) (now : Nat) : Train :=
  { t with
    rxCount := t.rxCount + 1, rxStart := if t.rxCount = 0 then now else t.rxStart, rxCrc := crc64 t.rxCrc p.bytes
    rxOk := t.rxOk && patternOk p p.offset && p.pos == t.partner.toNat && p.offset == t.rxCount }

/-- TRAIN_DATA (R356): a packet that is no training DATA packet is not taken. -/
def execTrainData (k : Chan) (p : Packet) (s : State) : Out :=
  .next (
    if !s.trains || p.kind != 4 || p.bucket != 2 then s
    else ((s.tookTrain k).meet k (BitVec.ofNat 15 p.pos)).modTrain k (fun t => t.taken p s.now))

/-- The receiver's direction failed: an entry is written and the channel's last exchange failed (R356, R357). -/
def State.rxFail (s : State) (k : Chan) (pos : BitVec 15) : State :=
  (s.modTrain k (fun t => { t.rxReset with link := if t.link = 1 then 1 else 2 })).logErr 0x12 2 0xA none (BitVec.ofNat 64 k.val) (pos.setWidth 64)

/-- DIGEST (R356): all 256 packets, every sum, every position and the digest; then an ACK and a trained direction. -/
def execDigest (k : Chan) (pos : BitVec 15) (crc : BitVec 64) (s : State) : Out :=
  .next (
    if !s.trains then s else
    let s1 := (s.tookTrain k).meet k pos
    let t := s1.train.get k
    if t.rxCount = 256 && t.rxOk && pos == t.partner && crc == t.rxCrc then
      (s1.modTrain k (fun t => ({ t.rxReset with rxDone := true }).both)).sendAck k
    else s1.rxFail k pos)

/-- TRAINING_TIMEOUT (R356): 14,000 EC after the first DATA packet they have not all arrived. -/
def execTrainingTimeout (k : Chan) (s : State) : Out :=
  let t := s.train.get k
  .next (if s.trains && t.rxCount != 0 && decide (t.rxCount < 256 ∧ t.rxStart + 14000 ≤ s.now) then s.rxFail k t.partner else s)

/-- The 256 DATA packets and the DIGEST that a channel's sender sends after a boundary (R356). -/
def State.trainBurst (s : State) : List Packet :=
  let data := (List.range 256).map (fun k => s.trainPacket 2 k ((List.range 128).map (patternBits k)))
  let crc := data.foldl (fun d p => crc64 d p.bytes) 0
  data ++ [⟨(s.trainPacket 3 0 []).hdr, crc.setWidth 2048⟩]

/-- Senders that have their ACK, and no answer to their digest yet, send after the boundary (R356). -/
def State.trainSend (s : State) (k : Chan) : State :=
  let t := s.train.get k
  if s.trains && t.txReady && !t.txDone then (s.modTrain k (fun t => { t with txSent := true })).sendTrain k s.trainBurst else s

/-! ### The end of start-up (R357, R359) -/

/-- A channel with no trained direction at the end of the window. -/
def State.trainFail (s : State) (k : Chan) : State :=
  let t := s.train.get k
  if t.txDone || t.rxDone then s else s.logErr 0x11 0 0xA none (BitVec.ofNat 64 k.val) (BitVec.ofNat 64 t.probes)

/-- TRAINING_WINDOW_END (R351, R359): 16 ms have passed, or every channel is trained. -/
def execTrainingWindowEnd (s : State) : Out :=
  .next (
    if s.pow.state != .running || s.eng.step != 5 then s
    else if decide (s.eng.stepStart + 22400000 ≤ s.now) || s.train.toList.all (fun t => t.link == 1) then
      (allChans.foldl State.trainFail s).startStep 6
    else s)

/-- The tables at READY (R353): every key slot empty; every region, group and custom format entry invalid; the ramp and risk tables at their
reset values. -/
def State.readyTables (s : State) : State :=
  { s with
    sec := { s.sec with keys := Vector.replicate 16 none, pendKey := none }
    regions := [], groups := State.reset.groups, fmts := State.reset.fmts, rampTab := rampTabReset, rampNext := none
    riskTab := State.reset.riskTab }

/-- NEIGHBOUR_REPORT (R353, R357): the report is written and the engine is READY. -/
def execNeighbourReport (s : State) : Out :=
  .next (if s.pow.state = .running ∧ s.eng.step = 6 then s.readyTables.report.startStep 7 else s)

end Sys2Proof.Machine
end

