-- ==== Sys2Proof/Machine/Ticks.lean ====
section
/-! DEFINITION. The tick input (R14, R353), what happens at a boundary (R245), and what one engine clock does (17). -/

namespace Sys2Proof.Machine

/-! ### The tick input (R14) -/

/-- EC since the last boundary. -/
def State.ecs (s : State) : Nat := s.now - s.tick.last

/-- Is the tick input sampled: the clock runs, and step 0x1 has ended (R305, R353)? -/
def State.sampled (s : State) : Bool := s.pow.state == .running && s.eng.step != 1

/-- Does an edge sampled now give a boundary at the next EC? -/
def State.edgeTaken (s : State) : Bool :=
  let n := s.ecs
  s.tick.due.isNone && (s.tick.waitEdge || (if s.tick.first then decide (n < 14140)
    else if s.tick.run then decide (13860 ≤ n ∧ n < 14000)
    else decide (13860 ≤ n ∧ n < 14140)))

/-- TICK_EDGE (R14, R353, R305): an edge sampled at EC n gives the boundary at n + 1. -/
def execTickEdge (s : State) : Out :=
  .next (
    if !s.sampled then s
    else if s.edgeTaken then { s with tick := { s.tick with due := some (false, s.now + 1) } }
    else { s with tick := { s.tick with early := satAdd s.tick.early 1 } })

/-- The EC after the previous boundary at which a local one is taken. -/
def Tick.localEc (t : Tick) : Nat := if t.run && !t.first then 14000 else 14140

/-- Has the EC of a local boundary come? -/
def State.localDue (s : State) : Bool :=
  s.sampled && s.tick.due.isNone && !s.tick.waitEdge && decide (s.tick.localEc ≤ s.ecs)

/-- LOCAL_BOUNDARY (R14): the first of a run writes a TICK entry. -/
def execLocalBoundary (s : State) : Out :=
  .next (
    if !s.localDue then s else
    let n := satAdd s.tick.localCount 1
    let s1 := { s with tick := { s.tick with localCount := n, run := true, due := some (true, s.tick.last + s.tick.localEc) } }
    if s.tick.run then s1 else s1.logErr 0x07 0 0xC none (n.setWidth 64) 0)

/-! ### The boundary (R245) -/

/-- R239: ADJ from the units of the tick that ended. -/
def Context.learn (x : Context) : Context :=
  { x with
    adj := if x.unitsDone = 0 then x.adj
      else if x.sumActual ≤ x.sumRaw then 0
      else BitVec.ofNat 8 (min 255 (256 * (x.sumActual - x.sumRaw) / max 1 x.sumRaw))
    sumActual := 0, sumRaw := 0, unitsDone := 0 }

/-- A command's part in a boundary at an EC: a WAIT counts it, unless its first unsatisfied read was in the same EC (R190); an export's
boundary has come, which a CKPT_ARM may take effect at (R283, R293), unless an oversized unit of its target, `late`, runs (R243). -/
def Cmd.boundary (m : Cmd) (at_ : Nat) (opens : Bool) (late : Option CtxNo) : Cmd :=
  match m.phase with
  | .running (.waitCounter v seen n ok timed) =>
    { m with phase := .running (.waitCounter v seen (if seen.any (fun t => decide (t < at_)) then n + 1 else n) ok timed) }
  | .running (.exporting false _ x) => if late = some (ctxOf (m.f 128 3)) then m else { m with phase := .running (.exporting true opens x) }
  | _ => m

/-- An open guarded task's guard is read, until it is latched (R245, R250). -/
def Task.issueRead (t : Task) : Task :=
  match t.guard with
  | some g => if g.latch = 0 then { t with guard := some { g with reading := true } } else t
  | none => t

/-- A slice beside the lane bank at a boundary: its unit in progress is its last; one that runs nothing ends as a planned cut (R242). -/
def Context.streamBoundary (x : Context) : Context :=
  match x.stream with
  | none => x
  | some r =>
    if r.begun.isSome then { x with stream := some { r with left := 1 } } else { x with stream := none, cuts := satAdd x.cuts 1 }

/-- A context's part in a boundary: ADJ, budgets afresh, an overrun of what it still runs, guard read, settling. -/
def Context.boundary (x : Context) (at_ : Nat) (opens runs held : Bool) (late : Option CtxNo) : Context :=
  let y := x.learn.streamBoundary
  { y with
    laneDone := false, streamDone := false, slicedTick := false, settled := y.settled && held
    overruns := if runs then satAdd y.overruns 1 else y.overruns
    overrunFrom := if runs then y.overrunFrom ++ [at_] else y.overrunFrom
    cmds := y.cmds.map (fun (m : Cmd) => m.boundary at_ opens late)
    task := y.task.map Task.issueRead }

/-- The contexts at a boundary. -/
def State.ctxBoundary (s : State) (at_ : Nat) : Vector Context 8 :=
  Vector.ofFn (fun (c : Fin 8) =>
    (s.ctxs.get c).boundary at_ s.ckpt.pending.isSome (!(s.unitStarts c).isEmpty) (s.exportHolds c) (allCtx.find? s.oversizedRuns))

/-- The slice at a boundary: no further unit starts; a slice that runs nothing ends as a planned cut; an oversized unit goes on (R242, R243). -/
def State.sliceBoundary (s : State) : State :=
  match s.lane.slice with
  | none => s
  | some r =>
    if r.oversized then s.modCtx r.ctx (fun x => { x with heldTicks := satAdd x.heldTicks 1 })
    else if s.bankHeld r.ctx || r.parts.any (fun q => q.begun.isSome) then
      { s with lane := { s.lane with slice := some { r with parts := r.parts.map (fun q => { q with left := if q.begun.isSome then q.left else 0 }) } } }
    else s.endSlice r.ctx true

/-- A temperature is above the limit, or above another, as signed sixteenths of a degree (R346). -/
def hotter (a b : BitVec 16) : Bool := decide (toSigned 16 b.toNat < toSigned 16 a.toNat)

/-- The lane groups' temperatures of the tick (R312, R346). -/
def State.takeTemps (s : State) (temps : Vector (BitVec 16) 16) : State :=
  let top := Vector.ofFn (fun (g : Fin 16) => if hotter (temps.get g) (s.pow.tempMax.get g) then temps.get g else s.pow.tempMax.get g)
  let s1 := { s with pow := { s.pow with temp := temps, tempMax := top } }
  if temps.toList.any (fun t => hotter t s.eng.tempExc) then s1.riskNote 3 else s1

/-- The self-test controller's count of ticks without a full fallow slice (R315, R256). -/
def SelfTest.boundary (b : SelfTest) (now : Nat) : SelfTest :=
  let dry := if b.full then b.dry else satAdd b.dry 1
  { b with dry := dry, full := false, forced := false, forcedNext := decide (1000 ≤ dry.toNat), busyUntil := min b.busyUntil now, wake := none }

/-- The tick input's follower after a boundary: an edge ends a run (R14). -/
def Tick.advance (t : Tick) (now : Nat) (byClock : Bool) : Tick :=
  { t with count := t.count + 1, last := now, run := t.run && byClock, lastLocal := byClock, first := false, waitEdge := false, due := none }

/-- The duties of a boundary taken at an EC (R245, R349, R256, R290, R309, R323, R356). -/
def State.boundary (s : State) (at_ : Nat) (byClock : Bool) (temps : Vector (BitVec 16) 16) : State :=
  let tick := s.tick.advance at_ byClock
  let s1 := s.sliceBoundary
  let s2 := { s1 with
    tick := tick
    mgmt := { s1.mgmt with heartbeat := tick.count }
    ctxs := s1.ctxBoundary at_
    ckpt := { s1.ckpt with effective := s1.ckpt.pending.isSome }
    bist := s1.bist.boundary at_
    risk := { s1.risk with ticks := s1.risk.ticks + 1 }
    pow := { s1.pow with waitTicks := if s1.pow.req && !s1.pow.held then s1.pow.waitTicks + 1 else s1.pow.waitTicks } }
  allChans.foldl State.trainSend (s2.takeTemps temps).takeMap

/-- TICK_BOUNDARY (R245): the boundary that an edge or the engine's own count has given, once its EC has come (R14). -/
def execTickBoundary (temps : Vector (BitVec 16) 16) (s : State) : Out :=
  .next (match s.tick.due with
    | some d => if s.sampled && decide (d.2 ≤ s.now) then s.boundary d.2 d.1 temps else s
    | none => s)

/-! ### One engine clock (R281, R343, R345) -/

/-- A RUNNING context with an admitted command not yet complete. -/
def State.hasWork (s : State) (c : CtxNo) : Bool :=
  (s.ctx c).state == .running && (s.ctx c).cmds.any (fun m => match m.phase with
    | .finished _ => false
    | _ => true)

/-- The accesses of the next unit of a part of the slice that takes intervals. -/
def State.nextUnit (s : State) (c : CtxNo) (q : SlicePart) : List Acc :=
  match s.partsAt c q.seq q.tile with
  | [] => []
  | x :: t => partAccs (x :: t) x.run.filled (s.chainGiven x.cmd x.ops x.job q.tile x.run.filled)

/-- Can the next unit of a part of the slice be read now; if not, what it lacks is asked for (R148, R152). -/
def State.partOpen (s : State) (c : CtxNo) (q : SlicePart) : Bool × State :=
  if q.left = 0 then (true, s)
  else if (s.partsAt c q.seq q.tile).isEmpty then s.firstOpen c
  else s.openAll c q.seq (s.nextUnit c q)

/-- The waits of a part. -/
def State.partAsks (c : CtxNo) (s : State) (q : SlicePart) : State := let r := s.partOpen c q; if r.1 then s else r.2

/-- Does a part of the slice lack what it reads: its data, or a translation (R152)? -/
def State.sliceLacks (s : State) : Bool := s.lane.slice.any (fun r => r.parts.any (fun q => !(s.partOpen r.ctx q).1))
def State.sliceUnmapped (s : State) : Bool :=
  s.lane.slice.any (fun r => r.parts.any (fun q => decide (0 < q.left) && ((s.nextUnit r.ctx q).flatMap (fun a =>
    accNeeds a (seq16 q.seq) (s.plan r.ctx a))).any (fun n => !s.needOk r.ctx n)))

/-- The waits of this EC: those there are, and those of what would start next. -/
def State.asking (s : State) : State :=
  match s.lane.slice with
  | some r => r.parts.foldl (State.partAsks r.ctx) s
  | none => (allCtx.filter s.laneReady).foldl (fun t c => let q := t.firstOpen c; if q.1 then t else q.2) s

/-- Does a lane of the slice in progress lack its lane operand (R42): does a member of a part lack that of its next interval? -/
def State.laneLacks (s : State) : Bool :=
  s.lane.slice.any (fun r => r.parts.any (fun q => decide (0 < q.left) && (s.partsAt r.ctx q.seq q.tile).any (fun x =>
    !(s.openAll r.ctx q.seq [x.laneAcc x.run.filled]).1)))

/-- Is a lane group held: its skid buffers hold beats, or a part of the slice finds no room (R42, R48)? -/
def State.laneHeld (s : State) : Bool :=
  !s.lane.ahead.isEmpty || s.lane.slice.any (fun r => r.parts.any (fun q =>
    let ps := s.partsAt r.ctx q.seq q.tile
    match ps with
    | [] => false
    | x :: _ => decide (0 < q.left) && !s.lane.room (ps.flatMap LanePart.groups) (xor x.run.firstB (x.run.filled % 2 == 1))
        (x.ops.beatCount x.cmd x.job x.tile x.run.filled)))

/-- Does a part of the slice wait for its groups' wake or mode, or for the beats of its chain? -/
def State.partWaits (s : State) (f : LanePart → List (Fin 16) → Bool) : Bool :=
  s.lane.slice.any (fun r => r.parts.any (fun q =>
    let ps := s.partsAt r.ctx q.seq q.tile
    match ps with
    | [] => false
    | x :: _ => decide (0 < q.left) && f x (ps.flatMap LanePart.groups)))

/-- Does the next tile of the command wait for a slot (R97, R109)? -/
def State.slotWait (s : State) (c : CtxNo) (m : Cmd) : Bool :=
  match m.phase with
  | .running (.product j) =>
    !j.tiles.isEmpty && decide (j.next < j.tiles.length) && (s.readyTiles c j).isEmpty && !(s.members c j.lead).any (s.placeable c)
  | _ => false

/-- Does a fallow slice hold the lane bank; does a BIST_SLICE? -/
def State.fallowRuns (s : State) : Bool := decide (s.now < s.bist.busyUntil) && s.bist.owner.isNone
def State.bistRuns (s : State) : Bool := decide (s.now < s.bist.busyUntil) && s.bist.owner.isSome

/-- Does a context's next tile wait for a ramp token, a wake or a mode change (R307)? -/
def State.rampWait (s : State) (c : CtxNo) : Bool :=
  s.laneReady c && (match s.laneCmd c with
    | some (_, m) => let g := s.workGroups c m; !s.pow.readyFor g.1 g.2
    | none => false)

/-- The stall causes that the state itself shows (R343); `t` holds the waits of the EC. -/
def State.causeHolds (s t : State) (n : Nat) : Bool :=
  let work := allCtx.filter s.hasWork
  let cmd (p : CtxNo → Cmd → Bool) : Bool := work.any (fun c => (s.ctx c).cmds.any (p c))
  let waits (rs : List Res) : Bool := t.waits.any (fun w => rs.contains w.res && work.contains w.ctx)
  match n with
  | 1 => waits [.bank]
  | 2 => waits [.rdSlot]
  | 3 => waits [.wrSlot, .quota]
  | 4 => waits [.remSlot]
  | 5 => s.sliceUnmapped || t.walks.any (fun w => !w.prefetch && work.contains w.ctx)
  | 6 => s.laneHeld || (!s.lane.drains.isEmpty && decide (4 * s.now < s.lane.adders))
  | 7 => s.laneLacks
  | 9 => waits [.dovetail]
  | 10 => s.partWaits (fun x _ => !s.beatsReady x.cmd x.ops x.job x.run.tile x.run.filled)
    || work.any (fun c => s.laneReady c && (s.ctx c).cmds.any (s.beatWait c))
  | 11 => s.partWaits (fun x gs => !s.pow.readyFor gs x.job.eight) || (s.lane.slice.isNone && work.any s.rampWait)
  | 12 => cmd s.slotWait
  | 13 => cmd (fun _ m => match m.phase with
    | .running (.waitCounter _ _ _ _ _) => true
    | .running (.closing _) => true
    | .queued => m.op == 0x2C
    | _ => false)
    || work.any (fun c => (s.ctx c).placed.any (fun x => x.2.phase.isQueued && [0x01, 0x02, 0x03].contains x.2.op && !s.noConflict c x.1 x.2))
  | 14 => (s.lane.stopped || s.fallowRuns) && work.any s.laneReady
  | 15 => allCtx.any (fun c =>
    let x := s.ctx c
    x.state == .running && decide (0 < dist32 x.cmdTail x.cmdHead) && (decide (64 ≤ x.cmds.length) || decide (x.evtFree ≤ x.cmds.length)))
  | _ => false

/-- The causes below a unit of work, which no state here shows: the bandwidth of the ports, the lag of operands, blocks and fills (log 46). -/
def fineCauses : List Nat := [0, 4, 7, 8, 9]

/-- The causes that hold in this EC: those of the state, and, while a slice or a stream runs, those the model leaves free (log 46). -/
def State.causes (s : State) : List Nat :=
  let t := s.asking
  let runs := s.lane.slice.isSome || allCtx.any s.streaming
  (List.range 16).filter (fun n => s.causeHolds t n || (runs && fineCauses.contains n && bitAt (Config.stallCauses s.now) n))

/-- Of two causes the one with the higher PRIORITY (R343, R344). -/
def worseCause (tab : Vector (BitVec 4) 16) (a : Option Nat) (n : Nat) : Option Nat :=
  match a with
  | none => some n
  | some m => if (tab.toList.getD m 0).toNat < (tab.toList.getD n 0).toNat then some n else some m

/-- Is this a stall EC (R343)? With a slice, a group of it issues no beat or is held; without one, a RUNNING context's next tile or unit
waits. Each is so by a cause of the table (log 46). -/
def State.stallEc (s : State) : Bool :=
  if s.lane.slice.isSome then
    s.sliceLacks || s.causes.any (fun n => n == 6 || n == 10 || n == 11 || (fineCauses.contains n && bitAt (Config.stallCauses s.now) n))
  else !s.bistRuns && !s.causes.isEmpty

/-- The counter this EC is charged to: none, when it is no stall EC. -/
def State.stallCause (s : State) : Option Nat := if s.stallEc then s.causes.foldl (worseCause s.stallMap) none else none

/-- A packet of the channel is ready and has no credit (R281). -/
def State.creditWaits (s : State) (k : Chan) : Bool :=
  let no (job : BitVec 12) : Bool := !(s.portCh k).creditFor job
  s.port.aborts.any (fun x => x.1 == k && no x.2.job)
  || s.port.results.any (fun h => h.fwd.contains k && s.resultHead h && s.mayForward h && no h.pkt.job)
  || allCtx.any (fun c => (s.ctx c).placed.any (fun x => no x.2.job && s.sendReady c x.1 x.2 k))

/-- The telemetry of one EC. -/
def State.telEc (s : State) : Telemetry :=
  let t := s.tel
  let fallow := s.fallowRuns
  { t with
    energy := t.energy + BitVec.ofNat 64 s.currentMa
    tokenWait := if s.pow.req && !s.pow.held then satAdd t.tokenWait 1 else t.tokenWait
    busy := if s.lane.slice.isSome then satAdd t.busy 1 else t.busy
    fallow := if fallow then satAdd t.fallow 1 else t.fallow
    idle := if s.lane.slice.isNone && !s.bistRuns && (!fallow || s.stallEc) then satAdd t.idle 1 else t.idle
    stall := match s.stallCause with
      | some n => t.stall.setIfInBounds n (satAdd (t.stall.toList.getD n 0) 1)
      | none => t.stall }

/-- The channels' waits for credits in one EC. -/
def State.portTel (s : State) : Port :=
  { s.port with chans := Vector.ofFn (fun (k : Fin 6) =>
      let ch := s.port.chans.get k
      if s.creditWaits k then { ch with creditWait := satAdd ch.creditWait 1 } else ch) }

/-- One engine clock: event lines and RET fall, counters count, a self-test slice that is over gives its staging back. In OFF and RETAIN the clock is stopped and nothing counts; only the exit
ramp of RETAIN is measured in EC (R13, R305, R307, log 41). -/
def clockTick (s : State) : State :=
  let s1 := { s with evt := 0, pow := s.pow.retDone (s.now + 1) }
  let kept := if s.bist.busyUntil ≤ s.now + 1 then s.staging.filter (fun p => p.2 != benchUser) else s.staging
  if s.pow.state = .running then (({ s1 with tel := s.telEc, port := s.portTel, staging := kept }).endEc.clockOn).retainNext
  else if s.pow.ramp.isSome then { s1 with now := s.now + 1 } else s1

end Sys2Proof.Machine
end

