-- ==== Sys2Proof/Machine/Dispatch.lean ====
section
/-! DEFINITION. One arm per command: each a direct call of its meaning. -/

namespace Sys2Proof.Machine

def exec (i : Instr) (s : State) : Host.Outcome State Fault Refusal :=
  match i with
  | .nop c => Sys2Proof.Machine.execNop c s
  | .gradw c => Sys2Proof.Machine.execGradw c s
  | .gradx c => Sys2Proof.Machine.execGradx c s
  | .reduce c => Sys2Proof.Machine.execReduce c s
  | .accload c => Sys2Proof.Machine.execAccload c s
  | .accstore c => Sys2Proof.Machine.execAccstore c s
  | .zeroSlot c => Sys2Proof.Machine.execZeroSlot c s
  | .zeroTensor c => Sys2Proof.Machine.execZeroTensor c s
  | .descCreate c => Sys2Proof.Machine.execDescCreate c s
  | .descFree c => Sys2Proof.Machine.execDescFree c s
  | .xpose c => Sys2Proof.Machine.execXpose c s
  | .permute c => Sys2Proof.Machine.execPermute c s
  | .gatherAcc c => Sys2Proof.Machine.execGatherAcc c s
  | .qstat c => Sys2Proof.Machine.execQstat c s
  | .qcal c => Sys2Proof.Machine.execQcal c s
  | .bucketSend c => Sys2Proof.Machine.execBucketSend c s
  | .bucketRecv c => Sys2Proof.Machine.execBucketRecv c s
  | .digestRead c => Sys2Proof.Machine.execDigestRead c s
  | .taskBegin c => Sys2Proof.Machine.execTaskBegin c s
  | .taskCommit c => Sys2Proof.Machine.execTaskCommit c s
  | .taskDiscard c => Sys2Proof.Machine.execTaskDiscard c s
  | .barrierSignal c => Sys2Proof.Machine.execBarrierSignal c s
  | .barrierWait c => Sys2Proof.Machine.execBarrierWait c s
  | .fence c => Sys2Proof.Machine.execFence c s
  | .ckptArm c => Sys2Proof.Machine.execCkptArm c s
  | .ctxExport c => Sys2Proof.Machine.execCtxExport c s
  | .ctxImport c => Sys2Proof.Machine.execCtxImport c s
  | .assumePosition c => Sys2Proof.Machine.execAssumePosition c s
  | .tableLoad c => Sys2Proof.Machine.execTableLoad c s
  | .bistSlice c results => Sys2Proof.Machine.execBistSlice c results s
  | .chainSetup c => Sys2Proof.Machine.execChainSetup c s
  | .commandAdmission c => Sys2Proof.Machine.execCommandAdmission c s
  | .statusReply c => Sys2Proof.Machine.execStatusReply c s
  | .eventRecord c => Sys2Proof.Machine.execEventRecord c s
  | .doorbell c v => Sys2Proof.Machine.execDoorbell c v s
  | .cplHead c v => Sys2Proof.Machine.execCplHead c v s
  | .ctxCfg c v => Sys2Proof.Machine.execCtxCfg c v s
  | .enable c => Sys2Proof.Machine.execEnable c s
  | .resume c => Sys2Proof.Machine.execResume c s
  | .abort c => Sys2Proof.Machine.execAbort c s
  | .reset c => Sys2Proof.Machine.execReset c s
  | .contextResetComplete c => Sys2Proof.Machine.execContextResetComplete c s
  | .clearStall => Sys2Proof.Machine.execClearStall s
  | .clearMac => Sys2Proof.Machine.execClearMac s
  | .clearEnergy => Sys2Proof.Machine.execClearEnergy s
  | .clearIdle => Sys2Proof.Machine.execClearIdle s
  | .clearMisc => Sys2Proof.Machine.execClearMisc s
  | .clearTempMax => Sys2Proof.Machine.execClearTempMax s
  | .clearReduce => Sys2Proof.Machine.execClearReduce s
  | .clearTick => Sys2Proof.Machine.execClearTick s
  | .clearOobSilent c => Sys2Proof.Machine.execClearOobSilent c s
  | .clearIdx c => Sys2Proof.Machine.execClearIdx c s
  | .clearSched c => Sys2Proof.Machine.execClearSched c s
  | .firstValid => Sys2Proof.Machine.execFirstValid s
  | .clearLost => Sys2Proof.Machine.execClearLost s
  | .logSummary mask => Sys2Proof.Machine.execLogSummary mask s
  | .logRdIdx v => Sys2Proof.Machine.execLogRdIdx v s
  | .jobRelease v => Sys2Proof.Machine.execJobRelease v s
  | .tlbInvalAll => Sys2Proof.Machine.execTlbInvalAll s
  | .tlbInvalPage page => Sys2Proof.Machine.execTlbInvalPage page s
  | .invalidationComplete => Sys2Proof.Machine.execInvalidationComplete s
  | .registerWrite offset width value => Sys2Proof.Machine.execRegisterWrite offset width value s
  | .managementWrite reg secure value => Sys2Proof.Machine.execManagementWrite reg secure value s
  | .bindingWordWrite c secure value => Sys2Proof.Machine.execBindingWordWrite c secure value s
  | .keyCommit secure value => Sys2Proof.Machine.execKeyCommit secure value s
  | .keyWriteEffect => Sys2Proof.Machine.execKeyWriteEffect s
  | .regionCommit secure value => Sys2Proof.Machine.execRegionCommit secure value s
  | .groupCommit secure value => Sys2Proof.Machine.execGroupCommit secure value s
  | .exportSeq secure value => Sys2Proof.Machine.execExportSeq secure value s
  | .svnCommit secure => Sys2Proof.Machine.execSvnCommit secure s
  | .retainRequest => Sys2Proof.Machine.execRetainRequest s
  | .retainExit => Sys2Proof.Machine.execRetainExit s
  | .offRequest => Sys2Proof.Machine.execOffRequest s
  | .dbgChallenge => Sys2Proof.Machine.execDbgChallenge s
  | .dbgResponse level key r sig => Sys2Proof.Machine.execDbgResponse level key r sig s
  | .dbgResponseVerified => Sys2Proof.Machine.execDbgResponseVerified s
  | .lock => Sys2Proof.Machine.execLock s
  | .tickEdge => Sys2Proof.Machine.execTickEdge s
  | .localBoundary => Sys2Proof.Machine.execLocalBoundary s
  | .tickBoundary temps => Sys2Proof.Machine.execTickBoundary temps s
  | .settlePoint c => Sys2Proof.Machine.execSettlePoint c s
  | .epochPoint => Sys2Proof.Machine.execEpochPoint s
  | .guardRead c => Sys2Proof.Machine.execGuardRead c s
  | .earlyDiscard c => Sys2Proof.Machine.execEarlyDiscard c s
  | .barrierPoll c => Sys2Proof.Machine.execBarrierPoll c s
  | .barrierTimeout c => Sys2Proof.Machine.execBarrierTimeout c s
  | .slice => Sys2Proof.Machine.execSlice s
  | .drain g => Sys2Proof.Machine.execDrain g s
  | .preload c => Sys2Proof.Machine.execPreload c s
  | .segmentMerge c => Sys2Proof.Machine.execSegmentMerge c s
  | .mergeAddition c => Sys2Proof.Machine.execMergeAddition c s
  | .writeBack c => Sys2Proof.Machine.execWriteBack c s
  | .clipWindowEnd t => Sys2Proof.Machine.execClipWindowEnd t s
  | .headerUpdate c => Sys2Proof.Machine.execHeaderUpdate c s
  | .journalCapture c => Sys2Proof.Machine.execJournalCapture c s
  | .pageCopy c => Sys2Proof.Machine.execPageCopy c s
  | .gleanerWindow c => Sys2Proof.Machine.execGleanerWindow c s
  | .requestComplete idx ecc => Sys2Proof.Machine.execRequestComplete idx ecc s
  | .correctedWriteBack unit word => Sys2Proof.Machine.execCorrectedWriteBack unit word s
  | .walk page found => Sys2Proof.Machine.execWalk page found s
  | .park c => Sys2Proof.Machine.execPark c s
  | .chainBeat e chainId seq beat sig data => Sys2Proof.Machine.execChainBeat e chainId seq beat sig data s
  | .credit src => Sys2Proof.Machine.execCredit src s
  | .detach e cause => Sys2Proof.Machine.execDetach e cause s
  | .detachNotification e fromSucc neighbour terms => Sys2Proof.Machine.execDetachNotification e fromSucc neighbour terms s
  | .data ch p => Sys2Proof.Machine.execData ch p s
  | .result ch p => Sys2Proof.Machine.execResult ch p s
  | .backup p => Sys2Proof.Machine.execBackup p s
  | .abortPacket ch p => Sys2Proof.Machine.execAbortPacket ch p s
  | .lateInput job input => Sys2Proof.Machine.execLateInput job input s
  | .probe ch => Sys2Proof.Machine.execProbe ch s
  | .ack ch step pos => Sys2Proof.Machine.execAck ch step pos s
  | .probeSend ch => Sys2Proof.Machine.execProbeSend ch s
  | .trainData ch p => Sys2Proof.Machine.execTrainData ch p s
  | .digest ch pos crc => Sys2Proof.Machine.execDigest ch pos crc s
  | .trainingTimeout ch => Sys2Proof.Machine.execTrainingTimeout ch s
  | .retrain ch wrongPos => Sys2Proof.Machine.execRetrain ch wrongPos s
  | .gnt => Sys2Proof.Machine.execGnt s
  | .rampComplete => Sys2Proof.Machine.execRampComplete s
  | .laneGroupRelease g => Sys2Proof.Machine.execLaneGroupRelease g s
  | .power => Sys2Proof.Machine.execPower s
  | .fallowSlice results => Sys2Proof.Machine.execFallowSlice results s
  | .forcedReservation => Sys2Proof.Machine.execForcedReservation s
  | .bankRewrite unit bank => Sys2Proof.Machine.execBankRewrite unit bank s
  | .riskWindowEnd => Sys2Proof.Machine.execRiskWindowEnd s
  | .resetRelease => Sys2Proof.Machine.execResetRelease s
  | .quickBist failedLanes failedColumns => Sys2Proof.Machine.execQuickBist failedLanes failedColumns s
  | .imageVerification => Sys2Proof.Machine.execImageVerification s
  | .positionRead => Sys2Proof.Machine.execPositionRead s
  | .trainingWindowEnd => Sys2Proof.Machine.execTrainingWindowEnd s
  | .neighbourReport => Sys2Proof.Machine.execNeighbourReport s
  | .receiveBufferCredit ch job => Sys2Proof.Machine.execReceiveBufferCredit ch job s

end Sys2Proof.Machine
end

