-- ==== Sys2Proof/Safety.lean ====
section
/-! DEFINITION. What a safe run is: every step answers a next state, the memories and limits keep their form, and a command
changes no more than the pieces of the state named for it. -/

namespace Sys2Proof.Machine

/-- Both byte memories are in canonical form (log 3). -/
def State.memWf (s : State) : Bool := s.core.wf && s.remote.wf

/-- A step ended in a next state with property `P`. -/
def NextIs (o : Host.Outcome State Fault Refusal) (P : State → Prop) : Prop :=
  match o with
  | .next t => P t
  | .fault _ => False
  | .refused _ => False

/-- `t` differs from `s` at most in the register block and the commands of context `c`, in what they wait for and in what of their accesses
has gone out. -/
def OnlyCtx (c : CtxNo) (s t : State) : Prop :=
  t = { s with ctxs := t.ctxs, waits := t.waits, sent := t.sent } ∧ (∀ d, d ≠ c → t.ctx d = s.ctx d)
    ∧ (∀ w : Wait, w.ctx ≠ c → (w ∈ t.waits ↔ w ∈ s.waits)) ∧ ∀ x : Sent, x.ctx ≠ c → (x ∈ t.sent ↔ x ∈ s.sent)

/-- No byte of either memory differs. -/
def SameMem (s t : State) : Prop := (∀ a, t.core.read a = s.core.read a) ∧ ∀ a, t.remote.read a = s.remote.read a

/-- The command at place `i` of context `c`, and the phase it is in. -/
def PhaseAt (s : State) (c : CtxNo) (i : Nat) (p : Phase) : Prop := ((s.ctx c).cmds[i]?).map (·.phase) = some p

/-- Nothing moves in the reduction port: no packet in a buffer, no sum, result or ABORT waiting, and no BUCKET_SEND in flight may send now.
BUCKET_RECV commands in flight, buckets whose inputs are expected, and every other command are as they may be. -/
def PortCalm (s : State) : Prop :=
  (∀ k : Chan, (s.port.chans.get k).inq = [] ∧ (s.port.chans.get k).rx = []) ∧ s.port.partials = [] ∧ s.port.results = []
    ∧ s.port.aborts = []
    ∧ ∀ (c : CtxNo) (i : Nat) (m : Cmd) (n : Nat), (s.ctx c).cmds[i]? = some m → m.phase = .running (.send n) →
        m.op = 0x20 ∧ (s.active c = false ∨ s.maySend c i m = false)

/-- The command at place `i` of context `c` is a BUCKET_RECV in flight that takes the results of the bucket. -/
def Receives (s : State) (c : CtxNo) (i : Nat) (job : BitVec 12) (bucket : Nat) : Prop :=
  ∃ (m : Cmd) (got elems mc mr b o : Nat) (sat nf : Bool), (s.ctx c).cmds[i]? = some m
    ∧ m.phase = .running (.recv got elems mc mr b o sat nf) ∧ m.job = job ∧ m.bucket = bucket

/-- Requests in flight keep within the slots of each class, within 48 for each bank, and within each use's quota (R148, R149, R254). -/
def ReqsOk (l : List Req) : Prop :=
  (∀ k : ReqClass, (l.filter (Req.ofClass k)).length ≤ classLimit k) ∧ (∀ b : Fin 32, (l.filter (Req.ofBank b)).length ≤ 48)
    ∧ ∀ u : ReqUse, (l.filter (Req.ofUse u)).length ≤ useLimit u

/-- What every step keeps: canonical memories, request limits (R148, R149, R254), the sizes of the TLB, of the list of walks and of the
outstanding invalidations (R152, R365), the error log's ring and its unread entries (R327, R368), and the canonical form of the
sparse region table and of the descriptors' generations. -/
def State.Inv (s : State) : Prop :=
  s.memWf = true ∧ ReqsOk s.reqs ∧ s.tlb.length ≤ 256 ∧ s.walks.length ≤ 8 ∧ s.invals.length ≤ 16
    ∧ s.log.ring.length = 63 ∧ dist32 s.log.wr s.log.rd ≤ 63
    ∧ Tbl.wf 0 s.regions = true ∧ Tbl.wf 0 s.descGen = true

/-! ### What each command may change -/

/-- The pieces of the state: one for each field of `State`, and one for each of the eight contexts. -/
inductive Piece where
  | pending | now | free | core | remote | evt | eng | tick | ctx (c : CtxNo) | fmts | rts | prio | prioNext
  | schedLast | schedTurn | stallMap | rampTab | rampNext | riskTab | regions | groups | descs | descGen | slots
  | touch | lane | staging | tlb | walks | invals | invalReq | invalDone | reqs | sent | waits | dovetail | locks
  | chains | chainOut | port | ckpt | risk | log | tel | pow | bist | sec | mgmt | train
  deriving DecidableEq, Repr

/-- A piece of the state is the same in `t` as in `s`. -/
def Piece.Same (p : Piece) (s t : State) : Prop :=
  match p with
  | .pending => t.pending = s.pending
  | .now => t.now = s.now
  | .free => t.free = s.free
  | .core => t.core = s.core
  | .remote => t.remote = s.remote
  | .evt => t.evt = s.evt
  | .eng => t.eng = s.eng
  | .tick => t.tick = s.tick
  | .ctx c => t.ctx c = s.ctx c
  | .fmts => t.fmts = s.fmts
  | .rts => t.rts = s.rts
  | .prio => t.prio = s.prio
  | .prioNext => t.prioNext = s.prioNext
  | .schedLast => t.schedLast = s.schedLast
  | .schedTurn => t.schedTurn = s.schedTurn
  | .stallMap => t.stallMap = s.stallMap
  | .rampTab => t.rampTab = s.rampTab
  | .rampNext => t.rampNext = s.rampNext
  | .riskTab => t.riskTab = s.riskTab
  | .regions => t.regions = s.regions
  | .groups => t.groups = s.groups
  | .descs => t.descs = s.descs
  | .descGen => t.descGen = s.descGen
  | .slots => t.slots = s.slots
  | .touch => t.touch = s.touch
  | .lane => t.lane = s.lane
  | .staging => t.staging = s.staging
  | .tlb => t.tlb = s.tlb
  | .walks => t.walks = s.walks
  | .invals => t.invals = s.invals
  | .invalReq => t.invalReq = s.invalReq
  | .invalDone => t.invalDone = s.invalDone
  | .reqs => t.reqs = s.reqs
  | .sent => t.sent = s.sent
  | .waits => t.waits = s.waits
  | .dovetail => t.dovetail = s.dovetail
  | .locks => t.locks = s.locks
  | .chains => t.chains = s.chains
  | .chainOut => t.chainOut = s.chainOut
  | .port => t.port = s.port
  | .ckpt => t.ckpt = s.ckpt
  | .risk => t.risk = s.risk
  | .log => t.log = s.log
  | .tel => t.tel = s.tel
  | .pow => t.pow = s.pow
  | .bist => t.bist = s.bist
  | .sec => t.sec = s.sec
  | .mgmt => t.mgmt = s.mgmt
  | .train => t.train = s.train

/-- Every context. -/
def everyCtx : List Piece := (List.finRange 8).map Piece.ctx

/-- Every piece but the queue, the clock, the count of free values and the two memories. -/
def allButMemory : List Piece :=
  [.evt, .eng, .tick, .fmts, .rts, .prio, .prioNext, .schedLast, .schedTurn, .stallMap, .rampTab, .rampNext, .riskTab,
  .regions, .groups, .descs, .descGen, .slots, .touch, .lane, .staging, .tlb, .walks, .invals, .invalReq, .invalDone,
  .reqs, .sent, .waits, .dovetail, .locks, .chains, .chainOut, .port, .ckpt, .risk, .log, .tel, .pow, .bist, .sec,
  .mgmt, .train] ++ everyCtx

/-- An address is looked up (R148, R152). -/
def translating : List Piece := [.tlb, .walks]

/-- What the contexts wait for, and what of their accesses has gone out (R148). -/
def waiting : List Piece := [.sent, .waits]

/-- A unit that reads memory: its pages, its requests and waits, and the checkpoint's captures before it. -/
def reading : List Piece := .reqs :: .ckpt :: (waiting ++ translating)

/-- A unit that writes memory. -/
def storing : List Piece := .core :: .remote :: reading

/-- A record is posted in a completion ring (R198, R199). -/
def posting : List Piece := .core :: .remote :: .evt :: translating

/-- A member leaves its chain (R187, R188). -/
def leaving : List Piece := .free :: .chains :: .chainOut :: .tel :: posting

/-- A context's units end (R157). -/
def stopping : List Piece := .schedTurn :: .slots :: .lane :: .staging :: .dovetail :: .reqs :: .ckpt :: (waiting ++ leaving)

/-- An entry of the error log, with the alert and the counts it raises (R327, R329). -/
def logging : List Piece := [.eng, .log, .mgmt]

/-- The reduction port goes on, after a packet or a command of a job. -/
def portWork : List Piece := .evt :: .port :: storing

/-- The pieces of the state that a command may change: whatever is not named here is the same after it. -/
def mayChange (i : Instr) : List Piece :=
  match i with
  | .nop c => .ctx c :: waiting
  | .gradw _ => leaving ++ storing ++ everyCtx
  | .gradx _ => leaving ++ storing ++ everyCtx
  | .reduce c => .ctx c :: waiting
  | .accload c => .ctx c :: .slots :: waiting
  | .accstore c => .ctx c :: .slots :: waiting
  | .zeroSlot c => .ctx c :: .slots :: waiting
  | .zeroTensor c => .ctx c :: storing
  | .descCreate c => .ctx c :: .descs :: .reqs :: translating ++ waiting
  | .descFree c => .ctx c :: .descs :: .descGen :: waiting
  | .xpose c => .ctx c :: .staging :: .dovetail :: storing
  | .permute c => .ctx c :: .staging :: .dovetail :: storing
  | .gatherAcc c => .ctx c :: waiting
  | .qstat c => .ctx c :: .rts :: storing
  | .qcal c => .ctx c :: .rts :: waiting
  | .bucketSend _ => portWork ++ everyCtx
  | .bucketRecv _ => portWork ++ everyCtx
  | .digestRead c => .ctx c :: storing
  | .taskBegin c => .ctx c :: .core :: .remote :: .reqs :: translating ++ waiting
  | .taskCommit c => .ctx c :: .evt :: .slots :: .touch :: storing
  | .taskDiscard c => .ctx c :: .evt :: .slots :: .touch :: storing
  | .barrierSignal c => .ctx c :: .core :: .remote :: translating ++ waiting
  | .barrierWait c => .ctx c :: translating ++ waiting
  | .fence c => .ctx c :: waiting
  | .ckptArm c => .ctx c :: reading
  | .ctxExport c => .ctx c :: waiting
  | .ctxImport _ => .free :: .rts :: .descs :: .descGen :: .slots :: .touch :: .chains :: reading ++ everyCtx
  | .assumePosition c => .ctx c :: .eng :: .groups :: .port :: .mgmt :: .train :: reading
  | .tableLoad c => .ctx c :: .fmts :: .rts :: .prioNext :: .stallMap :: .rampNext :: .riskTab :: .reqs :: .risk :: translating ++ waiting
  | .bistSlice c _ => .ctx c :: .schedLast :: .schedTurn :: .lane :: .staging :: .risk :: .pow :: .bist :: storing ++ logging
  | .chainSetup c => .ctx c :: .chains :: waiting
  | .commandAdmission c => .ctx c :: translating
  | .statusReply c => .ctx c :: posting
  | .eventRecord c => .ctx c :: posting
  | .doorbell _ _ => stopping ++ logging ++ everyCtx
  | .cplHead c _ => [.ctx c]
  | .ctxCfg c _ => [.ctx c]
  | .enable c => [.ctx c]
  | .resume c => .ctx c :: .walks :: logging ++ waiting
  | .abort _ => .slots :: leaving ++ logging ++ waiting ++ everyCtx
  | .reset _ => stopping ++ everyCtx
  | .contextResetComplete _ => .slots :: .touch :: .locks :: leaving ++ everyCtx
  | .clearStall => [.eng]
  | .clearMac => [.eng]
  | .clearEnergy => [.eng]
  | .clearIdle => [.eng]
  | .clearMisc => [.eng]
  | .clearTempMax => [.eng]
  | .clearReduce => [.eng]
  | .clearTick => [.eng]
  | .clearOobSilent c => [.ctx c, .eng]
  | .clearIdx c => [.ctx c, .eng]
  | .clearSched c => [.ctx c, .eng]
  | .firstValid => [.eng]
  | .clearLost => [.eng]
  | .logSummary _ => [.log]
  | .logRdIdx _ => [.eng]
  | .jobRelease _ => portWork ++ everyCtx
  | .tlbInvalAll => [.eng, .tlb, .invals, .invalReq]
  | .tlbInvalPage _ => [.eng, .tlb, .invals, .invalReq]
  | .invalidationComplete => [.tlb, .invals, .invalDone]
  | .registerWrite _ _ _ => .invals :: .invalReq :: .port :: stopping ++ logging ++ everyCtx
  | .managementWrite _ _ _ => .tel :: logging
  | .bindingWordWrite c _ _ => .ctx c :: .tel :: logging
  | .keyCommit _ _ => .tel :: .sec :: logging
  | .keyWriteEffect => [.sec]
  | .regionCommit _ _ => .regions :: .tel :: logging
  | .groupCommit _ _ => .groups :: .tel :: logging
  | .exportSeq _ _ => .tel :: .sec :: logging
  | .svnCommit _ => .tel :: logging
  | .retainRequest => [.pow, .mgmt]
  | .retainExit => [.pow, .mgmt]
  | .offRequest => allButMemory
  | .dbgChallenge => [.free, .sec]
  | .dbgResponse _ _ _ _ => [.sec]
  | .dbgResponseVerified => .sec :: logging
  | .lock => [.sec]
  | .tickEdge => [.tick]
  | .localBoundary => .tick :: logging
  | .tickBoundary _ => .tick :: .lane :: .port :: .ckpt :: .risk :: .pow :: .bist :: .train :: logging ++ everyCtx
  | .settlePoint _ => .free :: .core :: .remote :: .slots :: .reqs :: .sec :: translating ++ waiting ++ everyCtx
  | .epochPoint => storing ++ everyCtx
  | .guardRead c => [.ctx c, .walks]
  | .earlyDiscard c => .ctx c :: .evt :: .slots :: .touch :: storing
  | .barrierPoll c => .ctx c :: translating ++ waiting
  | .barrierTimeout _ => stopping ++ everyCtx
  | .slice =>
      .evt :: .rts :: .prio :: .prioNext :: .schedLast :: .schedTurn :: .slots :: .lane :: .chains :: .chainOut :: .tel :: .pow :: storing ++ logging ++ everyCtx
  | .drain _ => .schedTurn :: .slots :: .lane :: leaving ++ waiting ++ everyCtx
  | .preload c => .ctx c :: .slots :: .lane :: reading
  | .segmentMerge _ => .slots :: .lane :: leaving ++ waiting ++ everyCtx
  | .mergeAddition _ => .slots :: .lane :: leaving ++ waiting ++ everyCtx
  | .writeBack _ => .rts :: .slots :: .lane :: leaving ++ storing ++ everyCtx
  | .clipWindowEnd _ => [.rts]
  | .headerUpdate c => .ctx c :: storing
  | .journalCapture c => .ctx c :: .core :: .remote :: .slots :: .touch :: .reqs :: translating ++ waiting
  | .pageCopy c => .ctx c :: .staging :: storing
  | .gleanerWindow _ => .locks :: storing ++ everyCtx
  | .requestComplete _ _ => .slots :: .tlb :: .reqs :: .locks :: .risk :: .bist :: logging ++ waiting ++ everyCtx
  | .correctedWriteBack _ _ => [.bist]
  | .walk _ _ => stopping ++ logging ++ everyCtx
  | .park _ => stopping ++ everyCtx
  | .chainBeat _ _ _ _ _ _ => [.chains, .chainOut]
  | .credit _ => [.chains, .chainOut]
  | .detach _ _ => leaving ++ everyCtx
  | .detachNotification _ _ _ _ => [.chains, .chainOut]
  | .data _ _ => portWork ++ everyCtx
  | .result _ _ => portWork ++ everyCtx
  | .backup _ => portWork ++ everyCtx
  | .abortPacket _ _ => portWork ++ everyCtx
  | .lateInput _ _ => portWork ++ everyCtx
  | .probe _ => [.port, .mgmt, .train]
  | .ack _ _ _ => .port :: .risk :: .train :: logging
  | .probeSend _ => [.port, .mgmt, .train]
  | .trainData _ _ => .port :: .risk :: .train :: logging
  | .digest _ _ _ => .port :: .risk :: .train :: logging
  | .trainingTimeout _ => .train :: logging
  | .retrain _ _ => .risk :: .train :: logging
  | .gnt => [.rampTab, .rampNext, .pow]
  | .rampComplete =>
      .tick :: .schedLast :: .schedTurn :: .regions :: .lane :: .staging :: .invals :: .invalReq :: .invalDone :: .dovetail :: .locks :: .port :: .risk :: .tel :: .pow :: .bist :: .sec :: .train :: logging ++ reading ++ everyCtx
  | .laneGroupRelease _ => [.pow]
  | .power => .pow :: logging
  | .fallowSlice _ => .lane :: .staging :: .tlb :: .risk :: .pow :: .bist :: logging
  | .forcedReservation => [.bist]
  | .bankRewrite _ _ => .bist :: logging
  | .riskWindowEnd => [.risk]
  | .resetRelease => [.eng, .pow]
  | .quickBist _ _ => .bist :: logging
  | .imageVerification => logging
  | .positionRead => .train :: logging
  | .trainingWindowEnd => logging
  | .neighbourReport => [.eng, .fmts, .rampTab, .rampNext, .riskTab, .regions, .groups, .sec, .mgmt]
  | .receiveBufferCredit _ _ => portWork ++ everyCtx

end Sys2Proof.Machine
end

