-- ==== Sys2Proof/Certificates/Slice0/Obligations.lean ====
section
/-! DEFINITION. The statements for the provers. Each docstring names the rules of spec/ it rests on, and the entries of the
assumption log where a clause is the model's own choice. -/

open Sys2Proof Sys2Proof.Machine

/-! ### The queue and the clock -/

/-- One step takes the command at the front of the queue and is that command's `exec` on the state with the queue's rest. -/
def Obligations.StepRunsFrontCommand : Prop :=
  ∀ (c : Instr) (rest : List Instr) (s : State), s.pending = c :: rest → step s = exec c { s with pending := rest }

/-- With no command waiting a step is one engine clock (the model's choice, log 2): the event lines fall (R12) and, where the clock
runs, its count advances; with the clock stopped and no ramp under way nothing else changes (R13, R305). -/
def Obligations.EmptyQueueIsOneClock : Prop :=
  ∀ s : State, s.pending = [] →
    ∃ t, step s = .next t ∧ t.evt = 0 ∧ t.pending = [] ∧ SameMem s t
      ∧ (s.pow.state = .running → t.now = s.now + 1)
      ∧ (s.pow.state ≠ .running → s.pow.ramp = none → s.pow.ret = false → t = { s with evt := 0 })

/-! ### Reset (R361) -/

/-- R361: what the control window reads right after reset, at every offset for which the register map gives a value that is
not zero, and at the offsets the other tables give. -/
def Obligations.ResetWindow : Prop :=
  State.reset.read32 0x000 = 0x00010A2C ∧ State.reset.read32 0x004 = 0x7FFF ∧ State.reset.read32 0x008 = 0
  ∧ State.reset.read32 0x00C = 1 ∧ State.reset.read32 0x020 = 0 ∧ State.reset.read32 0x02C = 0x0640
  ∧ State.reset.read32 0x038 = 0 ∧ State.reset.read32 0x03C = 0 ∧ State.reset.read32 0x040 = 0
  ∧ State.reset.read32 0x050 = 0 ∧ State.reset.read32 0x180 = 2 ∧ State.reset.read32 0x184 = 0
  ∧ (∀ c : CtxNo, State.reset.read32 (0x200 + 0x80 * c.val) = 0x000000C6 ∧ State.reset.read32 (0x208 + 0x80 * c.val) = 0
      ∧ State.reset.read32 (0x220 + 0x80 * c.val) = 0 ∧ State.reset.read32 (0x230 + 0x80 * c.val) = 0
      ∧ State.reset.read32 (0x268 + 0x80 * c.val) = 0)

/-! ### Counter clears (R364) -/

/-- R364, R368, R369: a clear write, a write to LOG_CTL's two actions and an accepted LOG_RD_IDX write wait for the end of the EC in which
the window takes them, and LOG_SUMMARY is written at once; a read index that moves backwards or passes the write index is ignored.
R364, *Context block*: at the end of its EC a clear write sets exactly the counters its bits name to zero, after the counts of that EC, and
TEMP_MAX to the current TEMP; CTX_CLEAR does so in its own context alone.
R368, R369, R327: at the end of its EC the read index, the first-error capture and LOST are written. That the end of an EC is the step on an
empty queue is the model's choice (log 2). -/
def Obligations.CounterClearsAndLogRegisters : Prop :=
  (∀ (s : State) (c : CtxNo) (v : Word),
      let put (a : LateAct) : State := { s with eng := { s.eng with late := s.eng.late ++ [a] } }
      (s.windowOpen = true →
        (∀ p ∈ [(Instr.clearStall, 1#32), (.clearMac, 2), (.clearEnergy, 4), (.clearIdle, 8), (.clearMisc, 16), (.clearTempMax, 32),
            (.clearReduce, 64), (.clearTick, 128)], exec p.1 s = .next (put (.counters p.2)))
        ∧ ((s.ctx c).resetting = false →
          ∀ p ∈ [(Instr.clearOobSilent c, 1#32), (.clearIdx c, 2), (.clearSched c, 4)], exec p.1 s = .next (put (.context c p.2))))
      ∧ (s.logOpen = true →
        exec .firstValid s = .next (put .rearm) ∧ exec .clearLost s = .next (put .lost)
        ∧ exec (.logSummary v) s = .next { s with log := { s.log with summary := s.log.summary &&& ~~~v } }
        ∧ (dist32 s.log.wr v ≤ dist32 s.log.wr s.log.rd → exec (.logRdIdx v) s = .next (put (.advance v)))
        ∧ (dist32 s.log.wr s.log.rd < dist32 s.log.wr v → exec (.logRdIdx v) s = .next s)))
  ∧ ∀ (s : State) (v : Word) (c : CtxNo), s.pending = [] → s.pow.state = .running →
      (s.eng.late = [.counters v] → ∃ t, step s = .next t ∧ t.eng.late = [] ∧ t.ctxs = s.ctxs ∧ t.log = s.log ∧ SameMem s t
        ∧ t.tel = { s.telEc with
            stall := if bitAt v 0 then Vector.replicate 16 0 else s.telEc.stall
            busy := if bitAt v 0 then 0 else s.telEc.busy
            mac16 := if bitAt v 1 then 0 else s.telEc.mac16
            mac8 := if bitAt v 1 then 0 else s.telEc.mac8
            energy := if bitAt v 2 then 0 else s.telEc.energy
            idle := if bitAt v 3 then 0 else s.telEc.idle
            fallow := if bitAt v 3 then 0 else s.telEc.fallow
            prefetchDrop := if bitAt v 4 then 0 else s.telEc.prefetchDrop
            detach := if bitAt v 4 then 0 else s.telEc.detach
            tokenWait := if bitAt v 4 then 0 else s.telEc.tokenWait
            mgmtDenied := if bitAt v 4 then 0 else s.telEc.mgmtDenied }
        ∧ t.pow.tempMax = (if bitAt v 5 then s.pow.temp else s.pow.tempMax)
        ∧ t.port.failed = (if bitAt v 6 then 0 else s.port.failed) ∧ t.port.omitted = (if bitAt v 6 then 0 else s.port.omitted)
        ∧ t.port.backupsUsed = (if bitAt v 6 then 0 else s.port.backupsUsed)
        ∧ (∀ k : Chan, t.port.chans.get k = if bitAt v 6 then
            { s.port.chans.get k with pktsSent := 0, pktsRecv := 0, creditWait := 0, lateDrop := 0, badPeer := 0 }
          else s.portTel.chans.get k)
        ∧ t.tick = if bitAt v 7 then { s.tick with early := 0, localCount := 0 } else s.tick)
      ∧ (s.eng.late = [.context c v] → ∃ t, step s = .next t ∧ t.eng.late = [] ∧ (∀ d, d ≠ c → t.ctx d = s.ctx d)
        ∧ t.log = s.log ∧ t.tel = s.telEc ∧ t.tick = s.tick ∧ SameMem s t
        ∧ t.ctx c = { s.ctx c with
            oobSilent := if bitAt v 0 then 0 else (s.ctx c).oobSilent
            idxNeg := if bitAt v 1 then 0 else (s.ctx c).idxNeg
            idxOob := if bitAt v 1 then 0 else (s.ctx c).idxOob
            slices := if bitAt v 2 then 0 else (s.ctx c).slices
            cuts := if bitAt v 2 then 0 else (s.ctx c).cuts
            overruns := if bitAt v 2 then 0 else (s.ctx c).overruns
            overrunEc := if bitAt v 2 then 0 else (s.ctx c).overrunEc
            maxOverrun := if bitAt v 2 then 0 else (s.ctx c).maxOverrun
            heldTicks := if bitAt v 2 then 0 else (s.ctx c).heldTicks
            bubbles := if bitAt v 2 then 0 else (s.ctx c).bubbles })
      ∧ (s.eng.late = [.lost] → ∃ t, step s = .next t ∧ t.eng.late = [] ∧ t.log = { s.log with lost := 0 } ∧ t.ctxs = s.ctxs)
      ∧ (s.eng.late = [.rearm] → ∃ t, step s = .next t ∧ t.eng.late = [] ∧ t.log = { s.log with first := none } ∧ t.ctxs = s.ctxs)
      ∧ (s.eng.late = [.advance v] → ∃ t, step s = .next t ∧ t.eng.late = [] ∧ t.ctxs = s.ctxs
        ∧ t.log = if dist32 s.log.wr v ≤ dist32 s.log.wr s.log.rd then { s.log with rd := v } else s.log)

/-! ### Context registers (R195, R202, R366, R367) -/

/-- R195, R366: a doorbell of a RUNNING or PARKED context that neither runs ahead of the ring nor goes back moves CMD_TAIL;
any other sets DOORBELL_ERR and leaves CMD_TAIL (the context goes on unless DOORBELL_STOP is set).
R366: a CPL_HEAD write of a RUNNING or PARKED context is accepted when it neither moves backwards nor passes CPL_TAIL, and
otherwise ignored with HEAD_ERR; a DISABLED context takes it unchecked.
R202, R366, R367: CTX_CFG is written and ENABLE acts only while the context is DISABLED; elsewhere CTX_CFG sets CFG_ERR and
ENABLE sets CTRL_IGN. An ENABLE whose conditions fail sets CFG_ERR and the context stays DISABLED. -/
def Obligations.DoorbellHeadAndEnable : Prop :=
  (∀ (s : State) (c : CtxNo) (v : Word), s.windowOpen = true → (s.ctx c).resetting = false →
      ((s.ctx c).state = .running ∨ (s.ctx c).state = .parked) →
      (dist32 v (s.ctx c).cmdHead ≤ (s.ctx c).cmdDepth ∧ dist32 v (s.ctx c).cmdTail ≤ (s.ctx c).cmdDepth →
        ∃ t, exec (.doorbell c v) s = .next t ∧ OnlyCtx c s t ∧ t.ctx c = { s.ctx c with cmdTail := v })
      ∧ ((s.ctx c).cmdDepth < dist32 v (s.ctx c).cmdHead ∨ (s.ctx c).cmdDepth < dist32 v (s.ctx c).cmdTail →
        s.eng.doorbellStop = false →
        ∃ t, exec (.doorbell c v) s = .next t ∧ t.ctx c = { s.ctx c with doorbellErr := true }
          ∧ (∀ d, d ≠ c → t.ctx d = s.ctx d) ∧ t.log.summary = setFld s.log.summary 9 1 1 ∧ SameMem s t))
  ∧ ((∀ (s : State) (c : CtxNo) (v : Word), s.windowOpen = true → (s.ctx c).resetting = false → (s.ctx c).state ≠ .stopped →
        ∃ t, exec (.cplHead c v) s = .next t ∧ OnlyCtx c s t ∧ t.ctx c =
          (if (s.ctx c).state = .disabled ∨ dist32 (s.ctx c).cplTail v ≤ dist32 (s.ctx c).cplTail (s.ctx c).cplHead
           then { s.ctx c with cplHead := v } else { s.ctx c with headErr := true }))
    ∧ (∀ (s : State) (c : CtxNo) (v : Word), s.windowOpen = true → (s.ctx c).resetting = false →
        (∃ t, exec (.ctxCfg c v) s = .next t ∧ OnlyCtx c s t ∧ t.ctx c =
          (if (s.ctx c).state = .disabled then { s.ctx c with cfg := v &&& 0xFFFF#32 } else { s.ctx c with cfgErr := true }))
        ∧ ∃ t, exec (.enable c) s = .next t ∧ OnlyCtx c s t ∧ t.ctx c =
          (if (s.ctx c).state ≠ .disabled then { s.ctx c with ctrlIgn := true }
           else if (s.ctx c).cmdBase.toNat % (64 * (s.ctx c).cmdDepth) = 0 ∧ (s.ctx c).cplBase.toNat % (32 * (s.ctx c).cplDepth) = 0
              ∧ (s.ctx c).cplHead = (s.ctx c).cplTail ∧ dist32 (s.ctx c).cmdTail (s.ctx c).cmdHead ≤ (s.ctx c).cmdDepth
           then { s.ctx c with state := .running } else { s.ctx c with cfgErr := true })))

/-- R160, R190: RESUME makes a PARKED context run again, issues the faulting request's walk again, gives an unsatisfied WAIT a
fresh count of boundaries and completes a satisfied one; no other context and no memory changes.
R160, R190: ABORT ends the parked command at the head of its context, a WAIT parked by its timeout with BARRIER_TIMEOUT and
the counter's last value, a ZERO of a tensor with PAGE_FAULT, and the context runs on; no memory changes. -/
def Obligations.ResumeAndAbort : Prop :=
  (∀ (s : State) (c : CtxNo), s.windowOpen = true → (s.ctx c).resetting = false → (s.ctx c).state = .parked →
      ∃ t, exec (.resume c) s = .next t ∧ (t.ctx c).state = .running ∧ (t.ctx c).fault = none
        ∧ (∀ d, d ≠ c → t.ctx d = s.ctx d) ∧ SameMem s t
        ∧ (∀ i v seen n timed, PhaseAt s c i (.running (.waitCounter v seen n false timed)) →
            PhaseAt t c i (.running (.waitCounter v seen 0 false false)))
        ∧ (∀ i v seen n timed, PhaseAt s c i (.running (.waitCounter v seen n true timed)) →
            PhaseAt t c i (.finished { Reply.ok with result0 := v.setWidth 32, result1 := (v.ushiftRight 32).setWidth 32 }))
        ∧ (∀ f, (s.ctx c).fault = some f → f.guard = false → s.needOk c f = false → s.walks.length < 8 →
            ∃ w ∈ t.walks, w.page = pageOf f.vaddr ∧ w.ctx = c))
  ∧ (∀ (s : State) (c : CtxNo) (i : Nat) (m : Cmd), s.windowOpen = true → (s.ctx c).resetting = false → (s.ctx c).state = .parked →
      (s.ctx c).parkCause ≠ 2 → (s.ctx c).abortTarget = some (i, m) → (s.ctx c).cmds[i]? = some m →
      (∀ v seen n ok timed, m.phase = .running (.waitCounter v seen n ok timed) →
        ∃ t, exec (.abort c) s = .next t ∧ (t.ctx c).state = .running ∧ (t.ctx c).fault = none ∧ SameMem s t
          ∧ (∀ d, d ≠ c → t.ctx d = s.ctx d)
          ∧ PhaseAt t c i (.finished { Reply.of (if timed then stBarrierTimeout else stPageFault) with
              result0 := v.setWidth 32, result1 := (v.ushiftRight 32).setWidth 32 }))
      ∧ (∀ row, m.op = 0x06 → m.phase = .running (.zeroTensor row) →
        ∃ t, exec (.abort c) s = .next t ∧ (t.ctx c).state = .running ∧ (t.ctx c).fault = none ∧ SameMem s t
          ∧ (∀ d, d ≠ c → t.ctx d = s.ctx d) ∧ PhaseAt t c i (.finished (.of stPageFault))))

/-- R207: RESET is accepted in every context state: the context is being reset, its slice ends, and its units that have not started
are given up with their walks, waits, staging and channels; CONTEXT_RESET_COMPLETE, once no request of the context is in flight and
its journal's header page has been looked up, leaves it DISABLED with its indices, sequence numbers, commands, held records, task
and error bits cleared. -/
def Obligations.ContextResetClearsContext : Prop :=
  ∀ (s : State) (c : CtxNo),
    (s.windowOpen = true → (s.ctx c).resetting = false →
      ∃ t, exec (.reset c) s = .next t ∧ (t.ctx c).resetting = true ∧ (t.ctx c).fault = none ∧ (t.ctx c).stream = none
        ∧ (t.ctx c).wantUnit = none ∧ (t.ctx c).wantPage = none ∧ (t.ctx c).xlats = []
        ∧ (∀ r, t.lane.slice = some r → r.ctx ≠ c) ∧ (∀ w ∈ t.walks, w.ctx ≠ c) ∧ (∀ w ∈ t.waits, w.ctx ≠ c)
        ∧ (∀ p ∈ t.staging, p.2 = benchUser ∨ p.2 % 8 ≠ c.val) ∧ (∀ p ∈ t.dovetail, p.1 ≠ c))
    ∧ ((s.ctx c).resetting = true → s.pow.state = .running → s.reqs.all (fun r => r.ctx != c) = true → (s.headerLookup c).1 = true →
      ∃ t, exec (.contextResetComplete c) s = .next t ∧ (t.ctx c).state = .disabled ∧ (t.ctx c).resetting = false
        ∧ (t.ctx c).cmdHead = 0 ∧ (t.ctx c).cplTail = 0 ∧ (t.ctx c).expSeq = 0 ∧ (t.ctx c).eventSeq = 0 ∧ (t.ctx c).lost = 0
        ∧ (t.ctx c).cmds = [] ∧ (t.ctx c).held = [] ∧ (t.ctx c).task = none ∧ (t.ctx c).adj = 0 ∧ (t.ctx c).ringFault = false
        ∧ (t.ctx c).doorbellErr = false ∧ (t.ctx c).cfgErr = false ∧ (t.ctx c).ctrlIgn = false ∧ (t.ctx c).headErr = false)

/-! ### Translation invalidations (R153, R365) -/

/-- R365, R363: a TLB_INVAL write is accepted while fewer than 16 invalidations are outstanding; it advances INVAL_REQ and drops the
pages it names from the TLB; one that finds 16 outstanding changes nothing but the lower half as last written.
R153, R365: the oldest invalidation completes once no request in flight and no commit unit uses a translation it names;
INVAL_DONE advances and the pages it names are gone. -/
def Obligations.InvalidationsInOrder : Prop :=
  (∀ (s : State) (page : BitVec 32), s.windowOpen = true →
      (s.invals.length < 16 →
        exec .tlbInvalAll s = .next { s with
          invals := s.invals ++ [⟨true, 0⟩], invalReq := s.invalReq + 1, tlb := [], eng := { s.eng with invalLo := 1 } }
        ∧ exec (.tlbInvalPage page) s = .next { s with
            invals := s.invals ++ [⟨false, page.toNat⟩], invalReq := s.invalReq + 1
            tlb := s.tlb.filter (fun p => p.page != page.toNat), eng := { s.eng with invalLo := page.extractLsb' 0 16 ++ 0#16 } })
      ∧ (16 ≤ s.invals.length →
        exec .tlbInvalAll s = .next { s with eng := { s.eng with invalLo := 1 } }
        ∧ exec (.tlbInvalPage page) s = .next { s with eng := { s.eng with invalLo := page.extractLsb' 0 16 ++ 0#16 } }))
  ∧ (∀ (s : State) (v : Inval) (rest : List Inval), s.alive = true → s.invals = v :: rest →
      (∀ r ∈ s.reqs, v.names r.page = false) → (∀ c : CtxNo, ∀ p ∈ (s.ctx c).xlats, v.names p.1 = false) →
      ∃ t, exec .invalidationComplete s = .next t ∧ t = { s with invals := rest, invalDone := s.invalDone + 1, tlb := t.tlb }
        ∧ ∀ p, p ∈ t.tlb ↔ p ∈ s.tlb ∧ v.names p.page = false)

/-! ### Register writes (R5, R11, R361, R363) -/

/-- R5, R11: a write that is not an aligned 32-bit or 64-bit one is ignored, and a 32-bit write to a register that a named
command writes is that command: CTX_CFG, CTX_CTRL, CMD_TAIL, CPL_HEAD and CTX_CLEAR of a context block, CNT_CLEAR, JOB_RELEASE, LOG_CTL,
LOG_RD_IDX and LOG_SUMMARY. R363: the upper half of TLB_INVAL acts with the lower half as last written, and a 64-bit write is the two halves.
R202, R366: CMD_BASE and CPL_BASE are written half by half while the context is DISABLED, and set CFG_ERR elsewhere; CTX_STATUS clears
CTRL_IGN and HEAD_ERR where 1 is written. R364, R369: the clears of CNT_CLEAR, CTX_CLEAR and LOG_CTL wait for the end of the EC.
R362: before READY, in FATAL and in RETAIN the window ignores every write outside the log registers, and where those are closed too, every
write at all. -/
def Obligations.RegisterWrites : Prop :=
  (∀ (s : State) (c : CtxNo) (v : BitVec 64) (ofs : BitVec 12) (width : Nat),
      let w : Word := v.setWidth 32
      let at_ (k : Nat) : BitVec 12 := BitVec.ofNat 12 (0x200 + 0x80 * c.val + k)
      let put (a : LateAct) : State := { s with eng := { s.eng with late := s.eng.late ++ [a] } }
      ((width ≠ 32 ∧ width ≠ 64) ∨ ofs.toNat % 4 ≠ 0 ∨ (width = 64 ∧ ofs.toNat % 8 ≠ 0) → exec (.registerWrite ofs width v) s = .next s)
      ∧ exec (.registerWrite (at_ 0x00) 32 v) s = exec (.ctxCfg c w) s
      ∧ exec (.registerWrite (at_ 0x24) 32 v) s = exec (.doorbell c w) s
      ∧ exec (.registerWrite (at_ 0x2C) 32 v) s = exec (.cplHead c w) s
      ∧ exec (.registerWrite (at_ 0x04) 32 1) s = exec (.enable c) s
      ∧ exec (.registerWrite (at_ 0x04) 32 2) s = exec (.resume c) s
      ∧ exec (.registerWrite (at_ 0x04) 32 3) s = exec (.abort c) s
      ∧ exec (.registerWrite (at_ 0x04) 32 4) s = exec (.reset c) s
      ∧ exec (.registerWrite (at_ 0x44) 32 1) s = exec (.clearOobSilent c) s
      ∧ exec (.registerWrite (at_ 0x44) 32 2) s = exec (.clearIdx c) s
      ∧ exec (.registerWrite (at_ 0x44) 32 4) s = exec (.clearSched c) s
      ∧ (∀ p ∈ [(1#64, Instr.clearStall), (2, .clearMac), (4, .clearEnergy), (8, .clearIdle), (16, .clearMisc), (32, .clearTempMax),
          (64, .clearReduce), (128, .clearTick)], exec (.registerWrite 0x024 32 p.1) s = exec p.2 s)
      ∧ exec (.registerWrite 0x028 32 v) s = exec (.jobRelease w) s
      ∧ exec (.registerWrite 0x190 32 v) s = exec (.logSummary w) s
      ∧ exec (.registerWrite 0x188 32 v) s = exec (.logRdIdx w) s
      ∧ (s.windowOpen = true →
          exec (.registerWrite 0x020 32 v) s = .next { s with eng := { s.eng with doorbellStop := bitAt v 0 } }
          ∧ exec (.registerWrite 0x02C 32 v) s = .next { s with eng := { s.eng with tempExc := v.setWidth 16 } }
          ∧ exec (.registerWrite 0x024 32 v) s = .next (put (.counters w))
          ∧ exec (.registerWrite 0x030 32 v) s = .next { s with eng := { s.eng with invalLo := w } }
          ∧ exec (.registerWrite 0x034 32 v) s = .next (s.invalidate (invalOf (w ++ s.eng.invalLo)))
          ∧ exec (.registerWrite 0x030 64 v) s = .next (State.invalidate { s with eng := { s.eng with invalLo := w } } (invalOf v))
          ∧ ((s.ctx c).resetting = false →
            exec (.registerWrite (at_ 0x44) 32 v) s = .next (put (.context c w))
            ∧ (∃ t, exec (.registerWrite (at_ 0x08) 32 v) s = .next t ∧ OnlyCtx c s t ∧ t.ctx c = { s.ctx c with
                ctrlIgn := (s.ctx c).ctrlIgn && !bitAt v 6, headErr := (s.ctx c).headErr && !bitAt v 7 })
            ∧ (∃ t, exec (.registerWrite (at_ 0x10) 64 v) s = .next t ∧ OnlyCtx c s t ∧ t.ctx c =
                if (s.ctx c).state = .disabled then { s.ctx c with cmdBase := v.setWidth 48 } else { s.ctx c with cfgErr := true })
            ∧ (∃ t, exec (.registerWrite (at_ 0x10) 32 v) s = .next t ∧ OnlyCtx c s t ∧ t.ctx c =
                if (s.ctx c).state = .disabled then { s.ctx c with cmdBase := (s.ctx c).cmdBase.extractLsb' 32 16 ++ w }
                else { s.ctx c with cfgErr := true })
            ∧ (∃ t, exec (.registerWrite (at_ 0x18) 64 v) s = .next t ∧ OnlyCtx c s t ∧ t.ctx c =
                if (s.ctx c).state = .disabled then { s.ctx c with cplBase := v.setWidth 48 } else { s.ctx c with cfgErr := true })
            ∧ ∃ t, exec (.registerWrite (at_ 0x18) 32 v) s = .next t ∧ OnlyCtx c s t ∧ t.ctx c =
                if (s.ctx c).state = .disabled then { s.ctx c with cplBase := (s.ctx c).cplBase.extractLsb' 32 16 ++ w }
                else { s.ctx c with cfgErr := true }))
      ∧ (s.logOpen = true → bitAt v 8 = false → bitAt v 16 = false →
          exec (.registerWrite 0x180 32 v) s = .next { s with log := { s.log with firstSev := v.extractLsb' 0 2 } })
      ∧ (s.logOpen = true → bitAt v 8 = true → bitAt v 16 = true →
          exec (.registerWrite 0x180 32 v) s = .next { s with
            log := { s.log with firstSev := v.extractLsb' 0 2 }, eng := { s.eng with late := s.eng.late ++ [.rearm, .lost] } }))
  ∧ (∀ (s : State) (c : CtxNo) (v : Word) (page : BitVec 32) (ofs : BitVec 12) (width : Nat) (x : BitVec 64), s.windowOpen = false →
      (∀ i ∈ [Instr.doorbell c v, .cplHead c v, .ctxCfg c v, .enable c, .resume c, .abort c, .reset c, .clearStall, .clearMac,
        .clearEnergy, .clearIdle, .clearMisc, .clearTempMax, .clearReduce, .clearTick, .clearOobSilent c, .clearIdx c,
        .clearSched c, .tlbInvalAll, .tlbInvalPage page, .jobRelease v], exec i s = .next s)
      ∧ (ofs.toNat < 0x180 ∨ 0x194 ≤ ofs.toNat → exec (.registerWrite ofs width x) s = .next s)
      ∧ (s.logOpen = false → exec (.registerWrite ofs width x) s = .next s
        ∧ ∀ i ∈ [Instr.firstValid, .clearLost, .logSummary v, .logRdIdx v], exec i s = .next s))

/-! ### Management services (R332 to R338, R347, R348) -/

/-- R347, R335, R348: a secure write to a staging word replaces that word of its staging, POSITION is written until start-up has
read it, ALERT and COMMIT_ERR are cleared by writing 1, and read-only and unlisted words ignore writes. Which bits ALERT and
COMMIT_ERR use is the model's choice (log 40).
R335, R336, R348: REGION_COMMIT writes the staged entry at its index and leaves every other entry; a staged entry with a
nonzero reserved bit or with its first byte above its last, or an index beyond 255, sets COMMIT_ERR and changes nothing else.
R259, R348: GROUP_COMMIT writes the staged group entry at its index.
R347: a write to a service that only secure firmware may write, made by anything else, is refused: it changes nothing but
MGMT_DENIED, which it advances, and the error log; so is a write to a read-only or unlisted word of those services. -/
def Obligations.StagingWordsAndRegions : Prop :=
  (∀ (s : State) (v : Word) (k4 : Fin 4) (k8 : Fin 8) (off : BitVec 16), s.pow.state = .running →
      exec (.managementWrite (.regionStage k4) true v) s =
        .next { s with mgmt := { s.mgmt with region := setFld s.mgmt.region (32 * k4.val) 32 v.toNat } }
      ∧ exec (.managementWrite (.groupStage k8) true v) s =
        .next { s with mgmt := { s.mgmt with group := setFld s.mgmt.group (32 * k8.val) 32 v.toNat } }
      ∧ exec (.managementWrite (.keyStage k8) true v) s =
        .next { s with mgmt := { s.mgmt with key := setFld s.mgmt.key (32 * k8.val) 32 v.toNat } }
      ∧ (s.eng.step.toNat ≤ 4 → exec (.managementWrite .position true v) s =
          .next { s with mgmt := { s.mgmt with position := v.setWidth 15 } })
      ∧ (4 < s.eng.step.toNat → exec (.managementWrite .position true v) s = .next s)
      ∧ exec (.managementWrite .commitErr true v) s =
        .next { s with mgmt := { s.mgmt with commitErr := s.mgmt.commitErr && !bitAt v 0 } }
      ∧ exec (.managementWrite .alert true v) s = .next { s with mgmt := { s.mgmt with
          alertFatal := s.mgmt.alertFatal && !bitAt v 0, alertAuth := s.mgmt.alertAuth && !bitAt v 1
          alertPower := s.mgmt.alertPower && !bitAt v 2 } }
      ∧ exec (.managementWrite (.readOnly off) true v) s = .next s ∧ exec (.managementWrite (.unlisted off) true v) s = .next s
      ∧ (off.toNat < 0x3000 ∨ 0x33FF < off.toNat → exec (.managementWrite (.readOnly off) false v) s = .next s
        ∧ exec (.managementWrite (.unlisted off) false v) s = .next s))
  ∧ (∀ (s : State) (v : Word), s.pow.state = .running → Tbl.wf 0 s.regions = true →
      (v.toNat < 256 ∧ fld s.mgmt.region 48 16 = 0 ∧ fld s.mgmt.region 115 5 = 0 ∧ fld s.mgmt.region 0 48 ≤ fld s.mgmt.region 64 48 →
        ∃ t, exec (.regionCommit true v) s = .next t ∧ t = { s with regions := t.regions }
          ∧ ∀ k, Tbl.get 0 t.regions k = if k = v.toNat then s.mgmt.region else Tbl.get 0 s.regions k)
      ∧ (¬ (v.toNat < 256 ∧ fld s.mgmt.region 48 16 = 0 ∧ fld s.mgmt.region 115 5 = 0 ∧ fld s.mgmt.region 0 48 ≤ fld s.mgmt.region 64 48) →
        exec (.regionCommit true v) s = .next { s with mgmt := { s.mgmt with commitErr := true } }))
  ∧ (∀ (s : State) (i : Fin 16), s.pow.state = .running →
      (groupReservedOk s.mgmt.group = true → exec (.groupCommit true (BitVec.ofNat 32 i.val)) s =
        .next { s with groups := s.groups.set i.val s.mgmt.group i.isLt })
      ∧ (groupReservedOk s.mgmt.group = false → exec (.groupCommit true (BitVec.ofNat 32 i.val)) s =
        .next { s with mgmt := { s.mgmt with commitErr := true } }))
  ∧ (∀ (s : State) (c : CtxNo) (v : Word) (k4 : Fin 4) (k8 : Fin 8) (off : BitVec 16), s.pow.state = .running →
      0x3000 ≤ off.toNat → off.toNat ≤ 0x33FF →
      ∀ i ∈ [Instr.bindingWordWrite c false v, .keyCommit false v, .regionCommit false v, .groupCommit false v,
        .managementWrite .position false v, .managementWrite (.regionStage k4) false v,
        .managementWrite (.groupStage k8) false v, .managementWrite (.keyStage k8) false v, .managementWrite (.readOnly off) false v,
        .managementWrite (.unlisted off) false v],
        ∃ t, exec i s = .next t ∧ t = { s with tel := t.tel, log := t.log }
          ∧ t.tel = { s.tel with mgmtDenied := satAdd s.tel.mgmtDenied 1 })

/-- R332: a binding word is written only while its context is DISABLED; it binds the context to the key slot of KEY_INDEX. At any
other time the write is refused and counted in MGMT_DENIED.
R333, R348: KEY_COMMIT of slot i latches the staged key, and KEY_WRITE_EFFECT writes it into slot i and no other. An index
beyond the last slot sets COMMIT_ERR and latches nothing. -/
def Obligations.KeysAndBindings : Prop :=
  (∀ (s : State) (c : CtxNo) (v : Word), s.pow.state = .running →
      ((s.ctx c).state = .disabled →
        ∃ t, exec (.bindingWordWrite c true v) s = .next t ∧ OnlyCtx c s t
          ∧ t.ctx c = { s.ctx c with key := ⟨fld v 0 4, Nat.mod_lt _ (by decide)⟩, bound := bitAt v 4 })
      ∧ ((s.ctx c).state ≠ .disabled →
        ∃ t, exec (.bindingWordWrite c true v) s = .next t ∧ t = { s with tel := t.tel, log := t.log }
          ∧ t.tel = { s.tel with mgmtDenied := satAdd s.tel.mgmtDenied 1 }))
  ∧ (∀ (s : State) (i : Fin 16) (v : Word), s.pow.state = .running → s.sec.pendKey = none →
      exec (.keyCommit true (BitVec.ofNat 32 i.val)) s = .next { s with sec := { s.sec with pendKey := some (i, s.mgmt.key) } }
      ∧ exec .keyWriteEffect { s with sec := { s.sec with pendKey := some (i, s.mgmt.key) } }
        = .next { s with sec := { s.sec with keys := s.sec.keys.set i.val (some s.mgmt.key) i.isLt } }
      ∧ (16 ≤ v.toNat → exec (.keyCommit true v) s = .next { s with mgmt := { s.mgmt with commitErr := true } }))

/-- R334: secure firmware writes EXPORT_SEQ while no export has been made since reset; after the first export, and from anything but
secure firmware, a write is ignored and advances MGMT_DENIED. After reset no export has been made. -/
def Obligations.ExportSeqBeforeFirstExport : Prop :=
  State.reset.sec.exported = false
  ∧ ∀ (s : State) (secure : Bool) (v : BitVec 64), s.pow.state = .running →
      (secure = true → s.sec.exported = false → exec (.exportSeq secure v) s = .next { s with sec := { s.sec with exportSeq := v } })
      ∧ (secure = false ∨ s.sec.exported = true →
        ∃ t, exec (.exportSeq secure v) s = .next t ∧ t = { s with tel := t.tel, log := t.log }
          ∧ t.tel = { s.tel with mgmtDenied := satAdd s.tel.mgmtDenied 1 })

/-- R338: SVN_COMMIT raises the number of blown FW_SVN bits to the running image's SVN and never lowers it; afterwards no image with a
lower SVN passes verification. -/
def Obligations.SvnCommitBlowsFuses : Prop :=
  ∀ s : State, s.pow.state = .running →
    ∃ t, exec (.svnCommit true) s = .next t ∧ t = { s with eng := { s.eng with fwSvn := t.eng.fwSvn } }
      ∧ (s.eng.fwSvn ≤ s.eng.svn → t.eng.fwSvn = s.eng.svn) ∧ (s.eng.svn ≤ s.eng.fwSvn → t.eng.fwSvn = s.eng.fwSvn)
      ∧ (∀ u : State, u.eng.fwSvn = t.eng.fwSvn → fld u.jexloHeader 64 8 < s.eng.svn → u.imageCheck ≠ 0)
      ∧ ∃ u, exec (.svnCommit false) s = .next u ∧ u.eng = s.eng

/-- R331: no read of the control window depends on a key: two states that differ only in their key slots and in the staged and
pending keys read alike at every offset and width. -/
def Obligations.WindowReadsHideKeys : Prop :=
  ∀ (s : State) (keys : Vector (Option (BitVec 256)) 16) (p : Option (Fin 16 × BitVec 256)) (k : BitVec 256) (ofs width : Nat),
    ({ s with sec := { s.sec with keys := keys, pendKey := p }, mgmt := { s.mgmt with key := k } } : State).readReg ofs width
      = s.readReg ofs width

/-! ### Power states (R304, R305, R309) -/

/-- R305: RETAIN_REQUEST is refused while a job context is ACTIVE, and the Power service holds the request (R348); otherwise no new slice is
admitted from then on, and wakes and mode changes that have not begun are dropped (log 41, DEDUCED). R305: RETAIN_EXIT asks for a token for
the exit ramp, and after that ramp the engine runs and waits for an edge. R304: OFF_REQUEST is taken in any state; memory and the blown
fuses stay, and R349's power alert is raised (log 41).
R307, R308, R309: when a ramp's EC have passed, a wake leaves exactly its lane groups awake beside those that were, a release leaves
them released, a mode change, which begins once the beats of the old mode are out, leaves the new mode, and the token is returned with RET
while REQ falls. Before that nothing happens. R13, R305: the entry to RETAIN keeps the Clamp, the tables and the counters; that it empties
the TLB, the walks, the key slots and the region table is the model's reading (log 41, DEDUCED). -/
def Obligations.PowerStatesAndRamps : Prop :=
  (∀ s : State,
      (s.pow.state = .running → s.pow.retaining = false → s.jobActive = true →
        exec .retainRequest s = .next { s with mgmt := { s.mgmt with powerReq := .retain, powerOk := false } })
      ∧ (s.pow.state = .running → s.pow.retaining = false → s.jobActive = false →
        ∃ t, exec .retainRequest s = .next t ∧ t = { s with pow := t.pow, mgmt := { s.mgmt with powerReq := .retain } }
          ∧ t.pow.retaining = true ∧ t.pow.state = .running ∧ t.pow.awake = s.pow.awake
          ∧ (∀ r ∈ t.pow.want, r.isMode = false ∧ r.wakes = []) ∧ ∀ c : CtxNo, t.active c = false)
      ∧ (s.pow.state = .retain → s.pow.ramp = none → s.pow.want = [] → s.pow.ret = false →
        exec .retainExit s = .next { s with
          pow := { s.pow with want := [.retainOut], req := true, reqSince := if s.pow.req then s.pow.reqSince else s.now }
          mgmt := { s.mgmt with powerReq := .running } })
      ∧ ∃ t, exec .offRequest s = .next t ∧ t.pow.state = .off ∧ SameMem s t ∧ t.pending = s.pending ∧ t.eng.fwSvn = s.eng.fwSvn
          ∧ t.mgmt.alertPower = true ∧ t.mgmt.powerReq = .off ∧ t.ctxs = State.reset.ctxs ∧ t.slots = State.reset.slots ∧ t.descs = []
          ∧ t.tlb = [] ∧ t.sec = State.reset.sec ∧ t.regions = [] ∧ t.log = State.reset.log ∧ t.tel = State.reset.tel)
  ∧ (∀ (s : State) (gs : List (Fin 16)) (e : Bool) (g : Fin 16), s.pow.retaining = false →
      (s.pow.ramp = some (.wake gs) → s.pow.rampStart + s.rampEc (.wake gs) ≤ s.now →
        ∃ t, exec .rampComplete s = .next t ∧ t = { s with pow := t.pow } ∧ t.pow.held = false ∧ t.pow.ramp = none
          ∧ t.pow.ret = true ∧ t.pow.req = false ∧ (t.pow.awake.get g = true ↔ g ∈ gs ∨ s.pow.awake.get g = true))
      ∧ (s.pow.ramp = some (.release gs) → s.pow.rampStart + s.rampEc (.release gs) ≤ s.now →
        ∃ t, exec .rampComplete s = .next t ∧ t = { s with pow := t.pow } ∧ t.pow.held = false ∧ t.pow.ramp = none
          ∧ t.pow.ret = true ∧ t.pow.req = false ∧ (t.pow.awake.get g = true ↔ g ∉ gs ∧ s.pow.awake.get g = true))
      ∧ (s.pow.ramp = some (.mode e) → s.pow.rampStart + s.rampEc (.mode e) ≤ s.now →
        (s.lane.beatsOut = false → exec .rampComplete s = .next s)
        ∧ (s.lane.beatsOut = true →
          ∃ t, exec .rampComplete s = .next t ∧ t = { s with pow := t.pow } ∧ t.pow.held = false ∧ t.pow.ramp = none ∧ t.pow.eight = e
            ∧ t.pow.ret = true ∧ t.pow.req = false ∧ t.pow.awake = s.pow.awake))
      ∧ (s.pow.ramp = some .retainOut → s.pow.rampStart + s.rampEc .retainOut ≤ s.now →
        ∃ t, exec .rampComplete s = .next t ∧ t = { s with pow := t.pow, tick := t.tick, mgmt := t.mgmt } ∧ t.pow.state = .running
          ∧ t.pow.held = false ∧ t.pow.ret = true ∧ t.tick = { s.tick with waitEdge := true, due := none, last := s.now }
          ∧ t.mgmt = { s.mgmt with powerOk := true, alertPower := true })
      ∧ (∀ r, s.pow.ramp = some r → s.now < s.pow.rampStart + s.rampEc r → exec .rampComplete s = .next s))
  ∧ (∀ s : State, s.pow.ramp = some .retainIn → s.pow.rampStart + s.rampEc .retainIn ≤ s.now →
      ∃ t, exec .rampComplete s = .next t ∧ t.pow.state = .retain ∧ t.pow.held = false ∧ SameMem s t ∧ t.slots = s.slots
        ∧ t.descs = s.descs ∧ t.fmts = s.fmts ∧ t.rts = s.rts ∧ t.groups = s.groups ∧ t.log = s.endEc.log ∧ t.tel = s.endEc.tel
        ∧ t.tlb = [] ∧ t.walks = [] ∧ t.reqs = [] ∧ t.regions = [] ∧ ∀ k : Fin 16, t.sec.keys.get k = none)

/-- R309: GNT with the request up and the token not held starts the oldest ramp that is still wanted, under a newly loaded ramp table if
there is one (R310); with none still wanted the token goes back at once (the model's choice, log 73); GNT at any other time is ignored. A wake of groups
that are awake by then is not wanted any more, nor a release of a group that has taken a beat since (R306, R308).
R308: a lane group that has had no beat for RELEASE_DWELL EC asks for a release, in one ramp with the groups whose release is wanted
already; R309: a wait for a token that has lasted 1,000 ticks writes one POWER entry, and one only. -/
def Obligations.TokensAndReleases : Prop :=
  (∀ (s : State) (r : Ramp) (rest : List Ramp),
      (s.pow.req = true → s.pow.held = false → s.pow.want.filterMap s.stillWanted = r :: rest →
        exec .gnt s = .next { s with
          rampTab := s.rampNext.getD s.rampTab, rampNext := none
          pow := { s.pow with held := true, want := rest, ramp := some r, rampStart := s.now, waitTicks := 0, waitLogged := false } })
      ∧ (s.pow.req = true → s.pow.held = false → s.pow.want.filterMap s.stillWanted = [] →
        ∃ t, exec .gnt s = .next t ∧ t = { s with pow := t.pow } ∧ t.pow.held = false ∧ t.pow.req = false ∧ t.pow.ret = true
          ∧ t.pow.want = [] ∧ t.pow.ramp = none ∧ t.pow.awake = s.pow.awake)
      ∧ (s.pow.req = false ∨ s.pow.held = true → exec .gnt s = .next s))
  ∧ (∀ (s : State) (g : Fin 16) (gs : List (Fin 16)),
      (s.stillWanted (.wake gs) = none ↔ ∀ h ∈ gs, s.pow.awake.get h = true)
      ∧ (s.stillWanted (.release gs) = none ↔ ∀ h ∈ gs, s.pow.awake.get h = true → s.now < s.pow.lastBeat.get h + s.dwell)
      ∧ (s.up = true → s.pow.awake.get g = true → s.pow.lastBeat.get g + s.dwell ≤ s.now → s.pow.want = [] → s.pow.ramp = none →
        s.pow.ret = false →
        exec (.laneGroupRelease g) s = .next { s with pow := { s.pow with
          want := [.release [g]], req := true, reqSince := if s.pow.req then s.pow.reqSince else s.now } })
      ∧ (s.up = true → s.pow.awake.get g = true → s.pow.lastBeat.get g + s.dwell ≤ s.now → s.pow.want = [.release gs] → g ∉ gs →
        s.pow.ramp = none →
        ∃ l, exec (.laneGroupRelease g) s = .next { s with pow := { s.pow with want := [.release l] } } ∧ ∀ h, h ∈ l ↔ h = g ∨ h ∈ gs)
      ∧ (s.pow.awake.get g = true → s.now < s.pow.lastBeat.get g + s.dwell → exec (.laneGroupRelease g) s = .next s)
      ∧ (s.pow.state = .running → s.pow.req = true → s.pow.held = false → s.pow.waitLogged = false → 1000 ≤ s.pow.waitTicks →
        ∃ t, exec .power s = .next t ∧ t.pow = { s.pow with waitLogged := true } ∧ t = { s with pow := t.pow, log := t.log }
          ∧ t.log = s.logNext 0x0A 0 0xB none (BitVec.ofNat 64 s.pow.waitTicks) 0 ∧ t.log.summary = setFld s.log.summary 0xA 1 1
          ∧ exec .power t = .next t))

/-! ### Debug port (R339 to R341) -/

/-- R340: a challenge draws a fresh nonce from the random source (a free value, log 4) and shifts it out with UNIQUE_ID; R341: a
port that refuses challenges does nothing; a response waits; LOCK returns the port to LOCKED.
R340, R341: a response that verifies opens the port at its level, FULL only after every key slot has been emptied and the
sticky bit set; one that does not verify opens nothing and counts, and the third in a row makes the port refuse challenges. -/
def Obligations.DebugPortOpens : Prop :=
  (∀ (s : State) (level : Byte) (key : BitVec 776) (r q : BitVec 384), s.pow.state ≠ .off →
      (s.sec.refuses = false → exec .dbgChallenge s = .next { s with
        free := s.free + 1
        sec := { s.sec with nonce := some (Config.random s.free), shifted := s.sec.shifted ++ [(Config.random s.free, Config.uniqueId)] } })
      ∧ (s.sec.refuses = true → exec .dbgChallenge s = .next s)
      ∧ exec (.dbgResponse level key r q) s = .next { s with sec := { s.sec with response := some (level, key, r, q) } }
      ∧ exec .lock s = .next { s with sec := { s.sec with dbg := .locked } })
  ∧ (∀ (s : State) (level : Byte) (key : BitVec 776) (r q : BitVec 384), s.alive = true → s.sec.response = some (level, key, r, q) →
      (responseOk s.sec.nonce level key r q = true → level = 2 →
        ∃ t, exec .dbgResponseVerified s = .next t ∧ t.sec.dbg = .full ∧ t.sec.dbgFull = true ∧ t.sec.failures = 0
          ∧ (∀ k : Fin 16, t.sec.keys.get k = none) ∧ t = { s with sec := t.sec, log := t.log })
      ∧ (responseOk s.sec.nonce level key r q = true → level = 1 → s.sec.dbg ≠ .full →
        ∃ t, exec .dbgResponseVerified s = .next t ∧ t.sec = { s.sec with dbg := .observe, failures := 0, response := none }
          ∧ t = { s with sec := t.sec, log := t.log })
      ∧ (responseOk s.sec.nonce level key r q = false →
        ∃ t, exec .dbgResponseVerified s = .next t ∧ t = { s with sec := t.sec, log := t.log }
          ∧ t.sec = { s.sec with response := none, failures := s.sec.failures + 1, refuses := s.sec.refuses || decide (3 ≤ s.sec.failures + 1) }))

/-! ### The tick input and boundaries (R14, R245, R349) -/

/-- R14: in an ordinary run of edges a rising edge from EC 13,860 to 14,139 after the boundary gives a boundary at the next EC, an earlier
one only advances TICK_EARLY, and without an edge the engine takes a local boundary at EC 14,140; while local boundaries run, it takes
them at 14,000 and an edge from 13,860 to 13,999 counts. -/
def Obligations.EdgesAndLocalBoundaries : Prop :=
  ∀ s : State, s.sampled = true → s.tick.due = none → s.tick.waitEdge = false → s.tick.first = false →
    let n := s.now - s.tick.last
    let limit := if s.tick.run then 14000 else 14140
    (13860 ≤ n ∧ n < limit → exec .tickEdge s = .next { s with tick := { s.tick with due := some (false, s.now + 1) } })
    ∧ (n < 13860 → exec .tickEdge s = .next { s with tick := { s.tick with early := satAdd s.tick.early 1 } })
    ∧ (n < limit → exec .localBoundary s = .next s)
    ∧ (limit ≤ n → ∃ t, exec .localBoundary s = .next t ∧ t = { s with tick := t.tick, log := t.log }
        ∧ t.tick = { s.tick with localCount := satAdd s.tick.localCount 1, run := true, due := some (true, s.tick.last + limit) }
        ∧ (s.tick.run = true → t.log = s.log))

/-- R245, R349, R346: a boundary that is due, once its EC has come, advances TICK and the heartbeat word with it, restarts the count of EC
from its EC, takes the lane groups' temperatures, counts the boundary of a WAIT whose first unsatisfied read was in an earlier EC
(R190), and stores nothing; without one due, or before its EC, nothing happens. -/
def Obligations.BoundaryDuties : Prop :=
  ∀ (s : State) (temps : Vector (BitVec 16) 16),
    (s.tick.due = none → exec (.tickBoundary temps) s = .next s)
    ∧ ∀ byClock at_, s.sampled = true → s.tick.due = some (byClock, at_) →
      (s.now < at_ → exec (.tickBoundary temps) s = .next s)
      ∧ (at_ ≤ s.now → ∃ t, exec (.tickBoundary temps) s = .next t ∧ t.tick.count = s.tick.count + 1 ∧ t.tick.last = at_
        ∧ t.tick.due = none ∧ t.tick.lastLocal = byClock ∧ t.mgmt.heartbeat = s.tick.count + 1 ∧ t.pow.temp = temps ∧ SameMem s t
        ∧ (∀ c i v u n ok timed, PhaseAt s c i (.running (.waitCounter v (some u) n ok timed)) →
            PhaseAt t c i (.running (.waitCounter v (some u) (if u < at_ then n + 1 else n) ok timed))))

/-! ### Start-up (R351, R353 to R359, R337, R8) -/

/-- R351: leaving OFF begins step 0x1 and asks for the start-up ramp's token; R351, R357: the report is written and the engine is
READY after step 0x6; R8: a legal POSITION is latched at step 0x4 and probing begins, an illegal one stops the engine.
R353: at READY every key slot is empty, every region, group and format entry is invalid, and the ramp and risk tables are those of reset.
R351, R359: the training window ends 16 ms (22,400,000 EC) after step 0x5 began, and step 0x6 follows; that it ends at once when every
channel is trained is the model's reading (log 43, DEDUCED); otherwise nothing happens.
R337: an image that passes every check is taken and start-up goes on to step 0x4 with its version and SVN; one that fails check n
stops the engine with FW_AUTH and raises ALERT. -/
def Obligations.StartupSequence : Prop :=
  ((∀ s : State,
        (s.pow.state = .off → s.pow.ramp = none → s.pow.want = [] → s.pow.ret = false →
          ∃ t, exec .resetRelease s = .next t ∧ t.eng.step = 1 ∧ t.pow.state = .running ∧ t.pow.want = [.startUp] ∧ t.pow.req = true
            ∧ t = { s with eng := t.eng, pow := t.pow })
        ∧ (s.pow.state = .running → s.eng.step = 6 → ∃ t, exec .neighbourReport s = .next t ∧ t.eng.step = 7
            ∧ t = { s with
                eng := t.eng, mgmt := t.mgmt, sec := { s.sec with keys := Vector.replicate 16 none, pendKey := none }
                regions := [], groups := State.reset.groups, fmts := State.reset.fmts, rampTab := State.reset.rampTab, rampNext := none
                riskTab := State.reset.riskTab }
            ∧ ∀ k : Chan, t.mgmt.reports.get k = (s.train.get k).word)
        ∧ (s.pow.state = .running → s.eng.step = 4 → positionOk s.mgmt.position.toNat = true →
            ∃ t, exec .positionRead s = .next t ∧ t.eng.step = 5 ∧ t.eng.position = s.mgmt.position
              ∧ (∀ k : Chan, (t.train.get k).probing = true) ∧ t = { s with eng := t.eng, train := t.train })
        ∧ (s.pow.state = .running → s.eng.step = 4 → positionOk s.mgmt.position.toNat = false →
            ∃ t, exec .positionRead s = .next t ∧ t.eng.step = 15 ∧ t.eng.fatalClass = 0x10 ∧ t.mgmt.alertFatal = true))
    ∧ (∀ s : State, s.pow.state = .running → s.eng.step = 5 →
        ((∀ k : Chan, (s.train.get k).link = 1) ∨ s.eng.stepStart + 22400000 ≤ s.now →
          ∃ t, exec .trainingWindowEnd s = .next t ∧ t.eng.step = 6 ∧ t = { s with eng := t.eng, log := t.log })
        ∧ ((∃ k : Chan, (s.train.get k).link ≠ 1) → s.now < s.eng.stepStart + 22400000 → exec .trainingWindowEnd s = .next s)))
  ∧ (∀ s : State, s.pow.state = .running → s.eng.step = 3 →
      (s.imageCheck = 0 → ∃ t, exec .imageVerification s = .next t ∧ t = { s with eng := t.eng } ∧ t.eng.step = 4
        ∧ t.eng.jexloVer = s.jexloHeader.extractLsb' 32 32 ∧ t.eng.svn = fld s.jexloHeader 64 8 ∧ t.eng.fwSvn = s.eng.fwSvn)
      ∧ (s.imageCheck ≠ 0 → ∃ t, exec .imageVerification s = .next t ∧ t.eng.step = 15 ∧ t.eng.fatalClass = 0x0C
        ∧ t.mgmt.alertAuth = true ∧ t.mgmt.alertFatal = true ∧ t.eng.jexloVer = s.eng.jexloVer ∧ SameMem s t))

/-- R354: a PROBE is answered on its channel with an ACK that carries the sender's STEP, from the end of step 0x1 on.
R355: a probe that is due goes out, and the next is scheduled 0.2, 0.4, 0.8, 1.6 and then 3.2 ms later, after READY always 3.2 ms; R355, R356: an ACK of a
partner at step 0x5 or later names the partner and makes the sender ready; an ACK with STEP 0xF marks it FATAL. -/
def Obligations.ProbesAndAcknowledgements : Prop :=
  (∀ (s : State) (k : Chan), s.pow.state ≠ .off → s.eng.step ≠ 1 →
      ∃ t, exec (.probe k) s = .next t ∧ t.port.out = s.port.out ++ [(k, s.trainPacket 1 s.eng.step.toNat [])] ∧ SameMem s t
        ∧ (∀ d : Chan, d ≠ k → t.train.get d = s.train.get d ∧ t.port.chans.get d = s.port.chans.get d))
  ∧ (∀ (s : State) (k : Chan) (step : BitVec 4) (pos : BitVec 15), s.trains = true →
      ((s.train.get k).link ≠ 1 → (s.train.get k).link ≠ 3 → (s.train.get k).probing = true → (s.train.get k).nextProbe ≤ s.now →
        ∃ t, exec (.probeSend k) s = .next t ∧ t.port.out = s.port.out ++ [(k, s.trainPacket 0 0 [])]
          ∧ (t.train.get k).probes = (s.train.get k).probes + 1
          ∧ (t.train.get k).nextProbe = s.now + (if s.eng.step = 7 then 4480000 else 280000 * 2 ^ min (s.train.get k).probes 4) ∧ (t.train.get k).awaiting = some s.now)
      ∧ ((s.train.get k).link ≠ 1 → 5 ≤ step.toNat → step.toNat < 15 →
        ∃ t, exec (.ack k step pos) s = .next t ∧ (t.train.get k).partner = pos ∧ (t.train.get k).txReady = true
          ∧ (t.train.get k).awaiting = none)
      ∧ ((s.train.get k).link ≠ 1 → step = 15 →
        ∃ t, exec (.ack k step pos) s = .next t ∧ (t.train.get k).partner = pos ∧ (t.train.get k).link = 3 ∧ (t.train.get k).probing = false))

/-- R356: the receiver counts a training DATA packet and checks every element against the pattern, its position and its digest;
a DIGEST after 256 good packets completes its direction and is acknowledged, any other fails it.
R356: 14,000 EC after the first DATA packet without all 256 the receiver's direction fails; R358: a link reported down, or a packet
from a position other than PARTNER, makes a trained channel train again, and RETRAINS advances. That DATA comes in OFFSET order and the form
of its packets are the model's choice (log 44); that a link reads NO_ANSWER while it trains again is its reading (log 43). -/
def Obligations.TrainingChecksData : Prop :=
  (∀ (s : State) (k : Chan) (p : Packet) (pos : BitVec 15) (crc : BitVec 64), s.trains = true → (s.train.get k).link ≠ 1 →
      (p.kind = 4 → p.bucket = 2 → ∃ t, exec (.trainData k p) s = .next t
        ∧ (t.train.get k).rxCount = (s.train.get k).rxCount + 1 ∧ (t.train.get k).rxCrc = crc64 (s.train.get k).rxCrc p.bytes
        ∧ (t.train.get k).rxOk = ((s.train.get k).rxOk && patternOk p p.offset && p.pos == (s.train.get k).partner.toNat
            && p.offset == (s.train.get k).rxCount))
      ∧ ((s.train.get k).rxCount = 256 → (s.train.get k).rxOk = true → pos = (s.train.get k).partner → crc = (s.train.get k).rxCrc →
        ∃ t, exec (.digest k pos crc) s = .next t ∧ (t.train.get k).rxDone = true
          ∧ ((s.train.get k).txDone = true → (t.train.get k).link = 1)
          ∧ t.port.out = s.port.out ++ [(k, s.trainPacket 1 s.eng.step.toNat [])])
      ∧ (¬ ((s.train.get k).rxCount = 256 ∧ (s.train.get k).rxOk = true ∧ pos = (s.train.get k).partner ∧ crc = (s.train.get k).rxCrc) →
        ∃ t, exec (.digest k pos crc) s = .next t ∧ (t.train.get k).link = 2 ∧ (t.train.get k).rxCount = 0))
  ∧ (∀ (s : State) (k : Chan) (p : BitVec 15), s.trains = true →
      ((s.train.get k).rxCount ≠ 0 → (s.train.get k).rxCount < 256 → (s.train.get k).rxStart + 14000 ≤ s.now → (s.train.get k).link ≠ 1 →
        ∃ t, exec (.trainingTimeout k) s = .next t ∧ (t.train.get k).link = 2 ∧ (t.train.get k).rxCount = 0 ∧ SameMem s t)
      ∧ ((s.train.get k).link = 1 →
        (∃ t, exec (.retrain k none) s = .next t ∧ (t.train.get k).link = 0 ∧ (t.train.get k).probing = true
          ∧ (t.train.get k).retrains = satAdd (s.train.get k).retrains 1 ∧ SameMem s t)
        ∧ (p ≠ (s.train.get k).partner →
          ∃ t, exec (.retrain k (some p)) s = .next t ∧ (t.train.get k).link = 0 ∧ (t.train.get k).probing = true
            ∧ (t.train.get k).retrains = satAdd (s.train.get k).retrains 1)
        ∧ exec (.retrain k (some (s.train.get k).partner)) s = .next s))

/-! ### Self-test, repair and risk (R256, R290, R314 to R325, R351) -/

/-- R314 to R316: a fallow slice of an SRAM unit whose items all pass advances that unit's cursor by the items that fit, occupies the
lane bank for 80 EC and the items' EC (the model's reading, log 52) and its staging granules (R164), and ends the count of ticks without a fallow slice. One of lane items whose first lane group is released runs no item yet: it waits, and
holds the lane bank for its budget from then on (R314).
R256: the forced reservation begins in the tick for which the count asked; R290: at the end of a window the level becomes the
table's base plus the points of the four inputs, at most 255, and the counts start again. -/
def Obligations.FallowSlicesAndRisk : Prop :=
  (∀ (s : State) (u : Nat), s.fallowFree = true → s.bist.wake = none → s.fallowUnit = some u → u ≠ 0 → s.bist.forced = false →
      let n := itemsFit u (unitItems u - s.bist.cursor u) (min 1800 s.fallowBudget)
      n ≠ 0 → s.bist.cursor u + n < unitItems u →
      ∃ t, exec (.fallowSlice []) s = .next t ∧ t.bist.cursors = s.bist.cursors.setIfInBounds u (s.bist.cursor u + n)
        ∧ t.bist.busyUntil = s.now + 80 + n * itemEc u ∧ t.bist.dry = 0 ∧ t.bist.full = true ∧ t.log = s.log ∧ SameMem s t
        ∧ t.staging = s.staging ++ (if itemGranules u = 0 then [] else [(itemGranules u, benchUser)])
        ∧ t.slots = s.slots ∧ t.ctxs = s.ctxs)
  ∧ (∀ (s : State) (rs : List ItemResult) (g : Fin 16), s.fallowFree = true → s.bist.wake = none → s.fallowUnit = some 0 →
      0 < itemsFit 0 (unitItems 0 - s.bist.cursor 0) (min 1800 s.fallowBudget) → itemGroup (s.bist.cursor 0) = some g →
      s.pow.awake.get g = false →
      ∃ t, exec (.fallowSlice rs) s = .next t ∧ t = { s with pow := t.pow, bist := t.bist } ∧ t.bist.wake = some s.now
        ∧ t.bist.cursors = s.bist.cursors ∧ t.bist.busyUntil = s.now + min 1800 s.fallowBudget ∧ t.pow.awake = s.pow.awake)
  ∧ (∀ s : State,
      (s.up = true → s.bist.forcedNext = true →
        exec .forcedReservation s = .next { s with bist := { s.bist with forced := true, forcedNext := false } })
      ∧ (s.bist.forcedNext = false → exec .forcedReservation s = .next s)
      ∧ (s.alive = true → windowTicks s.riskTab ≤ s.risk.ticks →
        ∃ t, exec .riskWindowEnd s = .next t ∧ t = { s with risk := t.risk } ∧ t.risk.level.toNat = riskLevel s.riskTab s.risk.counts
          ∧ t.risk.ticks = 0 ∧ ∀ k : Fin 4, t.risk.counts.get k = 0)
      ∧ (s.risk.ticks < windowTicks s.riskTab → exec .riskWindowEnd s = .next s))

/-- R351, R325: a quick BIST without failures goes on to step 0x3; a bad lane of the lower half is mapped to that half's free spare
and start-up goes on; a bad lane with its spare taken stops the engine.
R324: a bank whose remap is due after the boundary, its started work finished, is rewritten into its spare columns: they are mapped
and no longer due, and one REPAIR entry for each is written, with the column, the bank and the tick of the failure (R350). -/
def Obligations.RepairMapsSpares : Prop :=
  (∀ (s : State) (l : Fin 130), s.pow.state = .running → s.eng.step = 2 → s.eng.bistDone = true → l.val < 64 →
      exec (.quickBist [] []) s = .next { s with eng := { s.eng with step := 3, stepStart := s.now } }
      ∧ (s.bist.sl0 = none → s.bist.sl0Bad = false →
        ∃ t, exec (.quickBist [l] []) s = .next t ∧ t.eng.step = 3 ∧ t.bist = { s.bist with sl0 := some l.val } ∧ SameMem s t)
      ∧ (s.bist.sl0 ≠ none → ∃ t, exec (.quickBist [l] []) s = .next t ∧ t.eng.step = 15 ∧ t.bist = s.bist))
  ∧ (∀ (s : State) (unit : BitVec 4) (bank col : Nat) (tick : Word), s.alive = true → s.bankQuiet unit.toNat bank = true →
      s.bist.rewriteDue = [(unit.toNat, bank, col, tick)] → tick ≠ s.tick.count →
      ∃ t, exec (.bankRewrite unit bank) s = .next t ∧ t = { s with bist := t.bist, log := t.log }
        ∧ t.bist = { s.bist with rewriteDue := [], columns := s.bist.columns ++ [(unit.toNat, bank, col)] }
        ∧ t.log = s.logNext 0x05 0 0xE none (BitVec.ofNat 64 (col + bank * 2 ^ 16)) (tick.setWidth 64)
        ∧ t.log.summary = setFld s.log.summary 5 1 1)

/-- R235, R320: a BIST_SLICE of an SRAM unit whose checks pass, whose result area is translated and whose items all pass runs, in its
context's turn (R205), the items that fit one slice and completes with their number, no failure and no margin failure; it writes one
record for each of its items in order, PASS for those that ran and NOT_RUN for the rest, and no other byte. That it holds the lane bank
for its 80 EC and its items' EC, whatever its unit, is the model's reading (log 52, DEDUCED). -/
def Obligations.BistSliceRunsItems : Prop :=
  ∀ (s q : State) (c : CtxNo) (i : Nat) (m : Cmd) (o : Opnd), s.continuing c 0x39 = none → s.starting c 0x39 = some (i, m) →
    (s.ctx c).cmds[i]? = some m → (s.handle c (m.f 144 16)).isSome = true → s.opnd m.fmts (m.f 144 16) 0 = some o →
    m.reservedBad = none → bistBad m o = none → s.noConflict c i m = true → s.bist.wake = none →
    (s.setPhase c i (.running .bist)).bistTurn c m = true → m.f 128 4 ≠ 0 →
    (s.setPhase c i (.running .bist)).openWrites c m.seq [o.acc true false (o.byteSpans 0 (32 * m.f 192 16))] = (true, q) →
    let n := itemsFit (m.f 128 4) (m.f 192 16) 1800
    let record (k : Nat) : BitVec 256 :=
      itemRecord (m.f 128 4) (if k < n then 0 else 3) 0 (m.f 160 32 + k) itemPass s.tick.count
    ∃ t, exec (.bistSlice c []) s = .next t ∧ t.bist.busyUntil = s.now + bistEc m ∧ t.bist.cursors = s.bist.cursors
      ∧ PhaseAt t c i (.finished { Reply.ok with result0 := w32 n, result1 := 0, result2 := 0 })
      ∧ SameMem (q.putArea c (q.refusals c (o.acc true false (o.byteSpans 0 (32 * m.f 192 16)))) o 0
          ((List.range (m.f 192 16)).flatMap (fun k => leBytes 32 (record k).toNat))) t

/-! ### Weight chains (R180 to R188) -/

/-- R181, R236: a CHAIN_SETUP whose image passes the checks takes the lowest-numbered released entry, owned by its context with no
detaches, and replies with its number; with all four taken it replies CHAIN_BUSY; an image that fails a check is refused by the field.
With VALID 0 it releases the entry that ENTRY names once the commands that name it have completed; ENTRY 0 is malformed, and an entry that
is not valid or belongs to another context is refused with HANDLE_INVALID (ENTRY 5 to 7 likewise: the model's choice, log 29).
R183, R184: a beat of the chain's command with the expected number enters the slack and, unless it waits behind a gap, is the last one
accepted; one that does not match makes the member detach; a credit of the successor lets one more beat go. That credits of the entry's own
successor are counted apart while another stands in is the model's choice (log 29).
R186, R188: a detach whose cause has come about takes the member out of its chain: it tells its neighbours, counts in the entry's
DETACHES and in the engine's counter, and posts one record of its owner; a notification from a detached successor without one beyond it makes
the member the tail, and from a predecessor without one beyond it the head; one with a member beyond it names the new neighbour, and a new
successor's sender goes on with the credits that the notice carries (log 29). -/
def Obligations.ChainMembersRelayAndDetach : Prop :=
  (∀ (s : State) (e : Fin 4) (seq : BitVec 16) (num : BitVec 48) (sig : Word) (data : BitVec 2048) (core : Fin 16),
      s.up = true → (s.chain e.val).valid = true → (s.chain e.val).detached = false →
      let k := s.chain e.val
      let b : Beat := ⟨seq, num.toNat, sig, data⟩
      (k.head = false → k.slack.length < 256 → k.late = false →
        (k.due = none → k.accepts k.id b = false →
          ∃ t, exec (.chainBeat e k.id seq num sig data) s = .next t ∧ t.chain e.val = { k with due := some 1, owed := k.owed + 1 }
            ∧ t = { s with chains := t.chains })
        ∧ (k.due ≠ none →
          ∃ t, exec (.chainBeat e k.id seq num sig data) s = .next t ∧ t.chain e.val = { k with owed := k.owed + 1 }
            ∧ t = { s with chains := t.chains })
        ∧ (k.due = none → k.accepts k.id b = true →
          ∃ t, exec (.chainBeat e k.id seq num sig data) s = .next t ∧ (t.chain e.val).next = (if k.next < k.gapTo then k.next else k.next + 1)
            ∧ t = { s with chains := t.chains, chainOut := t.chainOut }))
      ∧ (k.out = [] → k.slack = [] → ∃ t, exec (.credit ⟨e, core⟩) s = .next t
          ∧ (BitVec.ofNat 4 core.val = k.succ → k.cutOff = false → (t.chain e.val).credits = min 256 (k.credits + 1))
          ∧ (BitVec.ofNat 4 core.val ≠ k.succ ∨ k.cutOff = true → BitVec.ofNat 4 core.val = k.ownSucc →
              (t.chain e.val).home = min 256 (k.home + 1) ∧ (t.chain e.val).credits = k.credits)
          ∧ t = { s with chains := t.chains, chainOut := t.chainOut }))
  ∧ (∀ (s : State) (e : Fin 4) (cause : BitVec 2) (n : Fin 16) (credits : Fin 257), s.up = true →
      let k := s.chain e.val
      let x := s.ctx k.owner
      (k.leaves s.now cause = true →
        ∃ t, exec (.detach e cause) s = .next t ∧ (t.chain e.val).detached = true ∧ (t.chain e.val).due = none ∧ (t.chain e.val).out = []
          ∧ (t.chain e.val).entry = setFld k.entry 48 16 (min 0xFFFF (fld k.entry 48 16 + 1))
          ∧ t.tel.detach = satAdd s.tel.detach 1 ∧ t.chainOut = s.chainOut ++ k.notices
          ∧ (x.state ≠ .stopped → (t.ctx k.owner).eventSeq = x.eventSeq + 1)
          ∧ (x.state ≠ .stopped → x.held = [] → x.cmds.length < x.cplFree → s.needOk k.owner (ringNeed x.cplAddr true) = true →
            (t.ctx k.owner).cplTail = x.cplTail + 1))
      ∧ (k.leaves s.now cause = false → exec (.detach e cause) s = .next s)
      ∧ (k.valid = true → k.detached = false → k.slack = [] →
        (∃ t, exec (.detachNotification e true none ⟨credits⟩) s = .next t ∧ (t.chain e.val).tail = true ∧ (t.chain e.val).out = []
          ∧ t = { s with chains := t.chains, chainOut := t.chainOut })
        ∧ (k.out = [] →
          (∃ t, exec (.detachNotification e false none ⟨credits⟩) s = .next t ∧ (t.chain e.val).head = true
            ∧ t = { s with chains := t.chains, chainOut := t.chainOut })
          ∧ (∃ t, exec (.detachNotification e false (some n) ⟨credits⟩) s = .next t ∧ (t.chain e.val).pred = BitVec.ofNat 4 n.val
            ∧ (t.chain e.val).late = true ∧ t = { s with chains := t.chains, chainOut := t.chainOut })
          ∧ (k.kept = [] →
            ∃ t, exec (.detachNotification e true (some n) ⟨credits⟩) s = .next t ∧ (t.chain e.val).succ = BitVec.ofNat 4 n.val
              ∧ (t.chain e.val).credits = credits.val ∧ t = { s with chains := t.chains, chainOut := t.chainOut }))))
  ∧ (∀ (s : State) (c : CtxNo) (i n : Nat) (m : Cmd), s.starting c 0x3A = some (i, m) → (s.ctx c).cmds[i]? = some m →
      (m.bit 128 = true → m.reservedBad = none →
        (setupBad (fld s.eng.position 0 4) m = none → n < 4 → (s.chain n).valid = false → (∀ j, j < n → (s.chain j).valid = true) →
          ∃ t, exec (.chainSetup c) s = .next t ∧ t.chain n = newChain c (m.pkt.extractLsb' 128 64)
            ∧ (∀ j, j ≠ n → t.chain j = s.chain j) ∧ PhaseAt t c i (.finished { Reply.ok with result0 := w32 (n + 1) })
            ∧ t = { s with chains := t.chains, ctxs := t.ctxs, waits := t.waits, sent := t.sent })
        ∧ (setupBad (fld s.eng.position 0 4) m = none → (∀ j, j < 4 → (s.chain j).valid = true) →
          ∃ t, exec (.chainSetup c) s = .next t ∧ PhaseAt t c i (.finished (.of stChainBusy)) ∧ t = { s with ctxs := t.ctxs, waits := t.waits, sent := t.sent })
        ∧ (∀ r, setupBad (fld s.eng.position 0 4) m = some r →
          ∃ t, exec (.chainSetup c) s = .next t ∧ PhaseAt t c i (.finished r) ∧ t = { s with ctxs := t.ctxs, waits := t.waits, sent := t.sent }))
      ∧ (m.bit 128 = false →
        (m.f 192 3 = 0 → m.reservedBad = none →
          ∃ t, exec (.chainSetup c) s = .next t ∧ PhaseAt t c i (.finished (.bad 192)) ∧ t = { s with ctxs := t.ctxs, waits := t.waits, sent := t.sent })
        ∧ (m.f 192 3 ≠ 0 → ¬ (m.f 192 3 ≤ 4 ∧ s.chainHandleOk c (m.f 192 3) = true) →
          ∃ t, exec (.chainSetup c) s = .next t ∧ PhaseAt t c i (.finished (.of stHandle)) ∧ t = { s with ctxs := t.ctxs, waits := t.waits, sent := t.sent })
        ∧ (m.f 192 3 = n + 1 → n < 4 → s.chainHandleOk c (n + 1) = true → m.reservedBad = none →
          (s.chainUsed c i (n + 1) = true → exec (.chainSetup c) s = .next s)
          ∧ (s.chainUsed c i (n + 1) = false →
            ∃ t, exec (.chainSetup c) s = .next t ∧ t.chain n = Chain.reset ∧ (∀ j, j ≠ n → t.chain j = s.chain j)
              ∧ PhaseAt t c i (.finished .ok) ∧ t = { s with chains := t.chains, ctxs := t.ctxs, waits := t.waits, sent := t.sent }))))

/-! ### Reduction port (R257 to R281) -/

/-- R278, R281: a packet that finds its job's context on its channel counts in PKTS_RECV, whatever its kind and whatever else the port is
doing; where nothing else moves in the port, it enters the digest of the packets received. R358: on a channel that trains again it waits in
the channel's buffer and counts nothing yet. -/
def Obligations.PacketsCountAndDigest : Prop :=
  ∀ (s : State) (k : Chan) (p : Packet) (j : JobCtx) (i : Instr), s.up = true → (s.portCh k).inq = [] → (s.portCh k).ctx p.job = some j →
    (i = .data k p ∧ p.kind = 0 ∨ i = .result k p ∧ p.kind = 1 ∨ i = .backup p ∧ p.kind = 2 ∧ k = 3 ∨ i = .abortPacket k p ∧ p.kind = 3) →
    (s.retraining k = false →
      ∃ t, exec i s = .next t ∧ (t.portCh k).pktsRecv = satAdd (s.portCh k).pktsRecv 1
        ∧ (PortCalm s → ∃ x, (t.portCh k).ctx p.job = some x ∧ x.recv = crc64 j.recv p.bytes))
    ∧ (s.retraining k = true →
      ∃ t, exec i s = .next t ∧ (t.portCh k).inq = [p] ∧ (t.portCh k).pktsRecv = (s.portCh k).pktsRecv)

/-- In a port where nothing else moves, BUCKET_RECV commands in flight or not. R264, R266: a RESULT of a normal-mode job that reaches an
engine without a tree node on its result channel waits there while no BUCKET_RECV of its bucket is in flight; where one is, its last packet
is written to the command's destination (R263), its buffer's credit returns and the command completes with its counts (R276).
R274: an ABORT on a channel of the job makes the job's contexts FAILED, counts one failed job and completes every bucket command of the
job in flight with JOB_FAILED.
R265: the first DATA packet of an OFFSET that reaches a tree node which expects another input becomes the partial sum: its
elements, its count of contributions, its input taken; R272: a BACKUP of an expected input that has delivered nothing is kept. -/
def Obligations.PacketsReachTheirJob : Prop :=
  (∀ (s : State) (k : Chan) (p : Packet) (j : JobCtx), s.up = true → PortCalm s → s.retraining k = false → (s.portCh k).ctx p.job = some j →
      j.state ≠ .failed → p.strict = j.strict → p.exact = j.exact →
      (p.kind = 1 → j.strict = false → gHosts j.group = false → resultHere j.group false k = true →
        ((∀ c i, ¬ Receives s c i p.job p.bucket) →
          ∃ t, exec (.result k p) s = .next t ∧ t.port.results = [⟨p, [], true, some k⟩] ∧ SameMem s t ∧ t.ctxs = s.ctxs)
        ∧ ∀ (c : CtxNo) (i : Nat) (m : Cmd) (got elems mc mr b o : Nat) (sat nf : Bool) (d : Opnd) (q : State),
            (s.ctx c).cmds[i]? = some m → m.phase = .running (.recv got elems mc mr b o sat nf) → m.job = p.job → m.bucket = p.bucket →
            (∀ c' i', Receives s c' i' p.job p.bucket → c' = c ∧ i' = i) → s.active c = true → p.isLast = true →
            s.sourceRead m.job m.bucket p.offset = true → s.opnd m.fmts (m.f 128 16) 0 = some d →
            let els := (d.packetElems p.offset).take (p.valid + 1)
            let w := d.acc true false (els.map d.span)
            s.openWrites c m.seq [w] = (true, q) →
            ∃ t, exec (.result k p) s = .next t ∧ t.port.results = [] ∧ t.port.creditOut = s.port.creditOut ++ [(k, p.job)]
              ∧ PhaseAt t c i (.finished (recvReply 0 (elems + els.length) (min mc p.contrib) (max mr p.rounds) p.backups p.omitted
                  ⟨sat || p.sat, nf || p.nf⟩))
              ∧ SameMem ((els.zip ((List.range els.length).map p.elem)).foldl
                  (fun u x => u.putBits c (q.refusals c w) d x.1 (resultBits d.desc.format x.2)) q) t)
      ∧ (p.kind = 3 → peerOf j.group j.strict k 3 = some p.pos → (∀ d : Chan, ∀ x ∈ (s.portCh d).jobs, x.job = p.job → x.state ≠ .failed) →
        ∃ t, exec (.abortPacket k p) s = .next t ∧ t.port.failed = satAdd s.port.failed 1
          ∧ (∀ x ∈ (t.portCh k).jobs, x.job = p.job → x.state = .failed)
          ∧ ∀ (c : CtxNo) (i : Nat) (m : Cmd), (s.ctx c).cmds[i]? = some m → m.bucketOf p.job = true →
              PhaseAt t c i (.finished (m.bucketReply stJobFailed))))
  ∧ (∀ (s : State) (k : Chan) (p : Packet) (j : JobCtx), s.up = true → PortCalm s → s.retraining k = false → (s.portCh k).ctx p.job = some j →
      j.state ≠ .failed → j.strict = false → p.strict = false → p.exact = j.exact →
      (∀ x ∈ s.port.inputs, ¬ (x.job = p.job ∧ x.bucket = p.bucket)) →
      (p.kind = 0 → k.val < 4 → gValid j.group = true → (gInputs j.group).contains k.val = true → gChild j.group k.val = p.pos →
        s.jobGroup p.job = j.group → (∃ o ∈ gExpected j.group, o ≠ k.val) →
        ∃ t x, exec (.data k p) s = .next t ∧ t.port.partials = [x] ∧ x.job = p.job ∧ x.bucket = p.bucket ∧ x.offset = p.offset
          ∧ x.taken = [k.val] ∧ x.contrib = min p.contrib 0xFFFF
          ∧ x.vals = (List.range (p.valid + 1)).map (fun e => (toF32 (ofF32 (w32 (p.elem e * 2 ^ 16)))).1) ∧ SameMem s t)
      ∧ (k = 3 → p.kind = 2 → gValid j.group = true → gBackup j.group = true → gChild j.group 3 = p.pos → s.jobGroup p.job = j.group →
        (inputAt j.group s.eng.position.toNat p.subject).isSome = true →
        ∃ t, exec (.backup p) s = .next t ∧ (t.portCh 3).rx = [p] ∧ SameMem s t))

/-- R270: a returned credit lowers the count of the job's packets in flight on its channel, where no packet waits for it; R260: JOB_RELEASE
frees the contexts of the job that are not ACTIVE, and no other job's.
R271, R272: the timer of an expected input of a tree job that has run out replaces the input by its backup where one has reached IN3, which
counts in BACKUPS_USED, and else omits it, which counts in OMITTED; R274: in an exact job it makes the job fail. -/
def Obligations.CreditsReleasesAndLateInputs : Prop :=
  (∀ (s : State) (k : Chan) (job : BitVec 12) (v : Word), PortCalm s →
      (s.up = true → ∀ j, (s.portCh k).ctx job = some j →
        ∃ t x, exec (.receiveBufferCredit k job) s = .next t ∧ (t.portCh k).ctx job = some x ∧ x.credits = j.credits - 1 ∧ SameMem s t)
      ∧ (s.windowOpen = true → ∃ t, exec (.jobRelease v) s = .next t
        ∧ (∀ d : Chan, ∀ x ∈ (t.portCh d).jobs, x.job = v.setWidth 12 → ∃ y ∈ (s.portCh d).jobs, y.job = x.job ∧ y.state = .active)
        ∧ (∀ d : Chan, ∀ y ∈ (s.portCh d).jobs, y.job ≠ v.setWidth 12 → ∃ x ∈ (t.portCh d).jobs, x.job = y.job ∧ x.recv = y.recv)))
  ∧ (∀ (s : State) (job : BitVec 12) (input : Fin 5) (i : Input) (j : JobCtx) (rest : List JobCtx), s.up = true →
      s.port.inputs.find? (fun (x : Input) => x.job == job && x.input == input.val && s.isLate x) = some i → s.jobCtxs job = j :: rest →
      j.strict = false →
      (j.exact = false → s.backupReady j.group i = true →
        ∃ t, exec (.lateInput job input) s = .next t ∧ t.port.backupsUsed = satAdd s.port.backupsUsed 1 ∧ t.port.omitted = s.port.omitted)
      ∧ (j.exact = false → s.backupReady j.group i = false →
        ∃ t, exec (.lateInput job input) s = .next t ∧ t.port.omitted = satAdd s.port.omitted 1 ∧ t.port.backupsUsed = s.port.backupsUsed)
      ∧ (j.exact = true → PortCalm s → (∀ x ∈ s.jobCtxs job, x.state ≠ .failed) →
        ∃ t, exec (.lateInput job input) s = .next t ∧ t.port.failed = satAdd s.port.failed 1
          ∧ ∀ (c : CtxNo) (n : Nat) (m : Cmd), (s.ctx c).cmds[n]? = some m → m.bucketOf job = true →
              PhaseAt t c n (.finished (m.bucketReply stJobFailed))))

/-- R229, R279: a DIGEST_READ whose checks pass and whose area is translated, every earlier bucket command of its job complete, writes the
digests of its job's packets on the six channels, sent and received, zeros for a channel without a context, into its area and no other byte,
completes with the channels that hold a context of its job, and changes nothing of the port. -/
def Obligations.DigestReadWritesDigests : Prop :=
  ∀ (s q : State) (c : CtxNo) (i : Nat) (m : Cmd) (o : Opnd), s.starting c 0x22 = some (i, m) → (s.ctx c).cmds[i]? = some m →
    s.noConflict c i m = true → s.jobQuiet c i m.job = true → (s.handle c (m.f 128 16)).isSome = true →
    s.opnd m.fmts (m.f 128 16) 0 = some o → m.reservedBad = none → (o.desc.canWrite && o.areaOk 96) = true →
    let a := o.acc true false (o.byteSpans 0 96)
    s.openWrites c m.seq [a] = (true, q) →
    ∃ t, exec (.digestRead c) s = .next t ∧ PhaseAt t c i (.finished { Reply.ok with result0 := w32 (s.digests m.job).2 })
      ∧ t.port = s.port ∧ SameMem (q.putArea c (q.refusals c a) o 0 (s.digests m.job).1) t

/-! ### NOP, FENCE and BARRIER (R189, R190, R192, R232) -/

/-- R232: NOP completes with SUCCESS and nothing else; R192: FENCE completes once it is the first command of its context, every earlier
reply posted, and waits otherwise.
R189: a SIGNAL whose counter is translated for writing, every earlier command complete, adds its increment to the 64-bit counter
exactly once and replies with the new value; no other byte of memory changes. -/
def Obligations.NopFenceAndSignal : Prop :=
  (∀ (s : State) (c : CtxNo) (i : Nat) (m : Cmd), (s.ctx c).cmds[i]? = some m → m.reservedBad = none →
      (s.starting c 0x00 = some (i, m) → ∃ t, exec (.nop c) s = .next t ∧ PhaseAt t c i (.finished .ok) ∧ OnlyCtx c s t
        ∧ ∀ j, j ≠ i → (t.ctx c).cmds[j]? = (s.ctx c).cmds[j]?)
      ∧ (s.starting c 0x2C = some (0, m) → i = 0 → ∃ t, exec (.fence c) s = .next t ∧ PhaseAt t c 0 (.finished .ok) ∧ OnlyCtx c s t)
      ∧ (s.starting c 0x2C = some (i, m) → i ≠ 0 → exec (.fence c) s = .next s))
  ∧ (∀ (s : State) (c : CtxNo) (i : Nat) (m : Cmd) (x : Xlat), s.memWf = true → s.starting c 0x2B = some (i, m) → (s.ctx c).cmds[i]? = some m →
      m.bit 12 = false → s.earlierDone c i = true → s.barrierBad c m = none → s.xlat c (pageOf m.counter) = some x → x.read = true →
      x.write = true →
      let v : BitVec 64 := BitVec.ofNat 64 (ofLeBytes ((upFrom m.counter 8).map (fun a => s.peekAt (physOf x a)))) + m.pkt.extractLsb' 192 64
      ∃ t, exec (.barrierSignal c) s = .next t
        ∧ PhaseAt t c i (.finished { Reply.ok with result0 := v.setWidth 32, result1 := (v.ushiftRight 32).setWidth 32 })
        ∧ ofLeBytes ((upFrom m.counter 8).map (fun a => t.peekAt (physOf x a))) = v.toNat
        ∧ ∀ p, (∀ a ∈ upFrom m.counter 8, p ≠ physOf x a) → t.peekAt p = s.peekAt p)

/-- R189, R190: a WAIT, whose counter no earlier command still writes, and each later poll of it in a RUNNING context, completes with the
counter's value once the value has reached TARGET (as a two's-complement distance) and otherwise goes on waiting, its boundaries
counted from the first unsatisfied read; in a context that its timeout has parked a poll that finds TARGET reached only notes it, and RESUME
or ABORT settles the wait; after TIMEOUT boundaries the context parks with PARK_CAUSE 1, one record is posted and the wait stays in force. -/
def Obligations.WaitPollsUntilReached : Prop :=
  ∀ (s : State) (c : CtxNo) (i : Nat) (m : Cmd) (x : Xlat), (s.ctx c).cmds[i]? = some m → m.counter % 8 = 0 →
    s.xlat c (pageOf m.counter) = some x → x.read = true → (s.findRegion c m.counter (m.counter + 7) true false).isSome = true →
    let v : BitVec 64 := BitVec.ofNat 64 (s.peekLe c m.counter 8)
    let target : BitVec 64 := m.pkt.extractLsb' 192 64
    (s.starting c 0x2B = some (i, m) → m.bit 12 = true → s.barrierBad c m = none → s.readFree c i m.counter 8 = true →
      ∃ t, exec (.barrierWait c) s = .next t ∧ SameMem s t ∧ PhaseAt t c i
        (if (v - target).msb then .running (.waitCounter v (some s.now) 0 false false) else .finished (counterReply v)))
    ∧ (∀ v0 seen n ok timed, (s.ctx c).waiting = some (i, m, v0, seen, n, ok, timed) → s.up = true → (s.ctx c).resetting = false →
      (s.ctx c).fault = none → (s.ctx c).state = .running →
      ∃ t, exec (.barrierPoll c) s = .next t ∧ SameMem s t ∧ PhaseAt t c i
        (if (v - target).msb then .running (.waitCounter v (some (seen.getD s.now)) (if seen.isSome then n else 0) false timed)
         else .finished (counterReply v)))
    ∧ (∀ v0 seen n ok timed, (s.ctx c).waiting = some (i, m, v0, seen, n, ok, timed) → s.up = true → (s.ctx c).resetting = false →
      (s.ctx c).fault = none → (s.ctx c).waitPark = true →
      (ok = false → ∃ t, exec (.barrierPoll c) s = .next t ∧ SameMem s t ∧ (t.ctx c).state = .parked ∧ PhaseAt t c i
        (if (v - target).msb then .running (.waitCounter v (some (seen.getD s.now)) (if seen.isSome then n else 0) false timed)
         else .running (.waitCounter v seen n true timed)))
      ∧ (ok = true → exec (.barrierPoll c) s = .next s))
    ∧ (∀ v0 seen n ok timed, (s.ctx c).waiting = some (i, m, v0, seen, n, ok, timed) → s.active c = true →
      (m.f 176 16 ≠ 0 ∧ m.f 176 16 ≤ n →
        ∃ t, exec (.barrierTimeout c) s = .next t ∧ (t.ctx c).state = .parked ∧ (t.ctx c).parkCause = 1
          ∧ PhaseAt t c i (.running (.waitCounter v0 seen n false true))
          ∧ (s.bankHeld c = false → (t.ctx c).eventSeq = (s.ctx c).eventSeq + 1))
      ∧ (¬ (m.f 176 16 ≠ 0 ∧ m.f 176 16 ≤ n) → exec (.barrierTimeout c) s = .next s))

/-! ### Admission, replies and event records (R194, R196, R198, R200) -/

/-- R194, R196: the next packet of a context that may admit is read from its ring, both its entries where its LENGTH says two, its header
checked in order, and admitted: queued when the header is good, complete with MALFORMED naming the first bad field otherwise; CMD_HEAD
and EXP_SEQ advance either way. The command keeps the format table as it stands (R24).
While a CKPT_ARM of the context waits for its epoch point only what the rule lets pass is admitted (R283): the hypothesis on `admissionFree`. -/
def Obligations.AdmissionChecksHeader : Prop :=
  ∀ (s : State) (c : CtxNo), s.admissible c = true → s.needOk c (ringNeed (s.ctx c).cmdAddr false) = true →
    let p : BitVec 512 := BitVec.ofNat 512 (s.peekLe c (s.ctx c).cmdAddr 64)
    s.admissionFree c (fld p 0 8) = true → entryCount p ≤ dist32 (s.ctx c).cmdTail (s.ctx c).cmdHead →
    (entryCount p = 2 → s.tlb.length ≤ 256 ∧ s.needOk c (ringNeed ((s.ctx c).entryAddr ((s.ctx c).cmdHead + 1)) false) = true) →
    let ph := match headerBad c (s.ctx c).expSeq p with
      | some r => Phase.finished r
      | none => Phase.queued
    ∃ t, exec (.commandAdmission c) s = .next t ∧ t = { s with ctxs := t.ctxs, tlb := t.tlb } ∧ (∀ d, d ≠ c → t.ctx d = s.ctx d)
      ∧ (t.ctx c).cmdHead = (s.ctx c).cmdHead + BitVec.ofNat 32 (entryCount p) ∧ (t.ctx c).expSeq = (s.ctx c).expSeq + 1
      ∧ (t.ctx c).cmds = (s.ctx c).cmds ++ [⟨p, s.fmts, [], (s.ctx c).cmdHead, (s.ctx c).cmdTail, ph, 0, none⟩]

/-- R198: the reply of the first command of a context that is not parked (R158), complete and acknowledged, is written into the completion
ring at CPL_TAIL with its PHASE, CPL_TAIL advances and the command is gone; a QUIET success posts nothing.
R200: the oldest held record is written likewise once an entry is free, and no other byte: it leaves the queue of held records, CPL_TAIL advances and the lost
count, which the record carries, returns to 0; without room it waits; a record whose entry was settled when it happened leaves the lost
count as it stands. -/
def Obligations.CompletionEntriesPostInOrder : Prop :=
  (∀ (s : State) (c : CtxNo) (m : Cmd) (rest : List Cmd) (r : Reply) (x : Xlat), s.memWf = true → s.posting c = true →
      (s.ctx c).cmds = m :: rest → m.phase = .finished r →
      ((s.ctx c).state = .parked → exec (.statusReply c) s = .next s)
      ∧ ((s.ctx c).state ≠ .parked → s.acked c m.seq = true → (s.ctx c).cplBase.toNat % 32 = 0 →
        (m.bit 9 = true → r.status = 0 → ∃ t, exec (.statusReply c) s = .next t ∧ OnlyCtx c s t ∧ (t.ctx c).cmds = rest
          ∧ (t.ctx c).cplTail = (s.ctx c).cplTail)
        ∧ ((m.bit 9 = false ∨ r.status ≠ 0) → s.xlat c (pageOf (s.ctx c).cplAddr) = some x → x.write = true →
          ∃ t, exec (.statusReply c) s = .next t ∧ (t.ctx c).cmds = rest ∧ (t.ctx c).cplTail = (s.ctx c).cplTail + 1
            ∧ (upFrom (s.ctx c).cplAddr 32).map (fun a => t.peekAt (physOf x a))
              = leBytes 32 (setFld (replyBits c m r) 8 1 (phaseBit (s.ctx c).cplTail (s.ctx c).cplDepth)).toNat
            ∧ (∀ p, (∀ a ∈ upFrom (s.ctx c).cplAddr 32, p ≠ physOf x a) → t.peekAt p = s.peekAt p)
            ∧ (∀ d, d ≠ c → t.ctx d = s.ctx d))))
  ∧ (∀ (s : State) (c : CtxNo) (e : EventRec) (rest : List EventRec) (x : Xlat), s.memWf = true → s.posting c = true → (s.ctx c).held = e :: rest →
      ((e.room = none → (s.ctx c).cmds.length < (s.ctx c).evtFree) → (s.ctx c).cplBase.toNat % 32 = 0 →
        s.xlat c (pageOf (s.ctx c).cplAddr) = some x → x.write = true →
        ∃ t, exec (.eventRecord c) s = .next t ∧ (t.ctx c).held = rest ∧ (t.ctx c).cplTail = (s.ctx c).cplTail + 1
          ∧ (t.ctx c).lost = (if e.room.isSome then (s.ctx c).lost else 0)
          ∧ (upFrom (s.ctx c).cplAddr 32).map (fun a => t.peekAt (physOf x a))
            = leBytes 32 (setFld (eventBits c e (e.room.getD (s.ctx c).lost)) 8 1 (phaseBit (s.ctx c).cplTail (s.ctx c).cplDepth)).toNat
          ∧ (∀ p, (∀ a ∈ upFrom (s.ctx c).cplAddr 32, p ≠ physOf x a) → t.peekAt p = s.peekAt p)
          ∧ (t.ctx c).cmds = (s.ctx c).cmds ∧ (∀ d, d ≠ c → t.ctx d = s.ctx d))
      ∧ (e.room = none → (s.ctx c).evtFree ≤ (s.ctx c).cmds.length → exec (.eventRecord c) s = .next s))

/-! ### Requests, walks and faults (R148, R152, R157, R159, R321, R322) -/

/-- R152, R157: a walk that finds its page fills the TLB with it, most recently used; one that does not, for a demand request of a
RUNNING context, leaves that context with the fault that PARK reports; R154: for a prefetch it is dropped and counted; R161: for a ring
access it stops the context with RING_FAULT. R157: PARK then parks a context with PARK_CAUSE 0 and, with no interval of its own in the lane
bank, one record. -/
def Obligations.WalksFillTlbOrFault : Prop :=
  (∀ (s : State) (page : BitVec 32) (x : Xlat) (w : WalkReq), s.alive = true → s.walks.filter (fun v => v.page == page.toNat) = [w] →
    let left := s.walks.filter (fun v => v.page != page.toNat)
    (permOk x w.need = true → ∃ t, exec (.walk page (some x)) s = .next t ∧ t = { s with walks := left, tlb := t.tlb }
      ∧ t.tlb.head?.map (fun e => (e.page, e.xlat)) = some (page.toNat, x) ∧ t.tlb.length ≤ 256)
    ∧ (w.prefetch = false → w.ring = false → w.need.guard = false → (s.ctx w.ctx).canFault = true →
      ∃ t, exec (.walk page none) s = .next t ∧ (t.ctx w.ctx).fault = some { w.need with perm := false } ∧ SameMem s t
        ∧ t.walks = left ∧ (∀ d, d ≠ w.ctx → t.ctx d = s.ctx d))
    ∧ (w.prefetch = true → ∃ t, exec (.walk page none) s = .next t ∧ t = { s with walks := left, tlb := t.tlb, tel := t.tel }
      ∧ t.tel = { s.tel with prefetchDrop := satAdd s.tel.prefetchDrop w.many })
    ∧ (w.prefetch = false → w.ring = true → (s.ctx w.ctx).state ≠ .stopped →
      ∃ t, exec (.walk page none) s = .next t ∧ (t.ctx w.ctx).state = .stopped ∧ (t.ctx w.ctx).ringFault = true
        ∧ t.log.summary = setFld s.log.summary 9 1 1))
  ∧ (∀ (s : State) (c : CtxNo) (f : FaultRec), s.up = true → (s.ctx c).fault = some f → (s.ctx c).state = .running → (s.ctx c).resetting = false →
      ∃ t, exec (.park c) s = .next t ∧ (t.ctx c).state = .parked ∧ (t.ctx c).parkCause = 0
        ∧ (s.bankHeld c = false → (t.ctx c).eventSeq = (s.ctx c).eventSeq + 1))

/-- R148: an acknowledged request leaves the list of requests in flight; R321: a corrected error writes one entry and waits for its
write-back, which the write-back ends, or removes the TLB entry it was in; R322: an uncorrectable Clamp element is marked lost in its slot, an uncorrectable word of
another store stops the engine. -/
def Obligations.RequestsAndEccEvents : Prop :=
  ∀ (s : State) (idx word : Nat) (bit : BitVec 8), s.alive = true → s.locks = [] →
    (∀ (c : CtxNo), ∀ x ∈ (s.ctx c).cmds, ∀ g, x.phase ≠ .running (.gather g)) →
    exec (.requestComplete idx .clean) s = .next { s with reqs := dropAt s.reqs idx }
    ∧ (∃ t, exec (.requestComplete idx (.corrected 2 word bit)) s = .next t ∧ t.bist.ce = s.bist.ce ++ [(2, word)]
      ∧ t.log.summary = setFld s.log.summary 1 1 1 ∧ SameMem s t ∧ t.reqs = dropAt s.reqs idx)
    ∧ (∃ t, exec (.requestComplete idx (.corrected 5 word bit)) s = .next t ∧ t.tlb = s.tlb.filter (fun e => e.place != word)
      ∧ t.log.summary = setFld s.log.summary 1 1 1 ∧ SameMem s t)
    ∧ (∀ rest, s.bist.ce = (2, word) :: rest →
      exec (.correctedWriteBack 2 word) s = .next { s with bist := { s.bist with ce := rest } })
    ∧ (word < 48 * 16384 → ∃ t, exec (.requestComplete idx (.uncorrectable 1 word bit)) s = .next t
      ∧ word % 16384 ∈ (t.slot (word / 16384)).bad ∧ t.eng = s.eng ∧ SameMem s t)
    ∧ (∃ t, exec (.requestComplete idx (.uncorrectable 2 word bit)) s = .next t ∧ t.eng.step = 15 ∧ t.mgmt.alertFatal = true)

/-! ### Tasks (R113 to R117, R230, R250 to R252) -/

/-- R230, R114: a TASK_BEGIN whose checks pass opens the task with an empty journal behind its 64-byte header; R117: TASK_COMMIT of an
unguarded task, its journal translated, ends the task, releases its touch-table entries and replies with its counts; TASK_DISCARD
replies DISCARD_PARTIAL exactly when units went unguarded, after its restores, and the task is gone with its touch-table entries. -/
def Obligations.TasksOpenAndClose : Prop :=
  ∀ (s q q2 : State) (c : CtxNo) (i n : Nat) (m : Cmd) (j : Opnd) (t0 : Task), (s.ctx c).cmds[i]? = some m → m.reservedBad = none →
    s.earlierDone c i = true →
    (s.starting c 0x28 = some (i, m) → (s.handle c (m.f 128 16)).isSome = true → s.opnd m.fmts (m.f 128 16) 0 = some j →
      taskAreaBad j = none → s.acquire c (areaNeeds j m.seq) = (true, q) → q.areaInCore c (areaNeeds j m.seq) = true →
      q.taskBad c m = none → q.openFor c m.seq .journal [j.areaAcc 0 64] = (true, q2) →
      ∃ t k, exec (.taskBegin c) s = .next t ∧ (t.ctx c).task = some k ∧ k.used = 64 ∧ k.entries = 0 ∧ k.unguarded = 0 ∧ k.part = false
        ∧ k.journal = j.idx ∧ k.capacity = j.desc.size 0 ∧ k.guard.isSome = m.bit 12 ∧ PhaseAt t c i (.finished .ok)
        ∧ SameMem (q2.putArea c (q2.refusals c (j.areaAcc 0 64)) j 0 (leBytes 64 k.header)) t)
    ∧ (s.continuing c 0x29 = none → s.starting c 0x29 = some (i, m) → m.op = 0x29 → (s.ctx c).task = some t0 → t0.guard = none →
      s.journal t0 = some j → s.openFor c m.seq .journal [j.areaAcc 0 64] = (true, q) →
      ∃ t, exec (.taskCommit c) s = .next t ∧ (t.ctx c).task = none ∧ (∀ e ∈ t.touch, e.ctx ≠ c)
        ∧ PhaseAt t c i (.finished { Reply.ok with result0 := w32 t0.entries, result1 := w32 t0.unguarded, result2 := 0 })
        ∧ SameMem (q.putArea c (q.refusals c (j.areaAcc 0 64)) j 0 (leBytes 64 t0.header)) t)
    ∧ (s.continuing c 0x2A = none → s.starting c 0x2A = some (i, m) → m.op = 0x2A → (s.ctx c).task = some t0 → t0.guard = none →
      s.restoreTask c t0 m.fmts m.seq = (true, q, n) → (q.ctx c).cmds[i]? = some m →
      ∃ t, exec (.taskDiscard c) s = .next t ∧ PhaseAt t c i (.finished { Reply.of (if t0.unguarded = 0 then 0 else stDiscardPartial) with
        result0 := w32 t0.unguarded, result1 := w32 n, result2 := 0 })
        ∧ (t.ctx c).task = none ∧ (∀ e ∈ t.touch, e.ctx ≠ c) ∧ SameMem q t)

/-- R113, R114, R116: a capture that a unit's first write waits for, the journal and the touch table with room and its pages translated,
writes the unit's entry at the journal's end and marks the unit: a slot by its TOUCHED bit, any other by a touch-table entry; without
room in the journal, or with the touch table full, whatever the unit, the task becomes partial and the unit is counted; a unit first written by a partial task is only counted.
R250: a guard read that comes back latches COMMIT or DISCARD when its word is that value, and nothing otherwise; R252: a latched
early discard, every admitted command complete and the journal restored, parks the context with PARK_CAUSE 2. -/
def Obligations.GuardsDecideTasks : Prop :=
  ∀ (s q : State) (c : CtxNo) (n : Nat) (u : Sys2Proof.Machine.Unit) (t0 : Task) (g : Guard) (j : Opnd), (s.ctx c).task = some t0 →
    (t0.guard = some g → s.alive = true → g.reading = true → g.latch = 0 → s.regionOk g.region c g.addr (g.addr + 3) true false = true →
      s.needOk c (guardNeed t0 g) = true → g.commitVal ≠ g.discardVal →
      let v := w32 (s.peekLe c g.addr 4)
      ∃ t k h, exec (.guardRead c) s = .next t ∧ OnlyCtx c s t ∧ (t.ctx c).task = some k ∧ k.guard = some h ∧ h.last = v
        ∧ (h.latch = 1 ↔ v = g.commitVal) ∧ (h.latch = 2 ↔ v = g.discardVal) ∧ h.reading = false)
    ∧ (s.active c = true → (s.ctx c).early = true → s.earlierDone c (s.ctx c).cmds.length = true →
      s.restoreTask c t0 s.fmts t0.seq = (true, q, n) →
      ∃ t, exec (.earlyDiscard c) s = .next t ∧ (t.ctx c).state = .parked ∧ (t.ctx c).parkCause = 2 ∧ (t.ctx c).early = false)
    ∧ (s.active c = true → (s.ctx c).wantUnit = some u → s.mustCapture c u = true →
      let seq := (s.ctx c).wantSeq
      let cmd := findAt (fun (m : Cmd) => m.seq == seq) (s.ctx c).cmds 0
      let o := if u.kind = 3 then none
        else s.opnd ((cmd.map (fun p => p.2.fmts)).getD s.fmts) u.desc (unitStream ((cmd.map (fun p => p.2.op)).getD 0))
      let len := entryBytes (unitBytes o u)
      (t0.part = true →
        ∃ t k, exec (.journalCapture c) s = .next t ∧ OnlyCtx c s t ∧ (t.ctx c).task = some k ∧ (t.ctx c).wantUnit = none
          ∧ k.unguarded = min 0xFFFFFFFF (t0.unguarded + 1) ∧ k.entries = t0.entries ∧ k.used = t0.used)
      ∧ (t0.part = false → s.journal t0 = some j → t0.used + len ≤ t0.capacity → s.touch.length < 4096 →
        s.openFor c seq .journal (unitAccs o u false ++ [j.areaAcc t0.used len]) = (true, q) →
        let bytes := leBytes 32 (q.entryHeader t0 o u (unitBytes o u) seq) ++ q.unitBytesOf c o u
        ∃ t k, exec (.journalCapture c) s = .next t ∧ (t.ctx c).task = some k ∧ (t.ctx c).wantUnit = none
          ∧ k.used = t0.used + len ∧ k.entries = t0.entries + 1 ∧ k.unguarded = t0.unguarded ∧ k.part = false
          ∧ SameMem (q.putArea c (q.refusals c (j.areaAcc t0.used len)) j t0.used
              (bytes ++ List.replicate (len - bytes.length) (0 : Byte))) t
          ∧ (u.kind ≠ 3 → t.touch = s.touch ++ [⟨c, u⟩] ∧ t.slots = s.slots)
          ∧ (u.kind = 3 → u.row < 48 → t.slot u.row = { s.slot u.row with
              touched := true, acc := accSet (s.slot u.row).acc (⟨false, !(s.slot u.row).bad.isEmpty⟩ : Flag).bits } ∧ t.touch = s.touch))
      ∧ (t0.part = false → s.journal t0 = some j → t0.capacity < t0.used + len ∨ 4096 ≤ s.touch.length →
        s.openFor c seq .journal [{ j.areaAcc 0 64 with stream := 0 }] = (true, q) →
        ∃ t k, exec (.journalCapture c) s = .next t ∧ (t.ctx c).task = some k ∧ (t.ctx c).wantUnit = none
          ∧ k.part = true ∧ k.unguarded = 1 ∧ k.entries = t0.entries ∧ k.used = t0.used))

/-! ### Checkpoint epochs (R282 to R288) -/

/-- R283: a CKPT_ARM of mode 0 waits for a tick boundary; at its epoch point, which the settle points of exports due at that boundary precede
(R302), the epoch number advances and its reply carries it. R287, R289: the copy that a first tracked write waits for takes 16 granules of
staging and its read slots, with at most four copies in flight; the page is written, as it stands then, with its directory entry into the next
copy slot, in the order in which the copies started (the model's reading, log 70, DEDUCED); once its writes have been acknowledged the page is
copied and the write may proceed. R288: one that finds every copy slot used goes ahead uncopied and the epoch is incomplete. -/
def Obligations.EpochsAdvanceAtTheirPoint : Prop :=
  ∀ (s q : State) (c : CtxNo) (i w p : Nat) (m : Cmd) (o : Opnd),
    ((s.ctx c).cmds[i]? = some m → s.starting c 0x30 = some (i, m) → m.f 144 2 = 0 → m.reservedBad = none →
      s.earlierButExports c i = true → s.ckpt.pending = none →
      ∃ t, exec (.ckptArm c) s = .next t ∧ t.ckpt = { s.ckpt with pending := some c } ∧ PhaseAt t c i (.running (.epochWait 0 0 0))
        ∧ t = { s with ckpt := t.ckpt, ctxs := t.ctxs })
    ∧ ((s.ctx c).cmds[i]? = some m → s.up = true → s.ckpt.effective = true → s.writingUnit = false → s.ckpt.pending = some c →
      s.alert c = true → ReqsOk s.reqs → s.ckpt.armed = false → m.op = 0x30 → m.f 144 2 = 0 → m.phase = .running (.epochWait 0 0 0) →
      s.landCopies.ckpt.flights.any (fun f => f.written) = false → s.unshot (fun opens t => opens && !(s.ctx t).bucketRuns) = false →
      (∀ k, k < i → ∀ y, (s.ctx c).cmds[k]? = some y → ¬ (y.op = 0x30 ∧ y.phase.isRunning = true)) →
      ∃ t, exec .epochPoint s = .next t ∧ t.ckpt.epoch = s.ckpt.epoch + 1 ∧ t.ckpt.armed = false ∧ t.ckpt.pending = none
        ∧ PhaseAt t c i (.finished { Reply.ok with result0 := s.ckpt.epoch + 1, result1 := 0, result2 := 0 }) ∧ SameMem s t)
    ∧ (s.active c = true → (s.ctx c).wantPage = some p → s.ckpt.window p = some w → s.ckpt.opnd = some o →
      let v := s.landCopies
      let seq := (s.ctx c).wantSeq
      (v.ckpt.settled w = true →
        ∃ t, exec (.pageCopy c) s = .next t ∧ (t.ctx c).wantPage = none ∧ t.ckpt = v.ckpt ∧ SameMem s t
          ∧ t.staging = s.staging.filter (fun x => x.2 != copyUser c))
      ∧ (v.ckpt.settled w = false → v.ckpt.flight w = none →
        (v.ckpt.slots ≤ v.ckpt.slotsUsed →
          ∃ t, exec (.pageCopy c) s = .next t ∧ (t.ctx c).wantPage = none ∧ t.ckpt.incomplete = true
            ∧ t.ckpt.missedPages = s.ckpt.missedPages ++ [w] ∧ SameMem s t)
        ∧ (v.ckpt.slotsUsed < v.ckpt.slots → (s.xlat c p).isSome = true → v.ckpt.flights.length < 4 → 16 ≤ s.stagingFree →
          s.behind .staging 0 c seq = false → (∀ x ∈ s.staging, x.2 ≠ copyUser c) →
          let h : State := { (v.unwait c seq) with staging := s.staging ++ [(16, copyUser c)] }
          h.takeRaw c seq .ckpt (h.rawReads c seq .ckpt (p * 65536) 65536) = (true, q) →
          ∃ t, exec (.pageCopy c) s = .next t ∧ t.ckpt = { v.ckpt with flights := v.ckpt.flights ++ [⟨c, w, false⟩] }
            ∧ t.staging = s.staging ++ [(16, copyUser c)] ∧ t.reqs = q.reqs ∧ (t.ctx c).wantPage = some p ∧ SameMem s t))
      ∧ (v.ckpt.settled w = false → v.ckpt.flight w = some ⟨c, w, false⟩ →
        v.ckpt.flights.find? (fun f => !f.written) = some ⟨c, w, false⟩ →
        let parts := v.ckpt.copyParts o w (v.pageBytes c p)
        v.openFor c seq .ckpt (parts.map AreaPart.acc) = (true, q) →
        ∃ t, exec (.pageCopy c) s = .next t ∧ t.ckpt.copied = s.ckpt.copied ++ [w] ∧ (t.ctx c).wantPage = some p
          ∧ t.ckpt.flights = v.ckpt.flights.map (fun f => if f.page = w then { f with written := true } else f)
          ∧ SameMem (parts.foldl (fun x y => x.putArea c (x.refusals c y.acc) y.area y.off y.bytes) q) t))

/-! ### Descriptors, statistics and tables (R22 to R24, R122 to R134, R141, R145, R146, R205, R234, R291, R310, R344) -/

/-- R141: a DESC_CREATE reads its 128-byte image once, before it starts. R145: an image that passes every check takes the
lowest-numbered free entry, and the reply carries a handle that names it. R146: a DESC_FREE of an entry that is not in use, every
earlier command complete, frees the entry and advances its generation: its handle names nothing from then on. -/
def Obligations.DescriptorsCreatedAndFreed : Prop :=
  ∀ (s q : State) (c : CtxNo) (i k : Nat) (m : Cmd) (img : BitVec 1024), (s.ctx c).cmds[i]? = some m →
    (s.atAdmission c 0x10 = some (i, m) → s.starting c 0x10 = none → m.reservedBad = none → m.f 128 48 % 128 = 0 →
      (s.findRegion c (m.f 128 48) (m.f 128 48 + 127) true false).isSome = true → s.readFree c i (m.f 128 48) 128 = true →
      s.readImageRaw c m.seq (m.f 128 48) 128 = (true, q) →
      ∃ t, exec (.descCreate c) s = .next t ∧ SameMem s t ∧ t.descs = s.descs
        ∧ (t.ctx c).cmds[i]? = some { m with img := some (BitVec.ofNat 1024 (q.peekLe c (m.f 128 48) 128)) })
    ∧ (s.atAdmission c 0x10 = none → s.starting c 0x10 = some (i, m) → m.img = some img →
      s.imageBad c m.fmts (s.newDesc c m.fmts img) = none → s.freeDesc 0 1024 = some k →
      ∃ t, exec (.descCreate c) s = .next t ∧ t = { s with descs := s.descs ++ [(k, s.newDesc c m.fmts img)], ctxs := t.ctxs, waits := t.waits, sent := t.sent }
        ∧ PhaseAt t c i (.finished { Reply.ok with result0 := w32 (s.handleOf k) })
        ∧ t.handle c (s.handleOf k) = some (s.newDesc c m.fmts img) ∧ ∀ j, j < k → (s.descAt j).isSome = true)
    ∧ (s.starting c 0x11 = some (i, m) → s.earlierDone c i = true → (s.handle c (m.f 128 16)).isSome = true → m.reservedBad = none →
      s.descInUse (m.f 128 10) = false → Tbl.wf 0 s.descGen = true →
      ∃ t, exec (.descFree c) s = .next t ∧ t = { s with descs := t.descs, descGen := t.descGen, ctxs := t.ctxs, waits := t.waits, sent := t.sent }
        ∧ PhaseAt t c i (.finished .ok) ∧ t.handle c (m.f 128 16) = none ∧ t.descAt (m.f 128 10) = none
        ∧ Tbl.get 0 t.descGen (m.f 128 10) = Tbl.get 0 s.descGen (m.f 128 10) + 1
        ∧ ∀ j, j ≠ m.f 128 10 → t.descAt j = s.descAt j)

/-- R134: a QSTAT whose checks pass and whose areas are translated writes its table's record, with RANGES also the bank, and no other byte,
and completes; with CLEAR its table's counters, window and bank are
empty, and no other table changes. R133: a QCAL folds its bank into the entries of its target and replies with the counts. R130: a
window of 2^20 conversions ends. -/
def Obligations.StatisticsAndCalibration : Prop :=
  ∀ (s q : State) (c : CtxNo) (i : Nat) (m : Cmd) (o : Opnd) (rng : Option Opnd), (s.ctx c).cmds[i]? = some m → s.noConflict c i m = true →
    (s.starting c 0x18 = some (i, m) → (s.handle c (m.f 144 16)).isSome = true → s.opnd m.fmts (m.f 144 16) 0 = some o →
      (m.bit 13 = false ∨ (s.handle c (m.f 160 16)).isSome = true) → rng = (if m.bit 13 then s.opnd m.fmts (m.f 160 16) 1 else none) →
      s.qstatBad c m o rng = none →
      s.openWrites c m.seq (o.acc true false (o.byteSpans 0 64) :: rng.toList.map (fun r => r.acc true false (r.byteSpans 0 32768)))
        = (true, q) →
      let x := (q.windowEnd (m.f 128 3)).rt (m.f 128 3)
      let a := o.acc true false (o.byteSpans 0 64)
      let u := q.putArea c (q.refusals c a) o 0 (leBytes 64 x.statRecord)
      ∃ t, exec (.qstat c) s = .next t ∧ PhaseAt t c i (.finished .ok)
        ∧ (rng = none → SameMem u t)
        ∧ (∀ r, rng = some r → SameMem (u.putArea c (u.refusals c (r.acc true false (r.byteSpans 0 32768))) r 0 x.bankBytes) t)
        ∧ (m.bit 12 = true → (t.rt (m.f 128 3)).conv = 0 ∧ (t.rt (m.f 128 3)).clipLow = 0 ∧ (t.rt (m.f 128 3)).clipHigh = 0
            ∧ (t.rt (m.f 128 3)).winConv = 0 ∧ (t.rt (m.f 128 3)).winClips = 0 ∧ (t.rt (m.f 128 3)).drift = 0
            ∧ (t.rt (m.f 128 3)).ranges = [] ∧ (t.rt (m.f 128 3)).nanCount = 0)
        ∧ (t.rt (m.f 128 3)).entries = (s.rt (m.f 128 3)).entries ∧ ∀ j, j ≠ m.f 128 3 → t.rt j = s.rt j)
    ∧ (s.starting c 0x19 = some (i, m) → m.reservedBad = none → s.statTableBad c (m.f 128 3) 128 = none →
      s.statTableBad c (m.f 131 3) 131 = none →
      let bank := (s.rt (m.f 128 3)).ranges
      let r := bank.foldl (calStep (if m.f 134 1 = 0 then 8 else 4)) ((s.rt (m.f 131 3)).entries, ⟨0, 0, 0, 0, 0⟩)
      ∃ t, exec (.qcal c) s = .next t ∧ t = { s with rts := t.rts, ctxs := t.ctxs, waits := t.waits, sent := t.sent }
        ∧ PhaseAt t c i (.finished { Reply.ok with
            result0 := w32 (r.2.updated + r.2.constant * 2 ^ 16), result1 := w32 (4096 - bank.length + r.2.infinite * 2 ^ 16)
            result2 := w32 r.2.low })
        ∧ (t.rt (m.f 131 3)).entries = r.1 ∧ rtCode (t.rt (m.f 131 3)).hdr = m.f 134 1
        ∧ (m.bit 12 = true → (t.rt (m.f 128 3)).ranges = [])
        ∧ ∀ j, j ≠ m.f 128 3 → j ≠ m.f 131 3 → t.rt j = s.rt j)
    ∧ ∀ n : Fin 8, ((s.rt n.val).winConv < 2 ^ 20 → exec (.clipWindowEnd n) s = .next s)
      ∧ (2 ^ 20 ≤ (s.rt n.val).winConv → ∃ t, exec (.clipWindowEnd n) s = .next t ∧ t = { s with rts := t.rts }
        ∧ t.rt n.val = { s.rt n.val with winConv := 0, winClips := 0, windows := (s.rt n.val).windows + 1 }
        ∧ ∀ j, j ≠ n.val → t.rt j = s.rt j)

/-- R24, R123, R205, R234, R291, R310, R344: a TABLE_LOAD whose image is translated, no earlier command still writing it, and passes its
checks installs that image and completes with SUCCESS: the format, risk and stall-cause tables at once, the ramp and priority tables
for their next use; an image that fails a check changes no table and the reply names its first failure. R124: an earlier command that
has not started keeps the rescale table as it stood. -/
def Obligations.TableLoadInstallsImage : Prop :=
  ∀ (s q : State) (c : CtxNo) (i : Nat) (m : Cmd), s.atAdmission c 0x38 = some (i, m) → (s.ctx c).cmds[i]? = some m →
    (1 ≤ m.f 128 4 ∧ m.f 128 4 ≤ 8 →
      ∀ k ∈ (s.ctx c).cmds.take i, s.cmdDone c k = true ∨ k.statTables.contains (m.f 128 4 - 1) = false) →
    s.readFree c i (m.f 144 48) (m.f 192 32) = true → s.tableBad c m = none →
    s.readImageRaw c m.seq (m.f 144 48) (m.f 192 32) = (true, q) →
    let n := m.f 192 32
    let img := q.peekLe c (m.f 144 48) n
    (∀ r u, q.install c (m.f 128 4) n img = (some r, u) → ∃ t, exec (.tableLoad c) s = .next t ∧ PhaseAt t c i (.finished r)
      ∧ t.fmts = s.fmts ∧ t.rts = s.rts ∧ t.rampNext = s.rampNext ∧ t.riskTab = s.riskTab ∧ t.stallMap = s.stallMap
      ∧ t.prioNext = s.prioNext)
    ∧ (m.f 128 4 = 0 → formatBad (BitVec.ofNat 256 img) = none → ∃ t, exec (.tableLoad c) s = .next t
      ∧ PhaseAt t c i (.finished .ok)
      ∧ t.fmts = Vector.ofFn (fun (k : Fin 8) => setFld (setFld (imageWord (BitVec.ofNat 256 img) k.val) 3 1 0) 29 3 0))
    ∧ (m.f 128 4 = 9 → rampBad (BitVec.ofNat 640 img) = none → ∃ t, exec (.tableLoad c) s = .next t
      ∧ PhaseAt t c i (.finished .ok) ∧ t.rampNext = some (BitVec.ofNat 640 img) ∧ t.rampTab = s.rampTab)
    ∧ (m.f 128 4 = 10 → riskBad (BitVec.ofNat 640 img) = none → ∃ t, exec (.tableLoad c) s = .next t
      ∧ PhaseAt t c i (.finished .ok) ∧ t.riskTab = BitVec.ofNat 640 img ∧ t.risk.ticks = 0 ∧ t.risk.level = s.risk.level)
    ∧ (m.f 128 4 = 11 → stallBad (BitVec.ofNat 128 img) = none → ∃ t, exec (.tableLoad c) s = .next t
      ∧ PhaseAt t c i (.finished .ok)
      ∧ ∀ k : Fin 16, t.stallMap.get k = (BitVec.ofNat 128 img).extractLsb' (8 * k.val) 4)
    ∧ (m.f 128 4 = 12 → prioBad (BitVec.ofNat 128 img) = none → ∃ t, exec (.tableLoad c) s = .next t
      ∧ PhaseAt t c i (.finished .ok) ∧ t.prio = s.prio
      ∧ t.prioNext = some (Vector.ofFn (fun (k : Fin 8) => (BitVec.ofNat 128 img).extractLsb' (16 * k.val) 16)))
    ∧ (1 ≤ m.f 128 4 → m.f 128 4 ≤ 8 → ∀ u, q.install c (m.f 128 4) n img = (none, u) → ∃ t, exec (.tableLoad c) s = .next t
      ∧ PhaseAt t c i (.finished .ok) ∧ t.rt (m.f 128 4 - 1) = u.rt (m.f 128 4 - 1)
      ∧ (∀ j, j ≠ m.f 128 4 - 1 → t.rt j = s.rt j)
      ∧ ∀ k m0, k < i → (s.ctx c).cmds[k]? = some m0 → m0.phase.isQueued = true → m0.tabs = [] →
          ((t.ctx c).cmds[k]?).map (·.tabs) = some [s.bindTable c (m.f 128 4 - 1)])

/-! ### Export, import, position (R233, R242, R293, R296 to R299) -/

/-- R233, R293: a CTX_EXPORT whose checks pass, with no earlier command still using the bytes it will write (R203), waits for its target's
settle point; one of another context from a command that does not run as secure firmware is DENIED. R242: a context with no unit in progress
settles; R293, R294: the export that waits for it takes the context's state then, whose slots it reads (R322: an uncorrectable word sets
NONFINITE of its slot); it writes its image, the export count advances and the reply carries the image's length and tick. -/
def Obligations.ExportsSettleAndWrite : Prop :=
  ∀ (s q : State) (c d : CtxNo) (i : Nat) (m : Cmd) (o : Opnd) (opens : Bool), (s.ctx d).cmds[i]? = some m →
    s.opnd m.fmts (m.f 144 16) 0 = some o →
    (s.starting d 0x31 = some (i, m) → ctxOf (m.f 128 3) ≠ d → s.secureCtx d = false →
      ∃ t, exec (.ctxExport d) s = .next t ∧ OnlyCtx d s t ∧ PhaseAt t d i (.finished (.of stDenied)))
    ∧ (s.starting d 0x31 = some (i, m) → (ctxOf (m.f 128 3) = d ∨ s.secureCtx d = true) → (s.handle d (m.f 144 16)).isSome = true →
      m.reservedBad = none → (o.desc.canWrite && o.byteArea) = true →
      ((s.imageKey (ctxOf (m.f 128 3))).isNone = true →
        ∃ t, exec (.ctxExport d) s = .next t ∧ OnlyCtx d s t ∧ PhaseAt t d i (.finished (.of stAuth)))
      ∧ ((s.imageKey (ctxOf (m.f 128 3))).isSome = true →
        (s.noConflict d i m = false → exec (.ctxExport d) s = .next s)
        ∧ (s.noConflict d i m = true →
          ∃ t, exec (.ctxExport d) s = .next t ∧ OnlyCtx d s t ∧ PhaseAt t d i (.running (.exporting false false none)))))
    ∧ (s.up = true → s.canSettle c = true → (∀ e : CtxNo, ∀ x ∈ (s.ctx e).cmds, x.exportDue = false) →
      ((s.ctx c).settled = true → exec (.settlePoint c) s = .next s)
      ∧ ((s.ctx c).settled = false →
        ∃ t, exec (.settlePoint c) s = .next t ∧ t = { s with ctxs := t.ctxs, slots := (s.readOwnSlots c).slots }
          ∧ (∀ e, e ≠ c → t.ctx e = s.ctx e) ∧ t.ctx c = { s.ctx c with settled := true }))
    ∧ (s.up = true → s.canSettle c = true → (s.ctx c).settled = false → s.alert d = false → m.f 128 3 = c.val →
      m.phase = .running (.exporting true opens none) →
      let v := s.readOwnSlots c
      ∃ t, exec (.settlePoint c) s = .next t ∧ (t.ctx c).settled = true
        ∧ PhaseAt t d i (.running (.exporting true opens (some (v.imageHeader c opens, v.imageBody c)))))
    ∧ (∀ key hdr body, s.up = true → s.canSettle c = true → (s.ctx c).settled = true → s.unshot (fun _ x => x == c) = false →
      s.dueExport c = some (d, i, m) → s.alert d = true →
      m.phase = .running (.exporting true opens (some (hdr, body))) → s.imageKey c = some key → (s.ctx c).task = none →
      let len := 128 + body.length + 16
      len ≤ o.desc.size 0 → s.openAll d m.seq [o.acc true false (o.byteSpans 0 len)] = (true, q) →
      ∃ t, exec (.settlePoint c) s = .next t
        ∧ PhaseAt t d i (.finished { Reply.ok with result0 := w32 len, result1 := w32 (fld (BitVec.ofNat 1024 hdr) 160 32) })
        ∧ SameMem (q.putArea d (q.refusals d (o.acc true false (o.byteSpans 0 len))) o 0 (q.sealImage key hdr body s.free)) t
        ∧ t.sec = { s.sec with exportSeq := s.sec.exportSeq + 1, exported := true })

/-- R296, R297: a CTX_IMPORT from a context that is not secure is DENIED. One whose target is DISABLED and whose image's header passes
restores nothing and answers AUTH when the image does not open under the target's key; when it opens and everything it holds can be
placed, the target takes the image's state and the reply carries the tick of the image. -/
def Obligations.ImportRestoresContext : Prop :=
  ∀ (s q p : State) (c : CtxNo) (i : Nat) (m : Cmd) (o : Opnd) (h : BitVec 1024) (bytes : List Byte),
    s.starting c 0x32 = some (i, m) → (s.ctx c).cmds[i]? = some m → s.earlierDone c i = true →
    (s.secureCtx c = false → ∃ t, exec (.ctxImport c) s = .next t ∧ OnlyCtx c s t ∧ PhaseAt t c i (.finished (.of stDenied)))
    ∧ (s.secureCtx c = true → (s.handle c (m.f 144 16)).isSome = true → s.opnd m.fmts (m.f 144 16) 0 = some o → m.reservedBad = none →
      let x := ctxOf (m.f 128 3)
      let a1 := o.acc false false (o.byteSpans 0 128)
      let a := o.acc false false (o.byteSpans 0 (o.desc.size 0))
      let u := p.closeUnit c m.seq [a]
      (s.ctx x).state = .disabled → (s.ctx x).resetting = false →
      (o.desc.canRead && o.byteArea && decide (128 ≤ o.desc.size 0)) = true →
      s.openAll c m.seq [a1] = (true, q) → h = BitVec.ofNat 1024 (ofLeBytes (q.areaBytes c (q.refusals c a1) o 0 128)) →
      q.imageHeaderBad h (o.desc.size 0) = none → q.openAll c m.seq [a] = (true, p) →
      bytes = p.areaBytes c (p.refusals c a) o 0 (o.desc.size 0) →
      (u.openImage x h bytes = none → ∃ t, exec (.ctxImport c) s = .next t ∧ PhaseAt t c i (.finished (.of stAuth))
        ∧ t.descs = s.descs ∧ t.slots = s.slots ∧ t.rts = s.rts ∧ t.chains = s.chains ∧ t.touch = s.touch
        ∧ t.ctx x = s.ctx x ∧ SameMem s t)
      ∧ (∀ body, u.openImage x h bytes = some body → u.importBad x (readImage x h body) = none →
        ∃ t, exec (.ctxImport c) s = .next t ∧ PhaseAt t c i (.finished { Reply.ok with result0 := w32 (fld h 160 32) })
          ∧ (t.ctx x).state = CtxState.ofCode (fld h 83 2) ∧ SameMem s t
          ∧ t.descs.length = s.descs.length + (readImage x h body).descs.length
          ∧ t.touch = s.touch ++ (readImage x h body).touch))

/-- R298, R299: an ASSUME_POSITION from secure firmware with every other context DISABLED and no job ACTIVE, whose area is good, takes
the position, the group table and, on each channel, the contexts of the job records that mark it (at most 64, the last ones), and begins training
again, when a link reads NO_ANSWER (log 43, DEDUCED); it completes when every channel has trained or 2,800,000 EC have passed,
with the channels that trained, and waits until then. -/
def Obligations.AssumePositionTakesPlace : Prop :=
  ∀ (s q : State) (c : CtxNo) (i n : Nat) (m : Cmd) (o : Opnd), (s.ctx c).cmds[i]? = some m →
    (s.continuing c 0x33 = none → s.starting c 0x33 = some (i, m) → s.earlierDone c i = true →
      (s.secureCtx c = false → ∃ t, exec (.assumePosition c) s = .next t ∧ OnlyCtx c s t ∧ PhaseAt t c i (.finished (.of stDenied)))
      ∧ (s.secureCtx c = true → (s.handle c (m.f 144 16)).isSome = true → s.opnd m.fmts (m.f 144 16) 0 = some o → m.reservedBad = none →
        positionOk (m.f 128 15) = true → (∀ d, d ≠ c → (s.ctx d).state = .disabled) → s.jobActive = false →
        (o.desc.canRead && o.byteArea && decide (528 ≤ o.desc.size 0)) = true →
        let len := min (o.desc.size 0) (528 + 16 * 4096)
        let a := o.acc false false (o.byteSpans 0 len)
        let b := q.areaBytes c (q.refusals c a) o 0 len
        let groups : Vector (BitVec 256) 16 := Vector.ofFn (fun (k : Fin 16) => BitVec.ofNat 256 (numAt b (16 + 32 * k.val) 32))
        let recs : List (BitVec 128) := (List.range n).map (fun k => BitVec.ofNat 128 (numAt b (528 + 16 * k) 16))
        s.openAll c (m.seq) [a] = (true, q) → numAt b 0 16 = n → n ≤ 4096 → 528 + 16 * n ≤ o.desc.size 0 →
        groups.toList.all groupReservedOk = true → recs.all recordReservedOk = true →
        ∃ t, exec (.assumePosition c) s = .next t ∧ PhaseAt t c i (.running (.assume s.now))
          ∧ t.eng.position = BitVec.ofNat 15 (m.f 128 15) ∧ t.groups = groups ∧ SameMem s t
          ∧ ∀ k : Chan, (t.train.get k).probing = true ∧ (t.train.get k).link = 0 ∧ (t.portCh k).jobs =
            let mine := recs.filter (fun r => bitAt r (12 + k.val))
            (mine.map (fun r => recordCtx groups r s.now)).drop (mine.length - 64)))
    ∧ (∀ since, s.continuing c 0x33 = some (i, m) → m.phase = .running (.assume since) →
      ((∀ k : Chan, (s.train.get k).link = 1) ∨ since + 2800000 ≤ s.now →
        ∃ t, exec (.assumePosition c) s = .next t ∧ OnlyCtx c s t ∧ PhaseAt t c i (.finished { Reply.ok with
          result0 := w32 (packBits (s.train.toList.map (fun x => ((x.link == 1).toNat, 1)))) }))
      ∧ ((∃ k : Chan, (s.train.get k).link ≠ 1) → s.now < since + 2800000 → exec (.assumePosition c) s = .next s))

/-! ### Products, the lane bank and the Clamp (R47, R79 to R83, R97 to R112, R155, R205, R216 to R224, R237 to R244) -/

/-- R216, R217, R218: a GRADW or GRADX with good handles whose checks fail completes with the first failure and changes nothing else;
one whose checks pass takes the jig and split of the tiling rule and starts with the tiles its masks leave, or completes when they
leave none. R63, R206: one that commands after it may join starts with them as the members of J128C tiles, each with its run of whole
lane groups in member order. R206 lets the engine combine; that it always does, with every command that may join, is the model's choice
(log 18). -/
def Obligations.ProductsStart : Prop :=
  ∀ (s u : State) (c : CtxNo) (i jig sp : Nat) (m : Cmd) (dW : Bool) (p : ProdOps) (ts : List TileSpec),
    s.starting c (if dW then 0x01 else 0x02) = some (i, m) → (s.ctx c).cmds[i]? = some m → s.noConflict c i m = true →
    s.chainIdle m = true → s.prodHandlesOk c m dW = true → m.reservedBad = none → s.prod m dW = some p →
    (∀ r, s.prodBad c m p = some r →
      ∃ t, exec (if dW then .gradw c else .gradx c) s = .next t ∧ OnlyCtx c s t ∧ PhaseAt t c i (.finished r))
    ∧ (s.prodBad c m p = none → p.choose m = some (jig, sp) → s.combined c i m p = [] → s.tileOut c m p jig sp = (true, u, ts) →
      let j := u.prodJob c m p jig sp 0 m.seq (s.overlaps c i) ts
      ∃ t, exec (if dW then .gradw c else .gradx c) s = .next t ∧ t.slots = s.slots ∧ t.lane = s.lane
        ∧ (ts ≠ [] ∨ m.chainNo = 0 → SameMem s t)
        ∧ PhaseAt t c i (if ts.isEmpty then .finished (j.reply 0) else .running (.product j)))
    ∧ (s.prodBad c m p = none → p.choose m = some (jig, sp) → s.combined c i m p ≠ [] →
      ∃ t, exec (if dW then .gradw c else .gradx c) s = .next t ∧ t = { s with ctxs := t.ctxs, chains := t.chains }
        ∧ t.chains = (s.chainBegin c m (p.sig m 4 (p.tiles m 4 1 [] []))
            ((s.combined c i m p).filter (fun y => y.2.1.chainNo == m.chainNo)).length).chains
        ∧ (∀ d, d ≠ c → t.ctx d = s.ctx d)
        ∧ ∀ l k x q rest, s.combined c i m p = l ++ (k, x, q) :: rest →
          PhaseAt t c k (.running (.product (s.prodJob c x q 4 1 (8 * ((l.map (fun y => y.2.2.groups y.2.1)).foldl (· + ·) 0)) m.seq
            (s.overlaps c i) (q.tiles x 4 1 [] [])))))

/-- R205, R238 to R240, R243, R244: with the lane bank idle, a SLICE takes of the picked context's tile the units whose adjusted estimates,
with the prologue of a tile it begins, fit before the next boundary, an oversized unit alone and as the context's first slice of the tick,
and leaves a tile of which none fits until the next tick; the turn of the context's LEVEL is now its own, those of other LEVELs stand.
R47, R237, R155: a slice in progress fills the next interval into the banks of the tile's lane groups, with its estimate and the EC in
which it began, and its multiply-accumulates are counted. -/
def Obligations.SlicesAdmitAndFill : Prop :=
  ∀ (s v : State) (c : CtxNo) (i n : Nat) (m : Cmd) (j : ProdJob) (x : LanePart) (r : SliceRun) (w : SlicePart),
    s.up = true →
    m.phase = .running (.product j) →
    (s.lane.slice = none → s.admits = true → s.prioNext = none → s.pickCtx s.readyCtxs = some c → s.laneReady c = true →
      let a := s.prepareFor c
      (a.firstOpen c).1 = true → a.laneWaits c = false → a.laneCmd c = some (i, m) →
      j.tiles ≠ [] → (a.members c j.lead).any (a.placeable c) = false → a.readyTiles c j = [n] → a.partsAt c j.lead n = [x] →
      let first := x.run.filled
      let pro := if first = 0 ∧ x.run.early = false then x.ops.prologue x.cmd (partFills [x]) else 0
      let cost (u : Nat) : Nat := adjusted (s.ctx c).adj (a.partEst c [x] u + if u = first then pro else 0)
      let large := decide (14000 - s.fullReserve < cost first)
      let k := if large then (if (s.ctx c).slicedTick then 0 else 1)
        else fitUnits cost s.remaining (x.ops.intervals x.cmd x.job x.tile - first) first
      (k ≠ 0 → a.channels c j.lead (partFills [x]) = (true, v) →
        ∃ t, exec .slice s = .next t
          ∧ t = { s with pow := a.pow, lane := t.lane, ctxs := t.ctxs, waits := t.waits, schedTurn := t.schedTurn, schedLast := t.schedLast }
          ∧ t.lane = { s.lane.enter j.jig with slice := some ⟨c, [⟨j.lead, n, k, none⟩], false, large, partFills [x]⟩ }
          ∧ t.schedLast.get (s.level c) = c
          ∧ (∀ l, l ≠ s.level c → t.schedLast.get l = s.schedLast.get l ∧ t.schedTurn.get l = s.schedTurn.get l)
          ∧ (∀ d, d ≠ c → t.ctx d = s.ctx d) ∧ (t.ctx c).slicedTick = true ∧ (t.ctx c).slices = satAdd (s.ctx c).slices 1)
      ∧ (k = 0 → ∃ t, exec .slice s = .next t ∧ OnlyCtx c a t ∧ t.ctx c = { s.ctx c with laneDone := true }))
    ∧ (s.lane.slice = some r → r.parts = [w] → w.left ≠ 0 → s.active r.ctx = true → s.runningCmd r.ctx w.seq = some (i, m) →
      s.partsAt r.ctx w.seq w.tile = [x] → s.chainOf x.cmd = none →
      let k := x.run.filled
      let useB := xor x.run.firstB (k % 2 == 1)
      let g := x.ops.span x.cmd x.job x.tile k
      s.lane.room x.groups useB (x.ops.beatCount x.cmd x.job x.tile k) = true → s.pow.readyFor x.groups x.job.eight = true →
      ({ s with lane := s.lane.beginUnit w.seq w.tile s.now }).openAll r.ctx w.seq (partAccs [x] k ((x.ops.opaElems x.cmd x.job x.tile k x.tile.rows).map (fun _ => none))) = (true, v) →
      ∃ t f, exec .slice s = .next t ∧ t.lane.slice = some { r with parts := [{ w with left := w.left - 1, begun := none }] }
        ∧ (∀ h ∈ x.groups, (s.lane.bank h useB).interval = none → (h, useB) ∈ t.lane.drains
          ∧ (t.lane.bank h useB).interval = some (x.ops.intervalOf x.cmd x.job r.ctx x.run k (w.begun.getD s.now) (v.partEst r.ctx [x] k) f))
        ∧ PhaseAt t r.ctx x.place (.running (.product (x.job.modRun x.run.tile
          (fun y => y.fillOne (x.ops.intervals x.cmd x.job x.tile)))))
        ∧ (if x.job.eight then t.tel.mac8 else t.tel.mac16)
            = satAdd (if x.job.eight then s.tel.mac8 else s.tel.mac16) ((g.2 - g.1) * x.tile.rows.length * x.tile.cols)
        ∧ SameMem s t ∧ t.slots = s.slots)

/-- R47, R48, R91: a DRAIN promotes the lane group's bank that is next in order into its slot, touches no other slot and empties the bank; a
group that is not next, or one whose Clamp adders are taken, does nothing; R322: words that the drain replaces whole are no longer
uncorrectable; when the interval has left its last lane group it is
committed: the slot's word takes its flags and its count, and the context's units count it. -/
def Obligations.DrainPromotesLaneGroup : Prop :=
  ∀ (s : State) (it : Interval) (h g : Fin 16) (b : Bool) (rest : List (Fin 16 × Bool)), s.up = true → s.lane.drains = (h, b) :: rest →
    let bank := s.lane.bank h b
    let y := (if s.intoEmpty it then (s.slot it.slot).rewrite it h.val else s.slot it.slot).drain it bank.cells h.val
    let word := accSet y.acc (⟨it.sat, it.nf⟩ : Flag).bits
    let l := ({ s.lane with drains := rest }).emptyBank h b
    bank.interval = some it → it.slot < 48 →
    (g ≠ h ∨ 4 * s.now < s.lane.adders → exec (.drain g) s = .next s)
    ∧ (s.lane.adders ≤ 4 * s.now → l.drained it = false →
      ∃ t, exec (.drain h) s = .next t ∧ t = { s with slots := t.slots, lane := l } ∧ t.slot it.slot = { y with acc := word }
        ∧ ∀ k, k ≠ it.slot → t.slot k = s.slot k)
    ∧ (s.lane.adders ≤ 4 * s.now → l.drained it = true →
      ∃ t, exec (.drain h) s = .next t ∧ (t.slot it.slot).elems = y.elems ∧ (t.slot it.slot).bad = y.bad
        ∧ (t.slot it.slot).acc = accDrain word (if it.prescaled then 8 else 0)
        ∧ t.lane = { l with slice := t.lane.slice, endedInA := t.lane.endedInA }
        ∧ (t.ctx it.ctx).unitsDone = (s.ctx it.ctx).unitsDone + 1)

/-- R82: the later segments of a tile are added into its first in ascending order and their slots freed; a transient tile goes on to its
write-back, a resident one with MERGE to its merge, and any other stays in its resident slot. R110: a complete shadow slot is added into its
resident slot once nothing earlier writes it; the shadow is freed, and the resident slot is HELD or still ACTIVE for the command. -/
def Obligations.SegmentsAndShadowsMerge : Prop :=
  ∀ (s : State) (c : CtxNo) (r : Nat) (x : LanePart), s.active c = true →
    (s.firstRun c .segMerge = some x →
      let base := x.run.slot
      let later := (x.job.runs.filter (fun q => q.tile != x.run.tile)).map (fun q => q.slot)
      let y := later.foldl (fun z k => z.merge (s.slot k)) (s.slot base)
      (∀ k ∈ base :: later, k < 48) → (base :: later).Nodup →
      (x.run.resident = false →
        ∃ t, exec (.segmentMerge c) s = .next t ∧ SameMem s t ∧ t.slot base = { y with state := .writeback }
          ∧ (∀ k ∈ later, t.slot k = (s.slot k).release) ∧ (∀ k, k ∉ base :: later → t.slot k = s.slot k)
          ∧ PhaseAt t c x.place (.running (.product { x.job with runs := [{ x.run with phase := .writeBack, row := x.job.wbFrom }] })))
      ∧ (x.run.resident = true → x.cmd.bit 12 = true →
        ∃ t, exec (.segmentMerge c) s = .next t ∧ SameMem s t ∧ t.slot base = y ∧ (∀ k ∈ later, t.slot k = (s.slot k).release)
          ∧ PhaseAt t c x.place (.running (.product { x.job with runs := [{ x.run with phase := .mergeAdd }] })))
      ∧ (x.run.resident = true → x.cmd.bit 12 = false → x.job.mine = [base] →
        ∃ t, exec (.segmentMerge c) s = .next t ∧ (t.slot base).elems = y.elems ∧ (t.slot base).acc = y.acc
          ∧ (∀ k ∈ later, t.slot k = (s.slot k).release) ∧ (∀ k, k ∉ base :: later → t.slot k = s.slot k)))
    ∧ (s.firstRun c .mergeAdd = some x → s.residentFor c x.cmd x.tile = some r → x.job.mine.contains r = true ∨ (s.slot r).state = .held →
      s.noEarlierWriter c x.place r = true → s.mustCapture c (slotUnit r) = false → x.run.slot < 48 → x.run.slot ≠ r →
      x.run.slot ∉ x.job.mine →
      ∃ t, exec (.mergeAddition c) s = .next t ∧ (x.cmd.chainNo = 0 → SameMem s t)
        ∧ ((t.slot r).state = .held ∨ (t.slot r).state = .active)
        ∧ t.slot r = { (s.slot r).merge (s.slot x.run.slot) with state := (t.slot r).state }
        ∧ t.slot x.run.slot = (s.slot x.run.slot).release
        ∧ ∀ k, k ≠ r → k ≠ x.run.slot → k ∉ x.job.mine → t.slot k = s.slot k)

/-- R107, R178: a command that owes a header update reads its destination's header, writes the updated one, and completes with its
reply; R224: a ZERO writes zeros there. No other byte changes. The header of a GATHER_ACC's table is not captured first (R231). -/
def Obligations.HeaderUpdateWritesHeader : Prop :=
  ∀ (s q : State) (c : CtxNo) (i : Nat) (m : Cmd) (u : HdrUpd) (r : Reply) (o : Opnd), s.active c = true →
    findAt Cmd.owesHeader (s.ctx c).cmds 0 = some (i, m) → (s.ctx c).cmds[i]? = some m → m.phase = .header u r →
    s.opnd m.fmts u.desc u.stream = some o →
    m.op = 0x14 ∨ s.mustCapture c ⟨2, u.desc, 0, 0, 0⟩ = false →
    s.openWrites c m.seq ((if u.zero then [] else [o.hdrAcc false true]) ++ [o.hdrAcc true false]) = (true, q) →
    let v := if u.zero then 0 else hdrUpdate (q.readHdr c o) u.add u.count u.flags.toNat u.wbs
    ∃ t, exec (.headerUpdate c) s = .next t ∧ PhaseAt t c i (.finished r) ∧ t.slots = s.slots
      ∧ SameMem (q.writeB c (q.refusals c (o.hdrAcc true false)) o.desc.hdrAddr (leBytes 16 v)) t

/-- R79, R222: the last row of an ACCLOAD's preload is loaded, its slot is HELD and the command completes with the slot's word; a
zero source leaves the slot's word 0. R101, R102, R111, R223: the last row of an ACCSTORE is written back, but for what its freeze mask names,
and the command goes on to the header update its destination asks for, or completes with the number of rows written. -/
def Obligations.PreloadAndWriteBackEnd : Prop :=
  ∀ (s q v g : State) (c : CtxNo) (i k row : Nat) (m : Cmd) (b : Option Nat), s.active c = true → (s.ctx c).cmds[i]? = some m → k < 48 →
    (findAt Cmd.loading (s.ctx c).cmds 0 = some (i, m) → s.firstRun c .preload = none → m.phase = .running (.load k row b) →
      (m.f 179 2 = 0 → ∃ t, exec (.preload c) s = .next t ∧ SameMem s t ∧ (t.slot k).state = .held ∧ (t.slot k).elems = []
        ∧ (t.slot k).acc = 0 ∧ (∀ j, j ≠ k → t.slot j = s.slot j)
        ∧ PhaseAt t c i (.finished { Reply.ok with result0 := if m.bit 12 then w32 ((s.slot k).handle k) else 0 }))
      ∧ (∀ o d, s.loadSrc m (s.slot k) = some o → s.opnd m.fmts (s.slot k).desc 0 = some d → row ≠ 0 →
        ((s.slot k).block d).2.1 = row + 1 →
        let x := s.slot k
        let lay := if m.f 179 2 = 1 then 0 else m.f 181 2
        let co (e : Nat) := preCoord o lay x.feat ((x.block d).1 + row) ((x.block d).2.2.1 + e)
        let cols := List.range (x.block d).2.2.2
        let a := o.acc false false (cols.map (fun e => o.span (co e)))
        let y := cols.foldl (fun z e => z.loadAt (row * 128 + e) (loadElem o (q.elemBits c (q.refusals c a) o (co e)))) x
        (s.setPhase c i (.running (.load k row (some (b.getD s.now))))).openAll c m.seq [a] = (true, q) →
        ∃ t, exec (.preload c) s = .next t ∧ SameMem s t ∧ t.slot k = { y with state := .held } ∧ (∀ j, j ≠ k → t.slot j = s.slot j)
          ∧ PhaseAt t c i (.finished { Reply.ok with acc := y.acc, result0 := if m.bit 12 then w32 (x.handle k) else 0 })))
    ∧ (∀ written flags tab mask w bytes, findAt s.writingBack (s.ctx c).cmds 0 = some (i, m) →
      m.phase = .running (.store k row written flags tab mask) → s.storePlan m k tab mask = some w → w.rows.length = row + 1 →
      m.bit 15 = false → s.readMask c w = (true, v, bytes) →
      let fz := w.frozen bytes
      let ks := w.live fz (w.rows.getD row 0)
      let v1 := v.setPhase c i (.running (.store k row written flags tab (some bytes)))
      ks ≠ [] → v1.streamGo c m.seq (fun u => v1.rowEc c w (row + u)) (w.rows.length - row) = (true, g) →
      (g.streamStart c).mustCapture c (w.unit (w.rows.getD row 0)) = false →
      let as := w.rowAccs (w.rows.getD row 0) ks
      let sp := (as.headD (w.dst.acc false true [])).spans
      (g.streamStart c).openWrites c m.seq as = (true, q) →
      let z := ks.foldl (State.wbElem c w (s.slot k) (q.refusals c (w.dst.acc false true sp))
        (q.refusals c (w.dst.acc true false sp)) (w.rows.getD row 0) (w.slotRows.getD row 0)) (q, Flag.clear)
      let word := accSet (s.slot k).acc (Nat.lor flags z.2.bits)
      ∃ t, exec (.writeBack c) s = .next t ∧ SameMem z.1 t ∧ (∀ j, j ≠ k → t.slot j = s.slot j)
        ∧ (m.bit 12 = false → t.slot k = { s.slot k with state := .held, acc := word })
        ∧ PhaseAt t c i (if w.dst.desc.hdrEn then
            .header ⟨w.dst.idx, 0, w.add, accCount word + (if w.add then 1 else 0), w32 (accFlags word), 1, false⟩
              { Reply.ok with acc := word, result0 := w32 (written + 1) }
          else .finished { Reply.ok with acc := word, result0 := w32 (written + 1) }))

/-- R97, R222: an ACCLOAD with RESIDENT takes the lowest-numbered FREE slot for its block, one with a handle the HELD slot it names, and
its preload begins. R109, R223: an ACCSTORE puts its HELD slot in WRITEBACK, with RELEASE its handle names nothing from then on. R98:
a ZERO of a HELD slot makes every element and the word zero. None of these while the slot's bank is to be rewritten (R324). -/
def Obligations.SlotCommandsStart : Prop :=
  ∀ (s : State) (c : CtxNo) (i k f : Nat) (m : Cmd) (d : Opnd) (w : WbPlan), (s.ctx c).cmds[i]? = some m → s.noConflict c i m = true →
    m.reservedBad = none →
    (s.starting c 0x04 = some (i, m) → s.accloadHandlesOk c m = true → m.bit 12 = true → s.opnd m.fmts (m.f 144 16) 0 = some d →
      s.accloadBad c m d (m.f 176 3) (m.f 192 32) (m.f 224 32) = none → s.freeSlot = some f →
      ∃ t, exec (.accload c) s = .next t ∧ t = { s with slots := t.slots, ctxs := t.ctxs } ∧ PhaseAt t c i (.running (.load f 0 none))
        ∧ t.slot f = { (s.slot f).take .preload c d.idx (m.f 176 3) (m.f 192 32) (m.f 224 32) with resident := true }
        ∧ (∀ j, j ≠ f → t.slot j = s.slot j) ∧ ∀ j, j < f → (s.slot j).state ≠ .free)
    ∧ (s.slotHandle c (m.f 128 16) = some k → (s.slot k).state = .held → s.slotShut k = false →
      (s.starting c 0x04 = some (i, m) → s.accloadHandlesOk c m = true → m.bit 12 = false → s.opnd m.fmts (s.slot k).desc 0 = some d →
        s.accloadBad c m d (s.slot k).feat (m.f 192 32) (m.f 224 32) = none → s.mustCapture c (slotUnit k) = false →
        ∃ t, exec (.accload c) s = .next t ∧ t = { s with slots := t.slots, ctxs := t.ctxs } ∧ PhaseAt t c i (.running (.load k 0 none))
          ∧ t.slot k = { s.slot k with state := .preload } ∧ ∀ j, j ≠ k → t.slot j = s.slot j)
      ∧ (s.starting c 0x05 = some (i, m) → s.accstoreHandlesOk c m = true → s.storePlan m k none none = some w → s.accstoreBad c m w = none →
        (m.bit 12 = false ∨ s.mustCapture c (slotUnit k) = false) →
        ∃ t, exec (.accstore c) s = .next t ∧ t = { s with slots := t.slots, ctxs := t.ctxs }
          ∧ PhaseAt t c i (.running (.store k 0 0 0 (s.bindFor c m w.dst) none))
          ∧ t.slot k = { s.slot k with state := .writeback, gen := if m.bit 12 then (s.slot k).gen + 1 else (s.slot k).gen }
          ∧ (m.bit 12 = true → t.slotHandle c (m.f 128 16) = none) ∧ ∀ j, j ≠ k → t.slot j = s.slot j)
      ∧ (s.starting c 0x06 = some (i, m) → m.bit 12 = false → s.mustCapture c (slotUnit k) = false →
        ∃ t, exec (.zeroSlot c) s = .next t ∧ t = { s with slots := t.slots, ctxs := t.ctxs, waits := t.waits, sent := t.sent }
          ∧ PhaseAt t c i (.finished .ok)
          ∧ t.slot k = { s.slot k with elems := [], bad := [], acc := 0 } ∧ ∀ j, j ≠ k → t.slot j = s.slot j))

/-- R224: a ZERO of a tensor whose first page is not translated has started and stores nothing; its last unit translated, it stores
zeros over that unit's elements and goes on to zero the header, or completes. -/
def Obligations.ZeroTensorStoresZeros : Prop :=
  ∀ (s q g : State) (c : CtxNo) (i : Nat) (m : Cmd) (o : Opnd), (s.ctx c).cmds[i]? = some m → s.opnd m.fmts (m.f 128 16) 0 = some o →
    let blk (u : Nat) : List (Nat → Nat) :=
      (List.range (zeroUnit o u).2.2).map (fun k => o.desc.view 0 (zeroUnit o u).1 ((zeroUnit o u).2.1 + k))
    let ec := if o.desc.format = 7 then 2 else 1
    (s.continuing c 0x06 = none → s.starting c 0x06 = some (i, m) → m.bit 12 = true → s.noConflict c i m = true →
      (s.handle c (m.f 128 16)).isSome = true → m.reservedBad = none → (o.output && fmtClass o.fmt != 2) = true →
      (s.ctx c).task = none → zeroUnits o ≠ 0 →
      (s.setPhase c i (.running (.zeroTensor 0))).streamGo c m.seq (fun _ => ec) (zeroUnits o - 0) = (true, g) →
      (g.streamStart c).openWrites c m.seq [o.acc true false ((blk 0).map o.span)] = (false, q) →
      ∃ t, exec (.zeroTensor c) s = .next t ∧ SameMem s t ∧ PhaseAt t c i (.running (.zeroTensor 0)))
    ∧ (∀ u, s.continuing c 0x06 = some (i, m) → m.phase = .running (.zeroTensor u) → zeroUnits o = u + 1 →
      s.mustCapture c ⟨1, o.idx, 0, (zeroUnit o u).1 / 128, (zeroUnit o u).2.1 / 128⟩ = false →
      s.streamGo c m.seq (fun _ => ec) (zeroUnits o - u) = (true, g) →
      (g.streamStart c).openWrites c m.seq [o.acc true false ((blk u).map o.span)] = (true, q) →
      ∃ t, exec (.zeroTensor c) s = .next t
        ∧ SameMem ((blk u).foldl (fun x e => x.putBits c (q.refusals c (o.acc true false ((blk u).map o.span))) o e 0) q) t
        ∧ PhaseAt t c i (if o.desc.hdrEn then .header ⟨o.idx, 0, false, 0, 0, 0, true⟩ .ok else .finished .ok))

/-! ### REDUCE, copies, gathers (R70, R164 to R178, R221, R226, R227) -/

/-- R221: a REDUCE whose checks pass starts with its first row and both its tables bound. R70 to R72: the slice of its last tile holds the
rows in the stationary banks and their results in the lane totals, stores the results, and ends the command with its flags and the number
of its rows. R167: a copy onto itself completes at once, one whose overlap fits no form is refused with OVERLAP. R155, R166, R169: the
last unit of a copy by rows is read and written and the copy completes; a copy by blocks reads what is left of a block whole before it
stores a segment of it, and with its last segment completes and gives back its channels or staging; a staged unit's read phase takes
staging and stores nothing, its write phase stores every element and gives the staging back, and one whose page is gone by then stops with
PAGE_FAULT. -/
def Obligations.ReduceAndCopies : Prop :=
  ∀ (s q g h v : State) (c : CtxNo) (i op u : Nat) (m : Cmd) (src dst : Opnd) (els : List (Nat → Nat)) (blk : List Nat), (s.ctx c).cmds[i]? = some m →
    (s.opnd m.fmts (m.f 128 16) 0 = some src → s.opnd m.fmts (m.f 144 16) 1 = some dst →
      (s.starting c 0x03 = some (i, m) → s.noConflict c i m = true → (s.handle c (m.f 128 16)).isSome = true →
        (s.handle c (m.f 144 16)).isSome = true → m.reservedBad = none → s.reduceBad c m src dst = none →
        ∃ t, exec (.reduce c) s = .next t ∧ OnlyCtx c s t
          ∧ PhaseAt t c i (.running (.reduceRows 0 0 (s.bindFor c m src) (s.bindFor c m dst) (s.overlaps c i))))
      ∧ (∀ r w b row acc tab dtab early, s.up = true → s.lane.slice = some r → r.ctx = c → r.parts = [w] → w.left ≠ 0 → w.begun = some b →
        s.active c = true → s.runningCmd c w.seq = some (i, m) → m.phase = .running (.reduceRows row acc tab dtab early) →
        src.desc.rows (m.f 160 3) ≤ row + 128 →
        let axis := m.f 160 3
        let n := min 128 (src.desc.rows axis - row)
        let as := reduceAccs src dst axis row n
        s.openWrites c m.seq as = (true, q) →
        let pres := reducePres src axis
        let eight := reduceEight src axis
        let f := src.heldFmt pres eight
        let ers := reduceElems src axis row n
        let rows := ers.map (q.reduceRead c ((as.take 1).flatMap (q.refusals c)) src tab pres)
        let tots := rows.map (fun y => reduceTotal (m.f 163 3) eight (heldRow f eight (y.map (·.1))))
        let words := tots.map (fun y => totalWord y.1 y.2.1)
        let outs := ((upFrom row n).zip words).map (fun y =>
          (y.1, reduceOut (m.f 163 3) src dst tab dtab pres (src.desc.view axis y.1 0) (dst.desc.coords y.1) y.2))
        let lane := (q.lane.loadBlocks 0 0 (reduceHold f eight (rows.map (fun y => y.map (·.1))))).putTotals words
        let x := (ers.zip rows).foldl (fun y e => y.recordStats src (e.1.zip (e.2.map (·.2.2)))) { q with lane := lane }
        let z := outs.foldl (State.reducePut c (BitVec.ofNat 16 m.seq.toNat) ((as.drop 1).flatMap (q.refusals c)) dst dtab.isSome) x
        let fl := (joinFlags (rows.flatMap (fun y => y.map (·.2.1)))).or
          ((joinFlags (tots.map (·.2.2))).or (joinFlags (outs.map (·.2.2.1))))
        ∃ t, exec .slice s = .next t ∧ SameMem z t ∧ t.slots = s.slots ∧ t.lane = { lane with slice := none }
          ∧ PhaseAt t c i (.finished { Reply.ok with acc := accSet acc (fl.bits + (if pres then 8 else 0)),
                                                     result0 := w32 (src.desc.rows axis) })))
    ∧ (op = 0x12 ∨ op = 0x13 → s.copyOps m = some (src, dst) →
      let cmd := if op = 0x12 then Instr.xpose c else Instr.permute c
      let perm := m.perm src.desc.ndim
      let mode := copyMode src dst perm
      let us := directUnits mode dst
      let est (k : Nat) : Nat := s.directEst c src perm ((us.getD (u + k) ([], false)).1)
      (s.continuing c op = none → s.starting c op = some (i, m) → s.noConflict c i m = true → (s.handle c (m.f 128 16)).isSome = true →
        (s.handle c (m.f 144 16)).isSome = true → m.reservedBad = none → copyBad m src dst = none →
        (mode = .identity → ∃ t, exec cmd s = .next t ∧ OnlyCtx c s t ∧ PhaseAt t c i (.finished .ok))
        ∧ (mode = .refused → ∃ t, exec cmd s = .next t ∧ OnlyCtx c s t ∧ PhaseAt t c i (.finished (.of stOverlap))))
      ∧ (s.continuing c op = some (i, m) → m.phase = .running (.copy u [] blk) →
        s.streamGo c m.seq est (us.length - u) = (true, g) → g.copyHolds c m mode src = (true, h) →
        (mode = .rows → us.length = u + 1 → (us[u]?).map (·.1) = some els →
          (h.streamStart c).openWrites c m.seq [copyReads src perm els, copyWrites dst els] = (true, q) →
          ∃ t, exec cmd s = .next t ∧ SameMem (q.copyStore c dst els (q.copyBits c src perm els)) t ∧ PhaseAt t c i (.finished .ok))
        ∧ (∀ d, mode = .blocks d →
          (blk ≠ [] → us.length = u + 1 → (us[u]?).map (·.1) = some els →
            (h.streamStart c).openWrites c m.seq [copyWrites dst els] = (true, q) →
            ∃ t, exec cmd s = .next t ∧ SameMem (q.copyStore c dst els blk) t ∧ PhaseAt t c i (.finished .ok)
              ∧ (c, m.seq) ∉ t.dovetail ∧ ∀ p ∈ t.staging, p.2 ≠ stagingUser c m.seq)
          ∧ (blk = [] → (us[u]?).map (·.1) = some els →
            let rest := blockRest (us.drop u)
            let bits := q.copyBits c src perm rest
            let w := (q.closeUnit c m.seq [copyReads src perm rest]).setPhase c i (.running (.copy u [] bits))
            rest ≠ [] → (h.streamStart c).openAll c m.seq [copyReads src perm rest] = (true, q) →
            (w.streamStart c).openWrites c m.seq [copyWrites dst els] = (false, v) →
            ∃ t, exec cmd s = .next t ∧ SameMem s t ∧ PhaseAt t c i (.running (.copy u [] bits)))))
      ∧ (s.continuing c op = some (i, m) → stagedUnit mode dst u = some els → m.phase = .running (.copy u [] blk) →
        s.streamGo c m.seq (fun k => s.stagedEst c src dst perm mode (u + k)) (stagedUnits mode dst - u) = (true, g) →
        g.takeStaging c m.seq 1 (copyGranules mode src) (stagingUser c m.seq) = (true, h) →
        (h.streamStart c).openSome c m.seq .demand [copyReads src perm els, copyWrites dst els] [copyReads src perm els] = (true, v) →
        v.copiedFirst c m.seq [copyWrites dst els] = (true, q) →
        ∃ t, exec cmd s = .next t ∧ SameMem s t ∧ PhaseAt t c i (.running (.copy u (q.copyBits c src perm els) []))
          ∧ t.staging = (if copyGranules mode src = 0 ∨ s.staging.any (fun p => p.2 == stagingUser c m.seq) = true then s.staging
            else s.staging ++ [(copyGranules mode src, stagingUser c m.seq)]))
      ∧ (∀ b bits, s.continuing c op = some (i, m) → stagedUnit mode dst u = some els → m.phase = .running (.copy u (b :: bits) blk) →
        s.takeSlots c m.seq .demand [copyWrites dst els] = (true, v) →
        ((∀ n ∈ accNeeds (copyWrites dst els) 0 (v.plan c (copyWrites dst els)), v.needOk c n = true) →
          ∃ t, exec cmd s = .next t ∧ SameMem (v.copyStore c dst els (b :: bits)) t ∧ PhaseAt t c i (.running (.copy (u + 1) [] []))
            ∧ t.staging = s.staging.filter (fun p => p.2 != stagingUser c m.seq))
        ∧ ((∃ n ∈ accNeeds (copyWrites dst els) 0 (v.plan c (copyWrites dst els)), v.needOk c n = false) →
          ∃ t, exec cmd s = .next t ∧ PhaseAt t c i (.finished (.of stPageFault))
            ∧ t.staging = s.staging.filter (fun p => p.2 != stagingUser c m.seq))))

/-- R170, R227: a GATHER_ACC whose checks pass starts at the first window of the first pass. R171, R172, R177: a window whose indices, rows
and data are translated and whose rows can be locked reads its data, updates its rows and takes their locks, and the cursor goes on; its
counts, of the first pass only, wait with it. R176, R178: when the last window's writes are acknowledged it commits, and the command goes on
to the header update or completes with its counts. -/
def Obligations.GatherRunsWindows : Prop :=
  ∀ (s q v o : State) (c : CtxNo) (i : Nat) (m : Cmd) (g : GatherOps), (s.ctx c).cmds[i]? = some m → s.gatherOps m = some g →
    (s.starting c 0x14 = some (i, m) → s.noConflict c i m = true → (s.handle c (m.f 128 16)).isSome = true →
      (s.handle c (m.f 144 16)).isSome = true → (s.handle c (m.f 160 16)).isSome = true → m.reservedBad = none → gatherBad m g = none →
      ∃ t, exec (.gatherAcc c) s = .next t ∧ OnlyCtx c s t ∧ PhaseAt t c i (.running (.gather ⟨0, 0, false, [], 0, 0, 0, 0⟩)))
    ∧ (∀ j, s.active c = true → findAt Cmd.gathering (s.ctx c).cmds 0 = some (i, m) → m.phase = .running (.gather j) →
      let es := windowEntries (g.idx.desc.size 0) j.win
      let ia := g.idx.acc false false (es.map (fun x => g.idx.span (fun _ => x)))
      let p := q.gatherPlan c m g ia es
      let cs := passCols (g.dat.desc.size 0) j.pass
      let a := g.accs ia p cs.1 cs.2
      s.openAll c m.seq [ia] = (true, q) → q.streamGo c m.seq (q.gatherEst c g j a p) (g.left j) = (true, v) →
      (v.streamStart c).openWrites c m.seq a.all = (true, o) → o.locksFree g.tbl.idx (p.rows.map (·.1)) = true →
      (∀ r ∈ p.rows, o.mustCapture c ⟨4, g.tbl.idx, 0, r.1, 0⟩ = false) →
      let z := p.rows.foldl (State.gatherRow o c g (o.refusals c a.dat) (o.refusals c a.rd) (a.wr.flatMap (fun x => o.refusals c x.2))
        cs.1 cs.2) (o, Flag.clear)
      ∃ t w, exec (.gleanerWindow c) s = .next t.rowsDone ∧ t.slots = s.slots ∧ SameMem z.1 t
        ∧ PhaseAt t c i (.running (.gather (g.next { j with flying := j.flying ++ [w] })))
        ∧ t.locks = s.locks ++ p.rows.map (fun r => ⟨c, g.tbl.idx, r.1, m.seq, j.pass, j.win⟩)
        ∧ w.neg = (if j.pass = 0 then p.neg else 0) ∧ w.oob = (if j.pass = 0 then p.oob else 0)
        ∧ w.valid = (decide (j.pass = 0) && !p.rows.isEmpty) ∧ w.flags = z.2.bits)
    ∧ (∀ j w idx, s.alive = true → m.phase = .running (.gather j) → j.ended = true → j.flying = [w] →
      (∀ l ∈ ({ s with reqs := dropAt s.reqs idx }).freeLocks.locks, l.ctx ≠ c ∨ l.seq ≠ m.seq) →
      let n := j.used + w.valid.toNat
      let acc := accSet j.acc w.flags
      let r : Reply := { Reply.ok with acc := acc, result0 := w32 (j.neg + w.neg), result1 := w32 (j.oob + w.oob), result2 := w32 n }
      ∃ t, exec (.requestComplete idx .clean) s = .next t ∧ SameMem s t
        ∧ PhaseAt t c i (if g.tbl.desc.hdrEn = true ∧ 0 < n then .header ⟨g.tbl.idx, 2, true, n, w32 (accFlags acc), n, false⟩ r
          else .finished r))

/-- R260, R261: a BUCKET_SEND or BUCKET_RECV whose checks pass and whose job has no FAILED context takes a job context on every channel
of its job and is in flight; one whose job has FAILED completes with JOB_FAILED; one whose bucket of the job is in flight already names
that field. -/
def Obligations.BucketCommandsStart : Prop :=
  ∀ (s : State) (c : CtxNo) (m : Cmd) (o : Opnd) (send : Bool), s.up = true →
    (∀ k : Chan, (s.port.chans.get k).inq = [] ∧ (s.port.chans.get k).rx = []) → s.port.partials = [] → s.port.results = [] →
    s.port.aborts = [] → s.port.inputs = [] → (s.ctx c).cmds = [m] → (∀ d : CtxNo, d ≠ c → (s.ctx d).cmds = []) →
    s.starting c (if send then 0x20 else 0x21) = some (0, m) → (s.handle c (m.f 128 16)).isSome = true →
    s.opnd m.fmts (m.f 128 16) 0 = some o → m.reservedBad = none → s.bucketBad c m o = none → (s.jobRec m.job).kept = none →
    m.bit 177 = false →
    ((s.jobCtxs m.job).any (fun (j : JobCtx) => j.state == .failed) = true →
      ∃ t, exec (if send then .bucketSend c else .bucketRecv c) s = .next t ∧ PhaseAt t c 0 (.finished (.of stJobFailed)) ∧ SameMem s t)
    ∧ ((s.jobCtxs m.job).any (fun (j : JobCtx) => j.state == .failed) = false →
      (if send then (s.jobRec m.job).sends else (s.jobRec m.job).recvs).contains m.bucket = true →
      ∃ t, exec (if send then .bucketSend c else .bucketRecv c) s = .next t ∧ PhaseAt t c 0 (.finished (.bad 160)) ∧ SameMem s t)
    ∧ ((s.jobCtxs m.job).any (fun (j : JobCtx) => j.state == .failed) = false →
      (if send then (s.jobRec m.job).sends else (s.jobRec m.job).recvs).contains m.bucket = false →
      (∀ k : Chan, (s.portCh k).jobs.length < 64) → (send = true → (s.jobRec m.job).sentUpTo < m.bucket) →
      ∃ t, exec (if send then .bucketSend c else .bucketRecv c) s = .next t ∧ SameMem s t
        ∧ PhaseAt t c 0 (.running (if send then .send 0 else .recv 0 0 0xFFFF 0 0 0 false false))
        ∧ ∀ k ∈ gChannels (s.jobGroup m.job) false, ((t.portCh k).ctx m.job).isSome = true)

/-! ### The whole machine -/

/-- Every command leaves the queue of waiting commands and the clock alone, and the state that only secure firmware, the debug port,
power-off or entry to RETAIN, and the tables' reset at READY (R353) may change changes by their commands alone: the key slots (R331, R333, R341), the region table (R335), the group table
(R259, R298), the fuse count (R338), the debug port's level (R339), the custom formats (R24). -/
def Obligations.OnlyNamedCommandsChangeSecureState : Prop :=
  ∀ (i : Instr) (s t : State), exec i s = .next t →
    t.pending = s.pending ∧ t.now = s.now
    ∧ (match i with
       | .keyWriteEffect | .keyCommit _ _ | .dbgResponseVerified | .offRequest | .rampComplete | .neighbourReport => True
       | _ => t.sec.keys = s.sec.keys)
    ∧ (match i with
       | .dbgResponseVerified | .lock | .offRequest => True
       | _ => t.sec.dbg = s.sec.dbg ∧ t.sec.refuses = s.sec.refuses)
    ∧ (match i with
       | .regionCommit _ _ | .offRequest | .rampComplete | .neighbourReport => True
       | _ => t.regions = s.regions)
    ∧ (match i with
       | .groupCommit _ _ | .assumePosition _ | .offRequest | .neighbourReport => True
       | _ => t.groups = s.groups)
    ∧ (match i with
       | .svnCommit _ => True
       | _ => t.eng.fwSvn = s.eng.fwSvn)
    ∧ (match i with
       | .tableLoad _ | .offRequest | .neighbourReport => True
       | _ => t.fmts = s.fmts)

/-- The frame of every command: a piece of the state that `mayChange` does not name for it is the same after it; no command of a context
named there with `.ctx c` alone changes the registers, commands or records of another context. -/
def Obligations.CommandsChangeOnlyTheirPieces : Prop :=
  ∀ (i : Instr) (s t : State) (p : Piece), exec i s = .next t → p ∉ mayChange i → p.Same s t

/-- Every step keeps the invariant: both memories keep their canonical form (the model's, log 3), no request class holds more than its
limit and no bank more than 48 (R148, R149), the TLB at most 256 pages, eight walks, 16 invalidations (R152, R365), and the error
log 63 entries of which at most 63 are unread (R327, R368). -/
def Obligations.StepKeepsInvariant : Prop :=
  ∀ s t : State, s.Inv → step s = .next t → t.Inv

/-- The state right after reset meets the invariant (R148, R149, R152, R327, R361, R365, R368), and both its memories list nothing, which is the
model's choice (log 3). -/
def Obligations.ResetMeetsInvariant : Prop := State.reset.Inv ∧ State.reset.core = [] ∧ State.reset.remote = []
end

