-- ==== Sys2Proof/Laws/State.lean ====
section
/-! SUPPORT. What each elementary update of State leaves alone: one lemma for each field and update. -/

-- One after another: checked at once, the proofs would ask for too much memory.
set_option Elab.async false

namespace Sys2Proof.Machine

variable (s : State)

@[simp] theorem State.setCtx_pending (c : CtxNo) (x : Context) : (s.setCtx c x).pending = s.pending := rfl
@[simp] theorem State.setCtx_now (c : CtxNo) (x : Context) : (s.setCtx c x).now = s.now := rfl
@[simp] theorem State.setCtx_free (c : CtxNo) (x : Context) : (s.setCtx c x).free = s.free := rfl
@[simp] theorem State.setCtx_core (c : CtxNo) (x : Context) : (s.setCtx c x).core = s.core := rfl
@[simp] theorem State.setCtx_remote (c : CtxNo) (x : Context) : (s.setCtx c x).remote = s.remote := rfl
@[simp] theorem State.setCtx_evt (c : CtxNo) (x : Context) : (s.setCtx c x).evt = s.evt := rfl
@[simp] theorem State.setCtx_eng (c : CtxNo) (x : Context) : (s.setCtx c x).eng = s.eng := rfl
@[simp] theorem State.setCtx_tick (c : CtxNo) (x : Context) : (s.setCtx c x).tick = s.tick := rfl
@[simp] theorem State.setCtx_fmts (c : CtxNo) (x : Context) : (s.setCtx c x).fmts = s.fmts := rfl
@[simp] theorem State.setCtx_rts (c : CtxNo) (x : Context) : (s.setCtx c x).rts = s.rts := rfl
@[simp] theorem State.setCtx_prio (c : CtxNo) (x : Context) : (s.setCtx c x).prio = s.prio := rfl
@[simp] theorem State.setCtx_prioNext (c : CtxNo) (x : Context) : (s.setCtx c x).prioNext = s.prioNext := rfl
@[simp] theorem State.setCtx_schedLast (c : CtxNo) (x : Context) : (s.setCtx c x).schedLast = s.schedLast := rfl
@[simp] theorem State.setCtx_schedTurn (c : CtxNo) (x : Context) : (s.setCtx c x).schedTurn = s.schedTurn := rfl
@[simp] theorem State.setCtx_stallMap (c : CtxNo) (x : Context) : (s.setCtx c x).stallMap = s.stallMap := rfl
@[simp] theorem State.setCtx_rampTab (c : CtxNo) (x : Context) : (s.setCtx c x).rampTab = s.rampTab := rfl
@[simp] theorem State.setCtx_rampNext (c : CtxNo) (x : Context) : (s.setCtx c x).rampNext = s.rampNext := rfl
@[simp] theorem State.setCtx_riskTab (c : CtxNo) (x : Context) : (s.setCtx c x).riskTab = s.riskTab := rfl
@[simp] theorem State.setCtx_regions (c : CtxNo) (x : Context) : (s.setCtx c x).regions = s.regions := rfl
@[simp] theorem State.setCtx_groups (c : CtxNo) (x : Context) : (s.setCtx c x).groups = s.groups := rfl
@[simp] theorem State.setCtx_descs (c : CtxNo) (x : Context) : (s.setCtx c x).descs = s.descs := rfl
@[simp] theorem State.setCtx_descGen (c : CtxNo) (x : Context) : (s.setCtx c x).descGen = s.descGen := rfl
@[simp] theorem State.setCtx_slots (c : CtxNo) (x : Context) : (s.setCtx c x).slots = s.slots := rfl
@[simp] theorem State.setCtx_touch (c : CtxNo) (x : Context) : (s.setCtx c x).touch = s.touch := rfl
@[simp] theorem State.setCtx_lane (c : CtxNo) (x : Context) : (s.setCtx c x).lane = s.lane := rfl
@[simp] theorem State.setCtx_staging (c : CtxNo) (x : Context) : (s.setCtx c x).staging = s.staging := rfl
@[simp] theorem State.setCtx_tlb (c : CtxNo) (x : Context) : (s.setCtx c x).tlb = s.tlb := rfl
@[simp] theorem State.setCtx_walks (c : CtxNo) (x : Context) : (s.setCtx c x).walks = s.walks := rfl
@[simp] theorem State.setCtx_invals (c : CtxNo) (x : Context) : (s.setCtx c x).invals = s.invals := rfl
@[simp] theorem State.setCtx_invalReq (c : CtxNo) (x : Context) : (s.setCtx c x).invalReq = s.invalReq := rfl
@[simp] theorem State.setCtx_invalDone (c : CtxNo) (x : Context) : (s.setCtx c x).invalDone = s.invalDone := rfl
@[simp] theorem State.setCtx_reqs (c : CtxNo) (x : Context) : (s.setCtx c x).reqs = s.reqs := rfl
@[simp] theorem State.setCtx_sent (c : CtxNo) (x : Context) : (s.setCtx c x).sent = s.sent := rfl
@[simp] theorem State.setCtx_waits (c : CtxNo) (x : Context) : (s.setCtx c x).waits = s.waits := rfl
@[simp] theorem State.setCtx_dovetail (c : CtxNo) (x : Context) : (s.setCtx c x).dovetail = s.dovetail := rfl
@[simp] theorem State.setCtx_locks (c : CtxNo) (x : Context) : (s.setCtx c x).locks = s.locks := rfl
@[simp] theorem State.setCtx_chains (c : CtxNo) (x : Context) : (s.setCtx c x).chains = s.chains := rfl
@[simp] theorem State.setCtx_chainOut (c : CtxNo) (x : Context) : (s.setCtx c x).chainOut = s.chainOut := rfl
@[simp] theorem State.setCtx_port (c : CtxNo) (x : Context) : (s.setCtx c x).port = s.port := rfl
@[simp] theorem State.setCtx_ckpt (c : CtxNo) (x : Context) : (s.setCtx c x).ckpt = s.ckpt := rfl
@[simp] theorem State.setCtx_risk (c : CtxNo) (x : Context) : (s.setCtx c x).risk = s.risk := rfl
@[simp] theorem State.setCtx_log (c : CtxNo) (x : Context) : (s.setCtx c x).log = s.log := rfl
@[simp] theorem State.setCtx_tel (c : CtxNo) (x : Context) : (s.setCtx c x).tel = s.tel := rfl
@[simp] theorem State.setCtx_pow (c : CtxNo) (x : Context) : (s.setCtx c x).pow = s.pow := rfl
@[simp] theorem State.setCtx_bist (c : CtxNo) (x : Context) : (s.setCtx c x).bist = s.bist := rfl
@[simp] theorem State.setCtx_sec (c : CtxNo) (x : Context) : (s.setCtx c x).sec = s.sec := rfl
@[simp] theorem State.setCtx_mgmt (c : CtxNo) (x : Context) : (s.setCtx c x).mgmt = s.mgmt := rfl
@[simp] theorem State.setCtx_train (c : CtxNo) (x : Context) : (s.setCtx c x).train = s.train := rfl

@[simp] theorem State.modCtx_pending (c : CtxNo) (f : Context → Context) : (s.modCtx c f).pending = s.pending := rfl
@[simp] theorem State.modCtx_now (c : CtxNo) (f : Context → Context) : (s.modCtx c f).now = s.now := rfl
@[simp] theorem State.modCtx_free (c : CtxNo) (f : Context → Context) : (s.modCtx c f).free = s.free := rfl
@[simp] theorem State.modCtx_core (c : CtxNo) (f : Context → Context) : (s.modCtx c f).core = s.core := rfl
@[simp] theorem State.modCtx_remote (c : CtxNo) (f : Context → Context) : (s.modCtx c f).remote = s.remote := rfl
@[simp] theorem State.modCtx_evt (c : CtxNo) (f : Context → Context) : (s.modCtx c f).evt = s.evt := rfl
@[simp] theorem State.modCtx_eng (c : CtxNo) (f : Context → Context) : (s.modCtx c f).eng = s.eng := rfl
@[simp] theorem State.modCtx_tick (c : CtxNo) (f : Context → Context) : (s.modCtx c f).tick = s.tick := rfl
@[simp] theorem State.modCtx_fmts (c : CtxNo) (f : Context → Context) : (s.modCtx c f).fmts = s.fmts := rfl
@[simp] theorem State.modCtx_rts (c : CtxNo) (f : Context → Context) : (s.modCtx c f).rts = s.rts := rfl
@[simp] theorem State.modCtx_prio (c : CtxNo) (f : Context → Context) : (s.modCtx c f).prio = s.prio := rfl
@[simp] theorem State.modCtx_prioNext (c : CtxNo) (f : Context → Context) : (s.modCtx c f).prioNext = s.prioNext := rfl
@[simp] theorem State.modCtx_schedLast (c : CtxNo) (f : Context → Context) : (s.modCtx c f).schedLast = s.schedLast := rfl
@[simp] theorem State.modCtx_schedTurn (c : CtxNo) (f : Context → Context) : (s.modCtx c f).schedTurn = s.schedTurn := rfl
@[simp] theorem State.modCtx_stallMap (c : CtxNo) (f : Context → Context) : (s.modCtx c f).stallMap = s.stallMap := rfl
@[simp] theorem State.modCtx_rampTab (c : CtxNo) (f : Context → Context) : (s.modCtx c f).rampTab = s.rampTab := rfl
@[simp] theorem State.modCtx_rampNext (c : CtxNo) (f : Context → Context) : (s.modCtx c f).rampNext = s.rampNext := rfl
@[simp] theorem State.modCtx_riskTab (c : CtxNo) (f : Context → Context) : (s.modCtx c f).riskTab = s.riskTab := rfl
@[simp] theorem State.modCtx_regions (c : CtxNo) (f : Context → Context) : (s.modCtx c f).regions = s.regions := rfl
@[simp] theorem State.modCtx_groups (c : CtxNo) (f : Context → Context) : (s.modCtx c f).groups = s.groups := rfl
@[simp] theorem State.modCtx_descs (c : CtxNo) (f : Context → Context) : (s.modCtx c f).descs = s.descs := rfl
@[simp] theorem State.modCtx_descGen (c : CtxNo) (f : Context → Context) : (s.modCtx c f).descGen = s.descGen := rfl
@[simp] theorem State.modCtx_slots (c : CtxNo) (f : Context → Context) : (s.modCtx c f).slots = s.slots := rfl
@[simp] theorem State.modCtx_touch (c : CtxNo) (f : Context → Context) : (s.modCtx c f).touch = s.touch := rfl
@[simp] theorem State.modCtx_lane (c : CtxNo) (f : Context → Context) : (s.modCtx c f).lane = s.lane := rfl
@[simp] theorem State.modCtx_staging (c : CtxNo) (f : Context → Context) : (s.modCtx c f).staging = s.staging := rfl
@[simp] theorem State.modCtx_tlb (c : CtxNo) (f : Context → Context) : (s.modCtx c f).tlb = s.tlb := rfl
@[simp] theorem State.modCtx_walks (c : CtxNo) (f : Context → Context) : (s.modCtx c f).walks = s.walks := rfl
@[simp] theorem State.modCtx_invals (c : CtxNo) (f : Context → Context) : (s.modCtx c f).invals = s.invals := rfl
@[simp] theorem State.modCtx_invalReq (c : CtxNo) (f : Context → Context) : (s.modCtx c f).invalReq = s.invalReq := rfl
@[simp] theorem State.modCtx_invalDone (c : CtxNo) (f : Context → Context) : (s.modCtx c f).invalDone = s.invalDone := rfl
@[simp] theorem State.modCtx_reqs (c : CtxNo) (f : Context → Context) : (s.modCtx c f).reqs = s.reqs := rfl
@[simp] theorem State.modCtx_sent (c : CtxNo) (f : Context → Context) : (s.modCtx c f).sent = s.sent := rfl
@[simp] theorem State.modCtx_waits (c : CtxNo) (f : Context → Context) : (s.modCtx c f).waits = s.waits := rfl
@[simp] theorem State.modCtx_dovetail (c : CtxNo) (f : Context → Context) : (s.modCtx c f).dovetail = s.dovetail := rfl
@[simp] theorem State.modCtx_locks (c : CtxNo) (f : Context → Context) : (s.modCtx c f).locks = s.locks := rfl
@[simp] theorem State.modCtx_chains (c : CtxNo) (f : Context → Context) : (s.modCtx c f).chains = s.chains := rfl
@[simp] theorem State.modCtx_chainOut (c : CtxNo) (f : Context → Context) : (s.modCtx c f).chainOut = s.chainOut := rfl
@[simp] theorem State.modCtx_port (c : CtxNo) (f : Context → Context) : (s.modCtx c f).port = s.port := rfl
@[simp] theorem State.modCtx_ckpt (c : CtxNo) (f : Context → Context) : (s.modCtx c f).ckpt = s.ckpt := rfl
@[simp] theorem State.modCtx_risk (c : CtxNo) (f : Context → Context) : (s.modCtx c f).risk = s.risk := rfl
@[simp] theorem State.modCtx_log (c : CtxNo) (f : Context → Context) : (s.modCtx c f).log = s.log := rfl
@[simp] theorem State.modCtx_tel (c : CtxNo) (f : Context → Context) : (s.modCtx c f).tel = s.tel := rfl
@[simp] theorem State.modCtx_pow (c : CtxNo) (f : Context → Context) : (s.modCtx c f).pow = s.pow := rfl
@[simp] theorem State.modCtx_bist (c : CtxNo) (f : Context → Context) : (s.modCtx c f).bist = s.bist := rfl
@[simp] theorem State.modCtx_sec (c : CtxNo) (f : Context → Context) : (s.modCtx c f).sec = s.sec := rfl
@[simp] theorem State.modCtx_mgmt (c : CtxNo) (f : Context → Context) : (s.modCtx c f).mgmt = s.mgmt := rfl
@[simp] theorem State.modCtx_train (c : CtxNo) (f : Context → Context) : (s.modCtx c f).train = s.train := rfl

@[simp] theorem State.setPhase_pending (c : CtxNo) (i : Nat) (p : Phase) : (s.setPhase c i p).pending = s.pending := rfl
@[simp] theorem State.setPhase_now (c : CtxNo) (i : Nat) (p : Phase) : (s.setPhase c i p).now = s.now := rfl
@[simp] theorem State.setPhase_free (c : CtxNo) (i : Nat) (p : Phase) : (s.setPhase c i p).free = s.free := rfl
@[simp] theorem State.setPhase_core (c : CtxNo) (i : Nat) (p : Phase) : (s.setPhase c i p).core = s.core := rfl
@[simp] theorem State.setPhase_remote (c : CtxNo) (i : Nat) (p : Phase) : (s.setPhase c i p).remote = s.remote := rfl
@[simp] theorem State.setPhase_evt (c : CtxNo) (i : Nat) (p : Phase) : (s.setPhase c i p).evt = s.evt := rfl
@[simp] theorem State.setPhase_eng (c : CtxNo) (i : Nat) (p : Phase) : (s.setPhase c i p).eng = s.eng := rfl
@[simp] theorem State.setPhase_tick (c : CtxNo) (i : Nat) (p : Phase) : (s.setPhase c i p).tick = s.tick := rfl
@[simp] theorem State.setPhase_fmts (c : CtxNo) (i : Nat) (p : Phase) : (s.setPhase c i p).fmts = s.fmts := rfl
@[simp] theorem State.setPhase_rts (c : CtxNo) (i : Nat) (p : Phase) : (s.setPhase c i p).rts = s.rts := rfl
@[simp] theorem State.setPhase_prio (c : CtxNo) (i : Nat) (p : Phase) : (s.setPhase c i p).prio = s.prio := rfl
@[simp] theorem State.setPhase_prioNext (c : CtxNo) (i : Nat) (p : Phase) : (s.setPhase c i p).prioNext = s.prioNext := rfl
@[simp] theorem State.setPhase_schedLast (c : CtxNo) (i : Nat) (p : Phase) : (s.setPhase c i p).schedLast = s.schedLast := rfl
@[simp] theorem State.setPhase_schedTurn (c : CtxNo) (i : Nat) (p : Phase) : (s.setPhase c i p).schedTurn = s.schedTurn := rfl
@[simp] theorem State.setPhase_stallMap (c : CtxNo) (i : Nat) (p : Phase) : (s.setPhase c i p).stallMap = s.stallMap := rfl
@[simp] theorem State.setPhase_rampTab (c : CtxNo) (i : Nat) (p : Phase) : (s.setPhase c i p).rampTab = s.rampTab := rfl
@[simp] theorem State.setPhase_rampNext (c : CtxNo) (i : Nat) (p : Phase) : (s.setPhase c i p).rampNext = s.rampNext := rfl
@[simp] theorem State.setPhase_riskTab (c : CtxNo) (i : Nat) (p : Phase) : (s.setPhase c i p).riskTab = s.riskTab := rfl
@[simp] theorem State.setPhase_regions (c : CtxNo) (i : Nat) (p : Phase) : (s.setPhase c i p).regions = s.regions := rfl
@[simp] theorem State.setPhase_groups (c : CtxNo) (i : Nat) (p : Phase) : (s.setPhase c i p).groups = s.groups := rfl
@[simp] theorem State.setPhase_descs (c : CtxNo) (i : Nat) (p : Phase) : (s.setPhase c i p).descs = s.descs := rfl
@[simp] theorem State.setPhase_descGen (c : CtxNo) (i : Nat) (p : Phase) : (s.setPhase c i p).descGen = s.descGen := rfl
@[simp] theorem State.setPhase_slots (c : CtxNo) (i : Nat) (p : Phase) : (s.setPhase c i p).slots = s.slots := rfl
@[simp] theorem State.setPhase_touch (c : CtxNo) (i : Nat) (p : Phase) : (s.setPhase c i p).touch = s.touch := rfl
@[simp] theorem State.setPhase_lane (c : CtxNo) (i : Nat) (p : Phase) : (s.setPhase c i p).lane = s.lane := rfl
@[simp] theorem State.setPhase_staging (c : CtxNo) (i : Nat) (p : Phase) : (s.setPhase c i p).staging = s.staging := rfl
@[simp] theorem State.setPhase_tlb (c : CtxNo) (i : Nat) (p : Phase) : (s.setPhase c i p).tlb = s.tlb := rfl
@[simp] theorem State.setPhase_walks (c : CtxNo) (i : Nat) (p : Phase) : (s.setPhase c i p).walks = s.walks := rfl
@[simp] theorem State.setPhase_invals (c : CtxNo) (i : Nat) (p : Phase) : (s.setPhase c i p).invals = s.invals := rfl
@[simp] theorem State.setPhase_invalReq (c : CtxNo) (i : Nat) (p : Phase) : (s.setPhase c i p).invalReq = s.invalReq := rfl
@[simp] theorem State.setPhase_invalDone (c : CtxNo) (i : Nat) (p : Phase) : (s.setPhase c i p).invalDone = s.invalDone := rfl
@[simp] theorem State.setPhase_reqs (c : CtxNo) (i : Nat) (p : Phase) : (s.setPhase c i p).reqs = s.reqs := rfl
@[simp] theorem State.setPhase_sent (c : CtxNo) (i : Nat) (p : Phase) : (s.setPhase c i p).sent = s.sent := rfl
@[simp] theorem State.setPhase_waits (c : CtxNo) (i : Nat) (p : Phase) : (s.setPhase c i p).waits = s.waits := rfl
@[simp] theorem State.setPhase_dovetail (c : CtxNo) (i : Nat) (p : Phase) : (s.setPhase c i p).dovetail = s.dovetail := rfl
@[simp] theorem State.setPhase_locks (c : CtxNo) (i : Nat) (p : Phase) : (s.setPhase c i p).locks = s.locks := rfl
@[simp] theorem State.setPhase_chains (c : CtxNo) (i : Nat) (p : Phase) : (s.setPhase c i p).chains = s.chains := rfl
@[simp] theorem State.setPhase_chainOut (c : CtxNo) (i : Nat) (p : Phase) : (s.setPhase c i p).chainOut = s.chainOut := rfl
@[simp] theorem State.setPhase_port (c : CtxNo) (i : Nat) (p : Phase) : (s.setPhase c i p).port = s.port := rfl
@[simp] theorem State.setPhase_ckpt (c : CtxNo) (i : Nat) (p : Phase) : (s.setPhase c i p).ckpt = s.ckpt := rfl
@[simp] theorem State.setPhase_risk (c : CtxNo) (i : Nat) (p : Phase) : (s.setPhase c i p).risk = s.risk := rfl
@[simp] theorem State.setPhase_log (c : CtxNo) (i : Nat) (p : Phase) : (s.setPhase c i p).log = s.log := rfl
@[simp] theorem State.setPhase_tel (c : CtxNo) (i : Nat) (p : Phase) : (s.setPhase c i p).tel = s.tel := rfl
@[simp] theorem State.setPhase_pow (c : CtxNo) (i : Nat) (p : Phase) : (s.setPhase c i p).pow = s.pow := rfl
@[simp] theorem State.setPhase_bist (c : CtxNo) (i : Nat) (p : Phase) : (s.setPhase c i p).bist = s.bist := rfl
@[simp] theorem State.setPhase_sec (c : CtxNo) (i : Nat) (p : Phase) : (s.setPhase c i p).sec = s.sec := rfl
@[simp] theorem State.setPhase_mgmt (c : CtxNo) (i : Nat) (p : Phase) : (s.setPhase c i p).mgmt = s.mgmt := rfl
@[simp] theorem State.setPhase_train (c : CtxNo) (i : Nat) (p : Phase) : (s.setPhase c i p).train = s.train := rfl

@[simp] theorem State.unpin_pending (c : CtxNo) : (s.unpin c).pending = s.pending := rfl
@[simp] theorem State.unpin_now (c : CtxNo) : (s.unpin c).now = s.now := rfl
@[simp] theorem State.unpin_free (c : CtxNo) : (s.unpin c).free = s.free := rfl
@[simp] theorem State.unpin_core (c : CtxNo) : (s.unpin c).core = s.core := rfl
@[simp] theorem State.unpin_remote (c : CtxNo) : (s.unpin c).remote = s.remote := rfl
@[simp] theorem State.unpin_evt (c : CtxNo) : (s.unpin c).evt = s.evt := rfl
@[simp] theorem State.unpin_eng (c : CtxNo) : (s.unpin c).eng = s.eng := rfl
@[simp] theorem State.unpin_tick (c : CtxNo) : (s.unpin c).tick = s.tick := rfl
@[simp] theorem State.unpin_fmts (c : CtxNo) : (s.unpin c).fmts = s.fmts := rfl
@[simp] theorem State.unpin_rts (c : CtxNo) : (s.unpin c).rts = s.rts := rfl
@[simp] theorem State.unpin_prio (c : CtxNo) : (s.unpin c).prio = s.prio := rfl
@[simp] theorem State.unpin_prioNext (c : CtxNo) : (s.unpin c).prioNext = s.prioNext := rfl
@[simp] theorem State.unpin_schedLast (c : CtxNo) : (s.unpin c).schedLast = s.schedLast := rfl
@[simp] theorem State.unpin_schedTurn (c : CtxNo) : (s.unpin c).schedTurn = s.schedTurn := rfl
@[simp] theorem State.unpin_stallMap (c : CtxNo) : (s.unpin c).stallMap = s.stallMap := rfl
@[simp] theorem State.unpin_rampTab (c : CtxNo) : (s.unpin c).rampTab = s.rampTab := rfl
@[simp] theorem State.unpin_rampNext (c : CtxNo) : (s.unpin c).rampNext = s.rampNext := rfl
@[simp] theorem State.unpin_riskTab (c : CtxNo) : (s.unpin c).riskTab = s.riskTab := rfl
@[simp] theorem State.unpin_regions (c : CtxNo) : (s.unpin c).regions = s.regions := rfl
@[simp] theorem State.unpin_groups (c : CtxNo) : (s.unpin c).groups = s.groups := rfl
@[simp] theorem State.unpin_descs (c : CtxNo) : (s.unpin c).descs = s.descs := rfl
@[simp] theorem State.unpin_descGen (c : CtxNo) : (s.unpin c).descGen = s.descGen := rfl
@[simp] theorem State.unpin_slots (c : CtxNo) : (s.unpin c).slots = s.slots := rfl
@[simp] theorem State.unpin_touch (c : CtxNo) : (s.unpin c).touch = s.touch := rfl
@[simp] theorem State.unpin_lane (c : CtxNo) : (s.unpin c).lane = s.lane := rfl
@[simp] theorem State.unpin_staging (c : CtxNo) : (s.unpin c).staging = s.staging := rfl
@[simp] theorem State.unpin_tlb (c : CtxNo) : (s.unpin c).tlb = s.tlb := rfl
@[simp] theorem State.unpin_walks (c : CtxNo) : (s.unpin c).walks = s.walks := rfl
@[simp] theorem State.unpin_invals (c : CtxNo) : (s.unpin c).invals = s.invals := rfl
@[simp] theorem State.unpin_invalReq (c : CtxNo) : (s.unpin c).invalReq = s.invalReq := rfl
@[simp] theorem State.unpin_invalDone (c : CtxNo) : (s.unpin c).invalDone = s.invalDone := rfl
@[simp] theorem State.unpin_reqs (c : CtxNo) : (s.unpin c).reqs = s.reqs := rfl
@[simp] theorem State.unpin_sent (c : CtxNo) : (s.unpin c).sent = s.sent := rfl
@[simp] theorem State.unpin_waits (c : CtxNo) : (s.unpin c).waits = s.waits := rfl
@[simp] theorem State.unpin_dovetail (c : CtxNo) : (s.unpin c).dovetail = s.dovetail := rfl
@[simp] theorem State.unpin_locks (c : CtxNo) : (s.unpin c).locks = s.locks := rfl
@[simp] theorem State.unpin_chains (c : CtxNo) : (s.unpin c).chains = s.chains := rfl
@[simp] theorem State.unpin_chainOut (c : CtxNo) : (s.unpin c).chainOut = s.chainOut := rfl
@[simp] theorem State.unpin_port (c : CtxNo) : (s.unpin c).port = s.port := rfl
@[simp] theorem State.unpin_ckpt (c : CtxNo) : (s.unpin c).ckpt = s.ckpt := rfl
@[simp] theorem State.unpin_risk (c : CtxNo) : (s.unpin c).risk = s.risk := rfl
@[simp] theorem State.unpin_log (c : CtxNo) : (s.unpin c).log = s.log := rfl
@[simp] theorem State.unpin_tel (c : CtxNo) : (s.unpin c).tel = s.tel := rfl
@[simp] theorem State.unpin_pow (c : CtxNo) : (s.unpin c).pow = s.pow := rfl
@[simp] theorem State.unpin_bist (c : CtxNo) : (s.unpin c).bist = s.bist := rfl
@[simp] theorem State.unpin_sec (c : CtxNo) : (s.unpin c).sec = s.sec := rfl
@[simp] theorem State.unpin_mgmt (c : CtxNo) : (s.unpin c).mgmt = s.mgmt := rfl
@[simp] theorem State.unpin_train (c : CtxNo) : (s.unpin c).train = s.train := rfl

@[simp] theorem State.unwait_pending (c : CtxNo) (q : Word) : (s.unwait c q).pending = s.pending := rfl
@[simp] theorem State.unwait_now (c : CtxNo) (q : Word) : (s.unwait c q).now = s.now := rfl
@[simp] theorem State.unwait_free (c : CtxNo) (q : Word) : (s.unwait c q).free = s.free := rfl
@[simp] theorem State.unwait_core (c : CtxNo) (q : Word) : (s.unwait c q).core = s.core := rfl
@[simp] theorem State.unwait_remote (c : CtxNo) (q : Word) : (s.unwait c q).remote = s.remote := rfl
@[simp] theorem State.unwait_evt (c : CtxNo) (q : Word) : (s.unwait c q).evt = s.evt := rfl
@[simp] theorem State.unwait_eng (c : CtxNo) (q : Word) : (s.unwait c q).eng = s.eng := rfl
@[simp] theorem State.unwait_tick (c : CtxNo) (q : Word) : (s.unwait c q).tick = s.tick := rfl
@[simp] theorem State.unwait_ctxs (c : CtxNo) (q : Word) : (s.unwait c q).ctxs = s.ctxs := rfl
@[simp] theorem State.unwait_fmts (c : CtxNo) (q : Word) : (s.unwait c q).fmts = s.fmts := rfl
@[simp] theorem State.unwait_rts (c : CtxNo) (q : Word) : (s.unwait c q).rts = s.rts := rfl
@[simp] theorem State.unwait_prio (c : CtxNo) (q : Word) : (s.unwait c q).prio = s.prio := rfl
@[simp] theorem State.unwait_prioNext (c : CtxNo) (q : Word) : (s.unwait c q).prioNext = s.prioNext := rfl
@[simp] theorem State.unwait_schedLast (c : CtxNo) (q : Word) : (s.unwait c q).schedLast = s.schedLast := rfl
@[simp] theorem State.unwait_schedTurn (c : CtxNo) (q : Word) : (s.unwait c q).schedTurn = s.schedTurn := rfl
@[simp] theorem State.unwait_stallMap (c : CtxNo) (q : Word) : (s.unwait c q).stallMap = s.stallMap := rfl
@[simp] theorem State.unwait_rampTab (c : CtxNo) (q : Word) : (s.unwait c q).rampTab = s.rampTab := rfl
@[simp] theorem State.unwait_rampNext (c : CtxNo) (q : Word) : (s.unwait c q).rampNext = s.rampNext := rfl
@[simp] theorem State.unwait_riskTab (c : CtxNo) (q : Word) : (s.unwait c q).riskTab = s.riskTab := rfl
@[simp] theorem State.unwait_regions (c : CtxNo) (q : Word) : (s.unwait c q).regions = s.regions := rfl
@[simp] theorem State.unwait_groups (c : CtxNo) (q : Word) : (s.unwait c q).groups = s.groups := rfl
@[simp] theorem State.unwait_descs (c : CtxNo) (q : Word) : (s.unwait c q).descs = s.descs := rfl
@[simp] theorem State.unwait_descGen (c : CtxNo) (q : Word) : (s.unwait c q).descGen = s.descGen := rfl
@[simp] theorem State.unwait_slots (c : CtxNo) (q : Word) : (s.unwait c q).slots = s.slots := rfl
@[simp] theorem State.unwait_touch (c : CtxNo) (q : Word) : (s.unwait c q).touch = s.touch := rfl
@[simp] theorem State.unwait_lane (c : CtxNo) (q : Word) : (s.unwait c q).lane = s.lane := rfl
@[simp] theorem State.unwait_staging (c : CtxNo) (q : Word) : (s.unwait c q).staging = s.staging := rfl
@[simp] theorem State.unwait_tlb (c : CtxNo) (q : Word) : (s.unwait c q).tlb = s.tlb := rfl
@[simp] theorem State.unwait_walks (c : CtxNo) (q : Word) : (s.unwait c q).walks = s.walks := rfl
@[simp] theorem State.unwait_invals (c : CtxNo) (q : Word) : (s.unwait c q).invals = s.invals := rfl
@[simp] theorem State.unwait_invalReq (c : CtxNo) (q : Word) : (s.unwait c q).invalReq = s.invalReq := rfl
@[simp] theorem State.unwait_invalDone (c : CtxNo) (q : Word) : (s.unwait c q).invalDone = s.invalDone := rfl
@[simp] theorem State.unwait_reqs (c : CtxNo) (q : Word) : (s.unwait c q).reqs = s.reqs := rfl
@[simp] theorem State.unwait_sent (c : CtxNo) (q : Word) : (s.unwait c q).sent = s.sent := rfl
@[simp] theorem State.unwait_dovetail (c : CtxNo) (q : Word) : (s.unwait c q).dovetail = s.dovetail := rfl
@[simp] theorem State.unwait_locks (c : CtxNo) (q : Word) : (s.unwait c q).locks = s.locks := rfl
@[simp] theorem State.unwait_chains (c : CtxNo) (q : Word) : (s.unwait c q).chains = s.chains := rfl
@[simp] theorem State.unwait_chainOut (c : CtxNo) (q : Word) : (s.unwait c q).chainOut = s.chainOut := rfl
@[simp] theorem State.unwait_port (c : CtxNo) (q : Word) : (s.unwait c q).port = s.port := rfl
@[simp] theorem State.unwait_ckpt (c : CtxNo) (q : Word) : (s.unwait c q).ckpt = s.ckpt := rfl
@[simp] theorem State.unwait_risk (c : CtxNo) (q : Word) : (s.unwait c q).risk = s.risk := rfl
@[simp] theorem State.unwait_log (c : CtxNo) (q : Word) : (s.unwait c q).log = s.log := rfl
@[simp] theorem State.unwait_tel (c : CtxNo) (q : Word) : (s.unwait c q).tel = s.tel := rfl
@[simp] theorem State.unwait_pow (c : CtxNo) (q : Word) : (s.unwait c q).pow = s.pow := rfl
@[simp] theorem State.unwait_bist (c : CtxNo) (q : Word) : (s.unwait c q).bist = s.bist := rfl
@[simp] theorem State.unwait_sec (c : CtxNo) (q : Word) : (s.unwait c q).sec = s.sec := rfl
@[simp] theorem State.unwait_mgmt (c : CtxNo) (q : Word) : (s.unwait c q).mgmt = s.mgmt := rfl
@[simp] theorem State.unwait_train (c : CtxNo) (q : Word) : (s.unwait c q).train = s.train := rfl

@[simp] theorem State.unwaitAll_pending (c : CtxNo) : (s.unwaitAll c).pending = s.pending := rfl
@[simp] theorem State.unwaitAll_now (c : CtxNo) : (s.unwaitAll c).now = s.now := rfl
@[simp] theorem State.unwaitAll_free (c : CtxNo) : (s.unwaitAll c).free = s.free := rfl
@[simp] theorem State.unwaitAll_core (c : CtxNo) : (s.unwaitAll c).core = s.core := rfl
@[simp] theorem State.unwaitAll_remote (c : CtxNo) : (s.unwaitAll c).remote = s.remote := rfl
@[simp] theorem State.unwaitAll_evt (c : CtxNo) : (s.unwaitAll c).evt = s.evt := rfl
@[simp] theorem State.unwaitAll_eng (c : CtxNo) : (s.unwaitAll c).eng = s.eng := rfl
@[simp] theorem State.unwaitAll_tick (c : CtxNo) : (s.unwaitAll c).tick = s.tick := rfl
@[simp] theorem State.unwaitAll_ctxs (c : CtxNo) : (s.unwaitAll c).ctxs = s.ctxs := rfl
@[simp] theorem State.unwaitAll_fmts (c : CtxNo) : (s.unwaitAll c).fmts = s.fmts := rfl
@[simp] theorem State.unwaitAll_rts (c : CtxNo) : (s.unwaitAll c).rts = s.rts := rfl
@[simp] theorem State.unwaitAll_prio (c : CtxNo) : (s.unwaitAll c).prio = s.prio := rfl
@[simp] theorem State.unwaitAll_prioNext (c : CtxNo) : (s.unwaitAll c).prioNext = s.prioNext := rfl
@[simp] theorem State.unwaitAll_schedLast (c : CtxNo) : (s.unwaitAll c).schedLast = s.schedLast := rfl
@[simp] theorem State.unwaitAll_schedTurn (c : CtxNo) : (s.unwaitAll c).schedTurn = s.schedTurn := rfl
@[simp] theorem State.unwaitAll_stallMap (c : CtxNo) : (s.unwaitAll c).stallMap = s.stallMap := rfl
@[simp] theorem State.unwaitAll_rampTab (c : CtxNo) : (s.unwaitAll c).rampTab = s.rampTab := rfl
@[simp] theorem State.unwaitAll_rampNext (c : CtxNo) : (s.unwaitAll c).rampNext = s.rampNext := rfl
@[simp] theorem State.unwaitAll_riskTab (c : CtxNo) : (s.unwaitAll c).riskTab = s.riskTab := rfl
@[simp] theorem State.unwaitAll_regions (c : CtxNo) : (s.unwaitAll c).regions = s.regions := rfl
@[simp] theorem State.unwaitAll_groups (c : CtxNo) : (s.unwaitAll c).groups = s.groups := rfl
@[simp] theorem State.unwaitAll_descs (c : CtxNo) : (s.unwaitAll c).descs = s.descs := rfl
@[simp] theorem State.unwaitAll_descGen (c : CtxNo) : (s.unwaitAll c).descGen = s.descGen := rfl
@[simp] theorem State.unwaitAll_slots (c : CtxNo) : (s.unwaitAll c).slots = s.slots := rfl
@[simp] theorem State.unwaitAll_touch (c : CtxNo) : (s.unwaitAll c).touch = s.touch := rfl
@[simp] theorem State.unwaitAll_lane (c : CtxNo) : (s.unwaitAll c).lane = s.lane := rfl
@[simp] theorem State.unwaitAll_staging (c : CtxNo) : (s.unwaitAll c).staging = s.staging := rfl
@[simp] theorem State.unwaitAll_tlb (c : CtxNo) : (s.unwaitAll c).tlb = s.tlb := rfl
@[simp] theorem State.unwaitAll_walks (c : CtxNo) : (s.unwaitAll c).walks = s.walks := rfl
@[simp] theorem State.unwaitAll_invals (c : CtxNo) : (s.unwaitAll c).invals = s.invals := rfl
@[simp] theorem State.unwaitAll_invalReq (c : CtxNo) : (s.unwaitAll c).invalReq = s.invalReq := rfl
@[simp] theorem State.unwaitAll_invalDone (c : CtxNo) : (s.unwaitAll c).invalDone = s.invalDone := rfl
@[simp] theorem State.unwaitAll_reqs (c : CtxNo) : (s.unwaitAll c).reqs = s.reqs := rfl
@[simp] theorem State.unwaitAll_dovetail (c : CtxNo) : (s.unwaitAll c).dovetail = s.dovetail := rfl
@[simp] theorem State.unwaitAll_locks (c : CtxNo) : (s.unwaitAll c).locks = s.locks := rfl
@[simp] theorem State.unwaitAll_chains (c : CtxNo) : (s.unwaitAll c).chains = s.chains := rfl
@[simp] theorem State.unwaitAll_chainOut (c : CtxNo) : (s.unwaitAll c).chainOut = s.chainOut := rfl
@[simp] theorem State.unwaitAll_port (c : CtxNo) : (s.unwaitAll c).port = s.port := rfl
@[simp] theorem State.unwaitAll_ckpt (c : CtxNo) : (s.unwaitAll c).ckpt = s.ckpt := rfl
@[simp] theorem State.unwaitAll_risk (c : CtxNo) : (s.unwaitAll c).risk = s.risk := rfl
@[simp] theorem State.unwaitAll_log (c : CtxNo) : (s.unwaitAll c).log = s.log := rfl
@[simp] theorem State.unwaitAll_tel (c : CtxNo) : (s.unwaitAll c).tel = s.tel := rfl
@[simp] theorem State.unwaitAll_pow (c : CtxNo) : (s.unwaitAll c).pow = s.pow := rfl
@[simp] theorem State.unwaitAll_bist (c : CtxNo) : (s.unwaitAll c).bist = s.bist := rfl
@[simp] theorem State.unwaitAll_sec (c : CtxNo) : (s.unwaitAll c).sec = s.sec := rfl
@[simp] theorem State.unwaitAll_mgmt (c : CtxNo) : (s.unwaitAll c).mgmt = s.mgmt := rfl
@[simp] theorem State.unwaitAll_train (c : CtxNo) : (s.unwaitAll c).train = s.train := rfl

@[simp] theorem State.await_pending (r : Res) (p : Nat) (c : CtxNo) (q : Word) : (s.await r p c q).pending = s.pending := by unfold State.await; split <;> rfl
@[simp] theorem State.await_now (r : Res) (p : Nat) (c : CtxNo) (q : Word) : (s.await r p c q).now = s.now := by unfold State.await; split <;> rfl
@[simp] theorem State.await_free (r : Res) (p : Nat) (c : CtxNo) (q : Word) : (s.await r p c q).free = s.free := by unfold State.await; split <;> rfl
@[simp] theorem State.await_core (r : Res) (p : Nat) (c : CtxNo) (q : Word) : (s.await r p c q).core = s.core := by unfold State.await; split <;> rfl
@[simp] theorem State.await_remote (r : Res) (p : Nat) (c : CtxNo) (q : Word) : (s.await r p c q).remote = s.remote := by unfold State.await; split <;> rfl
@[simp] theorem State.await_evt (r : Res) (p : Nat) (c : CtxNo) (q : Word) : (s.await r p c q).evt = s.evt := by unfold State.await; split <;> rfl
@[simp] theorem State.await_eng (r : Res) (p : Nat) (c : CtxNo) (q : Word) : (s.await r p c q).eng = s.eng := by unfold State.await; split <;> rfl
@[simp] theorem State.await_tick (r : Res) (p : Nat) (c : CtxNo) (q : Word) : (s.await r p c q).tick = s.tick := by unfold State.await; split <;> rfl
@[simp] theorem State.await_ctxs (r : Res) (p : Nat) (c : CtxNo) (q : Word) : (s.await r p c q).ctxs = s.ctxs := by unfold State.await; split <;> rfl
@[simp] theorem State.await_fmts (r : Res) (p : Nat) (c : CtxNo) (q : Word) : (s.await r p c q).fmts = s.fmts := by unfold State.await; split <;> rfl
@[simp] theorem State.await_rts (r : Res) (p : Nat) (c : CtxNo) (q : Word) : (s.await r p c q).rts = s.rts := by unfold State.await; split <;> rfl
@[simp] theorem State.await_prio (r : Res) (p : Nat) (c : CtxNo) (q : Word) : (s.await r p c q).prio = s.prio := by unfold State.await; split <;> rfl
@[simp] theorem State.await_prioNext (r : Res) (p : Nat) (c : CtxNo) (q : Word) : (s.await r p c q).prioNext = s.prioNext := by unfold State.await; split <;> rfl
@[simp] theorem State.await_schedLast (r : Res) (p : Nat) (c : CtxNo) (q : Word) : (s.await r p c q).schedLast = s.schedLast := by unfold State.await; split <;> rfl
@[simp] theorem State.await_schedTurn (r : Res) (p : Nat) (c : CtxNo) (q : Word) : (s.await r p c q).schedTurn = s.schedTurn := by unfold State.await; split <;> rfl
@[simp] theorem State.await_stallMap (r : Res) (p : Nat) (c : CtxNo) (q : Word) : (s.await r p c q).stallMap = s.stallMap := by unfold State.await; split <;> rfl
@[simp] theorem State.await_rampTab (r : Res) (p : Nat) (c : CtxNo) (q : Word) : (s.await r p c q).rampTab = s.rampTab := by unfold State.await; split <;> rfl
@[simp] theorem State.await_rampNext (r : Res) (p : Nat) (c : CtxNo) (q : Word) : (s.await r p c q).rampNext = s.rampNext := by unfold State.await; split <;> rfl
@[simp] theorem State.await_riskTab (r : Res) (p : Nat) (c : CtxNo) (q : Word) : (s.await r p c q).riskTab = s.riskTab := by unfold State.await; split <;> rfl
@[simp] theorem State.await_regions (r : Res) (p : Nat) (c : CtxNo) (q : Word) : (s.await r p c q).regions = s.regions := by unfold State.await; split <;> rfl
@[simp] theorem State.await_groups (r : Res) (p : Nat) (c : CtxNo) (q : Word) : (s.await r p c q).groups = s.groups := by unfold State.await; split <;> rfl
@[simp] theorem State.await_descs (r : Res) (p : Nat) (c : CtxNo) (q : Word) : (s.await r p c q).descs = s.descs := by unfold State.await; split <;> rfl
@[simp] theorem State.await_descGen (r : Res) (p : Nat) (c : CtxNo) (q : Word) : (s.await r p c q).descGen = s.descGen := by unfold State.await; split <;> rfl
@[simp] theorem State.await_slots (r : Res) (p : Nat) (c : CtxNo) (q : Word) : (s.await r p c q).slots = s.slots := by unfold State.await; split <;> rfl
@[simp] theorem State.await_touch (r : Res) (p : Nat) (c : CtxNo) (q : Word) : (s.await r p c q).touch = s.touch := by unfold State.await; split <;> rfl
@[simp] theorem State.await_lane (r : Res) (p : Nat) (c : CtxNo) (q : Word) : (s.await r p c q).lane = s.lane := by unfold State.await; split <;> rfl
@[simp] theorem State.await_staging (r : Res) (p : Nat) (c : CtxNo) (q : Word) : (s.await r p c q).staging = s.staging := by unfold State.await; split <;> rfl
@[simp] theorem State.await_tlb (r : Res) (p : Nat) (c : CtxNo) (q : Word) : (s.await r p c q).tlb = s.tlb := by unfold State.await; split <;> rfl
@[simp] theorem State.await_walks (r : Res) (p : Nat) (c : CtxNo) (q : Word) : (s.await r p c q).walks = s.walks := by unfold State.await; split <;> rfl
@[simp] theorem State.await_invals (r : Res) (p : Nat) (c : CtxNo) (q : Word) : (s.await r p c q).invals = s.invals := by unfold State.await; split <;> rfl
@[simp] theorem State.await_invalReq (r : Res) (p : Nat) (c : CtxNo) (q : Word) : (s.await r p c q).invalReq = s.invalReq := by unfold State.await; split <;> rfl
@[simp] theorem State.await_invalDone (r : Res) (p : Nat) (c : CtxNo) (q : Word) : (s.await r p c q).invalDone = s.invalDone := by unfold State.await; split <;> rfl
@[simp] theorem State.await_reqs (r : Res) (p : Nat) (c : CtxNo) (q : Word) : (s.await r p c q).reqs = s.reqs := by unfold State.await; split <;> rfl
@[simp] theorem State.await_sent (r : Res) (p : Nat) (c : CtxNo) (q : Word) : (s.await r p c q).sent = s.sent := by unfold State.await; split <;> rfl
@[simp] theorem State.await_dovetail (r : Res) (p : Nat) (c : CtxNo) (q : Word) : (s.await r p c q).dovetail = s.dovetail := by unfold State.await; split <;> rfl
@[simp] theorem State.await_locks (r : Res) (p : Nat) (c : CtxNo) (q : Word) : (s.await r p c q).locks = s.locks := by unfold State.await; split <;> rfl
@[simp] theorem State.await_chains (r : Res) (p : Nat) (c : CtxNo) (q : Word) : (s.await r p c q).chains = s.chains := by unfold State.await; split <;> rfl
@[simp] theorem State.await_chainOut (r : Res) (p : Nat) (c : CtxNo) (q : Word) : (s.await r p c q).chainOut = s.chainOut := by unfold State.await; split <;> rfl
@[simp] theorem State.await_port (r : Res) (p : Nat) (c : CtxNo) (q : Word) : (s.await r p c q).port = s.port := by unfold State.await; split <;> rfl
@[simp] theorem State.await_ckpt (r : Res) (p : Nat) (c : CtxNo) (q : Word) : (s.await r p c q).ckpt = s.ckpt := by unfold State.await; split <;> rfl
@[simp] theorem State.await_risk (r : Res) (p : Nat) (c : CtxNo) (q : Word) : (s.await r p c q).risk = s.risk := by unfold State.await; split <;> rfl
@[simp] theorem State.await_log (r : Res) (p : Nat) (c : CtxNo) (q : Word) : (s.await r p c q).log = s.log := by unfold State.await; split <;> rfl
@[simp] theorem State.await_tel (r : Res) (p : Nat) (c : CtxNo) (q : Word) : (s.await r p c q).tel = s.tel := by unfold State.await; split <;> rfl
@[simp] theorem State.await_pow (r : Res) (p : Nat) (c : CtxNo) (q : Word) : (s.await r p c q).pow = s.pow := by unfold State.await; split <;> rfl
@[simp] theorem State.await_bist (r : Res) (p : Nat) (c : CtxNo) (q : Word) : (s.await r p c q).bist = s.bist := by unfold State.await; split <;> rfl
@[simp] theorem State.await_sec (r : Res) (p : Nat) (c : CtxNo) (q : Word) : (s.await r p c q).sec = s.sec := by unfold State.await; split <;> rfl
@[simp] theorem State.await_mgmt (r : Res) (p : Nat) (c : CtxNo) (q : Word) : (s.await r p c q).mgmt = s.mgmt := by unfold State.await; split <;> rfl
@[simp] theorem State.await_train (r : Res) (p : Nat) (c : CtxNo) (q : Word) : (s.await r p c q).train = s.train := by unfold State.await; split <;> rfl

@[simp] theorem State.unwaitCmd_pending (c : CtxNo) (i : Nat) : (s.unwaitCmd c i).pending = s.pending := by unfold State.unwaitCmd; split <;> rfl
@[simp] theorem State.unwaitCmd_now (c : CtxNo) (i : Nat) : (s.unwaitCmd c i).now = s.now := by unfold State.unwaitCmd; split <;> rfl
@[simp] theorem State.unwaitCmd_free (c : CtxNo) (i : Nat) : (s.unwaitCmd c i).free = s.free := by unfold State.unwaitCmd; split <;> rfl
@[simp] theorem State.unwaitCmd_core (c : CtxNo) (i : Nat) : (s.unwaitCmd c i).core = s.core := by unfold State.unwaitCmd; split <;> rfl
@[simp] theorem State.unwaitCmd_remote (c : CtxNo) (i : Nat) : (s.unwaitCmd c i).remote = s.remote := by unfold State.unwaitCmd; split <;> rfl
@[simp] theorem State.unwaitCmd_evt (c : CtxNo) (i : Nat) : (s.unwaitCmd c i).evt = s.evt := by unfold State.unwaitCmd; split <;> rfl
@[simp] theorem State.unwaitCmd_eng (c : CtxNo) (i : Nat) : (s.unwaitCmd c i).eng = s.eng := by unfold State.unwaitCmd; split <;> rfl
@[simp] theorem State.unwaitCmd_tick (c : CtxNo) (i : Nat) : (s.unwaitCmd c i).tick = s.tick := by unfold State.unwaitCmd; split <;> rfl
@[simp] theorem State.unwaitCmd_ctxs (c : CtxNo) (i : Nat) : (s.unwaitCmd c i).ctxs = s.ctxs := by unfold State.unwaitCmd; split <;> rfl
@[simp] theorem State.unwaitCmd_fmts (c : CtxNo) (i : Nat) : (s.unwaitCmd c i).fmts = s.fmts := by unfold State.unwaitCmd; split <;> rfl
@[simp] theorem State.unwaitCmd_rts (c : CtxNo) (i : Nat) : (s.unwaitCmd c i).rts = s.rts := by unfold State.unwaitCmd; split <;> rfl
@[simp] theorem State.unwaitCmd_prio (c : CtxNo) (i : Nat) : (s.unwaitCmd c i).prio = s.prio := by unfold State.unwaitCmd; split <;> rfl
@[simp] theorem State.unwaitCmd_prioNext (c : CtxNo) (i : Nat) : (s.unwaitCmd c i).prioNext = s.prioNext := by unfold State.unwaitCmd; split <;> rfl
@[simp] theorem State.unwaitCmd_schedLast (c : CtxNo) (i : Nat) : (s.unwaitCmd c i).schedLast = s.schedLast := by unfold State.unwaitCmd; split <;> rfl
@[simp] theorem State.unwaitCmd_schedTurn (c : CtxNo) (i : Nat) : (s.unwaitCmd c i).schedTurn = s.schedTurn := by unfold State.unwaitCmd; split <;> rfl
@[simp] theorem State.unwaitCmd_stallMap (c : CtxNo) (i : Nat) : (s.unwaitCmd c i).stallMap = s.stallMap := by unfold State.unwaitCmd; split <;> rfl
@[simp] theorem State.unwaitCmd_rampTab (c : CtxNo) (i : Nat) : (s.unwaitCmd c i).rampTab = s.rampTab := by unfold State.unwaitCmd; split <;> rfl
@[simp] theorem State.unwaitCmd_rampNext (c : CtxNo) (i : Nat) : (s.unwaitCmd c i).rampNext = s.rampNext := by unfold State.unwaitCmd; split <;> rfl
@[simp] theorem State.unwaitCmd_riskTab (c : CtxNo) (i : Nat) : (s.unwaitCmd c i).riskTab = s.riskTab := by unfold State.unwaitCmd; split <;> rfl
@[simp] theorem State.unwaitCmd_regions (c : CtxNo) (i : Nat) : (s.unwaitCmd c i).regions = s.regions := by unfold State.unwaitCmd; split <;> rfl
@[simp] theorem State.unwaitCmd_groups (c : CtxNo) (i : Nat) : (s.unwaitCmd c i).groups = s.groups := by unfold State.unwaitCmd; split <;> rfl
@[simp] theorem State.unwaitCmd_descs (c : CtxNo) (i : Nat) : (s.unwaitCmd c i).descs = s.descs := by unfold State.unwaitCmd; split <;> rfl
@[simp] theorem State.unwaitCmd_descGen (c : CtxNo) (i : Nat) : (s.unwaitCmd c i).descGen = s.descGen := by unfold State.unwaitCmd; split <;> rfl
@[simp] theorem State.unwaitCmd_slots (c : CtxNo) (i : Nat) : (s.unwaitCmd c i).slots = s.slots := by unfold State.unwaitCmd; split <;> rfl
@[simp] theorem State.unwaitCmd_touch (c : CtxNo) (i : Nat) : (s.unwaitCmd c i).touch = s.touch := by unfold State.unwaitCmd; split <;> rfl
@[simp] theorem State.unwaitCmd_lane (c : CtxNo) (i : Nat) : (s.unwaitCmd c i).lane = s.lane := by unfold State.unwaitCmd; split <;> rfl
@[simp] theorem State.unwaitCmd_staging (c : CtxNo) (i : Nat) : (s.unwaitCmd c i).staging = s.staging := by unfold State.unwaitCmd; split <;> rfl
@[simp] theorem State.unwaitCmd_tlb (c : CtxNo) (i : Nat) : (s.unwaitCmd c i).tlb = s.tlb := by unfold State.unwaitCmd; split <;> rfl
@[simp] theorem State.unwaitCmd_walks (c : CtxNo) (i : Nat) : (s.unwaitCmd c i).walks = s.walks := by unfold State.unwaitCmd; split <;> rfl
@[simp] theorem State.unwaitCmd_invals (c : CtxNo) (i : Nat) : (s.unwaitCmd c i).invals = s.invals := by unfold State.unwaitCmd; split <;> rfl
@[simp] theorem State.unwaitCmd_invalReq (c : CtxNo) (i : Nat) : (s.unwaitCmd c i).invalReq = s.invalReq := by unfold State.unwaitCmd; split <;> rfl
@[simp] theorem State.unwaitCmd_invalDone (c : CtxNo) (i : Nat) : (s.unwaitCmd c i).invalDone = s.invalDone := by unfold State.unwaitCmd; split <;> rfl
@[simp] theorem State.unwaitCmd_reqs (c : CtxNo) (i : Nat) : (s.unwaitCmd c i).reqs = s.reqs := by unfold State.unwaitCmd; split <;> rfl
@[simp] theorem State.unwaitCmd_dovetail (c : CtxNo) (i : Nat) : (s.unwaitCmd c i).dovetail = s.dovetail := by unfold State.unwaitCmd; split <;> rfl
@[simp] theorem State.unwaitCmd_locks (c : CtxNo) (i : Nat) : (s.unwaitCmd c i).locks = s.locks := by unfold State.unwaitCmd; split <;> rfl
@[simp] theorem State.unwaitCmd_chains (c : CtxNo) (i : Nat) : (s.unwaitCmd c i).chains = s.chains := by unfold State.unwaitCmd; split <;> rfl
@[simp] theorem State.unwaitCmd_chainOut (c : CtxNo) (i : Nat) : (s.unwaitCmd c i).chainOut = s.chainOut := by unfold State.unwaitCmd; split <;> rfl
@[simp] theorem State.unwaitCmd_port (c : CtxNo) (i : Nat) : (s.unwaitCmd c i).port = s.port := by unfold State.unwaitCmd; split <;> rfl
@[simp] theorem State.unwaitCmd_ckpt (c : CtxNo) (i : Nat) : (s.unwaitCmd c i).ckpt = s.ckpt := by unfold State.unwaitCmd; split <;> rfl
@[simp] theorem State.unwaitCmd_risk (c : CtxNo) (i : Nat) : (s.unwaitCmd c i).risk = s.risk := by unfold State.unwaitCmd; split <;> rfl
@[simp] theorem State.unwaitCmd_log (c : CtxNo) (i : Nat) : (s.unwaitCmd c i).log = s.log := by unfold State.unwaitCmd; split <;> rfl
@[simp] theorem State.unwaitCmd_tel (c : CtxNo) (i : Nat) : (s.unwaitCmd c i).tel = s.tel := by unfold State.unwaitCmd; split <;> rfl
@[simp] theorem State.unwaitCmd_pow (c : CtxNo) (i : Nat) : (s.unwaitCmd c i).pow = s.pow := by unfold State.unwaitCmd; split <;> rfl
@[simp] theorem State.unwaitCmd_bist (c : CtxNo) (i : Nat) : (s.unwaitCmd c i).bist = s.bist := by unfold State.unwaitCmd; split <;> rfl
@[simp] theorem State.unwaitCmd_sec (c : CtxNo) (i : Nat) : (s.unwaitCmd c i).sec = s.sec := by unfold State.unwaitCmd; split <;> rfl
@[simp] theorem State.unwaitCmd_mgmt (c : CtxNo) (i : Nat) : (s.unwaitCmd c i).mgmt = s.mgmt := by unfold State.unwaitCmd; split <;> rfl
@[simp] theorem State.unwaitCmd_train (c : CtxNo) (i : Nat) : (s.unwaitCmd c i).train = s.train := by unfold State.unwaitCmd; split <;> rfl

@[simp] theorem State.touchTlb_pending (p : Nat) : (s.touchTlb p).pending = s.pending := rfl
@[simp] theorem State.touchTlb_now (p : Nat) : (s.touchTlb p).now = s.now := rfl
@[simp] theorem State.touchTlb_free (p : Nat) : (s.touchTlb p).free = s.free := rfl
@[simp] theorem State.touchTlb_core (p : Nat) : (s.touchTlb p).core = s.core := rfl
@[simp] theorem State.touchTlb_remote (p : Nat) : (s.touchTlb p).remote = s.remote := rfl
@[simp] theorem State.touchTlb_evt (p : Nat) : (s.touchTlb p).evt = s.evt := rfl
@[simp] theorem State.touchTlb_eng (p : Nat) : (s.touchTlb p).eng = s.eng := rfl
@[simp] theorem State.touchTlb_tick (p : Nat) : (s.touchTlb p).tick = s.tick := rfl
@[simp] theorem State.touchTlb_ctxs (p : Nat) : (s.touchTlb p).ctxs = s.ctxs := rfl
@[simp] theorem State.touchTlb_fmts (p : Nat) : (s.touchTlb p).fmts = s.fmts := rfl
@[simp] theorem State.touchTlb_rts (p : Nat) : (s.touchTlb p).rts = s.rts := rfl
@[simp] theorem State.touchTlb_prio (p : Nat) : (s.touchTlb p).prio = s.prio := rfl
@[simp] theorem State.touchTlb_prioNext (p : Nat) : (s.touchTlb p).prioNext = s.prioNext := rfl
@[simp] theorem State.touchTlb_schedLast (p : Nat) : (s.touchTlb p).schedLast = s.schedLast := rfl
@[simp] theorem State.touchTlb_schedTurn (p : Nat) : (s.touchTlb p).schedTurn = s.schedTurn := rfl
@[simp] theorem State.touchTlb_stallMap (p : Nat) : (s.touchTlb p).stallMap = s.stallMap := rfl
@[simp] theorem State.touchTlb_rampTab (p : Nat) : (s.touchTlb p).rampTab = s.rampTab := rfl
@[simp] theorem State.touchTlb_rampNext (p : Nat) : (s.touchTlb p).rampNext = s.rampNext := rfl
@[simp] theorem State.touchTlb_riskTab (p : Nat) : (s.touchTlb p).riskTab = s.riskTab := rfl
@[simp] theorem State.touchTlb_regions (p : Nat) : (s.touchTlb p).regions = s.regions := rfl
@[simp] theorem State.touchTlb_groups (p : Nat) : (s.touchTlb p).groups = s.groups := rfl
@[simp] theorem State.touchTlb_descs (p : Nat) : (s.touchTlb p).descs = s.descs := rfl
@[simp] theorem State.touchTlb_descGen (p : Nat) : (s.touchTlb p).descGen = s.descGen := rfl
@[simp] theorem State.touchTlb_slots (p : Nat) : (s.touchTlb p).slots = s.slots := rfl
@[simp] theorem State.touchTlb_touch (p : Nat) : (s.touchTlb p).touch = s.touch := rfl
@[simp] theorem State.touchTlb_lane (p : Nat) : (s.touchTlb p).lane = s.lane := rfl
@[simp] theorem State.touchTlb_staging (p : Nat) : (s.touchTlb p).staging = s.staging := rfl
@[simp] theorem State.touchTlb_walks (p : Nat) : (s.touchTlb p).walks = s.walks := rfl
@[simp] theorem State.touchTlb_invals (p : Nat) : (s.touchTlb p).invals = s.invals := rfl
@[simp] theorem State.touchTlb_invalReq (p : Nat) : (s.touchTlb p).invalReq = s.invalReq := rfl
@[simp] theorem State.touchTlb_invalDone (p : Nat) : (s.touchTlb p).invalDone = s.invalDone := rfl
@[simp] theorem State.touchTlb_reqs (p : Nat) : (s.touchTlb p).reqs = s.reqs := rfl
@[simp] theorem State.touchTlb_sent (p : Nat) : (s.touchTlb p).sent = s.sent := rfl
@[simp] theorem State.touchTlb_waits (p : Nat) : (s.touchTlb p).waits = s.waits := rfl
@[simp] theorem State.touchTlb_dovetail (p : Nat) : (s.touchTlb p).dovetail = s.dovetail := rfl
@[simp] theorem State.touchTlb_locks (p : Nat) : (s.touchTlb p).locks = s.locks := rfl
@[simp] theorem State.touchTlb_chains (p : Nat) : (s.touchTlb p).chains = s.chains := rfl
@[simp] theorem State.touchTlb_chainOut (p : Nat) : (s.touchTlb p).chainOut = s.chainOut := rfl
@[simp] theorem State.touchTlb_port (p : Nat) : (s.touchTlb p).port = s.port := rfl
@[simp] theorem State.touchTlb_ckpt (p : Nat) : (s.touchTlb p).ckpt = s.ckpt := rfl
@[simp] theorem State.touchTlb_risk (p : Nat) : (s.touchTlb p).risk = s.risk := rfl
@[simp] theorem State.touchTlb_log (p : Nat) : (s.touchTlb p).log = s.log := rfl
@[simp] theorem State.touchTlb_tel (p : Nat) : (s.touchTlb p).tel = s.tel := rfl
@[simp] theorem State.touchTlb_pow (p : Nat) : (s.touchTlb p).pow = s.pow := rfl
@[simp] theorem State.touchTlb_bist (p : Nat) : (s.touchTlb p).bist = s.bist := rfl
@[simp] theorem State.touchTlb_sec (p : Nat) : (s.touchTlb p).sec = s.sec := rfl
@[simp] theorem State.touchTlb_mgmt (p : Nat) : (s.touchTlb p).mgmt = s.mgmt := rfl
@[simp] theorem State.touchTlb_train (p : Nat) : (s.touchTlb p).train = s.train := rfl

@[simp] theorem State.finish_pending (c : CtxNo) (i : Nat) (r : Reply) : (s.finish c i r).pending = s.pending := State.unwaitCmd_pending s c i
@[simp] theorem State.finish_now (c : CtxNo) (i : Nat) (r : Reply) : (s.finish c i r).now = s.now := State.unwaitCmd_now s c i
@[simp] theorem State.finish_free (c : CtxNo) (i : Nat) (r : Reply) : (s.finish c i r).free = s.free := State.unwaitCmd_free s c i
@[simp] theorem State.finish_core (c : CtxNo) (i : Nat) (r : Reply) : (s.finish c i r).core = s.core := State.unwaitCmd_core s c i
@[simp] theorem State.finish_remote (c : CtxNo) (i : Nat) (r : Reply) : (s.finish c i r).remote = s.remote := State.unwaitCmd_remote s c i
@[simp] theorem State.finish_evt (c : CtxNo) (i : Nat) (r : Reply) : (s.finish c i r).evt = s.evt := State.unwaitCmd_evt s c i
@[simp] theorem State.finish_eng (c : CtxNo) (i : Nat) (r : Reply) : (s.finish c i r).eng = s.eng := State.unwaitCmd_eng s c i
@[simp] theorem State.finish_tick (c : CtxNo) (i : Nat) (r : Reply) : (s.finish c i r).tick = s.tick := State.unwaitCmd_tick s c i
@[simp] theorem State.finish_fmts (c : CtxNo) (i : Nat) (r : Reply) : (s.finish c i r).fmts = s.fmts := State.unwaitCmd_fmts s c i
@[simp] theorem State.finish_rts (c : CtxNo) (i : Nat) (r : Reply) : (s.finish c i r).rts = s.rts := State.unwaitCmd_rts s c i
@[simp] theorem State.finish_prio (c : CtxNo) (i : Nat) (r : Reply) : (s.finish c i r).prio = s.prio := State.unwaitCmd_prio s c i
@[simp] theorem State.finish_prioNext (c : CtxNo) (i : Nat) (r : Reply) : (s.finish c i r).prioNext = s.prioNext := State.unwaitCmd_prioNext s c i
@[simp] theorem State.finish_schedLast (c : CtxNo) (i : Nat) (r : Reply) : (s.finish c i r).schedLast = s.schedLast := State.unwaitCmd_schedLast s c i
@[simp] theorem State.finish_schedTurn (c : CtxNo) (i : Nat) (r : Reply) : (s.finish c i r).schedTurn = s.schedTurn := State.unwaitCmd_schedTurn s c i
@[simp] theorem State.finish_stallMap (c : CtxNo) (i : Nat) (r : Reply) : (s.finish c i r).stallMap = s.stallMap := State.unwaitCmd_stallMap s c i
@[simp] theorem State.finish_rampTab (c : CtxNo) (i : Nat) (r : Reply) : (s.finish c i r).rampTab = s.rampTab := State.unwaitCmd_rampTab s c i
@[simp] theorem State.finish_rampNext (c : CtxNo) (i : Nat) (r : Reply) : (s.finish c i r).rampNext = s.rampNext := State.unwaitCmd_rampNext s c i
@[simp] theorem State.finish_riskTab (c : CtxNo) (i : Nat) (r : Reply) : (s.finish c i r).riskTab = s.riskTab := State.unwaitCmd_riskTab s c i
@[simp] theorem State.finish_regions (c : CtxNo) (i : Nat) (r : Reply) : (s.finish c i r).regions = s.regions := State.unwaitCmd_regions s c i
@[simp] theorem State.finish_groups (c : CtxNo) (i : Nat) (r : Reply) : (s.finish c i r).groups = s.groups := State.unwaitCmd_groups s c i
@[simp] theorem State.finish_descs (c : CtxNo) (i : Nat) (r : Reply) : (s.finish c i r).descs = s.descs := State.unwaitCmd_descs s c i
@[simp] theorem State.finish_descGen (c : CtxNo) (i : Nat) (r : Reply) : (s.finish c i r).descGen = s.descGen := State.unwaitCmd_descGen s c i
@[simp] theorem State.finish_slots (c : CtxNo) (i : Nat) (r : Reply) : (s.finish c i r).slots = s.slots := State.unwaitCmd_slots s c i
@[simp] theorem State.finish_touch (c : CtxNo) (i : Nat) (r : Reply) : (s.finish c i r).touch = s.touch := State.unwaitCmd_touch s c i
@[simp] theorem State.finish_lane (c : CtxNo) (i : Nat) (r : Reply) : (s.finish c i r).lane = s.lane := State.unwaitCmd_lane s c i
@[simp] theorem State.finish_staging (c : CtxNo) (i : Nat) (r : Reply) : (s.finish c i r).staging = s.staging := State.unwaitCmd_staging s c i
@[simp] theorem State.finish_tlb (c : CtxNo) (i : Nat) (r : Reply) : (s.finish c i r).tlb = s.tlb := State.unwaitCmd_tlb s c i
@[simp] theorem State.finish_walks (c : CtxNo) (i : Nat) (r : Reply) : (s.finish c i r).walks = s.walks := State.unwaitCmd_walks s c i
@[simp] theorem State.finish_invals (c : CtxNo) (i : Nat) (r : Reply) : (s.finish c i r).invals = s.invals := State.unwaitCmd_invals s c i
@[simp] theorem State.finish_invalReq (c : CtxNo) (i : Nat) (r : Reply) : (s.finish c i r).invalReq = s.invalReq := State.unwaitCmd_invalReq s c i
@[simp] theorem State.finish_invalDone (c : CtxNo) (i : Nat) (r : Reply) : (s.finish c i r).invalDone = s.invalDone := State.unwaitCmd_invalDone s c i
@[simp] theorem State.finish_reqs (c : CtxNo) (i : Nat) (r : Reply) : (s.finish c i r).reqs = s.reqs := State.unwaitCmd_reqs s c i
@[simp] theorem State.finish_dovetail (c : CtxNo) (i : Nat) (r : Reply) : (s.finish c i r).dovetail = s.dovetail := State.unwaitCmd_dovetail s c i
@[simp] theorem State.finish_locks (c : CtxNo) (i : Nat) (r : Reply) : (s.finish c i r).locks = s.locks := State.unwaitCmd_locks s c i
@[simp] theorem State.finish_chains (c : CtxNo) (i : Nat) (r : Reply) : (s.finish c i r).chains = s.chains := State.unwaitCmd_chains s c i
@[simp] theorem State.finish_chainOut (c : CtxNo) (i : Nat) (r : Reply) : (s.finish c i r).chainOut = s.chainOut := State.unwaitCmd_chainOut s c i
@[simp] theorem State.finish_port (c : CtxNo) (i : Nat) (r : Reply) : (s.finish c i r).port = s.port := State.unwaitCmd_port s c i
@[simp] theorem State.finish_ckpt (c : CtxNo) (i : Nat) (r : Reply) : (s.finish c i r).ckpt = s.ckpt := State.unwaitCmd_ckpt s c i
@[simp] theorem State.finish_risk (c : CtxNo) (i : Nat) (r : Reply) : (s.finish c i r).risk = s.risk := State.unwaitCmd_risk s c i
@[simp] theorem State.finish_log (c : CtxNo) (i : Nat) (r : Reply) : (s.finish c i r).log = s.log := State.unwaitCmd_log s c i
@[simp] theorem State.finish_tel (c : CtxNo) (i : Nat) (r : Reply) : (s.finish c i r).tel = s.tel := State.unwaitCmd_tel s c i
@[simp] theorem State.finish_pow (c : CtxNo) (i : Nat) (r : Reply) : (s.finish c i r).pow = s.pow := State.unwaitCmd_pow s c i
@[simp] theorem State.finish_bist (c : CtxNo) (i : Nat) (r : Reply) : (s.finish c i r).bist = s.bist := State.unwaitCmd_bist s c i
@[simp] theorem State.finish_sec (c : CtxNo) (i : Nat) (r : Reply) : (s.finish c i r).sec = s.sec := State.unwaitCmd_sec s c i
@[simp] theorem State.finish_mgmt (c : CtxNo) (i : Nat) (r : Reply) : (s.finish c i r).mgmt = s.mgmt := State.unwaitCmd_mgmt s c i
@[simp] theorem State.finish_train (c : CtxNo) (i : Nat) (r : Reply) : (s.finish c i r).train = s.train := State.unwaitCmd_train s c i

@[simp] theorem State.countOob_pending (c : CtxNo) (n : Nat) : (s.countOob c n).pending = s.pending := rfl
@[simp] theorem State.countOob_now (c : CtxNo) (n : Nat) : (s.countOob c n).now = s.now := rfl
@[simp] theorem State.countOob_free (c : CtxNo) (n : Nat) : (s.countOob c n).free = s.free := rfl
@[simp] theorem State.countOob_core (c : CtxNo) (n : Nat) : (s.countOob c n).core = s.core := rfl
@[simp] theorem State.countOob_remote (c : CtxNo) (n : Nat) : (s.countOob c n).remote = s.remote := rfl
@[simp] theorem State.countOob_evt (c : CtxNo) (n : Nat) : (s.countOob c n).evt = s.evt := rfl
@[simp] theorem State.countOob_eng (c : CtxNo) (n : Nat) : (s.countOob c n).eng = s.eng := rfl
@[simp] theorem State.countOob_tick (c : CtxNo) (n : Nat) : (s.countOob c n).tick = s.tick := rfl
@[simp] theorem State.countOob_fmts (c : CtxNo) (n : Nat) : (s.countOob c n).fmts = s.fmts := rfl
@[simp] theorem State.countOob_rts (c : CtxNo) (n : Nat) : (s.countOob c n).rts = s.rts := rfl
@[simp] theorem State.countOob_prio (c : CtxNo) (n : Nat) : (s.countOob c n).prio = s.prio := rfl
@[simp] theorem State.countOob_prioNext (c : CtxNo) (n : Nat) : (s.countOob c n).prioNext = s.prioNext := rfl
@[simp] theorem State.countOob_schedLast (c : CtxNo) (n : Nat) : (s.countOob c n).schedLast = s.schedLast := rfl
@[simp] theorem State.countOob_schedTurn (c : CtxNo) (n : Nat) : (s.countOob c n).schedTurn = s.schedTurn := rfl
@[simp] theorem State.countOob_stallMap (c : CtxNo) (n : Nat) : (s.countOob c n).stallMap = s.stallMap := rfl
@[simp] theorem State.countOob_rampTab (c : CtxNo) (n : Nat) : (s.countOob c n).rampTab = s.rampTab := rfl
@[simp] theorem State.countOob_rampNext (c : CtxNo) (n : Nat) : (s.countOob c n).rampNext = s.rampNext := rfl
@[simp] theorem State.countOob_riskTab (c : CtxNo) (n : Nat) : (s.countOob c n).riskTab = s.riskTab := rfl
@[simp] theorem State.countOob_regions (c : CtxNo) (n : Nat) : (s.countOob c n).regions = s.regions := rfl
@[simp] theorem State.countOob_groups (c : CtxNo) (n : Nat) : (s.countOob c n).groups = s.groups := rfl
@[simp] theorem State.countOob_descs (c : CtxNo) (n : Nat) : (s.countOob c n).descs = s.descs := rfl
@[simp] theorem State.countOob_descGen (c : CtxNo) (n : Nat) : (s.countOob c n).descGen = s.descGen := rfl
@[simp] theorem State.countOob_slots (c : CtxNo) (n : Nat) : (s.countOob c n).slots = s.slots := rfl
@[simp] theorem State.countOob_touch (c : CtxNo) (n : Nat) : (s.countOob c n).touch = s.touch := rfl
@[simp] theorem State.countOob_lane (c : CtxNo) (n : Nat) : (s.countOob c n).lane = s.lane := rfl
@[simp] theorem State.countOob_staging (c : CtxNo) (n : Nat) : (s.countOob c n).staging = s.staging := rfl
@[simp] theorem State.countOob_tlb (c : CtxNo) (n : Nat) : (s.countOob c n).tlb = s.tlb := rfl
@[simp] theorem State.countOob_walks (c : CtxNo) (n : Nat) : (s.countOob c n).walks = s.walks := rfl
@[simp] theorem State.countOob_invals (c : CtxNo) (n : Nat) : (s.countOob c n).invals = s.invals := rfl
@[simp] theorem State.countOob_invalReq (c : CtxNo) (n : Nat) : (s.countOob c n).invalReq = s.invalReq := rfl
@[simp] theorem State.countOob_invalDone (c : CtxNo) (n : Nat) : (s.countOob c n).invalDone = s.invalDone := rfl
@[simp] theorem State.countOob_reqs (c : CtxNo) (n : Nat) : (s.countOob c n).reqs = s.reqs := rfl
@[simp] theorem State.countOob_sent (c : CtxNo) (n : Nat) : (s.countOob c n).sent = s.sent := rfl
@[simp] theorem State.countOob_waits (c : CtxNo) (n : Nat) : (s.countOob c n).waits = s.waits := rfl
@[simp] theorem State.countOob_dovetail (c : CtxNo) (n : Nat) : (s.countOob c n).dovetail = s.dovetail := rfl
@[simp] theorem State.countOob_locks (c : CtxNo) (n : Nat) : (s.countOob c n).locks = s.locks := rfl
@[simp] theorem State.countOob_chains (c : CtxNo) (n : Nat) : (s.countOob c n).chains = s.chains := rfl
@[simp] theorem State.countOob_chainOut (c : CtxNo) (n : Nat) : (s.countOob c n).chainOut = s.chainOut := rfl
@[simp] theorem State.countOob_port (c : CtxNo) (n : Nat) : (s.countOob c n).port = s.port := rfl
@[simp] theorem State.countOob_ckpt (c : CtxNo) (n : Nat) : (s.countOob c n).ckpt = s.ckpt := rfl
@[simp] theorem State.countOob_risk (c : CtxNo) (n : Nat) : (s.countOob c n).risk = s.risk := rfl
@[simp] theorem State.countOob_log (c : CtxNo) (n : Nat) : (s.countOob c n).log = s.log := rfl
@[simp] theorem State.countOob_tel (c : CtxNo) (n : Nat) : (s.countOob c n).tel = s.tel := rfl
@[simp] theorem State.countOob_pow (c : CtxNo) (n : Nat) : (s.countOob c n).pow = s.pow := rfl
@[simp] theorem State.countOob_bist (c : CtxNo) (n : Nat) : (s.countOob c n).bist = s.bist := rfl
@[simp] theorem State.countOob_sec (c : CtxNo) (n : Nat) : (s.countOob c n).sec = s.sec := rfl
@[simp] theorem State.countOob_mgmt (c : CtxNo) (n : Nat) : (s.countOob c n).mgmt = s.mgmt := rfl
@[simp] theorem State.countOob_train (c : CtxNo) (n : Nat) : (s.countOob c n).train = s.train := rfl

@[simp] theorem State.setSlot_pending (i : Nat) (x : Slot) : (s.setSlot i x).pending = s.pending := rfl
@[simp] theorem State.setSlot_now (i : Nat) (x : Slot) : (s.setSlot i x).now = s.now := rfl
@[simp] theorem State.setSlot_free (i : Nat) (x : Slot) : (s.setSlot i x).free = s.free := rfl
@[simp] theorem State.setSlot_core (i : Nat) (x : Slot) : (s.setSlot i x).core = s.core := rfl
@[simp] theorem State.setSlot_remote (i : Nat) (x : Slot) : (s.setSlot i x).remote = s.remote := rfl
@[simp] theorem State.setSlot_evt (i : Nat) (x : Slot) : (s.setSlot i x).evt = s.evt := rfl
@[simp] theorem State.setSlot_eng (i : Nat) (x : Slot) : (s.setSlot i x).eng = s.eng := rfl
@[simp] theorem State.setSlot_tick (i : Nat) (x : Slot) : (s.setSlot i x).tick = s.tick := rfl
@[simp] theorem State.setSlot_ctxs (i : Nat) (x : Slot) : (s.setSlot i x).ctxs = s.ctxs := rfl
@[simp] theorem State.setSlot_fmts (i : Nat) (x : Slot) : (s.setSlot i x).fmts = s.fmts := rfl
@[simp] theorem State.setSlot_rts (i : Nat) (x : Slot) : (s.setSlot i x).rts = s.rts := rfl
@[simp] theorem State.setSlot_prio (i : Nat) (x : Slot) : (s.setSlot i x).prio = s.prio := rfl
@[simp] theorem State.setSlot_prioNext (i : Nat) (x : Slot) : (s.setSlot i x).prioNext = s.prioNext := rfl
@[simp] theorem State.setSlot_schedLast (i : Nat) (x : Slot) : (s.setSlot i x).schedLast = s.schedLast := rfl
@[simp] theorem State.setSlot_schedTurn (i : Nat) (x : Slot) : (s.setSlot i x).schedTurn = s.schedTurn := rfl
@[simp] theorem State.setSlot_stallMap (i : Nat) (x : Slot) : (s.setSlot i x).stallMap = s.stallMap := rfl
@[simp] theorem State.setSlot_rampTab (i : Nat) (x : Slot) : (s.setSlot i x).rampTab = s.rampTab := rfl
@[simp] theorem State.setSlot_rampNext (i : Nat) (x : Slot) : (s.setSlot i x).rampNext = s.rampNext := rfl
@[simp] theorem State.setSlot_riskTab (i : Nat) (x : Slot) : (s.setSlot i x).riskTab = s.riskTab := rfl
@[simp] theorem State.setSlot_regions (i : Nat) (x : Slot) : (s.setSlot i x).regions = s.regions := rfl
@[simp] theorem State.setSlot_groups (i : Nat) (x : Slot) : (s.setSlot i x).groups = s.groups := rfl
@[simp] theorem State.setSlot_descs (i : Nat) (x : Slot) : (s.setSlot i x).descs = s.descs := rfl
@[simp] theorem State.setSlot_descGen (i : Nat) (x : Slot) : (s.setSlot i x).descGen = s.descGen := rfl
@[simp] theorem State.setSlot_touch (i : Nat) (x : Slot) : (s.setSlot i x).touch = s.touch := rfl
@[simp] theorem State.setSlot_lane (i : Nat) (x : Slot) : (s.setSlot i x).lane = s.lane := rfl
@[simp] theorem State.setSlot_staging (i : Nat) (x : Slot) : (s.setSlot i x).staging = s.staging := rfl
@[simp] theorem State.setSlot_tlb (i : Nat) (x : Slot) : (s.setSlot i x).tlb = s.tlb := rfl
@[simp] theorem State.setSlot_walks (i : Nat) (x : Slot) : (s.setSlot i x).walks = s.walks := rfl
@[simp] theorem State.setSlot_invals (i : Nat) (x : Slot) : (s.setSlot i x).invals = s.invals := rfl
@[simp] theorem State.setSlot_invalReq (i : Nat) (x : Slot) : (s.setSlot i x).invalReq = s.invalReq := rfl
@[simp] theorem State.setSlot_invalDone (i : Nat) (x : Slot) : (s.setSlot i x).invalDone = s.invalDone := rfl
@[simp] theorem State.setSlot_reqs (i : Nat) (x : Slot) : (s.setSlot i x).reqs = s.reqs := rfl
@[simp] theorem State.setSlot_sent (i : Nat) (x : Slot) : (s.setSlot i x).sent = s.sent := rfl
@[simp] theorem State.setSlot_waits (i : Nat) (x : Slot) : (s.setSlot i x).waits = s.waits := rfl
@[simp] theorem State.setSlot_dovetail (i : Nat) (x : Slot) : (s.setSlot i x).dovetail = s.dovetail := rfl
@[simp] theorem State.setSlot_locks (i : Nat) (x : Slot) : (s.setSlot i x).locks = s.locks := rfl
@[simp] theorem State.setSlot_chains (i : Nat) (x : Slot) : (s.setSlot i x).chains = s.chains := rfl
@[simp] theorem State.setSlot_chainOut (i : Nat) (x : Slot) : (s.setSlot i x).chainOut = s.chainOut := rfl
@[simp] theorem State.setSlot_port (i : Nat) (x : Slot) : (s.setSlot i x).port = s.port := rfl
@[simp] theorem State.setSlot_ckpt (i : Nat) (x : Slot) : (s.setSlot i x).ckpt = s.ckpt := rfl
@[simp] theorem State.setSlot_risk (i : Nat) (x : Slot) : (s.setSlot i x).risk = s.risk := rfl
@[simp] theorem State.setSlot_log (i : Nat) (x : Slot) : (s.setSlot i x).log = s.log := rfl
@[simp] theorem State.setSlot_tel (i : Nat) (x : Slot) : (s.setSlot i x).tel = s.tel := rfl
@[simp] theorem State.setSlot_pow (i : Nat) (x : Slot) : (s.setSlot i x).pow = s.pow := rfl
@[simp] theorem State.setSlot_bist (i : Nat) (x : Slot) : (s.setSlot i x).bist = s.bist := rfl
@[simp] theorem State.setSlot_sec (i : Nat) (x : Slot) : (s.setSlot i x).sec = s.sec := rfl
@[simp] theorem State.setSlot_mgmt (i : Nat) (x : Slot) : (s.setSlot i x).mgmt = s.mgmt := rfl
@[simp] theorem State.setSlot_train (i : Nat) (x : Slot) : (s.setSlot i x).train = s.train := rfl

@[simp] theorem State.modSlot_pending (i : Nat) (f : Slot → Slot) : (s.modSlot i f).pending = s.pending := rfl
@[simp] theorem State.modSlot_now (i : Nat) (f : Slot → Slot) : (s.modSlot i f).now = s.now := rfl
@[simp] theorem State.modSlot_free (i : Nat) (f : Slot → Slot) : (s.modSlot i f).free = s.free := rfl
@[simp] theorem State.modSlot_core (i : Nat) (f : Slot → Slot) : (s.modSlot i f).core = s.core := rfl
@[simp] theorem State.modSlot_remote (i : Nat) (f : Slot → Slot) : (s.modSlot i f).remote = s.remote := rfl
@[simp] theorem State.modSlot_evt (i : Nat) (f : Slot → Slot) : (s.modSlot i f).evt = s.evt := rfl
@[simp] theorem State.modSlot_eng (i : Nat) (f : Slot → Slot) : (s.modSlot i f).eng = s.eng := rfl
@[simp] theorem State.modSlot_tick (i : Nat) (f : Slot → Slot) : (s.modSlot i f).tick = s.tick := rfl
@[simp] theorem State.modSlot_ctxs (i : Nat) (f : Slot → Slot) : (s.modSlot i f).ctxs = s.ctxs := rfl
@[simp] theorem State.modSlot_fmts (i : Nat) (f : Slot → Slot) : (s.modSlot i f).fmts = s.fmts := rfl
@[simp] theorem State.modSlot_rts (i : Nat) (f : Slot → Slot) : (s.modSlot i f).rts = s.rts := rfl
@[simp] theorem State.modSlot_prio (i : Nat) (f : Slot → Slot) : (s.modSlot i f).prio = s.prio := rfl
@[simp] theorem State.modSlot_prioNext (i : Nat) (f : Slot → Slot) : (s.modSlot i f).prioNext = s.prioNext := rfl
@[simp] theorem State.modSlot_schedLast (i : Nat) (f : Slot → Slot) : (s.modSlot i f).schedLast = s.schedLast := rfl
@[simp] theorem State.modSlot_schedTurn (i : Nat) (f : Slot → Slot) : (s.modSlot i f).schedTurn = s.schedTurn := rfl
@[simp] theorem State.modSlot_stallMap (i : Nat) (f : Slot → Slot) : (s.modSlot i f).stallMap = s.stallMap := rfl
@[simp] theorem State.modSlot_rampTab (i : Nat) (f : Slot → Slot) : (s.modSlot i f).rampTab = s.rampTab := rfl
@[simp] theorem State.modSlot_rampNext (i : Nat) (f : Slot → Slot) : (s.modSlot i f).rampNext = s.rampNext := rfl
@[simp] theorem State.modSlot_riskTab (i : Nat) (f : Slot → Slot) : (s.modSlot i f).riskTab = s.riskTab := rfl
@[simp] theorem State.modSlot_regions (i : Nat) (f : Slot → Slot) : (s.modSlot i f).regions = s.regions := rfl
@[simp] theorem State.modSlot_groups (i : Nat) (f : Slot → Slot) : (s.modSlot i f).groups = s.groups := rfl
@[simp] theorem State.modSlot_descs (i : Nat) (f : Slot → Slot) : (s.modSlot i f).descs = s.descs := rfl
@[simp] theorem State.modSlot_descGen (i : Nat) (f : Slot → Slot) : (s.modSlot i f).descGen = s.descGen := rfl
@[simp] theorem State.modSlot_touch (i : Nat) (f : Slot → Slot) : (s.modSlot i f).touch = s.touch := rfl
@[simp] theorem State.modSlot_lane (i : Nat) (f : Slot → Slot) : (s.modSlot i f).lane = s.lane := rfl
@[simp] theorem State.modSlot_staging (i : Nat) (f : Slot → Slot) : (s.modSlot i f).staging = s.staging := rfl
@[simp] theorem State.modSlot_tlb (i : Nat) (f : Slot → Slot) : (s.modSlot i f).tlb = s.tlb := rfl
@[simp] theorem State.modSlot_walks (i : Nat) (f : Slot → Slot) : (s.modSlot i f).walks = s.walks := rfl
@[simp] theorem State.modSlot_invals (i : Nat) (f : Slot → Slot) : (s.modSlot i f).invals = s.invals := rfl
@[simp] theorem State.modSlot_invalReq (i : Nat) (f : Slot → Slot) : (s.modSlot i f).invalReq = s.invalReq := rfl
@[simp] theorem State.modSlot_invalDone (i : Nat) (f : Slot → Slot) : (s.modSlot i f).invalDone = s.invalDone := rfl
@[simp] theorem State.modSlot_reqs (i : Nat) (f : Slot → Slot) : (s.modSlot i f).reqs = s.reqs := rfl
@[simp] theorem State.modSlot_sent (i : Nat) (f : Slot → Slot) : (s.modSlot i f).sent = s.sent := rfl
@[simp] theorem State.modSlot_waits (i : Nat) (f : Slot → Slot) : (s.modSlot i f).waits = s.waits := rfl
@[simp] theorem State.modSlot_dovetail (i : Nat) (f : Slot → Slot) : (s.modSlot i f).dovetail = s.dovetail := rfl
@[simp] theorem State.modSlot_locks (i : Nat) (f : Slot → Slot) : (s.modSlot i f).locks = s.locks := rfl
@[simp] theorem State.modSlot_chains (i : Nat) (f : Slot → Slot) : (s.modSlot i f).chains = s.chains := rfl
@[simp] theorem State.modSlot_chainOut (i : Nat) (f : Slot → Slot) : (s.modSlot i f).chainOut = s.chainOut := rfl
@[simp] theorem State.modSlot_port (i : Nat) (f : Slot → Slot) : (s.modSlot i f).port = s.port := rfl
@[simp] theorem State.modSlot_ckpt (i : Nat) (f : Slot → Slot) : (s.modSlot i f).ckpt = s.ckpt := rfl
@[simp] theorem State.modSlot_risk (i : Nat) (f : Slot → Slot) : (s.modSlot i f).risk = s.risk := rfl
@[simp] theorem State.modSlot_log (i : Nat) (f : Slot → Slot) : (s.modSlot i f).log = s.log := rfl
@[simp] theorem State.modSlot_tel (i : Nat) (f : Slot → Slot) : (s.modSlot i f).tel = s.tel := rfl
@[simp] theorem State.modSlot_pow (i : Nat) (f : Slot → Slot) : (s.modSlot i f).pow = s.pow := rfl
@[simp] theorem State.modSlot_bist (i : Nat) (f : Slot → Slot) : (s.modSlot i f).bist = s.bist := rfl
@[simp] theorem State.modSlot_sec (i : Nat) (f : Slot → Slot) : (s.modSlot i f).sec = s.sec := rfl
@[simp] theorem State.modSlot_mgmt (i : Nat) (f : Slot → Slot) : (s.modSlot i f).mgmt = s.mgmt := rfl
@[simp] theorem State.modSlot_train (i : Nat) (f : Slot → Slot) : (s.modSlot i f).train = s.train := rfl

@[simp] theorem State.setRt_pending (i : Nat) (x : RescaleTable) : (s.setRt i x).pending = s.pending := rfl
@[simp] theorem State.setRt_now (i : Nat) (x : RescaleTable) : (s.setRt i x).now = s.now := rfl
@[simp] theorem State.setRt_free (i : Nat) (x : RescaleTable) : (s.setRt i x).free = s.free := rfl
@[simp] theorem State.setRt_core (i : Nat) (x : RescaleTable) : (s.setRt i x).core = s.core := rfl
@[simp] theorem State.setRt_remote (i : Nat) (x : RescaleTable) : (s.setRt i x).remote = s.remote := rfl
@[simp] theorem State.setRt_evt (i : Nat) (x : RescaleTable) : (s.setRt i x).evt = s.evt := rfl
@[simp] theorem State.setRt_eng (i : Nat) (x : RescaleTable) : (s.setRt i x).eng = s.eng := rfl
@[simp] theorem State.setRt_tick (i : Nat) (x : RescaleTable) : (s.setRt i x).tick = s.tick := rfl
@[simp] theorem State.setRt_ctxs (i : Nat) (x : RescaleTable) : (s.setRt i x).ctxs = s.ctxs := rfl
@[simp] theorem State.setRt_fmts (i : Nat) (x : RescaleTable) : (s.setRt i x).fmts = s.fmts := rfl
@[simp] theorem State.setRt_prio (i : Nat) (x : RescaleTable) : (s.setRt i x).prio = s.prio := rfl
@[simp] theorem State.setRt_prioNext (i : Nat) (x : RescaleTable) : (s.setRt i x).prioNext = s.prioNext := rfl
@[simp] theorem State.setRt_schedLast (i : Nat) (x : RescaleTable) : (s.setRt i x).schedLast = s.schedLast := rfl
@[simp] theorem State.setRt_schedTurn (i : Nat) (x : RescaleTable) : (s.setRt i x).schedTurn = s.schedTurn := rfl
@[simp] theorem State.setRt_stallMap (i : Nat) (x : RescaleTable) : (s.setRt i x).stallMap = s.stallMap := rfl
@[simp] theorem State.setRt_rampTab (i : Nat) (x : RescaleTable) : (s.setRt i x).rampTab = s.rampTab := rfl
@[simp] theorem State.setRt_rampNext (i : Nat) (x : RescaleTable) : (s.setRt i x).rampNext = s.rampNext := rfl
@[simp] theorem State.setRt_riskTab (i : Nat) (x : RescaleTable) : (s.setRt i x).riskTab = s.riskTab := rfl
@[simp] theorem State.setRt_regions (i : Nat) (x : RescaleTable) : (s.setRt i x).regions = s.regions := rfl
@[simp] theorem State.setRt_groups (i : Nat) (x : RescaleTable) : (s.setRt i x).groups = s.groups := rfl
@[simp] theorem State.setRt_descs (i : Nat) (x : RescaleTable) : (s.setRt i x).descs = s.descs := rfl
@[simp] theorem State.setRt_descGen (i : Nat) (x : RescaleTable) : (s.setRt i x).descGen = s.descGen := rfl
@[simp] theorem State.setRt_slots (i : Nat) (x : RescaleTable) : (s.setRt i x).slots = s.slots := rfl
@[simp] theorem State.setRt_touch (i : Nat) (x : RescaleTable) : (s.setRt i x).touch = s.touch := rfl
@[simp] theorem State.setRt_lane (i : Nat) (x : RescaleTable) : (s.setRt i x).lane = s.lane := rfl
@[simp] theorem State.setRt_staging (i : Nat) (x : RescaleTable) : (s.setRt i x).staging = s.staging := rfl
@[simp] theorem State.setRt_tlb (i : Nat) (x : RescaleTable) : (s.setRt i x).tlb = s.tlb := rfl
@[simp] theorem State.setRt_walks (i : Nat) (x : RescaleTable) : (s.setRt i x).walks = s.walks := rfl
@[simp] theorem State.setRt_invals (i : Nat) (x : RescaleTable) : (s.setRt i x).invals = s.invals := rfl
@[simp] theorem State.setRt_invalReq (i : Nat) (x : RescaleTable) : (s.setRt i x).invalReq = s.invalReq := rfl
@[simp] theorem State.setRt_invalDone (i : Nat) (x : RescaleTable) : (s.setRt i x).invalDone = s.invalDone := rfl
@[simp] theorem State.setRt_reqs (i : Nat) (x : RescaleTable) : (s.setRt i x).reqs = s.reqs := rfl
@[simp] theorem State.setRt_sent (i : Nat) (x : RescaleTable) : (s.setRt i x).sent = s.sent := rfl
@[simp] theorem State.setRt_waits (i : Nat) (x : RescaleTable) : (s.setRt i x).waits = s.waits := rfl
@[simp] theorem State.setRt_dovetail (i : Nat) (x : RescaleTable) : (s.setRt i x).dovetail = s.dovetail := rfl
@[simp] theorem State.setRt_locks (i : Nat) (x : RescaleTable) : (s.setRt i x).locks = s.locks := rfl
@[simp] theorem State.setRt_chains (i : Nat) (x : RescaleTable) : (s.setRt i x).chains = s.chains := rfl
@[simp] theorem State.setRt_chainOut (i : Nat) (x : RescaleTable) : (s.setRt i x).chainOut = s.chainOut := rfl
@[simp] theorem State.setRt_port (i : Nat) (x : RescaleTable) : (s.setRt i x).port = s.port := rfl
@[simp] theorem State.setRt_ckpt (i : Nat) (x : RescaleTable) : (s.setRt i x).ckpt = s.ckpt := rfl
@[simp] theorem State.setRt_risk (i : Nat) (x : RescaleTable) : (s.setRt i x).risk = s.risk := rfl
@[simp] theorem State.setRt_log (i : Nat) (x : RescaleTable) : (s.setRt i x).log = s.log := rfl
@[simp] theorem State.setRt_tel (i : Nat) (x : RescaleTable) : (s.setRt i x).tel = s.tel := rfl
@[simp] theorem State.setRt_pow (i : Nat) (x : RescaleTable) : (s.setRt i x).pow = s.pow := rfl
@[simp] theorem State.setRt_bist (i : Nat) (x : RescaleTable) : (s.setRt i x).bist = s.bist := rfl
@[simp] theorem State.setRt_sec (i : Nat) (x : RescaleTable) : (s.setRt i x).sec = s.sec := rfl
@[simp] theorem State.setRt_mgmt (i : Nat) (x : RescaleTable) : (s.setRt i x).mgmt = s.mgmt := rfl
@[simp] theorem State.setRt_train (i : Nat) (x : RescaleTable) : (s.setRt i x).train = s.train := rfl

@[simp] theorem State.setChain_pending (i : Nat) (x : Chain) : (s.setChain i x).pending = s.pending := rfl
@[simp] theorem State.setChain_now (i : Nat) (x : Chain) : (s.setChain i x).now = s.now := rfl
@[simp] theorem State.setChain_free (i : Nat) (x : Chain) : (s.setChain i x).free = s.free := rfl
@[simp] theorem State.setChain_core (i : Nat) (x : Chain) : (s.setChain i x).core = s.core := rfl
@[simp] theorem State.setChain_remote (i : Nat) (x : Chain) : (s.setChain i x).remote = s.remote := rfl
@[simp] theorem State.setChain_evt (i : Nat) (x : Chain) : (s.setChain i x).evt = s.evt := rfl
@[simp] theorem State.setChain_eng (i : Nat) (x : Chain) : (s.setChain i x).eng = s.eng := rfl
@[simp] theorem State.setChain_tick (i : Nat) (x : Chain) : (s.setChain i x).tick = s.tick := rfl
@[simp] theorem State.setChain_ctxs (i : Nat) (x : Chain) : (s.setChain i x).ctxs = s.ctxs := rfl
@[simp] theorem State.setChain_fmts (i : Nat) (x : Chain) : (s.setChain i x).fmts = s.fmts := rfl
@[simp] theorem State.setChain_rts (i : Nat) (x : Chain) : (s.setChain i x).rts = s.rts := rfl
@[simp] theorem State.setChain_prio (i : Nat) (x : Chain) : (s.setChain i x).prio = s.prio := rfl
@[simp] theorem State.setChain_prioNext (i : Nat) (x : Chain) : (s.setChain i x).prioNext = s.prioNext := rfl
@[simp] theorem State.setChain_schedLast (i : Nat) (x : Chain) : (s.setChain i x).schedLast = s.schedLast := rfl
@[simp] theorem State.setChain_schedTurn (i : Nat) (x : Chain) : (s.setChain i x).schedTurn = s.schedTurn := rfl
@[simp] theorem State.setChain_stallMap (i : Nat) (x : Chain) : (s.setChain i x).stallMap = s.stallMap := rfl
@[simp] theorem State.setChain_rampTab (i : Nat) (x : Chain) : (s.setChain i x).rampTab = s.rampTab := rfl
@[simp] theorem State.setChain_rampNext (i : Nat) (x : Chain) : (s.setChain i x).rampNext = s.rampNext := rfl
@[simp] theorem State.setChain_riskTab (i : Nat) (x : Chain) : (s.setChain i x).riskTab = s.riskTab := rfl
@[simp] theorem State.setChain_regions (i : Nat) (x : Chain) : (s.setChain i x).regions = s.regions := rfl
@[simp] theorem State.setChain_groups (i : Nat) (x : Chain) : (s.setChain i x).groups = s.groups := rfl
@[simp] theorem State.setChain_descs (i : Nat) (x : Chain) : (s.setChain i x).descs = s.descs := rfl
@[simp] theorem State.setChain_descGen (i : Nat) (x : Chain) : (s.setChain i x).descGen = s.descGen := rfl
@[simp] theorem State.setChain_slots (i : Nat) (x : Chain) : (s.setChain i x).slots = s.slots := rfl
@[simp] theorem State.setChain_touch (i : Nat) (x : Chain) : (s.setChain i x).touch = s.touch := rfl
@[simp] theorem State.setChain_lane (i : Nat) (x : Chain) : (s.setChain i x).lane = s.lane := rfl
@[simp] theorem State.setChain_staging (i : Nat) (x : Chain) : (s.setChain i x).staging = s.staging := rfl
@[simp] theorem State.setChain_tlb (i : Nat) (x : Chain) : (s.setChain i x).tlb = s.tlb := rfl
@[simp] theorem State.setChain_walks (i : Nat) (x : Chain) : (s.setChain i x).walks = s.walks := rfl
@[simp] theorem State.setChain_invals (i : Nat) (x : Chain) : (s.setChain i x).invals = s.invals := rfl
@[simp] theorem State.setChain_invalReq (i : Nat) (x : Chain) : (s.setChain i x).invalReq = s.invalReq := rfl
@[simp] theorem State.setChain_invalDone (i : Nat) (x : Chain) : (s.setChain i x).invalDone = s.invalDone := rfl
@[simp] theorem State.setChain_reqs (i : Nat) (x : Chain) : (s.setChain i x).reqs = s.reqs := rfl
@[simp] theorem State.setChain_sent (i : Nat) (x : Chain) : (s.setChain i x).sent = s.sent := rfl
@[simp] theorem State.setChain_waits (i : Nat) (x : Chain) : (s.setChain i x).waits = s.waits := rfl
@[simp] theorem State.setChain_dovetail (i : Nat) (x : Chain) : (s.setChain i x).dovetail = s.dovetail := rfl
@[simp] theorem State.setChain_locks (i : Nat) (x : Chain) : (s.setChain i x).locks = s.locks := rfl
@[simp] theorem State.setChain_chainOut (i : Nat) (x : Chain) : (s.setChain i x).chainOut = s.chainOut := rfl
@[simp] theorem State.setChain_port (i : Nat) (x : Chain) : (s.setChain i x).port = s.port := rfl
@[simp] theorem State.setChain_ckpt (i : Nat) (x : Chain) : (s.setChain i x).ckpt = s.ckpt := rfl
@[simp] theorem State.setChain_risk (i : Nat) (x : Chain) : (s.setChain i x).risk = s.risk := rfl
@[simp] theorem State.setChain_log (i : Nat) (x : Chain) : (s.setChain i x).log = s.log := rfl
@[simp] theorem State.setChain_tel (i : Nat) (x : Chain) : (s.setChain i x).tel = s.tel := rfl
@[simp] theorem State.setChain_pow (i : Nat) (x : Chain) : (s.setChain i x).pow = s.pow := rfl
@[simp] theorem State.setChain_bist (i : Nat) (x : Chain) : (s.setChain i x).bist = s.bist := rfl
@[simp] theorem State.setChain_sec (i : Nat) (x : Chain) : (s.setChain i x).sec = s.sec := rfl
@[simp] theorem State.setChain_mgmt (i : Nat) (x : Chain) : (s.setChain i x).mgmt = s.mgmt := rfl
@[simp] theorem State.setChain_train (i : Nat) (x : Chain) : (s.setChain i x).train = s.train := rfl

end Sys2Proof.Machine
end

