-- ==== Sys2Proof/Laws/Tables.lean ====
section
/-! SUPPORT. Laws of the sparse tables and of the list helpers: read after write, and that a write keeps the canonical form. -/

namespace Sys2Proof.Machine

variable {α β : Type} [DecidableEq β]

/-! ### Sparse tables -/

/-- A canonical table reads as the default below its bound. -/
theorem Tbl.get_below {d : β} : ∀ {t : Tbl β} {b i : Nat}, Tbl.wfFrom d b t = true → i < b → Tbl.get d t i = d
  | [], _, _, _, _ => rfl
  | (k, v) :: t, b, i, h, hi => by
    simp only [Tbl.wfFrom, Bool.and_eq_true, decide_eq_true_eq] at h
    have hk : i < k := by omega
    simp [Tbl.get, hk, Nat.ne_of_lt hk]

/-- A canonical table above a bound is one above every lower bound. -/
theorem Tbl.wfFrom_mono {d : β} {t : Tbl β} {a b : Nat} (h : Tbl.wfFrom d b t = true) (hab : a ≤ b) : Tbl.wfFrom d a t = true := by
  cases t with
  | nil => rfl
  | cons p t =>
    obtain ⟨k, v⟩ := p
    simp only [Tbl.wfFrom, Bool.and_eq_true, decide_eq_true_eq] at h ⊢
    exact ⟨⟨by omega, h.1.2⟩, h.2⟩

/-- A write keeps the canonical form. -/
theorem Tbl.wfFrom_put {d : β} : ∀ {t : Tbl β} {b i : Nat} {v : β}, Tbl.wfFrom d b t = true → b ≤ i →
    Tbl.wfFrom d b (Tbl.put d t i v) = true
  | [], b, i, v, _, hi => by
    by_cases hv : v = d <;> simp [Tbl.put, hv, Tbl.wfFrom, hi]
  | (k, w) :: t, b, i, v, h, hi => by
    simp only [Tbl.wfFrom, Bool.and_eq_true, decide_eq_true_eq] at h
    obtain ⟨⟨h1, h2⟩, h3⟩ := h
    unfold Tbl.put
    split
    · split
      · simp [Tbl.wfFrom, h1, h2, h3]
      · rename_i hik hv
        simp only [Tbl.wfFrom, Bool.and_eq_true, decide_eq_true_eq]
        exact ⟨⟨hi, hv⟩, ⟨by omega, h2⟩, h3⟩
    · split
      · split
        · exact Tbl.wfFrom_mono h3 (by omega)
        · rename_i hik hv
          subst hik
          simp [Tbl.wfFrom, hi, hv, h3]
      · rename_i hik hne
        simp only [Tbl.wfFrom, Bool.and_eq_true, decide_eq_true_eq]
        exact ⟨⟨h1, h2⟩, Tbl.wfFrom_put h3 (by omega)⟩

/-- A write keeps the canonical form. -/
theorem Tbl.wf_put {d : β} {t : Tbl β} (i : Nat) (v : β) (h : Tbl.wf d t = true) : Tbl.wf d (Tbl.put d t i v) = true :=
  Tbl.wfFrom_put h (Nat.zero_le _)

/-- Read after write, in a canonical table above a bound. -/
theorem Tbl.get_put_from {d : β} : ∀ {t : Tbl β} {b : Nat} (i j : Nat) (v : β), Tbl.wfFrom d b t = true →
    Tbl.get d (Tbl.put d t i v) j = if j = i then v else Tbl.get d t j
  | [], _, i, j, v, _ => by
    by_cases hv : v = d <;> by_cases hj : j = i <;> simp [Tbl.put, Tbl.get, hv, hj]
  | (k, w) :: t, b, i, j, v, h => by
    simp only [Tbl.wfFrom, Bool.and_eq_true, decide_eq_true_eq] at h
    obtain ⟨⟨h1, h2⟩, h3⟩ := h
    unfold Tbl.put
    split
    · rename_i hik
      split
      · rename_i hv
        subst hv
        by_cases hj : j = i
        · subst hj; simp [Tbl.get, hik, Nat.ne_of_lt hik]
        · simp [hj]
      · by_cases hj : j = i
        · simp [Tbl.get, hj]
        · by_cases hlt : j < i
          · have : j < k := by omega
            simp [Tbl.get, hj, hlt, this, Nat.ne_of_lt this]
          · simp [Tbl.get, hj, hlt]
    · split
      · rename_i hik
        subst hik
        split
        · rename_i hv
          subst hv
          by_cases hj : j = i
          · subst hj; simp [Tbl.get_below h3 (Nat.lt_succ_self j)]
          · by_cases hlt : j < i
            · simp [Tbl.get, hj, hlt, Tbl.get_below h3 (Nat.lt_succ_of_lt hlt)]
            · simp [Tbl.get, hj, hlt]
        · by_cases hj : j = i <;> simp [Tbl.get, hj]
      · rename_i hik hne
        by_cases hjk : j = k
        · subst hjk
          have : j ≠ i := fun e => hne e.symm
          simp [Tbl.get, this]
        · by_cases hlt : j < k
          · have : j ≠ i := by omega
            simp [Tbl.get, hjk, hlt, this]
          · simp only [Tbl.get, hjk, hlt, if_false]
            exact Tbl.get_put_from i j v h3

/-- Read after write in a canonical table. -/
theorem Tbl.get_put {d : β} {t : Tbl β} (i j : Nat) (v : β) (h : Tbl.wf d t = true) :
    Tbl.get d (Tbl.put d t i v) j = if j = i then v else Tbl.get d t j := Tbl.get_put_from i j v h

/-! ### Memories -/

/-- A store keeps the canonical form. -/
theorem Memory.wf_write {m : Memory} (a : Nat) (b : Byte) (h : m.wf = true) : (m.write a b).wf = true := Tbl.wf_put a b h

/-- A byte read after a store. -/
theorem Memory.read_write {m : Memory} (a x : Nat) (b : Byte) (h : m.wf = true) :
    (m.write a b).read x = if x = a then b else m.read x := Tbl.get_put a x b h

/-! ### Lists -/

@[simp] theorem length_setAt (l : List α) (i : Nat) (x : α) : (setAt l i x).length = l.length := by
  induction l generalizing i with
  | nil => rfl
  | cons a t ih => cases i <;> simp [setAt, ih]

@[simp] theorem getElem?_setAt (l : List α) (i j : Nat) (x : α) :
    (setAt l i x)[j]? = if j = i then (l[j]?).map (fun _ => x) else l[j]? := by
  induction l generalizing i j with
  | nil => simp [setAt]
  | cons a t ih =>
    cases i with
    | zero => cases j <;> simp [setAt]
    | succ i => cases j <;> simp [setAt, ih]

/-- What `findAt` finds stands at its place. -/
theorem findAt_get {p : α → Bool} : ∀ {l : List α} {n i : Nat} {a : α}, findAt p l n = some (i, a) →
    n ≤ i ∧ l[i - n]? = some a ∧ p a = true
  | [], _, _, _, h => by simp [findAt] at h
  | b :: t, n, i, a, h => by
    unfold findAt at h
    split at h
    · rename_i hb
      simp only [Option.some.injEq, Prod.mk.injEq] at h
      obtain ⟨rfl, rfl⟩ := h
      simp [hb]
    · obtain ⟨h1, h2, h3⟩ := findAt_get h
      refine ⟨by omega, ?_, h3⟩
      obtain ⟨k, rfl⟩ : ∃ k, i = n + 1 + k := ⟨i - (n + 1), by omega⟩
      have e1 : n + 1 + k - (n + 1) = k := by omega
      have e2 : n + 1 + k - n = k + 1 := by omega
      rw [e1] at h2
      rw [e2]
      simpa using h2

/-- What `findAt` finds from place 0. -/
theorem findAt_zero {p : α → Bool} {l : List α} {i : Nat} {a : α} (h : findAt p l 0 = some (i, a)) :
    l[i]? = some a ∧ p a = true := by
  have := findAt_get h
  exact ⟨by simpa using this.2.1, this.2.2⟩

theorem length_dropAt_le (l : List α) (i : Nat) : (dropAt l i).length ≤ l.length := by
  induction l generalizing i with
  | nil => simp [dropAt]
  | cons a t ih => cases i <;> simp [dropAt]; exact ih _

/-- Dropping one element leaves a sublist. -/
theorem dropAt_sublist (l : List α) (i : Nat) : (dropAt l i).Sublist l := by
  induction l generalizing i with
  | nil => simp [dropAt]
  | cons a t ih => cases i <;> simp [dropAt, ih]

end Sys2Proof.Machine
end

