-- ==== Sys2Proof/Laws/Contexts.lean ====
section
/-! SUPPORT. Laws of contexts, slots, tables and chains as places of State: reading what was put, leaving the others alone; what
putting a command in a phase and finishing it do. -/

namespace Sys2Proof.Machine

variable (s : State)

/-! ### Reading a place after an update -/

theorem State.ctx_setCtx (c d : CtxNo) (x : Context) : (s.setCtx c x).ctx d = if d = c then x else s.ctx d := by
  have h1 : (s.setCtx c x).ctx d = (s.ctxs.set c.val x c.isLt)[d.val] := rfl
  have h2 : s.ctx d = s.ctxs[d.val] := rfl
  rw [h1, h2, Vector.getElem_set]
  by_cases h : d = c
  · simp [h]
  · have : ¬ c.val = d.val := fun e => h (Fin.ext e.symm)
    simp [h, this]

@[simp] theorem State.ctx_setCtx_same (c : CtxNo) (x : Context) : (s.setCtx c x).ctx c = x := by simp [State.ctx_setCtx]

theorem State.ctx_setCtx_other {c d : CtxNo} (h : d ≠ c) (x : Context) : (s.setCtx c x).ctx d = s.ctx d := by
  simp [State.ctx_setCtx, h]

@[simp] theorem State.ctx_modCtx_same (c : CtxNo) (f : Context → Context) : (s.modCtx c f).ctx c = f (s.ctx c) := by
  simp [State.modCtx]

theorem State.ctx_modCtx (c d : CtxNo) (f : Context → Context) : (s.modCtx c f).ctx d = if d = c then f (s.ctx c) else s.ctx d := by
  simp [State.modCtx, State.ctx_setCtx]

theorem State.ctx_modCtx_other {c d : CtxNo} (h : d ≠ c) (f : Context → Context) : (s.modCtx c f).ctx d = s.ctx d := by
  simp [State.ctx_modCtx, h]

@[simp] theorem State.ctx_setSlot (i : Nat) (x : Slot) (d : CtxNo) : (s.setSlot i x).ctx d = s.ctx d := rfl
@[simp] theorem State.ctx_modSlot (i : Nat) (f : Slot → Slot) (d : CtxNo) : (s.modSlot i f).ctx d = s.ctx d := rfl
@[simp] theorem State.ctx_setRt (i : Nat) (x : RescaleTable) (d : CtxNo) : (s.setRt i x).ctx d = s.ctx d := rfl
@[simp] theorem State.ctx_setChain (i : Nat) (x : Chain) (d : CtxNo) : (s.setChain i x).ctx d = s.ctx d := rfl

@[simp] theorem State.slot_modCtx (c : CtxNo) (f : Context → Context) (i : Nat) : (s.modCtx c f).slot i = s.slot i := rfl
@[simp] theorem State.slot_setPhase (c : CtxNo) (k : Nat) (p : Phase) (i : Nat) : (s.setPhase c k p).slot i = s.slot i := rfl
@[simp] theorem State.slot_finish (c : CtxNo) (k : Nat) (r : Reply) (i : Nat) : (s.finish c k r).slot i = s.slot i := by
  simp only [State.slot, State.finish_slots]
@[simp] theorem State.rt_modCtx (c : CtxNo) (f : Context → Context) (i : Nat) : (s.modCtx c f).rt i = s.rt i := rfl
@[simp] theorem State.rt_setPhase (c : CtxNo) (k : Nat) (p : Phase) (i : Nat) : (s.setPhase c k p).rt i = s.rt i := rfl
@[simp] theorem State.rt_finish (c : CtxNo) (k : Nat) (r : Reply) (i : Nat) : (s.finish c k r).rt i = s.rt i := by
  simp only [State.rt, State.finish_rts]
@[simp] theorem State.chain_modCtx (c : CtxNo) (f : Context → Context) (i : Nat) : (s.modCtx c f).chain i = s.chain i := rfl
@[simp] theorem State.chain_finish (c : CtxNo) (k : Nat) (r : Reply) (i : Nat) : (s.finish c k r).chain i = s.chain i := by
  simp only [State.chain, State.finish_chains]

@[simp] theorem State.ctx_unwaitCmd (c : CtxNo) (i : Nat) (d : CtxNo) : (s.unwaitCmd c i).ctx d = s.ctx d := by
  simp only [State.ctx, State.unwaitCmd_ctxs]
@[simp] theorem State.ctx_unwait (c : CtxNo) (q : Word) (d : CtxNo) : (s.unwait c q).ctx d = s.ctx d := rfl
@[simp] theorem State.ctx_await (r : Res) (p : Nat) (c : CtxNo) (q : Word) (d : CtxNo) : (s.await r p c q).ctx d = s.ctx d := by
  simp only [State.ctx, State.await_ctxs]
@[simp] theorem State.ctx_touchTlb (p : Nat) (d : CtxNo) : (s.touchTlb p).ctx d = s.ctx d := rfl

theorem State.slot_setSlot (i j : Nat) (x : Slot) : (s.setSlot i x).slot j = if j = i ∧ i < 48 then x else s.slot j := by
  simp only [State.slot, State.setSlot, List.getD_eq_getElem?_getD, Vector.getElem?_toList]
  by_cases hj : j = i
  · subst hj
    by_cases h : j < 48
    · simp [h]
    · simp [h]
  · have hi : i ≠ j := fun e => hj e.symm
    simp [hj, hi]

theorem State.slot_modSlot (i j : Nat) (f : Slot → Slot) :
    (s.modSlot i f).slot j = if j = i ∧ i < 48 then f (s.slot i) else s.slot j := State.slot_setSlot s i j _

theorem State.rt_setRt (i j : Nat) (x : RescaleTable) : (s.setRt i x).rt j = if j = i ∧ i < 8 then x else s.rt j := by
  simp only [State.rt, State.setRt, List.getD_eq_getElem?_getD, Vector.getElem?_toList]
  by_cases hj : j = i
  · subst hj
    by_cases h : j < 8
    · simp [h]
    · simp [h]
  · have hi : i ≠ j := fun e => hj e.symm
    simp [hj, hi]

theorem State.chain_setChain (i j : Nat) (x : Chain) : (s.setChain i x).chain j = if j = i ∧ i < 4 then x else s.chain j := by
  simp only [State.chain, State.setChain, List.getD_eq_getElem?_getD, Vector.getElem?_toList]
  by_cases hj : j = i
  · subst hj
    by_cases h : j < 4
    · simp [h]
    · simp [h]
  · have hi : i ≠ j := fun e => hj e.symm
    simp [hj, hi]

/-! ### Phases -/

/-- What putting the command at place `i` in a phase makes of a context. -/
theorem State.ctx_setPhase (c d : CtxNo) (i : Nat) (p : Phase) : (s.setPhase c i p).ctx d =
    if d = c then (match (s.ctx c).cmds[i]? with
      | some m => (s.ctx c).setCmd i { m with phase := p }
      | none => s.ctx c) else s.ctx d := by
  rw [State.setPhase, State.ctx_modCtx] <;> rfl

theorem State.ctx_setPhase_other {c d : CtxNo} (h : d ≠ c) (i : Nat) (p : Phase) : (s.setPhase c i p).ctx d = s.ctx d := by
  simp [State.ctx_setPhase, h]

theorem State.cmds_setPhase (c : CtxNo) (i : Nat) (p : Phase) {m : Cmd} (h : (s.ctx c).cmds[i]? = some m) :
    ((s.setPhase c i p).ctx c).cmds = setAt (s.ctx c).cmds i { m with phase := p } := by
  simp [State.ctx_setPhase, h, Context.setCmd]

/-- The phase of a command after it was put in it. -/
theorem State.phase_setPhase {c : CtxNo} {i : Nat} {m : Cmd} (h : (s.ctx c).cmds[i]? = some m) (p : Phase) :
    PhaseAt (s.setPhase c i p) c i p := by
  simp [PhaseAt, State.cmds_setPhase s c i p h, h]

theorem State.cmds_setPhase_same {c : CtxNo} {i : Nat} {m : Cmd} (h : (s.ctx c).cmds[i]? = some m) (p : Phase) :
    ((s.setPhase c i p).ctx c).cmds[i]? = some { m with phase := p } := by
  simp [State.cmds_setPhase s c i p h, h]

theorem State.cmds_setPhase_other {c : CtxNo} {i j : Nat} (h : j ≠ i) (p : Phase) :
    ((s.setPhase c i p).ctx c).cmds[j]? = (s.ctx c).cmds[j]? := by
  cases hm : (s.ctx c).cmds[i]? with
  | none => simp [State.ctx_setPhase, hm]
  | some m => simp [State.cmds_setPhase s c i p hm, h]

/-- Giving translations up keeps a context's commands. -/
@[simp] theorem State.cmds_unpin (c d : CtxNo) : ((s.unpin c).ctx d).cmds = (s.ctx d).cmds := by
  simp only [State.unpin, State.ctx_modCtx]
  split
  · subst d; split <;> rfl
  · rfl

theorem State.ctx_unpin_other {c d : CtxNo} (h : d ≠ c) : (s.unpin c).ctx d = s.ctx d := State.ctx_modCtx_other s h _

@[simp] theorem State.cmds_countOob (c d : CtxNo) (n : Nat) : ((s.countOob c n).ctx d).cmds = (s.ctx d).cmds := by
  simp only [State.countOob, State.ctx_modCtx]
  split
  · subst d; rfl
  · rfl

theorem State.ctx_countOob_other {c d : CtxNo} (h : d ≠ c) (n : Nat) : (s.countOob c n).ctx d = s.ctx d := State.ctx_modCtx_other s h _

/-- Phases read through the list of commands. -/
theorem phaseAt_congr {s t : State} {c : CtxNo} {i : Nat} {p : Phase} (h : (s.ctx c).cmds = (t.ctx c).cmds) :
    PhaseAt s c i p ↔ PhaseAt t c i p := by simp [PhaseAt, h]

@[simp] theorem phaseAt_unpin (c d : CtxNo) (i : Nat) (p : Phase) : PhaseAt (s.unpin c) d i p ↔ PhaseAt s d i p :=
  phaseAt_congr (State.cmds_unpin s c d)

@[simp] theorem phaseAt_countOob (c d : CtxNo) (n i : Nat) (p : Phase) : PhaseAt (s.countOob c n) d i p ↔ PhaseAt s d i p :=
  phaseAt_congr (State.cmds_countOob s c d n)

/-- A finished command is in the phase that holds its reply. -/
theorem State.phase_finish {c : CtxNo} {i : Nat} {m : Cmd} (h : (s.ctx c).cmds[i]? = some m) (r : Reply) :
    PhaseAt (s.finish c i r) c i (.finished r) := by
  simpa [State.finish] using State.phase_setPhase (s.unwaitCmd c i) (by simpa using h) (.finished r)

theorem State.cmds_finish_other {c : CtxNo} {i j : Nat} (h : j ≠ i) (r : Reply) :
    ((s.finish c i r).ctx c).cmds[j]? = (s.ctx c).cmds[j]? := by
  simp [State.finish, State.cmds_setPhase_other (s.unwaitCmd c i) h]

theorem State.ctx_finish_other {c d : CtxNo} (h : d ≠ c) (i : Nat) (r : Reply) : (s.finish c i r).ctx d = s.ctx d := by
  simp [State.finish, State.ctx_unpin_other _ h, State.ctx_setPhase_other (s.unwaitCmd c i) h]

/-! ### Frames -/

theorem OnlyCtx.modCtx (c : CtxNo) (f : Context → Context) : OnlyCtx c s (s.modCtx c f) :=
  ⟨rfl, fun _ h => State.ctx_modCtx_other s h f, fun _ _ => Iff.rfl, fun _ _ => Iff.rfl⟩

theorem OnlyCtx.setPhase (c : CtxNo) (i : Nat) (p : Phase) : OnlyCtx c s (s.setPhase c i p) :=
  ⟨rfl, fun _ h => State.ctx_setPhase_other s h i p, fun _ _ => Iff.rfl, fun _ _ => Iff.rfl⟩

theorem OnlyCtx.finish (c : CtxNo) (i : Nat) (r : Reply) : OnlyCtx c s (s.finish c i r) := by
  refine ⟨?_, fun _ h => State.ctx_finish_other s h i r, fun w h => ?_, fun w h => ?_⟩
  · unfold State.finish State.unwaitCmd
    split <;> rfl
  · simp only [State.finish, State.unpin_waits, State.setPhase_waits, State.unwaitCmd]
    split
    · simp [State.unwait, List.mem_filter, h]
    · exact Iff.rfl
  · simp only [State.finish, State.unpin_sent, State.setPhase_sent, State.unwaitCmd]
    split
    · simp [List.mem_filter, h]
    · exact Iff.rfl

theorem SameMem.refl : SameMem s s := ⟨fun _ => rfl, fun _ => rfl⟩

/-- Equal memories read alike. -/
theorem SameMem.of_eq {s t : State} (h1 : t.core = s.core) (h2 : t.remote = s.remote) : SameMem s t :=
  ⟨fun a => by rw [h1], fun a => by rw [h2]⟩

theorem SameMem.trans {s t u : State} (h1 : SameMem s t) (h2 : SameMem t u) : SameMem s u :=
  ⟨fun a => (h2.1 a).trans (h1.1 a), fun a => (h2.2 a).trans (h1.2 a)⟩

end Sys2Proof.Machine
end

