-- ==== Sys2Proof/Laws/UnitFields.lean ====
section
/-! SUPPORT. What opening and closing a commit unit leave alone: one lemma for each field and shared operation; and that the
contexts' commands stay. -/

-- One after another: checked at once, the proofs would ask for too much memory.
set_option Elab.async false

namespace Sys2Proof.Machine

variable (s : State)

@[simp] theorem State.pin_pending (c : CtxNo) (ns : List FaultRec) : (s.pin c ns).pending = s.pending := rfl
@[simp] theorem State.pin_now (c : CtxNo) (ns : List FaultRec) : (s.pin c ns).now = s.now := rfl
@[simp] theorem State.pin_free (c : CtxNo) (ns : List FaultRec) : (s.pin c ns).free = s.free := rfl
@[simp] theorem State.pin_core (c : CtxNo) (ns : List FaultRec) : (s.pin c ns).core = s.core := rfl
@[simp] theorem State.pin_remote (c : CtxNo) (ns : List FaultRec) : (s.pin c ns).remote = s.remote := rfl
@[simp] theorem State.pin_evt (c : CtxNo) (ns : List FaultRec) : (s.pin c ns).evt = s.evt := rfl
@[simp] theorem State.pin_eng (c : CtxNo) (ns : List FaultRec) : (s.pin c ns).eng = s.eng := rfl
@[simp] theorem State.pin_tick (c : CtxNo) (ns : List FaultRec) : (s.pin c ns).tick = s.tick := rfl
@[simp] theorem State.pin_fmts (c : CtxNo) (ns : List FaultRec) : (s.pin c ns).fmts = s.fmts := rfl
@[simp] theorem State.pin_rts (c : CtxNo) (ns : List FaultRec) : (s.pin c ns).rts = s.rts := rfl
@[simp] theorem State.pin_prio (c : CtxNo) (ns : List FaultRec) : (s.pin c ns).prio = s.prio := rfl
@[simp] theorem State.pin_prioNext (c : CtxNo) (ns : List FaultRec) : (s.pin c ns).prioNext = s.prioNext := rfl
@[simp] theorem State.pin_schedLast (c : CtxNo) (ns : List FaultRec) : (s.pin c ns).schedLast = s.schedLast := rfl
@[simp] theorem State.pin_schedTurn (c : CtxNo) (ns : List FaultRec) : (s.pin c ns).schedTurn = s.schedTurn := rfl
@[simp] theorem State.pin_stallMap (c : CtxNo) (ns : List FaultRec) : (s.pin c ns).stallMap = s.stallMap := rfl
@[simp] theorem State.pin_rampTab (c : CtxNo) (ns : List FaultRec) : (s.pin c ns).rampTab = s.rampTab := rfl
@[simp] theorem State.pin_rampNext (c : CtxNo) (ns : List FaultRec) : (s.pin c ns).rampNext = s.rampNext := rfl
@[simp] theorem State.pin_riskTab (c : CtxNo) (ns : List FaultRec) : (s.pin c ns).riskTab = s.riskTab := rfl
@[simp] theorem State.pin_regions (c : CtxNo) (ns : List FaultRec) : (s.pin c ns).regions = s.regions := rfl
@[simp] theorem State.pin_groups (c : CtxNo) (ns : List FaultRec) : (s.pin c ns).groups = s.groups := rfl
@[simp] theorem State.pin_descs (c : CtxNo) (ns : List FaultRec) : (s.pin c ns).descs = s.descs := rfl
@[simp] theorem State.pin_descGen (c : CtxNo) (ns : List FaultRec) : (s.pin c ns).descGen = s.descGen := rfl
@[simp] theorem State.pin_slots (c : CtxNo) (ns : List FaultRec) : (s.pin c ns).slots = s.slots := rfl
@[simp] theorem State.pin_touch (c : CtxNo) (ns : List FaultRec) : (s.pin c ns).touch = s.touch := rfl
@[simp] theorem State.pin_lane (c : CtxNo) (ns : List FaultRec) : (s.pin c ns).lane = s.lane := rfl
@[simp] theorem State.pin_staging (c : CtxNo) (ns : List FaultRec) : (s.pin c ns).staging = s.staging := rfl
@[simp] theorem State.pin_walks (c : CtxNo) (ns : List FaultRec) : (s.pin c ns).walks = s.walks := rfl
@[simp] theorem State.pin_invals (c : CtxNo) (ns : List FaultRec) : (s.pin c ns).invals = s.invals := rfl
@[simp] theorem State.pin_invalReq (c : CtxNo) (ns : List FaultRec) : (s.pin c ns).invalReq = s.invalReq := rfl
@[simp] theorem State.pin_invalDone (c : CtxNo) (ns : List FaultRec) : (s.pin c ns).invalDone = s.invalDone := rfl
@[simp] theorem State.pin_reqs (c : CtxNo) (ns : List FaultRec) : (s.pin c ns).reqs = s.reqs := rfl
@[simp] theorem State.pin_sent (c : CtxNo) (ns : List FaultRec) : (s.pin c ns).sent = s.sent := rfl
@[simp] theorem State.pin_waits (c : CtxNo) (ns : List FaultRec) : (s.pin c ns).waits = s.waits := rfl
@[simp] theorem State.pin_dovetail (c : CtxNo) (ns : List FaultRec) : (s.pin c ns).dovetail = s.dovetail := rfl
@[simp] theorem State.pin_locks (c : CtxNo) (ns : List FaultRec) : (s.pin c ns).locks = s.locks := rfl
@[simp] theorem State.pin_chains (c : CtxNo) (ns : List FaultRec) : (s.pin c ns).chains = s.chains := rfl
@[simp] theorem State.pin_chainOut (c : CtxNo) (ns : List FaultRec) : (s.pin c ns).chainOut = s.chainOut := rfl
@[simp] theorem State.pin_port (c : CtxNo) (ns : List FaultRec) : (s.pin c ns).port = s.port := rfl
@[simp] theorem State.pin_ckpt (c : CtxNo) (ns : List FaultRec) : (s.pin c ns).ckpt = s.ckpt := rfl
@[simp] theorem State.pin_risk (c : CtxNo) (ns : List FaultRec) : (s.pin c ns).risk = s.risk := rfl
@[simp] theorem State.pin_log (c : CtxNo) (ns : List FaultRec) : (s.pin c ns).log = s.log := rfl
@[simp] theorem State.pin_tel (c : CtxNo) (ns : List FaultRec) : (s.pin c ns).tel = s.tel := rfl
@[simp] theorem State.pin_pow (c : CtxNo) (ns : List FaultRec) : (s.pin c ns).pow = s.pow := rfl
@[simp] theorem State.pin_bist (c : CtxNo) (ns : List FaultRec) : (s.pin c ns).bist = s.bist := rfl
@[simp] theorem State.pin_sec (c : CtxNo) (ns : List FaultRec) : (s.pin c ns).sec = s.sec := rfl
@[simp] theorem State.pin_mgmt (c : CtxNo) (ns : List FaultRec) : (s.pin c ns).mgmt = s.mgmt := rfl
@[simp] theorem State.pin_train (c : CtxNo) (ns : List FaultRec) : (s.pin c ns).train = s.train := rfl

@[simp] theorem State.acquire_pending (c : CtxNo) (ns : List FaultRec) : ((s.acquire c ns).2).pending = s.pending := by
  unfold State.acquire; dsimp only; split <;> rfl
@[simp] theorem State.acquire_now (c : CtxNo) (ns : List FaultRec) : ((s.acquire c ns).2).now = s.now := by
  unfold State.acquire; dsimp only; split <;> rfl
@[simp] theorem State.acquire_free (c : CtxNo) (ns : List FaultRec) : ((s.acquire c ns).2).free = s.free := by
  unfold State.acquire; dsimp only; split <;> rfl
@[simp] theorem State.acquire_core (c : CtxNo) (ns : List FaultRec) : ((s.acquire c ns).2).core = s.core := by
  unfold State.acquire; dsimp only; split <;> rfl
@[simp] theorem State.acquire_remote (c : CtxNo) (ns : List FaultRec) : ((s.acquire c ns).2).remote = s.remote := by
  unfold State.acquire; dsimp only; split <;> rfl
@[simp] theorem State.acquire_evt (c : CtxNo) (ns : List FaultRec) : ((s.acquire c ns).2).evt = s.evt := by
  unfold State.acquire; dsimp only; split <;> rfl
@[simp] theorem State.acquire_eng (c : CtxNo) (ns : List FaultRec) : ((s.acquire c ns).2).eng = s.eng := by
  unfold State.acquire; dsimp only; split <;> rfl
@[simp] theorem State.acquire_tick (c : CtxNo) (ns : List FaultRec) : ((s.acquire c ns).2).tick = s.tick := by
  unfold State.acquire; dsimp only; split <;> rfl
@[simp] theorem State.acquire_fmts (c : CtxNo) (ns : List FaultRec) : ((s.acquire c ns).2).fmts = s.fmts := by
  unfold State.acquire; dsimp only; split <;> rfl
@[simp] theorem State.acquire_rts (c : CtxNo) (ns : List FaultRec) : ((s.acquire c ns).2).rts = s.rts := by
  unfold State.acquire; dsimp only; split <;> rfl
@[simp] theorem State.acquire_prio (c : CtxNo) (ns : List FaultRec) : ((s.acquire c ns).2).prio = s.prio := by
  unfold State.acquire; dsimp only; split <;> rfl
@[simp] theorem State.acquire_prioNext (c : CtxNo) (ns : List FaultRec) : ((s.acquire c ns).2).prioNext = s.prioNext := by
  unfold State.acquire; dsimp only; split <;> rfl
@[simp] theorem State.acquire_schedLast (c : CtxNo) (ns : List FaultRec) : ((s.acquire c ns).2).schedLast = s.schedLast := by
  unfold State.acquire; dsimp only; split <;> rfl
@[simp] theorem State.acquire_schedTurn (c : CtxNo) (ns : List FaultRec) : ((s.acquire c ns).2).schedTurn = s.schedTurn := by
  unfold State.acquire; dsimp only; split <;> rfl
@[simp] theorem State.acquire_stallMap (c : CtxNo) (ns : List FaultRec) : ((s.acquire c ns).2).stallMap = s.stallMap := by
  unfold State.acquire; dsimp only; split <;> rfl
@[simp] theorem State.acquire_rampTab (c : CtxNo) (ns : List FaultRec) : ((s.acquire c ns).2).rampTab = s.rampTab := by
  unfold State.acquire; dsimp only; split <;> rfl
@[simp] theorem State.acquire_rampNext (c : CtxNo) (ns : List FaultRec) : ((s.acquire c ns).2).rampNext = s.rampNext := by
  unfold State.acquire; dsimp only; split <;> rfl
@[simp] theorem State.acquire_riskTab (c : CtxNo) (ns : List FaultRec) : ((s.acquire c ns).2).riskTab = s.riskTab := by
  unfold State.acquire; dsimp only; split <;> rfl
@[simp] theorem State.acquire_regions (c : CtxNo) (ns : List FaultRec) : ((s.acquire c ns).2).regions = s.regions := by
  unfold State.acquire; dsimp only; split <;> rfl
@[simp] theorem State.acquire_groups (c : CtxNo) (ns : List FaultRec) : ((s.acquire c ns).2).groups = s.groups := by
  unfold State.acquire; dsimp only; split <;> rfl
@[simp] theorem State.acquire_descs (c : CtxNo) (ns : List FaultRec) : ((s.acquire c ns).2).descs = s.descs := by
  unfold State.acquire; dsimp only; split <;> rfl
@[simp] theorem State.acquire_descGen (c : CtxNo) (ns : List FaultRec) : ((s.acquire c ns).2).descGen = s.descGen := by
  unfold State.acquire; dsimp only; split <;> rfl
@[simp] theorem State.acquire_slots (c : CtxNo) (ns : List FaultRec) : ((s.acquire c ns).2).slots = s.slots := by
  unfold State.acquire; dsimp only; split <;> rfl
@[simp] theorem State.acquire_touch (c : CtxNo) (ns : List FaultRec) : ((s.acquire c ns).2).touch = s.touch := by
  unfold State.acquire; dsimp only; split <;> rfl
@[simp] theorem State.acquire_lane (c : CtxNo) (ns : List FaultRec) : ((s.acquire c ns).2).lane = s.lane := by
  unfold State.acquire; dsimp only; split <;> rfl
@[simp] theorem State.acquire_staging (c : CtxNo) (ns : List FaultRec) : ((s.acquire c ns).2).staging = s.staging := by
  unfold State.acquire; dsimp only; split <;> rfl
@[simp] theorem State.acquire_invals (c : CtxNo) (ns : List FaultRec) : ((s.acquire c ns).2).invals = s.invals := by
  unfold State.acquire; dsimp only; split <;> rfl
@[simp] theorem State.acquire_invalReq (c : CtxNo) (ns : List FaultRec) : ((s.acquire c ns).2).invalReq = s.invalReq := by
  unfold State.acquire; dsimp only; split <;> rfl
@[simp] theorem State.acquire_invalDone (c : CtxNo) (ns : List FaultRec) : ((s.acquire c ns).2).invalDone = s.invalDone := by
  unfold State.acquire; dsimp only; split <;> rfl
@[simp] theorem State.acquire_reqs (c : CtxNo) (ns : List FaultRec) : ((s.acquire c ns).2).reqs = s.reqs := by
  unfold State.acquire; dsimp only; split <;> rfl
@[simp] theorem State.acquire_sent (c : CtxNo) (ns : List FaultRec) : ((s.acquire c ns).2).sent = s.sent := by
  unfold State.acquire; dsimp only; split <;> rfl
@[simp] theorem State.acquire_waits (c : CtxNo) (ns : List FaultRec) : ((s.acquire c ns).2).waits = s.waits := by
  unfold State.acquire; dsimp only; split <;> rfl
@[simp] theorem State.acquire_dovetail (c : CtxNo) (ns : List FaultRec) : ((s.acquire c ns).2).dovetail = s.dovetail := by
  unfold State.acquire; dsimp only; split <;> rfl
@[simp] theorem State.acquire_locks (c : CtxNo) (ns : List FaultRec) : ((s.acquire c ns).2).locks = s.locks := by
  unfold State.acquire; dsimp only; split <;> rfl
@[simp] theorem State.acquire_chains (c : CtxNo) (ns : List FaultRec) : ((s.acquire c ns).2).chains = s.chains := by
  unfold State.acquire; dsimp only; split <;> rfl
@[simp] theorem State.acquire_chainOut (c : CtxNo) (ns : List FaultRec) : ((s.acquire c ns).2).chainOut = s.chainOut := by
  unfold State.acquire; dsimp only; split <;> rfl
@[simp] theorem State.acquire_port (c : CtxNo) (ns : List FaultRec) : ((s.acquire c ns).2).port = s.port := by
  unfold State.acquire; dsimp only; split <;> rfl
@[simp] theorem State.acquire_ckpt (c : CtxNo) (ns : List FaultRec) : ((s.acquire c ns).2).ckpt = s.ckpt := by
  unfold State.acquire; dsimp only; split <;> rfl
@[simp] theorem State.acquire_risk (c : CtxNo) (ns : List FaultRec) : ((s.acquire c ns).2).risk = s.risk := by
  unfold State.acquire; dsimp only; split <;> rfl
@[simp] theorem State.acquire_log (c : CtxNo) (ns : List FaultRec) : ((s.acquire c ns).2).log = s.log := by
  unfold State.acquire; dsimp only; split <;> rfl
@[simp] theorem State.acquire_tel (c : CtxNo) (ns : List FaultRec) : ((s.acquire c ns).2).tel = s.tel := by
  unfold State.acquire; dsimp only; split <;> rfl
@[simp] theorem State.acquire_pow (c : CtxNo) (ns : List FaultRec) : ((s.acquire c ns).2).pow = s.pow := by
  unfold State.acquire; dsimp only; split <;> rfl
@[simp] theorem State.acquire_bist (c : CtxNo) (ns : List FaultRec) : ((s.acquire c ns).2).bist = s.bist := by
  unfold State.acquire; dsimp only; split <;> rfl
@[simp] theorem State.acquire_sec (c : CtxNo) (ns : List FaultRec) : ((s.acquire c ns).2).sec = s.sec := by
  unfold State.acquire; dsimp only; split <;> rfl
@[simp] theorem State.acquire_mgmt (c : CtxNo) (ns : List FaultRec) : ((s.acquire c ns).2).mgmt = s.mgmt := by
  unfold State.acquire; dsimp only; split <;> rfl
@[simp] theorem State.acquire_train (c : CtxNo) (ns : List FaultRec) : ((s.acquire c ns).2).train = s.train := by
  unfold State.acquire; dsimp only; split <;> rfl

@[simp] theorem State.noteSent_pending (c : CtxNo) (q : Word) (x : Acc × Nat) : (s.noteSent c q x).pending = s.pending := by
  unfold State.noteSent; split <;> rfl
@[simp] theorem State.noteSent_now (c : CtxNo) (q : Word) (x : Acc × Nat) : (s.noteSent c q x).now = s.now := by
  unfold State.noteSent; split <;> rfl
@[simp] theorem State.noteSent_free (c : CtxNo) (q : Word) (x : Acc × Nat) : (s.noteSent c q x).free = s.free := by
  unfold State.noteSent; split <;> rfl
@[simp] theorem State.noteSent_core (c : CtxNo) (q : Word) (x : Acc × Nat) : (s.noteSent c q x).core = s.core := by
  unfold State.noteSent; split <;> rfl
@[simp] theorem State.noteSent_remote (c : CtxNo) (q : Word) (x : Acc × Nat) : (s.noteSent c q x).remote = s.remote := by
  unfold State.noteSent; split <;> rfl
@[simp] theorem State.noteSent_evt (c : CtxNo) (q : Word) (x : Acc × Nat) : (s.noteSent c q x).evt = s.evt := by
  unfold State.noteSent; split <;> rfl
@[simp] theorem State.noteSent_eng (c : CtxNo) (q : Word) (x : Acc × Nat) : (s.noteSent c q x).eng = s.eng := by
  unfold State.noteSent; split <;> rfl
@[simp] theorem State.noteSent_tick (c : CtxNo) (q : Word) (x : Acc × Nat) : (s.noteSent c q x).tick = s.tick := by
  unfold State.noteSent; split <;> rfl
@[simp] theorem State.noteSent_ctxs (c : CtxNo) (q : Word) (x : Acc × Nat) : (s.noteSent c q x).ctxs = s.ctxs := by
  unfold State.noteSent; split <;> rfl
@[simp] theorem State.noteSent_fmts (c : CtxNo) (q : Word) (x : Acc × Nat) : (s.noteSent c q x).fmts = s.fmts := by
  unfold State.noteSent; split <;> rfl
@[simp] theorem State.noteSent_rts (c : CtxNo) (q : Word) (x : Acc × Nat) : (s.noteSent c q x).rts = s.rts := by
  unfold State.noteSent; split <;> rfl
@[simp] theorem State.noteSent_prio (c : CtxNo) (q : Word) (x : Acc × Nat) : (s.noteSent c q x).prio = s.prio := by
  unfold State.noteSent; split <;> rfl
@[simp] theorem State.noteSent_prioNext (c : CtxNo) (q : Word) (x : Acc × Nat) : (s.noteSent c q x).prioNext = s.prioNext := by
  unfold State.noteSent; split <;> rfl
@[simp] theorem State.noteSent_schedLast (c : CtxNo) (q : Word) (x : Acc × Nat) : (s.noteSent c q x).schedLast = s.schedLast := by
  unfold State.noteSent; split <;> rfl
@[simp] theorem State.noteSent_schedTurn (c : CtxNo) (q : Word) (x : Acc × Nat) : (s.noteSent c q x).schedTurn = s.schedTurn := by
  unfold State.noteSent; split <;> rfl
@[simp] theorem State.noteSent_stallMap (c : CtxNo) (q : Word) (x : Acc × Nat) : (s.noteSent c q x).stallMap = s.stallMap := by
  unfold State.noteSent; split <;> rfl
@[simp] theorem State.noteSent_rampTab (c : CtxNo) (q : Word) (x : Acc × Nat) : (s.noteSent c q x).rampTab = s.rampTab := by
  unfold State.noteSent; split <;> rfl
@[simp] theorem State.noteSent_rampNext (c : CtxNo) (q : Word) (x : Acc × Nat) : (s.noteSent c q x).rampNext = s.rampNext := by
  unfold State.noteSent; split <;> rfl
@[simp] theorem State.noteSent_riskTab (c : CtxNo) (q : Word) (x : Acc × Nat) : (s.noteSent c q x).riskTab = s.riskTab := by
  unfold State.noteSent; split <;> rfl
@[simp] theorem State.noteSent_regions (c : CtxNo) (q : Word) (x : Acc × Nat) : (s.noteSent c q x).regions = s.regions := by
  unfold State.noteSent; split <;> rfl
@[simp] theorem State.noteSent_groups (c : CtxNo) (q : Word) (x : Acc × Nat) : (s.noteSent c q x).groups = s.groups := by
  unfold State.noteSent; split <;> rfl
@[simp] theorem State.noteSent_descs (c : CtxNo) (q : Word) (x : Acc × Nat) : (s.noteSent c q x).descs = s.descs := by
  unfold State.noteSent; split <;> rfl
@[simp] theorem State.noteSent_descGen (c : CtxNo) (q : Word) (x : Acc × Nat) : (s.noteSent c q x).descGen = s.descGen := by
  unfold State.noteSent; split <;> rfl
@[simp] theorem State.noteSent_slots (c : CtxNo) (q : Word) (x : Acc × Nat) : (s.noteSent c q x).slots = s.slots := by
  unfold State.noteSent; split <;> rfl
@[simp] theorem State.noteSent_touch (c : CtxNo) (q : Word) (x : Acc × Nat) : (s.noteSent c q x).touch = s.touch := by
  unfold State.noteSent; split <;> rfl
@[simp] theorem State.noteSent_lane (c : CtxNo) (q : Word) (x : Acc × Nat) : (s.noteSent c q x).lane = s.lane := by
  unfold State.noteSent; split <;> rfl
@[simp] theorem State.noteSent_staging (c : CtxNo) (q : Word) (x : Acc × Nat) : (s.noteSent c q x).staging = s.staging := by
  unfold State.noteSent; split <;> rfl
@[simp] theorem State.noteSent_tlb (c : CtxNo) (q : Word) (x : Acc × Nat) : (s.noteSent c q x).tlb = s.tlb := by
  unfold State.noteSent; split <;> rfl
@[simp] theorem State.noteSent_walks (c : CtxNo) (q : Word) (x : Acc × Nat) : (s.noteSent c q x).walks = s.walks := by
  unfold State.noteSent; split <;> rfl
@[simp] theorem State.noteSent_invals (c : CtxNo) (q : Word) (x : Acc × Nat) : (s.noteSent c q x).invals = s.invals := by
  unfold State.noteSent; split <;> rfl
@[simp] theorem State.noteSent_invalReq (c : CtxNo) (q : Word) (x : Acc × Nat) : (s.noteSent c q x).invalReq = s.invalReq := by
  unfold State.noteSent; split <;> rfl
@[simp] theorem State.noteSent_invalDone (c : CtxNo) (q : Word) (x : Acc × Nat) : (s.noteSent c q x).invalDone = s.invalDone := by
  unfold State.noteSent; split <;> rfl
@[simp] theorem State.noteSent_reqs (c : CtxNo) (q : Word) (x : Acc × Nat) : (s.noteSent c q x).reqs = s.reqs := by
  unfold State.noteSent; split <;> rfl
@[simp] theorem State.noteSent_waits (c : CtxNo) (q : Word) (x : Acc × Nat) : (s.noteSent c q x).waits = s.waits := by
  unfold State.noteSent; split <;> rfl
@[simp] theorem State.noteSent_dovetail (c : CtxNo) (q : Word) (x : Acc × Nat) : (s.noteSent c q x).dovetail = s.dovetail := by
  unfold State.noteSent; split <;> rfl
@[simp] theorem State.noteSent_locks (c : CtxNo) (q : Word) (x : Acc × Nat) : (s.noteSent c q x).locks = s.locks := by
  unfold State.noteSent; split <;> rfl
@[simp] theorem State.noteSent_chains (c : CtxNo) (q : Word) (x : Acc × Nat) : (s.noteSent c q x).chains = s.chains := by
  unfold State.noteSent; split <;> rfl
@[simp] theorem State.noteSent_chainOut (c : CtxNo) (q : Word) (x : Acc × Nat) : (s.noteSent c q x).chainOut = s.chainOut := by
  unfold State.noteSent; split <;> rfl
@[simp] theorem State.noteSent_port (c : CtxNo) (q : Word) (x : Acc × Nat) : (s.noteSent c q x).port = s.port := by
  unfold State.noteSent; split <;> rfl
@[simp] theorem State.noteSent_ckpt (c : CtxNo) (q : Word) (x : Acc × Nat) : (s.noteSent c q x).ckpt = s.ckpt := by
  unfold State.noteSent; split <;> rfl
@[simp] theorem State.noteSent_risk (c : CtxNo) (q : Word) (x : Acc × Nat) : (s.noteSent c q x).risk = s.risk := by
  unfold State.noteSent; split <;> rfl
@[simp] theorem State.noteSent_log (c : CtxNo) (q : Word) (x : Acc × Nat) : (s.noteSent c q x).log = s.log := by
  unfold State.noteSent; split <;> rfl
@[simp] theorem State.noteSent_tel (c : CtxNo) (q : Word) (x : Acc × Nat) : (s.noteSent c q x).tel = s.tel := by
  unfold State.noteSent; split <;> rfl
@[simp] theorem State.noteSent_pow (c : CtxNo) (q : Word) (x : Acc × Nat) : (s.noteSent c q x).pow = s.pow := by
  unfold State.noteSent; split <;> rfl
@[simp] theorem State.noteSent_bist (c : CtxNo) (q : Word) (x : Acc × Nat) : (s.noteSent c q x).bist = s.bist := by
  unfold State.noteSent; split <;> rfl
@[simp] theorem State.noteSent_sec (c : CtxNo) (q : Word) (x : Acc × Nat) : (s.noteSent c q x).sec = s.sec := by
  unfold State.noteSent; split <;> rfl
@[simp] theorem State.noteSent_mgmt (c : CtxNo) (q : Word) (x : Acc × Nat) : (s.noteSent c q x).mgmt = s.mgmt := by
  unfold State.noteSent; split <;> rfl
@[simp] theorem State.noteSent_train (c : CtxNo) (q : Word) (x : Acc × Nat) : (s.noteSent c q x).train = s.train := by
  unfold State.noteSent; split <;> rfl

theorem State.noteAll_pending (c : CtxNo) (q : Word) (l : List (Acc × Nat)) : (l.foldl (State.noteSent c q) s).pending = s.pending := by
  induction l generalizing s with
  | nil => rfl
  | cons x t ih => exact (ih (s.noteSent c q x)).trans (State.noteSent_pending s c q x)
theorem State.noteAll_now (c : CtxNo) (q : Word) (l : List (Acc × Nat)) : (l.foldl (State.noteSent c q) s).now = s.now := by
  induction l generalizing s with
  | nil => rfl
  | cons x t ih => exact (ih (s.noteSent c q x)).trans (State.noteSent_now s c q x)
theorem State.noteAll_free (c : CtxNo) (q : Word) (l : List (Acc × Nat)) : (l.foldl (State.noteSent c q) s).free = s.free := by
  induction l generalizing s with
  | nil => rfl
  | cons x t ih => exact (ih (s.noteSent c q x)).trans (State.noteSent_free s c q x)
theorem State.noteAll_core (c : CtxNo) (q : Word) (l : List (Acc × Nat)) : (l.foldl (State.noteSent c q) s).core = s.core := by
  induction l generalizing s with
  | nil => rfl
  | cons x t ih => exact (ih (s.noteSent c q x)).trans (State.noteSent_core s c q x)
theorem State.noteAll_remote (c : CtxNo) (q : Word) (l : List (Acc × Nat)) : (l.foldl (State.noteSent c q) s).remote = s.remote := by
  induction l generalizing s with
  | nil => rfl
  | cons x t ih => exact (ih (s.noteSent c q x)).trans (State.noteSent_remote s c q x)
theorem State.noteAll_evt (c : CtxNo) (q : Word) (l : List (Acc × Nat)) : (l.foldl (State.noteSent c q) s).evt = s.evt := by
  induction l generalizing s with
  | nil => rfl
  | cons x t ih => exact (ih (s.noteSent c q x)).trans (State.noteSent_evt s c q x)
theorem State.noteAll_eng (c : CtxNo) (q : Word) (l : List (Acc × Nat)) : (l.foldl (State.noteSent c q) s).eng = s.eng := by
  induction l generalizing s with
  | nil => rfl
  | cons x t ih => exact (ih (s.noteSent c q x)).trans (State.noteSent_eng s c q x)
theorem State.noteAll_tick (c : CtxNo) (q : Word) (l : List (Acc × Nat)) : (l.foldl (State.noteSent c q) s).tick = s.tick := by
  induction l generalizing s with
  | nil => rfl
  | cons x t ih => exact (ih (s.noteSent c q x)).trans (State.noteSent_tick s c q x)
theorem State.noteAll_ctxs (c : CtxNo) (q : Word) (l : List (Acc × Nat)) : (l.foldl (State.noteSent c q) s).ctxs = s.ctxs := by
  induction l generalizing s with
  | nil => rfl
  | cons x t ih => exact (ih (s.noteSent c q x)).trans (State.noteSent_ctxs s c q x)
theorem State.noteAll_fmts (c : CtxNo) (q : Word) (l : List (Acc × Nat)) : (l.foldl (State.noteSent c q) s).fmts = s.fmts := by
  induction l generalizing s with
  | nil => rfl
  | cons x t ih => exact (ih (s.noteSent c q x)).trans (State.noteSent_fmts s c q x)
theorem State.noteAll_rts (c : CtxNo) (q : Word) (l : List (Acc × Nat)) : (l.foldl (State.noteSent c q) s).rts = s.rts := by
  induction l generalizing s with
  | nil => rfl
  | cons x t ih => exact (ih (s.noteSent c q x)).trans (State.noteSent_rts s c q x)
theorem State.noteAll_prio (c : CtxNo) (q : Word) (l : List (Acc × Nat)) : (l.foldl (State.noteSent c q) s).prio = s.prio := by
  induction l generalizing s with
  | nil => rfl
  | cons x t ih => exact (ih (s.noteSent c q x)).trans (State.noteSent_prio s c q x)
theorem State.noteAll_prioNext (c : CtxNo) (q : Word) (l : List (Acc × Nat)) : (l.foldl (State.noteSent c q) s).prioNext = s.prioNext := by
  induction l generalizing s with
  | nil => rfl
  | cons x t ih => exact (ih (s.noteSent c q x)).trans (State.noteSent_prioNext s c q x)
theorem State.noteAll_schedLast (c : CtxNo) (q : Word) (l : List (Acc × Nat)) : (l.foldl (State.noteSent c q) s).schedLast = s.schedLast := by
  induction l generalizing s with
  | nil => rfl
  | cons x t ih => exact (ih (s.noteSent c q x)).trans (State.noteSent_schedLast s c q x)
theorem State.noteAll_schedTurn (c : CtxNo) (q : Word) (l : List (Acc × Nat)) : (l.foldl (State.noteSent c q) s).schedTurn = s.schedTurn := by
  induction l generalizing s with
  | nil => rfl
  | cons x t ih => exact (ih (s.noteSent c q x)).trans (State.noteSent_schedTurn s c q x)
theorem State.noteAll_stallMap (c : CtxNo) (q : Word) (l : List (Acc × Nat)) : (l.foldl (State.noteSent c q) s).stallMap = s.stallMap := by
  induction l generalizing s with
  | nil => rfl
  | cons x t ih => exact (ih (s.noteSent c q x)).trans (State.noteSent_stallMap s c q x)
theorem State.noteAll_rampTab (c : CtxNo) (q : Word) (l : List (Acc × Nat)) : (l.foldl (State.noteSent c q) s).rampTab = s.rampTab := by
  induction l generalizing s with
  | nil => rfl
  | cons x t ih => exact (ih (s.noteSent c q x)).trans (State.noteSent_rampTab s c q x)
theorem State.noteAll_rampNext (c : CtxNo) (q : Word) (l : List (Acc × Nat)) : (l.foldl (State.noteSent c q) s).rampNext = s.rampNext := by
  induction l generalizing s with
  | nil => rfl
  | cons x t ih => exact (ih (s.noteSent c q x)).trans (State.noteSent_rampNext s c q x)
theorem State.noteAll_riskTab (c : CtxNo) (q : Word) (l : List (Acc × Nat)) : (l.foldl (State.noteSent c q) s).riskTab = s.riskTab := by
  induction l generalizing s with
  | nil => rfl
  | cons x t ih => exact (ih (s.noteSent c q x)).trans (State.noteSent_riskTab s c q x)
theorem State.noteAll_regions (c : CtxNo) (q : Word) (l : List (Acc × Nat)) : (l.foldl (State.noteSent c q) s).regions = s.regions := by
  induction l generalizing s with
  | nil => rfl
  | cons x t ih => exact (ih (s.noteSent c q x)).trans (State.noteSent_regions s c q x)
theorem State.noteAll_groups (c : CtxNo) (q : Word) (l : List (Acc × Nat)) : (l.foldl (State.noteSent c q) s).groups = s.groups := by
  induction l generalizing s with
  | nil => rfl
  | cons x t ih => exact (ih (s.noteSent c q x)).trans (State.noteSent_groups s c q x)
theorem State.noteAll_descs (c : CtxNo) (q : Word) (l : List (Acc × Nat)) : (l.foldl (State.noteSent c q) s).descs = s.descs := by
  induction l generalizing s with
  | nil => rfl
  | cons x t ih => exact (ih (s.noteSent c q x)).trans (State.noteSent_descs s c q x)
theorem State.noteAll_descGen (c : CtxNo) (q : Word) (l : List (Acc × Nat)) : (l.foldl (State.noteSent c q) s).descGen = s.descGen := by
  induction l generalizing s with
  | nil => rfl
  | cons x t ih => exact (ih (s.noteSent c q x)).trans (State.noteSent_descGen s c q x)
theorem State.noteAll_slots (c : CtxNo) (q : Word) (l : List (Acc × Nat)) : (l.foldl (State.noteSent c q) s).slots = s.slots := by
  induction l generalizing s with
  | nil => rfl
  | cons x t ih => exact (ih (s.noteSent c q x)).trans (State.noteSent_slots s c q x)
theorem State.noteAll_touch (c : CtxNo) (q : Word) (l : List (Acc × Nat)) : (l.foldl (State.noteSent c q) s).touch = s.touch := by
  induction l generalizing s with
  | nil => rfl
  | cons x t ih => exact (ih (s.noteSent c q x)).trans (State.noteSent_touch s c q x)
theorem State.noteAll_lane (c : CtxNo) (q : Word) (l : List (Acc × Nat)) : (l.foldl (State.noteSent c q) s).lane = s.lane := by
  induction l generalizing s with
  | nil => rfl
  | cons x t ih => exact (ih (s.noteSent c q x)).trans (State.noteSent_lane s c q x)
theorem State.noteAll_staging (c : CtxNo) (q : Word) (l : List (Acc × Nat)) : (l.foldl (State.noteSent c q) s).staging = s.staging := by
  induction l generalizing s with
  | nil => rfl
  | cons x t ih => exact (ih (s.noteSent c q x)).trans (State.noteSent_staging s c q x)
theorem State.noteAll_tlb (c : CtxNo) (q : Word) (l : List (Acc × Nat)) : (l.foldl (State.noteSent c q) s).tlb = s.tlb := by
  induction l generalizing s with
  | nil => rfl
  | cons x t ih => exact (ih (s.noteSent c q x)).trans (State.noteSent_tlb s c q x)
theorem State.noteAll_walks (c : CtxNo) (q : Word) (l : List (Acc × Nat)) : (l.foldl (State.noteSent c q) s).walks = s.walks := by
  induction l generalizing s with
  | nil => rfl
  | cons x t ih => exact (ih (s.noteSent c q x)).trans (State.noteSent_walks s c q x)
theorem State.noteAll_invals (c : CtxNo) (q : Word) (l : List (Acc × Nat)) : (l.foldl (State.noteSent c q) s).invals = s.invals := by
  induction l generalizing s with
  | nil => rfl
  | cons x t ih => exact (ih (s.noteSent c q x)).trans (State.noteSent_invals s c q x)
theorem State.noteAll_invalReq (c : CtxNo) (q : Word) (l : List (Acc × Nat)) : (l.foldl (State.noteSent c q) s).invalReq = s.invalReq := by
  induction l generalizing s with
  | nil => rfl
  | cons x t ih => exact (ih (s.noteSent c q x)).trans (State.noteSent_invalReq s c q x)
theorem State.noteAll_invalDone (c : CtxNo) (q : Word) (l : List (Acc × Nat)) : (l.foldl (State.noteSent c q) s).invalDone = s.invalDone := by
  induction l generalizing s with
  | nil => rfl
  | cons x t ih => exact (ih (s.noteSent c q x)).trans (State.noteSent_invalDone s c q x)
theorem State.noteAll_reqs (c : CtxNo) (q : Word) (l : List (Acc × Nat)) : (l.foldl (State.noteSent c q) s).reqs = s.reqs := by
  induction l generalizing s with
  | nil => rfl
  | cons x t ih => exact (ih (s.noteSent c q x)).trans (State.noteSent_reqs s c q x)
theorem State.noteAll_waits (c : CtxNo) (q : Word) (l : List (Acc × Nat)) : (l.foldl (State.noteSent c q) s).waits = s.waits := by
  induction l generalizing s with
  | nil => rfl
  | cons x t ih => exact (ih (s.noteSent c q x)).trans (State.noteSent_waits s c q x)
theorem State.noteAll_dovetail (c : CtxNo) (q : Word) (l : List (Acc × Nat)) : (l.foldl (State.noteSent c q) s).dovetail = s.dovetail := by
  induction l generalizing s with
  | nil => rfl
  | cons x t ih => exact (ih (s.noteSent c q x)).trans (State.noteSent_dovetail s c q x)
theorem State.noteAll_locks (c : CtxNo) (q : Word) (l : List (Acc × Nat)) : (l.foldl (State.noteSent c q) s).locks = s.locks := by
  induction l generalizing s with
  | nil => rfl
  | cons x t ih => exact (ih (s.noteSent c q x)).trans (State.noteSent_locks s c q x)
theorem State.noteAll_chains (c : CtxNo) (q : Word) (l : List (Acc × Nat)) : (l.foldl (State.noteSent c q) s).chains = s.chains := by
  induction l generalizing s with
  | nil => rfl
  | cons x t ih => exact (ih (s.noteSent c q x)).trans (State.noteSent_chains s c q x)
theorem State.noteAll_chainOut (c : CtxNo) (q : Word) (l : List (Acc × Nat)) : (l.foldl (State.noteSent c q) s).chainOut = s.chainOut := by
  induction l generalizing s with
  | nil => rfl
  | cons x t ih => exact (ih (s.noteSent c q x)).trans (State.noteSent_chainOut s c q x)
theorem State.noteAll_port (c : CtxNo) (q : Word) (l : List (Acc × Nat)) : (l.foldl (State.noteSent c q) s).port = s.port := by
  induction l generalizing s with
  | nil => rfl
  | cons x t ih => exact (ih (s.noteSent c q x)).trans (State.noteSent_port s c q x)
theorem State.noteAll_ckpt (c : CtxNo) (q : Word) (l : List (Acc × Nat)) : (l.foldl (State.noteSent c q) s).ckpt = s.ckpt := by
  induction l generalizing s with
  | nil => rfl
  | cons x t ih => exact (ih (s.noteSent c q x)).trans (State.noteSent_ckpt s c q x)
theorem State.noteAll_risk (c : CtxNo) (q : Word) (l : List (Acc × Nat)) : (l.foldl (State.noteSent c q) s).risk = s.risk := by
  induction l generalizing s with
  | nil => rfl
  | cons x t ih => exact (ih (s.noteSent c q x)).trans (State.noteSent_risk s c q x)
theorem State.noteAll_log (c : CtxNo) (q : Word) (l : List (Acc × Nat)) : (l.foldl (State.noteSent c q) s).log = s.log := by
  induction l generalizing s with
  | nil => rfl
  | cons x t ih => exact (ih (s.noteSent c q x)).trans (State.noteSent_log s c q x)
theorem State.noteAll_tel (c : CtxNo) (q : Word) (l : List (Acc × Nat)) : (l.foldl (State.noteSent c q) s).tel = s.tel := by
  induction l generalizing s with
  | nil => rfl
  | cons x t ih => exact (ih (s.noteSent c q x)).trans (State.noteSent_tel s c q x)
theorem State.noteAll_pow (c : CtxNo) (q : Word) (l : List (Acc × Nat)) : (l.foldl (State.noteSent c q) s).pow = s.pow := by
  induction l generalizing s with
  | nil => rfl
  | cons x t ih => exact (ih (s.noteSent c q x)).trans (State.noteSent_pow s c q x)
theorem State.noteAll_bist (c : CtxNo) (q : Word) (l : List (Acc × Nat)) : (l.foldl (State.noteSent c q) s).bist = s.bist := by
  induction l generalizing s with
  | nil => rfl
  | cons x t ih => exact (ih (s.noteSent c q x)).trans (State.noteSent_bist s c q x)
theorem State.noteAll_sec (c : CtxNo) (q : Word) (l : List (Acc × Nat)) : (l.foldl (State.noteSent c q) s).sec = s.sec := by
  induction l generalizing s with
  | nil => rfl
  | cons x t ih => exact (ih (s.noteSent c q x)).trans (State.noteSent_sec s c q x)
theorem State.noteAll_mgmt (c : CtxNo) (q : Word) (l : List (Acc × Nat)) : (l.foldl (State.noteSent c q) s).mgmt = s.mgmt := by
  induction l generalizing s with
  | nil => rfl
  | cons x t ih => exact (ih (s.noteSent c q x)).trans (State.noteSent_mgmt s c q x)
theorem State.noteAll_train (c : CtxNo) (q : Word) (l : List (Acc × Nat)) : (l.foldl (State.noteSent c q) s).train = s.train := by
  induction l generalizing s with
  | nil => rfl
  | cons x t ih => exact (ih (s.noteSent c q x)).trans (State.noteSent_train s c q x)

@[simp] theorem State.takeSlots_pending (c : CtxNo) (q : Word) (u : ReqUse) (l : List Acc) : ((s.takeSlots c q u l).2).pending = s.pending := by
  unfold State.takeSlots; dsimp only
  split
  · rfl
  · rw [State.await_pending, State.noteAll_pending]
@[simp] theorem State.takeSlots_now (c : CtxNo) (q : Word) (u : ReqUse) (l : List Acc) : ((s.takeSlots c q u l).2).now = s.now := by
  unfold State.takeSlots; dsimp only
  split
  · rfl
  · rw [State.await_now, State.noteAll_now]
@[simp] theorem State.takeSlots_free (c : CtxNo) (q : Word) (u : ReqUse) (l : List Acc) : ((s.takeSlots c q u l).2).free = s.free := by
  unfold State.takeSlots; dsimp only
  split
  · rfl
  · rw [State.await_free, State.noteAll_free]
@[simp] theorem State.takeSlots_core (c : CtxNo) (q : Word) (u : ReqUse) (l : List Acc) : ((s.takeSlots c q u l).2).core = s.core := by
  unfold State.takeSlots; dsimp only
  split
  · rfl
  · rw [State.await_core, State.noteAll_core]
@[simp] theorem State.takeSlots_remote (c : CtxNo) (q : Word) (u : ReqUse) (l : List Acc) : ((s.takeSlots c q u l).2).remote = s.remote := by
  unfold State.takeSlots; dsimp only
  split
  · rfl
  · rw [State.await_remote, State.noteAll_remote]
@[simp] theorem State.takeSlots_evt (c : CtxNo) (q : Word) (u : ReqUse) (l : List Acc) : ((s.takeSlots c q u l).2).evt = s.evt := by
  unfold State.takeSlots; dsimp only
  split
  · rfl
  · rw [State.await_evt, State.noteAll_evt]
@[simp] theorem State.takeSlots_eng (c : CtxNo) (q : Word) (u : ReqUse) (l : List Acc) : ((s.takeSlots c q u l).2).eng = s.eng := by
  unfold State.takeSlots; dsimp only
  split
  · rfl
  · rw [State.await_eng, State.noteAll_eng]
@[simp] theorem State.takeSlots_tick (c : CtxNo) (q : Word) (u : ReqUse) (l : List Acc) : ((s.takeSlots c q u l).2).tick = s.tick := by
  unfold State.takeSlots; dsimp only
  split
  · rfl
  · rw [State.await_tick, State.noteAll_tick]
@[simp] theorem State.takeSlots_ctxs (c : CtxNo) (q : Word) (u : ReqUse) (l : List Acc) : ((s.takeSlots c q u l).2).ctxs = s.ctxs := by
  unfold State.takeSlots; dsimp only
  split
  · rfl
  · rw [State.await_ctxs, State.noteAll_ctxs]
@[simp] theorem State.takeSlots_fmts (c : CtxNo) (q : Word) (u : ReqUse) (l : List Acc) : ((s.takeSlots c q u l).2).fmts = s.fmts := by
  unfold State.takeSlots; dsimp only
  split
  · rfl
  · rw [State.await_fmts, State.noteAll_fmts]
@[simp] theorem State.takeSlots_rts (c : CtxNo) (q : Word) (u : ReqUse) (l : List Acc) : ((s.takeSlots c q u l).2).rts = s.rts := by
  unfold State.takeSlots; dsimp only
  split
  · rfl
  · rw [State.await_rts, State.noteAll_rts]
@[simp] theorem State.takeSlots_prio (c : CtxNo) (q : Word) (u : ReqUse) (l : List Acc) : ((s.takeSlots c q u l).2).prio = s.prio := by
  unfold State.takeSlots; dsimp only
  split
  · rfl
  · rw [State.await_prio, State.noteAll_prio]
@[simp] theorem State.takeSlots_prioNext (c : CtxNo) (q : Word) (u : ReqUse) (l : List Acc) : ((s.takeSlots c q u l).2).prioNext = s.prioNext := by
  unfold State.takeSlots; dsimp only
  split
  · rfl
  · rw [State.await_prioNext, State.noteAll_prioNext]
@[simp] theorem State.takeSlots_schedLast (c : CtxNo) (q : Word) (u : ReqUse) (l : List Acc) : ((s.takeSlots c q u l).2).schedLast = s.schedLast := by
  unfold State.takeSlots; dsimp only
  split
  · rfl
  · rw [State.await_schedLast, State.noteAll_schedLast]
@[simp] theorem State.takeSlots_schedTurn (c : CtxNo) (q : Word) (u : ReqUse) (l : List Acc) : ((s.takeSlots c q u l).2).schedTurn = s.schedTurn := by
  unfold State.takeSlots; dsimp only
  split
  · rfl
  · rw [State.await_schedTurn, State.noteAll_schedTurn]
@[simp] theorem State.takeSlots_stallMap (c : CtxNo) (q : Word) (u : ReqUse) (l : List Acc) : ((s.takeSlots c q u l).2).stallMap = s.stallMap := by
  unfold State.takeSlots; dsimp only
  split
  · rfl
  · rw [State.await_stallMap, State.noteAll_stallMap]
@[simp] theorem State.takeSlots_rampTab (c : CtxNo) (q : Word) (u : ReqUse) (l : List Acc) : ((s.takeSlots c q u l).2).rampTab = s.rampTab := by
  unfold State.takeSlots; dsimp only
  split
  · rfl
  · rw [State.await_rampTab, State.noteAll_rampTab]
@[simp] theorem State.takeSlots_rampNext (c : CtxNo) (q : Word) (u : ReqUse) (l : List Acc) : ((s.takeSlots c q u l).2).rampNext = s.rampNext := by
  unfold State.takeSlots; dsimp only
  split
  · rfl
  · rw [State.await_rampNext, State.noteAll_rampNext]
@[simp] theorem State.takeSlots_riskTab (c : CtxNo) (q : Word) (u : ReqUse) (l : List Acc) : ((s.takeSlots c q u l).2).riskTab = s.riskTab := by
  unfold State.takeSlots; dsimp only
  split
  · rfl
  · rw [State.await_riskTab, State.noteAll_riskTab]
@[simp] theorem State.takeSlots_regions (c : CtxNo) (q : Word) (u : ReqUse) (l : List Acc) : ((s.takeSlots c q u l).2).regions = s.regions := by
  unfold State.takeSlots; dsimp only
  split
  · rfl
  · rw [State.await_regions, State.noteAll_regions]
@[simp] theorem State.takeSlots_groups (c : CtxNo) (q : Word) (u : ReqUse) (l : List Acc) : ((s.takeSlots c q u l).2).groups = s.groups := by
  unfold State.takeSlots; dsimp only
  split
  · rfl
  · rw [State.await_groups, State.noteAll_groups]
@[simp] theorem State.takeSlots_descs (c : CtxNo) (q : Word) (u : ReqUse) (l : List Acc) : ((s.takeSlots c q u l).2).descs = s.descs := by
  unfold State.takeSlots; dsimp only
  split
  · rfl
  · rw [State.await_descs, State.noteAll_descs]
@[simp] theorem State.takeSlots_descGen (c : CtxNo) (q : Word) (u : ReqUse) (l : List Acc) : ((s.takeSlots c q u l).2).descGen = s.descGen := by
  unfold State.takeSlots; dsimp only
  split
  · rfl
  · rw [State.await_descGen, State.noteAll_descGen]
@[simp] theorem State.takeSlots_slots (c : CtxNo) (q : Word) (u : ReqUse) (l : List Acc) : ((s.takeSlots c q u l).2).slots = s.slots := by
  unfold State.takeSlots; dsimp only
  split
  · rfl
  · rw [State.await_slots, State.noteAll_slots]
@[simp] theorem State.takeSlots_touch (c : CtxNo) (q : Word) (u : ReqUse) (l : List Acc) : ((s.takeSlots c q u l).2).touch = s.touch := by
  unfold State.takeSlots; dsimp only
  split
  · rfl
  · rw [State.await_touch, State.noteAll_touch]
@[simp] theorem State.takeSlots_lane (c : CtxNo) (q : Word) (u : ReqUse) (l : List Acc) : ((s.takeSlots c q u l).2).lane = s.lane := by
  unfold State.takeSlots; dsimp only
  split
  · rfl
  · rw [State.await_lane, State.noteAll_lane]
@[simp] theorem State.takeSlots_staging (c : CtxNo) (q : Word) (u : ReqUse) (l : List Acc) : ((s.takeSlots c q u l).2).staging = s.staging := by
  unfold State.takeSlots; dsimp only
  split
  · rfl
  · rw [State.await_staging, State.noteAll_staging]
@[simp] theorem State.takeSlots_tlb (c : CtxNo) (q : Word) (u : ReqUse) (l : List Acc) : ((s.takeSlots c q u l).2).tlb = s.tlb := by
  unfold State.takeSlots; dsimp only
  split
  · rfl
  · rw [State.await_tlb, State.noteAll_tlb]
@[simp] theorem State.takeSlots_walks (c : CtxNo) (q : Word) (u : ReqUse) (l : List Acc) : ((s.takeSlots c q u l).2).walks = s.walks := by
  unfold State.takeSlots; dsimp only
  split
  · rfl
  · rw [State.await_walks, State.noteAll_walks]
@[simp] theorem State.takeSlots_invals (c : CtxNo) (q : Word) (u : ReqUse) (l : List Acc) : ((s.takeSlots c q u l).2).invals = s.invals := by
  unfold State.takeSlots; dsimp only
  split
  · rfl
  · rw [State.await_invals, State.noteAll_invals]
@[simp] theorem State.takeSlots_invalReq (c : CtxNo) (q : Word) (u : ReqUse) (l : List Acc) : ((s.takeSlots c q u l).2).invalReq = s.invalReq := by
  unfold State.takeSlots; dsimp only
  split
  · rfl
  · rw [State.await_invalReq, State.noteAll_invalReq]
@[simp] theorem State.takeSlots_invalDone (c : CtxNo) (q : Word) (u : ReqUse) (l : List Acc) : ((s.takeSlots c q u l).2).invalDone = s.invalDone := by
  unfold State.takeSlots; dsimp only
  split
  · rfl
  · rw [State.await_invalDone, State.noteAll_invalDone]
@[simp] theorem State.takeSlots_dovetail (c : CtxNo) (q : Word) (u : ReqUse) (l : List Acc) : ((s.takeSlots c q u l).2).dovetail = s.dovetail := by
  unfold State.takeSlots; dsimp only
  split
  · rfl
  · rw [State.await_dovetail, State.noteAll_dovetail]
@[simp] theorem State.takeSlots_locks (c : CtxNo) (q : Word) (u : ReqUse) (l : List Acc) : ((s.takeSlots c q u l).2).locks = s.locks := by
  unfold State.takeSlots; dsimp only
  split
  · rfl
  · rw [State.await_locks, State.noteAll_locks]
@[simp] theorem State.takeSlots_chains (c : CtxNo) (q : Word) (u : ReqUse) (l : List Acc) : ((s.takeSlots c q u l).2).chains = s.chains := by
  unfold State.takeSlots; dsimp only
  split
  · rfl
  · rw [State.await_chains, State.noteAll_chains]
@[simp] theorem State.takeSlots_chainOut (c : CtxNo) (q : Word) (u : ReqUse) (l : List Acc) : ((s.takeSlots c q u l).2).chainOut = s.chainOut := by
  unfold State.takeSlots; dsimp only
  split
  · rfl
  · rw [State.await_chainOut, State.noteAll_chainOut]
@[simp] theorem State.takeSlots_port (c : CtxNo) (q : Word) (u : ReqUse) (l : List Acc) : ((s.takeSlots c q u l).2).port = s.port := by
  unfold State.takeSlots; dsimp only
  split
  · rfl
  · rw [State.await_port, State.noteAll_port]
@[simp] theorem State.takeSlots_ckpt (c : CtxNo) (q : Word) (u : ReqUse) (l : List Acc) : ((s.takeSlots c q u l).2).ckpt = s.ckpt := by
  unfold State.takeSlots; dsimp only
  split
  · rfl
  · rw [State.await_ckpt, State.noteAll_ckpt]
@[simp] theorem State.takeSlots_risk (c : CtxNo) (q : Word) (u : ReqUse) (l : List Acc) : ((s.takeSlots c q u l).2).risk = s.risk := by
  unfold State.takeSlots; dsimp only
  split
  · rfl
  · rw [State.await_risk, State.noteAll_risk]
@[simp] theorem State.takeSlots_log (c : CtxNo) (q : Word) (u : ReqUse) (l : List Acc) : ((s.takeSlots c q u l).2).log = s.log := by
  unfold State.takeSlots; dsimp only
  split
  · rfl
  · rw [State.await_log, State.noteAll_log]
@[simp] theorem State.takeSlots_tel (c : CtxNo) (q : Word) (u : ReqUse) (l : List Acc) : ((s.takeSlots c q u l).2).tel = s.tel := by
  unfold State.takeSlots; dsimp only
  split
  · rfl
  · rw [State.await_tel, State.noteAll_tel]
@[simp] theorem State.takeSlots_pow (c : CtxNo) (q : Word) (u : ReqUse) (l : List Acc) : ((s.takeSlots c q u l).2).pow = s.pow := by
  unfold State.takeSlots; dsimp only
  split
  · rfl
  · rw [State.await_pow, State.noteAll_pow]
@[simp] theorem State.takeSlots_bist (c : CtxNo) (q : Word) (u : ReqUse) (l : List Acc) : ((s.takeSlots c q u l).2).bist = s.bist := by
  unfold State.takeSlots; dsimp only
  split
  · rfl
  · rw [State.await_bist, State.noteAll_bist]
@[simp] theorem State.takeSlots_sec (c : CtxNo) (q : Word) (u : ReqUse) (l : List Acc) : ((s.takeSlots c q u l).2).sec = s.sec := by
  unfold State.takeSlots; dsimp only
  split
  · rfl
  · rw [State.await_sec, State.noteAll_sec]
@[simp] theorem State.takeSlots_mgmt (c : CtxNo) (q : Word) (u : ReqUse) (l : List Acc) : ((s.takeSlots c q u l).2).mgmt = s.mgmt := by
  unfold State.takeSlots; dsimp only
  split
  · rfl
  · rw [State.await_mgmt, State.noteAll_mgmt]
@[simp] theorem State.takeSlots_train (c : CtxNo) (q : Word) (u : ReqUse) (l : List Acc) : ((s.takeSlots c q u l).2).train = s.train := by
  unfold State.takeSlots; dsimp only
  split
  · rfl
  · rw [State.await_train, State.noteAll_train]

@[simp] theorem State.takeRaw_pending (c : CtxNo) (q : Word) (u : ReqUse) (l : List Req) : ((s.takeRaw c q u l).2).pending = s.pending := by
  unfold State.takeRaw; dsimp only
  split
  · rfl
  · exact State.await_pending s _ _ c q
@[simp] theorem State.takeRaw_now (c : CtxNo) (q : Word) (u : ReqUse) (l : List Req) : ((s.takeRaw c q u l).2).now = s.now := by
  unfold State.takeRaw; dsimp only
  split
  · rfl
  · exact State.await_now s _ _ c q
@[simp] theorem State.takeRaw_free (c : CtxNo) (q : Word) (u : ReqUse) (l : List Req) : ((s.takeRaw c q u l).2).free = s.free := by
  unfold State.takeRaw; dsimp only
  split
  · rfl
  · exact State.await_free s _ _ c q
@[simp] theorem State.takeRaw_core (c : CtxNo) (q : Word) (u : ReqUse) (l : List Req) : ((s.takeRaw c q u l).2).core = s.core := by
  unfold State.takeRaw; dsimp only
  split
  · rfl
  · exact State.await_core s _ _ c q
@[simp] theorem State.takeRaw_remote (c : CtxNo) (q : Word) (u : ReqUse) (l : List Req) : ((s.takeRaw c q u l).2).remote = s.remote := by
  unfold State.takeRaw; dsimp only
  split
  · rfl
  · exact State.await_remote s _ _ c q
@[simp] theorem State.takeRaw_evt (c : CtxNo) (q : Word) (u : ReqUse) (l : List Req) : ((s.takeRaw c q u l).2).evt = s.evt := by
  unfold State.takeRaw; dsimp only
  split
  · rfl
  · exact State.await_evt s _ _ c q
@[simp] theorem State.takeRaw_eng (c : CtxNo) (q : Word) (u : ReqUse) (l : List Req) : ((s.takeRaw c q u l).2).eng = s.eng := by
  unfold State.takeRaw; dsimp only
  split
  · rfl
  · exact State.await_eng s _ _ c q
@[simp] theorem State.takeRaw_tick (c : CtxNo) (q : Word) (u : ReqUse) (l : List Req) : ((s.takeRaw c q u l).2).tick = s.tick := by
  unfold State.takeRaw; dsimp only
  split
  · rfl
  · exact State.await_tick s _ _ c q
@[simp] theorem State.takeRaw_ctxs (c : CtxNo) (q : Word) (u : ReqUse) (l : List Req) : ((s.takeRaw c q u l).2).ctxs = s.ctxs := by
  unfold State.takeRaw; dsimp only
  split
  · rfl
  · exact State.await_ctxs s _ _ c q
@[simp] theorem State.takeRaw_fmts (c : CtxNo) (q : Word) (u : ReqUse) (l : List Req) : ((s.takeRaw c q u l).2).fmts = s.fmts := by
  unfold State.takeRaw; dsimp only
  split
  · rfl
  · exact State.await_fmts s _ _ c q
@[simp] theorem State.takeRaw_rts (c : CtxNo) (q : Word) (u : ReqUse) (l : List Req) : ((s.takeRaw c q u l).2).rts = s.rts := by
  unfold State.takeRaw; dsimp only
  split
  · rfl
  · exact State.await_rts s _ _ c q
@[simp] theorem State.takeRaw_prio (c : CtxNo) (q : Word) (u : ReqUse) (l : List Req) : ((s.takeRaw c q u l).2).prio = s.prio := by
  unfold State.takeRaw; dsimp only
  split
  · rfl
  · exact State.await_prio s _ _ c q
@[simp] theorem State.takeRaw_prioNext (c : CtxNo) (q : Word) (u : ReqUse) (l : List Req) : ((s.takeRaw c q u l).2).prioNext = s.prioNext := by
  unfold State.takeRaw; dsimp only
  split
  · rfl
  · exact State.await_prioNext s _ _ c q
@[simp] theorem State.takeRaw_schedLast (c : CtxNo) (q : Word) (u : ReqUse) (l : List Req) : ((s.takeRaw c q u l).2).schedLast = s.schedLast := by
  unfold State.takeRaw; dsimp only
  split
  · rfl
  · exact State.await_schedLast s _ _ c q
@[simp] theorem State.takeRaw_schedTurn (c : CtxNo) (q : Word) (u : ReqUse) (l : List Req) : ((s.takeRaw c q u l).2).schedTurn = s.schedTurn := by
  unfold State.takeRaw; dsimp only
  split
  · rfl
  · exact State.await_schedTurn s _ _ c q
@[simp] theorem State.takeRaw_stallMap (c : CtxNo) (q : Word) (u : ReqUse) (l : List Req) : ((s.takeRaw c q u l).2).stallMap = s.stallMap := by
  unfold State.takeRaw; dsimp only
  split
  · rfl
  · exact State.await_stallMap s _ _ c q
@[simp] theorem State.takeRaw_rampTab (c : CtxNo) (q : Word) (u : ReqUse) (l : List Req) : ((s.takeRaw c q u l).2).rampTab = s.rampTab := by
  unfold State.takeRaw; dsimp only
  split
  · rfl
  · exact State.await_rampTab s _ _ c q
@[simp] theorem State.takeRaw_rampNext (c : CtxNo) (q : Word) (u : ReqUse) (l : List Req) : ((s.takeRaw c q u l).2).rampNext = s.rampNext := by
  unfold State.takeRaw; dsimp only
  split
  · rfl
  · exact State.await_rampNext s _ _ c q
@[simp] theorem State.takeRaw_riskTab (c : CtxNo) (q : Word) (u : ReqUse) (l : List Req) : ((s.takeRaw c q u l).2).riskTab = s.riskTab := by
  unfold State.takeRaw; dsimp only
  split
  · rfl
  · exact State.await_riskTab s _ _ c q
@[simp] theorem State.takeRaw_regions (c : CtxNo) (q : Word) (u : ReqUse) (l : List Req) : ((s.takeRaw c q u l).2).regions = s.regions := by
  unfold State.takeRaw; dsimp only
  split
  · rfl
  · exact State.await_regions s _ _ c q
@[simp] theorem State.takeRaw_groups (c : CtxNo) (q : Word) (u : ReqUse) (l : List Req) : ((s.takeRaw c q u l).2).groups = s.groups := by
  unfold State.takeRaw; dsimp only
  split
  · rfl
  · exact State.await_groups s _ _ c q
@[simp] theorem State.takeRaw_descs (c : CtxNo) (q : Word) (u : ReqUse) (l : List Req) : ((s.takeRaw c q u l).2).descs = s.descs := by
  unfold State.takeRaw; dsimp only
  split
  · rfl
  · exact State.await_descs s _ _ c q
@[simp] theorem State.takeRaw_descGen (c : CtxNo) (q : Word) (u : ReqUse) (l : List Req) : ((s.takeRaw c q u l).2).descGen = s.descGen := by
  unfold State.takeRaw; dsimp only
  split
  · rfl
  · exact State.await_descGen s _ _ c q
@[simp] theorem State.takeRaw_slots (c : CtxNo) (q : Word) (u : ReqUse) (l : List Req) : ((s.takeRaw c q u l).2).slots = s.slots := by
  unfold State.takeRaw; dsimp only
  split
  · rfl
  · exact State.await_slots s _ _ c q
@[simp] theorem State.takeRaw_touch (c : CtxNo) (q : Word) (u : ReqUse) (l : List Req) : ((s.takeRaw c q u l).2).touch = s.touch := by
  unfold State.takeRaw; dsimp only
  split
  · rfl
  · exact State.await_touch s _ _ c q
@[simp] theorem State.takeRaw_lane (c : CtxNo) (q : Word) (u : ReqUse) (l : List Req) : ((s.takeRaw c q u l).2).lane = s.lane := by
  unfold State.takeRaw; dsimp only
  split
  · rfl
  · exact State.await_lane s _ _ c q
@[simp] theorem State.takeRaw_staging (c : CtxNo) (q : Word) (u : ReqUse) (l : List Req) : ((s.takeRaw c q u l).2).staging = s.staging := by
  unfold State.takeRaw; dsimp only
  split
  · rfl
  · exact State.await_staging s _ _ c q
@[simp] theorem State.takeRaw_tlb (c : CtxNo) (q : Word) (u : ReqUse) (l : List Req) : ((s.takeRaw c q u l).2).tlb = s.tlb := by
  unfold State.takeRaw; dsimp only
  split
  · rfl
  · exact State.await_tlb s _ _ c q
@[simp] theorem State.takeRaw_walks (c : CtxNo) (q : Word) (u : ReqUse) (l : List Req) : ((s.takeRaw c q u l).2).walks = s.walks := by
  unfold State.takeRaw; dsimp only
  split
  · rfl
  · exact State.await_walks s _ _ c q
@[simp] theorem State.takeRaw_invals (c : CtxNo) (q : Word) (u : ReqUse) (l : List Req) : ((s.takeRaw c q u l).2).invals = s.invals := by
  unfold State.takeRaw; dsimp only
  split
  · rfl
  · exact State.await_invals s _ _ c q
@[simp] theorem State.takeRaw_invalReq (c : CtxNo) (q : Word) (u : ReqUse) (l : List Req) : ((s.takeRaw c q u l).2).invalReq = s.invalReq := by
  unfold State.takeRaw; dsimp only
  split
  · rfl
  · exact State.await_invalReq s _ _ c q
@[simp] theorem State.takeRaw_invalDone (c : CtxNo) (q : Word) (u : ReqUse) (l : List Req) : ((s.takeRaw c q u l).2).invalDone = s.invalDone := by
  unfold State.takeRaw; dsimp only
  split
  · rfl
  · exact State.await_invalDone s _ _ c q
@[simp] theorem State.takeRaw_dovetail (c : CtxNo) (q : Word) (u : ReqUse) (l : List Req) : ((s.takeRaw c q u l).2).dovetail = s.dovetail := by
  unfold State.takeRaw; dsimp only
  split
  · rfl
  · exact State.await_dovetail s _ _ c q
@[simp] theorem State.takeRaw_locks (c : CtxNo) (q : Word) (u : ReqUse) (l : List Req) : ((s.takeRaw c q u l).2).locks = s.locks := by
  unfold State.takeRaw; dsimp only
  split
  · rfl
  · exact State.await_locks s _ _ c q
@[simp] theorem State.takeRaw_chains (c : CtxNo) (q : Word) (u : ReqUse) (l : List Req) : ((s.takeRaw c q u l).2).chains = s.chains := by
  unfold State.takeRaw; dsimp only
  split
  · rfl
  · exact State.await_chains s _ _ c q
@[simp] theorem State.takeRaw_chainOut (c : CtxNo) (q : Word) (u : ReqUse) (l : List Req) : ((s.takeRaw c q u l).2).chainOut = s.chainOut := by
  unfold State.takeRaw; dsimp only
  split
  · rfl
  · exact State.await_chainOut s _ _ c q
@[simp] theorem State.takeRaw_port (c : CtxNo) (q : Word) (u : ReqUse) (l : List Req) : ((s.takeRaw c q u l).2).port = s.port := by
  unfold State.takeRaw; dsimp only
  split
  · rfl
  · exact State.await_port s _ _ c q
@[simp] theorem State.takeRaw_ckpt (c : CtxNo) (q : Word) (u : ReqUse) (l : List Req) : ((s.takeRaw c q u l).2).ckpt = s.ckpt := by
  unfold State.takeRaw; dsimp only
  split
  · rfl
  · exact State.await_ckpt s _ _ c q
@[simp] theorem State.takeRaw_risk (c : CtxNo) (q : Word) (u : ReqUse) (l : List Req) : ((s.takeRaw c q u l).2).risk = s.risk := by
  unfold State.takeRaw; dsimp only
  split
  · rfl
  · exact State.await_risk s _ _ c q
@[simp] theorem State.takeRaw_log (c : CtxNo) (q : Word) (u : ReqUse) (l : List Req) : ((s.takeRaw c q u l).2).log = s.log := by
  unfold State.takeRaw; dsimp only
  split
  · rfl
  · exact State.await_log s _ _ c q
@[simp] theorem State.takeRaw_tel (c : CtxNo) (q : Word) (u : ReqUse) (l : List Req) : ((s.takeRaw c q u l).2).tel = s.tel := by
  unfold State.takeRaw; dsimp only
  split
  · rfl
  · exact State.await_tel s _ _ c q
@[simp] theorem State.takeRaw_pow (c : CtxNo) (q : Word) (u : ReqUse) (l : List Req) : ((s.takeRaw c q u l).2).pow = s.pow := by
  unfold State.takeRaw; dsimp only
  split
  · rfl
  · exact State.await_pow s _ _ c q
@[simp] theorem State.takeRaw_bist (c : CtxNo) (q : Word) (u : ReqUse) (l : List Req) : ((s.takeRaw c q u l).2).bist = s.bist := by
  unfold State.takeRaw; dsimp only
  split
  · rfl
  · exact State.await_bist s _ _ c q
@[simp] theorem State.takeRaw_sec (c : CtxNo) (q : Word) (u : ReqUse) (l : List Req) : ((s.takeRaw c q u l).2).sec = s.sec := by
  unfold State.takeRaw; dsimp only
  split
  · rfl
  · exact State.await_sec s _ _ c q
@[simp] theorem State.takeRaw_mgmt (c : CtxNo) (q : Word) (u : ReqUse) (l : List Req) : ((s.takeRaw c q u l).2).mgmt = s.mgmt := by
  unfold State.takeRaw; dsimp only
  split
  · rfl
  · exact State.await_mgmt s _ _ c q
@[simp] theorem State.takeRaw_train (c : CtxNo) (q : Word) (u : ReqUse) (l : List Req) : ((s.takeRaw c q u l).2).train = s.train := by
  unfold State.takeRaw; dsimp only
  split
  · rfl
  · exact State.await_train s _ _ c q

@[simp] theorem State.openSome_pending (c : CtxNo) (q : Word) (u : ReqUse) (l r : List Acc) : ((s.openSome c q u l r).2).pending = s.pending := by
  unfold State.openSome; dsimp only; split
  · exact State.acquire_pending s c _
  · exact (State.takeSlots_pending _ c q u _).trans (State.acquire_pending s c _)
@[simp] theorem State.openSome_now (c : CtxNo) (q : Word) (u : ReqUse) (l r : List Acc) : ((s.openSome c q u l r).2).now = s.now := by
  unfold State.openSome; dsimp only; split
  · exact State.acquire_now s c _
  · exact (State.takeSlots_now _ c q u _).trans (State.acquire_now s c _)
@[simp] theorem State.openSome_free (c : CtxNo) (q : Word) (u : ReqUse) (l r : List Acc) : ((s.openSome c q u l r).2).free = s.free := by
  unfold State.openSome; dsimp only; split
  · exact State.acquire_free s c _
  · exact (State.takeSlots_free _ c q u _).trans (State.acquire_free s c _)
@[simp] theorem State.openSome_core (c : CtxNo) (q : Word) (u : ReqUse) (l r : List Acc) : ((s.openSome c q u l r).2).core = s.core := by
  unfold State.openSome; dsimp only; split
  · exact State.acquire_core s c _
  · exact (State.takeSlots_core _ c q u _).trans (State.acquire_core s c _)
@[simp] theorem State.openSome_remote (c : CtxNo) (q : Word) (u : ReqUse) (l r : List Acc) : ((s.openSome c q u l r).2).remote = s.remote := by
  unfold State.openSome; dsimp only; split
  · exact State.acquire_remote s c _
  · exact (State.takeSlots_remote _ c q u _).trans (State.acquire_remote s c _)
@[simp] theorem State.openSome_evt (c : CtxNo) (q : Word) (u : ReqUse) (l r : List Acc) : ((s.openSome c q u l r).2).evt = s.evt := by
  unfold State.openSome; dsimp only; split
  · exact State.acquire_evt s c _
  · exact (State.takeSlots_evt _ c q u _).trans (State.acquire_evt s c _)
@[simp] theorem State.openSome_eng (c : CtxNo) (q : Word) (u : ReqUse) (l r : List Acc) : ((s.openSome c q u l r).2).eng = s.eng := by
  unfold State.openSome; dsimp only; split
  · exact State.acquire_eng s c _
  · exact (State.takeSlots_eng _ c q u _).trans (State.acquire_eng s c _)
@[simp] theorem State.openSome_tick (c : CtxNo) (q : Word) (u : ReqUse) (l r : List Acc) : ((s.openSome c q u l r).2).tick = s.tick := by
  unfold State.openSome; dsimp only; split
  · exact State.acquire_tick s c _
  · exact (State.takeSlots_tick _ c q u _).trans (State.acquire_tick s c _)
@[simp] theorem State.openSome_fmts (c : CtxNo) (q : Word) (u : ReqUse) (l r : List Acc) : ((s.openSome c q u l r).2).fmts = s.fmts := by
  unfold State.openSome; dsimp only; split
  · exact State.acquire_fmts s c _
  · exact (State.takeSlots_fmts _ c q u _).trans (State.acquire_fmts s c _)
@[simp] theorem State.openSome_rts (c : CtxNo) (q : Word) (u : ReqUse) (l r : List Acc) : ((s.openSome c q u l r).2).rts = s.rts := by
  unfold State.openSome; dsimp only; split
  · exact State.acquire_rts s c _
  · exact (State.takeSlots_rts _ c q u _).trans (State.acquire_rts s c _)
@[simp] theorem State.openSome_prio (c : CtxNo) (q : Word) (u : ReqUse) (l r : List Acc) : ((s.openSome c q u l r).2).prio = s.prio := by
  unfold State.openSome; dsimp only; split
  · exact State.acquire_prio s c _
  · exact (State.takeSlots_prio _ c q u _).trans (State.acquire_prio s c _)
@[simp] theorem State.openSome_prioNext (c : CtxNo) (q : Word) (u : ReqUse) (l r : List Acc) : ((s.openSome c q u l r).2).prioNext = s.prioNext := by
  unfold State.openSome; dsimp only; split
  · exact State.acquire_prioNext s c _
  · exact (State.takeSlots_prioNext _ c q u _).trans (State.acquire_prioNext s c _)
@[simp] theorem State.openSome_schedLast (c : CtxNo) (q : Word) (u : ReqUse) (l r : List Acc) : ((s.openSome c q u l r).2).schedLast = s.schedLast := by
  unfold State.openSome; dsimp only; split
  · exact State.acquire_schedLast s c _
  · exact (State.takeSlots_schedLast _ c q u _).trans (State.acquire_schedLast s c _)
@[simp] theorem State.openSome_schedTurn (c : CtxNo) (q : Word) (u : ReqUse) (l r : List Acc) : ((s.openSome c q u l r).2).schedTurn = s.schedTurn := by
  unfold State.openSome; dsimp only; split
  · exact State.acquire_schedTurn s c _
  · exact (State.takeSlots_schedTurn _ c q u _).trans (State.acquire_schedTurn s c _)
@[simp] theorem State.openSome_stallMap (c : CtxNo) (q : Word) (u : ReqUse) (l r : List Acc) : ((s.openSome c q u l r).2).stallMap = s.stallMap := by
  unfold State.openSome; dsimp only; split
  · exact State.acquire_stallMap s c _
  · exact (State.takeSlots_stallMap _ c q u _).trans (State.acquire_stallMap s c _)
@[simp] theorem State.openSome_rampTab (c : CtxNo) (q : Word) (u : ReqUse) (l r : List Acc) : ((s.openSome c q u l r).2).rampTab = s.rampTab := by
  unfold State.openSome; dsimp only; split
  · exact State.acquire_rampTab s c _
  · exact (State.takeSlots_rampTab _ c q u _).trans (State.acquire_rampTab s c _)
@[simp] theorem State.openSome_rampNext (c : CtxNo) (q : Word) (u : ReqUse) (l r : List Acc) : ((s.openSome c q u l r).2).rampNext = s.rampNext := by
  unfold State.openSome; dsimp only; split
  · exact State.acquire_rampNext s c _
  · exact (State.takeSlots_rampNext _ c q u _).trans (State.acquire_rampNext s c _)
@[simp] theorem State.openSome_riskTab (c : CtxNo) (q : Word) (u : ReqUse) (l r : List Acc) : ((s.openSome c q u l r).2).riskTab = s.riskTab := by
  unfold State.openSome; dsimp only; split
  · exact State.acquire_riskTab s c _
  · exact (State.takeSlots_riskTab _ c q u _).trans (State.acquire_riskTab s c _)
@[simp] theorem State.openSome_regions (c : CtxNo) (q : Word) (u : ReqUse) (l r : List Acc) : ((s.openSome c q u l r).2).regions = s.regions := by
  unfold State.openSome; dsimp only; split
  · exact State.acquire_regions s c _
  · exact (State.takeSlots_regions _ c q u _).trans (State.acquire_regions s c _)
@[simp] theorem State.openSome_groups (c : CtxNo) (q : Word) (u : ReqUse) (l r : List Acc) : ((s.openSome c q u l r).2).groups = s.groups := by
  unfold State.openSome; dsimp only; split
  · exact State.acquire_groups s c _
  · exact (State.takeSlots_groups _ c q u _).trans (State.acquire_groups s c _)
@[simp] theorem State.openSome_descs (c : CtxNo) (q : Word) (u : ReqUse) (l r : List Acc) : ((s.openSome c q u l r).2).descs = s.descs := by
  unfold State.openSome; dsimp only; split
  · exact State.acquire_descs s c _
  · exact (State.takeSlots_descs _ c q u _).trans (State.acquire_descs s c _)
@[simp] theorem State.openSome_descGen (c : CtxNo) (q : Word) (u : ReqUse) (l r : List Acc) : ((s.openSome c q u l r).2).descGen = s.descGen := by
  unfold State.openSome; dsimp only; split
  · exact State.acquire_descGen s c _
  · exact (State.takeSlots_descGen _ c q u _).trans (State.acquire_descGen s c _)
@[simp] theorem State.openSome_slots (c : CtxNo) (q : Word) (u : ReqUse) (l r : List Acc) : ((s.openSome c q u l r).2).slots = s.slots := by
  unfold State.openSome; dsimp only; split
  · exact State.acquire_slots s c _
  · exact (State.takeSlots_slots _ c q u _).trans (State.acquire_slots s c _)
@[simp] theorem State.openSome_touch (c : CtxNo) (q : Word) (u : ReqUse) (l r : List Acc) : ((s.openSome c q u l r).2).touch = s.touch := by
  unfold State.openSome; dsimp only; split
  · exact State.acquire_touch s c _
  · exact (State.takeSlots_touch _ c q u _).trans (State.acquire_touch s c _)
@[simp] theorem State.openSome_lane (c : CtxNo) (q : Word) (u : ReqUse) (l r : List Acc) : ((s.openSome c q u l r).2).lane = s.lane := by
  unfold State.openSome; dsimp only; split
  · exact State.acquire_lane s c _
  · exact (State.takeSlots_lane _ c q u _).trans (State.acquire_lane s c _)
@[simp] theorem State.openSome_staging (c : CtxNo) (q : Word) (u : ReqUse) (l r : List Acc) : ((s.openSome c q u l r).2).staging = s.staging := by
  unfold State.openSome; dsimp only; split
  · exact State.acquire_staging s c _
  · exact (State.takeSlots_staging _ c q u _).trans (State.acquire_staging s c _)
@[simp] theorem State.openSome_invals (c : CtxNo) (q : Word) (u : ReqUse) (l r : List Acc) : ((s.openSome c q u l r).2).invals = s.invals := by
  unfold State.openSome; dsimp only; split
  · exact State.acquire_invals s c _
  · exact (State.takeSlots_invals _ c q u _).trans (State.acquire_invals s c _)
@[simp] theorem State.openSome_invalReq (c : CtxNo) (q : Word) (u : ReqUse) (l r : List Acc) : ((s.openSome c q u l r).2).invalReq = s.invalReq := by
  unfold State.openSome; dsimp only; split
  · exact State.acquire_invalReq s c _
  · exact (State.takeSlots_invalReq _ c q u _).trans (State.acquire_invalReq s c _)
@[simp] theorem State.openSome_invalDone (c : CtxNo) (q : Word) (u : ReqUse) (l r : List Acc) : ((s.openSome c q u l r).2).invalDone = s.invalDone := by
  unfold State.openSome; dsimp only; split
  · exact State.acquire_invalDone s c _
  · exact (State.takeSlots_invalDone _ c q u _).trans (State.acquire_invalDone s c _)
@[simp] theorem State.openSome_dovetail (c : CtxNo) (q : Word) (u : ReqUse) (l r : List Acc) : ((s.openSome c q u l r).2).dovetail = s.dovetail := by
  unfold State.openSome; dsimp only; split
  · exact State.acquire_dovetail s c _
  · exact (State.takeSlots_dovetail _ c q u _).trans (State.acquire_dovetail s c _)
@[simp] theorem State.openSome_locks (c : CtxNo) (q : Word) (u : ReqUse) (l r : List Acc) : ((s.openSome c q u l r).2).locks = s.locks := by
  unfold State.openSome; dsimp only; split
  · exact State.acquire_locks s c _
  · exact (State.takeSlots_locks _ c q u _).trans (State.acquire_locks s c _)
@[simp] theorem State.openSome_chains (c : CtxNo) (q : Word) (u : ReqUse) (l r : List Acc) : ((s.openSome c q u l r).2).chains = s.chains := by
  unfold State.openSome; dsimp only; split
  · exact State.acquire_chains s c _
  · exact (State.takeSlots_chains _ c q u _).trans (State.acquire_chains s c _)
@[simp] theorem State.openSome_chainOut (c : CtxNo) (q : Word) (u : ReqUse) (l r : List Acc) : ((s.openSome c q u l r).2).chainOut = s.chainOut := by
  unfold State.openSome; dsimp only; split
  · exact State.acquire_chainOut s c _
  · exact (State.takeSlots_chainOut _ c q u _).trans (State.acquire_chainOut s c _)
@[simp] theorem State.openSome_port (c : CtxNo) (q : Word) (u : ReqUse) (l r : List Acc) : ((s.openSome c q u l r).2).port = s.port := by
  unfold State.openSome; dsimp only; split
  · exact State.acquire_port s c _
  · exact (State.takeSlots_port _ c q u _).trans (State.acquire_port s c _)
@[simp] theorem State.openSome_ckpt (c : CtxNo) (q : Word) (u : ReqUse) (l r : List Acc) : ((s.openSome c q u l r).2).ckpt = s.ckpt := by
  unfold State.openSome; dsimp only; split
  · exact State.acquire_ckpt s c _
  · exact (State.takeSlots_ckpt _ c q u _).trans (State.acquire_ckpt s c _)
@[simp] theorem State.openSome_risk (c : CtxNo) (q : Word) (u : ReqUse) (l r : List Acc) : ((s.openSome c q u l r).2).risk = s.risk := by
  unfold State.openSome; dsimp only; split
  · exact State.acquire_risk s c _
  · exact (State.takeSlots_risk _ c q u _).trans (State.acquire_risk s c _)
@[simp] theorem State.openSome_log (c : CtxNo) (q : Word) (u : ReqUse) (l r : List Acc) : ((s.openSome c q u l r).2).log = s.log := by
  unfold State.openSome; dsimp only; split
  · exact State.acquire_log s c _
  · exact (State.takeSlots_log _ c q u _).trans (State.acquire_log s c _)
@[simp] theorem State.openSome_tel (c : CtxNo) (q : Word) (u : ReqUse) (l r : List Acc) : ((s.openSome c q u l r).2).tel = s.tel := by
  unfold State.openSome; dsimp only; split
  · exact State.acquire_tel s c _
  · exact (State.takeSlots_tel _ c q u _).trans (State.acquire_tel s c _)
@[simp] theorem State.openSome_pow (c : CtxNo) (q : Word) (u : ReqUse) (l r : List Acc) : ((s.openSome c q u l r).2).pow = s.pow := by
  unfold State.openSome; dsimp only; split
  · exact State.acquire_pow s c _
  · exact (State.takeSlots_pow _ c q u _).trans (State.acquire_pow s c _)
@[simp] theorem State.openSome_bist (c : CtxNo) (q : Word) (u : ReqUse) (l r : List Acc) : ((s.openSome c q u l r).2).bist = s.bist := by
  unfold State.openSome; dsimp only; split
  · exact State.acquire_bist s c _
  · exact (State.takeSlots_bist _ c q u _).trans (State.acquire_bist s c _)
@[simp] theorem State.openSome_sec (c : CtxNo) (q : Word) (u : ReqUse) (l r : List Acc) : ((s.openSome c q u l r).2).sec = s.sec := by
  unfold State.openSome; dsimp only; split
  · exact State.acquire_sec s c _
  · exact (State.takeSlots_sec _ c q u _).trans (State.acquire_sec s c _)
@[simp] theorem State.openSome_mgmt (c : CtxNo) (q : Word) (u : ReqUse) (l r : List Acc) : ((s.openSome c q u l r).2).mgmt = s.mgmt := by
  unfold State.openSome; dsimp only; split
  · exact State.acquire_mgmt s c _
  · exact (State.takeSlots_mgmt _ c q u _).trans (State.acquire_mgmt s c _)
@[simp] theorem State.openSome_train (c : CtxNo) (q : Word) (u : ReqUse) (l r : List Acc) : ((s.openSome c q u l r).2).train = s.train := by
  unfold State.openSome; dsimp only; split
  · exact State.acquire_train s c _
  · exact (State.takeSlots_train _ c q u _).trans (State.acquire_train s c _)

@[simp] theorem State.openFor_pending (c : CtxNo) (q : Word) (u : ReqUse) (l : List Acc) : ((s.openFor c q u l).2).pending = s.pending := State.openSome_pending s c q u l l
@[simp] theorem State.openFor_now (c : CtxNo) (q : Word) (u : ReqUse) (l : List Acc) : ((s.openFor c q u l).2).now = s.now := State.openSome_now s c q u l l
@[simp] theorem State.openFor_free (c : CtxNo) (q : Word) (u : ReqUse) (l : List Acc) : ((s.openFor c q u l).2).free = s.free := State.openSome_free s c q u l l
@[simp] theorem State.openFor_core (c : CtxNo) (q : Word) (u : ReqUse) (l : List Acc) : ((s.openFor c q u l).2).core = s.core := State.openSome_core s c q u l l
@[simp] theorem State.openFor_remote (c : CtxNo) (q : Word) (u : ReqUse) (l : List Acc) : ((s.openFor c q u l).2).remote = s.remote := State.openSome_remote s c q u l l
@[simp] theorem State.openFor_evt (c : CtxNo) (q : Word) (u : ReqUse) (l : List Acc) : ((s.openFor c q u l).2).evt = s.evt := State.openSome_evt s c q u l l
@[simp] theorem State.openFor_eng (c : CtxNo) (q : Word) (u : ReqUse) (l : List Acc) : ((s.openFor c q u l).2).eng = s.eng := State.openSome_eng s c q u l l
@[simp] theorem State.openFor_tick (c : CtxNo) (q : Word) (u : ReqUse) (l : List Acc) : ((s.openFor c q u l).2).tick = s.tick := State.openSome_tick s c q u l l
@[simp] theorem State.openFor_fmts (c : CtxNo) (q : Word) (u : ReqUse) (l : List Acc) : ((s.openFor c q u l).2).fmts = s.fmts := State.openSome_fmts s c q u l l
@[simp] theorem State.openFor_rts (c : CtxNo) (q : Word) (u : ReqUse) (l : List Acc) : ((s.openFor c q u l).2).rts = s.rts := State.openSome_rts s c q u l l
@[simp] theorem State.openFor_prio (c : CtxNo) (q : Word) (u : ReqUse) (l : List Acc) : ((s.openFor c q u l).2).prio = s.prio := State.openSome_prio s c q u l l
@[simp] theorem State.openFor_prioNext (c : CtxNo) (q : Word) (u : ReqUse) (l : List Acc) : ((s.openFor c q u l).2).prioNext = s.prioNext := State.openSome_prioNext s c q u l l
@[simp] theorem State.openFor_schedLast (c : CtxNo) (q : Word) (u : ReqUse) (l : List Acc) : ((s.openFor c q u l).2).schedLast = s.schedLast := State.openSome_schedLast s c q u l l
@[simp] theorem State.openFor_schedTurn (c : CtxNo) (q : Word) (u : ReqUse) (l : List Acc) : ((s.openFor c q u l).2).schedTurn = s.schedTurn := State.openSome_schedTurn s c q u l l
@[simp] theorem State.openFor_stallMap (c : CtxNo) (q : Word) (u : ReqUse) (l : List Acc) : ((s.openFor c q u l).2).stallMap = s.stallMap := State.openSome_stallMap s c q u l l
@[simp] theorem State.openFor_rampTab (c : CtxNo) (q : Word) (u : ReqUse) (l : List Acc) : ((s.openFor c q u l).2).rampTab = s.rampTab := State.openSome_rampTab s c q u l l
@[simp] theorem State.openFor_rampNext (c : CtxNo) (q : Word) (u : ReqUse) (l : List Acc) : ((s.openFor c q u l).2).rampNext = s.rampNext := State.openSome_rampNext s c q u l l
@[simp] theorem State.openFor_riskTab (c : CtxNo) (q : Word) (u : ReqUse) (l : List Acc) : ((s.openFor c q u l).2).riskTab = s.riskTab := State.openSome_riskTab s c q u l l
@[simp] theorem State.openFor_regions (c : CtxNo) (q : Word) (u : ReqUse) (l : List Acc) : ((s.openFor c q u l).2).regions = s.regions := State.openSome_regions s c q u l l
@[simp] theorem State.openFor_groups (c : CtxNo) (q : Word) (u : ReqUse) (l : List Acc) : ((s.openFor c q u l).2).groups = s.groups := State.openSome_groups s c q u l l
@[simp] theorem State.openFor_descs (c : CtxNo) (q : Word) (u : ReqUse) (l : List Acc) : ((s.openFor c q u l).2).descs = s.descs := State.openSome_descs s c q u l l
@[simp] theorem State.openFor_descGen (c : CtxNo) (q : Word) (u : ReqUse) (l : List Acc) : ((s.openFor c q u l).2).descGen = s.descGen := State.openSome_descGen s c q u l l
@[simp] theorem State.openFor_slots (c : CtxNo) (q : Word) (u : ReqUse) (l : List Acc) : ((s.openFor c q u l).2).slots = s.slots := State.openSome_slots s c q u l l
@[simp] theorem State.openFor_touch (c : CtxNo) (q : Word) (u : ReqUse) (l : List Acc) : ((s.openFor c q u l).2).touch = s.touch := State.openSome_touch s c q u l l
@[simp] theorem State.openFor_lane (c : CtxNo) (q : Word) (u : ReqUse) (l : List Acc) : ((s.openFor c q u l).2).lane = s.lane := State.openSome_lane s c q u l l
@[simp] theorem State.openFor_staging (c : CtxNo) (q : Word) (u : ReqUse) (l : List Acc) : ((s.openFor c q u l).2).staging = s.staging := State.openSome_staging s c q u l l
@[simp] theorem State.openFor_invals (c : CtxNo) (q : Word) (u : ReqUse) (l : List Acc) : ((s.openFor c q u l).2).invals = s.invals := State.openSome_invals s c q u l l
@[simp] theorem State.openFor_invalReq (c : CtxNo) (q : Word) (u : ReqUse) (l : List Acc) : ((s.openFor c q u l).2).invalReq = s.invalReq := State.openSome_invalReq s c q u l l
@[simp] theorem State.openFor_invalDone (c : CtxNo) (q : Word) (u : ReqUse) (l : List Acc) : ((s.openFor c q u l).2).invalDone = s.invalDone := State.openSome_invalDone s c q u l l
@[simp] theorem State.openFor_dovetail (c : CtxNo) (q : Word) (u : ReqUse) (l : List Acc) : ((s.openFor c q u l).2).dovetail = s.dovetail := State.openSome_dovetail s c q u l l
@[simp] theorem State.openFor_locks (c : CtxNo) (q : Word) (u : ReqUse) (l : List Acc) : ((s.openFor c q u l).2).locks = s.locks := State.openSome_locks s c q u l l
@[simp] theorem State.openFor_chains (c : CtxNo) (q : Word) (u : ReqUse) (l : List Acc) : ((s.openFor c q u l).2).chains = s.chains := State.openSome_chains s c q u l l
@[simp] theorem State.openFor_chainOut (c : CtxNo) (q : Word) (u : ReqUse) (l : List Acc) : ((s.openFor c q u l).2).chainOut = s.chainOut := State.openSome_chainOut s c q u l l
@[simp] theorem State.openFor_port (c : CtxNo) (q : Word) (u : ReqUse) (l : List Acc) : ((s.openFor c q u l).2).port = s.port := State.openSome_port s c q u l l
@[simp] theorem State.openFor_ckpt (c : CtxNo) (q : Word) (u : ReqUse) (l : List Acc) : ((s.openFor c q u l).2).ckpt = s.ckpt := State.openSome_ckpt s c q u l l
@[simp] theorem State.openFor_risk (c : CtxNo) (q : Word) (u : ReqUse) (l : List Acc) : ((s.openFor c q u l).2).risk = s.risk := State.openSome_risk s c q u l l
@[simp] theorem State.openFor_log (c : CtxNo) (q : Word) (u : ReqUse) (l : List Acc) : ((s.openFor c q u l).2).log = s.log := State.openSome_log s c q u l l
@[simp] theorem State.openFor_tel (c : CtxNo) (q : Word) (u : ReqUse) (l : List Acc) : ((s.openFor c q u l).2).tel = s.tel := State.openSome_tel s c q u l l
@[simp] theorem State.openFor_pow (c : CtxNo) (q : Word) (u : ReqUse) (l : List Acc) : ((s.openFor c q u l).2).pow = s.pow := State.openSome_pow s c q u l l
@[simp] theorem State.openFor_bist (c : CtxNo) (q : Word) (u : ReqUse) (l : List Acc) : ((s.openFor c q u l).2).bist = s.bist := State.openSome_bist s c q u l l
@[simp] theorem State.openFor_sec (c : CtxNo) (q : Word) (u : ReqUse) (l : List Acc) : ((s.openFor c q u l).2).sec = s.sec := State.openSome_sec s c q u l l
@[simp] theorem State.openFor_mgmt (c : CtxNo) (q : Word) (u : ReqUse) (l : List Acc) : ((s.openFor c q u l).2).mgmt = s.mgmt := State.openSome_mgmt s c q u l l
@[simp] theorem State.openFor_train (c : CtxNo) (q : Word) (u : ReqUse) (l : List Acc) : ((s.openFor c q u l).2).train = s.train := State.openSome_train s c q u l l

@[simp] theorem State.openAll_pending (c : CtxNo) (q : Word) (l : List Acc) : ((s.openAll c q l).2).pending = s.pending := State.openFor_pending s c q _ l
@[simp] theorem State.openAll_now (c : CtxNo) (q : Word) (l : List Acc) : ((s.openAll c q l).2).now = s.now := State.openFor_now s c q _ l
@[simp] theorem State.openAll_free (c : CtxNo) (q : Word) (l : List Acc) : ((s.openAll c q l).2).free = s.free := State.openFor_free s c q _ l
@[simp] theorem State.openAll_core (c : CtxNo) (q : Word) (l : List Acc) : ((s.openAll c q l).2).core = s.core := State.openFor_core s c q _ l
@[simp] theorem State.openAll_remote (c : CtxNo) (q : Word) (l : List Acc) : ((s.openAll c q l).2).remote = s.remote := State.openFor_remote s c q _ l
@[simp] theorem State.openAll_evt (c : CtxNo) (q : Word) (l : List Acc) : ((s.openAll c q l).2).evt = s.evt := State.openFor_evt s c q _ l
@[simp] theorem State.openAll_eng (c : CtxNo) (q : Word) (l : List Acc) : ((s.openAll c q l).2).eng = s.eng := State.openFor_eng s c q _ l
@[simp] theorem State.openAll_tick (c : CtxNo) (q : Word) (l : List Acc) : ((s.openAll c q l).2).tick = s.tick := State.openFor_tick s c q _ l
@[simp] theorem State.openAll_fmts (c : CtxNo) (q : Word) (l : List Acc) : ((s.openAll c q l).2).fmts = s.fmts := State.openFor_fmts s c q _ l
@[simp] theorem State.openAll_rts (c : CtxNo) (q : Word) (l : List Acc) : ((s.openAll c q l).2).rts = s.rts := State.openFor_rts s c q _ l
@[simp] theorem State.openAll_prio (c : CtxNo) (q : Word) (l : List Acc) : ((s.openAll c q l).2).prio = s.prio := State.openFor_prio s c q _ l
@[simp] theorem State.openAll_prioNext (c : CtxNo) (q : Word) (l : List Acc) : ((s.openAll c q l).2).prioNext = s.prioNext := State.openFor_prioNext s c q _ l
@[simp] theorem State.openAll_schedLast (c : CtxNo) (q : Word) (l : List Acc) : ((s.openAll c q l).2).schedLast = s.schedLast := State.openFor_schedLast s c q _ l
@[simp] theorem State.openAll_schedTurn (c : CtxNo) (q : Word) (l : List Acc) : ((s.openAll c q l).2).schedTurn = s.schedTurn := State.openFor_schedTurn s c q _ l
@[simp] theorem State.openAll_stallMap (c : CtxNo) (q : Word) (l : List Acc) : ((s.openAll c q l).2).stallMap = s.stallMap := State.openFor_stallMap s c q _ l
@[simp] theorem State.openAll_rampTab (c : CtxNo) (q : Word) (l : List Acc) : ((s.openAll c q l).2).rampTab = s.rampTab := State.openFor_rampTab s c q _ l
@[simp] theorem State.openAll_rampNext (c : CtxNo) (q : Word) (l : List Acc) : ((s.openAll c q l).2).rampNext = s.rampNext := State.openFor_rampNext s c q _ l
@[simp] theorem State.openAll_riskTab (c : CtxNo) (q : Word) (l : List Acc) : ((s.openAll c q l).2).riskTab = s.riskTab := State.openFor_riskTab s c q _ l
@[simp] theorem State.openAll_regions (c : CtxNo) (q : Word) (l : List Acc) : ((s.openAll c q l).2).regions = s.regions := State.openFor_regions s c q _ l
@[simp] theorem State.openAll_groups (c : CtxNo) (q : Word) (l : List Acc) : ((s.openAll c q l).2).groups = s.groups := State.openFor_groups s c q _ l
@[simp] theorem State.openAll_descs (c : CtxNo) (q : Word) (l : List Acc) : ((s.openAll c q l).2).descs = s.descs := State.openFor_descs s c q _ l
@[simp] theorem State.openAll_descGen (c : CtxNo) (q : Word) (l : List Acc) : ((s.openAll c q l).2).descGen = s.descGen := State.openFor_descGen s c q _ l
@[simp] theorem State.openAll_slots (c : CtxNo) (q : Word) (l : List Acc) : ((s.openAll c q l).2).slots = s.slots := State.openFor_slots s c q _ l
@[simp] theorem State.openAll_touch (c : CtxNo) (q : Word) (l : List Acc) : ((s.openAll c q l).2).touch = s.touch := State.openFor_touch s c q _ l
@[simp] theorem State.openAll_lane (c : CtxNo) (q : Word) (l : List Acc) : ((s.openAll c q l).2).lane = s.lane := State.openFor_lane s c q _ l
@[simp] theorem State.openAll_staging (c : CtxNo) (q : Word) (l : List Acc) : ((s.openAll c q l).2).staging = s.staging := State.openFor_staging s c q _ l
@[simp] theorem State.openAll_invals (c : CtxNo) (q : Word) (l : List Acc) : ((s.openAll c q l).2).invals = s.invals := State.openFor_invals s c q _ l
@[simp] theorem State.openAll_invalReq (c : CtxNo) (q : Word) (l : List Acc) : ((s.openAll c q l).2).invalReq = s.invalReq := State.openFor_invalReq s c q _ l
@[simp] theorem State.openAll_invalDone (c : CtxNo) (q : Word) (l : List Acc) : ((s.openAll c q l).2).invalDone = s.invalDone := State.openFor_invalDone s c q _ l
@[simp] theorem State.openAll_dovetail (c : CtxNo) (q : Word) (l : List Acc) : ((s.openAll c q l).2).dovetail = s.dovetail := State.openFor_dovetail s c q _ l
@[simp] theorem State.openAll_locks (c : CtxNo) (q : Word) (l : List Acc) : ((s.openAll c q l).2).locks = s.locks := State.openFor_locks s c q _ l
@[simp] theorem State.openAll_chains (c : CtxNo) (q : Word) (l : List Acc) : ((s.openAll c q l).2).chains = s.chains := State.openFor_chains s c q _ l
@[simp] theorem State.openAll_chainOut (c : CtxNo) (q : Word) (l : List Acc) : ((s.openAll c q l).2).chainOut = s.chainOut := State.openFor_chainOut s c q _ l
@[simp] theorem State.openAll_port (c : CtxNo) (q : Word) (l : List Acc) : ((s.openAll c q l).2).port = s.port := State.openFor_port s c q _ l
@[simp] theorem State.openAll_ckpt (c : CtxNo) (q : Word) (l : List Acc) : ((s.openAll c q l).2).ckpt = s.ckpt := State.openFor_ckpt s c q _ l
@[simp] theorem State.openAll_risk (c : CtxNo) (q : Word) (l : List Acc) : ((s.openAll c q l).2).risk = s.risk := State.openFor_risk s c q _ l
@[simp] theorem State.openAll_log (c : CtxNo) (q : Word) (l : List Acc) : ((s.openAll c q l).2).log = s.log := State.openFor_log s c q _ l
@[simp] theorem State.openAll_tel (c : CtxNo) (q : Word) (l : List Acc) : ((s.openAll c q l).2).tel = s.tel := State.openFor_tel s c q _ l
@[simp] theorem State.openAll_pow (c : CtxNo) (q : Word) (l : List Acc) : ((s.openAll c q l).2).pow = s.pow := State.openFor_pow s c q _ l
@[simp] theorem State.openAll_bist (c : CtxNo) (q : Word) (l : List Acc) : ((s.openAll c q l).2).bist = s.bist := State.openFor_bist s c q _ l
@[simp] theorem State.openAll_sec (c : CtxNo) (q : Word) (l : List Acc) : ((s.openAll c q l).2).sec = s.sec := State.openFor_sec s c q _ l
@[simp] theorem State.openAll_mgmt (c : CtxNo) (q : Word) (l : List Acc) : ((s.openAll c q l).2).mgmt = s.mgmt := State.openFor_mgmt s c q _ l
@[simp] theorem State.openAll_train (c : CtxNo) (q : Word) (l : List Acc) : ((s.openAll c q l).2).train = s.train := State.openFor_train s c q _ l

@[simp] theorem State.copiedFirst_pending (c : CtxNo) (q : Word) (l : List Acc) : ((s.copiedFirst c q l).2).pending = s.pending := by
  unfold State.copiedFirst; split <;> rfl
@[simp] theorem State.copiedFirst_now (c : CtxNo) (q : Word) (l : List Acc) : ((s.copiedFirst c q l).2).now = s.now := by
  unfold State.copiedFirst; split <;> rfl
@[simp] theorem State.copiedFirst_free (c : CtxNo) (q : Word) (l : List Acc) : ((s.copiedFirst c q l).2).free = s.free := by
  unfold State.copiedFirst; split <;> rfl
@[simp] theorem State.copiedFirst_core (c : CtxNo) (q : Word) (l : List Acc) : ((s.copiedFirst c q l).2).core = s.core := by
  unfold State.copiedFirst; split <;> rfl
@[simp] theorem State.copiedFirst_remote (c : CtxNo) (q : Word) (l : List Acc) : ((s.copiedFirst c q l).2).remote = s.remote := by
  unfold State.copiedFirst; split <;> rfl
@[simp] theorem State.copiedFirst_evt (c : CtxNo) (q : Word) (l : List Acc) : ((s.copiedFirst c q l).2).evt = s.evt := by
  unfold State.copiedFirst; split <;> rfl
@[simp] theorem State.copiedFirst_eng (c : CtxNo) (q : Word) (l : List Acc) : ((s.copiedFirst c q l).2).eng = s.eng := by
  unfold State.copiedFirst; split <;> rfl
@[simp] theorem State.copiedFirst_tick (c : CtxNo) (q : Word) (l : List Acc) : ((s.copiedFirst c q l).2).tick = s.tick := by
  unfold State.copiedFirst; split <;> rfl
@[simp] theorem State.copiedFirst_fmts (c : CtxNo) (q : Word) (l : List Acc) : ((s.copiedFirst c q l).2).fmts = s.fmts := by
  unfold State.copiedFirst; split <;> rfl
@[simp] theorem State.copiedFirst_rts (c : CtxNo) (q : Word) (l : List Acc) : ((s.copiedFirst c q l).2).rts = s.rts := by
  unfold State.copiedFirst; split <;> rfl
@[simp] theorem State.copiedFirst_prio (c : CtxNo) (q : Word) (l : List Acc) : ((s.copiedFirst c q l).2).prio = s.prio := by
  unfold State.copiedFirst; split <;> rfl
@[simp] theorem State.copiedFirst_prioNext (c : CtxNo) (q : Word) (l : List Acc) : ((s.copiedFirst c q l).2).prioNext = s.prioNext := by
  unfold State.copiedFirst; split <;> rfl
@[simp] theorem State.copiedFirst_schedLast (c : CtxNo) (q : Word) (l : List Acc) : ((s.copiedFirst c q l).2).schedLast = s.schedLast := by
  unfold State.copiedFirst; split <;> rfl
@[simp] theorem State.copiedFirst_schedTurn (c : CtxNo) (q : Word) (l : List Acc) : ((s.copiedFirst c q l).2).schedTurn = s.schedTurn := by
  unfold State.copiedFirst; split <;> rfl
@[simp] theorem State.copiedFirst_stallMap (c : CtxNo) (q : Word) (l : List Acc) : ((s.copiedFirst c q l).2).stallMap = s.stallMap := by
  unfold State.copiedFirst; split <;> rfl
@[simp] theorem State.copiedFirst_rampTab (c : CtxNo) (q : Word) (l : List Acc) : ((s.copiedFirst c q l).2).rampTab = s.rampTab := by
  unfold State.copiedFirst; split <;> rfl
@[simp] theorem State.copiedFirst_rampNext (c : CtxNo) (q : Word) (l : List Acc) : ((s.copiedFirst c q l).2).rampNext = s.rampNext := by
  unfold State.copiedFirst; split <;> rfl
@[simp] theorem State.copiedFirst_riskTab (c : CtxNo) (q : Word) (l : List Acc) : ((s.copiedFirst c q l).2).riskTab = s.riskTab := by
  unfold State.copiedFirst; split <;> rfl
@[simp] theorem State.copiedFirst_regions (c : CtxNo) (q : Word) (l : List Acc) : ((s.copiedFirst c q l).2).regions = s.regions := by
  unfold State.copiedFirst; split <;> rfl
@[simp] theorem State.copiedFirst_groups (c : CtxNo) (q : Word) (l : List Acc) : ((s.copiedFirst c q l).2).groups = s.groups := by
  unfold State.copiedFirst; split <;> rfl
@[simp] theorem State.copiedFirst_descs (c : CtxNo) (q : Word) (l : List Acc) : ((s.copiedFirst c q l).2).descs = s.descs := by
  unfold State.copiedFirst; split <;> rfl
@[simp] theorem State.copiedFirst_descGen (c : CtxNo) (q : Word) (l : List Acc) : ((s.copiedFirst c q l).2).descGen = s.descGen := by
  unfold State.copiedFirst; split <;> rfl
@[simp] theorem State.copiedFirst_slots (c : CtxNo) (q : Word) (l : List Acc) : ((s.copiedFirst c q l).2).slots = s.slots := by
  unfold State.copiedFirst; split <;> rfl
@[simp] theorem State.copiedFirst_touch (c : CtxNo) (q : Word) (l : List Acc) : ((s.copiedFirst c q l).2).touch = s.touch := by
  unfold State.copiedFirst; split <;> rfl
@[simp] theorem State.copiedFirst_lane (c : CtxNo) (q : Word) (l : List Acc) : ((s.copiedFirst c q l).2).lane = s.lane := by
  unfold State.copiedFirst; split <;> rfl
@[simp] theorem State.copiedFirst_staging (c : CtxNo) (q : Word) (l : List Acc) : ((s.copiedFirst c q l).2).staging = s.staging := by
  unfold State.copiedFirst; split <;> rfl
@[simp] theorem State.copiedFirst_tlb (c : CtxNo) (q : Word) (l : List Acc) : ((s.copiedFirst c q l).2).tlb = s.tlb := by
  unfold State.copiedFirst; split <;> rfl
@[simp] theorem State.copiedFirst_walks (c : CtxNo) (q : Word) (l : List Acc) : ((s.copiedFirst c q l).2).walks = s.walks := by
  unfold State.copiedFirst; split <;> rfl
@[simp] theorem State.copiedFirst_invals (c : CtxNo) (q : Word) (l : List Acc) : ((s.copiedFirst c q l).2).invals = s.invals := by
  unfold State.copiedFirst; split <;> rfl
@[simp] theorem State.copiedFirst_invalReq (c : CtxNo) (q : Word) (l : List Acc) : ((s.copiedFirst c q l).2).invalReq = s.invalReq := by
  unfold State.copiedFirst; split <;> rfl
@[simp] theorem State.copiedFirst_invalDone (c : CtxNo) (q : Word) (l : List Acc) : ((s.copiedFirst c q l).2).invalDone = s.invalDone := by
  unfold State.copiedFirst; split <;> rfl
@[simp] theorem State.copiedFirst_reqs (c : CtxNo) (q : Word) (l : List Acc) : ((s.copiedFirst c q l).2).reqs = s.reqs := by
  unfold State.copiedFirst; split <;> rfl
@[simp] theorem State.copiedFirst_sent (c : CtxNo) (q : Word) (l : List Acc) : ((s.copiedFirst c q l).2).sent = s.sent := by
  unfold State.copiedFirst; split <;> rfl
@[simp] theorem State.copiedFirst_waits (c : CtxNo) (q : Word) (l : List Acc) : ((s.copiedFirst c q l).2).waits = s.waits := by
  unfold State.copiedFirst; split <;> rfl
@[simp] theorem State.copiedFirst_dovetail (c : CtxNo) (q : Word) (l : List Acc) : ((s.copiedFirst c q l).2).dovetail = s.dovetail := by
  unfold State.copiedFirst; split <;> rfl
@[simp] theorem State.copiedFirst_locks (c : CtxNo) (q : Word) (l : List Acc) : ((s.copiedFirst c q l).2).locks = s.locks := by
  unfold State.copiedFirst; split <;> rfl
@[simp] theorem State.copiedFirst_chains (c : CtxNo) (q : Word) (l : List Acc) : ((s.copiedFirst c q l).2).chains = s.chains := by
  unfold State.copiedFirst; split <;> rfl
@[simp] theorem State.copiedFirst_chainOut (c : CtxNo) (q : Word) (l : List Acc) : ((s.copiedFirst c q l).2).chainOut = s.chainOut := by
  unfold State.copiedFirst; split <;> rfl
@[simp] theorem State.copiedFirst_port (c : CtxNo) (q : Word) (l : List Acc) : ((s.copiedFirst c q l).2).port = s.port := by
  unfold State.copiedFirst; split <;> rfl
@[simp] theorem State.copiedFirst_ckpt (c : CtxNo) (q : Word) (l : List Acc) : ((s.copiedFirst c q l).2).ckpt = s.ckpt := by
  unfold State.copiedFirst; split <;> rfl
@[simp] theorem State.copiedFirst_risk (c : CtxNo) (q : Word) (l : List Acc) : ((s.copiedFirst c q l).2).risk = s.risk := by
  unfold State.copiedFirst; split <;> rfl
@[simp] theorem State.copiedFirst_log (c : CtxNo) (q : Word) (l : List Acc) : ((s.copiedFirst c q l).2).log = s.log := by
  unfold State.copiedFirst; split <;> rfl
@[simp] theorem State.copiedFirst_tel (c : CtxNo) (q : Word) (l : List Acc) : ((s.copiedFirst c q l).2).tel = s.tel := by
  unfold State.copiedFirst; split <;> rfl
@[simp] theorem State.copiedFirst_pow (c : CtxNo) (q : Word) (l : List Acc) : ((s.copiedFirst c q l).2).pow = s.pow := by
  unfold State.copiedFirst; split <;> rfl
@[simp] theorem State.copiedFirst_bist (c : CtxNo) (q : Word) (l : List Acc) : ((s.copiedFirst c q l).2).bist = s.bist := by
  unfold State.copiedFirst; split <;> rfl
@[simp] theorem State.copiedFirst_sec (c : CtxNo) (q : Word) (l : List Acc) : ((s.copiedFirst c q l).2).sec = s.sec := by
  unfold State.copiedFirst; split <;> rfl
@[simp] theorem State.copiedFirst_mgmt (c : CtxNo) (q : Word) (l : List Acc) : ((s.copiedFirst c q l).2).mgmt = s.mgmt := by
  unfold State.copiedFirst; split <;> rfl
@[simp] theorem State.copiedFirst_train (c : CtxNo) (q : Word) (l : List Acc) : ((s.copiedFirst c q l).2).train = s.train := by
  unfold State.copiedFirst; split <;> rfl

@[simp] theorem State.openWrites_pending (c : CtxNo) (q : Word) (l : List Acc) : ((s.openWrites c q l).2).pending = s.pending := by
  unfold State.openWrites; dsimp only; split
  · exact State.openAll_pending s c q l
  · exact (State.copiedFirst_pending _ c q l).trans (State.openAll_pending s c q l)
@[simp] theorem State.openWrites_now (c : CtxNo) (q : Word) (l : List Acc) : ((s.openWrites c q l).2).now = s.now := by
  unfold State.openWrites; dsimp only; split
  · exact State.openAll_now s c q l
  · exact (State.copiedFirst_now _ c q l).trans (State.openAll_now s c q l)
@[simp] theorem State.openWrites_free (c : CtxNo) (q : Word) (l : List Acc) : ((s.openWrites c q l).2).free = s.free := by
  unfold State.openWrites; dsimp only; split
  · exact State.openAll_free s c q l
  · exact (State.copiedFirst_free _ c q l).trans (State.openAll_free s c q l)
@[simp] theorem State.openWrites_core (c : CtxNo) (q : Word) (l : List Acc) : ((s.openWrites c q l).2).core = s.core := by
  unfold State.openWrites; dsimp only; split
  · exact State.openAll_core s c q l
  · exact (State.copiedFirst_core _ c q l).trans (State.openAll_core s c q l)
@[simp] theorem State.openWrites_remote (c : CtxNo) (q : Word) (l : List Acc) : ((s.openWrites c q l).2).remote = s.remote := by
  unfold State.openWrites; dsimp only; split
  · exact State.openAll_remote s c q l
  · exact (State.copiedFirst_remote _ c q l).trans (State.openAll_remote s c q l)
@[simp] theorem State.openWrites_evt (c : CtxNo) (q : Word) (l : List Acc) : ((s.openWrites c q l).2).evt = s.evt := by
  unfold State.openWrites; dsimp only; split
  · exact State.openAll_evt s c q l
  · exact (State.copiedFirst_evt _ c q l).trans (State.openAll_evt s c q l)
@[simp] theorem State.openWrites_eng (c : CtxNo) (q : Word) (l : List Acc) : ((s.openWrites c q l).2).eng = s.eng := by
  unfold State.openWrites; dsimp only; split
  · exact State.openAll_eng s c q l
  · exact (State.copiedFirst_eng _ c q l).trans (State.openAll_eng s c q l)
@[simp] theorem State.openWrites_tick (c : CtxNo) (q : Word) (l : List Acc) : ((s.openWrites c q l).2).tick = s.tick := by
  unfold State.openWrites; dsimp only; split
  · exact State.openAll_tick s c q l
  · exact (State.copiedFirst_tick _ c q l).trans (State.openAll_tick s c q l)
@[simp] theorem State.openWrites_fmts (c : CtxNo) (q : Word) (l : List Acc) : ((s.openWrites c q l).2).fmts = s.fmts := by
  unfold State.openWrites; dsimp only; split
  · exact State.openAll_fmts s c q l
  · exact (State.copiedFirst_fmts _ c q l).trans (State.openAll_fmts s c q l)
@[simp] theorem State.openWrites_rts (c : CtxNo) (q : Word) (l : List Acc) : ((s.openWrites c q l).2).rts = s.rts := by
  unfold State.openWrites; dsimp only; split
  · exact State.openAll_rts s c q l
  · exact (State.copiedFirst_rts _ c q l).trans (State.openAll_rts s c q l)
@[simp] theorem State.openWrites_prio (c : CtxNo) (q : Word) (l : List Acc) : ((s.openWrites c q l).2).prio = s.prio := by
  unfold State.openWrites; dsimp only; split
  · exact State.openAll_prio s c q l
  · exact (State.copiedFirst_prio _ c q l).trans (State.openAll_prio s c q l)
@[simp] theorem State.openWrites_prioNext (c : CtxNo) (q : Word) (l : List Acc) : ((s.openWrites c q l).2).prioNext = s.prioNext := by
  unfold State.openWrites; dsimp only; split
  · exact State.openAll_prioNext s c q l
  · exact (State.copiedFirst_prioNext _ c q l).trans (State.openAll_prioNext s c q l)
@[simp] theorem State.openWrites_schedLast (c : CtxNo) (q : Word) (l : List Acc) : ((s.openWrites c q l).2).schedLast = s.schedLast := by
  unfold State.openWrites; dsimp only; split
  · exact State.openAll_schedLast s c q l
  · exact (State.copiedFirst_schedLast _ c q l).trans (State.openAll_schedLast s c q l)
@[simp] theorem State.openWrites_schedTurn (c : CtxNo) (q : Word) (l : List Acc) : ((s.openWrites c q l).2).schedTurn = s.schedTurn := by
  unfold State.openWrites; dsimp only; split
  · exact State.openAll_schedTurn s c q l
  · exact (State.copiedFirst_schedTurn _ c q l).trans (State.openAll_schedTurn s c q l)
@[simp] theorem State.openWrites_stallMap (c : CtxNo) (q : Word) (l : List Acc) : ((s.openWrites c q l).2).stallMap = s.stallMap := by
  unfold State.openWrites; dsimp only; split
  · exact State.openAll_stallMap s c q l
  · exact (State.copiedFirst_stallMap _ c q l).trans (State.openAll_stallMap s c q l)
@[simp] theorem State.openWrites_rampTab (c : CtxNo) (q : Word) (l : List Acc) : ((s.openWrites c q l).2).rampTab = s.rampTab := by
  unfold State.openWrites; dsimp only; split
  · exact State.openAll_rampTab s c q l
  · exact (State.copiedFirst_rampTab _ c q l).trans (State.openAll_rampTab s c q l)
@[simp] theorem State.openWrites_rampNext (c : CtxNo) (q : Word) (l : List Acc) : ((s.openWrites c q l).2).rampNext = s.rampNext := by
  unfold State.openWrites; dsimp only; split
  · exact State.openAll_rampNext s c q l
  · exact (State.copiedFirst_rampNext _ c q l).trans (State.openAll_rampNext s c q l)
@[simp] theorem State.openWrites_riskTab (c : CtxNo) (q : Word) (l : List Acc) : ((s.openWrites c q l).2).riskTab = s.riskTab := by
  unfold State.openWrites; dsimp only; split
  · exact State.openAll_riskTab s c q l
  · exact (State.copiedFirst_riskTab _ c q l).trans (State.openAll_riskTab s c q l)
@[simp] theorem State.openWrites_regions (c : CtxNo) (q : Word) (l : List Acc) : ((s.openWrites c q l).2).regions = s.regions := by
  unfold State.openWrites; dsimp only; split
  · exact State.openAll_regions s c q l
  · exact (State.copiedFirst_regions _ c q l).trans (State.openAll_regions s c q l)
@[simp] theorem State.openWrites_groups (c : CtxNo) (q : Word) (l : List Acc) : ((s.openWrites c q l).2).groups = s.groups := by
  unfold State.openWrites; dsimp only; split
  · exact State.openAll_groups s c q l
  · exact (State.copiedFirst_groups _ c q l).trans (State.openAll_groups s c q l)
@[simp] theorem State.openWrites_descs (c : CtxNo) (q : Word) (l : List Acc) : ((s.openWrites c q l).2).descs = s.descs := by
  unfold State.openWrites; dsimp only; split
  · exact State.openAll_descs s c q l
  · exact (State.copiedFirst_descs _ c q l).trans (State.openAll_descs s c q l)
@[simp] theorem State.openWrites_descGen (c : CtxNo) (q : Word) (l : List Acc) : ((s.openWrites c q l).2).descGen = s.descGen := by
  unfold State.openWrites; dsimp only; split
  · exact State.openAll_descGen s c q l
  · exact (State.copiedFirst_descGen _ c q l).trans (State.openAll_descGen s c q l)
@[simp] theorem State.openWrites_slots (c : CtxNo) (q : Word) (l : List Acc) : ((s.openWrites c q l).2).slots = s.slots := by
  unfold State.openWrites; dsimp only; split
  · exact State.openAll_slots s c q l
  · exact (State.copiedFirst_slots _ c q l).trans (State.openAll_slots s c q l)
@[simp] theorem State.openWrites_touch (c : CtxNo) (q : Word) (l : List Acc) : ((s.openWrites c q l).2).touch = s.touch := by
  unfold State.openWrites; dsimp only; split
  · exact State.openAll_touch s c q l
  · exact (State.copiedFirst_touch _ c q l).trans (State.openAll_touch s c q l)
@[simp] theorem State.openWrites_lane (c : CtxNo) (q : Word) (l : List Acc) : ((s.openWrites c q l).2).lane = s.lane := by
  unfold State.openWrites; dsimp only; split
  · exact State.openAll_lane s c q l
  · exact (State.copiedFirst_lane _ c q l).trans (State.openAll_lane s c q l)
@[simp] theorem State.openWrites_staging (c : CtxNo) (q : Word) (l : List Acc) : ((s.openWrites c q l).2).staging = s.staging := by
  unfold State.openWrites; dsimp only; split
  · exact State.openAll_staging s c q l
  · exact (State.copiedFirst_staging _ c q l).trans (State.openAll_staging s c q l)
@[simp] theorem State.openWrites_invals (c : CtxNo) (q : Word) (l : List Acc) : ((s.openWrites c q l).2).invals = s.invals := by
  unfold State.openWrites; dsimp only; split
  · exact State.openAll_invals s c q l
  · exact (State.copiedFirst_invals _ c q l).trans (State.openAll_invals s c q l)
@[simp] theorem State.openWrites_invalReq (c : CtxNo) (q : Word) (l : List Acc) : ((s.openWrites c q l).2).invalReq = s.invalReq := by
  unfold State.openWrites; dsimp only; split
  · exact State.openAll_invalReq s c q l
  · exact (State.copiedFirst_invalReq _ c q l).trans (State.openAll_invalReq s c q l)
@[simp] theorem State.openWrites_invalDone (c : CtxNo) (q : Word) (l : List Acc) : ((s.openWrites c q l).2).invalDone = s.invalDone := by
  unfold State.openWrites; dsimp only; split
  · exact State.openAll_invalDone s c q l
  · exact (State.copiedFirst_invalDone _ c q l).trans (State.openAll_invalDone s c q l)
@[simp] theorem State.openWrites_dovetail (c : CtxNo) (q : Word) (l : List Acc) : ((s.openWrites c q l).2).dovetail = s.dovetail := by
  unfold State.openWrites; dsimp only; split
  · exact State.openAll_dovetail s c q l
  · exact (State.copiedFirst_dovetail _ c q l).trans (State.openAll_dovetail s c q l)
@[simp] theorem State.openWrites_locks (c : CtxNo) (q : Word) (l : List Acc) : ((s.openWrites c q l).2).locks = s.locks := by
  unfold State.openWrites; dsimp only; split
  · exact State.openAll_locks s c q l
  · exact (State.copiedFirst_locks _ c q l).trans (State.openAll_locks s c q l)
@[simp] theorem State.openWrites_chains (c : CtxNo) (q : Word) (l : List Acc) : ((s.openWrites c q l).2).chains = s.chains := by
  unfold State.openWrites; dsimp only; split
  · exact State.openAll_chains s c q l
  · exact (State.copiedFirst_chains _ c q l).trans (State.openAll_chains s c q l)
@[simp] theorem State.openWrites_chainOut (c : CtxNo) (q : Word) (l : List Acc) : ((s.openWrites c q l).2).chainOut = s.chainOut := by
  unfold State.openWrites; dsimp only; split
  · exact State.openAll_chainOut s c q l
  · exact (State.copiedFirst_chainOut _ c q l).trans (State.openAll_chainOut s c q l)
@[simp] theorem State.openWrites_port (c : CtxNo) (q : Word) (l : List Acc) : ((s.openWrites c q l).2).port = s.port := by
  unfold State.openWrites; dsimp only; split
  · exact State.openAll_port s c q l
  · exact (State.copiedFirst_port _ c q l).trans (State.openAll_port s c q l)
@[simp] theorem State.openWrites_ckpt (c : CtxNo) (q : Word) (l : List Acc) : ((s.openWrites c q l).2).ckpt = s.ckpt := by
  unfold State.openWrites; dsimp only; split
  · exact State.openAll_ckpt s c q l
  · exact (State.copiedFirst_ckpt _ c q l).trans (State.openAll_ckpt s c q l)
@[simp] theorem State.openWrites_risk (c : CtxNo) (q : Word) (l : List Acc) : ((s.openWrites c q l).2).risk = s.risk := by
  unfold State.openWrites; dsimp only; split
  · exact State.openAll_risk s c q l
  · exact (State.copiedFirst_risk _ c q l).trans (State.openAll_risk s c q l)
@[simp] theorem State.openWrites_log (c : CtxNo) (q : Word) (l : List Acc) : ((s.openWrites c q l).2).log = s.log := by
  unfold State.openWrites; dsimp only; split
  · exact State.openAll_log s c q l
  · exact (State.copiedFirst_log _ c q l).trans (State.openAll_log s c q l)
@[simp] theorem State.openWrites_tel (c : CtxNo) (q : Word) (l : List Acc) : ((s.openWrites c q l).2).tel = s.tel := by
  unfold State.openWrites; dsimp only; split
  · exact State.openAll_tel s c q l
  · exact (State.copiedFirst_tel _ c q l).trans (State.openAll_tel s c q l)
@[simp] theorem State.openWrites_pow (c : CtxNo) (q : Word) (l : List Acc) : ((s.openWrites c q l).2).pow = s.pow := by
  unfold State.openWrites; dsimp only; split
  · exact State.openAll_pow s c q l
  · exact (State.copiedFirst_pow _ c q l).trans (State.openAll_pow s c q l)
@[simp] theorem State.openWrites_bist (c : CtxNo) (q : Word) (l : List Acc) : ((s.openWrites c q l).2).bist = s.bist := by
  unfold State.openWrites; dsimp only; split
  · exact State.openAll_bist s c q l
  · exact (State.copiedFirst_bist _ c q l).trans (State.openAll_bist s c q l)
@[simp] theorem State.openWrites_sec (c : CtxNo) (q : Word) (l : List Acc) : ((s.openWrites c q l).2).sec = s.sec := by
  unfold State.openWrites; dsimp only; split
  · exact State.openAll_sec s c q l
  · exact (State.copiedFirst_sec _ c q l).trans (State.openAll_sec s c q l)
@[simp] theorem State.openWrites_mgmt (c : CtxNo) (q : Word) (l : List Acc) : ((s.openWrites c q l).2).mgmt = s.mgmt := by
  unfold State.openWrites; dsimp only; split
  · exact State.openAll_mgmt s c q l
  · exact (State.copiedFirst_mgmt _ c q l).trans (State.openAll_mgmt s c q l)
@[simp] theorem State.openWrites_train (c : CtxNo) (q : Word) (l : List Acc) : ((s.openWrites c q l).2).train = s.train := by
  unfold State.openWrites; dsimp only; split
  · exact State.openAll_train s c q l
  · exact (State.copiedFirst_train _ c q l).trans (State.openAll_train s c q l)

@[simp] theorem State.issue_pending (c : CtxNo) (q : Word) (u : ReqUse) (l : List Acc) : (s.issue c q u l).pending = s.pending := rfl
@[simp] theorem State.issue_now (c : CtxNo) (q : Word) (u : ReqUse) (l : List Acc) : (s.issue c q u l).now = s.now := rfl
@[simp] theorem State.issue_free (c : CtxNo) (q : Word) (u : ReqUse) (l : List Acc) : (s.issue c q u l).free = s.free := rfl
@[simp] theorem State.issue_core (c : CtxNo) (q : Word) (u : ReqUse) (l : List Acc) : (s.issue c q u l).core = s.core := rfl
@[simp] theorem State.issue_remote (c : CtxNo) (q : Word) (u : ReqUse) (l : List Acc) : (s.issue c q u l).remote = s.remote := rfl
@[simp] theorem State.issue_evt (c : CtxNo) (q : Word) (u : ReqUse) (l : List Acc) : (s.issue c q u l).evt = s.evt := rfl
@[simp] theorem State.issue_eng (c : CtxNo) (q : Word) (u : ReqUse) (l : List Acc) : (s.issue c q u l).eng = s.eng := rfl
@[simp] theorem State.issue_tick (c : CtxNo) (q : Word) (u : ReqUse) (l : List Acc) : (s.issue c q u l).tick = s.tick := rfl
@[simp] theorem State.issue_ctxs (c : CtxNo) (q : Word) (u : ReqUse) (l : List Acc) : (s.issue c q u l).ctxs = s.ctxs := rfl
@[simp] theorem State.issue_fmts (c : CtxNo) (q : Word) (u : ReqUse) (l : List Acc) : (s.issue c q u l).fmts = s.fmts := rfl
@[simp] theorem State.issue_rts (c : CtxNo) (q : Word) (u : ReqUse) (l : List Acc) : (s.issue c q u l).rts = s.rts := rfl
@[simp] theorem State.issue_prio (c : CtxNo) (q : Word) (u : ReqUse) (l : List Acc) : (s.issue c q u l).prio = s.prio := rfl
@[simp] theorem State.issue_prioNext (c : CtxNo) (q : Word) (u : ReqUse) (l : List Acc) : (s.issue c q u l).prioNext = s.prioNext := rfl
@[simp] theorem State.issue_schedLast (c : CtxNo) (q : Word) (u : ReqUse) (l : List Acc) : (s.issue c q u l).schedLast = s.schedLast := rfl
@[simp] theorem State.issue_schedTurn (c : CtxNo) (q : Word) (u : ReqUse) (l : List Acc) : (s.issue c q u l).schedTurn = s.schedTurn := rfl
@[simp] theorem State.issue_stallMap (c : CtxNo) (q : Word) (u : ReqUse) (l : List Acc) : (s.issue c q u l).stallMap = s.stallMap := rfl
@[simp] theorem State.issue_rampTab (c : CtxNo) (q : Word) (u : ReqUse) (l : List Acc) : (s.issue c q u l).rampTab = s.rampTab := rfl
@[simp] theorem State.issue_rampNext (c : CtxNo) (q : Word) (u : ReqUse) (l : List Acc) : (s.issue c q u l).rampNext = s.rampNext := rfl
@[simp] theorem State.issue_riskTab (c : CtxNo) (q : Word) (u : ReqUse) (l : List Acc) : (s.issue c q u l).riskTab = s.riskTab := rfl
@[simp] theorem State.issue_regions (c : CtxNo) (q : Word) (u : ReqUse) (l : List Acc) : (s.issue c q u l).regions = s.regions := rfl
@[simp] theorem State.issue_groups (c : CtxNo) (q : Word) (u : ReqUse) (l : List Acc) : (s.issue c q u l).groups = s.groups := rfl
@[simp] theorem State.issue_descs (c : CtxNo) (q : Word) (u : ReqUse) (l : List Acc) : (s.issue c q u l).descs = s.descs := rfl
@[simp] theorem State.issue_descGen (c : CtxNo) (q : Word) (u : ReqUse) (l : List Acc) : (s.issue c q u l).descGen = s.descGen := rfl
@[simp] theorem State.issue_slots (c : CtxNo) (q : Word) (u : ReqUse) (l : List Acc) : (s.issue c q u l).slots = s.slots := rfl
@[simp] theorem State.issue_touch (c : CtxNo) (q : Word) (u : ReqUse) (l : List Acc) : (s.issue c q u l).touch = s.touch := rfl
@[simp] theorem State.issue_lane (c : CtxNo) (q : Word) (u : ReqUse) (l : List Acc) : (s.issue c q u l).lane = s.lane := rfl
@[simp] theorem State.issue_staging (c : CtxNo) (q : Word) (u : ReqUse) (l : List Acc) : (s.issue c q u l).staging = s.staging := rfl
@[simp] theorem State.issue_tlb (c : CtxNo) (q : Word) (u : ReqUse) (l : List Acc) : (s.issue c q u l).tlb = s.tlb := rfl
@[simp] theorem State.issue_walks (c : CtxNo) (q : Word) (u : ReqUse) (l : List Acc) : (s.issue c q u l).walks = s.walks := rfl
@[simp] theorem State.issue_invals (c : CtxNo) (q : Word) (u : ReqUse) (l : List Acc) : (s.issue c q u l).invals = s.invals := rfl
@[simp] theorem State.issue_invalReq (c : CtxNo) (q : Word) (u : ReqUse) (l : List Acc) : (s.issue c q u l).invalReq = s.invalReq := rfl
@[simp] theorem State.issue_invalDone (c : CtxNo) (q : Word) (u : ReqUse) (l : List Acc) : (s.issue c q u l).invalDone = s.invalDone := rfl
@[simp] theorem State.issue_waits (c : CtxNo) (q : Word) (u : ReqUse) (l : List Acc) : (s.issue c q u l).waits = s.waits := rfl
@[simp] theorem State.issue_dovetail (c : CtxNo) (q : Word) (u : ReqUse) (l : List Acc) : (s.issue c q u l).dovetail = s.dovetail := rfl
@[simp] theorem State.issue_locks (c : CtxNo) (q : Word) (u : ReqUse) (l : List Acc) : (s.issue c q u l).locks = s.locks := rfl
@[simp] theorem State.issue_chains (c : CtxNo) (q : Word) (u : ReqUse) (l : List Acc) : (s.issue c q u l).chains = s.chains := rfl
@[simp] theorem State.issue_chainOut (c : CtxNo) (q : Word) (u : ReqUse) (l : List Acc) : (s.issue c q u l).chainOut = s.chainOut := rfl
@[simp] theorem State.issue_port (c : CtxNo) (q : Word) (u : ReqUse) (l : List Acc) : (s.issue c q u l).port = s.port := rfl
@[simp] theorem State.issue_ckpt (c : CtxNo) (q : Word) (u : ReqUse) (l : List Acc) : (s.issue c q u l).ckpt = s.ckpt := rfl
@[simp] theorem State.issue_risk (c : CtxNo) (q : Word) (u : ReqUse) (l : List Acc) : (s.issue c q u l).risk = s.risk := rfl
@[simp] theorem State.issue_log (c : CtxNo) (q : Word) (u : ReqUse) (l : List Acc) : (s.issue c q u l).log = s.log := rfl
@[simp] theorem State.issue_tel (c : CtxNo) (q : Word) (u : ReqUse) (l : List Acc) : (s.issue c q u l).tel = s.tel := rfl
@[simp] theorem State.issue_pow (c : CtxNo) (q : Word) (u : ReqUse) (l : List Acc) : (s.issue c q u l).pow = s.pow := rfl
@[simp] theorem State.issue_bist (c : CtxNo) (q : Word) (u : ReqUse) (l : List Acc) : (s.issue c q u l).bist = s.bist := rfl
@[simp] theorem State.issue_sec (c : CtxNo) (q : Word) (u : ReqUse) (l : List Acc) : (s.issue c q u l).sec = s.sec := rfl
@[simp] theorem State.issue_mgmt (c : CtxNo) (q : Word) (u : ReqUse) (l : List Acc) : (s.issue c q u l).mgmt = s.mgmt := rfl
@[simp] theorem State.issue_train (c : CtxNo) (q : Word) (u : ReqUse) (l : List Acc) : (s.issue c q u l).train = s.train := rfl

@[simp] theorem State.endUnit_pending (c : CtxNo) (l : List Acc) : (s.endUnit c l).pending = s.pending := by
  unfold State.endUnit; dsimp only; rw [State.unpin_pending, State.countOob_pending]
  split <;> rfl
@[simp] theorem State.endUnit_now (c : CtxNo) (l : List Acc) : (s.endUnit c l).now = s.now := by
  unfold State.endUnit; dsimp only; rw [State.unpin_now, State.countOob_now]
  split <;> rfl
@[simp] theorem State.endUnit_free (c : CtxNo) (l : List Acc) : (s.endUnit c l).free = s.free := by
  unfold State.endUnit; dsimp only; rw [State.unpin_free, State.countOob_free]
  split <;> rfl
@[simp] theorem State.endUnit_core (c : CtxNo) (l : List Acc) : (s.endUnit c l).core = s.core := by
  unfold State.endUnit; dsimp only; rw [State.unpin_core, State.countOob_core]
  split <;> rfl
@[simp] theorem State.endUnit_remote (c : CtxNo) (l : List Acc) : (s.endUnit c l).remote = s.remote := by
  unfold State.endUnit; dsimp only; rw [State.unpin_remote, State.countOob_remote]
  split <;> rfl
@[simp] theorem State.endUnit_evt (c : CtxNo) (l : List Acc) : (s.endUnit c l).evt = s.evt := by
  unfold State.endUnit; dsimp only; rw [State.unpin_evt, State.countOob_evt]
  split <;> rfl
@[simp] theorem State.endUnit_eng (c : CtxNo) (l : List Acc) : (s.endUnit c l).eng = s.eng := by
  unfold State.endUnit; dsimp only; rw [State.unpin_eng, State.countOob_eng]
  split <;> rfl
@[simp] theorem State.endUnit_tick (c : CtxNo) (l : List Acc) : (s.endUnit c l).tick = s.tick := by
  unfold State.endUnit; dsimp only; rw [State.unpin_tick, State.countOob_tick]
  split <;> rfl
@[simp] theorem State.endUnit_fmts (c : CtxNo) (l : List Acc) : (s.endUnit c l).fmts = s.fmts := by
  unfold State.endUnit; dsimp only; rw [State.unpin_fmts, State.countOob_fmts]
  split <;> rfl
@[simp] theorem State.endUnit_rts (c : CtxNo) (l : List Acc) : (s.endUnit c l).rts = s.rts := by
  unfold State.endUnit; dsimp only; rw [State.unpin_rts, State.countOob_rts]
  split <;> rfl
@[simp] theorem State.endUnit_prio (c : CtxNo) (l : List Acc) : (s.endUnit c l).prio = s.prio := by
  unfold State.endUnit; dsimp only; rw [State.unpin_prio, State.countOob_prio]
  split <;> rfl
@[simp] theorem State.endUnit_prioNext (c : CtxNo) (l : List Acc) : (s.endUnit c l).prioNext = s.prioNext := by
  unfold State.endUnit; dsimp only; rw [State.unpin_prioNext, State.countOob_prioNext]
  split <;> rfl
@[simp] theorem State.endUnit_schedLast (c : CtxNo) (l : List Acc) : (s.endUnit c l).schedLast = s.schedLast := by
  unfold State.endUnit; dsimp only; rw [State.unpin_schedLast, State.countOob_schedLast]
  split <;> rfl
@[simp] theorem State.endUnit_schedTurn (c : CtxNo) (l : List Acc) : (s.endUnit c l).schedTurn = s.schedTurn := by
  unfold State.endUnit; dsimp only; rw [State.unpin_schedTurn, State.countOob_schedTurn]
  split <;> rfl
@[simp] theorem State.endUnit_stallMap (c : CtxNo) (l : List Acc) : (s.endUnit c l).stallMap = s.stallMap := by
  unfold State.endUnit; dsimp only; rw [State.unpin_stallMap, State.countOob_stallMap]
  split <;> rfl
@[simp] theorem State.endUnit_rampTab (c : CtxNo) (l : List Acc) : (s.endUnit c l).rampTab = s.rampTab := by
  unfold State.endUnit; dsimp only; rw [State.unpin_rampTab, State.countOob_rampTab]
  split <;> rfl
@[simp] theorem State.endUnit_rampNext (c : CtxNo) (l : List Acc) : (s.endUnit c l).rampNext = s.rampNext := by
  unfold State.endUnit; dsimp only; rw [State.unpin_rampNext, State.countOob_rampNext]
  split <;> rfl
@[simp] theorem State.endUnit_riskTab (c : CtxNo) (l : List Acc) : (s.endUnit c l).riskTab = s.riskTab := by
  unfold State.endUnit; dsimp only; rw [State.unpin_riskTab, State.countOob_riskTab]
  split <;> rfl
@[simp] theorem State.endUnit_regions (c : CtxNo) (l : List Acc) : (s.endUnit c l).regions = s.regions := by
  unfold State.endUnit; dsimp only; rw [State.unpin_regions, State.countOob_regions]
  split <;> rfl
@[simp] theorem State.endUnit_groups (c : CtxNo) (l : List Acc) : (s.endUnit c l).groups = s.groups := by
  unfold State.endUnit; dsimp only; rw [State.unpin_groups, State.countOob_groups]
  split <;> rfl
@[simp] theorem State.endUnit_descs (c : CtxNo) (l : List Acc) : (s.endUnit c l).descs = s.descs := by
  unfold State.endUnit; dsimp only; rw [State.unpin_descs, State.countOob_descs]
  split <;> rfl
@[simp] theorem State.endUnit_descGen (c : CtxNo) (l : List Acc) : (s.endUnit c l).descGen = s.descGen := by
  unfold State.endUnit; dsimp only; rw [State.unpin_descGen, State.countOob_descGen]
  split <;> rfl
@[simp] theorem State.endUnit_slots (c : CtxNo) (l : List Acc) : (s.endUnit c l).slots = s.slots := by
  unfold State.endUnit; dsimp only; rw [State.unpin_slots, State.countOob_slots]
  split <;> rfl
@[simp] theorem State.endUnit_touch (c : CtxNo) (l : List Acc) : (s.endUnit c l).touch = s.touch := by
  unfold State.endUnit; dsimp only; rw [State.unpin_touch, State.countOob_touch]
  split <;> rfl
@[simp] theorem State.endUnit_lane (c : CtxNo) (l : List Acc) : (s.endUnit c l).lane = s.lane := by
  unfold State.endUnit; dsimp only; rw [State.unpin_lane, State.countOob_lane]
  split <;> rfl
@[simp] theorem State.endUnit_staging (c : CtxNo) (l : List Acc) : (s.endUnit c l).staging = s.staging := by
  unfold State.endUnit; dsimp only; rw [State.unpin_staging, State.countOob_staging]
  split <;> rfl
@[simp] theorem State.endUnit_tlb (c : CtxNo) (l : List Acc) : (s.endUnit c l).tlb = s.tlb := by
  unfold State.endUnit; dsimp only; rw [State.unpin_tlb, State.countOob_tlb]
  split <;> rfl
@[simp] theorem State.endUnit_walks (c : CtxNo) (l : List Acc) : (s.endUnit c l).walks = s.walks := by
  unfold State.endUnit; dsimp only; rw [State.unpin_walks, State.countOob_walks]
  split <;> rfl
@[simp] theorem State.endUnit_invals (c : CtxNo) (l : List Acc) : (s.endUnit c l).invals = s.invals := by
  unfold State.endUnit; dsimp only; rw [State.unpin_invals, State.countOob_invals]
  split <;> rfl
@[simp] theorem State.endUnit_invalReq (c : CtxNo) (l : List Acc) : (s.endUnit c l).invalReq = s.invalReq := by
  unfold State.endUnit; dsimp only; rw [State.unpin_invalReq, State.countOob_invalReq]
  split <;> rfl
@[simp] theorem State.endUnit_invalDone (c : CtxNo) (l : List Acc) : (s.endUnit c l).invalDone = s.invalDone := by
  unfold State.endUnit; dsimp only; rw [State.unpin_invalDone, State.countOob_invalDone]
  split <;> rfl
@[simp] theorem State.endUnit_reqs (c : CtxNo) (l : List Acc) : (s.endUnit c l).reqs = s.reqs := by
  unfold State.endUnit; dsimp only; rw [State.unpin_reqs, State.countOob_reqs]
  split <;> rfl
@[simp] theorem State.endUnit_sent (c : CtxNo) (l : List Acc) : (s.endUnit c l).sent = s.sent := by
  unfold State.endUnit; dsimp only; rw [State.unpin_sent, State.countOob_sent]
  split <;> rfl
@[simp] theorem State.endUnit_waits (c : CtxNo) (l : List Acc) : (s.endUnit c l).waits = s.waits := by
  unfold State.endUnit; dsimp only; rw [State.unpin_waits, State.countOob_waits]
  split <;> rfl
@[simp] theorem State.endUnit_dovetail (c : CtxNo) (l : List Acc) : (s.endUnit c l).dovetail = s.dovetail := by
  unfold State.endUnit; dsimp only; rw [State.unpin_dovetail, State.countOob_dovetail]
  split <;> rfl
@[simp] theorem State.endUnit_locks (c : CtxNo) (l : List Acc) : (s.endUnit c l).locks = s.locks := by
  unfold State.endUnit; dsimp only; rw [State.unpin_locks, State.countOob_locks]
  split <;> rfl
@[simp] theorem State.endUnit_chains (c : CtxNo) (l : List Acc) : (s.endUnit c l).chains = s.chains := by
  unfold State.endUnit; dsimp only; rw [State.unpin_chains, State.countOob_chains]
  split <;> rfl
@[simp] theorem State.endUnit_chainOut (c : CtxNo) (l : List Acc) : (s.endUnit c l).chainOut = s.chainOut := by
  unfold State.endUnit; dsimp only; rw [State.unpin_chainOut, State.countOob_chainOut]
  split <;> rfl
@[simp] theorem State.endUnit_port (c : CtxNo) (l : List Acc) : (s.endUnit c l).port = s.port := by
  unfold State.endUnit; dsimp only; rw [State.unpin_port, State.countOob_port]
  split <;> rfl
@[simp] theorem State.endUnit_risk (c : CtxNo) (l : List Acc) : (s.endUnit c l).risk = s.risk := by
  unfold State.endUnit; dsimp only; rw [State.unpin_risk, State.countOob_risk]
  split <;> rfl
@[simp] theorem State.endUnit_log (c : CtxNo) (l : List Acc) : (s.endUnit c l).log = s.log := by
  unfold State.endUnit; dsimp only; rw [State.unpin_log, State.countOob_log]
  split <;> rfl
@[simp] theorem State.endUnit_tel (c : CtxNo) (l : List Acc) : (s.endUnit c l).tel = s.tel := by
  unfold State.endUnit; dsimp only; rw [State.unpin_tel, State.countOob_tel]
  split <;> rfl
@[simp] theorem State.endUnit_pow (c : CtxNo) (l : List Acc) : (s.endUnit c l).pow = s.pow := by
  unfold State.endUnit; dsimp only; rw [State.unpin_pow, State.countOob_pow]
  split <;> rfl
@[simp] theorem State.endUnit_bist (c : CtxNo) (l : List Acc) : (s.endUnit c l).bist = s.bist := by
  unfold State.endUnit; dsimp only; rw [State.unpin_bist, State.countOob_bist]
  split <;> rfl
@[simp] theorem State.endUnit_sec (c : CtxNo) (l : List Acc) : (s.endUnit c l).sec = s.sec := by
  unfold State.endUnit; dsimp only; rw [State.unpin_sec, State.countOob_sec]
  split <;> rfl
@[simp] theorem State.endUnit_mgmt (c : CtxNo) (l : List Acc) : (s.endUnit c l).mgmt = s.mgmt := by
  unfold State.endUnit; dsimp only; rw [State.unpin_mgmt, State.countOob_mgmt]
  split <;> rfl
@[simp] theorem State.endUnit_train (c : CtxNo) (l : List Acc) : (s.endUnit c l).train = s.train := by
  unfold State.endUnit; dsimp only; rw [State.unpin_train, State.countOob_train]
  split <;> rfl

@[simp] theorem State.closeUnit_pending (c : CtxNo) (q : Word) (l : List Acc) : (s.closeUnit c q l).pending = s.pending := (State.endUnit_pending _ c l).trans (State.issue_pending s c q _ l)
@[simp] theorem State.closeUnit_now (c : CtxNo) (q : Word) (l : List Acc) : (s.closeUnit c q l).now = s.now := (State.endUnit_now _ c l).trans (State.issue_now s c q _ l)
@[simp] theorem State.closeUnit_free (c : CtxNo) (q : Word) (l : List Acc) : (s.closeUnit c q l).free = s.free := (State.endUnit_free _ c l).trans (State.issue_free s c q _ l)
@[simp] theorem State.closeUnit_core (c : CtxNo) (q : Word) (l : List Acc) : (s.closeUnit c q l).core = s.core := (State.endUnit_core _ c l).trans (State.issue_core s c q _ l)
@[simp] theorem State.closeUnit_remote (c : CtxNo) (q : Word) (l : List Acc) : (s.closeUnit c q l).remote = s.remote := (State.endUnit_remote _ c l).trans (State.issue_remote s c q _ l)
@[simp] theorem State.closeUnit_evt (c : CtxNo) (q : Word) (l : List Acc) : (s.closeUnit c q l).evt = s.evt := (State.endUnit_evt _ c l).trans (State.issue_evt s c q _ l)
@[simp] theorem State.closeUnit_eng (c : CtxNo) (q : Word) (l : List Acc) : (s.closeUnit c q l).eng = s.eng := (State.endUnit_eng _ c l).trans (State.issue_eng s c q _ l)
@[simp] theorem State.closeUnit_tick (c : CtxNo) (q : Word) (l : List Acc) : (s.closeUnit c q l).tick = s.tick := (State.endUnit_tick _ c l).trans (State.issue_tick s c q _ l)
@[simp] theorem State.closeUnit_fmts (c : CtxNo) (q : Word) (l : List Acc) : (s.closeUnit c q l).fmts = s.fmts := (State.endUnit_fmts _ c l).trans (State.issue_fmts s c q _ l)
@[simp] theorem State.closeUnit_rts (c : CtxNo) (q : Word) (l : List Acc) : (s.closeUnit c q l).rts = s.rts := (State.endUnit_rts _ c l).trans (State.issue_rts s c q _ l)
@[simp] theorem State.closeUnit_prio (c : CtxNo) (q : Word) (l : List Acc) : (s.closeUnit c q l).prio = s.prio := (State.endUnit_prio _ c l).trans (State.issue_prio s c q _ l)
@[simp] theorem State.closeUnit_prioNext (c : CtxNo) (q : Word) (l : List Acc) : (s.closeUnit c q l).prioNext = s.prioNext := (State.endUnit_prioNext _ c l).trans (State.issue_prioNext s c q _ l)
@[simp] theorem State.closeUnit_schedLast (c : CtxNo) (q : Word) (l : List Acc) : (s.closeUnit c q l).schedLast = s.schedLast := (State.endUnit_schedLast _ c l).trans (State.issue_schedLast s c q _ l)
@[simp] theorem State.closeUnit_schedTurn (c : CtxNo) (q : Word) (l : List Acc) : (s.closeUnit c q l).schedTurn = s.schedTurn := (State.endUnit_schedTurn _ c l).trans (State.issue_schedTurn s c q _ l)
@[simp] theorem State.closeUnit_stallMap (c : CtxNo) (q : Word) (l : List Acc) : (s.closeUnit c q l).stallMap = s.stallMap := (State.endUnit_stallMap _ c l).trans (State.issue_stallMap s c q _ l)
@[simp] theorem State.closeUnit_rampTab (c : CtxNo) (q : Word) (l : List Acc) : (s.closeUnit c q l).rampTab = s.rampTab := (State.endUnit_rampTab _ c l).trans (State.issue_rampTab s c q _ l)
@[simp] theorem State.closeUnit_rampNext (c : CtxNo) (q : Word) (l : List Acc) : (s.closeUnit c q l).rampNext = s.rampNext := (State.endUnit_rampNext _ c l).trans (State.issue_rampNext s c q _ l)
@[simp] theorem State.closeUnit_riskTab (c : CtxNo) (q : Word) (l : List Acc) : (s.closeUnit c q l).riskTab = s.riskTab := (State.endUnit_riskTab _ c l).trans (State.issue_riskTab s c q _ l)
@[simp] theorem State.closeUnit_regions (c : CtxNo) (q : Word) (l : List Acc) : (s.closeUnit c q l).regions = s.regions := (State.endUnit_regions _ c l).trans (State.issue_regions s c q _ l)
@[simp] theorem State.closeUnit_groups (c : CtxNo) (q : Word) (l : List Acc) : (s.closeUnit c q l).groups = s.groups := (State.endUnit_groups _ c l).trans (State.issue_groups s c q _ l)
@[simp] theorem State.closeUnit_descs (c : CtxNo) (q : Word) (l : List Acc) : (s.closeUnit c q l).descs = s.descs := (State.endUnit_descs _ c l).trans (State.issue_descs s c q _ l)
@[simp] theorem State.closeUnit_descGen (c : CtxNo) (q : Word) (l : List Acc) : (s.closeUnit c q l).descGen = s.descGen := (State.endUnit_descGen _ c l).trans (State.issue_descGen s c q _ l)
@[simp] theorem State.closeUnit_slots (c : CtxNo) (q : Word) (l : List Acc) : (s.closeUnit c q l).slots = s.slots := (State.endUnit_slots _ c l).trans (State.issue_slots s c q _ l)
@[simp] theorem State.closeUnit_touch (c : CtxNo) (q : Word) (l : List Acc) : (s.closeUnit c q l).touch = s.touch := (State.endUnit_touch _ c l).trans (State.issue_touch s c q _ l)
@[simp] theorem State.closeUnit_lane (c : CtxNo) (q : Word) (l : List Acc) : (s.closeUnit c q l).lane = s.lane := (State.endUnit_lane _ c l).trans (State.issue_lane s c q _ l)
@[simp] theorem State.closeUnit_staging (c : CtxNo) (q : Word) (l : List Acc) : (s.closeUnit c q l).staging = s.staging := (State.endUnit_staging _ c l).trans (State.issue_staging s c q _ l)
@[simp] theorem State.closeUnit_tlb (c : CtxNo) (q : Word) (l : List Acc) : (s.closeUnit c q l).tlb = s.tlb := (State.endUnit_tlb _ c l).trans (State.issue_tlb s c q _ l)
@[simp] theorem State.closeUnit_walks (c : CtxNo) (q : Word) (l : List Acc) : (s.closeUnit c q l).walks = s.walks := (State.endUnit_walks _ c l).trans (State.issue_walks s c q _ l)
@[simp] theorem State.closeUnit_invals (c : CtxNo) (q : Word) (l : List Acc) : (s.closeUnit c q l).invals = s.invals := (State.endUnit_invals _ c l).trans (State.issue_invals s c q _ l)
@[simp] theorem State.closeUnit_invalReq (c : CtxNo) (q : Word) (l : List Acc) : (s.closeUnit c q l).invalReq = s.invalReq := (State.endUnit_invalReq _ c l).trans (State.issue_invalReq s c q _ l)
@[simp] theorem State.closeUnit_invalDone (c : CtxNo) (q : Word) (l : List Acc) : (s.closeUnit c q l).invalDone = s.invalDone := (State.endUnit_invalDone _ c l).trans (State.issue_invalDone s c q _ l)
@[simp] theorem State.closeUnit_waits (c : CtxNo) (q : Word) (l : List Acc) : (s.closeUnit c q l).waits = s.waits := (State.endUnit_waits _ c l).trans (State.issue_waits s c q _ l)
@[simp] theorem State.closeUnit_dovetail (c : CtxNo) (q : Word) (l : List Acc) : (s.closeUnit c q l).dovetail = s.dovetail := (State.endUnit_dovetail _ c l).trans (State.issue_dovetail s c q _ l)
@[simp] theorem State.closeUnit_locks (c : CtxNo) (q : Word) (l : List Acc) : (s.closeUnit c q l).locks = s.locks := (State.endUnit_locks _ c l).trans (State.issue_locks s c q _ l)
@[simp] theorem State.closeUnit_chains (c : CtxNo) (q : Word) (l : List Acc) : (s.closeUnit c q l).chains = s.chains := (State.endUnit_chains _ c l).trans (State.issue_chains s c q _ l)
@[simp] theorem State.closeUnit_chainOut (c : CtxNo) (q : Word) (l : List Acc) : (s.closeUnit c q l).chainOut = s.chainOut := (State.endUnit_chainOut _ c l).trans (State.issue_chainOut s c q _ l)
@[simp] theorem State.closeUnit_port (c : CtxNo) (q : Word) (l : List Acc) : (s.closeUnit c q l).port = s.port := (State.endUnit_port _ c l).trans (State.issue_port s c q _ l)
@[simp] theorem State.closeUnit_risk (c : CtxNo) (q : Word) (l : List Acc) : (s.closeUnit c q l).risk = s.risk := (State.endUnit_risk _ c l).trans (State.issue_risk s c q _ l)
@[simp] theorem State.closeUnit_log (c : CtxNo) (q : Word) (l : List Acc) : (s.closeUnit c q l).log = s.log := (State.endUnit_log _ c l).trans (State.issue_log s c q _ l)
@[simp] theorem State.closeUnit_tel (c : CtxNo) (q : Word) (l : List Acc) : (s.closeUnit c q l).tel = s.tel := (State.endUnit_tel _ c l).trans (State.issue_tel s c q _ l)
@[simp] theorem State.closeUnit_pow (c : CtxNo) (q : Word) (l : List Acc) : (s.closeUnit c q l).pow = s.pow := (State.endUnit_pow _ c l).trans (State.issue_pow s c q _ l)
@[simp] theorem State.closeUnit_bist (c : CtxNo) (q : Word) (l : List Acc) : (s.closeUnit c q l).bist = s.bist := (State.endUnit_bist _ c l).trans (State.issue_bist s c q _ l)
@[simp] theorem State.closeUnit_sec (c : CtxNo) (q : Word) (l : List Acc) : (s.closeUnit c q l).sec = s.sec := (State.endUnit_sec _ c l).trans (State.issue_sec s c q _ l)
@[simp] theorem State.closeUnit_mgmt (c : CtxNo) (q : Word) (l : List Acc) : (s.closeUnit c q l).mgmt = s.mgmt := (State.endUnit_mgmt _ c l).trans (State.issue_mgmt s c q _ l)
@[simp] theorem State.closeUnit_train (c : CtxNo) (q : Word) (l : List Acc) : (s.closeUnit c q l).train = s.train := (State.endUnit_train _ c l).trans (State.issue_train s c q _ l)

/-! ### The contexts' commands stay -/

@[simp] theorem State.ctx_issue (c : CtxNo) (q : Word) (u : ReqUse) (l : List Acc) (d : CtxNo) :
    (s.issue c q u l).ctx d = s.ctx d := rfl

@[simp] theorem State.cmds_acquire (c : CtxNo) (ns : List FaultRec) (d : CtxNo) : ((s.acquire c ns).2.ctx d).cmds = (s.ctx d).cmds := by
  have h : ∀ l, ((s.pin c l).ctx d).cmds = (s.ctx d).cmds := by
    intro l
    obtain ⟨f, e, k⟩ : ∃ f, (s.pin c l).ctxs = (s.modCtx c f).ctxs ∧ ∀ x, (f x).cmds = x.cmds :=
      ⟨fun x => { x with
          xlats :=
            (l.filterMap (fun n => (s.xlat c (pageOf n.vaddr)).map (fun x => (pageOf n.vaddr, x)))).foldl
              (fun l p => if l.any (fun q => q.1 == p.1) then l else l ++ [p]) (s.ctx c).xlats }, rfl, fun _ => rfl⟩
    have e1 : (s.pin c l).ctx d = (s.modCtx c f).ctx d := by simp only [State.ctx, e]
    rw [e1, State.ctx_modCtx]
    split
    · subst d; exact k _
    · rfl
  unfold State.acquire
  dsimp only
  split <;> exact h _

@[simp] theorem State.ctx_takeSlots (c : CtxNo) (q : Word) (u : ReqUse) (l : List Acc) (d : CtxNo) :
    (s.takeSlots c q u l).2.ctx d = s.ctx d := by
  simp only [State.ctx, State.takeSlots_ctxs]

@[simp] theorem State.ctx_takeRaw (c : CtxNo) (q : Word) (u : ReqUse) (l : List Req) (d : CtxNo) :
    (s.takeRaw c q u l).2.ctx d = s.ctx d := by
  simp only [State.ctx, State.takeRaw_ctxs]

@[simp] theorem State.cmds_openSome (c : CtxNo) (q : Word) (u : ReqUse) (l r : List Acc) (d : CtxNo) :
    ((s.openSome c q u l r).2.ctx d).cmds = (s.ctx d).cmds := by
  unfold State.openSome
  dsimp only
  split
  · exact State.cmds_acquire s c _ d
  · rw [State.ctx_takeSlots]; exact State.cmds_acquire s c _ d

@[simp] theorem State.cmds_openAll (c : CtxNo) (q : Word) (l : List Acc) (d : CtxNo) : ((s.openAll c q l).2.ctx d).cmds = (s.ctx d).cmds :=
  State.cmds_openSome s c q _ l l d

@[simp] theorem State.cmds_copiedFirst (c : CtxNo) (q : Word) (l : List Acc) (d : CtxNo) :
    ((s.copiedFirst c q l).2.ctx d).cmds = (s.ctx d).cmds := by
  unfold State.copiedFirst
  split
  · rw [State.ctx_modCtx]
    split
    · subst d; rfl
    · rfl
  · rfl

@[simp] theorem State.cmds_openWrites (c : CtxNo) (q : Word) (l : List Acc) (d : CtxNo) :
    ((s.openWrites c q l).2.ctx d).cmds = (s.ctx d).cmds := by
  unfold State.openWrites
  dsimp only
  split
  · exact State.cmds_openAll s c q l d
  · exact (State.cmds_copiedFirst _ c q l d).trans (State.cmds_openAll s c q l d)

@[simp] theorem State.cmds_endUnit (c : CtxNo) (l : List Acc) (d : CtxNo) : ((s.endUnit c l).ctx d).cmds = (s.ctx d).cmds := by
  unfold State.endUnit
  dsimp only
  rw [State.cmds_unpin, State.cmds_countOob]
  split
  · rfl
  · rw [State.ctx_modCtx]
    split
    · subst d; rfl
    · rfl

@[simp] theorem State.cmds_closeUnit (c : CtxNo) (q : Word) (l : List Acc) (d : CtxNo) :
    ((s.closeUnit c q l).ctx d).cmds = (s.ctx d).cmds := State.cmds_endUnit _ c l d

end Sys2Proof.Machine
end

