-- ==== Sys2Proof/Laws/Frames.lean ====
section
/-! SUPPORT. What the shared operations over memory, the completion ring, events and the error log leave alone: one lemma for each
field and operation. -/

-- One after another: checked at once, the proofs would ask for too much memory.
set_option Elab.async false

namespace Sys2Proof.Machine

variable (s : State)

@[simp] theorem State.pokeAt_pending (p : Bool × Nat) (b : Byte) : (s.pokeAt p b).pending = s.pending := by unfold State.pokeAt; split <;> rfl
@[simp] theorem State.pokeAt_now (p : Bool × Nat) (b : Byte) : (s.pokeAt p b).now = s.now := by unfold State.pokeAt; split <;> rfl
@[simp] theorem State.pokeAt_free (p : Bool × Nat) (b : Byte) : (s.pokeAt p b).free = s.free := by unfold State.pokeAt; split <;> rfl
@[simp] theorem State.pokeAt_evt (p : Bool × Nat) (b : Byte) : (s.pokeAt p b).evt = s.evt := by unfold State.pokeAt; split <;> rfl
@[simp] theorem State.pokeAt_eng (p : Bool × Nat) (b : Byte) : (s.pokeAt p b).eng = s.eng := by unfold State.pokeAt; split <;> rfl
@[simp] theorem State.pokeAt_tick (p : Bool × Nat) (b : Byte) : (s.pokeAt p b).tick = s.tick := by unfold State.pokeAt; split <;> rfl
@[simp] theorem State.pokeAt_ctxs (p : Bool × Nat) (b : Byte) : (s.pokeAt p b).ctxs = s.ctxs := by unfold State.pokeAt; split <;> rfl
@[simp] theorem State.pokeAt_fmts (p : Bool × Nat) (b : Byte) : (s.pokeAt p b).fmts = s.fmts := by unfold State.pokeAt; split <;> rfl
@[simp] theorem State.pokeAt_rts (p : Bool × Nat) (b : Byte) : (s.pokeAt p b).rts = s.rts := by unfold State.pokeAt; split <;> rfl
@[simp] theorem State.pokeAt_prio (p : Bool × Nat) (b : Byte) : (s.pokeAt p b).prio = s.prio := by unfold State.pokeAt; split <;> rfl
@[simp] theorem State.pokeAt_prioNext (p : Bool × Nat) (b : Byte) : (s.pokeAt p b).prioNext = s.prioNext := by unfold State.pokeAt; split <;> rfl
@[simp] theorem State.pokeAt_schedLast (p : Bool × Nat) (b : Byte) : (s.pokeAt p b).schedLast = s.schedLast := by unfold State.pokeAt; split <;> rfl
@[simp] theorem State.pokeAt_schedTurn (p : Bool × Nat) (b : Byte) : (s.pokeAt p b).schedTurn = s.schedTurn := by unfold State.pokeAt; split <;> rfl
@[simp] theorem State.pokeAt_stallMap (p : Bool × Nat) (b : Byte) : (s.pokeAt p b).stallMap = s.stallMap := by unfold State.pokeAt; split <;> rfl
@[simp] theorem State.pokeAt_rampTab (p : Bool × Nat) (b : Byte) : (s.pokeAt p b).rampTab = s.rampTab := by unfold State.pokeAt; split <;> rfl
@[simp] theorem State.pokeAt_rampNext (p : Bool × Nat) (b : Byte) : (s.pokeAt p b).rampNext = s.rampNext := by unfold State.pokeAt; split <;> rfl
@[simp] theorem State.pokeAt_riskTab (p : Bool × Nat) (b : Byte) : (s.pokeAt p b).riskTab = s.riskTab := by unfold State.pokeAt; split <;> rfl
@[simp] theorem State.pokeAt_regions (p : Bool × Nat) (b : Byte) : (s.pokeAt p b).regions = s.regions := by unfold State.pokeAt; split <;> rfl
@[simp] theorem State.pokeAt_groups (p : Bool × Nat) (b : Byte) : (s.pokeAt p b).groups = s.groups := by unfold State.pokeAt; split <;> rfl
@[simp] theorem State.pokeAt_descs (p : Bool × Nat) (b : Byte) : (s.pokeAt p b).descs = s.descs := by unfold State.pokeAt; split <;> rfl
@[simp] theorem State.pokeAt_descGen (p : Bool × Nat) (b : Byte) : (s.pokeAt p b).descGen = s.descGen := by unfold State.pokeAt; split <;> rfl
@[simp] theorem State.pokeAt_slots (p : Bool × Nat) (b : Byte) : (s.pokeAt p b).slots = s.slots := by unfold State.pokeAt; split <;> rfl
@[simp] theorem State.pokeAt_touch (p : Bool × Nat) (b : Byte) : (s.pokeAt p b).touch = s.touch := by unfold State.pokeAt; split <;> rfl
@[simp] theorem State.pokeAt_lane (p : Bool × Nat) (b : Byte) : (s.pokeAt p b).lane = s.lane := by unfold State.pokeAt; split <;> rfl
@[simp] theorem State.pokeAt_staging (p : Bool × Nat) (b : Byte) : (s.pokeAt p b).staging = s.staging := by unfold State.pokeAt; split <;> rfl
@[simp] theorem State.pokeAt_tlb (p : Bool × Nat) (b : Byte) : (s.pokeAt p b).tlb = s.tlb := by unfold State.pokeAt; split <;> rfl
@[simp] theorem State.pokeAt_walks (p : Bool × Nat) (b : Byte) : (s.pokeAt p b).walks = s.walks := by unfold State.pokeAt; split <;> rfl
@[simp] theorem State.pokeAt_invals (p : Bool × Nat) (b : Byte) : (s.pokeAt p b).invals = s.invals := by unfold State.pokeAt; split <;> rfl
@[simp] theorem State.pokeAt_invalReq (p : Bool × Nat) (b : Byte) : (s.pokeAt p b).invalReq = s.invalReq := by unfold State.pokeAt; split <;> rfl
@[simp] theorem State.pokeAt_invalDone (p : Bool × Nat) (b : Byte) : (s.pokeAt p b).invalDone = s.invalDone := by unfold State.pokeAt; split <;> rfl
@[simp] theorem State.pokeAt_reqs (p : Bool × Nat) (b : Byte) : (s.pokeAt p b).reqs = s.reqs := by unfold State.pokeAt; split <;> rfl
@[simp] theorem State.pokeAt_sent (p : Bool × Nat) (b : Byte) : (s.pokeAt p b).sent = s.sent := by unfold State.pokeAt; split <;> rfl
@[simp] theorem State.pokeAt_waits (p : Bool × Nat) (b : Byte) : (s.pokeAt p b).waits = s.waits := by unfold State.pokeAt; split <;> rfl
@[simp] theorem State.pokeAt_dovetail (p : Bool × Nat) (b : Byte) : (s.pokeAt p b).dovetail = s.dovetail := by unfold State.pokeAt; split <;> rfl
@[simp] theorem State.pokeAt_locks (p : Bool × Nat) (b : Byte) : (s.pokeAt p b).locks = s.locks := by unfold State.pokeAt; split <;> rfl
@[simp] theorem State.pokeAt_chains (p : Bool × Nat) (b : Byte) : (s.pokeAt p b).chains = s.chains := by unfold State.pokeAt; split <;> rfl
@[simp] theorem State.pokeAt_chainOut (p : Bool × Nat) (b : Byte) : (s.pokeAt p b).chainOut = s.chainOut := by unfold State.pokeAt; split <;> rfl
@[simp] theorem State.pokeAt_port (p : Bool × Nat) (b : Byte) : (s.pokeAt p b).port = s.port := by unfold State.pokeAt; split <;> rfl
@[simp] theorem State.pokeAt_ckpt (p : Bool × Nat) (b : Byte) : (s.pokeAt p b).ckpt = s.ckpt := by unfold State.pokeAt; split <;> rfl
@[simp] theorem State.pokeAt_risk (p : Bool × Nat) (b : Byte) : (s.pokeAt p b).risk = s.risk := by unfold State.pokeAt; split <;> rfl
@[simp] theorem State.pokeAt_log (p : Bool × Nat) (b : Byte) : (s.pokeAt p b).log = s.log := by unfold State.pokeAt; split <;> rfl
@[simp] theorem State.pokeAt_tel (p : Bool × Nat) (b : Byte) : (s.pokeAt p b).tel = s.tel := by unfold State.pokeAt; split <;> rfl
@[simp] theorem State.pokeAt_pow (p : Bool × Nat) (b : Byte) : (s.pokeAt p b).pow = s.pow := by unfold State.pokeAt; split <;> rfl
@[simp] theorem State.pokeAt_bist (p : Bool × Nat) (b : Byte) : (s.pokeAt p b).bist = s.bist := by unfold State.pokeAt; split <;> rfl
@[simp] theorem State.pokeAt_sec (p : Bool × Nat) (b : Byte) : (s.pokeAt p b).sec = s.sec := by unfold State.pokeAt; split <;> rfl
@[simp] theorem State.pokeAt_mgmt (p : Bool × Nat) (b : Byte) : (s.pokeAt p b).mgmt = s.mgmt := by unfold State.pokeAt; split <;> rfl
@[simp] theorem State.pokeAt_train (p : Bool × Nat) (b : Byte) : (s.pokeAt p b).train = s.train := by unfold State.pokeAt; split <;> rfl

@[simp] theorem State.poke_pending (c : CtxNo) (va : Nat) (b : Byte) : (s.poke c va b).pending = s.pending := by
  unfold State.poke; split
  · exact State.pokeAt_pending s _ b
  · rfl
@[simp] theorem State.poke_now (c : CtxNo) (va : Nat) (b : Byte) : (s.poke c va b).now = s.now := by
  unfold State.poke; split
  · exact State.pokeAt_now s _ b
  · rfl
@[simp] theorem State.poke_free (c : CtxNo) (va : Nat) (b : Byte) : (s.poke c va b).free = s.free := by
  unfold State.poke; split
  · exact State.pokeAt_free s _ b
  · rfl
@[simp] theorem State.poke_evt (c : CtxNo) (va : Nat) (b : Byte) : (s.poke c va b).evt = s.evt := by
  unfold State.poke; split
  · exact State.pokeAt_evt s _ b
  · rfl
@[simp] theorem State.poke_eng (c : CtxNo) (va : Nat) (b : Byte) : (s.poke c va b).eng = s.eng := by
  unfold State.poke; split
  · exact State.pokeAt_eng s _ b
  · rfl
@[simp] theorem State.poke_tick (c : CtxNo) (va : Nat) (b : Byte) : (s.poke c va b).tick = s.tick := by
  unfold State.poke; split
  · exact State.pokeAt_tick s _ b
  · rfl
@[simp] theorem State.poke_ctxs (c : CtxNo) (va : Nat) (b : Byte) : (s.poke c va b).ctxs = s.ctxs := by
  unfold State.poke; split
  · exact State.pokeAt_ctxs s _ b
  · rfl
@[simp] theorem State.poke_fmts (c : CtxNo) (va : Nat) (b : Byte) : (s.poke c va b).fmts = s.fmts := by
  unfold State.poke; split
  · exact State.pokeAt_fmts s _ b
  · rfl
@[simp] theorem State.poke_rts (c : CtxNo) (va : Nat) (b : Byte) : (s.poke c va b).rts = s.rts := by
  unfold State.poke; split
  · exact State.pokeAt_rts s _ b
  · rfl
@[simp] theorem State.poke_prio (c : CtxNo) (va : Nat) (b : Byte) : (s.poke c va b).prio = s.prio := by
  unfold State.poke; split
  · exact State.pokeAt_prio s _ b
  · rfl
@[simp] theorem State.poke_prioNext (c : CtxNo) (va : Nat) (b : Byte) : (s.poke c va b).prioNext = s.prioNext := by
  unfold State.poke; split
  · exact State.pokeAt_prioNext s _ b
  · rfl
@[simp] theorem State.poke_schedLast (c : CtxNo) (va : Nat) (b : Byte) : (s.poke c va b).schedLast = s.schedLast := by
  unfold State.poke; split
  · exact State.pokeAt_schedLast s _ b
  · rfl
@[simp] theorem State.poke_schedTurn (c : CtxNo) (va : Nat) (b : Byte) : (s.poke c va b).schedTurn = s.schedTurn := by
  unfold State.poke; split
  · exact State.pokeAt_schedTurn s _ b
  · rfl
@[simp] theorem State.poke_stallMap (c : CtxNo) (va : Nat) (b : Byte) : (s.poke c va b).stallMap = s.stallMap := by
  unfold State.poke; split
  · exact State.pokeAt_stallMap s _ b
  · rfl
@[simp] theorem State.poke_rampTab (c : CtxNo) (va : Nat) (b : Byte) : (s.poke c va b).rampTab = s.rampTab := by
  unfold State.poke; split
  · exact State.pokeAt_rampTab s _ b
  · rfl
@[simp] theorem State.poke_rampNext (c : CtxNo) (va : Nat) (b : Byte) : (s.poke c va b).rampNext = s.rampNext := by
  unfold State.poke; split
  · exact State.pokeAt_rampNext s _ b
  · rfl
@[simp] theorem State.poke_riskTab (c : CtxNo) (va : Nat) (b : Byte) : (s.poke c va b).riskTab = s.riskTab := by
  unfold State.poke; split
  · exact State.pokeAt_riskTab s _ b
  · rfl
@[simp] theorem State.poke_regions (c : CtxNo) (va : Nat) (b : Byte) : (s.poke c va b).regions = s.regions := by
  unfold State.poke; split
  · exact State.pokeAt_regions s _ b
  · rfl
@[simp] theorem State.poke_groups (c : CtxNo) (va : Nat) (b : Byte) : (s.poke c va b).groups = s.groups := by
  unfold State.poke; split
  · exact State.pokeAt_groups s _ b
  · rfl
@[simp] theorem State.poke_descs (c : CtxNo) (va : Nat) (b : Byte) : (s.poke c va b).descs = s.descs := by
  unfold State.poke; split
  · exact State.pokeAt_descs s _ b
  · rfl
@[simp] theorem State.poke_descGen (c : CtxNo) (va : Nat) (b : Byte) : (s.poke c va b).descGen = s.descGen := by
  unfold State.poke; split
  · exact State.pokeAt_descGen s _ b
  · rfl
@[simp] theorem State.poke_slots (c : CtxNo) (va : Nat) (b : Byte) : (s.poke c va b).slots = s.slots := by
  unfold State.poke; split
  · exact State.pokeAt_slots s _ b
  · rfl
@[simp] theorem State.poke_touch (c : CtxNo) (va : Nat) (b : Byte) : (s.poke c va b).touch = s.touch := by
  unfold State.poke; split
  · exact State.pokeAt_touch s _ b
  · rfl
@[simp] theorem State.poke_lane (c : CtxNo) (va : Nat) (b : Byte) : (s.poke c va b).lane = s.lane := by
  unfold State.poke; split
  · exact State.pokeAt_lane s _ b
  · rfl
@[simp] theorem State.poke_staging (c : CtxNo) (va : Nat) (b : Byte) : (s.poke c va b).staging = s.staging := by
  unfold State.poke; split
  · exact State.pokeAt_staging s _ b
  · rfl
@[simp] theorem State.poke_tlb (c : CtxNo) (va : Nat) (b : Byte) : (s.poke c va b).tlb = s.tlb := by
  unfold State.poke; split
  · exact State.pokeAt_tlb s _ b
  · rfl
@[simp] theorem State.poke_walks (c : CtxNo) (va : Nat) (b : Byte) : (s.poke c va b).walks = s.walks := by
  unfold State.poke; split
  · exact State.pokeAt_walks s _ b
  · rfl
@[simp] theorem State.poke_invals (c : CtxNo) (va : Nat) (b : Byte) : (s.poke c va b).invals = s.invals := by
  unfold State.poke; split
  · exact State.pokeAt_invals s _ b
  · rfl
@[simp] theorem State.poke_invalReq (c : CtxNo) (va : Nat) (b : Byte) : (s.poke c va b).invalReq = s.invalReq := by
  unfold State.poke; split
  · exact State.pokeAt_invalReq s _ b
  · rfl
@[simp] theorem State.poke_invalDone (c : CtxNo) (va : Nat) (b : Byte) : (s.poke c va b).invalDone = s.invalDone := by
  unfold State.poke; split
  · exact State.pokeAt_invalDone s _ b
  · rfl
@[simp] theorem State.poke_reqs (c : CtxNo) (va : Nat) (b : Byte) : (s.poke c va b).reqs = s.reqs := by
  unfold State.poke; split
  · exact State.pokeAt_reqs s _ b
  · rfl
@[simp] theorem State.poke_sent (c : CtxNo) (va : Nat) (b : Byte) : (s.poke c va b).sent = s.sent := by
  unfold State.poke; split
  · exact State.pokeAt_sent s _ b
  · rfl
@[simp] theorem State.poke_waits (c : CtxNo) (va : Nat) (b : Byte) : (s.poke c va b).waits = s.waits := by
  unfold State.poke; split
  · exact State.pokeAt_waits s _ b
  · rfl
@[simp] theorem State.poke_dovetail (c : CtxNo) (va : Nat) (b : Byte) : (s.poke c va b).dovetail = s.dovetail := by
  unfold State.poke; split
  · exact State.pokeAt_dovetail s _ b
  · rfl
@[simp] theorem State.poke_locks (c : CtxNo) (va : Nat) (b : Byte) : (s.poke c va b).locks = s.locks := by
  unfold State.poke; split
  · exact State.pokeAt_locks s _ b
  · rfl
@[simp] theorem State.poke_chains (c : CtxNo) (va : Nat) (b : Byte) : (s.poke c va b).chains = s.chains := by
  unfold State.poke; split
  · exact State.pokeAt_chains s _ b
  · rfl
@[simp] theorem State.poke_chainOut (c : CtxNo) (va : Nat) (b : Byte) : (s.poke c va b).chainOut = s.chainOut := by
  unfold State.poke; split
  · exact State.pokeAt_chainOut s _ b
  · rfl
@[simp] theorem State.poke_port (c : CtxNo) (va : Nat) (b : Byte) : (s.poke c va b).port = s.port := by
  unfold State.poke; split
  · exact State.pokeAt_port s _ b
  · rfl
@[simp] theorem State.poke_ckpt (c : CtxNo) (va : Nat) (b : Byte) : (s.poke c va b).ckpt = s.ckpt := by
  unfold State.poke; split
  · exact State.pokeAt_ckpt s _ b
  · rfl
@[simp] theorem State.poke_risk (c : CtxNo) (va : Nat) (b : Byte) : (s.poke c va b).risk = s.risk := by
  unfold State.poke; split
  · exact State.pokeAt_risk s _ b
  · rfl
@[simp] theorem State.poke_log (c : CtxNo) (va : Nat) (b : Byte) : (s.poke c va b).log = s.log := by
  unfold State.poke; split
  · exact State.pokeAt_log s _ b
  · rfl
@[simp] theorem State.poke_tel (c : CtxNo) (va : Nat) (b : Byte) : (s.poke c va b).tel = s.tel := by
  unfold State.poke; split
  · exact State.pokeAt_tel s _ b
  · rfl
@[simp] theorem State.poke_pow (c : CtxNo) (va : Nat) (b : Byte) : (s.poke c va b).pow = s.pow := by
  unfold State.poke; split
  · exact State.pokeAt_pow s _ b
  · rfl
@[simp] theorem State.poke_bist (c : CtxNo) (va : Nat) (b : Byte) : (s.poke c va b).bist = s.bist := by
  unfold State.poke; split
  · exact State.pokeAt_bist s _ b
  · rfl
@[simp] theorem State.poke_sec (c : CtxNo) (va : Nat) (b : Byte) : (s.poke c va b).sec = s.sec := by
  unfold State.poke; split
  · exact State.pokeAt_sec s _ b
  · rfl
@[simp] theorem State.poke_mgmt (c : CtxNo) (va : Nat) (b : Byte) : (s.poke c va b).mgmt = s.mgmt := by
  unfold State.poke; split
  · exact State.pokeAt_mgmt s _ b
  · rfl
@[simp] theorem State.poke_train (c : CtxNo) (va : Nat) (b : Byte) : (s.poke c va b).train = s.train := by
  unfold State.poke; split
  · exact State.pokeAt_train s _ b
  · rfl

@[simp] theorem State.pokeN_pending (c : CtxNo) (va : Nat) (l : List Byte) : (s.pokeN c va l).pending = s.pending := by
  induction l generalizing s va with
  | nil => rfl
  | cons b t ih => exact (ih (s.poke c va b) (va + 1)).trans (State.poke_pending s c va b)
@[simp] theorem State.pokeN_now (c : CtxNo) (va : Nat) (l : List Byte) : (s.pokeN c va l).now = s.now := by
  induction l generalizing s va with
  | nil => rfl
  | cons b t ih => exact (ih (s.poke c va b) (va + 1)).trans (State.poke_now s c va b)
@[simp] theorem State.pokeN_free (c : CtxNo) (va : Nat) (l : List Byte) : (s.pokeN c va l).free = s.free := by
  induction l generalizing s va with
  | nil => rfl
  | cons b t ih => exact (ih (s.poke c va b) (va + 1)).trans (State.poke_free s c va b)
@[simp] theorem State.pokeN_evt (c : CtxNo) (va : Nat) (l : List Byte) : (s.pokeN c va l).evt = s.evt := by
  induction l generalizing s va with
  | nil => rfl
  | cons b t ih => exact (ih (s.poke c va b) (va + 1)).trans (State.poke_evt s c va b)
@[simp] theorem State.pokeN_eng (c : CtxNo) (va : Nat) (l : List Byte) : (s.pokeN c va l).eng = s.eng := by
  induction l generalizing s va with
  | nil => rfl
  | cons b t ih => exact (ih (s.poke c va b) (va + 1)).trans (State.poke_eng s c va b)
@[simp] theorem State.pokeN_tick (c : CtxNo) (va : Nat) (l : List Byte) : (s.pokeN c va l).tick = s.tick := by
  induction l generalizing s va with
  | nil => rfl
  | cons b t ih => exact (ih (s.poke c va b) (va + 1)).trans (State.poke_tick s c va b)
@[simp] theorem State.pokeN_ctxs (c : CtxNo) (va : Nat) (l : List Byte) : (s.pokeN c va l).ctxs = s.ctxs := by
  induction l generalizing s va with
  | nil => rfl
  | cons b t ih => exact (ih (s.poke c va b) (va + 1)).trans (State.poke_ctxs s c va b)
@[simp] theorem State.pokeN_fmts (c : CtxNo) (va : Nat) (l : List Byte) : (s.pokeN c va l).fmts = s.fmts := by
  induction l generalizing s va with
  | nil => rfl
  | cons b t ih => exact (ih (s.poke c va b) (va + 1)).trans (State.poke_fmts s c va b)
@[simp] theorem State.pokeN_rts (c : CtxNo) (va : Nat) (l : List Byte) : (s.pokeN c va l).rts = s.rts := by
  induction l generalizing s va with
  | nil => rfl
  | cons b t ih => exact (ih (s.poke c va b) (va + 1)).trans (State.poke_rts s c va b)
@[simp] theorem State.pokeN_prio (c : CtxNo) (va : Nat) (l : List Byte) : (s.pokeN c va l).prio = s.prio := by
  induction l generalizing s va with
  | nil => rfl
  | cons b t ih => exact (ih (s.poke c va b) (va + 1)).trans (State.poke_prio s c va b)
@[simp] theorem State.pokeN_prioNext (c : CtxNo) (va : Nat) (l : List Byte) : (s.pokeN c va l).prioNext = s.prioNext := by
  induction l generalizing s va with
  | nil => rfl
  | cons b t ih => exact (ih (s.poke c va b) (va + 1)).trans (State.poke_prioNext s c va b)
@[simp] theorem State.pokeN_schedLast (c : CtxNo) (va : Nat) (l : List Byte) : (s.pokeN c va l).schedLast = s.schedLast := by
  induction l generalizing s va with
  | nil => rfl
  | cons b t ih => exact (ih (s.poke c va b) (va + 1)).trans (State.poke_schedLast s c va b)
@[simp] theorem State.pokeN_schedTurn (c : CtxNo) (va : Nat) (l : List Byte) : (s.pokeN c va l).schedTurn = s.schedTurn := by
  induction l generalizing s va with
  | nil => rfl
  | cons b t ih => exact (ih (s.poke c va b) (va + 1)).trans (State.poke_schedTurn s c va b)
@[simp] theorem State.pokeN_stallMap (c : CtxNo) (va : Nat) (l : List Byte) : (s.pokeN c va l).stallMap = s.stallMap := by
  induction l generalizing s va with
  | nil => rfl
  | cons b t ih => exact (ih (s.poke c va b) (va + 1)).trans (State.poke_stallMap s c va b)
@[simp] theorem State.pokeN_rampTab (c : CtxNo) (va : Nat) (l : List Byte) : (s.pokeN c va l).rampTab = s.rampTab := by
  induction l generalizing s va with
  | nil => rfl
  | cons b t ih => exact (ih (s.poke c va b) (va + 1)).trans (State.poke_rampTab s c va b)
@[simp] theorem State.pokeN_rampNext (c : CtxNo) (va : Nat) (l : List Byte) : (s.pokeN c va l).rampNext = s.rampNext := by
  induction l generalizing s va with
  | nil => rfl
  | cons b t ih => exact (ih (s.poke c va b) (va + 1)).trans (State.poke_rampNext s c va b)
@[simp] theorem State.pokeN_riskTab (c : CtxNo) (va : Nat) (l : List Byte) : (s.pokeN c va l).riskTab = s.riskTab := by
  induction l generalizing s va with
  | nil => rfl
  | cons b t ih => exact (ih (s.poke c va b) (va + 1)).trans (State.poke_riskTab s c va b)
@[simp] theorem State.pokeN_regions (c : CtxNo) (va : Nat) (l : List Byte) : (s.pokeN c va l).regions = s.regions := by
  induction l generalizing s va with
  | nil => rfl
  | cons b t ih => exact (ih (s.poke c va b) (va + 1)).trans (State.poke_regions s c va b)
@[simp] theorem State.pokeN_groups (c : CtxNo) (va : Nat) (l : List Byte) : (s.pokeN c va l).groups = s.groups := by
  induction l generalizing s va with
  | nil => rfl
  | cons b t ih => exact (ih (s.poke c va b) (va + 1)).trans (State.poke_groups s c va b)
@[simp] theorem State.pokeN_descs (c : CtxNo) (va : Nat) (l : List Byte) : (s.pokeN c va l).descs = s.descs := by
  induction l generalizing s va with
  | nil => rfl
  | cons b t ih => exact (ih (s.poke c va b) (va + 1)).trans (State.poke_descs s c va b)
@[simp] theorem State.pokeN_descGen (c : CtxNo) (va : Nat) (l : List Byte) : (s.pokeN c va l).descGen = s.descGen := by
  induction l generalizing s va with
  | nil => rfl
  | cons b t ih => exact (ih (s.poke c va b) (va + 1)).trans (State.poke_descGen s c va b)
@[simp] theorem State.pokeN_slots (c : CtxNo) (va : Nat) (l : List Byte) : (s.pokeN c va l).slots = s.slots := by
  induction l generalizing s va with
  | nil => rfl
  | cons b t ih => exact (ih (s.poke c va b) (va + 1)).trans (State.poke_slots s c va b)
@[simp] theorem State.pokeN_touch (c : CtxNo) (va : Nat) (l : List Byte) : (s.pokeN c va l).touch = s.touch := by
  induction l generalizing s va with
  | nil => rfl
  | cons b t ih => exact (ih (s.poke c va b) (va + 1)).trans (State.poke_touch s c va b)
@[simp] theorem State.pokeN_lane (c : CtxNo) (va : Nat) (l : List Byte) : (s.pokeN c va l).lane = s.lane := by
  induction l generalizing s va with
  | nil => rfl
  | cons b t ih => exact (ih (s.poke c va b) (va + 1)).trans (State.poke_lane s c va b)
@[simp] theorem State.pokeN_staging (c : CtxNo) (va : Nat) (l : List Byte) : (s.pokeN c va l).staging = s.staging := by
  induction l generalizing s va with
  | nil => rfl
  | cons b t ih => exact (ih (s.poke c va b) (va + 1)).trans (State.poke_staging s c va b)
@[simp] theorem State.pokeN_tlb (c : CtxNo) (va : Nat) (l : List Byte) : (s.pokeN c va l).tlb = s.tlb := by
  induction l generalizing s va with
  | nil => rfl
  | cons b t ih => exact (ih (s.poke c va b) (va + 1)).trans (State.poke_tlb s c va b)
@[simp] theorem State.pokeN_walks (c : CtxNo) (va : Nat) (l : List Byte) : (s.pokeN c va l).walks = s.walks := by
  induction l generalizing s va with
  | nil => rfl
  | cons b t ih => exact (ih (s.poke c va b) (va + 1)).trans (State.poke_walks s c va b)
@[simp] theorem State.pokeN_invals (c : CtxNo) (va : Nat) (l : List Byte) : (s.pokeN c va l).invals = s.invals := by
  induction l generalizing s va with
  | nil => rfl
  | cons b t ih => exact (ih (s.poke c va b) (va + 1)).trans (State.poke_invals s c va b)
@[simp] theorem State.pokeN_invalReq (c : CtxNo) (va : Nat) (l : List Byte) : (s.pokeN c va l).invalReq = s.invalReq := by
  induction l generalizing s va with
  | nil => rfl
  | cons b t ih => exact (ih (s.poke c va b) (va + 1)).trans (State.poke_invalReq s c va b)
@[simp] theorem State.pokeN_invalDone (c : CtxNo) (va : Nat) (l : List Byte) : (s.pokeN c va l).invalDone = s.invalDone := by
  induction l generalizing s va with
  | nil => rfl
  | cons b t ih => exact (ih (s.poke c va b) (va + 1)).trans (State.poke_invalDone s c va b)
@[simp] theorem State.pokeN_reqs (c : CtxNo) (va : Nat) (l : List Byte) : (s.pokeN c va l).reqs = s.reqs := by
  induction l generalizing s va with
  | nil => rfl
  | cons b t ih => exact (ih (s.poke c va b) (va + 1)).trans (State.poke_reqs s c va b)
@[simp] theorem State.pokeN_sent (c : CtxNo) (va : Nat) (l : List Byte) : (s.pokeN c va l).sent = s.sent := by
  induction l generalizing s va with
  | nil => rfl
  | cons b t ih => exact (ih (s.poke c va b) (va + 1)).trans (State.poke_sent s c va b)
@[simp] theorem State.pokeN_waits (c : CtxNo) (va : Nat) (l : List Byte) : (s.pokeN c va l).waits = s.waits := by
  induction l generalizing s va with
  | nil => rfl
  | cons b t ih => exact (ih (s.poke c va b) (va + 1)).trans (State.poke_waits s c va b)
@[simp] theorem State.pokeN_dovetail (c : CtxNo) (va : Nat) (l : List Byte) : (s.pokeN c va l).dovetail = s.dovetail := by
  induction l generalizing s va with
  | nil => rfl
  | cons b t ih => exact (ih (s.poke c va b) (va + 1)).trans (State.poke_dovetail s c va b)
@[simp] theorem State.pokeN_locks (c : CtxNo) (va : Nat) (l : List Byte) : (s.pokeN c va l).locks = s.locks := by
  induction l generalizing s va with
  | nil => rfl
  | cons b t ih => exact (ih (s.poke c va b) (va + 1)).trans (State.poke_locks s c va b)
@[simp] theorem State.pokeN_chains (c : CtxNo) (va : Nat) (l : List Byte) : (s.pokeN c va l).chains = s.chains := by
  induction l generalizing s va with
  | nil => rfl
  | cons b t ih => exact (ih (s.poke c va b) (va + 1)).trans (State.poke_chains s c va b)
@[simp] theorem State.pokeN_chainOut (c : CtxNo) (va : Nat) (l : List Byte) : (s.pokeN c va l).chainOut = s.chainOut := by
  induction l generalizing s va with
  | nil => rfl
  | cons b t ih => exact (ih (s.poke c va b) (va + 1)).trans (State.poke_chainOut s c va b)
@[simp] theorem State.pokeN_port (c : CtxNo) (va : Nat) (l : List Byte) : (s.pokeN c va l).port = s.port := by
  induction l generalizing s va with
  | nil => rfl
  | cons b t ih => exact (ih (s.poke c va b) (va + 1)).trans (State.poke_port s c va b)
@[simp] theorem State.pokeN_ckpt (c : CtxNo) (va : Nat) (l : List Byte) : (s.pokeN c va l).ckpt = s.ckpt := by
  induction l generalizing s va with
  | nil => rfl
  | cons b t ih => exact (ih (s.poke c va b) (va + 1)).trans (State.poke_ckpt s c va b)
@[simp] theorem State.pokeN_risk (c : CtxNo) (va : Nat) (l : List Byte) : (s.pokeN c va l).risk = s.risk := by
  induction l generalizing s va with
  | nil => rfl
  | cons b t ih => exact (ih (s.poke c va b) (va + 1)).trans (State.poke_risk s c va b)
@[simp] theorem State.pokeN_log (c : CtxNo) (va : Nat) (l : List Byte) : (s.pokeN c va l).log = s.log := by
  induction l generalizing s va with
  | nil => rfl
  | cons b t ih => exact (ih (s.poke c va b) (va + 1)).trans (State.poke_log s c va b)
@[simp] theorem State.pokeN_tel (c : CtxNo) (va : Nat) (l : List Byte) : (s.pokeN c va l).tel = s.tel := by
  induction l generalizing s va with
  | nil => rfl
  | cons b t ih => exact (ih (s.poke c va b) (va + 1)).trans (State.poke_tel s c va b)
@[simp] theorem State.pokeN_pow (c : CtxNo) (va : Nat) (l : List Byte) : (s.pokeN c va l).pow = s.pow := by
  induction l generalizing s va with
  | nil => rfl
  | cons b t ih => exact (ih (s.poke c va b) (va + 1)).trans (State.poke_pow s c va b)
@[simp] theorem State.pokeN_bist (c : CtxNo) (va : Nat) (l : List Byte) : (s.pokeN c va l).bist = s.bist := by
  induction l generalizing s va with
  | nil => rfl
  | cons b t ih => exact (ih (s.poke c va b) (va + 1)).trans (State.poke_bist s c va b)
@[simp] theorem State.pokeN_sec (c : CtxNo) (va : Nat) (l : List Byte) : (s.pokeN c va l).sec = s.sec := by
  induction l generalizing s va with
  | nil => rfl
  | cons b t ih => exact (ih (s.poke c va b) (va + 1)).trans (State.poke_sec s c va b)
@[simp] theorem State.pokeN_mgmt (c : CtxNo) (va : Nat) (l : List Byte) : (s.pokeN c va l).mgmt = s.mgmt := by
  induction l generalizing s va with
  | nil => rfl
  | cons b t ih => exact (ih (s.poke c va b) (va + 1)).trans (State.poke_mgmt s c va b)
@[simp] theorem State.pokeN_train (c : CtxNo) (va : Nat) (l : List Byte) : (s.pokeN c va l).train = s.train := by
  induction l generalizing s va with
  | nil => rfl
  | cons b t ih => exact (ih (s.poke c va b) (va + 1)).trans (State.poke_train s c va b)

@[simp] theorem State.writeB_pending (c : CtxNo) (bad : List (Nat × Nat)) (va : Nat) (l : List Byte) : (s.writeB c bad va l).pending = s.pending := by
  induction l generalizing s va with
  | nil => rfl
  | cons b t ih =>
    simp only [State.writeB]; split
    · exact ih s (va + 1)
    · exact (ih (s.poke c va b) (va + 1)).trans (State.poke_pending s c va b)
@[simp] theorem State.writeB_now (c : CtxNo) (bad : List (Nat × Nat)) (va : Nat) (l : List Byte) : (s.writeB c bad va l).now = s.now := by
  induction l generalizing s va with
  | nil => rfl
  | cons b t ih =>
    simp only [State.writeB]; split
    · exact ih s (va + 1)
    · exact (ih (s.poke c va b) (va + 1)).trans (State.poke_now s c va b)
@[simp] theorem State.writeB_free (c : CtxNo) (bad : List (Nat × Nat)) (va : Nat) (l : List Byte) : (s.writeB c bad va l).free = s.free := by
  induction l generalizing s va with
  | nil => rfl
  | cons b t ih =>
    simp only [State.writeB]; split
    · exact ih s (va + 1)
    · exact (ih (s.poke c va b) (va + 1)).trans (State.poke_free s c va b)
@[simp] theorem State.writeB_evt (c : CtxNo) (bad : List (Nat × Nat)) (va : Nat) (l : List Byte) : (s.writeB c bad va l).evt = s.evt := by
  induction l generalizing s va with
  | nil => rfl
  | cons b t ih =>
    simp only [State.writeB]; split
    · exact ih s (va + 1)
    · exact (ih (s.poke c va b) (va + 1)).trans (State.poke_evt s c va b)
@[simp] theorem State.writeB_eng (c : CtxNo) (bad : List (Nat × Nat)) (va : Nat) (l : List Byte) : (s.writeB c bad va l).eng = s.eng := by
  induction l generalizing s va with
  | nil => rfl
  | cons b t ih =>
    simp only [State.writeB]; split
    · exact ih s (va + 1)
    · exact (ih (s.poke c va b) (va + 1)).trans (State.poke_eng s c va b)
@[simp] theorem State.writeB_tick (c : CtxNo) (bad : List (Nat × Nat)) (va : Nat) (l : List Byte) : (s.writeB c bad va l).tick = s.tick := by
  induction l generalizing s va with
  | nil => rfl
  | cons b t ih =>
    simp only [State.writeB]; split
    · exact ih s (va + 1)
    · exact (ih (s.poke c va b) (va + 1)).trans (State.poke_tick s c va b)
@[simp] theorem State.writeB_ctxs (c : CtxNo) (bad : List (Nat × Nat)) (va : Nat) (l : List Byte) : (s.writeB c bad va l).ctxs = s.ctxs := by
  induction l generalizing s va with
  | nil => rfl
  | cons b t ih =>
    simp only [State.writeB]; split
    · exact ih s (va + 1)
    · exact (ih (s.poke c va b) (va + 1)).trans (State.poke_ctxs s c va b)
@[simp] theorem State.writeB_fmts (c : CtxNo) (bad : List (Nat × Nat)) (va : Nat) (l : List Byte) : (s.writeB c bad va l).fmts = s.fmts := by
  induction l generalizing s va with
  | nil => rfl
  | cons b t ih =>
    simp only [State.writeB]; split
    · exact ih s (va + 1)
    · exact (ih (s.poke c va b) (va + 1)).trans (State.poke_fmts s c va b)
@[simp] theorem State.writeB_rts (c : CtxNo) (bad : List (Nat × Nat)) (va : Nat) (l : List Byte) : (s.writeB c bad va l).rts = s.rts := by
  induction l generalizing s va with
  | nil => rfl
  | cons b t ih =>
    simp only [State.writeB]; split
    · exact ih s (va + 1)
    · exact (ih (s.poke c va b) (va + 1)).trans (State.poke_rts s c va b)
@[simp] theorem State.writeB_prio (c : CtxNo) (bad : List (Nat × Nat)) (va : Nat) (l : List Byte) : (s.writeB c bad va l).prio = s.prio := by
  induction l generalizing s va with
  | nil => rfl
  | cons b t ih =>
    simp only [State.writeB]; split
    · exact ih s (va + 1)
    · exact (ih (s.poke c va b) (va + 1)).trans (State.poke_prio s c va b)
@[simp] theorem State.writeB_prioNext (c : CtxNo) (bad : List (Nat × Nat)) (va : Nat) (l : List Byte) : (s.writeB c bad va l).prioNext = s.prioNext := by
  induction l generalizing s va with
  | nil => rfl
  | cons b t ih =>
    simp only [State.writeB]; split
    · exact ih s (va + 1)
    · exact (ih (s.poke c va b) (va + 1)).trans (State.poke_prioNext s c va b)
@[simp] theorem State.writeB_schedLast (c : CtxNo) (bad : List (Nat × Nat)) (va : Nat) (l : List Byte) : (s.writeB c bad va l).schedLast = s.schedLast := by
  induction l generalizing s va with
  | nil => rfl
  | cons b t ih =>
    simp only [State.writeB]; split
    · exact ih s (va + 1)
    · exact (ih (s.poke c va b) (va + 1)).trans (State.poke_schedLast s c va b)
@[simp] theorem State.writeB_schedTurn (c : CtxNo) (bad : List (Nat × Nat)) (va : Nat) (l : List Byte) : (s.writeB c bad va l).schedTurn = s.schedTurn := by
  induction l generalizing s va with
  | nil => rfl
  | cons b t ih =>
    simp only [State.writeB]; split
    · exact ih s (va + 1)
    · exact (ih (s.poke c va b) (va + 1)).trans (State.poke_schedTurn s c va b)
@[simp] theorem State.writeB_stallMap (c : CtxNo) (bad : List (Nat × Nat)) (va : Nat) (l : List Byte) : (s.writeB c bad va l).stallMap = s.stallMap := by
  induction l generalizing s va with
  | nil => rfl
  | cons b t ih =>
    simp only [State.writeB]; split
    · exact ih s (va + 1)
    · exact (ih (s.poke c va b) (va + 1)).trans (State.poke_stallMap s c va b)
@[simp] theorem State.writeB_rampTab (c : CtxNo) (bad : List (Nat × Nat)) (va : Nat) (l : List Byte) : (s.writeB c bad va l).rampTab = s.rampTab := by
  induction l generalizing s va with
  | nil => rfl
  | cons b t ih =>
    simp only [State.writeB]; split
    · exact ih s (va + 1)
    · exact (ih (s.poke c va b) (va + 1)).trans (State.poke_rampTab s c va b)
@[simp] theorem State.writeB_rampNext (c : CtxNo) (bad : List (Nat × Nat)) (va : Nat) (l : List Byte) : (s.writeB c bad va l).rampNext = s.rampNext := by
  induction l generalizing s va with
  | nil => rfl
  | cons b t ih =>
    simp only [State.writeB]; split
    · exact ih s (va + 1)
    · exact (ih (s.poke c va b) (va + 1)).trans (State.poke_rampNext s c va b)
@[simp] theorem State.writeB_riskTab (c : CtxNo) (bad : List (Nat × Nat)) (va : Nat) (l : List Byte) : (s.writeB c bad va l).riskTab = s.riskTab := by
  induction l generalizing s va with
  | nil => rfl
  | cons b t ih =>
    simp only [State.writeB]; split
    · exact ih s (va + 1)
    · exact (ih (s.poke c va b) (va + 1)).trans (State.poke_riskTab s c va b)
@[simp] theorem State.writeB_regions (c : CtxNo) (bad : List (Nat × Nat)) (va : Nat) (l : List Byte) : (s.writeB c bad va l).regions = s.regions := by
  induction l generalizing s va with
  | nil => rfl
  | cons b t ih =>
    simp only [State.writeB]; split
    · exact ih s (va + 1)
    · exact (ih (s.poke c va b) (va + 1)).trans (State.poke_regions s c va b)
@[simp] theorem State.writeB_groups (c : CtxNo) (bad : List (Nat × Nat)) (va : Nat) (l : List Byte) : (s.writeB c bad va l).groups = s.groups := by
  induction l generalizing s va with
  | nil => rfl
  | cons b t ih =>
    simp only [State.writeB]; split
    · exact ih s (va + 1)
    · exact (ih (s.poke c va b) (va + 1)).trans (State.poke_groups s c va b)
@[simp] theorem State.writeB_descs (c : CtxNo) (bad : List (Nat × Nat)) (va : Nat) (l : List Byte) : (s.writeB c bad va l).descs = s.descs := by
  induction l generalizing s va with
  | nil => rfl
  | cons b t ih =>
    simp only [State.writeB]; split
    · exact ih s (va + 1)
    · exact (ih (s.poke c va b) (va + 1)).trans (State.poke_descs s c va b)
@[simp] theorem State.writeB_descGen (c : CtxNo) (bad : List (Nat × Nat)) (va : Nat) (l : List Byte) : (s.writeB c bad va l).descGen = s.descGen := by
  induction l generalizing s va with
  | nil => rfl
  | cons b t ih =>
    simp only [State.writeB]; split
    · exact ih s (va + 1)
    · exact (ih (s.poke c va b) (va + 1)).trans (State.poke_descGen s c va b)
@[simp] theorem State.writeB_slots (c : CtxNo) (bad : List (Nat × Nat)) (va : Nat) (l : List Byte) : (s.writeB c bad va l).slots = s.slots := by
  induction l generalizing s va with
  | nil => rfl
  | cons b t ih =>
    simp only [State.writeB]; split
    · exact ih s (va + 1)
    · exact (ih (s.poke c va b) (va + 1)).trans (State.poke_slots s c va b)
@[simp] theorem State.writeB_touch (c : CtxNo) (bad : List (Nat × Nat)) (va : Nat) (l : List Byte) : (s.writeB c bad va l).touch = s.touch := by
  induction l generalizing s va with
  | nil => rfl
  | cons b t ih =>
    simp only [State.writeB]; split
    · exact ih s (va + 1)
    · exact (ih (s.poke c va b) (va + 1)).trans (State.poke_touch s c va b)
@[simp] theorem State.writeB_lane (c : CtxNo) (bad : List (Nat × Nat)) (va : Nat) (l : List Byte) : (s.writeB c bad va l).lane = s.lane := by
  induction l generalizing s va with
  | nil => rfl
  | cons b t ih =>
    simp only [State.writeB]; split
    · exact ih s (va + 1)
    · exact (ih (s.poke c va b) (va + 1)).trans (State.poke_lane s c va b)
@[simp] theorem State.writeB_staging (c : CtxNo) (bad : List (Nat × Nat)) (va : Nat) (l : List Byte) : (s.writeB c bad va l).staging = s.staging := by
  induction l generalizing s va with
  | nil => rfl
  | cons b t ih =>
    simp only [State.writeB]; split
    · exact ih s (va + 1)
    · exact (ih (s.poke c va b) (va + 1)).trans (State.poke_staging s c va b)
@[simp] theorem State.writeB_tlb (c : CtxNo) (bad : List (Nat × Nat)) (va : Nat) (l : List Byte) : (s.writeB c bad va l).tlb = s.tlb := by
  induction l generalizing s va with
  | nil => rfl
  | cons b t ih =>
    simp only [State.writeB]; split
    · exact ih s (va + 1)
    · exact (ih (s.poke c va b) (va + 1)).trans (State.poke_tlb s c va b)
@[simp] theorem State.writeB_walks (c : CtxNo) (bad : List (Nat × Nat)) (va : Nat) (l : List Byte) : (s.writeB c bad va l).walks = s.walks := by
  induction l generalizing s va with
  | nil => rfl
  | cons b t ih =>
    simp only [State.writeB]; split
    · exact ih s (va + 1)
    · exact (ih (s.poke c va b) (va + 1)).trans (State.poke_walks s c va b)
@[simp] theorem State.writeB_invals (c : CtxNo) (bad : List (Nat × Nat)) (va : Nat) (l : List Byte) : (s.writeB c bad va l).invals = s.invals := by
  induction l generalizing s va with
  | nil => rfl
  | cons b t ih =>
    simp only [State.writeB]; split
    · exact ih s (va + 1)
    · exact (ih (s.poke c va b) (va + 1)).trans (State.poke_invals s c va b)
@[simp] theorem State.writeB_invalReq (c : CtxNo) (bad : List (Nat × Nat)) (va : Nat) (l : List Byte) : (s.writeB c bad va l).invalReq = s.invalReq := by
  induction l generalizing s va with
  | nil => rfl
  | cons b t ih =>
    simp only [State.writeB]; split
    · exact ih s (va + 1)
    · exact (ih (s.poke c va b) (va + 1)).trans (State.poke_invalReq s c va b)
@[simp] theorem State.writeB_invalDone (c : CtxNo) (bad : List (Nat × Nat)) (va : Nat) (l : List Byte) : (s.writeB c bad va l).invalDone = s.invalDone := by
  induction l generalizing s va with
  | nil => rfl
  | cons b t ih =>
    simp only [State.writeB]; split
    · exact ih s (va + 1)
    · exact (ih (s.poke c va b) (va + 1)).trans (State.poke_invalDone s c va b)
@[simp] theorem State.writeB_reqs (c : CtxNo) (bad : List (Nat × Nat)) (va : Nat) (l : List Byte) : (s.writeB c bad va l).reqs = s.reqs := by
  induction l generalizing s va with
  | nil => rfl
  | cons b t ih =>
    simp only [State.writeB]; split
    · exact ih s (va + 1)
    · exact (ih (s.poke c va b) (va + 1)).trans (State.poke_reqs s c va b)
@[simp] theorem State.writeB_sent (c : CtxNo) (bad : List (Nat × Nat)) (va : Nat) (l : List Byte) : (s.writeB c bad va l).sent = s.sent := by
  induction l generalizing s va with
  | nil => rfl
  | cons b t ih =>
    simp only [State.writeB]; split
    · exact ih s (va + 1)
    · exact (ih (s.poke c va b) (va + 1)).trans (State.poke_sent s c va b)
@[simp] theorem State.writeB_waits (c : CtxNo) (bad : List (Nat × Nat)) (va : Nat) (l : List Byte) : (s.writeB c bad va l).waits = s.waits := by
  induction l generalizing s va with
  | nil => rfl
  | cons b t ih =>
    simp only [State.writeB]; split
    · exact ih s (va + 1)
    · exact (ih (s.poke c va b) (va + 1)).trans (State.poke_waits s c va b)
@[simp] theorem State.writeB_dovetail (c : CtxNo) (bad : List (Nat × Nat)) (va : Nat) (l : List Byte) : (s.writeB c bad va l).dovetail = s.dovetail := by
  induction l generalizing s va with
  | nil => rfl
  | cons b t ih =>
    simp only [State.writeB]; split
    · exact ih s (va + 1)
    · exact (ih (s.poke c va b) (va + 1)).trans (State.poke_dovetail s c va b)
@[simp] theorem State.writeB_locks (c : CtxNo) (bad : List (Nat × Nat)) (va : Nat) (l : List Byte) : (s.writeB c bad va l).locks = s.locks := by
  induction l generalizing s va with
  | nil => rfl
  | cons b t ih =>
    simp only [State.writeB]; split
    · exact ih s (va + 1)
    · exact (ih (s.poke c va b) (va + 1)).trans (State.poke_locks s c va b)
@[simp] theorem State.writeB_chains (c : CtxNo) (bad : List (Nat × Nat)) (va : Nat) (l : List Byte) : (s.writeB c bad va l).chains = s.chains := by
  induction l generalizing s va with
  | nil => rfl
  | cons b t ih =>
    simp only [State.writeB]; split
    · exact ih s (va + 1)
    · exact (ih (s.poke c va b) (va + 1)).trans (State.poke_chains s c va b)
@[simp] theorem State.writeB_chainOut (c : CtxNo) (bad : List (Nat × Nat)) (va : Nat) (l : List Byte) : (s.writeB c bad va l).chainOut = s.chainOut := by
  induction l generalizing s va with
  | nil => rfl
  | cons b t ih =>
    simp only [State.writeB]; split
    · exact ih s (va + 1)
    · exact (ih (s.poke c va b) (va + 1)).trans (State.poke_chainOut s c va b)
@[simp] theorem State.writeB_port (c : CtxNo) (bad : List (Nat × Nat)) (va : Nat) (l : List Byte) : (s.writeB c bad va l).port = s.port := by
  induction l generalizing s va with
  | nil => rfl
  | cons b t ih =>
    simp only [State.writeB]; split
    · exact ih s (va + 1)
    · exact (ih (s.poke c va b) (va + 1)).trans (State.poke_port s c va b)
@[simp] theorem State.writeB_ckpt (c : CtxNo) (bad : List (Nat × Nat)) (va : Nat) (l : List Byte) : (s.writeB c bad va l).ckpt = s.ckpt := by
  induction l generalizing s va with
  | nil => rfl
  | cons b t ih =>
    simp only [State.writeB]; split
    · exact ih s (va + 1)
    · exact (ih (s.poke c va b) (va + 1)).trans (State.poke_ckpt s c va b)
@[simp] theorem State.writeB_risk (c : CtxNo) (bad : List (Nat × Nat)) (va : Nat) (l : List Byte) : (s.writeB c bad va l).risk = s.risk := by
  induction l generalizing s va with
  | nil => rfl
  | cons b t ih =>
    simp only [State.writeB]; split
    · exact ih s (va + 1)
    · exact (ih (s.poke c va b) (va + 1)).trans (State.poke_risk s c va b)
@[simp] theorem State.writeB_log (c : CtxNo) (bad : List (Nat × Nat)) (va : Nat) (l : List Byte) : (s.writeB c bad va l).log = s.log := by
  induction l generalizing s va with
  | nil => rfl
  | cons b t ih =>
    simp only [State.writeB]; split
    · exact ih s (va + 1)
    · exact (ih (s.poke c va b) (va + 1)).trans (State.poke_log s c va b)
@[simp] theorem State.writeB_tel (c : CtxNo) (bad : List (Nat × Nat)) (va : Nat) (l : List Byte) : (s.writeB c bad va l).tel = s.tel := by
  induction l generalizing s va with
  | nil => rfl
  | cons b t ih =>
    simp only [State.writeB]; split
    · exact ih s (va + 1)
    · exact (ih (s.poke c va b) (va + 1)).trans (State.poke_tel s c va b)
@[simp] theorem State.writeB_pow (c : CtxNo) (bad : List (Nat × Nat)) (va : Nat) (l : List Byte) : (s.writeB c bad va l).pow = s.pow := by
  induction l generalizing s va with
  | nil => rfl
  | cons b t ih =>
    simp only [State.writeB]; split
    · exact ih s (va + 1)
    · exact (ih (s.poke c va b) (va + 1)).trans (State.poke_pow s c va b)
@[simp] theorem State.writeB_bist (c : CtxNo) (bad : List (Nat × Nat)) (va : Nat) (l : List Byte) : (s.writeB c bad va l).bist = s.bist := by
  induction l generalizing s va with
  | nil => rfl
  | cons b t ih =>
    simp only [State.writeB]; split
    · exact ih s (va + 1)
    · exact (ih (s.poke c va b) (va + 1)).trans (State.poke_bist s c va b)
@[simp] theorem State.writeB_sec (c : CtxNo) (bad : List (Nat × Nat)) (va : Nat) (l : List Byte) : (s.writeB c bad va l).sec = s.sec := by
  induction l generalizing s va with
  | nil => rfl
  | cons b t ih =>
    simp only [State.writeB]; split
    · exact ih s (va + 1)
    · exact (ih (s.poke c va b) (va + 1)).trans (State.poke_sec s c va b)
@[simp] theorem State.writeB_mgmt (c : CtxNo) (bad : List (Nat × Nat)) (va : Nat) (l : List Byte) : (s.writeB c bad va l).mgmt = s.mgmt := by
  induction l generalizing s va with
  | nil => rfl
  | cons b t ih =>
    simp only [State.writeB]; split
    · exact ih s (va + 1)
    · exact (ih (s.poke c va b) (va + 1)).trans (State.poke_mgmt s c va b)
@[simp] theorem State.writeB_train (c : CtxNo) (bad : List (Nat × Nat)) (va : Nat) (l : List Byte) : (s.writeB c bad va l).train = s.train := by
  induction l generalizing s va with
  | nil => rfl
  | cons b t ih =>
    simp only [State.writeB]; split
    · exact ih s (va + 1)
    · exact (ih (s.poke c va b) (va + 1)).trans (State.poke_train s c va b)

@[simp] theorem State.putBits_pending (c : CtxNo) (bad : List (Nat × Nat)) (o : Opnd) (e : Nat → Nat) (v : Nat) : (s.putBits c bad o e v).pending = s.pending := by
  unfold State.putBits; dsimp only; split <;> exact State.writeB_pending s c bad _ _
@[simp] theorem State.putBits_now (c : CtxNo) (bad : List (Nat × Nat)) (o : Opnd) (e : Nat → Nat) (v : Nat) : (s.putBits c bad o e v).now = s.now := by
  unfold State.putBits; dsimp only; split <;> exact State.writeB_now s c bad _ _
@[simp] theorem State.putBits_free (c : CtxNo) (bad : List (Nat × Nat)) (o : Opnd) (e : Nat → Nat) (v : Nat) : (s.putBits c bad o e v).free = s.free := by
  unfold State.putBits; dsimp only; split <;> exact State.writeB_free s c bad _ _
@[simp] theorem State.putBits_evt (c : CtxNo) (bad : List (Nat × Nat)) (o : Opnd) (e : Nat → Nat) (v : Nat) : (s.putBits c bad o e v).evt = s.evt := by
  unfold State.putBits; dsimp only; split <;> exact State.writeB_evt s c bad _ _
@[simp] theorem State.putBits_eng (c : CtxNo) (bad : List (Nat × Nat)) (o : Opnd) (e : Nat → Nat) (v : Nat) : (s.putBits c bad o e v).eng = s.eng := by
  unfold State.putBits; dsimp only; split <;> exact State.writeB_eng s c bad _ _
@[simp] theorem State.putBits_tick (c : CtxNo) (bad : List (Nat × Nat)) (o : Opnd) (e : Nat → Nat) (v : Nat) : (s.putBits c bad o e v).tick = s.tick := by
  unfold State.putBits; dsimp only; split <;> exact State.writeB_tick s c bad _ _
@[simp] theorem State.putBits_ctxs (c : CtxNo) (bad : List (Nat × Nat)) (o : Opnd) (e : Nat → Nat) (v : Nat) : (s.putBits c bad o e v).ctxs = s.ctxs := by
  unfold State.putBits; dsimp only; split <;> exact State.writeB_ctxs s c bad _ _
@[simp] theorem State.putBits_fmts (c : CtxNo) (bad : List (Nat × Nat)) (o : Opnd) (e : Nat → Nat) (v : Nat) : (s.putBits c bad o e v).fmts = s.fmts := by
  unfold State.putBits; dsimp only; split <;> exact State.writeB_fmts s c bad _ _
@[simp] theorem State.putBits_rts (c : CtxNo) (bad : List (Nat × Nat)) (o : Opnd) (e : Nat → Nat) (v : Nat) : (s.putBits c bad o e v).rts = s.rts := by
  unfold State.putBits; dsimp only; split <;> exact State.writeB_rts s c bad _ _
@[simp] theorem State.putBits_prio (c : CtxNo) (bad : List (Nat × Nat)) (o : Opnd) (e : Nat → Nat) (v : Nat) : (s.putBits c bad o e v).prio = s.prio := by
  unfold State.putBits; dsimp only; split <;> exact State.writeB_prio s c bad _ _
@[simp] theorem State.putBits_prioNext (c : CtxNo) (bad : List (Nat × Nat)) (o : Opnd) (e : Nat → Nat) (v : Nat) : (s.putBits c bad o e v).prioNext = s.prioNext := by
  unfold State.putBits; dsimp only; split <;> exact State.writeB_prioNext s c bad _ _
@[simp] theorem State.putBits_schedLast (c : CtxNo) (bad : List (Nat × Nat)) (o : Opnd) (e : Nat → Nat) (v : Nat) : (s.putBits c bad o e v).schedLast = s.schedLast := by
  unfold State.putBits; dsimp only; split <;> exact State.writeB_schedLast s c bad _ _
@[simp] theorem State.putBits_schedTurn (c : CtxNo) (bad : List (Nat × Nat)) (o : Opnd) (e : Nat → Nat) (v : Nat) : (s.putBits c bad o e v).schedTurn = s.schedTurn := by
  unfold State.putBits; dsimp only; split <;> exact State.writeB_schedTurn s c bad _ _
@[simp] theorem State.putBits_stallMap (c : CtxNo) (bad : List (Nat × Nat)) (o : Opnd) (e : Nat → Nat) (v : Nat) : (s.putBits c bad o e v).stallMap = s.stallMap := by
  unfold State.putBits; dsimp only; split <;> exact State.writeB_stallMap s c bad _ _
@[simp] theorem State.putBits_rampTab (c : CtxNo) (bad : List (Nat × Nat)) (o : Opnd) (e : Nat → Nat) (v : Nat) : (s.putBits c bad o e v).rampTab = s.rampTab := by
  unfold State.putBits; dsimp only; split <;> exact State.writeB_rampTab s c bad _ _
@[simp] theorem State.putBits_rampNext (c : CtxNo) (bad : List (Nat × Nat)) (o : Opnd) (e : Nat → Nat) (v : Nat) : (s.putBits c bad o e v).rampNext = s.rampNext := by
  unfold State.putBits; dsimp only; split <;> exact State.writeB_rampNext s c bad _ _
@[simp] theorem State.putBits_riskTab (c : CtxNo) (bad : List (Nat × Nat)) (o : Opnd) (e : Nat → Nat) (v : Nat) : (s.putBits c bad o e v).riskTab = s.riskTab := by
  unfold State.putBits; dsimp only; split <;> exact State.writeB_riskTab s c bad _ _
@[simp] theorem State.putBits_regions (c : CtxNo) (bad : List (Nat × Nat)) (o : Opnd) (e : Nat → Nat) (v : Nat) : (s.putBits c bad o e v).regions = s.regions := by
  unfold State.putBits; dsimp only; split <;> exact State.writeB_regions s c bad _ _
@[simp] theorem State.putBits_groups (c : CtxNo) (bad : List (Nat × Nat)) (o : Opnd) (e : Nat → Nat) (v : Nat) : (s.putBits c bad o e v).groups = s.groups := by
  unfold State.putBits; dsimp only; split <;> exact State.writeB_groups s c bad _ _
@[simp] theorem State.putBits_descs (c : CtxNo) (bad : List (Nat × Nat)) (o : Opnd) (e : Nat → Nat) (v : Nat) : (s.putBits c bad o e v).descs = s.descs := by
  unfold State.putBits; dsimp only; split <;> exact State.writeB_descs s c bad _ _
@[simp] theorem State.putBits_descGen (c : CtxNo) (bad : List (Nat × Nat)) (o : Opnd) (e : Nat → Nat) (v : Nat) : (s.putBits c bad o e v).descGen = s.descGen := by
  unfold State.putBits; dsimp only; split <;> exact State.writeB_descGen s c bad _ _
@[simp] theorem State.putBits_slots (c : CtxNo) (bad : List (Nat × Nat)) (o : Opnd) (e : Nat → Nat) (v : Nat) : (s.putBits c bad o e v).slots = s.slots := by
  unfold State.putBits; dsimp only; split <;> exact State.writeB_slots s c bad _ _
@[simp] theorem State.putBits_touch (c : CtxNo) (bad : List (Nat × Nat)) (o : Opnd) (e : Nat → Nat) (v : Nat) : (s.putBits c bad o e v).touch = s.touch := by
  unfold State.putBits; dsimp only; split <;> exact State.writeB_touch s c bad _ _
@[simp] theorem State.putBits_lane (c : CtxNo) (bad : List (Nat × Nat)) (o : Opnd) (e : Nat → Nat) (v : Nat) : (s.putBits c bad o e v).lane = s.lane := by
  unfold State.putBits; dsimp only; split <;> exact State.writeB_lane s c bad _ _
@[simp] theorem State.putBits_staging (c : CtxNo) (bad : List (Nat × Nat)) (o : Opnd) (e : Nat → Nat) (v : Nat) : (s.putBits c bad o e v).staging = s.staging := by
  unfold State.putBits; dsimp only; split <;> exact State.writeB_staging s c bad _ _
@[simp] theorem State.putBits_tlb (c : CtxNo) (bad : List (Nat × Nat)) (o : Opnd) (e : Nat → Nat) (v : Nat) : (s.putBits c bad o e v).tlb = s.tlb := by
  unfold State.putBits; dsimp only; split <;> exact State.writeB_tlb s c bad _ _
@[simp] theorem State.putBits_walks (c : CtxNo) (bad : List (Nat × Nat)) (o : Opnd) (e : Nat → Nat) (v : Nat) : (s.putBits c bad o e v).walks = s.walks := by
  unfold State.putBits; dsimp only; split <;> exact State.writeB_walks s c bad _ _
@[simp] theorem State.putBits_invals (c : CtxNo) (bad : List (Nat × Nat)) (o : Opnd) (e : Nat → Nat) (v : Nat) : (s.putBits c bad o e v).invals = s.invals := by
  unfold State.putBits; dsimp only; split <;> exact State.writeB_invals s c bad _ _
@[simp] theorem State.putBits_invalReq (c : CtxNo) (bad : List (Nat × Nat)) (o : Opnd) (e : Nat → Nat) (v : Nat) : (s.putBits c bad o e v).invalReq = s.invalReq := by
  unfold State.putBits; dsimp only; split <;> exact State.writeB_invalReq s c bad _ _
@[simp] theorem State.putBits_invalDone (c : CtxNo) (bad : List (Nat × Nat)) (o : Opnd) (e : Nat → Nat) (v : Nat) : (s.putBits c bad o e v).invalDone = s.invalDone := by
  unfold State.putBits; dsimp only; split <;> exact State.writeB_invalDone s c bad _ _
@[simp] theorem State.putBits_reqs (c : CtxNo) (bad : List (Nat × Nat)) (o : Opnd) (e : Nat → Nat) (v : Nat) : (s.putBits c bad o e v).reqs = s.reqs := by
  unfold State.putBits; dsimp only; split <;> exact State.writeB_reqs s c bad _ _
@[simp] theorem State.putBits_sent (c : CtxNo) (bad : List (Nat × Nat)) (o : Opnd) (e : Nat → Nat) (v : Nat) : (s.putBits c bad o e v).sent = s.sent := by
  unfold State.putBits; dsimp only; split <;> exact State.writeB_sent s c bad _ _
@[simp] theorem State.putBits_waits (c : CtxNo) (bad : List (Nat × Nat)) (o : Opnd) (e : Nat → Nat) (v : Nat) : (s.putBits c bad o e v).waits = s.waits := by
  unfold State.putBits; dsimp only; split <;> exact State.writeB_waits s c bad _ _
@[simp] theorem State.putBits_dovetail (c : CtxNo) (bad : List (Nat × Nat)) (o : Opnd) (e : Nat → Nat) (v : Nat) : (s.putBits c bad o e v).dovetail = s.dovetail := by
  unfold State.putBits; dsimp only; split <;> exact State.writeB_dovetail s c bad _ _
@[simp] theorem State.putBits_locks (c : CtxNo) (bad : List (Nat × Nat)) (o : Opnd) (e : Nat → Nat) (v : Nat) : (s.putBits c bad o e v).locks = s.locks := by
  unfold State.putBits; dsimp only; split <;> exact State.writeB_locks s c bad _ _
@[simp] theorem State.putBits_chains (c : CtxNo) (bad : List (Nat × Nat)) (o : Opnd) (e : Nat → Nat) (v : Nat) : (s.putBits c bad o e v).chains = s.chains := by
  unfold State.putBits; dsimp only; split <;> exact State.writeB_chains s c bad _ _
@[simp] theorem State.putBits_chainOut (c : CtxNo) (bad : List (Nat × Nat)) (o : Opnd) (e : Nat → Nat) (v : Nat) : (s.putBits c bad o e v).chainOut = s.chainOut := by
  unfold State.putBits; dsimp only; split <;> exact State.writeB_chainOut s c bad _ _
@[simp] theorem State.putBits_port (c : CtxNo) (bad : List (Nat × Nat)) (o : Opnd) (e : Nat → Nat) (v : Nat) : (s.putBits c bad o e v).port = s.port := by
  unfold State.putBits; dsimp only; split <;> exact State.writeB_port s c bad _ _
@[simp] theorem State.putBits_ckpt (c : CtxNo) (bad : List (Nat × Nat)) (o : Opnd) (e : Nat → Nat) (v : Nat) : (s.putBits c bad o e v).ckpt = s.ckpt := by
  unfold State.putBits; dsimp only; split <;> exact State.writeB_ckpt s c bad _ _
@[simp] theorem State.putBits_risk (c : CtxNo) (bad : List (Nat × Nat)) (o : Opnd) (e : Nat → Nat) (v : Nat) : (s.putBits c bad o e v).risk = s.risk := by
  unfold State.putBits; dsimp only; split <;> exact State.writeB_risk s c bad _ _
@[simp] theorem State.putBits_log (c : CtxNo) (bad : List (Nat × Nat)) (o : Opnd) (e : Nat → Nat) (v : Nat) : (s.putBits c bad o e v).log = s.log := by
  unfold State.putBits; dsimp only; split <;> exact State.writeB_log s c bad _ _
@[simp] theorem State.putBits_tel (c : CtxNo) (bad : List (Nat × Nat)) (o : Opnd) (e : Nat → Nat) (v : Nat) : (s.putBits c bad o e v).tel = s.tel := by
  unfold State.putBits; dsimp only; split <;> exact State.writeB_tel s c bad _ _
@[simp] theorem State.putBits_pow (c : CtxNo) (bad : List (Nat × Nat)) (o : Opnd) (e : Nat → Nat) (v : Nat) : (s.putBits c bad o e v).pow = s.pow := by
  unfold State.putBits; dsimp only; split <;> exact State.writeB_pow s c bad _ _
@[simp] theorem State.putBits_bist (c : CtxNo) (bad : List (Nat × Nat)) (o : Opnd) (e : Nat → Nat) (v : Nat) : (s.putBits c bad o e v).bist = s.bist := by
  unfold State.putBits; dsimp only; split <;> exact State.writeB_bist s c bad _ _
@[simp] theorem State.putBits_sec (c : CtxNo) (bad : List (Nat × Nat)) (o : Opnd) (e : Nat → Nat) (v : Nat) : (s.putBits c bad o e v).sec = s.sec := by
  unfold State.putBits; dsimp only; split <;> exact State.writeB_sec s c bad _ _
@[simp] theorem State.putBits_mgmt (c : CtxNo) (bad : List (Nat × Nat)) (o : Opnd) (e : Nat → Nat) (v : Nat) : (s.putBits c bad o e v).mgmt = s.mgmt := by
  unfold State.putBits; dsimp only; split <;> exact State.writeB_mgmt s c bad _ _
@[simp] theorem State.putBits_train (c : CtxNo) (bad : List (Nat × Nat)) (o : Opnd) (e : Nat → Nat) (v : Nat) : (s.putBits c bad o e v).train = s.train := by
  unfold State.putBits; dsimp only; split <;> exact State.writeB_train s c bad _ _

@[simp] theorem State.putArea_pending (c : CtxNo) (bad : List (Nat × Nat)) (o : Opnd) (i : Nat) (l : List Byte) : (s.putArea c bad o i l).pending = s.pending := by
  induction l generalizing s i with
  | nil => rfl
  | cons b t ih => exact (ih (s.writeB c bad (o.byteAddr i) [b]) (i + 1)).trans (State.writeB_pending s c bad _ _)
@[simp] theorem State.putArea_now (c : CtxNo) (bad : List (Nat × Nat)) (o : Opnd) (i : Nat) (l : List Byte) : (s.putArea c bad o i l).now = s.now := by
  induction l generalizing s i with
  | nil => rfl
  | cons b t ih => exact (ih (s.writeB c bad (o.byteAddr i) [b]) (i + 1)).trans (State.writeB_now s c bad _ _)
@[simp] theorem State.putArea_free (c : CtxNo) (bad : List (Nat × Nat)) (o : Opnd) (i : Nat) (l : List Byte) : (s.putArea c bad o i l).free = s.free := by
  induction l generalizing s i with
  | nil => rfl
  | cons b t ih => exact (ih (s.writeB c bad (o.byteAddr i) [b]) (i + 1)).trans (State.writeB_free s c bad _ _)
@[simp] theorem State.putArea_evt (c : CtxNo) (bad : List (Nat × Nat)) (o : Opnd) (i : Nat) (l : List Byte) : (s.putArea c bad o i l).evt = s.evt := by
  induction l generalizing s i with
  | nil => rfl
  | cons b t ih => exact (ih (s.writeB c bad (o.byteAddr i) [b]) (i + 1)).trans (State.writeB_evt s c bad _ _)
@[simp] theorem State.putArea_eng (c : CtxNo) (bad : List (Nat × Nat)) (o : Opnd) (i : Nat) (l : List Byte) : (s.putArea c bad o i l).eng = s.eng := by
  induction l generalizing s i with
  | nil => rfl
  | cons b t ih => exact (ih (s.writeB c bad (o.byteAddr i) [b]) (i + 1)).trans (State.writeB_eng s c bad _ _)
@[simp] theorem State.putArea_tick (c : CtxNo) (bad : List (Nat × Nat)) (o : Opnd) (i : Nat) (l : List Byte) : (s.putArea c bad o i l).tick = s.tick := by
  induction l generalizing s i with
  | nil => rfl
  | cons b t ih => exact (ih (s.writeB c bad (o.byteAddr i) [b]) (i + 1)).trans (State.writeB_tick s c bad _ _)
@[simp] theorem State.putArea_ctxs (c : CtxNo) (bad : List (Nat × Nat)) (o : Opnd) (i : Nat) (l : List Byte) : (s.putArea c bad o i l).ctxs = s.ctxs := by
  induction l generalizing s i with
  | nil => rfl
  | cons b t ih => exact (ih (s.writeB c bad (o.byteAddr i) [b]) (i + 1)).trans (State.writeB_ctxs s c bad _ _)
@[simp] theorem State.putArea_fmts (c : CtxNo) (bad : List (Nat × Nat)) (o : Opnd) (i : Nat) (l : List Byte) : (s.putArea c bad o i l).fmts = s.fmts := by
  induction l generalizing s i with
  | nil => rfl
  | cons b t ih => exact (ih (s.writeB c bad (o.byteAddr i) [b]) (i + 1)).trans (State.writeB_fmts s c bad _ _)
@[simp] theorem State.putArea_rts (c : CtxNo) (bad : List (Nat × Nat)) (o : Opnd) (i : Nat) (l : List Byte) : (s.putArea c bad o i l).rts = s.rts := by
  induction l generalizing s i with
  | nil => rfl
  | cons b t ih => exact (ih (s.writeB c bad (o.byteAddr i) [b]) (i + 1)).trans (State.writeB_rts s c bad _ _)
@[simp] theorem State.putArea_prio (c : CtxNo) (bad : List (Nat × Nat)) (o : Opnd) (i : Nat) (l : List Byte) : (s.putArea c bad o i l).prio = s.prio := by
  induction l generalizing s i with
  | nil => rfl
  | cons b t ih => exact (ih (s.writeB c bad (o.byteAddr i) [b]) (i + 1)).trans (State.writeB_prio s c bad _ _)
@[simp] theorem State.putArea_prioNext (c : CtxNo) (bad : List (Nat × Nat)) (o : Opnd) (i : Nat) (l : List Byte) : (s.putArea c bad o i l).prioNext = s.prioNext := by
  induction l generalizing s i with
  | nil => rfl
  | cons b t ih => exact (ih (s.writeB c bad (o.byteAddr i) [b]) (i + 1)).trans (State.writeB_prioNext s c bad _ _)
@[simp] theorem State.putArea_schedLast (c : CtxNo) (bad : List (Nat × Nat)) (o : Opnd) (i : Nat) (l : List Byte) : (s.putArea c bad o i l).schedLast = s.schedLast := by
  induction l generalizing s i with
  | nil => rfl
  | cons b t ih => exact (ih (s.writeB c bad (o.byteAddr i) [b]) (i + 1)).trans (State.writeB_schedLast s c bad _ _)
@[simp] theorem State.putArea_schedTurn (c : CtxNo) (bad : List (Nat × Nat)) (o : Opnd) (i : Nat) (l : List Byte) : (s.putArea c bad o i l).schedTurn = s.schedTurn := by
  induction l generalizing s i with
  | nil => rfl
  | cons b t ih => exact (ih (s.writeB c bad (o.byteAddr i) [b]) (i + 1)).trans (State.writeB_schedTurn s c bad _ _)
@[simp] theorem State.putArea_stallMap (c : CtxNo) (bad : List (Nat × Nat)) (o : Opnd) (i : Nat) (l : List Byte) : (s.putArea c bad o i l).stallMap = s.stallMap := by
  induction l generalizing s i with
  | nil => rfl
  | cons b t ih => exact (ih (s.writeB c bad (o.byteAddr i) [b]) (i + 1)).trans (State.writeB_stallMap s c bad _ _)
@[simp] theorem State.putArea_rampTab (c : CtxNo) (bad : List (Nat × Nat)) (o : Opnd) (i : Nat) (l : List Byte) : (s.putArea c bad o i l).rampTab = s.rampTab := by
  induction l generalizing s i with
  | nil => rfl
  | cons b t ih => exact (ih (s.writeB c bad (o.byteAddr i) [b]) (i + 1)).trans (State.writeB_rampTab s c bad _ _)
@[simp] theorem State.putArea_rampNext (c : CtxNo) (bad : List (Nat × Nat)) (o : Opnd) (i : Nat) (l : List Byte) : (s.putArea c bad o i l).rampNext = s.rampNext := by
  induction l generalizing s i with
  | nil => rfl
  | cons b t ih => exact (ih (s.writeB c bad (o.byteAddr i) [b]) (i + 1)).trans (State.writeB_rampNext s c bad _ _)
@[simp] theorem State.putArea_riskTab (c : CtxNo) (bad : List (Nat × Nat)) (o : Opnd) (i : Nat) (l : List Byte) : (s.putArea c bad o i l).riskTab = s.riskTab := by
  induction l generalizing s i with
  | nil => rfl
  | cons b t ih => exact (ih (s.writeB c bad (o.byteAddr i) [b]) (i + 1)).trans (State.writeB_riskTab s c bad _ _)
@[simp] theorem State.putArea_regions (c : CtxNo) (bad : List (Nat × Nat)) (o : Opnd) (i : Nat) (l : List Byte) : (s.putArea c bad o i l).regions = s.regions := by
  induction l generalizing s i with
  | nil => rfl
  | cons b t ih => exact (ih (s.writeB c bad (o.byteAddr i) [b]) (i + 1)).trans (State.writeB_regions s c bad _ _)
@[simp] theorem State.putArea_groups (c : CtxNo) (bad : List (Nat × Nat)) (o : Opnd) (i : Nat) (l : List Byte) : (s.putArea c bad o i l).groups = s.groups := by
  induction l generalizing s i with
  | nil => rfl
  | cons b t ih => exact (ih (s.writeB c bad (o.byteAddr i) [b]) (i + 1)).trans (State.writeB_groups s c bad _ _)
@[simp] theorem State.putArea_descs (c : CtxNo) (bad : List (Nat × Nat)) (o : Opnd) (i : Nat) (l : List Byte) : (s.putArea c bad o i l).descs = s.descs := by
  induction l generalizing s i with
  | nil => rfl
  | cons b t ih => exact (ih (s.writeB c bad (o.byteAddr i) [b]) (i + 1)).trans (State.writeB_descs s c bad _ _)
@[simp] theorem State.putArea_descGen (c : CtxNo) (bad : List (Nat × Nat)) (o : Opnd) (i : Nat) (l : List Byte) : (s.putArea c bad o i l).descGen = s.descGen := by
  induction l generalizing s i with
  | nil => rfl
  | cons b t ih => exact (ih (s.writeB c bad (o.byteAddr i) [b]) (i + 1)).trans (State.writeB_descGen s c bad _ _)
@[simp] theorem State.putArea_slots (c : CtxNo) (bad : List (Nat × Nat)) (o : Opnd) (i : Nat) (l : List Byte) : (s.putArea c bad o i l).slots = s.slots := by
  induction l generalizing s i with
  | nil => rfl
  | cons b t ih => exact (ih (s.writeB c bad (o.byteAddr i) [b]) (i + 1)).trans (State.writeB_slots s c bad _ _)
@[simp] theorem State.putArea_touch (c : CtxNo) (bad : List (Nat × Nat)) (o : Opnd) (i : Nat) (l : List Byte) : (s.putArea c bad o i l).touch = s.touch := by
  induction l generalizing s i with
  | nil => rfl
  | cons b t ih => exact (ih (s.writeB c bad (o.byteAddr i) [b]) (i + 1)).trans (State.writeB_touch s c bad _ _)
@[simp] theorem State.putArea_lane (c : CtxNo) (bad : List (Nat × Nat)) (o : Opnd) (i : Nat) (l : List Byte) : (s.putArea c bad o i l).lane = s.lane := by
  induction l generalizing s i with
  | nil => rfl
  | cons b t ih => exact (ih (s.writeB c bad (o.byteAddr i) [b]) (i + 1)).trans (State.writeB_lane s c bad _ _)
@[simp] theorem State.putArea_staging (c : CtxNo) (bad : List (Nat × Nat)) (o : Opnd) (i : Nat) (l : List Byte) : (s.putArea c bad o i l).staging = s.staging := by
  induction l generalizing s i with
  | nil => rfl
  | cons b t ih => exact (ih (s.writeB c bad (o.byteAddr i) [b]) (i + 1)).trans (State.writeB_staging s c bad _ _)
@[simp] theorem State.putArea_tlb (c : CtxNo) (bad : List (Nat × Nat)) (o : Opnd) (i : Nat) (l : List Byte) : (s.putArea c bad o i l).tlb = s.tlb := by
  induction l generalizing s i with
  | nil => rfl
  | cons b t ih => exact (ih (s.writeB c bad (o.byteAddr i) [b]) (i + 1)).trans (State.writeB_tlb s c bad _ _)
@[simp] theorem State.putArea_walks (c : CtxNo) (bad : List (Nat × Nat)) (o : Opnd) (i : Nat) (l : List Byte) : (s.putArea c bad o i l).walks = s.walks := by
  induction l generalizing s i with
  | nil => rfl
  | cons b t ih => exact (ih (s.writeB c bad (o.byteAddr i) [b]) (i + 1)).trans (State.writeB_walks s c bad _ _)
@[simp] theorem State.putArea_invals (c : CtxNo) (bad : List (Nat × Nat)) (o : Opnd) (i : Nat) (l : List Byte) : (s.putArea c bad o i l).invals = s.invals := by
  induction l generalizing s i with
  | nil => rfl
  | cons b t ih => exact (ih (s.writeB c bad (o.byteAddr i) [b]) (i + 1)).trans (State.writeB_invals s c bad _ _)
@[simp] theorem State.putArea_invalReq (c : CtxNo) (bad : List (Nat × Nat)) (o : Opnd) (i : Nat) (l : List Byte) : (s.putArea c bad o i l).invalReq = s.invalReq := by
  induction l generalizing s i with
  | nil => rfl
  | cons b t ih => exact (ih (s.writeB c bad (o.byteAddr i) [b]) (i + 1)).trans (State.writeB_invalReq s c bad _ _)
@[simp] theorem State.putArea_invalDone (c : CtxNo) (bad : List (Nat × Nat)) (o : Opnd) (i : Nat) (l : List Byte) : (s.putArea c bad o i l).invalDone = s.invalDone := by
  induction l generalizing s i with
  | nil => rfl
  | cons b t ih => exact (ih (s.writeB c bad (o.byteAddr i) [b]) (i + 1)).trans (State.writeB_invalDone s c bad _ _)
@[simp] theorem State.putArea_reqs (c : CtxNo) (bad : List (Nat × Nat)) (o : Opnd) (i : Nat) (l : List Byte) : (s.putArea c bad o i l).reqs = s.reqs := by
  induction l generalizing s i with
  | nil => rfl
  | cons b t ih => exact (ih (s.writeB c bad (o.byteAddr i) [b]) (i + 1)).trans (State.writeB_reqs s c bad _ _)
@[simp] theorem State.putArea_sent (c : CtxNo) (bad : List (Nat × Nat)) (o : Opnd) (i : Nat) (l : List Byte) : (s.putArea c bad o i l).sent = s.sent := by
  induction l generalizing s i with
  | nil => rfl
  | cons b t ih => exact (ih (s.writeB c bad (o.byteAddr i) [b]) (i + 1)).trans (State.writeB_sent s c bad _ _)
@[simp] theorem State.putArea_waits (c : CtxNo) (bad : List (Nat × Nat)) (o : Opnd) (i : Nat) (l : List Byte) : (s.putArea c bad o i l).waits = s.waits := by
  induction l generalizing s i with
  | nil => rfl
  | cons b t ih => exact (ih (s.writeB c bad (o.byteAddr i) [b]) (i + 1)).trans (State.writeB_waits s c bad _ _)
@[simp] theorem State.putArea_dovetail (c : CtxNo) (bad : List (Nat × Nat)) (o : Opnd) (i : Nat) (l : List Byte) : (s.putArea c bad o i l).dovetail = s.dovetail := by
  induction l generalizing s i with
  | nil => rfl
  | cons b t ih => exact (ih (s.writeB c bad (o.byteAddr i) [b]) (i + 1)).trans (State.writeB_dovetail s c bad _ _)
@[simp] theorem State.putArea_locks (c : CtxNo) (bad : List (Nat × Nat)) (o : Opnd) (i : Nat) (l : List Byte) : (s.putArea c bad o i l).locks = s.locks := by
  induction l generalizing s i with
  | nil => rfl
  | cons b t ih => exact (ih (s.writeB c bad (o.byteAddr i) [b]) (i + 1)).trans (State.writeB_locks s c bad _ _)
@[simp] theorem State.putArea_chains (c : CtxNo) (bad : List (Nat × Nat)) (o : Opnd) (i : Nat) (l : List Byte) : (s.putArea c bad o i l).chains = s.chains := by
  induction l generalizing s i with
  | nil => rfl
  | cons b t ih => exact (ih (s.writeB c bad (o.byteAddr i) [b]) (i + 1)).trans (State.writeB_chains s c bad _ _)
@[simp] theorem State.putArea_chainOut (c : CtxNo) (bad : List (Nat × Nat)) (o : Opnd) (i : Nat) (l : List Byte) : (s.putArea c bad o i l).chainOut = s.chainOut := by
  induction l generalizing s i with
  | nil => rfl
  | cons b t ih => exact (ih (s.writeB c bad (o.byteAddr i) [b]) (i + 1)).trans (State.writeB_chainOut s c bad _ _)
@[simp] theorem State.putArea_port (c : CtxNo) (bad : List (Nat × Nat)) (o : Opnd) (i : Nat) (l : List Byte) : (s.putArea c bad o i l).port = s.port := by
  induction l generalizing s i with
  | nil => rfl
  | cons b t ih => exact (ih (s.writeB c bad (o.byteAddr i) [b]) (i + 1)).trans (State.writeB_port s c bad _ _)
@[simp] theorem State.putArea_ckpt (c : CtxNo) (bad : List (Nat × Nat)) (o : Opnd) (i : Nat) (l : List Byte) : (s.putArea c bad o i l).ckpt = s.ckpt := by
  induction l generalizing s i with
  | nil => rfl
  | cons b t ih => exact (ih (s.writeB c bad (o.byteAddr i) [b]) (i + 1)).trans (State.writeB_ckpt s c bad _ _)
@[simp] theorem State.putArea_risk (c : CtxNo) (bad : List (Nat × Nat)) (o : Opnd) (i : Nat) (l : List Byte) : (s.putArea c bad o i l).risk = s.risk := by
  induction l generalizing s i with
  | nil => rfl
  | cons b t ih => exact (ih (s.writeB c bad (o.byteAddr i) [b]) (i + 1)).trans (State.writeB_risk s c bad _ _)
@[simp] theorem State.putArea_log (c : CtxNo) (bad : List (Nat × Nat)) (o : Opnd) (i : Nat) (l : List Byte) : (s.putArea c bad o i l).log = s.log := by
  induction l generalizing s i with
  | nil => rfl
  | cons b t ih => exact (ih (s.writeB c bad (o.byteAddr i) [b]) (i + 1)).trans (State.writeB_log s c bad _ _)
@[simp] theorem State.putArea_tel (c : CtxNo) (bad : List (Nat × Nat)) (o : Opnd) (i : Nat) (l : List Byte) : (s.putArea c bad o i l).tel = s.tel := by
  induction l generalizing s i with
  | nil => rfl
  | cons b t ih => exact (ih (s.writeB c bad (o.byteAddr i) [b]) (i + 1)).trans (State.writeB_tel s c bad _ _)
@[simp] theorem State.putArea_pow (c : CtxNo) (bad : List (Nat × Nat)) (o : Opnd) (i : Nat) (l : List Byte) : (s.putArea c bad o i l).pow = s.pow := by
  induction l generalizing s i with
  | nil => rfl
  | cons b t ih => exact (ih (s.writeB c bad (o.byteAddr i) [b]) (i + 1)).trans (State.writeB_pow s c bad _ _)
@[simp] theorem State.putArea_bist (c : CtxNo) (bad : List (Nat × Nat)) (o : Opnd) (i : Nat) (l : List Byte) : (s.putArea c bad o i l).bist = s.bist := by
  induction l generalizing s i with
  | nil => rfl
  | cons b t ih => exact (ih (s.writeB c bad (o.byteAddr i) [b]) (i + 1)).trans (State.writeB_bist s c bad _ _)
@[simp] theorem State.putArea_sec (c : CtxNo) (bad : List (Nat × Nat)) (o : Opnd) (i : Nat) (l : List Byte) : (s.putArea c bad o i l).sec = s.sec := by
  induction l generalizing s i with
  | nil => rfl
  | cons b t ih => exact (ih (s.writeB c bad (o.byteAddr i) [b]) (i + 1)).trans (State.writeB_sec s c bad _ _)
@[simp] theorem State.putArea_mgmt (c : CtxNo) (bad : List (Nat × Nat)) (o : Opnd) (i : Nat) (l : List Byte) : (s.putArea c bad o i l).mgmt = s.mgmt := by
  induction l generalizing s i with
  | nil => rfl
  | cons b t ih => exact (ih (s.writeB c bad (o.byteAddr i) [b]) (i + 1)).trans (State.writeB_mgmt s c bad _ _)
@[simp] theorem State.putArea_train (c : CtxNo) (bad : List (Nat × Nat)) (o : Opnd) (i : Nat) (l : List Byte) : (s.putArea c bad o i l).train = s.train := by
  induction l generalizing s i with
  | nil => rfl
  | cons b t ih => exact (ih (s.writeB c bad (o.byteAddr i) [b]) (i + 1)).trans (State.writeB_train s c bad _ _)

@[simp] theorem State.pulse_pending (l : Nat) : (s.pulse l).pending = s.pending := rfl
@[simp] theorem State.pulse_now (l : Nat) : (s.pulse l).now = s.now := rfl
@[simp] theorem State.pulse_free (l : Nat) : (s.pulse l).free = s.free := rfl
@[simp] theorem State.pulse_core (l : Nat) : (s.pulse l).core = s.core := rfl
@[simp] theorem State.pulse_remote (l : Nat) : (s.pulse l).remote = s.remote := rfl
@[simp] theorem State.pulse_eng (l : Nat) : (s.pulse l).eng = s.eng := rfl
@[simp] theorem State.pulse_tick (l : Nat) : (s.pulse l).tick = s.tick := rfl
@[simp] theorem State.pulse_ctxs (l : Nat) : (s.pulse l).ctxs = s.ctxs := rfl
@[simp] theorem State.pulse_fmts (l : Nat) : (s.pulse l).fmts = s.fmts := rfl
@[simp] theorem State.pulse_rts (l : Nat) : (s.pulse l).rts = s.rts := rfl
@[simp] theorem State.pulse_prio (l : Nat) : (s.pulse l).prio = s.prio := rfl
@[simp] theorem State.pulse_prioNext (l : Nat) : (s.pulse l).prioNext = s.prioNext := rfl
@[simp] theorem State.pulse_schedLast (l : Nat) : (s.pulse l).schedLast = s.schedLast := rfl
@[simp] theorem State.pulse_schedTurn (l : Nat) : (s.pulse l).schedTurn = s.schedTurn := rfl
@[simp] theorem State.pulse_stallMap (l : Nat) : (s.pulse l).stallMap = s.stallMap := rfl
@[simp] theorem State.pulse_rampTab (l : Nat) : (s.pulse l).rampTab = s.rampTab := rfl
@[simp] theorem State.pulse_rampNext (l : Nat) : (s.pulse l).rampNext = s.rampNext := rfl
@[simp] theorem State.pulse_riskTab (l : Nat) : (s.pulse l).riskTab = s.riskTab := rfl
@[simp] theorem State.pulse_regions (l : Nat) : (s.pulse l).regions = s.regions := rfl
@[simp] theorem State.pulse_groups (l : Nat) : (s.pulse l).groups = s.groups := rfl
@[simp] theorem State.pulse_descs (l : Nat) : (s.pulse l).descs = s.descs := rfl
@[simp] theorem State.pulse_descGen (l : Nat) : (s.pulse l).descGen = s.descGen := rfl
@[simp] theorem State.pulse_slots (l : Nat) : (s.pulse l).slots = s.slots := rfl
@[simp] theorem State.pulse_touch (l : Nat) : (s.pulse l).touch = s.touch := rfl
@[simp] theorem State.pulse_lane (l : Nat) : (s.pulse l).lane = s.lane := rfl
@[simp] theorem State.pulse_staging (l : Nat) : (s.pulse l).staging = s.staging := rfl
@[simp] theorem State.pulse_tlb (l : Nat) : (s.pulse l).tlb = s.tlb := rfl
@[simp] theorem State.pulse_walks (l : Nat) : (s.pulse l).walks = s.walks := rfl
@[simp] theorem State.pulse_invals (l : Nat) : (s.pulse l).invals = s.invals := rfl
@[simp] theorem State.pulse_invalReq (l : Nat) : (s.pulse l).invalReq = s.invalReq := rfl
@[simp] theorem State.pulse_invalDone (l : Nat) : (s.pulse l).invalDone = s.invalDone := rfl
@[simp] theorem State.pulse_reqs (l : Nat) : (s.pulse l).reqs = s.reqs := rfl
@[simp] theorem State.pulse_sent (l : Nat) : (s.pulse l).sent = s.sent := rfl
@[simp] theorem State.pulse_waits (l : Nat) : (s.pulse l).waits = s.waits := rfl
@[simp] theorem State.pulse_dovetail (l : Nat) : (s.pulse l).dovetail = s.dovetail := rfl
@[simp] theorem State.pulse_locks (l : Nat) : (s.pulse l).locks = s.locks := rfl
@[simp] theorem State.pulse_chains (l : Nat) : (s.pulse l).chains = s.chains := rfl
@[simp] theorem State.pulse_chainOut (l : Nat) : (s.pulse l).chainOut = s.chainOut := rfl
@[simp] theorem State.pulse_port (l : Nat) : (s.pulse l).port = s.port := rfl
@[simp] theorem State.pulse_ckpt (l : Nat) : (s.pulse l).ckpt = s.ckpt := rfl
@[simp] theorem State.pulse_risk (l : Nat) : (s.pulse l).risk = s.risk := rfl
@[simp] theorem State.pulse_log (l : Nat) : (s.pulse l).log = s.log := rfl
@[simp] theorem State.pulse_tel (l : Nat) : (s.pulse l).tel = s.tel := rfl
@[simp] theorem State.pulse_pow (l : Nat) : (s.pulse l).pow = s.pow := rfl
@[simp] theorem State.pulse_bist (l : Nat) : (s.pulse l).bist = s.bist := rfl
@[simp] theorem State.pulse_sec (l : Nat) : (s.pulse l).sec = s.sec := rfl
@[simp] theorem State.pulse_mgmt (l : Nat) : (s.pulse l).mgmt = s.mgmt := rfl
@[simp] theorem State.pulse_train (l : Nat) : (s.pulse l).train = s.train := rfl

@[simp] theorem State.ringReady_pending (c : CtxNo) (va : Nat) (w : Bool) : ((s.ringReady c va w).2).pending = s.pending := by unfold State.ringReady; split <;> rfl
@[simp] theorem State.ringReady_now (c : CtxNo) (va : Nat) (w : Bool) : ((s.ringReady c va w).2).now = s.now := by unfold State.ringReady; split <;> rfl
@[simp] theorem State.ringReady_free (c : CtxNo) (va : Nat) (w : Bool) : ((s.ringReady c va w).2).free = s.free := by unfold State.ringReady; split <;> rfl
@[simp] theorem State.ringReady_core (c : CtxNo) (va : Nat) (w : Bool) : ((s.ringReady c va w).2).core = s.core := by unfold State.ringReady; split <;> rfl
@[simp] theorem State.ringReady_remote (c : CtxNo) (va : Nat) (w : Bool) : ((s.ringReady c va w).2).remote = s.remote := by unfold State.ringReady; split <;> rfl
@[simp] theorem State.ringReady_evt (c : CtxNo) (va : Nat) (w : Bool) : ((s.ringReady c va w).2).evt = s.evt := by unfold State.ringReady; split <;> rfl
@[simp] theorem State.ringReady_eng (c : CtxNo) (va : Nat) (w : Bool) : ((s.ringReady c va w).2).eng = s.eng := by unfold State.ringReady; split <;> rfl
@[simp] theorem State.ringReady_tick (c : CtxNo) (va : Nat) (w : Bool) : ((s.ringReady c va w).2).tick = s.tick := by unfold State.ringReady; split <;> rfl
@[simp] theorem State.ringReady_ctxs (c : CtxNo) (va : Nat) (w : Bool) : ((s.ringReady c va w).2).ctxs = s.ctxs := by unfold State.ringReady; split <;> rfl
@[simp] theorem State.ringReady_fmts (c : CtxNo) (va : Nat) (w : Bool) : ((s.ringReady c va w).2).fmts = s.fmts := by unfold State.ringReady; split <;> rfl
@[simp] theorem State.ringReady_rts (c : CtxNo) (va : Nat) (w : Bool) : ((s.ringReady c va w).2).rts = s.rts := by unfold State.ringReady; split <;> rfl
@[simp] theorem State.ringReady_prio (c : CtxNo) (va : Nat) (w : Bool) : ((s.ringReady c va w).2).prio = s.prio := by unfold State.ringReady; split <;> rfl
@[simp] theorem State.ringReady_prioNext (c : CtxNo) (va : Nat) (w : Bool) : ((s.ringReady c va w).2).prioNext = s.prioNext := by unfold State.ringReady; split <;> rfl
@[simp] theorem State.ringReady_schedLast (c : CtxNo) (va : Nat) (w : Bool) : ((s.ringReady c va w).2).schedLast = s.schedLast := by unfold State.ringReady; split <;> rfl
@[simp] theorem State.ringReady_schedTurn (c : CtxNo) (va : Nat) (w : Bool) : ((s.ringReady c va w).2).schedTurn = s.schedTurn := by unfold State.ringReady; split <;> rfl
@[simp] theorem State.ringReady_stallMap (c : CtxNo) (va : Nat) (w : Bool) : ((s.ringReady c va w).2).stallMap = s.stallMap := by unfold State.ringReady; split <;> rfl
@[simp] theorem State.ringReady_rampTab (c : CtxNo) (va : Nat) (w : Bool) : ((s.ringReady c va w).2).rampTab = s.rampTab := by unfold State.ringReady; split <;> rfl
@[simp] theorem State.ringReady_rampNext (c : CtxNo) (va : Nat) (w : Bool) : ((s.ringReady c va w).2).rampNext = s.rampNext := by unfold State.ringReady; split <;> rfl
@[simp] theorem State.ringReady_riskTab (c : CtxNo) (va : Nat) (w : Bool) : ((s.ringReady c va w).2).riskTab = s.riskTab := by unfold State.ringReady; split <;> rfl
@[simp] theorem State.ringReady_regions (c : CtxNo) (va : Nat) (w : Bool) : ((s.ringReady c va w).2).regions = s.regions := by unfold State.ringReady; split <;> rfl
@[simp] theorem State.ringReady_groups (c : CtxNo) (va : Nat) (w : Bool) : ((s.ringReady c va w).2).groups = s.groups := by unfold State.ringReady; split <;> rfl
@[simp] theorem State.ringReady_descs (c : CtxNo) (va : Nat) (w : Bool) : ((s.ringReady c va w).2).descs = s.descs := by unfold State.ringReady; split <;> rfl
@[simp] theorem State.ringReady_descGen (c : CtxNo) (va : Nat) (w : Bool) : ((s.ringReady c va w).2).descGen = s.descGen := by unfold State.ringReady; split <;> rfl
@[simp] theorem State.ringReady_slots (c : CtxNo) (va : Nat) (w : Bool) : ((s.ringReady c va w).2).slots = s.slots := by unfold State.ringReady; split <;> rfl
@[simp] theorem State.ringReady_touch (c : CtxNo) (va : Nat) (w : Bool) : ((s.ringReady c va w).2).touch = s.touch := by unfold State.ringReady; split <;> rfl
@[simp] theorem State.ringReady_lane (c : CtxNo) (va : Nat) (w : Bool) : ((s.ringReady c va w).2).lane = s.lane := by unfold State.ringReady; split <;> rfl
@[simp] theorem State.ringReady_staging (c : CtxNo) (va : Nat) (w : Bool) : ((s.ringReady c va w).2).staging = s.staging := by unfold State.ringReady; split <;> rfl
@[simp] theorem State.ringReady_invals (c : CtxNo) (va : Nat) (w : Bool) : ((s.ringReady c va w).2).invals = s.invals := by unfold State.ringReady; split <;> rfl
@[simp] theorem State.ringReady_invalReq (c : CtxNo) (va : Nat) (w : Bool) : ((s.ringReady c va w).2).invalReq = s.invalReq := by unfold State.ringReady; split <;> rfl
@[simp] theorem State.ringReady_invalDone (c : CtxNo) (va : Nat) (w : Bool) : ((s.ringReady c va w).2).invalDone = s.invalDone := by unfold State.ringReady; split <;> rfl
@[simp] theorem State.ringReady_reqs (c : CtxNo) (va : Nat) (w : Bool) : ((s.ringReady c va w).2).reqs = s.reqs := by unfold State.ringReady; split <;> rfl
@[simp] theorem State.ringReady_sent (c : CtxNo) (va : Nat) (w : Bool) : ((s.ringReady c va w).2).sent = s.sent := by unfold State.ringReady; split <;> rfl
@[simp] theorem State.ringReady_waits (c : CtxNo) (va : Nat) (w : Bool) : ((s.ringReady c va w).2).waits = s.waits := by unfold State.ringReady; split <;> rfl
@[simp] theorem State.ringReady_dovetail (c : CtxNo) (va : Nat) (w : Bool) : ((s.ringReady c va w).2).dovetail = s.dovetail := by unfold State.ringReady; split <;> rfl
@[simp] theorem State.ringReady_locks (c : CtxNo) (va : Nat) (w : Bool) : ((s.ringReady c va w).2).locks = s.locks := by unfold State.ringReady; split <;> rfl
@[simp] theorem State.ringReady_chains (c : CtxNo) (va : Nat) (w : Bool) : ((s.ringReady c va w).2).chains = s.chains := by unfold State.ringReady; split <;> rfl
@[simp] theorem State.ringReady_chainOut (c : CtxNo) (va : Nat) (w : Bool) : ((s.ringReady c va w).2).chainOut = s.chainOut := by unfold State.ringReady; split <;> rfl
@[simp] theorem State.ringReady_port (c : CtxNo) (va : Nat) (w : Bool) : ((s.ringReady c va w).2).port = s.port := by unfold State.ringReady; split <;> rfl
@[simp] theorem State.ringReady_ckpt (c : CtxNo) (va : Nat) (w : Bool) : ((s.ringReady c va w).2).ckpt = s.ckpt := by unfold State.ringReady; split <;> rfl
@[simp] theorem State.ringReady_risk (c : CtxNo) (va : Nat) (w : Bool) : ((s.ringReady c va w).2).risk = s.risk := by unfold State.ringReady; split <;> rfl
@[simp] theorem State.ringReady_log (c : CtxNo) (va : Nat) (w : Bool) : ((s.ringReady c va w).2).log = s.log := by unfold State.ringReady; split <;> rfl
@[simp] theorem State.ringReady_tel (c : CtxNo) (va : Nat) (w : Bool) : ((s.ringReady c va w).2).tel = s.tel := by unfold State.ringReady; split <;> rfl
@[simp] theorem State.ringReady_pow (c : CtxNo) (va : Nat) (w : Bool) : ((s.ringReady c va w).2).pow = s.pow := by unfold State.ringReady; split <;> rfl
@[simp] theorem State.ringReady_bist (c : CtxNo) (va : Nat) (w : Bool) : ((s.ringReady c va w).2).bist = s.bist := by unfold State.ringReady; split <;> rfl
@[simp] theorem State.ringReady_sec (c : CtxNo) (va : Nat) (w : Bool) : ((s.ringReady c va w).2).sec = s.sec := by unfold State.ringReady; split <;> rfl
@[simp] theorem State.ringReady_mgmt (c : CtxNo) (va : Nat) (w : Bool) : ((s.ringReady c va w).2).mgmt = s.mgmt := by unfold State.ringReady; split <;> rfl
@[simp] theorem State.ringReady_train (c : CtxNo) (va : Nat) (w : Bool) : ((s.ringReady c va w).2).train = s.train := by unfold State.ringReady; split <;> rfl

@[simp] theorem State.postEntry_pending (c : CtxNo) (e : BitVec 256) : (s.postEntry c e).pending = s.pending := by
  unfold State.postEntry; dsimp only; rw [State.modCtx_pending]; exact State.pokeN_pending s c _ _
@[simp] theorem State.postEntry_now (c : CtxNo) (e : BitVec 256) : (s.postEntry c e).now = s.now := by
  unfold State.postEntry; dsimp only; rw [State.modCtx_now]; exact State.pokeN_now s c _ _
@[simp] theorem State.postEntry_free (c : CtxNo) (e : BitVec 256) : (s.postEntry c e).free = s.free := by
  unfold State.postEntry; dsimp only; rw [State.modCtx_free]; exact State.pokeN_free s c _ _
@[simp] theorem State.postEntry_evt (c : CtxNo) (e : BitVec 256) : (s.postEntry c e).evt = s.evt := by
  unfold State.postEntry; dsimp only; rw [State.modCtx_evt]; exact State.pokeN_evt s c _ _
@[simp] theorem State.postEntry_eng (c : CtxNo) (e : BitVec 256) : (s.postEntry c e).eng = s.eng := by
  unfold State.postEntry; dsimp only; rw [State.modCtx_eng]; exact State.pokeN_eng s c _ _
@[simp] theorem State.postEntry_tick (c : CtxNo) (e : BitVec 256) : (s.postEntry c e).tick = s.tick := by
  unfold State.postEntry; dsimp only; rw [State.modCtx_tick]; exact State.pokeN_tick s c _ _
@[simp] theorem State.postEntry_fmts (c : CtxNo) (e : BitVec 256) : (s.postEntry c e).fmts = s.fmts := by
  unfold State.postEntry; dsimp only; rw [State.modCtx_fmts]; exact State.pokeN_fmts s c _ _
@[simp] theorem State.postEntry_rts (c : CtxNo) (e : BitVec 256) : (s.postEntry c e).rts = s.rts := by
  unfold State.postEntry; dsimp only; rw [State.modCtx_rts]; exact State.pokeN_rts s c _ _
@[simp] theorem State.postEntry_prio (c : CtxNo) (e : BitVec 256) : (s.postEntry c e).prio = s.prio := by
  unfold State.postEntry; dsimp only; rw [State.modCtx_prio]; exact State.pokeN_prio s c _ _
@[simp] theorem State.postEntry_prioNext (c : CtxNo) (e : BitVec 256) : (s.postEntry c e).prioNext = s.prioNext := by
  unfold State.postEntry; dsimp only; rw [State.modCtx_prioNext]; exact State.pokeN_prioNext s c _ _
@[simp] theorem State.postEntry_schedLast (c : CtxNo) (e : BitVec 256) : (s.postEntry c e).schedLast = s.schedLast := by
  unfold State.postEntry; dsimp only; rw [State.modCtx_schedLast]; exact State.pokeN_schedLast s c _ _
@[simp] theorem State.postEntry_schedTurn (c : CtxNo) (e : BitVec 256) : (s.postEntry c e).schedTurn = s.schedTurn := by
  unfold State.postEntry; dsimp only; rw [State.modCtx_schedTurn]; exact State.pokeN_schedTurn s c _ _
@[simp] theorem State.postEntry_stallMap (c : CtxNo) (e : BitVec 256) : (s.postEntry c e).stallMap = s.stallMap := by
  unfold State.postEntry; dsimp only; rw [State.modCtx_stallMap]; exact State.pokeN_stallMap s c _ _
@[simp] theorem State.postEntry_rampTab (c : CtxNo) (e : BitVec 256) : (s.postEntry c e).rampTab = s.rampTab := by
  unfold State.postEntry; dsimp only; rw [State.modCtx_rampTab]; exact State.pokeN_rampTab s c _ _
@[simp] theorem State.postEntry_rampNext (c : CtxNo) (e : BitVec 256) : (s.postEntry c e).rampNext = s.rampNext := by
  unfold State.postEntry; dsimp only; rw [State.modCtx_rampNext]; exact State.pokeN_rampNext s c _ _
@[simp] theorem State.postEntry_riskTab (c : CtxNo) (e : BitVec 256) : (s.postEntry c e).riskTab = s.riskTab := by
  unfold State.postEntry; dsimp only; rw [State.modCtx_riskTab]; exact State.pokeN_riskTab s c _ _
@[simp] theorem State.postEntry_regions (c : CtxNo) (e : BitVec 256) : (s.postEntry c e).regions = s.regions := by
  unfold State.postEntry; dsimp only; rw [State.modCtx_regions]; exact State.pokeN_regions s c _ _
@[simp] theorem State.postEntry_groups (c : CtxNo) (e : BitVec 256) : (s.postEntry c e).groups = s.groups := by
  unfold State.postEntry; dsimp only; rw [State.modCtx_groups]; exact State.pokeN_groups s c _ _
@[simp] theorem State.postEntry_descs (c : CtxNo) (e : BitVec 256) : (s.postEntry c e).descs = s.descs := by
  unfold State.postEntry; dsimp only; rw [State.modCtx_descs]; exact State.pokeN_descs s c _ _
@[simp] theorem State.postEntry_descGen (c : CtxNo) (e : BitVec 256) : (s.postEntry c e).descGen = s.descGen := by
  unfold State.postEntry; dsimp only; rw [State.modCtx_descGen]; exact State.pokeN_descGen s c _ _
@[simp] theorem State.postEntry_slots (c : CtxNo) (e : BitVec 256) : (s.postEntry c e).slots = s.slots := by
  unfold State.postEntry; dsimp only; rw [State.modCtx_slots]; exact State.pokeN_slots s c _ _
@[simp] theorem State.postEntry_touch (c : CtxNo) (e : BitVec 256) : (s.postEntry c e).touch = s.touch := by
  unfold State.postEntry; dsimp only; rw [State.modCtx_touch]; exact State.pokeN_touch s c _ _
@[simp] theorem State.postEntry_lane (c : CtxNo) (e : BitVec 256) : (s.postEntry c e).lane = s.lane := by
  unfold State.postEntry; dsimp only; rw [State.modCtx_lane]; exact State.pokeN_lane s c _ _
@[simp] theorem State.postEntry_staging (c : CtxNo) (e : BitVec 256) : (s.postEntry c e).staging = s.staging := by
  unfold State.postEntry; dsimp only; rw [State.modCtx_staging]; exact State.pokeN_staging s c _ _
@[simp] theorem State.postEntry_tlb (c : CtxNo) (e : BitVec 256) : (s.postEntry c e).tlb = s.tlb := by
  unfold State.postEntry; dsimp only; rw [State.modCtx_tlb]; exact State.pokeN_tlb s c _ _
@[simp] theorem State.postEntry_walks (c : CtxNo) (e : BitVec 256) : (s.postEntry c e).walks = s.walks := by
  unfold State.postEntry; dsimp only; rw [State.modCtx_walks]; exact State.pokeN_walks s c _ _
@[simp] theorem State.postEntry_invals (c : CtxNo) (e : BitVec 256) : (s.postEntry c e).invals = s.invals := by
  unfold State.postEntry; dsimp only; rw [State.modCtx_invals]; exact State.pokeN_invals s c _ _
@[simp] theorem State.postEntry_invalReq (c : CtxNo) (e : BitVec 256) : (s.postEntry c e).invalReq = s.invalReq := by
  unfold State.postEntry; dsimp only; rw [State.modCtx_invalReq]; exact State.pokeN_invalReq s c _ _
@[simp] theorem State.postEntry_invalDone (c : CtxNo) (e : BitVec 256) : (s.postEntry c e).invalDone = s.invalDone := by
  unfold State.postEntry; dsimp only; rw [State.modCtx_invalDone]; exact State.pokeN_invalDone s c _ _
@[simp] theorem State.postEntry_reqs (c : CtxNo) (e : BitVec 256) : (s.postEntry c e).reqs = s.reqs := by
  unfold State.postEntry; dsimp only; rw [State.modCtx_reqs]; exact State.pokeN_reqs s c _ _
@[simp] theorem State.postEntry_sent (c : CtxNo) (e : BitVec 256) : (s.postEntry c e).sent = s.sent := by
  unfold State.postEntry; dsimp only; rw [State.modCtx_sent]; exact State.pokeN_sent s c _ _
@[simp] theorem State.postEntry_waits (c : CtxNo) (e : BitVec 256) : (s.postEntry c e).waits = s.waits := by
  unfold State.postEntry; dsimp only; rw [State.modCtx_waits]; exact State.pokeN_waits s c _ _
@[simp] theorem State.postEntry_dovetail (c : CtxNo) (e : BitVec 256) : (s.postEntry c e).dovetail = s.dovetail := by
  unfold State.postEntry; dsimp only; rw [State.modCtx_dovetail]; exact State.pokeN_dovetail s c _ _
@[simp] theorem State.postEntry_locks (c : CtxNo) (e : BitVec 256) : (s.postEntry c e).locks = s.locks := by
  unfold State.postEntry; dsimp only; rw [State.modCtx_locks]; exact State.pokeN_locks s c _ _
@[simp] theorem State.postEntry_chains (c : CtxNo) (e : BitVec 256) : (s.postEntry c e).chains = s.chains := by
  unfold State.postEntry; dsimp only; rw [State.modCtx_chains]; exact State.pokeN_chains s c _ _
@[simp] theorem State.postEntry_chainOut (c : CtxNo) (e : BitVec 256) : (s.postEntry c e).chainOut = s.chainOut := by
  unfold State.postEntry; dsimp only; rw [State.modCtx_chainOut]; exact State.pokeN_chainOut s c _ _
@[simp] theorem State.postEntry_port (c : CtxNo) (e : BitVec 256) : (s.postEntry c e).port = s.port := by
  unfold State.postEntry; dsimp only; rw [State.modCtx_port]; exact State.pokeN_port s c _ _
@[simp] theorem State.postEntry_ckpt (c : CtxNo) (e : BitVec 256) : (s.postEntry c e).ckpt = s.ckpt := by
  unfold State.postEntry; dsimp only; rw [State.modCtx_ckpt]; exact State.pokeN_ckpt s c _ _
@[simp] theorem State.postEntry_risk (c : CtxNo) (e : BitVec 256) : (s.postEntry c e).risk = s.risk := by
  unfold State.postEntry; dsimp only; rw [State.modCtx_risk]; exact State.pokeN_risk s c _ _
@[simp] theorem State.postEntry_log (c : CtxNo) (e : BitVec 256) : (s.postEntry c e).log = s.log := by
  unfold State.postEntry; dsimp only; rw [State.modCtx_log]; exact State.pokeN_log s c _ _
@[simp] theorem State.postEntry_tel (c : CtxNo) (e : BitVec 256) : (s.postEntry c e).tel = s.tel := by
  unfold State.postEntry; dsimp only; rw [State.modCtx_tel]; exact State.pokeN_tel s c _ _
@[simp] theorem State.postEntry_pow (c : CtxNo) (e : BitVec 256) : (s.postEntry c e).pow = s.pow := by
  unfold State.postEntry; dsimp only; rw [State.modCtx_pow]; exact State.pokeN_pow s c _ _
@[simp] theorem State.postEntry_bist (c : CtxNo) (e : BitVec 256) : (s.postEntry c e).bist = s.bist := by
  unfold State.postEntry; dsimp only; rw [State.modCtx_bist]; exact State.pokeN_bist s c _ _
@[simp] theorem State.postEntry_sec (c : CtxNo) (e : BitVec 256) : (s.postEntry c e).sec = s.sec := by
  unfold State.postEntry; dsimp only; rw [State.modCtx_sec]; exact State.pokeN_sec s c _ _
@[simp] theorem State.postEntry_mgmt (c : CtxNo) (e : BitVec 256) : (s.postEntry c e).mgmt = s.mgmt := by
  unfold State.postEntry; dsimp only; rw [State.modCtx_mgmt]; exact State.pokeN_mgmt s c _ _
@[simp] theorem State.postEntry_train (c : CtxNo) (e : BitVec 256) : (s.postEntry c e).train = s.train := by
  unfold State.postEntry; dsimp only; rw [State.modCtx_train]; exact State.pokeN_train s c _ _

@[simp] theorem State.postEvent_pending (c : CtxNo) (r : EventRec) : (s.postEvent c r).pending = s.pending := by
  unfold State.postEvent; dsimp only; split
  · rw [State.pulse_pending, State.modCtx_pending]; exact State.postEntry_pending s c _
  · rw [State.modCtx_pending]; exact State.postEntry_pending s c _
@[simp] theorem State.postEvent_now (c : CtxNo) (r : EventRec) : (s.postEvent c r).now = s.now := by
  unfold State.postEvent; dsimp only; split
  · rw [State.pulse_now, State.modCtx_now]; exact State.postEntry_now s c _
  · rw [State.modCtx_now]; exact State.postEntry_now s c _
@[simp] theorem State.postEvent_free (c : CtxNo) (r : EventRec) : (s.postEvent c r).free = s.free := by
  unfold State.postEvent; dsimp only; split
  · rw [State.pulse_free, State.modCtx_free]; exact State.postEntry_free s c _
  · rw [State.modCtx_free]; exact State.postEntry_free s c _
@[simp] theorem State.postEvent_eng (c : CtxNo) (r : EventRec) : (s.postEvent c r).eng = s.eng := by
  unfold State.postEvent; dsimp only; split
  · rw [State.pulse_eng, State.modCtx_eng]; exact State.postEntry_eng s c _
  · rw [State.modCtx_eng]; exact State.postEntry_eng s c _
@[simp] theorem State.postEvent_tick (c : CtxNo) (r : EventRec) : (s.postEvent c r).tick = s.tick := by
  unfold State.postEvent; dsimp only; split
  · rw [State.pulse_tick, State.modCtx_tick]; exact State.postEntry_tick s c _
  · rw [State.modCtx_tick]; exact State.postEntry_tick s c _
@[simp] theorem State.postEvent_fmts (c : CtxNo) (r : EventRec) : (s.postEvent c r).fmts = s.fmts := by
  unfold State.postEvent; dsimp only; split
  · rw [State.pulse_fmts, State.modCtx_fmts]; exact State.postEntry_fmts s c _
  · rw [State.modCtx_fmts]; exact State.postEntry_fmts s c _
@[simp] theorem State.postEvent_rts (c : CtxNo) (r : EventRec) : (s.postEvent c r).rts = s.rts := by
  unfold State.postEvent; dsimp only; split
  · rw [State.pulse_rts, State.modCtx_rts]; exact State.postEntry_rts s c _
  · rw [State.modCtx_rts]; exact State.postEntry_rts s c _
@[simp] theorem State.postEvent_prio (c : CtxNo) (r : EventRec) : (s.postEvent c r).prio = s.prio := by
  unfold State.postEvent; dsimp only; split
  · rw [State.pulse_prio, State.modCtx_prio]; exact State.postEntry_prio s c _
  · rw [State.modCtx_prio]; exact State.postEntry_prio s c _
@[simp] theorem State.postEvent_prioNext (c : CtxNo) (r : EventRec) : (s.postEvent c r).prioNext = s.prioNext := by
  unfold State.postEvent; dsimp only; split
  · rw [State.pulse_prioNext, State.modCtx_prioNext]; exact State.postEntry_prioNext s c _
  · rw [State.modCtx_prioNext]; exact State.postEntry_prioNext s c _
@[simp] theorem State.postEvent_schedLast (c : CtxNo) (r : EventRec) : (s.postEvent c r).schedLast = s.schedLast := by
  unfold State.postEvent; dsimp only; split
  · rw [State.pulse_schedLast, State.modCtx_schedLast]; exact State.postEntry_schedLast s c _
  · rw [State.modCtx_schedLast]; exact State.postEntry_schedLast s c _
@[simp] theorem State.postEvent_schedTurn (c : CtxNo) (r : EventRec) : (s.postEvent c r).schedTurn = s.schedTurn := by
  unfold State.postEvent; dsimp only; split
  · rw [State.pulse_schedTurn, State.modCtx_schedTurn]; exact State.postEntry_schedTurn s c _
  · rw [State.modCtx_schedTurn]; exact State.postEntry_schedTurn s c _
@[simp] theorem State.postEvent_stallMap (c : CtxNo) (r : EventRec) : (s.postEvent c r).stallMap = s.stallMap := by
  unfold State.postEvent; dsimp only; split
  · rw [State.pulse_stallMap, State.modCtx_stallMap]; exact State.postEntry_stallMap s c _
  · rw [State.modCtx_stallMap]; exact State.postEntry_stallMap s c _
@[simp] theorem State.postEvent_rampTab (c : CtxNo) (r : EventRec) : (s.postEvent c r).rampTab = s.rampTab := by
  unfold State.postEvent; dsimp only; split
  · rw [State.pulse_rampTab, State.modCtx_rampTab]; exact State.postEntry_rampTab s c _
  · rw [State.modCtx_rampTab]; exact State.postEntry_rampTab s c _
@[simp] theorem State.postEvent_rampNext (c : CtxNo) (r : EventRec) : (s.postEvent c r).rampNext = s.rampNext := by
  unfold State.postEvent; dsimp only; split
  · rw [State.pulse_rampNext, State.modCtx_rampNext]; exact State.postEntry_rampNext s c _
  · rw [State.modCtx_rampNext]; exact State.postEntry_rampNext s c _
@[simp] theorem State.postEvent_riskTab (c : CtxNo) (r : EventRec) : (s.postEvent c r).riskTab = s.riskTab := by
  unfold State.postEvent; dsimp only; split
  · rw [State.pulse_riskTab, State.modCtx_riskTab]; exact State.postEntry_riskTab s c _
  · rw [State.modCtx_riskTab]; exact State.postEntry_riskTab s c _
@[simp] theorem State.postEvent_regions (c : CtxNo) (r : EventRec) : (s.postEvent c r).regions = s.regions := by
  unfold State.postEvent; dsimp only; split
  · rw [State.pulse_regions, State.modCtx_regions]; exact State.postEntry_regions s c _
  · rw [State.modCtx_regions]; exact State.postEntry_regions s c _
@[simp] theorem State.postEvent_groups (c : CtxNo) (r : EventRec) : (s.postEvent c r).groups = s.groups := by
  unfold State.postEvent; dsimp only; split
  · rw [State.pulse_groups, State.modCtx_groups]; exact State.postEntry_groups s c _
  · rw [State.modCtx_groups]; exact State.postEntry_groups s c _
@[simp] theorem State.postEvent_descs (c : CtxNo) (r : EventRec) : (s.postEvent c r).descs = s.descs := by
  unfold State.postEvent; dsimp only; split
  · rw [State.pulse_descs, State.modCtx_descs]; exact State.postEntry_descs s c _
  · rw [State.modCtx_descs]; exact State.postEntry_descs s c _
@[simp] theorem State.postEvent_descGen (c : CtxNo) (r : EventRec) : (s.postEvent c r).descGen = s.descGen := by
  unfold State.postEvent; dsimp only; split
  · rw [State.pulse_descGen, State.modCtx_descGen]; exact State.postEntry_descGen s c _
  · rw [State.modCtx_descGen]; exact State.postEntry_descGen s c _
@[simp] theorem State.postEvent_slots (c : CtxNo) (r : EventRec) : (s.postEvent c r).slots = s.slots := by
  unfold State.postEvent; dsimp only; split
  · rw [State.pulse_slots, State.modCtx_slots]; exact State.postEntry_slots s c _
  · rw [State.modCtx_slots]; exact State.postEntry_slots s c _
@[simp] theorem State.postEvent_touch (c : CtxNo) (r : EventRec) : (s.postEvent c r).touch = s.touch := by
  unfold State.postEvent; dsimp only; split
  · rw [State.pulse_touch, State.modCtx_touch]; exact State.postEntry_touch s c _
  · rw [State.modCtx_touch]; exact State.postEntry_touch s c _
@[simp] theorem State.postEvent_lane (c : CtxNo) (r : EventRec) : (s.postEvent c r).lane = s.lane := by
  unfold State.postEvent; dsimp only; split
  · rw [State.pulse_lane, State.modCtx_lane]; exact State.postEntry_lane s c _
  · rw [State.modCtx_lane]; exact State.postEntry_lane s c _
@[simp] theorem State.postEvent_staging (c : CtxNo) (r : EventRec) : (s.postEvent c r).staging = s.staging := by
  unfold State.postEvent; dsimp only; split
  · rw [State.pulse_staging, State.modCtx_staging]; exact State.postEntry_staging s c _
  · rw [State.modCtx_staging]; exact State.postEntry_staging s c _
@[simp] theorem State.postEvent_tlb (c : CtxNo) (r : EventRec) : (s.postEvent c r).tlb = s.tlb := by
  unfold State.postEvent; dsimp only; split
  · rw [State.pulse_tlb, State.modCtx_tlb]; exact State.postEntry_tlb s c _
  · rw [State.modCtx_tlb]; exact State.postEntry_tlb s c _
@[simp] theorem State.postEvent_walks (c : CtxNo) (r : EventRec) : (s.postEvent c r).walks = s.walks := by
  unfold State.postEvent; dsimp only; split
  · rw [State.pulse_walks, State.modCtx_walks]; exact State.postEntry_walks s c _
  · rw [State.modCtx_walks]; exact State.postEntry_walks s c _
@[simp] theorem State.postEvent_invals (c : CtxNo) (r : EventRec) : (s.postEvent c r).invals = s.invals := by
  unfold State.postEvent; dsimp only; split
  · rw [State.pulse_invals, State.modCtx_invals]; exact State.postEntry_invals s c _
  · rw [State.modCtx_invals]; exact State.postEntry_invals s c _
@[simp] theorem State.postEvent_invalReq (c : CtxNo) (r : EventRec) : (s.postEvent c r).invalReq = s.invalReq := by
  unfold State.postEvent; dsimp only; split
  · rw [State.pulse_invalReq, State.modCtx_invalReq]; exact State.postEntry_invalReq s c _
  · rw [State.modCtx_invalReq]; exact State.postEntry_invalReq s c _
@[simp] theorem State.postEvent_invalDone (c : CtxNo) (r : EventRec) : (s.postEvent c r).invalDone = s.invalDone := by
  unfold State.postEvent; dsimp only; split
  · rw [State.pulse_invalDone, State.modCtx_invalDone]; exact State.postEntry_invalDone s c _
  · rw [State.modCtx_invalDone]; exact State.postEntry_invalDone s c _
@[simp] theorem State.postEvent_reqs (c : CtxNo) (r : EventRec) : (s.postEvent c r).reqs = s.reqs := by
  unfold State.postEvent; dsimp only; split
  · rw [State.pulse_reqs, State.modCtx_reqs]; exact State.postEntry_reqs s c _
  · rw [State.modCtx_reqs]; exact State.postEntry_reqs s c _
@[simp] theorem State.postEvent_sent (c : CtxNo) (r : EventRec) : (s.postEvent c r).sent = s.sent := by
  unfold State.postEvent; dsimp only; split
  · rw [State.pulse_sent, State.modCtx_sent]; exact State.postEntry_sent s c _
  · rw [State.modCtx_sent]; exact State.postEntry_sent s c _
@[simp] theorem State.postEvent_waits (c : CtxNo) (r : EventRec) : (s.postEvent c r).waits = s.waits := by
  unfold State.postEvent; dsimp only; split
  · rw [State.pulse_waits, State.modCtx_waits]; exact State.postEntry_waits s c _
  · rw [State.modCtx_waits]; exact State.postEntry_waits s c _
@[simp] theorem State.postEvent_dovetail (c : CtxNo) (r : EventRec) : (s.postEvent c r).dovetail = s.dovetail := by
  unfold State.postEvent; dsimp only; split
  · rw [State.pulse_dovetail, State.modCtx_dovetail]; exact State.postEntry_dovetail s c _
  · rw [State.modCtx_dovetail]; exact State.postEntry_dovetail s c _
@[simp] theorem State.postEvent_locks (c : CtxNo) (r : EventRec) : (s.postEvent c r).locks = s.locks := by
  unfold State.postEvent; dsimp only; split
  · rw [State.pulse_locks, State.modCtx_locks]; exact State.postEntry_locks s c _
  · rw [State.modCtx_locks]; exact State.postEntry_locks s c _
@[simp] theorem State.postEvent_chains (c : CtxNo) (r : EventRec) : (s.postEvent c r).chains = s.chains := by
  unfold State.postEvent; dsimp only; split
  · rw [State.pulse_chains, State.modCtx_chains]; exact State.postEntry_chains s c _
  · rw [State.modCtx_chains]; exact State.postEntry_chains s c _
@[simp] theorem State.postEvent_chainOut (c : CtxNo) (r : EventRec) : (s.postEvent c r).chainOut = s.chainOut := by
  unfold State.postEvent; dsimp only; split
  · rw [State.pulse_chainOut, State.modCtx_chainOut]; exact State.postEntry_chainOut s c _
  · rw [State.modCtx_chainOut]; exact State.postEntry_chainOut s c _
@[simp] theorem State.postEvent_port (c : CtxNo) (r : EventRec) : (s.postEvent c r).port = s.port := by
  unfold State.postEvent; dsimp only; split
  · rw [State.pulse_port, State.modCtx_port]; exact State.postEntry_port s c _
  · rw [State.modCtx_port]; exact State.postEntry_port s c _
@[simp] theorem State.postEvent_ckpt (c : CtxNo) (r : EventRec) : (s.postEvent c r).ckpt = s.ckpt := by
  unfold State.postEvent; dsimp only; split
  · rw [State.pulse_ckpt, State.modCtx_ckpt]; exact State.postEntry_ckpt s c _
  · rw [State.modCtx_ckpt]; exact State.postEntry_ckpt s c _
@[simp] theorem State.postEvent_risk (c : CtxNo) (r : EventRec) : (s.postEvent c r).risk = s.risk := by
  unfold State.postEvent; dsimp only; split
  · rw [State.pulse_risk, State.modCtx_risk]; exact State.postEntry_risk s c _
  · rw [State.modCtx_risk]; exact State.postEntry_risk s c _
@[simp] theorem State.postEvent_log (c : CtxNo) (r : EventRec) : (s.postEvent c r).log = s.log := by
  unfold State.postEvent; dsimp only; split
  · rw [State.pulse_log, State.modCtx_log]; exact State.postEntry_log s c _
  · rw [State.modCtx_log]; exact State.postEntry_log s c _
@[simp] theorem State.postEvent_tel (c : CtxNo) (r : EventRec) : (s.postEvent c r).tel = s.tel := by
  unfold State.postEvent; dsimp only; split
  · rw [State.pulse_tel, State.modCtx_tel]; exact State.postEntry_tel s c _
  · rw [State.modCtx_tel]; exact State.postEntry_tel s c _
@[simp] theorem State.postEvent_pow (c : CtxNo) (r : EventRec) : (s.postEvent c r).pow = s.pow := by
  unfold State.postEvent; dsimp only; split
  · rw [State.pulse_pow, State.modCtx_pow]; exact State.postEntry_pow s c _
  · rw [State.modCtx_pow]; exact State.postEntry_pow s c _
@[simp] theorem State.postEvent_bist (c : CtxNo) (r : EventRec) : (s.postEvent c r).bist = s.bist := by
  unfold State.postEvent; dsimp only; split
  · rw [State.pulse_bist, State.modCtx_bist]; exact State.postEntry_bist s c _
  · rw [State.modCtx_bist]; exact State.postEntry_bist s c _
@[simp] theorem State.postEvent_sec (c : CtxNo) (r : EventRec) : (s.postEvent c r).sec = s.sec := by
  unfold State.postEvent; dsimp only; split
  · rw [State.pulse_sec, State.modCtx_sec]; exact State.postEntry_sec s c _
  · rw [State.modCtx_sec]; exact State.postEntry_sec s c _
@[simp] theorem State.postEvent_mgmt (c : CtxNo) (r : EventRec) : (s.postEvent c r).mgmt = s.mgmt := by
  unfold State.postEvent; dsimp only; split
  · rw [State.pulse_mgmt, State.modCtx_mgmt]; exact State.postEntry_mgmt s c _
  · rw [State.modCtx_mgmt]; exact State.postEntry_mgmt s c _
@[simp] theorem State.postEvent_train (c : CtxNo) (r : EventRec) : (s.postEvent c r).train = s.train := by
  unfold State.postEvent; dsimp only; split
  · rw [State.pulse_train, State.modCtx_train]; exact State.postEntry_train s c _
  · rw [State.modCtx_train]; exact State.postEntry_train s c _

@[simp] theorem State.takeEntry_pending (c : CtxNo) (r : EventRec) : (s.takeEntry c r).pending = s.pending := by
  unfold State.takeEntry; dsimp only; split
  · rw [State.postEvent_pending, State.ringReady_pending]
  · rw [State.modCtx_pending, State.ringReady_pending]
@[simp] theorem State.takeEntry_now (c : CtxNo) (r : EventRec) : (s.takeEntry c r).now = s.now := by
  unfold State.takeEntry; dsimp only; split
  · rw [State.postEvent_now, State.ringReady_now]
  · rw [State.modCtx_now, State.ringReady_now]
@[simp] theorem State.takeEntry_free (c : CtxNo) (r : EventRec) : (s.takeEntry c r).free = s.free := by
  unfold State.takeEntry; dsimp only; split
  · rw [State.postEvent_free, State.ringReady_free]
  · rw [State.modCtx_free, State.ringReady_free]
@[simp] theorem State.takeEntry_eng (c : CtxNo) (r : EventRec) : (s.takeEntry c r).eng = s.eng := by
  unfold State.takeEntry; dsimp only; split
  · rw [State.postEvent_eng, State.ringReady_eng]
  · rw [State.modCtx_eng, State.ringReady_eng]
@[simp] theorem State.takeEntry_tick (c : CtxNo) (r : EventRec) : (s.takeEntry c r).tick = s.tick := by
  unfold State.takeEntry; dsimp only; split
  · rw [State.postEvent_tick, State.ringReady_tick]
  · rw [State.modCtx_tick, State.ringReady_tick]
@[simp] theorem State.takeEntry_fmts (c : CtxNo) (r : EventRec) : (s.takeEntry c r).fmts = s.fmts := by
  unfold State.takeEntry; dsimp only; split
  · rw [State.postEvent_fmts, State.ringReady_fmts]
  · rw [State.modCtx_fmts, State.ringReady_fmts]
@[simp] theorem State.takeEntry_rts (c : CtxNo) (r : EventRec) : (s.takeEntry c r).rts = s.rts := by
  unfold State.takeEntry; dsimp only; split
  · rw [State.postEvent_rts, State.ringReady_rts]
  · rw [State.modCtx_rts, State.ringReady_rts]
@[simp] theorem State.takeEntry_prio (c : CtxNo) (r : EventRec) : (s.takeEntry c r).prio = s.prio := by
  unfold State.takeEntry; dsimp only; split
  · rw [State.postEvent_prio, State.ringReady_prio]
  · rw [State.modCtx_prio, State.ringReady_prio]
@[simp] theorem State.takeEntry_prioNext (c : CtxNo) (r : EventRec) : (s.takeEntry c r).prioNext = s.prioNext := by
  unfold State.takeEntry; dsimp only; split
  · rw [State.postEvent_prioNext, State.ringReady_prioNext]
  · rw [State.modCtx_prioNext, State.ringReady_prioNext]
@[simp] theorem State.takeEntry_schedLast (c : CtxNo) (r : EventRec) : (s.takeEntry c r).schedLast = s.schedLast := by
  unfold State.takeEntry; dsimp only; split
  · rw [State.postEvent_schedLast, State.ringReady_schedLast]
  · rw [State.modCtx_schedLast, State.ringReady_schedLast]
@[simp] theorem State.takeEntry_schedTurn (c : CtxNo) (r : EventRec) : (s.takeEntry c r).schedTurn = s.schedTurn := by
  unfold State.takeEntry; dsimp only; split
  · rw [State.postEvent_schedTurn, State.ringReady_schedTurn]
  · rw [State.modCtx_schedTurn, State.ringReady_schedTurn]
@[simp] theorem State.takeEntry_stallMap (c : CtxNo) (r : EventRec) : (s.takeEntry c r).stallMap = s.stallMap := by
  unfold State.takeEntry; dsimp only; split
  · rw [State.postEvent_stallMap, State.ringReady_stallMap]
  · rw [State.modCtx_stallMap, State.ringReady_stallMap]
@[simp] theorem State.takeEntry_rampTab (c : CtxNo) (r : EventRec) : (s.takeEntry c r).rampTab = s.rampTab := by
  unfold State.takeEntry; dsimp only; split
  · rw [State.postEvent_rampTab, State.ringReady_rampTab]
  · rw [State.modCtx_rampTab, State.ringReady_rampTab]
@[simp] theorem State.takeEntry_rampNext (c : CtxNo) (r : EventRec) : (s.takeEntry c r).rampNext = s.rampNext := by
  unfold State.takeEntry; dsimp only; split
  · rw [State.postEvent_rampNext, State.ringReady_rampNext]
  · rw [State.modCtx_rampNext, State.ringReady_rampNext]
@[simp] theorem State.takeEntry_riskTab (c : CtxNo) (r : EventRec) : (s.takeEntry c r).riskTab = s.riskTab := by
  unfold State.takeEntry; dsimp only; split
  · rw [State.postEvent_riskTab, State.ringReady_riskTab]
  · rw [State.modCtx_riskTab, State.ringReady_riskTab]
@[simp] theorem State.takeEntry_regions (c : CtxNo) (r : EventRec) : (s.takeEntry c r).regions = s.regions := by
  unfold State.takeEntry; dsimp only; split
  · rw [State.postEvent_regions, State.ringReady_regions]
  · rw [State.modCtx_regions, State.ringReady_regions]
@[simp] theorem State.takeEntry_groups (c : CtxNo) (r : EventRec) : (s.takeEntry c r).groups = s.groups := by
  unfold State.takeEntry; dsimp only; split
  · rw [State.postEvent_groups, State.ringReady_groups]
  · rw [State.modCtx_groups, State.ringReady_groups]
@[simp] theorem State.takeEntry_descs (c : CtxNo) (r : EventRec) : (s.takeEntry c r).descs = s.descs := by
  unfold State.takeEntry; dsimp only; split
  · rw [State.postEvent_descs, State.ringReady_descs]
  · rw [State.modCtx_descs, State.ringReady_descs]
@[simp] theorem State.takeEntry_descGen (c : CtxNo) (r : EventRec) : (s.takeEntry c r).descGen = s.descGen := by
  unfold State.takeEntry; dsimp only; split
  · rw [State.postEvent_descGen, State.ringReady_descGen]
  · rw [State.modCtx_descGen, State.ringReady_descGen]
@[simp] theorem State.takeEntry_slots (c : CtxNo) (r : EventRec) : (s.takeEntry c r).slots = s.slots := by
  unfold State.takeEntry; dsimp only; split
  · rw [State.postEvent_slots, State.ringReady_slots]
  · rw [State.modCtx_slots, State.ringReady_slots]
@[simp] theorem State.takeEntry_touch (c : CtxNo) (r : EventRec) : (s.takeEntry c r).touch = s.touch := by
  unfold State.takeEntry; dsimp only; split
  · rw [State.postEvent_touch, State.ringReady_touch]
  · rw [State.modCtx_touch, State.ringReady_touch]
@[simp] theorem State.takeEntry_lane (c : CtxNo) (r : EventRec) : (s.takeEntry c r).lane = s.lane := by
  unfold State.takeEntry; dsimp only; split
  · rw [State.postEvent_lane, State.ringReady_lane]
  · rw [State.modCtx_lane, State.ringReady_lane]
@[simp] theorem State.takeEntry_staging (c : CtxNo) (r : EventRec) : (s.takeEntry c r).staging = s.staging := by
  unfold State.takeEntry; dsimp only; split
  · rw [State.postEvent_staging, State.ringReady_staging]
  · rw [State.modCtx_staging, State.ringReady_staging]
@[simp] theorem State.takeEntry_invals (c : CtxNo) (r : EventRec) : (s.takeEntry c r).invals = s.invals := by
  unfold State.takeEntry; dsimp only; split
  · rw [State.postEvent_invals, State.ringReady_invals]
  · rw [State.modCtx_invals, State.ringReady_invals]
@[simp] theorem State.takeEntry_invalReq (c : CtxNo) (r : EventRec) : (s.takeEntry c r).invalReq = s.invalReq := by
  unfold State.takeEntry; dsimp only; split
  · rw [State.postEvent_invalReq, State.ringReady_invalReq]
  · rw [State.modCtx_invalReq, State.ringReady_invalReq]
@[simp] theorem State.takeEntry_invalDone (c : CtxNo) (r : EventRec) : (s.takeEntry c r).invalDone = s.invalDone := by
  unfold State.takeEntry; dsimp only; split
  · rw [State.postEvent_invalDone, State.ringReady_invalDone]
  · rw [State.modCtx_invalDone, State.ringReady_invalDone]
@[simp] theorem State.takeEntry_reqs (c : CtxNo) (r : EventRec) : (s.takeEntry c r).reqs = s.reqs := by
  unfold State.takeEntry; dsimp only; split
  · rw [State.postEvent_reqs, State.ringReady_reqs]
  · rw [State.modCtx_reqs, State.ringReady_reqs]
@[simp] theorem State.takeEntry_sent (c : CtxNo) (r : EventRec) : (s.takeEntry c r).sent = s.sent := by
  unfold State.takeEntry; dsimp only; split
  · rw [State.postEvent_sent, State.ringReady_sent]
  · rw [State.modCtx_sent, State.ringReady_sent]
@[simp] theorem State.takeEntry_waits (c : CtxNo) (r : EventRec) : (s.takeEntry c r).waits = s.waits := by
  unfold State.takeEntry; dsimp only; split
  · rw [State.postEvent_waits, State.ringReady_waits]
  · rw [State.modCtx_waits, State.ringReady_waits]
@[simp] theorem State.takeEntry_dovetail (c : CtxNo) (r : EventRec) : (s.takeEntry c r).dovetail = s.dovetail := by
  unfold State.takeEntry; dsimp only; split
  · rw [State.postEvent_dovetail, State.ringReady_dovetail]
  · rw [State.modCtx_dovetail, State.ringReady_dovetail]
@[simp] theorem State.takeEntry_locks (c : CtxNo) (r : EventRec) : (s.takeEntry c r).locks = s.locks := by
  unfold State.takeEntry; dsimp only; split
  · rw [State.postEvent_locks, State.ringReady_locks]
  · rw [State.modCtx_locks, State.ringReady_locks]
@[simp] theorem State.takeEntry_chains (c : CtxNo) (r : EventRec) : (s.takeEntry c r).chains = s.chains := by
  unfold State.takeEntry; dsimp only; split
  · rw [State.postEvent_chains, State.ringReady_chains]
  · rw [State.modCtx_chains, State.ringReady_chains]
@[simp] theorem State.takeEntry_chainOut (c : CtxNo) (r : EventRec) : (s.takeEntry c r).chainOut = s.chainOut := by
  unfold State.takeEntry; dsimp only; split
  · rw [State.postEvent_chainOut, State.ringReady_chainOut]
  · rw [State.modCtx_chainOut, State.ringReady_chainOut]
@[simp] theorem State.takeEntry_port (c : CtxNo) (r : EventRec) : (s.takeEntry c r).port = s.port := by
  unfold State.takeEntry; dsimp only; split
  · rw [State.postEvent_port, State.ringReady_port]
  · rw [State.modCtx_port, State.ringReady_port]
@[simp] theorem State.takeEntry_ckpt (c : CtxNo) (r : EventRec) : (s.takeEntry c r).ckpt = s.ckpt := by
  unfold State.takeEntry; dsimp only; split
  · rw [State.postEvent_ckpt, State.ringReady_ckpt]
  · rw [State.modCtx_ckpt, State.ringReady_ckpt]
@[simp] theorem State.takeEntry_risk (c : CtxNo) (r : EventRec) : (s.takeEntry c r).risk = s.risk := by
  unfold State.takeEntry; dsimp only; split
  · rw [State.postEvent_risk, State.ringReady_risk]
  · rw [State.modCtx_risk, State.ringReady_risk]
@[simp] theorem State.takeEntry_log (c : CtxNo) (r : EventRec) : (s.takeEntry c r).log = s.log := by
  unfold State.takeEntry; dsimp only; split
  · rw [State.postEvent_log, State.ringReady_log]
  · rw [State.modCtx_log, State.ringReady_log]
@[simp] theorem State.takeEntry_tel (c : CtxNo) (r : EventRec) : (s.takeEntry c r).tel = s.tel := by
  unfold State.takeEntry; dsimp only; split
  · rw [State.postEvent_tel, State.ringReady_tel]
  · rw [State.modCtx_tel, State.ringReady_tel]
@[simp] theorem State.takeEntry_pow (c : CtxNo) (r : EventRec) : (s.takeEntry c r).pow = s.pow := by
  unfold State.takeEntry; dsimp only; split
  · rw [State.postEvent_pow, State.ringReady_pow]
  · rw [State.modCtx_pow, State.ringReady_pow]
@[simp] theorem State.takeEntry_bist (c : CtxNo) (r : EventRec) : (s.takeEntry c r).bist = s.bist := by
  unfold State.takeEntry; dsimp only; split
  · rw [State.postEvent_bist, State.ringReady_bist]
  · rw [State.modCtx_bist, State.ringReady_bist]
@[simp] theorem State.takeEntry_sec (c : CtxNo) (r : EventRec) : (s.takeEntry c r).sec = s.sec := by
  unfold State.takeEntry; dsimp only; split
  · rw [State.postEvent_sec, State.ringReady_sec]
  · rw [State.modCtx_sec, State.ringReady_sec]
@[simp] theorem State.takeEntry_mgmt (c : CtxNo) (r : EventRec) : (s.takeEntry c r).mgmt = s.mgmt := by
  unfold State.takeEntry; dsimp only; split
  · rw [State.postEvent_mgmt, State.ringReady_mgmt]
  · rw [State.modCtx_mgmt, State.ringReady_mgmt]
@[simp] theorem State.takeEntry_train (c : CtxNo) (r : EventRec) : (s.takeEntry c r).train = s.train := by
  unfold State.takeEntry; dsimp only; split
  · rw [State.postEvent_train, State.ringReady_train]
  · rw [State.modCtx_train, State.ringReady_train]

@[simp] theorem State.event_pending (c : CtxNo) (k : Byte) (p : BitVec 128) : (s.event c k p).pending = s.pending := by
  unfold State.event; dsimp only; split
  · rfl
  · split
    · rw [State.takeEntry_pending, State.modCtx_pending]
    · split <;> rfl
@[simp] theorem State.event_now (c : CtxNo) (k : Byte) (p : BitVec 128) : (s.event c k p).now = s.now := by
  unfold State.event; dsimp only; split
  · rfl
  · split
    · rw [State.takeEntry_now, State.modCtx_now]
    · split <;> rfl
@[simp] theorem State.event_free (c : CtxNo) (k : Byte) (p : BitVec 128) : (s.event c k p).free = s.free := by
  unfold State.event; dsimp only; split
  · rfl
  · split
    · rw [State.takeEntry_free, State.modCtx_free]
    · split <;> rfl
@[simp] theorem State.event_eng (c : CtxNo) (k : Byte) (p : BitVec 128) : (s.event c k p).eng = s.eng := by
  unfold State.event; dsimp only; split
  · rfl
  · split
    · rw [State.takeEntry_eng, State.modCtx_eng]
    · split <;> rfl
@[simp] theorem State.event_tick (c : CtxNo) (k : Byte) (p : BitVec 128) : (s.event c k p).tick = s.tick := by
  unfold State.event; dsimp only; split
  · rfl
  · split
    · rw [State.takeEntry_tick, State.modCtx_tick]
    · split <;> rfl
@[simp] theorem State.event_fmts (c : CtxNo) (k : Byte) (p : BitVec 128) : (s.event c k p).fmts = s.fmts := by
  unfold State.event; dsimp only; split
  · rfl
  · split
    · rw [State.takeEntry_fmts, State.modCtx_fmts]
    · split <;> rfl
@[simp] theorem State.event_rts (c : CtxNo) (k : Byte) (p : BitVec 128) : (s.event c k p).rts = s.rts := by
  unfold State.event; dsimp only; split
  · rfl
  · split
    · rw [State.takeEntry_rts, State.modCtx_rts]
    · split <;> rfl
@[simp] theorem State.event_prio (c : CtxNo) (k : Byte) (p : BitVec 128) : (s.event c k p).prio = s.prio := by
  unfold State.event; dsimp only; split
  · rfl
  · split
    · rw [State.takeEntry_prio, State.modCtx_prio]
    · split <;> rfl
@[simp] theorem State.event_prioNext (c : CtxNo) (k : Byte) (p : BitVec 128) : (s.event c k p).prioNext = s.prioNext := by
  unfold State.event; dsimp only; split
  · rfl
  · split
    · rw [State.takeEntry_prioNext, State.modCtx_prioNext]
    · split <;> rfl
@[simp] theorem State.event_schedLast (c : CtxNo) (k : Byte) (p : BitVec 128) : (s.event c k p).schedLast = s.schedLast := by
  unfold State.event; dsimp only; split
  · rfl
  · split
    · rw [State.takeEntry_schedLast, State.modCtx_schedLast]
    · split <;> rfl
@[simp] theorem State.event_schedTurn (c : CtxNo) (k : Byte) (p : BitVec 128) : (s.event c k p).schedTurn = s.schedTurn := by
  unfold State.event; dsimp only; split
  · rfl
  · split
    · rw [State.takeEntry_schedTurn, State.modCtx_schedTurn]
    · split <;> rfl
@[simp] theorem State.event_stallMap (c : CtxNo) (k : Byte) (p : BitVec 128) : (s.event c k p).stallMap = s.stallMap := by
  unfold State.event; dsimp only; split
  · rfl
  · split
    · rw [State.takeEntry_stallMap, State.modCtx_stallMap]
    · split <;> rfl
@[simp] theorem State.event_rampTab (c : CtxNo) (k : Byte) (p : BitVec 128) : (s.event c k p).rampTab = s.rampTab := by
  unfold State.event; dsimp only; split
  · rfl
  · split
    · rw [State.takeEntry_rampTab, State.modCtx_rampTab]
    · split <;> rfl
@[simp] theorem State.event_rampNext (c : CtxNo) (k : Byte) (p : BitVec 128) : (s.event c k p).rampNext = s.rampNext := by
  unfold State.event; dsimp only; split
  · rfl
  · split
    · rw [State.takeEntry_rampNext, State.modCtx_rampNext]
    · split <;> rfl
@[simp] theorem State.event_riskTab (c : CtxNo) (k : Byte) (p : BitVec 128) : (s.event c k p).riskTab = s.riskTab := by
  unfold State.event; dsimp only; split
  · rfl
  · split
    · rw [State.takeEntry_riskTab, State.modCtx_riskTab]
    · split <;> rfl
@[simp] theorem State.event_regions (c : CtxNo) (k : Byte) (p : BitVec 128) : (s.event c k p).regions = s.regions := by
  unfold State.event; dsimp only; split
  · rfl
  · split
    · rw [State.takeEntry_regions, State.modCtx_regions]
    · split <;> rfl
@[simp] theorem State.event_groups (c : CtxNo) (k : Byte) (p : BitVec 128) : (s.event c k p).groups = s.groups := by
  unfold State.event; dsimp only; split
  · rfl
  · split
    · rw [State.takeEntry_groups, State.modCtx_groups]
    · split <;> rfl
@[simp] theorem State.event_descs (c : CtxNo) (k : Byte) (p : BitVec 128) : (s.event c k p).descs = s.descs := by
  unfold State.event; dsimp only; split
  · rfl
  · split
    · rw [State.takeEntry_descs, State.modCtx_descs]
    · split <;> rfl
@[simp] theorem State.event_descGen (c : CtxNo) (k : Byte) (p : BitVec 128) : (s.event c k p).descGen = s.descGen := by
  unfold State.event; dsimp only; split
  · rfl
  · split
    · rw [State.takeEntry_descGen, State.modCtx_descGen]
    · split <;> rfl
@[simp] theorem State.event_slots (c : CtxNo) (k : Byte) (p : BitVec 128) : (s.event c k p).slots = s.slots := by
  unfold State.event; dsimp only; split
  · rfl
  · split
    · rw [State.takeEntry_slots, State.modCtx_slots]
    · split <;> rfl
@[simp] theorem State.event_touch (c : CtxNo) (k : Byte) (p : BitVec 128) : (s.event c k p).touch = s.touch := by
  unfold State.event; dsimp only; split
  · rfl
  · split
    · rw [State.takeEntry_touch, State.modCtx_touch]
    · split <;> rfl
@[simp] theorem State.event_lane (c : CtxNo) (k : Byte) (p : BitVec 128) : (s.event c k p).lane = s.lane := by
  unfold State.event; dsimp only; split
  · rfl
  · split
    · rw [State.takeEntry_lane, State.modCtx_lane]
    · split <;> rfl
@[simp] theorem State.event_staging (c : CtxNo) (k : Byte) (p : BitVec 128) : (s.event c k p).staging = s.staging := by
  unfold State.event; dsimp only; split
  · rfl
  · split
    · rw [State.takeEntry_staging, State.modCtx_staging]
    · split <;> rfl
@[simp] theorem State.event_invals (c : CtxNo) (k : Byte) (p : BitVec 128) : (s.event c k p).invals = s.invals := by
  unfold State.event; dsimp only; split
  · rfl
  · split
    · rw [State.takeEntry_invals, State.modCtx_invals]
    · split <;> rfl
@[simp] theorem State.event_invalReq (c : CtxNo) (k : Byte) (p : BitVec 128) : (s.event c k p).invalReq = s.invalReq := by
  unfold State.event; dsimp only; split
  · rfl
  · split
    · rw [State.takeEntry_invalReq, State.modCtx_invalReq]
    · split <;> rfl
@[simp] theorem State.event_invalDone (c : CtxNo) (k : Byte) (p : BitVec 128) : (s.event c k p).invalDone = s.invalDone := by
  unfold State.event; dsimp only; split
  · rfl
  · split
    · rw [State.takeEntry_invalDone, State.modCtx_invalDone]
    · split <;> rfl
@[simp] theorem State.event_reqs (c : CtxNo) (k : Byte) (p : BitVec 128) : (s.event c k p).reqs = s.reqs := by
  unfold State.event; dsimp only; split
  · rfl
  · split
    · rw [State.takeEntry_reqs, State.modCtx_reqs]
    · split <;> rfl
@[simp] theorem State.event_sent (c : CtxNo) (k : Byte) (p : BitVec 128) : (s.event c k p).sent = s.sent := by
  unfold State.event; dsimp only; split
  · rfl
  · split
    · rw [State.takeEntry_sent, State.modCtx_sent]
    · split <;> rfl
@[simp] theorem State.event_waits (c : CtxNo) (k : Byte) (p : BitVec 128) : (s.event c k p).waits = s.waits := by
  unfold State.event; dsimp only; split
  · rfl
  · split
    · rw [State.takeEntry_waits, State.modCtx_waits]
    · split <;> rfl
@[simp] theorem State.event_dovetail (c : CtxNo) (k : Byte) (p : BitVec 128) : (s.event c k p).dovetail = s.dovetail := by
  unfold State.event; dsimp only; split
  · rfl
  · split
    · rw [State.takeEntry_dovetail, State.modCtx_dovetail]
    · split <;> rfl
@[simp] theorem State.event_locks (c : CtxNo) (k : Byte) (p : BitVec 128) : (s.event c k p).locks = s.locks := by
  unfold State.event; dsimp only; split
  · rfl
  · split
    · rw [State.takeEntry_locks, State.modCtx_locks]
    · split <;> rfl
@[simp] theorem State.event_chains (c : CtxNo) (k : Byte) (p : BitVec 128) : (s.event c k p).chains = s.chains := by
  unfold State.event; dsimp only; split
  · rfl
  · split
    · rw [State.takeEntry_chains, State.modCtx_chains]
    · split <;> rfl
@[simp] theorem State.event_chainOut (c : CtxNo) (k : Byte) (p : BitVec 128) : (s.event c k p).chainOut = s.chainOut := by
  unfold State.event; dsimp only; split
  · rfl
  · split
    · rw [State.takeEntry_chainOut, State.modCtx_chainOut]
    · split <;> rfl
@[simp] theorem State.event_port (c : CtxNo) (k : Byte) (p : BitVec 128) : (s.event c k p).port = s.port := by
  unfold State.event; dsimp only; split
  · rfl
  · split
    · rw [State.takeEntry_port, State.modCtx_port]
    · split <;> rfl
@[simp] theorem State.event_ckpt (c : CtxNo) (k : Byte) (p : BitVec 128) : (s.event c k p).ckpt = s.ckpt := by
  unfold State.event; dsimp only; split
  · rfl
  · split
    · rw [State.takeEntry_ckpt, State.modCtx_ckpt]
    · split <;> rfl
@[simp] theorem State.event_risk (c : CtxNo) (k : Byte) (p : BitVec 128) : (s.event c k p).risk = s.risk := by
  unfold State.event; dsimp only; split
  · rfl
  · split
    · rw [State.takeEntry_risk, State.modCtx_risk]
    · split <;> rfl
@[simp] theorem State.event_log (c : CtxNo) (k : Byte) (p : BitVec 128) : (s.event c k p).log = s.log := by
  unfold State.event; dsimp only; split
  · rfl
  · split
    · rw [State.takeEntry_log, State.modCtx_log]
    · split <;> rfl
@[simp] theorem State.event_tel (c : CtxNo) (k : Byte) (p : BitVec 128) : (s.event c k p).tel = s.tel := by
  unfold State.event; dsimp only; split
  · rfl
  · split
    · rw [State.takeEntry_tel, State.modCtx_tel]
    · split <;> rfl
@[simp] theorem State.event_pow (c : CtxNo) (k : Byte) (p : BitVec 128) : (s.event c k p).pow = s.pow := by
  unfold State.event; dsimp only; split
  · rfl
  · split
    · rw [State.takeEntry_pow, State.modCtx_pow]
    · split <;> rfl
@[simp] theorem State.event_bist (c : CtxNo) (k : Byte) (p : BitVec 128) : (s.event c k p).bist = s.bist := by
  unfold State.event; dsimp only; split
  · rfl
  · split
    · rw [State.takeEntry_bist, State.modCtx_bist]
    · split <;> rfl
@[simp] theorem State.event_sec (c : CtxNo) (k : Byte) (p : BitVec 128) : (s.event c k p).sec = s.sec := by
  unfold State.event; dsimp only; split
  · rfl
  · split
    · rw [State.takeEntry_sec, State.modCtx_sec]
    · split <;> rfl
@[simp] theorem State.event_mgmt (c : CtxNo) (k : Byte) (p : BitVec 128) : (s.event c k p).mgmt = s.mgmt := by
  unfold State.event; dsimp only; split
  · rfl
  · split
    · rw [State.takeEntry_mgmt, State.modCtx_mgmt]
    · split <;> rfl
@[simp] theorem State.event_train (c : CtxNo) (k : Byte) (p : BitVec 128) : (s.event c k p).train = s.train := by
  unfold State.event; dsimp only; split
  · rfl
  · split
    · rw [State.takeEntry_train, State.modCtx_train]
    · split <;> rfl

@[simp] theorem State.logErr_pending (cls : BitVec 6) (sev : BitVec 2) (u : BitVec 4) (c : Option CtxNo) (a b : BitVec 64) : (s.logErr cls sev u c a b).pending = s.pending := by
  unfold State.logErr; dsimp only; split <;> rfl
@[simp] theorem State.logErr_now (cls : BitVec 6) (sev : BitVec 2) (u : BitVec 4) (c : Option CtxNo) (a b : BitVec 64) : (s.logErr cls sev u c a b).now = s.now := by
  unfold State.logErr; dsimp only; split <;> rfl
@[simp] theorem State.logErr_free (cls : BitVec 6) (sev : BitVec 2) (u : BitVec 4) (c : Option CtxNo) (a b : BitVec 64) : (s.logErr cls sev u c a b).free = s.free := by
  unfold State.logErr; dsimp only; split <;> rfl
@[simp] theorem State.logErr_core (cls : BitVec 6) (sev : BitVec 2) (u : BitVec 4) (c : Option CtxNo) (a b : BitVec 64) : (s.logErr cls sev u c a b).core = s.core := by
  unfold State.logErr; dsimp only; split <;> rfl
@[simp] theorem State.logErr_remote (cls : BitVec 6) (sev : BitVec 2) (u : BitVec 4) (c : Option CtxNo) (a b : BitVec 64) : (s.logErr cls sev u c a b).remote = s.remote := by
  unfold State.logErr; dsimp only; split <;> rfl
@[simp] theorem State.logErr_evt (cls : BitVec 6) (sev : BitVec 2) (u : BitVec 4) (c : Option CtxNo) (a b : BitVec 64) : (s.logErr cls sev u c a b).evt = s.evt := by
  unfold State.logErr; dsimp only; split <;> rfl
@[simp] theorem State.logErr_tick (cls : BitVec 6) (sev : BitVec 2) (u : BitVec 4) (c : Option CtxNo) (a b : BitVec 64) : (s.logErr cls sev u c a b).tick = s.tick := by
  unfold State.logErr; dsimp only; split <;> rfl
@[simp] theorem State.logErr_ctxs (cls : BitVec 6) (sev : BitVec 2) (u : BitVec 4) (c : Option CtxNo) (a b : BitVec 64) : (s.logErr cls sev u c a b).ctxs = s.ctxs := by
  unfold State.logErr; dsimp only; split <;> rfl
@[simp] theorem State.logErr_fmts (cls : BitVec 6) (sev : BitVec 2) (u : BitVec 4) (c : Option CtxNo) (a b : BitVec 64) : (s.logErr cls sev u c a b).fmts = s.fmts := by
  unfold State.logErr; dsimp only; split <;> rfl
@[simp] theorem State.logErr_rts (cls : BitVec 6) (sev : BitVec 2) (u : BitVec 4) (c : Option CtxNo) (a b : BitVec 64) : (s.logErr cls sev u c a b).rts = s.rts := by
  unfold State.logErr; dsimp only; split <;> rfl
@[simp] theorem State.logErr_prio (cls : BitVec 6) (sev : BitVec 2) (u : BitVec 4) (c : Option CtxNo) (a b : BitVec 64) : (s.logErr cls sev u c a b).prio = s.prio := by
  unfold State.logErr; dsimp only; split <;> rfl
@[simp] theorem State.logErr_prioNext (cls : BitVec 6) (sev : BitVec 2) (u : BitVec 4) (c : Option CtxNo) (a b : BitVec 64) : (s.logErr cls sev u c a b).prioNext = s.prioNext := by
  unfold State.logErr; dsimp only; split <;> rfl
@[simp] theorem State.logErr_schedLast (cls : BitVec 6) (sev : BitVec 2) (u : BitVec 4) (c : Option CtxNo) (a b : BitVec 64) : (s.logErr cls sev u c a b).schedLast = s.schedLast := by
  unfold State.logErr; dsimp only; split <;> rfl
@[simp] theorem State.logErr_schedTurn (cls : BitVec 6) (sev : BitVec 2) (u : BitVec 4) (c : Option CtxNo) (a b : BitVec 64) : (s.logErr cls sev u c a b).schedTurn = s.schedTurn := by
  unfold State.logErr; dsimp only; split <;> rfl
@[simp] theorem State.logErr_stallMap (cls : BitVec 6) (sev : BitVec 2) (u : BitVec 4) (c : Option CtxNo) (a b : BitVec 64) : (s.logErr cls sev u c a b).stallMap = s.stallMap := by
  unfold State.logErr; dsimp only; split <;> rfl
@[simp] theorem State.logErr_rampTab (cls : BitVec 6) (sev : BitVec 2) (u : BitVec 4) (c : Option CtxNo) (a b : BitVec 64) : (s.logErr cls sev u c a b).rampTab = s.rampTab := by
  unfold State.logErr; dsimp only; split <;> rfl
@[simp] theorem State.logErr_rampNext (cls : BitVec 6) (sev : BitVec 2) (u : BitVec 4) (c : Option CtxNo) (a b : BitVec 64) : (s.logErr cls sev u c a b).rampNext = s.rampNext := by
  unfold State.logErr; dsimp only; split <;> rfl
@[simp] theorem State.logErr_riskTab (cls : BitVec 6) (sev : BitVec 2) (u : BitVec 4) (c : Option CtxNo) (a b : BitVec 64) : (s.logErr cls sev u c a b).riskTab = s.riskTab := by
  unfold State.logErr; dsimp only; split <;> rfl
@[simp] theorem State.logErr_regions (cls : BitVec 6) (sev : BitVec 2) (u : BitVec 4) (c : Option CtxNo) (a b : BitVec 64) : (s.logErr cls sev u c a b).regions = s.regions := by
  unfold State.logErr; dsimp only; split <;> rfl
@[simp] theorem State.logErr_groups (cls : BitVec 6) (sev : BitVec 2) (u : BitVec 4) (c : Option CtxNo) (a b : BitVec 64) : (s.logErr cls sev u c a b).groups = s.groups := by
  unfold State.logErr; dsimp only; split <;> rfl
@[simp] theorem State.logErr_descs (cls : BitVec 6) (sev : BitVec 2) (u : BitVec 4) (c : Option CtxNo) (a b : BitVec 64) : (s.logErr cls sev u c a b).descs = s.descs := by
  unfold State.logErr; dsimp only; split <;> rfl
@[simp] theorem State.logErr_descGen (cls : BitVec 6) (sev : BitVec 2) (u : BitVec 4) (c : Option CtxNo) (a b : BitVec 64) : (s.logErr cls sev u c a b).descGen = s.descGen := by
  unfold State.logErr; dsimp only; split <;> rfl
@[simp] theorem State.logErr_slots (cls : BitVec 6) (sev : BitVec 2) (u : BitVec 4) (c : Option CtxNo) (a b : BitVec 64) : (s.logErr cls sev u c a b).slots = s.slots := by
  unfold State.logErr; dsimp only; split <;> rfl
@[simp] theorem State.logErr_touch (cls : BitVec 6) (sev : BitVec 2) (u : BitVec 4) (c : Option CtxNo) (a b : BitVec 64) : (s.logErr cls sev u c a b).touch = s.touch := by
  unfold State.logErr; dsimp only; split <;> rfl
@[simp] theorem State.logErr_lane (cls : BitVec 6) (sev : BitVec 2) (u : BitVec 4) (c : Option CtxNo) (a b : BitVec 64) : (s.logErr cls sev u c a b).lane = s.lane := by
  unfold State.logErr; dsimp only; split <;> rfl
@[simp] theorem State.logErr_staging (cls : BitVec 6) (sev : BitVec 2) (u : BitVec 4) (c : Option CtxNo) (a b : BitVec 64) : (s.logErr cls sev u c a b).staging = s.staging := by
  unfold State.logErr; dsimp only; split <;> rfl
@[simp] theorem State.logErr_tlb (cls : BitVec 6) (sev : BitVec 2) (u : BitVec 4) (c : Option CtxNo) (a b : BitVec 64) : (s.logErr cls sev u c a b).tlb = s.tlb := by
  unfold State.logErr; dsimp only; split <;> rfl
@[simp] theorem State.logErr_walks (cls : BitVec 6) (sev : BitVec 2) (u : BitVec 4) (c : Option CtxNo) (a b : BitVec 64) : (s.logErr cls sev u c a b).walks = s.walks := by
  unfold State.logErr; dsimp only; split <;> rfl
@[simp] theorem State.logErr_invals (cls : BitVec 6) (sev : BitVec 2) (u : BitVec 4) (c : Option CtxNo) (a b : BitVec 64) : (s.logErr cls sev u c a b).invals = s.invals := by
  unfold State.logErr; dsimp only; split <;> rfl
@[simp] theorem State.logErr_invalReq (cls : BitVec 6) (sev : BitVec 2) (u : BitVec 4) (c : Option CtxNo) (a b : BitVec 64) : (s.logErr cls sev u c a b).invalReq = s.invalReq := by
  unfold State.logErr; dsimp only; split <;> rfl
@[simp] theorem State.logErr_invalDone (cls : BitVec 6) (sev : BitVec 2) (u : BitVec 4) (c : Option CtxNo) (a b : BitVec 64) : (s.logErr cls sev u c a b).invalDone = s.invalDone := by
  unfold State.logErr; dsimp only; split <;> rfl
@[simp] theorem State.logErr_reqs (cls : BitVec 6) (sev : BitVec 2) (u : BitVec 4) (c : Option CtxNo) (a b : BitVec 64) : (s.logErr cls sev u c a b).reqs = s.reqs := by
  unfold State.logErr; dsimp only; split <;> rfl
@[simp] theorem State.logErr_sent (cls : BitVec 6) (sev : BitVec 2) (u : BitVec 4) (c : Option CtxNo) (a b : BitVec 64) : (s.logErr cls sev u c a b).sent = s.sent := by
  unfold State.logErr; dsimp only; split <;> rfl
@[simp] theorem State.logErr_waits (cls : BitVec 6) (sev : BitVec 2) (u : BitVec 4) (c : Option CtxNo) (a b : BitVec 64) : (s.logErr cls sev u c a b).waits = s.waits := by
  unfold State.logErr; dsimp only; split <;> rfl
@[simp] theorem State.logErr_dovetail (cls : BitVec 6) (sev : BitVec 2) (u : BitVec 4) (c : Option CtxNo) (a b : BitVec 64) : (s.logErr cls sev u c a b).dovetail = s.dovetail := by
  unfold State.logErr; dsimp only; split <;> rfl
@[simp] theorem State.logErr_locks (cls : BitVec 6) (sev : BitVec 2) (u : BitVec 4) (c : Option CtxNo) (a b : BitVec 64) : (s.logErr cls sev u c a b).locks = s.locks := by
  unfold State.logErr; dsimp only; split <;> rfl
@[simp] theorem State.logErr_chains (cls : BitVec 6) (sev : BitVec 2) (u : BitVec 4) (c : Option CtxNo) (a b : BitVec 64) : (s.logErr cls sev u c a b).chains = s.chains := by
  unfold State.logErr; dsimp only; split <;> rfl
@[simp] theorem State.logErr_chainOut (cls : BitVec 6) (sev : BitVec 2) (u : BitVec 4) (c : Option CtxNo) (a b : BitVec 64) : (s.logErr cls sev u c a b).chainOut = s.chainOut := by
  unfold State.logErr; dsimp only; split <;> rfl
@[simp] theorem State.logErr_port (cls : BitVec 6) (sev : BitVec 2) (u : BitVec 4) (c : Option CtxNo) (a b : BitVec 64) : (s.logErr cls sev u c a b).port = s.port := by
  unfold State.logErr; dsimp only; split <;> rfl
@[simp] theorem State.logErr_ckpt (cls : BitVec 6) (sev : BitVec 2) (u : BitVec 4) (c : Option CtxNo) (a b : BitVec 64) : (s.logErr cls sev u c a b).ckpt = s.ckpt := by
  unfold State.logErr; dsimp only; split <;> rfl
@[simp] theorem State.logErr_risk (cls : BitVec 6) (sev : BitVec 2) (u : BitVec 4) (c : Option CtxNo) (a b : BitVec 64) : (s.logErr cls sev u c a b).risk = s.risk := by
  unfold State.logErr; dsimp only; split <;> rfl
@[simp] theorem State.logErr_tel (cls : BitVec 6) (sev : BitVec 2) (u : BitVec 4) (c : Option CtxNo) (a b : BitVec 64) : (s.logErr cls sev u c a b).tel = s.tel := by
  unfold State.logErr; dsimp only; split <;> rfl
@[simp] theorem State.logErr_pow (cls : BitVec 6) (sev : BitVec 2) (u : BitVec 4) (c : Option CtxNo) (a b : BitVec 64) : (s.logErr cls sev u c a b).pow = s.pow := by
  unfold State.logErr; dsimp only; split <;> rfl
@[simp] theorem State.logErr_bist (cls : BitVec 6) (sev : BitVec 2) (u : BitVec 4) (c : Option CtxNo) (a b : BitVec 64) : (s.logErr cls sev u c a b).bist = s.bist := by
  unfold State.logErr; dsimp only; split <;> rfl
@[simp] theorem State.logErr_sec (cls : BitVec 6) (sev : BitVec 2) (u : BitVec 4) (c : Option CtxNo) (a b : BitVec 64) : (s.logErr cls sev u c a b).sec = s.sec := by
  unfold State.logErr; dsimp only; split <;> rfl
@[simp] theorem State.logErr_train (cls : BitVec 6) (sev : BitVec 2) (u : BitVec 4) (c : Option CtxNo) (a b : BitVec 64) : (s.logErr cls sev u c a b).train = s.train := by
  unfold State.logErr; dsimp only; split <;> rfl

/-- An entry that is not FATAL leaves the engine's state and its ALERT alone (R330). -/
theorem State.logErr_eng {sev : BitVec 2} (h : sev ≠ 3) (cls : BitVec 6) (u : BitVec 4) (c : Option CtxNo) (a b : BitVec 64) :
    (s.logErr cls sev u c a b).eng = s.eng := by
  unfold State.logErr; dsimp only; rw [if_neg h]

theorem State.logErr_mgmt {sev : BitVec 2} (h : sev ≠ 3) (cls : BitVec 6) (u : BitVec 4) (c : Option CtxNo) (a b : BitVec 64) :
    (s.logErr cls sev u c a b).mgmt = s.mgmt := by
  unfold State.logErr; dsimp only; rw [if_neg h]

end Sys2Proof.Machine
end

