-- ==== Sys2Proof/Laws/Keep.lean ====
section
/-! SUPPORT. The relation `Keep`: the fields that only named commands change are the same, and the invariant of Safety is kept. Its
laws for the elementary updates and for the shared operations over translation, requests, memory, events and the error log. -/

namespace Sys2Proof.Machine

-- One after another: checked at once, the proofs would ask for too much memory.
set_option Elab.async false

/-- The fields that only named commands change: the queue, the clock, the key slots, the debug port, the region and group tables, the
fuse count and the custom formats. -/
def State.fixed (s : State) : List Instr × Nat × Vector (Option (BitVec 256)) 16 × DbgLevel × Bool × Tbl (BitVec 128)
    × Vector (BitVec 256) 16 × Nat × Vector Word 8 :=
  (s.pending, s.now, s.sec.keys, s.sec.dbg, s.sec.refuses, s.regions, s.groups, s.eng.fwSvn, s.fmts)

/-- `t` comes from `s` by updates that keep the fixed fields and the invariant. -/
structure Keep (s t : State) : Prop where
  fixed : t.fixed = s.fixed
  inv : s.Inv → t.Inv

variable {s t u : State}

theorem Keep.refl (s : State) : Keep s s := ⟨rfl, id⟩

theorem Keep.trans (h : Keep s t) (k : Keep t u) : Keep s u := ⟨k.fixed.trans h.fixed, fun i => k.inv (h.inv i)⟩

/-- An update of fields that neither the fixed fields nor the invariant name. -/
theorem Keep.congr (h : Keep s t) (e1 : u.pending = t.pending) (e2 : u.now = t.now) (e3 : u.sec.keys = t.sec.keys)
    (e4 : u.sec.dbg = t.sec.dbg) (e5 : u.sec.refuses = t.sec.refuses) (e6 : u.regions = t.regions) (e7 : u.groups = t.groups)
    (e8 : u.eng.fwSvn = t.eng.fwSvn) (e9 : u.fmts = t.fmts) (i1 : u.core = t.core) (i2 : u.remote = t.remote) (i3 : u.reqs = t.reqs)
    (i4 : u.tlb = t.tlb) (i5 : u.walks = t.walks) (i6 : u.invals = t.invals) (i7 : u.log = t.log) (i8 : u.descGen = t.descGen) :
    Keep s u := by
  refine h.trans ⟨?_, ?_⟩
  · simp only [State.fixed, e1, e2, e3, e4, e5, e6, e7, e8, e9]
  · intro k
    unfold State.Inv State.memWf at k ⊢
    rw [i1, i2, i3, i4, i5, i6, i7, e6, i8]
    exact k

/-- An update of fields that neither the fixed fields nor the invariant name, as a record. -/
theorem Keep.lit
    {x_free : Nat} {x_evt : BitVec 4} {x_eng : Engine} {x_tick : Tick} {x_ctxs : Vector Context 8}
    {x_rts : Vector RescaleTable 8} {x_prio : Vector (BitVec 16) 8} {x_prioNext : Option (Vector (BitVec 16) 8)}
    {x_schedLast : Vector (Fin 8) 8} {x_schedTurn : Vector Nat 8} {x_stallMap : Vector (BitVec 4) 16}
    {x_rampTab : BitVec 640} {x_rampNext : Option (BitVec 640)} {x_riskTab : BitVec 640} {x_descs : List (Nat × Desc)}
    {x_slots : Vector Slot 48} {x_touch : List Touch} {x_lane : Lane} {x_staging : List (Nat × Nat)} {x_invalReq : Word}
    {x_invalDone : Word} {x_sent : List Sent} {x_waits : List Wait} {x_dovetail : List (CtxNo × Word)}
    {x_locks : List RowLock} {x_chains : Vector Chain 4} {x_chainOut : List ChainMsg} {x_port : Port} {x_ckpt : Ckpt}
    {x_risk : Risk} {x_tel : Telemetry} {x_pow : Power} {x_bist : SelfTest} {x_sec : Security} {x_mgmt : Mgmt}
    {x_train : Vector Train 6}
    (h : Keep s t) (e3 : x_sec.keys = t.sec.keys) (e4 : x_sec.dbg = t.sec.dbg) (e5 : x_sec.refuses = t.sec.refuses)
    (e8 : x_eng.fwSvn = t.eng.fwSvn) :
    Keep s {
      pending := t.pending, now := t.now, free := x_free, core := t.core, remote := t.remote, evt := x_evt, eng := x_eng,
      tick := x_tick, ctxs := x_ctxs, fmts := t.fmts, rts := x_rts, prio := x_prio, prioNext := x_prioNext,
      schedLast := x_schedLast, schedTurn := x_schedTurn, stallMap := x_stallMap, rampTab := x_rampTab,
      rampNext := x_rampNext, riskTab := x_riskTab, regions := t.regions, groups := t.groups, descs := x_descs,
      descGen := t.descGen, slots := x_slots, touch := x_touch, lane := x_lane, staging := x_staging, tlb := t.tlb,
      walks := t.walks, invals := t.invals, invalReq := x_invalReq, invalDone := x_invalDone, reqs := t.reqs,
      sent := x_sent, waits := x_waits, dovetail := x_dovetail, locks := x_locks, chains := x_chains,
      chainOut := x_chainOut, port := x_port, ckpt := x_ckpt, risk := x_risk, log := t.log, tel := x_tel, pow := x_pow,
      bist := x_bist, sec := x_sec, mgmt := x_mgmt, train := x_train } :=
  h.congr rfl rfl e3 e4 e5 rfl rfl e8 rfl rfl rfl rfl rfl rfl rfl rfl rfl

theorem Keep.walks (h : Keep s t) {w : List WalkReq} (k : t.walks.length ≤ 8 → w.length ≤ 8) : Keep s { t with walks := w } := by
  refine h.trans ⟨rfl, fun i => ?_⟩
  unfold State.Inv at i ⊢
  exact ⟨i.1, i.2.1, i.2.2.1, k i.2.2.2.1, i.2.2.2.2⟩

theorem Keep.tlb (h : Keep s t) {l : List TlbEntry} (k : t.tlb.length ≤ 256 → l.length ≤ 256) : Keep s { t with tlb := l } := by
  refine h.trans ⟨rfl, fun i => ?_⟩
  unfold State.Inv at i ⊢
  exact ⟨i.1, i.2.1, k i.2.2.1, i.2.2.2⟩

theorem Keep.memory (h : Keep s t) {m n : Memory} (k : t.core.wf = true → m.wf = true) (l : t.remote.wf = true → n.wf = true) :
    Keep s { t with core := m, remote := n } := by
  refine h.trans ⟨rfl, fun i => ?_⟩
  unfold State.Inv at i ⊢
  have j := i.1
  simp only [State.memWf, Bool.and_eq_true] at j ⊢
  exact ⟨⟨k j.1, l j.2⟩, i.2⟩

theorem Keep.logs (h : Keep s t) {l : ErrLog} (k : t.log.ring.length = 63 → l.ring.length = 63)
    (d : dist32 t.log.wr t.log.rd ≤ 63 → dist32 l.wr l.rd ≤ 63) : Keep s { t with log := l } := by
  refine h.trans ⟨rfl, fun i => ?_⟩
  unfold State.Inv at i ⊢
  obtain ⟨i1, i2, i4, i5, i6, i7, i8, i9⟩ := i
  exact ⟨i1, i2, i4, i5, i6, k i7, d i8, i9⟩

theorem Keep.gens (h : Keep s t) {g : Tbl (BitVec 6)} (k : Tbl.wf 0 t.descGen = true → Tbl.wf 0 g = true) : Keep s { t with descGen := g } := by
  refine h.trans ⟨rfl, fun i => ?_⟩
  unfold State.Inv at i ⊢
  obtain ⟨i1, i2, i4, i5, i6, i7, i8, i9, i10⟩ := i
  exact ⟨i1, i2, i4, i5, i6, i7, i8, i9, k i10⟩

/-! ### Lists of states -/

theorem Keep.foldl {α : Type} {f : State → α → State} (k : ∀ t a, Keep s t → Keep s (f t a)) (l : List α) {t : State} (h : Keep s t) :
    Keep s (l.foldl f t) := by
  induction l generalizing t with
  | nil => exact h
  | cons a r ih => exact ih (k t a h)

theorem Keep.foldl_fst {α β : Type} {f : State × β → α → State × β} (k : ∀ p a, Keep s p.1 → Keep s (f p a).1) (l : List α)
    {p : State × β} (h : Keep s p.1) : Keep s (l.foldl f p).1 := by
  induction l generalizing p with
  | nil => exact h
  | cons a r ih => exact ih (k p a h)

/-! ### Elementary updates -/

theorem Keep.setCtx (h : Keep s t) (c : CtxNo) (x : Context) : Keep s (t.setCtx c x) := by apply h.congr <;> rfl
theorem Keep.modCtx (h : Keep s t) (c : CtxNo) (f : Context → Context) : Keep s (t.modCtx c f) := by apply h.congr <;> rfl
theorem Keep.setPhase (h : Keep s t) (c : CtxNo) (i : Nat) (p : Phase) : Keep s (t.setPhase c i p) := by apply h.congr <;> rfl
theorem Keep.unpin (h : Keep s t) (c : CtxNo) : Keep s (t.unpin c) := by apply h.congr <;> rfl
theorem Keep.unwait (h : Keep s t) (c : CtxNo) (q : Word) : Keep s (t.unwait c q) := by apply h.congr <;> rfl
theorem Keep.unwaitAll (h : Keep s t) (c : CtxNo) : Keep s (t.unwaitAll c) := by apply h.congr <;> rfl
theorem Keep.await (h : Keep s t) (r : Res) (p : Nat) (c : CtxNo) (q : Word) : Keep s (t.await r p c q) := by
  unfold State.await; split
  · exact h
  · apply h.congr <;> rfl
theorem Keep.unwaitCmd (h : Keep s t) (c : CtxNo) (i : Nat) : Keep s (t.unwaitCmd c i) := by
  unfold State.unwaitCmd; split
  · apply h.congr <;> rfl
  · exact h
theorem Keep.finish (h : Keep s t) (c : CtxNo) (i : Nat) (r : Reply) : Keep s (t.finish c i r) :=
  ((h.unwaitCmd c i).setPhase c i _).unpin c
theorem Keep.countOob (h : Keep s t) (c : CtxNo) (n : Nat) : Keep s (t.countOob c n) := by apply h.congr <;> rfl
theorem Keep.setSlot (h : Keep s t) (i : Nat) (x : Slot) : Keep s (t.setSlot i x) := by apply h.congr <;> rfl
theorem Keep.modSlot (h : Keep s t) (i : Nat) (f : Slot → Slot) : Keep s (t.modSlot i f) := by apply h.congr <;> rfl
theorem Keep.setRt (h : Keep s t) (i : Nat) (x : RescaleTable) : Keep s (t.setRt i x) := by apply h.congr <;> rfl
theorem Keep.setChain (h : Keep s t) (i : Nat) (x : Chain) : Keep s (t.setChain i x) := by apply h.congr <;> rfl
theorem Keep.pulse (h : Keep s t) (l : Nat) : Keep s (t.pulse l) := by apply h.congr <;> rfl
theorem Keep.drawFree (h : Keep s t) : Keep s t.drawFree.2 := by apply h.congr <;> rfl

/-! ### Translation -/

theorem length_tlbFill (l : List TlbEntry) (p : Nat) (x : Xlat) : (tlbFill l p x).length ≤ 256 := by
  unfold tlbFill
  rw [List.length_take]
  exact Nat.min_le_left _ _

theorem length_addWalk {l : List WalkReq} (w : WalkReq) (h : l.length ≤ 8) : (addWalk l w).length ≤ 8 := by
  unfold addWalk
  dsimp only
  split
  · simpa using h
  · split
    · simp; omega
    · exact h

theorem length_foldWalk {α : Type} (f : List WalkReq → α → List WalkReq) (k : ∀ l a, l.length ≤ 8 → (f l a).length ≤ 8) (as : List α)
    {l : List WalkReq} (h : l.length ≤ 8) : (as.foldl f l).length ≤ 8 := by
  induction as generalizing l with
  | nil => exact h
  | cons a r ih => exact ih (k l a h)

theorem length_foldTlb {α : Type} (f : List TlbEntry → α → List TlbEntry) (k : ∀ l a, l.length ≤ 256 → (f l a).length ≤ 256)
    (as : List α) {l : List TlbEntry} (h : l.length ≤ 256) : (as.foldl f l).length ≤ 256 := by
  induction as generalizing l with
  | nil => exact h
  | cons a r ih => exact ih (k l a h)

theorem Keep.pin (h : Keep s t) (c : CtxNo) (ns : List FaultRec) : Keep s (t.pin c ns) := by
  unfold State.pin
  dsimp only
  refine Keep.tlb (Keep.modCtx h c _) (fun k => ?_)
  refine length_foldTlb _ (fun l a hl => ?_) _ k
  split
  · exact length_tlbFill _ _ _
  · exact hl

theorem Keep.acquire (h : Keep s t) (c : CtxNo) (ns : List FaultRec) : Keep s (t.acquire c ns).2 := by
  unfold State.acquire
  dsimp only
  split
  · exact h.pin c _
  · exact Keep.walks (h.pin c _) (length_foldWalk _ (fun l a hl => length_addWalk _ hl) _)

theorem Keep.touchTlb (h : Keep s t) (p : Nat) : Keep s (t.touchTlb p) := by
  unfold State.touchTlb
  refine Keep.tlb h (fun k => ?_)
  split
  · exact length_tlbFill _ _ _
  · exact k

theorem Keep.ringReady (h : Keep s t) (c : CtxNo) (va : Nat) (w : Bool) : Keep s (t.ringReady c va w).2 := by
  unfold State.ringReady
  split
  · exact h.touchTlb _
  · exact Keep.walks h (fun k => length_addWalk _ k)

/-! ### Requests -/

theorem dropFirst_sublist {α : Type} (p : α → Bool) (l : List α) : (dropFirst p l).Sublist l := by
  induction l with
  | nil => exact List.Sublist.refl _
  | cons a r ih =>
    unfold dropFirst
    split
    · exact List.sublist_cons_self _ _
    · exact ih.cons_cons _

theorem ReqsOk.sublist {l m : List Req} (h : ReqsOk l) (k : m.Sublist l) : ReqsOk m :=
  ⟨fun c => Nat.le_trans (k.filter _).length_le (h.1 c), fun b => Nat.le_trans (k.filter _).length_le (h.2.1 b),
    fun u => Nat.le_trans (k.filter _).length_le (h.2.2 u)⟩

theorem length_filter_append {p : Req → Bool} {l : List Req} {r : Req} {n : Nat} (h : (l.filter p).length ≤ n)
    (k : p r = true → (l.filter p).length < n) : ((l ++ [r]).filter p).length ≤ n := by
  rw [List.filter_append, List.length_append]
  cases hp : p r with
  | false => simpa [hp] using h
  | true => have := k hp; simp [hp]; omega

/-- A request that lacks nothing keeps the limits. -/
theorem ReqsOk.push {l : List Req} (h : ReqsOk l) {r : Req} (k : lackOf l r = none) : ReqsOk (l ++ [r]) := by
  unfold lackOf at k
  split at k
  · cases k
  · rename_i h1
    split at k
    · cases k
    · rename_i h2
      split at k
      · cases k
      · rename_i h3
        refine ⟨fun c => length_filter_append (h.1 c) (fun e => ?_), fun b => length_filter_append (h.2.1 b) (fun e => ?_),
          fun u => length_filter_append (h.2.2 u) (fun e => ?_)⟩
        · obtain rfl : r.cls = c := by simpa [Req.ofClass] using e
          exact Nat.lt_of_not_le h1
        · obtain ⟨rfl, g⟩ : r.bank = b ∧ r.cls ≠ .rem := by simpa [Req.ofBank] using e
          simpa [g] using h3
        · obtain ⟨g, rfl⟩ : r.cls = .wr ∧ r.use = u := by simpa [Req.ofUse] using e
          simpa [g] using h2

/-- Requests that go out keep the limits. -/
theorem ReqsOk.send (held : Bool) (rs : List Req) {l : List Req} (h : ReqsOk l) : ReqsOk (sendReqs held l rs).1 := by
  induction rs generalizing l with
  | nil => exact h
  | cons r t ih =>
    unfold sendReqs
    split
    · exact h
    · rename_i k
      refine ih (h.push ?_)
      split at k
      · cases k
      · exact k

theorem Keep.requests (h : Keep s t) {l : List Req} (k : ReqsOk t.reqs → ReqsOk l) : Keep s { t with reqs := l } := by
  refine h.trans ⟨rfl, fun i => ?_⟩
  unfold State.Inv at i ⊢
  exact ⟨i.1, k i.2.1, i.2.2⟩

theorem Keep.invals (h : Keep s t) {l : List Inval} (k : t.invals.length ≤ 16 → l.length ≤ 16) : Keep s { t with invals := l } := by
  refine h.trans ⟨rfl, fun i => ?_⟩
  unfold State.Inv at i ⊢
  obtain ⟨i1, i2, i4, i5, i6, i7⟩ := i
  exact ⟨i1, i2, i4, i5, k i6, i7⟩

/-- An update of the lists that the invariant bounds, and of fields that it does not name, as a record. -/
theorem Keep.queues
    {x_free : Nat} {x_evt : BitVec 4} {x_eng : Engine} {x_tick : Tick} {x_ctxs : Vector Context 8}
    {x_rts : Vector RescaleTable 8} {x_prio : Vector (BitVec 16) 8} {x_prioNext : Option (Vector (BitVec 16) 8)}
    {x_schedLast : Vector (Fin 8) 8} {x_schedTurn : Vector Nat 8} {x_stallMap : Vector (BitVec 4) 16}
    {x_rampTab : BitVec 640} {x_rampNext : Option (BitVec 640)} {x_riskTab : BitVec 640} {x_descs : List (Nat × Desc)}
    {x_slots : Vector Slot 48} {x_touch : List Touch} {x_lane : Lane} {x_staging : List (Nat × Nat)} {x_tlb : List TlbEntry}
    {x_walks : List WalkReq} {x_invals : List Inval} {x_invalReq : Word} {x_invalDone : Word} {x_reqs : List Req}
    {x_sent : List Sent} {x_waits : List Wait} {x_dovetail : List (CtxNo × Word)} {x_locks : List RowLock}
    {x_chains : Vector Chain 4} {x_chainOut : List ChainMsg} {x_port : Port} {x_ckpt : Ckpt} {x_risk : Risk}
    {x_tel : Telemetry} {x_pow : Power} {x_bist : SelfTest} {x_sec : Security} {x_mgmt : Mgmt} {x_train : Vector Train 6}
    (h : Keep s t) (e3 : x_sec.keys = t.sec.keys) (e4 : x_sec.dbg = t.sec.dbg) (e5 : x_sec.refuses = t.sec.refuses)
    (e8 : x_eng.fwSvn = t.eng.fwSvn)
    (r : ReqsOk t.reqs → ReqsOk x_reqs) (b : t.tlb.length ≤ 256 → x_tlb.length ≤ 256) (w : t.walks.length ≤ 8 → x_walks.length ≤ 8)
    (v : t.invals.length ≤ 16 → x_invals.length ≤ 16) :
    Keep s {
      pending := t.pending, now := t.now, free := x_free, core := t.core, remote := t.remote, evt := x_evt, eng := x_eng,
      tick := x_tick, ctxs := x_ctxs, fmts := t.fmts, rts := x_rts, prio := x_prio, prioNext := x_prioNext,
      schedLast := x_schedLast, schedTurn := x_schedTurn, stallMap := x_stallMap, rampTab := x_rampTab,
      rampNext := x_rampNext, riskTab := x_riskTab, regions := t.regions, groups := t.groups, descs := x_descs,
      descGen := t.descGen, slots := x_slots, touch := x_touch, lane := x_lane, staging := x_staging, tlb := x_tlb,
      walks := x_walks, invals := x_invals, invalReq := x_invalReq, invalDone := x_invalDone, reqs := x_reqs,
      sent := x_sent, waits := x_waits, dovetail := x_dovetail, locks := x_locks, chains := x_chains,
      chainOut := x_chainOut, port := x_port, ckpt := x_ckpt, risk := x_risk, log := t.log, tel := x_tel, pow := x_pow,
      bist := x_bist, sec := x_sec, mgmt := x_mgmt, train := x_train } :=
  Keep.trans (Keep.invals (Keep.walks (Keep.tlb (Keep.requests h r) b) w) v)
    ((Keep.refl _).congr rfl rfl e3 e4 e5 rfl rfl e8 rfl rfl rfl rfl rfl rfl rfl rfl rfl)

theorem Keep.noteSent (h : Keep s t) (c : CtxNo) (q : Word) (x : Acc × Nat) : Keep s (t.noteSent c q x) := by
  unfold State.noteSent
  split
  · exact h
  · apply h.congr <;> rfl

theorem State.issueAll_ok (t : State) (c : CtxNo) (q : Word) (u : ReqUse) (l : List Acc) (h : ReqsOk t.reqs) :
    ReqsOk (t.issueAll c q u l).1 := by
  unfold State.issueAll
  dsimp only
  suffices k : ∀ p : List Req × List (Acc × Nat) × Option Res, ReqsOk p.1 → ReqsOk (l.foldl (fun p a =>
      let q := sendReqs (t.behind .wrSlot (usePrio u) c q) p.1 (t.restReqs c q u a)
      (q.1, p.2.1 ++ [(a, q.2.1)], p.2.2.orElse (fun _ => q.2.2))) p).1 from k _ h
  induction l with
  | nil => exact fun p h => h
  | cons a r ih => exact fun p h => ih _ (h.send _ _)

theorem Keep.takeSlots (h : Keep s t) (c : CtxNo) (q : Word) (u : ReqUse) (l : List Acc) : Keep s (t.takeSlots c q u l).2 := by
  unfold State.takeSlots
  dsimp only
  split
  · exact h.unwait c q
  · exact (Keep.foldl (fun t a ht => ht.noteSent c q a) _ (Keep.requests h (t.issueAll_ok c q u l))).await _ _ c q

theorem Keep.takeRaw (h : Keep s t) (c : CtxNo) (q : Word) (u : ReqUse) (l : List Req) : Keep s (t.takeRaw c q u l).2 := by
  unfold State.takeRaw
  dsimp only
  split
  · exact Keep.requests (h.unwait c q) (fun k => k.send _ _)
  · exact h.await _ _ c q

theorem Keep.openSome (h : Keep s t) (c : CtxNo) (q : Word) (u : ReqUse) (l r : List Acc) : Keep s (t.openSome c q u l r).2 := by
  unfold State.openSome
  dsimp only
  split
  · exact h.acquire c _
  · exact (h.acquire c _).takeSlots c q u _

theorem Keep.openFor (h : Keep s t) (c : CtxNo) (q : Word) (u : ReqUse) (l : List Acc) : Keep s (t.openFor c q u l).2 := h.openSome c q u l l

theorem Keep.openAll (h : Keep s t) (c : CtxNo) (q : Word) (l : List Acc) : Keep s (t.openAll c q l).2 := h.openFor c q _ l

theorem Keep.copiedFirst (h : Keep s t) (c : CtxNo) (q : Word) (l : List Acc) : Keep s (t.copiedFirst c q l).2 := by
  unfold State.copiedFirst
  split
  · dsimp only; exact Keep.modCtx h c _
  · exact h

theorem Keep.openWrites (h : Keep s t) (c : CtxNo) (q : Word) (l : List Acc) : Keep s (t.openWrites c q l).2 := by
  unfold State.openWrites
  dsimp only
  split
  · exact h.openAll c _ _
  · exact (h.openAll c _ _).copiedFirst c q l

theorem Keep.issue (h : Keep s t) (c : CtxNo) (q : Word) (u : ReqUse) (l : List Acc) : Keep s (t.issue c q u l) := by
  have k : ∀ m : List Req, ReqsOk m → ReqsOk (l.foldl (fun m a => (sendReqs false m (t.restReqs c q u a)).1) m) := by
    induction l with
    | nil => exact fun m h => h
    | cons a r ih => exact fun m h => ih _ (h.send _ _)
  have e : Keep s { t with reqs := l.foldl (fun m a => (sendReqs false m (t.restReqs c q u a)).1) t.reqs } := Keep.requests h (k _)
  unfold State.issue
  apply e.congr <;> rfl

theorem Keep.endUnit (h : Keep s t) (c : CtxNo) (l : List Acc) : Keep s (t.endUnit c l) := by
  unfold State.endUnit
  dsimp only
  refine Keep.unpin (Keep.countOob ?_ c _) c
  split
  · apply h.congr <;> rfl
  · refine Keep.modCtx ?_ c _
    apply h.congr <;> rfl

theorem Keep.closeUnit (h : Keep s t) (c : CtxNo) (q : Word) (l : List Acc) : Keep s (t.closeUnit c q l) := (h.issue c q .demand l).endUnit c l

/-! ### Memory -/

theorem Keep.pokeAt (h : Keep s t) (p : Bool × Nat) (b : Byte) : Keep s (t.pokeAt p b) := by
  unfold State.pokeAt
  split
  · exact Keep.memory h (Memory.wf_write _ _) id
  · exact Keep.memory h id (Memory.wf_write _ _)

theorem Keep.poke (h : Keep s t) (c : CtxNo) (va : Nat) (b : Byte) : Keep s (t.poke c va b) := by
  unfold State.poke
  split
  · exact h.pokeAt _ b
  · exact h

theorem Keep.pokeN (h : Keep s t) (c : CtxNo) (va : Nat) (l : List Byte) : Keep s (t.pokeN c va l) := by
  induction l generalizing t va with
  | nil => exact h
  | cons b r ih => exact ih (h.poke c va b) _

theorem Keep.writeB (h : Keep s t) (c : CtxNo) (bad : List (Nat × Nat)) (va : Nat) (l : List Byte) : Keep s (t.writeB c bad va l) := by
  induction l generalizing t va with
  | nil => exact h
  | cons b r ih =>
    simp only [State.writeB]
    split
    · exact ih h _
    · exact ih (h.poke c va b) _

theorem Keep.putBits (h : Keep s t) (c : CtxNo) (bad : List (Nat × Nat)) (o : Opnd) (e : Nat → Nat) (v : Nat) :
    Keep s (t.putBits c bad o e v) := by
  unfold State.putBits
  dsimp only
  split <;> exact h.writeB c bad _ _

theorem Keep.putArea (h : Keep s t) (c : CtxNo) (bad : List (Nat × Nat)) (o : Opnd) (i : Nat) (l : List Byte) :
    Keep s (t.putArea c bad o i l) := by
  induction l generalizing t i with
  | nil => exact h
  | cons b r ih => exact ih (h.writeB c bad _ _) _

/-! ### Events and the error log -/

theorem Keep.postEntry (h : Keep s t) (c : CtxNo) (e : BitVec 256) : Keep s (t.postEntry c e) := by
  unfold State.postEntry
  exact Keep.modCtx (h.pokeN c _ _) c _

theorem Keep.postEvent (h : Keep s t) (c : CtxNo) (r : EventRec) : Keep s (t.postEvent c r) := by
  unfold State.postEvent
  dsimp only
  split
  · exact Keep.pulse (Keep.modCtx (h.postEntry c _) c _) _
  · exact Keep.modCtx (h.postEntry c _) c _

theorem Keep.takeEntry (h : Keep s t) (c : CtxNo) (r : EventRec) : Keep s (t.takeEntry c r) := by
  unfold State.takeEntry
  dsimp only
  split
  · exact (h.ringReady c _ _).postEvent c r
  · exact (h.ringReady c _ _).modCtx c _

theorem Keep.event (h : Keep s t) (c : CtxNo) (k : Byte) (p : BitVec 128) : Keep s (t.event c k p) := by
  unfold State.event
  dsimp only
  split
  · exact h
  · split
    · exact (h.modCtx c _).takeEntry c _
    · split
      · exact Keep.modCtx (h.modCtx c _) c _
      · exact Keep.modCtx (h.modCtx c _) c _

theorem length_logPut (e : LogEntry) (n i : Nat) (l : List LogEntry) : (logPut e n i l).length = l.length := by
  induction n generalizing i l with
  | zero => exact length_setAt _ _ _
  | succ n ih =>
    unfold logPut
    dsimp only
    split
    · rw [ih, length_setAt]
    · exact length_setAt _ _ _

/-- A new entry keeps the ring's length and at most 63 entries unread. -/
theorem ErrLog.push_ok (l : ErrLog) (e : LogEntry) (h : dist32 l.wr l.rd ≤ 63) :
    (l.push e).ring.length = l.ring.length ∧ dist32 (l.push e).wr (l.push e).rd ≤ 63 := by
  have one : (1 : BitVec 32).toNat = 1 := rfl
  unfold ErrLog.push
  dsimp only
  refine ⟨length_logPut _ _ _ _, ?_⟩
  unfold dist32 at *
  have hw := l.wr.isLt
  have hr := l.rd.isLt
  simp only [decide_eq_true_eq]
  split
  · simp only [BitVec.toNat_sub, BitVec.toNat_add, one] at *
    omega
  · simp only [BitVec.toNat_sub, BitVec.toNat_add, one] at *
    omega

@[simp] theorem State.logErr_log (t : State) (cls : BitVec 6) (sev : BitVec 2) (x : BitVec 4) (c : Option CtxNo) (a b : BitVec 64) :
    (t.logErr cls sev x c a b).log = t.logNext cls sev x c a b := by
  unfold State.logErr
  dsimp only
  split <;> rfl

/-- What an entry does to the log's ring and indices. -/
theorem State.logNext_ok (t : State) (cls : BitVec 6) (sev : BitVec 2) (x : BitVec 4) (c : Option CtxNo) (a b : BitVec 64)
    (h : dist32 t.log.wr t.log.rd ≤ 63) : (t.logNext cls sev x c a b).ring.length = t.log.ring.length
      ∧ dist32 (t.logNext cls sev x c a b).wr (t.logNext cls sev x c a b).rd ≤ 63 := by
  unfold State.logNext
  dsimp only
  generalize logFind t.log.ring _ t.log.next (dist32 t.log.wr t.log.rd) = o
  cases o with
  | some i => exact ⟨length_setAt _ _ _, h⟩
  | none => exact ErrLog.push_ok _ _ h

@[simp] theorem State.logErr_fwSvn (t : State) (cls : BitVec 6) (sev : BitVec 2) (x : BitVec 4) (c : Option CtxNo) (a b : BitVec 64) :
    (t.logErr cls sev x c a b).eng.fwSvn = t.eng.fwSvn := by
  unfold State.logErr
  dsimp only
  split <;> rfl

theorem Keep.logErr (h : Keep s t) (cls : BitVec 6) (sev : BitVec 2) (x : BitVec 4) (c : Option CtxNo) (a b : BitVec 64) :
    Keep s (t.logErr cls sev x c a b) := by
  refine h.trans ⟨by simp [State.fixed], fun i => ?_⟩
  have k := State.logNext_ok t cls sev x c a b i.2.2.2.2.2.2.1
  unfold State.Inv State.memWf at i ⊢
  obtain ⟨i1, i2, i4, i5, i6, i7, _, i9⟩ := i
  simp only [State.logErr_core, State.logErr_remote, State.logErr_reqs, State.logErr_tlb, State.logErr_walks, State.logErr_invals,
    State.logErr_log, State.logErr_regions, State.logErr_descGen]
  exact ⟨i1, i2, i4, i5, i6, k.1.trans i7, k.2, i9⟩

end Sys2Proof.Machine
end

