-- ==== Sys2Proof/Laws/KeepOps.lean ====
section
/-! SUPPORT. `Keep` for the operations of every unit: each keeps the fields that only named commands change, and the invariant. One
lemma for each operation over the state, in the order of the model's files; a later proof cites it and never unfolds the operation. -/

-- One after another: checked at once, the proofs would ask for too much memory.
set_option Elab.async false

namespace Sys2Proof.Machine

theorem Keep.modPort {s t : State} (h : Keep s t) (x1 : Port → Port) : Keep s (State.modPort t x1) := by
  unfold State.modPort
  iterate 24 (all_goals try (first | with_reducible assumption | intro _ | split | dsimp only | with_reducible apply Keep.lit | with_reducible rfl))

theorem Keep.forget {s t : State} (h : Keep s t) (x1 : BitVec 12) : Keep s (State.forget t x1) := by
  unfold State.forget
  iterate 24 (all_goals try (first | with_reducible assumption | intro _ | with_reducible apply Keep.modPort | split | dsimp only | with_reducible apply Keep.lit | with_reducible rfl))

theorem Keep.modCh {s t : State} (h : Keep s t) (x1 : Chan) (x2 : Channel → Channel) : Keep s (State.modCh t x1 x2) := by
  unfold State.modCh
  iterate 24 (all_goals try (first | with_reducible assumption | intro _ | with_reducible apply Keep.modPort | split | dsimp only | with_reducible apply Keep.lit | with_reducible rfl))

theorem Keep.allocCtx {s t u : State} {k : Chan} {j : JobCtx} (e : t.allocCtx k j = some u) (h : Keep s t) : Keep s u := by
  unfold State.allocCtx at e
  dsimp only at e
  split at e
  · cases e; exact h
  · split at e
    · cases e; exact h.modCh k _
    · split at e
      · cases e
      · cases e; exact (h.modCh k _).forget _

theorem Keep.allocAll {s t u : State} {m : Cmd} {ks : List Chan} (e : t.allocAll m ks = some u) (h : Keep s t) : Keep s u := by
  unfold State.allocAll at e
  dsimp only at e
  generalize t.freshCtx m.job (m.bit 176) (m.bit 177) (some (m.pkt.extractLsb' 192 16)) = j at e
  have key : ∀ (l : List Chan) (o : Option State), (∀ v, o = some v → Keep s v) →
      ∀ v, l.foldl (fun (t : Option State) k => t.bind (fun u => u.allocCtx k j)) o = some v → Keep s v := by
    intro l
    induction l with
    | nil => exact fun o ho v hv => ho v hv
    | cons a r ih =>
      intro o ho v hv
      refine ih _ (fun w hw => ?_) v hv
      cases o with
      | none => cases hw
      | some x => exact Keep.allocCtx (by simpa using hw) (ho x rfl)
  exact key ks (some t) (fun v hv => by cases hv; exact h) u e

theorem Keep.digestRead {s t : State} (h : Keep s t) (x1 : CtxNo) : Keep s (State.digestRead t x1) := by
  unfold State.digestRead
  iterate 24 (all_goals try (first | with_reducible assumption | intro _ | with_reducible apply Keep.closeUnit | with_reducible apply Keep.finish | with_reducible apply Keep.openWrites | with_reducible apply Keep.putArea | split | dsimp only | with_reducible apply Keep.lit | with_reducible rfl))

theorem Keep.modJob {s t : State} (h : Keep s t) (x1 : BitVec 12) (x2 : Job → Job) : Keep s (State.modJob t x1 x2) := by
  unfold State.modJob
  iterate 24 (all_goals try (first | with_reducible assumption | intro _ | with_reducible apply Keep.modPort | split | dsimp only | with_reducible apply Keep.lit | with_reducible rfl))

theorem Keep.issueJob {s t : State} (h : Keep s t) (x1 : CtxNo) (x2 : Cmd) : Keep s (State.issueJob t x1 x2) := by
  unfold State.issueJob
  iterate 24 (all_goals try (first | with_reducible assumption | intro _ | with_reducible apply Keep.event | with_reducible apply Keep.modJob | split | dsimp only | with_reducible apply Keep.lit | with_reducible rfl))

theorem Keep.expect {s t : State} (h : Keep s t) (x1 : BitVec 12) (x2 : Nat) (x3 : List Nat) : Keep s (State.expect t x1 x2 x3) := by
  unfold State.expect
  iterate 24 (all_goals try (first | with_reducible assumption | intro _ | with_reducible apply Keep.modPort | split | dsimp only | with_reducible apply Keep.lit | with_reducible rfl))

theorem Keep.modInput {s t : State} (h : Keep s t) (x1 : BitVec 12) (x2 : Nat) (x3 : Nat) (x4 : Input → Input) : Keep s (State.modInput t x1 x2 x3 x4) := by
  unfold State.modInput
  iterate 24 (all_goals try (first | with_reducible assumption | intro _ | with_reducible apply Keep.modPort | split | dsimp only | with_reducible apply Keep.lit | with_reducible rfl))

theorem Keep.ringNote {s t : State} (h : Keep s t) (x1 : BitVec 12) (x2 : Nat) (x3 : Input → Input) : Keep s (State.ringNote t x1 x2 x3) := by
  unfold State.ringNote
  iterate 24 (all_goals try (first | with_reducible assumption | intro _ | with_reducible apply Keep.modInput | split | dsimp only | with_reducible apply Keep.lit | with_reducible rfl))

theorem Keep.openBucket {s t : State} (h : Keep s t) (x1 : Cmd) (x2 : Opnd) : Keep s (State.openBucket t x1 x2) := by
  unfold State.openBucket
  iterate 24 (all_goals try (first | with_reducible assumption | intro _ | with_reducible apply Keep.expect | with_reducible apply Keep.modJob | with_reducible apply Keep.modPort | with_reducible apply Keep.ringNote | split | dsimp only | with_reducible apply Keep.lit | with_reducible rfl))

theorem Keep.freeBuffer {s t : State} (h : Keep s t) (x1 : Chan) (x2 : BitVec 12) : Keep s (State.freeBuffer t x1 x2) := by
  unfold State.freeBuffer
  iterate 24 (all_goals try (first | with_reducible assumption | intro _ | with_reducible apply Keep.modPort | split | dsimp only | with_reducible apply Keep.lit | with_reducible rfl))

theorem Keep.keepRx {s t : State} (h : Keep s t) (x1 : Chan) (x2 : Packet) : Keep s (State.keepRx t x1 x2) := by
  unfold State.keepRx
  iterate 24 (all_goals try (first | with_reducible assumption | intro _ | with_reducible apply Keep.modCh | split | dsimp only | with_reducible apply Keep.lit | with_reducible rfl))

theorem Keep.lateDrop {s t : State} (h : Keep s t) (x1 : Chan) : Keep s (State.lateDrop t x1) := by
  unfold State.lateDrop
  iterate 24 (all_goals try (first | with_reducible assumption | intro _ | with_reducible apply Keep.modCh | split | dsimp only | with_reducible apply Keep.lit | with_reducible rfl))

theorem Keep.dropRx {s t : State} (h : Keep s t) (x1 : Chan) (x2 : Packet) : Keep s (State.dropRx t x1 x2) := by
  unfold State.dropRx
  iterate 24 (all_goals try (first | with_reducible assumption | intro _ | with_reducible apply Keep.freeBuffer | with_reducible apply Keep.modCh | split | dsimp only | with_reducible apply Keep.lit | with_reducible rfl))

theorem Keep.dropJob {s t : State} (h : Keep s t) (x1 : BitVec 12) : Keep s (State.dropJob t x1) := by
  unfold State.dropJob
  iterate 24 (all_goals try (first | with_reducible assumption | intro _ | with_reducible apply Keep.dropRx | with_reducible apply Keep.freeBuffer | with_reducible apply Keep.modPort | with_reducible apply Keep.foldl | with_reducible apply Keep.foldl_fst | split | dsimp only | with_reducible apply Keep.lit | with_reducible rfl))

theorem Keep.failCmds {s t : State} (h : Keep s t) (x1 : BitVec 12) : Keep s (State.failCmds t x1) := by
  unfold State.failCmds
  iterate 24 (all_goals try (first | with_reducible assumption | intro _ | with_reducible apply Keep.finish | with_reducible apply Keep.foldl | with_reducible apply Keep.foldl_fst | split | dsimp only))

theorem Keep.reduceRecord {s t : State} (h : Keep s t) (x1 : BitVec 12) (x2 : BitVec 128) : Keep s (State.reduceRecord t x1 x2) := by
  unfold State.reduceRecord
  iterate 24 (all_goals try (first | with_reducible assumption | intro _ | with_reducible apply Keep.event | with_reducible apply Keep.modJob | split | dsimp only | with_reducible apply Keep.lit | with_reducible rfl))

theorem Keep.failJob {s t : State} (h : Keep s t) (x1 : BitVec 12) (x2 : Nat) (x3 : Nat) (x4 : Option Chan) (x5 : Nat) (x6 : Nat) (x7 : Nat) (x8 : Nat) (x9 : Nat) : Keep s (State.failJob t x1 x2 x3 x4 x5 x6 x7 x8 x9) := by
  unfold State.failJob
  iterate 24 (all_goals try (first | with_reducible assumption | intro _ | with_reducible apply Keep.dropJob | with_reducible apply Keep.failCmds | with_reducible apply Keep.modJob | with_reducible apply Keep.modPort | with_reducible apply Keep.reduceRecord | split | dsimp only | with_reducible apply Keep.lit | with_reducible rfl))

theorem Keep.mismatch {s t : State} (h : Keep s t) (x1 : Chan) (x2 : Packet) : Keep s (State.mismatch t x1 x2) := by
  unfold State.mismatch
  iterate 24 (all_goals try (first | with_reducible assumption | intro _ | with_reducible apply Keep.failJob | split | dsimp only))

theorem Keep.arriveBackup {s t : State} (h : Keep s t) (x1 : Group) (x2 : Packet) : Keep s (State.arriveBackup t x1 x2) := by
  unfold State.arriveBackup
  iterate 24 (all_goals try (first | with_reducible assumption | intro _ | with_reducible apply Keep.freeBuffer | with_reducible apply Keep.keepRx | with_reducible apply Keep.lateDrop | with_reducible apply Keep.mismatch | with_reducible apply Keep.modCh | with_reducible apply Keep.modInput | split | dsimp only | with_reducible apply Keep.lit | with_reducible rfl))

theorem Keep.arriveData {s t : State} (h : Keep s t) (x1 : Chan) (x2 : Group) (x3 : Packet) : Keep s (State.arriveData t x1 x2 x3) := by
  unfold State.arriveData
  iterate 24 (all_goals try (first | with_reducible assumption | intro _ | with_reducible apply Keep.expect | with_reducible apply Keep.freeBuffer | with_reducible apply Keep.keepRx | with_reducible apply Keep.lateDrop | with_reducible apply Keep.mismatch | with_reducible apply Keep.modInput | split | dsimp only | with_reducible apply Keep.lit | with_reducible rfl))

theorem Keep.arriveResult {s t : State} (h : Keep s t) (x1 : Chan) (x2 : Group) (x3 : Packet) : Keep s (State.arriveResult t x1 x2 x3) := by
  unfold State.arriveResult
  iterate 24 (all_goals try (first | with_reducible assumption | intro _ | with_reducible apply Keep.freeBuffer | with_reducible apply Keep.mismatch | with_reducible apply Keep.modPort | with_reducible apply Keep.ringNote | split | dsimp only | with_reducible apply Keep.lit | with_reducible rfl))

theorem Keep.arrive {s t : State} (h : Keep s t) (x1 : Chan) (x2 : Packet) (x3 : JobCtx) : Keep s (State.arrive t x1 x2 x3) := by
  unfold State.arrive
  iterate 24 (all_goals try (first | with_reducible assumption | intro _ | with_reducible apply Keep.arriveBackup | with_reducible apply Keep.arriveData | with_reducible apply Keep.arriveResult | with_reducible apply Keep.failJob | with_reducible apply Keep.freeBuffer | with_reducible apply Keep.mismatch | with_reducible apply Keep.modCh | split | dsimp only | with_reducible apply Keep.lit | with_reducible rfl))

theorem Keep.acceptHead {s t : State} (h : Keep s t) (x1 : Chan) : Keep s (State.acceptHead t x1) := by
  unfold State.acceptHead
  iterate 24 (all_goals try (first | with_reducible assumption | intro _ | with_reducible apply Keep.arrive | with_reducible apply Keep.modCh | with_reducible apply Keep.modJob | (refine Keep.allocCtx (by assumption) ?_) | split | dsimp only | with_reducible apply Keep.lit | with_reducible rfl))

theorem Keep.finishPartials {s t : State} (h : Keep s t)  : Keep s (State.finishPartials t) := by
  unfold State.finishPartials
  iterate 24 (all_goals try (first | with_reducible assumption | intro _ | with_reducible apply Keep.modPort | split | dsimp only | with_reducible apply Keep.lit | with_reducible rfl))

theorem Keep.trySend {s t u : State} {k : Chan} {p : Packet} (e : t.trySend k p = some u) (h : Keep s t) : Keep s u := by
  unfold State.trySend at e
  split at e
  · cases e
  · split at e
    · cases e
    · rename_i s1 h1
      split at e
      · cases e
      · cases e
        exact ((h.allocCtx h1).modCh k _).modPort _

theorem Keep.forwardOn {s : State} {a : State × List (Chan × BitVec 12) × Held} (h : Keep s a.1) (k : Chan) :
    Keep s (State.forwardOn a k).1 := by
  unfold State.forwardOn
  dsimp only
  split
  · exact h
  · split
    · exact h
    · split
      · exact h
      · rename_i e
        dsimp only
        split
        · exact (Keep.trySend e h).modInput _ _ _ _
        · exact Keep.trySend e h

theorem Keep.forwardHeld {s : State} {a : State × List (Chan × BitVec 12) × List Held} (h : Keep s a.1) (x : Held) :
    Keep s (State.forwardHeld a x).1 := by
  unfold State.forwardHeld
  split
  · exact h
  · exact Keep.foldl_fst (fun p k hp => hp.forwardOn k) _ h

theorem Keep.forward {s t : State} (h : Keep s t)  : Keep s (State.forward t) := by
  unfold State.forward
  iterate 24 (all_goals try (first | with_reducible assumption | intro _ | with_reducible apply Keep.forwardHeld | with_reducible apply Keep.freeBuffer | with_reducible apply Keep.modPort | with_reducible apply Keep.foldl | with_reducible apply Keep.foldl_fst | split | dsimp only | with_reducible apply Keep.lit | with_reducible rfl))

theorem Keep.refreshJobs {s t : State} (h : Keep s t)  : Keep s (State.refreshJobs t) := by
  unfold State.refreshJobs
  iterate 24 (all_goals try (first | with_reducible assumption | intro _ | with_reducible apply Keep.modPort | split | dsimp only | with_reducible apply Keep.lit | with_reducible rfl))

theorem Keep.sendAborts {s t : State} (h : Keep s t)  : Keep s (State.sendAborts t) := by
  unfold State.sendAborts
  iterate 24 (all_goals try (first | with_reducible assumption | intro _ | with_reducible apply Keep.modPort | with_reducible apply Keep.foldl | with_reducible apply Keep.foldl_fst | (refine Keep.trySend (by assumption) ?_) | split | dsimp only | with_reducible apply Keep.lit | with_reducible rfl))

theorem Keep.nodeTake {s t u : State} {k : Nat} {p : Packet} {b : Bool} (e : t.nodeTake k p b = .done u) (h : Keep s t) : Keep s u := by
  unfold State.nodeTake at e
  dsimp only at e
  split at e
  · split at e
    · cases e
    · cases e; exact (h.modPort _).modInput _ _ _ _
  · split at e
    · cases e
    · cases e; exact (h.modPort _).modInput _ _ _ _

theorem Keep.supply {s t : State} (h : Keep s t) (x1 : Input) : Keep s (State.supply t x1) := by
  unfold State.supply
  iterate 24 (all_goals try (first | with_reducible assumption | intro _ | with_reducible apply Keep.dropRx | with_reducible apply Keep.mismatch | with_reducible apply Keep.modInput | (refine Keep.nodeTake (by assumption) ?_) | split | dsimp only | with_reducible apply Keep.lit | with_reducible rfl))

theorem Keep.dropBackups {s t : State} (h : Keep s t) (x1 : BitVec 12) (x2 : Nat) (x3 : Nat) (x4 : Nat) : Keep s (State.dropBackups t x1 x2 x3 x4) := by
  unfold State.dropBackups
  iterate 24 (all_goals try (first | with_reducible assumption | intro _ | with_reducible apply Keep.dropRx | with_reducible apply Keep.lateDrop | with_reducible apply Keep.foldl | with_reducible apply Keep.foldl_fst | split | dsimp only))

theorem Keep.takeRx {s : State} {k : Chan} {a : State × List (BitVec 12)} (h : Keep s a.1) (p : Packet) :
    Keep s (State.takeRx k a p).1 := by
  unfold State.takeRx
  dsimp only
  split
  · exact h
  · split
    · exact h
    · split
      · exact h
      · exact h.mismatch k p
      · rename_i e
        exact ((Keep.nodeTake e h).dropRx k p).dropBackups _ _ _ _

theorem Keep.takeChan {s t : State} (h : Keep s t) (x1 : Chan) : Keep s (State.takeChan t x1) := by
  unfold State.takeChan
  iterate 24 (all_goals try (first | with_reducible assumption | intro _ | with_reducible apply Keep.takeRx | with_reducible apply Keep.foldl | with_reducible apply Keep.foldl_fst | split | dsimp only))

theorem Keep.portPass {s t : State} (h : Keep s t)  : Keep s (State.portPass t) := by
  unfold State.portPass
  iterate 24 (all_goals try (first | with_reducible assumption | intro _ | with_reducible apply Keep.acceptHead | with_reducible apply Keep.finishPartials | with_reducible apply Keep.forward | with_reducible apply Keep.refreshJobs | with_reducible apply Keep.sendAborts | with_reducible apply Keep.supply | with_reducible apply Keep.takeChan | with_reducible apply Keep.foldl | with_reducible apply Keep.foldl_fst | split | dsimp only))

theorem Keep.portPasses {s : State} (n : Nat) {t : State} (h : Keep s t) : Keep s (State.portPasses n t) := by
  induction n generalizing t with
  | zero => exact h
  | succ n ih => exact ih h.portPass

theorem Keep.portRun {s t : State} (h : Keep s t)  : Keep s (State.portRun t) := by
  unfold State.portRun
  iterate 24 (all_goals try (first | with_reducible assumption | intro _ | with_reducible apply Keep.portPasses | split | dsimp only))

theorem Keep.recvPacket {s t : State} (h : Keep s t) (x1 : CtxNo) (x2 : Nat) : Keep s (State.recvPacket x1 x2 t).2 := by
  unfold State.recvPacket
  iterate 24 (all_goals try (first | with_reducible assumption | intro _ | with_reducible apply Keep.closeUnit | with_reducible apply Keep.finish | with_reducible apply Keep.modPort | with_reducible apply Keep.openWrites | with_reducible apply Keep.putBits | with_reducible apply Keep.setPhase | with_reducible apply Keep.foldl | with_reducible apply Keep.foldl_fst | split | dsimp only | with_reducible apply Keep.lit | with_reducible rfl))

theorem Keep.runRows {s t : State} (h : Keep s t) {f : State → Bool × State} (n : Nat) (k : ∀ u, Keep s u → Keep s (f u).2) :
    Keep s (runRows f n t) := by
  induction n generalizing t with
  | zero => exact h
  | succ n ih =>
    simp only [Sys2Proof.Machine.runRows]
    split
    · exact ih (k t h)
    · exact k t h

theorem Keep.recvAll {s t : State} (h : Keep s t) (x1 : CtxNo) : Keep s (State.recvAll t x1) := by
  unfold State.recvAll
  iterate 24 (all_goals try (first | with_reducible assumption | intro _ | with_reducible apply Keep.recvPacket | with_reducible apply Keep.runRows | with_reducible apply Keep.foldl | with_reducible apply Keep.foldl_fst | split | dsimp only))

theorem Keep.ringStep {s t u : State} {own : HdrSpec} {vals : List Nat} (e : t.ringStep own vals = some u) (h : Keep s t) :
    Keep s u := by
  unfold State.ringStep at e
  dsimp only at e
  split at e
  · split at e
    · cases e; with_reducible exact h.modPort _
    · with_reducible exact Keep.trySend e h
  · split at e
    · cases e
    · split at e
      · cases e; with_reducible exact h.mismatch _ _
      · split at e
        · cases e
          with_reducible exact ((h.modPort _).dropRx _ _).ringNote _ _ _
        · obtain ⟨v, hv, rfl⟩ := Option.map_eq_some_iff.mp e
          with_reducible exact ((Keep.trySend hv h).dropRx _ _).ringNote _ _ _

theorem Keep.placePacket {s t u : State} {own : HdrSpec} {vals : List Nat} (e : t.placePacket own vals = some u) (h : Keep s t) :
    Keep s u := by
  unfold State.placePacket at e
  dsimp only at e
  split at e
  · with_reducible exact Keep.ringStep e h
  · split at e
    · split at e
      · cases e; with_reducible exact h.expect _ _ _
      · split at e
        · cases e; with_reducible exact h.expect _ _ _
        · split at e
          · cases e
          · cases e; with_reducible exact (h.expect _ _ _).failJob _ _ _ _ _ _ _ _ _
          · rename_i hn
            cases e
            with_reducible exact ((Keep.nodeTake hn (h.expect _ _ _)).dropBackups _ _ _ _).modInput _ _ _ _
    · with_reducible exact Keep.trySend e h

theorem Keep.sendPacket {s t : State} (h : Keep s t) (x1 : CtxNo) (x2 : Nat) : Keep s (State.sendPacket x1 x2 t).2 := by
  unfold State.sendPacket
  iterate 24 (all_goals try (first | with_reducible assumption | intro _ | with_reducible apply Keep.closeUnit | with_reducible apply Keep.finish | with_reducible apply Keep.modJob | with_reducible apply Keep.openAll | with_reducible apply Keep.setPhase | (refine Keep.placePacket (by assumption) ?_) | split | dsimp only | with_reducible apply Keep.lit | with_reducible rfl))

theorem Keep.sendAll {s t : State} (h : Keep s t) (x1 : CtxNo) : Keep s (State.sendAll t x1) := by
  unfold State.sendAll
  iterate 24 (all_goals try (first | with_reducible assumption | intro _ | with_reducible apply Keep.runRows | with_reducible apply Keep.sendPacket | with_reducible apply Keep.foldl | with_reducible apply Keep.foldl_fst | split | dsimp only))

theorem Keep.portRound {s t : State} (h : Keep s t)  : Keep s (State.portRound t) := by
  unfold State.portRound
  iterate 24 (all_goals try (first | with_reducible assumption | intro _ | with_reducible apply Keep.portRun | with_reducible apply Keep.recvAll | with_reducible apply Keep.sendAll | with_reducible apply Keep.foldl | with_reducible apply Keep.foldl_fst | split | dsimp only))

theorem Keep.portStep {s t : State} (h : Keep s t)  : Keep s (State.portStep t) := by
  unfold State.portStep
  iterate 24 (all_goals try (first | with_reducible assumption | intro _ | with_reducible apply Keep.portRound | split | dsimp only))

theorem Keep.packetIn {s t : State} (h : Keep s t) (x1 : Chan) (x2 : Packet) (x3 : Nat) : Keep s (State.packetIn t x1 x2 x3) := by
  unfold State.packetIn
  iterate 24 (all_goals try (first | with_reducible assumption | intro _ | with_reducible apply Keep.modCh | with_reducible apply Keep.portStep | split | dsimp only | with_reducible apply Keep.lit | with_reducible rfl))

theorem Keep.releaseJob {s t : State} (h : Keep s t) (x1 : BitVec 12) : Keep s (State.releaseJob t x1) := by
  unfold State.releaseJob
  iterate 24 (all_goals try (first | with_reducible assumption | intro _ | with_reducible apply Keep.forget | with_reducible apply Keep.modPort | with_reducible apply Keep.portStep | split | dsimp only | with_reducible apply Keep.lit | with_reducible rfl))

theorem Keep.startBucket {s t : State} (h : Keep s t) (x1 : CtxNo) (x2 : Nat) (x3 : Work) : Keep s (State.startBucket t x1 x2 x3) := by
  unfold State.startBucket
  iterate 24 (all_goals try (first | with_reducible assumption | intro _ | with_reducible apply Keep.finish | with_reducible apply Keep.issueJob | with_reducible apply Keep.openBucket | with_reducible apply Keep.setPhase | (refine Keep.allocAll (by assumption) ?_) | split | dsimp only))

theorem Keep.late {s t : State} (h : Keep s t) (x1 : Input) : Keep s (State.late t x1) := by
  unfold State.late
  iterate 24 (all_goals try (first | with_reducible assumption | intro _ | with_reducible apply Keep.dropBackups | with_reducible apply Keep.failJob | with_reducible apply Keep.modInput | with_reducible apply Keep.modPort | with_reducible apply Keep.reduceRecord | split | dsimp only | with_reducible apply Keep.lit | with_reducible rfl))

theorem Keep.settleChain {s t : State} (h : Keep s t) (x1 : Nat) (x2 : Chain) : Keep s (State.settleChain t x1 x2) := by
  unfold State.settleChain
  iterate 24 (all_goals try (first | with_reducible assumption | intro _ | with_reducible apply Keep.forward | with_reducible apply Keep.setChain | split | dsimp only | with_reducible apply Keep.lit | with_reducible rfl))

theorem Keep.chainBeat {s t : State} (h : Keep s t) (x1 : Nat) (x2 : BitVec 12) (x3 : Beat) : Keep s (State.chainBeat t x1 x2 x3) := by
  unfold State.chainBeat
  iterate 24 (all_goals try (first | with_reducible assumption | intro _ | with_reducible apply Keep.expect | with_reducible apply Keep.late | with_reducible apply Keep.setChain | with_reducible apply Keep.settleChain | split | dsimp only | with_reducible apply Keep.lit | with_reducible rfl))

theorem Keep.leaveChain {s t : State} (h : Keep s t) (x1 : Nat) (x2 : BitVec 2) (x3 : Nat) : Keep s (State.leaveChain t x1 x2 x3) := by
  unfold State.leaveChain
  iterate 24 (all_goals try (first | with_reducible assumption | intro _ | with_reducible apply Keep.detach | with_reducible apply Keep.drawFree | with_reducible apply Keep.event | with_reducible apply Keep.setChain | split | dsimp only | with_reducible apply Keep.lit | with_reducible rfl))

theorem Keep.detach {s t : State} (h : Keep s t) (x1 : Nat) (x2 : BitVec 2) : Keep s (State.detach t x1 x2) := by
  unfold State.detach
  iterate 24 (all_goals try (first | with_reducible assumption | intro _ | with_reducible apply Keep.leaveChain | split | dsimp only))

theorem Keep.setupChain {s t : State} (h : Keep s t) (x1 : CtxNo) : Keep s (State.setupChain t x1) := by
  unfold State.setupChain
  iterate 24 (all_goals try (first | with_reducible assumption | intro _ | with_reducible apply Keep.finish | with_reducible apply Keep.setChain | split | dsimp only | with_reducible apply Keep.lit | with_reducible rfl))

theorem Keep.areaWrite {s t : State} (h : Keep s t) (x1 : CtxNo) (x2 : Word) (x3 : List AreaPart) : Keep s (State.areaWrite t x1 x2 x3).2 := by
  unfold State.areaWrite
  iterate 24 (all_goals try (first | with_reducible assumption | intro _ | with_reducible apply Keep.issue | with_reducible apply Keep.openFor | with_reducible apply Keep.putArea | with_reducible apply Keep.foldl | with_reducible apply Keep.foldl_fst | split | dsimp only))

theorem Keep.ckptWait {s t : State} (h : Keep s t) (x1 : CtxNo) (x2 : Nat) (x3 : Nat) (x4 : Nat) (x5 : Nat) : Keep s (State.ckptWait t x1 x2 x3 x4 x5) := by
  unfold State.ckptWait
  iterate 24 (all_goals try (first | with_reducible assumption | intro _ | with_reducible apply Keep.setPhase | split | dsimp only | with_reducible apply Keep.lit | with_reducible rfl))

theorem Keep.ckptArm {s t : State} (h : Keep s t) (x1 : CtxNo) : Keep s (State.ckptArm t x1) := by
  unfold State.ckptArm
  iterate 24 (all_goals try (first | with_reducible assumption | intro _ | with_reducible apply Keep.ckptWait | with_reducible apply Keep.closeUnit | with_reducible apply Keep.finish | with_reducible apply Keep.openAll | split | dsimp only))

theorem Keep.dropStaging {s t : State} (h : Keep s t) (x1 : Nat) : Keep s (State.dropStaging t x1) := by
  unfold State.dropStaging
  iterate 24 (all_goals try (first | with_reducible assumption | intro _ | split | dsimp only | with_reducible apply Keep.lit | with_reducible rfl))

theorem Keep.copyDone {s t : State} (h : Keep s t) (x1 : CtxNo) : Keep s (State.copyDone t x1) := by
  unfold State.copyDone
  iterate 24 (all_goals try (first | with_reducible assumption | intro _ | with_reducible apply Keep.dropStaging | with_reducible apply Keep.modCtx | split | dsimp only | with_reducible apply Keep.lit | with_reducible rfl))

theorem Keep.landCopies {s t : State} (h : Keep s t)  : Keep s (State.landCopies t) := by
  unfold State.landCopies
  iterate 24 (all_goals try (first | with_reducible assumption | intro _ | split | dsimp only | with_reducible apply Keep.lit | with_reducible rfl))

theorem Keep.epochPoint {s t : State} (h : Keep s t)  : Keep s (State.epochPoint t) := by
  unfold State.epochPoint
  iterate 24 (all_goals try (first | with_reducible assumption | intro _ | with_reducible apply Keep.areaWrite | with_reducible apply Keep.finish | with_reducible apply Keep.landCopies | split | dsimp only | with_reducible apply Keep.lit | with_reducible rfl))

theorem Keep.takeStaging {s t : State} (h : Keep s t) (x1 : CtxNo) (x2 : Word) (x3 : Nat) (x4 : Nat) (x5 : Nat) : Keep s (State.takeStaging t x1 x2 x3 x4 x5).2 := by
  unfold State.takeStaging
  iterate 24 (all_goals try (first | with_reducible assumption | intro _ | with_reducible apply Keep.await | with_reducible apply Keep.unwait | split | dsimp only | with_reducible apply Keep.lit | with_reducible rfl))

theorem Keep.startCopy {s t : State} (h : Keep s t) (x1 : CtxNo) (x2 : Word) (x3 : Nat) (x4 : Nat) : Keep s (State.startCopy t x1 x2 x3 x4) := by
  unfold State.startCopy
  iterate 24 (all_goals try (first | with_reducible assumption | intro _ | with_reducible apply Keep.takeRaw | with_reducible apply Keep.takeStaging | split | dsimp only | with_reducible apply Keep.lit | with_reducible rfl))

theorem Keep.writeCopy {s t : State} (h : Keep s t) (x1 : CtxNo) (x2 : Word) (x3 : Opnd) (x4 : Nat) (x5 : Nat) : Keep s (State.writeCopy t x1 x2 x3 x4 x5) := by
  unfold State.writeCopy
  iterate 24 (all_goals try (first | with_reducible assumption | intro _ | with_reducible apply Keep.areaWrite | split | dsimp only | with_reducible apply Keep.lit | with_reducible rfl))

theorem Keep.pageCopy {s t : State} (h : Keep s t) (x1 : CtxNo) : Keep s (State.pageCopy t x1) := by
  unfold State.pageCopy
  iterate 24 (all_goals try (first | with_reducible assumption | intro _ | with_reducible apply Keep.copyDone | with_reducible apply Keep.landCopies | with_reducible apply Keep.startCopy | with_reducible apply Keep.writeCopy | split | dsimp only | with_reducible apply Keep.lit | with_reducible rfl))

theorem Keep.askCapture {s t : State} (h : Keep s t) (x1 : CtxNo) (x2 : Unit) (x3 : Word) : Keep s (State.askCapture t x1 x2 x3) := by
  unfold State.askCapture
  iterate 24 (all_goals try (first | with_reducible assumption | intro _ | with_reducible apply Keep.modCtx | split | dsimp only | with_reducible apply Keep.lit | with_reducible rfl))

theorem Keep.headerUpdate {s t : State} (h : Keep s t) (x1 : CtxNo) : Keep s (State.headerUpdate t x1) := by
  unfold State.headerUpdate
  iterate 24 (all_goals try (first | with_reducible assumption | intro _ | with_reducible apply Keep.askCapture | with_reducible apply Keep.closeUnit | with_reducible apply Keep.finish | with_reducible apply Keep.openWrites | with_reducible apply Keep.writeB | split | dsimp only))

theorem Keep.putRecord {s t : State} (h : Keep s t) (x1 : CtxNo) (x2 : Word) (x3 : Opnd) (x4 : Nat) (x5 : Nat) : Keep s (State.putRecord t x1 x2 x3 x4 x5).2.2 := by
  unfold State.putRecord
  iterate 24 (all_goals try (first | with_reducible assumption | intro _ | with_reducible apply Keep.closeUnit | with_reducible apply Keep.openWrites | with_reducible apply Keep.putArea | split | dsimp only))

theorem Keep.jobRecord {s t : State} (h : Keep s t) (x1 : CtxNo) (x2 : Cmd) (x3 : ProdOps) (x4 : ProdJob) (x5 : Nat) : Keep s (State.jobRecord t x1 x2 x3 x4 x5).2.1 := by
  unfold State.jobRecord
  iterate 24 (all_goals try (first | with_reducible assumption | intro _ | with_reducible apply Keep.putRecord | split | dsimp only | with_reducible apply Keep.lit | with_reducible rfl))

theorem Keep.loadEnd {s t : State} (h : Keep s t) (x1 : CtxNo) (x2 : Nat) (x3 : Cmd) (x4 : Nat) : Keep s (State.loadEnd t x1 x2 x3 x4) := by
  unfold State.loadEnd
  iterate 24 (all_goals try (first | with_reducible assumption | intro _ | with_reducible apply Keep.finish | with_reducible apply Keep.setSlot | split | dsimp only | with_reducible apply Keep.lit | with_reducible rfl))

theorem Keep.setJob {s t : State} (h : Keep s t) (x1 : CtxNo) (x2 : Nat) (x3 : ProdJob) : Keep s (State.setJob t x1 x2 x3) := by
  unfold State.setJob
  iterate 24 (all_goals try (first | with_reducible assumption | intro _ | with_reducible apply Keep.setPhase | split | dsimp only))

theorem Keep.assign {s t : State} (h : Keep s t) (x1 : CtxNo) (x2 : Nat) (x3 : Nat) : Keep s (State.assign x1 x2 t x3) := by
  unfold State.assign
  iterate 24 (all_goals try (first | with_reducible assumption | intro _ | with_reducible apply Keep.askCapture | with_reducible apply Keep.modSlot | with_reducible apply Keep.setJob | split | dsimp only | with_reducible apply Keep.lit | with_reducible rfl))

theorem Keep.place {s t : State} (h : Keep s t) (x1 : CtxNo) (x2 : Nat × Cmd × ProdJob) : Keep s (State.place x1 t x2) := by
  unfold State.place
  iterate 24 (all_goals try (first | with_reducible assumption | intro _ | with_reducible apply Keep.assign | with_reducible apply Keep.setJob | with_reducible apply Keep.foldl | with_reducible apply Keep.foldl_fst | split | dsimp only))

theorem Keep.holdSlots {s t : State} (h : Keep s t) (x1 : List Nat) : Keep s (State.holdSlots t x1) := by
  unfold State.holdSlots
  iterate 24 (all_goals try (first | with_reducible assumption | intro _ | with_reducible apply Keep.modSlot | with_reducible apply Keep.foldl | with_reducible apply Keep.foldl_fst | split | dsimp only | with_reducible apply Keep.lit | with_reducible rfl))

theorem Keep.finishChain {s t : State} (h : Keep s t) (x1 : Nat) : Keep s (State.finishChain t x1) := by
  unfold State.finishChain
  iterate 24 (all_goals try (first | with_reducible assumption | intro _ | with_reducible apply Keep.leaveChain | with_reducible apply Keep.setChain | split | dsimp only | with_reducible apply Keep.lit | with_reducible rfl))

theorem Keep.chainEnd {s t : State} (h : Keep s t) (x1 : Cmd) : Keep s (State.chainEnd t x1) := by
  unfold State.chainEnd
  iterate 24 (all_goals try (first | with_reducible assumption | intro _ | with_reducible apply Keep.finishChain | split | dsimp only))

theorem Keep.productEnd {s t : State} (h : Keep s t) (x1 : CtxNo) (x2 : Nat) (x3 : Cmd) (x4 : ProdJob) (x5 : Byte) : Keep s (State.productEnd t x1 x2 x3 x4 x5) := by
  unfold State.productEnd
  iterate 24 (all_goals try (first | with_reducible assumption | intro _ | with_reducible apply Keep.chainEnd | with_reducible apply Keep.finish | with_reducible apply Keep.holdSlots | with_reducible apply Keep.setPhase | split | dsimp only | with_reducible apply Keep.lit | with_reducible rfl))

theorem Keep.leaveTile {s t : State} (h : Keep s t) (x1 : CtxNo) (x2 : Nat) (x3 : Cmd) (x4 : ProdJob) (x5 : Nat) : Keep s (State.leaveTile t x1 x2 x3 x4 x5) := by
  unfold State.leaveTile
  iterate 24 (all_goals try (first | with_reducible assumption | intro _ | with_reducible apply Keep.productEnd | with_reducible apply Keep.setJob | split | dsimp only | with_reducible apply Keep.lit | with_reducible rfl))

theorem Keep.readMask {s t : State} (h : Keep s t) (x1 : CtxNo) (x2 : WbPlan) : Keep s (State.readMask t x1 x2).2.1 := by
  unfold State.readMask
  iterate 24 (all_goals try (first | with_reducible assumption | intro _ | with_reducible apply Keep.closeUnit | with_reducible apply Keep.openAll | split | dsimp only))

theorem Keep.storeRelease {s t : State} (h : Keep s t) (x1 : CtxNo) (x2 : Nat) (x3 : Bool) : Keep s (State.storeRelease t x1 x2 x3) := by
  unfold State.storeRelease
  iterate 24 (all_goals try (first | with_reducible assumption | intro _ | with_reducible apply Keep.modSlot | split | dsimp only | with_reducible apply Keep.lit | with_reducible rfl))

theorem Keep.storeEnd {s t : State} (h : Keep s t) (x1 : CtxNo) (x2 : Nat) (x3 : Cmd) (x4 : WbPlan) (x5 : Nat) (x6 : Word) (x7 : Reply) : Keep s (State.storeEnd t x1 x2 x3 x4 x5 x6 x7) := by
  unfold State.storeEnd
  iterate 24 (all_goals try (first | with_reducible assumption | intro _ | with_reducible apply Keep.finish | with_reducible apply Keep.setPhase | with_reducible apply Keep.storeRelease | split | dsimp only | with_reducible apply Keep.lit | with_reducible rfl))

theorem Keep.endOverrun {s t : State} (h : Keep s t) (x1 : CtxNo) : Keep s (State.endOverrun t x1) := by
  unfold State.endOverrun
  iterate 24 (all_goals try (first | with_reducible assumption | intro _ | with_reducible apply Keep.modCtx | with_reducible apply Keep.foldl | with_reducible apply Keep.foldl_fst | split | dsimp only | with_reducible apply Keep.lit | with_reducible rfl))

theorem Keep.streamNext {s t : State} (h : Keep s t) (x1 : CtxNo) (x2 : Bool) : Keep s (State.streamNext t x1 x2) := by
  unfold State.streamNext
  iterate 24 (all_goals try (first | with_reducible assumption | intro _ | with_reducible apply Keep.modCtx | split | dsimp only | with_reducible apply Keep.lit | with_reducible rfl))

theorem Keep.streamCommit {s t : State} (h : Keep s t) (x1 : CtxNo) (x2 : Nat) (x3 : Bool) : Keep s (State.streamCommit t x1 x2 x3) := by
  unfold State.streamCommit
  iterate 24 (all_goals try (first | with_reducible assumption | intro _ | with_reducible apply Keep.endOverrun | with_reducible apply Keep.modCtx | with_reducible apply Keep.streamNext | split | dsimp only))

theorem Keep.streamGo {s t : State} (h : Keep s t) (x1 : CtxNo) (x2 : Word) (x3 : Nat → Nat) (x4 : Nat) : Keep s (State.streamGo t x1 x2 x3 x4).2 := by
  unfold State.streamGo
  iterate 24 (all_goals try (first | with_reducible assumption | intro _ | with_reducible apply Keep.modCtx | split | dsimp only | with_reducible apply Keep.lit | with_reducible rfl))

theorem Keep.streamStart {s t : State} (h : Keep s t) (x1 : CtxNo) : Keep s (State.streamStart t x1) := by
  unfold State.streamStart
  iterate 24 (all_goals try (first | with_reducible assumption | intro _ | with_reducible apply Keep.modCtx | split | dsimp only | with_reducible apply Keep.lit | with_reducible rfl))

theorem Keep.useAdders {s t : State} (h : Keep s t) (x1 : Nat) : Keep s (State.useAdders t x1) := by
  unfold State.useAdders
  iterate 24 (all_goals try (first | with_reducible assumption | intro _ | split | dsimp only | with_reducible apply Keep.lit | with_reducible rfl))

theorem Keep.windowEnd {s t : State} (h : Keep s t) (x1 : Nat) : Keep s (State.windowEnd t x1) := by
  unfold State.windowEnd
  iterate 24 (all_goals try (first | with_reducible assumption | intro _ | with_reducible apply Keep.setRt | split | dsimp only | with_reducible apply Keep.lit | with_reducible rfl))

theorem Keep.countConv {s t : State} (h : Keep s t) (x1 : Nat) (x2 : Nat) (x3 : BitVec 16) (x4 : Num) (x5 : Clip) : Keep s (State.countConv t x1 x2 x3 x4 x5) := by
  unfold State.countConv
  iterate 24 (all_goals try (first | with_reducible assumption | intro _ | with_reducible apply Keep.event | with_reducible apply Keep.setRt | with_reducible apply Keep.windowEnd | split | dsimp only | with_reducible apply Keep.lit | with_reducible rfl))

theorem Keep.wbElem {s : State} {p : State × Flag} (h : Keep s p.1) (c : CtxNo) (w : WbPlan) (x : Slot) (b1 b2 : List (Nat × Nat))
    (r1 r2 k : Nat) : Keep s (State.wbElem c w x b1 b2 r1 r2 p k).1 := by
  unfold State.wbElem
  dsimp only
  split
  · with_reducible exact h.putBits _ _ _ _ _
  · dsimp only
    split
    · with_reducible exact (h.putBits _ _ _ _ _).countConv _ _ _ _ _
    · with_reducible exact h.putBits _ _ _ _ _

theorem Keep.wbRow {s t : State} (h : Keep s t) (x1 : CtxNo) (x2 : WbPlan) (x3 : Nat → Bool) (x4 : Nat) : Keep s (State.wbRow t x1 x2 x3 x4).2.1 := by
  unfold State.wbRow
  iterate 24 (all_goals try (first | with_reducible assumption | intro _ | with_reducible apply Keep.askCapture | with_reducible apply Keep.closeUnit | with_reducible apply Keep.openWrites | with_reducible apply Keep.useAdders | with_reducible apply Keep.wbElem | with_reducible apply Keep.foldl | with_reducible apply Keep.foldl_fst | split | dsimp only))

theorem Keep.wbStoreRow {s t : State} (h : Keep s t) (x1 : CtxNo) (x2 : Nat) (x3 : WbPlan) (x4 : Nat → Bool) : Keep s (State.wbStoreRow x1 x2 x3 x4 t).2 := by
  unfold State.wbStoreRow
  iterate 24 (all_goals try (first | with_reducible assumption | intro _ | with_reducible apply Keep.setPhase | with_reducible apply Keep.streamCommit | with_reducible apply Keep.streamGo | with_reducible apply Keep.streamStart | with_reducible apply Keep.wbRow | split | dsimp only))

theorem Keep.wbStore {s t : State} (h : Keep s t) (x1 : CtxNo) (x2 : Nat) (x3 : Cmd) (x4 : Nat) (x5 : Nat) (x6 : Nat) (x7 : Nat) (x8 : Option BoundTable) (x9 : Option (List Byte)) : Keep s (State.wbStore t x1 x2 x3 x4 x5 x6 x7 x8 x9) := by
  unfold State.wbStore
  iterate 24 (all_goals try (first | with_reducible assumption | intro _ | with_reducible apply Keep.modSlot | with_reducible apply Keep.putRecord | with_reducible apply Keep.readMask | with_reducible apply Keep.runRows | with_reducible apply Keep.setPhase | with_reducible apply Keep.storeEnd | with_reducible apply Keep.wbStoreRow | split | dsimp only | with_reducible apply Keep.lit | with_reducible rfl))

theorem Keep.wbTileEnd {s t : State} (h : Keep s t) (x1 : CtxNo) (x2 : LanePart) (x3 : WbPlan) (x4 : Nat → Bool) : Keep s (State.wbTileEnd t x1 x2 x3 x4) := by
  unfold State.wbTileEnd
  iterate 24 (all_goals try (first | with_reducible assumption | intro _ | with_reducible apply Keep.jobRecord | with_reducible apply Keep.leaveTile | with_reducible apply Keep.modSlot | with_reducible apply Keep.place | split | dsimp only | with_reducible apply Keep.lit | with_reducible rfl))

theorem Keep.rowCommit {s t : State} (h : Keep s t) (x1 : CtxNo) (x2 : Nat) (x3 : Nat) : Keep s (State.rowCommit t x1 x2 x3) := by
  unfold State.rowCommit
  iterate 24 (all_goals try (first | with_reducible assumption | intro _ | with_reducible apply Keep.endOverrun | with_reducible apply Keep.modCtx | split | dsimp only))

theorem Keep.wbTileRow {s t : State} (h : Keep s t) (x1 : CtxNo) (x2 : Nat) (x3 : Nat) (x4 : WbPlan) (x5 : Nat → Bool) : Keep s (State.wbTileRow x1 x2 x3 x4 x5 t).2 := by
  unfold State.wbTileRow
  iterate 24 (all_goals try (first | with_reducible assumption | intro _ | with_reducible apply Keep.modSlot | with_reducible apply Keep.rowCommit | with_reducible apply Keep.setJob | with_reducible apply Keep.wbRow | split | dsimp only | with_reducible apply Keep.lit | with_reducible rfl))

theorem Keep.wbTile {s t : State} (h : Keep s t) (x1 : CtxNo) (x2 : LanePart) : Keep s (State.wbTile t x1 x2) := by
  unfold State.wbTile
  iterate 24 (all_goals try (first | with_reducible assumption | intro _ | with_reducible apply Keep.jobRecord | with_reducible apply Keep.leaveTile | with_reducible apply Keep.place | with_reducible apply Keep.readMask | with_reducible apply Keep.runRows | with_reducible apply Keep.setJob | with_reducible apply Keep.wbTileEnd | with_reducible apply Keep.wbTileRow | split | dsimp only | with_reducible apply Keep.lit | with_reducible rfl))

theorem Keep.writeBack {s t : State} (h : Keep s t) (x1 : CtxNo) : Keep s (State.writeBack t x1) := by
  unfold State.writeBack
  iterate 24 (all_goals try (first | with_reducible assumption | intro _ | with_reducible apply Keep.productEnd | with_reducible apply Keep.wbStore | with_reducible apply Keep.wbTile | split | dsimp only))

theorem Keep.residentDone {s t : State} (h : Keep s t) (x1 : CtxNo) (x2 : Nat) (x3 : Cmd) (x4 : ProdJob) (x5 : Nat) (x6 : Nat) (x7 : Nat) : Keep s (State.residentDone t x1 x2 x3 x4 x5 x6 x7) := by
  unfold State.residentDone
  iterate 24 (all_goals try (first | with_reducible assumption | intro _ | with_reducible apply Keep.holdSlots | with_reducible apply Keep.leaveTile | with_reducible apply Keep.setJob | with_reducible apply Keep.writeBack | split | dsimp only | with_reducible apply Keep.lit | with_reducible rfl))

theorem Keep.mergeAdd {s t : State} (h : Keep s t) (x1 : CtxNo) : Keep s (State.mergeAdd t x1) := by
  unfold State.mergeAdd
  iterate 24 (all_goals try (first | with_reducible assumption | intro _ | with_reducible apply Keep.askCapture | with_reducible apply Keep.modSlot | with_reducible apply Keep.place | with_reducible apply Keep.residentDone | with_reducible apply Keep.setSlot | with_reducible apply Keep.useAdders | split | dsimp only | with_reducible apply Keep.lit | with_reducible rfl))

theorem Keep.preRow {s t : State} (h : Keep s t) (x1 : CtxNo) (x2 : Word) (x3 : Opnd) (x4 : Nat) (x5 : Nat) (x6 : Nat) (x7 : Bool) (x8 : Nat) (x9 : Nat) (x10 : Nat) (x11 : Nat) : Keep s (State.preRow t x1 x2 x3 x4 x5 x6 x7 x8 x9 x10 x11).2 := by
  unfold State.preRow
  iterate 24 (all_goals try (first | with_reducible assumption | intro _ | with_reducible apply Keep.closeUnit | with_reducible apply Keep.modSlot | with_reducible apply Keep.openAll | with_reducible apply Keep.useAdders | with_reducible apply Keep.foldl | with_reducible apply Keep.foldl_fst | split | dsimp only))

theorem Keep.preLoadRow {s t : State} (h : Keep s t) (x1 : CtxNo) (x2 : Nat) : Keep s (State.preLoadRow x1 x2 t).2 := by
  unfold State.preLoadRow
  iterate 24 (all_goals try (first | with_reducible assumption | intro _ | with_reducible apply Keep.loadEnd | with_reducible apply Keep.modSlot | with_reducible apply Keep.preRow | with_reducible apply Keep.rowCommit | with_reducible apply Keep.setPhase | split | dsimp only))

theorem Keep.preTileRow {s t : State} (h : Keep s t) (x1 : CtxNo) (x2 : Nat) (x3 : Nat) : Keep s (State.preTileRow x1 x2 x3 t).2 := by
  unfold State.preTileRow
  iterate 24 (all_goals try (first | with_reducible assumption | intro _ | with_reducible apply Keep.modSlot | with_reducible apply Keep.preRow | with_reducible apply Keep.rowCommit | with_reducible apply Keep.setJob | split | dsimp only | with_reducible apply Keep.lit | with_reducible rfl))

theorem Keep.preloadRows {s t : State} (h : Keep s t) (x1 : CtxNo) : Keep s (State.preloadRows t x1) := by
  unfold State.preloadRows
  iterate 24 (all_goals try (first | with_reducible assumption | intro _ | with_reducible apply Keep.place | with_reducible apply Keep.preLoadRow | with_reducible apply Keep.preTileRow | with_reducible apply Keep.runRows | split | dsimp only))

theorem Keep.tileIn {s t : State} (h : Keep s t) (x1 : CtxNo) (x2 : Nat) (x3 : Cmd) (x4 : ProdJob) (x5 : Nat) (x6 : Nat) (x7 : Bool) (x8 : Nat) : Keep s (State.tileIn t x1 x2 x3 x4 x5 x6 x7 x8) := by
  unfold State.tileIn
  iterate 24 (all_goals try (first | with_reducible assumption | intro _ | with_reducible apply Keep.mergeAdd | with_reducible apply Keep.modSlot | with_reducible apply Keep.residentDone | with_reducible apply Keep.setJob | with_reducible apply Keep.writeBack | split | dsimp only | with_reducible apply Keep.lit | with_reducible rfl))

theorem Keep.segMerge {s t : State} (h : Keep s t) (x1 : CtxNo) : Keep s (State.segMerge t x1) := by
  unfold State.segMerge
  iterate 24 (all_goals try (first | with_reducible assumption | intro _ | with_reducible apply Keep.modSlot | with_reducible apply Keep.place | with_reducible apply Keep.setSlot | with_reducible apply Keep.tileIn | with_reducible apply Keep.useAdders | with_reducible apply Keep.foldl | with_reducible apply Keep.foldl_fst | split | dsimp only | with_reducible apply Keep.lit | with_reducible rfl))

theorem Keep.startAccload {s t : State} (h : Keep s t) (x1 : CtxNo) : Keep s (State.startAccload t x1) := by
  unfold State.startAccload
  iterate 24 (all_goals try (first | with_reducible assumption | intro _ | with_reducible apply Keep.askCapture | with_reducible apply Keep.finish | with_reducible apply Keep.modSlot | with_reducible apply Keep.setPhase | split | dsimp only | with_reducible apply Keep.lit | with_reducible rfl))

theorem Keep.startAccstore {s t : State} (h : Keep s t) (x1 : CtxNo) : Keep s (State.startAccstore t x1) := by
  unfold State.startAccstore
  iterate 24 (all_goals try (first | with_reducible assumption | intro _ | with_reducible apply Keep.askCapture | with_reducible apply Keep.finish | with_reducible apply Keep.modSlot | with_reducible apply Keep.setPhase | split | dsimp only | with_reducible apply Keep.lit | with_reducible rfl))

theorem Keep.startZeroSlot {s t : State} (h : Keep s t) (x1 : CtxNo) : Keep s (State.startZeroSlot t x1) := by
  unfold State.startZeroSlot
  iterate 24 (all_goals try (first | with_reducible assumption | intro _ | with_reducible apply Keep.askCapture | with_reducible apply Keep.finish | with_reducible apply Keep.modSlot | split | dsimp only | with_reducible apply Keep.lit | with_reducible rfl))

theorem Keep.zeroRow {s t : State} (h : Keep s t) (x1 : CtxNo) (x2 : Nat) (x3 : Opnd) : Keep s (State.zeroRow x1 x2 x3 t).2 := by
  unfold State.zeroRow
  iterate 24 (all_goals try (first | with_reducible assumption | intro _ | with_reducible apply Keep.askCapture | with_reducible apply Keep.closeUnit | with_reducible apply Keep.finish | with_reducible apply Keep.openWrites | with_reducible apply Keep.putBits | with_reducible apply Keep.setPhase | with_reducible apply Keep.streamCommit | with_reducible apply Keep.streamGo | with_reducible apply Keep.streamStart | with_reducible apply Keep.foldl | with_reducible apply Keep.foldl_fst | split | dsimp only | with_reducible apply Keep.lit | with_reducible rfl))

theorem Keep.zeroTensor {s t : State} (h : Keep s t) (x1 : CtxNo) : Keep s (State.zeroTensor t x1) := by
  unfold State.zeroTensor
  iterate 24 (all_goals try (first | with_reducible assumption | intro _ | with_reducible apply Keep.finish | with_reducible apply Keep.runRows | with_reducible apply Keep.setPhase | with_reducible apply Keep.zeroRow | split | dsimp only))

theorem Keep.readImageRaw {s t : State} (h : Keep s t) (x1 : CtxNo) (x2 : Word) (x3 : Nat) (x4 : Nat) : Keep s (State.readImageRaw t x1 x2 x3 x4).2 := by
  unfold State.readImageRaw
  iterate 24 (all_goals try (first | with_reducible assumption | intro _ | with_reducible apply Keep.acquire | with_reducible apply Keep.takeRaw | split | dsimp only))

theorem Keep.fetchDesc {s t : State} (h : Keep s t) (x1 : CtxNo) : Keep s (State.fetchDesc t x1) := by
  unfold State.fetchDesc
  iterate 24 (all_goals try (first | with_reducible assumption | intro _ | with_reducible apply Keep.finish | with_reducible apply Keep.modCtx | with_reducible apply Keep.readImageRaw | with_reducible apply Keep.unpin | split | dsimp only | with_reducible apply Keep.lit | with_reducible rfl))

theorem Keep.makeDesc {s t : State} (h : Keep s t) (x1 : CtxNo) : Keep s (State.makeDesc t x1) := by
  unfold State.makeDesc
  iterate 24 (all_goals try (first | with_reducible assumption | intro _ | with_reducible apply Keep.finish | split | dsimp only | with_reducible apply Keep.lit | with_reducible rfl))

theorem Keep.createDesc {s t : State} (h : Keep s t) (x1 : CtxNo) : Keep s (State.createDesc t x1) := by
  unfold State.createDesc
  iterate 24 (all_goals try (first | with_reducible assumption | intro _ | with_reducible apply Keep.fetchDesc | with_reducible apply Keep.makeDesc | split | dsimp only))

theorem Keep.freeDescCmd {s t : State} (h : Keep s t) (c : CtxNo) : Keep s (t.freeDescCmd c) := by
  unfold State.freeDescCmd
  split
  · exact h
  · rename_i i m _
    split
    · exact h
    · split
      · exact h.finish _ _ _
      · exact h.finish _ _ _
      · dsimp only
        split
        · exact h.finish _ _ _
        · refine Keep.finish ?_ _ _ _
          apply (Keep.gens h (fun k => Tbl.wf_put (m.f 128 10) (Tbl.get 0 t.descGen (m.f 128 10) + 1) k)).congr <;> rfl

theorem Keep.poll {s t : State} (h : Keep s t) (x1 : CtxNo) (x2 : Nat) (x3 : Cmd) (x4 : Option Nat) (x5 : Nat) (x6 : Bool) : Keep s (State.poll t x1 x2 x3 x4 x5 x6) := by
  unfold State.poll
  iterate 24 (all_goals try (first | with_reducible assumption | intro _ | with_reducible apply Keep.acquire | with_reducible apply Keep.countOob | with_reducible apply Keep.finish | with_reducible apply Keep.setPhase | with_reducible apply Keep.unpin | split | dsimp only))

theorem Keep.signal {s t : State} (h : Keep s t) (x1 : CtxNo) : Keep s (State.signal t x1) := by
  unfold State.signal
  iterate 24 (all_goals try (first | with_reducible assumption | intro _ | with_reducible apply Keep.acquire | with_reducible apply Keep.finish | with_reducible apply Keep.pokeN | split | dsimp only))

theorem Keep.startWait {s t : State} (h : Keep s t) (x1 : CtxNo) : Keep s (State.startWait t x1) := by
  unfold State.startWait
  iterate 24 (all_goals try (first | with_reducible assumption | intro _ | with_reducible apply Keep.finish | with_reducible apply Keep.poll | with_reducible apply Keep.setPhase | split | dsimp only))

theorem Keep.copyBlock {s t : State} (h : Keep s t) (x1 : CtxNo) (x2 : Nat) (x3 : Cmd) (x4 : Opnd) (x5 : List Nat) (x6 : List (Nat → Nat)) (x7 : Nat) : Keep s (State.copyBlock t x1 x2 x3 x4 x5 x6 x7).2 := by
  unfold State.copyBlock
  iterate 24 (all_goals try (first | with_reducible assumption | intro _ | with_reducible apply Keep.closeUnit | with_reducible apply Keep.openAll | with_reducible apply Keep.setPhase | split | dsimp only))

theorem Keep.takeDovetail {s t : State} (h : Keep s t) (x1 : CtxNo) (x2 : Word) : Keep s (State.takeDovetail t x1 x2).2 := by
  unfold State.takeDovetail
  iterate 24 (all_goals try (first | with_reducible assumption | intro _ | with_reducible apply Keep.await | with_reducible apply Keep.unwait | split | dsimp only | with_reducible apply Keep.lit | with_reducible rfl))

theorem Keep.copyHolds {s t : State} (h : Keep s t) (x1 : CtxNo) (x2 : Cmd) (x3 : CopyMode) (x4 : Opnd) : Keep s (State.copyHolds t x1 x2 x3 x4).2 := by
  unfold State.copyHolds
  iterate 24 (all_goals try (first | with_reducible assumption | intro _ | with_reducible apply Keep.takeDovetail | with_reducible apply Keep.takeStaging | split | dsimp only))

theorem Keep.dropCopy {s t : State} (h : Keep s t) (x1 : CtxNo) (x2 : Word) : Keep s (State.dropCopy t x1 x2) := by
  unfold State.dropCopy
  iterate 24 (all_goals try (first | with_reducible assumption | intro _ | with_reducible apply Keep.dropStaging | split | dsimp only | with_reducible apply Keep.lit | with_reducible rfl))

theorem Keep.copyRelease {s t : State} (h : Keep s t) (x1 : CtxNo) (x2 : Cmd) (x3 : Bool) : Keep s (State.copyRelease t x1 x2 x3) := by
  unfold State.copyRelease
  iterate 24 (all_goals try (first | with_reducible assumption | intro _ | with_reducible apply Keep.dropCopy | with_reducible apply Keep.dropStaging | split | dsimp only))

theorem Keep.copyStore {s t : State} (h : Keep s t) (x1 : CtxNo) (x2 : Opnd) (x3 : List (Nat → Nat)) (x4 : List Nat) : Keep s (State.copyStore t x1 x2 x3 x4) := by
  unfold State.copyStore
  iterate 24 (all_goals try (first | with_reducible assumption | intro _ | with_reducible apply Keep.putBits | with_reducible apply Keep.foldl | with_reducible apply Keep.foldl_fst | split | dsimp only))

theorem Keep.copySegment {s t : State} (h : Keep s t) (x1 : CtxNo) (x2 : Nat) (x3 : Cmd) (x4 : Opnd) (x5 : Opnd) (x6 : List Nat) (x7 : Bool) (x8 : List (Nat → Nat)) (x9 : Bool) (x10 : Bool) (x11 : Nat) (x12 : List Nat) : Keep s (State.copySegment t x1 x2 x3 x4 x5 x6 x7 x8 x9 x10 x11 x12).2 := by
  unfold State.copySegment
  iterate 24 (all_goals try (first | with_reducible assumption | intro _ | with_reducible apply Keep.closeUnit | with_reducible apply Keep.copyRelease | with_reducible apply Keep.copyStore | with_reducible apply Keep.openWrites | with_reducible apply Keep.setPhase | with_reducible apply Keep.streamCommit | split | dsimp only))

theorem Keep.copyDirect {s t : State} (h : Keep s t) (x1 : CtxNo) (x2 : Nat) (x3 : Opnd) (x4 : Opnd) (x5 : List Nat) (x6 : CopyMode) (x7 : List (List (Nat → Nat) × Bool)) : Keep s (State.copyDirect x1 x2 x3 x4 x5 x6 x7 t).2 := by
  unfold State.copyDirect
  iterate 24 (all_goals try (first | with_reducible assumption | intro _ | with_reducible apply Keep.copyBlock | with_reducible apply Keep.copyHolds | with_reducible apply Keep.copySegment | with_reducible apply Keep.finish | with_reducible apply Keep.streamGo | with_reducible apply Keep.streamStart | split | dsimp only))

theorem Keep.copyRead {s t : State} (h : Keep s t) (x1 : CtxNo) (x2 : Nat) (x3 : Cmd) (x4 : Opnd) (x5 : Opnd) (x6 : List Nat) (x7 : CopyMode) (x8 : Nat) : Keep s (State.copyRead t x1 x2 x3 x4 x5 x6 x7 x8) := by
  unfold State.copyRead
  iterate 24 (all_goals try (first | with_reducible assumption | intro _ | with_reducible apply Keep.copiedFirst | with_reducible apply Keep.countOob | with_reducible apply Keep.finish | with_reducible apply Keep.issue | with_reducible apply Keep.openSome | with_reducible apply Keep.setPhase | with_reducible apply Keep.streamGo | with_reducible apply Keep.streamStart | with_reducible apply Keep.takeStaging | split | dsimp only))

theorem Keep.copyWrite {s t : State} (h : Keep s t) (x1 : CtxNo) (x2 : Nat) (x3 : Cmd) (x4 : Opnd) (x5 : Opnd) (x6 : List Nat) (x7 : CopyMode) (x8 : Nat) (x9 : List Nat) (x10 : Bool) : Keep s (State.copyWrite t x1 x2 x3 x4 x5 x6 x7 x8 x9 x10) := by
  unfold State.copyWrite
  iterate 24 (all_goals try (first | with_reducible assumption | intro _ | with_reducible apply Keep.closeUnit | with_reducible apply Keep.countOob | with_reducible apply Keep.dropStaging | with_reducible apply Keep.endUnit | with_reducible apply Keep.finish | with_reducible apply Keep.putBits | with_reducible apply Keep.setPhase | with_reducible apply Keep.streamCommit | with_reducible apply Keep.takeSlots | with_reducible apply Keep.unpin | with_reducible apply Keep.foldl | with_reducible apply Keep.foldl_fst | split | dsimp only))

theorem Keep.copyStep {s t : State} (h : Keep s t) (x1 : CtxNo) (x2 : Nat) (x3 : Cmd) (x4 : Bool) : Keep s (State.copyStep t x1 x2 x3 x4) := by
  unfold State.copyStep
  iterate 24 (all_goals try (first | with_reducible assumption | intro _ | with_reducible apply Keep.copyDirect | with_reducible apply Keep.copyRead | with_reducible apply Keep.copyWrite | with_reducible apply Keep.runRows | split | dsimp only))

theorem Keep.copyCmd {s t : State} (h : Keep s t) (x1 : CtxNo) (x2 : Nat) : Keep s (State.copyCmd t x1 x2) := by
  unfold State.copyCmd
  iterate 24 (all_goals try (first | with_reducible assumption | intro _ | with_reducible apply Keep.copyStep | with_reducible apply Keep.finish | with_reducible apply Keep.setPhase | split | dsimp only | with_reducible apply Keep.lit | with_reducible rfl))

theorem Keep.endWrites {s t : State} (h : Keep s t) (x1 : CtxNo) : Keep s (State.endWrites t x1) := by
  unfold State.endWrites
  iterate 24 (all_goals try (first | with_reducible assumption | intro _ | with_reducible apply Keep.copyStep | with_reducible apply Keep.foldl | with_reducible apply Keep.foldl_fst | split | dsimp only))

theorem Keep.restoreParts {s t : State} (h : Keep s t) (c : CtxNo) (x : Import) : Keep s (t.restoreParts c x) := by
  unfold State.restoreParts
  dsimp only
  refine Keep.foldl (fun u p hu => hu.setRt _ _) _ (Keep.foldl (fun u p hu => hu.setSlot _ _) _ ?_)
  have k : Tbl.wf 0 t.descGen = true → Tbl.wf 0 (x.descs.foldl (fun l p => Tbl.put 0 l p.1 p.2.1) t.descGen) = true := by
    generalize t.descGen = g
    intro k
    induction x.descs generalizing g with
    | nil => exact k
    | cons a r ih => exact ih _ (Tbl.wf_put _ _ k)
  apply (Keep.gens h k).congr <;> rfl

theorem Keep.restoreImage {s t : State} (h : Keep s t) (x1 : CtxNo) (x2 : BitVec 1024) (x3 : Import) : Keep s (State.restoreImage t x1 x2 x3) := by
  unfold State.restoreImage
  iterate 24 (all_goals try (first | with_reducible assumption | intro _ | with_reducible apply Keep.drawFree | with_reducible apply Keep.modCtx | with_reducible apply Keep.modSlot | with_reducible apply Keep.restoreParts | with_reducible apply Keep.setChain | with_reducible apply Keep.foldl | with_reducible apply Keep.foldl_fst | split | dsimp only))

theorem Keep.importImage {s t : State} (h : Keep s t) (x1 : CtxNo) (x2 : Nat) (x3 : Cmd) (x4 : Opnd) : Keep s (State.importImage t x1 x2 x3 x4) := by
  unfold State.importImage
  iterate 24 (all_goals try (first | with_reducible assumption | intro _ | with_reducible apply Keep.closeUnit | with_reducible apply Keep.finish | with_reducible apply Keep.openAll | with_reducible apply Keep.restoreImage | split | dsimp only | with_reducible apply Keep.lit | with_reducible rfl))

theorem Keep.reportCh {s t : State} (h : Keep s t) (x1 : Chan) : Keep s (State.reportCh t x1) := by
  unfold State.reportCh
  iterate 24 (all_goals try (first | with_reducible assumption | intro _ | split | dsimp only | with_reducible apply Keep.lit | with_reducible rfl))

theorem Keep.report {s t : State} (h : Keep s t)  : Keep s (State.report t) := by
  unfold State.report
  iterate 24 (all_goals try (first | with_reducible assumption | intro _ | with_reducible apply Keep.reportCh | with_reducible apply Keep.foldl | with_reducible apply Keep.foldl_fst | split | dsimp only))

theorem Keep.readOwnSlots {s t : State} (h : Keep s t) (x1 : CtxNo) : Keep s (State.readOwnSlots t x1) := by
  unfold State.readOwnSlots
  iterate 24 (all_goals try (first | with_reducible assumption | intro _ | with_reducible apply Keep.modSlot | with_reducible apply Keep.foldl | split | dsimp only))

theorem Keep.settle {s t : State} (h : Keep s t) (x1 : CtxNo) : Keep s (State.settle t x1) := by
  unfold State.settle
  have hr := Keep.readOwnSlots h x1
  iterate 24 (all_goals try (first | with_reducible assumption | intro _ | with_reducible apply Keep.readOwnSlots | split | dsimp only | with_reducible apply Keep.lit | with_reducible rfl))

theorem Keep.writeImage {s t : State} (h : Keep s t) (x1 : CtxNo) (x2 : Nat) (x3 : Cmd) (x4 : CtxNo) (x5 : Nat) (x6 : List Byte) : Keep s (State.writeImage t x1 x2 x3 x4 x5 x6) := by
  unfold State.writeImage
  iterate 24 (all_goals try (first | with_reducible assumption | intro _ | with_reducible apply Keep.countOob | with_reducible apply Keep.drawFree | with_reducible apply Keep.finish | with_reducible apply Keep.issue | with_reducible apply Keep.openAll | with_reducible apply Keep.putArea | with_reducible apply Keep.foldl | with_reducible apply Keep.foldl_fst | split | dsimp only | with_reducible apply Keep.lit | with_reducible rfl))

theorem Keep.settlePoint {s t : State} (h : Keep s t) (x1 : CtxNo) : Keep s (State.settlePoint t x1) := by
  unfold State.settlePoint
  iterate 24 (all_goals try (first | with_reducible assumption | intro _ | with_reducible apply Keep.settle | with_reducible apply Keep.writeImage | split | dsimp only))

theorem Keep.startExport {s t : State} (h : Keep s t) (x1 : CtxNo) : Keep s (State.startExport t x1) := by
  unfold State.startExport
  iterate 24 (all_goals try (first | with_reducible assumption | intro _ | with_reducible apply Keep.finish | with_reducible apply Keep.setPhase | split | dsimp only))

theorem Keep.startImport {s t : State} (h : Keep s t) (x1 : CtxNo) : Keep s (State.startImport t x1) := by
  unfold State.startImport
  iterate 24 (all_goals try (first | with_reducible assumption | intro _ | with_reducible apply Keep.finish | with_reducible apply Keep.importImage | split | dsimp only))

theorem Keep.freeLocks {s t : State} (h : Keep s t)  : Keep s (State.freeLocks t) := by
  unfold State.freeLocks
  iterate 24 (all_goals try (first | with_reducible assumption | intro _ | split | dsimp only | with_reducible apply Keep.lit | with_reducible rfl))

theorem Keep.gatherCommits {s t : State} (h : Keep s t) (c : CtxNo) (seq : Word) (n : Nat) (g : GatherJob) :
    Keep s (t.gatherCommits c seq n g).1 := by
  induction n generalizing t g with
  | zero => exact h
  | succ n ih =>
    simp only [State.gatherCommits]
    split
    · exact h
    · split
      · exact h
      · exact ih (h.modCtx c _) _

theorem Keep.gatherEnd {s t : State} (h : Keep s t) (x1 : CtxNo) (x2 : Nat) (x3 : Cmd) (x4 : GatherJob) (x5 : Byte) : Keep s (State.gatherEnd t x1 x2 x3 x4 x5) := by
  unfold State.gatherEnd
  iterate 24 (all_goals try (first | with_reducible assumption | intro _ | with_reducible apply Keep.finish | with_reducible apply Keep.setPhase | split | dsimp only | with_reducible apply Keep.lit | with_reducible rfl))

theorem Keep.gatherSettle {s t : State} (h : Keep s t) (x1 : CtxNo) (x2 : Nat × Cmd) : Keep s (State.gatherSettle x1 t x2) := by
  unfold State.gatherSettle
  iterate 24 (all_goals try (first | with_reducible assumption | intro _ | with_reducible apply Keep.endOverrun | with_reducible apply Keep.gatherCommits | with_reducible apply Keep.gatherEnd | with_reducible apply Keep.setPhase | split | dsimp only))

theorem Keep.gatherAll {s t : State} (h : Keep s t) (x1 : CtxNo) : Keep s (State.gatherAll t x1) := by
  unfold State.gatherAll
  iterate 24 (all_goals try (first | with_reducible assumption | intro _ | with_reducible apply Keep.gatherSettle | with_reducible apply Keep.foldl | with_reducible apply Keep.foldl_fst | split | dsimp only))

theorem Keep.gatherRow {s src : State} {p : State × Flag} (h : Keep s p.1) (c : CtxNo) (g : GatherOps) (b1 b2 b3 : List (Nat × Nat))
    (col n : Nat) (x : Nat × List Nat) : Keep s (State.gatherRow src c g b1 b2 b3 col n p x).1 := by
  unfold State.gatherRow
  with_reducible exact Keep.foldl_fst (fun q e hq => hq.putBits _ _ _ _ _) _ h

theorem Keep.rowsDone {s t : State} (h : Keep s t)  : Keep s (State.rowsDone t) := by
  unfold State.rowsDone
  iterate 24 (all_goals try (first | with_reducible assumption | intro _ | with_reducible apply Keep.freeLocks | with_reducible apply Keep.gatherAll | with_reducible apply Keep.foldl | with_reducible apply Keep.foldl_fst | split | dsimp only))

theorem Keep.gatherRun {s t : State} (h : Keep s t) (c : CtxNo) (i : Nat) (m : Cmd) (g : GatherOps) (j : GatherJob) (a : GatherAccs)
    (p : GatherPlan) (raw : Nat) : Keep s (t.gatherRun c i m g j a p raw) := by
  unfold State.gatherRun
  dsimp only
  refine Keep.rowsDone (Keep.streamNext (Keep.setPhase (Keep.modCtx (Keep.countOob (Keep.closeUnit ?_ _ _ _) _ _) _ _) _ _ _) _ _)
  refine Keep.lit (Keep.issue (Keep.foldl_fst (fun u x hu => hu.gatherRow _ _ _ _ _ _ _ _) _ h) _ _ _ _) ?_ ?_ ?_ ?_ <;> rfl

theorem Keep.gatherWindow {s t : State} (h : Keep s t) (x1 : CtxNo) (x2 : Nat) (x3 : Cmd) (x4 : GatherOps) (x5 : GatherJob) : Keep s (State.gatherWindow t x1 x2 x3 x4 x5) := by
  unfold State.gatherWindow
  iterate 24 (all_goals try (first | with_reducible assumption | intro _ | with_reducible apply Keep.askCapture | with_reducible apply Keep.gatherRun | with_reducible apply Keep.openAll | with_reducible apply Keep.openWrites | with_reducible apply Keep.streamGo | with_reducible apply Keep.streamStart | split | dsimp only))

theorem Keep.gleaner {s t : State} (h : Keep s t) (x1 : CtxNo) : Keep s (State.gleaner t x1) := by
  unfold State.gleaner
  iterate 24 (all_goals try (first | with_reducible assumption | intro _ | with_reducible apply Keep.gatherWindow | split | dsimp only))

theorem Keep.startGather {s t : State} (h : Keep s t) (x1 : CtxNo) : Keep s (State.startGather t x1) := by
  unfold State.startGather
  iterate 24 (all_goals try (first | with_reducible assumption | intro _ | with_reducible apply Keep.finish | with_reducible apply Keep.setPhase | split | dsimp only))

theorem Keep.channels {s t : State} (h : Keep s t) (x1 : CtxNo) (x2 : Word) (x3 : Nat) : Keep s (State.channels t x1 x2 x3).2 := by
  unfold State.channels
  iterate 24 (all_goals try (first | with_reducible assumption | intro _ | with_reducible apply Keep.await | with_reducible apply Keep.unwait | split | dsimp only))

theorem Keep.enterTile {s t : State} (h : Keep s t) (x1 : CtxNo) (x2 : Word) (x3 : Nat) : Keep s (State.enterTile x1 x2 t x3) := by
  unfold State.enterTile
  iterate 24 (all_goals try (first | with_reducible assumption | intro _ | with_reducible apply Keep.place | with_reducible apply Keep.setJob | with_reducible apply Keep.foldl | with_reducible apply Keep.foldl_fst | split | dsimp only | with_reducible apply Keep.lit | with_reducible rfl))

theorem Keep.takeTurn {s t : State} (h : Keep s t) (x1 : CtxNo) : Keep s (State.takeTurn t x1) := by
  unfold State.takeTurn
  iterate 24 (all_goals try (first | with_reducible assumption | intro _ | split | dsimp only | with_reducible apply Keep.lit | with_reducible rfl))

theorem Keep.noteSlice {s t : State} (h : Keep s t) (x1 : CtxNo) (x2 : Bool) : Keep s (State.noteSlice t x1 x2) := by
  unfold State.noteSlice
  iterate 24 (all_goals try (first | with_reducible assumption | intro _ | with_reducible apply Keep.modCtx | with_reducible apply Keep.takeTurn | split | dsimp only | with_reducible apply Keep.lit | with_reducible rfl))

theorem Keep.admitProduct {s t : State} (h : Keep s t) (x1 : CtxNo) (x2 : Bool) (x3 : ProdJob) : Keep s (State.admitProduct t x1 x2 x3) := by
  unfold State.admitProduct
  iterate 24 (all_goals try (first | with_reducible assumption | intro _ | with_reducible apply Keep.channels | with_reducible apply Keep.enterTile | with_reducible apply Keep.modCtx | with_reducible apply Keep.noteSlice | with_reducible apply Keep.foldl | with_reducible apply Keep.foldl_fst | split | dsimp only | with_reducible apply Keep.lit | with_reducible rfl))

theorem Keep.admitReduce {s t : State} (h : Keep s t) (x1 : CtxNo) (x2 : Bool) (x3 : Cmd) (x4 : Nat) (x5 : Bool) : Keep s (State.admitReduce t x1 x2 x3 x4 x5) := by
  unfold State.admitReduce
  iterate 24 (all_goals try (first | with_reducible assumption | intro _ | with_reducible apply Keep.channels | with_reducible apply Keep.modCtx | with_reducible apply Keep.noteSlice | split | dsimp only | with_reducible apply Keep.lit | with_reducible rfl))

theorem Keep.resync {s t : State} (h : Keep s t) (x1 : CtxNo) (x2 : Nat) (x3 : Cmd) (x4 : ProdOps) (x5 : ProdJob) : Keep s (State.resync t x1 x2 x3 x4 x5) := by
  unfold State.resync
  iterate 24 (all_goals try (first | with_reducible assumption | intro _ | with_reducible apply Keep.logErr | with_reducible apply Keep.setJob | with_reducible apply Keep.foldl | with_reducible apply Keep.foldl_fst | split | dsimp only | with_reducible apply Keep.lit | with_reducible rfl))

theorem Keep.tileOut {s t : State} (h : Keep s t) (x1 : CtxNo) (x2 : Cmd) (x3 : ProdOps) (x4 : Nat) (x5 : Nat) : Keep s (State.tileOut t x1 x2 x3 x4 x5).2.1 := by
  unfold State.tileOut
  iterate 24 (all_goals try (first | with_reducible assumption | intro _ | with_reducible apply Keep.closeUnit | with_reducible apply Keep.openAll | split | dsimp only))

theorem Keep.retile {s t : State} (h : Keep s t) (x1 : CtxNo) (x2 : Nat) (x3 : Cmd) (x4 : ProdJob) (x5 : ProdOps) : Keep s (State.retile t x1 x2 x3 x4 x5) := by
  unfold State.retile
  iterate 24 (all_goals try (first | with_reducible assumption | intro _ | with_reducible apply Keep.resync | with_reducible apply Keep.tileOut | split | dsimp only))

theorem Keep.admitSlice {s t : State} (h : Keep s t) (x1 : CtxNo) (x2 : Bool) : Keep s (State.admitSlice t x1 x2) := by
  unfold State.admitSlice
  iterate 24 (all_goals try (first | with_reducible assumption | intro _ | with_reducible apply Keep.admitProduct | with_reducible apply Keep.admitReduce | with_reducible apply Keep.place | with_reducible apply Keep.retile | with_reducible apply Keep.foldl | with_reducible apply Keep.foldl_fst | split | dsimp only))

theorem Keep.turnTile {s t : State} (h : Keep s t) (x1 : CtxNo) : Keep s (State.turnTile t x1) := by
  unfold State.turnTile
  iterate 24 (all_goals try (first | with_reducible assumption | intro _ | split | dsimp only | with_reducible apply Keep.lit | with_reducible rfl))

theorem Keep.tileDone {s t : State} (h : Keep s t) (x1 : CtxNo) (x2 : Nat) (x3 : Cmd) (x4 : ProdJob) (x5 : TileRun) : Keep s (State.tileDone t x1 x2 x3 x4 x5) := by
  unfold State.tileDone
  iterate 24 (all_goals try (first | with_reducible assumption | intro _ | with_reducible apply Keep.segMerge | with_reducible apply Keep.setJob | with_reducible apply Keep.tileIn | with_reducible apply Keep.turnTile | split | dsimp only | with_reducible apply Keep.lit | with_reducible rfl))

theorem Keep.endSlice {s t : State} (h : Keep s t) (x1 : CtxNo) (x2 : Bool) : Keep s (State.endSlice t x1 x2) := by
  unfold State.endSlice
  iterate 24 (all_goals try (first | with_reducible assumption | intro _ | with_reducible apply Keep.modCtx | split | dsimp only | with_reducible apply Keep.lit | with_reducible rfl))

theorem Keep.trySliceEnd {s t : State} (h : Keep s t)  : Keep s (State.trySliceEnd t) := by
  unfold State.trySliceEnd
  iterate 24 (all_goals try (first | with_reducible assumption | intro _ | with_reducible apply Keep.endSlice | split | dsimp only))

theorem Keep.commitInterval {s t : State} (h : Keep s t) (x1 : Interval) : Keep s (State.commitInterval t x1) := by
  unfold State.commitInterval
  iterate 24 (all_goals try (first | with_reducible assumption | intro _ | with_reducible apply Keep.endOverrun | with_reducible apply Keep.modCtx | with_reducible apply Keep.modSlot | with_reducible apply Keep.setJob | with_reducible apply Keep.tileDone | with_reducible apply Keep.trySliceEnd | split | dsimp only | with_reducible apply Keep.lit | with_reducible rfl))

theorem Keep.drainGroup {s t : State} (h : Keep s t) (x1 : Fin 16) : Keep s (State.drainGroup t x1) := by
  unfold State.drainGroup
  iterate 24 (all_goals try (first | with_reducible assumption | intro _ | with_reducible apply Keep.commitInterval | with_reducible apply Keep.modSlot | split | dsimp only | with_reducible apply Keep.lit | with_reducible rfl))

theorem Keep.chainUse {s t : State} (h : Keep s t) (x1 : Cmd) (x2 : ProdOps) (x3 : ProdJob) (x4 : Nat) (x5 : Nat) (x6 : List Nat) : Keep s (State.chainUse t x1 x2 x3 x4 x5 x6) := by
  unfold State.chainUse
  iterate 24 (all_goals try (first | with_reducible assumption | intro _ | with_reducible apply Keep.settleChain | split | dsimp only))

theorem Keep.recordRange {s t : State} (h : Keep s t) (x1 : Nat) (x2 : Nat) (x3 : Num) : Keep s (State.recordRange t x1 x2 x3) := by
  unfold State.recordRange
  iterate 24 (all_goals try (first | with_reducible assumption | intro _ | with_reducible apply Keep.setRt | split | dsimp only))

theorem Keep.recordStats {s t : State} (h : Keep s t) (x1 : Opnd) (x2 : List ((Nat → Nat) × Num)) : Keep s (State.recordStats t x1 x2) := by
  unfold State.recordStats
  iterate 24 (all_goals try (first | with_reducible assumption | intro _ | with_reducible apply Keep.recordRange | with_reducible apply Keep.foldl | with_reducible apply Keep.foldl_fst | split | dsimp only))

theorem Keep.fillMember {s t : State} (h : Keep s t) (x1 : CtxNo) (x2 : Nat) (x3 : Nat) (x4 : Bool) (x5 : List (Option Nat)) (x6 : LanePart × Bool) : Keep s (State.fillMember x1 x2 x3 x4 x5 t x6) := by
  unfold State.fillMember
  iterate 24 (all_goals try (first | with_reducible assumption | intro _ | with_reducible apply Keep.chainUse | with_reducible apply Keep.place | with_reducible apply Keep.recordStats | with_reducible apply Keep.setJob | split | dsimp only | with_reducible apply Keep.lit | with_reducible rfl))

theorem Keep.chainTake {s t : State} (h : Keep s t) (x1 : Cmd) (x2 : ProdOps) (x3 : ProdJob) (x4 : Nat) (x5 : Nat) : Keep s (State.chainTake t x1 x2 x3 x4 x5) := by
  unfold State.chainTake
  iterate 24 (all_goals try (first | with_reducible assumption | intro _ | with_reducible apply Keep.settleChain | split | dsimp only))

theorem length_addPrefetch {l : List WalkReq} (c : CtxNo) (n : FaultRec) (h : l.length ≤ 8) : (addPrefetch c l n).length ≤ 8 := by
  unfold addPrefetch
  dsimp only
  split
  · simpa using h
  · split
    · exact h
    · simp; omega

theorem Keep.prefetchAcc {s t : State} (h : Keep s t) (c : CtxNo) (q : Word) (a : Acc) : Keep s (State.prefetchAcc c q t a) := by
  unfold State.prefetchAcc
  split
  · exact h
  · dsimp only
    refine Keep.queues (Keep.noteSent (Keep.requests h (fun k => k.send _ _)) _ _ _) rfl rfl rfl rfl id id (fun k => ?_) id
    rw [State.noteSent_walks] at k
    exact length_foldWalk _ (fun l a hl => length_addPrefetch c a hl) _ k

theorem Keep.prefetch {s t : State} (h : Keep s t) (x1 : CtxNo) (x2 : Word) (x3 : List Acc) : Keep s (State.prefetch t x1 x2 x3) := by
  unfold State.prefetch
  iterate 24 (all_goals try (first | with_reducible assumption | intro _ | with_reducible apply Keep.prefetchAcc | with_reducible apply Keep.foldl | with_reducible apply Keep.foldl_fst | split | dsimp only))

theorem Keep.fillPart {s t : State} (h : Keep s t) (x1 : CtxNo) (x2 : SlicePart) : Keep s (State.fillPart t x1 x2) := by
  unfold State.fillPart
  iterate 24 (all_goals try (first | with_reducible assumption | intro _ | with_reducible apply Keep.chainTake | with_reducible apply Keep.closeUnit | with_reducible apply Keep.fillMember | with_reducible apply Keep.openAll | with_reducible apply Keep.prefetch | with_reducible apply Keep.foldl | with_reducible apply Keep.foldl_fst | split | dsimp only | with_reducible apply Keep.lit | with_reducible rfl))

theorem headD_mem {α : Type} {p : α → Prop} {l : List α} {d : α} (h : ∀ x ∈ l, p x) (k : p d) : p (l.headD d) := by
  cases l with
  | nil => exact k
  | cons a r => exact h a (List.mem_cons_self ..)

theorem Keep.firstOpen {s t : State} (h : Keep s t) (c : CtxNo) : Keep s (t.firstOpen c).2 := by
  unfold State.firstOpen
  split
  · exact h
  · split
    · split
      · exact h
      · dsimp only
        split
        · exact h
        · refine headD_mem (p := fun q : Bool × State => Keep s q.2) (fun q hq => ?_) h
          obtain ⟨n, _, rfl⟩ := List.mem_map.mp hq
          split
          · exact h
          · exact h.openAll c _ _
    · split
      · dsimp only
        split
        · exact h
        · exact h.openAll c _ _
      · exact h
    · exact h

theorem Keep.prepareFor {s t : State} (h : Keep s t) (x1 : CtxNo) : Keep s (State.prepareFor t x1) := by
  unfold State.prepareFor
  iterate 24 (all_goals try (first | with_reducible assumption | intro _ | split | dsimp only | with_reducible apply Keep.lit | with_reducible rfl))

theorem Keep.prepareNext {s t : State} (h : Keep s t)  : Keep s (State.prepareNext t) := by
  unfold State.prepareNext
  iterate 24 (all_goals try (first | with_reducible assumption | intro _ | with_reducible apply Keep.prepareFor | split | dsimp only))

theorem Keep.reducePut {s t : State} (h : Keep s t) (x1 : CtxNo) (x2 : BitVec 16) (x3 : List (Nat × Nat)) (x4 : Opnd) (x5 : Bool) (x6 : Nat × (Nat × Flag × Clip × Num)) : Keep s (State.reducePut x1 x2 x3 x4 x5 t x6) := by
  unfold State.reducePut
  iterate 24 (all_goals try (first | with_reducible assumption | intro _ | with_reducible apply Keep.countConv | with_reducible apply Keep.putBits | split | dsimp only))

theorem Keep.reduceTile {s t : State} (h : Keep s t) (x1 : CtxNo) (x2 : Nat) (x3 : Cmd) (x4 : Nat) (x5 : Word) (x6 : Option BoundTable) (x7 : Option BoundTable) (x8 : Opnd) (x9 : Opnd) : Keep s (State.reduceTile t x1 x2 x3 x4 x5 x6 x7 x8 x9).2 := by
  unfold State.reduceTile
  iterate 24 (all_goals try (first | with_reducible assumption | intro _ | with_reducible apply Keep.closeUnit | with_reducible apply Keep.finish | with_reducible apply Keep.openWrites | with_reducible apply Keep.recordStats | with_reducible apply Keep.reducePut | with_reducible apply Keep.setPhase | with_reducible apply Keep.foldl | with_reducible apply Keep.foldl_fst | split | dsimp only | with_reducible apply Keep.lit | with_reducible rfl))

theorem Keep.sliceReduce {s t : State} (h : Keep s t) (x1 : CtxNo) (x2 : SlicePart) (x3 : Nat) (x4 : Cmd) (x5 : Nat) (x6 : Word) (x7 : Option BoundTable) (x8 : Option BoundTable) : Keep s (State.sliceReduce t x1 x2 x3 x4 x5 x6 x7 x8) := by
  unfold State.sliceReduce
  iterate 24 (all_goals try (first | with_reducible assumption | intro _ | with_reducible apply Keep.endOverrun | with_reducible apply Keep.endSlice | with_reducible apply Keep.modCtx | with_reducible apply Keep.reduceTile | with_reducible apply Keep.turnTile | split | dsimp only | with_reducible apply Keep.lit | with_reducible rfl))

theorem Keep.slicePart {s t : State} (h : Keep s t) (x1 : CtxNo) (x2 : SlicePart) : Keep s (State.slicePart x1 t x2) := by
  unfold State.slicePart
  iterate 24 (all_goals try (first | with_reducible assumption | intro _ | with_reducible apply Keep.fillPart | with_reducible apply Keep.sliceReduce | split | dsimp only))

theorem Keep.slicePick {s t : State} (h : Keep s t)  : Keep s (State.slicePick t) := by
  unfold State.slicePick
  iterate 24 (all_goals try (first | with_reducible assumption | intro _ | with_reducible apply Keep.admitSlice | with_reducible apply Keep.firstOpen | with_reducible apply Keep.prepareFor | split | dsimp only))

theorem Keep.sliceRun {s t : State} (h : Keep s t) (x1 : SliceRun) : Keep s (State.sliceRun t x1) := by
  unfold State.sliceRun
  iterate 24 (all_goals try (first | with_reducible assumption | intro _ | with_reducible apply Keep.endSlice | with_reducible apply Keep.prepareNext | with_reducible apply Keep.slicePart | with_reducible apply Keep.foldl | with_reducible apply Keep.foldl_fst | split | dsimp only))

theorem Keep.takePrio {s t : State} (h : Keep s t)  : Keep s (State.takePrio t) := by
  unfold State.takePrio
  iterate 24 (all_goals try (first | with_reducible assumption | intro _ | split | dsimp only | with_reducible apply Keep.lit | with_reducible rfl))

theorem Keep.commitError {s t : State} (h : Keep s t)  : Keep s (State.commitError t) := by
  unfold State.commitError
  iterate 24 (all_goals try (first | with_reducible assumption | intro _ | split | dsimp only | with_reducible apply Keep.lit | with_reducible rfl))

theorem Keep.dbgPutClamp {s t : State} (h : Keep s t) (x1 : Nat) (x2 : Nat) (x3 : BitVec 64) : Keep s (State.dbgPutClamp t x1 x2 x3) := by
  unfold State.dbgPutClamp
  iterate 24 (all_goals try (first | with_reducible assumption | intro _ | with_reducible apply Keep.modSlot | split | dsimp only | with_reducible apply Keep.lit | with_reducible rfl))

theorem Keep.dbgScanIn {s t : State} (h : Keep s t) (x1 : Lane) : Keep s (State.dbgScanIn t x1) := by
  unfold State.dbgScanIn
  iterate 24 (all_goals try (first | with_reducible assumption | intro _ | split | dsimp only | with_reducible apply Keep.lit | with_reducible rfl))

theorem Keep.invalidate {s t : State} (h : Keep s t) (v : Inval) : Keep s (t.invalidate v) := by
  unfold State.invalidate
  split
  · exact h
  · rename_i hn
    refine Keep.queues h rfl rfl rfl rfl id (fun k => Nat.le_trans (List.length_filter_le _ _) k) id (fun _ => ?_)
    simp at hn ⊢
    omega

theorem Keep.drainNext {s t : State} (h : Keep s t)  : Keep s (State.drainNext t) := by
  unfold State.drainNext
  iterate 24 (all_goals try (first | with_reducible assumption | intro _ | with_reducible apply Keep.drainGroup | split | dsimp only | with_reducible apply Keep.lit | with_reducible rfl))

theorem Keep.drainOwn {s t : State} (c : CtxNo) (n : Nat) (h : Keep s t) : Keep s (State.drainOwn c n t) := by
  induction n generalizing t with
  | zero => exact h
  | succ n ih =>
    simp only [State.drainOwn]
    split
    · exact ih h.drainNext
    · exact h

theorem Keep.dropHolds {s t : State} (h : Keep s t) (c : CtxNo) : Keep s (t.dropHolds c) := by
  unfold State.dropHolds
  exact Keep.queues (h.unwaitAll c) rfl rfl rfl rfl id id (fun k => Nat.le_trans (List.length_filter_le _ _) k) id

theorem Keep.dropSlice {s t : State} (h : Keep s t) (x1 : CtxNo) : Keep s (State.dropSlice t x1) := by
  unfold State.dropSlice
  iterate 24 (all_goals try (first | with_reducible assumption | intro _ | split | dsimp only | with_reducible apply Keep.lit | with_reducible rfl))

theorem Keep.settleUnits {s t : State} (h : Keep s t) (x1 : CtxNo) : Keep s (State.settleUnits t x1) := by
  unfold State.settleUnits
  iterate 24 (all_goals try (first | with_reducible assumption | intro _ | with_reducible apply Keep.drainOwn | with_reducible apply Keep.dropHolds | with_reducible apply Keep.dropSlice | with_reducible apply Keep.endOverrun | with_reducible apply Keep.endWrites | with_reducible apply Keep.modCtx | split | dsimp only | with_reducible apply Keep.lit | with_reducible rfl))

theorem Keep.stopCtx {s t : State} (h : Keep s t) (x1 : CtxNo) : Keep s (State.stopCtx t x1) := by
  unfold State.stopCtx
  iterate 24 (all_goals try (first | with_reducible assumption | intro _ | with_reducible apply Keep.modCtx | with_reducible apply Keep.settleUnits | split | dsimp only | with_reducible apply Keep.lit | with_reducible rfl))

theorem Keep.ring {s t : State} (h : Keep s t) (x1 : CtxNo) (x2 : Word) : Keep s (State.ring t x1 x2) := by
  unfold State.ring
  iterate 24 (all_goals try (first | with_reducible assumption | intro _ | with_reducible apply Keep.logErr | with_reducible apply Keep.modCtx | with_reducible apply Keep.stopCtx | split | dsimp only | with_reducible apply Keep.lit | with_reducible rfl))

theorem ErrLog.advance_ring (l : ErrLog) (v : Word) : (l.advance v).ring = l.ring := by
  unfold ErrLog.advance
  split <;> rfl

/-- A read index moves forward only, so no more entries are unread than before. -/
theorem ErrLog.advance_dist (l : ErrLog) (v : Word) (h : dist32 l.wr l.rd ≤ 63) : dist32 (l.advance v).wr (l.advance v).rd ≤ 63 := by
  unfold ErrLog.advance
  split
  · exact Nat.le_trans (of_decide_eq_true ‹_›) h
  · exact h

theorem Keep.logWrite {s t : State} (h : Keep s t) {f : ErrLog → ErrLog} (k : t.log.ring.length = 63 → (f t.log).ring.length = 63)
    (d : dist32 t.log.wr t.log.rd ≤ 63 → dist32 (f t.log).wr (f t.log).rd ≤ 63) : Keep s (t.logWrite f) := by
  unfold State.logWrite
  split
  · exact Keep.logs h k d
  · exact h
theorem Keep.advanced {s t : State} (h : Keep s t) (v : Word) : Keep s { t with log := t.log.advance v } :=
  Keep.logs h (fun k => by rw [ErrLog.advance_ring]; exact k) (ErrLog.advance_dist _ _)

theorem Keep.ignored {s t : State} (h : Keep s t) (x1 : CtxNo) : Keep s (State.ignored t x1) := by
  unfold State.ignored
  iterate 24 (all_goals try (first | with_reducible assumption | intro _ | with_reducible apply Keep.modCtx | split | dsimp only | with_reducible apply Keep.lit | with_reducible rfl))

theorem Keep.blockWrite {s t : State} (h : Keep s t) (c : CtxNo) (f : State → State) (k : Keep s (f t)) : Keep s (t.blockWrite c f) := by
  unfold State.blockWrite
  split
  · exact h
  · split
    · exact h.ignored c
    · exact k

theorem Keep.abortStore {s t : State} (h : Keep s t) (x1 : CtxNo) (x2 : Nat) (x3 : Cmd) (x4 : Nat) (x5 : Nat) (x6 : Nat) (x7 : Option BoundTable) : Keep s (State.abortStore t x1 x2 x3 x4 x5 x6 x7) := by
  unfold State.abortStore
  iterate 24 (all_goals try (first | with_reducible assumption | intro _ | with_reducible apply Keep.finish | with_reducible apply Keep.storeEnd | split | dsimp only | with_reducible apply Keep.lit | with_reducible rfl))

theorem Keep.commitFlying {s t : State} (h : Keep s t) (x1 : CtxNo) (x2 : GatherJob) : Keep s (State.commitFlying t x1 x2).1 := by
  unfold State.commitFlying
  iterate 24 (all_goals try (first | with_reducible assumption | intro _ | with_reducible apply Keep.modCtx | with_reducible apply Keep.foldl | with_reducible apply Keep.foldl_fst | split | dsimp only | with_reducible apply Keep.lit | with_reducible rfl))

theorem Keep.dropTiles {s t : State} (h : Keep s t) (x1 : ProdJob) : Keep s (State.dropTiles t x1) := by
  unfold State.dropTiles
  iterate 24 (all_goals try (first | with_reducible assumption | intro _ | with_reducible apply Keep.modSlot | with_reducible apply Keep.foldl | with_reducible apply Keep.foldl_fst | split | dsimp only))

theorem Keep.keepGen {s t : State} (h : Keep s t) (x1 : CtxNo) (x2 : Cmd) : Keep s (State.keepGen t x1 x2) := by
  unfold State.keepGen
  iterate 24 (all_goals try (first | with_reducible assumption | intro _ | with_reducible apply Keep.setSlot | split | dsimp only))

theorem Keep.abortCmd {s t : State} (h : Keep s t) (x1 : CtxNo) (x2 : Nat) (x3 : Cmd) : Keep s (State.abortCmd t x1 x2 x3) := by
  unfold State.abortCmd
  iterate 24 (all_goals try (first | with_reducible assumption | intro _ | with_reducible apply Keep.abortStore | with_reducible apply Keep.commitFlying | with_reducible apply Keep.dropTiles | with_reducible apply Keep.finish | with_reducible apply Keep.finishChain | with_reducible apply Keep.gatherEnd | with_reducible apply Keep.keepGen | with_reducible apply Keep.productEnd | with_reducible apply Keep.setPhase | with_reducible apply Keep.setSlot | split | dsimp only | with_reducible apply Keep.lit | with_reducible rfl))

theorem Keep.resumeCmd {s t : State} (h : Keep s t) (x1 : CtxNo) (x2 : Nat) : Keep s (State.resumeCmd t x1 x2) := by
  unfold State.resumeCmd
  iterate 24 (all_goals try (first | with_reducible assumption | intro _ | with_reducible apply Keep.finish | with_reducible apply Keep.resync | with_reducible apply Keep.setPhase | split | dsimp only | with_reducible apply Keep.lit | with_reducible rfl))

theorem Keep.resumeCtx {s t : State} (h : Keep s t) (c : CtxNo) : Keep s (t.resumeCtx c) := by
  unfold State.resumeCtx
  dsimp only
  refine Keep.foldl (fun u i hu => hu.resumeCmd c i) _ (Keep.modCtx ?_ c _)
  split
  · split
    · exact h
    · exact Keep.walks h (fun k => length_addWalk _ k)
  · exact h

theorem Keep.abortCtx {s t : State} (h : Keep s t) (x1 : CtxNo) : Keep s (State.abortCtx t x1) := by
  unfold State.abortCtx
  iterate 24 (all_goals try (first | with_reducible assumption | intro _ | with_reducible apply Keep.abortCmd | with_reducible apply Keep.modCtx | with_reducible apply Keep.resumeCtx | split | dsimp only | with_reducible apply Keep.lit | with_reducible rfl))

theorem Keep.beginReset {s t : State} (h : Keep s t) (c : CtxNo) : Keep s (t.beginReset c) := by
  unfold State.beginReset
  exact Keep.modCtx (Keep.walks (h.settleUnits c) (fun k => Nat.le_trans (List.length_filter_le _ _) k)) c _

theorem Keep.control {s t u : State} (h : Keep s t) (k : Keep s u) (c : CtxNo) (ok : CtxState → Bool) : Keep s (t.control c ok u) := by
  unfold State.control
  split
  · exact h
  · split
    · exact h.ignored c
    · exact k

theorem Keep.ctxCtrl {s t : State} (h : Keep s t) (x1 : CtxNo) (x2 : Word) : Keep s (State.ctxCtrl t x1 x2) := by
  unfold State.ctxCtrl
  iterate 24 (all_goals try (first | with_reducible assumption | intro _ | with_reducible apply Keep.abortCtx | with_reducible apply Keep.beginReset | with_reducible apply Keep.control | with_reducible apply Keep.ignored | with_reducible apply Keep.modCtx | with_reducible apply Keep.resumeCtx | split | dsimp only | with_reducible apply Keep.lit | with_reducible rfl))

theorem Keep.writeCfg {s t : State} (h : Keep s t) (x1 : CtxNo) (x2 : Context → Context) : Keep s (State.writeCfg t x1 x2) := by
  unfold State.writeCfg
  iterate 24 (all_goals try (first | with_reducible assumption | intro _ | with_reducible apply Keep.ignored | with_reducible apply Keep.modCtx | split | dsimp only | with_reducible apply Keep.lit | with_reducible rfl))

theorem Keep.later {s t : State} (h : Keep s t) (x1 : LateAct) : Keep s (State.later t x1) := by
  unfold State.later
  iterate 24 (all_goals try (first | with_reducible assumption | intro _ | with_reducible apply Keep.late | split | dsimp only | with_reducible apply Keep.lit | with_reducible rfl))

theorem Keep.writeCtxClear {s t : State} (h : Keep s t) (x1 : CtxNo) (x2 : Word) : Keep s (State.writeCtxClear t x1 x2) := by
  unfold State.writeCtxClear
  iterate 24 (all_goals try (first | with_reducible assumption | intro _ | with_reducible apply Keep.blockWrite | with_reducible apply Keep.later | split | dsimp only))

theorem Keep.writeHead {s t : State} (h : Keep s t) (x1 : CtxNo) (x2 : Word) : Keep s (State.writeHead t x1 x2) := by
  unfold State.writeHead
  iterate 24 (all_goals try (first | with_reducible assumption | intro _ | with_reducible apply Keep.ignored | with_reducible apply Keep.modCtx | split | dsimp only | with_reducible apply Keep.lit | with_reducible rfl))

theorem Keep.writeTail {s t : State} (h : Keep s t) (x1 : CtxNo) (x2 : Word) : Keep s (State.writeTail t x1 x2) := by
  unfold State.writeTail
  iterate 24 (all_goals try (first | with_reducible assumption | intro _ | with_reducible apply Keep.ignored | with_reducible apply Keep.modCtx | with_reducible apply Keep.ring | split | dsimp only | with_reducible apply Keep.lit | with_reducible rfl))

theorem Keep.writeBlock {s t : State} (h : Keep s t) (c : CtxNo) (o : Nat) (v : Word) : Keep s (t.writeBlock c o v) := by
  unfold State.writeBlock
  split
  case h_2 =>
    split
    · exact h.ignored c
    · exact h.ctxCtrl c v
  case h_3 => exact h.modCtx c _
  case h_8 => exact h.writeTail c v
  case h_9 => exact h.writeHead c v
  case h_10 => exact h.writeCtxClear c v
  case h_11 =>
    split
    · exact h.blockWrite c _ h
    · exact h
  all_goals exact h.writeCfg c _

theorem Keep.whenOpen {s t u : State} (h : Keep s t) (k : Keep s u) : Keep s (t.whenOpen u) := by
  unfold State.whenOpen
  split
  · exact k
  · exact h

theorem Keep.writeClear {s t : State} (h : Keep s t) (x1 : Word) : Keep s (State.writeClear t x1) := by
  unfold State.writeClear
  iterate 24 (all_goals try (first | with_reducible assumption | intro _ | with_reducible apply Keep.later | with_reducible apply Keep.whenOpen | split | dsimp only))

theorem Keep.logLater {s t : State} (h : Keep s t) (x1 : LateAct) : Keep s (State.logLater t x1) := by
  unfold State.logLater
  iterate 24 (all_goals try (first | with_reducible assumption | intro _ | with_reducible apply Keep.later | split | dsimp only))

theorem Keep.writeLogCtl {s t : State} (h : Keep s t) (v : Word) : Keep s (t.writeLogCtl v) := by
  have k := h.logWrite (f := fun l => { l with firstSev := v.extractLsb' 0 2 }) id id
  unfold State.writeLogCtl
  generalize t.logWrite (fun l => { l with firstSev := v.extractLsb' 0 2 }) = a at k ⊢
  cases bitAt v 8 <;> cases bitAt v 16
  · exact k
  · exact k.logLater _
  · exact k.logLater _
  · exact (k.logLater _).logLater _

theorem Keep.writeRdIdx {s t : State} (h : Keep s t) (x1 : Word) : Keep s (State.writeRdIdx t x1) := by
  unfold State.writeRdIdx
  iterate 24 (all_goals try (first | with_reducible assumption | intro _ | with_reducible apply Keep.logLater | split | dsimp only))

theorem Keep.write32 {s t : State} (h : Keep s t) (o : Nat) (v : Word) : Keep s (t.write32 o v) := by
  unfold State.write32
  split
  · exact h.writeLogCtl v
  · exact h.writeRdIdx v
  · exact h.logWrite id id
  · split
    · exact h
    · split
      · exact h.writeBlock _ _ v
      · split
        · exact Keep.lit h rfl rfl rfl rfl
        · exact h.writeClear v
        · exact h.releaseJob _
        · exact Keep.lit h rfl rfl rfl rfl
        · exact Keep.lit h rfl rfl rfl rfl
        · exact h.invalidate _
        · exact h

theorem Keep.dbgWrite {s t : State} (h : Keep s t) (x1 : Nat) (x2 : Word) : Keep s (State.dbgWrite t x1 x2) := by
  unfold State.dbgWrite
  iterate 24 (all_goals try (first | with_reducible assumption | intro _ | with_reducible apply Keep.write32 | split | dsimp only))

theorem Keep.denied {s t : State} (h : Keep s t) (x1 : Nat) : Keep s (State.denied t x1) := by
  unfold State.denied
  iterate 24 (all_goals try (first | with_reducible assumption | intro _ | with_reducible apply Keep.logErr | split | dsimp only | with_reducible apply Keep.lit | with_reducible rfl))

theorem Keep.firmwareFail {s t : State} (h : Keep s t) (x1 : BitVec 64) (x2 : Bool) : Keep s (State.firmwareFail t x1 x2) := by
  unfold State.firmwareFail
  iterate 24 (all_goals try (first | with_reducible assumption | intro _ | with_reducible apply Keep.logErr | split | dsimp only))

theorem Keep.secureWrite {s t u : State} (h : Keep s t) (k : Keep s u) (b : Bool) (o : Nat) : Keep s (t.secureWrite b o u) := by
  unfold State.secureWrite
  split
  · exact h
  · split
    · exact h.denied o
    · exact k

theorem Keep.otherWrite {s t : State} (h : Keep s t) (b : Bool) (o : Nat) : Keep s (t.otherWrite b o) := by
  unfold State.otherWrite
  split
  · exact h.secureWrite h _ _
  · exact h

theorem Keep.mgmtWrite {s t : State} (h : Keep s t) (r : MgmtReg) (secure : Bool) (v : Word) : Keep s (t.mgmtWrite r secure v) := by
  unfold State.mgmtWrite
  cases r <;> dsimp only
  case position =>
    split
    · split
      · exact h.denied _
      · exact h
    · split
      · exact Keep.lit h rfl rfl rfl rfl
      · exact h
  case alert =>
    split
    · exact Keep.lit h rfl rfl rfl rfl
    · exact h
  case commitErr =>
    split
    · exact Keep.lit h rfl rfl rfl rfl
    · exact h
  case logReadIdx => exact h.secureWrite (h.writeRdIdx v) _ _
  case logSummary => exact h.secureWrite (h.logWrite id id) _ _
  case logFirst =>
    refine h.secureWrite ?_ _ _
    split
    · exact h.logLater _
    · exact h
  case regionStage => exact h.secureWrite (Keep.lit h rfl rfl rfl rfl) _ _
  case groupStage => exact h.secureWrite (Keep.lit h rfl rfl rfl rfl) _ _
  case keyStage => exact h.secureWrite (Keep.lit h rfl rfl rfl rfl) _ _
  case readOnly => exact h.otherWrite _ _
  case unlisted => exact h.otherWrite _ _

theorem Keep.rampProgress {s t : State} (h : Keep s t)  : Keep s (State.rampProgress t) := by
  unfold State.rampProgress
  iterate 24 (all_goals try (first | with_reducible assumption | intro _ | split | dsimp only | with_reducible apply Keep.lit | with_reducible rfl))

theorem Keep.retainNext {s t : State} (h : Keep s t)  : Keep s (State.retainNext t) := by
  unfold State.retainNext
  iterate 24 (all_goals try (first | with_reducible assumption | intro _ | split | dsimp only | with_reducible apply Keep.lit | with_reducible rfl))

theorem Keep.startRamp {s t : State} (h : Keep s t)  : Keep s (State.startRamp t) := by
  unfold State.startRamp
  iterate 24 (all_goals try (first | with_reducible assumption | intro _ | split | dsimp only | with_reducible apply Keep.lit | with_reducible rfl))

theorem Keep.startUpRamp {s t : State} (h : Keep s t) (x1 : Ramp) (x2 : Power) : Keep s (State.startUpRamp t x1 x2) := by
  unfold State.startUpRamp
  iterate 24 (all_goals try (first | with_reducible assumption | intro _ | split | dsimp only | with_reducible apply Keep.lit | with_reducible rfl))

theorem Keep.chainBegin {s t : State} (h : Keep s t) (x1 : CtxNo) (x2 : Cmd) (x3 : Word) (x4 : Nat) : Keep s (State.chainBegin t x1 x2 x3 x4) := by
  unfold State.chainBegin
  iterate 24 (all_goals try (first | with_reducible assumption | intro _ | with_reducible apply Keep.setChain | split | dsimp only))

theorem Keep.startGroup {s t : State} (h : Keep s t) (c : CtxNo) (lead : Word) (early : Bool) (l : List (Nat × Cmd × ProdOps)) (g : Nat) :
    Keep s (t.startGroup c lead early l g) := by
  induction l generalizing t g with
  | nil => exact h
  | cons a r ih => exact ih (h.setPhase c _ _) _

theorem Keep.launch {s t : State} (h : Keep s t) (x1 : CtxNo) (x2 : Nat) (x3 : Cmd) (x4 : ProdOps) (x5 : Nat) (x6 : Nat) : Keep s (State.launch t x1 x2 x3 x4 x5 x6) := by
  unfold State.launch
  iterate 24 (all_goals try (first | with_reducible assumption | intro _ | with_reducible apply Keep.chainBegin | with_reducible apply Keep.chainEnd | with_reducible apply Keep.finish | with_reducible apply Keep.setPhase | with_reducible apply Keep.startGroup | with_reducible apply Keep.tileOut | split | dsimp only))

theorem Keep.startProduct {s t : State} (h : Keep s t) (x1 : CtxNo) (x2 : Bool) : Keep s (State.startProduct t x1 x2) := by
  unfold State.startProduct
  iterate 24 (all_goals try (first | with_reducible assumption | intro _ | with_reducible apply Keep.finish | with_reducible apply Keep.launch | split | dsimp only))

theorem Keep.readEntries {s t : State} (h : Keep s t) (x1 : CtxNo) (x2 : Nat) : Keep s (State.readEntries t x1 x2).2 := by
  unfold State.readEntries
  iterate 24 (all_goals try (first | with_reducible assumption | intro _ | with_reducible apply Keep.ringReady | split | dsimp only))

theorem Keep.admitNext {s t : State} (h : Keep s t) (x1 : CtxNo) : Keep s (State.admitNext t x1) := by
  unfold State.admitNext
  iterate 24 (all_goals try (first | with_reducible assumption | intro _ | with_reducible apply Keep.modCtx | with_reducible apply Keep.readEntries | with_reducible apply Keep.ringReady | split | dsimp only | with_reducible apply Keep.lit | with_reducible rfl))

theorem Keep.dropChain {s t : State} (h : Keep s t) (x1 : CtxNo) (x2 : Nat) : Keep s (State.dropChain x1 t x2) := by
  unfold State.dropChain
  iterate 24 (all_goals try (first | with_reducible assumption | intro _ | with_reducible apply Keep.finishChain | with_reducible apply Keep.setChain | split | dsimp only))

theorem Keep.dropStores {s t : State} (h : Keep s t) (x1 : CtxNo) : Keep s (State.dropStores t x1) := by
  unfold State.dropStores
  iterate 24 (all_goals try (first | with_reducible assumption | intro _ | with_reducible apply Keep.storeRelease | with_reducible apply Keep.foldl | with_reducible apply Keep.foldl_fst | split | dsimp only))

theorem Keep.freeTransient {s t : State} (h : Keep s t) (x1 : CtxNo) : Keep s (State.freeTransient t x1) := by
  unfold State.freeTransient
  iterate 24 (all_goals try (first | with_reducible assumption | intro _ | with_reducible apply Keep.modSlot | with_reducible apply Keep.foldl | with_reducible apply Keep.foldl_fst | split | dsimp only))

theorem Keep.headerLookup {s t : State} (h : Keep s t) (c : CtxNo) : Keep s (t.headerLookup c).2 := by
  unfold State.headerLookup
  dsimp only
  split
  · exact h
  · exact Keep.walks h (fun k => length_foldWalk _ (fun l a hl => length_addWalk _ hl) _ k)

theorem Keep.journalHeader {s t : State} (h : Keep s t) (x1 : CtxNo) (x2 : Task) : Keep s (State.journalHeader t x1 x2) := by
  unfold State.journalHeader
  iterate 24 (all_goals try (first | with_reducible assumption | intro _ | with_reducible apply Keep.putArea | split | dsimp only))

theorem Keep.park {s t : State} (h : Keep s t) (x1 : CtxNo) : Keep s (State.park t x1) := by
  unfold State.park
  iterate 24 (all_goals try (first | with_reducible assumption | intro _ | with_reducible apply Keep.event | with_reducible apply Keep.setCtx | with_reducible apply Keep.settleUnits | split | dsimp only | with_reducible apply Keep.lit | with_reducible rfl))

theorem Keep.postHeld {s t : State} (h : Keep s t) (x1 : CtxNo) : Keep s (State.postHeld t x1) := by
  unfold State.postHeld
  iterate 24 (all_goals try (first | with_reducible assumption | intro _ | with_reducible apply Keep.modCtx | with_reducible apply Keep.postEvent | with_reducible apply Keep.ringReady | split | dsimp only | with_reducible apply Keep.lit | with_reducible rfl))

theorem Keep.postReply {s t : State} (h : Keep s t) (x1 : CtxNo) : Keep s (State.postReply t x1) := by
  unfold State.postReply
  iterate 24 (all_goals try (first | with_reducible assumption | intro _ | with_reducible apply Keep.modCtx | with_reducible apply Keep.postEntry | with_reducible apply Keep.pulse | with_reducible apply Keep.ringReady | split | dsimp only | with_reducible apply Keep.lit | with_reducible rfl))

theorem Keep.releaseTask {s t : State} (h : Keep s t) (x1 : CtxNo) : Keep s (State.releaseTask t x1) := by
  unfold State.releaseTask
  iterate 24 (all_goals try (first | with_reducible assumption | intro _ | with_reducible apply Keep.modCtx | with_reducible apply Keep.modSlot | with_reducible apply Keep.foldl | with_reducible apply Keep.foldl_fst | split | dsimp only | with_reducible apply Keep.lit | with_reducible rfl))

theorem Keep.resetCtx {s t : State} (h : Keep s t) (c : CtxNo) : Keep s (t.resetCtx c) := by
  unfold State.resetCtx
  dsimp only
  have h0 := Keep.foldl (fun u m hu => hu.keepGen c m) (t.ctx c).cmds (h.dropStores c)
  have h1 := (Keep.foldl (fun u e hu => hu.dropChain c e) (List.range 4) h0).freeTransient c
  generalize State.freeTransient _ c = u at h1 ⊢
  refine Keep.modCtx ?_ c _
  have h2 : Keep s (match (u.ctx c).task with
      | some t => (u.journalHeader c t).releaseTask c
      | none => u) := by
    split
    · exact (h1.journalHeader c _).releaseTask c
    · exact h1
  exact Keep.queues h2 rfl rfl rfl rfl id id (fun k => Nat.le_trans (List.length_filter_le _ _) k) id

theorem Keep.qcal {s t : State} (h : Keep s t) (x1 : CtxNo) : Keep s (State.qcal t x1) := by
  unfold State.qcal
  iterate 24 (all_goals try (first | with_reducible assumption | intro _ | with_reducible apply Keep.finish | with_reducible apply Keep.setRt | with_reducible apply Keep.foldl | with_reducible apply Keep.foldl_fst | split | dsimp only | with_reducible apply Keep.lit | with_reducible rfl))

theorem Keep.qstat {s t : State} (h : Keep s t) (x1 : CtxNo) : Keep s (State.qstat t x1) := by
  unfold State.qstat
  iterate 24 (all_goals try (first | with_reducible assumption | intro _ | with_reducible apply Keep.closeUnit | with_reducible apply Keep.finish | with_reducible apply Keep.openWrites | with_reducible apply Keep.putArea | with_reducible apply Keep.setRt | with_reducible apply Keep.windowEnd | split | dsimp only | with_reducible apply Keep.lit | with_reducible rfl))

theorem Keep.startReduce {s t : State} (h : Keep s t) (x1 : CtxNo) : Keep s (State.startReduce t x1) := by
  unfold State.startReduce
  iterate 24 (all_goals try (first | with_reducible assumption | intro _ | with_reducible apply Keep.finish | with_reducible apply Keep.setPhase | split | dsimp only))

theorem Keep.clearEnergy {s t : State} (h : Keep s t)  : Keep s (State.clearEnergy t) := by
  unfold State.clearEnergy
  iterate 24 (all_goals try (first | with_reducible assumption | intro _ | split | dsimp only | with_reducible apply Keep.lit | with_reducible rfl))

theorem Keep.clearIdle {s t : State} (h : Keep s t)  : Keep s (State.clearIdle t) := by
  unfold State.clearIdle
  iterate 24 (all_goals try (first | with_reducible assumption | intro _ | split | dsimp only | with_reducible apply Keep.lit | with_reducible rfl))

theorem Keep.clearIf {s t : State} (h : Keep s t) (v : Word) (b : Nat) {f : State → State} (k : ∀ u, Keep s u → Keep s (f u)) :
    Keep s (t.clearIf v b f) := by
  unfold State.clearIf
  split
  · exact k t h
  · exact h

theorem Keep.clearMac {s t : State} (h : Keep s t)  : Keep s (State.clearMac t) := by
  unfold State.clearMac
  iterate 24 (all_goals try (first | with_reducible assumption | intro _ | split | dsimp only | with_reducible apply Keep.lit | with_reducible rfl))

theorem Keep.clearMisc {s t : State} (h : Keep s t)  : Keep s (State.clearMisc t) := by
  unfold State.clearMisc
  iterate 24 (all_goals try (first | with_reducible assumption | intro _ | split | dsimp only | with_reducible apply Keep.lit | with_reducible rfl))

theorem Keep.clearReduce {s t : State} (h : Keep s t)  : Keep s (State.clearReduce t) := by
  unfold State.clearReduce
  iterate 24 (all_goals try (first | with_reducible assumption | intro _ | with_reducible apply Keep.modPort | split | dsimp only | with_reducible apply Keep.lit | with_reducible rfl))

theorem Keep.clearStall {s t : State} (h : Keep s t)  : Keep s (State.clearStall t) := by
  unfold State.clearStall
  iterate 24 (all_goals try (first | with_reducible assumption | intro _ | split | dsimp only | with_reducible apply Keep.lit | with_reducible rfl))

theorem Keep.clearTempMax {s t : State} (h : Keep s t)  : Keep s (State.clearTempMax t) := by
  unfold State.clearTempMax
  iterate 24 (all_goals try (first | with_reducible assumption | intro _ | split | dsimp only | with_reducible apply Keep.lit | with_reducible rfl))

theorem Keep.clearTick {s t : State} (h : Keep s t)  : Keep s (State.clearTick t) := by
  unfold State.clearTick
  iterate 24 (all_goals try (first | with_reducible assumption | intro _ | split | dsimp only | with_reducible apply Keep.lit | with_reducible rfl))

theorem Keep.cntClear {s t : State} (h : Keep s t) (v : Word) : Keep s (t.cntClear v) := by
  unfold State.cntClear
  exact (((((((h.clearIf _ _ (fun u hu => hu.clearStall)).clearIf _ _ (fun u hu => hu.clearMac)).clearIf _ _
    (fun u hu => hu.clearEnergy)).clearIf _ _ (fun u hu => hu.clearIdle)).clearIf _ _ (fun u hu => hu.clearMisc)).clearIf _ _
    (fun u hu => hu.clearTempMax)).clearIf _ _ (fun u hu => hu.clearReduce)).clearIf _ _ (fun u hu => hu.clearTick)

theorem Keep.ctxClear {s t : State} (h : Keep s t) (x1 : CtxNo) (x2 : Word) : Keep s (State.ctxClear t x1 x2) := by
  unfold State.ctxClear
  iterate 24 (all_goals try (first | with_reducible assumption | intro _ | with_reducible apply Keep.modCtx | split | dsimp only))

theorem Keep.act {s t : State} (h : Keep s t) (e : LateAct) : Keep s (t.act e) := by
  unfold State.act
  split
  · exact h.cntClear _
  · exact h.ctxClear _ _
  · exact Keep.logs h id id
  · exact h.advanced _
  · exact Keep.logs h id id

theorem Keep.endEc {s t : State} (h : Keep s t)  : Keep s (State.endEc t) := by
  unfold State.endEc
  iterate 24 (all_goals try (first | with_reducible assumption | intro _ | with_reducible apply Keep.act | with_reducible apply Keep.late | with_reducible apply Keep.foldl | with_reducible apply Keep.foldl_fst | split | dsimp only | with_reducible apply Keep.lit | with_reducible rfl))

theorem Keep.writeReg {s t : State} (h : Keep s t) (x1 : Nat) (x2 : Nat) (x3 : BitVec 64) : Keep s (State.writeReg t x1 x2 x3) := by
  unfold State.writeReg
  iterate 24 (all_goals try (first | with_reducible assumption | intro _ | with_reducible apply Keep.write32 | split | dsimp only))

theorem Keep.advanceCursor {s t : State} (h : Keep s t) (x1 : Nat) (x2 : Nat) : Keep s (State.advanceCursor t x1 x2) := by
  unfold State.advanceCursor
  iterate 24 (all_goals try (first | with_reducible assumption | intro _ | split | dsimp only | with_reducible apply Keep.lit | with_reducible rfl))

theorem Keep.bankRewrite {s t : State} (h : Keep s t) (x1 : Nat) (x2 : Nat) : Keep s (State.bankRewrite t x1 x2) := by
  unfold State.bankRewrite
  iterate 24 (all_goals try (first | with_reducible assumption | intro _ | with_reducible apply Keep.logErr | with_reducible apply Keep.foldl | with_reducible apply Keep.foldl_fst | split | dsimp only | with_reducible apply Keep.lit | with_reducible rfl))

theorem Keep.beforeItem {s t : State} (h : Keep s t) (u i : Nat) : Keep s (t.beforeItem u i) := by
  unfold State.beforeItem
  split
  · exact Keep.tlb h (fun k => Nat.le_trans (List.length_filter_le _ _) k)
  · exact h

theorem Keep.groupReady {s t : State} (h : Keep s t) (x1 : Nat) (x2 : Nat) (x3 : Nat) : Keep s (State.groupReady t x1 x2 x3).2 := by
  unfold State.groupReady
  iterate 24 (all_goals try (first | with_reducible assumption | intro _ | split | dsimp only | with_reducible apply Keep.lit | with_reducible rfl))

theorem Keep.columnFailed {s t : State} (h : Keep s t) (x1 : Nat) (x2 : Nat) (x3 : Nat) : Keep s (State.columnFailed t x1 x2 x3).2 := by
  unfold State.columnFailed
  iterate 24 (all_goals try (first | with_reducible assumption | intro _ | with_reducible apply Keep.logErr | split | dsimp only | with_reducible apply Keep.lit | with_reducible rfl))

theorem Keep.laneFailed {s t : State} (h : Keep s t) (x1 : Nat) : Keep s (State.laneFailed t x1).2 := by
  unfold State.laneFailed
  iterate 24 (all_goals try (first | with_reducible assumption | intro _ | with_reducible apply Keep.logErr | split | dsimp only | with_reducible apply Keep.lit | with_reducible rfl))

theorem Keep.riskNote {s t : State} (h : Keep s t) (x1 : Fin 4) : Keep s (State.riskNote t x1) := by
  unfold State.riskNote
  iterate 24 (all_goals try (first | with_reducible assumption | intro _ | split | dsimp only | with_reducible apply Keep.lit | with_reducible rfl))

theorem Keep.itemDone {s t : State} (h : Keep s t) (x1 : Nat) (x2 : Nat) (x3 : ItemResult) (x4 : Bool) : Keep s (State.itemDone t x1 x2 x3 x4).2.2 := by
  unfold State.itemDone
  iterate 24 (all_goals try (first | with_reducible assumption | intro _ | with_reducible apply Keep.beforeItem | with_reducible apply Keep.columnFailed | with_reducible apply Keep.laneFailed | with_reducible apply Keep.logErr | with_reducible apply Keep.riskNote | split | dsimp only | with_reducible apply Keep.lit | with_reducible rfl))

theorem Keep.runItems {s t : State} (h : Keep s t) (u i : Nat) (rs : List ItemResult) (f : Bool) (n k : Nat) :
    Keep s (State.runItems u i rs f n k t).2 := by
  induction n generalizing t k with
  | zero => exact h
  | succ n ih =>
    simp only [State.runItems]
    split
    · exact h.itemDone u _ _ f
    · exact ih (h.itemDone u _ _ f) _

theorem Keep.takeBench {s t : State} (h : Keep s t) (x1 : Nat) : Keep s (State.takeBench t x1) := by
  unfold State.takeBench
  iterate 24 (all_goals try (first | with_reducible assumption | intro _ | split | dsimp only | with_reducible apply Keep.lit | with_reducible rfl))

theorem Keep.bistRun {s t : State} (h : Keep s t) (x1 : CtxNo) (x2 : Nat) (x3 : Cmd) (x4 : Opnd) (x5 : List ItemResult) (x6 : Nat) : Keep s (State.bistRun t x1 x2 x3 x4 x5 x6) := by
  unfold State.bistRun
  iterate 24 (all_goals try (first | with_reducible assumption | intro _ | with_reducible apply Keep.closeUnit | with_reducible apply Keep.finish | with_reducible apply Keep.groupReady | with_reducible apply Keep.openWrites | with_reducible apply Keep.putArea | with_reducible apply Keep.runItems | with_reducible apply Keep.takeBench | with_reducible apply Keep.takeTurn | with_reducible apply Keep.turnTile | split | dsimp only | with_reducible apply Keep.lit | with_reducible rfl))

theorem Keep.bistSlice {s t : State} (h : Keep s t) (x1 : CtxNo) (x2 : List ItemResult) : Keep s (State.bistSlice t x1 x2) := by
  unfold State.bistSlice
  iterate 24 (all_goals try (first | with_reducible assumption | intro _ | with_reducible apply Keep.bistRun | with_reducible apply Keep.finish | with_reducible apply Keep.setPhase | split | dsimp only))

theorem Keep.fallowRun {s t : State} (h : Keep s t) (x1 : Nat) (x2 : Nat) (x3 : List ItemResult) : Keep s (State.fallowRun t x1 x2 x3) := by
  unfold State.fallowRun
  iterate 24 (all_goals try (first | with_reducible assumption | intro _ | with_reducible apply Keep.advanceCursor | with_reducible apply Keep.groupReady | with_reducible apply Keep.runItems | with_reducible apply Keep.takeBench | split | dsimp only | with_reducible apply Keep.lit | with_reducible rfl))

theorem Keep.fallow {s t : State} (h : Keep s t) (x1 : List ItemResult) : Keep s (State.fallow t x1) := by
  unfold State.fallow
  iterate 24 (all_goals try (first | with_reducible assumption | intro _ | with_reducible apply Keep.fallowRun | split | dsimp only))

theorem Keep.quickColumn {s t : State} (h : Keep s t) (x1 : Nat) (x2 : Nat) (x3 : Nat) : Keep s (State.quickColumn t x1 x2 x3) := by
  unfold State.quickColumn
  iterate 24 (all_goals try (first | with_reducible assumption | intro _ | with_reducible apply Keep.logErr | split | dsimp only | with_reducible apply Keep.lit | with_reducible rfl))

theorem Keep.quickLane {s t : State} (h : Keep s t) (x1 : Nat) : Keep s (State.quickLane t x1) := by
  unfold State.quickLane
  iterate 24 (all_goals try (first | with_reducible assumption | intro _ | with_reducible apply Keep.logErr | split | dsimp only | with_reducible apply Keep.lit | with_reducible rfl))

theorem Keep.takeMap {s t : State} (h : Keep s t)  : Keep s (State.takeMap t) := by
  unfold State.takeMap
  iterate 24 (all_goals try (first | with_reducible assumption | intro _ | with_reducible apply Keep.logErr | split | dsimp only | with_reducible apply Keep.lit | with_reducible rfl))

theorem Keep.modTrain {s t : State} (h : Keep s t) (x1 : Chan) (x2 : Train → Train) : Keep s (State.modTrain t x1 x2) := by
  unfold State.modTrain
  iterate 24 (all_goals try (first | with_reducible assumption | intro _ | with_reducible apply Keep.reportCh | split | dsimp only | with_reducible apply Keep.lit | with_reducible rfl))

theorem Keep.retrainCh {s t : State} (h : Keep s t) (x1 : Chan) : Keep s (State.retrainCh t x1) := by
  unfold State.retrainCh
  iterate 24 (all_goals try (first | with_reducible assumption | intro _ | with_reducible apply Keep.logErr | with_reducible apply Keep.modTrain | with_reducible apply Keep.riskNote | split | dsimp only | with_reducible apply Keep.lit | with_reducible rfl))

theorem Keep.meet {s t : State} (h : Keep s t) (x1 : Chan) (x2 : BitVec 15) : Keep s (State.meet t x1 x2) := by
  unfold State.meet
  iterate 24 (all_goals try (first | with_reducible assumption | intro _ | with_reducible apply Keep.retrainCh | split | dsimp only))

theorem Keep.newPartner {s t : State} (h : Keep s t) (x1 : Chan) (x2 : BitVec 15) : Keep s (State.newPartner t x1 x2) := by
  unfold State.newPartner
  iterate 24 (all_goals try (first | with_reducible assumption | intro _ | with_reducible apply Keep.logErr | with_reducible apply Keep.modTrain | split | dsimp only | with_reducible apply Keep.lit | with_reducible rfl))

theorem Keep.rxFail {s t : State} (h : Keep s t) (x1 : Chan) (x2 : BitVec 15) : Keep s (State.rxFail t x1 x2) := by
  unfold State.rxFail
  iterate 24 (all_goals try (first | with_reducible assumption | intro _ | with_reducible apply Keep.logErr | with_reducible apply Keep.modTrain | split | dsimp only | with_reducible apply Keep.lit | with_reducible rfl))

theorem Keep.sendTrain {s t : State} (h : Keep s t) (x1 : Chan) (x2 : List Packet) : Keep s (State.sendTrain t x1 x2) := by
  unfold State.sendTrain
  iterate 24 (all_goals try (first | with_reducible assumption | intro _ | with_reducible apply Keep.modCh | with_reducible apply Keep.modPort | split | dsimp only | with_reducible apply Keep.lit | with_reducible rfl))

theorem Keep.sendAck {s t : State} (h : Keep s t) (x1 : Chan) : Keep s (State.sendAck t x1) := by
  unfold State.sendAck
  iterate 24 (all_goals try (first | with_reducible assumption | intro _ | with_reducible apply Keep.sendTrain | split | dsimp only))

theorem Keep.startStep {s t : State} (h : Keep s t) (x1 : BitVec 4) : Keep s (State.startStep t x1) := by
  unfold State.startStep
  iterate 24 (all_goals try (first | with_reducible assumption | intro _ | split | dsimp only | with_reducible apply Keep.lit | with_reducible rfl))

theorem Keep.tookTrain {s t : State} (h : Keep s t) (x1 : Chan) : Keep s (State.tookTrain t x1) := by
  unfold State.tookTrain
  iterate 24 (all_goals try (first | with_reducible assumption | intro _ | with_reducible apply Keep.modCh | split | dsimp only | with_reducible apply Keep.lit | with_reducible rfl))

theorem Keep.trainFail {s t : State} (h : Keep s t) (x1 : Chan) : Keep s (State.trainFail t x1) := by
  unfold State.trainFail
  iterate 24 (all_goals try (first | with_reducible assumption | intro _ | with_reducible apply Keep.logErr | split | dsimp only))

theorem Keep.trainSend {s t : State} (h : Keep s t) (x1 : Chan) : Keep s (State.trainSend t x1) := by
  unfold State.trainSend
  iterate 24 (all_goals try (first | with_reducible assumption | intro _ | with_reducible apply Keep.modTrain | with_reducible apply Keep.sendTrain | split | dsimp only | with_reducible apply Keep.lit | with_reducible rfl))

theorem Keep.keepBound {s t : State} (h : Keep s t) (x1 : CtxNo) (x2 : Nat) (x3 : Nat) : Keep s (State.keepBound t x1 x2 x3) := by
  unfold State.keepBound
  iterate 24 (all_goals try (first | with_reducible assumption | intro _ | with_reducible apply Keep.modCtx | split | dsimp only | with_reducible apply Keep.lit | with_reducible rfl))

theorem Keep.loadRescale {s t : State} (h : Keep s t) (x1 : CtxNo) (x2 : Nat) (x3 : BitVec 263168) (x4 : Nat) : Keep s (State.loadRescale t x1 x2 x3 x4).2 := by
  unfold State.loadRescale
  iterate 24 (all_goals try (first | with_reducible assumption | intro _ | with_reducible apply Keep.setRt | split | dsimp only | with_reducible apply Keep.lit | with_reducible rfl))

theorem Keep.putTask {s t : State} (h : Keep s t) (x1 : CtxNo) (x2 : Task) : Keep s (State.putTask t x1 x2) := by
  unfold State.putTask
  iterate 24 (all_goals try (first | with_reducible assumption | intro _ | with_reducible apply Keep.modCtx | split | dsimp only | with_reducible apply Keep.lit | with_reducible rfl))

theorem Keep.becomePartial {s t : State} (h : Keep s t) (x1 : CtxNo) (x2 : Task) (x3 : Unit) (x4 : Word) (x5 : Opnd) : Keep s (State.becomePartial t x1 x2 x3 x4 x5) := by
  unfold State.becomePartial
  iterate 24 (all_goals try (first | with_reducible assumption | intro _ | with_reducible apply Keep.issue | with_reducible apply Keep.openFor | with_reducible apply Keep.putArea | with_reducible apply Keep.putTask | with_reducible apply Keep.unpin | split | dsimp only | with_reducible apply Keep.lit | with_reducible rfl))

theorem Keep.beginTask {s t : State} (h : Keep s t) (x1 : CtxNo) : Keep s (State.beginTask t x1) := by
  unfold State.beginTask
  iterate 24 (all_goals try (first | with_reducible assumption | intro _ | with_reducible apply Keep.acquire | with_reducible apply Keep.finish | with_reducible apply Keep.issue | with_reducible apply Keep.modCtx | with_reducible apply Keep.openFor | with_reducible apply Keep.putArea | split | dsimp only | with_reducible apply Keep.lit | with_reducible rfl))

theorem Keep.captureUnit {s t : State} (h : Keep s t) (x1 : CtxNo) (x2 : Task) (x3 : Unit) (x4 : Word) (x5 : Opnd) (x6 : Option Opnd) : Keep s (State.captureUnit t x1 x2 x3 x4 x5 x6) := by
  unfold State.captureUnit
  iterate 24 (all_goals try (first | with_reducible assumption | intro _ | with_reducible apply Keep.countOob | with_reducible apply Keep.issue | with_reducible apply Keep.modSlot | with_reducible apply Keep.openFor | with_reducible apply Keep.putArea | with_reducible apply Keep.putTask | with_reducible apply Keep.unpin | with_reducible apply Keep.foldl | with_reducible apply Keep.foldl_fst | split | dsimp only | with_reducible apply Keep.lit | with_reducible rfl))

theorem Keep.capture {s t : State} (h : Keep s t) (x1 : CtxNo) : Keep s (State.capture t x1) := by
  unfold State.capture
  iterate 24 (all_goals try (first | with_reducible assumption | intro _ | with_reducible apply Keep.becomePartial | with_reducible apply Keep.captureUnit | with_reducible apply Keep.modCtx | with_reducible apply Keep.putTask | split | dsimp only | with_reducible apply Keep.lit | with_reducible rfl))

theorem Keep.commitTask {s t : State} (h : Keep s t) (x1 : CtxNo) (x2 : Task) (x3 : Word) : Keep s (State.commitTask t x1 x2 x3).2 := by
  unfold State.commitTask
  iterate 24 (all_goals try (first | with_reducible assumption | intro _ | with_reducible apply Keep.issue | with_reducible apply Keep.openFor | with_reducible apply Keep.putArea | with_reducible apply Keep.releaseTask | split | dsimp only))

theorem Keep.closeCommit {s t : State} (h : Keep s t) (x1 : CtxNo) (x2 : Nat) (x3 : Cmd) (x4 : Task) : Keep s (State.closeCommit t x1 x2 x3 x4) := by
  unfold State.closeCommit
  iterate 24 (all_goals try (first | with_reducible assumption | intro _ | with_reducible apply Keep.commitTask | with_reducible apply Keep.finish | split | dsimp only | with_reducible apply Keep.lit | with_reducible rfl))

theorem Keep.restoreUnit {s t : State} (h : Keep s t) (x1 : CtxNo) (x2 : Vector Word 8) (x3 : Opnd) (x4 : JEntry) : Keep s (State.restoreUnit x1 x2 x3 t x4) := by
  unfold State.restoreUnit
  iterate 24 (all_goals try (first | with_reducible assumption | intro _ | with_reducible apply Keep.modSlot | with_reducible apply Keep.putBits | with_reducible apply Keep.writeB | with_reducible apply Keep.foldl | with_reducible apply Keep.foldl_fst | split | dsimp only | with_reducible apply Keep.lit | with_reducible rfl))

theorem Keep.restoreTask {s t : State} (h : Keep s t) (x1 : CtxNo) (x2 : Task) (x3 : Vector Word 8) (x4 : Word) : Keep s (State.restoreTask t x1 x2 x3 x4).2.1 := by
  unfold State.restoreTask
  iterate 24 (all_goals try (first | with_reducible assumption | intro _ | with_reducible apply Keep.closeUnit | with_reducible apply Keep.issue | with_reducible apply Keep.modSlot | with_reducible apply Keep.openAll | with_reducible apply Keep.openFor | with_reducible apply Keep.openWrites | with_reducible apply Keep.putArea | with_reducible apply Keep.releaseTask | with_reducible apply Keep.restoreUnit | with_reducible apply Keep.foldl | with_reducible apply Keep.foldl_fst | split | dsimp only | with_reducible apply Keep.lit | with_reducible rfl))

theorem Keep.closeDiscard {s t : State} (h : Keep s t) (x1 : CtxNo) (x2 : Nat) (x3 : Cmd) (x4 : Task) : Keep s (State.closeDiscard t x1 x2 x3 x4) := by
  unfold State.closeDiscard
  iterate 24 (all_goals try (first | with_reducible assumption | intro _ | with_reducible apply Keep.finish | with_reducible apply Keep.restoreTask | split | dsimp only | with_reducible apply Keep.lit | with_reducible rfl))

theorem Keep.closeTask {s t : State} (h : Keep s t) (x1 : CtxNo) (x2 : Nat) (x3 : Cmd) (x4 : Bool) : Keep s (State.closeTask t x1 x2 x3 x4) := by
  unfold State.closeTask
  iterate 24 (all_goals try (first | with_reducible assumption | intro _ | with_reducible apply Keep.closeCommit | with_reducible apply Keep.closeDiscard | with_reducible apply Keep.event | with_reducible apply Keep.finish | with_reducible apply Keep.setPhase | split | dsimp only))

theorem Keep.closing {s t : State} (h : Keep s t) (x1 : CtxNo) (x2 : Nat) : Keep s (State.closing t x1 x2) := by
  unfold State.closing
  iterate 24 (all_goals try (first | with_reducible assumption | intro _ | with_reducible apply Keep.closeTask | with_reducible apply Keep.finish | split | dsimp only))

theorem Keep.earlyDiscard {s t : State} (h : Keep s t) (x1 : CtxNo) : Keep s (State.earlyDiscard t x1) := by
  unfold State.earlyDiscard
  iterate 24 (all_goals try (first | with_reducible assumption | intro _ | with_reducible apply Keep.event | with_reducible apply Keep.modCtx | with_reducible apply Keep.restoreTask | split | dsimp only | with_reducible apply Keep.lit | with_reducible rfl))

theorem Keep.guardValue {s t : State} (h : Keep s t) (x1 : CtxNo) (x2 : Task) (x3 : Guard) : Keep s (State.guardValue t x1 x2 x3) := by
  unfold State.guardValue
  iterate 24 (all_goals try (first | with_reducible assumption | intro _ | with_reducible apply Keep.countOob | with_reducible apply Keep.modCtx | split | dsimp only | with_reducible apply Keep.lit | with_reducible rfl))

theorem Keep.guardRead {s t : State} (h : Keep s t) (c : CtxNo) : Keep s (t.guardRead c) := by
  unfold State.guardRead
  split
  · exact h
  · split
    · exact h
    · split
      · exact h
      · dsimp only
        split
        · exact h.guardValue _ _ _
        · exact Keep.walks h (fun k => length_addWalk _ k)

theorem Keep.partOpen {s t : State} (h : Keep s t) (x1 : CtxNo) (x2 : SlicePart) : Keep s (State.partOpen t x1 x2).2 := by
  unfold State.partOpen
  iterate 24 (all_goals try (first | with_reducible assumption | intro _ | with_reducible apply Keep.firstOpen | with_reducible apply Keep.openAll | split | dsimp only))

theorem Keep.partAsks {s t : State} (h : Keep s t) (x1 : CtxNo) (x2 : SlicePart) : Keep s (State.partAsks x1 t x2) := by
  unfold State.partAsks
  iterate 24 (all_goals try (first | with_reducible assumption | intro _ | with_reducible apply Keep.partOpen | split | dsimp only))

theorem Keep.asking {s t : State} (h : Keep s t)  : Keep s (State.asking t) := by
  unfold State.asking
  iterate 24 (all_goals try (first | with_reducible assumption | intro _ | with_reducible apply Keep.firstOpen | with_reducible apply Keep.partAsks | with_reducible apply Keep.foldl | with_reducible apply Keep.foldl_fst | split | dsimp only))

theorem Keep.sliceBoundary {s t : State} (h : Keep s t)  : Keep s (State.sliceBoundary t) := by
  unfold State.sliceBoundary
  iterate 24 (all_goals try (first | with_reducible assumption | intro _ | with_reducible apply Keep.endSlice | with_reducible apply Keep.modCtx | split | dsimp only | with_reducible apply Keep.lit | with_reducible rfl))

theorem Keep.takeTemps {s t : State} (h : Keep s t) (x1 : Vector (BitVec 16) 16) : Keep s (State.takeTemps t x1) := by
  unfold State.takeTemps
  iterate 24 (all_goals try (first | with_reducible assumption | intro _ | with_reducible apply Keep.riskNote | split | dsimp only | with_reducible apply Keep.lit | with_reducible rfl))

theorem Keep.boundary {s t : State} (h : Keep s t) (x1 : Nat) (x2 : Bool) (x3 : Vector (BitVec 16) 16) : Keep s (State.boundary t x1 x2 x3) := by
  unfold State.boundary
  iterate 24 (all_goals try (first | with_reducible assumption | intro _ | with_reducible apply Keep.sliceBoundary | with_reducible apply Keep.takeMap | with_reducible apply Keep.takeTemps | with_reducible apply Keep.trainSend | with_reducible apply Keep.foldl | with_reducible apply Keep.foldl_fst | split | dsimp only | with_reducible apply Keep.lit | with_reducible rfl))

theorem Keep.eccCorrected {s t : State} (h : Keep s t) (unit : BitVec 4) (word : Nat) (bit : BitVec 8) :
    Keep s (t.eccCorrected unit word bit) := by
  unfold State.eccCorrected
  split
  · exact h
  · have h1 := h.logErr 0x01 1 unit none (BitVec.ofNat 64 word) (bit.setWidth 64)
    dsimp only
    generalize t.logErr 0x01 1 unit none (BitVec.ofNat 64 word) (bit.setWidth 64) = u at h1
    split
    · exact Keep.tlb h1 (fun k => Nat.le_trans (List.length_filter_le _ _) k)
    · split
      · exact Keep.riskNote (Keep.lit h1 rfl rfl rfl rfl) _
      · exact Keep.lit h1 rfl rfl rfl rfl

theorem Keep.eccLost {s t : State} (h : Keep s t) (x1 : BitVec 4) (x2 : Nat) (x3 : BitVec 8) : Keep s (State.eccLost t x1 x2 x3) := by
  unfold State.eccLost
  iterate 24 (all_goals try (first | with_reducible assumption | intro _ | with_reducible apply Keep.eccCorrected | with_reducible apply Keep.logErr | with_reducible apply Keep.modSlot | split | dsimp only | with_reducible apply Keep.lit | with_reducible rfl))

theorem Keep.ecc {s t : State} (h : Keep s t) (e : Ecc) : Keep s (State.ecc t e) := by
  unfold State.ecc
  iterate 24 (all_goals try (first | with_reducible assumption | intro _ | with_reducible apply Keep.eccCorrected | with_reducible apply Keep.eccLost | split | dsimp only))

theorem Keep.invalComplete {s t : State} (h : Keep s t) : Keep s t.invalComplete := by
  unfold State.invalComplete
  split
  · exact h
  · rename_i v rest hr
    split
    · exact h
    · refine Keep.queues h rfl rfl rfl rfl id (fun k => Nat.le_trans (List.length_filter_le _ _) k) id (fun k => ?_)
      rw [hr] at k
      exact Nat.le_trans (Nat.le_succ _) k

theorem Keep.keepInvalLo {s t : State} (h : Keep s t) (x1 : Word) : Keep s (State.keepInvalLo t x1) := by
  unfold State.keepInvalLo
  iterate 24 (all_goals try (first | with_reducible assumption | intro _ | split | dsimp only | with_reducible apply Keep.lit | with_reducible rfl))

theorem Keep.requestDone {s t : State} (h : Keep s t) (i : Nat) (e : Ecc) : Keep s (t.requestDone i e) := by
  unfold State.requestDone
  split
  · exact h
  · exact Keep.ecc (Keep.rowsDone (Keep.requests h (fun k => k.sublist (dropAt_sublist _ _)))) e

theorem Keep.ringFault {s t : State} (h : Keep s t) (x1 : CtxNo) (x2 : Nat) : Keep s (State.ringFault t x1 x2) := by
  unfold State.ringFault
  iterate 24 (all_goals try (first | with_reducible assumption | intro _ | with_reducible apply Keep.logErr | with_reducible apply Keep.modCtx | with_reducible apply Keep.stopCtx | split | dsimp only | with_reducible apply Keep.lit | with_reducible rfl))

theorem Keep.takeFault {s t : State} (h : Keep s t) (x1 : CtxNo) (x2 : FaultRec) : Keep s (State.takeFault t x1 x2) := by
  unfold State.takeFault
  iterate 24 (all_goals try (first | with_reducible assumption | intro _ | with_reducible apply Keep.modCtx | split | dsimp only | with_reducible apply Keep.lit | with_reducible rfl))

theorem Keep.walkBack {s t : State} (h : Keep s t) (x1 : Option Xlat) (x2 : WalkReq) : Keep s (State.walkBack x1 t x2) := by
  unfold State.walkBack
  iterate 24 (all_goals try (first | with_reducible assumption | intro _ | with_reducible apply Keep.prefetch | with_reducible apply Keep.ring | with_reducible apply Keep.ringFault | with_reducible apply Keep.takeFault | split | dsimp only | with_reducible apply Keep.lit | with_reducible rfl))

theorem Keep.walkDone {s t : State} (h : Keep s t) (page : Nat) (f : Option Xlat) : Keep s (t.walkDone page f) := by
  unfold State.walkDone
  dsimp only
  split
  · exact h
  · refine Keep.foldl (fun u w hu => hu.walkBack f w) _ ?_
    refine Keep.queues h rfl rfl rfl rfl id (fun k => ?_) (fun k => Nat.le_trans (List.length_filter_le _ _) k) id
    split
    · exact length_tlbFill _ _ _
    · exact Nat.le_trans (List.length_filter_le _ _) k

end Sys2Proof.Machine
end

