-- ==== Sys2Proof/Laws/Pieces.lean ====
section
/-! SUPPORT. The relation `Fr ks`: every piece of the state but those in `ks` is the same. Its laws for record updates and folds. -/

namespace Sys2Proof.Machine

/-- Every piece of the state that is not in `ks` is the same in `t` as in `s`. -/
structure Fr (ks : List Piece) (s t : State) : Prop where
  same : ∀ p, p ∉ ks → p.Same s t

theorem Fr.refl (ks : List Piece) (s : State) : Fr ks s s := ⟨by intro p _; cases p <;> rfl⟩

theorem Fr.mem_everyCtx (d : CtxNo) : Piece.ctx d ∈ everyCtx := List.mem_map.mpr ⟨d, List.mem_finRange d, rfl⟩

theorem Fr.setCtx {ks : List Piece} {s t : State} (h : Fr ks s t) (c : CtxNo) (x : Context) (k_ctx : Piece.ctx c ∈ ks := by apply_assumption) :
    Fr ks s (t.setCtx c x) := by
  refine ⟨fun p hp => ?_⟩
  have k := h.same p hp
  cases p
  case ctx d =>
    have hd : d ≠ c := fun e => hp (e ▸ k_ctx)
    exact (State.ctx_setCtx_other t hd x).trans k
  all_goals exact k

theorem Fr.modCtx {ks : List Piece} {s t : State} (h : Fr ks s t) (c : CtxNo) (f : Context → Context) (k_ctx : Piece.ctx c ∈ ks := by apply_assumption) :
    Fr ks s (t.modCtx c f) := h.setCtx c _ k_ctx

theorem Fr.foldl {ks : List Piece} {s : State} {α : Type} {f : State → α → State} (k : ∀ t a, Fr ks s t → Fr ks s (f t a)) (l : List α)
    {t : State} (h : Fr ks s t) : Fr ks s (l.foldl f t) := by
  induction l generalizing t with
  | nil => exact h
  | cons a r ih => exact ih (k t a h)

theorem Fr.foldl_fst {ks : List Piece} {s : State} {α β : Type} {f : State × β → α → State × β}
    (k : ∀ p a, Fr ks s p.1 → Fr ks s (f p a).1) (l : List α) {p : State × β} (h : Fr ks s p.1) : Fr ks s (l.foldl f p).1 := by
  induction l generalizing p with
  | nil => exact h
  | cons a r ih => exact ih (k p a h)

/-- A record update that leaves the contexts. -/
theorem Fr.lit
    {ks : List Piece} {s t : State} {x_free : Nat} {x_core : Memory} {x_remote : Memory} {x_evt : BitVec 4} {x_eng : Engine}
    {x_tick : Tick} {x_fmts : Vector Word 8} {x_rts : Vector RescaleTable 8} {x_prio : Vector (BitVec 16) 8}
    {x_prioNext : Option (Vector (BitVec 16) 8)} {x_schedLast : Vector (Fin 8) 8} {x_schedTurn : Vector Nat 8}
    {x_stallMap : Vector (BitVec 4) 16} {x_rampTab : BitVec 640} {x_rampNext : Option (BitVec 640)} {x_riskTab : BitVec 640}
    {x_regions : Tbl (BitVec 128)} {x_groups : Vector (BitVec 256) 16} {x_descs : List (Nat × Desc)}
    {x_descGen : Tbl (BitVec 6)} {x_slots : Vector Slot 48} {x_touch : List Touch} {x_lane : Lane}
    {x_staging : List (Nat × Nat)} {x_tlb : List TlbEntry} {x_walks : List WalkReq} {x_invals : List Inval}
    {x_invalReq : Word} {x_invalDone : Word} {x_reqs : List Req} {x_sent : List Sent} {x_waits : List Wait}
    {x_dovetail : List (CtxNo × Word)} {x_locks : List RowLock} {x_chains : Vector Chain 4} {x_chainOut : List ChainMsg}
    {x_port : Port} {x_ckpt : Ckpt} {x_risk : Risk} {x_log : ErrLog} {x_tel : Telemetry} {x_pow : Power} {x_bist : SelfTest}
    {x_sec : Security} {x_mgmt : Mgmt} {x_train : Vector Train 6}
    (h : Fr ks s t)
    (e_free : Piece.free ∈ ks ∨ x_free = t.free) (e_core : Piece.core ∈ ks ∨ x_core = t.core)
    (e_remote : Piece.remote ∈ ks ∨ x_remote = t.remote) (e_evt : Piece.evt ∈ ks ∨ x_evt = t.evt)
    (e_eng : Piece.eng ∈ ks ∨ x_eng = t.eng) (e_tick : Piece.tick ∈ ks ∨ x_tick = t.tick)
    (e_fmts : Piece.fmts ∈ ks ∨ x_fmts = t.fmts) (e_rts : Piece.rts ∈ ks ∨ x_rts = t.rts)
    (e_prio : Piece.prio ∈ ks ∨ x_prio = t.prio) (e_prioNext : Piece.prioNext ∈ ks ∨ x_prioNext = t.prioNext)
    (e_schedLast : Piece.schedLast ∈ ks ∨ x_schedLast = t.schedLast)
    (e_schedTurn : Piece.schedTurn ∈ ks ∨ x_schedTurn = t.schedTurn)
    (e_stallMap : Piece.stallMap ∈ ks ∨ x_stallMap = t.stallMap) (e_rampTab : Piece.rampTab ∈ ks ∨ x_rampTab = t.rampTab)
    (e_rampNext : Piece.rampNext ∈ ks ∨ x_rampNext = t.rampNext) (e_riskTab : Piece.riskTab ∈ ks ∨ x_riskTab = t.riskTab)
    (e_regions : Piece.regions ∈ ks ∨ x_regions = t.regions) (e_groups : Piece.groups ∈ ks ∨ x_groups = t.groups)
    (e_descs : Piece.descs ∈ ks ∨ x_descs = t.descs) (e_descGen : Piece.descGen ∈ ks ∨ x_descGen = t.descGen)
    (e_slots : Piece.slots ∈ ks ∨ x_slots = t.slots) (e_touch : Piece.touch ∈ ks ∨ x_touch = t.touch)
    (e_lane : Piece.lane ∈ ks ∨ x_lane = t.lane) (e_staging : Piece.staging ∈ ks ∨ x_staging = t.staging)
    (e_tlb : Piece.tlb ∈ ks ∨ x_tlb = t.tlb) (e_walks : Piece.walks ∈ ks ∨ x_walks = t.walks)
    (e_invals : Piece.invals ∈ ks ∨ x_invals = t.invals) (e_invalReq : Piece.invalReq ∈ ks ∨ x_invalReq = t.invalReq)
    (e_invalDone : Piece.invalDone ∈ ks ∨ x_invalDone = t.invalDone) (e_reqs : Piece.reqs ∈ ks ∨ x_reqs = t.reqs)
    (e_sent : Piece.sent ∈ ks ∨ x_sent = t.sent) (e_waits : Piece.waits ∈ ks ∨ x_waits = t.waits)
    (e_dovetail : Piece.dovetail ∈ ks ∨ x_dovetail = t.dovetail) (e_locks : Piece.locks ∈ ks ∨ x_locks = t.locks)
    (e_chains : Piece.chains ∈ ks ∨ x_chains = t.chains) (e_chainOut : Piece.chainOut ∈ ks ∨ x_chainOut = t.chainOut)
    (e_port : Piece.port ∈ ks ∨ x_port = t.port) (e_ckpt : Piece.ckpt ∈ ks ∨ x_ckpt = t.ckpt)
    (e_risk : Piece.risk ∈ ks ∨ x_risk = t.risk) (e_log : Piece.log ∈ ks ∨ x_log = t.log)
    (e_tel : Piece.tel ∈ ks ∨ x_tel = t.tel) (e_pow : Piece.pow ∈ ks ∨ x_pow = t.pow)
    (e_bist : Piece.bist ∈ ks ∨ x_bist = t.bist) (e_sec : Piece.sec ∈ ks ∨ x_sec = t.sec)
    (e_mgmt : Piece.mgmt ∈ ks ∨ x_mgmt = t.mgmt) (e_train : Piece.train ∈ ks ∨ x_train = t.train) :
    Fr ks s {
      pending := t.pending, now := t.now, free := x_free, core := x_core, remote := x_remote, evt := x_evt, eng := x_eng,
      tick := x_tick, ctxs := t.ctxs, fmts := x_fmts, rts := x_rts, prio := x_prio, prioNext := x_prioNext,
      schedLast := x_schedLast, schedTurn := x_schedTurn, stallMap := x_stallMap, rampTab := x_rampTab,
      rampNext := x_rampNext, riskTab := x_riskTab, regions := x_regions, groups := x_groups, descs := x_descs,
      descGen := x_descGen, slots := x_slots, touch := x_touch, lane := x_lane, staging := x_staging, tlb := x_tlb,
      walks := x_walks, invals := x_invals, invalReq := x_invalReq, invalDone := x_invalDone, reqs := x_reqs,
      sent := x_sent, waits := x_waits, dovetail := x_dovetail, locks := x_locks, chains := x_chains,
      chainOut := x_chainOut, port := x_port, ckpt := x_ckpt, risk := x_risk, log := x_log, tel := x_tel, pow := x_pow,
      bist := x_bist, sec := x_sec, mgmt := x_mgmt, train := x_train } := by
  refine ⟨fun p hp => ?_⟩
  have k := h.same p hp
  cases p
  case pending => exact k
  case now => exact k
  case free => exact (e_free.resolve_left hp).trans k
  case core => exact (e_core.resolve_left hp).trans k
  case remote => exact (e_remote.resolve_left hp).trans k
  case evt => exact (e_evt.resolve_left hp).trans k
  case eng => exact (e_eng.resolve_left hp).trans k
  case tick => exact (e_tick.resolve_left hp).trans k
  case ctx d => exact k
  case fmts => exact (e_fmts.resolve_left hp).trans k
  case rts => exact (e_rts.resolve_left hp).trans k
  case prio => exact (e_prio.resolve_left hp).trans k
  case prioNext => exact (e_prioNext.resolve_left hp).trans k
  case schedLast => exact (e_schedLast.resolve_left hp).trans k
  case schedTurn => exact (e_schedTurn.resolve_left hp).trans k
  case stallMap => exact (e_stallMap.resolve_left hp).trans k
  case rampTab => exact (e_rampTab.resolve_left hp).trans k
  case rampNext => exact (e_rampNext.resolve_left hp).trans k
  case riskTab => exact (e_riskTab.resolve_left hp).trans k
  case regions => exact (e_regions.resolve_left hp).trans k
  case groups => exact (e_groups.resolve_left hp).trans k
  case descs => exact (e_descs.resolve_left hp).trans k
  case descGen => exact (e_descGen.resolve_left hp).trans k
  case slots => exact (e_slots.resolve_left hp).trans k
  case touch => exact (e_touch.resolve_left hp).trans k
  case lane => exact (e_lane.resolve_left hp).trans k
  case staging => exact (e_staging.resolve_left hp).trans k
  case tlb => exact (e_tlb.resolve_left hp).trans k
  case walks => exact (e_walks.resolve_left hp).trans k
  case invals => exact (e_invals.resolve_left hp).trans k
  case invalReq => exact (e_invalReq.resolve_left hp).trans k
  case invalDone => exact (e_invalDone.resolve_left hp).trans k
  case reqs => exact (e_reqs.resolve_left hp).trans k
  case sent => exact (e_sent.resolve_left hp).trans k
  case waits => exact (e_waits.resolve_left hp).trans k
  case dovetail => exact (e_dovetail.resolve_left hp).trans k
  case locks => exact (e_locks.resolve_left hp).trans k
  case chains => exact (e_chains.resolve_left hp).trans k
  case chainOut => exact (e_chainOut.resolve_left hp).trans k
  case port => exact (e_port.resolve_left hp).trans k
  case ckpt => exact (e_ckpt.resolve_left hp).trans k
  case risk => exact (e_risk.resolve_left hp).trans k
  case log => exact (e_log.resolve_left hp).trans k
  case tel => exact (e_tel.resolve_left hp).trans k
  case pow => exact (e_pow.resolve_left hp).trans k
  case bist => exact (e_bist.resolve_left hp).trans k
  case sec => exact (e_sec.resolve_left hp).trans k
  case mgmt => exact (e_mgmt.resolve_left hp).trans k
  case train => exact (e_train.resolve_left hp).trans k

/-- A record update of the contexts too. -/
theorem Fr.litAll
    {ks : List Piece} {s t : State} {x_free : Nat} {x_core : Memory} {x_remote : Memory} {x_evt : BitVec 4} {x_eng : Engine}
    {x_tick : Tick} {x_ctxs : Vector Context 8} {x_fmts : Vector Word 8} {x_rts : Vector RescaleTable 8}
    {x_prio : Vector (BitVec 16) 8} {x_prioNext : Option (Vector (BitVec 16) 8)} {x_schedLast : Vector (Fin 8) 8}
    {x_schedTurn : Vector Nat 8} {x_stallMap : Vector (BitVec 4) 16} {x_rampTab : BitVec 640}
    {x_rampNext : Option (BitVec 640)} {x_riskTab : BitVec 640} {x_regions : Tbl (BitVec 128)}
    {x_groups : Vector (BitVec 256) 16} {x_descs : List (Nat × Desc)} {x_descGen : Tbl (BitVec 6)}
    {x_slots : Vector Slot 48} {x_touch : List Touch} {x_lane : Lane} {x_staging : List (Nat × Nat)} {x_tlb : List TlbEntry}
    {x_walks : List WalkReq} {x_invals : List Inval} {x_invalReq : Word} {x_invalDone : Word} {x_reqs : List Req}
    {x_sent : List Sent} {x_waits : List Wait} {x_dovetail : List (CtxNo × Word)} {x_locks : List RowLock}
    {x_chains : Vector Chain 4} {x_chainOut : List ChainMsg} {x_port : Port} {x_ckpt : Ckpt} {x_risk : Risk}
    {x_log : ErrLog} {x_tel : Telemetry} {x_pow : Power} {x_bist : SelfTest} {x_sec : Security} {x_mgmt : Mgmt}
    {x_train : Vector Train 6}
    (h : Fr ks s t)
    (k_all : ∀ d, Piece.ctx d ∈ ks) (e_free : Piece.free ∈ ks ∨ x_free = t.free)
    (e_core : Piece.core ∈ ks ∨ x_core = t.core) (e_remote : Piece.remote ∈ ks ∨ x_remote = t.remote)
    (e_evt : Piece.evt ∈ ks ∨ x_evt = t.evt) (e_eng : Piece.eng ∈ ks ∨ x_eng = t.eng)
    (e_tick : Piece.tick ∈ ks ∨ x_tick = t.tick) (e_fmts : Piece.fmts ∈ ks ∨ x_fmts = t.fmts)
    (e_rts : Piece.rts ∈ ks ∨ x_rts = t.rts) (e_prio : Piece.prio ∈ ks ∨ x_prio = t.prio)
    (e_prioNext : Piece.prioNext ∈ ks ∨ x_prioNext = t.prioNext)
    (e_schedLast : Piece.schedLast ∈ ks ∨ x_schedLast = t.schedLast)
    (e_schedTurn : Piece.schedTurn ∈ ks ∨ x_schedTurn = t.schedTurn)
    (e_stallMap : Piece.stallMap ∈ ks ∨ x_stallMap = t.stallMap) (e_rampTab : Piece.rampTab ∈ ks ∨ x_rampTab = t.rampTab)
    (e_rampNext : Piece.rampNext ∈ ks ∨ x_rampNext = t.rampNext) (e_riskTab : Piece.riskTab ∈ ks ∨ x_riskTab = t.riskTab)
    (e_regions : Piece.regions ∈ ks ∨ x_regions = t.regions) (e_groups : Piece.groups ∈ ks ∨ x_groups = t.groups)
    (e_descs : Piece.descs ∈ ks ∨ x_descs = t.descs) (e_descGen : Piece.descGen ∈ ks ∨ x_descGen = t.descGen)
    (e_slots : Piece.slots ∈ ks ∨ x_slots = t.slots) (e_touch : Piece.touch ∈ ks ∨ x_touch = t.touch)
    (e_lane : Piece.lane ∈ ks ∨ x_lane = t.lane) (e_staging : Piece.staging ∈ ks ∨ x_staging = t.staging)
    (e_tlb : Piece.tlb ∈ ks ∨ x_tlb = t.tlb) (e_walks : Piece.walks ∈ ks ∨ x_walks = t.walks)
    (e_invals : Piece.invals ∈ ks ∨ x_invals = t.invals) (e_invalReq : Piece.invalReq ∈ ks ∨ x_invalReq = t.invalReq)
    (e_invalDone : Piece.invalDone ∈ ks ∨ x_invalDone = t.invalDone) (e_reqs : Piece.reqs ∈ ks ∨ x_reqs = t.reqs)
    (e_sent : Piece.sent ∈ ks ∨ x_sent = t.sent) (e_waits : Piece.waits ∈ ks ∨ x_waits = t.waits)
    (e_dovetail : Piece.dovetail ∈ ks ∨ x_dovetail = t.dovetail) (e_locks : Piece.locks ∈ ks ∨ x_locks = t.locks)
    (e_chains : Piece.chains ∈ ks ∨ x_chains = t.chains) (e_chainOut : Piece.chainOut ∈ ks ∨ x_chainOut = t.chainOut)
    (e_port : Piece.port ∈ ks ∨ x_port = t.port) (e_ckpt : Piece.ckpt ∈ ks ∨ x_ckpt = t.ckpt)
    (e_risk : Piece.risk ∈ ks ∨ x_risk = t.risk) (e_log : Piece.log ∈ ks ∨ x_log = t.log)
    (e_tel : Piece.tel ∈ ks ∨ x_tel = t.tel) (e_pow : Piece.pow ∈ ks ∨ x_pow = t.pow)
    (e_bist : Piece.bist ∈ ks ∨ x_bist = t.bist) (e_sec : Piece.sec ∈ ks ∨ x_sec = t.sec)
    (e_mgmt : Piece.mgmt ∈ ks ∨ x_mgmt = t.mgmt) (e_train : Piece.train ∈ ks ∨ x_train = t.train) :
    Fr ks s {
      pending := t.pending, now := t.now, free := x_free, core := x_core, remote := x_remote, evt := x_evt, eng := x_eng,
      tick := x_tick, ctxs := x_ctxs, fmts := x_fmts, rts := x_rts, prio := x_prio, prioNext := x_prioNext,
      schedLast := x_schedLast, schedTurn := x_schedTurn, stallMap := x_stallMap, rampTab := x_rampTab,
      rampNext := x_rampNext, riskTab := x_riskTab, regions := x_regions, groups := x_groups, descs := x_descs,
      descGen := x_descGen, slots := x_slots, touch := x_touch, lane := x_lane, staging := x_staging, tlb := x_tlb,
      walks := x_walks, invals := x_invals, invalReq := x_invalReq, invalDone := x_invalDone, reqs := x_reqs,
      sent := x_sent, waits := x_waits, dovetail := x_dovetail, locks := x_locks, chains := x_chains,
      chainOut := x_chainOut, port := x_port, ckpt := x_ckpt, risk := x_risk, log := x_log, tel := x_tel, pow := x_pow,
      bist := x_bist, sec := x_sec, mgmt := x_mgmt, train := x_train } := by
  refine ⟨fun p hp => ?_⟩
  have k := h.same p hp
  cases p
  case pending => exact k
  case now => exact k
  case free => exact (e_free.resolve_left hp).trans k
  case core => exact (e_core.resolve_left hp).trans k
  case remote => exact (e_remote.resolve_left hp).trans k
  case evt => exact (e_evt.resolve_left hp).trans k
  case eng => exact (e_eng.resolve_left hp).trans k
  case tick => exact (e_tick.resolve_left hp).trans k
  case ctx d => exact absurd (k_all d) hp
  case fmts => exact (e_fmts.resolve_left hp).trans k
  case rts => exact (e_rts.resolve_left hp).trans k
  case prio => exact (e_prio.resolve_left hp).trans k
  case prioNext => exact (e_prioNext.resolve_left hp).trans k
  case schedLast => exact (e_schedLast.resolve_left hp).trans k
  case schedTurn => exact (e_schedTurn.resolve_left hp).trans k
  case stallMap => exact (e_stallMap.resolve_left hp).trans k
  case rampTab => exact (e_rampTab.resolve_left hp).trans k
  case rampNext => exact (e_rampNext.resolve_left hp).trans k
  case riskTab => exact (e_riskTab.resolve_left hp).trans k
  case regions => exact (e_regions.resolve_left hp).trans k
  case groups => exact (e_groups.resolve_left hp).trans k
  case descs => exact (e_descs.resolve_left hp).trans k
  case descGen => exact (e_descGen.resolve_left hp).trans k
  case slots => exact (e_slots.resolve_left hp).trans k
  case touch => exact (e_touch.resolve_left hp).trans k
  case lane => exact (e_lane.resolve_left hp).trans k
  case staging => exact (e_staging.resolve_left hp).trans k
  case tlb => exact (e_tlb.resolve_left hp).trans k
  case walks => exact (e_walks.resolve_left hp).trans k
  case invals => exact (e_invals.resolve_left hp).trans k
  case invalReq => exact (e_invalReq.resolve_left hp).trans k
  case invalDone => exact (e_invalDone.resolve_left hp).trans k
  case reqs => exact (e_reqs.resolve_left hp).trans k
  case sent => exact (e_sent.resolve_left hp).trans k
  case waits => exact (e_waits.resolve_left hp).trans k
  case dovetail => exact (e_dovetail.resolve_left hp).trans k
  case locks => exact (e_locks.resolve_left hp).trans k
  case chains => exact (e_chains.resolve_left hp).trans k
  case chainOut => exact (e_chainOut.resolve_left hp).trans k
  case port => exact (e_port.resolve_left hp).trans k
  case ckpt => exact (e_ckpt.resolve_left hp).trans k
  case risk => exact (e_risk.resolve_left hp).trans k
  case log => exact (e_log.resolve_left hp).trans k
  case tel => exact (e_tel.resolve_left hp).trans k
  case pow => exact (e_pow.resolve_left hp).trans k
  case bist => exact (e_bist.resolve_left hp).trans k
  case sec => exact (e_sec.resolve_left hp).trans k
  case mgmt => exact (e_mgmt.resolve_left hp).trans k
  case train => exact (e_train.resolve_left hp).trans k

end Sys2Proof.Machine
end

