-- ==== Sys2Proof/Laws/PieceOps.lean ====
section
/-! SUPPORT. `Fr` for the operations of every unit: the pieces of the state that each may change, as hypotheses; every other piece is
the same. One lemma for each operation over the state; a later proof cites it and never unfolds the operation. -/

-- One after another: checked at once, the proofs would ask for too much memory.
set_option Elab.async false

namespace Sys2Proof.Machine

theorem Fr.modPort {ks : List Piece} {s t : State} (h : Fr ks s t) (x1 : Port → Port)
    (k_port : Piece.port ∈ ks := by apply_assumption) :
    Fr ks s (State.modPort t x1) := by
  unfold State.modPort
  iterate 24 (all_goals try (first | with_reducible assumption | intro _ | with_reducible exact Or.inr rfl | (with_reducible refine Or.inl ?_; assumption) | split | dsimp only | with_reducible apply Fr.lit))

theorem Fr.forget {ks : List Piece} {s t : State} (h : Fr ks s t) (x1 : BitVec 12)
    (k_port : Piece.port ∈ ks := by apply_assumption) :
    Fr ks s (State.forget t x1) := by
  unfold State.forget
  iterate 24 (all_goals try (first | with_reducible assumption | intro _ | with_reducible exact Or.inr rfl | (with_reducible refine Or.inl ?_; assumption) | with_reducible apply Fr.modPort | split | dsimp only | with_reducible apply Fr.lit))

theorem Fr.modCh {ks : List Piece} {s t : State} (h : Fr ks s t) (x1 : Chan) (x2 : Channel → Channel)
    (k_port : Piece.port ∈ ks := by apply_assumption) :
    Fr ks s (State.modCh t x1 x2) := by
  unfold State.modCh
  iterate 24 (all_goals try (first | with_reducible assumption | intro _ | with_reducible exact Or.inr rfl | (with_reducible refine Or.inl ?_; assumption) | with_reducible apply Fr.modPort | split | dsimp only | with_reducible apply Fr.lit))

theorem Fr.allocCtx {ks : List Piece} {s t u : State} {k : Chan} {j : JobCtx} (e : t.allocCtx k j = some u)
    (h : Fr ks s t) (k_port : Piece.port ∈ ks := by apply_assumption) : Fr ks s u := by
  unfold State.allocCtx at e
  dsimp only at e
  split at e
  · cases e; exact h
  · split at e
    · cases e; exact h.modCh k _
    · split at e
      · cases e
      · cases e; exact (h.modCh k _).forget _

theorem Fr.allocAll {ks : List Piece} {s t u : State} {m : Cmd} {cs : List Chan} (e : t.allocAll m cs = some u)
    (h : Fr ks s t) (k_port : Piece.port ∈ ks := by apply_assumption) : Fr ks s u := by
  unfold State.allocAll at e
  dsimp only at e
  generalize t.freshCtx m.job (m.bit 176) (m.bit 177) (some (m.pkt.extractLsb' 192 16)) = j at e
  have key : ∀ (l : List Chan) (o : Option State), (∀ v, o = some v → Fr ks s v) →
      ∀ v, l.foldl (fun (t : Option State) k => t.bind (fun u => u.allocCtx k j)) o = some v → Fr ks s v := by
    intro l
    induction l with
    | nil => exact fun o ho v hv => ho v hv
    | cons a r ih =>
      intro o ho v hv
      refine ih _ (fun w hw => ?_) v hv
      cases o with
      | none => cases hw
      | some x => exact Fr.allocCtx (by simpa using hw) (ho x rfl)
  exact key cs (some t) (fun v hv => by cases hv; exact h) u e

theorem Fr.countOob {ks : List Piece} {s t : State} (h : Fr ks s t) (x1 : CtxNo) (x2 : Nat) (k_ctx : Piece.ctx x1 ∈ ks) :
    Fr ks s (State.countOob t x1 x2) := by
  unfold State.countOob
  iterate 24 (all_goals try (first | with_reducible assumption | intro _ | with_reducible exact Or.inr rfl | (with_reducible refine Or.inl ?_; assumption) | with_reducible apply Fr.modCtx | split | dsimp only | with_reducible apply Fr.lit))

theorem Fr.unpin {ks : List Piece} {s t : State} (h : Fr ks s t) (x1 : CtxNo) (k_ctx : Piece.ctx x1 ∈ ks) :
    Fr ks s (State.unpin t x1) := by
  unfold State.unpin
  iterate 24 (all_goals try (first | with_reducible assumption | intro _ | with_reducible exact Or.inr rfl | (with_reducible refine Or.inl ?_; assumption) | with_reducible apply Fr.modCtx | split | dsimp only | with_reducible apply Fr.lit))

theorem Fr.endUnit {ks : List Piece} {s t : State} (h : Fr ks s t) (x1 : CtxNo) (x2 : List Acc)
    (k_ctx : Piece.ctx x1 ∈ ks) (k_ckpt : Piece.ckpt ∈ ks) :
    Fr ks s (State.endUnit t x1 x2) := by
  unfold State.endUnit
  iterate 24 (all_goals try (first | with_reducible assumption | intro _ | with_reducible exact Or.inr rfl | (with_reducible refine Or.inl ?_; assumption) | with_reducible apply Fr.countOob | with_reducible apply Fr.modCtx | with_reducible apply Fr.unpin | with_reducible apply Fr.foldl | with_reducible apply Fr.foldl_fst | split | dsimp only | with_reducible apply Fr.lit))

theorem Fr.issue {ks : List Piece} {s t : State} (h : Fr ks s t) (x1 : CtxNo) (x2 : Word) (x3 : ReqUse) (x4 : List Acc)
    (k_reqs : Piece.reqs ∈ ks) (k_sent : Piece.sent ∈ ks) :
    Fr ks s (State.issue t x1 x2 x3 x4) := by
  unfold State.issue
  iterate 24 (all_goals try (first | with_reducible assumption | intro _ | with_reducible exact Or.inr rfl | (with_reducible refine Or.inl ?_; assumption) | with_reducible apply Fr.foldl | with_reducible apply Fr.foldl_fst | split | dsimp only | with_reducible apply Fr.lit))

theorem Fr.closeUnit {ks : List Piece} {s t : State} (h : Fr ks s t) (x1 : CtxNo) (x2 : Word) (x3 : List Acc)
    (k_ctx : Piece.ctx x1 ∈ ks := by apply_assumption) (k_reqs : Piece.reqs ∈ ks := by apply_assumption)
    (k_sent : Piece.sent ∈ ks := by apply_assumption) (k_ckpt : Piece.ckpt ∈ ks := by apply_assumption) :
    Fr ks s (State.closeUnit t x1 x2 x3) := by
  unfold State.closeUnit
  iterate 24 (all_goals try (first | with_reducible assumption | intro _ | with_reducible apply Fr.endUnit | with_reducible apply Fr.issue | split | dsimp only))

theorem Fr.setPhase {ks : List Piece} {s t : State} (h : Fr ks s t) (x1 : CtxNo) (x2 : Nat) (x3 : Phase)
    (k_ctx : Piece.ctx x1 ∈ ks := by apply_assumption) :
    Fr ks s (State.setPhase t x1 x2 x3) := by
  unfold State.setPhase
  iterate 24 (all_goals try (first | with_reducible assumption | intro _ | with_reducible exact Or.inr rfl | (with_reducible refine Or.inl ?_; assumption) | with_reducible apply Fr.modCtx | split | dsimp only | with_reducible apply Fr.lit))

theorem Fr.unwait {ks : List Piece} {s t : State} (h : Fr ks s t) (x1 : CtxNo) (x2 : Word) (k_waits : Piece.waits ∈ ks) :
    Fr ks s (State.unwait t x1 x2) := by
  unfold State.unwait
  iterate 24 (all_goals try (first | with_reducible assumption | intro _ | with_reducible exact Or.inr rfl | (with_reducible refine Or.inl ?_; assumption) | split | dsimp only | with_reducible apply Fr.lit))

theorem Fr.unwaitCmd {ks : List Piece} {s t : State} (h : Fr ks s t) (x1 : CtxNo) (x2 : Nat) (k_sent : Piece.sent ∈ ks)
    (k_waits : Piece.waits ∈ ks) :
    Fr ks s (State.unwaitCmd t x1 x2) := by
  unfold State.unwaitCmd
  iterate 24 (all_goals try (first | with_reducible assumption | intro _ | with_reducible exact Or.inr rfl | (with_reducible refine Or.inl ?_; assumption) | with_reducible apply Fr.unwait | split | dsimp only | with_reducible apply Fr.lit))

theorem Fr.finish {ks : List Piece} {s t : State} (h : Fr ks s t) (x1 : CtxNo) (x2 : Nat) (x3 : Reply)
    (k_ctx : Piece.ctx x1 ∈ ks := by apply_assumption) (k_sent : Piece.sent ∈ ks := by apply_assumption)
    (k_waits : Piece.waits ∈ ks := by apply_assumption) :
    Fr ks s (State.finish t x1 x2 x3) := by
  unfold State.finish
  iterate 24 (all_goals try (first | with_reducible assumption | intro _ | with_reducible apply Fr.setPhase | with_reducible apply Fr.unpin | with_reducible apply Fr.unwaitCmd | split | dsimp only))

theorem Fr.copiedFirst {ks : List Piece} {s t : State} (h : Fr ks s t) (x1 : CtxNo) (x2 : Word) (x3 : List Acc)
    (k_ctx : Piece.ctx x1 ∈ ks) :
    Fr ks s (State.copiedFirst t x1 x2 x3).2 := by
  unfold State.copiedFirst
  iterate 24 (all_goals try (first | with_reducible assumption | intro _ | with_reducible exact Or.inr rfl | (with_reducible refine Or.inl ?_; assumption) | with_reducible apply Fr.modCtx | split | dsimp only | with_reducible apply Fr.lit))

theorem Fr.pin {ks : List Piece} {s t : State} (h : Fr ks s t) (x1 : CtxNo) (x2 : List FaultRec)
    (k_ctx : Piece.ctx x1 ∈ ks) (k_tlb : Piece.tlb ∈ ks) :
    Fr ks s (State.pin t x1 x2) := by
  unfold State.pin
  iterate 24 (all_goals try (first | with_reducible assumption | intro _ | with_reducible exact Or.inr rfl | (with_reducible refine Or.inl ?_; assumption) | with_reducible apply Fr.modCtx | with_reducible apply Fr.foldl | with_reducible apply Fr.foldl_fst | split | dsimp only | with_reducible apply Fr.lit))

theorem Fr.acquire {ks : List Piece} {s t : State} (h : Fr ks s t) (x1 : CtxNo) (x2 : List FaultRec)
    (k_ctx : Piece.ctx x1 ∈ ks) (k_tlb : Piece.tlb ∈ ks) (k_walks : Piece.walks ∈ ks) :
    Fr ks s (State.acquire t x1 x2).2 := by
  unfold State.acquire
  iterate 24 (all_goals try (first | with_reducible assumption | intro _ | with_reducible exact Or.inr rfl | (with_reducible refine Or.inl ?_; assumption) | with_reducible apply Fr.pin | with_reducible apply Fr.foldl | with_reducible apply Fr.foldl_fst | split | dsimp only | with_reducible apply Fr.lit))

theorem Fr.await {ks : List Piece} {s t : State} (h : Fr ks s t) (x1 : Res) (x2 : Nat) (x3 : CtxNo) (x4 : Word)
    (k_waits : Piece.waits ∈ ks) :
    Fr ks s (State.await t x1 x2 x3 x4) := by
  unfold State.await
  iterate 24 (all_goals try (first | with_reducible assumption | intro _ | with_reducible exact Or.inr rfl | (with_reducible refine Or.inl ?_; assumption) | split | dsimp only | with_reducible apply Fr.lit))

theorem Fr.noteSent {ks : List Piece} {s t : State} (h : Fr ks s t) (x1 : CtxNo) (x2 : Word) (x3 : Acc × Nat)
    (k_sent : Piece.sent ∈ ks) :
    Fr ks s (State.noteSent x1 x2 t x3) := by
  unfold State.noteSent
  iterate 24 (all_goals try (first | with_reducible assumption | intro _ | with_reducible exact Or.inr rfl | (with_reducible refine Or.inl ?_; assumption) | split | dsimp only | with_reducible apply Fr.lit))

theorem Fr.takeSlots {ks : List Piece} {s t : State} (h : Fr ks s t) (x1 : CtxNo) (x2 : Word) (x3 : ReqUse)
    (x4 : List Acc) (k_reqs : Piece.reqs ∈ ks) (k_sent : Piece.sent ∈ ks) (k_waits : Piece.waits ∈ ks) :
    Fr ks s (State.takeSlots t x1 x2 x3 x4).2 := by
  unfold State.takeSlots
  iterate 24 (all_goals try (first | with_reducible assumption | intro _ | with_reducible exact Or.inr rfl | (with_reducible refine Or.inl ?_; assumption) | with_reducible apply Fr.await | with_reducible apply Fr.noteSent | with_reducible apply Fr.unwait | with_reducible apply Fr.foldl | with_reducible apply Fr.foldl_fst | split | dsimp only | with_reducible apply Fr.lit))

theorem Fr.openSome {ks : List Piece} {s t : State} (h : Fr ks s t) (x1 : CtxNo) (x2 : Word) (x3 : ReqUse) (x4 : List Acc)
    (x5 : List Acc) (k_ctx : Piece.ctx x1 ∈ ks) (k_tlb : Piece.tlb ∈ ks) (k_walks : Piece.walks ∈ ks)
    (k_reqs : Piece.reqs ∈ ks) (k_sent : Piece.sent ∈ ks) (k_waits : Piece.waits ∈ ks) :
    Fr ks s (State.openSome t x1 x2 x3 x4 x5).2 := by
  unfold State.openSome
  iterate 24 (all_goals try (first | with_reducible assumption | intro _ | with_reducible apply Fr.acquire | with_reducible apply Fr.takeSlots | split | dsimp only))

theorem Fr.openFor {ks : List Piece} {s t : State} (h : Fr ks s t) (x1 : CtxNo) (x2 : Word) (x3 : ReqUse) (x4 : List Acc)
    (k_ctx : Piece.ctx x1 ∈ ks) (k_tlb : Piece.tlb ∈ ks) (k_walks : Piece.walks ∈ ks) (k_reqs : Piece.reqs ∈ ks)
    (k_sent : Piece.sent ∈ ks) (k_waits : Piece.waits ∈ ks) :
    Fr ks s (State.openFor t x1 x2 x3 x4).2 := by
  unfold State.openFor
  iterate 24 (all_goals try (first | with_reducible assumption | intro _ | with_reducible apply Fr.openSome | split | dsimp only))

theorem Fr.openAll {ks : List Piece} {s t : State} (h : Fr ks s t) (x1 : CtxNo) (x2 : Word) (x3 : List Acc)
    (k_ctx : Piece.ctx x1 ∈ ks := by apply_assumption) (k_tlb : Piece.tlb ∈ ks := by apply_assumption)
    (k_walks : Piece.walks ∈ ks := by apply_assumption) (k_reqs : Piece.reqs ∈ ks := by apply_assumption)
    (k_sent : Piece.sent ∈ ks := by apply_assumption) (k_waits : Piece.waits ∈ ks := by apply_assumption) :
    Fr ks s (State.openAll t x1 x2 x3).2 := by
  unfold State.openAll
  iterate 24 (all_goals try (first | with_reducible assumption | intro _ | with_reducible apply Fr.openFor | split | dsimp only))

theorem Fr.openWrites {ks : List Piece} {s t : State} (h : Fr ks s t) (x1 : CtxNo) (x2 : Word) (x3 : List Acc)
    (k_ctx : Piece.ctx x1 ∈ ks := by apply_assumption) (k_tlb : Piece.tlb ∈ ks := by apply_assumption)
    (k_walks : Piece.walks ∈ ks := by apply_assumption) (k_reqs : Piece.reqs ∈ ks := by apply_assumption)
    (k_sent : Piece.sent ∈ ks := by apply_assumption) (k_waits : Piece.waits ∈ ks := by apply_assumption) :
    Fr ks s (State.openWrites t x1 x2 x3).2 := by
  unfold State.openWrites
  iterate 24 (all_goals try (first | with_reducible assumption | intro _ | with_reducible apply Fr.copiedFirst | with_reducible apply Fr.openAll | split | dsimp only))

theorem Fr.pokeAt {ks : List Piece} {s t : State} (h : Fr ks s t) (x1 : Bool × Nat) (x2 : Byte) (k_core : Piece.core ∈ ks)
    (k_remote : Piece.remote ∈ ks) :
    Fr ks s (State.pokeAt t x1 x2) := by
  unfold State.pokeAt
  iterate 24 (all_goals try (first | with_reducible assumption | intro _ | with_reducible exact Or.inr rfl | (with_reducible refine Or.inl ?_; assumption) | split | dsimp only | with_reducible apply Fr.lit))

theorem Fr.poke {ks : List Piece} {s t : State} (h : Fr ks s t) (x1 : CtxNo) (x2 : Nat) (x3 : Byte)
    (k_core : Piece.core ∈ ks := by apply_assumption) (k_remote : Piece.remote ∈ ks := by apply_assumption) :
    Fr ks s (State.poke t x1 x2 x3) := by
  unfold State.poke
  iterate 24 (all_goals try (first | with_reducible assumption | intro _ | with_reducible exact Or.inr rfl | (with_reducible refine Or.inl ?_; assumption) | with_reducible apply Fr.pokeAt | split | dsimp only | with_reducible apply Fr.lit))

theorem Fr.writeB {ks : List Piece} {s t : State} (h : Fr ks s t) (c : CtxNo) (bad : List (Nat × Nat)) (va : Nat)
    (l : List Byte) (k_core : Piece.core ∈ ks := by apply_assumption)
    (k_remote : Piece.remote ∈ ks := by apply_assumption) : Fr ks s (t.writeB c bad va l) := by
  induction l generalizing t va with
  | nil => exact h
  | cons b r ih =>
    simp only [State.writeB]
    split
    · exact ih h _
    · exact ih (h.poke c va b) _

theorem Fr.putArea {ks : List Piece} {s t : State} (h : Fr ks s t) (c : CtxNo) (bad : List (Nat × Nat)) (o : Opnd)
    (i : Nat) (l : List Byte) (k_core : Piece.core ∈ ks := by apply_assumption)
    (k_remote : Piece.remote ∈ ks := by apply_assumption) :
    Fr ks s (t.putArea c bad o i l) := by
  induction l generalizing t i with
  | nil => exact h
  | cons b r ih => exact ih (h.writeB c bad _ _) _

theorem Fr.digestRead {ks : List Piece} {s t : State} (h : Fr ks s t) (x1 : CtxNo) (k_core : Piece.core ∈ ks)
    (k_remote : Piece.remote ∈ ks) (k_ctx : Piece.ctx x1 ∈ ks) (k_tlb : Piece.tlb ∈ ks) (k_walks : Piece.walks ∈ ks)
    (k_reqs : Piece.reqs ∈ ks) (k_sent : Piece.sent ∈ ks) (k_waits : Piece.waits ∈ ks) (k_ckpt : Piece.ckpt ∈ ks) :
    Fr ks s (State.digestRead t x1) := by
  unfold State.digestRead
  iterate 24 (all_goals try (first | with_reducible assumption | intro _ | with_reducible exact Or.inr rfl | (with_reducible refine Or.inl ?_; assumption) | with_reducible apply Fr.closeUnit | with_reducible apply Fr.finish | with_reducible apply Fr.openWrites | with_reducible apply Fr.putArea | split | dsimp only | with_reducible apply Fr.lit))

theorem Fr.pokeN {ks : List Piece} {s t : State} (h : Fr ks s t) (c : CtxNo) (va : Nat) (l : List Byte)
    (k_core : Piece.core ∈ ks := by apply_assumption) (k_remote : Piece.remote ∈ ks := by apply_assumption) : Fr ks s
    (t.pokeN c va l) := by
  induction l generalizing t va with
  | nil => exact h
  | cons b r ih => exact ih (h.poke c va b) _

theorem Fr.postEntry {ks : List Piece} {s t : State} (h : Fr ks s t) (x1 : CtxNo) (x2 : BitVec 256)
    (k_core : Piece.core ∈ ks) (k_remote : Piece.remote ∈ ks) (k_ctx : Piece.ctx x1 ∈ ks) :
    Fr ks s (State.postEntry t x1 x2) := by
  unfold State.postEntry
  iterate 24 (all_goals try (first | with_reducible assumption | intro _ | with_reducible exact Or.inr rfl | (with_reducible refine Or.inl ?_; assumption) | with_reducible apply Fr.modCtx | with_reducible apply Fr.pokeN | split | dsimp only | with_reducible apply Fr.lit))

theorem Fr.pulse {ks : List Piece} {s t : State} (h : Fr ks s t) (x1 : Nat) (k_evt : Piece.evt ∈ ks) :
    Fr ks s (State.pulse t x1) := by
  unfold State.pulse
  iterate 24 (all_goals try (first | with_reducible assumption | intro _ | with_reducible exact Or.inr rfl | (with_reducible refine Or.inl ?_; assumption) | split | dsimp only | with_reducible apply Fr.lit))

theorem Fr.postEvent {ks : List Piece} {s t : State} (h : Fr ks s t) (x1 : CtxNo) (x2 : EventRec)
    (k_core : Piece.core ∈ ks) (k_remote : Piece.remote ∈ ks) (k_evt : Piece.evt ∈ ks) (k_ctx : Piece.ctx x1 ∈ ks) :
    Fr ks s (State.postEvent t x1 x2) := by
  unfold State.postEvent
  iterate 24 (all_goals try (first | with_reducible assumption | intro _ | with_reducible exact Or.inr rfl | (with_reducible refine Or.inl ?_; assumption) | with_reducible apply Fr.modCtx | with_reducible apply Fr.postEntry | with_reducible apply Fr.pulse | split | dsimp only | with_reducible apply Fr.lit))

theorem Fr.touchTlb {ks : List Piece} {s t : State} (h : Fr ks s t) (x1 : Nat) (k_tlb : Piece.tlb ∈ ks) :
    Fr ks s (State.touchTlb t x1) := by
  unfold State.touchTlb
  iterate 24 (all_goals try (first | with_reducible assumption | intro _ | with_reducible exact Or.inr rfl | (with_reducible refine Or.inl ?_; assumption) | split | dsimp only | with_reducible apply Fr.lit))

theorem Fr.ringReady {ks : List Piece} {s t : State} (h : Fr ks s t) (x1 : CtxNo) (x2 : Nat) (x3 : Bool)
    (k_tlb : Piece.tlb ∈ ks) (k_walks : Piece.walks ∈ ks) :
    Fr ks s (State.ringReady t x1 x2 x3).2 := by
  unfold State.ringReady
  iterate 24 (all_goals try (first | with_reducible assumption | intro _ | with_reducible exact Or.inr rfl | (with_reducible refine Or.inl ?_; assumption) | with_reducible apply Fr.touchTlb | split | dsimp only | with_reducible apply Fr.lit))

theorem Fr.takeEntry {ks : List Piece} {s t : State} (h : Fr ks s t) (x1 : CtxNo) (x2 : EventRec)
    (k_core : Piece.core ∈ ks) (k_remote : Piece.remote ∈ ks) (k_evt : Piece.evt ∈ ks) (k_ctx : Piece.ctx x1 ∈ ks)
    (k_tlb : Piece.tlb ∈ ks) (k_walks : Piece.walks ∈ ks) :
    Fr ks s (State.takeEntry t x1 x2) := by
  unfold State.takeEntry
  iterate 24 (all_goals try (first | with_reducible assumption | intro _ | with_reducible exact Or.inr rfl | (with_reducible refine Or.inl ?_; assumption) | with_reducible apply Fr.modCtx | with_reducible apply Fr.postEvent | with_reducible apply Fr.ringReady | split | dsimp only | with_reducible apply Fr.lit))

theorem Fr.event {ks : List Piece} {s t : State} (h : Fr ks s t) (x1 : CtxNo) (x2 : Byte) (x3 : BitVec 128)
    (k_core : Piece.core ∈ ks) (k_remote : Piece.remote ∈ ks) (k_evt : Piece.evt ∈ ks) (k_ctx : Piece.ctx x1 ∈ ks)
    (k_tlb : Piece.tlb ∈ ks) (k_walks : Piece.walks ∈ ks) :
    Fr ks s (State.event t x1 x2 x3) := by
  unfold State.event
  iterate 24 (all_goals try (first | with_reducible assumption | intro _ | with_reducible exact Or.inr rfl | (with_reducible refine Or.inl ?_; assumption) | with_reducible apply Fr.modCtx | with_reducible apply Fr.takeEntry | split | dsimp only | with_reducible apply Fr.lit))

theorem Fr.modJob {ks : List Piece} {s t : State} (h : Fr ks s t) (x1 : BitVec 12) (x2 : Job → Job)
    (k_port : Piece.port ∈ ks) :
    Fr ks s (State.modJob t x1 x2) := by
  unfold State.modJob
  iterate 24 (all_goals try (first | with_reducible assumption | intro _ | with_reducible exact Or.inr rfl | (with_reducible refine Or.inl ?_; assumption) | with_reducible apply Fr.modPort | split | dsimp only | with_reducible apply Fr.lit))

theorem Fr.issueJob {ks : List Piece} {s t : State} (h : Fr ks s t) (x1 : CtxNo) (x2 : Cmd) (k_core : Piece.core ∈ ks)
    (k_remote : Piece.remote ∈ ks) (k_evt : Piece.evt ∈ ks) (k_ctx : Piece.ctx x1 ∈ ks) (k_tlb : Piece.tlb ∈ ks)
    (k_walks : Piece.walks ∈ ks) (k_port : Piece.port ∈ ks) :
    Fr ks s (State.issueJob t x1 x2) := by
  unfold State.issueJob
  iterate 24 (all_goals try (first | with_reducible assumption | intro _ | with_reducible exact Or.inr rfl | (with_reducible refine Or.inl ?_; assumption) | with_reducible apply Fr.event | with_reducible apply Fr.modJob | split | dsimp only | with_reducible apply Fr.lit))

theorem Fr.expect {ks : List Piece} {s t : State} (h : Fr ks s t) (x1 : BitVec 12) (x2 : Nat) (x3 : List Nat)
    (k_port : Piece.port ∈ ks := by apply_assumption) :
    Fr ks s (State.expect t x1 x2 x3) := by
  unfold State.expect
  iterate 24 (all_goals try (first | with_reducible assumption | intro _ | with_reducible exact Or.inr rfl | (with_reducible refine Or.inl ?_; assumption) | with_reducible apply Fr.modPort | split | dsimp only | with_reducible apply Fr.lit))

theorem Fr.modInput {ks : List Piece} {s t : State} (h : Fr ks s t) (x1 : BitVec 12) (x2 : Nat) (x3 : Nat)
    (x4 : Input → Input) (k_port : Piece.port ∈ ks := by apply_assumption) :
    Fr ks s (State.modInput t x1 x2 x3 x4) := by
  unfold State.modInput
  iterate 24 (all_goals try (first | with_reducible assumption | intro _ | with_reducible exact Or.inr rfl | (with_reducible refine Or.inl ?_; assumption) | with_reducible apply Fr.modPort | split | dsimp only | with_reducible apply Fr.lit))

theorem Fr.ringNote {ks : List Piece} {s t : State} (h : Fr ks s t) (x1 : BitVec 12) (x2 : Nat) (x3 : Input → Input)
    (k_port : Piece.port ∈ ks := by apply_assumption) :
    Fr ks s (State.ringNote t x1 x2 x3) := by
  unfold State.ringNote
  iterate 24 (all_goals try (first | with_reducible assumption | intro _ | with_reducible exact Or.inr rfl | (with_reducible refine Or.inl ?_; assumption) | with_reducible apply Fr.modInput | split | dsimp only | with_reducible apply Fr.lit))

theorem Fr.openBucket {ks : List Piece} {s t : State} (h : Fr ks s t) (x1 : Cmd) (x2 : Opnd) (k_port : Piece.port ∈ ks) :
    Fr ks s (State.openBucket t x1 x2) := by
  unfold State.openBucket
  iterate 24 (all_goals try (first | with_reducible assumption | intro _ | with_reducible exact Or.inr rfl | (with_reducible refine Or.inl ?_; assumption) | with_reducible apply Fr.expect | with_reducible apply Fr.modJob | with_reducible apply Fr.modPort | with_reducible apply Fr.ringNote | split | dsimp only | with_reducible apply Fr.lit))

theorem Fr.freeBuffer {ks : List Piece} {s t : State} (h : Fr ks s t) (x1 : Chan) (x2 : BitVec 12)
    (k_port : Piece.port ∈ ks) :
    Fr ks s (State.freeBuffer t x1 x2) := by
  unfold State.freeBuffer
  iterate 24 (all_goals try (first | with_reducible assumption | intro _ | with_reducible exact Or.inr rfl | (with_reducible refine Or.inl ?_; assumption) | with_reducible apply Fr.modPort | split | dsimp only | with_reducible apply Fr.lit))

theorem Fr.keepRx {ks : List Piece} {s t : State} (h : Fr ks s t) (x1 : Chan) (x2 : Packet) (k_port : Piece.port ∈ ks) :
    Fr ks s (State.keepRx t x1 x2) := by
  unfold State.keepRx
  iterate 24 (all_goals try (first | with_reducible assumption | intro _ | with_reducible exact Or.inr rfl | (with_reducible refine Or.inl ?_; assumption) | with_reducible apply Fr.modCh | split | dsimp only | with_reducible apply Fr.lit))

theorem Fr.lateDrop {ks : List Piece} {s t : State} (h : Fr ks s t) (x1 : Chan) (k_port : Piece.port ∈ ks) :
    Fr ks s (State.lateDrop t x1) := by
  unfold State.lateDrop
  iterate 24 (all_goals try (first | with_reducible assumption | intro _ | with_reducible exact Or.inr rfl | (with_reducible refine Or.inl ?_; assumption) | with_reducible apply Fr.modCh | split | dsimp only | with_reducible apply Fr.lit))

theorem Fr.dropRx {ks : List Piece} {s t : State} (h : Fr ks s t) (x1 : Chan) (x2 : Packet)
    (k_port : Piece.port ∈ ks := by apply_assumption) :
    Fr ks s (State.dropRx t x1 x2) := by
  unfold State.dropRx
  iterate 24 (all_goals try (first | with_reducible assumption | intro _ | with_reducible exact Or.inr rfl | (with_reducible refine Or.inl ?_; assumption) | with_reducible apply Fr.freeBuffer | with_reducible apply Fr.modCh | split | dsimp only | with_reducible apply Fr.lit))

theorem Fr.dropJob {ks : List Piece} {s t : State} (h : Fr ks s t) (x1 : BitVec 12) (k_port : Piece.port ∈ ks) :
    Fr ks s (State.dropJob t x1) := by
  unfold State.dropJob
  iterate 24 (all_goals try (first | with_reducible assumption | intro _ | with_reducible exact Or.inr rfl | (with_reducible refine Or.inl ?_; assumption) | with_reducible apply Fr.dropRx | with_reducible apply Fr.freeBuffer | with_reducible apply Fr.modPort | with_reducible apply Fr.foldl | with_reducible apply Fr.foldl_fst | split | dsimp only | with_reducible apply Fr.lit))

theorem Fr.failCmds {ks : List Piece} {s t : State} (h : Fr ks s t) (x1 : BitVec 12) (k_all : ∀ d, Piece.ctx d ∈ ks)
    (k_sent : Piece.sent ∈ ks) (k_waits : Piece.waits ∈ ks) :
    Fr ks s (State.failCmds t x1) := by
  unfold State.failCmds
  iterate 24 (all_goals try (first | with_reducible assumption | intro _ | with_reducible exact Or.inr rfl | (with_reducible refine Or.inl ?_; assumption) | with_reducible apply Fr.finish | with_reducible apply Fr.foldl | with_reducible apply Fr.foldl_fst | split | dsimp only | with_reducible exact k_all _ | with_reducible apply Fr.lit | with_reducible apply Fr.litAll))

theorem Fr.reduceRecord {ks : List Piece} {s t : State} (h : Fr ks s t) (x1 : BitVec 12) (x2 : BitVec 128)
    (k_core : Piece.core ∈ ks) (k_remote : Piece.remote ∈ ks) (k_evt : Piece.evt ∈ ks) (k_all : ∀ d, Piece.ctx d ∈ ks)
    (k_tlb : Piece.tlb ∈ ks) (k_walks : Piece.walks ∈ ks) (k_port : Piece.port ∈ ks) :
    Fr ks s (State.reduceRecord t x1 x2) := by
  unfold State.reduceRecord
  iterate 24 (all_goals try (first | with_reducible assumption | intro _ | with_reducible exact Or.inr rfl | (with_reducible refine Or.inl ?_; assumption) | with_reducible apply Fr.event | with_reducible apply Fr.modJob | split | dsimp only | with_reducible exact k_all _ | with_reducible apply Fr.lit | with_reducible apply Fr.litAll))

theorem Fr.failJob {ks : List Piece} {s t : State} (h : Fr ks s t) (x1 : BitVec 12) (x2 : Nat) (x3 : Nat)
    (x4 : Option Chan) (x5 : Nat) (x6 : Nat) (x7 : Nat) (x8 : Nat) (x9 : Nat)
    (k_core : Piece.core ∈ ks := by apply_assumption) (k_remote : Piece.remote ∈ ks := by apply_assumption)
    (k_evt : Piece.evt ∈ ks := by apply_assumption) (k_all : ∀ d, Piece.ctx d ∈ ks := by apply_assumption)
    (k_tlb : Piece.tlb ∈ ks := by apply_assumption) (k_walks : Piece.walks ∈ ks := by apply_assumption)
    (k_sent : Piece.sent ∈ ks := by apply_assumption) (k_waits : Piece.waits ∈ ks := by apply_assumption)
    (k_port : Piece.port ∈ ks := by apply_assumption) :
    Fr ks s (State.failJob t x1 x2 x3 x4 x5 x6 x7 x8 x9) := by
  unfold State.failJob
  iterate 24 (all_goals try (first | with_reducible assumption | intro _ | with_reducible exact Or.inr rfl | (with_reducible refine Or.inl ?_; assumption) | with_reducible apply Fr.dropJob | with_reducible apply Fr.failCmds | with_reducible apply Fr.modJob | with_reducible apply Fr.modPort | with_reducible apply Fr.reduceRecord | split | dsimp only | with_reducible exact k_all _ | with_reducible apply Fr.lit | with_reducible apply Fr.litAll))

theorem Fr.mismatch {ks : List Piece} {s t : State} (h : Fr ks s t) (x1 : Chan) (x2 : Packet)
    (k_core : Piece.core ∈ ks := by apply_assumption) (k_remote : Piece.remote ∈ ks := by apply_assumption)
    (k_evt : Piece.evt ∈ ks := by apply_assumption) (k_all : ∀ d, Piece.ctx d ∈ ks := by apply_assumption)
    (k_tlb : Piece.tlb ∈ ks := by apply_assumption) (k_walks : Piece.walks ∈ ks := by apply_assumption)
    (k_sent : Piece.sent ∈ ks := by apply_assumption) (k_waits : Piece.waits ∈ ks := by apply_assumption)
    (k_port : Piece.port ∈ ks := by apply_assumption) :
    Fr ks s (State.mismatch t x1 x2) := by
  unfold State.mismatch
  iterate 24 (all_goals try (first | with_reducible assumption | intro _ | with_reducible apply Fr.failJob | split | dsimp only | with_reducible exact k_all _))

theorem Fr.arriveBackup {ks : List Piece} {s t : State} (h : Fr ks s t) (x1 : Group) (x2 : Packet)
    (k_core : Piece.core ∈ ks) (k_remote : Piece.remote ∈ ks) (k_evt : Piece.evt ∈ ks) (k_all : ∀ d, Piece.ctx d ∈ ks)
    (k_tlb : Piece.tlb ∈ ks) (k_walks : Piece.walks ∈ ks) (k_sent : Piece.sent ∈ ks) (k_waits : Piece.waits ∈ ks)
    (k_port : Piece.port ∈ ks) :
    Fr ks s (State.arriveBackup t x1 x2) := by
  unfold State.arriveBackup
  iterate 24 (all_goals try (first | with_reducible assumption | intro _ | with_reducible exact Or.inr rfl | (with_reducible refine Or.inl ?_; assumption) | with_reducible apply Fr.freeBuffer | with_reducible apply Fr.keepRx | with_reducible apply Fr.lateDrop | with_reducible apply Fr.mismatch | with_reducible apply Fr.modCh | with_reducible apply Fr.modInput | split | dsimp only | with_reducible exact k_all _ | with_reducible apply Fr.lit | with_reducible apply Fr.litAll))

theorem Fr.arriveData {ks : List Piece} {s t : State} (h : Fr ks s t) (x1 : Chan) (x2 : Group) (x3 : Packet)
    (k_core : Piece.core ∈ ks) (k_remote : Piece.remote ∈ ks) (k_evt : Piece.evt ∈ ks) (k_all : ∀ d, Piece.ctx d ∈ ks)
    (k_tlb : Piece.tlb ∈ ks) (k_walks : Piece.walks ∈ ks) (k_sent : Piece.sent ∈ ks) (k_waits : Piece.waits ∈ ks)
    (k_port : Piece.port ∈ ks) :
    Fr ks s (State.arriveData t x1 x2 x3) := by
  unfold State.arriveData
  iterate 24 (all_goals try (first | with_reducible assumption | intro _ | with_reducible exact Or.inr rfl | (with_reducible refine Or.inl ?_; assumption) | with_reducible apply Fr.expect | with_reducible apply Fr.freeBuffer | with_reducible apply Fr.keepRx | with_reducible apply Fr.lateDrop | with_reducible apply Fr.mismatch | with_reducible apply Fr.modInput | split | dsimp only | with_reducible exact k_all _ | with_reducible apply Fr.lit | with_reducible apply Fr.litAll))

theorem Fr.arriveResult {ks : List Piece} {s t : State} (h : Fr ks s t) (x1 : Chan) (x2 : Group) (x3 : Packet)
    (k_core : Piece.core ∈ ks) (k_remote : Piece.remote ∈ ks) (k_evt : Piece.evt ∈ ks) (k_all : ∀ d, Piece.ctx d ∈ ks)
    (k_tlb : Piece.tlb ∈ ks) (k_walks : Piece.walks ∈ ks) (k_sent : Piece.sent ∈ ks) (k_waits : Piece.waits ∈ ks)
    (k_port : Piece.port ∈ ks) :
    Fr ks s (State.arriveResult t x1 x2 x3) := by
  unfold State.arriveResult
  iterate 24 (all_goals try (first | with_reducible assumption | intro _ | with_reducible exact Or.inr rfl | (with_reducible refine Or.inl ?_; assumption) | with_reducible apply Fr.freeBuffer | with_reducible apply Fr.mismatch | with_reducible apply Fr.modPort | with_reducible apply Fr.ringNote | split | dsimp only | with_reducible exact k_all _ | with_reducible apply Fr.lit | with_reducible apply Fr.litAll))

theorem Fr.arrive {ks : List Piece} {s t : State} (h : Fr ks s t) (x1 : Chan) (x2 : Packet) (x3 : JobCtx)
    (k_core : Piece.core ∈ ks) (k_remote : Piece.remote ∈ ks) (k_evt : Piece.evt ∈ ks) (k_all : ∀ d, Piece.ctx d ∈ ks)
    (k_tlb : Piece.tlb ∈ ks) (k_walks : Piece.walks ∈ ks) (k_sent : Piece.sent ∈ ks) (k_waits : Piece.waits ∈ ks)
    (k_port : Piece.port ∈ ks) :
    Fr ks s (State.arrive t x1 x2 x3) := by
  unfold State.arrive
  iterate 24 (all_goals try (first | with_reducible assumption | intro _ | with_reducible exact Or.inr rfl | (with_reducible refine Or.inl ?_; assumption) | with_reducible apply Fr.arriveBackup | with_reducible apply Fr.arriveData | with_reducible apply Fr.arriveResult | with_reducible apply Fr.failJob | with_reducible apply Fr.freeBuffer | with_reducible apply Fr.mismatch | with_reducible apply Fr.modCh | split | dsimp only | with_reducible exact k_all _ | with_reducible apply Fr.lit | with_reducible apply Fr.litAll))

theorem Fr.acceptHead {ks : List Piece} {s t : State} (h : Fr ks s t) (x1 : Chan) (k_core : Piece.core ∈ ks)
    (k_remote : Piece.remote ∈ ks) (k_evt : Piece.evt ∈ ks) (k_all : ∀ d, Piece.ctx d ∈ ks) (k_tlb : Piece.tlb ∈ ks)
    (k_walks : Piece.walks ∈ ks) (k_sent : Piece.sent ∈ ks) (k_waits : Piece.waits ∈ ks) (k_port : Piece.port ∈ ks) :
    Fr ks s (State.acceptHead t x1) := by
  unfold State.acceptHead
  iterate 24 (all_goals try (first | with_reducible assumption | intro _ | with_reducible exact Or.inr rfl | (with_reducible refine Or.inl ?_; assumption) | with_reducible apply Fr.arrive | with_reducible apply Fr.modCh | with_reducible apply Fr.modJob | (refine Fr.allocCtx (by assumption) ?_) | split | dsimp only | with_reducible exact k_all _ | with_reducible apply Fr.lit | with_reducible apply Fr.litAll))

theorem Fr.finishPartials {ks : List Piece} {s t : State} (h : Fr ks s t)  (k_port : Piece.port ∈ ks) :
    Fr ks s (State.finishPartials t) := by
  unfold State.finishPartials
  iterate 24 (all_goals try (first | with_reducible assumption | intro _ | with_reducible exact Or.inr rfl | (with_reducible refine Or.inl ?_; assumption) | with_reducible apply Fr.modPort | split | dsimp only | with_reducible apply Fr.lit))

theorem Fr.trySend {ks : List Piece} {s t u : State} {k : Chan} {p : Packet} (e : t.trySend k p = some u) (h : Fr ks s t)
    (k_port : Piece.port ∈ ks := by apply_assumption) : Fr ks s u := by
  unfold State.trySend at e
  split at e
  · cases e
  · split at e
    · cases e
    · rename_i s1 h1
      split at e
      · cases e
      · cases e
        exact ((h.allocCtx h1).modCh k _).modPort _

theorem Fr.forwardOn {ks : List Piece} {s : State} {a : State × List (Chan × BitVec 12) × Held} (h : Fr ks s a.1)
    (k : Chan) (k_port : Piece.port ∈ ks := by apply_assumption) :
    Fr ks s (State.forwardOn a k).1 := by
  unfold State.forwardOn
  dsimp only
  split
  · exact h
  · split
    · exact h
    · split
      · exact h
      · rename_i e
        dsimp only
        split
        · exact (Fr.trySend e h).modInput _ _ _ _
        · exact Fr.trySend e h

theorem Fr.forwardHeld {ks : List Piece} {s : State} {a : State × List (Chan × BitVec 12) × List Held} (h : Fr ks s a.1)
    (x : Held) (k_port : Piece.port ∈ ks := by apply_assumption) :
    Fr ks s (State.forwardHeld a x).1 := by
  unfold State.forwardHeld
  split
  · exact h
  · exact Fr.foldl_fst (fun p k hp => hp.forwardOn k) _ h

theorem Fr.forward {ks : List Piece} {s t : State} (h : Fr ks s t)  (k_port : Piece.port ∈ ks) :
    Fr ks s (State.forward t) := by
  unfold State.forward
  iterate 24 (all_goals try (first | with_reducible assumption | intro _ | with_reducible exact Or.inr rfl | (with_reducible refine Or.inl ?_; assumption) | with_reducible apply Fr.forwardHeld | with_reducible apply Fr.freeBuffer | with_reducible apply Fr.modPort | with_reducible apply Fr.foldl | with_reducible apply Fr.foldl_fst | split | dsimp only | with_reducible apply Fr.lit))

theorem Fr.refreshJobs {ks : List Piece} {s t : State} (h : Fr ks s t)  (k_port : Piece.port ∈ ks) :
    Fr ks s (State.refreshJobs t) := by
  unfold State.refreshJobs
  iterate 24 (all_goals try (first | with_reducible assumption | intro _ | with_reducible exact Or.inr rfl | (with_reducible refine Or.inl ?_; assumption) | with_reducible apply Fr.modPort | split | dsimp only | with_reducible apply Fr.lit))

theorem Fr.sendAborts {ks : List Piece} {s t : State} (h : Fr ks s t)  (k_port : Piece.port ∈ ks) :
    Fr ks s (State.sendAborts t) := by
  unfold State.sendAborts
  iterate 24 (all_goals try (first | with_reducible assumption | intro _ | with_reducible exact Or.inr rfl | (with_reducible refine Or.inl ?_; assumption) | with_reducible apply Fr.modPort | with_reducible apply Fr.foldl | with_reducible apply Fr.foldl_fst | (refine Fr.trySend (by assumption) ?_) | split | dsimp only | with_reducible apply Fr.lit))

theorem Fr.nodeTake {ks : List Piece} {s t u : State} {k : Nat} {p : Packet} {b : Bool} (e : t.nodeTake k p b = .done u)
    (h : Fr ks s t) (k_port : Piece.port ∈ ks := by apply_assumption) : Fr ks s u := by
  unfold State.nodeTake at e
  dsimp only at e
  split at e
  · split at e
    · cases e
    · cases e; exact (h.modPort _).modInput _ _ _ _
  · split at e
    · cases e
    · cases e; exact (h.modPort _).modInput _ _ _ _

theorem Fr.supply {ks : List Piece} {s t : State} (h : Fr ks s t) (x1 : Input) (k_core : Piece.core ∈ ks)
    (k_remote : Piece.remote ∈ ks) (k_evt : Piece.evt ∈ ks) (k_all : ∀ d, Piece.ctx d ∈ ks) (k_tlb : Piece.tlb ∈ ks)
    (k_walks : Piece.walks ∈ ks) (k_sent : Piece.sent ∈ ks) (k_waits : Piece.waits ∈ ks) (k_port : Piece.port ∈ ks) :
    Fr ks s (State.supply t x1) := by
  unfold State.supply
  iterate 24 (all_goals try (first | with_reducible assumption | intro _ | with_reducible exact Or.inr rfl | (with_reducible refine Or.inl ?_; assumption) | with_reducible apply Fr.dropRx | with_reducible apply Fr.mismatch | with_reducible apply Fr.modInput | (refine Fr.nodeTake (by assumption) ?_) | split | dsimp only | with_reducible exact k_all _ | with_reducible apply Fr.lit | with_reducible apply Fr.litAll))

theorem Fr.dropBackups {ks : List Piece} {s t : State} (h : Fr ks s t) (x1 : BitVec 12) (x2 : Nat) (x3 : Nat) (x4 : Nat)
    (k_port : Piece.port ∈ ks := by apply_assumption) :
    Fr ks s (State.dropBackups t x1 x2 x3 x4) := by
  unfold State.dropBackups
  iterate 24 (all_goals try (first | with_reducible assumption | intro _ | with_reducible apply Fr.dropRx | with_reducible apply Fr.lateDrop | with_reducible apply Fr.foldl | with_reducible apply Fr.foldl_fst | split | dsimp only))

theorem Fr.takeRx {ks : List Piece} {s : State} {k : Chan} {a : State × List (BitVec 12)} (h : Fr ks s a.1) (p : Packet)
    (k_core : Piece.core ∈ ks := by apply_assumption) (k_remote : Piece.remote ∈ ks := by apply_assumption)
    (k_evt : Piece.evt ∈ ks := by apply_assumption) (k_all : ∀ d, Piece.ctx d ∈ ks := by apply_assumption)
    (k_tlb : Piece.tlb ∈ ks := by apply_assumption) (k_walks : Piece.walks ∈ ks := by apply_assumption)
    (k_sent : Piece.sent ∈ ks := by apply_assumption) (k_waits : Piece.waits ∈ ks := by apply_assumption)
    (k_port : Piece.port ∈ ks := by apply_assumption) :
    Fr ks s (State.takeRx k a p).1 := by
  unfold State.takeRx
  dsimp only
  split
  · exact h
  · split
    · exact h
    · split
      · exact h
      · exact h.mismatch k p
      · rename_i e
        exact ((Fr.nodeTake e h).dropRx k p).dropBackups _ _ _ _

theorem Fr.takeChan {ks : List Piece} {s t : State} (h : Fr ks s t) (x1 : Chan) (k_core : Piece.core ∈ ks)
    (k_remote : Piece.remote ∈ ks) (k_evt : Piece.evt ∈ ks) (k_all : ∀ d, Piece.ctx d ∈ ks) (k_tlb : Piece.tlb ∈ ks)
    (k_walks : Piece.walks ∈ ks) (k_sent : Piece.sent ∈ ks) (k_waits : Piece.waits ∈ ks) (k_port : Piece.port ∈ ks) :
    Fr ks s (State.takeChan t x1) := by
  unfold State.takeChan
  iterate 24 (all_goals try (first | with_reducible assumption | intro _ | with_reducible apply Fr.takeRx | with_reducible apply Fr.foldl | with_reducible apply Fr.foldl_fst | split | dsimp only | with_reducible exact k_all _))

theorem Fr.portPass {ks : List Piece} {s t : State} (h : Fr ks s t)  (k_core : Piece.core ∈ ks := by apply_assumption)
    (k_remote : Piece.remote ∈ ks := by apply_assumption) (k_evt : Piece.evt ∈ ks := by apply_assumption)
    (k_all : ∀ d, Piece.ctx d ∈ ks := by apply_assumption) (k_tlb : Piece.tlb ∈ ks := by apply_assumption)
    (k_walks : Piece.walks ∈ ks := by apply_assumption) (k_sent : Piece.sent ∈ ks := by apply_assumption)
    (k_waits : Piece.waits ∈ ks := by apply_assumption) (k_port : Piece.port ∈ ks := by apply_assumption) :
    Fr ks s (State.portPass t) := by
  unfold State.portPass
  iterate 24 (all_goals try (first | with_reducible assumption | intro _ | with_reducible apply Fr.acceptHead | with_reducible apply Fr.finishPartials | with_reducible apply Fr.forward | with_reducible apply Fr.refreshJobs | with_reducible apply Fr.sendAborts | with_reducible apply Fr.supply | with_reducible apply Fr.takeChan | with_reducible apply Fr.foldl | with_reducible apply Fr.foldl_fst | split | dsimp only | with_reducible exact k_all _))

theorem Fr.portPasses {ks : List Piece} {s : State} (n : Nat) {t : State} (h : Fr ks s t)
    (k_core : Piece.core ∈ ks := by apply_assumption) (k_remote : Piece.remote ∈ ks := by apply_assumption)
    (k_evt : Piece.evt ∈ ks := by apply_assumption) (k_all : ∀ d, Piece.ctx d ∈ ks := by apply_assumption)
    (k_tlb : Piece.tlb ∈ ks := by apply_assumption) (k_walks : Piece.walks ∈ ks := by apply_assumption)
    (k_sent : Piece.sent ∈ ks := by apply_assumption) (k_waits : Piece.waits ∈ ks := by apply_assumption)
    (k_port : Piece.port ∈ ks := by apply_assumption) : Fr ks s (State.portPasses n t) := by
  induction n generalizing t with
  | zero => exact h
  | succ n ih => exact ih h.portPass

theorem Fr.portRun {ks : List Piece} {s t : State} (h : Fr ks s t)  (k_core : Piece.core ∈ ks)
    (k_remote : Piece.remote ∈ ks) (k_evt : Piece.evt ∈ ks) (k_all : ∀ d, Piece.ctx d ∈ ks) (k_tlb : Piece.tlb ∈ ks)
    (k_walks : Piece.walks ∈ ks) (k_sent : Piece.sent ∈ ks) (k_waits : Piece.waits ∈ ks) (k_port : Piece.port ∈ ks) :
    Fr ks s (State.portRun t) := by
  unfold State.portRun
  iterate 24 (all_goals try (first | with_reducible assumption | intro _ | with_reducible apply Fr.portPasses | split | dsimp only | with_reducible exact k_all _))

theorem Fr.putBits {ks : List Piece} {s t : State} (h : Fr ks s t) (x1 : CtxNo) (x2 : List (Nat × Nat)) (x3 : Opnd)
    (x4 : Nat → Nat) (x5 : Nat) (k_core : Piece.core ∈ ks := by apply_assumption)
    (k_remote : Piece.remote ∈ ks := by apply_assumption) :
    Fr ks s (State.putBits t x1 x2 x3 x4 x5) := by
  unfold State.putBits
  iterate 24 (all_goals try (first | with_reducible assumption | intro _ | with_reducible apply Fr.writeB | split | dsimp only))

theorem Fr.recvPacket {ks : List Piece} {s t : State} (h : Fr ks s t) (x1 : CtxNo) (x2 : Nat) (k_core : Piece.core ∈ ks)
    (k_remote : Piece.remote ∈ ks) (k_ctx : Piece.ctx x1 ∈ ks) (k_tlb : Piece.tlb ∈ ks) (k_walks : Piece.walks ∈ ks)
    (k_reqs : Piece.reqs ∈ ks) (k_sent : Piece.sent ∈ ks) (k_waits : Piece.waits ∈ ks) (k_port : Piece.port ∈ ks)
    (k_ckpt : Piece.ckpt ∈ ks) :
    Fr ks s (State.recvPacket x1 x2 t).2 := by
  unfold State.recvPacket
  iterate 24 (all_goals try (first | with_reducible assumption | intro _ | with_reducible exact Or.inr rfl | (with_reducible refine Or.inl ?_; assumption) | with_reducible apply Fr.closeUnit | with_reducible apply Fr.finish | with_reducible apply Fr.modPort | with_reducible apply Fr.openWrites | with_reducible apply Fr.putBits | with_reducible apply Fr.setPhase | with_reducible apply Fr.foldl | with_reducible apply Fr.foldl_fst | split | dsimp only | with_reducible apply Fr.lit))

theorem Fr.runRows {ks : List Piece} {s t : State} (h : Fr ks s t) {f : State → Bool × State} (n : Nat)
    (k : ∀ u, Fr ks s u → Fr ks s (f u).2) :
    Fr ks s (runRows f n t) := by
  induction n generalizing t with
  | zero => exact h
  | succ n ih =>
    simp only [Sys2Proof.Machine.runRows]
    split
    · exact ih (k t h)
    · exact k t h

theorem Fr.recvAll {ks : List Piece} {s t : State} (h : Fr ks s t) (x1 : CtxNo) (k_core : Piece.core ∈ ks)
    (k_remote : Piece.remote ∈ ks) (k_ctx : Piece.ctx x1 ∈ ks) (k_tlb : Piece.tlb ∈ ks) (k_walks : Piece.walks ∈ ks)
    (k_reqs : Piece.reqs ∈ ks) (k_sent : Piece.sent ∈ ks) (k_waits : Piece.waits ∈ ks) (k_port : Piece.port ∈ ks)
    (k_ckpt : Piece.ckpt ∈ ks) :
    Fr ks s (State.recvAll t x1) := by
  unfold State.recvAll
  iterate 24 (all_goals try (first | with_reducible assumption | intro _ | with_reducible apply Fr.recvPacket | with_reducible apply Fr.runRows | with_reducible apply Fr.foldl | with_reducible apply Fr.foldl_fst | split | dsimp only))

theorem Fr.ringStep {ks : List Piece} {s t u : State} {own : HdrSpec} {vals : List Nat} (e : t.ringStep own vals = some u)
    (h : Fr ks s t) (k_core : Piece.core ∈ ks := by apply_assumption)
    (k_remote : Piece.remote ∈ ks := by apply_assumption) (k_evt : Piece.evt ∈ ks := by apply_assumption)
    (k_all : ∀ d, Piece.ctx d ∈ ks := by apply_assumption) (k_tlb : Piece.tlb ∈ ks := by apply_assumption)
    (k_walks : Piece.walks ∈ ks := by apply_assumption) (k_sent : Piece.sent ∈ ks := by apply_assumption)
    (k_waits : Piece.waits ∈ ks := by apply_assumption) (k_port : Piece.port ∈ ks := by apply_assumption) :
    Fr ks s u := by
  unfold State.ringStep at e
  dsimp only at e
  split at e
  · split at e
    · cases e; with_reducible exact h.modPort _
    · with_reducible exact Fr.trySend e h
  · split at e
    · cases e
    · split at e
      · cases e; with_reducible exact h.mismatch _ _
      · split at e
        · cases e
          with_reducible exact ((h.modPort _).dropRx _ _).ringNote _ _ _
        · obtain ⟨v, hv, rfl⟩ := Option.map_eq_some_iff.mp e
          with_reducible exact ((Fr.trySend hv h).dropRx _ _).ringNote _ _ _

theorem Fr.placePacket {ks : List Piece} {s t u : State} {own : HdrSpec} {vals : List Nat}
    (e : t.placePacket own vals = some u) (h : Fr ks s t) (k_core : Piece.core ∈ ks := by apply_assumption)
    (k_remote : Piece.remote ∈ ks := by apply_assumption) (k_evt : Piece.evt ∈ ks := by apply_assumption)
    (k_all : ∀ d, Piece.ctx d ∈ ks := by apply_assumption) (k_tlb : Piece.tlb ∈ ks := by apply_assumption)
    (k_walks : Piece.walks ∈ ks := by apply_assumption) (k_sent : Piece.sent ∈ ks := by apply_assumption)
    (k_waits : Piece.waits ∈ ks := by apply_assumption) (k_port : Piece.port ∈ ks := by apply_assumption) :
    Fr ks s u := by
  unfold State.placePacket at e
  dsimp only at e
  split at e
  · with_reducible exact Fr.ringStep e h
  · split at e
    · split at e
      · cases e; with_reducible exact h.expect _ _ _
      · split at e
        · cases e; with_reducible exact h.expect _ _ _
        · split at e
          · cases e
          · cases e; with_reducible exact (h.expect _ _ _).failJob _ _ _ _ _ _ _ _ _
          · rename_i hn
            cases e
            with_reducible exact ((Fr.nodeTake hn (h.expect _ _ _)).dropBackups _ _ _ _).modInput _ _ _ _
    · with_reducible exact Fr.trySend e h

theorem Fr.sendPacket {ks : List Piece} {s t : State} (h : Fr ks s t) (x1 : CtxNo) (x2 : Nat) (k_core : Piece.core ∈ ks)
    (k_remote : Piece.remote ∈ ks) (k_evt : Piece.evt ∈ ks) (k_all : ∀ d, Piece.ctx d ∈ ks) (k_tlb : Piece.tlb ∈ ks)
    (k_walks : Piece.walks ∈ ks) (k_reqs : Piece.reqs ∈ ks) (k_sent : Piece.sent ∈ ks) (k_waits : Piece.waits ∈ ks)
    (k_port : Piece.port ∈ ks) (k_ckpt : Piece.ckpt ∈ ks) :
    Fr ks s (State.sendPacket x1 x2 t).2 := by
  unfold State.sendPacket
  iterate 24 (all_goals try (first | with_reducible assumption | intro _ | with_reducible exact Or.inr rfl | (with_reducible refine Or.inl ?_; assumption) | with_reducible apply Fr.closeUnit | with_reducible apply Fr.finish | with_reducible apply Fr.modJob | with_reducible apply Fr.openAll | with_reducible apply Fr.setPhase | (refine Fr.placePacket (by assumption) ?_) | split | dsimp only | with_reducible exact k_all _ | with_reducible apply Fr.lit | with_reducible apply Fr.litAll))

theorem Fr.sendAll {ks : List Piece} {s t : State} (h : Fr ks s t) (x1 : CtxNo) (k_core : Piece.core ∈ ks)
    (k_remote : Piece.remote ∈ ks) (k_evt : Piece.evt ∈ ks) (k_all : ∀ d, Piece.ctx d ∈ ks) (k_tlb : Piece.tlb ∈ ks)
    (k_walks : Piece.walks ∈ ks) (k_reqs : Piece.reqs ∈ ks) (k_sent : Piece.sent ∈ ks) (k_waits : Piece.waits ∈ ks)
    (k_port : Piece.port ∈ ks) (k_ckpt : Piece.ckpt ∈ ks) :
    Fr ks s (State.sendAll t x1) := by
  unfold State.sendAll
  iterate 24 (all_goals try (first | with_reducible assumption | intro _ | with_reducible exact Or.inr rfl | (with_reducible refine Or.inl ?_; assumption) | with_reducible apply Fr.runRows | with_reducible apply Fr.sendPacket | with_reducible apply Fr.foldl | with_reducible apply Fr.foldl_fst | split | dsimp only | with_reducible exact k_all _ | with_reducible apply Fr.lit | with_reducible apply Fr.litAll))

theorem Fr.portRound {ks : List Piece} {s t : State} (h : Fr ks s t)  (k_core : Piece.core ∈ ks)
    (k_remote : Piece.remote ∈ ks) (k_evt : Piece.evt ∈ ks) (k_all : ∀ d, Piece.ctx d ∈ ks) (k_tlb : Piece.tlb ∈ ks)
    (k_walks : Piece.walks ∈ ks) (k_reqs : Piece.reqs ∈ ks) (k_sent : Piece.sent ∈ ks) (k_waits : Piece.waits ∈ ks)
    (k_port : Piece.port ∈ ks) (k_ckpt : Piece.ckpt ∈ ks) :
    Fr ks s (State.portRound t) := by
  unfold State.portRound
  iterate 24 (all_goals try (first | with_reducible assumption | intro _ | with_reducible apply Fr.portRun | with_reducible apply Fr.recvAll | with_reducible apply Fr.sendAll | with_reducible apply Fr.foldl | with_reducible apply Fr.foldl_fst | split | dsimp only | with_reducible exact k_all _))

theorem Fr.portStep {ks : List Piece} {s t : State} (h : Fr ks s t)  (k_core : Piece.core ∈ ks)
    (k_remote : Piece.remote ∈ ks) (k_evt : Piece.evt ∈ ks) (k_all : ∀ d, Piece.ctx d ∈ ks) (k_tlb : Piece.tlb ∈ ks)
    (k_walks : Piece.walks ∈ ks) (k_reqs : Piece.reqs ∈ ks) (k_sent : Piece.sent ∈ ks) (k_waits : Piece.waits ∈ ks)
    (k_port : Piece.port ∈ ks) (k_ckpt : Piece.ckpt ∈ ks) :
    Fr ks s (State.portStep t) := by
  unfold State.portStep
  iterate 24 (all_goals try (first | with_reducible assumption | intro _ | with_reducible apply Fr.portRound | split | dsimp only | with_reducible exact k_all _))

theorem Fr.packetIn {ks : List Piece} {s t : State} (h : Fr ks s t) (x1 : Chan) (x2 : Packet) (x3 : Nat)
    (k_core : Piece.core ∈ ks) (k_remote : Piece.remote ∈ ks) (k_evt : Piece.evt ∈ ks) (k_all : ∀ d, Piece.ctx d ∈ ks)
    (k_tlb : Piece.tlb ∈ ks) (k_walks : Piece.walks ∈ ks) (k_reqs : Piece.reqs ∈ ks) (k_sent : Piece.sent ∈ ks)
    (k_waits : Piece.waits ∈ ks) (k_port : Piece.port ∈ ks) (k_ckpt : Piece.ckpt ∈ ks) :
    Fr ks s (State.packetIn t x1 x2 x3) := by
  unfold State.packetIn
  iterate 24 (all_goals try (first | with_reducible assumption | intro _ | with_reducible exact Or.inr rfl | (with_reducible refine Or.inl ?_; assumption) | with_reducible apply Fr.modCh | with_reducible apply Fr.portStep | split | dsimp only | with_reducible exact k_all _ | with_reducible apply Fr.lit | with_reducible apply Fr.litAll))

theorem Fr.releaseJob {ks : List Piece} {s t : State} (h : Fr ks s t) (x1 : BitVec 12) (k_core : Piece.core ∈ ks)
    (k_remote : Piece.remote ∈ ks) (k_evt : Piece.evt ∈ ks) (k_all : ∀ d, Piece.ctx d ∈ ks) (k_tlb : Piece.tlb ∈ ks)
    (k_walks : Piece.walks ∈ ks) (k_reqs : Piece.reqs ∈ ks) (k_sent : Piece.sent ∈ ks) (k_waits : Piece.waits ∈ ks)
    (k_port : Piece.port ∈ ks) (k_ckpt : Piece.ckpt ∈ ks) :
    Fr ks s (State.releaseJob t x1) := by
  unfold State.releaseJob
  iterate 24 (all_goals try (first | with_reducible assumption | intro _ | with_reducible exact Or.inr rfl | (with_reducible refine Or.inl ?_; assumption) | with_reducible apply Fr.forget | with_reducible apply Fr.modPort | with_reducible apply Fr.portStep | split | dsimp only | with_reducible exact k_all _ | with_reducible apply Fr.lit | with_reducible apply Fr.litAll))

theorem Fr.startBucket {ks : List Piece} {s t : State} (h : Fr ks s t) (x1 : CtxNo) (x2 : Nat) (x3 : Work)
    (k_core : Piece.core ∈ ks) (k_remote : Piece.remote ∈ ks) (k_evt : Piece.evt ∈ ks) (k_ctx : Piece.ctx x1 ∈ ks)
    (k_tlb : Piece.tlb ∈ ks) (k_walks : Piece.walks ∈ ks) (k_sent : Piece.sent ∈ ks) (k_waits : Piece.waits ∈ ks)
    (k_port : Piece.port ∈ ks) :
    Fr ks s (State.startBucket t x1 x2 x3) := by
  unfold State.startBucket
  iterate 24 (all_goals try (first | with_reducible assumption | intro _ | with_reducible exact Or.inr rfl | (with_reducible refine Or.inl ?_; assumption) | with_reducible apply Fr.finish | with_reducible apply Fr.issueJob | with_reducible apply Fr.openBucket | with_reducible apply Fr.setPhase | (refine Fr.allocAll (by assumption) ?_) | split | dsimp only | with_reducible apply Fr.lit))

theorem Fr.late {ks : List Piece} {s t : State} (h : Fr ks s t) (x1 : Input) (k_core : Piece.core ∈ ks)
    (k_remote : Piece.remote ∈ ks) (k_evt : Piece.evt ∈ ks) (k_all : ∀ d, Piece.ctx d ∈ ks) (k_tlb : Piece.tlb ∈ ks)
    (k_walks : Piece.walks ∈ ks) (k_sent : Piece.sent ∈ ks) (k_waits : Piece.waits ∈ ks) (k_port : Piece.port ∈ ks) :
    Fr ks s (State.late t x1) := by
  unfold State.late
  iterate 24 (all_goals try (first | with_reducible assumption | intro _ | with_reducible exact Or.inr rfl | (with_reducible refine Or.inl ?_; assumption) | with_reducible apply Fr.dropBackups | with_reducible apply Fr.failJob | with_reducible apply Fr.modInput | with_reducible apply Fr.modPort | with_reducible apply Fr.reduceRecord | split | dsimp only | with_reducible exact k_all _ | with_reducible apply Fr.lit | with_reducible apply Fr.litAll))

theorem Fr.setChain {ks : List Piece} {s t : State} (h : Fr ks s t) (x1 : Nat) (x2 : Chain) (k_chains : Piece.chains ∈ ks) :
    Fr ks s (State.setChain t x1 x2) := by
  unfold State.setChain
  iterate 24 (all_goals try (first | with_reducible assumption | intro _ | with_reducible exact Or.inr rfl | (with_reducible refine Or.inl ?_; assumption) | split | dsimp only | with_reducible apply Fr.lit))

theorem Fr.settleChain {ks : List Piece} {s t : State} (h : Fr ks s t) (x1 : Nat) (x2 : Chain)
    (k_chains : Piece.chains ∈ ks) (k_chainOut : Piece.chainOut ∈ ks) :
    Fr ks s (State.settleChain t x1 x2) := by
  unfold State.settleChain
  iterate 24 (all_goals try (first | with_reducible assumption | intro _ | with_reducible exact Or.inr rfl | (with_reducible refine Or.inl ?_; assumption) | with_reducible apply Fr.forward | with_reducible apply Fr.setChain | split | dsimp only | with_reducible apply Fr.lit))

theorem Fr.chainBeat {ks : List Piece} {s t : State} (h : Fr ks s t) (x1 : Nat) (x2 : BitVec 12) (x3 : Beat)
    (k_chains : Piece.chains ∈ ks) (k_chainOut : Piece.chainOut ∈ ks) :
    Fr ks s (State.chainBeat t x1 x2 x3) := by
  unfold State.chainBeat
  iterate 24 (all_goals try (first | with_reducible assumption | intro _ | with_reducible exact Or.inr rfl | (with_reducible refine Or.inl ?_; assumption) | with_reducible apply Fr.expect | with_reducible apply Fr.late | with_reducible apply Fr.setChain | with_reducible apply Fr.settleChain | split | dsimp only | with_reducible apply Fr.lit))

theorem Fr.drawFree {ks : List Piece} {s t : State} (h : Fr ks s t)  (k_free : Piece.free ∈ ks) :
    Fr ks s (State.drawFree t).2 := by
  unfold State.drawFree
  iterate 24 (all_goals try (first | with_reducible assumption | intro _ | with_reducible exact Or.inr rfl | (with_reducible refine Or.inl ?_; assumption) | split | dsimp only | with_reducible apply Fr.lit))

theorem Fr.leaveChain {ks : List Piece} {s t : State} (h : Fr ks s t) (x1 : Nat) (x2 : BitVec 2) (x3 : Nat)
    (k_free : Piece.free ∈ ks) (k_core : Piece.core ∈ ks) (k_remote : Piece.remote ∈ ks) (k_evt : Piece.evt ∈ ks)
    (k_all : ∀ d, Piece.ctx d ∈ ks) (k_tlb : Piece.tlb ∈ ks) (k_walks : Piece.walks ∈ ks) (k_chains : Piece.chains ∈ ks)
    (k_chainOut : Piece.chainOut ∈ ks) (k_tel : Piece.tel ∈ ks) :
    Fr ks s (State.leaveChain t x1 x2 x3) := by
  unfold State.leaveChain
  iterate 24 (all_goals try (first | with_reducible assumption | intro _ | with_reducible exact Or.inr rfl | (with_reducible refine Or.inl ?_; assumption) | with_reducible apply Fr.detach | with_reducible apply Fr.drawFree | with_reducible apply Fr.event | with_reducible apply Fr.setChain | split | dsimp only | with_reducible exact k_all _ | with_reducible apply Fr.lit | with_reducible apply Fr.litAll))

theorem Fr.detach {ks : List Piece} {s t : State} (h : Fr ks s t) (x1 : Nat) (x2 : BitVec 2) (k_free : Piece.free ∈ ks)
    (k_core : Piece.core ∈ ks) (k_remote : Piece.remote ∈ ks) (k_evt : Piece.evt ∈ ks) (k_all : ∀ d, Piece.ctx d ∈ ks)
    (k_tlb : Piece.tlb ∈ ks) (k_walks : Piece.walks ∈ ks) (k_chains : Piece.chains ∈ ks)
    (k_chainOut : Piece.chainOut ∈ ks) (k_tel : Piece.tel ∈ ks) :
    Fr ks s (State.detach t x1 x2) := by
  unfold State.detach
  iterate 24 (all_goals try (first | with_reducible assumption | intro _ | with_reducible apply Fr.leaveChain | split | dsimp only | with_reducible exact k_all _))

theorem Fr.setupChain {ks : List Piece} {s t : State} (h : Fr ks s t) (x1 : CtxNo) (k_ctx : Piece.ctx x1 ∈ ks)
    (k_sent : Piece.sent ∈ ks) (k_waits : Piece.waits ∈ ks) (k_chains : Piece.chains ∈ ks) :
    Fr ks s (State.setupChain t x1) := by
  unfold State.setupChain
  iterate 24 (all_goals try (first | with_reducible assumption | intro _ | with_reducible exact Or.inr rfl | (with_reducible refine Or.inl ?_; assumption) | with_reducible apply Fr.finish | with_reducible apply Fr.setChain | split | dsimp only | with_reducible apply Fr.lit))

theorem Fr.areaWrite {ks : List Piece} {s t : State} (h : Fr ks s t) (x1 : CtxNo) (x2 : Word) (x3 : List AreaPart)
    (k_core : Piece.core ∈ ks := by apply_assumption) (k_remote : Piece.remote ∈ ks := by apply_assumption)
    (k_ctx : Piece.ctx x1 ∈ ks := by apply_assumption) (k_tlb : Piece.tlb ∈ ks := by apply_assumption)
    (k_walks : Piece.walks ∈ ks := by apply_assumption) (k_reqs : Piece.reqs ∈ ks := by apply_assumption)
    (k_sent : Piece.sent ∈ ks := by apply_assumption) (k_waits : Piece.waits ∈ ks := by apply_assumption) :
    Fr ks s (State.areaWrite t x1 x2 x3).2 := by
  unfold State.areaWrite
  iterate 24 (all_goals try (first | with_reducible assumption | intro _ | with_reducible apply Fr.issue | with_reducible apply Fr.openFor | with_reducible apply Fr.putArea | with_reducible apply Fr.foldl | with_reducible apply Fr.foldl_fst | split | dsimp only))

theorem Fr.ckptWait {ks : List Piece} {s t : State} (h : Fr ks s t) (x1 : CtxNo) (x2 : Nat) (x3 : Nat) (x4 : Nat)
    (x5 : Nat) (k_ctx : Piece.ctx x1 ∈ ks) (k_ckpt : Piece.ckpt ∈ ks) :
    Fr ks s (State.ckptWait t x1 x2 x3 x4 x5) := by
  unfold State.ckptWait
  iterate 24 (all_goals try (first | with_reducible assumption | intro _ | with_reducible exact Or.inr rfl | (with_reducible refine Or.inl ?_; assumption) | with_reducible apply Fr.setPhase | split | dsimp only | with_reducible apply Fr.lit))

theorem Fr.ckptArm {ks : List Piece} {s t : State} (h : Fr ks s t) (x1 : CtxNo) (k_ctx : Piece.ctx x1 ∈ ks)
    (k_tlb : Piece.tlb ∈ ks) (k_walks : Piece.walks ∈ ks) (k_reqs : Piece.reqs ∈ ks) (k_sent : Piece.sent ∈ ks)
    (k_waits : Piece.waits ∈ ks) (k_ckpt : Piece.ckpt ∈ ks) :
    Fr ks s (State.ckptArm t x1) := by
  unfold State.ckptArm
  iterate 24 (all_goals try (first | with_reducible assumption | intro _ | with_reducible exact Or.inr rfl | (with_reducible refine Or.inl ?_; assumption) | with_reducible apply Fr.ckptWait | with_reducible apply Fr.closeUnit | with_reducible apply Fr.finish | with_reducible apply Fr.openAll | split | dsimp only | with_reducible apply Fr.lit))

theorem Fr.dropStaging {ks : List Piece} {s t : State} (h : Fr ks s t) (x1 : Nat) (k_staging : Piece.staging ∈ ks) :
    Fr ks s (State.dropStaging t x1) := by
  unfold State.dropStaging
  iterate 24 (all_goals try (first | with_reducible assumption | intro _ | with_reducible exact Or.inr rfl | (with_reducible refine Or.inl ?_; assumption) | split | dsimp only | with_reducible apply Fr.lit))

theorem Fr.copyDone {ks : List Piece} {s t : State} (h : Fr ks s t) (x1 : CtxNo) (k_ctx : Piece.ctx x1 ∈ ks)
    (k_staging : Piece.staging ∈ ks) :
    Fr ks s (State.copyDone t x1) := by
  unfold State.copyDone
  iterate 24 (all_goals try (first | with_reducible assumption | intro _ | with_reducible exact Or.inr rfl | (with_reducible refine Or.inl ?_; assumption) | with_reducible apply Fr.dropStaging | with_reducible apply Fr.modCtx | split | dsimp only | with_reducible apply Fr.lit))

theorem Fr.landCopies {ks : List Piece} {s t : State} (h : Fr ks s t)  (k_ckpt : Piece.ckpt ∈ ks) :
    Fr ks s (State.landCopies t) := by
  unfold State.landCopies
  iterate 24 (all_goals try (first | with_reducible assumption | intro _ | with_reducible exact Or.inr rfl | (with_reducible refine Or.inl ?_; assumption) | split | dsimp only | with_reducible apply Fr.lit))

theorem Fr.epochPoint {ks : List Piece} {s t : State} (h : Fr ks s t)  (k_core : Piece.core ∈ ks)
    (k_remote : Piece.remote ∈ ks) (k_all : ∀ d, Piece.ctx d ∈ ks) (k_tlb : Piece.tlb ∈ ks) (k_walks : Piece.walks ∈ ks)
    (k_reqs : Piece.reqs ∈ ks) (k_sent : Piece.sent ∈ ks) (k_waits : Piece.waits ∈ ks) (k_ckpt : Piece.ckpt ∈ ks) :
    Fr ks s (State.epochPoint t) := by
  unfold State.epochPoint
  iterate 24 (all_goals try (first | with_reducible assumption | intro _ | with_reducible exact Or.inr rfl | (with_reducible refine Or.inl ?_; assumption) | with_reducible apply Fr.areaWrite | with_reducible apply Fr.finish | with_reducible apply Fr.landCopies | split | dsimp only | with_reducible exact k_all _ | with_reducible apply Fr.lit | with_reducible apply Fr.litAll))

theorem Fr.takeRaw {ks : List Piece} {s t : State} (h : Fr ks s t) (x1 : CtxNo) (x2 : Word) (x3 : ReqUse) (x4 : List Req)
    (k_reqs : Piece.reqs ∈ ks) (k_waits : Piece.waits ∈ ks) :
    Fr ks s (State.takeRaw t x1 x2 x3 x4).2 := by
  unfold State.takeRaw
  iterate 24 (all_goals try (first | with_reducible assumption | intro _ | with_reducible exact Or.inr rfl | (with_reducible refine Or.inl ?_; assumption) | with_reducible apply Fr.await | with_reducible apply Fr.unwait | split | dsimp only | with_reducible apply Fr.lit))

theorem Fr.takeStaging {ks : List Piece} {s t : State} (h : Fr ks s t) (x1 : CtxNo) (x2 : Word) (x3 : Nat) (x4 : Nat)
    (x5 : Nat) (k_staging : Piece.staging ∈ ks) (k_waits : Piece.waits ∈ ks) :
    Fr ks s (State.takeStaging t x1 x2 x3 x4 x5).2 := by
  unfold State.takeStaging
  iterate 24 (all_goals try (first | with_reducible assumption | intro _ | with_reducible exact Or.inr rfl | (with_reducible refine Or.inl ?_; assumption) | with_reducible apply Fr.await | with_reducible apply Fr.unwait | split | dsimp only | with_reducible apply Fr.lit))

theorem Fr.startCopy {ks : List Piece} {s t : State} (h : Fr ks s t) (x1 : CtxNo) (x2 : Word) (x3 : Nat) (x4 : Nat)
    (k_staging : Piece.staging ∈ ks) (k_reqs : Piece.reqs ∈ ks) (k_waits : Piece.waits ∈ ks) (k_ckpt : Piece.ckpt ∈ ks) :
    Fr ks s (State.startCopy t x1 x2 x3 x4) := by
  unfold State.startCopy
  iterate 24 (all_goals try (first | with_reducible assumption | intro _ | with_reducible exact Or.inr rfl | (with_reducible refine Or.inl ?_; assumption) | with_reducible apply Fr.takeRaw | with_reducible apply Fr.takeStaging | split | dsimp only | with_reducible apply Fr.lit))

theorem Fr.writeCopy {ks : List Piece} {s t : State} (h : Fr ks s t) (c : CtxNo) (seq : Word) (o : Opnd) (p i : Nat)
    (k_core : Piece.core ∈ ks := by apply_assumption) (k_remote : Piece.remote ∈ ks := by apply_assumption)
    (k_ctx : Piece.ctx c ∈ ks := by apply_assumption) (k_tlb : Piece.tlb ∈ ks := by apply_assumption)
    (k_walks : Piece.walks ∈ ks := by apply_assumption) (k_reqs : Piece.reqs ∈ ks := by apply_assumption)
    (k_sent : Piece.sent ∈ ks := by apply_assumption) (k_waits : Piece.waits ∈ ks := by apply_assumption)
    (k_ckpt : Piece.ckpt ∈ ks := by apply_assumption) : Fr ks s (t.writeCopy c seq o p i) := by
  have aw : ∀ ps, Fr ks s (t.areaWrite c seq ps).2 := fun ps => by
    with_reducible apply h.areaWrite c seq ps
    all_goals assumption
  unfold State.writeCopy
  dsimp only
  generalize t.ckpt.copyParts o i (t.pageBytes c p) = ps
  split
  · exact h
  · split
    · exact aw ps
    · (with_reducible apply Fr.lit (aw ps)) <;> first | with_reducible exact Or.inr rfl | (refine Or.inl ?_; assumption)

theorem Fr.pageCopy {ks : List Piece} {s t : State} (h : Fr ks s t) (x1 : CtxNo) (k_core : Piece.core ∈ ks)
    (k_remote : Piece.remote ∈ ks) (k_ctx : Piece.ctx x1 ∈ ks) (k_staging : Piece.staging ∈ ks) (k_tlb : Piece.tlb ∈ ks)
    (k_walks : Piece.walks ∈ ks) (k_reqs : Piece.reqs ∈ ks) (k_sent : Piece.sent ∈ ks) (k_waits : Piece.waits ∈ ks)
    (k_ckpt : Piece.ckpt ∈ ks) :
    Fr ks s (State.pageCopy t x1) := by
  unfold State.pageCopy
  iterate 24 (all_goals try (first | with_reducible assumption | intro _ | with_reducible exact Or.inr rfl | (with_reducible refine Or.inl ?_; assumption) | with_reducible apply Fr.copyDone | with_reducible apply Fr.landCopies | with_reducible apply Fr.startCopy | with_reducible apply Fr.writeCopy | split | dsimp only | with_reducible apply Fr.lit))

theorem Fr.askCapture {ks : List Piece} {s t : State} (h : Fr ks s t) (x1 : CtxNo) (x2 : Unit) (x3 : Word)
    (k_ctx : Piece.ctx x1 ∈ ks) :
    Fr ks s (State.askCapture t x1 x2 x3) := by
  unfold State.askCapture
  iterate 24 (all_goals try (first | with_reducible assumption | intro _ | with_reducible exact Or.inr rfl | (with_reducible refine Or.inl ?_; assumption) | with_reducible apply Fr.modCtx | split | dsimp only | with_reducible apply Fr.lit))

theorem Fr.headerUpdate {ks : List Piece} {s t : State} (h : Fr ks s t) (x1 : CtxNo) (k_core : Piece.core ∈ ks)
    (k_remote : Piece.remote ∈ ks) (k_ctx : Piece.ctx x1 ∈ ks) (k_tlb : Piece.tlb ∈ ks) (k_walks : Piece.walks ∈ ks)
    (k_reqs : Piece.reqs ∈ ks) (k_sent : Piece.sent ∈ ks) (k_waits : Piece.waits ∈ ks) (k_ckpt : Piece.ckpt ∈ ks) :
    Fr ks s (State.headerUpdate t x1) := by
  unfold State.headerUpdate
  iterate 24 (all_goals try (first | with_reducible assumption | intro _ | with_reducible exact Or.inr rfl | (with_reducible refine Or.inl ?_; assumption) | with_reducible apply Fr.askCapture | with_reducible apply Fr.closeUnit | with_reducible apply Fr.finish | with_reducible apply Fr.openWrites | with_reducible apply Fr.writeB | split | dsimp only | with_reducible apply Fr.lit))

theorem Fr.putRecord {ks : List Piece} {s t : State} (h : Fr ks s t) (x1 : CtxNo) (x2 : Word) (x3 : Opnd) (x4 : Nat)
    (x5 : Nat) (k_core : Piece.core ∈ ks) (k_remote : Piece.remote ∈ ks) (k_ctx : Piece.ctx x1 ∈ ks)
    (k_tlb : Piece.tlb ∈ ks) (k_walks : Piece.walks ∈ ks) (k_reqs : Piece.reqs ∈ ks) (k_sent : Piece.sent ∈ ks)
    (k_waits : Piece.waits ∈ ks) (k_ckpt : Piece.ckpt ∈ ks) :
    Fr ks s (State.putRecord t x1 x2 x3 x4 x5).2.2 := by
  unfold State.putRecord
  iterate 24 (all_goals try (first | with_reducible assumption | intro _ | with_reducible apply Fr.closeUnit | with_reducible apply Fr.openWrites | with_reducible apply Fr.putArea | split | dsimp only))

theorem Fr.jobRecord {ks : List Piece} {s t : State} (h : Fr ks s t) (x1 : CtxNo) (x2 : Cmd) (x3 : ProdOps) (x4 : ProdJob)
    (x5 : Nat) (k_core : Piece.core ∈ ks) (k_remote : Piece.remote ∈ ks) (k_ctx : Piece.ctx x1 ∈ ks)
    (k_tlb : Piece.tlb ∈ ks) (k_walks : Piece.walks ∈ ks) (k_reqs : Piece.reqs ∈ ks) (k_sent : Piece.sent ∈ ks)
    (k_waits : Piece.waits ∈ ks) (k_ckpt : Piece.ckpt ∈ ks) :
    Fr ks s (State.jobRecord t x1 x2 x3 x4 x5).2.1 := by
  unfold State.jobRecord
  iterate 24 (all_goals try (first | with_reducible assumption | intro _ | with_reducible exact Or.inr rfl | (with_reducible refine Or.inl ?_; assumption) | with_reducible apply Fr.putRecord | split | dsimp only | with_reducible apply Fr.lit))

theorem Fr.setSlot {ks : List Piece} {s t : State} (h : Fr ks s t) (x1 : Nat) (x2 : Slot) (k_slots : Piece.slots ∈ ks) :
    Fr ks s (State.setSlot t x1 x2) := by
  unfold State.setSlot
  iterate 24 (all_goals try (first | with_reducible assumption | intro _ | with_reducible exact Or.inr rfl | (with_reducible refine Or.inl ?_; assumption) | split | dsimp only | with_reducible apply Fr.lit))

theorem Fr.loadEnd {ks : List Piece} {s t : State} (h : Fr ks s t) (x1 : CtxNo) (x2 : Nat) (x3 : Cmd) (x4 : Nat)
    (k_ctx : Piece.ctx x1 ∈ ks) (k_slots : Piece.slots ∈ ks) (k_sent : Piece.sent ∈ ks) (k_waits : Piece.waits ∈ ks) :
    Fr ks s (State.loadEnd t x1 x2 x3 x4) := by
  unfold State.loadEnd
  iterate 24 (all_goals try (first | with_reducible assumption | intro _ | with_reducible exact Or.inr rfl | (with_reducible refine Or.inl ?_; assumption) | with_reducible apply Fr.finish | with_reducible apply Fr.setSlot | split | dsimp only | with_reducible apply Fr.lit))

theorem Fr.modSlot {ks : List Piece} {s t : State} (h : Fr ks s t) (x1 : Nat) (x2 : Slot → Slot)
    (k_slots : Piece.slots ∈ ks) :
    Fr ks s (State.modSlot t x1 x2) := by
  unfold State.modSlot
  iterate 24 (all_goals try (first | with_reducible assumption | intro _ | with_reducible apply Fr.setSlot | split | dsimp only))

theorem Fr.setJob {ks : List Piece} {s t : State} (h : Fr ks s t) (x1 : CtxNo) (x2 : Nat) (x3 : ProdJob)
    (k_ctx : Piece.ctx x1 ∈ ks) :
    Fr ks s (State.setJob t x1 x2 x3) := by
  unfold State.setJob
  iterate 24 (all_goals try (first | with_reducible assumption | intro _ | with_reducible apply Fr.setPhase | split | dsimp only))

theorem Fr.assign {ks : List Piece} {s t : State} (h : Fr ks s t) (x1 : CtxNo) (x2 : Nat) (x3 : Nat)
    (k_ctx : Piece.ctx x1 ∈ ks) (k_slots : Piece.slots ∈ ks) :
    Fr ks s (State.assign x1 x2 t x3) := by
  unfold State.assign
  iterate 24 (all_goals try (first | with_reducible assumption | intro _ | with_reducible exact Or.inr rfl | (with_reducible refine Or.inl ?_; assumption) | with_reducible apply Fr.askCapture | with_reducible apply Fr.modSlot | with_reducible apply Fr.setJob | split | dsimp only | with_reducible apply Fr.lit))

theorem Fr.place {ks : List Piece} {s t : State} (h : Fr ks s t) (x1 : CtxNo) (x2 : Nat × Cmd × ProdJob)
    (k_ctx : Piece.ctx x1 ∈ ks) (k_slots : Piece.slots ∈ ks) :
    Fr ks s (State.place x1 t x2) := by
  unfold State.place
  iterate 24 (all_goals try (first | with_reducible assumption | intro _ | with_reducible exact Or.inr rfl | (with_reducible refine Or.inl ?_; assumption) | with_reducible apply Fr.assign | with_reducible apply Fr.setJob | with_reducible apply Fr.foldl | with_reducible apply Fr.foldl_fst | split | dsimp only | with_reducible apply Fr.lit))

theorem Fr.holdSlots {ks : List Piece} {s t : State} (h : Fr ks s t) (x1 : List Nat) (k_slots : Piece.slots ∈ ks) :
    Fr ks s (State.holdSlots t x1) := by
  unfold State.holdSlots
  iterate 24 (all_goals try (first | with_reducible assumption | intro _ | with_reducible exact Or.inr rfl | (with_reducible refine Or.inl ?_; assumption) | with_reducible apply Fr.modSlot | with_reducible apply Fr.foldl | with_reducible apply Fr.foldl_fst | split | dsimp only | with_reducible apply Fr.lit))

theorem Fr.finishChain {ks : List Piece} {s t : State} (h : Fr ks s t) (x1 : Nat) (k_free : Piece.free ∈ ks)
    (k_core : Piece.core ∈ ks) (k_remote : Piece.remote ∈ ks) (k_evt : Piece.evt ∈ ks) (k_all : ∀ d, Piece.ctx d ∈ ks)
    (k_tlb : Piece.tlb ∈ ks) (k_walks : Piece.walks ∈ ks) (k_chains : Piece.chains ∈ ks)
    (k_chainOut : Piece.chainOut ∈ ks) (k_tel : Piece.tel ∈ ks) :
    Fr ks s (State.finishChain t x1) := by
  unfold State.finishChain
  iterate 24 (all_goals try (first | with_reducible assumption | intro _ | with_reducible exact Or.inr rfl | (with_reducible refine Or.inl ?_; assumption) | with_reducible apply Fr.leaveChain | with_reducible apply Fr.setChain | split | dsimp only | with_reducible exact k_all _ | with_reducible apply Fr.lit | with_reducible apply Fr.litAll))

theorem Fr.chainEnd {ks : List Piece} {s t : State} (h : Fr ks s t) (x1 : Cmd) (k_free : Piece.free ∈ ks)
    (k_core : Piece.core ∈ ks) (k_remote : Piece.remote ∈ ks) (k_evt : Piece.evt ∈ ks) (k_all : ∀ d, Piece.ctx d ∈ ks)
    (k_tlb : Piece.tlb ∈ ks) (k_walks : Piece.walks ∈ ks) (k_chains : Piece.chains ∈ ks)
    (k_chainOut : Piece.chainOut ∈ ks) (k_tel : Piece.tel ∈ ks) :
    Fr ks s (State.chainEnd t x1) := by
  unfold State.chainEnd
  iterate 24 (all_goals try (first | with_reducible assumption | intro _ | with_reducible exact Or.inr rfl | (with_reducible refine Or.inl ?_; assumption) | with_reducible apply Fr.finishChain | split | dsimp only | with_reducible exact k_all _ | with_reducible apply Fr.lit | with_reducible apply Fr.litAll))

theorem Fr.productEnd {ks : List Piece} {s t : State} (h : Fr ks s t) (x1 : CtxNo) (x2 : Nat) (x3 : Cmd) (x4 : ProdJob)
    (x5 : Byte) (k_free : Piece.free ∈ ks) (k_core : Piece.core ∈ ks) (k_remote : Piece.remote ∈ ks)
    (k_evt : Piece.evt ∈ ks) (k_all : ∀ d, Piece.ctx d ∈ ks) (k_slots : Piece.slots ∈ ks) (k_tlb : Piece.tlb ∈ ks)
    (k_walks : Piece.walks ∈ ks) (k_sent : Piece.sent ∈ ks) (k_waits : Piece.waits ∈ ks) (k_chains : Piece.chains ∈ ks)
    (k_chainOut : Piece.chainOut ∈ ks) (k_tel : Piece.tel ∈ ks) :
    Fr ks s (State.productEnd t x1 x2 x3 x4 x5) := by
  unfold State.productEnd
  iterate 24 (all_goals try (first | with_reducible assumption | intro _ | with_reducible exact Or.inr rfl | (with_reducible refine Or.inl ?_; assumption) | with_reducible apply Fr.chainEnd | with_reducible apply Fr.finish | with_reducible apply Fr.holdSlots | with_reducible apply Fr.setPhase | split | dsimp only | with_reducible exact k_all _ | with_reducible apply Fr.lit | with_reducible apply Fr.litAll))

theorem Fr.leaveTile {ks : List Piece} {s t : State} (h : Fr ks s t) (x1 : CtxNo) (x2 : Nat) (x3 : Cmd) (x4 : ProdJob)
    (x5 : Nat) (k_free : Piece.free ∈ ks) (k_core : Piece.core ∈ ks) (k_remote : Piece.remote ∈ ks)
    (k_evt : Piece.evt ∈ ks) (k_all : ∀ d, Piece.ctx d ∈ ks) (k_slots : Piece.slots ∈ ks) (k_tlb : Piece.tlb ∈ ks)
    (k_walks : Piece.walks ∈ ks) (k_sent : Piece.sent ∈ ks) (k_waits : Piece.waits ∈ ks) (k_chains : Piece.chains ∈ ks)
    (k_chainOut : Piece.chainOut ∈ ks) (k_tel : Piece.tel ∈ ks) :
    Fr ks s (State.leaveTile t x1 x2 x3 x4 x5) := by
  unfold State.leaveTile
  iterate 24 (all_goals try (first | with_reducible assumption | intro _ | with_reducible exact Or.inr rfl | (with_reducible refine Or.inl ?_; assumption) | with_reducible apply Fr.productEnd | with_reducible apply Fr.setJob | split | dsimp only | with_reducible exact k_all _ | with_reducible apply Fr.lit | with_reducible apply Fr.litAll))

theorem Fr.readMask {ks : List Piece} {s t : State} (h : Fr ks s t) (x1 : CtxNo) (x2 : WbPlan) (k_ctx : Piece.ctx x1 ∈ ks)
    (k_tlb : Piece.tlb ∈ ks) (k_walks : Piece.walks ∈ ks) (k_reqs : Piece.reqs ∈ ks) (k_sent : Piece.sent ∈ ks)
    (k_waits : Piece.waits ∈ ks) (k_ckpt : Piece.ckpt ∈ ks) :
    Fr ks s (State.readMask t x1 x2).2.1 := by
  unfold State.readMask
  iterate 24 (all_goals try (first | with_reducible assumption | intro _ | with_reducible exact Or.inr rfl | (with_reducible refine Or.inl ?_; assumption) | with_reducible apply Fr.closeUnit | with_reducible apply Fr.openAll | split | dsimp only | with_reducible apply Fr.lit))

theorem Fr.storeRelease {ks : List Piece} {s t : State} (h : Fr ks s t) (x1 : CtxNo) (x2 : Nat) (x3 : Bool)
    (k_slots : Piece.slots ∈ ks) :
    Fr ks s (State.storeRelease t x1 x2 x3) := by
  unfold State.storeRelease
  iterate 24 (all_goals try (first | with_reducible assumption | intro _ | with_reducible exact Or.inr rfl | (with_reducible refine Or.inl ?_; assumption) | with_reducible apply Fr.modSlot | split | dsimp only | with_reducible apply Fr.lit))

theorem Fr.storeEnd {ks : List Piece} {s t : State} (h : Fr ks s t) (x1 : CtxNo) (x2 : Nat) (x3 : Cmd) (x4 : WbPlan)
    (x5 : Nat) (x6 : Word) (x7 : Reply) (k_ctx : Piece.ctx x1 ∈ ks) (k_slots : Piece.slots ∈ ks)
    (k_sent : Piece.sent ∈ ks) (k_waits : Piece.waits ∈ ks) :
    Fr ks s (State.storeEnd t x1 x2 x3 x4 x5 x6 x7) := by
  unfold State.storeEnd
  iterate 24 (all_goals try (first | with_reducible assumption | intro _ | with_reducible exact Or.inr rfl | (with_reducible refine Or.inl ?_; assumption) | with_reducible apply Fr.finish | with_reducible apply Fr.setPhase | with_reducible apply Fr.storeRelease | split | dsimp only | with_reducible apply Fr.lit))

theorem Fr.endOverrun {ks : List Piece} {s t : State} (h : Fr ks s t) (x1 : CtxNo) (k_ctx : Piece.ctx x1 ∈ ks) :
    Fr ks s (State.endOverrun t x1) := by
  unfold State.endOverrun
  iterate 24 (all_goals try (first | with_reducible assumption | intro _ | with_reducible exact Or.inr rfl | (with_reducible refine Or.inl ?_; assumption) | with_reducible apply Fr.modCtx | with_reducible apply Fr.foldl | with_reducible apply Fr.foldl_fst | split | dsimp only | with_reducible apply Fr.lit))

theorem Fr.streamNext {ks : List Piece} {s t : State} (h : Fr ks s t) (x1 : CtxNo) (x2 : Bool) (k_ctx : Piece.ctx x1 ∈ ks) :
    Fr ks s (State.streamNext t x1 x2) := by
  unfold State.streamNext
  iterate 24 (all_goals try (first | with_reducible assumption | intro _ | with_reducible exact Or.inr rfl | (with_reducible refine Or.inl ?_; assumption) | with_reducible apply Fr.modCtx | split | dsimp only | with_reducible apply Fr.lit))

theorem Fr.streamCommit {ks : List Piece} {s t : State} (h : Fr ks s t) (x1 : CtxNo) (x2 : Nat) (x3 : Bool)
    (k_ctx : Piece.ctx x1 ∈ ks) :
    Fr ks s (State.streamCommit t x1 x2 x3) := by
  unfold State.streamCommit
  iterate 24 (all_goals try (first | with_reducible assumption | intro _ | with_reducible apply Fr.endOverrun | with_reducible apply Fr.modCtx | with_reducible apply Fr.streamNext | split | dsimp only))

theorem Fr.streamGo {ks : List Piece} {s t : State} (h : Fr ks s t) (x1 : CtxNo) (x2 : Word) (x3 : Nat → Nat) (x4 : Nat)
    (k_ctx : Piece.ctx x1 ∈ ks) :
    Fr ks s (State.streamGo t x1 x2 x3 x4).2 := by
  unfold State.streamGo
  iterate 24 (all_goals try (first | with_reducible assumption | intro _ | with_reducible exact Or.inr rfl | (with_reducible refine Or.inl ?_; assumption) | with_reducible apply Fr.modCtx | split | dsimp only | with_reducible apply Fr.lit))

theorem Fr.streamStart {ks : List Piece} {s t : State} (h : Fr ks s t) (x1 : CtxNo) (k_ctx : Piece.ctx x1 ∈ ks) :
    Fr ks s (State.streamStart t x1) := by
  unfold State.streamStart
  iterate 24 (all_goals try (first | with_reducible assumption | intro _ | with_reducible exact Or.inr rfl | (with_reducible refine Or.inl ?_; assumption) | with_reducible apply Fr.modCtx | split | dsimp only | with_reducible apply Fr.lit))

theorem Fr.useAdders {ks : List Piece} {s t : State} (h : Fr ks s t) (x1 : Nat) (k_lane : Piece.lane ∈ ks) :
    Fr ks s (State.useAdders t x1) := by
  unfold State.useAdders
  iterate 24 (all_goals try (first | with_reducible assumption | intro _ | with_reducible exact Or.inr rfl | (with_reducible refine Or.inl ?_; assumption) | split | dsimp only | with_reducible apply Fr.lit))

theorem Fr.setRt {ks : List Piece} {s t : State} (h : Fr ks s t) (x1 : Nat) (x2 : RescaleTable) (k_rts : Piece.rts ∈ ks) :
    Fr ks s (State.setRt t x1 x2) := by
  unfold State.setRt
  iterate 24 (all_goals try (first | with_reducible assumption | intro _ | with_reducible exact Or.inr rfl | (with_reducible refine Or.inl ?_; assumption) | split | dsimp only | with_reducible apply Fr.lit))

theorem Fr.windowEnd {ks : List Piece} {s t : State} (h : Fr ks s t) (x1 : Nat) (k_rts : Piece.rts ∈ ks) :
    Fr ks s (State.windowEnd t x1) := by
  unfold State.windowEnd
  iterate 24 (all_goals try (first | with_reducible assumption | intro _ | with_reducible exact Or.inr rfl | (with_reducible refine Or.inl ?_; assumption) | with_reducible apply Fr.setRt | split | dsimp only | with_reducible apply Fr.lit))

theorem Fr.countConv {ks : List Piece} {s t : State} (h : Fr ks s t) (x1 : Nat) (x2 : Nat) (x3 : BitVec 16) (x4 : Num)
    (x5 : Clip) (k_core : Piece.core ∈ ks := by apply_assumption) (k_remote : Piece.remote ∈ ks := by apply_assumption)
    (k_evt : Piece.evt ∈ ks := by apply_assumption) (k_all : ∀ d, Piece.ctx d ∈ ks := by apply_assumption)
    (k_rts : Piece.rts ∈ ks := by apply_assumption) (k_tlb : Piece.tlb ∈ ks := by apply_assumption)
    (k_walks : Piece.walks ∈ ks := by apply_assumption) :
    Fr ks s (State.countConv t x1 x2 x3 x4 x5) := by
  unfold State.countConv
  iterate 24 (all_goals try (first | with_reducible assumption | intro _ | with_reducible exact Or.inr rfl | (with_reducible refine Or.inl ?_; assumption) | with_reducible apply Fr.event | with_reducible apply Fr.setRt | with_reducible apply Fr.windowEnd | split | dsimp only | with_reducible exact k_all _ | with_reducible apply Fr.lit | with_reducible apply Fr.litAll))

theorem Fr.wbElem {ks : List Piece} {s : State} {p : State × Flag} (h : Fr ks s p.1) (c : CtxNo) (w : WbPlan) (x : Slot)
    (b1 b2 : List (Nat × Nat))
    (r1 r2 k : Nat) (k_core : Piece.core ∈ ks := by apply_assumption)
    (k_remote : Piece.remote ∈ ks := by apply_assumption) (k_evt : Piece.evt ∈ ks := by apply_assumption)
    (k_all : ∀ d, Piece.ctx d ∈ ks := by apply_assumption) (k_rts : Piece.rts ∈ ks := by apply_assumption)
    (k_tlb : Piece.tlb ∈ ks := by apply_assumption) (k_walks : Piece.walks ∈ ks := by apply_assumption) : Fr ks s
    (State.wbElem c w x b1 b2 r1 r2 p k).1 := by
  unfold State.wbElem
  dsimp only
  split
  · with_reducible exact h.putBits _ _ _ _ _
  · dsimp only
    split
    · with_reducible exact (h.putBits _ _ _ _ _).countConv _ _ _ _ _
    · with_reducible exact h.putBits _ _ _ _ _

theorem Fr.wbRow {ks : List Piece} {s t : State} (h : Fr ks s t) (x1 : CtxNo) (x2 : WbPlan) (x3 : Nat → Bool) (x4 : Nat)
    (k_core : Piece.core ∈ ks) (k_remote : Piece.remote ∈ ks) (k_evt : Piece.evt ∈ ks) (k_all : ∀ d, Piece.ctx d ∈ ks)
    (k_rts : Piece.rts ∈ ks) (k_lane : Piece.lane ∈ ks) (k_tlb : Piece.tlb ∈ ks) (k_walks : Piece.walks ∈ ks)
    (k_reqs : Piece.reqs ∈ ks) (k_sent : Piece.sent ∈ ks) (k_waits : Piece.waits ∈ ks) (k_ckpt : Piece.ckpt ∈ ks) :
    Fr ks s (State.wbRow t x1 x2 x3 x4).2.1 := by
  unfold State.wbRow
  iterate 24 (all_goals try (first | with_reducible assumption | intro _ | with_reducible apply Fr.askCapture | with_reducible apply Fr.closeUnit | with_reducible apply Fr.openWrites | with_reducible apply Fr.useAdders | with_reducible apply Fr.wbElem | with_reducible apply Fr.foldl | with_reducible apply Fr.foldl_fst | split | dsimp only | with_reducible exact k_all _))

theorem Fr.wbStoreRow {ks : List Piece} {s t : State} (h : Fr ks s t) (x1 : CtxNo) (x2 : Nat) (x3 : WbPlan)
    (x4 : Nat → Bool) (k_core : Piece.core ∈ ks) (k_remote : Piece.remote ∈ ks) (k_evt : Piece.evt ∈ ks)
    (k_all : ∀ d, Piece.ctx d ∈ ks) (k_rts : Piece.rts ∈ ks) (k_lane : Piece.lane ∈ ks) (k_tlb : Piece.tlb ∈ ks)
    (k_walks : Piece.walks ∈ ks) (k_reqs : Piece.reqs ∈ ks) (k_sent : Piece.sent ∈ ks) (k_waits : Piece.waits ∈ ks)
    (k_ckpt : Piece.ckpt ∈ ks) :
    Fr ks s (State.wbStoreRow x1 x2 x3 x4 t).2 := by
  unfold State.wbStoreRow
  iterate 24 (all_goals try (first | with_reducible assumption | intro _ | with_reducible exact Or.inr rfl | (with_reducible refine Or.inl ?_; assumption) | with_reducible apply Fr.setPhase | with_reducible apply Fr.streamCommit | with_reducible apply Fr.streamGo | with_reducible apply Fr.streamStart | with_reducible apply Fr.wbRow | split | dsimp only | with_reducible exact k_all _ | with_reducible apply Fr.lit | with_reducible apply Fr.litAll))

theorem Fr.wbStore {ks : List Piece} {s t : State} (h : Fr ks s t) (x1 : CtxNo) (x2 : Nat) (x3 : Cmd) (x4 : Nat)
    (x5 : Nat) (x6 : Nat) (x7 : Nat) (x8 : Option BoundTable) (x9 : Option (List Byte)) (k_core : Piece.core ∈ ks)
    (k_remote : Piece.remote ∈ ks) (k_evt : Piece.evt ∈ ks) (k_all : ∀ d, Piece.ctx d ∈ ks) (k_rts : Piece.rts ∈ ks)
    (k_slots : Piece.slots ∈ ks) (k_lane : Piece.lane ∈ ks) (k_tlb : Piece.tlb ∈ ks) (k_walks : Piece.walks ∈ ks)
    (k_reqs : Piece.reqs ∈ ks) (k_sent : Piece.sent ∈ ks) (k_waits : Piece.waits ∈ ks) (k_ckpt : Piece.ckpt ∈ ks) :
    Fr ks s (State.wbStore t x1 x2 x3 x4 x5 x6 x7 x8 x9) := by
  unfold State.wbStore
  iterate 24 (all_goals try (first | with_reducible assumption | intro _ | with_reducible exact Or.inr rfl | (with_reducible refine Or.inl ?_; assumption) | with_reducible apply Fr.modSlot | with_reducible apply Fr.putRecord | with_reducible apply Fr.readMask | with_reducible apply Fr.runRows | with_reducible apply Fr.setPhase | with_reducible apply Fr.storeEnd | with_reducible apply Fr.wbStoreRow | split | dsimp only | with_reducible exact k_all _ | with_reducible apply Fr.lit | with_reducible apply Fr.litAll))

theorem Fr.wbTileEnd {ks : List Piece} {s t : State} (h : Fr ks s t) (x1 : CtxNo) (x2 : LanePart) (x3 : WbPlan)
    (x4 : Nat → Bool) (k_free : Piece.free ∈ ks) (k_core : Piece.core ∈ ks) (k_remote : Piece.remote ∈ ks)
    (k_evt : Piece.evt ∈ ks) (k_all : ∀ d, Piece.ctx d ∈ ks) (k_slots : Piece.slots ∈ ks) (k_tlb : Piece.tlb ∈ ks)
    (k_walks : Piece.walks ∈ ks) (k_reqs : Piece.reqs ∈ ks) (k_sent : Piece.sent ∈ ks) (k_waits : Piece.waits ∈ ks)
    (k_chains : Piece.chains ∈ ks) (k_chainOut : Piece.chainOut ∈ ks) (k_ckpt : Piece.ckpt ∈ ks) (k_tel : Piece.tel ∈ ks) :
    Fr ks s (State.wbTileEnd t x1 x2 x3 x4) := by
  unfold State.wbTileEnd
  iterate 24 (all_goals try (first | with_reducible assumption | intro _ | with_reducible exact Or.inr rfl | (with_reducible refine Or.inl ?_; assumption) | with_reducible apply Fr.jobRecord | with_reducible apply Fr.leaveTile | with_reducible apply Fr.modSlot | with_reducible apply Fr.place | split | dsimp only | with_reducible exact k_all _ | with_reducible apply Fr.lit | with_reducible apply Fr.litAll))

theorem Fr.rowCommit {ks : List Piece} {s t : State} (h : Fr ks s t) (x1 : CtxNo) (x2 : Nat) (x3 : Nat)
    (k_ctx : Piece.ctx x1 ∈ ks) :
    Fr ks s (State.rowCommit t x1 x2 x3) := by
  unfold State.rowCommit
  iterate 24 (all_goals try (first | with_reducible assumption | intro _ | with_reducible apply Fr.endOverrun | with_reducible apply Fr.modCtx | split | dsimp only))

theorem Fr.wbTileRow {ks : List Piece} {s t : State} (h : Fr ks s t) (x1 : CtxNo) (x2 : Nat) (x3 : Nat) (x4 : WbPlan)
    (x5 : Nat → Bool) (k_core : Piece.core ∈ ks) (k_remote : Piece.remote ∈ ks) (k_evt : Piece.evt ∈ ks)
    (k_all : ∀ d, Piece.ctx d ∈ ks) (k_rts : Piece.rts ∈ ks) (k_slots : Piece.slots ∈ ks) (k_lane : Piece.lane ∈ ks)
    (k_tlb : Piece.tlb ∈ ks) (k_walks : Piece.walks ∈ ks) (k_reqs : Piece.reqs ∈ ks) (k_sent : Piece.sent ∈ ks)
    (k_waits : Piece.waits ∈ ks) (k_ckpt : Piece.ckpt ∈ ks) :
    Fr ks s (State.wbTileRow x1 x2 x3 x4 x5 t).2 := by
  unfold State.wbTileRow
  iterate 24 (all_goals try (first | with_reducible assumption | intro _ | with_reducible exact Or.inr rfl | (with_reducible refine Or.inl ?_; assumption) | with_reducible apply Fr.modSlot | with_reducible apply Fr.rowCommit | with_reducible apply Fr.setJob | with_reducible apply Fr.wbRow | split | dsimp only | with_reducible exact k_all _ | with_reducible apply Fr.lit | with_reducible apply Fr.litAll))

theorem Fr.wbTile {ks : List Piece} {s t : State} (h : Fr ks s t) (x1 : CtxNo) (x2 : LanePart) (k_free : Piece.free ∈ ks)
    (k_core : Piece.core ∈ ks) (k_remote : Piece.remote ∈ ks) (k_evt : Piece.evt ∈ ks) (k_all : ∀ d, Piece.ctx d ∈ ks)
    (k_rts : Piece.rts ∈ ks) (k_slots : Piece.slots ∈ ks) (k_lane : Piece.lane ∈ ks) (k_tlb : Piece.tlb ∈ ks)
    (k_walks : Piece.walks ∈ ks) (k_reqs : Piece.reqs ∈ ks) (k_sent : Piece.sent ∈ ks) (k_waits : Piece.waits ∈ ks)
    (k_chains : Piece.chains ∈ ks) (k_chainOut : Piece.chainOut ∈ ks) (k_ckpt : Piece.ckpt ∈ ks) (k_tel : Piece.tel ∈ ks) :
    Fr ks s (State.wbTile t x1 x2) := by
  unfold State.wbTile
  iterate 24 (all_goals try (first | with_reducible assumption | intro _ | with_reducible exact Or.inr rfl | (with_reducible refine Or.inl ?_; assumption) | with_reducible apply Fr.jobRecord | with_reducible apply Fr.leaveTile | with_reducible apply Fr.place | with_reducible apply Fr.readMask | with_reducible apply Fr.runRows | with_reducible apply Fr.setJob | with_reducible apply Fr.wbTileEnd | with_reducible apply Fr.wbTileRow | split | dsimp only | with_reducible exact k_all _ | with_reducible apply Fr.lit | with_reducible apply Fr.litAll))

theorem Fr.writeBack {ks : List Piece} {s t : State} (h : Fr ks s t) (x1 : CtxNo) (k_free : Piece.free ∈ ks)
    (k_core : Piece.core ∈ ks) (k_remote : Piece.remote ∈ ks) (k_evt : Piece.evt ∈ ks) (k_all : ∀ d, Piece.ctx d ∈ ks)
    (k_rts : Piece.rts ∈ ks) (k_slots : Piece.slots ∈ ks) (k_lane : Piece.lane ∈ ks) (k_tlb : Piece.tlb ∈ ks)
    (k_walks : Piece.walks ∈ ks) (k_reqs : Piece.reqs ∈ ks) (k_sent : Piece.sent ∈ ks) (k_waits : Piece.waits ∈ ks)
    (k_chains : Piece.chains ∈ ks) (k_chainOut : Piece.chainOut ∈ ks) (k_ckpt : Piece.ckpt ∈ ks) (k_tel : Piece.tel ∈ ks) :
    Fr ks s (State.writeBack t x1) := by
  unfold State.writeBack
  iterate 24 (all_goals try (first | with_reducible assumption | intro _ | with_reducible exact Or.inr rfl | (with_reducible refine Or.inl ?_; assumption) | with_reducible apply Fr.productEnd | with_reducible apply Fr.wbStore | with_reducible apply Fr.wbTile | split | dsimp only | with_reducible exact k_all _ | with_reducible apply Fr.lit | with_reducible apply Fr.litAll))

theorem Fr.residentDone {ks : List Piece} {s t : State} (h : Fr ks s t) (x1 : CtxNo) (x2 : Nat) (x3 : Cmd) (x4 : ProdJob)
    (x5 : Nat) (x6 : Nat) (x7 : Nat) (k_free : Piece.free ∈ ks) (k_core : Piece.core ∈ ks) (k_remote : Piece.remote ∈ ks)
    (k_evt : Piece.evt ∈ ks) (k_all : ∀ d, Piece.ctx d ∈ ks) (k_slots : Piece.slots ∈ ks) (k_tlb : Piece.tlb ∈ ks)
    (k_walks : Piece.walks ∈ ks) (k_sent : Piece.sent ∈ ks) (k_waits : Piece.waits ∈ ks) (k_chains : Piece.chains ∈ ks)
    (k_chainOut : Piece.chainOut ∈ ks) (k_tel : Piece.tel ∈ ks) :
    Fr ks s (State.residentDone t x1 x2 x3 x4 x5 x6 x7) := by
  unfold State.residentDone
  iterate 24 (all_goals try (first | with_reducible assumption | intro _ | with_reducible exact Or.inr rfl | (with_reducible refine Or.inl ?_; assumption) | with_reducible apply Fr.holdSlots | with_reducible apply Fr.leaveTile | with_reducible apply Fr.setJob | with_reducible apply Fr.writeBack | split | dsimp only | with_reducible exact k_all _ | with_reducible apply Fr.lit | with_reducible apply Fr.litAll))

theorem Fr.mergeAdd {ks : List Piece} {s t : State} (h : Fr ks s t) (x1 : CtxNo) (k_free : Piece.free ∈ ks)
    (k_core : Piece.core ∈ ks) (k_remote : Piece.remote ∈ ks) (k_evt : Piece.evt ∈ ks) (k_all : ∀ d, Piece.ctx d ∈ ks)
    (k_slots : Piece.slots ∈ ks) (k_lane : Piece.lane ∈ ks) (k_tlb : Piece.tlb ∈ ks) (k_walks : Piece.walks ∈ ks)
    (k_sent : Piece.sent ∈ ks) (k_waits : Piece.waits ∈ ks) (k_chains : Piece.chains ∈ ks)
    (k_chainOut : Piece.chainOut ∈ ks) (k_tel : Piece.tel ∈ ks) :
    Fr ks s (State.mergeAdd t x1) := by
  unfold State.mergeAdd
  iterate 24 (all_goals try (first | with_reducible assumption | intro _ | with_reducible exact Or.inr rfl | (with_reducible refine Or.inl ?_; assumption) | with_reducible apply Fr.askCapture | with_reducible apply Fr.modSlot | with_reducible apply Fr.place | with_reducible apply Fr.residentDone | with_reducible apply Fr.setSlot | with_reducible apply Fr.useAdders | split | dsimp only | with_reducible exact k_all _ | with_reducible apply Fr.lit | with_reducible apply Fr.litAll))

theorem Fr.preRow {ks : List Piece} {s t : State} (h : Fr ks s t) (x1 : CtxNo) (x2 : Word) (x3 : Opnd) (x4 : Nat)
    (x5 : Nat) (x6 : Nat) (x7 : Bool) (x8 : Nat) (x9 : Nat) (x10 : Nat) (x11 : Nat) (k_ctx : Piece.ctx x1 ∈ ks)
    (k_slots : Piece.slots ∈ ks) (k_lane : Piece.lane ∈ ks) (k_tlb : Piece.tlb ∈ ks) (k_walks : Piece.walks ∈ ks)
    (k_reqs : Piece.reqs ∈ ks) (k_sent : Piece.sent ∈ ks) (k_waits : Piece.waits ∈ ks) (k_ckpt : Piece.ckpt ∈ ks) :
    Fr ks s (State.preRow t x1 x2 x3 x4 x5 x6 x7 x8 x9 x10 x11).2 := by
  unfold State.preRow
  iterate 24 (all_goals try (first | with_reducible assumption | intro _ | with_reducible apply Fr.closeUnit | with_reducible apply Fr.modSlot | with_reducible apply Fr.openAll | with_reducible apply Fr.useAdders | with_reducible apply Fr.foldl | with_reducible apply Fr.foldl_fst | split | dsimp only))

theorem Fr.preLoadRow {ks : List Piece} {s t : State} (h : Fr ks s t) (x1 : CtxNo) (x2 : Nat) (k_ctx : Piece.ctx x1 ∈ ks)
    (k_slots : Piece.slots ∈ ks) (k_lane : Piece.lane ∈ ks) (k_tlb : Piece.tlb ∈ ks) (k_walks : Piece.walks ∈ ks)
    (k_reqs : Piece.reqs ∈ ks) (k_sent : Piece.sent ∈ ks) (k_waits : Piece.waits ∈ ks) (k_ckpt : Piece.ckpt ∈ ks) :
    Fr ks s (State.preLoadRow x1 x2 t).2 := by
  unfold State.preLoadRow
  iterate 24 (all_goals try (first | with_reducible assumption | intro _ | with_reducible exact Or.inr rfl | (with_reducible refine Or.inl ?_; assumption) | with_reducible apply Fr.loadEnd | with_reducible apply Fr.modSlot | with_reducible apply Fr.preRow | with_reducible apply Fr.rowCommit | with_reducible apply Fr.setPhase | split | dsimp only | with_reducible apply Fr.lit))

theorem Fr.preTileRow {ks : List Piece} {s t : State} (h : Fr ks s t) (x1 : CtxNo) (x2 : Nat) (x3 : Nat)
    (k_ctx : Piece.ctx x1 ∈ ks) (k_slots : Piece.slots ∈ ks) (k_lane : Piece.lane ∈ ks) (k_tlb : Piece.tlb ∈ ks)
    (k_walks : Piece.walks ∈ ks) (k_reqs : Piece.reqs ∈ ks) (k_sent : Piece.sent ∈ ks) (k_waits : Piece.waits ∈ ks)
    (k_ckpt : Piece.ckpt ∈ ks) :
    Fr ks s (State.preTileRow x1 x2 x3 t).2 := by
  unfold State.preTileRow
  iterate 24 (all_goals try (first | with_reducible assumption | intro _ | with_reducible exact Or.inr rfl | (with_reducible refine Or.inl ?_; assumption) | with_reducible apply Fr.modSlot | with_reducible apply Fr.preRow | with_reducible apply Fr.rowCommit | with_reducible apply Fr.setJob | split | dsimp only | with_reducible apply Fr.lit))

theorem Fr.preloadRows {ks : List Piece} {s t : State} (h : Fr ks s t) (x1 : CtxNo) (k_ctx : Piece.ctx x1 ∈ ks)
    (k_slots : Piece.slots ∈ ks) (k_lane : Piece.lane ∈ ks) (k_tlb : Piece.tlb ∈ ks) (k_walks : Piece.walks ∈ ks)
    (k_reqs : Piece.reqs ∈ ks) (k_sent : Piece.sent ∈ ks) (k_waits : Piece.waits ∈ ks) (k_ckpt : Piece.ckpt ∈ ks) :
    Fr ks s (State.preloadRows t x1) := by
  unfold State.preloadRows
  iterate 24 (all_goals try (first | with_reducible assumption | intro _ | with_reducible exact Or.inr rfl | (with_reducible refine Or.inl ?_; assumption) | with_reducible apply Fr.place | with_reducible apply Fr.preLoadRow | with_reducible apply Fr.preTileRow | with_reducible apply Fr.runRows | split | dsimp only | with_reducible apply Fr.lit))

theorem Fr.tileIn {ks : List Piece} {s t : State} (h : Fr ks s t) (x1 : CtxNo) (x2 : Nat) (x3 : Cmd) (x4 : ProdJob)
    (x5 : Nat) (x6 : Nat) (x7 : Bool) (x8 : Nat) (k_free : Piece.free ∈ ks) (k_core : Piece.core ∈ ks)
    (k_remote : Piece.remote ∈ ks) (k_evt : Piece.evt ∈ ks) (k_all : ∀ d, Piece.ctx d ∈ ks) (k_slots : Piece.slots ∈ ks)
    (k_tlb : Piece.tlb ∈ ks) (k_walks : Piece.walks ∈ ks) (k_sent : Piece.sent ∈ ks) (k_waits : Piece.waits ∈ ks)
    (k_chains : Piece.chains ∈ ks) (k_chainOut : Piece.chainOut ∈ ks) (k_tel : Piece.tel ∈ ks) :
    Fr ks s (State.tileIn t x1 x2 x3 x4 x5 x6 x7 x8) := by
  unfold State.tileIn
  iterate 24 (all_goals try (first | with_reducible assumption | intro _ | with_reducible exact Or.inr rfl | (with_reducible refine Or.inl ?_; assumption) | with_reducible apply Fr.mergeAdd | with_reducible apply Fr.modSlot | with_reducible apply Fr.residentDone | with_reducible apply Fr.setJob | with_reducible apply Fr.writeBack | split | dsimp only | with_reducible exact k_all _ | with_reducible apply Fr.lit | with_reducible apply Fr.litAll))

theorem Fr.segMerge {ks : List Piece} {s t : State} (h : Fr ks s t) (x1 : CtxNo) (k_free : Piece.free ∈ ks)
    (k_core : Piece.core ∈ ks) (k_remote : Piece.remote ∈ ks) (k_evt : Piece.evt ∈ ks) (k_all : ∀ d, Piece.ctx d ∈ ks)
    (k_slots : Piece.slots ∈ ks) (k_lane : Piece.lane ∈ ks) (k_tlb : Piece.tlb ∈ ks) (k_walks : Piece.walks ∈ ks)
    (k_sent : Piece.sent ∈ ks) (k_waits : Piece.waits ∈ ks) (k_chains : Piece.chains ∈ ks)
    (k_chainOut : Piece.chainOut ∈ ks) (k_tel : Piece.tel ∈ ks) :
    Fr ks s (State.segMerge t x1) := by
  unfold State.segMerge
  iterate 24 (all_goals try (first | with_reducible assumption | intro _ | with_reducible exact Or.inr rfl | (with_reducible refine Or.inl ?_; assumption) | with_reducible apply Fr.modSlot | with_reducible apply Fr.place | with_reducible apply Fr.setSlot | with_reducible apply Fr.tileIn | with_reducible apply Fr.useAdders | with_reducible apply Fr.foldl | with_reducible apply Fr.foldl_fst | split | dsimp only | with_reducible exact k_all _ | with_reducible apply Fr.lit | with_reducible apply Fr.litAll))

theorem Fr.startAccload {ks : List Piece} {s t : State} (h : Fr ks s t) (x1 : CtxNo) (k_ctx : Piece.ctx x1 ∈ ks)
    (k_slots : Piece.slots ∈ ks) (k_sent : Piece.sent ∈ ks) (k_waits : Piece.waits ∈ ks) :
    Fr ks s (State.startAccload t x1) := by
  unfold State.startAccload
  iterate 24 (all_goals try (first | with_reducible assumption | intro _ | with_reducible exact Or.inr rfl | (with_reducible refine Or.inl ?_; assumption) | with_reducible apply Fr.askCapture | with_reducible apply Fr.finish | with_reducible apply Fr.modSlot | with_reducible apply Fr.setPhase | split | dsimp only | with_reducible apply Fr.lit))

theorem Fr.startAccstore {ks : List Piece} {s t : State} (h : Fr ks s t) (x1 : CtxNo) (k_ctx : Piece.ctx x1 ∈ ks)
    (k_slots : Piece.slots ∈ ks) (k_sent : Piece.sent ∈ ks) (k_waits : Piece.waits ∈ ks) :
    Fr ks s (State.startAccstore t x1) := by
  unfold State.startAccstore
  iterate 24 (all_goals try (first | with_reducible assumption | intro _ | with_reducible exact Or.inr rfl | (with_reducible refine Or.inl ?_; assumption) | with_reducible apply Fr.askCapture | with_reducible apply Fr.finish | with_reducible apply Fr.modSlot | with_reducible apply Fr.setPhase | split | dsimp only | with_reducible apply Fr.lit))

theorem Fr.startZeroSlot {ks : List Piece} {s t : State} (h : Fr ks s t) (x1 : CtxNo) (k_ctx : Piece.ctx x1 ∈ ks)
    (k_slots : Piece.slots ∈ ks) (k_sent : Piece.sent ∈ ks) (k_waits : Piece.waits ∈ ks) :
    Fr ks s (State.startZeroSlot t x1) := by
  unfold State.startZeroSlot
  iterate 24 (all_goals try (first | with_reducible assumption | intro _ | with_reducible exact Or.inr rfl | (with_reducible refine Or.inl ?_; assumption) | with_reducible apply Fr.askCapture | with_reducible apply Fr.finish | with_reducible apply Fr.modSlot | split | dsimp only | with_reducible apply Fr.lit))

theorem Fr.zeroRow {ks : List Piece} {s t : State} (h : Fr ks s t) (x1 : CtxNo) (x2 : Nat) (x3 : Opnd)
    (k_core : Piece.core ∈ ks) (k_remote : Piece.remote ∈ ks) (k_ctx : Piece.ctx x1 ∈ ks) (k_tlb : Piece.tlb ∈ ks)
    (k_walks : Piece.walks ∈ ks) (k_reqs : Piece.reqs ∈ ks) (k_sent : Piece.sent ∈ ks) (k_waits : Piece.waits ∈ ks)
    (k_ckpt : Piece.ckpt ∈ ks) :
    Fr ks s (State.zeroRow x1 x2 x3 t).2 := by
  unfold State.zeroRow
  iterate 24 (all_goals try (first | with_reducible assumption | intro _ | with_reducible exact Or.inr rfl | (with_reducible refine Or.inl ?_; assumption) | with_reducible apply Fr.askCapture | with_reducible apply Fr.closeUnit | with_reducible apply Fr.finish | with_reducible apply Fr.openWrites | with_reducible apply Fr.putBits | with_reducible apply Fr.setPhase | with_reducible apply Fr.streamCommit | with_reducible apply Fr.streamGo | with_reducible apply Fr.streamStart | with_reducible apply Fr.foldl | with_reducible apply Fr.foldl_fst | split | dsimp only | with_reducible apply Fr.lit))

theorem Fr.zeroTensor {ks : List Piece} {s t : State} (h : Fr ks s t) (x1 : CtxNo) (k_core : Piece.core ∈ ks)
    (k_remote : Piece.remote ∈ ks) (k_ctx : Piece.ctx x1 ∈ ks) (k_tlb : Piece.tlb ∈ ks) (k_walks : Piece.walks ∈ ks)
    (k_reqs : Piece.reqs ∈ ks) (k_sent : Piece.sent ∈ ks) (k_waits : Piece.waits ∈ ks) (k_ckpt : Piece.ckpt ∈ ks) :
    Fr ks s (State.zeroTensor t x1) := by
  unfold State.zeroTensor
  iterate 24 (all_goals try (first | with_reducible assumption | intro _ | with_reducible exact Or.inr rfl | (with_reducible refine Or.inl ?_; assumption) | with_reducible apply Fr.finish | with_reducible apply Fr.runRows | with_reducible apply Fr.setPhase | with_reducible apply Fr.zeroRow | split | dsimp only | with_reducible apply Fr.lit))

theorem Fr.readImageRaw {ks : List Piece} {s t : State} (h : Fr ks s t) (x1 : CtxNo) (x2 : Word) (x3 : Nat) (x4 : Nat)
    (k_ctx : Piece.ctx x1 ∈ ks) (k_tlb : Piece.tlb ∈ ks) (k_walks : Piece.walks ∈ ks) (k_reqs : Piece.reqs ∈ ks)
    (k_waits : Piece.waits ∈ ks) :
    Fr ks s (State.readImageRaw t x1 x2 x3 x4).2 := by
  unfold State.readImageRaw
  iterate 24 (all_goals try (first | with_reducible assumption | intro _ | with_reducible apply Fr.acquire | with_reducible apply Fr.takeRaw | split | dsimp only))

theorem Fr.fetchDesc {ks : List Piece} {s t : State} (h : Fr ks s t) (x1 : CtxNo) (k_ctx : Piece.ctx x1 ∈ ks)
    (k_tlb : Piece.tlb ∈ ks) (k_walks : Piece.walks ∈ ks) (k_reqs : Piece.reqs ∈ ks) (k_sent : Piece.sent ∈ ks)
    (k_waits : Piece.waits ∈ ks) :
    Fr ks s (State.fetchDesc t x1) := by
  unfold State.fetchDesc
  iterate 24 (all_goals try (first | with_reducible assumption | intro _ | with_reducible exact Or.inr rfl | (with_reducible refine Or.inl ?_; assumption) | with_reducible apply Fr.finish | with_reducible apply Fr.modCtx | with_reducible apply Fr.readImageRaw | with_reducible apply Fr.unpin | split | dsimp only | with_reducible apply Fr.lit))

theorem Fr.makeDesc {ks : List Piece} {s t : State} (h : Fr ks s t) (x1 : CtxNo) (k_ctx : Piece.ctx x1 ∈ ks)
    (k_descs : Piece.descs ∈ ks) (k_sent : Piece.sent ∈ ks) (k_waits : Piece.waits ∈ ks) :
    Fr ks s (State.makeDesc t x1) := by
  unfold State.makeDesc
  iterate 24 (all_goals try (first | with_reducible assumption | intro _ | with_reducible exact Or.inr rfl | (with_reducible refine Or.inl ?_; assumption) | with_reducible apply Fr.finish | split | dsimp only | with_reducible apply Fr.lit))

theorem Fr.createDesc {ks : List Piece} {s t : State} (h : Fr ks s t) (x1 : CtxNo) (k_ctx : Piece.ctx x1 ∈ ks)
    (k_descs : Piece.descs ∈ ks) (k_tlb : Piece.tlb ∈ ks) (k_walks : Piece.walks ∈ ks) (k_reqs : Piece.reqs ∈ ks)
    (k_sent : Piece.sent ∈ ks) (k_waits : Piece.waits ∈ ks) :
    Fr ks s (State.createDesc t x1) := by
  unfold State.createDesc
  iterate 24 (all_goals try (first | with_reducible assumption | intro _ | with_reducible apply Fr.fetchDesc | with_reducible apply Fr.makeDesc | split | dsimp only))

theorem Fr.freeDescCmd {ks : List Piece} {s t : State} (h : Fr ks s t) (x1 : CtxNo) (k_ctx : Piece.ctx x1 ∈ ks)
    (k_descs : Piece.descs ∈ ks) (k_descGen : Piece.descGen ∈ ks) (k_sent : Piece.sent ∈ ks) (k_waits : Piece.waits ∈ ks) :
    Fr ks s (State.freeDescCmd t x1) := by
  unfold State.freeDescCmd
  iterate 24 (all_goals try (first | with_reducible assumption | intro _ | with_reducible exact Or.inr rfl | (with_reducible refine Or.inl ?_; assumption) | with_reducible apply Fr.finish | split | dsimp only | with_reducible apply Fr.lit))

theorem Fr.poll {ks : List Piece} {s t : State} (h : Fr ks s t) (x1 : CtxNo) (x2 : Nat) (x3 : Cmd) (x4 : Option Nat)
    (x5 : Nat) (x6 : Bool) (k_ctx : Piece.ctx x1 ∈ ks) (k_tlb : Piece.tlb ∈ ks) (k_walks : Piece.walks ∈ ks)
    (k_sent : Piece.sent ∈ ks) (k_waits : Piece.waits ∈ ks) :
    Fr ks s (State.poll t x1 x2 x3 x4 x5 x6) := by
  unfold State.poll
  iterate 24 (all_goals try (first | with_reducible assumption | intro _ | with_reducible apply Fr.acquire | with_reducible apply Fr.countOob | with_reducible apply Fr.finish | with_reducible apply Fr.setPhase | with_reducible apply Fr.unpin | split | dsimp only))

theorem Fr.signal {ks : List Piece} {s t : State} (h : Fr ks s t) (x1 : CtxNo) (k_core : Piece.core ∈ ks)
    (k_remote : Piece.remote ∈ ks) (k_ctx : Piece.ctx x1 ∈ ks) (k_tlb : Piece.tlb ∈ ks) (k_walks : Piece.walks ∈ ks)
    (k_sent : Piece.sent ∈ ks) (k_waits : Piece.waits ∈ ks) :
    Fr ks s (State.signal t x1) := by
  unfold State.signal
  iterate 24 (all_goals try (first | with_reducible assumption | intro _ | with_reducible exact Or.inr rfl | (with_reducible refine Or.inl ?_; assumption) | with_reducible apply Fr.acquire | with_reducible apply Fr.finish | with_reducible apply Fr.pokeN | split | dsimp only | with_reducible apply Fr.lit))

theorem Fr.startWait {ks : List Piece} {s t : State} (h : Fr ks s t) (x1 : CtxNo) (k_ctx : Piece.ctx x1 ∈ ks)
    (k_tlb : Piece.tlb ∈ ks) (k_walks : Piece.walks ∈ ks) (k_sent : Piece.sent ∈ ks) (k_waits : Piece.waits ∈ ks) :
    Fr ks s (State.startWait t x1) := by
  unfold State.startWait
  iterate 24 (all_goals try (first | with_reducible assumption | intro _ | with_reducible exact Or.inr rfl | (with_reducible refine Or.inl ?_; assumption) | with_reducible apply Fr.finish | with_reducible apply Fr.poll | with_reducible apply Fr.setPhase | split | dsimp only | with_reducible apply Fr.lit))

theorem Fr.copyBlock {ks : List Piece} {s t : State} (h : Fr ks s t) (x1 : CtxNo) (x2 : Nat) (x3 : Cmd) (x4 : Opnd)
    (x5 : List Nat) (x6 : List (Nat → Nat)) (x7 : Nat) (k_ctx : Piece.ctx x1 ∈ ks) (k_tlb : Piece.tlb ∈ ks)
    (k_walks : Piece.walks ∈ ks) (k_reqs : Piece.reqs ∈ ks) (k_sent : Piece.sent ∈ ks) (k_waits : Piece.waits ∈ ks)
    (k_ckpt : Piece.ckpt ∈ ks) :
    Fr ks s (State.copyBlock t x1 x2 x3 x4 x5 x6 x7).2 := by
  unfold State.copyBlock
  iterate 24 (all_goals try (first | with_reducible assumption | intro _ | with_reducible apply Fr.closeUnit | with_reducible apply Fr.openAll | with_reducible apply Fr.setPhase | split | dsimp only))

theorem Fr.takeDovetail {ks : List Piece} {s t : State} (h : Fr ks s t) (x1 : CtxNo) (x2 : Word)
    (k_waits : Piece.waits ∈ ks) (k_dovetail : Piece.dovetail ∈ ks) :
    Fr ks s (State.takeDovetail t x1 x2).2 := by
  unfold State.takeDovetail
  iterate 24 (all_goals try (first | with_reducible assumption | intro _ | with_reducible exact Or.inr rfl | (with_reducible refine Or.inl ?_; assumption) | with_reducible apply Fr.await | with_reducible apply Fr.unwait | split | dsimp only | with_reducible apply Fr.lit))

theorem Fr.copyHolds {ks : List Piece} {s t : State} (h : Fr ks s t) (x1 : CtxNo) (x2 : Cmd) (x3 : CopyMode) (x4 : Opnd)
    (k_staging : Piece.staging ∈ ks) (k_waits : Piece.waits ∈ ks) (k_dovetail : Piece.dovetail ∈ ks) :
    Fr ks s (State.copyHolds t x1 x2 x3 x4).2 := by
  unfold State.copyHolds
  iterate 24 (all_goals try (first | with_reducible assumption | intro _ | with_reducible exact Or.inr rfl | (with_reducible refine Or.inl ?_; assumption) | with_reducible apply Fr.takeDovetail | with_reducible apply Fr.takeStaging | split | dsimp only | with_reducible apply Fr.lit))

theorem Fr.dropCopy {ks : List Piece} {s t : State} (h : Fr ks s t) (x1 : CtxNo) (x2 : Word)
    (k_staging : Piece.staging ∈ ks) (k_dovetail : Piece.dovetail ∈ ks) :
    Fr ks s (State.dropCopy t x1 x2) := by
  unfold State.dropCopy
  iterate 24 (all_goals try (first | with_reducible assumption | intro _ | with_reducible exact Or.inr rfl | (with_reducible refine Or.inl ?_; assumption) | with_reducible apply Fr.dropStaging | split | dsimp only | with_reducible apply Fr.lit))

theorem Fr.copyRelease {ks : List Piece} {s t : State} (h : Fr ks s t) (x1 : CtxNo) (x2 : Cmd) (x3 : Bool)
    (k_staging : Piece.staging ∈ ks) (k_dovetail : Piece.dovetail ∈ ks) :
    Fr ks s (State.copyRelease t x1 x2 x3) := by
  unfold State.copyRelease
  iterate 24 (all_goals try (first | with_reducible assumption | intro _ | with_reducible apply Fr.dropCopy | with_reducible apply Fr.dropStaging | split | dsimp only))

theorem Fr.copyStore {ks : List Piece} {s t : State} (h : Fr ks s t) (x1 : CtxNo) (x2 : Opnd) (x3 : List (Nat → Nat))
    (x4 : List Nat) (k_core : Piece.core ∈ ks) (k_remote : Piece.remote ∈ ks) :
    Fr ks s (State.copyStore t x1 x2 x3 x4) := by
  unfold State.copyStore
  iterate 24 (all_goals try (first | with_reducible assumption | intro _ | with_reducible apply Fr.putBits | with_reducible apply Fr.foldl | with_reducible apply Fr.foldl_fst | split | dsimp only))

theorem Fr.copySegment {ks : List Piece} {s t : State} (h : Fr ks s t) (x1 : CtxNo) (x2 : Nat) (x3 : Cmd) (x4 : Opnd)
    (x5 : Opnd) (x6 : List Nat) (x7 : Bool) (x8 : List (Nat → Nat)) (x9 : Bool) (x10 : Bool) (x11 : Nat) (x12 : List Nat)
    (k_core : Piece.core ∈ ks) (k_remote : Piece.remote ∈ ks) (k_ctx : Piece.ctx x1 ∈ ks) (k_staging : Piece.staging ∈ ks)
    (k_tlb : Piece.tlb ∈ ks) (k_walks : Piece.walks ∈ ks) (k_reqs : Piece.reqs ∈ ks) (k_sent : Piece.sent ∈ ks)
    (k_waits : Piece.waits ∈ ks) (k_dovetail : Piece.dovetail ∈ ks) (k_ckpt : Piece.ckpt ∈ ks) :
    Fr ks s (State.copySegment t x1 x2 x3 x4 x5 x6 x7 x8 x9 x10 x11 x12).2 := by
  unfold State.copySegment
  iterate 24 (all_goals try (first | with_reducible assumption | intro _ | with_reducible apply Fr.closeUnit | with_reducible apply Fr.copyRelease | with_reducible apply Fr.copyStore | with_reducible apply Fr.openWrites | with_reducible apply Fr.setPhase | with_reducible apply Fr.streamCommit | split | dsimp only))

theorem Fr.copyDirect {ks : List Piece} {s t : State} (h : Fr ks s t) (x1 : CtxNo) (x2 : Nat) (x3 : Opnd) (x4 : Opnd)
    (x5 : List Nat) (x6 : CopyMode) (x7 : List (List (Nat → Nat) × Bool)) (k_core : Piece.core ∈ ks)
    (k_remote : Piece.remote ∈ ks) (k_ctx : Piece.ctx x1 ∈ ks) (k_staging : Piece.staging ∈ ks) (k_tlb : Piece.tlb ∈ ks)
    (k_walks : Piece.walks ∈ ks) (k_reqs : Piece.reqs ∈ ks) (k_sent : Piece.sent ∈ ks) (k_waits : Piece.waits ∈ ks)
    (k_dovetail : Piece.dovetail ∈ ks) (k_ckpt : Piece.ckpt ∈ ks) :
    Fr ks s (State.copyDirect x1 x2 x3 x4 x5 x6 x7 t).2 := by
  unfold State.copyDirect
  iterate 24 (all_goals try (first | with_reducible assumption | intro _ | with_reducible exact Or.inr rfl | (with_reducible refine Or.inl ?_; assumption) | with_reducible apply Fr.copyBlock | with_reducible apply Fr.copyHolds | with_reducible apply Fr.copySegment | with_reducible apply Fr.finish | with_reducible apply Fr.streamGo | with_reducible apply Fr.streamStart | split | dsimp only | with_reducible apply Fr.lit))

theorem Fr.copyRead {ks : List Piece} {s t : State} (h : Fr ks s t) (x1 : CtxNo) (x2 : Nat) (x3 : Cmd) (x4 : Opnd)
    (x5 : Opnd) (x6 : List Nat) (x7 : CopyMode) (x8 : Nat) (k_ctx : Piece.ctx x1 ∈ ks) (k_staging : Piece.staging ∈ ks)
    (k_tlb : Piece.tlb ∈ ks) (k_walks : Piece.walks ∈ ks) (k_reqs : Piece.reqs ∈ ks) (k_sent : Piece.sent ∈ ks)
    (k_waits : Piece.waits ∈ ks) :
    Fr ks s (State.copyRead t x1 x2 x3 x4 x5 x6 x7 x8) := by
  unfold State.copyRead
  iterate 24 (all_goals try (first | with_reducible assumption | intro _ | with_reducible exact Or.inr rfl | (with_reducible refine Or.inl ?_; assumption) | with_reducible apply Fr.copiedFirst | with_reducible apply Fr.countOob | with_reducible apply Fr.finish | with_reducible apply Fr.issue | with_reducible apply Fr.openSome | with_reducible apply Fr.setPhase | with_reducible apply Fr.streamGo | with_reducible apply Fr.streamStart | with_reducible apply Fr.takeStaging | split | dsimp only | with_reducible apply Fr.lit))

theorem Fr.copyWrite {ks : List Piece} {s t : State} (h : Fr ks s t) (x1 : CtxNo) (x2 : Nat) (x3 : Cmd) (x4 : Opnd)
    (x5 : Opnd) (x6 : List Nat) (x7 : CopyMode) (x8 : Nat) (x9 : List Nat) (x10 : Bool) (k_core : Piece.core ∈ ks)
    (k_remote : Piece.remote ∈ ks) (k_ctx : Piece.ctx x1 ∈ ks) (k_staging : Piece.staging ∈ ks) (k_reqs : Piece.reqs ∈ ks)
    (k_sent : Piece.sent ∈ ks) (k_waits : Piece.waits ∈ ks) (k_ckpt : Piece.ckpt ∈ ks) :
    Fr ks s (State.copyWrite t x1 x2 x3 x4 x5 x6 x7 x8 x9 x10) := by
  unfold State.copyWrite
  iterate 24 (all_goals try (first | with_reducible assumption | intro _ | with_reducible exact Or.inr rfl | (with_reducible refine Or.inl ?_; assumption) | with_reducible apply Fr.closeUnit | with_reducible apply Fr.countOob | with_reducible apply Fr.dropStaging | with_reducible apply Fr.endUnit | with_reducible apply Fr.finish | with_reducible apply Fr.putBits | with_reducible apply Fr.setPhase | with_reducible apply Fr.streamCommit | with_reducible apply Fr.takeSlots | with_reducible apply Fr.unpin | with_reducible apply Fr.foldl | with_reducible apply Fr.foldl_fst | split | dsimp only | with_reducible apply Fr.lit))

theorem Fr.copyStep {ks : List Piece} {s t : State} (h : Fr ks s t) (x1 : CtxNo) (x2 : Nat) (x3 : Cmd) (x4 : Bool)
    (k_core : Piece.core ∈ ks) (k_remote : Piece.remote ∈ ks) (k_ctx : Piece.ctx x1 ∈ ks) (k_staging : Piece.staging ∈ ks)
    (k_tlb : Piece.tlb ∈ ks) (k_walks : Piece.walks ∈ ks) (k_reqs : Piece.reqs ∈ ks) (k_sent : Piece.sent ∈ ks)
    (k_waits : Piece.waits ∈ ks) (k_dovetail : Piece.dovetail ∈ ks) (k_ckpt : Piece.ckpt ∈ ks) :
    Fr ks s (State.copyStep t x1 x2 x3 x4) := by
  unfold State.copyStep
  iterate 24 (all_goals try (first | with_reducible assumption | intro _ | with_reducible exact Or.inr rfl | (with_reducible refine Or.inl ?_; assumption) | with_reducible apply Fr.copyDirect | with_reducible apply Fr.copyRead | with_reducible apply Fr.copyWrite | with_reducible apply Fr.runRows | split | dsimp only | with_reducible apply Fr.lit))

theorem Fr.copyCmd {ks : List Piece} {s t : State} (h : Fr ks s t) (x1 : CtxNo) (x2 : Nat) (k_core : Piece.core ∈ ks)
    (k_remote : Piece.remote ∈ ks) (k_ctx : Piece.ctx x1 ∈ ks) (k_staging : Piece.staging ∈ ks) (k_tlb : Piece.tlb ∈ ks)
    (k_walks : Piece.walks ∈ ks) (k_reqs : Piece.reqs ∈ ks) (k_sent : Piece.sent ∈ ks) (k_waits : Piece.waits ∈ ks)
    (k_dovetail : Piece.dovetail ∈ ks) (k_ckpt : Piece.ckpt ∈ ks) :
    Fr ks s (State.copyCmd t x1 x2) := by
  unfold State.copyCmd
  iterate 24 (all_goals try (first | with_reducible assumption | intro _ | with_reducible exact Or.inr rfl | (with_reducible refine Or.inl ?_; assumption) | with_reducible apply Fr.copyStep | with_reducible apply Fr.finish | with_reducible apply Fr.setPhase | split | dsimp only | with_reducible apply Fr.lit))

theorem Fr.endWrites {ks : List Piece} {s t : State} (h : Fr ks s t) (x1 : CtxNo) (k_core : Piece.core ∈ ks)
    (k_remote : Piece.remote ∈ ks) (k_ctx : Piece.ctx x1 ∈ ks) (k_staging : Piece.staging ∈ ks) (k_tlb : Piece.tlb ∈ ks)
    (k_walks : Piece.walks ∈ ks) (k_reqs : Piece.reqs ∈ ks) (k_sent : Piece.sent ∈ ks) (k_waits : Piece.waits ∈ ks)
    (k_dovetail : Piece.dovetail ∈ ks) (k_ckpt : Piece.ckpt ∈ ks) :
    Fr ks s (State.endWrites t x1) := by
  unfold State.endWrites
  iterate 24 (all_goals try (first | with_reducible assumption | intro _ | with_reducible exact Or.inr rfl | (with_reducible refine Or.inl ?_; assumption) | with_reducible apply Fr.copyStep | with_reducible apply Fr.foldl | with_reducible apply Fr.foldl_fst | split | dsimp only | with_reducible apply Fr.lit))

theorem Fr.reportCh {ks : List Piece} {s t : State} (h : Fr ks s t) (x1 : Chan) (k_mgmt : Piece.mgmt ∈ ks) :
    Fr ks s (State.reportCh t x1) := by
  unfold State.reportCh
  iterate 24 (all_goals try (first | with_reducible assumption | intro _ | with_reducible exact Or.inr rfl | (with_reducible refine Or.inl ?_; assumption) | split | dsimp only | with_reducible apply Fr.lit))

theorem Fr.report {ks : List Piece} {s t : State} (h : Fr ks s t)  (k_mgmt : Piece.mgmt ∈ ks := by apply_assumption) :
    Fr ks s (State.report t) := by
  unfold State.report
  iterate 24 (all_goals try (first | with_reducible assumption | intro _ | with_reducible apply Fr.reportCh | with_reducible apply Fr.foldl | with_reducible apply Fr.foldl_fst | split | dsimp only))

theorem Fr.takePosition {ks : List Piece} {s t : State} (h : Fr ks s t) (x1 : Nat) (x2 : Vector (BitVec 256) 16)
    (x3 : List (BitVec 128)) (k_eng : Piece.eng ∈ ks) (k_groups : Piece.groups ∈ ks) (k_port : Piece.port ∈ ks)
    (k_mgmt : Piece.mgmt ∈ ks) (k_train : Piece.train ∈ ks) :
    Fr ks s (State.takePosition t x1 x2 x3) := by
  unfold State.takePosition
  iterate 24 (all_goals try (first | with_reducible assumption | intro _ | with_reducible exact Or.inr rfl | (with_reducible refine Or.inl ?_; assumption) | with_reducible apply Fr.report | split | dsimp only | with_reducible apply Fr.lit))

theorem Fr.assumeArea {ks : List Piece} {s t : State} (h : Fr ks s t) (x1 : CtxNo) (x2 : Nat) (x3 : Cmd) (x4 : Opnd)
    (k_eng : Piece.eng ∈ ks) (k_ctx : Piece.ctx x1 ∈ ks) (k_groups : Piece.groups ∈ ks) (k_tlb : Piece.tlb ∈ ks)
    (k_walks : Piece.walks ∈ ks) (k_reqs : Piece.reqs ∈ ks) (k_sent : Piece.sent ∈ ks) (k_waits : Piece.waits ∈ ks)
    (k_port : Piece.port ∈ ks) (k_ckpt : Piece.ckpt ∈ ks) (k_mgmt : Piece.mgmt ∈ ks) (k_train : Piece.train ∈ ks) :
    Fr ks s (State.assumeArea t x1 x2 x3 x4) := by
  unfold State.assumeArea
  iterate 24 (all_goals try (first | with_reducible assumption | intro _ | with_reducible apply Fr.closeUnit | with_reducible apply Fr.finish | with_reducible apply Fr.openAll | with_reducible apply Fr.setPhase | with_reducible apply Fr.takePosition | split | dsimp only))

theorem Fr.assumePosition {ks : List Piece} {s t : State} (h : Fr ks s t) (x1 : CtxNo) (k_eng : Piece.eng ∈ ks)
    (k_ctx : Piece.ctx x1 ∈ ks) (k_groups : Piece.groups ∈ ks) (k_tlb : Piece.tlb ∈ ks) (k_walks : Piece.walks ∈ ks)
    (k_reqs : Piece.reqs ∈ ks) (k_sent : Piece.sent ∈ ks) (k_waits : Piece.waits ∈ ks) (k_port : Piece.port ∈ ks)
    (k_ckpt : Piece.ckpt ∈ ks) (k_mgmt : Piece.mgmt ∈ ks) (k_train : Piece.train ∈ ks) :
    Fr ks s (State.assumePosition t x1) := by
  unfold State.assumePosition
  iterate 24 (all_goals try (first | with_reducible assumption | intro _ | with_reducible exact Or.inr rfl | (with_reducible refine Or.inl ?_; assumption) | with_reducible apply Fr.assumeArea | with_reducible apply Fr.finish | split | dsimp only | with_reducible apply Fr.lit))

theorem Fr.restoreParts {ks : List Piece} {s t : State} (h : Fr ks s t) (x1 : CtxNo) (x2 : Import)
    (k_rts : Piece.rts ∈ ks) (k_descs : Piece.descs ∈ ks) (k_descGen : Piece.descGen ∈ ks) (k_slots : Piece.slots ∈ ks)
    (k_touch : Piece.touch ∈ ks) :
    Fr ks s (State.restoreParts t x1 x2) := by
  unfold State.restoreParts
  iterate 24 (all_goals try (first | with_reducible assumption | intro _ | with_reducible exact Or.inr rfl | (with_reducible refine Or.inl ?_; assumption) | with_reducible apply Fr.setRt | with_reducible apply Fr.setSlot | with_reducible apply Fr.foldl | with_reducible apply Fr.foldl_fst | split | dsimp only | with_reducible apply Fr.lit))

theorem Fr.restoreImage {ks : List Piece} {s t : State} (h : Fr ks s t) (x1 : CtxNo) (x2 : BitVec 1024) (x3 : Import)
    (k_free : Piece.free ∈ ks) (k_ctx : Piece.ctx x1 ∈ ks) (k_rts : Piece.rts ∈ ks) (k_descs : Piece.descs ∈ ks)
    (k_descGen : Piece.descGen ∈ ks) (k_slots : Piece.slots ∈ ks) (k_touch : Piece.touch ∈ ks)
    (k_chains : Piece.chains ∈ ks) :
    Fr ks s (State.restoreImage t x1 x2 x3) := by
  unfold State.restoreImage
  iterate 24 (all_goals try (first | with_reducible assumption | intro _ | with_reducible apply Fr.drawFree | with_reducible apply Fr.modCtx | with_reducible apply Fr.modSlot | with_reducible apply Fr.restoreParts | with_reducible apply Fr.setChain | with_reducible apply Fr.foldl | with_reducible apply Fr.foldl_fst | split | dsimp only))

theorem Fr.importImage {ks : List Piece} {s t : State} (h : Fr ks s t) (x1 : CtxNo) (x2 : Nat) (x3 : Cmd) (x4 : Opnd)
    (k_free : Piece.free ∈ ks) (k_all : ∀ d, Piece.ctx d ∈ ks) (k_rts : Piece.rts ∈ ks) (k_descs : Piece.descs ∈ ks)
    (k_descGen : Piece.descGen ∈ ks) (k_slots : Piece.slots ∈ ks) (k_touch : Piece.touch ∈ ks) (k_tlb : Piece.tlb ∈ ks)
    (k_walks : Piece.walks ∈ ks) (k_reqs : Piece.reqs ∈ ks) (k_sent : Piece.sent ∈ ks) (k_waits : Piece.waits ∈ ks)
    (k_chains : Piece.chains ∈ ks) (k_ckpt : Piece.ckpt ∈ ks) :
    Fr ks s (State.importImage t x1 x2 x3 x4) := by
  unfold State.importImage
  iterate 24 (all_goals try (first | with_reducible assumption | intro _ | with_reducible exact Or.inr rfl | (with_reducible refine Or.inl ?_; assumption) | with_reducible apply Fr.closeUnit | with_reducible apply Fr.finish | with_reducible apply Fr.openAll | with_reducible apply Fr.restoreImage | split | dsimp only | with_reducible exact k_all _ | with_reducible apply Fr.lit | with_reducible apply Fr.litAll))

theorem Fr.readOwnSlots {ks : List Piece} {s t : State} (h : Fr ks s t) (x1 : CtxNo) (k_slots : Piece.slots ∈ ks) :
    Fr ks s (State.readOwnSlots t x1) := by
  unfold State.readOwnSlots
  iterate 24 (all_goals try (first | with_reducible assumption | intro _ | with_reducible apply Fr.modSlot | with_reducible apply Fr.foldl | split | dsimp only))

theorem Fr.settle {ks : List Piece} {s t : State} (h : Fr ks s t) (x1 : CtxNo) (k_all : ∀ d, Piece.ctx d ∈ ks)
    (k_slots : Piece.slots ∈ ks) :
    Fr ks s (State.settle t x1) := by
  unfold State.settle
  iterate 24 (all_goals try (first | with_reducible assumption | intro _ | with_reducible exact Or.inr rfl | (with_reducible refine Or.inl ?_; assumption) | with_reducible apply Fr.readOwnSlots | split | dsimp only | with_reducible exact k_all _ | with_reducible apply Fr.lit | with_reducible apply Fr.litAll))

theorem Fr.writeImage {ks : List Piece} {s t : State} (h : Fr ks s t) (x1 : CtxNo) (x2 : Nat) (x3 : Cmd) (x4 : CtxNo)
    (x5 : Nat) (x6 : List Byte) (k_free : Piece.free ∈ ks) (k_core : Piece.core ∈ ks) (k_remote : Piece.remote ∈ ks)
    (k_ctx : Piece.ctx x1 ∈ ks) (k_tlb : Piece.tlb ∈ ks) (k_walks : Piece.walks ∈ ks) (k_reqs : Piece.reqs ∈ ks)
    (k_sent : Piece.sent ∈ ks) (k_waits : Piece.waits ∈ ks) (k_sec : Piece.sec ∈ ks) :
    Fr ks s (State.writeImage t x1 x2 x3 x4 x5 x6) := by
  unfold State.writeImage
  iterate 24 (all_goals try (first | with_reducible assumption | intro _ | with_reducible exact Or.inr rfl | (with_reducible refine Or.inl ?_; assumption) | with_reducible apply Fr.countOob | with_reducible apply Fr.drawFree | with_reducible apply Fr.finish | with_reducible apply Fr.issue | with_reducible apply Fr.openAll | with_reducible apply Fr.putArea | with_reducible apply Fr.foldl | with_reducible apply Fr.foldl_fst | split | dsimp only | with_reducible apply Fr.lit))

theorem Fr.settlePoint {ks : List Piece} {s t : State} (h : Fr ks s t) (x1 : CtxNo) (k_free : Piece.free ∈ ks)
    (k_core : Piece.core ∈ ks) (k_remote : Piece.remote ∈ ks) (k_all : ∀ d, Piece.ctx d ∈ ks) (k_slots : Piece.slots ∈ ks)
    (k_tlb : Piece.tlb ∈ ks) (k_walks : Piece.walks ∈ ks) (k_reqs : Piece.reqs ∈ ks) (k_sent : Piece.sent ∈ ks)
    (k_waits : Piece.waits ∈ ks) (k_sec : Piece.sec ∈ ks) :
    Fr ks s (State.settlePoint t x1) := by
  unfold State.settlePoint
  iterate 24 (all_goals try (first | with_reducible assumption | intro _ | with_reducible exact Or.inr rfl | (with_reducible refine Or.inl ?_; assumption) | with_reducible apply Fr.settle | with_reducible apply Fr.writeImage | split | dsimp only | with_reducible exact k_all _ | with_reducible apply Fr.lit | with_reducible apply Fr.litAll))

theorem Fr.startExport {ks : List Piece} {s t : State} (h : Fr ks s t) (x1 : CtxNo) (k_ctx : Piece.ctx x1 ∈ ks)
    (k_sent : Piece.sent ∈ ks) (k_waits : Piece.waits ∈ ks) :
    Fr ks s (State.startExport t x1) := by
  unfold State.startExport
  iterate 24 (all_goals try (first | with_reducible assumption | intro _ | with_reducible exact Or.inr rfl | (with_reducible refine Or.inl ?_; assumption) | with_reducible apply Fr.finish | with_reducible apply Fr.setPhase | split | dsimp only | with_reducible apply Fr.lit))

theorem Fr.startImport {ks : List Piece} {s t : State} (h : Fr ks s t) (x1 : CtxNo) (k_free : Piece.free ∈ ks)
    (k_all : ∀ d, Piece.ctx d ∈ ks) (k_rts : Piece.rts ∈ ks) (k_descs : Piece.descs ∈ ks) (k_descGen : Piece.descGen ∈ ks)
    (k_slots : Piece.slots ∈ ks) (k_touch : Piece.touch ∈ ks) (k_tlb : Piece.tlb ∈ ks) (k_walks : Piece.walks ∈ ks)
    (k_reqs : Piece.reqs ∈ ks) (k_sent : Piece.sent ∈ ks) (k_waits : Piece.waits ∈ ks) (k_chains : Piece.chains ∈ ks)
    (k_ckpt : Piece.ckpt ∈ ks) :
    Fr ks s (State.startImport t x1) := by
  unfold State.startImport
  iterate 24 (all_goals try (first | with_reducible assumption | intro _ | with_reducible exact Or.inr rfl | (with_reducible refine Or.inl ?_; assumption) | with_reducible apply Fr.finish | with_reducible apply Fr.importImage | split | dsimp only | with_reducible exact k_all _ | with_reducible apply Fr.lit | with_reducible apply Fr.litAll))

theorem Fr.freeLocks {ks : List Piece} {s t : State} (h : Fr ks s t)  (k_locks : Piece.locks ∈ ks) :
    Fr ks s (State.freeLocks t) := by
  unfold State.freeLocks
  iterate 24 (all_goals try (first | with_reducible assumption | intro _ | with_reducible exact Or.inr rfl | (with_reducible refine Or.inl ?_; assumption) | split | dsimp only | with_reducible apply Fr.lit))

theorem Fr.gatherCommits {ks : List Piece} {s t : State} (h : Fr ks s t) (c : CtxNo) (seq : Word) (n : Nat)
    (g : GatherJob) (k_ctx : Piece.ctx c ∈ ks := by apply_assumption) :
    Fr ks s (t.gatherCommits c seq n g).1 := by
  induction n generalizing t g with
  | zero => exact h
  | succ n ih =>
    simp only [State.gatherCommits]
    split
    · exact h
    · split
      · exact h
      · exact ih (h.modCtx c _) _

theorem Fr.gatherEnd {ks : List Piece} {s t : State} (h : Fr ks s t) (x1 : CtxNo) (x2 : Nat) (x3 : Cmd) (x4 : GatherJob)
    (x5 : Byte) (k_ctx : Piece.ctx x1 ∈ ks) (k_sent : Piece.sent ∈ ks) (k_waits : Piece.waits ∈ ks) :
    Fr ks s (State.gatherEnd t x1 x2 x3 x4 x5) := by
  unfold State.gatherEnd
  iterate 24 (all_goals try (first | with_reducible assumption | intro _ | with_reducible exact Or.inr rfl | (with_reducible refine Or.inl ?_; assumption) | with_reducible apply Fr.finish | with_reducible apply Fr.setPhase | split | dsimp only | with_reducible apply Fr.lit))

theorem Fr.gatherSettle {ks : List Piece} {s t : State} (h : Fr ks s t) (x1 : CtxNo) (x2 : Nat × Cmd)
    (k_ctx : Piece.ctx x1 ∈ ks) (k_sent : Piece.sent ∈ ks) (k_waits : Piece.waits ∈ ks) :
    Fr ks s (State.gatherSettle x1 t x2) := by
  unfold State.gatherSettle
  iterate 24 (all_goals try (first | with_reducible assumption | intro _ | with_reducible exact Or.inr rfl | (with_reducible refine Or.inl ?_; assumption) | with_reducible apply Fr.endOverrun | with_reducible apply Fr.gatherCommits | with_reducible apply Fr.gatherEnd | with_reducible apply Fr.setPhase | split | dsimp only | with_reducible apply Fr.lit))

theorem Fr.gatherAll {ks : List Piece} {s t : State} (h : Fr ks s t) (x1 : CtxNo) (k_ctx : Piece.ctx x1 ∈ ks)
    (k_sent : Piece.sent ∈ ks) (k_waits : Piece.waits ∈ ks) :
    Fr ks s (State.gatherAll t x1) := by
  unfold State.gatherAll
  iterate 24 (all_goals try (first | with_reducible assumption | intro _ | with_reducible apply Fr.gatherSettle | with_reducible apply Fr.foldl | with_reducible apply Fr.foldl_fst | split | dsimp only))

theorem Fr.gatherRow {ks : List Piece} {s src : State} {p : State × Flag} (h : Fr ks s p.1) (c : CtxNo) (g : GatherOps)
    (b1 b2 b3 : List (Nat × Nat))
    (col n : Nat) (x : Nat × List Nat) (k_core : Piece.core ∈ ks := by apply_assumption)
    (k_remote : Piece.remote ∈ ks := by apply_assumption) : Fr ks s (State.gatherRow src c g b1 b2 b3 col n p x).1 := by
  unfold State.gatherRow
  with_reducible exact Fr.foldl_fst (fun q e hq => hq.putBits _ _ _ _ _) _ h

theorem Fr.rowsDone {ks : List Piece} {s t : State} (h : Fr ks s t)  (k_all : ∀ d, Piece.ctx d ∈ ks)
    (k_sent : Piece.sent ∈ ks) (k_waits : Piece.waits ∈ ks) (k_locks : Piece.locks ∈ ks) :
    Fr ks s (State.rowsDone t) := by
  unfold State.rowsDone
  iterate 24 (all_goals try (first | with_reducible assumption | intro _ | with_reducible apply Fr.freeLocks | with_reducible apply Fr.gatherAll | with_reducible apply Fr.foldl | with_reducible apply Fr.foldl_fst | split | dsimp only | with_reducible exact k_all _))

theorem Fr.gatherRun {ks : List Piece} {s t : State} (h : Fr ks s t) (x1 : CtxNo) (x2 : Nat) (x3 : Cmd) (x4 : GatherOps)
    (x5 : GatherJob) (x6 : GatherAccs) (x7 : GatherPlan) (x8 : Nat) (k_core : Piece.core ∈ ks)
    (k_remote : Piece.remote ∈ ks) (k_all : ∀ d, Piece.ctx d ∈ ks) (k_reqs : Piece.reqs ∈ ks) (k_sent : Piece.sent ∈ ks)
    (k_waits : Piece.waits ∈ ks) (k_locks : Piece.locks ∈ ks) (k_ckpt : Piece.ckpt ∈ ks) :
    Fr ks s (State.gatherRun t x1 x2 x3 x4 x5 x6 x7 x8) := by
  unfold State.gatherRun
  iterate 24 (all_goals try (first | with_reducible assumption | intro _ | with_reducible exact Or.inr rfl | (with_reducible refine Or.inl ?_; assumption) | with_reducible apply Fr.closeUnit | with_reducible apply Fr.countOob | with_reducible apply Fr.gatherRow | with_reducible apply Fr.issue | with_reducible apply Fr.modCtx | with_reducible apply Fr.rowsDone | with_reducible apply Fr.setPhase | with_reducible apply Fr.streamNext | with_reducible apply Fr.foldl | with_reducible apply Fr.foldl_fst | split | dsimp only | with_reducible exact k_all _ | with_reducible apply Fr.lit | with_reducible apply Fr.litAll))

theorem Fr.gatherWindow {ks : List Piece} {s t : State} (h : Fr ks s t) (x1 : CtxNo) (x2 : Nat) (x3 : Cmd)
    (x4 : GatherOps) (x5 : GatherJob) (k_core : Piece.core ∈ ks) (k_remote : Piece.remote ∈ ks)
    (k_all : ∀ d, Piece.ctx d ∈ ks) (k_tlb : Piece.tlb ∈ ks) (k_walks : Piece.walks ∈ ks) (k_reqs : Piece.reqs ∈ ks)
    (k_sent : Piece.sent ∈ ks) (k_waits : Piece.waits ∈ ks) (k_locks : Piece.locks ∈ ks) (k_ckpt : Piece.ckpt ∈ ks) :
    Fr ks s (State.gatherWindow t x1 x2 x3 x4 x5) := by
  unfold State.gatherWindow
  iterate 24 (all_goals try (first | with_reducible assumption | intro _ | with_reducible exact Or.inr rfl | (with_reducible refine Or.inl ?_; assumption) | with_reducible apply Fr.askCapture | with_reducible apply Fr.gatherRun | with_reducible apply Fr.openAll | with_reducible apply Fr.openWrites | with_reducible apply Fr.streamGo | with_reducible apply Fr.streamStart | split | dsimp only | with_reducible exact k_all _ | with_reducible apply Fr.lit | with_reducible apply Fr.litAll))

theorem Fr.gleaner {ks : List Piece} {s t : State} (h : Fr ks s t) (x1 : CtxNo) (k_core : Piece.core ∈ ks)
    (k_remote : Piece.remote ∈ ks) (k_all : ∀ d, Piece.ctx d ∈ ks) (k_tlb : Piece.tlb ∈ ks) (k_walks : Piece.walks ∈ ks)
    (k_reqs : Piece.reqs ∈ ks) (k_sent : Piece.sent ∈ ks) (k_waits : Piece.waits ∈ ks) (k_locks : Piece.locks ∈ ks)
    (k_ckpt : Piece.ckpt ∈ ks) :
    Fr ks s (State.gleaner t x1) := by
  unfold State.gleaner
  iterate 24 (all_goals try (first | with_reducible assumption | intro _ | with_reducible exact Or.inr rfl | (with_reducible refine Or.inl ?_; assumption) | with_reducible apply Fr.gatherWindow | split | dsimp only | with_reducible exact k_all _ | with_reducible apply Fr.lit | with_reducible apply Fr.litAll))

theorem Fr.startGather {ks : List Piece} {s t : State} (h : Fr ks s t) (x1 : CtxNo) (k_ctx : Piece.ctx x1 ∈ ks)
    (k_sent : Piece.sent ∈ ks) (k_waits : Piece.waits ∈ ks) :
    Fr ks s (State.startGather t x1) := by
  unfold State.startGather
  iterate 24 (all_goals try (first | with_reducible assumption | intro _ | with_reducible exact Or.inr rfl | (with_reducible refine Or.inl ?_; assumption) | with_reducible apply Fr.finish | with_reducible apply Fr.setPhase | split | dsimp only | with_reducible apply Fr.lit))

theorem Fr.channels {ks : List Piece} {s t : State} (h : Fr ks s t) (x1 : CtxNo) (x2 : Word) (x3 : Nat)
    (k_waits : Piece.waits ∈ ks := by apply_assumption) :
    Fr ks s (State.channels t x1 x2 x3).2 := by
  unfold State.channels
  iterate 24 (all_goals try (first | with_reducible assumption | intro _ | with_reducible apply Fr.await | with_reducible apply Fr.unwait | split | dsimp only))

theorem Fr.enterTile {ks : List Piece} {s t : State} (h : Fr ks s t) (x1 : CtxNo) (x2 : Word) (x3 : Nat)
    (k_ctx : Piece.ctx x1 ∈ ks := by apply_assumption) :
    Fr ks s (State.enterTile x1 x2 t x3) := by
  unfold State.enterTile
  iterate 24 (all_goals try (first | with_reducible assumption | intro _ | with_reducible exact Or.inr rfl | (with_reducible refine Or.inl ?_; assumption) | with_reducible apply Fr.place | with_reducible apply Fr.setJob | with_reducible apply Fr.foldl | with_reducible apply Fr.foldl_fst | split | dsimp only | with_reducible apply Fr.lit))

theorem Fr.takeTurn {ks : List Piece} {s t : State} (h : Fr ks s t) (x1 : CtxNo) (k_schedLast : Piece.schedLast ∈ ks)
    (k_schedTurn : Piece.schedTurn ∈ ks) :
    Fr ks s (State.takeTurn t x1) := by
  unfold State.takeTurn
  iterate 24 (all_goals try (first | with_reducible assumption | intro _ | with_reducible exact Or.inr rfl | (with_reducible refine Or.inl ?_; assumption) | split | dsimp only | with_reducible apply Fr.lit))

theorem Fr.noteSlice {ks : List Piece} {s t : State} (h : Fr ks s t) (x1 : CtxNo) (x2 : Bool)
    (k_ctx : Piece.ctx x1 ∈ ks := by apply_assumption) (k_schedLast : Piece.schedLast ∈ ks := by apply_assumption)
    (k_schedTurn : Piece.schedTurn ∈ ks := by apply_assumption) :
    Fr ks s (State.noteSlice t x1 x2) := by
  unfold State.noteSlice
  iterate 24 (all_goals try (first | with_reducible assumption | intro _ | with_reducible exact Or.inr rfl | (with_reducible refine Or.inl ?_; assumption) | with_reducible apply Fr.modCtx | with_reducible apply Fr.takeTurn | split | dsimp only | with_reducible apply Fr.lit))

theorem Fr.admitProduct {ks : List Piece} {s t : State} (h : Fr ks s t) (c : CtxNo) (f : Bool) (j : ProdJob)
    (k_ctx : Piece.ctx c ∈ ks := by apply_assumption) (k_schedLast : Piece.schedLast ∈ ks := by apply_assumption)
    (k_schedTurn : Piece.schedTurn ∈ ks := by apply_assumption) (k_lane : Piece.lane ∈ ks := by apply_assumption)
    (k_waits : Piece.waits ∈ ks := by apply_assumption) :
    Fr ks s (t.admitProduct c f j) := by
  have st : ∀ u : State, Fr ks s u → ∀ x : Lane, Fr ks s { u with lane := x } := by
    intro u hu x
    (with_reducible apply Fr.lit hu) <;> first | with_reducible exact Or.inr rfl | (refine Or.inl ?_; assumption)
  have en : ∀ (l : List Nat) (u : State), Fr ks s u → Fr ks s (l.foldl (State.enterTile c j.lead) u) := fun l u hu =>
    Fr.foldl (fun v x hv => hv.enterTile c j.lead x) l hu
  have ch : ∀ n, Fr ks s (t.channels c j.lead n).2 := fun n => by exact h.channels c j.lead n
  have h7 : ∀ l : Lane, ∀ a n, Fr ks s (({ List.foldl (State.enterTile c j.lead) (t.channels c j.lead n).2 a with lane := l }).noteSlice c f) :=
    fun l a n => (st _ (en a _ (ch n)) l).noteSlice c f
  unfold State.admitProduct
  extract_lets a fit need d s1 run
  split
  · with_reducible exact h.modCtx c _ k_ctx
  · split
    · exact ch _
    · with_reducible exact h7 _ _ _

theorem Fr.admitReduce {ks : List Piece} {s t : State} (h : Fr ks s t) (x1 : CtxNo) (x2 : Bool) (x3 : Cmd) (x4 : Nat)
    (x5 : Bool) (k_ctx : Piece.ctx x1 ∈ ks) (k_schedLast : Piece.schedLast ∈ ks) (k_schedTurn : Piece.schedTurn ∈ ks)
    (k_lane : Piece.lane ∈ ks) (k_waits : Piece.waits ∈ ks) :
    Fr ks s (State.admitReduce t x1 x2 x3 x4 x5) := by
  unfold State.admitReduce
  iterate 24 (all_goals try (first | with_reducible assumption | intro _ | with_reducible exact Or.inr rfl | (with_reducible refine Or.inl ?_; assumption) | with_reducible apply Fr.channels | with_reducible apply Fr.modCtx | with_reducible apply Fr.noteSlice | split | dsimp only | with_reducible apply Fr.lit))

theorem Fr.logErr {ks : List Piece} {s t : State} (h : Fr ks s t) (x1 : BitVec 6) (x2 : BitVec 2) (x3 : BitVec 4)
    (x4 : Option CtxNo) (x5 : BitVec 64) (x6 : BitVec 64) (k_eng : Piece.eng ∈ ks) (k_log : Piece.log ∈ ks)
    (k_mgmt : Piece.mgmt ∈ ks) :
    Fr ks s (State.logErr t x1 x2 x3 x4 x5 x6) := by
  unfold State.logErr
  iterate 24 (all_goals try (first | with_reducible assumption | intro _ | with_reducible exact Or.inr rfl | (with_reducible refine Or.inl ?_; assumption) | split | dsimp only | with_reducible apply Fr.lit))

theorem Fr.resync {ks : List Piece} {s t : State} (h : Fr ks s t) (x1 : CtxNo) (x2 : Nat) (x3 : Cmd) (x4 : ProdOps)
    (x5 : ProdJob) (k_eng : Piece.eng ∈ ks) (k_ctx : Piece.ctx x1 ∈ ks) (k_log : Piece.log ∈ ks) (k_mgmt : Piece.mgmt ∈ ks) :
    Fr ks s (State.resync t x1 x2 x3 x4 x5) := by
  unfold State.resync
  iterate 24 (all_goals try (first | with_reducible assumption | intro _ | with_reducible exact Or.inr rfl | (with_reducible refine Or.inl ?_; assumption) | with_reducible apply Fr.logErr | with_reducible apply Fr.setJob | with_reducible apply Fr.foldl | with_reducible apply Fr.foldl_fst | split | dsimp only | with_reducible apply Fr.lit))

theorem Fr.tileOut {ks : List Piece} {s t : State} (h : Fr ks s t) (x1 : CtxNo) (x2 : Cmd) (x3 : ProdOps) (x4 : Nat)
    (x5 : Nat) (k_ctx : Piece.ctx x1 ∈ ks) (k_tlb : Piece.tlb ∈ ks) (k_walks : Piece.walks ∈ ks)
    (k_reqs : Piece.reqs ∈ ks) (k_sent : Piece.sent ∈ ks) (k_waits : Piece.waits ∈ ks) (k_ckpt : Piece.ckpt ∈ ks) :
    Fr ks s (State.tileOut t x1 x2 x3 x4 x5).2.1 := by
  unfold State.tileOut
  iterate 24 (all_goals try (first | with_reducible assumption | intro _ | with_reducible exact Or.inr rfl | (with_reducible refine Or.inl ?_; assumption) | with_reducible apply Fr.closeUnit | with_reducible apply Fr.openAll | split | dsimp only | with_reducible apply Fr.lit))

theorem Fr.retile {ks : List Piece} {s t : State} (h : Fr ks s t) (x1 : CtxNo) (x2 : Nat) (x3 : Cmd) (x4 : ProdJob)
    (x5 : ProdOps) (k_eng : Piece.eng ∈ ks) (k_ctx : Piece.ctx x1 ∈ ks) (k_tlb : Piece.tlb ∈ ks)
    (k_walks : Piece.walks ∈ ks) (k_reqs : Piece.reqs ∈ ks) (k_sent : Piece.sent ∈ ks) (k_waits : Piece.waits ∈ ks)
    (k_ckpt : Piece.ckpt ∈ ks) (k_log : Piece.log ∈ ks) (k_mgmt : Piece.mgmt ∈ ks) :
    Fr ks s (State.retile t x1 x2 x3 x4 x5) := by
  unfold State.retile
  iterate 24 (all_goals try (first | with_reducible assumption | intro _ | with_reducible apply Fr.resync | with_reducible apply Fr.tileOut | split | dsimp only))

theorem Fr.admitSlice {ks : List Piece} {s t : State} (h : Fr ks s t) (x1 : CtxNo) (x2 : Bool) (k_eng : Piece.eng ∈ ks)
    (k_ctx : Piece.ctx x1 ∈ ks) (k_schedLast : Piece.schedLast ∈ ks) (k_schedTurn : Piece.schedTurn ∈ ks)
    (k_slots : Piece.slots ∈ ks) (k_lane : Piece.lane ∈ ks) (k_tlb : Piece.tlb ∈ ks) (k_walks : Piece.walks ∈ ks)
    (k_reqs : Piece.reqs ∈ ks) (k_sent : Piece.sent ∈ ks) (k_waits : Piece.waits ∈ ks) (k_ckpt : Piece.ckpt ∈ ks)
    (k_log : Piece.log ∈ ks) (k_mgmt : Piece.mgmt ∈ ks) :
    Fr ks s (State.admitSlice t x1 x2) := by
  unfold State.admitSlice
  iterate 24 (all_goals try (first | with_reducible assumption | intro _ | with_reducible exact Or.inr rfl | (with_reducible refine Or.inl ?_; assumption) | with_reducible apply Fr.admitProduct | with_reducible apply Fr.admitReduce | with_reducible apply Fr.place | with_reducible apply Fr.retile | with_reducible apply Fr.foldl | with_reducible apply Fr.foldl_fst | split | dsimp only | with_reducible apply Fr.lit))

theorem Fr.turnTile {ks : List Piece} {s t : State} (h : Fr ks s t) (x1 : CtxNo) (k_schedTurn : Piece.schedTurn ∈ ks) :
    Fr ks s (State.turnTile t x1) := by
  unfold State.turnTile
  iterate 24 (all_goals try (first | with_reducible assumption | intro _ | with_reducible exact Or.inr rfl | (with_reducible refine Or.inl ?_; assumption) | split | dsimp only | with_reducible apply Fr.lit))

theorem Fr.tileDone {ks : List Piece} {s t : State} (h : Fr ks s t) (x1 : CtxNo) (x2 : Nat) (x3 : Cmd) (x4 : ProdJob)
    (x5 : TileRun) (k_free : Piece.free ∈ ks) (k_core : Piece.core ∈ ks) (k_remote : Piece.remote ∈ ks)
    (k_evt : Piece.evt ∈ ks) (k_all : ∀ d, Piece.ctx d ∈ ks) (k_schedTurn : Piece.schedTurn ∈ ks)
    (k_slots : Piece.slots ∈ ks) (k_lane : Piece.lane ∈ ks) (k_tlb : Piece.tlb ∈ ks) (k_walks : Piece.walks ∈ ks)
    (k_sent : Piece.sent ∈ ks) (k_waits : Piece.waits ∈ ks) (k_chains : Piece.chains ∈ ks)
    (k_chainOut : Piece.chainOut ∈ ks) (k_tel : Piece.tel ∈ ks) :
    Fr ks s (State.tileDone t x1 x2 x3 x4 x5) := by
  unfold State.tileDone
  iterate 24 (all_goals try (first | with_reducible assumption | intro _ | with_reducible exact Or.inr rfl | (with_reducible refine Or.inl ?_; assumption) | with_reducible apply Fr.segMerge | with_reducible apply Fr.setJob | with_reducible apply Fr.tileIn | with_reducible apply Fr.turnTile | split | dsimp only | with_reducible exact k_all _ | with_reducible apply Fr.lit | with_reducible apply Fr.litAll))

theorem Fr.endSlice {ks : List Piece} {s t : State} (h : Fr ks s t) (x1 : CtxNo) (x2 : Bool) (k_ctx : Piece.ctx x1 ∈ ks)
    (k_lane : Piece.lane ∈ ks) :
    Fr ks s (State.endSlice t x1 x2) := by
  unfold State.endSlice
  iterate 24 (all_goals try (first | with_reducible assumption | intro _ | with_reducible exact Or.inr rfl | (with_reducible refine Or.inl ?_; assumption) | with_reducible apply Fr.modCtx | split | dsimp only | with_reducible apply Fr.lit))

theorem Fr.trySliceEnd {ks : List Piece} {s t : State} (h : Fr ks s t)  (k_all : ∀ d, Piece.ctx d ∈ ks)
    (k_lane : Piece.lane ∈ ks) :
    Fr ks s (State.trySliceEnd t) := by
  unfold State.trySliceEnd
  iterate 24 (all_goals try (first | with_reducible assumption | intro _ | with_reducible exact Or.inr rfl | (with_reducible refine Or.inl ?_; assumption) | with_reducible apply Fr.endSlice | split | dsimp only | with_reducible exact k_all _ | with_reducible apply Fr.lit | with_reducible apply Fr.litAll))

theorem Fr.commitInterval {ks : List Piece} {s t : State} (h : Fr ks s t) (x1 : Interval) (k_free : Piece.free ∈ ks)
    (k_core : Piece.core ∈ ks) (k_remote : Piece.remote ∈ ks) (k_evt : Piece.evt ∈ ks) (k_all : ∀ d, Piece.ctx d ∈ ks)
    (k_schedTurn : Piece.schedTurn ∈ ks) (k_slots : Piece.slots ∈ ks) (k_lane : Piece.lane ∈ ks) (k_tlb : Piece.tlb ∈ ks)
    (k_walks : Piece.walks ∈ ks) (k_sent : Piece.sent ∈ ks) (k_waits : Piece.waits ∈ ks) (k_chains : Piece.chains ∈ ks)
    (k_chainOut : Piece.chainOut ∈ ks) (k_tel : Piece.tel ∈ ks) :
    Fr ks s (State.commitInterval t x1) := by
  unfold State.commitInterval
  iterate 24 (all_goals try (first | with_reducible assumption | intro _ | with_reducible exact Or.inr rfl | (with_reducible refine Or.inl ?_; assumption) | with_reducible apply Fr.endOverrun | with_reducible apply Fr.modCtx | with_reducible apply Fr.modSlot | with_reducible apply Fr.setJob | with_reducible apply Fr.tileDone | with_reducible apply Fr.trySliceEnd | split | dsimp only | with_reducible exact k_all _ | with_reducible apply Fr.lit | with_reducible apply Fr.litAll))

theorem Fr.drainGroup {ks : List Piece} {s t : State} (h : Fr ks s t) (x1 : Fin 16) (k_free : Piece.free ∈ ks)
    (k_core : Piece.core ∈ ks) (k_remote : Piece.remote ∈ ks) (k_evt : Piece.evt ∈ ks) (k_all : ∀ d, Piece.ctx d ∈ ks)
    (k_schedTurn : Piece.schedTurn ∈ ks) (k_slots : Piece.slots ∈ ks) (k_lane : Piece.lane ∈ ks) (k_tlb : Piece.tlb ∈ ks)
    (k_walks : Piece.walks ∈ ks) (k_sent : Piece.sent ∈ ks) (k_waits : Piece.waits ∈ ks) (k_chains : Piece.chains ∈ ks)
    (k_chainOut : Piece.chainOut ∈ ks) (k_tel : Piece.tel ∈ ks) :
    Fr ks s (State.drainGroup t x1) := by
  unfold State.drainGroup
  iterate 24 (all_goals try (first | with_reducible assumption | intro _ | with_reducible exact Or.inr rfl | (with_reducible refine Or.inl ?_; assumption) | with_reducible apply Fr.commitInterval | with_reducible apply Fr.modSlot | split | dsimp only | with_reducible exact k_all _ | with_reducible apply Fr.lit | with_reducible apply Fr.litAll))

theorem Fr.chainUse {ks : List Piece} {s t : State} (h : Fr ks s t) (x1 : Cmd) (x2 : ProdOps) (x3 : ProdJob) (x4 : Nat)
    (x5 : Nat) (x6 : List Nat) (k_chains : Piece.chains ∈ ks) (k_chainOut : Piece.chainOut ∈ ks) :
    Fr ks s (State.chainUse t x1 x2 x3 x4 x5 x6) := by
  unfold State.chainUse
  iterate 24 (all_goals try (first | with_reducible assumption | intro _ | with_reducible exact Or.inr rfl | (with_reducible refine Or.inl ?_; assumption) | with_reducible apply Fr.settleChain | split | dsimp only | with_reducible apply Fr.lit))

theorem Fr.recordRange {ks : List Piece} {s t : State} (h : Fr ks s t) (x1 : Nat) (x2 : Nat) (x3 : Num)
    (k_rts : Piece.rts ∈ ks) :
    Fr ks s (State.recordRange t x1 x2 x3) := by
  unfold State.recordRange
  iterate 24 (all_goals try (first | with_reducible assumption | intro _ | with_reducible apply Fr.setRt | split | dsimp only))

theorem Fr.recordStats {ks : List Piece} {s t : State} (h : Fr ks s t) (x1 : Opnd) (x2 : List ((Nat → Nat) × Num))
    (k_rts : Piece.rts ∈ ks := by apply_assumption) :
    Fr ks s (State.recordStats t x1 x2) := by
  unfold State.recordStats
  iterate 24 (all_goals try (first | with_reducible assumption | intro _ | with_reducible apply Fr.recordRange | with_reducible apply Fr.foldl | with_reducible apply Fr.foldl_fst | split | dsimp only))

theorem Fr.fillMember {ks : List Piece} {s t : State} (h : Fr ks s t) (x1 : CtxNo) (x2 : Nat) (x3 : Nat) (x4 : Bool)
    (x5 : List (Option Nat)) (x6 : LanePart × Bool) (k_ctx : Piece.ctx x1 ∈ ks) (k_rts : Piece.rts ∈ ks)
    (k_lane : Piece.lane ∈ ks) (k_chains : Piece.chains ∈ ks) (k_chainOut : Piece.chainOut ∈ ks) (k_tel : Piece.tel ∈ ks)
    (k_pow : Piece.pow ∈ ks) :
    Fr ks s (State.fillMember x1 x2 x3 x4 x5 t x6) := by
  unfold State.fillMember
  iterate 24 (all_goals try (first | with_reducible assumption | intro _ | with_reducible exact Or.inr rfl | (with_reducible refine Or.inl ?_; assumption) | with_reducible apply Fr.chainUse | with_reducible apply Fr.place | with_reducible apply Fr.recordStats | with_reducible apply Fr.setJob | split | dsimp only | with_reducible apply Fr.lit))

theorem Fr.chainTake {ks : List Piece} {s t : State} (h : Fr ks s t) (x1 : Cmd) (x2 : ProdOps) (x3 : ProdJob) (x4 : Nat)
    (x5 : Nat) (k_chains : Piece.chains ∈ ks) (k_chainOut : Piece.chainOut ∈ ks) :
    Fr ks s (State.chainTake t x1 x2 x3 x4 x5) := by
  unfold State.chainTake
  iterate 24 (all_goals try (first | with_reducible assumption | intro _ | with_reducible exact Or.inr rfl | (with_reducible refine Or.inl ?_; assumption) | with_reducible apply Fr.settleChain | split | dsimp only | with_reducible apply Fr.lit))

theorem Fr.prefetchAcc {ks : List Piece} {s t : State} (h : Fr ks s t) (x1 : CtxNo) (x2 : Word) (x3 : Acc)
    (k_walks : Piece.walks ∈ ks) (k_reqs : Piece.reqs ∈ ks) (k_sent : Piece.sent ∈ ks) (k_tel : Piece.tel ∈ ks) :
    Fr ks s (State.prefetchAcc x1 x2 t x3) := by
  unfold State.prefetchAcc
  iterate 24 (all_goals try (first | with_reducible assumption | intro _ | with_reducible exact Or.inr rfl | (with_reducible refine Or.inl ?_; assumption) | with_reducible apply Fr.noteSent | with_reducible apply Fr.foldl | with_reducible apply Fr.foldl_fst | split | dsimp only | with_reducible apply Fr.lit))

theorem Fr.prefetch {ks : List Piece} {s t : State} (h : Fr ks s t) (x1 : CtxNo) (x2 : Word) (x3 : List Acc)
    (k_walks : Piece.walks ∈ ks) (k_reqs : Piece.reqs ∈ ks) (k_sent : Piece.sent ∈ ks) (k_tel : Piece.tel ∈ ks) :
    Fr ks s (State.prefetch t x1 x2 x3) := by
  unfold State.prefetch
  iterate 24 (all_goals try (first | with_reducible assumption | intro _ | with_reducible apply Fr.prefetchAcc | with_reducible apply Fr.foldl | with_reducible apply Fr.foldl_fst | split | dsimp only))

theorem Fr.fillPart {ks : List Piece} {s t : State} (h : Fr ks s t) (x1 : CtxNo) (x2 : SlicePart)
    (k_ctx : Piece.ctx x1 ∈ ks) (k_rts : Piece.rts ∈ ks) (k_lane : Piece.lane ∈ ks) (k_tlb : Piece.tlb ∈ ks)
    (k_walks : Piece.walks ∈ ks) (k_reqs : Piece.reqs ∈ ks) (k_sent : Piece.sent ∈ ks) (k_waits : Piece.waits ∈ ks)
    (k_chains : Piece.chains ∈ ks) (k_chainOut : Piece.chainOut ∈ ks) (k_ckpt : Piece.ckpt ∈ ks) (k_tel : Piece.tel ∈ ks)
    (k_pow : Piece.pow ∈ ks) :
    Fr ks s (State.fillPart t x1 x2) := by
  unfold State.fillPart
  iterate 24 (all_goals try (first | with_reducible assumption | intro _ | with_reducible exact Or.inr rfl | (with_reducible refine Or.inl ?_; assumption) | with_reducible apply Fr.chainTake | with_reducible apply Fr.closeUnit | with_reducible apply Fr.fillMember | with_reducible apply Fr.openAll | with_reducible apply Fr.prefetch | with_reducible apply Fr.foldl | with_reducible apply Fr.foldl_fst | split | dsimp only | with_reducible apply Fr.lit))

theorem Fr.headD_mem {α : Type} {p : α → Prop} {l : List α} {d : α} (h : ∀ x ∈ l, p x) (k : p d) : p (l.headD d) := by
  cases l with
  | nil => exact k
  | cons a r => exact h a (List.mem_cons_self ..)

theorem Fr.firstOpen {ks : List Piece} {s t : State} (h : Fr ks s t) (c : CtxNo) (k_ctx : Piece.ctx c ∈ ks := by apply_assumption) (k_tlb : Piece.tlb ∈ ks := by apply_assumption) (k_walks : Piece.walks ∈ ks := by apply_assumption) (k_reqs : Piece.reqs ∈ ks := by apply_assumption) (k_sent : Piece.sent ∈ ks := by apply_assumption) (k_waits : Piece.waits ∈ ks := by apply_assumption) : Fr ks s (t.firstOpen c).2 := by
  have oa : ∀ q l, Fr ks s (t.openAll c q l).2 := fun q l => by
    with_reducible apply h.openAll c q l
    all_goals assumption
  unfold State.firstOpen
  split
  · exact h
  · split
    · split
      · exact h
      · dsimp only
        split
        · exact h
        · refine Fr.headD_mem (p := fun q : Bool × State => Fr ks s q.2) (fun q hq => ?_) h
          obtain ⟨n, _, rfl⟩ := List.mem_map.mp hq
          split
          · exact h
          · exact oa _ _
    · split
      · dsimp only
        split
        · exact h
        · exact oa _ _
      · exact h
    · exact h

theorem Fr.prepareFor {ks : List Piece} {s t : State} (h : Fr ks s t) (x1 : CtxNo) (k_pow : Piece.pow ∈ ks) :
    Fr ks s (State.prepareFor t x1) := by
  unfold State.prepareFor
  iterate 24 (all_goals try (first | with_reducible assumption | intro _ | with_reducible exact Or.inr rfl | (with_reducible refine Or.inl ?_; assumption) | split | dsimp only | with_reducible apply Fr.lit))

theorem Fr.prepareNext {ks : List Piece} {s t : State} (h : Fr ks s t)  (k_pow : Piece.pow ∈ ks) :
    Fr ks s (State.prepareNext t) := by
  unfold State.prepareNext
  iterate 24 (all_goals try (first | with_reducible assumption | intro _ | with_reducible exact Or.inr rfl | (with_reducible refine Or.inl ?_; assumption) | with_reducible apply Fr.prepareFor | split | dsimp only | with_reducible apply Fr.lit))

theorem Fr.reducePut {ks : List Piece} {s t : State} (h : Fr ks s t) (x1 : CtxNo) (x2 : BitVec 16) (x3 : List (Nat × Nat))
    (x4 : Opnd) (x5 : Bool) (x6 : Nat × (Nat × Flag × Clip × Num)) (k_core : Piece.core ∈ ks := by apply_assumption)
    (k_remote : Piece.remote ∈ ks := by apply_assumption) (k_evt : Piece.evt ∈ ks := by apply_assumption)
    (k_all : ∀ d, Piece.ctx d ∈ ks := by apply_assumption) (k_rts : Piece.rts ∈ ks := by apply_assumption)
    (k_tlb : Piece.tlb ∈ ks := by apply_assumption) (k_walks : Piece.walks ∈ ks := by apply_assumption) :
    Fr ks s (State.reducePut x1 x2 x3 x4 x5 t x6) := by
  unfold State.reducePut
  iterate 24 (all_goals try (first | with_reducible assumption | intro _ | with_reducible apply Fr.countConv | with_reducible apply Fr.putBits | split | dsimp only | with_reducible exact k_all _))

theorem Fr.reduceTile {ks : List Piece} {s t : State} (h : Fr ks s t) (c : CtxNo) (i : Nat) (m : Cmd) (row : Nat)
    (acc : Word)
    (tab dtab : Option BoundTable) (src dst : Opnd) (k_core : Piece.core ∈ ks := by apply_assumption)
    (k_remote : Piece.remote ∈ ks := by apply_assumption) (k_evt : Piece.evt ∈ ks := by apply_assumption)
    (k_all : ∀ d, Piece.ctx d ∈ ks := by apply_assumption) (k_rts : Piece.rts ∈ ks := by apply_assumption)
    (k_lane : Piece.lane ∈ ks := by apply_assumption) (k_tlb : Piece.tlb ∈ ks := by apply_assumption)
    (k_walks : Piece.walks ∈ ks := by apply_assumption) (k_reqs : Piece.reqs ∈ ks := by apply_assumption)
    (k_sent : Piece.sent ∈ ks := by apply_assumption) (k_waits : Piece.waits ∈ ks := by apply_assumption)
    (k_ckpt : Piece.ckpt ∈ ks := by apply_assumption) :
    Fr ks s (t.reduceTile c i m row acc tab dtab src dst).2 := by
  have ow : ∀ l, Fr ks s (t.openWrites c m.seq l).2 := fun l => by
    with_reducible apply Fr.openWrites h <;> first | assumption | exact k_all _
  have st : ∀ u : State, Fr ks s u → ∀ x : Lane, Fr ks s { u with lane := x } := by
    intro u hu x
    (with_reducible apply Fr.lit hu) <;> first | with_reducible exact Or.inr rfl | (refine Or.inl ?_; assumption)
  have rs : ∀ u, Fr ks s u → ∀ o l, Fr ks s (u.recordStats o l) := fun u hu o l => by
    with_reducible apply Fr.recordStats hu <;> first | assumption | exact k_all _
  have rp : ∀ u, Fr ks s u → ∀ q b o z x, Fr ks s (State.reducePut c q b o z u x) := fun u hu q b o z x => by
    with_reducible apply Fr.reducePut hu <;> first | assumption | exact k_all _
  have cu : ∀ u, Fr ks s u → ∀ l, Fr ks s (u.closeUnit c m.seq l) := fun u hu l => by
    with_reducible apply Fr.closeUnit hu <;> first | assumption | exact k_all _
  unfold State.reduceTile
  dsimp only
  split
  · exact ow _
  · have key : ∀ (l : Lane) {α β : Type} (f : State → α → State) (g : State → β → State) (a : List α) (b : List β),
        (∀ u x, Fr ks s u → Fr ks s (f u x)) → (∀ u x, Fr ks s u → Fr ks s (g u x)) → ∀ as,
        Fr ks s ((b.foldl g (a.foldl f { (t.openWrites c m.seq (reduceAccs src dst (m.f 160 3) row (min 128 (src.desc.rows (m.f 160 3) - row)))).2 with lane := l })).closeUnit c m.seq as) :=
      fun l _ _ f g a b hf hg as => cu _ (Fr.foldl hg b (Fr.foldl hf a (st _ (ow _) l))) as
    split
    · with_reducible exact Fr.finish (key _ _ _ _ _ (fun u x hu => rs u hu _ _) (fun u x hu => rp u hu _ _ _ _ _) _) c _ _ (k_all c)
    · with_reducible exact Fr.setPhase (key _ _ _ _ _ (fun u x hu => rs u hu _ _) (fun u x hu => rp u hu _ _ _ _ _) _) c _ _ (k_all c)

theorem Fr.sliceReduce {ks : List Piece} {s t : State} (h : Fr ks s t) (x1 : CtxNo) (x2 : SlicePart) (x3 : Nat) (x4 : Cmd)
    (x5 : Nat) (x6 : Word) (x7 : Option BoundTable) (x8 : Option BoundTable) (k_core : Piece.core ∈ ks)
    (k_remote : Piece.remote ∈ ks) (k_evt : Piece.evt ∈ ks) (k_all : ∀ d, Piece.ctx d ∈ ks) (k_rts : Piece.rts ∈ ks)
    (k_schedTurn : Piece.schedTurn ∈ ks) (k_lane : Piece.lane ∈ ks) (k_tlb : Piece.tlb ∈ ks) (k_walks : Piece.walks ∈ ks)
    (k_reqs : Piece.reqs ∈ ks) (k_sent : Piece.sent ∈ ks) (k_waits : Piece.waits ∈ ks) (k_ckpt : Piece.ckpt ∈ ks)
    (k_pow : Piece.pow ∈ ks) :
    Fr ks s (State.sliceReduce t x1 x2 x3 x4 x5 x6 x7 x8) := by
  unfold State.sliceReduce
  iterate 24 (all_goals try (first | with_reducible assumption | intro _ | with_reducible exact Or.inr rfl | (with_reducible refine Or.inl ?_; assumption) | with_reducible apply Fr.endOverrun | with_reducible apply Fr.endSlice | with_reducible apply Fr.modCtx | with_reducible apply Fr.reduceTile | with_reducible apply Fr.turnTile | split | dsimp only | with_reducible exact k_all _ | with_reducible apply Fr.lit | with_reducible apply Fr.litAll))

theorem Fr.slicePart {ks : List Piece} {s t : State} (h : Fr ks s t) (x1 : CtxNo) (x2 : SlicePart)
    (k_core : Piece.core ∈ ks) (k_remote : Piece.remote ∈ ks) (k_evt : Piece.evt ∈ ks) (k_all : ∀ d, Piece.ctx d ∈ ks)
    (k_rts : Piece.rts ∈ ks) (k_schedTurn : Piece.schedTurn ∈ ks) (k_lane : Piece.lane ∈ ks) (k_tlb : Piece.tlb ∈ ks)
    (k_walks : Piece.walks ∈ ks) (k_reqs : Piece.reqs ∈ ks) (k_sent : Piece.sent ∈ ks) (k_waits : Piece.waits ∈ ks)
    (k_chains : Piece.chains ∈ ks) (k_chainOut : Piece.chainOut ∈ ks) (k_ckpt : Piece.ckpt ∈ ks) (k_tel : Piece.tel ∈ ks)
    (k_pow : Piece.pow ∈ ks) :
    Fr ks s (State.slicePart x1 t x2) := by
  unfold State.slicePart
  iterate 24 (all_goals try (first | with_reducible assumption | intro _ | with_reducible exact Or.inr rfl | (with_reducible refine Or.inl ?_; assumption) | with_reducible apply Fr.fillPart | with_reducible apply Fr.sliceReduce | split | dsimp only | with_reducible exact k_all _ | with_reducible apply Fr.lit | with_reducible apply Fr.litAll))

theorem Fr.slicePick {ks : List Piece} {s t : State} (h : Fr ks s t)  (k_eng : Piece.eng ∈ ks)
    (k_all : ∀ d, Piece.ctx d ∈ ks) (k_schedLast : Piece.schedLast ∈ ks) (k_schedTurn : Piece.schedTurn ∈ ks)
    (k_slots : Piece.slots ∈ ks) (k_lane : Piece.lane ∈ ks) (k_tlb : Piece.tlb ∈ ks) (k_walks : Piece.walks ∈ ks)
    (k_reqs : Piece.reqs ∈ ks) (k_sent : Piece.sent ∈ ks) (k_waits : Piece.waits ∈ ks) (k_ckpt : Piece.ckpt ∈ ks)
    (k_log : Piece.log ∈ ks) (k_pow : Piece.pow ∈ ks) (k_mgmt : Piece.mgmt ∈ ks) :
    Fr ks s (State.slicePick t) := by
  unfold State.slicePick
  iterate 24 (all_goals try (first | with_reducible assumption | intro _ | with_reducible exact Or.inr rfl | (with_reducible refine Or.inl ?_; assumption) | with_reducible apply Fr.admitSlice | with_reducible apply Fr.firstOpen | with_reducible apply Fr.prepareFor | split | dsimp only | with_reducible exact k_all _ | with_reducible apply Fr.lit | with_reducible apply Fr.litAll))

theorem Fr.sliceRun {ks : List Piece} {s t : State} (h : Fr ks s t) (x1 : SliceRun) (k_core : Piece.core ∈ ks)
    (k_remote : Piece.remote ∈ ks) (k_evt : Piece.evt ∈ ks) (k_all : ∀ d, Piece.ctx d ∈ ks) (k_rts : Piece.rts ∈ ks)
    (k_schedTurn : Piece.schedTurn ∈ ks) (k_lane : Piece.lane ∈ ks) (k_tlb : Piece.tlb ∈ ks) (k_walks : Piece.walks ∈ ks)
    (k_reqs : Piece.reqs ∈ ks) (k_sent : Piece.sent ∈ ks) (k_waits : Piece.waits ∈ ks) (k_chains : Piece.chains ∈ ks)
    (k_chainOut : Piece.chainOut ∈ ks) (k_ckpt : Piece.ckpt ∈ ks) (k_tel : Piece.tel ∈ ks) (k_pow : Piece.pow ∈ ks) :
    Fr ks s (State.sliceRun t x1) := by
  unfold State.sliceRun
  iterate 24 (all_goals try (first | with_reducible assumption | intro _ | with_reducible apply Fr.endSlice | with_reducible apply Fr.prepareNext | with_reducible apply Fr.slicePart | with_reducible apply Fr.foldl | with_reducible apply Fr.foldl_fst | split | dsimp only | with_reducible exact k_all _))

theorem Fr.takePrio {ks : List Piece} {s t : State} (h : Fr ks s t)  (k_prio : Piece.prio ∈ ks)
    (k_prioNext : Piece.prioNext ∈ ks) :
    Fr ks s (State.takePrio t) := by
  unfold State.takePrio
  iterate 24 (all_goals try (first | with_reducible assumption | intro _ | with_reducible exact Or.inr rfl | (with_reducible refine Or.inl ?_; assumption) | split | dsimp only | with_reducible apply Fr.lit))

theorem Fr.commitError {ks : List Piece} {s t : State} (h : Fr ks s t)  (k_mgmt : Piece.mgmt ∈ ks) :
    Fr ks s (State.commitError t) := by
  unfold State.commitError
  iterate 24 (all_goals try (first | with_reducible assumption | intro _ | with_reducible exact Or.inr rfl | (with_reducible refine Or.inl ?_; assumption) | split | dsimp only | with_reducible apply Fr.lit))

theorem Fr.dbgPutClamp {ks : List Piece} {s t : State} (h : Fr ks s t) (x1 : Nat) (x2 : Nat) (x3 : BitVec 64)
    (k_slots : Piece.slots ∈ ks) :
    Fr ks s (State.dbgPutClamp t x1 x2 x3) := by
  unfold State.dbgPutClamp
  iterate 24 (all_goals try (first | with_reducible assumption | intro _ | with_reducible exact Or.inr rfl | (with_reducible refine Or.inl ?_; assumption) | with_reducible apply Fr.modSlot | split | dsimp only | with_reducible apply Fr.lit))

theorem Fr.dbgScanIn {ks : List Piece} {s t : State} (h : Fr ks s t) (x1 : Lane) (k_lane : Piece.lane ∈ ks) :
    Fr ks s (State.dbgScanIn t x1) := by
  unfold State.dbgScanIn
  iterate 24 (all_goals try (first | with_reducible assumption | intro _ | with_reducible exact Or.inr rfl | (with_reducible refine Or.inl ?_; assumption) | split | dsimp only | with_reducible apply Fr.lit))

theorem Fr.invalidate {ks : List Piece} {s t : State} (h : Fr ks s t) (x1 : Inval) (k_tlb : Piece.tlb ∈ ks)
    (k_invals : Piece.invals ∈ ks) (k_invalReq : Piece.invalReq ∈ ks) :
    Fr ks s (State.invalidate t x1) := by
  unfold State.invalidate
  iterate 24 (all_goals try (first | with_reducible assumption | intro _ | with_reducible exact Or.inr rfl | (with_reducible refine Or.inl ?_; assumption) | split | dsimp only | with_reducible apply Fr.lit))

theorem Fr.logWrite {ks : List Piece} {s t : State} (h : Fr ks s t) (f : ErrLog → ErrLog)
    (k_log : Piece.log ∈ ks := by apply_assumption) : Fr ks s (t.logWrite f) := by
  unfold State.logWrite
  split
  · with_reducible apply Fr.lit h
    all_goals first | with_reducible exact Or.inr rfl | (refine Or.inl ?_; assumption)
  · exact h

theorem Fr.ignored {ks : List Piece} {s t : State} (h : Fr ks s t) (x1 : CtxNo)
    (k_ctx : Piece.ctx x1 ∈ ks := by apply_assumption) :
    Fr ks s (State.ignored t x1) := by
  unfold State.ignored
  iterate 24 (all_goals try (first | with_reducible assumption | intro _ | with_reducible exact Or.inr rfl | (with_reducible refine Or.inl ?_; assumption) | with_reducible apply Fr.modCtx | split | dsimp only | with_reducible apply Fr.lit))

theorem Fr.blockWrite {ks : List Piece} {s t : State} (h : Fr ks s t) (c : CtxNo) (f : State → State) (k : Fr ks s (f t))
    (k_ctx : Piece.ctx c ∈ ks := by apply_assumption) : Fr ks s (t.blockWrite c f) := by
  unfold State.blockWrite
  split
  · exact h
  · split
    · exact h.ignored c
    · exact k

theorem Fr.abortStore {ks : List Piece} {s t : State} (h : Fr ks s t) (x1 : CtxNo) (x2 : Nat) (x3 : Cmd) (x4 : Nat)
    (x5 : Nat) (x6 : Nat) (x7 : Option BoundTable) (k_ctx : Piece.ctx x1 ∈ ks) (k_slots : Piece.slots ∈ ks)
    (k_sent : Piece.sent ∈ ks) (k_waits : Piece.waits ∈ ks) :
    Fr ks s (State.abortStore t x1 x2 x3 x4 x5 x6 x7) := by
  unfold State.abortStore
  iterate 24 (all_goals try (first | with_reducible assumption | intro _ | with_reducible exact Or.inr rfl | (with_reducible refine Or.inl ?_; assumption) | with_reducible apply Fr.finish | with_reducible apply Fr.storeEnd | split | dsimp only | with_reducible apply Fr.lit))

theorem Fr.commitFlying {ks : List Piece} {s t : State} (h : Fr ks s t) (x1 : CtxNo) (x2 : GatherJob)
    (k_ctx : Piece.ctx x1 ∈ ks) :
    Fr ks s (State.commitFlying t x1 x2).1 := by
  unfold State.commitFlying
  iterate 24 (all_goals try (first | with_reducible assumption | intro _ | with_reducible exact Or.inr rfl | (with_reducible refine Or.inl ?_; assumption) | with_reducible apply Fr.modCtx | with_reducible apply Fr.foldl | with_reducible apply Fr.foldl_fst | split | dsimp only | with_reducible apply Fr.lit))

theorem Fr.dropTiles {ks : List Piece} {s t : State} (h : Fr ks s t) (x1 : ProdJob) (k_slots : Piece.slots ∈ ks) :
    Fr ks s (State.dropTiles t x1) := by
  unfold State.dropTiles
  iterate 24 (all_goals try (first | with_reducible assumption | intro _ | with_reducible apply Fr.modSlot | with_reducible apply Fr.foldl | with_reducible apply Fr.foldl_fst | split | dsimp only))

theorem Fr.keepGen {ks : List Piece} {s t : State} (h : Fr ks s t) (x1 : CtxNo) (x2 : Cmd)
    (k_slots : Piece.slots ∈ ks := by apply_assumption) :
    Fr ks s (State.keepGen t x1 x2) := by
  unfold State.keepGen
  iterate 24 (all_goals try (first | with_reducible assumption | intro _ | with_reducible exact Or.inr rfl | (with_reducible refine Or.inl ?_; assumption) | with_reducible apply Fr.setSlot | split | dsimp only | with_reducible apply Fr.lit))

theorem Fr.abortCmd {ks : List Piece} {s t : State} (h : Fr ks s t) (x1 : CtxNo) (x2 : Nat) (x3 : Cmd)
    (k_free : Piece.free ∈ ks) (k_core : Piece.core ∈ ks) (k_remote : Piece.remote ∈ ks) (k_evt : Piece.evt ∈ ks)
    (k_all : ∀ d, Piece.ctx d ∈ ks) (k_slots : Piece.slots ∈ ks) (k_tlb : Piece.tlb ∈ ks) (k_walks : Piece.walks ∈ ks)
    (k_sent : Piece.sent ∈ ks) (k_waits : Piece.waits ∈ ks) (k_chains : Piece.chains ∈ ks)
    (k_chainOut : Piece.chainOut ∈ ks) (k_tel : Piece.tel ∈ ks) :
    Fr ks s (State.abortCmd t x1 x2 x3) := by
  unfold State.abortCmd
  iterate 24 (all_goals try (first | with_reducible assumption | intro _ | with_reducible exact Or.inr rfl | (with_reducible refine Or.inl ?_; assumption) | with_reducible apply Fr.abortStore | with_reducible apply Fr.commitFlying | with_reducible apply Fr.dropTiles | with_reducible apply Fr.finish | with_reducible apply Fr.finishChain | with_reducible apply Fr.gatherEnd | with_reducible apply Fr.keepGen | with_reducible apply Fr.productEnd | with_reducible apply Fr.setPhase | with_reducible apply Fr.setSlot | split | dsimp only | with_reducible exact k_all _ | with_reducible apply Fr.lit | with_reducible apply Fr.litAll))

theorem Fr.resumeCmd {ks : List Piece} {s t : State} (h : Fr ks s t) (x1 : CtxNo) (x2 : Nat) (k_eng : Piece.eng ∈ ks)
    (k_ctx : Piece.ctx x1 ∈ ks) (k_sent : Piece.sent ∈ ks) (k_waits : Piece.waits ∈ ks) (k_log : Piece.log ∈ ks)
    (k_mgmt : Piece.mgmt ∈ ks) :
    Fr ks s (State.resumeCmd t x1 x2) := by
  unfold State.resumeCmd
  iterate 24 (all_goals try (first | with_reducible assumption | intro _ | with_reducible exact Or.inr rfl | (with_reducible refine Or.inl ?_; assumption) | with_reducible apply Fr.finish | with_reducible apply Fr.resync | with_reducible apply Fr.setPhase | split | dsimp only | with_reducible apply Fr.lit))

theorem Fr.resumeCtx {ks : List Piece} {s t : State} (h : Fr ks s t) (x1 : CtxNo) (k_eng : Piece.eng ∈ ks)
    (k_ctx : Piece.ctx x1 ∈ ks) (k_walks : Piece.walks ∈ ks) (k_sent : Piece.sent ∈ ks) (k_waits : Piece.waits ∈ ks)
    (k_log : Piece.log ∈ ks) (k_mgmt : Piece.mgmt ∈ ks) :
    Fr ks s (State.resumeCtx t x1) := by
  unfold State.resumeCtx
  iterate 24 (all_goals try (first | with_reducible assumption | intro _ | with_reducible exact Or.inr rfl | (with_reducible refine Or.inl ?_; assumption) | with_reducible apply Fr.modCtx | with_reducible apply Fr.resumeCmd | with_reducible apply Fr.foldl | with_reducible apply Fr.foldl_fst | split | dsimp only | with_reducible apply Fr.lit))

theorem Fr.abortCtx {ks : List Piece} {s t : State} (h : Fr ks s t) (x1 : CtxNo) (k_free : Piece.free ∈ ks)
    (k_core : Piece.core ∈ ks) (k_remote : Piece.remote ∈ ks) (k_evt : Piece.evt ∈ ks) (k_eng : Piece.eng ∈ ks)
    (k_all : ∀ d, Piece.ctx d ∈ ks) (k_slots : Piece.slots ∈ ks) (k_tlb : Piece.tlb ∈ ks) (k_walks : Piece.walks ∈ ks)
    (k_sent : Piece.sent ∈ ks) (k_waits : Piece.waits ∈ ks) (k_chains : Piece.chains ∈ ks)
    (k_chainOut : Piece.chainOut ∈ ks) (k_log : Piece.log ∈ ks) (k_tel : Piece.tel ∈ ks) (k_mgmt : Piece.mgmt ∈ ks) :
    Fr ks s (State.abortCtx t x1) := by
  unfold State.abortCtx
  iterate 24 (all_goals try (first | with_reducible assumption | intro _ | with_reducible exact Or.inr rfl | (with_reducible refine Or.inl ?_; assumption) | with_reducible apply Fr.abortCmd | with_reducible apply Fr.modCtx | with_reducible apply Fr.resumeCtx | split | dsimp only | with_reducible exact k_all _ | with_reducible apply Fr.lit | with_reducible apply Fr.litAll))

theorem Fr.drainNext {ks : List Piece} {s t : State} (h : Fr ks s t)  (k_free : Piece.free ∈ ks := by apply_assumption)
    (k_core : Piece.core ∈ ks := by apply_assumption) (k_remote : Piece.remote ∈ ks := by apply_assumption)
    (k_evt : Piece.evt ∈ ks := by apply_assumption) (k_all : ∀ d, Piece.ctx d ∈ ks := by apply_assumption)
    (k_schedTurn : Piece.schedTurn ∈ ks := by apply_assumption) (k_slots : Piece.slots ∈ ks := by apply_assumption)
    (k_lane : Piece.lane ∈ ks := by apply_assumption) (k_tlb : Piece.tlb ∈ ks := by apply_assumption)
    (k_walks : Piece.walks ∈ ks := by apply_assumption) (k_sent : Piece.sent ∈ ks := by apply_assumption)
    (k_waits : Piece.waits ∈ ks := by apply_assumption) (k_chains : Piece.chains ∈ ks := by apply_assumption)
    (k_chainOut : Piece.chainOut ∈ ks := by apply_assumption) (k_tel : Piece.tel ∈ ks := by apply_assumption) :
    Fr ks s (State.drainNext t) := by
  unfold State.drainNext
  iterate 24 (all_goals try (first | with_reducible assumption | intro _ | with_reducible exact Or.inr rfl | (with_reducible refine Or.inl ?_; assumption) | with_reducible apply Fr.drainGroup | split | dsimp only | with_reducible exact k_all _ | with_reducible apply Fr.lit | with_reducible apply Fr.litAll))

theorem Fr.drainOwn {ks : List Piece} {s t : State} (c : CtxNo) (n : Nat) (h : Fr ks s t)
    (k_free : Piece.free ∈ ks := by apply_assumption) (k_core : Piece.core ∈ ks := by apply_assumption)
    (k_remote : Piece.remote ∈ ks := by apply_assumption) (k_evt : Piece.evt ∈ ks := by apply_assumption)
    (k_all : ∀ d, Piece.ctx d ∈ ks := by apply_assumption) (k_schedTurn : Piece.schedTurn ∈ ks := by apply_assumption)
    (k_slots : Piece.slots ∈ ks := by apply_assumption) (k_lane : Piece.lane ∈ ks := by apply_assumption)
    (k_tlb : Piece.tlb ∈ ks := by apply_assumption) (k_walks : Piece.walks ∈ ks := by apply_assumption)
    (k_sent : Piece.sent ∈ ks := by apply_assumption) (k_waits : Piece.waits ∈ ks := by apply_assumption)
    (k_chains : Piece.chains ∈ ks := by apply_assumption) (k_chainOut : Piece.chainOut ∈ ks := by apply_assumption)
    (k_tel : Piece.tel ∈ ks := by apply_assumption) : Fr ks s (State.drainOwn c n t) := by
  induction n generalizing t with
  | zero => exact h
  | succ n ih =>
    simp only [State.drainOwn]
    split
    · exact ih h.drainNext
    · exact h

theorem Fr.unwaitAll {ks : List Piece} {s t : State} (h : Fr ks s t) (x1 : CtxNo) (k_sent : Piece.sent ∈ ks)
    (k_waits : Piece.waits ∈ ks) :
    Fr ks s (State.unwaitAll t x1) := by
  unfold State.unwaitAll
  iterate 24 (all_goals try (first | with_reducible assumption | intro _ | with_reducible exact Or.inr rfl | (with_reducible refine Or.inl ?_; assumption) | split | dsimp only | with_reducible apply Fr.lit))

theorem Fr.dropHolds {ks : List Piece} {s t : State} (h : Fr ks s t) (x1 : CtxNo) (k_staging : Piece.staging ∈ ks)
    (k_walks : Piece.walks ∈ ks) (k_sent : Piece.sent ∈ ks) (k_waits : Piece.waits ∈ ks)
    (k_dovetail : Piece.dovetail ∈ ks) (k_ckpt : Piece.ckpt ∈ ks) :
    Fr ks s (State.dropHolds t x1) := by
  unfold State.dropHolds
  iterate 24 (all_goals try (first | with_reducible assumption | intro _ | with_reducible exact Or.inr rfl | (with_reducible refine Or.inl ?_; assumption) | with_reducible apply Fr.unwaitAll | split | dsimp only | with_reducible apply Fr.lit))

theorem Fr.dropSlice {ks : List Piece} {s t : State} (h : Fr ks s t) (x1 : CtxNo) (k_lane : Piece.lane ∈ ks) :
    Fr ks s (State.dropSlice t x1) := by
  unfold State.dropSlice
  iterate 24 (all_goals try (first | with_reducible assumption | intro _ | with_reducible exact Or.inr rfl | (with_reducible refine Or.inl ?_; assumption) | split | dsimp only | with_reducible apply Fr.lit))

theorem Fr.settleUnits {ks : List Piece} {s t : State} (h : Fr ks s t) (x1 : CtxNo)
    (k_free : Piece.free ∈ ks := by apply_assumption) (k_core : Piece.core ∈ ks := by apply_assumption)
    (k_remote : Piece.remote ∈ ks := by apply_assumption) (k_evt : Piece.evt ∈ ks := by apply_assumption)
    (k_all : ∀ d, Piece.ctx d ∈ ks := by apply_assumption) (k_schedTurn : Piece.schedTurn ∈ ks := by apply_assumption)
    (k_slots : Piece.slots ∈ ks := by apply_assumption) (k_lane : Piece.lane ∈ ks := by apply_assumption)
    (k_staging : Piece.staging ∈ ks := by apply_assumption) (k_tlb : Piece.tlb ∈ ks := by apply_assumption)
    (k_walks : Piece.walks ∈ ks := by apply_assumption) (k_reqs : Piece.reqs ∈ ks := by apply_assumption)
    (k_sent : Piece.sent ∈ ks := by apply_assumption) (k_waits : Piece.waits ∈ ks := by apply_assumption)
    (k_dovetail : Piece.dovetail ∈ ks := by apply_assumption) (k_chains : Piece.chains ∈ ks := by apply_assumption)
    (k_chainOut : Piece.chainOut ∈ ks := by apply_assumption) (k_ckpt : Piece.ckpt ∈ ks := by apply_assumption)
    (k_tel : Piece.tel ∈ ks := by apply_assumption) :
    Fr ks s (State.settleUnits t x1) := by
  unfold State.settleUnits
  iterate 24 (all_goals try (first | with_reducible assumption | intro _ | with_reducible exact Or.inr rfl | (with_reducible refine Or.inl ?_; assumption) | with_reducible apply Fr.drainOwn | with_reducible apply Fr.dropHolds | with_reducible apply Fr.dropSlice | with_reducible apply Fr.endOverrun | with_reducible apply Fr.endWrites | with_reducible apply Fr.modCtx | split | dsimp only | with_reducible exact k_all _ | with_reducible apply Fr.lit | with_reducible apply Fr.litAll))

theorem Fr.beginReset {ks : List Piece} {s t : State} (h : Fr ks s t) (c : CtxNo)
    (k_free : Piece.free ∈ ks := by apply_assumption) (k_core : Piece.core ∈ ks := by apply_assumption)
    (k_remote : Piece.remote ∈ ks := by apply_assumption) (k_evt : Piece.evt ∈ ks := by apply_assumption)
    (k_all : ∀ d, Piece.ctx d ∈ ks := by apply_assumption) (k_schedTurn : Piece.schedTurn ∈ ks := by apply_assumption)
    (k_slots : Piece.slots ∈ ks := by apply_assumption) (k_lane : Piece.lane ∈ ks := by apply_assumption)
    (k_staging : Piece.staging ∈ ks := by apply_assumption) (k_tlb : Piece.tlb ∈ ks := by apply_assumption)
    (k_walks : Piece.walks ∈ ks := by apply_assumption) (k_reqs : Piece.reqs ∈ ks := by apply_assumption)
    (k_sent : Piece.sent ∈ ks := by apply_assumption) (k_waits : Piece.waits ∈ ks := by apply_assumption)
    (k_dovetail : Piece.dovetail ∈ ks := by apply_assumption) (k_chains : Piece.chains ∈ ks := by apply_assumption)
    (k_chainOut : Piece.chainOut ∈ ks := by apply_assumption) (k_ckpt : Piece.ckpt ∈ ks := by apply_assumption)
    (k_tel : Piece.tel ∈ ks := by apply_assumption) :
    Fr ks s (t.beginReset c) := by
  have st : ∀ u : State, Fr ks s u → ∀ x : List WalkReq, Fr ks s { u with walks := x } := by
    intro u hu x
    (with_reducible apply Fr.lit hu) <;> first | with_reducible exact Or.inr rfl | (refine Or.inl ?_; assumption)
  have h1 : Fr ks s (t.settleUnits c) := by with_reducible apply Fr.settleUnits h <;> assumption
  unfold State.beginReset
  dsimp only
  with_reducible exact Fr.modCtx (st _ h1 _) c _ (k_all c)

theorem Fr.control {ks : List Piece} {s t u : State} (h : Fr ks s t) (k : Fr ks s u) (c : CtxNo) (ok : CtxState → Bool)
    (k_ctx : Piece.ctx c ∈ ks := by apply_assumption) : Fr ks s (t.control c ok u) := by
  unfold State.control
  split
  · exact h
  · split
    · exact h.ignored c
    · exact k

theorem Fr.ctxCtrl {ks : List Piece} {s t : State} (h : Fr ks s t) (x1 : CtxNo) (x2 : Word)
    (k_free : Piece.free ∈ ks := by apply_assumption) (k_core : Piece.core ∈ ks := by apply_assumption)
    (k_remote : Piece.remote ∈ ks := by apply_assumption) (k_evt : Piece.evt ∈ ks := by apply_assumption)
    (k_eng : Piece.eng ∈ ks := by apply_assumption) (k_all : ∀ d, Piece.ctx d ∈ ks := by apply_assumption)
    (k_schedTurn : Piece.schedTurn ∈ ks := by apply_assumption) (k_slots : Piece.slots ∈ ks := by apply_assumption)
    (k_lane : Piece.lane ∈ ks := by apply_assumption) (k_staging : Piece.staging ∈ ks := by apply_assumption)
    (k_tlb : Piece.tlb ∈ ks := by apply_assumption) (k_walks : Piece.walks ∈ ks := by apply_assumption)
    (k_reqs : Piece.reqs ∈ ks := by apply_assumption) (k_sent : Piece.sent ∈ ks := by apply_assumption)
    (k_waits : Piece.waits ∈ ks := by apply_assumption) (k_dovetail : Piece.dovetail ∈ ks := by apply_assumption)
    (k_chains : Piece.chains ∈ ks := by apply_assumption) (k_chainOut : Piece.chainOut ∈ ks := by apply_assumption)
    (k_ckpt : Piece.ckpt ∈ ks := by apply_assumption) (k_log : Piece.log ∈ ks := by apply_assumption)
    (k_tel : Piece.tel ∈ ks := by apply_assumption) (k_mgmt : Piece.mgmt ∈ ks := by apply_assumption) :
    Fr ks s (State.ctxCtrl t x1 x2) := by
  unfold State.ctxCtrl
  iterate 24 (all_goals try (first | with_reducible assumption | intro _ | with_reducible exact Or.inr rfl | (with_reducible refine Or.inl ?_; assumption) | with_reducible apply Fr.abortCtx | with_reducible apply Fr.beginReset | with_reducible apply Fr.control | with_reducible apply Fr.ignored | with_reducible apply Fr.modCtx | with_reducible apply Fr.resumeCtx | split | dsimp only | with_reducible exact k_all _ | with_reducible apply Fr.lit | with_reducible apply Fr.litAll))

theorem Fr.writeCfg {ks : List Piece} {s t : State} (h : Fr ks s t) (x1 : CtxNo) (x2 : Context → Context)
    (k_ctx : Piece.ctx x1 ∈ ks := by apply_assumption) :
    Fr ks s (State.writeCfg t x1 x2) := by
  unfold State.writeCfg
  iterate 24 (all_goals try (first | with_reducible assumption | intro _ | with_reducible exact Or.inr rfl | (with_reducible refine Or.inl ?_; assumption) | with_reducible apply Fr.ignored | with_reducible apply Fr.modCtx | split | dsimp only | with_reducible apply Fr.lit))

theorem Fr.later {ks : List Piece} {s t : State} (h : Fr ks s t) (x1 : LateAct) (k_eng : Piece.eng ∈ ks) :
    Fr ks s (State.later t x1) := by
  unfold State.later
  iterate 24 (all_goals try (first | with_reducible assumption | intro _ | with_reducible exact Or.inr rfl | (with_reducible refine Or.inl ?_; assumption) | with_reducible apply Fr.late | split | dsimp only | with_reducible apply Fr.lit))

theorem Fr.writeCtxClear {ks : List Piece} {s t : State} (h : Fr ks s t) (x1 : CtxNo) (x2 : Word)
    (k_eng : Piece.eng ∈ ks := by apply_assumption) (k_ctx : Piece.ctx x1 ∈ ks := by apply_assumption) :
    Fr ks s (State.writeCtxClear t x1 x2) := by
  unfold State.writeCtxClear
  iterate 24 (all_goals try (first | with_reducible assumption | intro _ | with_reducible apply Fr.blockWrite | with_reducible apply Fr.later | split | dsimp only))

theorem Fr.writeHead {ks : List Piece} {s t : State} (h : Fr ks s t) (x1 : CtxNo) (x2 : Word)
    (k_ctx : Piece.ctx x1 ∈ ks := by apply_assumption) :
    Fr ks s (State.writeHead t x1 x2) := by
  unfold State.writeHead
  iterate 24 (all_goals try (first | with_reducible assumption | intro _ | with_reducible exact Or.inr rfl | (with_reducible refine Or.inl ?_; assumption) | with_reducible apply Fr.ignored | with_reducible apply Fr.modCtx | split | dsimp only | with_reducible apply Fr.lit))

theorem Fr.stopCtx {ks : List Piece} {s t : State} (h : Fr ks s t) (x1 : CtxNo) (k_free : Piece.free ∈ ks)
    (k_core : Piece.core ∈ ks) (k_remote : Piece.remote ∈ ks) (k_evt : Piece.evt ∈ ks) (k_all : ∀ d, Piece.ctx d ∈ ks)
    (k_schedTurn : Piece.schedTurn ∈ ks) (k_slots : Piece.slots ∈ ks) (k_lane : Piece.lane ∈ ks)
    (k_staging : Piece.staging ∈ ks) (k_tlb : Piece.tlb ∈ ks) (k_walks : Piece.walks ∈ ks) (k_reqs : Piece.reqs ∈ ks)
    (k_sent : Piece.sent ∈ ks) (k_waits : Piece.waits ∈ ks) (k_dovetail : Piece.dovetail ∈ ks)
    (k_chains : Piece.chains ∈ ks) (k_chainOut : Piece.chainOut ∈ ks) (k_ckpt : Piece.ckpt ∈ ks) (k_tel : Piece.tel ∈ ks) :
    Fr ks s (State.stopCtx t x1) := by
  unfold State.stopCtx
  iterate 24 (all_goals try (first | with_reducible assumption | intro _ | with_reducible exact Or.inr rfl | (with_reducible refine Or.inl ?_; assumption) | with_reducible apply Fr.modCtx | with_reducible apply Fr.settleUnits | split | dsimp only | with_reducible exact k_all _ | with_reducible apply Fr.lit | with_reducible apply Fr.litAll))

theorem Fr.ring {ks : List Piece} {s t : State} (h : Fr ks s t) (x1 : CtxNo) (x2 : Word) (k_free : Piece.free ∈ ks)
    (k_core : Piece.core ∈ ks) (k_remote : Piece.remote ∈ ks) (k_evt : Piece.evt ∈ ks) (k_eng : Piece.eng ∈ ks)
    (k_all : ∀ d, Piece.ctx d ∈ ks) (k_schedTurn : Piece.schedTurn ∈ ks) (k_slots : Piece.slots ∈ ks)
    (k_lane : Piece.lane ∈ ks) (k_staging : Piece.staging ∈ ks) (k_tlb : Piece.tlb ∈ ks) (k_walks : Piece.walks ∈ ks)
    (k_reqs : Piece.reqs ∈ ks) (k_sent : Piece.sent ∈ ks) (k_waits : Piece.waits ∈ ks) (k_dovetail : Piece.dovetail ∈ ks)
    (k_chains : Piece.chains ∈ ks) (k_chainOut : Piece.chainOut ∈ ks) (k_ckpt : Piece.ckpt ∈ ks) (k_log : Piece.log ∈ ks)
    (k_tel : Piece.tel ∈ ks) (k_mgmt : Piece.mgmt ∈ ks) :
    Fr ks s (State.ring t x1 x2) := by
  unfold State.ring
  iterate 24 (all_goals try (first | with_reducible assumption | intro _ | with_reducible exact Or.inr rfl | (with_reducible refine Or.inl ?_; assumption) | with_reducible apply Fr.logErr | with_reducible apply Fr.modCtx | with_reducible apply Fr.stopCtx | split | dsimp only | with_reducible exact k_all _ | with_reducible apply Fr.lit | with_reducible apply Fr.litAll))

theorem Fr.writeTail {ks : List Piece} {s t : State} (h : Fr ks s t) (x1 : CtxNo) (x2 : Word)
    (k_free : Piece.free ∈ ks := by apply_assumption) (k_core : Piece.core ∈ ks := by apply_assumption)
    (k_remote : Piece.remote ∈ ks := by apply_assumption) (k_evt : Piece.evt ∈ ks := by apply_assumption)
    (k_eng : Piece.eng ∈ ks := by apply_assumption) (k_all : ∀ d, Piece.ctx d ∈ ks := by apply_assumption)
    (k_schedTurn : Piece.schedTurn ∈ ks := by apply_assumption) (k_slots : Piece.slots ∈ ks := by apply_assumption)
    (k_lane : Piece.lane ∈ ks := by apply_assumption) (k_staging : Piece.staging ∈ ks := by apply_assumption)
    (k_tlb : Piece.tlb ∈ ks := by apply_assumption) (k_walks : Piece.walks ∈ ks := by apply_assumption)
    (k_reqs : Piece.reqs ∈ ks := by apply_assumption) (k_sent : Piece.sent ∈ ks := by apply_assumption)
    (k_waits : Piece.waits ∈ ks := by apply_assumption) (k_dovetail : Piece.dovetail ∈ ks := by apply_assumption)
    (k_chains : Piece.chains ∈ ks := by apply_assumption) (k_chainOut : Piece.chainOut ∈ ks := by apply_assumption)
    (k_ckpt : Piece.ckpt ∈ ks := by apply_assumption) (k_log : Piece.log ∈ ks := by apply_assumption)
    (k_tel : Piece.tel ∈ ks := by apply_assumption) (k_mgmt : Piece.mgmt ∈ ks := by apply_assumption) :
    Fr ks s (State.writeTail t x1 x2) := by
  unfold State.writeTail
  iterate 24 (all_goals try (first | with_reducible assumption | intro _ | with_reducible exact Or.inr rfl | (with_reducible refine Or.inl ?_; assumption) | with_reducible apply Fr.ignored | with_reducible apply Fr.modCtx | with_reducible apply Fr.ring | split | dsimp only | with_reducible exact k_all _ | with_reducible apply Fr.lit | with_reducible apply Fr.litAll))

theorem Fr.writeBlock {ks : List Piece} {s t : State} (h : Fr ks s t) (c : CtxNo) (o : Nat) (v : Word)
    (k_free : Piece.free ∈ ks := by apply_assumption) (k_core : Piece.core ∈ ks := by apply_assumption)
    (k_remote : Piece.remote ∈ ks := by apply_assumption) (k_evt : Piece.evt ∈ ks := by apply_assumption)
    (k_eng : Piece.eng ∈ ks := by apply_assumption) (k_all : ∀ d, Piece.ctx d ∈ ks := by apply_assumption)
    (k_schedTurn : Piece.schedTurn ∈ ks := by apply_assumption) (k_slots : Piece.slots ∈ ks := by apply_assumption)
    (k_lane : Piece.lane ∈ ks := by apply_assumption) (k_staging : Piece.staging ∈ ks := by apply_assumption)
    (k_tlb : Piece.tlb ∈ ks := by apply_assumption) (k_walks : Piece.walks ∈ ks := by apply_assumption)
    (k_reqs : Piece.reqs ∈ ks := by apply_assumption) (k_sent : Piece.sent ∈ ks := by apply_assumption)
    (k_waits : Piece.waits ∈ ks := by apply_assumption) (k_dovetail : Piece.dovetail ∈ ks := by apply_assumption)
    (k_chains : Piece.chains ∈ ks := by apply_assumption) (k_chainOut : Piece.chainOut ∈ ks := by apply_assumption)
    (k_ckpt : Piece.ckpt ∈ ks := by apply_assumption) (k_log : Piece.log ∈ ks := by apply_assumption)
    (k_tel : Piece.tel ∈ ks := by apply_assumption) (k_mgmt : Piece.mgmt ∈ ks := by apply_assumption) :
    Fr ks s (t.writeBlock c o v) := by
  have cfg := fun f => h.writeCfg c f
  have k_ctx := k_all c
  have hid : Fr ks s (id t) := h
  unfold State.writeBlock
  split
  case h_2 =>
    split
    · with_reducible exact h.ignored c k_ctx
    · with_reducible apply h.ctxCtrl
      all_goals first | assumption | exact k_all _
  case h_3 => with_reducible exact h.modCtx c _ k_ctx
  case h_8 =>
    with_reducible apply h.writeTail
    all_goals assumption
  case h_9 =>
    with_reducible apply h.writeHead
    all_goals assumption
  case h_10 =>
    with_reducible apply h.writeCtxClear
    all_goals assumption
  case h_11 =>
    split
    · with_reducible exact h.blockWrite c id hid k_ctx
    · exact h
  all_goals with_reducible exact h.writeCfg c _ k_ctx

theorem Fr.whenOpen {ks : List Piece} {s t u : State} (h : Fr ks s t) (k : Fr ks s u) : Fr ks s (t.whenOpen u) := by
  unfold State.whenOpen
  split
  · exact k
  · exact h

theorem Fr.writeClear {ks : List Piece} {s t : State} (h : Fr ks s t) (x1 : Word) (k_eng : Piece.eng ∈ ks) :
    Fr ks s (State.writeClear t x1) := by
  unfold State.writeClear
  iterate 24 (all_goals try (first | with_reducible assumption | intro _ | with_reducible apply Fr.later | with_reducible apply Fr.whenOpen | split | dsimp only))

theorem Fr.logLater {ks : List Piece} {s t : State} (h : Fr ks s t) (x1 : LateAct)
    (k_eng : Piece.eng ∈ ks := by apply_assumption) :
    Fr ks s (State.logLater t x1) := by
  unfold State.logLater
  iterate 24 (all_goals try (first | with_reducible assumption | intro _ | with_reducible apply Fr.later | split | dsimp only))

theorem Fr.writeLogCtl {ks : List Piece} {s t : State} (h : Fr ks s t) (x1 : Word) (k_eng : Piece.eng ∈ ks)
    (k_log : Piece.log ∈ ks) :
    Fr ks s (State.writeLogCtl t x1) := by
  unfold State.writeLogCtl
  iterate 24 (all_goals try (first | with_reducible assumption | intro _ | with_reducible exact Or.inr rfl | (with_reducible refine Or.inl ?_; assumption) | with_reducible apply Fr.logLater | with_reducible apply Fr.logWrite | split | dsimp only | with_reducible apply Fr.lit))

theorem Fr.writeRdIdx {ks : List Piece} {s t : State} (h : Fr ks s t) (x1 : Word)
    (k_eng : Piece.eng ∈ ks := by apply_assumption) :
    Fr ks s (State.writeRdIdx t x1) := by
  unfold State.writeRdIdx
  iterate 24 (all_goals try (first | with_reducible assumption | intro _ | with_reducible apply Fr.logLater | split | dsimp only))

theorem Fr.write32 {ks : List Piece} {s t : State} (h : Fr ks s t) (x1 : Nat) (x2 : Word) (k_free : Piece.free ∈ ks)
    (k_core : Piece.core ∈ ks) (k_remote : Piece.remote ∈ ks) (k_evt : Piece.evt ∈ ks) (k_eng : Piece.eng ∈ ks)
    (k_all : ∀ d, Piece.ctx d ∈ ks) (k_schedTurn : Piece.schedTurn ∈ ks) (k_slots : Piece.slots ∈ ks)
    (k_lane : Piece.lane ∈ ks) (k_staging : Piece.staging ∈ ks) (k_tlb : Piece.tlb ∈ ks) (k_walks : Piece.walks ∈ ks)
    (k_invals : Piece.invals ∈ ks) (k_invalReq : Piece.invalReq ∈ ks) (k_reqs : Piece.reqs ∈ ks)
    (k_sent : Piece.sent ∈ ks) (k_waits : Piece.waits ∈ ks) (k_dovetail : Piece.dovetail ∈ ks)
    (k_chains : Piece.chains ∈ ks) (k_chainOut : Piece.chainOut ∈ ks) (k_port : Piece.port ∈ ks)
    (k_ckpt : Piece.ckpt ∈ ks) (k_log : Piece.log ∈ ks) (k_tel : Piece.tel ∈ ks) (k_mgmt : Piece.mgmt ∈ ks) :
    Fr ks s (State.write32 t x1 x2) := by
  unfold State.write32
  iterate 24 (all_goals try (first | with_reducible assumption | intro _ | with_reducible exact Or.inr rfl | (with_reducible refine Or.inl ?_; assumption) | with_reducible apply Fr.invalidate | with_reducible apply Fr.logWrite | with_reducible apply Fr.releaseJob | with_reducible apply Fr.writeBlock | with_reducible apply Fr.writeClear | with_reducible apply Fr.writeLogCtl | with_reducible apply Fr.writeRdIdx | split | dsimp only | with_reducible exact k_all _ | with_reducible apply Fr.lit | with_reducible apply Fr.litAll))

theorem Fr.dbgWrite {ks : List Piece} {s t : State} (h : Fr ks s t) (x1 : Nat) (x2 : Word) (k_free : Piece.free ∈ ks)
    (k_core : Piece.core ∈ ks) (k_remote : Piece.remote ∈ ks) (k_evt : Piece.evt ∈ ks) (k_eng : Piece.eng ∈ ks)
    (k_all : ∀ d, Piece.ctx d ∈ ks) (k_schedTurn : Piece.schedTurn ∈ ks) (k_slots : Piece.slots ∈ ks)
    (k_lane : Piece.lane ∈ ks) (k_staging : Piece.staging ∈ ks) (k_tlb : Piece.tlb ∈ ks) (k_walks : Piece.walks ∈ ks)
    (k_invals : Piece.invals ∈ ks) (k_invalReq : Piece.invalReq ∈ ks) (k_reqs : Piece.reqs ∈ ks)
    (k_sent : Piece.sent ∈ ks) (k_waits : Piece.waits ∈ ks) (k_dovetail : Piece.dovetail ∈ ks)
    (k_chains : Piece.chains ∈ ks) (k_chainOut : Piece.chainOut ∈ ks) (k_port : Piece.port ∈ ks)
    (k_ckpt : Piece.ckpt ∈ ks) (k_log : Piece.log ∈ ks) (k_tel : Piece.tel ∈ ks) (k_mgmt : Piece.mgmt ∈ ks) :
    Fr ks s (State.dbgWrite t x1 x2) := by
  unfold State.dbgWrite
  iterate 24 (all_goals try (first | with_reducible assumption | intro _ | with_reducible apply Fr.write32 | split | dsimp only | with_reducible exact k_all _))

theorem Fr.denied {ks : List Piece} {s t : State} (h : Fr ks s t) (x1 : Nat)
    (k_eng : Piece.eng ∈ ks := by apply_assumption) (k_log : Piece.log ∈ ks := by apply_assumption)
    (k_tel : Piece.tel ∈ ks := by apply_assumption) (k_mgmt : Piece.mgmt ∈ ks := by apply_assumption) :
    Fr ks s (State.denied t x1) := by
  unfold State.denied
  iterate 24 (all_goals try (first | with_reducible assumption | intro _ | with_reducible exact Or.inr rfl | (with_reducible refine Or.inl ?_; assumption) | with_reducible apply Fr.logErr | split | dsimp only | with_reducible apply Fr.lit))

theorem Fr.firmwareFail {ks : List Piece} {s t : State} (h : Fr ks s t) (x1 : BitVec 64) (x2 : Bool)
    (k_eng : Piece.eng ∈ ks) (k_log : Piece.log ∈ ks) (k_mgmt : Piece.mgmt ∈ ks) :
    Fr ks s (State.firmwareFail t x1 x2) := by
  unfold State.firmwareFail
  iterate 24 (all_goals try (first | with_reducible assumption | intro _ | with_reducible apply Fr.logErr | split | dsimp only))

theorem Fr.secureWrite {ks : List Piece} {s t u : State} (h : Fr ks s t) (k : Fr ks s u) (b : Bool) (o : Nat)
    (k_eng : Piece.eng ∈ ks := by apply_assumption) (k_log : Piece.log ∈ ks := by apply_assumption)
    (k_tel : Piece.tel ∈ ks := by apply_assumption) (k_mgmt : Piece.mgmt ∈ ks := by apply_assumption) : Fr ks s
    (t.secureWrite b o u) := by
  unfold State.secureWrite
  split
  · exact h
  · split
    · exact h.denied o
    · exact k

theorem Fr.otherWrite {ks : List Piece} {s t : State} (h : Fr ks s t) (x1 : Bool) (x2 : Nat)
    (k_eng : Piece.eng ∈ ks := by apply_assumption) (k_log : Piece.log ∈ ks := by apply_assumption)
    (k_tel : Piece.tel ∈ ks := by apply_assumption) (k_mgmt : Piece.mgmt ∈ ks := by apply_assumption) :
    Fr ks s (State.otherWrite t x1 x2) := by
  unfold State.otherWrite
  iterate 24 (all_goals try (first | with_reducible assumption | intro _ | with_reducible apply Fr.secureWrite | split | dsimp only))

theorem Fr.mgmtWrite {ks : List Piece} {s t : State} (h : Fr ks s t) (r : MgmtReg) (secure : Bool) (v : Word)
    (k_eng : Piece.eng ∈ ks := by apply_assumption) (k_log : Piece.log ∈ ks := by apply_assumption)
    (k_tel : Piece.tel ∈ ks := by apply_assumption) (k_mgmt : Piece.mgmt ∈ ks := by apply_assumption) :
    Fr ks s (t.mgmtWrite r secure v) := by
  have st : ∀ x : Mgmt, Fr ks s { t with mgmt := x } := by
    intro x
    (with_reducible apply Fr.lit h) <;> first | with_reducible exact Or.inr rfl | (refine Or.inl ?_; assumption)
  unfold State.mgmtWrite
  cases r <;> dsimp only
  case position =>
    split
    · split
      · with_reducible exact h.denied _ ‹_› ‹_› ‹_› ‹_›
      · exact h
    · split
      · with_reducible exact st _
      · exact h
  case alert =>
    split
    · with_reducible exact st _
    · exact h
  case commitErr =>
    split
    · with_reducible exact st _
    · exact h
  case regionStage => with_reducible exact h.secureWrite (st _) _ _ ‹_› ‹_› ‹_› ‹_›
  case groupStage => with_reducible exact h.secureWrite (st _) _ _ ‹_› ‹_› ‹_› ‹_›
  case keyStage => with_reducible exact h.secureWrite (st _) _ _ ‹_› ‹_› ‹_› ‹_›
  case readOnly => with_reducible exact h.otherWrite _ _ ‹_› ‹_› ‹_› ‹_›
  case unlisted => with_reducible exact h.otherWrite _ _ ‹_› ‹_› ‹_› ‹_›
  case logReadIdx => with_reducible exact h.secureWrite (h.writeRdIdx _ ‹_›) _ _ ‹_› ‹_› ‹_› ‹_›
  case logSummary => with_reducible exact h.secureWrite (h.logWrite _ ‹_›) _ _ ‹_› ‹_› ‹_› ‹_›
  case logFirst =>
    refine h.secureWrite ?_ _ _ ‹_› ‹_› ‹_› ‹_›
    split
    · with_reducible exact h.logLater _ ‹_›
    · exact h

theorem Fr.takeKey {ks : List Piece} {s t : State} (h : Fr ks s t)  (k_sec : Piece.sec ∈ ks) :
    Fr ks s (State.takeKey t) := by
  unfold State.takeKey
  iterate 24 (all_goals try (first | with_reducible assumption | intro _ | with_reducible exact Or.inr rfl | (with_reducible refine Or.inl ?_; assumption) | split | dsimp only | with_reducible apply Fr.lit))

theorem Fr.rampProgress {ks : List Piece} {s t : State} (h : Fr ks s t)  (k_pow : Piece.pow ∈ ks := by apply_assumption) :
    Fr ks s (State.rampProgress t) := by
  unfold State.rampProgress
  iterate 24 (all_goals try (first | with_reducible assumption | intro _ | with_reducible exact Or.inr rfl | (with_reducible refine Or.inl ?_; assumption) | split | dsimp only | with_reducible apply Fr.lit))

theorem Fr.clearEnergy {ks : List Piece} {s t : State} (h : Fr ks s t)  (k_tel : Piece.tel ∈ ks := by apply_assumption) :
    Fr ks s (State.clearEnergy t) := by
  unfold State.clearEnergy
  iterate 24 (all_goals try (first | with_reducible assumption | intro _ | with_reducible exact Or.inr rfl | (with_reducible refine Or.inl ?_; assumption) | split | dsimp only | with_reducible apply Fr.lit))

theorem Fr.clearIdle {ks : List Piece} {s t : State} (h : Fr ks s t)  (k_tel : Piece.tel ∈ ks := by apply_assumption) :
    Fr ks s (State.clearIdle t) := by
  unfold State.clearIdle
  iterate 24 (all_goals try (first | with_reducible assumption | intro _ | with_reducible exact Or.inr rfl | (with_reducible refine Or.inl ?_; assumption) | split | dsimp only | with_reducible apply Fr.lit))

theorem Fr.clearIf {ks : List Piece} {s t : State} (h : Fr ks s t) (v : Word) (b : Nat) {f : State → State}
    (k : ∀ u, Fr ks s u → Fr ks s (f u)) :
    Fr ks s (t.clearIf v b f) := by
  unfold State.clearIf
  split
  · exact k t h
  · exact h

theorem Fr.clearMac {ks : List Piece} {s t : State} (h : Fr ks s t)  (k_tel : Piece.tel ∈ ks := by apply_assumption) :
    Fr ks s (State.clearMac t) := by
  unfold State.clearMac
  iterate 24 (all_goals try (first | with_reducible assumption | intro _ | with_reducible exact Or.inr rfl | (with_reducible refine Or.inl ?_; assumption) | split | dsimp only | with_reducible apply Fr.lit))

theorem Fr.clearMisc {ks : List Piece} {s t : State} (h : Fr ks s t)  (k_tel : Piece.tel ∈ ks := by apply_assumption) :
    Fr ks s (State.clearMisc t) := by
  unfold State.clearMisc
  iterate 24 (all_goals try (first | with_reducible assumption | intro _ | with_reducible exact Or.inr rfl | (with_reducible refine Or.inl ?_; assumption) | split | dsimp only | with_reducible apply Fr.lit))

theorem Fr.clearReduce {ks : List Piece} {s t : State} (h : Fr ks s t)  (k_port : Piece.port ∈ ks := by apply_assumption) :
    Fr ks s (State.clearReduce t) := by
  unfold State.clearReduce
  iterate 24 (all_goals try (first | with_reducible assumption | intro _ | with_reducible exact Or.inr rfl | (with_reducible refine Or.inl ?_; assumption) | with_reducible apply Fr.modPort | split | dsimp only | with_reducible apply Fr.lit))

theorem Fr.clearStall {ks : List Piece} {s t : State} (h : Fr ks s t)  (k_tel : Piece.tel ∈ ks := by apply_assumption) :
    Fr ks s (State.clearStall t) := by
  unfold State.clearStall
  iterate 24 (all_goals try (first | with_reducible assumption | intro _ | with_reducible exact Or.inr rfl | (with_reducible refine Or.inl ?_; assumption) | split | dsimp only | with_reducible apply Fr.lit))

theorem Fr.clearTempMax {ks : List Piece} {s t : State} (h : Fr ks s t)  (k_pow : Piece.pow ∈ ks := by apply_assumption) :
    Fr ks s (State.clearTempMax t) := by
  unfold State.clearTempMax
  iterate 24 (all_goals try (first | with_reducible assumption | intro _ | with_reducible exact Or.inr rfl | (with_reducible refine Or.inl ?_; assumption) | split | dsimp only | with_reducible apply Fr.lit))

theorem Fr.clearTick {ks : List Piece} {s t : State} (h : Fr ks s t)  (k_tick : Piece.tick ∈ ks := by apply_assumption) :
    Fr ks s (State.clearTick t) := by
  unfold State.clearTick
  iterate 24 (all_goals try (first | with_reducible assumption | intro _ | with_reducible exact Or.inr rfl | (with_reducible refine Or.inl ?_; assumption) | split | dsimp only | with_reducible apply Fr.lit))

theorem Fr.cntClear {ks : List Piece} {s t : State} (h : Fr ks s t) (v : Word)
    (k_tick : Piece.tick ∈ ks := by apply_assumption) (k_port : Piece.port ∈ ks := by apply_assumption)
    (k_tel : Piece.tel ∈ ks := by apply_assumption) (k_pow : Piece.pow ∈ ks := by apply_assumption) : Fr ks s
    (t.cntClear v) := by
  unfold State.cntClear
  exact (((((((h.clearIf _ _ (fun u hu => hu.clearStall)).clearIf _ _ (fun u hu => hu.clearMac)).clearIf _ _
    (fun u hu => hu.clearEnergy)).clearIf _ _ (fun u hu => hu.clearIdle)).clearIf _ _ (fun u hu => hu.clearMisc)).clearIf _ _
    (fun u hu => hu.clearTempMax)).clearIf _ _ (fun u hu => hu.clearReduce)).clearIf _ _ (fun u hu => hu.clearTick)

theorem Fr.ctxClear {ks : List Piece} {s t : State} (h : Fr ks s t) (x1 : CtxNo) (x2 : Word)
    (k_ctx : Piece.ctx x1 ∈ ks := by apply_assumption) :
    Fr ks s (State.ctxClear t x1 x2) := by
  unfold State.ctxClear
  iterate 24 (all_goals try (first | with_reducible assumption | intro _ | with_reducible apply Fr.modCtx | split | dsimp only))

theorem Fr.act {ks : List Piece} {s t : State} (h : Fr ks s t) (e : LateAct)
    (k_tick : Piece.tick ∈ ks := by apply_assumption) (k_all : ∀ d, Piece.ctx d ∈ ks := by apply_assumption)
    (k_port : Piece.port ∈ ks := by apply_assumption) (k_log : Piece.log ∈ ks := by apply_assumption)
    (k_tel : Piece.tel ∈ ks := by apply_assumption) (k_pow : Piece.pow ∈ ks := by apply_assumption) : Fr ks s (t.act e) := by
  have lg : ∀ x : ErrLog, Fr ks s { t with log := x } := by
    intro x
    (with_reducible apply Fr.lit h) <;> first | with_reducible exact Or.inr rfl | (refine Or.inl ?_; assumption)
  unfold State.act
  split
  · with_reducible exact h.cntClear _
  · with_reducible exact h.ctxClear _ _ (k_all _)
  all_goals exact lg _

theorem Fr.endEc {ks : List Piece} {s t : State} (h : Fr ks s t) (k_eng : Piece.eng ∈ ks := by apply_assumption)
    (k_tick : Piece.tick ∈ ks := by apply_assumption) (k_all : ∀ d, Piece.ctx d ∈ ks := by apply_assumption)
    (k_port : Piece.port ∈ ks := by apply_assumption) (k_log : Piece.log ∈ ks := by apply_assumption)
    (k_tel : Piece.tel ∈ ks := by apply_assumption) (k_pow : Piece.pow ∈ ks := by apply_assumption) : Fr ks s t.endEc := by
  have en : ∀ u : State, Fr ks s u → ∀ x : Engine, Fr ks s { u with eng := x } := by
    intro u hu x
    (with_reducible apply Fr.lit hu) <;> first | with_reducible exact Or.inr rfl | (refine Or.inl ?_; assumption)
  unfold State.endEc
  exact en _ (Fr.foldl (fun u e hu => by
    with_reducible apply Fr.act hu
    all_goals first | assumption | exact k_all _) _ h) _

theorem Fr.retained {ks : List Piece} {s t : State} (h : Fr ks s t) (k_eng : Piece.eng ∈ ks := by apply_assumption)
    (k_tick : Piece.tick ∈ ks := by apply_assumption) (k_all : ∀ d, Piece.ctx d ∈ ks := by apply_assumption)
    (k_schedLast : Piece.schedLast ∈ ks := by apply_assumption)
    (k_schedTurn : Piece.schedTurn ∈ ks := by apply_assumption) (k_regions : Piece.regions ∈ ks := by apply_assumption)
    (k_lane : Piece.lane ∈ ks := by apply_assumption) (k_staging : Piece.staging ∈ ks := by apply_assumption)
    (k_tlb : Piece.tlb ∈ ks := by apply_assumption) (k_walks : Piece.walks ∈ ks := by apply_assumption)
    (k_invals : Piece.invals ∈ ks := by apply_assumption) (k_invalReq : Piece.invalReq ∈ ks := by apply_assumption)
    (k_invalDone : Piece.invalDone ∈ ks := by apply_assumption) (k_reqs : Piece.reqs ∈ ks := by apply_assumption)
    (k_sent : Piece.sent ∈ ks := by apply_assumption) (k_waits : Piece.waits ∈ ks := by apply_assumption)
    (k_dovetail : Piece.dovetail ∈ ks := by apply_assumption) (k_locks : Piece.locks ∈ ks := by apply_assumption)
    (k_port : Piece.port ∈ ks := by apply_assumption) (k_ckpt : Piece.ckpt ∈ ks := by apply_assumption)
    (k_risk : Piece.risk ∈ ks := by apply_assumption) (k_log : Piece.log ∈ ks := by apply_assumption)
    (k_tel : Piece.tel ∈ ks := by apply_assumption) (k_pow : Piece.pow ∈ ks := by apply_assumption)
    (k_bist : Piece.bist ∈ ks := by apply_assumption) (k_sec : Piece.sec ∈ ks := by apply_assumption)
    (k_mgmt : Piece.mgmt ∈ ks := by apply_assumption) (k_train : Piece.train ∈ ks := by apply_assumption) :
    Fr ks s t.retained := by
  have e : Fr ks s t.endEc := by
    with_reducible apply Fr.endEc h
    all_goals first | assumption | exact k_all _
  unfold State.retained
  dsimp only
  generalize t.endEc = u at e
  with_reducible apply Fr.report _ k_mgmt
  (with_reducible apply Fr.litAll e) <;> first | with_reducible exact Or.inr rfl | (refine Or.inl ?_; assumption) | assumption

theorem Fr.startUpRamp {ks : List Piece} {s t : State} (h : Fr ks s t) (x1 : Ramp) (x2 : Power)
    (k_eng : Piece.eng ∈ ks := by apply_assumption) (k_tick : Piece.tick ∈ ks := by apply_assumption)
    (k_pow : Piece.pow ∈ ks := by apply_assumption) :
    Fr ks s (State.startUpRamp t x1 x2) := by
  unfold State.startUpRamp
  iterate 24 (all_goals try (first | with_reducible assumption | intro _ | with_reducible exact Or.inr rfl | (with_reducible refine Or.inl ?_; assumption) | split | dsimp only | with_reducible apply Fr.lit))

theorem Fr.rampDone {ks : List Piece} {s t : State} (h : Fr ks s t) (r : Ramp)
    (k_eng : Piece.eng ∈ ks := by apply_assumption) (k_tick : Piece.tick ∈ ks := by apply_assumption)
    (k_all : ∀ d, Piece.ctx d ∈ ks := by apply_assumption) (k_schedLast : Piece.schedLast ∈ ks := by apply_assumption)
    (k_schedTurn : Piece.schedTurn ∈ ks := by apply_assumption) (k_regions : Piece.regions ∈ ks := by apply_assumption)
    (k_lane : Piece.lane ∈ ks := by apply_assumption) (k_staging : Piece.staging ∈ ks := by apply_assumption)
    (k_tlb : Piece.tlb ∈ ks := by apply_assumption) (k_walks : Piece.walks ∈ ks := by apply_assumption)
    (k_invals : Piece.invals ∈ ks := by apply_assumption) (k_invalReq : Piece.invalReq ∈ ks := by apply_assumption)
    (k_invalDone : Piece.invalDone ∈ ks := by apply_assumption) (k_reqs : Piece.reqs ∈ ks := by apply_assumption)
    (k_sent : Piece.sent ∈ ks := by apply_assumption) (k_waits : Piece.waits ∈ ks := by apply_assumption)
    (k_dovetail : Piece.dovetail ∈ ks := by apply_assumption) (k_locks : Piece.locks ∈ ks := by apply_assumption)
    (k_port : Piece.port ∈ ks := by apply_assumption) (k_ckpt : Piece.ckpt ∈ ks := by apply_assumption)
    (k_risk : Piece.risk ∈ ks := by apply_assumption) (k_log : Piece.log ∈ ks := by apply_assumption)
    (k_tel : Piece.tel ∈ ks := by apply_assumption) (k_pow : Piece.pow ∈ ks := by apply_assumption)
    (k_bist : Piece.bist ∈ ks := by apply_assumption) (k_sec : Piece.sec ∈ ks := by apply_assumption)
    (k_mgmt : Piece.mgmt ∈ ks := by apply_assumption) (k_train : Piece.train ∈ ks := by apply_assumption) : Fr ks s
    (t.rampDone r) := by
  have hp : Fr ks s t.rampProgress := by with_reducible apply Fr.rampProgress h <;> assumption
  have st : ∀ u : State, Fr ks s u → ∀ (p : Power) (m : Mgmt) (k : Tick), Fr ks s { u with pow := p, mgmt := m, tick := k } := by
    intro u hu p m k
    (with_reducible apply Fr.lit hu) <;> first | with_reducible exact Or.inr rfl | (refine Or.inl ?_; assumption)
  unfold State.rampDone
  dsimp only
  generalize t.rampProgress = v at hp
  have rt : Fr ks s v.retained := by with_reducible apply Fr.retained hp <;> assumption
  have su : ∀ r p, Fr ks s (v.startUpRamp r p) := fun r p => by with_reducible apply Fr.startUpRamp hp <;> assumption
  cases r
  case retainIn => exact st _ rt _ _ v.retained.tick
  case startUp => exact su _ _
  case bistWake => exact su _ _
  case bistRelease => exact su _ _
  all_goals exact st v hp _ _ _

theorem Fr.retainNext {ks : List Piece} {s t : State} (h : Fr ks s t)  (k_pow : Piece.pow ∈ ks) :
    Fr ks s (State.retainNext t) := by
  unfold State.retainNext
  iterate 24 (all_goals try (first | with_reducible assumption | intro _ | with_reducible exact Or.inr rfl | (with_reducible refine Or.inl ?_; assumption) | split | dsimp only | with_reducible apply Fr.lit))

theorem Fr.startRamp {ks : List Piece} {s t : State} (h : Fr ks s t)  (k_rampTab : Piece.rampTab ∈ ks)
    (k_rampNext : Piece.rampNext ∈ ks) (k_pow : Piece.pow ∈ ks) :
    Fr ks s (State.startRamp t) := by
  unfold State.startRamp
  iterate 24 (all_goals try (first | with_reducible assumption | intro _ | with_reducible exact Or.inr rfl | (with_reducible refine Or.inl ?_; assumption) | split | dsimp only | with_reducible apply Fr.lit))

theorem Fr.chainBegin {ks : List Piece} {s t : State} (h : Fr ks s t) (x1 : CtxNo) (x2 : Cmd) (x3 : Word) (x4 : Nat)
    (k_chains : Piece.chains ∈ ks) :
    Fr ks s (State.chainBegin t x1 x2 x3 x4) := by
  unfold State.chainBegin
  iterate 24 (all_goals try (first | with_reducible assumption | intro _ | with_reducible apply Fr.setChain | split | dsimp only))

theorem Fr.startGroup {ks : List Piece} {s t : State} (h : Fr ks s t) (c : CtxNo) (lead : Word) (early : Bool) (l : List
    (Nat × Cmd × ProdOps)) (g : Nat) (k_ctx : Piece.ctx c ∈ ks := by apply_assumption) :
    Fr ks s (t.startGroup c lead early l g) := by
  induction l generalizing t g with
  | nil => exact h
  | cons a r ih => exact ih (h.setPhase c _ _) _

theorem Fr.launch {ks : List Piece} {s t : State} (h : Fr ks s t) (x1 : CtxNo) (x2 : Nat) (x3 : Cmd) (x4 : ProdOps)
    (x5 : Nat) (x6 : Nat) (k_free : Piece.free ∈ ks) (k_core : Piece.core ∈ ks) (k_remote : Piece.remote ∈ ks)
    (k_evt : Piece.evt ∈ ks) (k_all : ∀ d, Piece.ctx d ∈ ks) (k_tlb : Piece.tlb ∈ ks) (k_walks : Piece.walks ∈ ks)
    (k_reqs : Piece.reqs ∈ ks) (k_sent : Piece.sent ∈ ks) (k_waits : Piece.waits ∈ ks) (k_chains : Piece.chains ∈ ks)
    (k_chainOut : Piece.chainOut ∈ ks) (k_ckpt : Piece.ckpt ∈ ks) (k_tel : Piece.tel ∈ ks) :
    Fr ks s (State.launch t x1 x2 x3 x4 x5 x6) := by
  unfold State.launch
  iterate 24 (all_goals try (first | with_reducible assumption | intro _ | with_reducible exact Or.inr rfl | (with_reducible refine Or.inl ?_; assumption) | with_reducible apply Fr.chainBegin | with_reducible apply Fr.chainEnd | with_reducible apply Fr.finish | with_reducible apply Fr.setPhase | with_reducible apply Fr.startGroup | with_reducible apply Fr.tileOut | split | dsimp only | with_reducible exact k_all _ | with_reducible apply Fr.lit | with_reducible apply Fr.litAll))

theorem Fr.startProduct {ks : List Piece} {s t : State} (h : Fr ks s t) (x1 : CtxNo) (x2 : Bool)
    (k_free : Piece.free ∈ ks) (k_core : Piece.core ∈ ks) (k_remote : Piece.remote ∈ ks) (k_evt : Piece.evt ∈ ks)
    (k_all : ∀ d, Piece.ctx d ∈ ks) (k_tlb : Piece.tlb ∈ ks) (k_walks : Piece.walks ∈ ks) (k_reqs : Piece.reqs ∈ ks)
    (k_sent : Piece.sent ∈ ks) (k_waits : Piece.waits ∈ ks) (k_chains : Piece.chains ∈ ks)
    (k_chainOut : Piece.chainOut ∈ ks) (k_ckpt : Piece.ckpt ∈ ks) (k_tel : Piece.tel ∈ ks) :
    Fr ks s (State.startProduct t x1 x2) := by
  unfold State.startProduct
  iterate 24 (all_goals try (first | with_reducible assumption | intro _ | with_reducible exact Or.inr rfl | (with_reducible refine Or.inl ?_; assumption) | with_reducible apply Fr.finish | with_reducible apply Fr.launch | split | dsimp only | with_reducible exact k_all _ | with_reducible apply Fr.lit | with_reducible apply Fr.litAll))

theorem Fr.readEntries {ks : List Piece} {s t : State} (h : Fr ks s t) (x1 : CtxNo) (x2 : Nat) (k_tlb : Piece.tlb ∈ ks)
    (k_walks : Piece.walks ∈ ks) :
    Fr ks s (State.readEntries t x1 x2).2 := by
  unfold State.readEntries
  iterate 24 (all_goals try (first | with_reducible assumption | intro _ | with_reducible apply Fr.ringReady | split | dsimp only))

theorem Fr.admitNext {ks : List Piece} {s t : State} (h : Fr ks s t) (x1 : CtxNo) (k_ctx : Piece.ctx x1 ∈ ks)
    (k_tlb : Piece.tlb ∈ ks) (k_walks : Piece.walks ∈ ks) :
    Fr ks s (State.admitNext t x1) := by
  unfold State.admitNext
  iterate 24 (all_goals try (first | with_reducible assumption | intro _ | with_reducible exact Or.inr rfl | (with_reducible refine Or.inl ?_; assumption) | with_reducible apply Fr.modCtx | with_reducible apply Fr.readEntries | with_reducible apply Fr.ringReady | split | dsimp only | with_reducible apply Fr.lit))

theorem Fr.dropChain {ks : List Piece} {s t : State} (h : Fr ks s t) (x1 : CtxNo) (x2 : Nat)
    (k_free : Piece.free ∈ ks := by apply_assumption) (k_core : Piece.core ∈ ks := by apply_assumption)
    (k_remote : Piece.remote ∈ ks := by apply_assumption) (k_evt : Piece.evt ∈ ks := by apply_assumption)
    (k_all : ∀ d, Piece.ctx d ∈ ks := by apply_assumption) (k_tlb : Piece.tlb ∈ ks := by apply_assumption)
    (k_walks : Piece.walks ∈ ks := by apply_assumption) (k_chains : Piece.chains ∈ ks := by apply_assumption)
    (k_chainOut : Piece.chainOut ∈ ks := by apply_assumption) (k_tel : Piece.tel ∈ ks := by apply_assumption) :
    Fr ks s (State.dropChain x1 t x2) := by
  unfold State.dropChain
  iterate 24 (all_goals try (first | with_reducible assumption | intro _ | with_reducible exact Or.inr rfl | (with_reducible refine Or.inl ?_; assumption) | with_reducible apply Fr.finishChain | with_reducible apply Fr.setChain | split | dsimp only | with_reducible exact k_all _ | with_reducible apply Fr.lit | with_reducible apply Fr.litAll))

theorem Fr.dropStores {ks : List Piece} {s t : State} (h : Fr ks s t) (x1 : CtxNo)
    (k_slots : Piece.slots ∈ ks := by apply_assumption) :
    Fr ks s (State.dropStores t x1) := by
  unfold State.dropStores
  iterate 24 (all_goals try (first | with_reducible assumption | intro _ | with_reducible exact Or.inr rfl | (with_reducible refine Or.inl ?_; assumption) | with_reducible apply Fr.storeRelease | with_reducible apply Fr.foldl | with_reducible apply Fr.foldl_fst | split | dsimp only | with_reducible apply Fr.lit))

theorem Fr.freeTransient {ks : List Piece} {s t : State} (h : Fr ks s t) (x1 : CtxNo)
    (k_slots : Piece.slots ∈ ks := by apply_assumption) :
    Fr ks s (State.freeTransient t x1) := by
  unfold State.freeTransient
  iterate 24 (all_goals try (first | with_reducible assumption | intro _ | with_reducible apply Fr.modSlot | with_reducible apply Fr.foldl | with_reducible apply Fr.foldl_fst | split | dsimp only))

theorem Fr.headerLookup {ks : List Piece} {s t : State} (h : Fr ks s t) (x1 : CtxNo) (k_walks : Piece.walks ∈ ks) :
    Fr ks s (State.headerLookup t x1).2 := by
  unfold State.headerLookup
  iterate 24 (all_goals try (first | with_reducible assumption | intro _ | with_reducible exact Or.inr rfl | (with_reducible refine Or.inl ?_; assumption) | with_reducible apply Fr.foldl | with_reducible apply Fr.foldl_fst | split | dsimp only | with_reducible apply Fr.lit))

theorem Fr.journalHeader {ks : List Piece} {s t : State} (h : Fr ks s t) (x1 : CtxNo) (x2 : Task)
    (k_core : Piece.core ∈ ks := by apply_assumption) (k_remote : Piece.remote ∈ ks := by apply_assumption) :
    Fr ks s (State.journalHeader t x1 x2) := by
  unfold State.journalHeader
  iterate 24 (all_goals try (first | with_reducible assumption | intro _ | with_reducible exact Or.inr rfl | (with_reducible refine Or.inl ?_; assumption) | with_reducible apply Fr.putArea | split | dsimp only | with_reducible apply Fr.lit))

theorem Fr.park {ks : List Piece} {s t : State} (h : Fr ks s t) (x1 : CtxNo) (k_free : Piece.free ∈ ks)
    (k_core : Piece.core ∈ ks) (k_remote : Piece.remote ∈ ks) (k_evt : Piece.evt ∈ ks) (k_all : ∀ d, Piece.ctx d ∈ ks)
    (k_schedTurn : Piece.schedTurn ∈ ks) (k_slots : Piece.slots ∈ ks) (k_lane : Piece.lane ∈ ks)
    (k_staging : Piece.staging ∈ ks) (k_tlb : Piece.tlb ∈ ks) (k_walks : Piece.walks ∈ ks) (k_reqs : Piece.reqs ∈ ks)
    (k_sent : Piece.sent ∈ ks) (k_waits : Piece.waits ∈ ks) (k_dovetail : Piece.dovetail ∈ ks)
    (k_chains : Piece.chains ∈ ks) (k_chainOut : Piece.chainOut ∈ ks) (k_ckpt : Piece.ckpt ∈ ks) (k_tel : Piece.tel ∈ ks) :
    Fr ks s (State.park t x1) := by
  unfold State.park
  iterate 24 (all_goals try (first | with_reducible assumption | intro _ | with_reducible exact Or.inr rfl | (with_reducible refine Or.inl ?_; assumption) | with_reducible apply Fr.event | with_reducible apply Fr.setCtx | with_reducible apply Fr.settleUnits | split | dsimp only | with_reducible exact k_all _ | with_reducible apply Fr.lit | with_reducible apply Fr.litAll))

theorem Fr.postHeld {ks : List Piece} {s t : State} (h : Fr ks s t) (x1 : CtxNo) (k_core : Piece.core ∈ ks)
    (k_remote : Piece.remote ∈ ks) (k_evt : Piece.evt ∈ ks) (k_ctx : Piece.ctx x1 ∈ ks) (k_tlb : Piece.tlb ∈ ks)
    (k_walks : Piece.walks ∈ ks) :
    Fr ks s (State.postHeld t x1) := by
  unfold State.postHeld
  iterate 24 (all_goals try (first | with_reducible assumption | intro _ | with_reducible exact Or.inr rfl | (with_reducible refine Or.inl ?_; assumption) | with_reducible apply Fr.modCtx | with_reducible apply Fr.postEvent | with_reducible apply Fr.ringReady | split | dsimp only | with_reducible apply Fr.lit))

theorem Fr.postReply {ks : List Piece} {s t : State} (h : Fr ks s t) (x1 : CtxNo) (k_core : Piece.core ∈ ks)
    (k_remote : Piece.remote ∈ ks) (k_evt : Piece.evt ∈ ks) (k_ctx : Piece.ctx x1 ∈ ks) (k_tlb : Piece.tlb ∈ ks)
    (k_walks : Piece.walks ∈ ks) :
    Fr ks s (State.postReply t x1) := by
  unfold State.postReply
  iterate 24 (all_goals try (first | with_reducible assumption | intro _ | with_reducible exact Or.inr rfl | (with_reducible refine Or.inl ?_; assumption) | with_reducible apply Fr.modCtx | with_reducible apply Fr.postEntry | with_reducible apply Fr.pulse | with_reducible apply Fr.ringReady | split | dsimp only | with_reducible apply Fr.lit))

theorem Fr.releaseTask {ks : List Piece} {s t : State} (h : Fr ks s t) (x1 : CtxNo)
    (k_ctx : Piece.ctx x1 ∈ ks := by apply_assumption) (k_slots : Piece.slots ∈ ks := by apply_assumption)
    (k_touch : Piece.touch ∈ ks := by apply_assumption) :
    Fr ks s (State.releaseTask t x1) := by
  unfold State.releaseTask
  iterate 24 (all_goals try (first | with_reducible assumption | intro _ | with_reducible exact Or.inr rfl | (with_reducible refine Or.inl ?_; assumption) | with_reducible apply Fr.modCtx | with_reducible apply Fr.modSlot | with_reducible apply Fr.foldl | with_reducible apply Fr.foldl_fst | split | dsimp only | with_reducible apply Fr.lit))

theorem Fr.resetCtx {ks : List Piece} {s t : State} (h : Fr ks s t) (c : CtxNo)
    (k_free : Piece.free ∈ ks := by apply_assumption) (k_core : Piece.core ∈ ks := by apply_assumption)
    (k_remote : Piece.remote ∈ ks := by apply_assumption) (k_evt : Piece.evt ∈ ks := by apply_assumption)
    (k_all : ∀ d, Piece.ctx d ∈ ks := by apply_assumption) (k_slots : Piece.slots ∈ ks := by apply_assumption)
    (k_touch : Piece.touch ∈ ks := by apply_assumption) (k_tlb : Piece.tlb ∈ ks := by apply_assumption)
    (k_walks : Piece.walks ∈ ks := by apply_assumption) (k_locks : Piece.locks ∈ ks := by apply_assumption)
    (k_chains : Piece.chains ∈ ks := by apply_assumption) (k_chainOut : Piece.chainOut ∈ ks := by apply_assumption)
    (k_tel : Piece.tel ∈ ks := by apply_assumption) :
    Fr ks s (t.resetCtx c) := by
  have ds : Fr ks s (t.dropStores c) := by
    with_reducible apply Fr.dropStores h
    all_goals first | assumption | exact k_all _
  have kg : Fr ks s ((t.ctx c).cmds.foldl (fun t m => t.keepGen c m) (t.dropStores c)) := Fr.foldl (fun u m hu => hu.keepGen c m ‹_›) _ ds
  have dc : Fr ks s (List.foldl (State.dropChain c) ((t.ctx c).cmds.foldl (fun t m => t.keepGen c m) (t.dropStores c)) (List.range 4)) := Fr.foldl (fun u e hu => by
    with_reducible apply Fr.dropChain hu
    all_goals first | assumption | exact k_all _) _ kg
  have h1 : Fr ks s ((List.foldl (State.dropChain c) ((t.ctx c).cmds.foldl (fun t m => t.keepGen c m) (t.dropStores c)) (List.range 4)).freeTransient c) := by
    with_reducible apply Fr.freeTransient dc
    all_goals first | assumption | exact k_all _
  unfold State.resetCtx
  dsimp only
  generalize (List.foldl (State.dropChain c) ((t.ctx c).cmds.foldl (fun t m => t.keepGen c m) (t.dropStores c)) (List.range 4)).freeTransient c = u at h1
  with_reducible refine Fr.modCtx ?_ c _ (k_all c)
  have h2 : Fr ks s (match (u.ctx c).task with
      | some t => (u.journalHeader c t).releaseTask c
      | none => u) := by
    split
    · with_reducible apply Fr.releaseTask
      with_reducible apply Fr.journalHeader
      all_goals first | assumption | exact k_all _
    · exact h1
  have h3 : ∀ v : State, Fr ks s v → ∀ (l : List RowLock) (w : List WalkReq), Fr ks s { v with locks := l, walks := w } := by
    intro v hv l w
    (with_reducible apply Fr.lit hv) <;> first | with_reducible exact Or.inr rfl | (refine Or.inl ?_; assumption)
  exact h3 _ h2 _ _

theorem Fr.qcal {ks : List Piece} {s t : State} (h : Fr ks s t) (x1 : CtxNo) (k_ctx : Piece.ctx x1 ∈ ks)
    (k_rts : Piece.rts ∈ ks) (k_sent : Piece.sent ∈ ks) (k_waits : Piece.waits ∈ ks) :
    Fr ks s (State.qcal t x1) := by
  unfold State.qcal
  iterate 24 (all_goals try (first | with_reducible assumption | intro _ | with_reducible exact Or.inr rfl | (with_reducible refine Or.inl ?_; assumption) | with_reducible apply Fr.finish | with_reducible apply Fr.setRt | with_reducible apply Fr.foldl | with_reducible apply Fr.foldl_fst | split | dsimp only | with_reducible apply Fr.lit))

theorem Fr.qstat {ks : List Piece} {s t : State} (h : Fr ks s t) (x1 : CtxNo) (k_core : Piece.core ∈ ks)
    (k_remote : Piece.remote ∈ ks) (k_ctx : Piece.ctx x1 ∈ ks) (k_rts : Piece.rts ∈ ks) (k_tlb : Piece.tlb ∈ ks)
    (k_walks : Piece.walks ∈ ks) (k_reqs : Piece.reqs ∈ ks) (k_sent : Piece.sent ∈ ks) (k_waits : Piece.waits ∈ ks)
    (k_ckpt : Piece.ckpt ∈ ks) :
    Fr ks s (State.qstat t x1) := by
  unfold State.qstat
  iterate 24 (all_goals try (first | with_reducible assumption | intro _ | with_reducible exact Or.inr rfl | (with_reducible refine Or.inl ?_; assumption) | with_reducible apply Fr.closeUnit | with_reducible apply Fr.finish | with_reducible apply Fr.openWrites | with_reducible apply Fr.putArea | with_reducible apply Fr.setRt | with_reducible apply Fr.windowEnd | split | dsimp only | with_reducible apply Fr.lit))

theorem Fr.startReduce {ks : List Piece} {s t : State} (h : Fr ks s t) (x1 : CtxNo) (k_ctx : Piece.ctx x1 ∈ ks)
    (k_sent : Piece.sent ∈ ks) (k_waits : Piece.waits ∈ ks) :
    Fr ks s (State.startReduce t x1) := by
  unfold State.startReduce
  iterate 24 (all_goals try (first | with_reducible assumption | intro _ | with_reducible exact Or.inr rfl | (with_reducible refine Or.inl ?_; assumption) | with_reducible apply Fr.finish | with_reducible apply Fr.setPhase | split | dsimp only | with_reducible apply Fr.lit))

theorem Fr.writeReg {ks : List Piece} {s t : State} (h : Fr ks s t) (x1 : Nat) (x2 : Nat) (x3 : BitVec 64)
    (k_free : Piece.free ∈ ks) (k_core : Piece.core ∈ ks) (k_remote : Piece.remote ∈ ks) (k_evt : Piece.evt ∈ ks)
    (k_eng : Piece.eng ∈ ks) (k_all : ∀ d, Piece.ctx d ∈ ks) (k_schedTurn : Piece.schedTurn ∈ ks)
    (k_slots : Piece.slots ∈ ks) (k_lane : Piece.lane ∈ ks) (k_staging : Piece.staging ∈ ks) (k_tlb : Piece.tlb ∈ ks)
    (k_walks : Piece.walks ∈ ks) (k_invals : Piece.invals ∈ ks) (k_invalReq : Piece.invalReq ∈ ks)
    (k_reqs : Piece.reqs ∈ ks) (k_sent : Piece.sent ∈ ks) (k_waits : Piece.waits ∈ ks) (k_dovetail : Piece.dovetail ∈ ks)
    (k_chains : Piece.chains ∈ ks) (k_chainOut : Piece.chainOut ∈ ks) (k_port : Piece.port ∈ ks)
    (k_ckpt : Piece.ckpt ∈ ks) (k_log : Piece.log ∈ ks) (k_tel : Piece.tel ∈ ks) (k_mgmt : Piece.mgmt ∈ ks) :
    Fr ks s (State.writeReg t x1 x2 x3) := by
  unfold State.writeReg
  iterate 24 (all_goals try (first | with_reducible assumption | intro _ | with_reducible apply Fr.write32 | split | dsimp only | with_reducible exact k_all _))

theorem Fr.advanceCursor {ks : List Piece} {s t : State} (h : Fr ks s t) (x1 : Nat) (x2 : Nat)
    (k_bist : Piece.bist ∈ ks := by apply_assumption) :
    Fr ks s (State.advanceCursor t x1 x2) := by
  unfold State.advanceCursor
  iterate 24 (all_goals try (first | with_reducible assumption | intro _ | with_reducible exact Or.inr rfl | (with_reducible refine Or.inl ?_; assumption) | split | dsimp only | with_reducible apply Fr.lit))

theorem Fr.bankRewrite {ks : List Piece} {s t : State} (h : Fr ks s t) (x1 : Nat) (x2 : Nat) (k_eng : Piece.eng ∈ ks)
    (k_log : Piece.log ∈ ks) (k_bist : Piece.bist ∈ ks) (k_mgmt : Piece.mgmt ∈ ks) :
    Fr ks s (State.bankRewrite t x1 x2) := by
  unfold State.bankRewrite
  iterate 24 (all_goals try (first | with_reducible assumption | intro _ | with_reducible exact Or.inr rfl | (with_reducible refine Or.inl ?_; assumption) | with_reducible apply Fr.logErr | with_reducible apply Fr.foldl | with_reducible apply Fr.foldl_fst | split | dsimp only | with_reducible apply Fr.lit))

theorem Fr.beforeItem {ks : List Piece} {s t : State} (h : Fr ks s t) (x1 : Nat) (x2 : Nat) (k_tlb : Piece.tlb ∈ ks) :
    Fr ks s (State.beforeItem t x1 x2) := by
  unfold State.beforeItem
  iterate 24 (all_goals try (first | with_reducible assumption | intro _ | with_reducible exact Or.inr rfl | (with_reducible refine Or.inl ?_; assumption) | with_reducible apply Fr.place | split | dsimp only | with_reducible apply Fr.lit))

theorem Fr.groupReady {ks : List Piece} {s t : State} (h : Fr ks s t) (x1 : Nat) (x2 : Nat) (x3 : Nat)
    (k_pow : Piece.pow ∈ ks := by apply_assumption) :
    Fr ks s (State.groupReady t x1 x2 x3).2 := by
  unfold State.groupReady
  iterate 24 (all_goals try (first | with_reducible assumption | intro _ | with_reducible exact Or.inr rfl | (with_reducible refine Or.inl ?_; assumption) | split | dsimp only | with_reducible apply Fr.lit))

theorem Fr.columnFailed {ks : List Piece} {s t : State} (h : Fr ks s t) (x1 : Nat) (x2 : Nat) (x3 : Nat)
    (k_eng : Piece.eng ∈ ks) (k_log : Piece.log ∈ ks) (k_bist : Piece.bist ∈ ks) (k_mgmt : Piece.mgmt ∈ ks) :
    Fr ks s (State.columnFailed t x1 x2 x3).2 := by
  unfold State.columnFailed
  iterate 24 (all_goals try (first | with_reducible assumption | intro _ | with_reducible exact Or.inr rfl | (with_reducible refine Or.inl ?_; assumption) | with_reducible apply Fr.logErr | split | dsimp only | with_reducible apply Fr.lit))

theorem Fr.laneFailed {ks : List Piece} {s t : State} (h : Fr ks s t) (x1 : Nat) (k_eng : Piece.eng ∈ ks)
    (k_lane : Piece.lane ∈ ks) (k_log : Piece.log ∈ ks) (k_bist : Piece.bist ∈ ks) (k_mgmt : Piece.mgmt ∈ ks) :
    Fr ks s (State.laneFailed t x1).2 := by
  unfold State.laneFailed
  iterate 24 (all_goals try (first | with_reducible assumption | intro _ | with_reducible exact Or.inr rfl | (with_reducible refine Or.inl ?_; assumption) | with_reducible apply Fr.logErr | split | dsimp only | with_reducible apply Fr.lit))

theorem Fr.riskNote {ks : List Piece} {s t : State} (h : Fr ks s t) (x1 : Fin 4) (k_risk : Piece.risk ∈ ks) :
    Fr ks s (State.riskNote t x1) := by
  unfold State.riskNote
  iterate 24 (all_goals try (first | with_reducible assumption | intro _ | with_reducible exact Or.inr rfl | (with_reducible refine Or.inl ?_; assumption) | split | dsimp only | with_reducible apply Fr.lit))

theorem Fr.itemDone {ks : List Piece} {s t : State} (h : Fr ks s t) (x1 : Nat) (x2 : Nat) (x3 : ItemResult) (x4 : Bool)
    (k_eng : Piece.eng ∈ ks := by apply_assumption) (k_lane : Piece.lane ∈ ks := by apply_assumption)
    (k_tlb : Piece.tlb ∈ ks := by apply_assumption) (k_risk : Piece.risk ∈ ks := by apply_assumption)
    (k_log : Piece.log ∈ ks := by apply_assumption) (k_bist : Piece.bist ∈ ks := by apply_assumption)
    (k_mgmt : Piece.mgmt ∈ ks := by apply_assumption) :
    Fr ks s (State.itemDone t x1 x2 x3 x4).2.2 := by
  unfold State.itemDone
  iterate 24 (all_goals try (first | with_reducible assumption | intro _ | with_reducible exact Or.inr rfl | (with_reducible refine Or.inl ?_; assumption) | with_reducible apply Fr.beforeItem | with_reducible apply Fr.columnFailed | with_reducible apply Fr.laneFailed | with_reducible apply Fr.logErr | with_reducible apply Fr.riskNote | split | dsimp only | with_reducible apply Fr.lit))

theorem Fr.runItems {ks : List Piece} {s t : State} (h : Fr ks s t) (u i : Nat) (rs : List ItemResult) (f : Bool)
    (n k : Nat) (k_eng : Piece.eng ∈ ks := by apply_assumption) (k_lane : Piece.lane ∈ ks := by apply_assumption)
    (k_tlb : Piece.tlb ∈ ks := by apply_assumption) (k_risk : Piece.risk ∈ ks := by apply_assumption)
    (k_log : Piece.log ∈ ks := by apply_assumption) (k_bist : Piece.bist ∈ ks := by apply_assumption)
    (k_mgmt : Piece.mgmt ∈ ks := by apply_assumption) :
    Fr ks s (State.runItems u i rs f n k t).2 := by
  induction n generalizing t k with
  | zero => exact h
  | succ n ih =>
    simp only [State.runItems]
    split
    · exact h.itemDone u _ _ f
    · exact ih (h.itemDone u _ _ f) _

theorem Fr.takeBench {ks : List Piece} {s t : State} (h : Fr ks s t) (x1 : Nat)
    (k_staging : Piece.staging ∈ ks := by apply_assumption) :
    Fr ks s (State.takeBench t x1) := by
  unfold State.takeBench
  iterate 24 (all_goals try (first | with_reducible assumption | intro _ | with_reducible exact Or.inr rfl | (with_reducible refine Or.inl ?_; assumption) | split | dsimp only | with_reducible apply Fr.lit))

theorem Fr.bistRun {ks : List Piece} {s t : State} (h : Fr ks s t) (x1 : CtxNo) (x2 : Nat) (x3 : Cmd) (x4 : Opnd)
    (x5 : List ItemResult) (x6 : Nat) (k_core : Piece.core ∈ ks) (k_remote : Piece.remote ∈ ks) (k_eng : Piece.eng ∈ ks)
    (k_ctx : Piece.ctx x1 ∈ ks) (k_schedLast : Piece.schedLast ∈ ks) (k_schedTurn : Piece.schedTurn ∈ ks)
    (k_lane : Piece.lane ∈ ks) (k_staging : Piece.staging ∈ ks) (k_tlb : Piece.tlb ∈ ks) (k_walks : Piece.walks ∈ ks)
    (k_reqs : Piece.reqs ∈ ks) (k_sent : Piece.sent ∈ ks) (k_waits : Piece.waits ∈ ks) (k_ckpt : Piece.ckpt ∈ ks)
    (k_risk : Piece.risk ∈ ks) (k_log : Piece.log ∈ ks) (k_pow : Piece.pow ∈ ks) (k_bist : Piece.bist ∈ ks)
    (k_mgmt : Piece.mgmt ∈ ks) :
    Fr ks s (State.bistRun t x1 x2 x3 x4 x5 x6) := by
  unfold State.bistRun
  iterate 24 (all_goals try (first | with_reducible assumption | intro _ | with_reducible exact Or.inr rfl | (with_reducible refine Or.inl ?_; assumption) | with_reducible apply Fr.closeUnit | with_reducible apply Fr.finish | with_reducible apply Fr.groupReady | with_reducible apply Fr.openWrites | with_reducible apply Fr.putArea | with_reducible apply Fr.runItems | with_reducible apply Fr.takeBench | with_reducible apply Fr.takeTurn | with_reducible apply Fr.turnTile | split | dsimp only | with_reducible apply Fr.lit))

theorem Fr.bistSlice {ks : List Piece} {s t : State} (h : Fr ks s t) (x1 : CtxNo) (x2 : List ItemResult)
    (k_core : Piece.core ∈ ks) (k_remote : Piece.remote ∈ ks) (k_eng : Piece.eng ∈ ks) (k_ctx : Piece.ctx x1 ∈ ks)
    (k_schedLast : Piece.schedLast ∈ ks) (k_schedTurn : Piece.schedTurn ∈ ks) (k_lane : Piece.lane ∈ ks)
    (k_staging : Piece.staging ∈ ks) (k_tlb : Piece.tlb ∈ ks) (k_walks : Piece.walks ∈ ks) (k_reqs : Piece.reqs ∈ ks)
    (k_sent : Piece.sent ∈ ks) (k_waits : Piece.waits ∈ ks) (k_ckpt : Piece.ckpt ∈ ks) (k_risk : Piece.risk ∈ ks)
    (k_log : Piece.log ∈ ks) (k_pow : Piece.pow ∈ ks) (k_bist : Piece.bist ∈ ks) (k_mgmt : Piece.mgmt ∈ ks) :
    Fr ks s (State.bistSlice t x1 x2) := by
  unfold State.bistSlice
  iterate 24 (all_goals try (first | with_reducible assumption | intro _ | with_reducible exact Or.inr rfl | (with_reducible refine Or.inl ?_; assumption) | with_reducible apply Fr.bistRun | with_reducible apply Fr.finish | with_reducible apply Fr.setPhase | split | dsimp only | with_reducible apply Fr.lit))

theorem Fr.fallowRun {ks : List Piece} {s t : State} (h : Fr ks s t) (u since : Nat) (rs : List ItemResult)
    (k_eng : Piece.eng ∈ ks := by apply_assumption) (k_lane : Piece.lane ∈ ks := by apply_assumption)
    (k_staging : Piece.staging ∈ ks := by apply_assumption) (k_tlb : Piece.tlb ∈ ks := by apply_assumption)
    (k_risk : Piece.risk ∈ ks := by apply_assumption) (k_log : Piece.log ∈ ks := by apply_assumption)
    (k_pow : Piece.pow ∈ ks := by apply_assumption) (k_bist : Piece.bist ∈ ks := by apply_assumption)
    (k_mgmt : Piece.mgmt ∈ ks := by apply_assumption) : Fr ks s (t.fallowRun u since rs) := by
  have st : ∀ u : State, Fr ks s u → ∀ x : SelfTest, Fr ks s { u with bist := x } := by
    intro u hu x
    (with_reducible apply Fr.lit hu) <;> first | with_reducible exact Or.inr rfl | (refine Or.inl ?_; assumption)
  have gr : ∀ u i n, Fr ks s (t.groupReady u i n).2 := fun u i n => by with_reducible apply Fr.groupReady h <;> assumption
  have tb : ∀ u i n, Fr ks s ((t.groupReady u i n).2.takeBench u) := fun u i n => (gr u i n).takeBench u ‹_›
  have adv : ∀ u i n a b k, Fr ks s ((State.runItems u i a true b 0 ((t.groupReady u i n).2.takeBench u)).2.advanceCursor u k) := fun u i n a b k => by
    with_reducible apply Fr.advanceCursor
    · with_reducible apply Fr.runItems (tb u i n) <;> assumption
    · assumption
  unfold State.fallowRun
  dsimp only
  split
  · exact st _ h _
  · split
    · exact st _ (gr _ _ _) _
    · exact st _ (adv _ _ _ _ _ _) _

theorem Fr.fallow {ks : List Piece} {s t : State} (h : Fr ks s t) (rs : List ItemResult)
    (k_eng : Piece.eng ∈ ks := by apply_assumption) (k_lane : Piece.lane ∈ ks := by apply_assumption)
    (k_staging : Piece.staging ∈ ks := by apply_assumption) (k_tlb : Piece.tlb ∈ ks := by apply_assumption)
    (k_risk : Piece.risk ∈ ks := by apply_assumption) (k_log : Piece.log ∈ ks := by apply_assumption)
    (k_pow : Piece.pow ∈ ks := by apply_assumption) (k_bist : Piece.bist ∈ ks := by apply_assumption)
    (k_mgmt : Piece.mgmt ∈ ks := by apply_assumption) : Fr ks s (t.fallow rs) := by
  have key : ∀ u n, Fr ks s (t.fallowRun u n rs) := fun u n => by with_reducible apply Fr.fallowRun h <;> assumption
  unfold State.fallow
  split
  · split
    · exact key _ _
    · exact h
  · split
    · exact h
    · split
      · exact h
      · exact key _ _

theorem Fr.quickColumn {ks : List Piece} {s t : State} (h : Fr ks s t) (x1 : Nat) (x2 : Nat) (x3 : Nat)
    (k_eng : Piece.eng ∈ ks) (k_log : Piece.log ∈ ks) (k_bist : Piece.bist ∈ ks) (k_mgmt : Piece.mgmt ∈ ks) :
    Fr ks s (State.quickColumn t x1 x2 x3) := by
  unfold State.quickColumn
  iterate 24 (all_goals try (first | with_reducible assumption | intro _ | with_reducible exact Or.inr rfl | (with_reducible refine Or.inl ?_; assumption) | with_reducible apply Fr.logErr | split | dsimp only | with_reducible apply Fr.lit))

theorem Fr.quickLane {ks : List Piece} {s t : State} (h : Fr ks s t) (x1 : Nat) (k_eng : Piece.eng ∈ ks)
    (k_log : Piece.log ∈ ks) (k_bist : Piece.bist ∈ ks) (k_mgmt : Piece.mgmt ∈ ks) :
    Fr ks s (State.quickLane t x1) := by
  unfold State.quickLane
  iterate 24 (all_goals try (first | with_reducible assumption | intro _ | with_reducible exact Or.inr rfl | (with_reducible refine Or.inl ?_; assumption) | with_reducible apply Fr.logErr | split | dsimp only | with_reducible apply Fr.lit))

theorem Fr.takeMap {ks : List Piece} {s t : State} (h : Fr ks s t)  (k_eng : Piece.eng ∈ ks) (k_lane : Piece.lane ∈ ks)
    (k_log : Piece.log ∈ ks) (k_bist : Piece.bist ∈ ks) (k_mgmt : Piece.mgmt ∈ ks) :
    Fr ks s (State.takeMap t) := by
  unfold State.takeMap
  iterate 24 (all_goals try (first | with_reducible assumption | intro _ | with_reducible exact Or.inr rfl | (with_reducible refine Or.inl ?_; assumption) | with_reducible apply Fr.logErr | split | dsimp only | with_reducible apply Fr.lit))

theorem Fr.modTrain {ks : List Piece} {s t : State} (h : Fr ks s t) (x1 : Chan) (x2 : Train → Train)
    (k_mgmt : Piece.mgmt ∈ ks) (k_train : Piece.train ∈ ks) :
    Fr ks s (State.modTrain t x1 x2) := by
  unfold State.modTrain
  iterate 24 (all_goals try (first | with_reducible assumption | intro _ | with_reducible exact Or.inr rfl | (with_reducible refine Or.inl ?_; assumption) | with_reducible apply Fr.reportCh | split | dsimp only | with_reducible apply Fr.lit))

theorem Fr.retrainCh {ks : List Piece} {s t : State} (h : Fr ks s t) (x1 : Chan) (k_eng : Piece.eng ∈ ks)
    (k_risk : Piece.risk ∈ ks) (k_log : Piece.log ∈ ks) (k_mgmt : Piece.mgmt ∈ ks) (k_train : Piece.train ∈ ks) :
    Fr ks s (State.retrainCh t x1) := by
  unfold State.retrainCh
  iterate 24 (all_goals try (first | with_reducible assumption | intro _ | with_reducible exact Or.inr rfl | (with_reducible refine Or.inl ?_; assumption) | with_reducible apply Fr.logErr | with_reducible apply Fr.modTrain | with_reducible apply Fr.riskNote | split | dsimp only | with_reducible apply Fr.lit))

theorem Fr.meet {ks : List Piece} {s t : State} (h : Fr ks s t) (x1 : Chan) (x2 : BitVec 15) (k_eng : Piece.eng ∈ ks)
    (k_risk : Piece.risk ∈ ks) (k_log : Piece.log ∈ ks) (k_mgmt : Piece.mgmt ∈ ks) (k_train : Piece.train ∈ ks) :
    Fr ks s (State.meet t x1 x2) := by
  unfold State.meet
  iterate 24 (all_goals try (first | with_reducible assumption | intro _ | with_reducible apply Fr.retrainCh | split | dsimp only))

theorem Fr.newPartner {ks : List Piece} {s t : State} (h : Fr ks s t) (x1 : Chan) (x2 : BitVec 15)
    (k_eng : Piece.eng ∈ ks) (k_log : Piece.log ∈ ks) (k_mgmt : Piece.mgmt ∈ ks) (k_train : Piece.train ∈ ks) :
    Fr ks s (State.newPartner t x1 x2) := by
  unfold State.newPartner
  iterate 24 (all_goals try (first | with_reducible assumption | intro _ | with_reducible exact Or.inr rfl | (with_reducible refine Or.inl ?_; assumption) | with_reducible apply Fr.logErr | with_reducible apply Fr.modTrain | split | dsimp only | with_reducible apply Fr.lit))

theorem Fr.readyTables {ks : List Piece} {s t : State} (h : Fr ks s t) (k_fmts : Piece.fmts ∈ ks := by apply_assumption)
    (k_rampTab : Piece.rampTab ∈ ks := by apply_assumption) (k_rampNext : Piece.rampNext ∈ ks := by apply_assumption)
    (k_riskTab : Piece.riskTab ∈ ks := by apply_assumption) (k_regions : Piece.regions ∈ ks := by apply_assumption)
    (k_groups : Piece.groups ∈ ks := by apply_assumption)
    (k_sec : Piece.sec ∈ ks := by apply_assumption) : Fr ks s t.readyTables := by
  unfold State.readyTables
  generalize State.reset.groups = g
  generalize State.reset.fmts = f
  generalize State.reset.riskTab = r
  generalize rampTabReset = a
  generalize { t.sec with keys := Vector.replicate 16 none, pendKey := none } = b
  (with_reducible apply Fr.lit h) <;> first | (refine Or.inl ?_; assumption) | with_reducible exact Or.inr rfl

theorem Fr.rxFail {ks : List Piece} {s t : State} (h : Fr ks s t) (x1 : Chan) (x2 : BitVec 15) (k_eng : Piece.eng ∈ ks)
    (k_log : Piece.log ∈ ks) (k_mgmt : Piece.mgmt ∈ ks) (k_train : Piece.train ∈ ks) :
    Fr ks s (State.rxFail t x1 x2) := by
  unfold State.rxFail
  iterate 24 (all_goals try (first | with_reducible assumption | intro _ | with_reducible exact Or.inr rfl | (with_reducible refine Or.inl ?_; assumption) | with_reducible apply Fr.logErr | with_reducible apply Fr.modTrain | split | dsimp only | with_reducible apply Fr.lit))

theorem Fr.sendTrain {ks : List Piece} {s t : State} (h : Fr ks s t) (x1 : Chan) (x2 : List Packet)
    (k_port : Piece.port ∈ ks) :
    Fr ks s (State.sendTrain t x1 x2) := by
  unfold State.sendTrain
  iterate 24 (all_goals try (first | with_reducible assumption | intro _ | with_reducible exact Or.inr rfl | (with_reducible refine Or.inl ?_; assumption) | with_reducible apply Fr.modCh | with_reducible apply Fr.modPort | split | dsimp only | with_reducible apply Fr.lit))

theorem Fr.sendAck {ks : List Piece} {s t : State} (h : Fr ks s t) (x1 : Chan) (k_port : Piece.port ∈ ks) :
    Fr ks s (State.sendAck t x1) := by
  unfold State.sendAck
  iterate 24 (all_goals try (first | with_reducible assumption | intro _ | with_reducible apply Fr.sendTrain | split | dsimp only))

theorem Fr.startStep {ks : List Piece} {s t : State} (h : Fr ks s t) (x1 : BitVec 4) (k_eng : Piece.eng ∈ ks) :
    Fr ks s (State.startStep t x1) := by
  unfold State.startStep
  iterate 24 (all_goals try (first | with_reducible assumption | intro _ | with_reducible exact Or.inr rfl | (with_reducible refine Or.inl ?_; assumption) | split | dsimp only | with_reducible apply Fr.lit))

theorem Fr.tookTrain {ks : List Piece} {s t : State} (h : Fr ks s t) (x1 : Chan) (k_port : Piece.port ∈ ks) :
    Fr ks s (State.tookTrain t x1) := by
  unfold State.tookTrain
  iterate 24 (all_goals try (first | with_reducible assumption | intro _ | with_reducible exact Or.inr rfl | (with_reducible refine Or.inl ?_; assumption) | with_reducible apply Fr.modCh | split | dsimp only | with_reducible apply Fr.lit))

theorem Fr.trainFail {ks : List Piece} {s t : State} (h : Fr ks s t) (x1 : Chan) (k_eng : Piece.eng ∈ ks)
    (k_log : Piece.log ∈ ks) (k_mgmt : Piece.mgmt ∈ ks) :
    Fr ks s (State.trainFail t x1) := by
  unfold State.trainFail
  iterate 24 (all_goals try (first | with_reducible assumption | intro _ | with_reducible apply Fr.logErr | split | dsimp only))

theorem Fr.trainSend {ks : List Piece} {s t : State} (h : Fr ks s t) (x1 : Chan) (k_port : Piece.port ∈ ks)
    (k_mgmt : Piece.mgmt ∈ ks) (k_train : Piece.train ∈ ks) :
    Fr ks s (State.trainSend t x1) := by
  unfold State.trainSend
  iterate 24 (all_goals try (first | with_reducible assumption | intro _ | with_reducible exact Or.inr rfl | (with_reducible refine Or.inl ?_; assumption) | with_reducible apply Fr.modTrain | with_reducible apply Fr.sendTrain | split | dsimp only | with_reducible apply Fr.lit))

theorem Fr.loadRescale {ks : List Piece} {s t : State} (h : Fr ks s t) (x1 : CtxNo) (x2 : Nat) (x3 : BitVec 263168)
    (x4 : Nat) (k_rts : Piece.rts ∈ ks) :
    Fr ks s (State.loadRescale t x1 x2 x3 x4).2 := by
  unfold State.loadRescale
  iterate 24 (all_goals try (first | with_reducible assumption | intro _ | with_reducible exact Or.inr rfl | (with_reducible refine Or.inl ?_; assumption) | with_reducible apply Fr.setRt | split | dsimp only | with_reducible apply Fr.lit))

theorem Fr.install {ks : List Piece} {s t : State} (h : Fr ks s t) (x1 : CtxNo) (x2 : Nat) (x3 : Nat) (x4 : Nat)
    (k_fmts : Piece.fmts ∈ ks) (k_rts : Piece.rts ∈ ks) (k_prioNext : Piece.prioNext ∈ ks)
    (k_stallMap : Piece.stallMap ∈ ks) (k_rampNext : Piece.rampNext ∈ ks) (k_riskTab : Piece.riskTab ∈ ks)
    (k_risk : Piece.risk ∈ ks) :
    Fr ks s (State.install t x1 x2 x3 x4).2 := by
  unfold State.install
  iterate 24 (all_goals try (first | with_reducible assumption | intro _ | with_reducible exact Or.inr rfl | (with_reducible refine Or.inl ?_; assumption) | with_reducible apply Fr.loadRescale | split | dsimp only | with_reducible apply Fr.lit))

theorem Fr.keepBound {ks : List Piece} {s t : State} (h : Fr ks s t) (x1 : CtxNo) (x2 : Nat) (x3 : Nat)
    (k_ctx : Piece.ctx x1 ∈ ks) :
    Fr ks s (State.keepBound t x1 x2 x3) := by
  unfold State.keepBound
  iterate 24 (all_goals try (first | with_reducible assumption | intro _ | with_reducible exact Or.inr rfl | (with_reducible refine Or.inl ?_; assumption) | with_reducible apply Fr.modCtx | split | dsimp only | with_reducible apply Fr.lit))

theorem Fr.tableLoad {ks : List Piece} {s t : State} (h : Fr ks s t) (x1 : CtxNo) (k_ctx : Piece.ctx x1 ∈ ks)
    (k_fmts : Piece.fmts ∈ ks) (k_rts : Piece.rts ∈ ks) (k_prioNext : Piece.prioNext ∈ ks)
    (k_stallMap : Piece.stallMap ∈ ks) (k_rampNext : Piece.rampNext ∈ ks) (k_riskTab : Piece.riskTab ∈ ks)
    (k_tlb : Piece.tlb ∈ ks) (k_walks : Piece.walks ∈ ks) (k_reqs : Piece.reqs ∈ ks) (k_sent : Piece.sent ∈ ks)
    (k_waits : Piece.waits ∈ ks) (k_risk : Piece.risk ∈ ks) :
    Fr ks s (State.tableLoad t x1) := by
  unfold State.tableLoad
  iterate 24 (all_goals try (first | with_reducible assumption | intro _ | with_reducible exact Or.inr rfl | (with_reducible refine Or.inl ?_; assumption) | with_reducible apply Fr.finish | with_reducible apply Fr.install | with_reducible apply Fr.keepBound | with_reducible apply Fr.readImageRaw | split | dsimp only | with_reducible apply Fr.lit))

theorem Fr.putTask {ks : List Piece} {s t : State} (h : Fr ks s t) (x1 : CtxNo) (x2 : Task) (k_ctx : Piece.ctx x1 ∈ ks) :
    Fr ks s (State.putTask t x1 x2) := by
  unfold State.putTask
  iterate 24 (all_goals try (first | with_reducible assumption | intro _ | with_reducible exact Or.inr rfl | (with_reducible refine Or.inl ?_; assumption) | with_reducible apply Fr.modCtx | split | dsimp only | with_reducible apply Fr.lit))

theorem Fr.becomePartial {ks : List Piece} {s t : State} (h : Fr ks s t) (x1 : CtxNo) (x2 : Task) (x3 : Unit) (x4 : Word)
    (x5 : Opnd) (k_core : Piece.core ∈ ks) (k_remote : Piece.remote ∈ ks) (k_ctx : Piece.ctx x1 ∈ ks)
    (k_tlb : Piece.tlb ∈ ks) (k_walks : Piece.walks ∈ ks) (k_reqs : Piece.reqs ∈ ks) (k_sent : Piece.sent ∈ ks)
    (k_waits : Piece.waits ∈ ks) :
    Fr ks s (State.becomePartial t x1 x2 x3 x4 x5) := by
  unfold State.becomePartial
  iterate 24 (all_goals try (first | with_reducible assumption | intro _ | with_reducible exact Or.inr rfl | (with_reducible refine Or.inl ?_; assumption) | with_reducible apply Fr.issue | with_reducible apply Fr.openFor | with_reducible apply Fr.putArea | with_reducible apply Fr.putTask | with_reducible apply Fr.unpin | split | dsimp only | with_reducible apply Fr.lit))

theorem Fr.beginTask {ks : List Piece} {s t : State} (h : Fr ks s t) (x1 : CtxNo) (k_core : Piece.core ∈ ks)
    (k_remote : Piece.remote ∈ ks) (k_ctx : Piece.ctx x1 ∈ ks) (k_tlb : Piece.tlb ∈ ks) (k_walks : Piece.walks ∈ ks)
    (k_reqs : Piece.reqs ∈ ks) (k_sent : Piece.sent ∈ ks) (k_waits : Piece.waits ∈ ks) :
    Fr ks s (State.beginTask t x1) := by
  unfold State.beginTask
  iterate 24 (all_goals try (first | with_reducible assumption | intro _ | with_reducible exact Or.inr rfl | (with_reducible refine Or.inl ?_; assumption) | with_reducible apply Fr.acquire | with_reducible apply Fr.finish | with_reducible apply Fr.issue | with_reducible apply Fr.modCtx | with_reducible apply Fr.openFor | with_reducible apply Fr.putArea | split | dsimp only | with_reducible apply Fr.lit))

theorem Fr.captureUnit {ks : List Piece} {s t : State} (h : Fr ks s t) (x1 : CtxNo) (x2 : Task) (x3 : Unit) (x4 : Word)
    (x5 : Opnd) (x6 : Option Opnd) (k_core : Piece.core ∈ ks) (k_remote : Piece.remote ∈ ks) (k_ctx : Piece.ctx x1 ∈ ks)
    (k_slots : Piece.slots ∈ ks) (k_touch : Piece.touch ∈ ks) (k_tlb : Piece.tlb ∈ ks) (k_walks : Piece.walks ∈ ks)
    (k_reqs : Piece.reqs ∈ ks) (k_sent : Piece.sent ∈ ks) (k_waits : Piece.waits ∈ ks) :
    Fr ks s (State.captureUnit t x1 x2 x3 x4 x5 x6) := by
  unfold State.captureUnit
  iterate 24 (all_goals try (first | with_reducible assumption | intro _ | with_reducible exact Or.inr rfl | (with_reducible refine Or.inl ?_; assumption) | with_reducible apply Fr.countOob | with_reducible apply Fr.issue | with_reducible apply Fr.modSlot | with_reducible apply Fr.openFor | with_reducible apply Fr.putArea | with_reducible apply Fr.putTask | with_reducible apply Fr.unpin | with_reducible apply Fr.foldl | with_reducible apply Fr.foldl_fst | split | dsimp only | with_reducible apply Fr.lit))

theorem Fr.capture {ks : List Piece} {s t : State} (h : Fr ks s t) (x1 : CtxNo) (k_core : Piece.core ∈ ks)
    (k_remote : Piece.remote ∈ ks) (k_ctx : Piece.ctx x1 ∈ ks) (k_slots : Piece.slots ∈ ks) (k_touch : Piece.touch ∈ ks)
    (k_tlb : Piece.tlb ∈ ks) (k_walks : Piece.walks ∈ ks) (k_reqs : Piece.reqs ∈ ks) (k_sent : Piece.sent ∈ ks)
    (k_waits : Piece.waits ∈ ks) :
    Fr ks s (State.capture t x1) := by
  unfold State.capture
  iterate 24 (all_goals try (first | with_reducible assumption | intro _ | with_reducible exact Or.inr rfl | (with_reducible refine Or.inl ?_; assumption) | with_reducible apply Fr.becomePartial | with_reducible apply Fr.captureUnit | with_reducible apply Fr.modCtx | with_reducible apply Fr.putTask | split | dsimp only | with_reducible apply Fr.lit))

theorem Fr.commitTask {ks : List Piece} {s t : State} (h : Fr ks s t) (x1 : CtxNo) (x2 : Task) (x3 : Word)
    (k_core : Piece.core ∈ ks) (k_remote : Piece.remote ∈ ks) (k_ctx : Piece.ctx x1 ∈ ks) (k_slots : Piece.slots ∈ ks)
    (k_touch : Piece.touch ∈ ks) (k_tlb : Piece.tlb ∈ ks) (k_walks : Piece.walks ∈ ks) (k_reqs : Piece.reqs ∈ ks)
    (k_sent : Piece.sent ∈ ks) (k_waits : Piece.waits ∈ ks) :
    Fr ks s (State.commitTask t x1 x2 x3).2 := by
  unfold State.commitTask
  iterate 24 (all_goals try (first | with_reducible assumption | intro _ | with_reducible exact Or.inr rfl | (with_reducible refine Or.inl ?_; assumption) | with_reducible apply Fr.issue | with_reducible apply Fr.openFor | with_reducible apply Fr.putArea | with_reducible apply Fr.releaseTask | split | dsimp only | with_reducible apply Fr.lit))

theorem Fr.closeCommit {ks : List Piece} {s t : State} (h : Fr ks s t) (x1 : CtxNo) (x2 : Nat) (x3 : Cmd) (x4 : Task)
    (k_core : Piece.core ∈ ks) (k_remote : Piece.remote ∈ ks) (k_ctx : Piece.ctx x1 ∈ ks) (k_slots : Piece.slots ∈ ks)
    (k_touch : Piece.touch ∈ ks) (k_tlb : Piece.tlb ∈ ks) (k_walks : Piece.walks ∈ ks) (k_reqs : Piece.reqs ∈ ks)
    (k_sent : Piece.sent ∈ ks) (k_waits : Piece.waits ∈ ks) :
    Fr ks s (State.closeCommit t x1 x2 x3 x4) := by
  unfold State.closeCommit
  iterate 24 (all_goals try (first | with_reducible assumption | intro _ | with_reducible exact Or.inr rfl | (with_reducible refine Or.inl ?_; assumption) | with_reducible apply Fr.commitTask | with_reducible apply Fr.finish | split | dsimp only | with_reducible apply Fr.lit))

theorem Fr.restoreUnit {ks : List Piece} {s t : State} (h : Fr ks s t) (x1 : CtxNo) (x2 : Vector Word 8) (x3 : Opnd)
    (x4 : JEntry) (k_core : Piece.core ∈ ks) (k_remote : Piece.remote ∈ ks) (k_slots : Piece.slots ∈ ks) :
    Fr ks s (State.restoreUnit x1 x2 x3 t x4) := by
  unfold State.restoreUnit
  iterate 24 (all_goals try (first | with_reducible assumption | intro _ | with_reducible exact Or.inr rfl | (with_reducible refine Or.inl ?_; assumption) | with_reducible apply Fr.modSlot | with_reducible apply Fr.putBits | with_reducible apply Fr.writeB | with_reducible apply Fr.foldl | with_reducible apply Fr.foldl_fst | split | dsimp only | with_reducible apply Fr.lit))

theorem Fr.restoreTask {ks : List Piece} {s t : State} (h : Fr ks s t) (x1 : CtxNo) (x2 : Task) (x3 : Vector Word 8)
    (x4 : Word) (k_core : Piece.core ∈ ks) (k_remote : Piece.remote ∈ ks) (k_ctx : Piece.ctx x1 ∈ ks)
    (k_slots : Piece.slots ∈ ks) (k_touch : Piece.touch ∈ ks) (k_tlb : Piece.tlb ∈ ks) (k_walks : Piece.walks ∈ ks)
    (k_reqs : Piece.reqs ∈ ks) (k_sent : Piece.sent ∈ ks) (k_waits : Piece.waits ∈ ks) (k_ckpt : Piece.ckpt ∈ ks) :
    Fr ks s (State.restoreTask t x1 x2 x3 x4).2.1 := by
  unfold State.restoreTask
  iterate 24 (all_goals try (first | with_reducible assumption | intro _ | with_reducible exact Or.inr rfl | (with_reducible refine Or.inl ?_; assumption) | with_reducible apply Fr.closeUnit | with_reducible apply Fr.issue | with_reducible apply Fr.modSlot | with_reducible apply Fr.openAll | with_reducible apply Fr.openFor | with_reducible apply Fr.openWrites | with_reducible apply Fr.putArea | with_reducible apply Fr.releaseTask | with_reducible apply Fr.restoreUnit | with_reducible apply Fr.foldl | with_reducible apply Fr.foldl_fst | split | dsimp only | with_reducible apply Fr.lit))

theorem Fr.closeDiscard {ks : List Piece} {s t : State} (h : Fr ks s t) (x1 : CtxNo) (x2 : Nat) (x3 : Cmd) (x4 : Task)
    (k_core : Piece.core ∈ ks) (k_remote : Piece.remote ∈ ks) (k_ctx : Piece.ctx x1 ∈ ks) (k_slots : Piece.slots ∈ ks)
    (k_touch : Piece.touch ∈ ks) (k_tlb : Piece.tlb ∈ ks) (k_walks : Piece.walks ∈ ks) (k_reqs : Piece.reqs ∈ ks)
    (k_sent : Piece.sent ∈ ks) (k_waits : Piece.waits ∈ ks) (k_ckpt : Piece.ckpt ∈ ks) :
    Fr ks s (State.closeDiscard t x1 x2 x3 x4) := by
  unfold State.closeDiscard
  iterate 24 (all_goals try (first | with_reducible assumption | intro _ | with_reducible exact Or.inr rfl | (with_reducible refine Or.inl ?_; assumption) | with_reducible apply Fr.finish | with_reducible apply Fr.restoreTask | split | dsimp only | with_reducible apply Fr.lit))

theorem Fr.closeTask {ks : List Piece} {s t : State} (h : Fr ks s t) (x1 : CtxNo) (x2 : Nat) (x3 : Cmd) (x4 : Bool)
    (k_core : Piece.core ∈ ks) (k_remote : Piece.remote ∈ ks) (k_evt : Piece.evt ∈ ks) (k_ctx : Piece.ctx x1 ∈ ks)
    (k_slots : Piece.slots ∈ ks) (k_touch : Piece.touch ∈ ks) (k_tlb : Piece.tlb ∈ ks) (k_walks : Piece.walks ∈ ks)
    (k_reqs : Piece.reqs ∈ ks) (k_sent : Piece.sent ∈ ks) (k_waits : Piece.waits ∈ ks) (k_ckpt : Piece.ckpt ∈ ks) :
    Fr ks s (State.closeTask t x1 x2 x3 x4) := by
  unfold State.closeTask
  iterate 24 (all_goals try (first | with_reducible assumption | intro _ | with_reducible exact Or.inr rfl | (with_reducible refine Or.inl ?_; assumption) | with_reducible apply Fr.closeCommit | with_reducible apply Fr.closeDiscard | with_reducible apply Fr.event | with_reducible apply Fr.finish | with_reducible apply Fr.setPhase | split | dsimp only | with_reducible apply Fr.lit))

theorem Fr.closing {ks : List Piece} {s t : State} (h : Fr ks s t) (x1 : CtxNo) (x2 : Nat) (k_core : Piece.core ∈ ks)
    (k_remote : Piece.remote ∈ ks) (k_evt : Piece.evt ∈ ks) (k_ctx : Piece.ctx x1 ∈ ks) (k_slots : Piece.slots ∈ ks)
    (k_touch : Piece.touch ∈ ks) (k_tlb : Piece.tlb ∈ ks) (k_walks : Piece.walks ∈ ks) (k_reqs : Piece.reqs ∈ ks)
    (k_sent : Piece.sent ∈ ks) (k_waits : Piece.waits ∈ ks) (k_ckpt : Piece.ckpt ∈ ks) :
    Fr ks s (State.closing t x1 x2) := by
  unfold State.closing
  iterate 24 (all_goals try (first | with_reducible assumption | intro _ | with_reducible exact Or.inr rfl | (with_reducible refine Or.inl ?_; assumption) | with_reducible apply Fr.closeTask | with_reducible apply Fr.finish | split | dsimp only | with_reducible apply Fr.lit))

theorem Fr.earlyDiscard {ks : List Piece} {s t : State} (h : Fr ks s t) (x1 : CtxNo) (k_core : Piece.core ∈ ks)
    (k_remote : Piece.remote ∈ ks) (k_evt : Piece.evt ∈ ks) (k_ctx : Piece.ctx x1 ∈ ks) (k_slots : Piece.slots ∈ ks)
    (k_touch : Piece.touch ∈ ks) (k_tlb : Piece.tlb ∈ ks) (k_walks : Piece.walks ∈ ks) (k_reqs : Piece.reqs ∈ ks)
    (k_sent : Piece.sent ∈ ks) (k_waits : Piece.waits ∈ ks) (k_ckpt : Piece.ckpt ∈ ks) :
    Fr ks s (State.earlyDiscard t x1) := by
  unfold State.earlyDiscard
  iterate 24 (all_goals try (first | with_reducible assumption | intro _ | with_reducible exact Or.inr rfl | (with_reducible refine Or.inl ?_; assumption) | with_reducible apply Fr.event | with_reducible apply Fr.modCtx | with_reducible apply Fr.restoreTask | split | dsimp only | with_reducible apply Fr.lit))

theorem Fr.guardValue {ks : List Piece} {s t : State} (h : Fr ks s t) (x1 : CtxNo) (x2 : Task) (x3 : Guard)
    (k_ctx : Piece.ctx x1 ∈ ks) :
    Fr ks s (State.guardValue t x1 x2 x3) := by
  unfold State.guardValue
  iterate 24 (all_goals try (first | with_reducible assumption | intro _ | with_reducible exact Or.inr rfl | (with_reducible refine Or.inl ?_; assumption) | with_reducible apply Fr.countOob | with_reducible apply Fr.modCtx | split | dsimp only | with_reducible apply Fr.lit))

theorem Fr.guardRead {ks : List Piece} {s t : State} (h : Fr ks s t) (x1 : CtxNo) (k_ctx : Piece.ctx x1 ∈ ks)
    (k_walks : Piece.walks ∈ ks) :
    Fr ks s (State.guardRead t x1) := by
  unfold State.guardRead
  iterate 24 (all_goals try (first | with_reducible assumption | intro _ | with_reducible exact Or.inr rfl | (with_reducible refine Or.inl ?_; assumption) | with_reducible apply Fr.guardValue | split | dsimp only | with_reducible apply Fr.lit))

theorem Fr.partOpen {ks : List Piece} {s t : State} (h : Fr ks s t) (x1 : CtxNo) (x2 : SlicePart)
    (k_ctx : Piece.ctx x1 ∈ ks) (k_tlb : Piece.tlb ∈ ks) (k_walks : Piece.walks ∈ ks) (k_reqs : Piece.reqs ∈ ks)
    (k_sent : Piece.sent ∈ ks) (k_waits : Piece.waits ∈ ks) :
    Fr ks s (State.partOpen t x1 x2).2 := by
  unfold State.partOpen
  iterate 24 (all_goals try (first | with_reducible assumption | intro _ | with_reducible apply Fr.firstOpen | with_reducible apply Fr.openAll | split | dsimp only))

theorem Fr.partAsks {ks : List Piece} {s t : State} (h : Fr ks s t) (x1 : CtxNo) (x2 : SlicePart)
    (k_ctx : Piece.ctx x1 ∈ ks) (k_tlb : Piece.tlb ∈ ks) (k_walks : Piece.walks ∈ ks) (k_reqs : Piece.reqs ∈ ks)
    (k_sent : Piece.sent ∈ ks) (k_waits : Piece.waits ∈ ks) :
    Fr ks s (State.partAsks x1 t x2) := by
  unfold State.partAsks
  iterate 24 (all_goals try (first | with_reducible assumption | intro _ | with_reducible apply Fr.partOpen | split | dsimp only))

theorem Fr.asking {ks : List Piece} {s t : State} (h : Fr ks s t)  (k_all : ∀ d, Piece.ctx d ∈ ks)
    (k_tlb : Piece.tlb ∈ ks) (k_walks : Piece.walks ∈ ks) (k_reqs : Piece.reqs ∈ ks) (k_sent : Piece.sent ∈ ks)
    (k_waits : Piece.waits ∈ ks) :
    Fr ks s (State.asking t) := by
  unfold State.asking
  iterate 24 (all_goals try (first | with_reducible assumption | intro _ | with_reducible exact Or.inr rfl | (with_reducible refine Or.inl ?_; assumption) | with_reducible apply Fr.firstOpen | with_reducible apply Fr.partAsks | with_reducible apply Fr.foldl | with_reducible apply Fr.foldl_fst | split | dsimp only | with_reducible exact k_all _ | with_reducible apply Fr.lit | with_reducible apply Fr.litAll))

theorem Fr.sliceBoundary {ks : List Piece} {s t : State} (h : Fr ks s t)  (k_all : ∀ d, Piece.ctx d ∈ ks)
    (k_lane : Piece.lane ∈ ks) :
    Fr ks s (State.sliceBoundary t) := by
  unfold State.sliceBoundary
  iterate 24 (all_goals try (first | with_reducible assumption | intro _ | with_reducible exact Or.inr rfl | (with_reducible refine Or.inl ?_; assumption) | with_reducible apply Fr.endSlice | with_reducible apply Fr.modCtx | split | dsimp only | with_reducible exact k_all _ | with_reducible apply Fr.lit | with_reducible apply Fr.litAll))

theorem Fr.takeTemps {ks : List Piece} {s t : State} (h : Fr ks s t) (x1 : Vector (BitVec 16) 16)
    (k_risk : Piece.risk ∈ ks) (k_pow : Piece.pow ∈ ks) :
    Fr ks s (State.takeTemps t x1) := by
  unfold State.takeTemps
  iterate 24 (all_goals try (first | with_reducible assumption | intro _ | with_reducible exact Or.inr rfl | (with_reducible refine Or.inl ?_; assumption) | with_reducible apply Fr.riskNote | split | dsimp only | with_reducible apply Fr.lit))

theorem Fr.boundary {ks : List Piece} {s t : State} (h : Fr ks s t) (x1 : Nat) (x2 : Bool) (x3 : Vector (BitVec 16) 16)
    (k_eng : Piece.eng ∈ ks) (k_tick : Piece.tick ∈ ks) (k_all : ∀ d, Piece.ctx d ∈ ks) (k_lane : Piece.lane ∈ ks)
    (k_port : Piece.port ∈ ks) (k_ckpt : Piece.ckpt ∈ ks) (k_risk : Piece.risk ∈ ks) (k_log : Piece.log ∈ ks)
    (k_pow : Piece.pow ∈ ks) (k_bist : Piece.bist ∈ ks) (k_mgmt : Piece.mgmt ∈ ks) (k_train : Piece.train ∈ ks) :
    Fr ks s (State.boundary t x1 x2 x3) := by
  unfold State.boundary
  iterate 24 (all_goals try (first | with_reducible assumption | intro _ | with_reducible exact Or.inr rfl | (with_reducible refine Or.inl ?_; assumption) | with_reducible apply Fr.sliceBoundary | with_reducible apply Fr.takeMap | with_reducible apply Fr.takeTemps | with_reducible apply Fr.trainSend | with_reducible apply Fr.foldl | with_reducible apply Fr.foldl_fst | split | dsimp only | with_reducible exact k_all _ | with_reducible apply Fr.lit | with_reducible apply Fr.litAll))

theorem Fr.eccCorrected {ks : List Piece} {s t : State} (h : Fr ks s t) (x1 : BitVec 4) (x2 : Nat) (x3 : BitVec 8)
    (k_eng : Piece.eng ∈ ks) (k_tlb : Piece.tlb ∈ ks) (k_risk : Piece.risk ∈ ks) (k_log : Piece.log ∈ ks)
    (k_bist : Piece.bist ∈ ks) (k_mgmt : Piece.mgmt ∈ ks) :
    Fr ks s (State.eccCorrected t x1 x2 x3) := by
  unfold State.eccCorrected
  iterate 24 (all_goals try (first | with_reducible assumption | intro _ | with_reducible exact Or.inr rfl | (with_reducible refine Or.inl ?_; assumption) | with_reducible apply Fr.logErr | with_reducible apply Fr.place | with_reducible apply Fr.riskNote | split | dsimp only | with_reducible apply Fr.lit))

theorem Fr.eccLost {ks : List Piece} {s t : State} (h : Fr ks s t) (x1 : BitVec 4) (x2 : Nat) (x3 : BitVec 8)
    (k_eng : Piece.eng ∈ ks) (k_slots : Piece.slots ∈ ks) (k_tlb : Piece.tlb ∈ ks) (k_risk : Piece.risk ∈ ks)
    (k_log : Piece.log ∈ ks) (k_bist : Piece.bist ∈ ks) (k_mgmt : Piece.mgmt ∈ ks) :
    Fr ks s (State.eccLost t x1 x2 x3) := by
  unfold State.eccLost
  iterate 24 (all_goals try (first | with_reducible assumption | intro _ | with_reducible exact Or.inr rfl | (with_reducible refine Or.inl ?_; assumption) | with_reducible apply Fr.eccCorrected | with_reducible apply Fr.logErr | with_reducible apply Fr.modSlot | split | dsimp only | with_reducible apply Fr.lit))

theorem Fr.ecc {ks : List Piece} {s t : State} (h : Fr ks s t) (e : Ecc) (k_eng : Piece.eng ∈ ks)
    (k_slots : Piece.slots ∈ ks) (k_tlb : Piece.tlb ∈ ks) (k_risk : Piece.risk ∈ ks) (k_log : Piece.log ∈ ks)
    (k_bist : Piece.bist ∈ ks) (k_mgmt : Piece.mgmt ∈ ks) :
    Fr ks s (State.ecc t e) := by
  unfold State.ecc
  iterate 24 (all_goals try (first | with_reducible assumption | intro _ | with_reducible apply Fr.eccCorrected | with_reducible apply Fr.eccLost | split | dsimp only))

theorem Fr.invalComplete {ks : List Piece} {s t : State} (h : Fr ks s t)  (k_tlb : Piece.tlb ∈ ks)
    (k_invals : Piece.invals ∈ ks) (k_invalDone : Piece.invalDone ∈ ks) :
    Fr ks s (State.invalComplete t) := by
  unfold State.invalComplete
  iterate 24 (all_goals try (first | with_reducible assumption | intro _ | with_reducible exact Or.inr rfl | (with_reducible refine Or.inl ?_; assumption) | split | dsimp only | with_reducible apply Fr.lit))

theorem Fr.keepInvalLo {ks : List Piece} {s t : State} (h : Fr ks s t) (x1 : Word) (k_eng : Piece.eng ∈ ks) :
    Fr ks s (State.keepInvalLo t x1) := by
  unfold State.keepInvalLo
  iterate 24 (all_goals try (first | with_reducible assumption | intro _ | with_reducible exact Or.inr rfl | (with_reducible refine Or.inl ?_; assumption) | split | dsimp only | with_reducible apply Fr.lit))

theorem Fr.requestDone {ks : List Piece} {s t : State} (h : Fr ks s t) (x1 : Nat) (x2 : Ecc) (k_eng : Piece.eng ∈ ks)
    (k_all : ∀ d, Piece.ctx d ∈ ks) (k_slots : Piece.slots ∈ ks) (k_tlb : Piece.tlb ∈ ks) (k_reqs : Piece.reqs ∈ ks)
    (k_sent : Piece.sent ∈ ks) (k_waits : Piece.waits ∈ ks) (k_locks : Piece.locks ∈ ks) (k_risk : Piece.risk ∈ ks)
    (k_log : Piece.log ∈ ks) (k_bist : Piece.bist ∈ ks) (k_mgmt : Piece.mgmt ∈ ks) :
    Fr ks s (State.requestDone t x1 x2) := by
  unfold State.requestDone
  iterate 24 (all_goals try (first | with_reducible assumption | intro _ | with_reducible exact Or.inr rfl | (with_reducible refine Or.inl ?_; assumption) | with_reducible apply Fr.ecc | with_reducible apply Fr.rowsDone | split | dsimp only | with_reducible exact k_all _ | with_reducible apply Fr.lit | with_reducible apply Fr.litAll))

theorem Fr.ringFault {ks : List Piece} {s t : State} (h : Fr ks s t) (x1 : CtxNo) (x2 : Nat) (k_free : Piece.free ∈ ks)
    (k_core : Piece.core ∈ ks) (k_remote : Piece.remote ∈ ks) (k_evt : Piece.evt ∈ ks) (k_eng : Piece.eng ∈ ks)
    (k_all : ∀ d, Piece.ctx d ∈ ks) (k_schedTurn : Piece.schedTurn ∈ ks) (k_slots : Piece.slots ∈ ks)
    (k_lane : Piece.lane ∈ ks) (k_staging : Piece.staging ∈ ks) (k_tlb : Piece.tlb ∈ ks) (k_walks : Piece.walks ∈ ks)
    (k_reqs : Piece.reqs ∈ ks) (k_sent : Piece.sent ∈ ks) (k_waits : Piece.waits ∈ ks) (k_dovetail : Piece.dovetail ∈ ks)
    (k_chains : Piece.chains ∈ ks) (k_chainOut : Piece.chainOut ∈ ks) (k_ckpt : Piece.ckpt ∈ ks) (k_log : Piece.log ∈ ks)
    (k_tel : Piece.tel ∈ ks) (k_mgmt : Piece.mgmt ∈ ks) :
    Fr ks s (State.ringFault t x1 x2) := by
  unfold State.ringFault
  iterate 24 (all_goals try (first | with_reducible assumption | intro _ | with_reducible exact Or.inr rfl | (with_reducible refine Or.inl ?_; assumption) | with_reducible apply Fr.logErr | with_reducible apply Fr.modCtx | with_reducible apply Fr.stopCtx | split | dsimp only | with_reducible exact k_all _ | with_reducible apply Fr.lit | with_reducible apply Fr.litAll))

theorem Fr.takeFault {ks : List Piece} {s t : State} (h : Fr ks s t) (x1 : CtxNo) (x2 : FaultRec)
    (k_ctx : Piece.ctx x1 ∈ ks) :
    Fr ks s (State.takeFault t x1 x2) := by
  unfold State.takeFault
  iterate 24 (all_goals try (first | with_reducible assumption | intro _ | with_reducible exact Or.inr rfl | (with_reducible refine Or.inl ?_; assumption) | with_reducible apply Fr.modCtx | split | dsimp only | with_reducible apply Fr.lit))

theorem Fr.walkBack {ks : List Piece} {s t : State} (h : Fr ks s t) (x1 : Option Xlat) (x2 : WalkReq)
    (k_free : Piece.free ∈ ks) (k_core : Piece.core ∈ ks) (k_remote : Piece.remote ∈ ks) (k_evt : Piece.evt ∈ ks)
    (k_eng : Piece.eng ∈ ks) (k_all : ∀ d, Piece.ctx d ∈ ks) (k_schedTurn : Piece.schedTurn ∈ ks)
    (k_slots : Piece.slots ∈ ks) (k_lane : Piece.lane ∈ ks) (k_staging : Piece.staging ∈ ks) (k_tlb : Piece.tlb ∈ ks)
    (k_walks : Piece.walks ∈ ks) (k_reqs : Piece.reqs ∈ ks) (k_sent : Piece.sent ∈ ks) (k_waits : Piece.waits ∈ ks)
    (k_dovetail : Piece.dovetail ∈ ks) (k_chains : Piece.chains ∈ ks) (k_chainOut : Piece.chainOut ∈ ks)
    (k_ckpt : Piece.ckpt ∈ ks) (k_log : Piece.log ∈ ks) (k_tel : Piece.tel ∈ ks) (k_mgmt : Piece.mgmt ∈ ks) :
    Fr ks s (State.walkBack x1 t x2) := by
  unfold State.walkBack
  iterate 24 (all_goals try (first | with_reducible assumption | intro _ | with_reducible exact Or.inr rfl | (with_reducible refine Or.inl ?_; assumption) | with_reducible apply Fr.prefetch | with_reducible apply Fr.ringFault | with_reducible apply Fr.takeFault | split | dsimp only | with_reducible exact k_all _ | with_reducible apply Fr.lit | with_reducible apply Fr.litAll))

theorem Fr.walkDone {ks : List Piece} {s t : State} (h : Fr ks s t) (x1 : Nat) (x2 : Option Xlat)
    (k_free : Piece.free ∈ ks) (k_core : Piece.core ∈ ks) (k_remote : Piece.remote ∈ ks) (k_evt : Piece.evt ∈ ks)
    (k_eng : Piece.eng ∈ ks) (k_all : ∀ d, Piece.ctx d ∈ ks) (k_schedTurn : Piece.schedTurn ∈ ks)
    (k_slots : Piece.slots ∈ ks) (k_lane : Piece.lane ∈ ks) (k_staging : Piece.staging ∈ ks) (k_tlb : Piece.tlb ∈ ks)
    (k_walks : Piece.walks ∈ ks) (k_reqs : Piece.reqs ∈ ks) (k_sent : Piece.sent ∈ ks) (k_waits : Piece.waits ∈ ks)
    (k_dovetail : Piece.dovetail ∈ ks) (k_chains : Piece.chains ∈ ks) (k_chainOut : Piece.chainOut ∈ ks)
    (k_ckpt : Piece.ckpt ∈ ks) (k_log : Piece.log ∈ ks) (k_tel : Piece.tel ∈ ks) (k_mgmt : Piece.mgmt ∈ ks) :
    Fr ks s (State.walkDone t x1 x2) := by
  unfold State.walkDone
  iterate 24 (all_goals try (first | with_reducible assumption | intro _ | with_reducible exact Or.inr rfl | (with_reducible refine Or.inl ?_; assumption) | with_reducible apply Fr.walkBack | with_reducible apply Fr.foldl | with_reducible apply Fr.foldl_fst | split | dsimp only | with_reducible exact k_all _ | with_reducible apply Fr.lit | with_reducible apply Fr.litAll))

end Sys2Proof.Machine
end

