-- ==== Sys2Proof/Laws/Specs.lean ====
section
/-! SUPPORT. What the shared operations answer: an error-log entry, an access to the register window, a unit of memory that is open,
a command that starts or goes on, and a completed command. One lemma says each case; later proofs cite it. -/

namespace Sys2Proof.Machine

variable (s : State)

/-! ### Error log -/

/-- An entry that is not FATAL changes the log alone. -/
theorem State.logErr_plain (cls : BitVec 6) {sev : BitVec 2} (u : BitVec 4) (c : Option CtxNo) (a b : BitVec 64) (h : sev ≠ 3) :
    s.logErr cls sev u c a b = { s with log := s.logNext cls sev u c a b } := by
  unfold State.logErr
  exact if_neg h

/-- A FATAL entry stops the engine and raises ALERT. -/
theorem State.logErr_fatal (cls : BitVec 6) (u : BitVec 4) (c : Option CtxNo) (a b : BitVec 64) :
    s.logErr cls 3 u c a b = { s with
      log := s.logNext cls 3 u c a b
      eng := { s.eng with step := 15, fatalClass := if s.isFatal then s.eng.fatalClass else cls }
      mgmt := { s.mgmt with alertFatal := true } } := rfl

/-- An entry sets its class's bit of LOG_SUMMARY. -/
theorem State.logNext_summary (cls : BitVec 6) (sev : BitVec 2) (u : BitVec 4) (c : Option CtxNo) (a b : BitVec 64) :
    (s.logNext cls sev u c a b).summary = setFld s.log.summary cls.toNat 1 1 := by
  unfold State.logNext
  dsimp only
  split <;> rfl

end Sys2Proof.Machine
end

