-- ==== Sys2Proof/WellFormed.lean ====
section
/-! DEFINITION. Which commands are well formed: the operands whose Lean type is wider than what the spec gives them. -/

namespace Sys2Proof

/-- A bus access is 8, 16, 32 or 64 bits wide, and carries no more bits than its width (R11). -/
def wfAccess (width : Nat) (value : BitVec 64) : Bool :=
  (width == 8 || width == 16 || width == 32 || width == 64) && decide (value.toNat < 2 ^ width)

/-- A stored word that ECC protects lies in a store of at most 2^24 words (16). -/
def wfWord (word : Nat) : Bool := decide (word < 2 ^ 24)

/-- An ECC event names a word of a store. -/
def Ecc.wf : Ecc → Bool
  | .clean => true
  | .corrected _ w _ => wfWord w
  | .uncorrectable _ w _ => wfWord w

/-- A remote page number has at most 48 bits (R139). -/
def Xlat.wf (x : Xlat) : Bool :=
  match x.target with
  | .core _ => true
  | .remote p => decide (p < 2 ^ 48)

/-- At most 65,535 items in a requested slice, the width of COUNT (R235). -/
def wfResults (l : List ItemResult) : Bool := decide (l.length < 2 ^ 16)

/-- A command is well formed. -/
def Instr.wf : Instr → Bool
  | .bistSlice _ l => wfResults l
  | .fallowSlice l => wfResults l
  | .registerWrite _ w v => wfAccess w v
  | .requestComplete _ e => e.wf
  | .correctedWriteBack _ w => wfWord w
  | .walk _ (some x) => x.wf
  | .bankRewrite _ b => wfWord b
  | .quickBist lanes cols => decide lanes.Nodup && decide cols.Nodup
  | _ => true

end Sys2Proof
end

