-- ==== Sys2Proof/Tests/Slice0.lean ====
section
/-! SUPPORT. The model's own tests: the well-formedness checks, single commands against the spec's examples, and for every
statement with hypotheses a concrete state and operands that meet them (a witness for each of its clauses). -/

namespace Sys2Proof.Tests

-- One after another: checked at once, the tests would ask for too much memory.
set_option Elab.async false

open Sys2Proof.Machine

/-! ### Well-formed commands -/

def items (n : Nat) : List ItemResult := List.replicate n ⟨.pass, 0, 0, 0, 0, 0⟩
theorem wfResults_items (n : Nat) : wfResults (items n) = decide (n < 2 ^ 16) := by simp only [wfResults, items, List.length_replicate]
theorem test_wf_bistSlice : Instr.wf (.bistSlice 0 (items 65535)) = true ∧ Instr.wf (.bistSlice 0 (items 65536)) = false :=
  ⟨(wfResults_items _).trans (by decide), (wfResults_items _).trans (by decide)⟩
theorem test_wf_fallowSlice : Instr.wf (.fallowSlice (items 65535)) = true ∧ Instr.wf (.fallowSlice (items 65536)) = false :=
  ⟨(wfResults_items _).trans (by decide), (wfResults_items _).trans (by decide)⟩
theorem test_wf_width : Instr.wf (.registerWrite 0x020 32 1) = true ∧ Instr.wf (.registerWrite 0x020 24 1) = false := by decide
theorem test_wf_value : Instr.wf (.registerWrite 0x020 8 0xFF) = true ∧ Instr.wf (.registerWrite 0x020 8 0x100) = false := by decide
theorem test_wf_corrected : Instr.wf (.requestComplete 0 (.corrected 1 5 0)) = true
    ∧ Instr.wf (.requestComplete 0 (.corrected 1 (2 ^ 24) 0)) = false := by decide
theorem test_wf_uncorrectable : Instr.wf (.requestComplete 0 (.uncorrectable 1 5 0)) = true
    ∧ Instr.wf (.requestComplete 0 (.uncorrectable 1 (2 ^ 24) 0)) = false := by decide
theorem test_wf_writeBack : Instr.wf (.correctedWriteBack 1 5) = true ∧ Instr.wf (.correctedWriteBack 1 (2 ^ 24)) = false := by decide
theorem test_wf_walk : Instr.wf (.walk 0 (some ⟨.remote 7, true, true⟩)) = true
    ∧ Instr.wf (.walk 0 (some ⟨.remote (2 ^ 48), true, true⟩)) = false := by decide
theorem test_wf_bankRewrite : Instr.wf (.bankRewrite 1 5) = true ∧ Instr.wf (.bankRewrite 1 (2 ^ 24)) = false := by decide
theorem test_wf_quickBist_lanes : Instr.wf (.quickBist [3, 4] []) = true ∧ Instr.wf (.quickBist [3, 3] []) = false := by decide
theorem test_wf_quickBist_columns : Instr.wf (.quickBist [] [(1, 0, 2)]) = true
    ∧ Instr.wf (.quickBist [] [(1, 0, 2), (1, 0, 2)]) = false := by decide

/-- No row of the opcode table gives bits, so no word spells a command. -/
theorem test_no_word_decodes : decodeTableWord 32 0x12345678 = none ∧ decodeTableWord 8 0 = none := by decide

/-! ### Small states -/

/-- A READY engine, ACTIVE, with a region table whose entry 0 grants everything to every context, and page 0 in the TLB. -/
def up : State :=
  { State.reset with
    eng := { Engine.reset with step := 7, fwSvn := 0 }
    pow := { Power.reset with state := .running, awake := Vector.replicate 16 true }
    sec := { Security.reset with dbg := .locked }
    regions := [(0, BitVec.ofNat 128 ((2 ^ 48 - 1) * 2 ^ 64 + 2 ^ 112 + 2 ^ 113 + 2 ^ 114 + 0xFF * 2 ^ 120))]
    tlb := [⟨0, ⟨.core 0, true, true⟩, 0⟩] }

/-- An engine with its clock running, at a step of start-up. -/
def atStep (n : BitVec 4) : State := { up with eng := { up.eng with step := n } }

/-- A command packet (R196): opcode, context, LENGTH 1, sequence number, and fields (position, width, value). -/
def packet (op ctx seq : Nat) (fs : List (Nat × Nat × Nat)) : BitVec 512 :=
  fs.foldl (fun p f => setFld p f.1 f.2.1 f.2.2)
    (setFld (setFld (setFld (setFld 0 0 8 op) 24 3 ctx) 27 2 1) 32 32 seq)

/-- An admitted command of context 0, sequence number 0. -/
def cmd (op : Nat) (fs : List (Nat × Nat × Nat)) (p : Phase := .queued) : Cmd :=
  ⟨packet op 0 0 fs, Vector.replicate 8 0, [], 0, 0, p, 0, none⟩

/-- The commands of a context, which runs. -/
def run (s : State) (l : List Cmd) (c : CtxNo := 0) : State := s.modCtx c (fun x => { x with state := .running, cmds := l })

/-- The command answers a next state with this property. -/
def after (i : Instr) (s : State) (p : State → Bool) : Bool :=
  match exec i s with
  | .next t => p t
  | _ => false

/-! ### Queue, clock, window -/

theorem witness_StepRunsFrontCommand : ({ up with pending := [.nop 0] } : State).pending = .nop 0 :: [] := by decide
theorem witness_EmptyQueueIsOneClock : up.pending = [] ∧ up.pow.state = .running ∧ State.reset.pending = []
    ∧ State.reset.pow.state ≠ .running ∧ State.reset.pow.ramp = none ∧ State.reset.pow.ret = false := by decide
theorem witness_CounterClearsAndLogRegisters : up.windowOpen = true ∧ (up.ctx 3).resetting = false ∧ up.logOpen = true
    ∧ dist32 up.log.wr 0 ≤ dist32 up.log.wr up.log.rd ∧ dist32 up.log.wr up.log.rd < dist32 up.log.wr 1 := by decide +kernel

/-- A PARKED context 2, a RUNNING context 1. -/
def twoCtx : State := (up.modCtx 1 (fun x => { x with state := .running })).modCtx 2 (fun x => { x with state := .parked })

theorem witness_doorbell_taken : twoCtx.windowOpen = true ∧ (twoCtx.ctx 1).resetting = false ∧ (twoCtx.ctx 1).state = .running
    ∧ dist32 4 (twoCtx.ctx 1).cmdHead ≤ (twoCtx.ctx 1).cmdDepth ∧ dist32 4 (twoCtx.ctx 1).cmdTail ≤ (twoCtx.ctx 1).cmdDepth
    ∧ (twoCtx.ctx 2).resetting = false ∧ (twoCtx.ctx 2).state = .parked := by decide +kernel
theorem witness_doorbell_refused : (twoCtx.ctx 1).cmdDepth < dist32 (BitVec.ofNat 32 ((twoCtx.ctx 1).cmdDepth + 1)) (twoCtx.ctx 1).cmdHead
    ∧ twoCtx.eng.doorbellStop = false := by decide +kernel
theorem witness_cplHead_and_enable : (twoCtx.ctx 0).state = .disabled ∧ (twoCtx.ctx 0).resetting = false ∧ (twoCtx.ctx 1).state ≠ .stopped
    ∧ (twoCtx.ctx 0).cmdBase.toNat % (64 * (twoCtx.ctx 0).cmdDepth) = 0 ∧ (twoCtx.ctx 0).cplHead = (twoCtx.ctx 0).cplTail := by decide +kernel

/-- ENABLE of a context whose rings are aligned and empty makes it RUNNING (R202). -/
theorem test_enable : after (.enable 3) up (fun t => decide ((t.ctx 3).state = .running ∧ (t.ctx 2).state = .disabled)) = true := by
  decide +kernel
/-- A doorbell past the ring's depth leaves CMD_TAIL and sets DOORBELL_ERR (R195). -/
theorem test_doorbell_far : after (.doorbell 1 0xFFFF) twoCtx (fun t => decide ((t.ctx 1).doorbellErr = true ∧ (t.ctx 1).cmdTail = 0)) = true := by
  decide +kernel

/-! ### RESUME, ABORT, RESET -/

/-- A context parked by the timeout of a WAIT. -/
def parkedWait (ok : Bool) : State :=
  (up.modCtx 0 (fun x => { x with state := .parked, parkCause := 1, cmds := [cmd 0x2B [(12, 1, 1)] (.running (.waitCounter 5 (some 0) 3 ok true))] }))
/-- A context parked by a page fault of a ZERO of a tensor. -/
def parkedZero : State :=
  up.modCtx 0 (fun x => { x with
    state := .parked, parkCause := 0, cmds := [cmd 0x06 [(12, 1, 1)] (.running (.zeroTensor 0))]
    fault := some ⟨0x1000000, 3, false, true, false, false, false, 0, 0, 1, false⟩ })

theorem witness_resume : parkedZero.windowOpen = true ∧ (parkedZero.ctx 0).resetting = false ∧ (parkedZero.ctx 0).state = .parked
    ∧ (parkedZero.ctx 0).fault = some ⟨0x1000000, 3, false, true, false, false, false, 0, 0, 1, false⟩
    ∧ parkedZero.needOk 0 ⟨0x1000000, 3, false, true, false, false, false, 0, 0, 1, false⟩ = false ∧ parkedZero.walks.length < 8 := by
  decide +kernel
theorem witness_resume_wait : PhaseAt (parkedWait false) 0 0 (.running (.waitCounter 5 (some 0) 3 false true))
    ∧ PhaseAt (parkedWait true) 0 0 (.running (.waitCounter 5 (some 0) 3 true true)) ∧ ((parkedWait true).ctx 0).state = .parked := ⟨rfl, rfl, rfl⟩
theorem witness_abort_wait : (parkedWait false).windowOpen = true ∧ ((parkedWait false).ctx 0).parkCause ≠ 2
    ∧ ((parkedWait false).ctx 0).abortTarget = some (0, cmd 0x2B [(12, 1, 1)] (.running (.waitCounter 5 (some 0) 3 false true)))
    ∧ ((parkedWait false).ctx 0).cmds[0]? = some (cmd 0x2B [(12, 1, 1)] (.running (.waitCounter 5 (some 0) 3 false true))) := by decide +kernel
theorem witness_abort_zero : (parkedZero.ctx 0).parkCause ≠ 2
    ∧ (parkedZero.ctx 0).abortTarget = some (0, cmd 0x06 [(12, 1, 1)] (.running (.zeroTensor 0))) := by decide +kernel
theorem witness_ContextResetClearsContext : (parkedZero.ctx 0).resetting = false
    ∧ ((parkedZero.modCtx 0 (fun x => { x with resetting := true })).ctx 0).resetting = true ∧ parkedZero.pow.state = .running
    ∧ parkedZero.reqs.all (fun r => r.ctx != 0) = true
    ∧ ((parkedZero.modCtx 0 (fun x => { x with resetting := true })).headerLookup 0).1 = true := by decide +kernel
/-- CONTEXT_RESET_COMPLETE leaves the context DISABLED and empty (R207). -/
theorem test_reset_complete : after (.contextResetComplete 0) (parkedZero.modCtx 0 (fun x => { x with resetting := true }))
    (fun t => decide ((t.ctx 0).state = .disabled ∧ (t.ctx 0).cmds = [] ∧ (t.ctx 0).resetting = false)) = true := by decide +kernel

/-! ### Invalidations, register writes -/

theorem witness_InvalidationsInOrder : up.windowOpen = true ∧ up.invals.length < 16
    ∧ 16 ≤ ({ up with invals := List.replicate 16 ⟨true, 0⟩ } : State).invals.length
    ∧ up.alive = true ∧ ({ up with invals := [⟨false, 9⟩] } : State).invals = ⟨false, 9⟩ :: []
    ∧ (∀ r ∈ up.reqs, Inval.names ⟨false, 9⟩ r.page = false) ∧ ∀ c : CtxNo, ∀ p ∈ (up.ctx c).xlats, Inval.names ⟨false, 9⟩ p.1 = false := by
  decide +kernel
/-- A page invalidation drops that page and completes (R153, R365). -/
theorem test_invalidation : after (.tlbInvalPage 0) up (fun t => decide (t.tlb = [] ∧ t.invalReq = 1 ∧ t.invals.length = 1)) = true := by decide +kernel
theorem witness_RegisterWrites : (24 ≠ 32 ∧ 24 ≠ 64) ∧ (0x021#12).toNat % 4 ≠ 0 ∧ (0x00C#12).toNat % 8 ≠ 0 ∧ up.windowOpen = true
    ∧ State.reset.windowOpen = false := by decide +kernel
/-- A 32-bit write to CTX_CTRL of context 1 with ENABLE is ENABLE (R366). -/
theorem test_register_enable : after (.registerWrite 0x284 32 1) up (fun t => decide ((t.ctx 1).state = .running)) = true := by decide +kernel

/-! ### Management services -/

/-- Staging that names a legal region entry: bytes 0 to 2^48 - 1, valid. -/
def staged : State := { up with mgmt := { up.mgmt with region := Tbl.get 0 up.regions 0 } }

theorem witness_StagingWordsAndRegions : up.pow.state = .running ∧ (atStep 4).eng.step.toNat ≤ 4 ∧ (atStep 4).pow.state = .running
    ∧ 4 < up.eng.step.toNat ∧ Tbl.wf 0 staged.regions = true ∧ groupReservedOk up.mgmt.group = true
    ∧ groupReservedOk (BitVec.ofNat 256 (2 ^ 9)) = false := by decide +kernel
theorem witness_region_commit : (255#32).toNat < 256 ∧ fld staged.mgmt.region 48 16 = 0 ∧ fld staged.mgmt.region 115 5 = 0
    ∧ fld staged.mgmt.region 0 48 ≤ fld staged.mgmt.region 64 48
    ∧ ¬ ((256#32).toNat < 256 ∧ fld staged.mgmt.region 48 16 = 0 ∧ fld staged.mgmt.region 115 5 = 0
      ∧ fld staged.mgmt.region 0 48 ≤ fld staged.mgmt.region 64 48) := by decide +kernel
/-- A write by anything but secure firmware advances MGMT_DENIED and commits nothing (R347). -/
theorem test_denied : after (.regionCommit false 5) staged (fun t => decide (t.tel.mgmtDenied = 1 ∧ t.regions = staged.regions)) = true := by decide +kernel
/-- Index 256 sets COMMIT_ERR (R348). -/
theorem test_commit_range : after (.regionCommit true 256) staged (fun t => decide (t.mgmt.commitErr = true ∧ t.regions = staged.regions)) = true := by
  decide +kernel
theorem witness_KeysAndBindings : up.pow.state = .running ∧ (up.ctx 0).resetting = false ∧ (up.ctx 0).state = .disabled
    ∧ (twoCtx.ctx 1).state ≠ .disabled ∧ (twoCtx.ctx 1).resetting = false ∧ up.sec.pendKey = none ∧ 16 ≤ (16#32).toNat := by decide +kernel
theorem witness_ExportSeqBeforeFirstExport : up.pow.state = .running ∧ up.sec.exported = false
    ∧ ({ up with sec := { up.sec with exported := true } } : State).sec.exported = true := by decide +kernel
theorem witness_SvnCommitBlowsFuses : up.pow.state = .running ∧ up.eng.fwSvn ≤ up.eng.svn ∧ up.eng.svn ≤ up.eng.fwSvn := by decide +kernel
/-- Two images' SVN: a running image of SVN 3 on an engine with one blown bit. -/
theorem test_svn : after (.svnCommit true) { up with eng := { up.eng with svn := 3, fwSvn := 1 } } (fun t => decide (t.eng.fwSvn = 3)) = true := by
  decide +kernel

/-! ### Power, debug port -/

/-- An engine with one job ACTIVE on channel 0, in a group of one child on IN0. -/
def jobCtx (g : BitVec 256) : JobCtx := ⟨5, .active, g, false, false, some 10, 0, 0, 0, 0⟩
def withJob (s : State) (k : Chan) (j : JobCtx) : State := s.modCh k (fun x => { x with jobs := j :: x.jobs })

theorem witness_retain : up.up = true ∧ up.pow.retaining = false ∧ up.jobActive = false ∧ (withJob up 0 (jobCtx 0)).jobActive = true
    ∧ (withJob up 0 (jobCtx 0)).up = true := by decide +kernel
def ramping (r : Ramp) (at_ : Nat) : State := { up with now := at_, pow := { up.pow with ramp := some r, held := true, state := .running } }
theorem witness_retainExit : ({ up with pow := { up.pow with state := .retain } } : State).pow.state = .retain ∧ up.pow.ramp = none
    ∧ up.pow.want = [] ∧ up.pow.ret = false := by decide +kernel
theorem witness_ramps : (ramping (.wake [0]) 100000).pow.retaining = false
    ∧ (ramping (.wake [0]) 100000).pow.rampStart + (ramping (.wake [0]) 100000).rampEc (.wake [0]) ≤ 100000
    ∧ (ramping (.release [3]) 100000).pow.rampStart + (ramping (.release [3]) 100000).rampEc (.release [3]) ≤ 100000
    ∧ (ramping (.mode true) 100000).pow.rampStart + (ramping (.mode true) 100000).rampEc (.mode true) ≤ 100000
    ∧ 0 < (ramping (.mode true) 0).pow.rampStart + (ramping (.mode true) 0).rampEc (.mode true)
    ∧ (ramping .retainIn 100000).pow.ramp = some .retainIn
    ∧ (ramping .retainIn 100000).pow.rampStart + (ramping .retainIn 100000).rampEc .retainIn ≤ 100000 := by decide +kernel
/-- The entry to RETAIN empties the TLB and stops the clock; a slot's contents stay (R13, R305). -/
theorem test_retain_entered : after .rampComplete (ramping .retainIn 100000) (fun t => t.tlb == [] && t.pow.state == .retain && t.regions == []) = true := by
  decide +kernel
/-- The end of a wake of group 3 leaves it awake and returns the token (R307). -/
theorem test_wake_ends : after .rampComplete { ramping (.wake [3]) 100000 with
      pow := { (ramping (.wake [3]) 100000).pow with awake := Vector.replicate 16 false } }
    (fun t => decide (t.pow.awake.get 3 = true ∧ t.pow.awake.get 4 = false ∧ t.pow.held = false)) = true := by decide +kernel
def asking (w : List Ramp) (n : Nat) : State := { up with now := 10 ^ 9, pow := { up.pow with req := true, want := w, waitTicks := n } }
theorem witness_TokensAndReleases : (asking [.mode true] 0).pow.req = true ∧ (asking [.mode true] 0).pow.held = false
    ∧ (asking [.mode true] 0).pow.want = .mode true :: [] ∧ up.pow.req = false ∧ (asking [] 0).up = true
    ∧ (asking [] 0).pow.awake.get 2 = true ∧ (asking [] 0).pow.lastBeat.get 2 + (asking [] 0).dwell ≤ (asking [] 0).now
    ∧ (asking [] 0).pow.want = [] ∧ (asking [] 0).pow.ret = false
    ∧ (asking [] 0).pow.ramp = none ∧ up.now < up.pow.lastBeat.get 2 + up.dwell ∧ (asking [] 1000).pow.waitLogged = false
    ∧ 1000 ≤ (asking [] 1000).pow.waitTicks ∧ (asking [] 1000).pow.state = .running := by decide +kernel
/-- RET goes up with the end of a ramp, REQ down (R309). -/
theorem test_token_returned : after .rampComplete (ramping (.mode true) 100000) (fun t => t.pow.ret && !t.pow.req && !t.pow.held) = true := by
  decide +kernel
/-- That a response verifies rests on the debug key's hash, fused into the engine, which no proof can know: `Config.debugKeyHash`. -/
theorem witness_DebugPortOpens : up.pow.state ≠ .off ∧ up.sec.refuses = false
    ∧ ({ up with sec := { up.sec with refuses := true } } : State).sec.refuses = true ∧ up.alive = true
    ∧ ({ up with sec := { up.sec with response := some (2, 0, 0, 0) } } : State).sec.response = some (2, 0, 0, 0)
    ∧ up.sec.dbg ≠ .full ∧ responseOk none 2 0 0 0 = false := by decide +kernel

/-! ### Ticks, start-up, training -/

/-- An engine n EC after its last boundary, with local boundaries running or not. -/
def ticking (n : Nat) (local_ : Bool) : State :=
  { up with now := n, tick := { up.tick with last := 0, first := false, waitEdge := false, due := none, run := local_ } }
theorem witness_EdgesAndLocalBoundaries : (ticking 13860 false).sampled = true ∧ (ticking 13860 false).tick.due = none
    ∧ 13860 ≤ (ticking 13860 false).now - (ticking 13860 false).tick.last ∧ (ticking 14139 false).now < 14140
    ∧ (ticking 13859 false).now < 13860 ∧ 14140 ≤ (ticking 14140 false).now ∧ (ticking 13999 true).tick.run = true
    ∧ (ticking 13999 true).now < 14000 ∧ 14000 ≤ (ticking 14000 true).now ∧ (ticking 14000 true).sampled = true := by decide +kernel
/-- The first and the last EC of the window of an edge, and the EC before and after it (R14). -/
theorem test_edge_window : after .tickEdge (ticking 13860 false) (fun t => t.tick.due == some (false, 13861)) = true
    ∧ after .tickEdge (ticking 14139 false) (fun t => t.tick.due == some (false, 14140)) = true
    ∧ after .tickEdge (ticking 13859 false) (fun t => t.tick.due == none && t.tick.early == 1) = true
    ∧ after .localBoundary (ticking 14139 false) (fun t => t.tick.due == none) = true
    ∧ after .localBoundary (ticking 14140 false) (fun t => t.tick.due == some (true, 14140) && t.tick.localCount == 1) = true := by decide +kernel
def boundaryDue : State := { parkedWait false with tick := { up.tick with due := some (false, 0) } }
theorem witness_BoundaryDuties : up.tick.due = none ∧ boundaryDue.sampled = true ∧ boundaryDue.tick.due = some (false, 0) ∧ boundaryDue.now < 1 ∧ 0 ≤ boundaryDue.now
    ∧ PhaseAt boundaryDue 0 0 (.running (.waitCounter 5 (some 0) 3 false true)) := ⟨rfl, rfl, rfl, by decide +kernel, by decide +kernel, rfl⟩
theorem witness_startup : State.reset.pow.state = .off ∧ State.reset.pow.ramp = none ∧ State.reset.pow.want = []
    ∧ (atStep 6).eng.step = 6 ∧ (atStep 4).eng.step = 4 ∧ positionOk ({ atStep 4 with mgmt := { up.mgmt with position := 0x13F } } : State).mgmt.position.toNat = true
    ∧ positionOk ({ atStep 4 with mgmt := { up.mgmt with position := 0x140 } } : State).mgmt.position.toNat = false
    ∧ (atStep 4).pow.state = .running := by decide +kernel
theorem witness_training_window : (atStep 5).pow.state = .running ∧ (atStep 5).eng.step = 5
    ∧ (∀ k : Chan, (({ atStep 5 with train := Vector.replicate 6 { Train.reset with link := 1 } } : State).train.get k).link = 1)
    ∧ ({ atStep 5 with now := 22400000 } : State).eng.stepStart + 22400000 ≤ 22400000
    ∧ (∃ k : Chan, ((atStep 5).train.get k).link ≠ 1) ∧ (atStep 5).now < (atStep 5).eng.stepStart + 22400000 := by decide +kernel
/-- An empty memory holds no image: check 1 of R337 fails. (That an image passes rests on the key hash fused into the engine, which
no proof can know: `Config.fwKeyHash`.) -/
theorem witness_image_refused : (atStep 3).pow.state = .running ∧ (atStep 3).eng.step = 3 ∧ (atStep 3).imageCheck ≠ 0 := by decide +kernel
/-- RESET_RELEASE begins step 1 with the start-up ramp (R351). -/
theorem test_release : after .resetRelease State.reset (fun t => t.eng.step == 1 && t.pow.want == [.startUp] && t.pow.req) = true := by
  decide +kernel

/-- A channel whose training data has come, all good. -/
def trained (k : Chan) (f : Train → Train) : State := up.modTrain k f
def pkt (fs : List (Nat × Nat × Nat)) : Packet := ⟨fs.foldl (fun h f => setFld h f.1 f.2.1 f.2.2) 0, 0⟩
theorem witness_probes : up.pow.state ≠ .off ∧ up.eng.step ≠ 1 ∧ up.trains = true
    ∧ ((trained 2 (fun t => { t with link := 0, probing := true, nextProbe := 0 })).train.get 2).link ≠ 1
    ∧ ((trained 2 (fun t => { t with link := 0, probing := true, nextProbe := 0 })).train.get 2).link ≠ 3
    ∧ ((trained 2 (fun t => { t with link := 0, probing := true, nextProbe := 0 })).train.get 2).probing = true
    ∧ ((trained 2 (fun t => { t with link := 0, probing := true, nextProbe := 0 })).train.get 2).nextProbe ≤ up.now
    ∧ 5 ≤ (7#4).toNat ∧ (7#4).toNat < 15 := by decide +kernel
/-- Probes go out 0.2, 0.4, 0.8, 1.6, 3.2 ms apart: 280,000 EC doubled up to four times (R355). -/
theorem test_probe_gap : after (.probeSend 2) (trained 2 (fun t => { t with link := 0, probing := true, nextProbe := 0, probes := 7 }))
    (fun t => (t.train.get 2).nextProbe == 4480000 && (t.train.get 2).probes == 8) = true := by decide +kernel
theorem witness_training_data : (pkt [(12, 4, 4), (16, 16, 2)]).kind = 4 ∧ ((trained 1 id).train.get 1).link ≠ 1 ∧ (trained 1 id).trains = true
    ∧ ((trained 1 (fun t => { t with rxCount := 256, rxOk := true })).train.get 1).rxCount = 256
    ∧ ((trained 1 (fun t => { t with rxCount := 256, rxOk := true })).train.get 1).rxOk = true
    ∧ ((trained 1 (fun t => { t with rxCount := 256, rxOk := true })).train.get 1).partner = 0x7FFF
    ∧ ((trained 1 (fun t => { t with rxCount := 256, rxOk := true })).train.get 1).rxCrc = 0
    ∧ ¬ ((up.train.get 1).rxCount = 256) := by decide +kernel
theorem witness_training_timeout : (({ trained 1 (fun t => { t with rxCount := 3 }) with now := 14000 } : State).train.get 1).rxCount ≠ 0
    ∧ (({ trained 1 (fun t => { t with rxCount := 3 }) with now := 14000 } : State).train.get 1).rxStart + 14000 ≤ 14000
    ∧ ((trained 1 (fun t => { t with link := 1 })).train.get 1).link = 1
    ∧ (7 : BitVec 15) ≠ ((trained 1 (fun t => { t with link := 1 })).train.get 1).partner := by decide +kernel

/-! ### Self-test and risk -/

/-- An engine whose lane items are done, so that the first unit with items left is the Clamp. -/
def fallow : State := { up with bist := { up.bist with busyUntil := 0 } }
theorem witness_FallowSlices : fallow.fallowFree = true ∧ fallow.bist.wake = none ∧ fallow.fallowUnit = some 1 ∧ fallow.bist.forced = false
    ∧ itemsFit 1 (unitItems 1 - fallow.bist.cursor 1) (min 1800 fallow.fallowBudget) ≠ 0
    ∧ fallow.bist.cursor 1 + itemsFit 1 (unitItems 1 - fallow.bist.cursor 1) (min 1800 fallow.fallowBudget) < unitItems 1 := by
  decide +kernel
/-- An engine with lane items left only. -/
def lanesLeft : State := { up with pow := { up.pow with awake := Vector.replicate 16 false }, bist := { up.bist with cursors := Vector.ofFn (fun k => if k.val = 0 then 0 else unitItems k.val) } }
theorem witness_fallow_wake : lanesLeft.fallowFree = true ∧ lanesLeft.bist.wake = none ∧ lanesLeft.fallowUnit = some 0
    ∧ 0 < itemsFit 0 (unitItems 0 - lanesLeft.bist.cursor 0) (min 1800 lanesLeft.fallowBudget)
    ∧ itemGroup (lanesLeft.bist.cursor 0) = some 0 ∧ lanesLeft.pow.awake.get 0 = false := by decide +kernel
/-- The wait of a fallow slice for its wake counts against its budget: 1,300 EC after its admission one item of 400 EC fits (R314). -/
theorem test_fallow_waited : after (.fallowSlice []) { lanesLeft with
      now := 1300, bist := { lanesLeft.bist with wake := some 0, busyUntil := 1800 }, pow := { up.pow with awake := Vector.replicate 16 true } }
    (fun t => t.bist.cursors.toList.head? == some 1 && t.bist.busyUntil == 1780 && t.bist.wake.isNone) = true := by decide +kernel
theorem witness_risk : ({ up with bist := { up.bist with forcedNext := true } } : State).bist.forcedNext = true ∧ up.bist.forcedNext = false
    ∧ windowTicks up.riskTab ≤ ({ up with risk := { up.risk with ticks := 100000 } } : State).risk.ticks
    ∧ up.risk.ticks < windowTicks up.riskTab ∧ up.alive = true := by decide +kernel
theorem witness_RepairMapsSpares : ({ atStep 2 with eng := { (atStep 2).eng with bistDone := true } } : State).eng.bistDone = true
    ∧ (5 : Fin 130).val < 64 ∧ up.bist.sl0 = none ∧ up.bist.sl0Bad = false
    ∧ ({ atStep 2 with bist := { up.bist with sl0 := some 3 } } : State).bist.sl0 ≠ none ∧ up.bankQuiet 3 0 = true
    ∧ ({ up with bist := { up.bist with rewriteDue := [(3, 0, 7, 5)] } } : State).bist.rewriteDue = [((3#4).toNat, 0, 7, 5)]
    ∧ (5 : Word) ≠ up.tick.count := by decide +kernel
/-- A lane failure in the lower half takes SL0 (R325). -/
theorem test_lane_spare : after (.quickBist [5] []) { atStep 2 with eng := { (atStep 2).eng with bistDone := true } }
    (fun t => t.bist.sl0 == some 5 && t.eng.step == 3) = true := by decide +kernel

/-! ### Weight chains -/

/-- A valid chain entry of two members whose core 2 follows this core: INDEX 0, LENGTH 1, SUCC 2, CHAIN_ID 9. -/
def chained (f : Chain → Chain) : State :=
  up.setChain 1 (f { Chain.reset with entry := BitVec.ofNat 64 (1 + 2 ^ 5 + 2 * 2 ^ 13 + 9 * 2 ^ 17), head := false, tail := false })
theorem witness_chain_beat : (chained id).up = true ∧ ((chained id).chain 1).valid = true ∧ ((chained id).chain 1).detached = false
    ∧ ((chained id).chain 1).due = none ∧ ((chained id).chain 1).head = false ∧ ((chained id).chain 1).slack.length < 256
    ∧ ((chained id).chain 1).late = false ∧ ((chained id).chain 1).accepts ((chained id).chain 1).id ⟨0, 0, 0, 0⟩ = true
    ∧ ((chained id).chain 1).accepts ((chained id).chain 1).id ⟨0, 5, 0, 0⟩ = false ∧ ((chained id).chain 1).out = []
    ∧ ((chained id).chain 1).slack = [] ∧ ((chained id).chain 1).kept = []
    ∧ BitVec.ofNat 4 (5 : Fin 16).val = ((chained (fun k => { k with succ := 5 })).chain 1).succ
    ∧ BitVec.ofNat 4 (2 : Fin 16).val ≠ ((chained (fun k => { k with succ := 5 })).chain 1).succ
    ∧ BitVec.ofNat 4 (2 : Fin 16).val = ((chained (fun k => { k with succ := 5 })).chain 1).ownSucc := by decide +kernel
/-- A member with a gap up to beat 3 takes an accepted beat without counting on: it fetches the gap itself first (R186). -/
theorem test_chain_gap : after (.chainBeat 1 9 0 3 0 0) (chained (fun k => { k with gapTo := 3, next := 1 }))
    (fun t => (t.chain 1).next == 1 && (t.chain 1).due.isNone) = true := by decide +kernel
theorem witness_chain_detach : ((chained (fun k => { k with due := some 2 })).chain 1).leaves up.now 2 = true
    ∧ ((chained id).chain 1).leaves up.now 2 = false
    ∧ ((chained (fun k => { k with heldSince := some 0 })).chain 1).leaves 4096 0 = true
    ∧ ((chained (fun k => { k with heldSince := some 0 })).chain 1).leaves 4095 0 = false := by decide +kernel
/-- A beat out of order makes the member detach: cause 1 comes about (R183, R186). -/
theorem test_chain_disorder : after (.chainBeat 1 9 0 5 0 0) (chained id) (fun t => (t.chain 1).due == some 1 && t.chainOut == []) = true := by
  decide +kernel

/-- A CHAIN_SETUP in front of context 0: INDEX 0, LENGTH 1, successor 2, DETACH_CYCLES 4,096. -/
def setup : Cmd := cmd 0x3A [(128, 1, 1), (133, 4, 1), (141, 4, 2), (145, 12, 9)]
theorem witness_chain_setup : (run up [setup]).starting 0 0x3A = some (0, setup) ∧ ((run up [setup]).ctx 0).cmds[0]? = some setup
    ∧ setup.bit 128 = true ∧ setup.reservedBad = none ∧ setupBad (fld (run up [setup]).eng.position 0 4) setup = none
    ∧ ((run up [setup]).chain 0).valid = false := by decide +kernel

/-! ### Reduction port -/

/-- A level-1 node with a child at position 3 on IN0, backups of position 7 on IN3, not the root. -/
def node : BitVec 256 :=
  BitVec.ofNat 256 (1 + 1 * 2 ^ 1 + 2 ^ 4 + 2 ^ 8 + 3 * 2 ^ 96 + 7 * 2 ^ (96 + 48))
/-- A member without a node: its results come in on channel 5. -/
def member : BitVec 256 := 1
def dataPkt (kind : Nat) (fs : List (Nat × Nat × Nat)) : Packet := pkt ([(0, 12, 5), (12, 4, kind)] ++ fs)

theorem witness_PacketsCountAndDigest : up.up = true ∧ ((withJob up 0 (jobCtx node)).portCh 0).ctx (dataPkt 0 []).job = some (jobCtx node)
    ∧ (dataPkt 0 []).kind = 0 ∧ (dataPkt 1 []).kind = 1 ∧ (dataPkt 2 []).kind = 2 ∧ (dataPkt 3 []).kind = 3 := by decide +kernel
/-- No context has a command, so no BUCKET_SEND is in flight. -/
theorem witness_port_calm : PortCalm (withJob up 0 (jobCtx node)) := by
  have h : ∀ c : CtxNo, ((withJob up 0 (jobCtx node)).ctx c).cmds = [] := by decide +kernel
  refine ⟨by decide +kernel, rfl, rfl, rfl, fun c i m n hm _ => ?_⟩
  rw [h c] at hm; cases hm
theorem witness_result : (jobCtx member).state ≠ .failed ∧ (dataPkt 1 []).strict = (jobCtx member).strict
    ∧ (dataPkt 1 []).exact = (jobCtx member).exact ∧ (jobCtx member).strict = false ∧ gHosts member = false
    ∧ resultHere member false 5 = true := by decide +kernel
theorem witness_abort : peerOf node false 0 3 = some (dataPkt 3 [(64, 15, 3)]).pos
    ∧ ∀ d : Chan, ∀ x ∈ ((withJob up 0 (jobCtx node)).portCh d).jobs, x.job = (dataPkt 3 [(64, 15, 3)]).job → x.state ≠ .failed := by decide +kernel
theorem witness_partial : (dataPkt 0 [(64, 15, 3)]).strict = false ∧ (dataPkt 0 [(64, 15, 3)]).exact = false ∧ (0 : Chan).val < 4
    ∧ gValid node = true ∧ (gInputs node).contains (0 : Chan).val = true ∧ gChild node 0 = (dataPkt 0 [(64, 15, 3)]).pos
    ∧ (withJob up 0 (jobCtx node)).jobGroup (dataPkt 0 [(64, 15, 3)]).job = node ∧ (∃ o ∈ gExpected node, o ≠ 0)
    ∧ (dataPkt 0 [(64, 15, 3)]).offset = 0 := by decide +kernel
/-- The first DATA packet of an OFFSET becomes the partial sum, its input taken (R265). -/
theorem test_partial : after (.data 0 (dataPkt 0 [(64, 15, 3), (96, 16, 1)])) (withJob up 0 (jobCtx node))
    (fun t => t.port.partials.length == 1 && t.port.partials.all (fun x => x.taken == [0] && x.contrib == 1)) = true := by decide +kernel
theorem witness_backup : gBackup node = true ∧ gChild node 3 = (dataPkt 2 [(64, 15, 7), (80, 15, 3)]).pos
    ∧ (inputAt node up.eng.position.toNat (dataPkt 2 [(64, 15, 7), (80, 15, 3)]).subject).isSome = true := by decide +kernel
theorem witness_credit_release : (({ withJob up 2 (jobCtx node) with now := 1 } : State).portCh 2).ctx 5 = some (jobCtx node)
    ∧ up.windowOpen = true := by decide +kernel
/-- A job whose input IN0 is expected since EC 0, with a time limit that has run out. -/
def lateJob (ex : Bool) : State :=
  { withJob up 0 { jobCtx node with exact := ex } with
    now := 10 ^ 9
    port := { (withJob up 0 { jobCtx node with exact := ex }).port with
      inputs := [⟨5, 0, 0, 0, none, false, false, false, 0, none, 0, 0, 0⟩] } }
theorem witness_late_input : (lateJob false).isLate ⟨5, 0, 0, 0, none, false, false, false, 0, none, 0, 0, 0⟩ = true
    ∧ (lateJob false).jobCtxs 5 = jobCtx node :: [] ∧ (lateJob false).port.partials = []
    ∧ (∀ k : Chan, ((lateJob false).port.chans.get k).inq = [] ∧ ((lateJob false).port.chans.get k).rx = [])
    ∧ (lateJob false).backupReady node ⟨5, 0, 0, 0, none, false, false, false, 0, none, 0, 0, 0⟩ = false
    ∧ (lateJob true).jobCtxs 5 = { jobCtx node with exact := true } :: [] := by decide +kernel

/-! ### NOP, FENCE, BARRIER -/

theorem witness_NopFence : (run up [cmd 0x00 []]).starting 0 0x00 = some (0, cmd 0x00 []) ∧ (cmd 0x00 []).reservedBad = none
    ∧ (run up [cmd 0x2C []]).starting 0 0x2C = some (0, cmd 0x2C []) ∧ (cmd 0x2C []).reservedBad = none
    ∧ (run up [cmd 0x03 [] (.running (.zeroTensor 0)), cmd 0x2C []]).starting 0 0x2C = some (1, cmd 0x2C []) := by decide +kernel
/-- A SIGNAL of 5 at address 64. -/
def signal : Cmd := cmd 0x2B [(128, 48, 64), (192, 64, 5)]
theorem witness_signal : (run up [signal]).memWf = true ∧ (run up [signal]).starting 0 0x2B = some (0, signal) ∧ signal.bit 12 = false
    ∧ (run up [signal]).earlierDone 0 0 = true ∧ (run up [signal]).barrierBad 0 signal = none
    ∧ (run up [signal]).xlat 0 (pageOf signal.counter) = some ⟨.core 0, true, true⟩ := by decide +kernel
/-- The counter at 64 rises by the increment, its bytes little-endian (R189). -/
theorem test_signal : after (.barrierSignal 0) (run up [signal]) (fun t => t.core == [(64, 5)]) = true := by decide +kernel
/-- A WAIT for 7 at address 64, with TIMEOUT 3. -/
def wait : Cmd := cmd 0x2B [(12, 1, 1), (128, 48, 64), (176, 16, 3), (192, 64, 7)]
def waits (n : Nat) : Cmd := { wait with phase := .running (.waitCounter 0 (some 0) n false false) }
theorem witness_wait : wait.counter % 8 = 0 ∧ ((run up [wait]).findRegion 0 wait.counter (wait.counter + 7) true false).isSome = true
    ∧ (run up [wait]).starting 0 0x2B = some (0, wait) ∧ wait.bit 12 = true ∧ (run up [wait]).barrierBad 0 wait = none
    ∧ (run up [wait]).readFree 0 0 wait.counter 8 = true ∧ (run up [waits 2]).active 0 = true ∧ ((run up [waits 2]).ctx 0).state = .running
    ∧ ((run up [waits 2]).ctx 0).fault = none ∧ ((run up [waits 2]).ctx 0).resetting = false ∧ (run up [waits 2]).bankHeld 0 = false
    ∧ ¬ ((waits 2).f 176 16 ≠ 0 ∧ (waits 2).f 176 16 ≤ 2) ∧ ((waits 3).f 176 16 ≠ 0 ∧ (waits 3).f 176 16 ≤ 3) := by decide +kernel
theorem witness_waiting : ((run up [waits 2]).ctx 0).waiting = some (0, waits 2, 0, some 0, 2, false, false)
    ∧ ((run up [waits 3]).ctx 0).waiting = some (0, waits 3, 0, some 0, 3, false, false) := ⟨rfl, rfl⟩
/-- Two boundaries are not yet TIMEOUT 3; three park the context with PARK_CAUSE 1 (R190). -/
theorem test_wait_timeout : after (.barrierTimeout 0) (run up [waits 2]) (fun t => (t.ctx 0).state == .running) = true
    ∧ after (.barrierTimeout 0) (run up [waits 3]) (fun t => (t.ctx 0).state == .parked && (t.ctx 0).parkCause == 1) = true := by
  decide +kernel

/-! ### Rings -/

/-- A RUNNING context whose ring at 0x1000 holds one NOP; completions at 0x2000. -/
def ringed : State :=
  { up.modCtx 0 (fun x => { x with state := .running, cmdBase := 0x1000, cplBase := 0x2000, cmdTail := 1 }) with core := [(0x1003, 0x08)] }
theorem witness_AdmissionChecksHeader : ringed.admissible 0 = true ∧ ringed.needOk 0 (ringNeed (ringed.ctx 0).cmdAddr false) = true
    ∧ entryCount (BitVec.ofNat 512 (ringed.peekLe 0 (ringed.ctx 0).cmdAddr 64)) ≤ dist32 (ringed.ctx 0).cmdTail (ringed.ctx 0).cmdHead
    ∧ entryCount (BitVec.ofNat 512 (ringed.peekLe 0 (ringed.ctx 0).cmdAddr 64)) = 1 ∧ ringed.tlb.length ≤ 256
    ∧ ringed.needOk 0 (ringNeed ((ringed.ctx 0).entryAddr ((ringed.ctx 0).cmdHead + 1)) false) = true := by
  decide +kernel
/-- A packet of LENGTH 2 takes both its entries (R194). -/
theorem test_admission_two : after (.commandAdmission 0) { ringed.modCtx 0 (fun x => { x with cmdTail := 2 }) with core := [(0x1003, 0x10)] }
    (fun t => (t.ctx 0).cmdHead == 2 && (t.ctx 0).cmds.length == 1) = true := by decide +kernel
/-- The packet's header is good: LENGTH 1 (bits 28:27), everything else zero, a NOP of sequence number 0 (R194, R196). -/
theorem test_admission : after (.commandAdmission 0) ringed
    (fun t => (t.ctx 0).cmdHead == 1 && (t.ctx 0).cmds.map (·.phase) == [Phase.queued]) = true := by decide +kernel
def done (fs : List (Nat × Nat × Nat)) : State := { ringed with ctxs := (run ringed [cmd 0x00 fs (.finished .ok)]).ctxs }
theorem witness_reply : (done []).memWf = true ∧ (done []).posting 0 = true ∧ ((done []).ctx 0).cmds = cmd 0x00 [] (.finished .ok) :: []
    ∧ (done []).acked 0 (cmd 0x00 []).seq = true ∧ ((done []).ctx 0).cplBase.toNat % 32 = 0 ∧ (cmd 0x00 []).bit 9 = false
    ∧ (cmd 0x00 [(9, 1, 1)]).bit 9 = true ∧ Reply.ok.status = 0 ∧ ((done []).ctx 0).state ≠ .parked
    ∧ (((done []).modCtx 0 (fun x => { x with state := .parked })).ctx 0).state = .parked
    ∧ ((done []).modCtx 0 (fun x => { x with state := .parked })).posting 0 = true
    ∧ (done []).xlat 0 (pageOf ((done []).ctx 0).cplAddr) = some ⟨.core 0, true, true⟩ := by decide +kernel
theorem test_reply : after (.statusReply 0) (done []) (fun t => (t.ctx 0).cplTail == 1 && (t.ctx 0).cmds == []) = true
    ∧ after (.statusReply 0) (done [(9, 1, 1)]) (fun t => (t.ctx 0).cplTail == 0 && (t.ctx 0).cmds == []) = true := by decide +kernel
def holding (n : Word) : State :=
  ringed.modCtx 0 (fun x => { x with held := [⟨none, 1, 0, 0, 0⟩], cplTail := n })
theorem witness_held : (holding 0).posting 0 = true ∧ ((holding 0).ctx 0).held = ⟨none, 1, 0, 0, 0⟩ :: []
    ∧ ((holding 0).ctx 0).cmds.length < ((holding 0).ctx 0).evtFree
    ∧ (holding 0).needOk 0 (ringNeed ((holding 0).ctx 0).cplAddr true) = true
    ∧ ((holding (BitVec.ofNat 32 ((holding 0).ctx 0).cplDepth)).ctx 0).evtFree
      ≤ ((holding (BitVec.ofNat 32 ((holding 0).ctx 0).cplDepth)).ctx 0).cmds.length := by decide +kernel

/-! ### Walks, requests -/

def need9 : FaultRec := ⟨9 * 65536, 3, true, false, false, false, false, 0, 0, 0, false⟩
def walking : State := { run up [] with walks := [⟨9, 0, false, false, need9, 1⟩] }
theorem witness_walk : walking.alive = true ∧ walking.walks = [⟨9, 0, false, false, need9, 1⟩] ∧ (9#32).toNat = 9
    ∧ permOk ⟨.core 5, true, true⟩ need9 = true ∧ (walking.ctx 0).canFault = true
    ∧ ((walking.modCtx 1 (fun x => { x with state := .running, fault := some need9 })).ctx 1).fault = some need9
    ∧ (walking.modCtx 1 (fun x => { x with state := .running, fault := some need9 })).up = true
    ∧ (walking.modCtx 1 (fun x => { x with state := .running, fault := some need9 })).bankHeld 1 = false := by decide +kernel
/-- A walk that finds nothing leaves the fault; PARK then parks the context (R157). -/
theorem test_walk_fault : after (.walk 9 none) walking (fun t => (t.ctx 0).fault.isSome && t.walks == []) = true
    ∧ after (.park 1) (walking.modCtx 1 (fun x => { x with state := .running, fault := some need9 }))
      (fun t => (t.ctx 1).state == .parked && (t.ctx 1).eventSeq == 1) = true := by decide +kernel
theorem witness_requests : up.alive = true ∧ up.locks = [] ∧ ({ up with bist := { up.bist with ce := [(2, 5)] } } : State).bist.ce = (2, 5) :: []
    ∧ (allCtx.all (fun c => (up.ctx c).cmds.isEmpty)) = true ∧ 5 < 48 * 16384 := by decide +kernel

/-! ### Tasks -/

/-- A descriptor of context 0: format code, base, dimensions (size, stride), further fields. -/
def desc (fmt base : Nat) (dims : List (Nat × Nat)) (fs : List (Nat × Nat × Nat)) : Desc :=
  let img0 := setFld (setFld (setFld (setFld (setFld (0 : BitVec 1024) 0 48 base) 48 4 fmt) 52 3 dims.length) 56 1 1) 57 1 1
  let img1 := dims.zipIdx.foldl (fun x p => setFld (setFld x (256 + 128 * p.2) 32 p.1.1) (288 + 128 * p.2) 40 p.1.2) img0
  ⟨fs.foldl (fun x f => setFld x f.1 f.2.1 f.2.2) img1, 0, 0, 0, base, base + 4095⟩
/-- A byte area of n bytes at an address (format code 4, one dimension). -/
def area (base n : Nat) : Desc := desc 4 base [(n, 1)] []
def withDescs (s : State) (l : List (Nat × Desc)) : State := { s with descs := l }
/-- The operand of descriptor k. -/
def opnd (k : Nat) (d : Desc) (st : Nat := 0) : Opnd := ⟨d, k, fixedEntry d.format, st⟩

def taskArea : State := withDescs up [(1, area 0x4000 4096)]
def begin_ : Cmd := cmd 0x28 [(128, 16, 1)]
def openTask : Task := ⟨1, 0, 64, 4096, 0, 0, false, 0, ⟨0, 0, 0, 0, 0⟩, none, [], [], []⟩
def inTask (t : Task) (l : List Cmd) : State := (run taskArea l).modCtx 0 (fun x => { x with task := some t })
theorem witness_task_begin : (run taskArea [begin_]).starting 0 0x28 = some (0, begin_) ∧ begin_.reservedBad = none
    ∧ (run taskArea [begin_]).earlierDone 0 0 = true ∧ ((run taskArea [begin_]).handle 0 (begin_.f 128 16)).isSome = true
    ∧ (run taskArea [begin_]).opnd begin_.fmts (begin_.f 128 16) 0 = some (opnd 1 (area 0x4000 4096))
    ∧ taskAreaBad (opnd 1 (area 0x4000 4096)) = none := by decide +kernel
def begun : State := ((run taskArea [begin_]).acquire 0 (areaNeeds (opnd 1 (area 0x4000 4096)) begin_.seq)).2
theorem witness_task_begin_area : ((run taskArea [begin_]).acquire 0 (areaNeeds (opnd 1 (area 0x4000 4096)) begin_.seq)).1 = true
    ∧ begun.areaInCore 0 (areaNeeds (opnd 1 (area 0x4000 4096)) begin_.seq) = true ∧ begun.taskBad 0 begin_ = none
    ∧ (begun.openFor 0 begin_.seq .journal [(opnd 1 (area 0x4000 4096)).areaAcc 0 64]).1 = true := by decide +kernel
theorem witness_task_commit : (inTask openTask [cmd 0x29 []]).starting 0 0x29 = some (0, cmd 0x29 []) ∧ (cmd 0x29 []).op = 0x29
    ∧ (inTask openTask [cmd 0x29 []]).continuing 0 0x29 = none ∧ ((inTask openTask [cmd 0x29 []]).ctx 0).task = some openTask
    ∧ openTask.guard = none ∧ (inTask openTask [cmd 0x29 []]).journal openTask = some (opnd 1 (area 0x4000 4096))
    ∧ ((inTask openTask [cmd 0x29 []]).openFor 0 (cmd 0x29 []).seq .journal [(opnd 1 (area 0x4000 4096)).areaAcc 0 64]).1 = true := by decide +kernel
theorem witness_task_discard : (inTask openTask [cmd 0x2A []]).starting 0 0x2A = some (0, cmd 0x2A []) ∧ (inTask openTask [cmd 0x2A []]).continuing 0 0x2A = none
    ∧ ((inTask openTask [cmd 0x2A []]).restoreTask 0 openTask (cmd 0x2A []).fmts (cmd 0x2A []).seq).1 = true
    ∧ (((inTask openTask [cmd 0x2A []]).restoreTask 0 openTask (cmd 0x2A []).fmts (cmd 0x2A []).seq).2.1.ctx 0).cmds[0]? = some (cmd 0x2A []) := by
  decide +kernel
/-- A task with room whose context's write of slot 5, or of a header, waits for its capture. -/
def capturing (u : Sys2Proof.Machine.Unit) (t : Task) : State :=
  ((inTask t []).modSlot 5 (fun x => { x with state := .held, resident := true })).modCtx 0 (fun x => { x with wantUnit := some u })
/-- The header of descriptor 2, which names an FP32 tensor at 0x5000 with its header at 0x3100. -/
def header2 : Sys2Proof.Machine.Unit := ⟨2, 2, 0, 0, 0⟩
def headerTask (t : Task) : State := withDescs (capturing header2 t) [(1, area 0x4000 4096), (2, desc 6 0x5000 [(2, 4)] [(58, 1, 1), (128, 48, 0x3100)])]
theorem witness_capture : (headerTask openTask).active 0 = true ∧ ((headerTask openTask).ctx 0).wantUnit = some header2
    ∧ (headerTask openTask).mustCapture 0 header2 = true ∧ openTask.part = false
    ∧ (headerTask openTask).journal openTask = some (opnd 1 (area 0x4000 4096)) ∧ openTask.used + entryBytes 16 ≤ openTask.capacity
    ∧ (headerTask openTask).touch.length < 4096
    ∧ ((headerTask openTask).openFor 0 0 .journal (unitAccs ((headerTask openTask).opnd (headerTask openTask).fmts 2 0) header2 false
      ++ [(opnd 1 (area 0x4000 4096)).areaAcc 64 (entryBytes 16)])).1 = true := by decide +kernel
theorem witness_capture_full : (headerTask { openTask with used := 4096 }).journal { openTask with used := 4096 } = some (opnd 1 (area 0x4000 4096))
    ∧ openTask.capacity < 4096 + entryBytes 16
    ∧ ((headerTask { openTask with used := 4096 }).openFor 0 0 .journal [{ (opnd 1 (area 0x4000 4096)).areaAcc 0 64 with stream := 0 }]).1 = true := by
  decide +kernel
/-- A slot that was resident when the task opened is a unit too; without 131,104 bytes of journal its write goes uncaptured (R114, R116). -/
theorem witness_capture_slot : (capturing ⟨3, 0, 0, 5, 0⟩ { openTask with present := [5] }).mustCapture 0 ⟨3, 0, 0, 5, 0⟩ = true
    ∧ unitBytes none ⟨3, 0, 0, 5, 0⟩ = 131072 ∧ openTask.capacity < 64 + entryBytes 131072 := by decide +kernel
/-- The entry of a 16-byte header is 64 bytes long: 32 of its own and the payload padded to 32 (R114). -/
theorem test_capture : after (.journalCapture 0) (headerTask openTask) (fun t => (match (t.ctx 0).task with
    | some k => k.used == 128 && k.entries == 1 && !k.part
    | none => false) && t.touch.length == 1 && (t.ctx 0).wantUnit.isNone) = true
    ∧ after (.journalCapture 0) (headerTask { openTask with used := 4096 }) (fun t => (match (t.ctx 0).task with
    | some k => k.used == 4096 && k.unguarded == 1 && k.part
    | none => false) && t.touch == []) = true := by decide +kernel
/-- A TASK_COMMIT of a task without entries ends it (R117). -/
theorem test_task_commit : after (.taskCommit 0) (inTask openTask [cmd 0x29 []])
    (fun t => (t.ctx 0).task.isNone && t.touch == []) = true := by decide +kernel

def guard0 : Guard := ⟨0x80, 0, 7, 9, 0, 0, 0, true⟩
def guarded : State := inTask { openTask with guard := some guard0 } []
theorem witness_guard : (guarded.ctx 0).task = some { openTask with guard := some guard0 } ∧ guarded.alive = true ∧ guard0.reading = true
    ∧ guard0.latch = 0 ∧ guarded.regionOk guard0.region 0 guard0.addr (guard0.addr + 3) true false = true
    ∧ guarded.needOk 0 (guardNeed { openTask with guard := some guard0 } guard0) = true ∧ guard0.commitVal ≠ guard0.discardVal := by
  decide +kernel
/-- The word 9 is DISCARD, 7 COMMIT, anything else no decision (R250). -/
theorem test_guard : after (.guardRead 0) { guarded with core := [(0x80, 9)] } (fun t => (t.ctx 0).early) = true
    ∧ after (.guardRead 0) { guarded with core := [(0x80, 7)] } (fun t => !(t.ctx 0).early) = true := by decide +kernel
def early : State := (inTask openTask []).modCtx 0 (fun x => { x with early := true })
theorem witness_early : early.active 0 = true ∧ (early.ctx 0).early = true ∧ early.earlierDone 0 (early.ctx 0).cmds.length = true
    ∧ (early.restoreTask 0 openTask early.fmts openTask.seq).1 = true := by decide +kernel
def unit1 : Sys2Proof.Machine.Unit := ⟨1, 2, 0, 0, 0⟩
def partialTask : State := (inTask { openTask with part := true } []).modCtx 0 (fun x => { x with wantUnit := some unit1 })
theorem witness_partial_task : partialTask.active 0 = true ∧ (partialTask.ctx 0).wantUnit = some unit1 ∧ partialTask.mustCapture 0 unit1 = true := by
  decide +kernel

/-! ### Checkpoint epochs -/

def arm : Cmd := cmd 0x30 []
theorem witness_arm : (run up [arm]).starting 0 0x30 = some (0, arm) ∧ arm.f 144 2 = 0 ∧ arm.reservedBad = none
    ∧ (run up [arm]).earlierButExports 0 0 = true ∧ (run up [arm]).ckpt.pending = none := by decide +kernel
def armed : State :=
  { run up [{ arm with phase := .running (.epochWait 0 0 0) }] with ckpt := { up.ckpt with pending := some 0, effective := true } }
theorem witness_epoch : armed.up = true ∧ armed.ckpt.effective = true ∧ armed.writingUnit = false ∧ armed.ckpt.pending = some 0
    ∧ armed.alert 0 = true ∧ armed.ckpt.armed = false ∧ armed.reqs = [] ∧ armed.landCopies.ckpt.flights = []
    ∧ armed.unshot (fun opens t => opens && !(armed.ctx t).bucketRuns) = false
    ∧ (armed.ctx 0).cmds[0]? = some { arm with phase := .running (.epochWait 0 0 0) } := by decide +kernel
theorem test_epoch : after .epochPoint armed (fun t => t.ckpt.epoch == 1 && t.ckpt.pending.isNone) = true := by decide +kernel
def copying : State :=
  { (run taskArea []).modCtx 0 (fun x => { x with wantPage := some 0 }) with
    ckpt := { up.ckpt with armed := true, watchBase := 0, watchPages := 1, slots := 0, area := some (1, area 0x4000 4096, fixedEntry 4) } }
theorem witness_page_copy : copying.active 0 = true ∧ (copying.ctx 0).wantPage = some 0 ∧ copying.ckpt.window 0 = some 0
    ∧ copying.ckpt.opnd.isSome = true ∧ copying.landCopies.ckpt.settled 0 = false ∧ copying.landCopies.ckpt.flight 0 = none
    ∧ copying.landCopies.ckpt.slots ≤ copying.landCopies.ckpt.slotsUsed := by decide +kernel
/-- An epoch whose area at 0x100000 has one copy slot, its pages translated. -/
def slotArea : Desc := desc 4 0x100000 [(0x40000, 1)] []
def copyOpnd : Opnd := opnd 1 slotArea
/-- The pages 0 to 19 of the core's store. -/
def copyReady : State :=
  { copying with
    ckpt := { copying.ckpt with slots := 1, area := some (1, slotArea, fixedEntry 4) }
    tlb := (List.range 20).map (fun k => ⟨k, ⟨.core (Fin.ofNat 128 k), true, true⟩, k⟩) }
theorem upFrom_length (lo n : Nat) : (upFrom lo n).length = n := by
  induction n generalizing lo with
  | zero => rfl
  | succ n ih => simp [upFrom, ih]
theorem pageBytes_length (s : State) (c : CtxNo) (p : Nat) : (s.pageBytes c p).length = 65536 := by
  simp only [State.pageBytes, State.peekN, List.length_map, upFrom_length]
/-- Where the page's copy and its directory entry go. -/
def copyAccs : List Acc :=
  [copyReady.ckpt.areaAcc copyOpnd (copyBase (dirOffset 1) 1) 65536, copyReady.ckpt.areaAcc copyOpnd (dirOffset 1) 8]
theorem witness_copy_accs : (copyReady.ckpt.copyParts copyOpnd 0 (copyReady.pageBytes 0 0)).map AreaPart.acc = copyAccs := by
  simp only [Ckpt.copyParts, AreaPart.acc, List.map_cons, List.map_nil, pageBytes_length, copyAccs]
  rfl
theorem witness_copy_starts : copyReady.ckpt.opnd = some copyOpnd ∧ copyReady.landCopies.ckpt.settled 0 = false
    ∧ copyReady.landCopies.ckpt.flight 0 = none ∧ copyReady.landCopies.ckpt.slotsUsed < copyReady.landCopies.ckpt.slots
    ∧ (copyReady.xlat 0 0).isSome = true ∧ copyReady.landCopies.ckpt.flights.length < 4 ∧ 16 ≤ copyReady.stagingFree
    ∧ copyReady.behind .staging 0 0 (copyReady.ctx 0).wantSeq = false ∧ copyReady.staging = []
    ∧ (let h : State := { (copyReady.landCopies.unwait 0 0) with staging := [(16, copyUser 0)] }
      (h.takeRaw 0 0 .ckpt (h.rawReads 0 0 .ckpt 0 65536)).1) = true := by
  decide +kernel
/-- A copy started, its writes not issued (false) or acknowledged (true). -/
def copyFlying (w : Bool) : State :=
  { copyReady with staging := [(16, copyUser 0)], ckpt := { copyReady.ckpt with flights := [⟨0, 0, w⟩], copied := if w then [0] else [] } }
/-- The page is copied once its writes have been acknowledged, and its write may proceed (R287). -/
theorem test_copied : after (.pageCopy 0) (copyFlying true)
    (fun t => t.ckpt.copied == [0] && t.ckpt.flights == [] && t.staging == [] && (t.ctx 0).wantPage.isNone) = true := by decide +kernel
theorem witness_copy_lands : (copyFlying true).landCopies.ckpt.settled 0 = true ∧ (copyFlying false).landCopies.ckpt.settled 0 = false
    ∧ (copyFlying false).landCopies.ckpt.flight 0 = some ⟨0, 0, false⟩
    ∧ (copyFlying false).landCopies.ckpt.flights.find? (fun f => !f.written) = some ⟨0, 0, false⟩
    ∧ (({ copyFlying false with sent := [⟨0, 0, copyReady.ckpt.areaAcc copyOpnd (copyBase (dirOffset 1) 1) 65536, 128⟩] } : State).landCopies.openFor 0 0
      .ckpt copyAccs).1 = true := by decide +kernel
/-- At most 32 of its writes are outstanding (R254, R289). -/
theorem test_copy_quota : after (.pageCopy 0) (copyFlying false) (fun t => t.reqs.length == 32 && t.ckpt.copied == []) = true := by decide +kernel

/-! ### Descriptors, statistics, tables -/

def create : Cmd := cmd 0x10 [(128, 48, 0x3000)]
def imaged : Cmd := { create with img := some (area 0x4000 4096).image }
theorem witness_desc_fetch : (run up [create]).atAdmission 0 0x10 = some (0, create) ∧ (run up [create]).starting 0 0x10 = some (0, create) := by
  decide +kernel
theorem witness_desc_fetch_early : (run up [cmd 0x00 [], create]).atAdmission 0 0x10 = some (1, create)
    ∧ (run up [cmd 0x00 [], create]).starting 0 0x10 = none ∧ create.reservedBad = none ∧ create.f 128 48 % 128 = 0
    ∧ ((run up [cmd 0x00 [], create]).findRegion 0 (create.f 128 48) (create.f 128 48 + 127) true false).isSome = true
    ∧ (run up [cmd 0x00 [], create]).readFree 0 1 (create.f 128 48) 128 = true
    ∧ ((run up [cmd 0x00 [], create]).acquire 0 (imageNeeds (create.f 128 48) 128 create.seq)).1 = true := by decide +kernel
theorem witness_desc_create : (run up [imaged]).atAdmission 0 0x10 = none ∧ (run up [imaged]).starting 0 0x10 = some (0, imaged)
    ∧ (run up [imaged]).imageBad 0 imaged.fmts ((run up [imaged]).newDesc 0 imaged.fmts (area 0x4000 4096).image) = none
    ∧ (run up [imaged]).freeDesc 0 1024 = some 0 := by decide +kernel
def free : Cmd := cmd 0x11 [(128, 16, 1)]
theorem witness_desc_free : (run taskArea [free]).starting 0 0x11 = some (0, free) ∧ (run taskArea [free]).earlierDone 0 0 = true
    ∧ ((run taskArea [free]).handle 0 (free.f 128 16)).isSome = true ∧ free.reservedBad = none
    ∧ (run taskArea [free]).descInUse (free.f 128 10) = false ∧ Tbl.wf 0 (run taskArea [free]).descGen = true := by decide +kernel
/-- After DESC_FREE the handle names nothing (R146). -/
theorem test_desc_free : after (.descFree 0) (run taskArea [free]) (fun t => (t.handle 0 1).isNone && t.descs == []) = true := by decide +kernel

def table : RescaleTable := { RescaleTable.reset with hdr := 1, owner := some 0, winConv := 2 ^ 20 }
def tabled (l : List Cmd) : State := (run taskArea l).setRt 2 table
def qstat : Cmd := cmd 0x18 [(12, 1, 1), (128, 3, 2), (144, 16, 1)]
theorem witness_qstat : (tabled [qstat]).starting 0 0x18 = some (0, qstat) ∧ (tabled [qstat]).noConflict 0 0 qstat = true
    ∧ ((tabled [qstat]).handle 0 (qstat.f 144 16)).isSome = true
    ∧ (tabled [qstat]).opnd qstat.fmts (qstat.f 144 16) 0 = some (opnd 1 (area 0x4000 4096)) ∧ qstat.bit 13 = false
    ∧ (tabled [qstat]).qstatBad 0 qstat (opnd 1 (area 0x4000 4096)) none = none
    ∧ ((tabled [qstat]).openWrites 0 qstat.seq [(opnd 1 (area 0x4000 4096)).acc true false ((opnd 1 (area 0x4000 4096)).byteSpans 0 64)]).1 = true
    ∧ qstat.bit 12 = true := by decide +kernel
def qcal : Cmd := cmd 0x19 [(12, 1, 1), (128, 3, 2), (131, 3, 2)]
theorem witness_qcal : (tabled [qcal]).starting 0 0x19 = some (0, qcal) ∧ (tabled [qcal]).noConflict 0 0 qcal = true
    ∧ qcal.reservedBad = none ∧ (tabled [qcal]).statTableBad 0 (qcal.f 128 3) 128 = none ∧ (tabled [qcal]).statTableBad 0 (qcal.f 131 3) 131 = none
    ∧ 2 ^ 20 ≤ ((tabled []).rt 2).winConv ∧ ((tabled []).rt 3).winConv < 2 ^ 20 := by decide +kernel

/-- A TABLE_LOAD of a table id whose image of n bytes lies at 0x3000; its context runs as secure firmware. -/
def load (id n : Nat) : Cmd := cmd 0x38 [(128, 4, id), (144, 48, 0x3000), (192, 32, n)]
def loading (id n : Nat) : State := (run up [load id n]).modCtx 0 (fun x => { x with bound := true, key := 0 })
/-- Memory whose bytes from 0x3000 on spell a number. -/
def imageAt (n v : Nat) : Memory :=
  (List.range n).filterMap (fun k => if v / 256 ^ k % 256 = 0 then none else some (0x3000 + k, BitVec.ofNat 8 (v / 256 ^ k)))
def loadOk (id n : Nat) : Bool :=
  (loading id n).atAdmission 0 0x38 == some (0, load id n) && ((loading id n).ctx 0).cmds[0]? == some (load id n)
    && (loading id n).tableBad 0 (load id n) == none && (load id n).f 128 4 == id
    && (loading id n).readFree 0 0 ((load id n).f 144 48) ((load id n).f 192 32)
    && ((loading id n).acquire 0 (imageNeeds ((load id n).f 144 48) ((load id n).f 192 32) (load id n).seq)).1
/-- What the load reads of the image. -/
def loaded (id n v : Nat) : State :=
  ({ loading id n with core := imageAt n v }.acquire 0 (imageNeeds ((load id n).f 144 48) ((load id n).f 192 32) (load id n).seq)).2
def reads (id n v : Nat) : Nat := (loaded id n v).peekLe 0 0x3000 n
/-- The stall-cause map that gives cause 15 - k to class k. -/
def stallImage : Nat := ((List.range 16).map (fun k => (15 - k) * 256 ^ k)).foldl (· + ·) 0
theorem witness_table_load : loadOk 0 32 = true ∧ loadOk 9 80 = true ∧ loadOk 10 80 = true ∧ loadOk 11 16 = true ∧ loadOk 12 16 = true
    ∧ loadOk 1 72 = true := by decide +kernel
theorem witness_table_images : formatBad (BitVec.ofNat 256 (reads 0 32 0)) = none
    ∧ rampBad (BitVec.ofNat 640 (reads 9 80 rampTabReset.toNat)) = none ∧ riskBad (BitVec.ofNat 640 (reads 10 80 0)) = none
    ∧ stallBad (BitVec.ofNat 128 (reads 11 16 stallImage)) = none ∧ prioBad (BitVec.ofNat 128 (reads 12 16 0)) = none
    ∧ ((loaded 1 72 0).install 0 1 72 (reads 1 72 0)).1 = none ∧ ((loaded 9 80 0).install 0 9 80 (reads 9 80 0)).1.isSome = true := by
  decide +kernel
/-- A command queued before a load of its rescale table keeps the table as it stood (R124). -/
theorem test_table_kept : after (.tableLoad 0) ((run up [cmd 0x00 [], load 1 72]).modCtx 0 (fun x => { x with bound := true, key := 0 }))
    (fun t => (t.ctx 0).cmds.map (fun m => m.tabs.length) == [1, 0]) = true := by decide +kernel
/-- A ramp table whose times are too short changes nothing (R310). -/
theorem test_bad_ramp : after (.tableLoad 0) (loading 9 80) (fun t => t.rampNext.isNone && t.rampTab == rampTabReset
    && (t.ctx 0).cmds.all (fun m => m.phase != .queued)) = true := by decide +kernel

/-! ### Exports, import, position -/

/-- A CTX_EXPORT of context x to descriptor 1 (an area of 4,096 bytes at 0x4000). -/
def exp_ (x : Nat) (p : Phase := .queued) : Cmd := cmd 0x31 [(128, 3, x), (144, 16, 1)] p
theorem witness_export : ((run taskArea [exp_ 0]).ctx 0).cmds[0]? = some (exp_ 0) ∧ (run taskArea [exp_ 0]).starting 0 0x31 = some (0, exp_ 0)
    ∧ (run taskArea [exp_ 0]).opnd (exp_ 0).fmts ((exp_ 0).f 144 16) 0 = some (opnd 1 (area 0x4000 4096))
    ∧ ctxOf ((exp_ 0).f 128 3) = 0 ∧ ctxOf ((exp_ 3).f 128 3) ≠ 0 ∧ (run taskArea [exp_ 3]).starting 0 0x31 = some (0, exp_ 3)
    ∧ (run taskArea [exp_ 3]).secureCtx 0 = false ∧ ((run taskArea [exp_ 0]).handle 0 ((exp_ 0).f 144 16)).isSome = true
    ∧ (exp_ 0).reservedBad = none ∧ ((area 0x4000 4096).canWrite && (opnd 1 (area 0x4000 4096)).byteArea) = true := by decide +kernel
def exporting (k : Option (BitVec 256)) (shot : Option (Nat × List Byte) := none) : State :=
  { (run taskArea [exp_ 0 (.running (.exporting true false shot))]).modCtx 0 (fun x => { x with settled := shot.isSome, key := 2, bound := true }) with
    sec := { up.sec with keys := Vector.replicate 16 k } }
/-- An engine that a stop has halted keeps its context's state for the export; otherwise the image is sealed in the same step. -/
def halted : State := (exporting (some 5)).modCtx 0 (fun x => { x with fault := some need9 })
theorem witness_export_shot : halted.up = true ∧ halted.canSettle 0 = true ∧ (halted.ctx 0).settled = false ∧ halted.alert 0 = false
    ∧ (exp_ 0).f 128 3 = (0 : CtxNo).val
    ∧ ((halted.ctx 0).cmds[0]?).map (·.phase) = some (.running (.exporting true false none)) := by decide +kernel
theorem witness_settle : (run taskArea []).up = true ∧ (run taskArea []).canSettle 0 = true
    ∧ (allCtx.all (fun e => ((run taskArea []).ctx e).cmds.all (fun x => !x.exportDue))) = true := by decide +kernel
theorem witness_export_due : (exporting (some 5) (some (7, []))).canSettle 0 = true ∧ ((exporting (some 5) (some (7, []))).ctx 0).settled = true
    ∧ (exporting (some 5) (some (7, []))).dueExport 0 = some (0, 0, exp_ 0 (.running (.exporting true false (some (7, [])))))
    ∧ (exporting (some 5) (some (7, []))).alert 0 = true ∧ (exporting (some 5) (some (7, []))).up = true
    ∧ ((exporting (some 5) (some (7, []))).imageKey 0).isSome = true ∧ ((exporting (some 5) (some (7, []))).ctx 0).task = none
    ∧ 128 + 0 + 16 ≤ (area 0x4000 4096).size 0
    ∧ ((exporting (some 5) (some (7, []))).openAll 0 (exp_ 0).seq [(opnd 1 (area 0x4000 4096)).acc true false
      ((opnd 1 (area 0x4000 4096)).byteSpans 0 (128 + 0 + 16))]).1 = true := by decide +kernel

/-- A CTX_IMPORT to context x from descriptor 1, of a context that runs as secure firmware (key slot 0) or does not. -/
def imp (x : Nat) : Cmd := cmd 0x32 [(128, 3, x), (144, 16, 1)]
/-- An import area of n bytes at 0x4000; the target context 1 has key slot 2, whose key is 5. -/
def importing (n : Nat) (sec : Bool) : State :=
  { ((run (withDescs up [(1, area 0x4000 n)]) [imp 1]).modCtx 0 (fun x => { x with bound := sec, key := 0 })).modCtx 1
      (fun x => { x with bound := true, key := 2 }) with
    sec := { up.sec with keys := Vector.replicate 16 (some 5) } }
/-- The header of an image of a context with nothing in it, exported at tick 77 under key slot k. -/
def emptyHead (k : Nat) : List Byte :=
  leBytes 128 (1 + fld up.eng.jexloVer 16 16 * 2 ^ 48 + up.eng.position.toNat * 2 ^ 64 + 2 ^ 83 + k * 2 ^ 96 + 77 * 2 ^ 160
    + bodyBytes 0 0 0 0 0 0 * 2 ^ 352)
def placed (l : List Byte) : Memory := (l.zipIdx.filter (fun x => x.1 != 0)).map (fun x => (0x4000 + x.2, x.1))
def withImage (l : List Byte) : State := { importing l.length true with core := placed l }
theorem witness_import_denied : (importing 4096 false).starting 0 0x32 = some (0, imp 1) ∧ ((importing 4096 false).ctx 0).cmds[0]? = some (imp 1)
    ∧ (importing 4096 false).earlierDone 0 0 = true ∧ (importing 4096 false).secureCtx 0 = false ∧ (importing 4096 true).secureCtx 0 = true
    ∧ (importing 4096 true).starting 0 0x32 = some (0, imp 1) := by decide +kernel
/-- What the import finds of an image of zeros behind a header: its checks before the image opens, and whether it opens. -/
def importTry (k : Nat) : Bool × Bool :=
  let l := emptyHead k ++ List.replicate (bodyBytes 0 0 0 0 0 0 + 16) 0
  let s := withImage l
  let o := opnd 1 (area 0x4000 l.length)
  let a1 := o.acc false false (o.byteSpans 0 128)
  let q := s.openAll 0 (imp 1).seq [a1]
  let h := BitVec.ofNat 1024 (ofLeBytes (q.2.areaBytes 0 (q.2.refusals 0 a1) o 0 128))
  let a := o.acc false false (o.byteSpans 0 l.length)
  let p := q.2.openAll 0 (imp 1).seq [a]
  let bytes := p.2.areaBytes 0 (p.2.refusals 0 a) o 0 l.length
  ((s.handle 0 ((imp 1).f 144 16)).isSome && s.opnd (imp 1).fmts ((imp 1).f 144 16) 0 == some o && (imp 1).reservedBad == none
    && ctxOf ((imp 1).f 128 3) == 1 && (s.ctx 1).state == .disabled && !(s.ctx 1).resetting
    && o.desc.canRead && o.byteArea && decide (128 ≤ o.desc.size 0) && q.1 && q.2.imageHeaderBad h l.length == none && p.1,
    ((p.2.closeUnit 0 (imp 1).seq [a]).openImage 1 h bytes).isSome)
/-- An image under another key slot than its target's does not open (R296). -/
theorem witness_import_auth : importTry 3 = (true, false) := by decide +kernel
/-- An image with nothing in it can be placed. (That a sealed image opens takes AES-256-GCM over 752 bytes, which Lean's evaluator
shows, `gcmOpen` after `gcmSeal`, but which is too long for the kernel.) -/
theorem witness_import_placed : (withImage []).importBad 1 (readImage 1 (BitVec.ofNat 1024 (ofLeBytes (emptyHead 2))) (List.replicate 608 0)) = none
    ∧ bodyBytes 0 0 0 0 0 0 = 608 ∧ fld (BitVec.ofNat 1024 (ofLeBytes (emptyHead 2))) 160 32 = 77 := by decide +kernel

/-- An ASSUME_POSITION to position 0x13 from the area at 0x4000, from secure firmware or not. -/
def assume_ (p : Phase := .queued) : Cmd := cmd 0x33 [(128, 15, 0x13), (144, 16, 1)] p
def assuming (sec : Bool) (p : Phase := .queued) : State :=
  (run taskArea [assume_ p]).modCtx 0 (fun x => { x with bound := sec, key := 0 })
def assumeOpen : Bool × State :=
  (assuming true).openAll 0 assume_.seq [(opnd 1 (area 0x4000 4096)).acc false false ((opnd 1 (area 0x4000 4096)).byteSpans 0 4096)]
theorem witness_assume : (assuming true).continuing 0 0x33 = none ∧ (assuming true).starting 0 0x33 = some (0, assume_)
    ∧ (assuming true).earlierDone 0 0 = true ∧ (assuming true).secureCtx 0 = true ∧ (assuming false).secureCtx 0 = false
    ∧ ((assuming true).handle 0 (assume_.f 144 16)).isSome = true
    ∧ (assuming true).opnd assume_.fmts (assume_.f 144 16) 0 = some (opnd 1 (area 0x4000 4096)) ∧ assume_.reservedBad = none
    ∧ positionOk (assume_.f 128 15) = true ∧ (∀ d : CtxNo, d ≠ 0 → ((assuming true).ctx d).state = .disabled) ∧ (assuming true).jobActive = false
    ∧ min ((area 0x4000 4096).size 0) (528 + 16 * 4096) = 4096 ∧ assumeOpen.1 = true := by decide +kernel
theorem witness_assume_area : numAt (assumeOpen.2.areaBytes 0 (assumeOpen.2.refusals 0 ((opnd 1 (area 0x4000 4096)).acc false false
      ((opnd 1 (area 0x4000 4096)).byteSpans 0 4096))) (opnd 1 (area 0x4000 4096)) 0 4096) 0 16 = 0 ∧ groupReservedOk 0 = true := by decide +kernel
theorem witness_assume_waits : (assuming true (.running (.assume 0))).continuing 0 0x33 = some (0, assume_ (.running (.assume 0)))
    ∧ (∃ k : Chan, ((assuming true).train.get k).link ≠ 1) ∧ (assuming true).now < 0 + 2800000
    ∧ 0 + 2800000 ≤ ({ assuming true with now := 2800000 } : State).now
    ∧ (∀ k : Chan, (({ assuming true with train := Vector.replicate 6 { Train.reset with link := 1 } } : State).train.get k).link = 1) := by
  decide +kernel
/-- It completes when its time has run out, with no channel trained (R299). -/
theorem test_assume : after (.assumePosition 0) { assuming true (.running (.assume 0)) with now := 2800000 }
    (fun t => (t.ctx 0).cmds.map (·.phase) == [.finished .ok]) = true := by decide +kernel

/-! ### Products, lane bank, Clamp -/

/-- A two by two operand of 16-bit elements at 0x1000 and at 0x2000, an FP32 destination of two by two at 0x3000. -/
def opa : Desc := desc 0 0x1000 [(2, 4), (2, 2)] []
def dy : Desc := desc 0 0x2000 [(2, 4), (2, 2)] []
def dst (hdr : Nat) : Desc := desc 6 0x3000 [(2, 8), (2, 4)] [(58, 1, hdr), (128, 48, 0x3100)]
def prodState (l : List Cmd) : State := run (withDescs up [(1, opa), (2, dy), (3, dst 0)]) l
/-- A GRADW of descriptors 1, 2 and 3, column dimensions 1, jig J128, no preload, REPLACE. -/
def gradw (fs : List (Nat × Nat × Nat)) (p : Phase := .queued) : Cmd :=
  cmd 0x01 ([(128, 16, 1), (144, 16, 2), (160, 16, 3), (224, 3, 1), (227, 3, 1), (230, 3, 1), (233, 3, 1), (244, 1, 1)] ++ fs) p
def ops : ProdOps := ⟨true, opnd 1 opa, opnd 2 dy 1, opnd 3 (dst 0) 2, none, none, none, none, none⟩
theorem witness_ProductsStart : (prodState [gradw []]).starting 0 0x01 = some (0, gradw []) ∧ (prodState [gradw []]).noConflict 0 0 (gradw []) = true
    ∧ (prodState [gradw []]).chainIdle (gradw []) = true ∧ (prodState [gradw []]).combined 0 0 (gradw []) ops = []
    ∧ (prodState [gradw []]).prodHandlesOk 0 (gradw []) true = true ∧ (gradw []).reservedBad = none
    ∧ (prodState [gradw []]).prod (gradw []) true = some ops ∧ (prodState [gradw []]).prodBad 0 (gradw []) ops = none
    ∧ ops.choose (gradw []) = some (1, 1) ∧ ((prodState [gradw []]).tileOut 0 (gradw []) ops 1 1).1 = true
    ∧ ((prodState [gradw []]).tileOut 0 (gradw []) ops 1 1).2.2 ≠ []
    ∧ ((prodState [gradw [(236, 2, 3)]]).prodBad 0 (gradw [(236, 2, 3)]) ops).isSome = true := by decide +kernel
/-- Two GRADW commands of one doorbell and one dY, unpinned, their destinations apart. -/
def pair (d q at_ : Nat) : Cmd := { gradw [(233, 3, 0), (160, 16, d), (32, 32, q)] with ringAt := BitVec.ofNat 32 at_, tailAt := 2 }
def group : State := run (withDescs up [(1, opa), (2, dy), (3, dst 0), (4, desc 6 0x5000 [(2, 8), (2, 4)] [])]) [pair 3 0 0, pair 4 1 1]
theorem witness_group : group.starting 0 0x01 = some (0, pair 3 0 0) ∧ group.noConflict 0 0 (pair 3 0 0) = true
    ∧ group.prodHandlesOk 0 (pair 3 0 0) true = true ∧ (pair 3 0 0).reservedBad = none ∧ group.prod (pair 3 0 0) true = some ops
    ∧ group.prodBad 0 (pair 3 0 0) ops = none ∧ (ops.choose (pair 3 0 0)).isSome = true
    ∧ (group.combined 0 0 (pair 3 0 0) ops).map (·.1) = [0, 1] := by decide +kernel
/-- They run as one J128C tile, the second from lane 8 on (R63). -/
theorem test_group : after (.gradw 0) group (fun t => (t.ctx 0).cmds.map (fun m => match m.phase with
    | .running (.product j) => (j.jig, j.lane0)
    | _ => (0, 0)) == [(4, 0), (4, 8)]) = true := by decide +kernel
/-- The run of that GRADW's one tile in a phase, the job with it in progress. -/
def tileRun (ph : TilePhase) : TileRun := ⟨0, ph, 0, false, false, 0, 0, 0, 0, 0, false, none, none⟩
/-- A GRADX of the same descriptors starts too. -/
def gradx : Cmd := cmd 0x02 [(128, 16, 1), (144, 16, 2), (160, 16, 3), (224, 3, 1), (227, 3, 1), (230, 3, 1), (233, 3, 1), (244, 1, 1)]
theorem test_gradx : after (.gradx 0) (prodState [gradx]) (fun t => (t.ctx 0).cmds.all (fun m => m.laneWork)) = true := by decide +kernel

def job (ph : TilePhase) : ProdJob :=
  { (prodState []).prodJob 0 (gradw []) ops 1 1 0 0 false [⟨[0, 1], 0, 2, 0, 0, 0⟩] with next := 1, runs := [tileRun ph] }
def part (ph : TilePhase) : LanePart := ⟨0, gradw [] (.running (.product (job ph))), job ph, ops, tileRun ph⟩
def working (f : ProdJob → ProdJob) (ph : TilePhase) (p : State → State) : State :=
  p ((prodState [gradw [] (.running (.product (f (job ph))))]).modSlot 0 (fun x => { x with state := .active }))
def runSlice : SliceRun := ⟨0, [⟨0, 0, 1, none⟩], false, false, partFills [part .run]⟩
def sliced : State := working id .run (fun s => { s with lane := { s.lane with slice := some runSlice } })
theorem witness_slice : (working id .run id).up = true ∧ (working id .run id).lane.slice = none ∧ (working id .run id).prioNext = none
    ∧ (part .run).cmd.phase = .running (.product (job .run)) := ⟨rfl, rfl, rfl, rfl⟩
theorem witness_slice_admits : (working id .run id).admits = true ∧ (working id .run id).pickCtx (working id .run id).readyCtxs = some 0
    ∧ (working id .run id).laneReady 0 = true ∧ (((working id .run id).prepareFor 0).firstOpen 0).1 = true
    ∧ ((working id .run id).prepareFor 0).laneWaits 0 = false ∧ ((working id .run id).prepareFor 0).laneCmd 0 = some (0, (part .run).cmd)
    ∧ (job .run).tiles ≠ [] ∧ (((working id .run id).prepareFor 0).members 0 0).any (((working id .run id).prepareFor 0).placeable 0) = false
    ∧ ((working id .run id).prepareFor 0).readyTiles 0 (job .run) = [0] ∧ ((working id .run id).prepareFor 0).partsAt 0 0 0 = [part .run]
    ∧ (((working id .run id).prepareFor 0).channels 0 0 (partFills [part .run])).1 = true := by decide +kernel
/-- At the start of a tick the tile's one interval fits. At its end it does not (R240). -/
theorem test_slice_fits : after .slice (working id .run id) (fun t => t.lane.slice == some runSlice) = true
    ∧ after .slice (working id .run (fun s => { s with now := s.tick.last + 13990 })) (fun t => t.lane.slice.isNone && (t.ctx 0).laneDone) = true := by
  decide +kernel
theorem witness_slice_fits : adjusted ((working id .run id).ctx 0).adj
      ((working id .run id).partEst 0 [part .run] 0 + ops.prologue (gradw []) (partFills [part .run])) ≤ 14000 - (working id .run id).fullReserve := by
  decide +kernel
theorem witness_fill : sliced.lane.slice = some runSlice ∧ runSlice.parts = [⟨0, 0, 1, none⟩] ∧ sliced.active 0 = true
    ∧ sliced.runningCmd 0 0 = some (0, (part .run).cmd) ∧ sliced.partsAt 0 0 0 = [part .run] ∧ (1 : Nat) ≠ 0 ∧ sliced.chainOf (part .run).cmd = none
    ∧ sliced.lane.room (part .run).groups false (ops.beatCount (part .run).cmd (job .run) (part .run).tile 0) = true
    ∧ sliced.pow.readyFor (part .run).groups (job .run).eight = true
    ∧ (({ sliced with lane := sliced.lane.beginUnit 0 0 sliced.now } : State).openAll 0 0 (partAccs [part .run] 0 ((ops.opaElems (part .run).cmd (job .run) (part .run).tile 0 [0, 1]).map (fun _ => none)))).1
      = true := by decide +kernel
/-- One product, 1.0 times 3.0, of the first token's first row and column: the cell holds 3.0 in A20, 8 multiply-accumulates ran (R44). -/
theorem test_fill : after .slice { sliced with core := [(0x1000, 0x80), (0x1001, 0x3F), (0x2000, 0x40), (0x2001, 0x40)] }
    (fun t => (t.lane.bankA.get 0).cells == [(0, 0x40400)] && t.lane.drains == [(0, false)] && t.tel.mac16 == 8) = true := by decide +kernel
/-- An interval of two rows that drains into slot 5, in both lane groups 0 and 1 of bank A or B. -/
def inSlot5 : Interval := ⟨0, 0, 0, 0, 5, [0, 1], 0, 2, [0x3F800000, 0x3F800000], [0x3F800000, 0x3F800000], 0x3F800000, false, false, false, false, 32, 0⟩
def banks : Vector Bank 16 := (Vector.replicate 16 Bank.empty).set 0 ⟨[(0, 0x3F800)], some inSlot5⟩ |>.set 1 ⟨[], some inSlot5⟩

def full (l : List (Fin 16 × Bool)) : State := { up with lane := { up.lane with bankA := banks, drains := l } }
def last (adders : Nat) : State :=
  { up with lane := { up.lane with bankB := (Vector.replicate 16 Bank.empty).set 0 ⟨[], some inSlot5⟩, drains := [(0, true)], adders := adders } }
theorem witness_drain : (full [(0, false), (1, false)]).up = true ∧ ((full [(0, false), (1, false)]).lane.bank 0 false).interval = some inSlot5
    ∧ (({ (full [(0, false), (1, false)]).lane with drains := [(1, false)] } : Lane).emptyBank 0 false).drained inSlot5 = false
    ∧ (full [(0, false), (1, false)]).lane.adders ≤ 4 * up.now ∧ ((last 0).lane.bank 0 true).interval = some inSlot5
    ∧ (({ (last 0).lane with drains := [] } : Lane).emptyBank 0 true).drained inSlot5 = true ∧ 4 * (last 1).now < (last 1).lane.adders
    ∧ inSlot5.slot < 48 ∧ (1 : Fin 16) ≠ 0 := by decide +kernel
theorem test_drain : after (.drain 0) (full [(0, false), (1, false)])
      (fun t => t.lane.drains == [(1, false)] && Tbl.get 0 (t.slot 5).elems 0 == W64.mk 0x3F800000 0) = true
    ∧ after (.drain 1) (full [(0, false), (1, false)]) (fun t => t == full [(0, false), (1, false)]) = true := by decide +kernel

def merging (f : ProdJob → ProdJob) (c : Cmd) : State :=
  ((prodState [{ c with phase := .running (.product (f (job .run))) }]).modSlot 4 (fun x => { x with state := .active, elems := [(0, 5)] })).modSlot 7
    (fun x => { x with state := .held, resident := true, desc := 3, feat := 1, tileRow := 0, tileCol := 0 })
/-- Three segments of one block, in slots 2, 4 and 3, to be merged into the first. -/
def segs (res : Bool) (j : ProdJob) : ProdJob :=
  { j with
    split := 4, tiles := List.replicate 3 (j.tileAt 0), next := 3, mine := if res then [2] else []
    runs := [{ tileRun .segMerge with slot := 2, resident := res }, { tileRun .segDone with tile := 1, slot := 4 },
      { tileRun .segDone with tile := 2, slot := 3 }] }
def shadow (j : ProdJob) : ProdJob := { j with runs := [{ tileRun .mergeAdd with slot := 4, resident := true }] }
def partWith (f : ProdJob → ProdJob) (c : Cmd) : LanePart :=
  ⟨0, { c with phase := .running (.product (f (job .run))) }, f (job .run), ops, (f (job .run)).runs.headD (tileRun .run)⟩
theorem witness_segments : (merging (segs false) (gradw [])).active 0 = true
    ∧ (merging (segs false) (gradw [])).firstRun 0 .segMerge = some (partWith (segs false) (gradw []))
    ∧ ((segs false (job .run)).runs.filter (fun q => q.tile != 0)).map (fun q => q.slot) = [4, 3] ∧ (∀ k ∈ [2, 4, 3], k < 48) ∧ [2, 4, 3].Nodup
    ∧ (merging (segs true) (gradw [])).firstRun 0 .segMerge = some (partWith (segs true) (gradw []))
    ∧ (merging (segs true) (gradw [(12, 1, 1)])).firstRun 0 .segMerge = some (partWith (segs true) (gradw [(12, 1, 1)]))
    ∧ (gradw [(12, 1, 1)]).bit 12 = true ∧ (gradw []).bit 12 = false ∧ (segs true (job .run)).mine = [2] := by decide +kernel
theorem test_segments : after (.segmentMerge 0) (merging (segs false) (gradw []))
    (fun t => (t.slot 2).state == .writeback && (t.slot 4).state == .free) = true := by decide +kernel
theorem witness_shadow : (merging shadow (gradw [])).firstRun 0 .mergeAdd = some (partWith shadow (gradw []))
    ∧ (merging shadow (gradw [])).residentFor 0 (partWith shadow (gradw [])).cmd (partWith shadow (gradw [])).tile = some 7
    ∧ ((merging shadow (gradw [])).slot 7).state = .held ∧ (merging shadow (gradw [])).noEarlierWriter 0 0 7 = true
    ∧ (merging shadow (gradw [])).mustCapture 0 (slotUnit 7) = false ∧ (shadow (job .run)).mine = [] ∧ (gradw []).chainNo = 0 := by decide +kernel

def owes : Cmd := gradw [] (.header ⟨3, 2, false, 4, 1, 1, false⟩ .ok)
def headed : State := run (withDescs up [(1, opa), (2, dy), (3, dst 1)]) [owes]
theorem witness_header : headed.active 0 = true ∧ findAt Cmd.owesHeader (headed.ctx 0).cmds 0 = some (0, owes)
    ∧ headed.opnd owes.fmts 3 2 = some (opnd 3 (dst 1) 2) ∧ headed.mustCapture 0 ⟨2, 3, 0, 0, 0⟩ = false ∧ (cmd 0x14 []).op = 0x14
    ∧ (headed.openWrites 0 owes.seq [(opnd 3 (dst 1) 2).hdrAcc false true, (opnd 3 (dst 1) 2).hdrAcc true false]).1 = true
    ∧ (headed.openWrites 0 owes.seq [(opnd 3 (dst 1) 2).hdrAcc true false]).1 = true := by decide +kernel
/-- The updated header stands at the header address and the command has its reply (R107). -/
theorem test_header : after (.headerUpdate 0) headed (fun t => t.core != headed.core && (t.ctx 0).cmds.map (·.phase) == [.finished .ok]) = true := by
  decide +kernel

/-! ### Slots -/

/-- Slot 5, resident, of descriptor 3's only block, in a state. -/
def slotted (st : SlotState) (l : List Cmd) : State :=
  (prodState l).modSlot 5 (fun x => { x with state := st, resident := true, desc := 3, feat := 1, elems := [(0, 5)] })
/-- ACCLOAD of slot 5 (or, RESIDENT, of descriptor 3), from zeros (0), the destination (1) or descriptor 2 (2). -/
def accload (fs : List (Nat × Nat × Nat)) (p : Phase := .queued) : Cmd := cmd 0x04 ([(128, 16, 5), (144, 16, 0)] ++ fs) p
def loading_ (src row : Nat) : Cmd := accload [(179, 2, src)] (.running (.load 5 row none))
theorem witness_preload : (slotted .preload [loading_ 0 0]).active 0 = true ∧ (loading_ 0 0).op = 4
    ∧ findAt Cmd.loading ((slotted .preload [loading_ 0 0]).ctx 0).cmds 0 = some (0, loading_ 0 0) ∧ (loading_ 0 0).f 179 2 = 0
    ∧ (slotted .preload [loading_ 0 0]).firstRun 0 .preload = none
    ∧ findAt Cmd.loading ((slotted .preload [loading_ 1 1]).ctx 0).cmds 0 = some (0, loading_ 1 1)
    ∧ (slotted .preload [loading_ 1 1]).firstRun 0 .preload = none
    ∧ (slotted .preload [loading_ 1 1]).loadSrc (loading_ 1 1) ((slotted .preload [loading_ 1 1]).slot 5) = some (opnd 3 (dst 0))
    ∧ (slotted .preload [loading_ 1 1]).opnd (loading_ 1 1).fmts ((slotted .preload [loading_ 1 1]).slot 5).desc 0 = some (opnd 3 (dst 0))
    ∧ (((slotted .preload [loading_ 1 1]).slot 5).block (opnd 3 (dst 0))).2.1 = 2
    ∧ (((slotted .preload [loading_ 1 1]).setPhase 0 0 (.running (.load 5 1 (some 0)))).openAll 0 (loading_ 1 1).seq [(opnd 3 (dst 0)).acc false false
      ((List.range 2).map (fun e => (opnd 3 (dst 0)).span (preCoord (opnd 3 (dst 0)) 0 1 1 (0 + e))))]).1 = true := by decide +kernel
/-- ACCSTORE of slot 5, REPLACE. -/
def accstore (fs : List (Nat × Nat × Nat)) (p : Phase := .queued) : Cmd := cmd 0x05 ([(128, 16, 5), (176, 1, 1)] ++ fs) p
def storing_ : Cmd := accstore [] (.running (.store 5 1 1 0 none (some [])))
def plan (mask : Option (List Byte) := some []) : WbPlan := ⟨opnd 3 (dst 0), none, false, 1, 5, [0, 1], [0, 1], 0, 2, none, false, 0, mask⟩
/-- The state in which its last row opens, once a slice has admitted it. -/
def storeOpens : Bool × State :=
  (slotted .writeback [storing_]).streamGo 0 storing_.seq (fun u => (slotted .writeback [storing_]).rowEc 0 (plan) (1 + u)) 1
theorem witness_writeBack : (slotted .writeback [storing_]).active 0 = true
    ∧ findAt (slotted .writeback [storing_]).writingBack ((slotted .writeback [storing_]).ctx 0).cmds 0 = some (0, storing_)
    ∧ (slotted .writeback [storing_]).storePlan storing_ 5 none (some []) = some (plan) ∧ (plan).rows.length = 1 + 1 ∧ storing_.bit 15 = false
    ∧ (slotted .writeback [storing_]).readMask 0 (plan) = (true, slotted .writeback [storing_], [])
    ∧ (slotted .writeback [storing_]).setPhase 0 0 storing_.phase = slotted .writeback [storing_]
    ∧ (plan).live ((plan).frozen []) ((plan).rows.getD 1 0) = [0, 1]
    ∧ (storeOpens.2.streamStart 0).mustCapture 0 ((plan).unit ((plan).rows.getD 1 0)) = false ∧ storing_.bit 12 = false
    ∧ storeOpens.1 = true ∧ ((storeOpens.2.streamStart 0).openWrites 0 storing_.seq
      ((plan).rowAccs ((plan).rows.getD 1 0) [0, 1])).1 = true := by decide +kernel
/-- The last row written, the slot is HELD again and the reply counts two rows (R223). -/
theorem test_writeBack : after (.writeBack 0) (slotted .writeback [storing_])
    (fun t => (t.slot 5).state == .held && (t.ctx 0).cmds.map (·.phase) == [.finished { Reply.ok with result0 := 2 }]) = true := by decide +kernel

def resident_ : Cmd := cmd 0x04 [(12, 1, 1), (144, 16, 3), (176, 3, 1)]
theorem witness_accload : (prodState [resident_]).noConflict 0 0 resident_ = true ∧ resident_.reservedBad = none
    ∧ (prodState [resident_]).starting 0 0x04 = some (0, resident_) ∧ (prodState [resident_]).accloadHandlesOk 0 resident_ = true
    ∧ resident_.bit 12 = true ∧ (prodState [resident_]).opnd resident_.fmts (resident_.f 144 16) 0 = some (opnd 3 (dst 0))
    ∧ (prodState [resident_]).accloadBad 0 resident_ (opnd 3 (dst 0)) (resident_.f 176 3) (resident_.f 192 32) (resident_.f 224 32) = none
    ∧ (prodState [resident_]).freeSlot = some 0 ∧ (slotted .held [resident_]).slotShut 5 = false := by decide +kernel
theorem witness_accload_handle : (slotted .held [accload []]).slotHandle 0 ((accload []).f 128 16) = some 5 ∧ ((slotted .held [accload []]).slot 5).state = .held
    ∧ (slotted .held [accload []]).starting 0 0x04 = some (0, accload []) ∧ (slotted .held [accload []]).accloadHandlesOk 0 (accload []) = true
    ∧ (accload []).bit 12 = false ∧ (slotted .held [accload []]).opnd (accload []).fmts ((slotted .held [accload []]).slot 5).desc 0 = some (opnd 3 (dst 0))
    ∧ (slotted .held [accload []]).accloadBad 0 (accload []) (opnd 3 (dst 0)) ((slotted .held [accload []]).slot 5).feat ((accload []).f 192 32)
      ((accload []).f 224 32) = none ∧ (slotted .held [accload []]).mustCapture 0 (slotUnit 5) = false
    ∧ (slotted .held [accload []]).noConflict 0 0 (accload []) = true ∧ (accload []).reservedBad = none := by decide +kernel
theorem witness_accstore : (slotted .held [accstore []]).starting 0 0x05 = some (0, accstore [])
    ∧ (slotted .held [accstore []]).accstoreHandlesOk 0 (accstore []) = true ∧ (slotted .held [accstore []]).storePlan (accstore []) 5 none none = some (plan none)
    ∧ (slotted .held [accstore []]).accstoreBad 0 (accstore []) (plan none) = none ∧ (accstore []).reservedBad = none
    ∧ (slotted .held [accstore []]).noConflict 0 0 (accstore []) = true ∧ (accstore []).bit 12 = false
    ∧ (slotted .held [accstore [(12, 1, 1)]]).accstoreBad 0 (accstore [(12, 1, 1)]) (plan none) = none := by decide +kernel
def zeroSlot : Cmd := cmd 0x06 [(128, 16, 5)]
theorem witness_zero_slot : (slotted .held [zeroSlot]).starting 0 0x06 = some (0, zeroSlot) ∧ zeroSlot.bit 12 = false ∧ zeroSlot.reservedBad = none
    ∧ (slotted .held [zeroSlot]).noConflict 0 0 zeroSlot = true ∧ (slotted .held [zeroSlot]).slotHandle 0 (zeroSlot.f 128 16) = some 5 := by decide +kernel
/-- With RELEASE the slot's handle names nothing from the start of the ACCSTORE on (R109). -/
theorem test_release_slot : after (.accstore 0) (slotted .held [accstore [(12, 1, 1)]])
    (fun t => (t.slotHandle 0 5).isNone && (t.slot 5).state == .writeback) = true := by decide +kernel

/-- ZERO of descriptor 3's elements. -/
def zeroT (p : Phase := .queued) : Cmd := cmd 0x06 [(12, 1, 1), (128, 16, 3)] p
def zeroBlk (u : Nat) : List (Nat → Nat) :=
  (List.range (zeroUnit (opnd 3 (dst 0)) u).2.2).map (fun k => (dst 0).view 0 (zeroUnit (opnd 3 (dst 0)) u).1 ((zeroUnit (opnd 3 (dst 0)) u).2.1 + k))
/-- Where the unit's slice is admitted, whether its store opens. -/
def zeroOpens (s : State) (u : Nat) : Bool × Bool :=
  let g := s.streamGo 0 zeroT.seq (fun _ => 1) (zeroUnits (opnd 3 (dst 0)) - u)
  (g.1, ((g.2.streamStart 0).openWrites 0 zeroT.seq [(opnd 3 (dst 0)).acc true false ((zeroBlk u).map (opnd 3 (dst 0)).span)]).1)
def cold (l : List Cmd) : State := { prodState l with tlb := [] }
theorem witness_zero_start : (cold [zeroT]).opnd zeroT.fmts (zeroT.f 128 16) 0 = some (opnd 3 (dst 0)) ∧ (cold [zeroT]).continuing 0 0x06 = none
    ∧ (cold [zeroT]).starting 0 0x06 = some (0, zeroT) ∧ zeroT.bit 12 = true ∧ (cold [zeroT]).noConflict 0 0 zeroT = true
    ∧ ((cold [zeroT]).handle 0 (zeroT.f 128 16)).isSome = true ∧ zeroT.reservedBad = none
    ∧ ((opnd 3 (dst 0)).output && fmtClass (opnd 3 (dst 0)).fmt != 2) = true ∧ ((cold [zeroT]).ctx 0).task = none
    ∧ zeroUnits (opnd 3 (dst 0)) ≠ 0 ∧ (dst 0).format ≠ 7
    ∧ zeroOpens ((cold [zeroT]).setPhase 0 0 (.running (.zeroTensor 0))) 0 = (true, false) := by decide +kernel
theorem witness_zero_unit : (prodState [zeroT (.running (.zeroTensor 0))]).continuing 0 0x06 = some (0, zeroT (.running (.zeroTensor 0)))
    ∧ (prodState [zeroT (.running (.zeroTensor 1))]).continuing 0 0x06 = some (0, zeroT (.running (.zeroTensor 1)))
    ∧ zeroUnits (opnd 3 (dst 0)) = 1 + 1
    ∧ (prodState [zeroT (.running (.zeroTensor 1))]).mustCapture 0 ⟨1, 3, 0, 0, 0⟩ = false
    ∧ zeroOpens (prodState [zeroT (.running (.zeroTensor 1))]) 1 = (true, true) := by decide +kernel

/-! ### REDUCE, copies, gathers -/

/-- Sums of descriptor 1's rows into an FP32 vector of two at 0x3000. -/
def vec : Desc := desc 6 0x3000 [(2, 4)] []
def reduce : Cmd := cmd 0x03 [(128, 16, 1), (144, 16, 3), (160, 3, 1)]
def reduceState : State := run (withDescs up [(1, opa), (3, vec)]) [reduce]
theorem witness_reduce : reduceState.starting 0 0x03 = some (0, reduce) ∧ reduceState.noConflict 0 0 reduce = true
    ∧ (reduceState.handle 0 (reduce.f 128 16)).isSome = true ∧ (reduceState.handle 0 (reduce.f 144 16)).isSome = true
    ∧ reduceState.opnd reduce.fmts (reduce.f 128 16) 0 = some (opnd 1 opa) ∧ reduceState.opnd reduce.fmts (reduce.f 144 16) 1 = some (opnd 3 vec 1)
    ∧ reduce.reservedBad = none ∧ reduceState.reduceBad 0 reduce (opnd 1 opa) (opnd 3 vec 1) = none := by decide +kernel
def reducing : Cmd := { reduce with phase := .running (.reduceRows 0 0 none none false) }
def reduceSlice : SliceRun := ⟨0, [⟨0, 0, 1, some 0⟩], false, false, 1⟩
def reduceRun : State :=
  { run (withDescs up [(1, opa), (3, vec)]) [reducing] with lane := { up.lane with slice := some reduceSlice } }
theorem witness_reduce_slice : reduceRun.up = true ∧ reduceRun.lane.slice = some reduceSlice ∧ reduceRun.active 0 = true
    ∧ reduceRun.runningCmd 0 0 = some (0, reducing) ∧ opa.rows (reducing.f 160 3) ≤ 0 + 128
    ∧ reduceRun.opnd reducing.fmts (reducing.f 128 16) 0 = some (opnd 1 opa) ∧ reduceRun.opnd reducing.fmts (reducing.f 144 16) 1 = some (opnd 3 vec 1)
    ∧ (reduceRun.openWrites 0 reducing.seq (reduceAccs (opnd 1 opa) (opnd 3 vec 1) (reducing.f 160 3) 0 2)).1 = true := by decide +kernel
/-- 1.0 plus 2.0 of the first row, to FP32. -/
theorem test_reduce : after .slice { reduceRun with core := [(0x1000, 0x80), (0x1001, 0x3F), (0x1003, 0x40)] }
    (fun t => t.core == [(0x1000, 0x80), (0x1001, 0x3F), (0x1003, 0x40), (0x3002, 0x40), (0x3003, 0x40)] && t.lane.slice.isNone) = true := by
  decide +kernel

/-- XPOSE of axes 0 and 1 of descriptor x to descriptor y. -/
def xpose (x y : Nat) (p : Phase := .queued) : Cmd := cmd 0x12 [(128, 16, x), (144, 16, y), (163, 3, 1)] p
/-- PERMUTE that keeps both axes. -/
def keep (x y : Nat) : Cmd := cmd 0x13 [(128, 16, x), (144, 16, y), (163, 3, 1)]
/-- Descriptor 5: descriptor 1 shifted by two bytes in its own footprint. Descriptor 6: 512 by 512 of 16-bit elements, 7: the same shifted. -/
def shifted : Desc := desc 0 0x1002 [(2, 4), (2, 2)] []
def big (base : Nat) : Desc := desc 0 base [(512, 1024), (512, 2)] []
def copies (l : List Cmd) : State := run (withDescs up [(1, opa), (2, dy), (5, shifted), (6, big 0x1000), (7, big 0x1002)]) l
def copyOk (m : Cmd) (x y : Nat) (a b : Desc) : Bool :=
  (copies [m]).copyOps m == some (opnd x a, opnd y b 1) && (copies [m]).starting 0 m.op == some (0, m) && (copies [m]).noConflict 0 0 m
    && (copies [m]).continuing 0 m.op == none && ((copies [m]).handle 0 (m.f 128 16)).isSome && ((copies [m]).handle 0 (m.f 144 16)).isSome
    && m.reservedBad == none && copyBad m (opnd x a) (opnd y b 1) == none
theorem witness_copy_start : copyOk (keep 1 1) 1 1 opa opa = true ∧ copyMode (opnd 1 opa) (opnd 1 opa 1) ((keep 1 1).perm 2) = .identity
    ∧ copyOk (xpose 6 7) 6 7 (big 0x1000) (big 0x1002) = true
    ∧ copyMode (opnd 6 (big 0x1000)) (opnd 7 (big 0x1002) 1) ((xpose 6 7).perm 2) = .refused := by decide +kernel
def running_ (x y : Nat) (u : Nat) (vals : List Nat) (blk : List Nat := []) : Cmd := xpose x y (.running (.copy u vals blk))
def blockEls : List (Nat → Nat) := ((directUnits (.blocks 1) (opnd 2 dy 1)).headD ([], false)).1
def stagedEls : List (Nat → Nat) := (stagedUnit .staged (opnd 5 shifted 1) 0).getD []
def rowEls : List (Nat → Nat) := ((directUnits .rows (opnd 2 dy 1)).headD ([], false)).1
def est1 : Nat → Nat := fun _ => 1
/-- A direct unit of a copy in progress: its slice and what it holds are granted, then its requests. -/
def directOpens (m : Cmd) (mode : CopyMode) (as : List Acc) : Bool :=
  let s := copies [m]
  let g := s.streamGo 0 m.seq est1 1
  let h := g.2.copyHolds 0 m mode (opnd 1 opa)
  s.continuing 0 m.op == some (0, m) && s.copyOps m == some (opnd 1 opa, opnd 2 dy 1) && g.1 && h.1
    && copyMode (opnd 1 opa) (opnd 2 dy 1) (m.perm 2) == mode && (directUnits mode (opnd 2 dy 1)).length == 1
    && ((h.2.streamStart 0).openWrites 0 m.seq as).1
/-- The remote port is idle, so the estimate of the only unit is 1. -/
theorem witness_direct_est : (copies [running_ 1 2 0 []]).directEst 0 (opnd 1 opa) ((running_ 1 2 0 []).perm 2) blockEls = est1 0 := by decide +kernel
def byRows : Cmd := { keep 1 2 with phase := .running (.copy 0 [] []) }
theorem witness_copy_units : directOpens byRows .rows [copyReads (opnd 1 opa) [0, 1] rowEls, copyWrites (opnd 2 dy 1) rowEls] = true
    ∧ byRows.perm 2 = [0, 1]
    ∧ directOpens (running_ 1 2 0 [] [1, 2, 3, 4]) (.blocks 1) [copyWrites (opnd 2 dy 1) blockEls] = true
    ∧ directOpens (running_ 1 2 0 []) (.blocks 1) [] = true ∧ blockRest (directUnits (.blocks 1) (opnd 2 dy 1)) ≠ [] := by decide +kernel
/-- The read of a block opens; with its destination's page unknown its first store waits. -/
def halfCold : State := { copies [running_ 1 2 0 []] with tlb := [⟨0, ⟨.core 0, true, false⟩, 0⟩] }
def halfOpens : Bool × Bool :=
  let g := halfCold.streamGo 0 0 est1 1
  let h := g.2.copyHolds 0 (running_ 1 2 0 []) (.blocks 1) (opnd 1 opa)
  let a := copyReads (opnd 1 opa) [1, 0] (blockRest (directUnits (.blocks 1) (opnd 2 dy 1)))
  let q := (h.2.streamStart 0).openAll 0 0 [a]
  let w := (q.2.closeUnit 0 0 [a]).setPhase 0 0 (.running (.copy 0 [] [0, 0, 0, 0]))
  (q.1, ((w.streamStart 0).openWrites 0 0 [copyWrites (opnd 2 dy 1) blockEls]).1)
theorem witness_copy_block : halfOpens = (true, false) := by decide +kernel
def stageCmd (vals : List Nat) : Cmd := running_ 1 5 0 vals
def stageOpens : Bool :=
  let s := copies [stageCmd []]
  let g := s.streamGo 0 0 (fun k => s.stagedEst 0 (opnd 1 opa) (opnd 5 shifted 1) [1, 0] .staged (0 + k)) 1
  let h := g.2.takeStaging 0 0 1 (copyGranules .staged (opnd 1 opa)) (stagingUser 0 0)
  let o := (h.2.streamStart 0).openSome 0 0 .demand [copyReads (opnd 1 opa) [1, 0] stagedEls, copyWrites (opnd 5 shifted 1) stagedEls]
    [copyReads (opnd 1 opa) [1, 0] stagedEls]
  s.continuing 0 0x12 == some (0, stageCmd []) && s.copyOps (stageCmd []) == some (opnd 1 opa, opnd 5 shifted 1) && g.1 && h.1 && o.1
    && (o.2.copiedFirst 0 0 [copyWrites (opnd 5 shifted 1) stagedEls]).1 && copyMode (opnd 1 opa) (opnd 5 shifted 1) ((stageCmd []).perm 2) == .staged
theorem witness_copy_staged : stageOpens = true ∧ (stagedUnit .staged (opnd 5 shifted 1) 0).isSome = true
    ∧ (copies [stageCmd [1, 2, 3, 4]]).continuing 0 0x12 = some (0, stageCmd [1, 2, 3, 4])
    ∧ ((copies [stageCmd [1, 2, 3, 4]]).takeSlots 0 0 .demand [copyWrites (opnd 5 shifted 1) stagedEls]).1 = true
    ∧ (accNeeds (copyWrites (opnd 5 shifted 1) stagedEls) 0 ((copies [stageCmd [1, 2, 3, 4]]).plan 0
      (copyWrites (opnd 5 shifted 1) stagedEls))).all ((copies [stageCmd [1, 2, 3, 4]]).needOk 0) = true
    ∧ (({ copies [stageCmd [1, 2, 3, 4]] with tlb := [] } : State).takeSlots 0 0 .demand [copyWrites (opnd 5 shifted 1) stagedEls]).1 = true
    ∧ (accNeeds (copyWrites (opnd 5 shifted 1) stagedEls) 0 (({ copies [stageCmd [1, 2, 3, 4]] with tlb := [] } : State).plan 0
      (copyWrites (opnd 5 shifted 1) stagedEls))).any (fun n => !({ copies [stageCmd [1, 2, 3, 4]] with tlb := [] } : State).needOk 0 n) = true := by
  decide +kernel
/-- A write phase whose page is gone by then stops with PAGE_FAULT (R169, R371). -/
theorem test_copy_lost : after (.xpose 0) { copies [stageCmd [1, 2, 3, 4]] with tlb := [] }
    (fun t => (t.ctx 0).cmds.map (·.phase) == [.finished (.of stPageFault)]) = true := by decide +kernel
/-- The element at row 0, column 1 goes to row 1, column 0 (R165). -/
theorem test_xpose : after (.xpose 0) { copies [running_ 1 2 0 []] with core := [(0x1002, 7)] } (fun t => t.core == [(0x1002, 7), (0x2004, 7)]) = true := by
  decide +kernel

/-- Two 32-bit indices, a table of three rows of two FP32 elements, data of two by two. -/
def idx : Desc := desc 6 0x1000 [(2, 4)] []
def dat : Desc := desc 6 0x2000 [(2, 4), (2, 8)] []
def tblD : Desc := desc 6 0x3000 [(2, 4), (3, 8)] []
def gather (p : Phase := .queued) : Cmd := cmd 0x14 [(128, 16, 1), (144, 16, 2), (160, 16, 3), (176, 2, 1)] p
def gathers (l : List Cmd) : State := run (withDescs up [(1, idx), (2, dat), (3, tblD)]) l
def gops : GatherOps := ⟨opnd 1 idx, opnd 2 dat 1, opnd 3 tblD 2⟩
theorem witness_gather_start : (gathers [gather]).gatherOps gather = some gops ∧ (gathers [gather]).starting 0 0x14 = some (0, gather)
    ∧ (gathers [gather]).noConflict 0 0 gather = true ∧ ((gathers [gather]).handle 0 (gather.f 128 16)).isSome = true
    ∧ ((gathers [gather]).handle 0 (gather.f 144 16)).isSome = true ∧ ((gathers [gather]).handle 0 (gather.f 160 16)).isSome = true
    ∧ gather.reservedBad = none ∧ gatherBad gather gops = none := by decide +kernel
def gathering : Cmd := gather (.running (.gather ⟨0, 0, false, [], 0, 0, 0, 0⟩))
/-- What the first window of the indices 1 and 7 in memory reads: whether everything opens, the rows it updates. -/
def window : Bool × List (Nat × List Nat) :=
  let s : State := { gathers [gathering] with core := [(0x1000, 1), (0x1004, 7)] }
  let j : GatherJob := ⟨0, 0, false, [], 0, 0, 0, 0⟩
  let es := windowEntries (gops.idx.desc.size 0) 0
  let ia := gops.idx.acc false false (es.map (fun x => gops.idx.span (fun _ => x)))
  let q := s.openAll 0 gathering.seq [ia]
  let p := q.2.gatherPlan 0 gathering gops ia es
  let cs := passCols (gops.dat.desc.size 0) 0
  let a := gops.accs ia p cs.1 cs.2
  let v := q.2.streamGo 0 gathering.seq (q.2.gatherEst 0 gops j a p) (gops.left j)
  let o := (v.2.streamStart 0).openWrites 0 gathering.seq a.all
  (q.1 && v.1 && o.1 && o.2.locksFree 3 (p.rows.map (·.1)) && p.rows.all (fun r => !o.2.mustCapture 0 ⟨4, 3, 0, r.1, 0⟩), p.rows)
theorem witness_gather_window : window = (true, [(1, [0])]) ∧ (gathers [gathering]).active 0 = true
    ∧ findAt Cmd.gathering ((gathers [gathering]).ctx 0).cmds 0 = some (0, gathering) := by decide +kernel
/-- The command past its last window, whose write of row 1 is still to be acknowledged. -/
def flying : Cmd := gather (.running (.gather ⟨0, 1, true, [⟨0, 0, 0, 1, true, 0, 0, 2⟩], 0, 0, 0, 0⟩))
def landing : State :=
  { gathers [flying] with reqs := [⟨.wr, true, .demand, 24, 0, 0, 0, some 1⟩], locks := [⟨0, 3, 1, 0, 0, 0⟩] }
theorem witness_gather_ends : landing.alive = true ∧ ({ landing with reqs := dropAt landing.reqs 0 } : State).freeLocks.locks = []
    ∧ landing.gatherOps flying = some gops ∧ tblD.hdrEn = false := by decide +kernel
/-- Of the indices 1 and 7, 7 is beyond the table's three rows: counted once when the window commits (R172, R177). -/
theorem test_gather : after (.gleanerWindow 0) { gathers [gathering] with core := [(0x1000, 1), (0x1004, 7)] }
    (fun t => t.locks == [⟨0, 3, 1, 0, 0, 0⟩] && (t.ctx 0).idxOob == 0) = true
    ∧ after (.requestComplete 0 .clean) landing (fun t => t.locks == [] && (t.ctx 0).cmds.map (fun m => match m.phase with
      | .finished r => r.result1
      | _ => 9) == [1]) = true := by decide +kernel

/-! ### DIGEST_READ -/

/-- DIGEST_READ of job 5 into the area at 0x4000. -/
def readDigests : Cmd := cmd 0x22 [(128, 16, 1), (144, 12, 5)]
theorem witness_DigestRead : (run taskArea [readDigests]).starting 0 0x22 = some (0, readDigests) ∧ ((run taskArea [readDigests]).ctx 0).cmds[0]? = some readDigests
    ∧ (run taskArea [readDigests]).noConflict 0 0 readDigests = true ∧ (run taskArea [readDigests]).jobQuiet 0 0 readDigests.job = true
    ∧ ((run taskArea [readDigests]).handle 0 (readDigests.f 128 16)).isSome = true
    ∧ (run taskArea [readDigests]).opnd readDigests.fmts (readDigests.f 128 16) 0 = some (opnd 1 (area 0x4000 4096)) ∧ readDigests.reservedBad = none
    ∧ ((area 0x4000 4096).canWrite && (opnd 1 (area 0x4000 4096)).areaOk 96) = true
    ∧ ((run taskArea [readDigests]).openWrites 0 readDigests.seq [(opnd 1 (area 0x4000 4096)).acc true false ((opnd 1 (area 0x4000 4096)).byteSpans 0 96)]).1
      = true := by decide +kernel

/-! ### Bucket commands -/

/-- A BUCKET_SEND or BUCKET_RECV of bucket 1 of job 5, of an FP32 tensor of two elements. -/
def bucketCmd (op : Nat) : Cmd := cmd op [(128, 16, 3), (144, 12, 5), (160, 16, 1)]
def bucketState (op : Nat) : State := { run (withDescs up [(3, vec)]) [bucketCmd op] with groups := Vector.replicate 16 node }
def bucketOk (op : Nat) : Bool :=
  (bucketState op).starting 0 op == some (0, bucketCmd op) && ((bucketState op).handle 0 ((bucketCmd op).f 128 16)).isSome
    && (bucketState op).opnd (bucketCmd op).fmts ((bucketCmd op).f 128 16) 0 == some (opnd 3 vec) && (bucketCmd op).reservedBad == none
    && (bucketState op).bucketBad 0 (bucketCmd op) (opnd 3 vec) == none && ((bucketState op).jobRec (bucketCmd op).job).kept == none
    && !(bucketCmd op).bit 177 && !((bucketState op).jobCtxs (bucketCmd op).job).any (fun (j : JobCtx) => j.state == .failed)
    && allChans.all (fun k => ((bucketState op).portCh k).jobs.length < 64)
    && decide (((bucketState op).jobRec (bucketCmd op).job).sentUpTo < (bucketCmd op).bucket)
theorem witness_bucket : bucketOk 0x20 = true ∧ bucketOk 0x21 = true
    ∧ ((bucketState 0x20).jobRec 5).sends.contains 1 = false ∧ ((bucketState 0x20).modJob 5 (fun x => { x with sends := [1] })).jobRec 5
      = { (bucketState 0x20).jobRec 5 with sends := [1] } := by decide +kernel
def failedJob : State := withJob (bucketState 0x20) 0 { jobCtx node with state := .failed, timeout := some 0 }
theorem witness_bucket_failed : failedJob.bucketBad 0 (bucketCmd 0x20) (opnd 3 vec) = none
    ∧ (failedJob.jobCtxs (bucketCmd 0x20).job).any (fun (j : JobCtx) => j.state == .failed) = true
    ∧ failedJob.starting 0 0x20 = some (0, bucketCmd 0x20) := by decide +kernel
theorem witness_bucket_quiet : (bucketState 0x20).up = true
    ∧ (∀ k : Chan, ((bucketState 0x20).port.chans.get k).inq = [] ∧ ((bucketState 0x20).port.chans.get k).rx = [])
    ∧ (bucketState 0x20).port.partials = [] ∧ (bucketState 0x20).port.results = [] ∧ (bucketState 0x20).port.aborts = []
    ∧ (bucketState 0x20).port.inputs = [] ∧ ((bucketState 0x20).ctx 0).cmds = [bucketCmd 0x20]
    ∧ (∀ d : CtxNo, d ≠ 0 → ((bucketState 0x20).ctx d).cmds = []) := by decide +kernel
/-- The job has a context on every channel of its group: here IN0 and the parent's. -/
theorem test_bucket : after (.bucketSend 0) (bucketState 0x20) (fun t => (gChannels node false).all (fun k => ((t.portCh k).ctx 5).isSome)
    && (gChannels node false).contains 0 && ((t.portCh 1).ctx 5).isNone) = true := by decide +kernel

/-! ### BIST_SLICE -/

/-- Three items of unit 1 with their records at 0x4000. -/
def bist : Cmd := cmd 0x39 [(128, 4, 1), (144, 16, 1), (192, 16, 3)]
theorem witness_BistSlice : (run taskArea [bist]).continuing 0 0x39 = none ∧ (run taskArea [bist]).starting 0 0x39 = some (0, bist)
    ∧ ((run taskArea [bist]).handle 0 (bist.f 144 16)).isSome = true
    ∧ (run taskArea [bist]).opnd bist.fmts (bist.f 144 16) 0 = some (opnd 1 (area 0x4000 4096)) ∧ bist.reservedBad = none
    ∧ bistBad bist (opnd 1 (area 0x4000 4096)) = none ∧ (run taskArea [bist]).noConflict 0 0 bist = true
    ∧ (run taskArea [bist]).bist.wake = none ∧ ((run taskArea [bist]).setPhase 0 0 (.running .bist)).bistTurn 0 bist = true
    ∧ bist.f 128 4 ≠ 0 ∧ (((run taskArea [bist]).setPhase 0 0 (.running .bist)).openWrites 0 bist.seq
      [(opnd 1 (area 0x4000 4096)).acc true false ((opnd 1 (area 0x4000 4096)).byteSpans 0 (32 * bist.f 192 16))]).1 = true := by decide +kernel

/-! ### Further clauses: window writes, power, chains, ports, waits, records, walks, captures, exports, records of jobs -/

/-- A running engine with a write that waits for the end of its EC. -/
def waitingWrite (a : LateAct) : State := { up with eng := { up.eng with late := [a] } }
theorem witness_late_writes : (waitingWrite .lost).pending = [] ∧ (waitingWrite .rearm).pow.state = .running
    ∧ (waitingWrite (.counters 0xFF)).eng.late = [.counters 0xFF] ∧ (waitingWrite (.context 2 5)).eng.late = [.context 2 5]
    ∧ (waitingWrite .lost).eng.late = [.lost] ∧ (waitingWrite .rearm).eng.late = [.rearm] ∧ (waitingWrite (.advance 0)).eng.late = [.advance 0] := by
  decide +kernel
/-- The clear of IDLE_EC comes after the count of its EC (R364). -/
theorem test_clear_at_end : (match step (waitingWrite (.counters 8)) with
    | .next t => t.tel.idle == 0 && t.eng.late == []
    | _ => false) = true
    ∧ (match step up with
    | .next t => t.tel.idle == 1
    | _ => false) = true := by decide +kernel
theorem witness_register_clears : (up.ctx 2).resetting = false ∧ (up.ctx 2).state = .disabled ∧ (twoCtx.ctx 2).resetting = false
    ∧ (twoCtx.ctx 2).state ≠ .disabled ∧ up.logOpen = true ∧ bitAt (2#64) 8 = false ∧ bitAt (2#64) 16 = false
    ∧ bitAt (0x10100#64) 8 = true ∧ bitAt (0x10100#64) 16 = true ∧ (0x17C#12).toNat < 0x180 ∧ 0x194 ≤ (0x194#12).toNat
    ∧ State.reset.logOpen = false ∧ (atStep 2).windowOpen = false ∧ (atStep 2).logOpen = true := by decide +kernel
theorem witness_secure_words : (0x2FFF#16).toNat < 0x3000 ∧ 0x33FF < (0x3400#16).toNat ∧ 0x3000 ≤ (0x3000#16).toNat ∧ (0x33FF#16).toNat ≤ 0x33FF
    ∧ groupReservedOk (0#256) = true := by decide +kernel
theorem witness_power : up.pow.state = .running ∧ (ramping (.mode true) 100000).lane.beatsOut = true
    ∧ ({ ramping (.mode true) 100000 with lane := { up.lane with slice := some ⟨0, [⟨0, 0, 1, none⟩], false, false, 0⟩ } } : State).lane.beatsOut = false := by decide +kernel
theorem witness_retain_out : (ramping .retainOut 100000).pow.rampStart + (ramping .retainOut 100000).rampEc .retainOut ≤ 100000
    ∧ (ramping .retainOut 0).now < (ramping .retainOut 0).pow.rampStart + (ramping .retainOut 0).rampEc .retainOut := by decide +kernel
theorem witness_wanted : (asking [.mode true] 0).pow.want.filterMap (asking [.mode true] 0).stillWanted = .mode true :: []
    ∧ (asking [.mode false] 0).pow.want.filterMap (asking [.mode false] 0).stillWanted = []
    ∧ (∀ h ∈ [(3 : Fin 16)], up.pow.awake.get h = true) ∧ (asking [.release [5]] 0).pow.want = [.release [5]] ∧ (2 : Fin 16) ∉ [(5 : Fin 16)]
    ∧ (asking [.release [5]] 0).up = true ∧ (asking [.release [5]] 0).pow.ramp = none := by decide +kernel

theorem witness_chain_credit : ((chained id).chain 1).out = [] ∧ ((chained id).chain 1).cutOff = false
    ∧ ((chained (fun k => { k with due := some 1 })).chain 1).due ≠ none
    ∧ ((chained (fun k => { k with head := true, tail := true })).chain 1).cutOff = true
    ∧ BitVec.ofNat 4 (2 : Fin 16).val = ((chained (fun k => { k with head := true, tail := true })).chain 1).ownSucc := by decide +kernel
/-- A member whose owner, context 0, runs with its completion ring at 0x2000. -/
def leaving : State := { ringed with chains := (chained (fun k => { k with due := some 2 })).chains }
theorem witness_chain_record : (leaving.chain 1).leaves leaving.now 2 = true ∧ leaving.up = true ∧ (leaving.ctx (leaving.chain 1).owner).state ≠ .stopped
    ∧ (leaving.ctx (leaving.chain 1).owner).held = []
    ∧ (leaving.ctx (leaving.chain 1).owner).cmds.length < (leaving.ctx (leaving.chain 1).owner).cplFree
    ∧ leaving.needOk (leaving.chain 1).owner (ringNeed (leaving.ctx (leaving.chain 1).owner).cplAddr true) = true := by decide +kernel
/-- The detach tells both neighbours and posts one record of the owner (R186, R188). -/
theorem test_chain_leaves : after (.detach 1 2) leaving (fun t => t.chainOut.length == 2 && (t.ctx 0).eventSeq == 1 && (t.ctx 0).cplTail == 1
    && t.tel.detach == 1) = true := by decide +kernel
def setupOf (fs : List (Nat × Nat × Nat)) : Cmd := cmd 0x3A fs
def fourChains : State :=
  [0, 1, 2, 3].foldl (fun s n => s.setChain n { Chain.reset with entry := 1 }) (run up [setup])
theorem witness_chain_busy : (∀ j, j < 4 → (fourChains.chain j).valid = true) ∧ fourChains.starting 0 0x3A = some (0, setup)
    ∧ (setupBad 0 (setupOf [(128, 1, 1), (133, 4, 0)])).isSome = true ∧ (setupOf [(128, 1, 1), (133, 4, 0)]).reservedBad = none := by decide +kernel
theorem witness_chain_release : (setupOf []).bit 128 = false ∧ (setupOf []).f 192 3 = 0 ∧ (setupOf []).reservedBad = none
    ∧ (setupOf [(192, 3, 5)]).f 192 3 ≠ 0 ∧ ¬ ((setupOf [(192, 3, 5)]).f 192 3 ≤ 4 ∧ fourChains.chainHandleOk 0 5 = true)
    ∧ (setupOf [(192, 3, 2)]).f 192 3 = 1 + 1 ∧ fourChains.chainHandleOk 0 2 = true ∧ (setupOf [(192, 3, 2)]).reservedBad = none
    ∧ fourChains.chainUsed 0 0 2 = false
    ∧ (run fourChains [cmd 0x02 [(416, 3, 2)] (.running (.zeroTensor 0)), setupOf [(192, 3, 2)]]).chainUsed 0 1 2 = true
    ∧ (run fourChains [cmd 0x02 [(416, 3, 2)] (.running (.zeroTensor 0)), setupOf [(192, 3, 2)]]).starting 0 0x3A = some (1, setupOf [(192, 3, 2)]) := by decide +kernel
/-- CHAIN_SETUP finds no free entry; its release of entry 2 waits for a command that names it (R181, R236). -/
theorem test_chain_setup : after (.chainSetup 0) fourChains (fun t => (t.ctx 0).cmds.map (·.phase) == [.finished (.of stChainBusy)]) = true
    ∧ after (.chainSetup 0) (run fourChains [setupOf [(192, 3, 2)]]) (fun t => !(t.chain 1).valid && (t.chain 0).valid) = true := by decide +kernel
theorem witness_retraining : (trained 1 (fun t => { t with link := 0, probing := true, retrains := 1 })).retraining 1 = true ∧ up.retraining 0 = false := by decide +kernel

/-- A member of job 5 without a node, with a BUCKET_RECV of bucket 1 in flight into the FP32 vector at 0x3000. -/
def receiver : Cmd := cmd 0x21 [(128, 16, 3), (144, 12, 5), (160, 16, 1)] (.running (.recv 0 0 0xFFFF 0 0 0 false false))
def receiving : State := withJob (run (withDescs up [(3, vec)]) [receiver]) 5 (jobCtx member)
/-- The last RESULT packet of that bucket: OFFSET 0, two elements. -/
def lastResult : Packet := dataPkt 1 [(16, 16, 1), (53, 1, 1), (56, 7, 1), (96, 16, 4)]
/-- The same with the bucket's source read: its BUCKET_SEND has completed. -/
def readied : State := receiving.modJob 5 (fun x => { x with sends := [1] })
theorem witness_receives : Receives readied 0 0 5 1 := ⟨receiver, 0, 0, 0xFFFF, 0, 0, 0, false, false, by decide +kernel, rfl, by decide +kernel, by decide +kernel⟩
theorem witness_receive : readied.up = true ∧ readied.retraining 5 = false ∧ (readied.portCh 5).ctx lastResult.job = some (jobCtx member)
    ∧ (readied.ctx 0).cmds[0]? = some receiver ∧ receiver.job = lastResult.job ∧ receiver.bucket = lastResult.bucket ∧ readied.active 0 = true
    ∧ lastResult.isLast = true ∧ lastResult.kind = 1 ∧ readied.sourceRead receiver.job receiver.bucket lastResult.offset = true
    ∧ readied.opnd receiver.fmts (receiver.f 128 16) 0 = some (opnd 3 vec)
    ∧ (readied.openWrites 0 receiver.seq [(opnd 3 vec).acc true false ((((opnd 3 vec).packetElems lastResult.offset).take (lastResult.valid + 1)).map
      (opnd 3 vec).span)]).1 = true ∧ (∀ d : CtxNo, d ≠ 0 → (readied.ctx d).cmds = []) := by decide +kernel
/-- The packet's elements stand in the destination and the command completes with two elements, CONTRIB 4 (R263, R276). -/
theorem test_receive : after (.result 5 { lastResult with payload := 0x40003F80 }) readied
    (fun t => t.core == [(0x3002, 0x80), (0x3003, 0x3F), (0x3007, 0x40)] && t.port.results == [] && (t.ctx 0).cmds.map (fun m => match m.phase with
      | .finished r => (r.result0, r.result1)
      | _ => (0, 0)) == [(2, 4)]) = true := by decide +kernel
/-- No BUCKET_RECV of the bucket is in flight. -/
theorem witness_no_receiver : ∀ c i, ¬ Receives (withJob up 5 (jobCtx member)) c i 5 1 := by
  intro c i ⟨m, _, _, _, _, _, _, _, _, h, _⟩
  have h0 : ∀ d : CtxNo, ((withJob up 5 (jobCtx member)).ctx d).cmds = [] := by decide +kernel
  rw [h0 c] at h; cases h
/-- Its backup has reached IN3: a BACKUP packet of position 3, from the tree's position 7. -/
def backed : State := (lateJob false).modCh 3 (fun x => { x with rx := [dataPkt 2 [(53, 1, 1), (64, 15, 7), (80, 15, 3)]] })
theorem witness_late_backup : backed.up = true ∧ backed.isLate ⟨5, 0, 0, 0, none, false, false, false, 0, none, 0, 0, 0⟩ = true
    ∧ backed.jobCtxs 5 = jobCtx node :: [] ∧ backed.backupReady node ⟨5, 0, 0, 0, none, false, false, false, 0, none, 0, 0, 0⟩ = true
    ∧ backed.port.inputs.find? (fun x => x.job == 5 && x.input == 0 && backed.isLate x)
      = some ⟨5, 0, 0, 0, none, false, false, false, 0, none, 0, 0, 0⟩ := by decide +kernel
/-- With the backup there it takes the input's place, and without one the input is left out (R271, R272). -/
theorem test_late_input : after (.lateInput 5 0) backed (fun t => t.port.backupsUsed == 1 && t.port.omitted == 0) = true
    ∧ after (.lateInput 5 0) (lateJob false) (fun t => t.port.omitted == 1 && t.port.backupsUsed == 0) = true := by decide +kernel
/-- A wait parked by its timeout goes on to look: TARGET not reached, it counts on; reached, it notes it (R190). -/
def parkedLook (v : Byte) (ok : Bool) : State :=
  { (run up [{ wait with phase := .running (.waitCounter 0 (some 0) 3 ok true) }]).modCtx 0 (fun x => { x with state := .parked, parkCause := 1 }) with
    core := [(64, v)] }
theorem witness_wait_parked : ((parkedLook 7 false).ctx 0).waitPark = true ∧ ((parkedLook 7 false).ctx 0).fault = none
    ∧ ((parkedLook 7 false).ctx 0).resetting = false ∧ (parkedLook 7 false).up = true
    ∧ ((parkedLook 7 true).ctx 0).waitPark = true := by decide +kernel
theorem witness_wait_parked_cmd (v : Byte) (ok : Bool) :
    ((parkedLook v ok).ctx 0).waiting = some (0, { wait with phase := .running (.waitCounter 0 (some 0) 3 ok true) }, 0, some 0, 3, ok, true) := rfl
theorem test_wait_parked : after (.barrierPoll 0) (parkedLook 7 false) (fun t => (t.ctx 0).state == .parked
      && (t.ctx 0).cmds.map (·.phase) == [.running (.waitCounter 7 (some 0) 3 true true)]) = true
    ∧ after (.barrierPoll 0) (parkedLook 6 false) (fun t => (t.ctx 0).cmds.map (·.phase) == [.running (.waitCounter 6 (some 0) 3 false true)]) = true := by
  decide +kernel
theorem witness_admission_free : ringed.admissionFree 0 (fld (BitVec.ofNat 512 (ringed.peekLe 0 (ringed.ctx 0).cmdAddr 64)) 0 8) = true := by decide +kernel
/-- A record whose entry was settled when it happened, and one without. -/
def settledRec (r : Option Nat) : State := (holding 0).modCtx 0 (fun x => { x with held := [⟨r, 1, 0, 0, 0⟩], lost := 2 })

theorem witness_event : (holding 0).xlat 0 (pageOf ((holding 0).ctx 0).cplAddr) = some ⟨.core 0, true, true⟩ ∧ ((holding 0).ctx 0).cplBase.toNat % 32 = 0
    ∧ (holding 0).memWf = true := by decide +kernel
def otherWalk (p r : Bool) : State := { run up [] with walks := [⟨9, 0, r, p, need9, 3⟩] }
theorem witness_walk_kinds : (otherWalk true false).walks.filter (fun v => v.page == (9#32).toNat) = [⟨9, 0, false, true, need9, 3⟩]
    ∧ ((otherWalk false true).ctx 0).state ≠ .stopped := by decide +kernel
/-- A prefetch's dropped requests count; a ring's page that is not there stops the context (R154, R161). -/
theorem test_walk_kinds : after (.walk 9 none) (otherWalk true false) (fun t => t.tel.prefetchDrop == 3 && (t.ctx 0).fault.isNone) = true
    ∧ after (.walk 9 none) (otherWalk false true) (fun t => (t.ctx 0).state == .stopped && (t.ctx 0).ringFault) = true := by decide +kernel

/-- The slot of a task whose journal of 256 KiB at 0x100000 has room for it; the last of the entry's writes still to go out. -/
def slotEntry : Acc := (opnd 1 (area 0x100000 0x40000)).areaAcc 64 (entryBytes 131072)
def slotTask : State :=
  { withDescs (capturing ⟨3, 0, 0, 5, 0⟩ { openTask with present := [5], capacity := 0x40000 }) [(1, area 0x100000 0x40000)] with
    tlb := (List.range 21).map (fun k => ⟨k, ⟨.core (Fin.ofNat 128 k), true, true⟩, k⟩), sent := [⟨0, 0, slotEntry, 1020⟩] }
theorem witness_capture_slot_fits : slotTask.active 0 = true ∧ (slotTask.ctx 0).wantUnit = some ⟨3, 0, 0, 5, 0⟩
    ∧ slotTask.mustCapture 0 ⟨3, 0, 0, 5, 0⟩ = true ∧ 64 + entryBytes 131072 ≤ 0x40000 ∧ slotTask.touch.length < 4096
    ∧ slotTask.journal { openTask with present := [5], capacity := 0x40000 } = some (opnd 1 (area 0x100000 0x40000))
    ∧ (slotTask.openFor 0 0 .journal [slotEntry]).1 = true := by decide +kernel
/-- A touch table with no entry left. -/
def touched : List Touch := List.replicate 4096 ⟨3, ⟨1, 9, 0, 0, 0⟩⟩
theorem witness_capture_crowded : 4096 ≤ touched.length := by simp only [touched, List.length_replicate, Nat.le_refl]
theorem witness_raw_images : ((run up [cmd 0x00 [], create]).readImageRaw 0 create.seq (create.f 128 48) 128).1 = true
    ∧ ((loading 9 80).readImageRaw 0 (load 9 80).seq 0x3000 80).1 = true := by decide +kernel
/-- An export with its target's key in place, and one whose area an earlier ZERO still writes. -/
def keyed (l : List (Nat × Desc)) (m : List Cmd) : State :=
  { (run (withDescs up l) m).modCtx 0 (fun x => { x with bound := true, key := 2 }) with sec := { up.sec with keys := Vector.replicate 16 (some 5) } }
def clash : State :=
  keyed [(1, area 0x4000 4096), (2, desc 6 0x4000 [(2, 4)] [])] [cmd 0x06 [(12, 1, 1), (128, 16, 2)] (.running (.zeroTensor 0)), exp_ 0]
theorem witness_export_order : ((run taskArea [exp_ 0]).imageKey 0).isNone = true ∧ ((keyed taskArea.descs [exp_ 0]).imageKey 0).isSome = true
    ∧ (keyed taskArea.descs [exp_ 0]).noConflict 0 0 (exp_ 0) = true ∧ clash.noConflict 0 1 (exp_ 0) = false
    ∧ clash.starting 0 0x31 = some (1, exp_ 0) ∧ (clash.imageKey 0).isSome = true
    ∧ ((run taskArea []).ctx 0).settled = false ∧ ((run taskArea []).modCtx 0 (fun x => { x with settled := true })).canSettle 0 = true
    ∧ (exporting (some 5) (some (7, []))).unshot (fun _ x => x == 0) = false := by decide +kernel
/-- An export waits for the earlier write of its area (R203). -/
theorem test_export_order : after (.ctxExport 0) clash (fun t => t == clash) = true
    ∧ after (.ctxExport 0) (keyed taskArea.descs [exp_ 0]) (fun t => (t.ctx 0).cmds.all (fun m => m.phase == .running (.exporting false false none))) = true := by
  decide +kernel
/-- One job record, of job 5 on channel 2, and its area. -/
def assumeRecs : State :=
  { assuming true with core := [(0x4000, 1), (0x4000 + 528, 5), (0x4000 + 529, 0x40)] }
def assumeRec : BitVec 128 := 0x4005
theorem witness_assume_records :
    numAt (((assumeRecs.openAll 0 assume_.seq [(opnd 1 (area 0x4000 4096)).acc false false ((opnd 1 (area 0x4000 4096)).byteSpans 0 4096)]).2).areaBytes 0
      (((assumeRecs.openAll 0 assume_.seq [(opnd 1 (area 0x4000 4096)).acc false false ((opnd 1 (area 0x4000 4096)).byteSpans 0 4096)]).2).refusals 0
      ((opnd 1 (area 0x4000 4096)).acc false false ((opnd 1 (area 0x4000 4096)).byteSpans 0 4096))) (opnd 1 (area 0x4000 4096)) 0 4096) 0 16 = 1
    ∧ recordReservedOk assumeRec = true ∧ bitAt assumeRec (12 + 2) = true ∧ 528 + 16 * 1 ≤ 4096 := by decide +kernel
/-- The channel has the record's job context (R298). -/
theorem test_assume_records : after (.assumePosition 0) assumeRecs (fun t => (t.portCh 2).jobs.map (·.job) == [5] && (t.portCh 3).jobs == []) = true := by
  decide +kernel

/-! ### The whole machine -/

/-- NOP answers a next state; its frame names its own context alone. -/
theorem witness_frame : after (.nop 0) (run up [cmd 0x00 []]) (fun _ => true) = true ∧ Piece.core ∉ mayChange (.nop 0)
    ∧ Piece.ctx 1 ∉ mayChange (.nop 0) ∧ Piece.slots ∉ mayChange .lock := by decide +kernel
/-- A state with the invariant in which a NOP is at the front. -/
def nopFirst : State := { run up [cmd 0x00 []] with pending := [.nop 0] }
theorem witness_invariant : nopFirst.Inv ∧ nopFirst.pending = [.nop 0] :=
  ⟨⟨by decide +kernel, ⟨fun _ => Nat.zero_le _, fun _ => Nat.zero_le _, fun _ => Nat.zero_le _⟩, by decide +kernel, by decide +kernel, by decide +kernel,
    by decide +kernel, by decide +kernel, by decide +kernel, by decide +kernel⟩, rfl⟩
theorem test_step : (match step nopFirst with
    | .next t => t.pending == [] && (t.ctx 0).cmds.map (·.phase) == [.finished .ok]
    | _ => false) = true := by decide +kernel

end Sys2Proof.Tests
end

section
/-! SUPPORT. Register writes (R5, R11, R362 to R366): which write an access of the window is, and what each register does with it. -/

namespace Sys2Proof.Machine

variable (s : State)

/-! ### Words and their halves -/

theorem bitAt_eq_getLsbD {w : Nat} (x : BitVec w) (i : Nat) : bitAt x i = x.getLsbD i :=
  Nat.testBit_eq_decide_div_mod_eq.symm

theorem bitAt_setWidth {w n i : Nat} (x : BitVec w) (h : i < n) : bitAt (x.setWidth n) i = bitAt x i := by
  simp [bitAt_eq_getLsbD, h]

theorem setWidth_append_halves (v : BitVec 64) : (v.ushiftRight 32).setWidth 32 ++ v.setWidth 32 = v := by
  ext i hi
  simp only [BitVec.ushiftRight_eq, BitVec.getElem_append, BitVec.getElem_setWidth, BitVec.getLsbD_ushiftRight]
  split
  · exact BitVec.getLsbD_eq_getElem hi
  · rw [Nat.add_sub_cancel' (by omega)]
    exact BitVec.getLsbD_eq_getElem hi

theorem setHalf_low (x : BitVec 48) (v : Word) : setHalf x 0 v = x.extractLsb' 32 16 ++ v := by
  apply BitVec.eq_of_toNat_eq
  have hx := x.isLt
  have hv := v.isLt
  rw [BitVec.toNat_append, ← Nat.shiftLeft_add_eq_or_of_lt hv]
  simp only [setHalf, setFld, if_pos, BitVec.toNat_ofNat, BitVec.extractLsb'_toNat, Nat.shiftLeft_eq, Nat.shiftRight_eq_div_pow]
  omega

theorem setHalf_high (x : BitVec 48) (v : Word) : setHalf x 1 v = v.setWidth 16 ++ x.setWidth 32 := by
  apply BitVec.eq_of_toNat_eq
  have hx := x.isLt
  have hv := v.isLt
  rw [BitVec.toNat_append, ← Nat.shiftLeft_add_eq_or_of_lt (x.setWidth 32).isLt]
  simp only [setHalf, setFld, if_neg Nat.one_ne_zero, BitVec.toNat_ofNat, BitVec.toNat_setWidth, Nat.shiftLeft_eq]
  omega

theorem setHalf_high_low (x : BitVec 48) (v : BitVec 64) :
    setHalf (setHalf x 0 (v.setWidth 32)) 1 ((v.ushiftRight 32).setWidth 32) = v.setWidth 48 := by
  have hsplit := BitVec.setWidth_append_of_eq (v' := 16) (x := (v.ushiftRight 32).setWidth 32) (y := v.setWidth 32) (Eq.refl 32)
  rw [setWidth_append_halves, BitVec.setWidth_eq] at hsplit
  rw [setHalf_high, setHalf_low, BitVec.setWidth_append_eq_right]
  exact hsplit.symm

/-! ### Which write an access is (R5, R11, R362) -/

theorem State.writeReg_of_illegal {ofs width : Nat} (v : BitVec 64)
    (h : (width ≠ 32 ∧ width ≠ 64) ∨ ofs % 4 ≠ 0 ∨ (width = 64 ∧ ofs % 8 ≠ 0)) : s.writeReg ofs width v = s := by
  unfold State.writeReg
  rw [if_neg (by omega), if_neg (by omega)]

theorem State.writeReg_word {ofs : Nat} (v : BitVec 64) (h : ofs % 4 = 0) : s.writeReg ofs 32 v = s.write32 ofs (v.setWidth 32) :=
  if_pos ⟨rfl, h⟩

theorem State.writeReg_dword {ofs : Nat} (v : BitVec 64) (h : ofs % 8 = 0) :
    s.writeReg ofs 64 v = (s.write32 ofs (v.setWidth 32)).write32 (ofs + 4) ((v.ushiftRight 32).setWidth 32) := by
  unfold State.writeReg
  rw [if_neg (by omega), if_pos ⟨rfl, h⟩]

theorem exec_registerWrite_word {ofs : BitVec 12} {n : Nat} (v : BitVec 64) (hn : ofs.toNat = n) (h4 : n % 4 = 0) :
    exec (.registerWrite ofs 32 v) s = .next (s.write32 n (v.setWidth 32)) := by
  subst hn
  exact congrArg _ (s.writeReg_word v h4)

theorem exec_registerWrite_dword {ofs : BitVec 12} {n : Nat} (v : BitVec 64) (hn : ofs.toNat = n) (h8 : n % 8 = 0) :
    exec (.registerWrite ofs 64 v) s = .next ((s.write32 n (v.setWidth 32)).write32 (n + 4) ((v.ushiftRight 32).setWidth 32)) := by
  subst hn
  exact congrArg _ (s.writeReg_dword v h8)

/-- Outside LOG_CTL, LOG_RD_IDX and LOG_SUMMARY a closed window takes no write. -/
theorem State.write32_windowClosed {ofs : Nat} (v : Word) (hw : s.windowOpen = false) (h : ofs < 0x180 ∨ 0x194 ≤ ofs) :
    s.write32 ofs v = s := by
  unfold State.write32
  split
  case h_4 => simp [hw]
  all_goals omega

theorem blockOffset_toNat (c : CtxNo) {k : Nat} (hk : k < 0x80) :
    (BitVec.ofNat 12 (0x200 + 0x80 * c.val + k)).toNat = 0x200 + 0x80 * c.val + k := by
  have hc := c.isLt
  rw [BitVec.toNat_ofNat]
  omega

theorem State.write32_block (c : CtxNo) {k : Nat} (hk : k < 0x80) (v : Word) :
    s.write32 (0x200 + 0x80 * c.val + k) v = if s.windowOpen then s.writeBlock c k v else s := by
  have hc := c.isLt
  have hblock : ctxOf ((0x200 + 0x80 * c.val + k - 0x200) / 0x80) = c := Fin.ext (by simp only [ctxOf]; omega)
  have hofs : (0x200 + 0x80 * c.val + k) % 0x80 = k := by omega
  unfold State.write32
  split
  case h_4 =>
    rw [if_pos (show 0x200 ≤ 0x200 + 0x80 * c.val + k ∧ 0x200 + 0x80 * c.val + k < 0x600 by omega), hblock, hofs]
    cases s.windowOpen <;> rfl
  all_goals omega

/-! ### Closed windows and closed log registers take nothing (R362) -/

section
variable {s} (c : CtxNo) (v : Word)

theorem State.control_windowClosed (hw : s.windowOpen = false) (ok : CtxState → Bool) (f : State) : s.control c ok f = s := by
  simp [State.control, hw]

theorem State.writeCfg_windowClosed (hw : s.windowOpen = false) (f : Context → Context) : s.writeCfg c f = s := by
  simp [State.writeCfg, hw]

theorem State.writeTail_windowClosed (hw : s.windowOpen = false) : s.writeTail c v = s := by
  simp [State.writeTail, hw]

theorem State.writeHead_windowClosed (hw : s.windowOpen = false) : s.writeHead c v = s := by
  simp [State.writeHead, hw]

theorem State.writeClear_windowClosed (hw : s.windowOpen = false) : s.writeClear v = s := by
  simp [State.writeClear, State.whenOpen, hw]

theorem State.writeCtxClear_windowClosed (hw : s.windowOpen = false) : s.writeCtxClear c v = s := by
  simp [State.writeCtxClear, State.blockWrite, hw]

theorem State.keepInvalLo_windowClosed (hw : s.windowOpen = false) : s.keepInvalLo v = s := by
  simp [State.keepInvalLo, hw]

theorem State.invalidate_windowClosed (hw : s.windowOpen = false) (i : Inval) : s.invalidate i = s := by
  simp [State.invalidate, hw]

theorem State.logLater_logClosed (hl : s.logOpen = false) (a : LateAct) : s.logLater a = s := by
  simp [State.logLater, hl]

theorem State.logWrite_logClosed (hl : s.logOpen = false) (f : ErrLog → ErrLog) : s.logWrite f = s := by
  simp [State.logWrite, hl]

theorem State.writeRdIdx_logClosed (hl : s.logOpen = false) : s.writeRdIdx v = s := by
  simp [State.writeRdIdx, State.logLater_logClosed hl]

theorem State.writeLogCtl_logClosed (hl : s.logOpen = false) : s.writeLogCtl v = s := by
  simp [State.writeLogCtl, State.logWrite_logClosed hl, State.logLater_logClosed hl]

theorem State.write32_closed (hw : s.windowOpen = false) (hl : s.logOpen = false) (ofs : Nat) : s.write32 ofs v = s := by
  unfold State.write32
  split
  · exact State.writeLogCtl_logClosed v hl
  · exact State.writeRdIdx_logClosed v hl
  · exact State.logWrite_logClosed hl _
  · simp [hw]

theorem State.writeReg_windowClosed (hw : s.windowOpen = false) {ofs : Nat} (h : ofs < 0x180 ∨ 0x194 ≤ ofs) (width : Nat)
    (x : BitVec 64) : s.writeReg ofs width x = s := by
  unfold State.writeReg
  split
  · exact s.write32_windowClosed _ hw h
  · split
    · rw [s.write32_windowClosed _ hw h, s.write32_windowClosed _ hw (by omega)]
    · rfl

theorem State.writeReg_closed (hw : s.windowOpen = false) (hl : s.logOpen = false) (ofs width : Nat) (x : BitVec 64) :
    s.writeReg ofs width x = s := by
  simp [State.writeReg, State.write32_closed _ hw hl]

/-- Before READY, in FATAL and in RETAIN the named commands of the window do nothing (R362). -/
theorem exec_windowClosed (page : BitVec 32) (hw : s.windowOpen = false) :
    ∀ i ∈ [Instr.doorbell c v, .cplHead c v, .ctxCfg c v, .enable c, .resume c, .abort c, .reset c, .clearStall, .clearMac,
        .clearEnergy, .clearIdle, .clearMisc, .clearTempMax, .clearReduce, .clearTick, .clearOobSilent c, .clearIdx c,
        .clearSched c, .tlbInvalAll, .tlbInvalPage page, .jobRelease v], exec i s = .next s := by
  have htlb (lo : Word) (i : Inval) : (s.keepInvalLo lo).invalidate i = s := by
    rw [State.keepInvalLo_windowClosed lo hw, State.invalidate_windowClosed hw]
  have hcontrol := State.control_windowClosed c hw
  have hclear (m : Word) := State.writeClear_windowClosed m hw
  have hctxClear (m : Word) := State.writeCtxClear_windowClosed c m hw
  simp only [List.forall_mem_cons, List.not_mem_nil, false_imp_iff, implies_true, and_true]
  exact ⟨congrArg _ (State.writeTail_windowClosed c v hw), congrArg _ (State.writeHead_windowClosed c v hw),
    congrArg _ (State.writeCfg_windowClosed c hw _), congrArg _ (hcontrol _ _), congrArg _ (hcontrol _ _), congrArg _ (hcontrol _ _),
    congrArg _ (hcontrol _ _), congrArg _ (hclear _), congrArg _ (hclear _), congrArg _ (hclear _), congrArg _ (hclear _),
    congrArg _ (hclear _), congrArg _ (hclear _), congrArg _ (hclear _), congrArg _ (hclear _), congrArg _ (hctxClear _),
    congrArg _ (hctxClear _), congrArg _ (hctxClear _), congrArg _ (htlb _ _), congrArg _ (htlb _ _),
    congrArg _ (if_neg (by simp [hw]))⟩

/-- The named commands of the log registers do nothing while those are closed (R362). -/
theorem exec_logClosed (hl : s.logOpen = false) :
    ∀ i ∈ [Instr.firstValid, .clearLost, .logSummary v, .logRdIdx v], exec i s = .next s := by
  simp only [List.forall_mem_cons, List.not_mem_nil, false_imp_iff, implies_true, and_true]
  exact ⟨congrArg _ (State.logLater_logClosed hl _), congrArg _ (State.logLater_logClosed hl _),
    congrArg _ (State.logWrite_logClosed hl _), congrArg _ (State.writeRdIdx_logClosed v hl)⟩

end

/-! ### Registers of a context block (R202, R363, R366, R367) -/

section
variable (c : CtxNo) (v : BitVec 64)

theorem exec_registerWrite_block {k : Nat} (hk : k < 0x80) (h4 : k % 4 = 0) :
    exec (.registerWrite (BitVec.ofNat 12 (0x200 + 0x80 * c.val + k)) 32 v) s =
      .next (if s.windowOpen then s.writeBlock c k (v.setWidth 32) else s) := by
  rw [exec_registerWrite_word s v (blockOffset_toNat c hk) (by omega), s.write32_block c hk]

/-- A register whose write does nothing while the window is closed is written by its own operation. -/
theorem exec_registerWrite_block_of_closed {k : Nat} (hk : k < 0x80) (h4 : k % 4 = 0) {t : State}
    (ht : s.writeBlock c k (v.setWidth 32) = t) (hclosed : s.windowOpen = false → t = s) :
    exec (.registerWrite (BitVec.ofNat 12 (0x200 + 0x80 * c.val + k)) 32 v) s = .next t := by
  rw [exec_registerWrite_block s c v hk h4, ht]
  split
  · rfl
  · rw [hclosed (Bool.eq_false_iff.mpr ‹_›)]

theorem exec_registerWrite_ctxClear :
    exec (.registerWrite (BitVec.ofNat 12 (0x200 + 0x80 * c.val + 0x44)) 32 v) s = .next (s.writeCtxClear c (v.setWidth 32)) :=
  exec_registerWrite_block_of_closed s c v (by decide) (by decide) rfl (State.writeCtxClear_windowClosed c _)

/-- CTX_CTRL: a code that names a control command is that command, also while the context is being reset. -/
theorem exec_registerWrite_ctrl {ok : CtxState → Bool} {f : State} (hv : s.ctxCtrl c (v.setWidth 32) = s.control c ok f) :
    exec (.registerWrite (BitVec.ofNat 12 (0x200 + 0x80 * c.val + 0x04)) 32 v) s = .next (s.control c ok f) := by
  rw [exec_registerWrite_block s c v (by decide) (by decide)]
  change Host.Outcome.next (if s.windowOpen then (if (s.ctx c).resetting then s.ignored c else s.ctxCtrl c _) else s) = _
  rw [hv]
  unfold State.control
  cases s.windowOpen <;> cases (s.ctx c).resetting <;> rfl

variable {s c}

/-- CTX_STATUS: CTRL_IGN and HEAD_ERR are cleared where 1 is written. -/
theorem exec_registerWrite_status (hw : s.windowOpen = true) :
    exec (.registerWrite (BitVec.ofNat 12 (0x200 + 0x80 * c.val + 0x08)) 32 v) s = .next (s.modCtx c (fun x =>
      { x with ctrlIgn := x.ctrlIgn && !bitAt v 6, headErr := x.headErr && !bitAt v 7 })) := by
  rw [exec_registerWrite_block s c v (by decide) (by decide), if_pos hw]
  simp only [State.writeBlock, bitAt_setWidth v (show 6 < 32 by decide), bitAt_setWidth v (show 7 < 32 by decide)]

theorem State.writeCtxClear_open (hw : s.windowOpen = true) (hr : (s.ctx c).resetting = false) (w : Word) :
    s.writeCtxClear c w = s.later (.context c w) := by
  simp [State.writeCtxClear, State.blockWrite, hw, hr]

theorem State.modCtx_modCtx (f g : Context → Context) : (s.modCtx c f).modCtx c g = s.modCtx c (g ∘ f) := by
  have hctx := s.ctx_modCtx_same c f
  unfold State.modCtx at hctx ⊢
  rw [hctx]
  simp [State.setCtx]

/-- What a DISABLED context takes, and any other answers with CFG_ERR (R202, R366). -/
def Context.takeCfg (f : Context → Context) (x : Context) : Context :=
  if x.state = .disabled then f x else { x with cfgErr := true }

theorem Context.takeCfg_takeCfg {f g : Context → Context} (hf : ∀ x, (f x).state = x.state) :
    Context.takeCfg g ∘ Context.takeCfg f = Context.takeCfg (g ∘ f) := by
  funext x
  by_cases h : x.state = .disabled <;> simp [Context.takeCfg, h, hf]

theorem State.writeCfg_open (hw : s.windowOpen = true) (hr : (s.ctx c).resetting = false) (f : Context → Context) :
    s.writeCfg c f = s.modCtx c (Context.takeCfg f) := by
  by_cases h : (s.ctx c).state = .disabled <;> simp [State.writeCfg, State.modCtx, Context.takeCfg, hw, hr, h]

theorem Context.takeCfg_resetting {f : Context → Context} (hf : ∀ x, (f x).resetting = x.resetting) (x : Context) :
    (Context.takeCfg f x).resetting = x.resetting := by
  unfold Context.takeCfg
  split
  · exact hf x
  · rfl

/-- Two halves of a register that only a DISABLED context takes are one write of both (R363). -/
theorem State.writeCfg_writeCfg (hw : s.windowOpen = true) (hr : (s.ctx c).resetting = false) {f : Context → Context}
    (hf : ∀ x, (f x).state = x.state ∧ (f x).resetting = x.resetting) (g : Context → Context) :
    (s.writeCfg c f).writeCfg c g = s.writeCfg c (g ∘ f) := by
  have hreset : ((s.modCtx c (Context.takeCfg f)).ctx c).resetting = false := by
    rw [State.ctx_modCtx_same, Context.takeCfg_resetting (fun x => (hf x).2), hr]
  rw [State.writeCfg_open hw hr, State.writeCfg_open (s := s.modCtx c _) hw hreset, State.writeCfg_open hw hr,
    State.modCtx_modCtx, Context.takeCfg_takeCfg (fun x => (hf x).1)]

/-- A command that writes a register only a DISABLED context takes changes that context alone (R202, R366). -/
theorem exec_writeCfg_spec {i : Instr} {f : Context → Context} (hw : s.windowOpen = true) (hr : (s.ctx c).resetting = false)
    (h : exec i s = .next (s.writeCfg c f)) :
    ∃ t, exec i s = .next t ∧ OnlyCtx c s t ∧
      t.ctx c = if (s.ctx c).state = .disabled then f (s.ctx c) else { s.ctx c with cfgErr := true } := by
  rw [State.writeCfg_open hw hr] at h
  exact ⟨_, h, OnlyCtx.modCtx s c _, State.ctx_modCtx_same s c _⟩

/-- A 64-bit write of a register whose two halves only a DISABLED context takes. -/
theorem exec_registerWrite_cfgHalves {k : Nat} (hk : k + 4 < 0x80) (h8 : k % 8 = 0) {f g : Context → Context}
    (hlow : s.writeBlock c k (v.setWidth 32) = s.writeCfg c f)
    (hhigh : ∀ t : State, t.writeBlock c (k + 4) ((v.ushiftRight 32).setWidth 32) = t.writeCfg c g)
    (hf : ∀ x, (f x).state = x.state ∧ (f x).resetting = x.resetting)
    (hw : s.windowOpen = true) (hr : (s.ctx c).resetting = false) :
    exec (.registerWrite (BitVec.ofNat 12 (0x200 + 0x80 * c.val + k)) 64 v) s = .next (s.writeCfg c (g ∘ f)) := by
  have hopen : (s.writeCfg c f).windowOpen = true := by
    rw [State.writeCfg_open hw hr]
    exact hw
  rw [exec_registerWrite_dword s v (blockOffset_toNat c (by omega)) (by omega), s.write32_block c (by omega), if_pos hw, hlow,
    Nat.add_assoc, State.write32_block _ c hk, if_pos hopen, hhigh, State.writeCfg_writeCfg hw hr hf]

theorem exec_registerWrite_cmdBase (hw : s.windowOpen = true) (hr : (s.ctx c).resetting = false) :
    exec (.registerWrite (BitVec.ofNat 12 (0x200 + 0x80 * c.val + 0x10)) 64 v) s =
      .next (s.writeCfg c (fun x => { x with cmdBase := v.setWidth 48 })) := by
  rw [exec_registerWrite_cfgHalves v (f := fun x => { x with cmdBase := setHalf x.cmdBase 0 (v.setWidth 32) })
    (by decide) (by decide) rfl (fun _ => rfl) (fun _ => ⟨rfl, rfl⟩) hw hr]
  simp only [Function.comp_def, setHalf_high_low]

theorem exec_registerWrite_cplBase (hw : s.windowOpen = true) (hr : (s.ctx c).resetting = false) :
    exec (.registerWrite (BitVec.ofNat 12 (0x200 + 0x80 * c.val + 0x18)) 64 v) s =
      .next (s.writeCfg c (fun x => { x with cplBase := v.setWidth 48 })) := by
  rw [exec_registerWrite_cfgHalves v (f := fun x => { x with cplBase := setHalf x.cplBase 0 (v.setWidth 32) })
    (by decide) (by decide) rfl (fun _ => rfl) (fun _ => ⟨rfl, rfl⟩) hw hr]
  simp only [Function.comp_def, setHalf_high_low]

theorem exec_registerWrite_cmdBase_low (hw : s.windowOpen = true) :
    exec (.registerWrite (BitVec.ofNat 12 (0x200 + 0x80 * c.val + 0x10)) 32 v) s =
      .next (s.writeCfg c (fun x => { x with cmdBase := x.cmdBase.extractLsb' 32 16 ++ v.setWidth 32 })) := by
  rw [exec_registerWrite_block s c v (by decide) (by decide), if_pos hw]
  simp only [State.writeBlock, setHalf_low]

theorem exec_registerWrite_cplBase_low (hw : s.windowOpen = true) :
    exec (.registerWrite (BitVec.ofNat 12 (0x200 + 0x80 * c.val + 0x18)) 32 v) s =
      .next (s.writeCfg c (fun x => { x with cplBase := x.cplBase.extractLsb' 32 16 ++ v.setWidth 32 })) := by
  rw [exec_registerWrite_block s c v (by decide) (by decide), if_pos hw]
  simp only [State.writeBlock, setHalf_low]

end

/-! ### Engine and log registers (R363, R364, R368, R369) -/

section
variable {s} (v : BitVec 64)

theorem State.write32_cntClear (w : Word) : s.write32 0x024 w = s.writeClear w := by
  cases hw : s.windowOpen
  · rw [s.write32_windowClosed w hw (by decide), State.writeClear_windowClosed w hw]
  · simp [State.write32, hw]

theorem State.writeClear_open (hw : s.windowOpen = true) (w : Word) : s.writeClear w = s.later (.counters w) := by
  simp [State.writeClear, State.whenOpen, hw]

theorem exec_registerWrite_jobRelease : exec (.registerWrite 0x028 32 v) s = exec (.jobRelease (v.setWidth 32)) s := by
  rw [exec_registerWrite_word s v (n := 0x028) rfl rfl]
  change _ = execJobRelease _ s
  cases hw : s.windowOpen <;> simp [State.write32, execJobRelease, hw]

theorem State.write32_doorbellStop (hw : s.windowOpen = true) (w : Word) :
    s.write32 0x020 w = { s with eng := { s.eng with doorbellStop := bitAt w 0 } } := by
  simp [State.write32, hw]

theorem State.write32_tempExc (hw : s.windowOpen = true) (w : Word) :
    s.write32 0x02C w = { s with eng := { s.eng with tempExc := w.setWidth 16 } } := by
  simp [State.write32, hw]

theorem State.write32_invalLo (hw : s.windowOpen = true) (w : Word) :
    s.write32 0x030 w = { s with eng := { s.eng with invalLo := w } } := by
  simp [State.write32, hw]

theorem State.write32_tlbInval (hw : s.windowOpen = true) (w : Word) :
    s.write32 0x034 w = s.invalidate (invalOf (w ++ s.eng.invalLo)) := by
  simp [State.write32, hw]

/-- TLB_INVAL: a 64-bit write is its two halves, the upper one acting (R363). -/
theorem exec_registerWrite_tlbInval (hw : s.windowOpen = true) :
    exec (.registerWrite 0x030 64 v) s =
      .next (State.invalidate { s with eng := { s.eng with invalLo := v.setWidth 32 } } (invalOf v)) := by
  have hopen : ({ s with eng := { s.eng with invalLo := v.setWidth 32 } } : State).windowOpen = true := hw
  rw [exec_registerWrite_dword s v (n := 0x030) rfl rfl, State.write32_invalLo hw, State.write32_tlbInval hopen,
    setWidth_append_halves]

theorem State.writeLogCtl_firstSev (hl : s.logOpen = true) {w : Word} (h8 : bitAt w 8 = false) (h16 : bitAt w 16 = false) :
    s.writeLogCtl w = { s with log := { s.log with firstSev := w.extractLsb' 0 2 } } := by
  simp [State.writeLogCtl, State.logWrite, hl, h8, h16]

theorem State.writeLogCtl_clears (hl : s.logOpen = true) {w : Word} (h8 : bitAt w 8 = true) (h16 : bitAt w 16 = true) :
    s.writeLogCtl w = { s with
      log := { s.log with firstSev := w.extractLsb' 0 2 }, eng := { s.eng with late := s.eng.late ++ [.rearm, .lost] } } := by
  have hopen (a : State) (he : a.eng.step = s.eng.step) (hp : a.pow = s.pow) : a.logOpen = true := by
    rw [← hl, State.logOpen, State.logOpen, he, hp]
  simp [State.writeLogCtl, State.logWrite, State.logLater, State.later, hl, h8, h16, hopen]

end

/-! ### The obligation -/

/-- Settles O9: each register's write is cited from the lemma of its register; a write while the window is closed, from the lemma of the
closed window. -/
theorem registerWrites : Obligations.RegisterWrites := by
  unfold Obligations.RegisterWrites
  refine ⟨fun s c v ofs width => ?_, fun s c v page ofs width x hw =>
    ⟨exec_windowClosed c v page hw, fun hofs => congrArg _ (State.writeReg_windowClosed hw hofs width x),
      fun hl => ⟨congrArg _ (State.writeReg_closed hw hl _ width x), exec_logClosed v hl⟩⟩⟩
  intro w at_ put
  have hsev : w.extractLsb' 0 2 = v.extractLsb' 0 2 := BitVec.extractLsb'_setWidth_of_le (by decide)
  refine ⟨?illegal, ?ctxCfg, ?cmdTail, ?cplHead, ?enable, ?resume, ?abort, ?reset, ?oobSilent, ?idx, ?sched, ?clears, ?jobRelease,
    ?logSummary, ?logRdIdx, fun hw => ⟨?doorbellStop, ?tempExc, ?cntClear, ?invalLo, ?tlbInval, ?tlbInval64, fun hr =>
      ⟨?ctxClear, ?ctxStatus, ?cmdBase, ?cmdBaseLow, ?cplBase, ?cplBaseLow⟩⟩, fun hl h8 h16 => ?firstSev, fun hl h8 h16 => ?logClears⟩
  case illegal => exact fun h => congrArg _ (s.writeReg_of_illegal v h)
  case ctxCfg => exact exec_registerWrite_block_of_closed s c v (by decide) (by decide) rfl (State.writeCfg_windowClosed c · _)
  case cmdTail => exact exec_registerWrite_block_of_closed s c v (by decide) (by decide) rfl (State.writeTail_windowClosed c w)
  case cplHead => exact exec_registerWrite_block_of_closed s c v (by decide) (by decide) rfl (State.writeHead_windowClosed c w)
  case enable => exact exec_registerWrite_ctrl s c 1 rfl
  case resume => exact exec_registerWrite_ctrl s c 2 rfl
  case abort => exact exec_registerWrite_ctrl s c 3 rfl
  case reset => exact exec_registerWrite_ctrl s c 4 rfl
  case oobSilent => exact exec_registerWrite_ctxClear s c 1
  case idx => exact exec_registerWrite_ctxClear s c 2
  case sched => exact exec_registerWrite_ctxClear s c 4
  case clears =>
    have hclear (x : BitVec 64) := (exec_registerWrite_word s (ofs := 0x024) x rfl rfl).trans (congrArg _ (State.write32_cntClear _))
    simp only [List.forall_mem_cons, List.not_mem_nil, false_imp_iff, implies_true, and_true]
    exact ⟨hclear 1, hclear 2, hclear 4, hclear 8, hclear 16, hclear 32, hclear 64, hclear 128⟩
  case jobRelease => exact exec_registerWrite_jobRelease v
  case logSummary => exact exec_registerWrite_word s v rfl rfl
  case logRdIdx => exact exec_registerWrite_word s v rfl rfl
  case doorbellStop =>
    rw [exec_registerWrite_word s v (n := 0x020) rfl rfl, State.write32_doorbellStop hw, bitAt_setWidth v (by decide)]
  case tempExc =>
    rw [exec_registerWrite_word s v (n := 0x02C) rfl rfl, State.write32_tempExc hw, BitVec.setWidth_setWidth_of_le v (by decide)]
  case cntClear =>
    rw [exec_registerWrite_word s v (n := 0x024) rfl rfl, State.write32_cntClear, State.writeClear_open hw]; rfl
  case invalLo => rw [exec_registerWrite_word s v (n := 0x030) rfl rfl, State.write32_invalLo hw]
  case tlbInval => rw [exec_registerWrite_word s v (n := 0x034) rfl rfl, State.write32_tlbInval hw]
  case tlbInval64 => exact exec_registerWrite_tlbInval v hw
  case ctxClear =>
    rw [exec_registerWrite_ctxClear s c v, State.writeCtxClear_open hw hr]; rfl
  case ctxStatus => exact ⟨_, exec_registerWrite_status v hw, OnlyCtx.modCtx s c _, State.ctx_modCtx_same s c _⟩
  case cmdBase => exact exec_writeCfg_spec hw hr (exec_registerWrite_cmdBase v hw hr)
  case cmdBaseLow => exact exec_writeCfg_spec hw hr (exec_registerWrite_cmdBase_low v hw)
  case cplBase => exact exec_writeCfg_spec hw hr (exec_registerWrite_cplBase v hw hr)
  case cplBaseLow => exact exec_writeCfg_spec hw hr (exec_registerWrite_cplBase_low v hw)
  case firstSev =>
    rw [exec_registerWrite_word s v (n := 0x180) rfl rfl, ← hsev]
    exact congrArg _ (State.writeLogCtl_firstSev hl ((bitAt_setWidth v (by decide)).trans h8) ((bitAt_setWidth v (by decide)).trans h16))
  case logClears =>
    rw [exec_registerWrite_word s v (n := 0x180) rfl rfl, ← hsev]
    exact congrArg _ (State.writeLogCtl_clears hl ((bitAt_setWidth v (by decide)).trans h8) ((bitAt_setWidth v (by decide)).trans h16))

end Sys2Proof.Machine
end

section
/-! SUPPORT. The tick input (R14): in an ordinary run of edges, neither before the first edge nor waiting for one after RETAIN, which EC
give a boundary, and what an edge and the engine's own count answer. -/

namespace Sys2Proof.Machine

/-! ### An ordinary run of edges -/

section
variable {s : State}

/-- The EC of a local boundary: 14,000 within a run of them, 14,140 while the engine follows the input. -/
theorem Tick.localEc_of_not_first {t : Tick} (hfirst : t.first = false) : t.localEc = if t.run then 14000 else 14140 := by
  simp [Tick.localEc, hfirst]

/-- An edge counts from EC 13,860 until the EC of a local boundary. -/
theorem State.edgeTaken_iff (hdue : s.tick.due = none) (hwait : s.tick.waitEdge = false) (hfirst : s.tick.first = false) :
    s.edgeTaken = true ↔ 13860 ≤ s.ecs ∧ s.ecs < s.tick.localEc := by
  rw [Tick.localEc_of_not_first hfirst]
  cases hrun : s.tick.run <;> simp [State.edgeTaken, hdue, hwait, hfirst, hrun]

theorem State.localDue_iff (hon : s.sampled = true) (hdue : s.tick.due = none) (hwait : s.tick.waitEdge = false) :
    s.localDue = true ↔ s.tick.localEc ≤ s.ecs := by
  simp [State.localDue, hon, hdue, hwait]

/-! ### TICK_EDGE and LOCAL_BOUNDARY -/

theorem execTickEdge_of_taken (hon : s.sampled = true) (htaken : s.edgeTaken = true) :
    execTickEdge s = .next { s with tick := { s.tick with due := some (false, s.now + 1) } } := by
  simp [execTickEdge, hon, htaken]

theorem execTickEdge_of_early (hon : s.sampled = true) (htaken : ¬ s.edgeTaken = true) :
    execTickEdge s = .next { s with tick := { s.tick with early := satAdd s.tick.early 1 } } := by
  simp [execTickEdge, hon, htaken]

theorem execLocalBoundary_of_not_due (hdue : ¬ s.localDue = true) : execLocalBoundary s = .next s := by
  simp [execLocalBoundary, hdue]

/-- The tick follower once a local boundary is taken: it is counted and begins a run, or continues one. -/
def Tick.takeLocal (t : Tick) : Tick :=
  { t with localCount := satAdd t.localCount 1, run := true, due := some (true, t.last + t.localEc) }

theorem execLocalBoundary_of_run (hdue : s.localDue = true) (hrun : s.tick.run = true) :
    execLocalBoundary s = .next { s with tick := s.tick.takeLocal } := by
  simp [execLocalBoundary, hdue, hrun, Tick.takeLocal]

/-- The first local boundary of a run writes a TICK entry whose DETAIL0 is TICK_LOCAL after the increment. -/
theorem execLocalBoundary_of_first (hdue : s.localDue = true) (hrun : ¬ s.tick.run = true) :
    execLocalBoundary s = .next { s with
      tick := s.tick.takeLocal
      log := State.logNext { s with tick := s.tick.takeLocal } 0x07 0 0xC none (s.tick.takeLocal.localCount.setWidth 64) 0 } := by
  unfold execLocalBoundary
  rw [if_neg (by simp [hdue])]
  dsimp only
  rw [if_neg hrun]
  exact congrArg _ (State.logErr_plain _ _ _ _ _ _ (by decide))

end

/-! ### The obligation -/

/-- Settles O18: the EC of the window of an edge and of the local boundary decide which branch of the two commands runs. -/
theorem edgesAndLocalBoundaries : Obligations.EdgesAndLocalBoundaries := by
  unfold Obligations.EdgesAndLocalBoundaries
  intro s hon hdue hwait hfirst n limit
  have hlimit : s.tick.localEc = limit := Tick.localEc_of_not_first hfirst
  have htaken : s.edgeTaken = true ↔ 13860 ≤ n ∧ n < limit := hlimit ▸ State.edgeTaken_iff hdue hwait hfirst
  have hlocal : s.localDue = true ↔ limit ≤ n := hlimit ▸ State.localDue_iff hon hdue hwait
  refine ⟨fun h => ?taken, fun h => ?early, fun h => ?before, fun h => ?boundary⟩
  case taken => exact execTickEdge_of_taken hon (htaken.2 h)
  case early => exact execTickEdge_of_early hon (fun ht => absurd (htaken.1 ht).1 (Nat.not_le.2 h))
  case before => exact execLocalBoundary_of_not_due (fun hl => absurd (hlocal.1 hl) (Nat.not_le.2 h))
  case boundary =>
    rw [← hlimit]
    by_cases hrun : s.tick.run = true
    · exact ⟨_, execLocalBoundary_of_run (hlocal.2 h) hrun, rfl, rfl, fun _ => rfl⟩
    · exact ⟨_, execLocalBoundary_of_first (hlocal.2 h) hrun, rfl, rfl, fun hr => absurd hr hrun⟩

end Sys2Proof.Machine
end

section
/-! SUPPORT. One engine clock (R13, R281, R343, R364): what it changes while the clock runs, and what it is while the clock is stopped. -/

namespace Sys2Proof.Machine

/-! ### The clock runs -/

/-- The pieces that one engine clock may change besides the event lines and the count of EC: the counters of the EC, a self-test slice's
staging, a ramp's progress, and whatever a write may leave for the end of its EC. -/
def clockWork : List Piece := [.eng, .tick, .staging, .port, .log, .tel, .pow] ++ everyCtx

theorem Fr.nextEc {ks : List Piece} {s t : State} (h : Fr ks s t) : Fr ks { s with now := s.now + 1 } { t with now := t.now + 1 } := by
  refine ⟨fun p hp => ?_⟩
  have same := h.same p hp
  cases p
  case now => exact congrArg (· + 1) same
  all_goals exact same

theorem Fr.sameMem {ks : List Piece} {s t : State} (h : Fr ks s t) (hcore : .core ∉ ks) (hremote : .remote ∉ ks) : SameMem s t :=
  SameMem.of_eq (h.same .core hcore) (h.same .remote hremote)

/-- The counts of one EC, RET's fall and the staging given back are within `clockWork`. -/
theorem Fr.counted (s : State) (tel : Telemetry) (port : Port) (pow : Power) (staging : List (Nat × Nat)) :
    Fr clockWork s { s with tel := tel, port := port, pow := pow, staging := staging } := by
  refine ⟨fun p hp => ?_⟩
  cases p
  case tel | port | pow | staging => exact absurd (by decide) hp
  all_goals rfl

section
variable {s : State}

/-- While the clock runs, a clock lets the event lines fall, counts one EC, and keeps every other piece outside `clockWork`. -/
theorem clockTick_running (h : s.pow.state = .running) : Fr clockWork { s with evt := 0, now := s.now + 1 } (clockTick s) := by
  have hctx (c : CtxNo) : Piece.ctx c ∈ clockWork := List.mem_append_right _ (Fr.mem_everyCtx c)
  unfold clockTick
  dsimp only
  rw [if_pos h]
  refine Fr.retainNext (Fr.rampProgress (Fr.nextEc (Fr.endEc (Fr.counted { s with evt := 0 } ..) ?_ ?_ hctx ?_ ?_ ?_ ?_)) ?_) ?_ <;> decide

/-! ### The clock is stopped -/

/-- With the clock stopped only the event lines and RET fall; a ramp under way is measured in EC all the same. -/
theorem clockTick_stopped (h : s.pow.state ≠ .running) :
    clockTick s = { s with
      evt := 0, pow := s.pow.retDone (s.now + 1), now := if s.pow.ramp.isSome then s.now + 1 else s.now } := by
  unfold clockTick
  dsimp only
  rw [if_neg h]
  split <;> rfl

theorem Power.retDone_of_not_ret {p : Power} (now : Nat) (h : p.ret = false) : p.retDone now = p := by
  simp [Power.retDone, h]

theorem step_of_pending_nil (h : s.pending = []) : step s = .next (clockTick s) := by
  simp [step, h]

end

/-! ### The obligation -/

/-- Settles O2: the step is `clockTick`, whose two cases are the running and the stopped clock. -/
theorem emptyQueueIsOneClock : Obligations.EmptyQueueIsOneClock := by
  unfold Obligations.EmptyQueueIsOneClock
  intro s hempty
  refine ⟨clockTick s, step_of_pending_nil hempty, ?_⟩
  by_cases hrun : s.pow.state = .running
  · have frame := clockTick_running hrun
    exact ⟨frame.same .evt (by decide), (frame.same .pending (by decide)).trans hempty, frame.sameMem (by decide) (by decide),
      fun _ => frame.same .now (by decide), fun hstop => absurd hrun hstop⟩
  · rw [clockTick_stopped hrun]
    refine ⟨rfl, hempty, SameMem.of_eq rfl rfl, fun h => absurd h hrun, fun _ hramp hret => ?_⟩
    rw [Power.retDone_of_not_ret _ hret, hramp]
    rfl

end Sys2Proof.Machine
end

section
/-! SUPPORT. TABLE_LOAD (R24, R123, R124, R205, R234, R291, R310, R344): reading its image, keeping the rescale table for earlier commands
and completing change no table, and what installing the image does for each table. -/

namespace Sys2Proof.Machine

/-! ### The tables -/

/-- Every table that a TABLE_LOAD can name, in use and to come, is the same in `t` as in `s`, and so is the risk unit, whose counts a
risk table resets. -/
structure SameTables (s t : State) : Prop where
  fmts : t.fmts = s.fmts
  rts : t.rts = s.rts
  rampTab : t.rampTab = s.rampTab
  rampNext : t.rampNext = s.rampNext
  riskTab : t.riskTab = s.riskTab
  risk : t.risk = s.risk
  stallMap : t.stallMap = s.stallMap
  prio : t.prio = s.prio
  prioNext : t.prioNext = s.prioNext

/-- The pieces that reading an image and completing its command may change: the context, its translations, requests and waits. -/
def imageWork (c : CtxNo) : List Piece := [.ctx c, .tlb, .walks, .reqs, .sent, .waits]

section
variable {s t u : State} {c : CtxNo}

theorem SameTables.trans (h : SameTables s t) (k : SameTables t u) : SameTables s u :=
  ⟨k.fmts.trans h.fmts, k.rts.trans h.rts, k.rampTab.trans h.rampTab, k.rampNext.trans h.rampNext, k.riskTab.trans h.riskTab,
    k.risk.trans h.risk, k.stallMap.trans h.stallMap, k.prio.trans h.prio, k.prioNext.trans h.prioNext⟩

theorem SameTables.rt (h : SameTables s t) (j : Nat) : t.rt j = s.rt j := by
  rw [State.rt, h.rts, State.rt]

theorem SameTables.bindTable (h : SameTables s t) (c : CtxNo) (j : Nat) : t.bindTable c j = s.bindTable c j := by
  rw [State.bindTable, h.rt, State.bindTable]

theorem Fr.sameTables (h : Fr (imageWork c) s t) : SameTables s t := by
  refine ⟨h.same .fmts ?_, h.same .rts ?_, h.same .rampTab ?_, h.same .rampNext ?_, h.same .riskTab ?_, h.same .risk ?_,
    h.same .stallMap ?_, h.same .prio ?_, h.same .prioNext ?_⟩ <;> simp [imageWork]

theorem SameTables.of_readImageRaw {seq : Word} {va n : Nat} {b : Bool} (h : s.readImageRaw c seq va n = (b, t)) : SameTables s t := by
  have frame : Fr (imageWork c) s (s.readImageRaw c seq va n).2 := by
    apply Fr.readImageRaw (Fr.refl _ s) <;> simp [imageWork]
  rw [h] at frame
  exact frame.sameTables

theorem SameTables.modCtx (s : State) (c : CtxNo) (f : Context → Context) : SameTables s (s.modCtx c f) := by
  constructor <;> rfl

theorem SameTables.finish (s : State) (c : CtxNo) (i : Nat) (r : Reply) : SameTables s (s.finish c i r) := by
  constructor <;> simp

end

theorem State.cmds_of_readImageRaw {s t : State} {c : CtxNo} {seq : Word} {va n : Nat} {b : Bool}
    (h : s.readImageRaw c seq va n = (b, t)) (d : CtxNo) : (t.ctx d).cmds = (s.ctx d).cmds := by
  obtain rfl : (s.readImageRaw c seq va n).2 = t := congrArg Prod.snd h
  unfold State.readImageRaw
  dsimp only
  split
  · exact State.cmds_acquire s c _ d
  · rw [State.ctx_takeRaw, State.cmds_acquire]

/-! ### Earlier commands keep the rescale table (R124) -/

/-- What keeping bound table `b` makes of a context whose first `i` commands came before the load. -/
def Context.keepTable (b : BoundTable) (i : Nat) (x : Context) : Context :=
  { x with cmds := (x.cmds.take i).map (fun m =>
      if m.phase.isQueued && !m.tabs.any (fun k => k.number == b.number) then { m with tabs := m.tabs ++ [b] } else m) ++ x.cmds.drop i }

theorem State.keepBound_eq (s : State) (c : CtxNo) (t i : Nat) :
    s.keepBound c t i = s.modCtx c (Context.keepTable (s.bindTable c t) i) := rfl

theorem Context.keepTable_from (b : BoundTable) {i k : Nat} (x : Context) (h : i ≤ k) : (x.keepTable b i).cmds[k]? = x.cmds[k]? := by
  simp only [Context.keepTable, List.getElem?_append, List.length_map, List.length_take, List.getElem?_drop]
  split
  · omega
  · obtain hlen | hlen := Nat.le_total i x.cmds.length
    · rw [Nat.min_eq_left hlen, Nat.add_sub_cancel' h]
    · rw [List.getElem?_eq_none (by omega), List.getElem?_eq_none (by omega)]

theorem Context.keepTable_queued (b : BoundTable) {i k : Nat} {x : Context} {m : Cmd} (h : k < i) (hm : x.cmds[k]? = some m)
    (hq : m.phase.isQueued = true) (ht : m.tabs = []) : (x.keepTable b i).cmds[k]? = some { m with tabs := [b] } := by
  obtain ⟨hlen, -⟩ := List.getElem?_eq_some_iff.1 hm
  have hpos : k < min i x.cmds.length := Nat.lt_min.2 ⟨h, hlen⟩
  simp only [Context.keepTable, List.getElem?_append, List.length_map, List.length_take, if_pos hpos, List.getElem?_map,
    List.getElem?_take_of_lt h, hm, Option.map_some, hq, ht, List.any_nil, Bool.not_false, Bool.and_self, if_true, List.nil_append]

theorem State.peekLe_keepBound (s : State) (c : CtxNo) (t i va n : Nat) : (s.keepBound c t i).peekLe c va n = s.peekLe c va n := by
  have hx (p : Nat) : (s.keepBound c t i).xlat c p = s.xlat c p := by
    simp [State.keepBound_eq, State.xlat, Context.keepTable]
  unfold State.peekLe State.peekN State.peek
  simp only [hx]
  rfl

/-! ### The image is installed -/

section
variable {s u : State} {c : CtxNo} {n : Nat} {r : Reply}

theorem State.loadRescale_refused {t : Nat} {x : BitVec 263168} (h : s.loadRescale c t x n = (some r, u)) : u = s := by
  unfold State.loadRescale at h
  dsimp only at h
  split at h
  · exact (congrArg Prod.snd h).symm
  · split at h
    · cases h
    · split at h
      · exact (congrArg Prod.snd h).symm
      · cases h

/-- An image that fails a check changes nothing: each table's refusal hands back the state it was given. -/
theorem State.install_refused {id img : Nat} (h : s.install c id n img = (some r, u)) : u = s := by
  unfold State.install at h
  dsimp only at h
  split at h
  case h_6 => exact State.loadRescale_refused h
  all_goals
    split at h
    · exact (congrArg Prod.snd h).symm
    · cases h

end

section
variable (s : State) (c : CtxNo) (n img : Nat)

theorem State.install_formats (h : formatBad (BitVec.ofNat 256 img) = none) : s.install c 0 n img =
    (none, { s with fmts := Vector.ofFn (fun (k : Fin 8) => formatStored (imageWord (BitVec.ofNat 256 img) k.val)) }) := by
  simp [State.install, h]

theorem State.install_ramp (h : rampBad (BitVec.ofNat 640 img) = none) :
    s.install c 9 n img = (none, { s with rampNext := some (BitVec.ofNat 640 img) }) := by
  simp [State.install, h]

theorem State.install_risk (h : riskBad (BitVec.ofNat 640 img) = none) : s.install c 10 n img =
    (none, { s with riskTab := BitVec.ofNat 640 img, risk := { s.risk with counts := Vector.replicate 4 0, ticks := 0 } }) := by
  simp [State.install, h]

theorem State.install_stall (h : stallBad (BitVec.ofNat 128 img) = none) : s.install c 11 n img =
    (none, { s with stallMap := Vector.ofFn (fun (k : Fin 16) => (BitVec.ofNat 128 img).extractLsb' (8 * k.val) 4) }) := by
  simp [State.install, h]

theorem State.install_prio (h : prioBad (BitVec.ofNat 128 img) = none) : s.install c 12 n img =
    (none, { s with prioNext := some (Vector.ofFn (fun (k : Fin 8) => (BitVec.ofNat 128 img).extractLsb' (16 * k.val) 16)) }) := by
  simp [State.install, h]

/-- Table ids 1 to 8 are the rescale tables. -/
theorem State.install_rescale {id : Nat} (h : 1 ≤ id ∧ id ≤ 8) :
    s.install c id n img = s.loadRescale c (id - 1) (BitVec.ofNat 263168 img) ((n - 64) / 8) := by
  unfold State.install
  split
  case h_6 => rfl
  all_goals omega

/-- A load reads and writes no context: it commutes with a change of one. -/
theorem State.loadRescale_modCtx (d : CtxNo) (f : Context → Context) (t : Nat) (x : BitVec 263168) :
    (s.modCtx d f).loadRescale c t x n = ((s.loadRescale c t x n).1, (s.loadRescale c t x n).2.modCtx d f) := by
  unfold State.loadRescale
  dsimp only [State.rt_modCtx]
  split
  · rfl
  · split
    · split <;> rfl
    · split <;> rfl

theorem State.rt_loadRescale_other {t j : Nat} (h : j ≠ t) (x : BitVec 263168) : (s.loadRescale c t x n).2.rt j = s.rt j := by
  have hput (y : RescaleTable) : (s.setRt t y).rt j = s.rt j := by simp [State.rt_setRt, h]
  unfold State.loadRescale
  dsimp only
  split
  · rfl
  · split
    · split
      · exact hput _
      · rfl
    · split
      · rfl
      · exact hput _

theorem State.ctx_install (id : Nat) (d : CtxNo) : (s.install c id n img).2.ctx d = s.ctx d := by
  have h : Fr [.fmts, .rts, .prioNext, .stallMap, .rampNext, .riskTab, .risk] s (s.install c id n img).2 := by
    apply Fr.install (Fr.refl _ s) <;> decide
  exact h.same (.ctx d) (by simp)

end

/-! ### The whole load -/

section
variable {s q : State} {c : CtxNo} {i : Nat} {m : Cmd}
  (hat : s.atAdmission c 0x38 = some (i, m))
  (hidle : 1 ≤ m.f 128 4 ∧ m.f 128 4 ≤ 8 →
    ∀ k ∈ (s.ctx c).cmds.take i, s.cmdDone c k = true ∨ k.statTables.contains (m.f 128 4 - 1) = false)
  (hfree : s.readFree c i (m.f 144 48) (m.f 192 32) = true) (hgood : s.tableBad c m = none)
  (hread : s.readImageRaw c m.seq (m.f 144 48) (m.f 192 32) = (true, q))
include hat hidle hfree hgood hread

/-- A load that need not wait installs what it read, over the state in which earlier commands keep the table they bound. -/
theorem State.tableLoad_of_read {v : State} (hv : v = if 1 ≤ m.f 128 4 ∧ m.f 128 4 ≤ 8 then q.keepBound c (m.f 128 4 - 1) i else q) :
    let r := v.install c (m.f 128 4) (m.f 192 32) (v.peekLe c (m.f 144 48) (m.f 192 32))
    s.tableLoad c = r.2.finish c i (r.1.getD .ok) := by
  have hgo : (decide (1 ≤ m.f 128 4 ∧ m.f 128 4 ≤ 8) &&
      ((s.ctx c).cmds.take i).any (fun k => !s.cmdDone c k && k.statTables.contains (m.f 128 4 - 1))) = false := by
    refine Bool.eq_false_iff.2 fun hwait => ?_
    simp only [Bool.and_eq_true, decide_eq_true_eq, List.any_eq_true, Bool.not_eq_true'] at hwait
    obtain ⟨hid, k, hk, hopen, hnamed⟩ := hwait
    obtain hdone | hother := hidle hid k hk
    · exact Bool.false_ne_true (hopen.symm.trans hdone)
    · exact Bool.false_ne_true (hother.symm.trans hnamed)
  subst hv
  unfold State.tableLoad
  simp only [hat, hgo, hfree, hgood, hread, decide_eq_true_eq, Bool.not_true, Bool.false_eq_true, if_false]

/-- What a load answers: the image's reply, the tables of the install, and earlier commands that keep a rescale table. -/
theorem exec_tableLoad_installs (hcmd : (s.ctx c).cmds[i]? = some m) {r : Option Reply} {u : State}
    (hinst : q.install c (m.f 128 4) (m.f 192 32) (q.peekLe c (m.f 144 48) (m.f 192 32)) = (r, u)) :
    ∃ t, exec (.tableLoad c) s = .next t ∧ SameTables u t
      ∧ PhaseAt t c i (.finished (r.getD .ok))
      ∧ (1 ≤ m.f 128 4 ∧ m.f 128 4 ≤ 8 → ∀ k m0, k < i → (s.ctx c).cmds[k]? = some m0 → m0.phase.isQueued = true → m0.tabs = [] →
          ((t.ctx c).cmds[k]?).map (·.tabs) = some [s.bindTable c (m.f 128 4 - 1)]) := by
  have hload : exec (.tableLoad c) s = _ := congrArg Host.Outcome.next (State.tableLoad_of_read hat hidle hfree hgood hread rfl)
  have hcmds : (u.ctx c).cmds = (s.ctx c).cmds := by
    have hu := q.ctx_install c (m.f 192 32) (q.peekLe c (m.f 144 48) (m.f 192 32)) (m.f 128 4) c
    rw [hinst] at hu
    exact (congrArg Context.cmds hu).trans (State.cmds_of_readImageRaw hread c)
  by_cases hid : 1 ≤ m.f 128 4 ∧ m.f 128 4 ≤ 8
  · have hkept : (q.keepBound c (m.f 128 4 - 1) i).install c (m.f 128 4) (m.f 192 32) (q.peekLe c (m.f 144 48) (m.f 192 32)) =
        (r, u.modCtx c (Context.keepTable (q.bindTable c (m.f 128 4 - 1)) i)) := by
      rw [State.install_rescale _ _ _ _ hid] at hinst ⊢
      rw [State.keepBound_eq, State.loadRescale_modCtx, hinst]
    have hbind : q.bindTable c (m.f 128 4 - 1) = s.bindTable c (m.f 128 4 - 1) :=
      (SameTables.of_readImageRaw hread).bindTable c _
    rw [if_pos hid, State.peekLe_keepBound, hkept, hbind] at hload
    refine ⟨_, hload, (SameTables.modCtx u c _).trans (.finish _ c i _), State.phase_finish _ (m := m) ?_ _,
      fun _ k m0 hk hm0 hq ht => ?_⟩
    · rw [State.ctx_modCtx_same, Context.keepTable_from _ _ (Nat.le_refl i), hcmds, hcmd]
    · rw [State.cmds_finish_other _ (Nat.ne_of_lt hk), State.ctx_modCtx_same, Context.keepTable_queued _ hk (hcmds ▸ hm0) hq ht]
      rfl
  · rw [if_neg hid, hinst] at hload
    exact ⟨_, hload, .finish u c i _, State.phase_finish _ (hcmds ▸ hcmd) _, fun h => absurd h hid⟩

end

/-! ### The obligation -/

/-- Settles O42: the load's answer is the install's (`exec_tableLoad_installs`), whose equation for each table id gives the tables. -/
theorem tableLoadInstallsImage : Obligations.TableLoadInstallsImage := by
  unfold Obligations.TableLoadInstallsImage
  intro s q c i m hat hcmd hidle hfree hgood hread n img
  have before : SameTables s q := .of_readImageRaw hread
  have answer {r u} (h : q.install c (m.f 128 4) n img = (r, u)) := exec_tableLoad_installs hat hidle hfree hgood hread hcmd h
  refine ⟨?refused, ?formats, ?ramp, ?risk, ?stall, ?prio, ?rescale⟩
  case refused =>
    intro r u h
    obtain ⟨t, hexec, after, hphase, -⟩ := answer h
    obtain rfl := State.install_refused h
    have same := before.trans after
    exact ⟨t, hexec, hphase, same.fmts, same.rts, same.rampNext, same.riskTab, same.stallMap, same.prioNext⟩
  case formats =>
    intro hid hok
    obtain ⟨t, hexec, after, hphase, -⟩ := answer (hid ▸ q.install_formats c n img hok)
    exact ⟨t, hexec, hphase, after.fmts⟩
  case ramp =>
    intro hid hok
    obtain ⟨t, hexec, after, hphase, -⟩ := answer (hid ▸ q.install_ramp c n img hok)
    exact ⟨t, hexec, hphase, after.rampNext, after.rampTab.trans before.rampTab⟩
  case risk =>
    intro hid hok
    obtain ⟨t, hexec, after, hphase, -⟩ := answer (hid ▸ q.install_risk c n img hok)
    exact ⟨t, hexec, hphase, after.riskTab, congrArg Risk.ticks after.risk, by rw [after.risk, ← before.risk]⟩
  case stall =>
    intro hid hok
    obtain ⟨t, hexec, after, hphase, -⟩ := answer (hid ▸ q.install_stall c n img hok)
    refine ⟨t, hexec, hphase, fun k => ?_⟩
    rw [after.stallMap]
    exact Vector.getElem_ofFn k.isLt
  case prio =>
    intro hid hok
    obtain ⟨t, hexec, after, hphase, -⟩ := answer (hid ▸ q.install_prio c n img hok)
    exact ⟨t, hexec, hphase, after.prio.trans before.prio, after.prioNext⟩
  case rescale =>
    intro hlow hhigh u h
    obtain ⟨t, hexec, after, hphase, hkept⟩ := answer h
    refine ⟨t, hexec, hphase, after.rt _, fun j hj => ?_, hkept ⟨hlow, hhigh⟩⟩
    have hother : u.rt j = q.rt j := by
      rw [State.install_rescale _ _ _ _ ⟨hlow, hhigh⟩] at h
      exact (congrArg (fun p => State.rt p.2 j) h).symm.trans (q.rt_loadRescale_other c _ hj _)
    rw [after.rt, hother, before.rt]

end Sys2Proof.Machine
end

section
/-! SUPPORT. DRAIN (R47, R48, R91, R322): what promoting a lane group's bank makes of the state, what an interval's commit counts, and that
the tile's way on from there keeps every slot's sums, the banks and the counts of units. -/

namespace Sys2Proof.Machine

/-! ### The sums and the counts of units stay -/

/-- In `t` every slot holds what it holds in `s`, its state (ACTIVE, HELD, WRITEBACK) apart; the lane bank is the same, the slice in progress
and the notes of R45 apart; and every context has counted the same number of units. -/
structure SameSums (s t : State) : Prop where
  slot : ∀ k, t.slot k = { s.slot k with state := (t.slot k).state }
  lane : t.lane = { s.lane with slice := t.lane.slice, endedInA := t.lane.endedInA }
  units : ∀ d, (t.ctx d).unitsDone = (s.ctx d).unitsDone

section
variable {s t u : State}

theorem SameSums.of_same (hslots : t.slots = s.slots) (hlane : t.lane = s.lane) (hctxs : t.ctxs = s.ctxs) : SameSums s t := by
  refine ⟨fun k => ?_, by rw [hlane], fun d => by rw [State.ctx, hctxs, State.ctx]⟩
  rw [State.slot, hslots, State.slot]

theorem SameSums.refl (s : State) : SameSums s s := .of_same rfl rfl rfl

theorem SameSums.trans (h : SameSums s t) (k : SameSums t u) : SameSums s u where
  slot i := (k.slot i).trans (congrArg (fun x : Slot => { x with state := (u.slot i).state }) (h.slot i))
  lane := k.lane.trans (congrArg (fun l : Lane => { l with slice := u.lane.slice, endedInA := u.lane.endedInA }) h.lane)
  units d := (k.units d).trans (h.units d)

theorem SameSums.elems (h : SameSums s t) (k : Nat) : (t.slot k).elems = (s.slot k).elems := by rw [h.slot k]

theorem SameSums.bad (h : SameSums s t) (k : Nat) : (t.slot k).bad = (s.slot k).bad := by rw [h.slot k]

theorem SameSums.acc (h : SameSums s t) (k : Nat) : (t.slot k).acc = (s.slot k).acc := by rw [h.slot k]

end

section
variable (s : State) (c : CtxNo)

theorem SameSums.modCtx {f : Context → Context} (hf : ∀ x, (f x).unitsDone = x.unitsDone) : SameSums s (s.modCtx c f) := by
  refine ⟨fun _ => rfl, rfl, fun d => ?_⟩
  rw [State.ctx_modCtx]
  split
  next hd => rw [hf, hd]
  next => rfl

theorem SameSums.putState (k : Nat) (x : SlotState) : SameSums s (s.modSlot k (fun y => { y with state := x })) := by
  refine ⟨fun j => ?_, rfl, fun _ => rfl⟩
  rw [State.slot_modSlot]
  split
  next hj => rw [hj.1]
  next => rfl

theorem SameSums.putSliceEnds (r : Option SliceRun) (e : List Nat) :
    SameSums s { s with lane := { s.lane with slice := r, endedInA := e } } := ⟨fun _ => rfl, rfl, fun _ => rfl⟩

theorem SameSums.foldl {α : Type} {f : State → α → State} (hf : ∀ s a, SameSums s (f s a)) (l : List α) : SameSums s (l.foldl f s) := by
  induction l generalizing s with
  | nil => exact .refl s
  | cons a l ih => exact (hf s a).trans (ih _)

/-! ### Commands and their records -/

theorem SameSums.setPhase (i : Nat) (p : Phase) : SameSums s (s.setPhase c i p) :=
  .modCtx s c fun x => by split <;> rfl

theorem SameSums.finish (i : Nat) (r : Reply) : SameSums s (s.finish c i r) := by
  have hunwait : SameSums s (s.unwaitCmd c i) := .of_same (by simp) (by simp) (by simp)
  have hunpin (t : State) : SameSums t (t.unpin c) := .modCtx t c fun x => by split <;> rfl
  exact (hunwait.trans (.setPhase _ c i _)).trans (hunpin _)

theorem SameSums.pokeN (va : Nat) (l : List Byte) : SameSums s (s.pokeN c va l) :=
  .of_same (s.pokeN_slots c va l) (s.pokeN_lane c va l) (s.pokeN_ctxs c va l)

theorem SameSums.postEntry (e : BitVec 256) : SameSums s (s.postEntry c e) := by
  unfold State.postEntry
  exact (SameSums.pokeN s c _ _).trans (.modCtx _ c fun _ => rfl)

theorem SameSums.pulse (line : Nat) : SameSums s (s.pulse line) := .of_same rfl rfl rfl

theorem SameSums.postEvent (r : EventRec) : SameSums s (s.postEvent c r) := by
  have hposted (e : BitVec 256) : SameSums s ((s.postEntry c e).modCtx c (fun y => if r.room.isSome then y else { y with lost := 0 })) :=
    (SameSums.postEntry s c e).trans (.modCtx _ c fun x => by split <;> rfl)
  unfold State.postEvent
  dsimp only
  split
  · exact (hposted _).trans (.pulse _ _)
  · exact hposted _

theorem SameSums.takeEntry (r : EventRec) : SameSums s (s.takeEntry c r) := by
  have hready : SameSums s (s.ringReady c (s.ctx c).cplAddr true).2 := .of_same (by simp) (by simp) (by simp)
  unfold State.takeEntry
  dsimp only
  split
  · exact hready.trans (.postEvent _ c r)
  · exact hready.trans (.modCtx _ c fun _ => rfl)

theorem SameSums.event (k : Byte) (p : BitVec 128) : SameSums s (s.event c k p) := by
  have hseq : SameSums s (s.modCtx c (fun y => { y with eventSeq := y.eventSeq + 1 })) := .modCtx s c fun _ => rfl
  unfold State.event
  split
  · exact .refl s
  · dsimp only
    split
    · exact hseq.trans (.takeEntry _ c _)
    · split
      · exact hseq.trans (.modCtx _ c fun _ => rfl)
      · exact hseq.trans (.modCtx _ c fun _ => rfl)

/-! ### A product command's end (R98, R107, R183, R186) -/

theorem SameSums.leaveChain (e : Nat) (cause : BitVec 2) (beat : Nat) : SameSums s (s.leaveChain e cause beat) := by
  unfold State.leaveChain
  dsimp only
  refine SameSums.trans ?_ (.event _ _ _ _)
  split
  · exact .of_same rfl rfl rfl
  · exact .of_same rfl rfl rfl

theorem SameSums.putChain (e : Nat) (k : Chain) (out : List ChainMsg) : SameSums s { s.setChain e k with chainOut := out } :=
  .of_same rfl rfl rfl

theorem SameSums.finishChain (e : Nat) : SameSums s (s.finishChain e) := by
  unfold State.finishChain
  dsimp only
  split
  · exact (SameSums.leaveChain s e _ _).trans (.putChain _ e _ _)
  · exact .putChain s e _ _

theorem SameSums.chainEnd (m : Cmd) : SameSums s (s.chainEnd m) := by
  unfold State.chainEnd
  split
  · exact .refl s
  · split
    · split
      · exact .finishChain s _
      · exact .refl s
    · exact .refl s

theorem SameSums.holdSlots (ks : List Nat) : SameSums s (s.holdSlots ks) :=
  .foldl s (fun t k => .putState t k .held) ks

theorem SameSums.productEnd (i : Nat) (m : Cmd) (j : ProdJob) (status : Byte) : SameSums s (s.productEnd c i m j status) := by
  have hheld : SameSums s ((s.chainEnd m).holdSlots j.mine) := (SameSums.chainEnd s m).trans (.holdSlots _ _)
  unfold State.productEnd
  dsimp only
  split
  · split
    · exact hheld.trans (.setPhase _ c i _)
    · exact hheld.trans (.finish _ c i _)
  · exact hheld.trans (.finish _ c i _)

/-! ### A tile's way on after its last interval (R82, R98, R107, R241) -/

theorem SameSums.leaveTile (i : Nat) (m : Cmd) (j : ProdJob) (n : Nat) : SameSums s (s.leaveTile c i m j n) := by
  unfold State.leaveTile
  dsimp only
  split
  · exact .productEnd s c i m _ _
  · exact .setPhase s c i _

theorem SameSums.residentDone (i : Nat) (m : Cmd) (j : ProdJob) (n k tiles : Nat) : SameSums s (s.residentDone c i m j n k tiles) := by
  have hheld (more : Bool) : SameSums s (if more then s else s.holdSlots [k]) := by
    split
    · exact .refl s
    · exact .holdSlots s [k]
  unfold State.residentDone
  dsimp only
  split
  · exact (hheld _).trans (.setPhase _ c i _)
  · exact (hheld _).trans (.leaveTile _ c i m _ n)

theorem SameSums.tileIn (i : Nat) (m : Cmd) (j : ProdJob) (n slot : Nat) (res : Bool) (tiles : Nat) :
    SameSums s (s.tileIn c i m j n slot res tiles) := by
  unfold State.tileIn
  split
  · split
    · exact .setPhase s c i _
    · exact .residentDone s c i m j n slot tiles
  · exact (SameSums.putState s slot .writeback).trans (.setPhase _ c i _)

theorem SameSums.turnTile : SameSums s (s.turnTile c) := by
  unfold State.turnTile
  dsimp only
  split
  · exact .refl s
  · exact .of_same rfl rfl rfl

theorem SameSums.noteEnd (pos : Nat) (endA : Bool) : SameSums s { s with lane := s.lane.noteEnd pos endA } :=
  .putSliceEnds s s.lane.slice _

theorem SameSums.tileDone (i : Nat) (m : Cmd) (j : ProdJob) (r : TileRun) : SameSums s (s.tileDone c i m j r) := by
  have hturn : SameSums s (if j.lead = m.seq then s.turnTile c else s) := by
    split
    · exact .turnTile s c
    · exact .refl s
  unfold State.tileDone
  dsimp only
  split
  · split
    · exact (hturn.trans (.noteEnd _ _ _)).trans (.setPhase _ c i _)
    · exact (hturn.trans (.noteEnd _ _ _)).trans (.setPhase _ c i _)
  · exact (hturn.trans (.noteEnd _ _ _)).trans (.tileIn _ c i m _ _ _ _ _)

theorem SameSums.endSlice (cut : Bool) : SameSums s (s.endSlice c cut) :=
  (SameSums.putSliceEnds s none _).trans (.modCtx _ c fun x => by split <;> rfl)

theorem SameSums.trySliceEnd : SameSums s s.trySliceEnd := by
  unfold State.trySliceEnd
  split
  · exact .refl s
  · split
    · exact .endSlice s _ _
    · exact .refl s

theorem SameSums.endOverrun : SameSums s (s.endOverrun c) := by
  unfold State.endOverrun
  exact .modCtx s c fun _ => rfl

end

/-! ### The commit of an interval (R91, R239) -/

/-- An interval is counted: its slot's word counts a drain, and its context a unit. -/
def State.countInterval (s : State) (it : Interval) : State :=
  (s.modSlot it.slot (fun x => { x with acc := accDrain x.acc (if it.prescaled then 8 else 0) })).modCtx it.ctx
    (fun x => x.unitCommit s.now it.start it.raw)

section
variable (s : State) {it : Interval}

theorem State.slot_countInterval (hslot : it.slot < 48) : (s.countInterval it).slot it.slot =
    { s.slot it.slot with acc := accDrain (s.slot it.slot).acc (if it.prescaled then 8 else 0) } := by
  rw [State.countInterval, State.slot_modCtx, State.slot_modSlot, if_pos ⟨rfl, hslot⟩]

theorem State.unitsDone_countInterval (it : Interval) :
    ((s.countInterval it).ctx it.ctx).unitsDone = (s.ctx it.ctx).unitsDone + 1 := by
  rw [State.countInterval, State.ctx_modCtx_same]
  rfl

/-- Once it is counted, an interval's commit only leads the tile and the slice on. -/
theorem SameSums.commitInterval (it : Interval) : SameSums (s.countInterval it) (s.commitInterval it) := by
  have hover : SameSums (s.countInterval it) ((s.countInterval it).endOverrun it.ctx) := .endOverrun _ _
  unfold State.commitInterval
  dsimp only
  split
  · exact hover
  · split
    · split
      · refine (hover.trans ?_).trans (.trySliceEnd _)
        split
        · exact .tileDone _ _ _ _ _ _
        · exact .setPhase _ _ _ _
      · exact hover
    · exact hover

end

/-! ### A lane group drains its bank (R47, R48, R322) -/

/-- A slot once lane group `g` has promoted its part of an interval into it, whole words of an empty slot being rewritten (R322). -/
def Slot.takeBank (x : Slot) (it : Interval) (empty : Bool) (cells : Tbl (BitVec 20)) (g : Nat) : Slot :=
  let y := (if empty then x.rewrite it g else x).drain it cells g
  { y with acc := accSet y.acc (⟨it.sat, it.nf⟩ : Flag).bits }

/-- The state once lane group `g` has promoted its bank's part of an interval and emptied the bank, `rest` being left to drain. -/
def State.promoteBank (s : State) (it : Interval) (g : Fin 16) (b : Bool) (rest : List (Fin 16 × Bool)) : State :=
  { s.modSlot it.slot (fun x => x.takeBank it (s.intoEmpty it) (s.lane.bank g b).cells g.val) with
    lane := ({ s.lane with drains := rest }).emptyBank g b }

section
variable {s : State} {it : Interval} {g h : Fin 16} {b : Bool} {rest : List (Fin 16 × Bool)}

theorem State.slot_promoteBank (hslot : it.slot < 48) : (s.promoteBank it h b rest).slot it.slot =
    (s.slot it.slot).takeBank it (s.intoEmpty it) (s.lane.bank h b).cells h.val :=
  (s.slot_modSlot it.slot it.slot (fun x => x.takeBank it (s.intoEmpty it) (s.lane.bank h b).cells h.val)).trans (if_pos ⟨rfl, hslot⟩)

theorem State.slot_promoteBank_other {k : Nat} (hk : k ≠ it.slot) : (s.promoteBank it h b rest).slot k = s.slot k :=
  (s.slot_modSlot it.slot k (fun x => x.takeBank it (s.intoEmpty it) (s.lane.bank h b).cells h.val)).trans (if_neg fun e => hk e.1)

/-- A lane group that is not next, or whose Clamp adders are taken, waits. -/
theorem State.drainGroup_waits (hnext : s.lane.drains = (h, b) :: rest) (hwait : h ≠ g ∨ 4 * s.now < s.lane.adders) :
    s.drainGroup g = s := by
  unfold State.drainGroup
  rw [hnext]
  exact if_pos hwait

/-- The lane group that is next promotes its bank; the interval is committed when no bank holds it any more. -/
theorem State.drainGroup_next (hnext : s.lane.drains = (h, b) :: rest) (hfree : s.lane.adders ≤ 4 * s.now)
    (hbank : (s.lane.bank h b).interval = some it) : s.drainGroup h =
      if (s.promoteBank it h b rest).lane.drained it then (s.promoteBank it h b rest).commitInterval it
      else s.promoteBank it h b rest := by
  have hgo : ¬ (h ≠ h ∨ 4 * s.now < s.lane.adders) := by omega
  unfold State.drainGroup
  simp only [hnext, if_neg hgo, hbank]
  rfl

theorem exec_drain (hup : s.up = true) (g : Fin 16) : exec (.drain g) s = .next (s.drainGroup g) :=
  congrArg Host.Outcome.next (if_pos hup)

end

/-! ### The obligation -/

/-- Settles O48: the drain is `promoteBank`, followed by `commitInterval` when no bank holds the interval any more; what the commit leads
on keeps the sums and counts (`SameSums.commitInterval`). -/
theorem drainPromotesLaneGroup : Obligations.DrainPromotesLaneGroup := by
  unfold Obligations.DrainPromotesLaneGroup
  intro s it h g b rest hup hnext bank y word l hbank hslot
  let p := s.promoteBank it h b rest
  have hpromoted : p.slot it.slot = { y with acc := word } := State.slot_promoteBank hslot
  have hdrain (hfree : s.lane.adders ≤ 4 * s.now) :
      exec (.drain h) s = .next (if l.drained it then p.commitInterval it else p) :=
    (exec_drain hup h).trans (congrArg _ (State.drainGroup_next hnext hfree hbank))
  refine ⟨fun hwait => ?waits, fun hfree hleft => ?promotes, fun hfree hdone => ?commits⟩
  case waits =>
    rw [exec_drain hup, State.drainGroup_waits hnext (hwait.imp_left Ne.symm)]
  case promotes =>
    refine ⟨p, ?_, rfl, hpromoted, fun k hk => State.slot_promoteBank_other hk⟩
    rw [hdrain hfree, if_neg (Bool.eq_false_iff.1 hleft)]
  case commits =>
    have kept : SameSums (p.countInterval it) (p.commitInterval it) := .commitInterval p it
    have hcounted := p.slot_countInterval hslot
    rw [hpromoted] at hcounted
    refine ⟨p.commitInterval it, ?next, ?elems, ?bad, ?acc, kept.lane, ?units⟩
    case next => rw [hdrain hfree, if_pos hdone]
    case elems => rw [kept.elems, hcounted]
    case bad => rw [kept.bad, hcounted]
    case acc => rw [kept.acc, hcounted]
    case units => rw [kept.units, p.unitsDone_countInterval]; rfl

end Sys2Proof.Machine
end

section
/-! SUPPORT. SEGMENT_MERGE and MERGE_ADDITION (R82, R98, R110): slots that are merged, freed and held, and that a tile's way on from there
touches no slot but those it holds. -/

namespace Sys2Proof.Machine

/-! ### Slots that become HELD, and nothing else -/

/-- Every slot is in `t` what it is in `s`, but that some of `ks` may be HELD in `t`. -/
structure HoldsOnly (ks : List Nat) (s t : State) : Prop where
  slot : ∀ k, t.slot k = s.slot k ∨ k ∈ ks ∧ t.slot k = { s.slot k with state := .held }

section
variable {s t u : State} {ks ls : List Nat}

theorem HoldsOnly.of_slots (h : t.slots = s.slots) : HoldsOnly ks s t := ⟨fun k => .inl (by rw [State.slot, h, State.slot])⟩

theorem HoldsOnly.refl (ks : List Nat) (s : State) : HoldsOnly ks s s := .of_slots rfl

theorem HoldsOnly.trans (h : HoldsOnly ks s t) (k : HoldsOnly ks t u) : HoldsOnly ks s u := by
  refine ⟨fun i => ?_⟩
  obtain hu | ⟨hi, hu⟩ := k.slot i
  · rw [hu]
    exact h.slot i
  · obtain ht | ⟨-, ht⟩ := h.slot i
    · exact .inr ⟨hi, by rw [hu, ht]⟩
    · exact .inr ⟨hi, by rw [hu, ht]⟩

theorem HoldsOnly.mono (h : HoldsOnly ks s t) (hsub : ks ⊆ ls) : HoldsOnly ls s t :=
  ⟨fun k => (h.slot k).imp_right (And.imp_left fun hk => hsub hk)⟩

theorem HoldsOnly.slot_other (h : HoldsOnly ks s t) {k : Nat} (hk : k ∉ ks) : t.slot k = s.slot k :=
  (h.slot k).resolve_right fun e => hk e.1

/-- But for its state a slot is the same. -/
theorem HoldsOnly.slot_eq (h : HoldsOnly ks s t) (k : Nat) : t.slot k = { s.slot k with state := (t.slot k).state } := by
  obtain e | ⟨-, e⟩ := h.slot k
  · rw [e]
  · rw [e]

theorem HoldsOnly.elems (h : HoldsOnly ks s t) (k : Nat) : (t.slot k).elems = (s.slot k).elems := by rw [h.slot_eq k]

theorem HoldsOnly.acc (h : HoldsOnly ks s t) (k : Nat) : (t.slot k).acc = (s.slot k).acc := by rw [h.slot_eq k]

theorem HoldsOnly.state (h : HoldsOnly ks s t) (k : Nat) : (t.slot k).state = .held ∨ (t.slot k).state = (s.slot k).state := by
  obtain e | ⟨-, e⟩ := h.slot k
  · exact .inr (by rw [e])
  · exact .inl (by rw [e])

end

section
variable (s : State) (c : CtxNo) (i : Nat) (m : Cmd) (j : ProdJob)

theorem HoldsOnly.holdSlots (ks : List Nat) : HoldsOnly ks s (s.holdSlots ks) := by
  induction ks generalizing s with
  | nil => exact .refl [] s
  | cons k ks ih =>
    refine HoldsOnly.trans (t := s.modSlot k fun x => { x with state := .held }) ⟨fun l => ?_⟩
      ((ih _).mono fun _ h => List.mem_cons_of_mem k h)
    rw [State.slot_modSlot]
    split
    next hl => exact .inr ⟨hl.1 ▸ List.mem_cons_self, by rw [hl.1]⟩
    next => exact .inl rfl

theorem State.chainEnd_slots : (s.chainEnd m).slots = s.slots := by
  have h : Fr (.free :: .core :: .remote :: .evt :: .tlb :: .walks :: .chains :: .chainOut :: .tel :: everyCtx) s (s.chainEnd m) := by
    apply Fr.chainEnd (Fr.refl _ s) <;> simp [everyCtx]
  exact h.same .slots (by simp [everyCtx])

theorem HoldsOnly.productEnd (status : Byte) : HoldsOnly j.mine s (s.productEnd c i m j status) := by
  have held : HoldsOnly j.mine s ((s.chainEnd m).holdSlots j.mine) :=
    (HoldsOnly.of_slots (s.chainEnd_slots m)).trans (.holdSlots _ _)
  unfold State.productEnd
  dsimp only
  split
  · split
    · exact held.trans (.of_slots (State.setPhase_slots _ c i _))
    · exact held.trans (.of_slots (State.finish_slots _ c i _))
  · exact held.trans (.of_slots (State.finish_slots _ c i _))

theorem HoldsOnly.leaveTile (n : Nat) : HoldsOnly j.mine s (s.leaveTile c i m j n) := by
  unfold State.leaveTile
  dsimp only
  split
  · exact .productEnd s c i m _ _
  · exact .of_slots (State.setPhase_slots s c i _)

/-- A tile that is in its resident slot `k` holds no slots but `k` and those its command holds at its end. -/
theorem HoldsOnly.residentDone (n k tiles : Nat) : HoldsOnly (k :: j.mine) s (s.residentDone c i m j n k tiles) := by
  have hheld (more : Bool) : HoldsOnly (k :: j.mine) s (if more then s else s.holdSlots [k]) := by
    split
    · exact .refl _ s
    · exact (HoldsOnly.holdSlots s [k]).mono (List.cons_subset_cons k (List.nil_subset j.mine))
  have hmine (more : Bool) : (if more then j.mine else j.mine.filter (· != k)) ⊆ k :: j.mine := by
    split
    · exact List.subset_cons_self k j.mine
    · exact fun _ h => List.mem_cons_of_mem k (List.mem_filter.1 h).1
  unfold State.residentDone
  dsimp only
  split
  · exact (hheld _).trans (.of_slots (State.setPhase_slots _ c i _))
  · exact (hheld _).trans ((HoldsOnly.leaveTile _ c i m _ n).mono (hmine _))

/-! ### A product that is not chained writes no memory at a tile's end -/

theorem State.slot_useAdders (quarters k : Nat) : (s.useAdders quarters).slot k = s.slot k := rfl

theorem SameMem.useAdders (quarters : Nat) : SameMem s (s.useAdders quarters) := .of_eq rfl rfl

theorem SameMem.holdSlots (ks : List Nat) : SameMem s (s.holdSlots ks) := by
  have h : Fr [.slots] s (s.holdSlots ks) := Fr.holdSlots (Fr.refl _ s) ks (by simp)
  exact .of_eq (h.same .core (by simp)) (h.same .remote (by simp))

variable {m}

theorem State.chainEnd_unchained (h : m.chainNo = 0) : s.chainEnd m = s := if_pos (.inr h)

theorem SameMem.productEnd (h : m.chainNo = 0) (status : Byte) : SameMem s (s.productEnd c i m j status) := by
  have hheld : SameMem s ((s.chainEnd m).holdSlots j.mine) := by
    rw [State.chainEnd_unchained s h]
    exact .holdSlots s _
  unfold State.productEnd
  dsimp only
  split
  · split
    · exact hheld.trans (.of_eq rfl rfl)
    · exact hheld.trans (.of_eq (by simp) (by simp))
  · exact hheld.trans (.of_eq (by simp) (by simp))

theorem SameMem.leaveTile (h : m.chainNo = 0) (n : Nat) : SameMem s (s.leaveTile c i m j n) := by
  unfold State.leaveTile
  dsimp only
  split
  · exact .productEnd s c i _ h _
  · exact .of_eq rfl rfl

theorem SameMem.residentDone (h : m.chainNo = 0) (n k tiles : Nat) : SameMem s (s.residentDone c i m j n k tiles) := by
  have hheld (more : Bool) : SameMem s (if more then s else s.holdSlots [k]) := by
    split
    · exact .refl s
    · exact .holdSlots s [k]
  unfold State.residentDone
  dsimp only
  split
  · exact (hheld _).trans (.of_eq rfl rfl)
  · exact (hheld _).trans (.leaveTile _ c i _ h n)

end

/-! ### The tile that a merge takes -/

section
variable {s : State} {c : CtxNo} {x : LanePart}

/-- A tile found in a phase is a tile of the command at its place. -/
theorem State.cmd_of_firstRun {ph : TilePhase} (h : s.firstRun c ph = some x) : (s.ctx c).cmds[x.place]? = some x.cmd := by
  unfold State.firstRun at h
  obtain ⟨y, -, hy⟩ := Option.bind_eq_some_iff.1 h
  unfold State.runAt at hy
  split at hy
  · cases hy
  next m hm =>
    split at hy
    next j hj =>
      simp only [State.partOf, hj, ne_eq, not_true_eq_false, if_false] at hy
      split at hy
      next => cases hy; exact hm
      next => cases hy
    next => cases hy

theorem State.lt_of_residentFor {m : Cmd} {b : TileSpec} {k : Nat} (h : s.residentFor c m b = some k) : k < 48 := by
  simp only [State.residentFor] at h
  split at h
  · have hk := List.mem_of_find?_eq_some h
    simp only [State.matched, List.mem_filter, List.mem_range] at hk
    exact hk.1
  · cases h

end

/-! ### Slots freed one after another -/

/-- The slots `ks` freed. -/
def State.releaseSlots (s : State) (ks : List Nat) : State := ks.foldl (fun t k => t.modSlot k Slot.release) s

section
variable (s : State) {ks : List Nat} {k : Nat}

theorem State.slot_releaseSlots_other (hk : k ∉ ks) : (s.releaseSlots ks).slot k = s.slot k := by
  induction ks generalizing s with
  | nil => rfl
  | cons l ks ih =>
    rw [List.mem_cons, not_or] at hk
    obtain ⟨hl, hks⟩ := hk
    rw [State.releaseSlots, List.foldl_cons, ← State.releaseSlots, ih _ hks, State.slot_modSlot, if_neg fun e => hl e.1]

theorem State.slot_releaseSlots (hlt : ∀ l ∈ ks, l < 48) (hnodup : ks.Nodup) (hk : k ∈ ks) :
    (s.releaseSlots ks).slot k = (s.slot k).release := by
  induction ks generalizing s with
  | nil => cases hk
  | cons l ks ih =>
    obtain ⟨hl, hks⟩ := List.nodup_cons.1 hnodup
    rw [State.releaseSlots, List.foldl_cons, ← State.releaseSlots]
    obtain rfl | hk := List.mem_cons.1 hk
    · rw [State.slot_releaseSlots_other _ hl, State.slot_modSlot, if_pos ⟨rfl, hlt k List.mem_cons_self⟩]
    · have hne : k ≠ l := fun e => hl (e ▸ hk)
      rw [ih _ (fun i hi => hlt i (List.mem_cons_of_mem l hi)) hks hk, State.slot_modSlot, if_neg fun e => hne e.1]

theorem State.releaseSlots_frame (ks : List Nat) : s.releaseSlots ks = { s with slots := (s.releaseSlots ks).slots } := by
  induction ks generalizing s with
  | nil => rfl
  | cons l ks ih =>
    rw [State.releaseSlots, List.foldl_cons, ← State.releaseSlots, ih]
    rfl

end

/-! ### Segments (R82) -/

/-- The slots of a tile's later segments, in ascending order. -/
def LanePart.laterSlots (x : LanePart) : List Nat := (x.job.runs.filter (fun q => q.tile != x.run.tile)).map (fun q => q.slot)

/-- The slot `base` with the slots `later` added into it one after another. -/
def State.segmentSum (s : State) (base : Nat) (later : List Nat) : Slot := later.foldl (fun z k => z.merge (s.slot k)) (s.slot base)

/-- The state once the segments in the slots `later` are added into the slot `base` and freed. -/
def State.mergeSegments (s : State) (base : Nat) (later : List Nat) : State :=
  (s.setSlot base (s.segmentSum base later)).releaseSlots later

section
variable (s : State) {base k : Nat} {later : List Nat}

theorem SameMem.mergeSegments (base : Nat) (later : List Nat) : SameMem s (s.mergeSegments base later) := by
  rw [State.mergeSegments, State.releaseSlots_frame]
  exact .of_eq rfl rfl

theorem State.ctx_mergeSegments (base : Nat) (later : List Nat) (d : CtxNo) : (s.mergeSegments base later).ctx d = s.ctx d := by
  rw [State.mergeSegments, State.releaseSlots_frame]
  rfl

theorem State.slot_mergeSegments_base (hbase : base < 48) (hnot : base ∉ later) :
    (s.mergeSegments base later).slot base = s.segmentSum base later := by
  rw [State.mergeSegments, State.slot_releaseSlots_other _ hnot, State.slot_setSlot, if_pos ⟨rfl, hbase⟩]

theorem State.slot_mergeSegments_later (hlt : ∀ l ∈ later, l < 48) (hnodup : (base :: later).Nodup) (hk : k ∈ later) :
    (s.mergeSegments base later).slot k = (s.slot k).release := by
  obtain ⟨hbase, hlater⟩ := List.nodup_cons.1 hnodup
  have hne : k ≠ base := fun e => hbase (e ▸ hk)
  rw [State.mergeSegments, State.slot_releaseSlots _ hlt hlater hk, State.slot_setSlot, if_neg fun e => hne e.1]

theorem State.slot_mergeSegments_other (hk : k ∉ base :: later) : (s.mergeSegments base later).slot k = s.slot k := by
  rw [List.mem_cons, not_or] at hk
  rw [State.mergeSegments, State.slot_releaseSlots_other _ hk.2, State.slot_setSlot, if_neg fun e => hk.1 e.1]

variable {s} {c : CtxNo} {x : LanePart}

/-- A SEGMENT_MERGE merges the segments of the tile, which then goes on as its first segment. -/
theorem exec_segmentMerge (hactive : s.active c = true) (hrun : s.firstRun c .segMerge = some x) : exec (.segmentMerge c) s = .next
    (((s.mergeSegments x.run.slot x.laterSlots).useAdders (2 * x.tile.rows.length * x.laterSlots.length)).tileIn c x.place x.cmd
      { x.job with runs := [x.run] } x.run.tile x.run.slot x.run.resident (x.laterSlots.length + 1)) := by
  refine congrArg Host.Outcome.next (?_ : s.segMerge c = _)
  unfold State.segMerge
  rw [hactive, hrun]
  rfl

end

/-! ### Where the tile goes on (R82, R110) -/

section
variable (s : State) (c : CtxNo) (i : Nat) (m : Cmd) (j : ProdJob) (r : TileRun) (k tiles : Nat)

theorem SameMem.setJob : SameMem s (s.setJob c i j) := .of_eq rfl rfl

theorem State.slot_setJob (l : Nat) : (s.setJob c i j).slot l = s.slot l := rfl

variable {m j r}

theorem State.tileIn_transient (hruns : j.runs = [r]) : s.tileIn c i m j r.tile k false tiles =
    (s.modSlot k (fun y => { y with state := .writeback })).setJob c i { j with runs := [{ r with phase := .writeBack, row := j.wbFrom }] } := by
  simp [State.tileIn, ProdJob.modRun, hruns]

theorem State.tileIn_merge (hruns : j.runs = [r]) (hm : m.bit 12 = true) : s.tileIn c i m j r.tile k true tiles =
    s.setJob c i { j with runs := [{ r with phase := .mergeAdd }] } := by
  simp [State.tileIn, ProdJob.modRun, hruns, hm]

theorem State.tileIn_resident (hm : m.bit 12 = false) (n : Nat) :
    s.tileIn c i m j n k true tiles = s.residentDone c i m j n k tiles := by
  simp [State.tileIn, hm]

end

/-! ### Shadow slots (R110) -/

/-- The state once the shadow slot `sh` is added into the resident slot `k` and freed. -/
def State.mergeShadow (s : State) (k sh : Nat) : State :=
  (s.setSlot k { (s.slot k).merge (s.slot sh) with state := .active }).modSlot sh Slot.release

section
variable (s : State) {k sh : Nat}

theorem SameMem.mergeShadow (k sh : Nat) : SameMem s (s.mergeShadow k sh) := .of_eq rfl rfl

theorem State.slot_mergeShadow_resident (hk : k < 48) (hne : sh ≠ k) :
    (s.mergeShadow k sh).slot k = { (s.slot k).merge (s.slot sh) with state := .active } := by
  rw [State.mergeShadow, State.slot_modSlot, if_neg fun e => hne e.1.symm, State.slot_setSlot, if_pos ⟨rfl, hk⟩]

theorem State.slot_mergeShadow_shadow (hsh : sh < 48) (hne : sh ≠ k) : (s.mergeShadow k sh).slot sh = (s.slot sh).release := by
  rw [State.mergeShadow, State.slot_modSlot, if_pos ⟨rfl, hsh⟩, State.slot_setSlot, if_neg fun e => hne e.1]

theorem State.slot_mergeShadow_other {l : Nat} (hk : l ≠ k) (hsh : l ≠ sh) : (s.mergeShadow k sh).slot l = s.slot l := by
  rw [State.mergeShadow, State.slot_modSlot, if_neg fun e => hsh e.1, State.slot_setSlot, if_neg fun e => hk e.1]

variable {s} {c : CtxNo} {x : LanePart}

/-- A MERGE_ADDITION that nothing holds back adds the shadow into its resident slot, which the command then has among its own. -/
theorem exec_mergeAddition (hactive : s.active c = true) (hrun : s.firstRun c .mergeAdd = some x)
    (hres : s.residentFor c x.cmd x.tile = some k) (hfree : x.job.mine.contains k = true ∨ (s.slot k).state = .held)
    (hfirst : s.noEarlierWriter c x.place k = true) (hcaptured : s.mustCapture c (slotUnit k) = false) :
    exec (.mergeAddition c) s = .next
      (((s.mergeShadow k x.run.slot).useAdders (2 * x.tile.rows.length)).residentDone c x.place x.cmd
        { x.job with mine := if x.job.mine.contains k then x.job.mine else x.job.mine ++ [k] } x.run.tile k
        (if x.job.split ≤ 1 then 1 else x.job.tiles.length)) := by
  have hgo : (x.job.mine.contains k || (s.slot k).state == .held) = true := by
    obtain h | h := hfree
    · rw [h, Bool.true_or]
    · rw [h, Bool.or_eq_true]; exact .inr rfl
  refine congrArg Host.Outcome.next (?_ : s.mergeAdd c = _)
  unfold State.mergeAdd
  simp only [hactive, hrun, hres, hgo, hfirst, hcaptured, Bool.not_true, Bool.or_self, Bool.false_eq_true, if_false]
  rfl

end

/-! ### The obligation -/

/-- Settles O49: the merges are `mergeSegments` and `mergeShadow`; the tile's way on after them writes its phase, or holds resident slots
and nothing else (`HoldsOnly.residentDone`). -/
theorem segmentsAndShadowsMerge : Obligations.SegmentsAndShadowsMerge := by
  unfold Obligations.SegmentsAndShadowsMerge
  intro s c r x hactive
  refine ⟨?segments, ?shadow⟩
  case segments =>
    intro hrun base later y hlt hnodup
    let p := (s.mergeSegments base later).useAdders (2 * x.tile.rows.length * later.length)
    let job := { x.job with runs := [x.run] }
    have hexec : exec (.segmentMerge c) s = .next (p.tileIn c x.place x.cmd job x.run.tile base x.run.resident (later.length + 1)) :=
      exec_segmentMerge hactive hrun
    have hcmd : (p.ctx c).cmds[x.place]? = some x.cmd :=
      (congrArg (fun z => z.cmds[x.place]?) (s.ctx_mergeSegments base later c)).trans (State.cmd_of_firstRun hrun)
    have hmem : SameMem s p := (SameMem.mergeSegments s base later).trans (.useAdders _ _)
    have hp (k : Nat) : p.slot k = (s.mergeSegments base later).slot k := State.slot_useAdders ..
    have hbase : p.slot base = y :=
      (hp base).trans (s.slot_mergeSegments_base (hlt base List.mem_cons_self) (List.nodup_cons.1 hnodup).1)
    have hlater (k : Nat) (hk : k ∈ later) : p.slot k = (s.slot k).release :=
      (hp k).trans (s.slot_mergeSegments_later (fun l hl => hlt l (List.mem_cons_of_mem base hl)) hnodup hk)
    have hother (k : Nat) (hk : k ∉ base :: later) : p.slot k = s.slot k := (hp k).trans (s.slot_mergeSegments_other hk)
    have hapart (k : Nat) (hk : k ∈ later) : k ≠ base := fun e => (List.nodup_cons.1 hnodup).1 (e ▸ hk)
    refine ⟨fun htransient => ?transient, fun hresident hmerge => ?merge, fun hresident hmerge hmine => ?resident⟩
    case transient =>
      rw [htransient, State.tileIn_transient _ _ _ _ _ rfl] at hexec
      let q := p.modSlot base (fun z => { z with state := .writeback })
      have hqbase : q.slot base = { p.slot base with state := .writeback } := by
        rw [State.slot_modSlot, if_pos ⟨rfl, hlt base List.mem_cons_self⟩]
      have hq (k : Nat) (hk : k ≠ base) : q.slot k = p.slot k := by
        rw [State.slot_modSlot, if_neg fun e => hk e.1]
      rw [hbase] at hqbase
      have hqmem : SameMem p q := .of_eq rfl rfl
      exact ⟨_, hexec, (hmem.trans hqmem).trans (.setJob ..), (q.slot_setJob ..).trans hqbase,
        fun k hk => (q.slot_setJob ..).trans ((hq k (hapart k hk)).trans (hlater k hk)),
        fun k hk => (q.slot_setJob ..).trans ((hq k fun e => hk (e ▸ List.mem_cons_self)).trans (hother k hk)),
        q.phase_setPhase hcmd _⟩
    case merge =>
      rw [hresident, State.tileIn_merge _ _ _ _ _ rfl hmerge] at hexec
      exact ⟨_, hexec, hmem.trans (.setJob ..), (p.slot_setJob ..).trans hbase,
        fun k hk => (p.slot_setJob ..).trans (hlater k hk), p.phase_setPhase hcmd _⟩
    case resident =>
      rw [hresident, State.tileIn_resident _ _ _ _ _ hmerge] at hexec
      have held : HoldsOnly (base :: job.mine) p (p.residentDone c x.place x.cmd job x.run.tile base (later.length + 1)) :=
        .residentDone ..
      generalize p.residentDone c x.place x.cmd job x.run.tile base (later.length + 1) = t at hexec held
      rw [(hmine : job.mine = [base])] at held
      have hkept (k : Nat) (hk : k ≠ base) : t.slot k = p.slot k := held.slot_other (by simp [hk])
      exact ⟨t, hexec, (held.elems base).trans (congrArg Slot.elems hbase), (held.acc base).trans (congrArg Slot.acc hbase),
        fun k hk => (hkept k (hapart k hk)).trans (hlater k hk),
        fun k hk => (hkept k fun e => hk (e ▸ List.mem_cons_self)).trans (hother k hk)⟩
  case shadow =>
    intro hrun hres hfree hfirst hcaptured hshadow hne hmine
    have hr : r < 48 := State.lt_of_residentFor hres
    let p := (s.mergeShadow r x.run.slot).useAdders (2 * x.tile.rows.length)
    let job := { x.job with mine := if x.job.mine.contains r then x.job.mine else x.job.mine ++ [r] }
    let tiles := if x.job.split ≤ 1 then 1 else x.job.tiles.length
    have hexec : exec (.mergeAddition c) s = .next (p.residentDone c x.place x.cmd job x.run.tile r tiles) :=
      exec_mergeAddition hactive hrun hres hfree hfirst hcaptured
    have hp (k : Nat) : p.slot k = (s.mergeShadow r x.run.slot).slot k := State.slot_useAdders ..
    have hmergeMem : SameMem s p := (SameMem.mergeShadow s r x.run.slot).trans (.useAdders _ _)
    have hmem (hchain : x.cmd.chainNo = 0) : SameMem s (p.residentDone c x.place x.cmd job x.run.tile r tiles) :=
      hmergeMem.trans (.residentDone p c x.place job hchain x.run.tile r tiles)
    have held : HoldsOnly (r :: job.mine) p (p.residentDone c x.place x.cmd job x.run.tile r tiles) := .residentDone ..
    generalize p.residentDone c x.place x.cmd job x.run.tile r tiles = t at hexec hmem held
    have hmerged : p.slot r = { (s.slot r).merge (s.slot x.run.slot) with state := .active } :=
      (hp r).trans (s.slot_mergeShadow_resident hr hne)
    have hkept (k : Nat) (hk : k ≠ r) (hkm : k ∉ x.job.mine) : t.slot k = p.slot k := held.slot_other (by
      simp only [job]
      split <;> simp [hk, hkm])
    have hstate := held.state r
    have hslot := held.slot_eq r
    rw [hmerged] at hstate hslot
    exact ⟨t, hexec, hmem, hstate, hslot, (hkept _ hne hmine).trans ((hp _).trans (s.slot_mergeShadow_shadow hshadow hne)),
      fun k hk hks hkm => (hkept k hk hkm).trans ((hp k).trans (s.slot_mergeShadow_other hk hks))⟩

end Sys2Proof.Machine
end

section
/-! SUPPORT. Whether a context may start a unit (R283, R293, R305), and that opening, closing, counting and writing a unit leave that, the
commands, the slots and the descriptors alone. -/

namespace Sys2Proof.Machine

/-! ### Whether a context may start a unit -/

/-- Has the context a CTX_EXPORT of context `d` whose boundary has come? -/
def Context.exportsTo (x : Context) (d : CtxNo) : Bool := x.cmds.any (fun m => m.exportDue && m.f 128 3 == d.val)

/-- What of a context's own registers says whether it may start a unit. -/
def Context.standing (x : Context) : CtxState × Bool × Option FaultRec × Bool := (x.state, x.resetting, x.fault, x.settled)

/-- A context's commands, and what says whether it may start a unit. -/
def Context.work (x : Context) : List Cmd × CtxState × Bool × Option FaultRec × Bool := (x.cmds, x.standing)

/-- What says which contexts may start a unit is in `t` as in `s`. -/
structure SameGo (s t : State) : Prop where
  eng : t.eng = s.eng
  pow : t.pow = s.pow
  effective : t.ckpt.effective = s.ckpt.effective
  standing : ∀ d, (t.ctx d).standing = (s.ctx d).standing
  exportsTo : ∀ d e, (t.ctx d).exportsTo e = (s.ctx d).exportsTo e

/-- No command, slot or descriptor differs in `t`, and the same contexts may start a unit. -/
structure SameWork (s t : State) : Prop where
  slots : t.slots = s.slots
  descs : t.descs = s.descs
  eng : t.eng = s.eng
  pow : t.pow = s.pow
  effective : t.ckpt.effective = s.ckpt.effective
  work : ∀ d, (t.ctx d).work = (s.ctx d).work

section
variable {s t u : State}

theorem State.exportHolds_iff (c : CtxNo) :
    s.exportHolds c = true ↔ (s.ctx c).settled = true ∧ ∃ d, (s.ctx d).exportsTo c = true := by
  rw [State.exportHolds, Bool.and_eq_true, List.any_eq_true]
  refine and_congr_right fun _ => ⟨?_, fun ⟨d, hd⟩ => ⟨s.ctx d, Vector.mem_toList_iff.2 (Vector.getElem_mem d.isLt), hd⟩⟩
  rintro ⟨x, hx, hexp⟩
  obtain ⟨n, hn, rfl⟩ := Vector.getElem_of_mem (Vector.mem_toList_iff.1 hx)
  exact ⟨⟨n, hn⟩, hexp⟩

theorem SameGo.trans (h : SameGo s t) (k : SameGo t u) : SameGo s u :=
  ⟨k.eng.trans h.eng, k.pow.trans h.pow, k.effective.trans h.effective, fun d => (k.standing d).trans (h.standing d),
    fun d e => (k.exportsTo d e).trans (h.exportsTo d e)⟩

/-- The same contexts may start a unit. -/
theorem SameGo.active (h : SameGo s t) (c : CtxNo) : t.active c = s.active c := by
  have hstanding := h.standing c
  simp only [Context.standing, Prod.mk.injEq] at hstanding
  obtain ⟨hstate, hresetting, hfault, hsettled⟩ := hstanding
  have hexport : t.exportHolds c = s.exportHolds c := by
    rw [Bool.eq_iff_iff, State.exportHolds_iff, State.exportHolds_iff, hsettled]
    simp only [h.exportsTo]
  simp only [State.active, State.alert, State.up, h.eng, h.pow, h.effective, hstate, hresetting, hfault, hexport]

theorem SameWork.trans (h : SameWork s t) (k : SameWork t u) : SameWork s u :=
  ⟨k.slots.trans h.slots, k.descs.trans h.descs, k.eng.trans h.eng, k.pow.trans h.pow, k.effective.trans h.effective,
    fun d => (k.work d).trans (h.work d)⟩

theorem SameWork.cmds (h : SameWork s t) (d : CtxNo) : (t.ctx d).cmds = (s.ctx d).cmds := congrArg Prod.fst (h.work d)

theorem SameWork.go (h : SameWork s t) : SameGo s t :=
  ⟨h.eng, h.pow, h.effective, fun d => congrArg Prod.snd (h.work d), fun d e => by rw [Context.exportsTo, h.cmds, Context.exportsTo]⟩

theorem SameWork.slot (h : SameWork s t) (k : Nat) : t.slot k = s.slot k := by rw [State.slot, h.slots, State.slot]

/-- An update that leaves the contexts alone. -/
theorem SameWork.of_same (hslots : t.slots = s.slots) (hdescs : t.descs = s.descs) (heng : t.eng = s.eng) (hpow : t.pow = s.pow)
    (hckpt : t.ckpt = s.ckpt) (hctxs : t.ctxs = s.ctxs) : SameWork s t :=
  ⟨hslots, hdescs, heng, hpow, by rw [hckpt], fun d => by rw [State.ctx, hctxs, State.ctx]⟩

theorem SameWork.refl (s : State) : SameWork s s := .of_same rfl rfl rfl rfl rfl rfl

/-- Putting a command in another phase changes no more of what says which contexts may start a unit than its own CTX_EXPORT. -/
theorem SameGo.setPhase {c : CtxNo} {i : Nat} {m : Cmd} (hcmd : (s.ctx c).cmds[i]? = some m) {p : Phase}
    (hbefore : m.exportDue = false) (hafter : ({ m with phase := p } : Cmd).exportDue = false) : SameGo s (s.setPhase c i p) := by
  have hany {f : Cmd → Bool} (h : f { m with phase := p } = f m) (l : List Cmd) (k : Nat) (hk : l[k]? = some m) :
      (setAt l k { m with phase := p }).any f = l.any f := by
    induction l generalizing k with
    | nil => rfl
    | cons a l ih =>
      cases k with
      | zero =>
        obtain rfl : a = m := by simpa using hk
        rw [setAt, List.any_cons, h, List.any_cons]
      | succ k => rw [setAt, List.any_cons, ih k (by simpa using hk), List.any_cons]
  refine ⟨rfl, rfl, rfl, fun d => ?_, fun d e => ?_⟩
  · rw [State.ctx_setPhase, hcmd]
    split
    next hd => rw [hd]; rfl
    next => rfl
  · rw [State.ctx_setPhase, hcmd]
    split
    next hd => rw [hd]; exact hany (by rw [hbefore, hafter]; rfl) _ i hcmd
    next => rfl

end

section
variable (s : State) (c : CtxNo)

theorem SameWork.modCtx {f : Context → Context} (hf : ∀ x, (f x).work = x.work) : SameWork s (s.modCtx c f) := by
  refine ⟨rfl, rfl, rfl, rfl, rfl, fun d => ?_⟩
  rw [State.ctx_modCtx]
  split
  next hd => rw [hd, hf]
  next => rfl

theorem SameWork.foldl_fst {α β : Type} {f : State × β → α → State × β} (hf : ∀ p a, SameWork p.1 (f p a).1) (l : List α)
    (p : State × β) : SameWork p.1 (l.foldl f p).1 := by
  induction l generalizing p with
  | nil => exact .refl p.1
  | cons a l ih => exact (hf p a).trans (ih _)

/-! ### Opening and closing a unit -/

theorem SameWork.pin (ns : List FaultRec) : SameWork s (s.pin c ns) := by
  have hxlats (xs : List (Nat × Xlat)) : SameWork s (s.modCtx c (fun x => { x with xlats := xs })) := .modCtx s c fun _ => rfl
  exact ⟨rfl, rfl, rfl, rfl, rfl, (hxlats _).work⟩

theorem SameWork.acquire (ns : List FaultRec) : SameWork s (s.acquire c ns).2 := by
  unfold State.acquire
  dsimp only
  split
  · exact .pin s c _
  · exact (SameWork.pin s c _).trans (.of_same rfl rfl rfl rfl rfl rfl)

theorem SameWork.takeSlots (seq : Word) (use : ReqUse) (as : List Acc) : SameWork s (s.takeSlots c seq use as).2 :=
  .of_same (by simp) (by simp) (by simp) (by simp) (by simp) (by simp)

theorem SameWork.openAll (seq : Word) (as : List Acc) : SameWork s (s.openAll c seq as).2 := by
  unfold State.openAll State.openFor State.openSome
  dsimp only
  split
  · exact .acquire s c _
  · exact (SameWork.acquire s c _).trans (.takeSlots _ c seq _ as)

theorem SameWork.copiedFirst (seq : Word) (as : List Acc) : SameWork s (s.copiedFirst c seq as).2 := by
  unfold State.copiedFirst
  split
  · exact SameWork.modCtx s c (f := fun x => { x with wantPage := _, wantSeq := _ }) fun _ => rfl
  · exact .refl s

theorem SameWork.openWrites (seq : Word) (as : List Acc) : SameWork s (s.openWrites c seq as).2 := by
  unfold State.openWrites
  dsimp only
  split
  · exact .openAll s c seq as
  · exact (SameWork.openAll s c seq as).trans (.copiedFirst _ c seq as)

theorem Ckpt.noteUnwatched_effective (k : Ckpt) (pages : List Nat) : (k.noteUnwatched pages).effective = k.effective := by
  unfold Ckpt.noteUnwatched
  split <;> rfl

theorem SameWork.issue (seq : Word) (use : ReqUse) (as : List Acc) : SameWork s (s.issue c seq use as) := .of_same rfl rfl rfl rfl rfl rfl

theorem SameWork.unpin : SameWork s (s.unpin c) := .modCtx s c fun x => by split <;> rfl

theorem SameWork.endUnit (as : List Acc) : SameWork s (s.endUnit c as) := by
  let u := { s with ckpt := s.ckpt.noteUnwatched (s.writePages c as) }
  have hnote : SameWork s u := ⟨rfl, rfl, rfl, rfl, Ckpt.noteUnwatched_effective _ _, fun _ => rfl⟩
  have htracked : SameWork u (if (s.writePages c as).isEmpty then u else u.modCtx c (fun x => { x with tracked := true })) := by
    split
    · exact .refl u
    · exact .modCtx u c fun _ => rfl
  have hoob (t : State) (n : Nat) : SameWork t (t.countOob c n) := .modCtx t c fun _ => rfl
  exact ((hnote.trans htracked).trans (hoob _ _)).trans (.unpin _ c)

theorem SameWork.closeUnit (seq : Word) (as : List Acc) : SameWork s (s.closeUnit c seq as) :=
  (SameWork.issue s c seq .demand as).trans (.endUnit _ c as)

theorem SameWork.useAdders (quarters : Nat) : SameWork s (s.useAdders quarters) := .of_same rfl rfl rfl rfl rfl rfl

/-! ### Slices and rows that commit -/

theorem SameWork.streamGo (seq : Word) (est : Nat → Nat) (n : Nat) : SameWork s (s.streamGo c seq est n).2 := by
  unfold State.streamGo
  dsimp only
  split
  · exact .refl s
  · split
    · exact .refl s
    · split
      · exact SameWork.modCtx s c (f := fun x => { x with streamDone := _ }) fun _ => rfl
      · exact SameWork.modCtx s c (f := fun x => { x with stream := _, slices := _ }) fun _ => rfl

theorem SameWork.streamStart : SameWork s (s.streamStart c) := .modCtx s c fun _ => rfl

theorem SameWork.streamNext (more : Bool) : SameWork s (s.streamNext c more) := by
  refine .modCtx s c fun x => ?_
  split
  · rfl
  · split <;> rfl

theorem SameWork.unitCommit (start raw : Nat) : SameWork s (s.modCtx c (fun x => x.unitCommit s.now start raw)) := .modCtx s c fun _ => rfl

theorem SameWork.endOverrun : SameWork s (s.endOverrun c) := by
  unfold State.endOverrun
  exact .modCtx s c fun _ => rfl

theorem SameWork.rowCommit (start raw : Nat) : SameWork s (s.rowCommit c start raw) :=
  (SameWork.unitCommit s c start raw).trans (.endOverrun _ c)

theorem SameWork.streamCommit (raw : Nat) (more : Bool) : SameWork s (s.streamCommit c raw more) :=
  ((SameWork.unitCommit s c _ raw).trans (.streamNext _ c more)).trans (.endOverrun _ c)

/-! ### Event records -/

theorem SameWork.pokeN (va : Nat) (l : List Byte) : SameWork s (s.pokeN c va l) :=
  .of_same (by simp) (by simp) (by simp) (by simp) (by simp) (by simp)

theorem SameWork.postEntry (e : BitVec 256) : SameWork s (s.postEntry c e) := by
  unfold State.postEntry
  exact (SameWork.pokeN s c _ _).trans (.modCtx _ c fun _ => rfl)

theorem SameWork.postEvent (r : EventRec) : SameWork s (s.postEvent c r) := by
  have hposted (e : BitVec 256) : SameWork s ((s.postEntry c e).modCtx c (fun y => if r.room.isSome then y else { y with lost := 0 })) :=
    (SameWork.postEntry s c e).trans (.modCtx _ c fun x => by split <;> rfl)
  have hpulse (t : State) (line : Nat) : SameWork t (t.pulse line) := .of_same rfl rfl rfl rfl rfl rfl
  unfold State.postEvent
  dsimp only
  split
  · exact (hposted _).trans (hpulse _ _)
  · exact hposted _

theorem SameWork.takeEntry (r : EventRec) : SameWork s (s.takeEntry c r) := by
  have hready : SameWork s (s.ringReady c (s.ctx c).cplAddr true).2 :=
    .of_same (by simp) (by simp) (by simp) (by simp) (by simp) (by simp)
  unfold State.takeEntry
  dsimp only
  split
  · exact hready.trans (.postEvent _ c r)
  · exact hready.trans (.modCtx _ c fun _ => rfl)

theorem SameWork.event (k : Byte) (p : BitVec 128) : SameWork s (s.event c k p) := by
  have hseq : SameWork s (s.modCtx c (fun y => { y with eventSeq := y.eventSeq + 1 })) := .modCtx s c fun _ => rfl
  unfold State.event
  split
  · exact .refl s
  · dsimp only
    split
    · exact hseq.trans (.takeEntry _ c _)
    · split
      · exact hseq.trans (.modCtx _ c fun _ => rfl)
      · exact hseq.trans (.modCtx _ c fun _ => rfl)

/-! ### Writing elements (R83, R131) -/

theorem SameWork.putBits (bad : List (Nat × Nat)) (o : Opnd) (coord : Nat → Nat) (v : Nat) : SameWork s (s.putBits c bad o coord v) :=
  .of_same (by simp) (by simp) (by simp) (by simp) (by simp) (by simp)

theorem SameWork.countConv (t ch : Nat) (seq : BitVec 16) (v : Num) (k : Clip) : SameWork s (s.countConv t ch seq v k) := by
  have hset (u : State) (i : Nat) (x : RescaleTable) : SameWork u (u.setRt i x) := .of_same rfl rfl rfl rfl rfl rfl
  have hwindow : SameWork s (s.windowEnd t) := by
    unfold State.windowEnd
    dsimp only
    split
    · exact hset s _ _
    · exact .refl s
  unfold State.countConv
  dsimp only
  split
  · exact (hwindow.trans (hset _ _ _)).trans (.event _ _ _ _)
  · exact hwindow.trans (hset _ _ _)

theorem SameWork.wbElem (w : WbPlan) (x : Slot) (badR badW : List (Nat × Nat)) (row srow : Nat) (p : State × Flag) (k : Nat) :
    SameWork p.1 (State.wbElem c w x badR badW row srow p k).1 := by
  unfold State.wbElem
  dsimp only
  split
  · exact .putBits p.1 c _ _ _ _
  · split
    · exact (SameWork.putBits p.1 c _ _ _ _).trans (.countConv _ _ _ _ _ _)
    · exact .putBits p.1 c _ _ _ _

theorem SameWork.readMask (w : WbPlan) : SameWork s (s.readMask c w).2.1 := by
  unfold State.readMask
  split
  · exact .refl s
  · dsimp only
    split
    · exact .openAll s c w.seq _
    · exact (SameWork.openAll s c w.seq _).trans (.closeUnit _ c w.seq _)

variable {s c} {t : State} {seq : Word} {ok : Bool}

theorem SameWork.of_openAll {as : List Acc} (h : s.openAll c seq as = (ok, t)) : SameWork s t := by
  have hopened := SameWork.openAll s c seq as
  rwa [h] at hopened

theorem SameWork.of_openWrites {as : List Acc} (h : s.openWrites c seq as = (ok, t)) : SameWork s t := by
  have hopened := SameWork.openWrites s c seq as
  rwa [h] at hopened

theorem SameWork.of_streamGo {est : Nat → Nat} {n : Nat} (h : s.streamGo c seq est n = (ok, t)) : SameWork s t := by
  have hgone := SameWork.streamGo s c seq est n
  rwa [h] at hgone

theorem SameWork.of_readMask {w : WbPlan} {bytes : List Byte} (h : s.readMask c w = (ok, t, bytes)) : SameWork s t := by
  have hread := SameWork.readMask s c w
  rwa [h] at hread

end

end Sys2Proof.Machine
end

section
/-! SUPPORT. The rows of PRELOAD and WRITE_BACK (R79, R101, R102, R111, R222, R223): one row of each, and how an ACCLOAD and an ACCSTORE
end. -/

namespace Sys2Proof.Machine

/-! ### Rows -/

section
variable {f : State → Bool × State} {s t : State}

theorem runRows_go (n : Nat) (h : f s = (true, t)) : runRows f (n + 1) s = runRows f n t := by
  simp only [runRows, h, if_true]

theorem runRows_stop (n : Nat) (h : f s = (false, t)) : runRows f (n + 1) s = t := by
  simp only [runRows, h, Bool.false_eq_true, if_false]

end

/-! ### Memory -/

theorem SameMem.of_openAll {s t : State} {c : CtxNo} {seq : Word} {as : List Acc} {ok : Bool} (h : s.openAll c seq as = (ok, t)) :
    SameMem s t := by
  obtain rfl : (s.openAll c seq as).2 = t := congrArg Prod.snd h
  exact .of_eq (by simp) (by simp)

section
variable (s : State) (c : CtxNo)

theorem SameMem.closeUnit (seq : Word) (as : List Acc) : SameMem s (s.closeUnit c seq as) := .of_eq (by simp) (by simp)

theorem SameMem.setPhase (i : Nat) (p : Phase) : SameMem s (s.setPhase c i p) := .of_eq rfl rfl

theorem SameMem.modSlot (k : Nat) (f : Slot → Slot) : SameMem s (s.modSlot k f) := .of_eq rfl rfl

theorem SameMem.finish (i : Nat) (r : Reply) : SameMem s (s.finish c i r) := .of_eq (by simp) (by simp)

theorem SameMem.rowCommit (start raw : Nat) : SameMem s (s.rowCommit c start raw) := .of_eq rfl rfl

theorem SameMem.streamCommit (raw : Nat) (more : Bool) : SameMem s (s.streamCommit c raw more) := .of_eq rfl rfl

end

theorem State.alert_of_active {s : State} {c : CtxNo} (h : s.active c = true) : s.alert c = true := by
  simp only [State.active, Bool.and_eq_true] at h
  obtain ⟨⟨⟨halert, -⟩, -⟩, -⟩ := h
  exact halert

/-! ### Loading a slot (R79) -/

section
variable {s t : State}

theorem State.opnd_congr (h : t.descs = s.descs) (fmts : Vector Word 8) (d n : Nat) : t.opnd fmts d n = s.opnd fmts d n := by
  rw [State.opnd, State.descAt, h, State.opnd, State.descAt]

theorem State.loadSrc_congr (h : t.descs = s.descs) (m : Cmd) {x y : Slot} (hdesc : y.desc = x.desc) : t.loadSrc m y = s.loadSrc m x := by
  rw [State.loadSrc, State.loadSrc, hdesc]
  simp only [State.opnd_congr h]

end

section
variable (x : Slot) (g : Nat → Nat) (e : Nat → W64 × Flag) (l : List Nat)

/-- The elements that `e` gives for `l` loaded into the places that `g` gives for them. -/
def Slot.loadCells : Slot := l.foldl (fun y k => y.loadAt (g k) (e k)) x

/-- What no element and no word tells stays as it is. -/
theorem Slot.loadCells_same {α : Type} {f : Slot → α} (hf : ∀ y elems acc, f { y with elems := elems, acc := acc } = f y) :
    f (x.loadCells g e l) = f x := by
  induction l generalizing x with
  | nil => rfl
  | cons k l ih =>
    rw [Slot.loadCells, List.foldl_cons, ← Slot.loadCells, ih, Slot.loadAt, hf]

end

/-! ### The rows of a preload (R79, R222) -/

section
variable (s : State) (c : CtxNo) {i k row : Nat} {m : Cmd} {b : Option Nat}

/-- The end of an ACCLOAD's preload changes its slot's state alone. -/
theorem State.slot_loadEnd (hk : k < 48) (j : Nat) :
    (s.loadEnd c i m k).slot j = if j = k then { s.slot k with state := .held } else s.slot j := by
  rw [State.loadEnd, State.slot_finish, State.slot_setSlot]
  simp only [hk, and_true]

theorem SameMem.loadEnd : SameMem s (s.loadEnd c i m k) := by
  unfold State.loadEnd
  exact SameMem.trans (t := s.setSlot k _) (.of_eq rfl rfl) (.finish _ c i _)

theorem State.phase_loadEnd {m1 : Cmd} (hcmd : (s.ctx c).cmds[i]? = some m1) : PhaseAt (s.loadEnd c i m k) c i
    (.finished { Reply.ok with acc := (s.slot k).acc, result0 := if m.bit 12 then w32 ((s.slot k).handle k) else 0 }) := by
  unfold State.loadEnd
  exact State.phase_finish (s.setSlot k _) (m := m1) hcmd _

variable {s c}

/-- A zero source: the slot is emptied and the preload ends. -/
theorem State.preLoadRow_zero (hcmd : (s.ctx c).cmds[i]? = some m) (hphase : m.phase = .running (.load k row b)) (hsrc : m.f 179 2 = 0) :
    s.preLoadRow c i = (false, (s.modSlot k (fun y => y.preStart none 0)).loadEnd c i m k) := by
  have hnone : s.loadSrc m (s.slot k) = none := by
    rw [State.loadSrc, hsrc]
    rfl
  unfold State.preLoadRow
  simp only [State.cmdAt, hcmd, hphase, hnone]

/-- Every row is loaded: the preload ends. -/
theorem State.preLoadRow_end {o d : Opnd} (hcmd : (s.ctx c).cmds[i]? = some m) (hphase : m.phase = .running (.load k row b))
    (hsrc : s.loadSrc m (s.slot k) = some o) (hdst : s.opnd m.fmts (s.slot k).desc 0 = some d) (hrow : ((s.slot k).block d).2.1 ≤ row) :
    s.preLoadRow c i = (false, s.loadEnd c i m k) := by
  unfold State.preLoadRow
  simp only [State.cmdAt, hcmd, hphase, hsrc, hdst, if_pos hrow]

/-- A row that is not the first, its unit open, loads its elements. -/
theorem State.preRow_later {q : State} {seq : Word} {o : Opnd} {layout feat drow srow col0 cols : Nat} :
    let co (e : Nat) := preCoord o layout feat drow (col0 + e)
    let a := o.acc false false ((List.range cols).map (fun e => o.span (co e)))
    s.openAll c seq [a] = (true, q) →
    s.preRow c seq o layout feat k false drow srow col0 cols =
      (true, ((q.modSlot k (fun x => x.loadCells (fun e => srow * 128 + e) (fun e => loadElem o (q.elemBits c (q.refusals c a) o (co e)))
        (List.range cols))).closeUnit c seq [a]).useAdders 1) := by
  intro co a hopen
  unfold State.preRow
  simp only [Bool.false_and, Bool.false_eq_true, if_false]
  rw [hopen]
  rfl

/-- A preload whose row may start loads it. -/
theorem State.preLoadRow_next {r : State} {o d : Opnd} (hactive : s.active c = true) (hcmd : (s.ctx c).cmds[i]? = some m)
    (hphase : m.phase = .running (.load k row b)) (hsrc : s.loadSrc m (s.slot k) = some o)
    (hdst : s.opnd m.fmts (s.slot k).desc 0 = some d) (hrow : row < ((s.slot k).block d).2.1)
    (hpre : let blk := (s.slot k).block d
      (s.setPhase c i (.running (.load k row (some (b.getD s.now))))).preRow c m.seq o (if m.f 179 2 = 1 then 0 else m.f 181 2)
        (s.slot k).feat k (row == 0) (blk.1 + row) row blk.2.2.1 blk.2.2.2 = (true, r)) :
    ∃ raw, s.preLoadRow c i = (true, (r.setPhase c i (.running (.load k (row + 1) none))).rowCommit c (b.getD s.now) raw) := by
  dsimp only at hpre
  unfold State.preLoadRow
  simp only [State.cmdAt, hcmd, hphase, hsrc, hdst, if_neg (Nat.not_le_of_lt hrow), hactive, Bool.not_true, Bool.and_false,
    Bool.false_eq_true, if_false, hpre, if_true]
  exact ⟨_, rfl⟩

/-- With no product tile in its preload, a PRELOAD runs the rows of the first ACCLOAD that is in its own. -/
theorem exec_preload (hactive : s.active c = true) (hfirst : findAt Cmd.loading (s.ctx c).cmds 0 = some (i, m))
    (hnone : s.firstRun c .preload = none) : exec (.preload c) s = .next (runRows (State.preLoadRow c i) 129 s) := by
  refine congrArg Host.Outcome.next (?_ : s.preloadRows c = _)
  unfold State.preloadRows
  simp only [State.alert_of_active hactive, Bool.not_true, Bool.false_eq_true, if_false, hfirst, hnone]

end

/-! ### The rows of an ACCSTORE (R101, R102, R111) -/

/-- The elements `ks` of a row written from slot `x`, the row's accesses `as` being open in `q`; with the flags they set. -/
def State.wbCells (q : State) (c : CtxNo) (w : WbPlan) (x : Slot) (as : List Acc) (row srow : Nat) (ks : List Nat) : State × Flag :=
  ks.foldl (State.wbElem c w x (q.refusals c (w.dst.acc false true (as.headD (w.dst.acc false true [])).spans))
    (q.refusals c (w.dst.acc true false (as.headD (w.dst.acc false true [])).spans)) row srow) (q, Flag.clear)

theorem SameWork.wbCells (q : State) (c : CtxNo) (w : WbPlan) (x : Slot) (as : List Acc) (row srow : Nat) (ks : List Nat) :
    SameWork q (q.wbCells c w x as row srow ks).1 := .foldl_fst (SameWork.wbElem c w x _ _ row srow) ks (q, Flag.clear)

/-- The state once a row is written, its accesses `as` closed. -/
def State.wbRowDone (z : State) (c : CtxNo) (w : WbPlan) (as : List Acc) : State := (z.closeUnit c w.seq as).useAdders w.adderOps

theorem SameWork.wbRowDone (z : State) (c : CtxNo) (w : WbPlan) (as : List Acc) : SameWork z (z.wbRowDone c w as) :=
  (SameWork.closeUnit z c w.seq as).trans (.useAdders _ _)

theorem SameMem.wbRowDone (z : State) (c : CtxNo) (w : WbPlan) (as : List Acc) : SameMem z (z.wbRowDone c w as) :=
  (SameMem.closeUnit z c w.seq as).trans (.useAdders _ _)

section
variable {s q g : State} {c : CtxNo} {i k row : Nat} {m : Cmd} {w : WbPlan} {fz : Nat → Bool}

/-- A row of which anything is written, captured and open, is written. -/
theorem State.wbRow_writes (hlive : w.live fz (w.rows.getD k 0) ≠ []) (hcaptured : s.mustCapture c (w.unit (w.rows.getD k 0)) = false)
    (hopen : s.openWrites c w.seq (w.rowAccs (w.rows.getD k 0) (w.live fz (w.rows.getD k 0))) = (true, q)) :
    let ks := w.live fz (w.rows.getD k 0)
    let as := w.rowAccs (w.rows.getD k 0) ks
    let z := q.wbCells c w (q.slot w.slot) as (w.rows.getD k 0) (w.slotRows.getD k 0) ks
    s.wbRow c w fz k = (true, z.1.wbRowDone c w as, z.2) := by
  intro ks as z
  have hsome : (w.live fz (w.rows.getD k 0)).isEmpty = false := by simpa using hlive
  unfold State.wbRow
  simp only [hsome, hcaptured, hopen, Bool.not_true, Bool.false_eq_true, if_false]
  rfl

theorem State.streaming_streamCommit_last (s : State) (c : CtxNo) (raw : Nat) : (s.streamCommit c raw false).streaming c = false := by
  have hnext (t : State) : ((t.streamNext c false).ctx c).stream = none := by
    rw [State.streamNext, State.ctx_modCtx_same]
    split
    next h => exact h
    next => simp
  have hover (t : State) : ((t.endOverrun c).ctx c).stream = (t.ctx c).stream := by
    unfold State.endOverrun
    dsimp only
    rw [State.ctx_modCtx_same]
  rw [State.streaming, State.streamCommit, hover, hnext]
  rfl

/-- The last row of an ACCSTORE is written, its slice going on: no slice of it is in progress after. -/
theorem State.wbStoreRow_last {written flags : Nat} {tab : Option BoundTable} {mask : Option (List Byte)}
    (hcmd : (s.ctx c).cmds[i]? = some m) (hphase : m.phase = .running (.store k row written flags tab mask)) (hseq : w.seq = m.seq)
    (hrows : w.rows.length = row + 1) (hlive : w.live fz (w.rows.getD row 0) ≠ [])
    (hgo : s.streamGo c m.seq (fun u => s.rowEc c w (row + u)) (w.rows.length - row) = (true, g))
    (hcaptured : (g.streamStart c).mustCapture c (w.unit (w.rows.getD row 0)) = false)
    (hopen : (g.streamStart c).openWrites c m.seq (w.rowAccs (w.rows.getD row 0) (w.live fz (w.rows.getD row 0))) = (true, q)) :
    let ks := w.live fz (w.rows.getD row 0)
    let as := w.rowAccs (w.rows.getD row 0) ks
    let z := q.wbCells c w (q.slot w.slot) as (w.rows.getD row 0) (w.slotRows.getD row 0) ks
    s.wbStoreRow c i w fz = (false, ((z.1.wbRowDone c w as).setPhase c i
      (.running (.store k (row + 1) (written + 1) (Nat.lor flags z.2.bits) tab mask))).streamCommit c (s.rowEc c w row) false) := by
  intro ks as z
  have hsome : (w.live fz (w.rows.getD row 0)).isEmpty = false := by simpa using hlive
  have hwrite : (g.streamStart c).wbRow c w fz row = (true, z.1.wbRowDone c w as, z.2) :=
    State.wbRow_writes hlive hcaptured (by rw [hseq]; exact hopen)
  unfold State.wbStoreRow
  simp only [State.cmdAt, hcmd, hphase, if_neg (show ¬ w.rows.length ≤ row by omega), hgo, hwrite, hsome, Bool.not_true,
    Bool.false_eq_true, if_false, decide_eq_false (show ¬ row + 1 < w.rows.length by omega), State.streaming_streamCommit_last]

/-! ### The end of an ACCSTORE (R107, R223) -/

/-- The rows of an ACCSTORE without a record all written, it goes on to its header or its reply. -/
theorem State.wbStore_end {t v : State} {m1 : Cmd} {written flags row1 written1 flags1 : Nat} {tab : Option BoundTable}
    {mask mask1 : Option (List Byte)} {bytes : List Byte} (hplan : s.storePlan m k tab mask = some w) (hactive : s.active c = true)
    (hmask : s.readMask c w = (true, v, bytes)) (hrec : m.bit 15 = false)
    (hrun : runRows (State.wbStoreRow c i w (w.frozen bytes)) 129
      (v.setPhase c i (.running (.store k row written flags tab (some bytes)))) = t)
    (hcmd : (t.ctx c).cmds[i]? = some m1) (hphase : m1.phase = .running (.store k row1 written1 flags1 tab mask1))
    (hdone : w.rows.length ≤ row1) (hgo : t.active c = true) :
    let word := accSet (t.slot k).acc flags1
    s.wbStore c i m k row written flags tab mask = (t.modSlot k (fun y => { y with acc := word })).storeEnd c i m w written1 word
      { Reply.ok with acc := word, result0 := w32 written1 } := by
  have hstop : (decide (row1 < w.rows.length) || !t.active c) = false := by
    rw [hgo, decide_eq_false (Nat.not_lt_of_le hdone)]
    rfl
  unfold State.wbStore
  simp only [hplan, hactive, hmask, hrec, hrun, State.cmdAt, hcmd, hphase, hstop, Bool.not_true, Bool.and_false, Bool.false_eq_true,
    if_false]
  rfl

section
variable {word : Word} {n : Nat} {r : Reply}

theorem State.slot_storeEnd (j : Nat) : (s.storeEnd c i m w n word r).slot j = (s.storeRelease c w.slot (m.bit 12)).slot j := by
  unfold State.storeEnd
  dsimp only
  split
  · rfl
  · exact State.slot_finish _ c i r j

theorem State.slot_storeRelease_other {b : Bool} {j : Nat} (h : j ≠ k) : (s.storeRelease c k b).slot j = s.slot j := by
  rw [State.storeRelease, State.slot_modSlot, if_neg fun e => h e.1]

/-- Without RELEASE the slot of an ACCSTORE is HELD again. -/
theorem State.slot_storeRelease_kept (h : k < 48) : (s.storeRelease c k false).slot k = { s.slot k with state := .held } := by
  rw [State.storeRelease, State.slot_modSlot, if_pos ⟨rfl, h⟩]
  rfl

theorem SameMem.storeEnd : SameMem s (s.storeEnd c i m w n word r) := by
  have hrelease : SameMem s (s.storeRelease c w.slot (m.bit 12)) := .modSlot s _ _
  unfold State.storeEnd
  dsimp only
  split
  · exact hrelease.trans (.setPhase _ c i _)
  · exact hrelease.trans (.finish _ c i r)

/-- An ACCSTORE that wrote rows goes on to the header update of a destination that has a header, and else completes. -/
theorem State.phase_storeEnd {m1 : Cmd} (hcmd : (s.ctx c).cmds[i]? = some m1) (hn : 0 < n) :
    PhaseAt (s.storeEnd c i m w n word r) c i (if w.dst.desc.hdrEn then
      .header ⟨w.dst.idx, 0, w.add, accCount word + (if w.add then 1 else 0), w32 (accFlags word), 1, false⟩ r else .finished r) := by
  have hcmd1 : ((s.storeRelease c w.slot (m.bit 12)).ctx c).cmds[i]? = some m1 := hcmd
  unfold State.storeEnd
  by_cases hhdr : w.dst.desc.hdrEn
  · rw [if_pos ⟨hn, hhdr⟩, if_pos hhdr]
    exact State.phase_setPhase _ hcmd1 _
  · rw [if_neg fun e => hhdr e.2, if_neg hhdr]
    exact State.phase_finish _ hcmd1 _

end

/-- The first write-back in progress being an ACCSTORE's, a WRITE_BACK runs its rows. -/
theorem exec_writeBack_store {written flags : Nat} {tab : Option BoundTable} {mask : Option (List Byte)} (hactive : s.active c = true)
    (hfirst : findAt s.writingBack (s.ctx c).cmds 0 = some (i, m)) (hphase : m.phase = .running (.store k row written flags tab mask)) :
    exec (.writeBack c) s = .next (s.wbStore c i m k row written flags tab mask) := by
  refine congrArg Host.Outcome.next (?_ : s.writeBack c = _)
  unfold State.writeBack
  simp only [State.alert_of_active hactive, Bool.not_true, Bool.false_eq_true, if_false, hfirst, hphase]

end

end Sys2Proof.Machine
end

section
/-! SUPPORT. The last row of a preload and of an ACCSTORE, from its slot to its reply. -/

namespace Sys2Proof.Machine

/-! ### The last row of a preload (R79, R222) -/

section
variable {s q : State} {c : CtxNo} {i k row : Nat} {m : Cmd} {b : Option Nat}

/-- A zero source leaves an empty slot, HELD, and completes the command. -/
theorem exec_preload_zero (hactive : s.active c = true) (hcmd : (s.ctx c).cmds[i]? = some m) (hk : k < 48)
    (hfirst : findAt Cmd.loading (s.ctx c).cmds 0 = some (i, m)) (hnone : s.firstRun c .preload = none)
    (hphase : m.phase = .running (.load k row b)) (hsrc : m.f 179 2 = 0) :
    ∃ t, exec (.preload c) s = .next t ∧ SameMem s t ∧ (t.slot k).state = .held ∧ (t.slot k).elems = [] ∧ (t.slot k).acc = 0
      ∧ (∀ j, j ≠ k → t.slot j = s.slot j)
      ∧ PhaseAt t c i (.finished { Reply.ok with result0 := if m.bit 12 then w32 ((s.slot k).handle k) else 0 }) := by
  let p := s.modSlot k (fun y => y.preStart none 0)
  have hslot : p.slot k = (s.slot k).preStart none 0 := by rw [State.slot_modSlot, if_pos ⟨rfl, hk⟩]
  have hend : (p.loadEnd c i m k).slot k = { p.slot k with state := .held } := by rw [State.slot_loadEnd _ _ hk, if_pos rfl]
  have hphase1 := State.phase_loadEnd p c (i := i) (k := k) (m := m) (m1 := m) hcmd
  rw [hslot] at hend hphase1
  refine ⟨p.loadEnd c i m k, ?_, (SameMem.modSlot s k _).trans (.loadEnd p c), by rw [hend], by rw [hend]; rfl, by rw [hend]; rfl,
    fun j hj => ?_, hphase1⟩
  · rw [exec_preload hactive hfirst hnone, runRows_stop _ (State.preLoadRow_zero hcmd hphase hsrc)]
  · rw [State.slot_loadEnd _ _ hk, if_neg hj, State.slot_modSlot, if_neg fun e => hj e.1]

/-- The state once a row that is not the first is loaded: its elements stand in its slot, and nothing else that the end of the preload
looks at has changed. -/
theorem State.preLoadRow_loads {o d : Opnd} (hactive : s.active c = true) (hcmd : (s.ctx c).cmds[i]? = some m) (hk : k < 48)
    (hphase : m.phase = .running (.load k row b)) (hsrc : s.loadSrc m (s.slot k) = some o)
    (hdst : s.opnd m.fmts (s.slot k).desc 0 = some d) (hrow : row ≠ 0) (hleft : row < ((s.slot k).block d).2.1) :
    let x := s.slot k
    let co (e : Nat) := preCoord o (if m.f 179 2 = 1 then 0 else m.f 181 2) x.feat ((x.block d).1 + row) ((x.block d).2.2.1 + e)
    let cols := List.range (x.block d).2.2.2
    let a := o.acc false false (cols.map (fun e => o.span (co e)))
    (s.setPhase c i (.running (.load k row (some (b.getD s.now))))).openAll c m.seq [a] = (true, q) →
    ∃ w, s.preLoadRow c i = (true, w) ∧ (w.ctx c).cmds[i]? = some { m with phase := .running (.load k (row + 1) none) }
      ∧ w.descs = s.descs ∧ SameMem s w ∧ (∀ j, j ≠ k → w.slot j = s.slot j)
      ∧ w.slot k = x.loadCells (fun e => row * 128 + e) (fun e => loadElem o (q.elemBits c (q.refusals c a) o (co e))) cols := by
  intro x co cols a hopen
  let s0 := s.setPhase c i (.running (.load k row (some (b.getD s.now))))
  let p := q.modSlot k (fun x => x.loadCells (fun e => row * 128 + e) (fun e => loadElem o (q.elemBits c (q.refusals c a) o (co e))) cols)
  let v := (p.closeUnit c m.seq [a]).useAdders 1
  let v1 := v.setPhase c i (.running (.load k (row + 1) none))
  have hfirst : (row == 0) = false := by simpa using hrow
  obtain ⟨raw, hnext⟩ := State.preLoadRow_next (r := v) hactive hcmd hphase hsrc hdst hleft (by rw [hfirst]; exact State.preRow_later hopen)
  have hq : SameWork s0 q := .of_openAll hopen
  have hqmem : SameMem s0 q := .of_openAll hopen
  have hv : SameWork p v := (SameWork.closeUnit p c m.seq [a]).trans (.useAdders _ 1)
  have hvmem : SameMem p v := (SameMem.closeUnit p c m.seq [a]).trans (.useAdders _ 1)
  have hw : SameWork v1 (v1.rowCommit c (b.getD s.now) raw) := .rowCommit v1 c _ _
  have hcmdv : (v.ctx c).cmds[i]? = some { m with phase := .running (.load k row (some (b.getD s.now))) } := by
    rw [hv.cmds, State.ctx_modSlot, hq.cmds]
    exact State.cmds_setPhase_same s hcmd _
  have hslot (j : Nat) : (v1.rowCommit c (b.getD s.now) raw).slot j = p.slot j := by
    rw [hw.slot, State.slot_setPhase, hv.slot]
  refine ⟨_, hnext, ?cmd, ?descs, ?mem, fun j hj => ?other, ?slot⟩
  case cmd => rw [hw.cmds, State.cmds_setPhase_same v hcmdv]
  case descs => exact hw.descs.trans (hv.descs.trans hq.descs)
  case mem =>
    have hs0 : SameMem s s0 := .setPhase s c i _
    have hp : SameMem q p := .modSlot q k _
    have hv1 : SameMem v v1 := .setPhase v c i _
    exact (((hs0.trans (hqmem.trans hp)).trans hvmem).trans hv1).trans (.rowCommit v1 c _ _)
  case other =>
    rw [hslot, State.slot_modSlot, if_neg fun e => hj e.1]
    exact hq.slot j
  case slot =>
    rw [hslot, State.slot_modSlot, if_pos ⟨rfl, hk⟩, hq.slot]
    rfl

/-- The rows all loaded, the preload ends with its slot HELD and the command's reply. -/
theorem exec_preload_last {w : State} {o d : Opnd} {y : Slot} (hactive : s.active c = true) (hk : k < 48)
    (hfirst : findAt Cmd.loading (s.ctx c).cmds 0 = some (i, m)) (hnone : s.firstRun c .preload = none)
    (hnext : s.preLoadRow c i = (true, w)) (hcmd : (w.ctx c).cmds[i]? = some { m with phase := .running (.load k (row + 1) none) })
    (hslot : w.slot k = y) (hsrc : w.loadSrc m y = some o) (hdst : w.opnd m.fmts y.desc 0 = some d) (hblock : (y.block d).2.1 = row + 1) :
    ∃ t, exec (.preload c) s = .next t ∧ SameMem w t ∧ t.slot k = { y with state := .held } ∧ (∀ j, j ≠ k → t.slot j = w.slot j)
      ∧ PhaseAt t c i (.finished { Reply.ok with acc := y.acc, result0 := if m.bit 12 then w32 (y.handle k) else 0 }) := by
  let m1 : Cmd := { m with phase := .running (.load k (row + 1) none) }
  subst hslot
  have hend : w.preLoadRow c i = (false, w.loadEnd c i m1 k) :=
    State.preLoadRow_end hcmd rfl (show w.loadSrc m1 (w.slot k) = some o from hsrc) hdst (Nat.le_of_eq hblock)
  refine ⟨w.loadEnd c i m1 k, ?_, .loadEnd w c, ?_, fun j hj => ?_, State.phase_loadEnd w c (m := m1) hcmd⟩
  · rw [exec_preload hactive hfirst hnone, runRows_go _ hnext, runRows_stop _ hend]
  · rw [State.slot_loadEnd _ _ hk, if_pos rfl]
  · rw [State.slot_loadEnd _ _ hk, if_neg hj]

end

/-! ### The last row of an ACCSTORE (R101, R102, R111) -/

section
variable {s v g q : State} {c : CtxNo} {i k row written flags : Nat} {m : Cmd} {w : WbPlan} {tab : Option BoundTable}
  {mask : Option (List Byte)} {bytes : List Byte} {fz : Nat → Bool}

/-- The plan of an ACCSTORE is its own, of its own slot. -/
theorem State.storePlan_names (h : s.storePlan m k tab mask = some w) : w.seq = m.seq ∧ w.slot = k := by
  unfold State.storePlan at h
  obtain ⟨d, -, rfl⟩ := Option.map_eq_some_iff.1 h
  exact ⟨rfl, rfl⟩

/-- The last row written, the ACCSTORE stands behind it; no slot has changed, and no byte but by the row's elements. -/
theorem State.wbStoreRows_last (hcmd : (s.ctx c).cmds[i]? = some m) (hphase : m.phase = .running (.store k row written flags tab mask))
    (hplan : s.storePlan m k tab mask = some w) (hrows : w.rows.length = row + 1) (hmask : s.readMask c w = (true, v, bytes)) :
    let v1 := v.setPhase c i (.running (.store k row written flags tab (some bytes)))
    let ks := w.live fz (w.rows.getD row 0)
    let as := w.rowAccs (w.rows.getD row 0) ks
    let z := q.wbCells c w (s.slot k) as (w.rows.getD row 0) (w.slotRows.getD row 0) ks
    ks ≠ [] → v1.streamGo c m.seq (fun u => v1.rowEc c w (row + u)) (w.rows.length - row) = (true, g) →
    (g.streamStart c).mustCapture c (w.unit (w.rows.getD row 0)) = false → (g.streamStart c).openWrites c m.seq as = (true, q) →
    ∃ t, runRows (State.wbStoreRow c i w fz) 129 v1 = t
      ∧ (t.ctx c).cmds[i]? = some { m with phase := .running (.store k (row + 1) (written + 1) (Nat.lor flags z.2.bits) tab (some bytes)) }
      ∧ SameGo s t ∧ (∀ j, t.slot j = s.slot j) ∧ SameMem z.1 t := by
  intro v1 ks as z hlive hgo hcaptured hopen
  obtain ⟨hseq, hslot⟩ := State.storePlan_names hplan
  let r := z.1.wbRowDone c w as
  let r1 := r.setPhase c i (.running (.store k (row + 1) (written + 1) (Nat.lor flags z.2.bits) tab (some bytes)))
  have hv : SameWork s v := .of_readMask hmask
  have hq : SameWork v1 q := ((SameWork.of_streamGo hgo).trans (.streamStart g c)).trans (.of_openWrites hopen)
  have hr : SameWork v1 r := (hq.trans (.wbCells q c w _ as _ _ ks)).trans (.wbRowDone z.1 c w as)
  have hr1 : SameWork r1 (r1.streamCommit c (v1.rowEc c w row) false) := .streamCommit r1 c _ _
  have hcmdv : (v.ctx c).cmds[i]? = some m := by rw [hv.cmds, hcmd]
  have hcmd1 : (v1.ctx c).cmds[i]? = some { m with phase := .running (.store k row written flags tab (some bytes)) } :=
    State.cmds_setPhase_same v hcmdv _
  have hcmdr : (r.ctx c).cmds[i]? = some { m with phase := .running (.store k row written flags tab (some bytes)) } := by
    rw [hr.cmds, hcmd1]
  have hnodue : m.exportDue = false := by rw [Cmd.exportDue, hphase]
  have hqslot : q.slot w.slot = s.slot k := by
    rw [hslot, hq.slot]
    exact hv.slot k
  have hlast := State.wbStoreRow_last hcmd1 rfl hseq hrows hlive hgo hcaptured hopen
  rw [hqslot] at hlast
  refine ⟨r1.streamCommit c (v1.rowEc c w row) false, runRows_stop _ hlast, ?cmd, ?go, fun j => ?slots, ?mem⟩
  case cmd => rw [hr1.cmds, State.cmds_setPhase_same r hcmdr]
  case go => exact (((hv.go.trans (.setPhase hcmdv hnodue rfl)).trans hr.go).trans (.setPhase hcmdr rfl rfl)).trans hr1.go
  case slots => rw [hr1.slot, State.slot_setPhase, hr.slot, State.slot_setPhase, hv.slot]
  case mem => exact ((SameMem.wbRowDone z.1 c w as).trans (.setPhase r c i _)).trans (.streamCommit r1 c _ _)

end

/-! ### The obligation -/

/-- Settles O51: the last row loaded (`preLoadRow_loads`) or written (`wbStoreRows_last`) leaves the command behind its rows, and the next
look at it ends the preload (`exec_preload_last`) or the ACCSTORE (`wbStore_end`). -/
theorem preloadAndWriteBackEnd : Obligations.PreloadAndWriteBackEnd := by
  unfold Obligations.PreloadAndWriteBackEnd
  intro s q v g c i k row m b hactive hcmd hk
  refine ⟨?preload, ?store⟩
  case preload =>
    intro hfirst hnone hphase
    refine ⟨exec_preload_zero hactive hcmd hk hfirst hnone hphase, ?_⟩
    intro o d hsrc hdst hrow hblock x lay co cols a y hopen
    obtain ⟨w, hnext, hcmdw, hdescs, hmem, hother, hslot⟩ :=
      State.preLoadRow_loads hactive hcmd hk hphase hsrc hdst hrow (by omega) hopen
    have hload : x.loadCells _ _ _ = y := rfl
    have hsame {α : Type} (f : Slot → α) (hf : ∀ z elems acc, f { z with elems := elems, acc := acc } = f z) : f y = f x :=
      (congrArg f hload).symm.trans (Slot.loadCells_same x _ _ _ hf)
    have hdesc : y.desc = x.desc := hsame Slot.desc fun _ _ _ => rfl
    have hblocky : y.block d = x.block d := hsame (fun z => z.block d) fun _ _ _ => rfl
    have hhandle : y.handle k = x.handle k := hsame (fun z => z.handle k) fun _ _ _ => rfl
    have hsrcw : w.loadSrc m y = some o := (State.loadSrc_congr hdescs m hdesc).trans hsrc
    have hdstw : w.opnd m.fmts y.desc 0 = some d := by rw [State.opnd_congr hdescs, hdesc, hdst]
    obtain ⟨t, hexec, hmemt, hslott, hothert, hphaset⟩ :=
      exec_preload_last hactive hk hfirst hnone hnext hcmdw (hslot.trans hload) hsrcw hdstw (by rw [hblocky, hblock])
    rw [hhandle] at hphaset
    exact ⟨t, hexec, hmem.trans hmemt, hslott, fun j hj => (hothert j hj).trans (hother j hj), hphaset⟩
  case store =>
    intro written flags tab mask w bytes hfirst hphase hplan hrows hrec hmask fz ks v1 hlive hgo hcaptured as sp hopen z word
    obtain ⟨-, hslot⟩ := State.storePlan_names hplan
    obtain ⟨t, hrun, hcmdt, hgot, hslots, hmem⟩ := State.wbStoreRows_last hcmd hphase hplan hrows hmask hlive hgo hcaptured hopen
    have hactivet : t.active c = true := (hgot.active c).trans hactive
    let p := t.modSlot k (fun y => { y with acc := word })
    have hend : s.wbStore c i m k row written flags tab mask =
        p.storeEnd c i m w (written + 1) word { Reply.ok with acc := word, result0 := w32 (written + 1) } := by
      have h := State.wbStore_end hplan hactive hmask hrec hrun hcmdt rfl (Nat.le_of_eq hrows) hactivet
      rw [hslots] at h
      exact h
    have hp : p.slot k = { s.slot k with acc := word } := by rw [State.slot_modSlot, if_pos ⟨rfl, hk⟩, hslots]
    have hpother (j : Nat) (hj : j ≠ k) : p.slot j = s.slot j := by rw [State.slot_modSlot, if_neg fun e => hj e.1, hslots]
    refine ⟨_, (exec_writeBack_store hactive hfirst hphase).trans (congrArg Host.Outcome.next hend), (hmem.trans (.modSlot t k _)).trans .storeEnd,
      fun j hj => ?others, fun hkeep => ?slot, State.phase_storeEnd hcmdt (Nat.succ_pos written)⟩
    case others => rw [State.slot_storeEnd, hslot, State.slot_storeRelease_other hj, hpother j hj]
    case slot => rw [State.slot_storeEnd, hslot, hkeep, State.slot_storeRelease_kept hk, hp]

end Sys2Proof.Machine
end

section
/-! SUPPORT. HEADER_UPDATE (R107, R178, R224, R231): the accesses of a header update, the header it leaves, and how its command completes. -/

namespace Sys2Proof.Machine

/-! ### What a header update reads and writes -/

/-- The accesses of an update of the header of `o`: a header that is zeroed is not read (R224). -/
def HdrUpd.accs (u : HdrUpd) (o : Opnd) : List Acc := (if u.zero then [] else [o.hdrAcc false true]) ++ [o.hdrAcc true false]

/-- What the update makes of a header (R107, R224). -/
def HdrUpd.apply (u : HdrUpd) (h : Nat) : Nat := if u.zero then 0 else hdrUpdate h u.add u.count u.flags.toNat u.wbs

/-- The state once `v` is written at the header of `o`. -/
def State.putHdr (q : State) (c : CtxNo) (o : Opnd) (v : Nat) : State :=
  q.writeB c (q.refusals c (o.hdrAcc true false)) o.desc.hdrAddr (leBytes 16 v)

section
variable (q : State) (c : CtxNo)

theorem SameWork.writeB (bad : List (Nat × Nat)) (va : Nat) (l : List Byte) : SameWork q (q.writeB c bad va l) :=
  .of_same (by simp) (by simp) (by simp) (by simp) (by simp) (by simp)

theorem SameWork.putHdr (o : Opnd) (v : Nat) : SameWork q (q.putHdr c o v) := .writeB q c _ _ _

end

section
variable {s q : State} {c : CtxNo} {i : Nat} {m : Cmd} {u : HdrUpd} {r : Reply} {o : Opnd}

/-- The first command that owes a header update, its header captured or a GATHER_ACC's (R231) and its pages translated, writes the updated
header and completes. -/
theorem exec_headerUpdate (hactive : s.active c = true) (hfirst : findAt Cmd.owesHeader (s.ctx c).cmds 0 = some (i, m))
    (hphase : m.phase = .header u r) (hopnd : s.opnd m.fmts u.desc u.stream = some o)
    (hcaptured : m.op = 0x14 ∨ s.mustCapture c ⟨2, u.desc, 0, 0, 0⟩ = false) (hopen : s.openWrites c m.seq (u.accs o) = (true, q)) :
    exec (.headerUpdate c) s =
      .next (((q.putHdr c o (u.apply (q.readHdr c o))).closeUnit c m.seq (u.accs o)).finish c i r) := by
  have hgo : ¬ (m.op ≠ 0x14 ∧ s.mustCapture c ⟨2, u.desc, 0, 0, 0⟩ = true) := by
    rintro ⟨hop, hmust⟩
    obtain h | h := hcaptured
    · exact hop h
    · exact Bool.false_ne_true (h.symm.trans hmust)
  refine congrArg Host.Outcome.next (?_ : s.headerUpdate c = _)
  unfold State.headerUpdate
  rw [HdrUpd.accs] at hopen
  simp only [hactive, hfirst, hphase, hopnd, if_neg hgo, hopen, Bool.not_true, Bool.false_eq_true, if_false]
  rfl

end

/-! ### The obligation -/

/-- Settles O50: the update is `exec_headerUpdate`; opening and closing its unit change no slot, command or byte. -/
theorem headerUpdateWritesHeader : Obligations.HeaderUpdateWritesHeader := by
  unfold Obligations.HeaderUpdateWritesHeader
  intro s q c i m u r o hactive hfirst hcmd hphase hopnd hcaptured hopen v
  let p := q.putHdr c o v
  let t := p.closeUnit c m.seq (u.accs o)
  have hwork : SameWork s t := ((SameWork.of_openWrites hopen).trans (.putHdr q c o v)).trans (.closeUnit p c m.seq _)
  have hcmdt : (t.ctx c).cmds[i]? = some m := by rw [hwork.cmds, hcmd]
  exact ⟨t.finish c i r, exec_headerUpdate hactive hfirst hphase hopnd hcaptured hopen, State.phase_finish t hcmdt r,
    (State.finish_slots t c i r).trans hwork.slots, (SameMem.closeUnit p c m.seq _).trans (.finish t c i r)⟩

end Sys2Proof.Machine
end

section
/-! SUPPORT. ACCLOAD, ACCSTORE and ZERO of a slot start (R96 to R98, R109, R222, R223): the slot a handle names, the slot that is free, and
what a command that begins on a slot changes. -/

namespace Sys2Proof.Machine

/-! ### The slot a handle names (R96) -/

theorem fld_mod_two_pow {w : Nat} (x : BitVec w) (lo : Nat) {a b : Nat} (h : a ≤ b) : fld x lo b % 2 ^ a = fld x lo a :=
  Nat.mod_mod_of_dvd _ (Nat.pow_dvd_pow 2 h)

section
variable {s : State} {c : CtxNo} {k n : Nat}

theorem State.slotHandle_names (h : s.slotHandle c n = some k) : n % 64 = k ∧ k < 48 ∧ n / 512 % 128 = (s.slot k).gen.toNat := by
  unfold State.slotHandle at h
  dsimp only at h
  split at h
  next hnames =>
    obtain ⟨hlt, -, hgen, -⟩ := hnames
    cases h
    exact ⟨rfl, hlt, hgen⟩
  next => cases h

theorem State.slotHandle_of_gen_ne (h : n / 512 % 128 ≠ (s.slot (n % 64)).gen.toNat) : s.slotHandle c n = none :=
  if_neg fun hnames => h hnames.2.2.1

/-- The next generation is another one. -/
theorem toNat_nextGen_ne (x : BitVec 7) : (x + 1).toNat ≠ x.toNat := by bv_omega

/-- The slot number of a command's handle is the low six bits of its field. -/
theorem Cmd.slot_of_slotHandle {m : Cmd} (h : s.slotHandle c (m.f 128 16) = some k) : m.f 128 6 = k :=
  (fld_mod_two_pow m.pkt 128 (by decide)).symm.trans (State.slotHandle_names h).1

theorem State.freeSlot_lowest {f : Nat} (h : s.freeSlot = some f) : f < 48 ∧ ∀ j, j < f → (s.slot j).state ≠ .free := by
  obtain ⟨hfirst, -⟩ := Option.filter_eq_some_iff.1 h
  obtain ⟨-, hlt, hbefore⟩ := List.find?_range_eq_some.1 hfirst
  exact ⟨List.mem_range.1 hlt, fun j hj => by simpa using hbefore j hj⟩

end

/-! ### A command begins on a slot -/

/-- The state once the command at place `i` is in phase `p`, its slot `k` changed by `g`. -/
def State.beginSlot (s : State) (c : CtxNo) (i k : Nat) (g : Slot → Slot) (p : Phase) : State := (s.modSlot k g).setPhase c i p

section
variable (s : State) {c : CtxNo} {i k : Nat} {m : Cmd} (g : Slot → Slot)

theorem State.beginSlot_frame (p : Phase) :
    s.beginSlot c i k g p = { s with slots := (s.beginSlot c i k g p).slots, ctxs := (s.beginSlot c i k g p).ctxs } := rfl

theorem State.phase_beginSlot (hcmd : (s.ctx c).cmds[i]? = some m) (p : Phase) : PhaseAt (s.beginSlot c i k g p) c i p :=
  State.phase_setPhase (s.modSlot k g) hcmd p

theorem State.slot_beginSlot_same (hk : k < 48) (p : Phase) : (s.beginSlot c i k g p).slot k = g (s.slot k) := by
  rw [State.beginSlot, State.slot_setPhase, State.slot_modSlot, if_pos ⟨rfl, hk⟩]

theorem State.slot_beginSlot_other {j : Nat} (hj : j ≠ k) (p : Phase) : (s.beginSlot c i k g p).slot j = s.slot j := by
  rw [State.beginSlot, State.slot_setPhase, State.slot_modSlot, if_neg fun e => hj e.1]

/-- A command that completes at once changes its slot, its own context and the waits of it. -/
theorem State.finish_modSlot_frame (c : CtxNo) (i k : Nat) (r : Reply) :
    let t := (s.modSlot k g).finish c i r
    t = { s with slots := t.slots, ctxs := t.ctxs, waits := t.waits, sent := t.sent } := by
  intro t
  obtain ⟨hframe, -⟩ := OnlyCtx.finish (s.modSlot k g) c i r
  rw [show t.slots = (s.modSlot k g).slots from State.finish_slots _ c i r]
  exact hframe

end

/-! ### The commands start -/

section
variable {s : State} {c : CtxNo} {i k f : Nat} {m : Cmd} {d : Opnd} {w : WbPlan}
  (hconflict : s.noConflict c i m = true) (hreserved : m.reservedBad = none)
include hconflict hreserved

/-- An ACCLOAD with RESIDENT takes the lowest free slot (R97, R222). -/
theorem exec_accload_resident (hstart : s.starting c 0x04 = some (i, m)) (hhandles : s.accloadHandlesOk c m = true)
    (hresident : m.bit 12 = true) (hopnd : s.opnd m.fmts (m.f 144 16) 0 = some d)
    (hgood : s.accloadBad c m d (m.f 176 3) (m.f 192 32) (m.f 224 32) = none) (hfree : s.freeSlot = some f) :
    exec (.accload c) s = .next (s.beginSlot c i f
      (fun y => { y.take .preload c d.idx (m.f 176 3) (m.f 192 32) (m.f 224 32) with resident := true }) (.running (.load f 0 none))) := by
  refine congrArg Host.Outcome.next (?_ : s.startAccload c = _)
  unfold State.startAccload
  simp only [hstart, hconflict, hhandles, hreserved, hresident, hopnd, hgood, hfree, if_true, Bool.not_true, Bool.false_eq_true, if_false]
  rfl

/-- ZERO of a HELD slot empties it and completes (R98). -/
theorem exec_zeroSlot (hhandle : s.slotHandle c (m.f 128 16) = some k) (hheld : (s.slot k).state = .held)
    (hopen : s.slotShut k = false) (hstart : s.starting c 0x06 = some (i, m)) (htensor : m.bit 12 = false)
    (hcaptured : s.mustCapture c (slotUnit k) = false) :
    exec (.zeroSlot c) s = .next ((s.modSlot k (fun x => { x with elems := [], bad := [], acc := 0 })).finish c i .ok) := by
  refine congrArg Host.Outcome.next (?_ : s.startZeroSlot c = _)
  unfold State.startZeroSlot
  simp only [hstart, htensor, hconflict, hhandle, hreserved, hheld, hopen, hcaptured, ne_eq, not_true_eq_false, decide_false, Bool.or_self,
    Bool.not_true, Bool.false_eq_true, if_false]

section
variable (hslot : m.f 128 6 = k) (hheld : (s.slot k).state = .held) (hopen : s.slotShut k = false)
include hslot hheld hopen

/-- An ACCLOAD into a HELD slot begins its preload (R222). -/
theorem exec_accload_held (hstart : s.starting c 0x04 = some (i, m)) (hhandles : s.accloadHandlesOk c m = true)
    (hresident : m.bit 12 = false) (hopnd : s.opnd m.fmts (s.slot k).desc 0 = some d)
    (hgood : s.accloadBad c m d (s.slot k).feat (m.f 192 32) (m.f 224 32) = none)
    (hcaptured : s.mustCapture c (slotUnit k) = false) :
    exec (.accload c) s = .next (s.beginSlot c i k (fun y => { y with state := .preload }) (.running (.load k 0 none))) := by
  refine congrArg Host.Outcome.next (?_ : s.startAccload c = _)
  unfold State.startAccload
  simp only [hstart, hconflict, hhandles, hreserved, hresident, hslot, hopnd, hgood, hheld, hopen, hcaptured, ne_eq, not_true_eq_false,
    decide_false, Bool.or_self, Bool.not_true, Bool.false_eq_true, if_false]
  rfl

/-- An ACCSTORE puts its HELD slot in WRITEBACK; with RELEASE its generation advances (R109, R223). -/
theorem exec_accstore_held (hstart : s.starting c 0x05 = some (i, m)) (hhandles : s.accstoreHandlesOk c m = true)
    (hplan : s.storePlan m k none none = some w) (hgood : s.accstoreBad c m w = none)
    (hcaptured : m.bit 12 = false ∨ s.mustCapture c (slotUnit k) = false) :
    exec (.accstore c) s = .next (s.beginSlot c i k
      (fun x => { x with state := .writeback, gen := if m.bit 12 then x.gen + 1 else x.gen })
      (.running (.store k 0 0 0 (s.bindFor c m w.dst) none))) := by
  have hgo : (m.bit 12 && s.mustCapture c (slotUnit k)) = false := Bool.and_eq_false_iff.2 hcaptured
  refine congrArg Host.Outcome.next (?_ : s.startAccstore c = _)
  unfold State.startAccstore
  simp only [hstart, hconflict, hhandles, hreserved, hslot, hplan, hgood, hheld, hopen, hgo, ne_eq, not_true_eq_false, decide_false,
    Bool.or_self, Bool.not_true, Bool.false_eq_true, if_false]
  rfl

end

end

/-! ### The obligation -/

/-- Settles O52: each command begins on its slot (`beginSlot`) or, a ZERO, completes at once; a handle released by an ACCSTORE names
nothing because the slot's generation has advanced. -/
theorem slotCommandsStart : Obligations.SlotCommandsStart := by
  unfold Obligations.SlotCommandsStart
  intro s c i k f m d w hcmd hconflict hreserved
  refine ⟨?resident, fun hhandle hheld hopen => ?_⟩
  case resident =>
    intro hstart hhandles hresident hopnd hgood hfree
    obtain ⟨hf, hlowest⟩ := State.freeSlot_lowest hfree
    exact ⟨_, exec_accload_resident hconflict hreserved hstart hhandles hresident hopnd hgood hfree, s.beginSlot_frame _ _,
      s.phase_beginSlot _ hcmd _, s.slot_beginSlot_same _ hf _, fun j hj => s.slot_beginSlot_other _ hj _, hlowest⟩
  obtain ⟨hnumber, hk, hgen⟩ := State.slotHandle_names hhandle
  have hslot : m.f 128 6 = k := Cmd.slot_of_slotHandle hhandle
  refine ⟨?load, ?store, ?zero⟩
  case load =>
    intro hstart hhandles hresident hopnd hgood hcaptured
    exact ⟨_, exec_accload_held hconflict hreserved hslot hheld hopen hstart hhandles hresident hopnd hgood hcaptured,
      s.beginSlot_frame _ _, s.phase_beginSlot _ hcmd _, s.slot_beginSlot_same _ hk _, fun j hj => s.slot_beginSlot_other _ hj _⟩
  case store =>
    intro hstart hhandles hplan hgood hcaptured
    let g (x : Slot) : Slot := { x with state := .writeback, gen := if m.bit 12 then x.gen + 1 else x.gen }
    let t := s.beginSlot c i k g (.running (.store k 0 0 0 (s.bindFor c m w.dst) none))
    have htaken : t.slot k = g (s.slot k) := s.slot_beginSlot_same g hk _
    refine ⟨t, exec_accstore_held hconflict hreserved hslot hheld hopen hstart hhandles hplan hgood hcaptured, s.beginSlot_frame _ _,
      s.phase_beginSlot _ hcmd _, htaken, fun hrelease => ?released, fun j hj => s.slot_beginSlot_other _ hj _⟩
    case released =>
      have hgent : (t.slot k).gen = (s.slot k).gen + 1 := by rw [htaken]; exact if_pos hrelease
      apply State.slotHandle_of_gen_ne
      rw [hnumber, hgent, hgen]
      exact (toNat_nextGen_ne _).symm
  case zero =>
    intro hstart htensor hcaptured
    refine ⟨_, exec_zeroSlot hconflict hreserved hhandle hheld hopen hstart htensor hcaptured, s.finish_modSlot_frame _ c i k _,
      State.phase_finish (s.modSlot k _) hcmd _, ?emptied, fun j hj => ?other⟩
    case emptied => rw [State.slot_finish, State.slot_modSlot, if_pos ⟨rfl, hk⟩]
    case other => rw [State.slot_finish, State.slot_modSlot, if_neg fun e => hj e.1]

end Sys2Proof.Machine
end

section
/-! SUPPORT. GUARD_READ, EARLY_DISCARD and JOURNAL_CAPTURE (R113, R114, R116, R250, R252): what a guard's word latches, and the three ways
in which a capture ends. -/

namespace Sys2Proof.Machine

/-! ### Guards (R250) -/

/-- What a guard's word latches: 1 COMMIT, 2 DISCARD, 0 nothing. -/
def Guard.latchOf (g : Guard) (v : Word) : Nat := if v = g.commitVal then 1 else if v = g.discardVal then 2 else 0

/-- The guard once its read has come back with the word `v`. -/
def Guard.readBack (g : Guard) (v : Word) : Guard := { g with last := v, latch := g.latchOf v, reading := false }

theorem Guard.latchOf_eq_one_iff (g : Guard) (v : Word) : g.latchOf v = 1 ↔ v = g.commitVal := by
  unfold Guard.latchOf
  split
  next h => exact iff_of_true rfl h
  next h => exact iff_of_false (by split <;> decide) h

theorem Guard.latchOf_eq_two_iff {g : Guard} (hne : g.commitVal ≠ g.discardVal) (v : Word) : g.latchOf v = 2 ↔ v = g.discardVal := by
  unfold Guard.latchOf
  split
  next h => exact iff_of_false (by decide) (h ▸ hne)
  next =>
    split
    next h => exact iff_of_true rfl h
    next h => exact iff_of_false (by decide) h

section
variable {s : State} {c : CtxNo} {t0 : Task}

/-- A guard read whose region admits it and whose page is translated comes back with the word in memory. -/
theorem exec_guardRead {g : Guard} (htask : (s.ctx c).task = some t0) (hguard : t0.guard = some g) (halive : s.alive = true)
    (hreading : g.reading = true) (hlatch : g.latch = 0) (hregion : s.regionOk g.region c g.addr (g.addr + 3) true false = true)
    (hpage : s.needOk c (guardNeed t0 g) = true) :
    let v := w32 (s.peekLe c g.addr 4)
    exec (.guardRead c) s = .next (s.modCtx c (fun x => { x with
      task := some { t0 with guard := some (g.readBack v) }, early := x.early || (g.latchOf v == 2 && !x.closes) })) := by
  refine congrArg Host.Outcome.next (?_ : s.guardRead c = _)
  unfold State.guardRead
  simp only [htask, hguard, halive, hreading, hlatch, hregion, hpage, State.guardValue, ne_eq, not_true_eq_false, decide_false, Bool.or_self,
    Bool.or_true, Bool.not_true, Bool.false_eq_true, if_true, if_false]
  rfl

/-! ### Early discards (R252) -/

/-- What a finished early discard makes of its context. -/
def Context.parkDiscarded (x : Context) : Context := { x with state := .parked, parkCause := 2, early := false, xlats := [] }

/-- The record of a guard that has discarded its task. -/
def State.tellDiscard (s : State) (c : CtxNo) (t : Task) : State :=
  match t.guard with
  | some g => s.event c 0x05 (guardPayload t g 1)
  | none => s

/-- The commands all complete and the journal restored, the early discard parks its context. -/
theorem exec_earlyDiscard {q : State} {n : Nat} (htask : (s.ctx c).task = some t0) (hactive : s.active c = true)
    (hearly : (s.ctx c).early = true) (hdone : s.earlierDone c (s.ctx c).cmds.length = true)
    (hrestore : s.restoreTask c t0 s.fmts t0.seq = (true, q, n)) :
    exec (.earlyDiscard c) s = .next ((q.tellDiscard c t0).modCtx c Context.parkDiscarded) := by
  refine congrArg Host.Outcome.next (?_ : s.earlyDiscard c = _)
  unfold State.earlyDiscard
  simp only [hactive, hearly, hdone, htask, hrestore, Bool.not_true, Bool.or_self, Bool.false_eq_true, if_false]
  rfl

end

/-! ### How a capture ends (R114, R116) -/

/-- Passing a unit over counts it and takes nothing of the journal. -/
theorem Task.passUnit_journal (t : Task) (u : Unit) (seq : Word) :
    (t.passUnit u seq).entries = t.entries ∧ (t.passUnit u seq).used = t.used ∧ (t.passUnit u seq).part = true
      ∧ (t.passUnit u seq).unguarded = if t.part then min 0xFFFFFFFF (t.unguarded + 1) else 1 := by
  unfold Task.passUnit
  split
  next h => exact ⟨rfl, rfl, h, rfl⟩
  next => exact ⟨rfl, rfl, rfl, rfl⟩

section
variable (s : State) (c : CtxNo)

/-- The unit is marked as captured: a slot by its TOUCHED bit, with NONFINITE where one of its words is bad (R322), any other by a
touch-table entry. -/
def State.markCaptured (u : Unit) : State :=
  if u.kind = 3 then s.modSlot u.row (fun x => { x with touched := true, acc := accSet x.acc (⟨false, !x.bad.isEmpty⟩ : Flag).bits })
  else { s with touch := s.touch ++ [⟨c, u⟩] }

/-- The capture ends: the unit is marked and the task is `t`, which asks for no capture any longer. -/
def State.endCapture (t : Task) (u : Unit) : State := ((s.markCaptured c u).unpin c).putTask c t

/-- A task that is put is the context's, and no unit waits for its capture. -/
theorem State.ctx_putTask (t : Task) : (s.putTask c t).ctx c = { s.ctx c with task := some t, wantUnit := none } :=
  s.ctx_modCtx_same c _

theorem State.putTask_task (t : Task) : ((s.putTask c t).ctx c).task = some t := by rw [State.ctx_putTask]

theorem State.putTask_wantUnit (t : Task) : ((s.putTask c t).ctx c).wantUnit = none := by rw [State.ctx_putTask]

/-- The state once the accesses `as` of a unit's entry have gone out, `n` of their segments refused. -/
def State.entryOut (seq : Word) (as : List Acc) (n : Nat) : State := (s.issue c seq .journal as).countOob c n

section
variable (seq : Word) (as : List Acc) (n : Nat)

theorem SameMem.entryOut : SameMem s (s.entryOut c seq as n) := .of_eq rfl rfl

theorem State.slots_entryOut : (s.entryOut c seq as n).slots = s.slots := rfl

theorem State.touch_entryOut : (s.entryOut c seq as n).touch = s.touch := rfl

end

variable {u : Unit}

theorem SameMem.endCapture (t : Task) (u : Unit) : SameMem s (s.endCapture c t u) := by
  have hmark : SameMem s (s.markCaptured c u) := by
    unfold State.markCaptured
    split <;> exact .of_eq rfl rfl
  exact hmark.trans (.of_eq rfl rfl)

theorem State.endCapture_task (t : Task) : ((s.endCapture c t u).ctx c).task = some t := State.putTask_task ..

theorem State.endCapture_wantUnit (t : Task) : ((s.endCapture c t u).ctx c).wantUnit = none := State.putTask_wantUnit ..

theorem State.endCapture_unit (h : u.kind ≠ 3) (t : Task) :
    (s.endCapture c t u).touch = s.touch ++ [⟨c, u⟩] ∧ (s.endCapture c t u).slots = s.slots := by
  rw [State.endCapture, State.markCaptured, if_neg h]
  exact ⟨rfl, rfl⟩

theorem State.touch_endCapture_slot (h : u.kind = 3) (t : Task) : (s.endCapture c t u).touch = s.touch := by
  rw [State.endCapture, State.markCaptured, if_pos h]
  rfl

theorem State.slot_endCapture_slot (h : u.kind = 3) (hrow : u.row < 48) (t : Task) : (s.endCapture c t u).slot u.row =
    { s.slot u.row with
      touched := true, acc := accSet (s.slot u.row).acc (⟨false, !(s.slot u.row).bad.isEmpty⟩ : Flag).bits } := by
  rw [State.endCapture, State.putTask, State.unpin, State.slot_modCtx, State.slot_modCtx, State.markCaptured, if_pos h,
    State.slot_modSlot, if_pos ⟨rfl, hrow⟩]

variable {s c}

/-- Opening a unit's accesses marks no unit. -/
theorem State.marks_of_openFor {use : ReqUse} {as : List Acc} {ok : Bool} {q : State} {seq : Word}
    (h : s.openFor c seq use as = (ok, q)) : q.slots = s.slots ∧ q.touch = s.touch := by
  obtain rfl : (s.openFor c seq use as).2 = q := congrArg Prod.snd h
  exact ⟨State.openFor_slots .., State.openFor_touch ..⟩

end

/-! ### Captures (R113) -/

section
variable (s : State) (c : CtxNo)

/-- The operand whose elements a wanted unit names, for the command that wants it; a slot has none. -/
def State.wantedOpnd (u : Unit) : Option Opnd :=
  let cmd := findAt (fun m => m.seq == (s.ctx c).wantSeq) (s.ctx c).cmds 0
  if u.kind = 3 then none else s.opnd ((cmd.map (fun p => p.2.fmts)).getD s.fmts) u.desc (unitStream ((cmd.map (fun p => p.2.op)).getD 0))

variable {s c} {u : Unit} {t0 : Task} (hactive : s.active c = true) (hwant : (s.ctx c).wantUnit = some u)
  (htask : (s.ctx c).task = some t0) (hmust : s.mustCapture c u = true)
include hactive hwant htask hmust

/-- A unit first written by a partial task is only counted. -/
theorem exec_journalCapture_partial (hpart : t0.part = true) :
    exec (.journalCapture c) s = .next (s.putTask c (t0.passUnit u (s.ctx c).wantSeq)) := by
  refine congrArg Host.Outcome.next (?_ : s.capture c = _)
  unfold State.capture
  simp only [State.goesOn, hactive, hwant, htask, hmust, hpart, Bool.true_or, Bool.not_true, Bool.false_eq_true, if_true, if_false]

/-- Any other task becomes partial where the unit's entry finds no room, and else captures it. -/
theorem exec_journalCapture_journal {j : Opnd} {o : Option Opnd} (hpart : t0.part = false) (hjournal : s.journal t0 = some j)
    (hopnd : s.wantedOpnd c u = o) : exec (.journalCapture c) s = .next
      (if t0.capacity < t0.used + entryBytes (unitBytes o u) ∨ 4096 ≤ s.touch.length then s.becomePartial c t0 u (s.ctx c).wantSeq j
        else s.captureUnit c t0 u (s.ctx c).wantSeq j o) := by
  subst hopnd
  refine congrArg Host.Outcome.next (?_ : s.capture c = _)
  unfold State.capture
  simp only [State.goesOn, hactive, hwant, htask, hmust, hpart, hjournal, Bool.true_or, Bool.not_true, Bool.false_eq_true, if_false]
  rfl

end

section
variable {s q : State} {c : CtxNo} {u : Unit} {t0 : Task} {seq : Word} {j : Opnd} {o : Option Opnd}

/-- A unit's entry, its pages translated, is written at the journal's end and the unit is marked. -/
theorem State.captureUnit_of_open :
    let len := entryBytes (unitBytes o u)
    let as := unitAccs o u false ++ [j.areaAcc t0.used len]
    let bytes := leBytes 32 (q.entryHeader t0 o u (unitBytes o u) seq) ++ q.unitBytesOf c o u
    let p := q.putArea c (q.refusals c (j.areaAcc t0.used len)) j t0.used (bytes ++ List.replicate (len - bytes.length) (0 : Byte))
    s.openFor c seq .journal as = (true, q) →
    s.captureUnit c t0 u seq j o =
      (p.entryOut c seq as ((as.map (fun a => (q.refusals c a).length)).foldl (· + ·) 0)).endCapture c
        { t0 with used := t0.used + len, entries := t0.entries + 1 } u := by
  intro len as bytes p hopen
  unfold State.captureUnit
  dsimp only
  rw [hopen]
  rfl

/-- The journal's header, its page translated, is written with PARTIAL. -/
theorem State.becomePartial_of_open :
    let a := { j.areaAcc 0 64 with stream := 0 }
    let t := { t0.passUnit (s.namedUnit u) seq with seen := t0.seen ++ [u] }
    s.openFor c seq .journal [a] = (true, q) →
    s.becomePartial c t0 u seq j =
      (((q.putArea c (q.refusals c a) j 0 (leBytes 64 t.header)).issue c seq .journal [a]).unpin c).putTask c t := by
  intro a t hopen
  unfold State.becomePartial
  dsimp only
  rw [hopen]
  rfl

end

/-! ### The obligation -/

/-- Settles O38: the guard's read is `exec_guardRead`, the early discard `exec_earlyDiscard`; a capture counts its unit
(`Task.passUnit_journal`) or writes its entry and marks it (`captureUnit_of_open`). -/
theorem guardsDecideTasks : Obligations.GuardsDecideTasks := by
  unfold Obligations.GuardsDecideTasks
  intro s q c n u t0 g j htask
  refine ⟨?guard, ?discard, ?capture⟩
  case guard =>
    intro hguard halive hreading hlatch hregion hpage hne v
    refine ⟨_, { t0 with guard := some (g.readBack v) }, g.readBack v,
      exec_guardRead htask hguard halive hreading hlatch hregion hpage, .modCtx s c _, ?_, rfl, rfl, g.latchOf_eq_one_iff v,
      Guard.latchOf_eq_two_iff hne v, rfl⟩
    rw [State.ctx_modCtx_same]
  case discard =>
    intro hactive hearly hdone hrestore
    have hctx := (q.tellDiscard c t0).ctx_modCtx_same c Context.parkDiscarded
    exact ⟨_, exec_earlyDiscard htask hactive hearly hdone hrestore, congrArg Context.state hctx,
      congrArg Context.parkCause hctx, congrArg Context.early hctx⟩
  case capture =>
    intro hactive hwant hmust seq cmd o len
    refine ⟨fun hpart => ?counted, ?captured, ?full⟩
    case counted =>
      obtain ⟨hentries, hused, -, hcount⟩ := t0.passUnit_journal u seq
      rw [if_pos hpart] at hcount
      exact ⟨_, t0.passUnit u seq, exec_journalCapture_partial hactive hwant htask hmust hpart, .modCtx s c _, s.putTask_task c _,
        s.putTask_wantUnit c _, hcount, hentries, hused⟩
    case full =>
      intro hpart hjournal hfull hopen
      have hexec := (exec_journalCapture_journal (o := o) hactive hwant htask hmust hpart hjournal rfl).trans
        (congrArg Host.Outcome.next ((if_pos hfull).trans (State.becomePartial_of_open hopen)))
      obtain ⟨hentries, hused, hpart', hcount⟩ := t0.passUnit_journal (s.namedUnit u) seq
      rw [hpart] at hcount
      exact ⟨_, _, hexec, State.putTask_task _ c _, State.putTask_wantUnit _ c _, hpart', hcount, hentries, hused⟩
    case captured =>
      intro hpart hjournal hroom htouch hopen bytes
      have hfits : ¬ (t0.capacity < t0.used + len ∨ 4096 ≤ s.touch.length) := by omega
      have hexec := (exec_journalCapture_journal (o := o) hactive hwant htask hmust hpart hjournal rfl).trans
        (congrArg Host.Outcome.next ((if_neg hfits).trans (State.captureUnit_of_open hopen)))
      let as := unitAccs o u false ++ [j.areaAcc t0.used len]
      let p := q.putArea c (q.refusals c (j.areaAcc t0.used len)) j t0.used (bytes ++ List.replicate (len - bytes.length) (0 : Byte))
      let v := p.entryOut c seq as ((as.map (fun a => (q.refusals c a).length)).foldl (· + ·) 0)
      let t1 : Task := { t0 with used := t0.used + len, entries := t0.entries + 1 }
      obtain ⟨hqslots, hqtouch⟩ := State.marks_of_openFor hopen
      have hslots : v.slots = s.slots := (p.slots_entryOut ..).trans ((q.putArea_slots ..).trans hqslots)
      have htouched : v.touch = s.touch := (p.touch_entryOut ..).trans ((q.putArea_touch ..).trans hqtouch)
      have hslot (i : Nat) : v.slot i = s.slot i := by rw [State.slot, hslots, State.slot]
      refine ⟨v.endCapture c t1 u, t1, hexec, v.endCapture_task c t1, v.endCapture_wantUnit c t1, rfl, rfl, rfl, hpart,
        (SameMem.entryOut p c seq as _).trans (.endCapture v c t1 u), fun hkind => ?unit, fun hkind hrow => ?slot⟩
      case unit =>
        have hmarked := v.endCapture_unit c hkind t1
        rwa [htouched, hslots] at hmarked
      case slot =>
        have hmarked := v.slot_endCapture_slot c hkind hrow t1
        rw [hslot] at hmarked
        exact ⟨hmarked, (v.touch_endCapture_slot c hkind t1).trans htouched⟩

end Sys2Proof.Machine
end

section
/-! SUPPORT. QSTAT, QCAL and the clip window (R130, R133, R134, R228): a rescale table changes apart from the memories, the bytes a QSTAT
writes, and the tables that QSTAT, QCAL and the end of a window leave. -/

namespace Sys2Proof.Machine

/-! ### Fields of a word that is changed -/

/-- A field below bit `b` reads the lowest `b` bits alone. -/
theorem mod_two_pow_div_mod (x : Nat) {a k b : Nat} (h : a + k ≤ b) : x % 2 ^ b / 2 ^ a % 2 ^ k = x / 2 ^ a % 2 ^ k := by
  obtain ⟨n, rfl⟩ := Nat.exists_eq_add_of_le (Nat.le_of_add_right_le h)
  rw [Nat.pow_add, Nat.mod_mul_right_div_self]
  exact Nat.mod_mod_of_dvd _ (Nat.pow_dvd_pow 2 (by omega))

/-- A word with a field set: the bits below the field, then the field, then the bits above it. -/
theorem setFld_eq {w : Nat} (x : BitVec w) (lo len v : Nat) : setFld x lo len v =
    BitVec.ofNat w (x.toNat % 2 ^ lo + 2 ^ lo * (v % 2 ^ len + 2 ^ len * (x.toNat / 2 ^ (lo + len)))) := by
  rw [setFld, Nat.pow_add, Nat.mul_add, Nat.mul_comm (v % 2 ^ len), Nat.mul_comm (x.toNat / _), Nat.mul_assoc, Nat.add_assoc]

theorem fld_setFld_same {w : Nat} (x : BitVec w) {lo len : Nat} (v : Nat) (h : lo + len ≤ w) :
    fld (setFld x lo len v) lo len = v % 2 ^ len := by
  rw [setFld_eq, fld, BitVec.toNat_ofNat, mod_two_pow_div_mod _ h, Nat.add_mul_div_left _ _ (Nat.two_pow_pos lo),
    Nat.div_eq_of_lt (Nat.mod_lt _ (Nat.two_pow_pos lo)), Nat.zero_add, Nat.add_mul_mod_self_left, Nat.mod_mod]

/-- Setting a field leaves a field below it. -/
theorem fld_setFld_below {w : Nat} (x : BitVec w) {lo len a k : Nat} (v : Nat) (h : a + k ≤ lo) (hw : lo ≤ w) :
    fld (setFld x lo len v) a k = fld x a k := by
  rw [setFld_eq, fld, BitVec.toNat_ofNat, mod_two_pow_div_mod _ (Nat.le_trans h hw), ← mod_two_pow_div_mod _ h, Nat.add_mul_mod_self_left,
    Nat.mod_mod, mod_two_pow_div_mod _ h, fld]

theorem Cmd.f_lt (m : Cmd) (lo len : Nat) : m.f lo len < 2 ^ len := Nat.mod_lt _ (Nat.two_pow_pos len)

/-! ### A rescale table changes -/

section
variable (s : State) (n : Nat) (x y : RescaleTable)

theorem State.rt_congr {s t : State} (h : t.rts = s.rts) (j : Nat) : t.rt j = s.rt j := by rw [State.rt, h, State.rt]

theorem State.rt_setRt_same {n : Nat} (h : n < 8) : (s.setRt n x).rt n = x := by rw [State.rt_setRt, if_pos ⟨rfl, h⟩]

theorem State.rt_setRt_other {n j : Nat} (h : j ≠ n) : (s.setRt n x).rt j = s.rt j := by rw [State.rt_setRt, if_neg fun e => h e.1]

/-- What is the same in the old and the new table is the same in every table. -/
theorem State.rt_setRt_field {α : Type} (f : RescaleTable → α) {n : Nat} {x : RescaleTable} (h : f x = f (s.rt n)) (j : Nat) :
    f ((s.setRt n x).rt j) = f (s.rt j) := by
  rw [State.rt_setRt]
  split
  next hj => rw [h, hj.1]
  next => rfl

@[simp] theorem State.setRt_setRt : (s.setRt n x).setRt n y = s.setRt n y := by
  simp [State.setRt, Vector.setIfInBounds_setIfInBounds]

@[simp] theorem State.setRt_rt : s.setRt n (s.rt n) = s := by
  have h : s.rts.setIfInBounds n (s.rt n) = s.rts := by
    refine Vector.ext fun i hi => ?_
    rw [Vector.getElem_setIfInBounds]
    split
    next hn => simp [State.rt, hn, hi]
    next => rfl
  rw [State.setRt, h]

/-! Writing bytes reads and writes no table. -/

@[simp] theorem State.refusals_setRt (c : CtxNo) (a : Acc) : (s.setRt n x).refusals c a = s.refusals c a := rfl

theorem State.poke_setRt (c : CtxNo) (va : Nat) (b : Byte) : (s.setRt n x).poke c va b = (s.poke c va b).setRt n x := by
  have hxlat : (s.setRt n x).xlat c (pageOf va) = s.xlat c (pageOf va) := rfl
  unfold State.poke State.pokeAt
  rw [hxlat]
  split
  · split <;> rfl
  · rfl

theorem State.writeB_setRt (c : CtxNo) (bad : List (Nat × Nat)) (va : Nat) (l : List Byte) :
    (s.setRt n x).writeB c bad va l = (s.writeB c bad va l).setRt n x := by
  induction l generalizing s va with
  | nil => rfl
  | cons b l ih =>
    simp only [State.writeB]
    split
    · exact ih s (va + 1)
    · rw [State.poke_setRt]
      exact ih _ (va + 1)

@[simp] theorem State.putArea_setRt (c : CtxNo) (bad : List (Nat × Nat)) (o : Opnd) (i : Nat) (l : List Byte) :
    (s.setRt n x).putArea c bad o i l = (s.putArea c bad o i l).setRt n x := by
  induction l generalizing s i with
  | nil => rfl
  | cons b l ih =>
    simp only [State.putArea, State.writeB_setRt]
    exact ih _ (i + 1)

theorem SameMem.setRt : SameMem s (s.setRt n x) := .of_eq rfl rfl

end

/-! ### The end of a clip window (R130) -/

/-- A table whose window, once it has taken 2^20 conversions, has ended. -/
def RescaleTable.endWindow (x : RescaleTable) : RescaleTable :=
  if 2 ^ 20 ≤ x.winConv then { x with winConv := 0, winClips := 0, windows := x.windows + 1 } else x

theorem RescaleTable.endWindow_entries (x : RescaleTable) : x.endWindow.entries = x.entries := by
  unfold RescaleTable.endWindow
  split <;> rfl

theorem State.windowEnd_eq (s : State) (n : Nat) : s.windowEnd n = s.setRt n (s.rt n).endWindow := by
  unfold State.windowEnd RescaleTable.endWindow
  dsimp only
  split
  · rfl
  · rw [State.setRt_rt]

theorem State.rt_windowEnd (s : State) {n : Nat} (h : n < 8) : (s.windowEnd n).rt n = (s.rt n).endWindow := by
  rw [State.windowEnd_eq, State.rt_setRt_same s _ h]

theorem exec_clipWindowEnd (s : State) (n : Fin 8) : exec (.clipWindowEnd n) s = .next (s.setRt n (s.rt n).endWindow) :=
  congrArg Host.Outcome.next (s.windowEnd_eq n)

/-! ### QSTAT (R134) -/

/-- The accesses of a QSTAT: its record and, with RANGES, its bank. -/
def statAccs (o : Opnd) (rng : Option Opnd) : List Acc :=
  o.acc true false (o.byteSpans 0 64) :: rng.toList.map (fun r => r.acc true false (r.byteSpans 0 32768))

/-- The state once the record of table `x` and, with RANGES, its bank are written. -/
def State.putStats (q : State) (c : CtxNo) (o : Opnd) (rng : Option Opnd) (x : RescaleTable) : State :=
  let u := q.putArea c (q.refusals c (o.acc true false (o.byteSpans 0 64))) o 0 (leBytes 64 x.statRecord)
  match rng with
  | some r => u.putArea c (u.refusals c (r.acc true false (r.byteSpans 0 32768))) r 0 x.bankBytes
  | none => u

/-- A table as QSTAT with CLEAR leaves it. -/
def RescaleTable.clearStats (x : RescaleTable) : RescaleTable := { x.clearCounts.clearBank with nanCount := 0 }

/-- A table once a QSTAT has written it, with CLEAR or without. -/
def RescaleTable.afterStats (x : RescaleTable) (clear : Bool) : RescaleTable := if clear then x.clearStats else x

theorem RescaleTable.afterStats_entries (x : RescaleTable) (clear : Bool) : (x.afterStats clear).entries = x.entries := by
  cases clear <;> rfl

section
variable (q : State) (c : CtxNo) (o : Opnd) (rng : Option Opnd) (x : RescaleTable)

theorem State.putStats_rts : (q.putStats c o rng x).rts = q.rts := by
  cases rng <;> simp [State.putStats]

theorem State.putStats_ctxs : (q.putStats c o rng x).ctxs = q.ctxs := by
  cases rng <;> simp [State.putStats]

theorem State.putStats_setRt (n : Nat) (y : RescaleTable) :
    (q.setRt n y).putStats c o rng x = (q.putStats c o rng x).setRt n y := by
  cases rng <;> simp [State.putStats]

end

/-- A QSTAT's bytes written for table `n` as it is, and the table cleared where `clear` says so. -/
def State.writeStats (q : State) (c : CtxNo) (o : Opnd) (rng : Option Opnd) (n : Nat) (clear : Bool) : State :=
  let v := q.putStats c o rng (q.rt n)
  if clear then v.setRt n (v.rt n).clearStats else v

/-- A QSTAT that first ends its table's window writes the bytes of the table with the window ended. -/
theorem State.writeStats_windowEnd (q : State) (c : CtxNo) (o : Opnd) (rng : Option Opnd) {n : Nat} (hn : n < 8) (clear : Bool) :
    let x := (q.rt n).endWindow
    (q.windowEnd n).writeStats c o rng n clear = (q.putStats c o rng x).setRt n (x.afterStats clear) := by
  intro x
  rw [State.windowEnd_eq, State.writeStats, State.rt_setRt_same q x hn, State.putStats_setRt, State.rt_setRt_same _ x hn,
    State.setRt_setRt]
  cases clear <;> rfl

section
variable {s q : State} {c : CtxNo} {i : Nat} {m : Cmd} {o : Opnd} {rng : Option Opnd}

/-! Its unit closed and the command completed. -/

theorem SameMem.completeUnit (p : State) (c : CtxNo) (seq : Word) (as : List Acc) (i : Nat) (r : Reply) :
    SameMem p ((p.closeUnit c seq as).finish c i r) := (SameMem.closeUnit p c seq as).trans (.finish _ c i r)

theorem State.rt_completeUnit (p : State) (c : CtxNo) (seq : Word) (as : List Acc) (i : Nat) (r : Reply) (j : Nat) :
    ((p.closeUnit c seq as).finish c i r).rt j = p.rt j :=
  State.rt_congr ((State.finish_rts _ c i r).trans (p.closeUnit_rts c seq as)) j

theorem State.phase_completeUnit (p : State) (seq : Word) (as : List Acc) (hcmd : (p.ctx c).cmds[i]? = some m) (r : Reply) :
    PhaseAt ((p.closeUnit c seq as).finish c i r) c i (.finished r) :=
  State.phase_finish _ ((congrArg (·[i]?) (p.cmds_closeUnit c seq as c)).trans hcmd) r

theorem State.rts_of_openWrites {seq : Word} {as : List Acc} {ok : Bool} (h : s.openWrites c seq as = (ok, q)) : q.rts = s.rts := by
  obtain rfl : (s.openWrites c seq as).2 = q := congrArg Prod.snd h
  exact State.openWrites_rts s c seq as

/-- A QSTAT that need not wait ends its table's window if that is due, writes and clears the table, and completes. -/
theorem exec_qstat (hconflict : s.noConflict c i m = true) (hstart : s.starting c 0x18 = some (i, m))
    (hrec : (s.handle c (m.f 144 16)).isSome = true) (hopnd : s.opnd m.fmts (m.f 144 16) 0 = some o)
    (hrange : m.bit 13 = false ∨ (s.handle c (m.f 160 16)).isSome = true)
    (hrng : rng = if m.bit 13 then s.opnd m.fmts (m.f 160 16) 1 else none) (hgood : s.qstatBad c m o rng = none)
    (hopen : s.openWrites c m.seq (statAccs o rng) = (true, q)) :
    exec (.qstat c) s = .next ((((q.windowEnd (m.f 128 3)).writeStats c o rng (m.f 128 3) (m.bit 12)).closeUnit c m.seq
      (statAccs o rng)).finish c i .ok) := by
  have hhandles : ((s.handle c (m.f 144 16)).isNone || (m.bit 13 && (s.handle c (m.f 160 16)).isNone)) = false := by
    rw [Option.isNone_eq_false_iff.2 hrec, Bool.false_or, Bool.and_eq_false_iff, Option.isNone_eq_false_iff]
    exact hrange
  refine congrArg Host.Outcome.next (?_ : s.qstat c = _)
  unfold State.qstat
  simp only [hstart, hconflict, hhandles, hopnd, ← hrng, hgood, Bool.not_true, Bool.false_eq_true, if_false]
  cases rng with
  | none =>
    simp only [statAccs, Option.toList_none, List.map_nil] at hopen ⊢
    rw [hopen]
    rfl
  | some r =>
    simp only [statAccs, Option.toList_some, List.map_cons, List.map_nil] at hopen ⊢
    rw [hopen]
    rfl

end

/-! ### QCAL (R133) -/

/-- The entries of a table after a QCAL of `bank` for codes `code`, and the counts of the calibration. -/
def calEntries (code : Nat) (bank : Tbl (BitVec 64)) (entries : Tbl (BitVec 64)) : Tbl (BitVec 64) × CalCounts :=
  bank.foldl (calStep (if code = 0 then 8 else 4)) (entries, ⟨0, 0, 0, 0, 0⟩)

/-- The target of a QCAL: its CODE, CHANNELS and entries are new. -/
def RescaleTable.recoded (x : RescaleTable) (code : Nat) (r : Tbl (BitVec 64) × CalCounts) : RescaleTable :=
  { x with hdr := setFld (setFld x.hdr 1 1 code) 16 13 (max (rtChannels x.hdr) r.2.top), entries := r.1 }

theorem RescaleTable.recoded_code (x : RescaleTable) {code : Nat} (h : code < 2) (r : Tbl (BitVec 64) × CalCounts) :
    rtCode (x.recoded code r).hdr = code := by
  rw [RescaleTable.recoded, rtCode, fld_setFld_below _ _ (by decide) (by decide), fld_setFld_same _ _ (by decide)]
  exact Nat.mod_eq_of_lt h

/-- The reply of a QCAL of a bank of `size` channels (R133). -/
def calReply (size : Nat) (k : CalCounts) : Reply :=
  { Reply.ok with
    result0 := w32 (k.updated + k.constant * 2 ^ 16), result1 := w32 (4096 - size + k.infinite * 2 ^ 16), result2 := w32 k.low }

/-- The tables after a QCAL of bank `b` into table `t`, the bank emptied where `clear` says so. -/
def State.calTables (s : State) (b t code : Nat) (clear : Bool) : State :=
  let v := s.setRt t ((s.rt t).recoded code (calEntries code (s.rt b).ranges (s.rt t).entries))
  if clear then v.setRt b (v.rt b).clearBank else v

section
variable (s : State) {b t j code : Nat} (clear : Bool)

/-- A command that completes having changed tables changes these, its own context and the waits of it. -/
theorem State.finish_tables_frame {v : State} (h : ∃ rts, v = { s with rts := rts }) (c : CtxNo) (i : Nat) (r : Reply) :
    let u := v.finish c i r
    u = { s with rts := u.rts, ctxs := u.ctxs, waits := u.waits, sent := u.sent } := by
  intro u
  obtain ⟨hframe, -⟩ := OnlyCtx.finish v c i r
  rw [show u.rts = v.rts from State.finish_rts v c i r]
  obtain ⟨rts, rfl⟩ := h
  exact hframe

theorem State.calTables_tables : ∃ rts, s.calTables b t code clear = { s with rts := rts } := by
  cases clear <;> exact ⟨_, rfl⟩

/-- Emptying the bank changes nothing of a table but its bank. -/
theorem State.rt_calTables_field {α : Type} (f : RescaleTable → α) (h : ∀ x : RescaleTable, f x.clearBank = f x) (ht : t < 8) :
    f ((s.calTables b t code clear).rt t) = f ((s.rt t).recoded code (calEntries code (s.rt b).ranges (s.rt t).entries)) := by
  cases clear with
  | false => exact congrArg f (State.rt_setRt_same s _ ht)
  | true => exact (State.rt_setRt_field _ f (h _) t).trans (congrArg f (State.rt_setRt_same s _ ht))

theorem State.ranges_calTables (hclear : clear = true) (hb : b < 8) : ((s.calTables b t code clear).rt b).ranges = [] := by
  subst hclear
  exact congrArg RescaleTable.ranges (State.rt_setRt_same _ _ hb)

theorem State.rt_calTables_other (hb : j ≠ b) (ht : j ≠ t) : (s.calTables b t code clear).rt j = s.rt j := by
  cases clear with
  | false => exact State.rt_setRt_other s _ ht
  | true => exact (State.rt_setRt_other _ _ hb).trans (State.rt_setRt_other s _ ht)

end

/-- A QCAL that need not wait and passes its checks leaves the calibrated tables and replies with the counts. -/
theorem exec_qcal {s : State} {c : CtxNo} {i : Nat} {m : Cmd} (hconflict : s.noConflict c i m = true)
    (hstart : s.starting c 0x19 = some (i, m)) (hreserved : m.reservedBad = none)
    (hbank : s.statTableBad c (m.f 128 3) 128 = none) (htable : s.statTableBad c (m.f 131 3) 131 = none) :
    let bank := (s.rt (m.f 128 3)).ranges
    let r := calEntries (m.f 134 1) bank (s.rt (m.f 131 3)).entries
    exec (.qcal c) s = .next ((s.calTables (m.f 128 3) (m.f 131 3) (m.f 134 1) (m.bit 12)).finish c i (calReply bank.length r.2)) := by
  refine congrArg Host.Outcome.next (?_ : s.qcal c = _)
  unfold State.qcal
  simp only [hstart, hconflict, hreserved, hbank, htable, Bool.not_true, Bool.false_eq_true, if_false]
  rfl

/-! ### The obligation -/

/-- Settles O41: a QSTAT is `exec_qstat`, whose table ends its window before it is written and cleared (`writeStats_windowEnd`); a QCAL
is `exec_qcal`, and the end of a window `exec_clipWindowEnd`. -/
theorem statisticsAndCalibration : Obligations.StatisticsAndCalibration := by
  unfold Obligations.StatisticsAndCalibration
  intro s q c i m o rng hcmd hconflict
  refine ⟨?qstat, ?qcal, fun n => ?window⟩
  case qstat =>
    intro hstart hrec hopnd hrange hrng hgood hopen x a u
    have hn : m.f 128 3 < 8 := m.f_lt 128 3
    have hx : x = (q.rt (m.f 128 3)).endWindow := q.rt_windowEnd hn
    let v := q.putStats c o rng x
    let y := x.afterStats (m.bit 12)
    let p := v.setRt (m.f 128 3) y
    let t := (p.closeUnit c m.seq (statAccs o rng)).finish c i .ok
    have hexec : exec (.qstat c) s = .next t := by
      rw [exec_qstat hconflict hstart hrec hopnd hrange hrng hgood hopen, State.writeStats_windowEnd _ _ _ _ hn, ← hx]
    have hrts : q.rts = s.rts := State.rts_of_openWrites hopen
    have hcmdp : (p.ctx c).cmds[i]? = some m := by
      rw [State.ctx_setRt, State.ctx, State.putStats_ctxs, ← State.ctx, (SameWork.of_openWrites hopen).cmds, hcmd]
    have hmem : SameMem v t := (SameMem.setRt v _ y).trans (.completeUnit p c m.seq _ i .ok)
    have hrt (j : Nat) : t.rt j = p.rt j := p.rt_completeUnit c m.seq _ i .ok j
    have hrtn : t.rt (m.f 128 3) = y := (hrt _).trans (State.rt_setRt_same v y hn)
    refine ⟨t, hexec, p.phase_completeUnit m.seq _ hcmdp .ok, ?record, ?ranges, fun hclear => ?cleared,
      ?entries, fun j hj => ?others⟩
    case record => rintro rfl; exact hmem
    case ranges => rintro r rfl; exact hmem
    case cleared =>
      rw [hrtn, show y = x.clearStats from if_pos hclear]
      exact ⟨rfl, rfl, rfl, rfl, rfl, rfl, rfl, rfl⟩
    case entries => rw [hrtn, RescaleTable.afterStats_entries, hx, RescaleTable.endWindow_entries, State.rt_congr hrts]
    case others => rw [hrt, State.rt_setRt_other v y hj, State.rt_congr (q.putStats_rts c o rng x), State.rt_congr hrts]
  case qcal =>
    intro hstart hreserved hbank htable bank r
    let v := s.calTables (m.f 128 3) (m.f 131 3) (m.f 134 1) (m.bit 12)
    let t := v.finish c i (calReply bank.length r.2)
    have hrt (j : Nat) : t.rt j = v.rt j := State.rt_congr (State.finish_rts v c i _) j
    have htables : ∃ rts, v = { s with rts := rts } := s.calTables_tables _
    have hcmdv : (v.ctx c).cmds[i]? = some m := by
      obtain ⟨rts, hv⟩ := htables
      rw [hv]
      exact hcmd
    have ht : m.f 131 3 < 8 := m.f_lt 131 3
    refine ⟨t, exec_qcal hconflict hstart hreserved hbank htable, s.finish_tables_frame htables c i _,
      State.phase_finish v hcmdv _, ?entries, ?code, fun hclear => ?bank, fun j hb hj => ?others⟩
    case entries => rw [hrt]; exact s.rt_calTables_field _ RescaleTable.entries (fun _ => rfl) ht
    case code =>
      rw [hrt, s.rt_calTables_field _ (fun x => rtCode x.hdr) (fun _ => rfl) ht]
      exact RescaleTable.recoded_code _ (m.f_lt 134 1) _
    case bank => rw [hrt, s.ranges_calTables _ hclear (m.f_lt 128 3)]
    case others => rw [hrt, s.rt_calTables_other _ hb hj]
  case window =>
    refine ⟨fun hopen => ?continues, fun hdue => ?ends⟩
    case continues => rw [exec_clipWindowEnd, RescaleTable.endWindow, if_neg (by omega), State.setRt_rt]
    case ends =>
      refine ⟨_, exec_clipWindowEnd s n, rfl, ?_, fun j hj => State.rt_setRt_other s _ hj⟩
      rw [State.rt_setRt_same s _ n.isLt, RescaleTable.endWindow, if_pos hdue]

end Sys2Proof.Machine
end

section
/-! SUPPORT. Every step keeps the invariant (R148, R149, R152, R254, R327, R365, R368): what most commands do is `Keep` of its shared operation;
the commands that change a fixed field, and the engine clock, keep the invariant each by a lemma of its own. -/

namespace Sys2Proof.Machine

/-! ### Commands that leave the fixed fields alone -/

/-- Does the command leave the fields of `State.fixed` alone? The others are named in `OnlyNamedCommandsChangeSecureState`. -/
def keepsFixed : Instr → Bool
  | .tableLoad _ | .assumePosition _ | .keyCommit _ _ | .keyWriteEffect | .regionCommit _ _ | .groupCommit _ _ | .svnCommit _
  | .dbgResponseVerified | .lock | .offRequest | .rampComplete | .neighbourReport => false
  | _ => true

section
variable {s t u v : State}

theorem Keep.ite {p : Prop} [Decidable p] (h : Keep s t) (k : Keep s u) : Keep s (if p then t else u) := by
  split
  · exact h
  · exact k

variable (s)

theorem execNop_keep (c : CtxNo) : ∃ t, execNop c s = .next t ∧ Keep s t := by
  refine ⟨_, rfl, ?_⟩
  split
  · exact (Keep.refl s).finish c _ _
  · exact .refl s

theorem execFence_keep (c : CtxNo) : ∃ t, execFence c s = .next t ∧ Keep s t := by
  refine ⟨_, rfl, ?_⟩
  split
  · exact .ite ((Keep.refl s).finish c _ _) (.refl s)
  · exact .refl s

theorem execSlice_keep : ∃ t, execSlice s = .next t ∧ Keep s t := by
  refine ⟨_, rfl, ?_⟩
  split
  · exact (Keep.refl s).sliceRun _
  · exact (Keep.refl s).takePrio.slicePick

theorem execBarrierPoll_keep (c : CtxNo) : ∃ t, execBarrierPoll c s = .next t ∧ Keep s t := by
  refine ⟨_, rfl, .ite (.refl s) ?_⟩
  split
  · exact .ite ((Keep.refl s).poll c ..) (.refl s)
  · exact .refl s

theorem execBarrierTimeout_keep (c : CtxNo) : ∃ t, execBarrierTimeout c s = .next t ∧ Keep s t := by
  refine ⟨_, rfl, .ite (.refl s) ?_⟩
  split
  · exact .ite (((((Keep.refl s).settleUnits c).setPhase c ..).modCtx c _).event c ..) (.refl s)
  · exact .refl s

theorem execContextResetComplete_keep (c : CtxNo) : ∃ t, execContextResetComplete c s = .next t ∧ Keep s t :=
  have looked : Keep s (s.headerLookup c).2 := (Keep.refl s).headerLookup c
  ⟨_, rfl, .ite (.refl s) (.ite (looked.resetCtx c) looked)⟩

theorem execLateInput_keep (job : BitVec 12) (input : Fin 5) : ∃ t, execLateInput job input s = .next t ∧ Keep s t := by
  refine ⟨_, rfl, .ite (.refl s) ?_⟩
  split
  · exact ((Keep.refl s).late _).portStep
  · exact .refl s

theorem execDbgChallenge_keep : ∃ t, execDbgChallenge s = .next t ∧ Keep s t :=
  ⟨_, rfl, .ite (.refl s) ((Keep.refl s).drawFree.lit rfl rfl rfl rfl)⟩

theorem execPower_keep : ∃ t, execPower s = .next t ∧ Keep s t :=
  ⟨_, rfl, .ite (((Keep.refl s).lit rfl rfl rfl rfl).logErr ..) (.refl s)⟩

theorem execExportSeq_keep (secure : Bool) (v : BitVec 64) : ∃ t, execExportSeq secure v s = .next t ∧ Keep s t := by
  refine ⟨_, rfl, (Keep.refl s).secureWrite (.ite ((Keep.refl s).denied _) ?_) secure _⟩
  exact (Keep.refl s).lit rfl rfl rfl rfl

theorem execRetainRequest_keep : ∃ t, execRetainRequest s = .next t ∧ Keep s t :=
  ⟨_, rfl, .ite (.refl s) (.ite ((Keep.refl s).lit rfl rfl rfl rfl) ((Keep.refl s).lit rfl rfl rfl rfl).retainNext)⟩

theorem execQuickBist_keep (lanes : List (Fin 130)) (columns : List (BitVec 4 × Nat × Nat)) :
    ∃ t, execQuickBist lanes columns s = .next t ∧ Keep s t :=
  have tested := Keep.foldl (s := s) (fun _ (x : BitVec 4 × Nat × Nat) h => h.quickColumn x.1.toNat x.2.1 x.2.2) columns
    (Keep.foldl (fun _ (l : Fin 130) h => h.quickLane l.val) _ (.refl s))
  ⟨_, rfl, .ite (.refl s) (.ite tested (tested.lit rfl rfl rfl rfl))⟩

theorem execImageVerification_keep : ∃ t, execImageVerification s = .next t ∧ Keep s t := by
  refine ⟨_, rfl, .ite (.refl s) ?_⟩
  split
  · exact ((Keep.refl s).startStep 4).lit rfl rfl rfl rfl
  · exact ((Keep.refl s).logErr ..).lit rfl rfl rfl rfl

theorem execPositionRead_keep : ∃ t, execPositionRead s = .next t ∧ Keep s t :=
  ⟨_, rfl, .ite (.refl s) (.ite ((Keep.refl s).logErr ..) (((Keep.refl s).startStep 5).lit rfl rfl rfl rfl))⟩

theorem execProbe_keep (k : Chan) : ∃ t, execProbe k s = .next t ∧ Keep s t :=
  have answered := ((Keep.refl s).tookTrain k).sendAck k
  ⟨_, rfl, .ite (.refl s) (.ite (answered.modTrain k _) answered)⟩

theorem execRetrain_keep (k : Chan) (wrongPos : Option (BitVec 15)) : ∃ t, execRetrain k wrongPos s = .next t ∧ Keep s t := by
  refine ⟨_, rfl, .ite (.refl s) ?_⟩
  cases wrongPos <;> exact .ite ((Keep.refl s).retrainCh k) (.refl s)

theorem execAck_keep (k : Chan) (step : BitVec 4) (pos : BitVec 15) : ∃ t, execAck k step pos s = .next t ∧ Keep s t :=
  have met := (((Keep.refl s).tookTrain k).meet k pos).newPartner k pos
  ⟨_, rfl, .ite (.refl s) (.ite (met.modTrain k _) (.ite (met.modTrain k _) (met.modTrain k _)))⟩

theorem execDigest_keep (k : Chan) (pos : BitVec 15) (crc : BitVec 64) : ∃ t, execDigest k pos crc s = .next t ∧ Keep s t :=
  have met := ((Keep.refl s).tookTrain k).meet k pos
  ⟨_, rfl, .ite (.refl s) (.ite ((met.modTrain k _).sendAck k) (met.rxFail k pos))⟩

theorem execTickBoundary_keep (temps : Vector (BitVec 16) 16) : ∃ t, execTickBoundary temps s = .next t ∧ Keep s t := by
  refine ⟨_, rfl, ?_⟩
  split
  · exact .ite ((Keep.refl s).boundary ..) (.refl s)
  · exact .refl s

end

/-- A command that leaves the fixed fields alone keeps the invariant too. -/
theorem exec_keep (s : State) {i : Instr} (hfixed : keepsFixed i = true) : ∃ t, exec i s = .next t ∧ Keep s t := by
  have k := Keep.refl s
  cases i with
  | nop c => exact execNop_keep s c
  | gradw c => exact ⟨_, rfl, k.startProduct c _⟩
  | gradx c => exact ⟨_, rfl, k.startProduct c _⟩
  | reduce c => exact ⟨_, rfl, k.startReduce c⟩
  | accload c => exact ⟨_, rfl, k.startAccload c⟩
  | accstore c => exact ⟨_, rfl, k.startAccstore c⟩
  | zeroSlot c => exact ⟨_, rfl, k.startZeroSlot c⟩
  | zeroTensor c => exact ⟨_, rfl, k.zeroTensor c⟩
  | descCreate c => exact ⟨_, rfl, k.createDesc c⟩
  | descFree c => exact ⟨_, rfl, k.freeDescCmd c⟩
  | xpose c => exact ⟨_, rfl, k.copyCmd c _⟩
  | permute c => exact ⟨_, rfl, k.copyCmd c _⟩
  | gatherAcc c => exact ⟨_, rfl, k.startGather c⟩
  | qstat c => exact ⟨_, rfl, k.qstat c⟩
  | qcal c => exact ⟨_, rfl, k.qcal c⟩
  | bucketSend c => exact ⟨_, rfl, .ite (k.startBucket c ..).portStep k⟩
  | bucketRecv c => exact ⟨_, rfl, .ite (k.startBucket c ..).portStep k⟩
  | digestRead c => exact ⟨_, rfl, k.digestRead c⟩
  | taskBegin c => exact ⟨_, rfl, k.beginTask c⟩
  | taskCommit c => exact ⟨_, rfl, k.closing c _⟩
  | taskDiscard c => exact ⟨_, rfl, k.closing c _⟩
  | barrierSignal c => exact ⟨_, rfl, k.signal c⟩
  | barrierWait c => exact ⟨_, rfl, k.startWait c⟩
  | fence c => exact execFence_keep s c
  | ckptArm c => exact ⟨_, rfl, k.ckptArm c⟩
  | ctxExport c => exact ⟨_, rfl, k.startExport c⟩
  | ctxImport c => exact ⟨_, rfl, k.startImport c⟩
  | bistSlice c results => exact ⟨_, rfl, k.bistSlice c results⟩
  | chainSetup c => exact ⟨_, rfl, k.setupChain c⟩
  | commandAdmission c => exact ⟨_, rfl, k.admitNext c⟩
  | statusReply c => exact ⟨_, rfl, k.postReply c⟩
  | eventRecord c => exact ⟨_, rfl, k.postHeld c⟩
  | doorbell c v => exact ⟨_, rfl, k.writeTail c v⟩
  | cplHead c v => exact ⟨_, rfl, k.writeHead c v⟩
  | ctxCfg c v => exact ⟨_, rfl, k.writeCfg c _⟩
  | enable c => exact ⟨_, rfl, k.control (k.modCtx c _) c _⟩
  | resume c => exact ⟨_, rfl, k.control (k.resumeCtx c) c _⟩
  | abort c => exact ⟨_, rfl, k.control (k.abortCtx c) c _⟩
  | reset c => exact ⟨_, rfl, k.control (k.beginReset c) c _⟩
  | contextResetComplete c => exact execContextResetComplete_keep s c
  | clearStall => exact ⟨_, rfl, k.writeClear _⟩
  | clearMac => exact ⟨_, rfl, k.writeClear _⟩
  | clearEnergy => exact ⟨_, rfl, k.writeClear _⟩
  | clearIdle => exact ⟨_, rfl, k.writeClear _⟩
  | clearMisc => exact ⟨_, rfl, k.writeClear _⟩
  | clearTempMax => exact ⟨_, rfl, k.writeClear _⟩
  | clearReduce => exact ⟨_, rfl, k.writeClear _⟩
  | clearTick => exact ⟨_, rfl, k.writeClear _⟩
  | clearOobSilent c => exact ⟨_, rfl, k.writeCtxClear c _⟩
  | clearIdx c => exact ⟨_, rfl, k.writeCtxClear c _⟩
  | clearSched c => exact ⟨_, rfl, k.writeCtxClear c _⟩
  | firstValid => exact ⟨_, rfl, k.logLater _⟩
  | clearLost => exact ⟨_, rfl, k.logLater _⟩
  | logSummary mask => exact ⟨_, rfl, k.logWrite id id⟩
  | logRdIdx v => exact ⟨_, rfl, k.writeRdIdx v⟩
  | jobRelease v => exact ⟨_, rfl, .ite (k.releaseJob _) k⟩
  | tlbInvalAll => exact ⟨_, rfl, (k.keepInvalLo _).invalidate _⟩
  | tlbInvalPage page => exact ⟨_, rfl, (k.keepInvalLo _).invalidate _⟩
  | invalidationComplete => exact ⟨_, rfl, k.invalComplete⟩
  | registerWrite ofs width v => exact ⟨_, rfl, k.writeReg _ width v⟩
  | managementWrite reg secure v => exact ⟨_, rfl, k.mgmtWrite reg secure v⟩
  | bindingWordWrite c secure v => exact ⟨_, rfl, k.secureWrite (.ite (k.modCtx c _) (k.denied _)) secure _⟩
  | exportSeq secure v => exact execExportSeq_keep s secure v
  | retainRequest => exact execRetainRequest_keep s
  | retainExit => exact ⟨_, rfl, .ite (k.lit rfl rfl rfl rfl) k⟩
  | dbgChallenge => exact execDbgChallenge_keep s
  | dbgResponse level key r sig => exact ⟨_, rfl, .ite (k.lit rfl rfl rfl rfl) k⟩
  | tickEdge => exact ⟨_, rfl, .ite k (.ite (k.lit rfl rfl rfl rfl) (k.lit rfl rfl rfl rfl))⟩
  | localBoundary => exact ⟨_, rfl, .ite k (.ite (k.lit rfl rfl rfl rfl) ((k.lit rfl rfl rfl rfl).logErr ..))⟩
  | tickBoundary temps => exact execTickBoundary_keep s temps
  | settlePoint c => exact ⟨_, rfl, k.settlePoint c⟩
  | epochPoint => exact ⟨_, rfl, k.epochPoint⟩
  | guardRead c => exact ⟨_, rfl, k.guardRead c⟩
  | earlyDiscard c => exact ⟨_, rfl, k.earlyDiscard c⟩
  | barrierPoll c => exact execBarrierPoll_keep s c
  | barrierTimeout c => exact execBarrierTimeout_keep s c
  | slice => exact execSlice_keep s
  | drain g => exact ⟨_, rfl, .ite (k.drainGroup g) k⟩
  | preload c => exact ⟨_, rfl, k.preloadRows c⟩
  | segmentMerge c => exact ⟨_, rfl, k.segMerge c⟩
  | mergeAddition c => exact ⟨_, rfl, k.mergeAdd c⟩
  | writeBack c => exact ⟨_, rfl, k.writeBack c⟩
  | clipWindowEnd n => exact ⟨_, rfl, k.windowEnd _⟩
  | headerUpdate c => exact ⟨_, rfl, k.headerUpdate c⟩
  | journalCapture c => exact ⟨_, rfl, k.capture c⟩
  | pageCopy c => exact ⟨_, rfl, k.pageCopy c⟩
  | gleanerWindow c => exact ⟨_, rfl, k.gleaner c⟩
  | requestComplete idx ecc => exact ⟨_, rfl, k.requestDone idx ecc⟩
  | correctedWriteBack unit word => exact ⟨_, rfl, .ite (k.lit rfl rfl rfl rfl) k⟩
  | walk page found => exact ⟨_, rfl, k.walkDone _ found⟩
  | park c => exact ⟨_, rfl, k.park c⟩
  | chainBeat e chainId seq beat sig data => exact ⟨_, rfl, k.chainBeat _ chainId _⟩
  | credit src => exact ⟨_, rfl, .ite (k.settleChain ..) k⟩
  | detach e cause => exact ⟨_, rfl, k.detach _ cause⟩
  | detachNotification e fromSucc neighbour terms => exact ⟨_, rfl, .ite (k.settleChain ..) k⟩
  | data ch p => exact ⟨_, rfl, k.packetIn ch p _⟩
  | result ch p => exact ⟨_, rfl, k.packetIn ch p _⟩
  | backup p => exact ⟨_, rfl, k.packetIn _ p _⟩
  | abortPacket ch p => exact ⟨_, rfl, k.packetIn ch p _⟩
  | lateInput job input => exact execLateInput_keep s job input
  | probe ch => exact execProbe_keep s ch
  | ack ch step pos => exact execAck_keep s ch step pos
  | probeSend ch => exact ⟨_, rfl, .ite k ((k.modTrain ch _).sendTrain ch _)⟩
  | trainData ch p => exact ⟨_, rfl, .ite k (((k.tookTrain ch).meet ch _).modTrain ch _)⟩
  | digest ch pos crc => exact execDigest_keep s ch pos crc
  | trainingTimeout ch => exact ⟨_, rfl, .ite (k.rxFail ch _) k⟩
  | retrain ch wrongPos => exact execRetrain_keep s ch wrongPos
  | gnt => exact ⟨_, rfl, .ite k.startRamp k⟩
  | laneGroupRelease g => exact ⟨_, rfl, .ite k (k.lit rfl rfl rfl rfl)⟩
  | power => exact execPower_keep s
  | fallowSlice results => exact ⟨_, rfl, k.fallow results⟩
  | forcedReservation => exact ⟨_, rfl, .ite (k.lit rfl rfl rfl rfl) k⟩
  | bankRewrite unit bank => exact ⟨_, rfl, k.bankRewrite _ bank⟩
  | riskWindowEnd => exact ⟨_, rfl, .ite (k.lit rfl rfl rfl rfl) k⟩
  | resetRelease => exact ⟨_, rfl, .ite ((k.startStep 1).lit rfl rfl rfl rfl) k⟩
  | quickBist lanes columns => exact execQuickBist_keep s lanes columns
  | imageVerification => exact execImageVerification_keep s
  | positionRead => exact execPositionRead_keep s
  | trainingWindowEnd => exact ⟨_, rfl, .ite k (.ite ((Keep.foldl (fun _ a h => h.trainFail a) _ k).startStep 6) k)⟩
  | receiveBufferCredit ch job => exact ⟨_, rfl, .ite (k.modCh ch _).portStep k⟩
  | tableLoad | assumePosition | keyCommit | keyWriteEffect | regionCommit | groupCommit | svnCommit | dbgResponseVerified | lock
  | offRequest | rampComplete | neighbourReport => cases hfixed

end Sys2Proof.Machine
end

section
/-! SUPPORT. The invariant of Safety (R148, R149, R152, R254, R327, R361, R365, R368) at reset and over a step: `Keep` of most commands,
and a lemma for each command that changes a fixed field and for the engine clock. -/

namespace Sys2Proof.Machine

/-! ### Reset -/

theorem reqsOk_nil : ReqsOk [] := ⟨fun _ => Nat.zero_le _, fun _ => Nat.zero_le _, fun _ => Nat.zero_le _⟩

theorem State.inv_reset : State.reset.Inv :=
  ⟨rfl, reqsOk_nil, Nat.zero_le _, Nat.zero_le _, Nat.zero_le _, rfl, Nat.zero_le _, rfl, rfl⟩

/-! ### What a command that changes a fixed field does -/

section
variable {s t : State}

theorem State.Inv.regions (h : s.Inv) {r : Tbl (BitVec 128)} (hr : Tbl.wf 0 r = true) : { s with regions := r }.Inv := by
  obtain ⟨hmem, hreqs, htlb, hwalks, hinvals, hring, hunread, -, hgens⟩ := h
  exact ⟨hmem, hreqs, htlb, hwalks, hinvals, hring, hunread, hr, hgens⟩

theorem State.Inv.power (h : s.Inv) (p : Power) (m : Mgmt) : { s with pow := p, mgmt := m }.Inv := h

theorem State.inv_secureWrite (h : s.Inv) (ht : t.Inv) (secure : Bool) (ofs : Nat) : (s.secureWrite secure ofs t).Inv := by
  unfold State.secureWrite
  split
  · exact h
  · split
    · exact ((Keep.refl s).denied ofs).inv h
    · exact ht

theorem State.inv_takeKey (h : s.Inv) : s.takeKey.Inv := by
  unfold State.takeKey
  split <;> exact h

/-- RETAIN empties the TLB, the walks, the requests, the invalidations and the regions (R305). -/
theorem State.inv_retained (h : s.Inv) : s.retained.Inv := by
  obtain ⟨hmem, -, -, -, -, hring, hunread, -, hgens⟩ := (Keep.refl s).endEc.inv h
  exact (Keep.refl _).report.inv
    ⟨hmem, reqsOk_nil, Nat.zero_le _, Nat.zero_le _, Nat.zero_le _, hring, hunread, rfl, hgens⟩

theorem State.inv_rampDone (h : s.Inv) (r : Ramp) : (s.rampDone r).Inv := by
  have hp : s.rampProgress.Inv := (Keep.refl s).rampProgress.inv h
  cases r with
  | wake | release | mode | retainOut => exact hp
  | retainIn => exact (State.inv_retained hp).power _ _
  | startUp | bistWake | bistRelease => exact ((Keep.refl _).startUpRamp _ _).inv hp

/-- OFF keeps the memories and puts everything else that the invariant names at reset (R304). -/
theorem State.inv_off (h : s.Inv) : s.off.Inv := ⟨h.1, State.inv_reset.2⟩

theorem State.inv_install (h : s.Inv) (c : CtxNo) (id n img : Nat) : (s.install c id n img).2.Inv := by
  unfold State.install
  dsimp only
  split
  case h_6 => exact ((Keep.refl s).loadRescale ..).inv h
  all_goals split <;> exact h

theorem State.inv_tableLoad (h : s.Inv) (c : CtxNo) : (s.tableLoad c).Inv := by
  have finish {u : State} (hu : u.Inv) (i : Nat) (r : Reply) : (u.finish c i r).Inv := ((Keep.refl u).finish c i r).inv hu
  unfold State.tableLoad
  split
  · exact h
  · rename_i i m _
    have hread : (s.readImageRaw c m.seq (m.f 144 48) (m.f 192 32)).2.Inv := ((Keep.refl s).readImageRaw ..).inv h
    dsimp only
    split
    · exact h
    · split
      · exact h
      · split
        · exact finish h _ _
        · split
          · exact hread
          · refine finish (State.inv_install ?_ c _ _ _) _ _
            split
            · exact ((Keep.refl _).keepBound ..).inv hread
            · exact hread

theorem State.inv_takePosition (h : s.Inv) (pos : Nat) (groups : Vector (BitVec 256) 16) (recs : List (BitVec 128)) :
    (s.takePosition pos groups recs).Inv :=
  (Keep.refl _).report.inv h

theorem State.inv_assumeArea (h : s.Inv) (c : CtxNo) (i : Nat) (m : Cmd) (o : Opnd) : (s.assumeArea c i m o).Inv := by
  unfold State.assumeArea
  dsimp only
  split
  · exact ((Keep.refl s).openAll c ..).inv h
  · have hclosed (seq : Word) (as bs : List Acc) : ((s.openAll c seq as).2.closeUnit c seq bs).Inv :=
      (((Keep.refl s).openAll c seq as).closeUnit c seq bs).inv h
    split
    · exact ((Keep.refl _).finish c ..).inv (hclosed ..)
    · exact ((Keep.refl _).setPhase c ..).inv (State.inv_takePosition (hclosed ..) ..)

theorem State.inv_assumePosition (h : s.Inv) (c : CtxNo) : (s.assumePosition c).Inv := by
  have finish (i : Nat) (r : Reply) : (s.finish c i r).Inv := ((Keep.refl s).finish c i r).inv h
  unfold State.assumePosition
  split
  case h_1 =>
    split
    · dsimp only
      split
      · exact finish _ _
      · exact h
    · exact h
  case h_2 =>
    split
    · exact h
    · split
      · exact h
      · split
        · exact finish _ _
        · split
          · split
            · exact finish _ _
            · split
              · exact finish _ _
              · exact State.inv_assumeArea h ..
          · exact finish _ _
          · exact finish _ _

theorem State.inv_dbgResponseVerified (h : s.Inv) : ∃ t, exec .dbgResponseVerified s = .next t ∧ t.Inv := by
  refine ⟨_, rfl, ?_⟩
  have entry (x : Security) (cls : BitVec 6) (sev : BitVec 2) (a b : BitVec 64) : (State.logErr { s with sec := x } cls sev 0x8 none a b).Inv :=
    ((Keep.refl _).logErr ..).inv h
  split
  · exact h
  · split
    · exact h
    · split
      · exact entry ..
      · exact entry ..

end

/-! ### Every command, and the clock -/

theorem exec_inv_of_keepsFixed {s : State} (h : s.Inv) {i : Instr} (hfixed : keepsFixed i = true) : ∃ t, exec i s = .next t ∧ t.Inv := by
  obtain ⟨t, hexec, hkeep⟩ := exec_keep s hfixed
  exact ⟨t, hexec, hkeep.inv h⟩

theorem exec_keepsInv {s : State} (h : s.Inv) (i : Instr) : ∃ t, exec i s = .next t ∧ t.Inv := by
  cases i with
  | tableLoad c => exact ⟨_, rfl, State.inv_tableLoad h c⟩
  | assumePosition c => exact ⟨_, rfl, State.inv_assumePosition h c⟩
  | keyCommit secure v =>
    refine ⟨_, rfl, State.inv_secureWrite h ?_ ..⟩
    split
    · exact State.inv_takeKey h
    · exact h
  | keyWriteEffect =>
    refine ⟨_, rfl, ?_⟩
    split
    · exact State.inv_takeKey h
    · exact h
  | regionCommit secure v =>
    refine ⟨_, rfl, State.inv_secureWrite h ?_ ..⟩
    split
    · obtain ⟨-, -, -, -, -, -, -, hregions, -⟩ := id h
      exact h.regions (Tbl.wf_put _ _ hregions)
    · exact h
  | groupCommit secure v =>
    refine ⟨_, rfl, State.inv_secureWrite h ?_ ..⟩
    split <;> exact h
  | svnCommit secure => 
    refine ⟨_, rfl, State.inv_secureWrite h ?_ ..⟩
    exact h
  | dbgResponseVerified => exact State.inv_dbgResponseVerified h
  | lock =>
    refine ⟨_, rfl, ?_⟩
    split <;> exact h
  | offRequest => exact ⟨_, rfl, State.inv_off h⟩
  | rampComplete =>
    refine ⟨_, rfl, ?_⟩
    split
    · split
      · exact (Keep.refl _).retainNext.inv (State.inv_rampDone h _)
      · exact h
    · exact h
  | neighbourReport =>
    refine ⟨_, rfl, ?_⟩
    split
    · exact ((Keep.refl s.readyTables).report.startStep 7).inv (h.regions (r := []) rfl)
    · exact h
  | _ => exact exec_inv_of_keepsFixed h rfl

theorem clockTick_inv {s : State} (h : s.Inv) : (clockTick s).Inv := by
  have ec {u : State} (hu : u.Inv) : { u with now := u.now + 1 }.Inv := hu
  unfold clockTick
  dsimp only
  split
  · exact (Keep.refl _).rampProgress.retainNext.inv (ec ((Keep.refl _).endEc.inv h))
  · split <;> exact h

/-! ### The obligations -/

/-- Settles O60: nothing is listed at reset. -/
theorem resetMeetsInvariant : Obligations.ResetMeetsInvariant := ⟨State.inv_reset, rfl, rfl⟩

/-- Settles O59: a step is a command (`exec_keepsInv`) or an engine clock (`clockTick_inv`). -/
theorem stepKeepsInvariant : Obligations.StepKeepsInvariant := by
  unfold Obligations.StepKeepsInvariant
  intro s t hinv hstep
  unfold step at hstep
  split at hstep
  case h_1 => cases hstep; exact clockTick_inv hinv
  case h_2 c rest _ =>
    obtain ⟨u, hexec, hu⟩ := exec_keepsInv (s := { s with pending := rest }) hinv c
    cases hexec.symm.trans hstep
    exact hu

end Sys2Proof.Machine
end

section
/-! SUPPORT. REQUEST_COMPLETE (R148) with no GATHER_ACC in progress, and what an ECC event of a read does (R321, R322). -/

namespace Sys2Proof.Machine

/-! ### No GATHER_ACC waits for an acknowledgement -/

section
variable {s : State}

theorem foldl_eq_self {α β : Type} {f : β → α → β} {b : β} {l : List α} (h : ∀ a ∈ l, f b a = b) : l.foldl f b = b := by
  induction l with
  | nil => rfl
  | cons a r ih =>
    rw [List.foldl_cons, h a List.mem_cons_self]
    exact ih fun x hx => h x (List.mem_cons_of_mem a hx)

theorem State.gatherSettle_of_no_gather {c : CtxNo} {x : Nat × Cmd} (h : ∀ g, x.2.phase ≠ .running (.gather g)) :
    State.gatherSettle c s x = s := by
  unfold State.gatherSettle
  split
  · exact absurd ‹_› (h _)
  · rfl

theorem Context.mem_of_mem_placed {x : Context} {p : Nat × Cmd} (h : p ∈ x.placed) : p.2 ∈ x.cmds := (List.of_mem_zip h).2

/-- With no row locked and no GATHER_ACC in progress an acknowledgement ends nothing. -/
theorem State.rowsDone_of_idle (hlocks : s.locks = []) (hgather : ∀ c, ∀ x ∈ (s.ctx c).cmds, ∀ g, x.phase ≠ .running (.gather g)) :
    s.rowsDone = s := by
  have hfree : s.freeLocks = s := by rw [State.freeLocks, hlocks, List.filter_nil, ← hlocks]
  unfold State.rowsDone
  rw [hfree]
  exact foldl_eq_self fun c _ => foldl_eq_self fun p hp =>
    State.gatherSettle_of_no_gather (hgather c p.2 (Context.mem_of_mem_placed hp))

theorem exec_requestComplete (halive : s.alive = true) (hlocks : s.locks = [])
    (hgather : ∀ c, ∀ x ∈ (s.ctx c).cmds, ∀ g, x.phase ≠ .running (.gather g)) (idx : Nat) (e : Ecc) :
    exec (.requestComplete idx e) s = .next ({ s with reqs := dropAt s.reqs idx }.ecc e) := by
  refine congrArg Host.Outcome.next (?_ : s.requestDone idx e = _)
  rw [State.requestDone, halive, Bool.not_true, if_neg Bool.false_ne_true,
    State.rowsDone_of_idle (s := { s with reqs := dropAt s.reqs idx }) hlocks hgather]

theorem exec_correctedWriteBack (halive : s.alive = true) (unit : BitVec 4) (word : Nat) :
    exec (.correctedWriteBack unit word) s =
      .next { s with bist := { s.bist with ce := dropFirst (· == (unit.toNat, word)) s.bist.ce } } :=
  congrArg Host.Outcome.next (if_pos halive)

end

/-! ### ECC events (R321, R322) -/

section
variable (s : State) (word : Nat) (bit : BitVec 8)

/-- The log with the entry of an ECC event. -/
def State.eccEntry (cls : BitVec 6) (sev : BitVec 2) (unit : BitVec 4) : ErrLog :=
  s.logNext cls sev unit none (BitVec.ofNat 64 word) (bit.setWidth 64)

/-- A corrected word of unit 1 to 4 is logged, waits for its write-back and counts as a risk input. -/
theorem State.eccCorrected_stored {unit : BitVec 4} (hlow : 1 ≤ unit.toNat) (hhigh : unit.toNat ≤ 4) :
    s.eccCorrected unit word bit = State.riskNote { s with
      log := s.eccEntry word bit 0x01 1 unit, bist := { s.bist with ce := s.bist.ce ++ [(unit.toNat, word)] } } 0 := by
  have hne : unit ≠ 5 := fun h => by rw [h] at hhigh; exact absurd hhigh (by decide)
  unfold State.eccCorrected
  rw [if_neg (by omega), State.logErr_plain _ _ _ _ _ _ (by decide)]
  dsimp only
  rw [if_neg hne, if_pos hhigh]
  rfl

/-- A corrected TLB entry is logged and dropped. -/
theorem State.eccCorrected_tlb : s.eccCorrected 5 word bit =
    { s with log := s.eccEntry word bit 0x01 1 5, tlb := s.tlb.filter (fun e => e.place != word) } := by
  unfold State.eccCorrected
  rw [if_neg (by decide), State.logErr_plain _ _ _ _ _ _ (by decide)]
  rfl

/-- A slot one of whose elements has an uncorrectable error. -/
def Slot.markBad (k : Nat) (x : Slot) : Slot := if x.bad.contains k then x else { x with bad := x.bad ++ [k] }

theorem Slot.mem_markBad (k : Nat) (x : Slot) : k ∈ (x.markBad k).bad := by
  unfold Slot.markBad
  split
  · exact List.contains_iff_mem.1 ‹_›
  · exact List.mem_append_right _ (List.mem_singleton_self k)

/-- An uncorrectable Clamp element is logged and marked lost. -/
theorem State.eccLost_clamp (hword : word < clampWords) : s.eccLost 1 word bit =
    State.modSlot { s with log := s.eccEntry word bit 0x02 2 1 } (word / 16384) (Slot.markBad (word % 16384)) := by
  unfold State.eccLost
  rw [if_neg (by decide), if_neg (by decide), if_pos rfl, State.logErr_plain _ _ _ _ _ _ (by decide)]
  exact if_neg (Nat.not_le.2 hword)

/-- An uncorrectable word of another store stops the engine. -/
theorem State.eccLost_fatal {unit : BitVec 4} (hzero : unit.toNat ≠ 0) (hhigh : unit.toNat ≤ 7) (htlb : unit ≠ 5) (hclamp : unit ≠ 1) :
    s.eccLost unit word bit = s.logErr 0x02 3 unit none (BitVec.ofNat 64 word) (bit.setWidth 64) := by
  unfold State.eccLost
  rw [if_neg (by omega), if_neg htlb, if_neg hclamp]

end

/-! ### The obligation -/

/-- Settles O36: a request that completes only leaves the list (`exec_requestComplete`), and its ECC event acts on the state that is left. -/
theorem requestsAndEccEvents : Obligations.RequestsAndEccEvents := by
  unfold Obligations.RequestsAndEccEvents
  intro s idx word bit halive hlocks hgather
  have hexec := exec_requestComplete halive hlocks hgather idx
  let q := { s with reqs := dropAt s.reqs idx }
  refine ⟨?clean, ?corrected, ?tlb, fun rest hce => ?writeBack, fun hword => ?lost, ?fatal⟩
  case clean => exact hexec .clean
  case corrected =>
    exact ⟨_, (hexec _).trans (congrArg _ (q.eccCorrected_stored word bit (by decide) (by decide))), rfl,
      q.logNext_summary .., .of_eq rfl rfl, rfl⟩
  case tlb =>
    exact ⟨_, (hexec _).trans (congrArg _ (q.eccCorrected_tlb word bit)), rfl, q.logNext_summary .., .of_eq rfl rfl⟩
  case writeBack =>
    rw [exec_correctedWriteBack halive, hce]
    simp [dropFirst]
  case lost =>
    refine ⟨_, (hexec _).trans (congrArg _ (q.eccLost_clamp word bit hword)), ?_, rfl, .of_eq rfl rfl⟩
    rw [State.slot_modSlot, if_pos ⟨rfl, by omega⟩]
    exact Slot.mem_markBad _ _
  case fatal =>
    exact ⟨_, (hexec _).trans (congrArg _ (q.eccLost_fatal word bit (by decide) (by decide) (by decide) (by decide))), rfl, rfl⟩

end Sys2Proof.Machine
end

section
/-! SUPPORT. DESC_CREATE and DESC_FREE (R141, R145, R146): an image that is read changes no command but by itself, and starts none; the
entry an image makes and the entry that is freed. -/

namespace Sys2Proof.Machine

/-! ### A list that is the same under a map -/

section
variable {α β : Type} {g : α → β}

theorem map_setAt {l : List α} {i : Nat} {a b : α} (hl : l[i]? = some a) (h : g b = g a) : (setAt l i b).map g = l.map g := by
  induction l generalizing i with
  | nil => rfl
  | cons x l ih =>
    cases i with
    | zero =>
      obtain rfl : x = a := by simpa using hl
      rw [setAt, List.map_cons, List.map_cons, h]
    | succ i => rw [setAt, List.map_cons, List.map_cons, ih (by simpa using hl)]

theorem any_eq_of_map_eq {g : α → α} {f : α → Bool} (hf : ∀ a, f (g a) = f a) {l r : List α} (h : l.map g = r.map g) : l.any f = r.any f := by
  have hmap (k : List α) : (k.map g).any f = k.any f := by rw [List.any_map, show f ∘ g = f from funext hf]
  rw [← hmap l, h, hmap]

theorem findAt_map {g : α → α} {p : α → Bool} (hp : ∀ a, p (g a) = p a) (l : List α) (n : Nat) :
    findAt p (l.map g) n = (findAt p l n).map (Prod.map id g) := by
  induction l generalizing n with
  | nil => rfl
  | cons a l ih =>
    rw [List.map_cons, findAt, findAt, hp]
    split
    · rfl
    · exact ih _

end

/-! ### The image of a command starts nothing -/

/-- A command without its image. -/
def Cmd.dropImg (m : Cmd) : Cmd := { m with img := none }

/-- The same commands stand in context `c`, their images apart, and what else says whether one of them may start is the same. -/
structure SameStart (c : CtxNo) (s t : State) : Prop where
  active : t.active c = s.active c
  bist : t.bist = s.bist
  tick : t.tick = s.tick
  cmds : (t.ctx c).cmds.map Cmd.dropImg = (s.ctx c).cmds.map Cmd.dropImg

section
variable {s t q : State} {c : CtxNo} {i : Nat} {m : Cmd}

theorem State.starting_eq_none_iff (op : Nat) : s.starting c op = none ↔
    (s.active c = true → ∀ j k, (s.ctx c).firstQueued = some (j, k) →
      ¬ (k.op = op ∧ ¬ ((s.ctx c).cmds.take j).any (fun k => k.holdsLater c && !k.letsArm op) ∧ ¬ s.barred k)) := by
  unfold State.starting
  cases s.active c with
  | false => simp
  | true =>
    cases (s.ctx c).firstQueued with
    | none => simp
    | some x =>
      obtain ⟨j, k⟩ := x
      simp

theorem SameStart.starting_eq_none (h : SameStart c s t) {op : Nat} (hnone : s.starting c op = none) : t.starting c op = none := by
  rw [State.starting_eq_none_iff] at hnone ⊢
  intro hactive j k hfirst hcond
  obtain ⟨hop, hheld, hbarred⟩ := hcond
  have hqueued (x : Context) : findAt (fun m => m.phase.isQueued) (x.cmds.map Cmd.dropImg) 0 = x.firstQueued.map (Prod.map id Cmd.dropImg) :=
    findAt_map (g := Cmd.dropImg) (fun _ => rfl) _ _
  have hsame : (s.ctx c).firstQueued.map (Prod.map id Cmd.dropImg) = some (j, k.dropImg) := by
    rw [← hqueued, ← h.cmds, hqueued, hfirst]
    rfl
  obtain ⟨⟨j', k'⟩, hfirst', heq⟩ := Option.map_eq_some_iff.1 hsame
  obtain ⟨rfl, hk⟩ := Prod.mk.inj heq
  have hop' : k'.op = k.op := show k'.dropImg.op = k.dropImg.op from congrArg Cmd.op hk
  have hbarred' : s.barred k' = t.barred k := by
    rw [State.barred, State.barred, Cmd.usesTables, Cmd.usesTables, hop', State.unitShut, State.unitShut, State.unitShut,
      State.unitShut, State.unitShut, State.unitShut, h.bist, h.tick]
  refine hnone (h.active ▸ hactive) _ k' hfirst' ⟨hop'.trans hop, ?_, hbarred'.symm ▸ hbarred⟩
  rw [any_eq_of_map_eq (g := Cmd.dropImg) (f := fun k => k.holdsLater c && !k.letsArm op) (fun _ => rfl) (r := (t.ctx c).cmds.take j')
    (by rw [List.map_take, List.map_take, h.cmds])]
  exact hheld

/-! ### An image is read (R141) -/

theorem Fr.of_readImageRaw {seq : Word} {va n : Nat} {b : Bool} (h : s.readImageRaw c seq va n = (b, q)) : Fr (imageWork c) s q := by
  have frame : Fr (imageWork c) s (s.readImageRaw c seq va n).2 := by
    apply Fr.readImageRaw (Fr.refl _ s) <;> simp [imageWork]
  rwa [h] at frame

theorem SameWork.of_readImageRaw {seq : Word} {va n : Nat} {b : Bool} (h : s.readImageRaw c seq va n = (b, q)) : SameWork s q := by
  obtain rfl : (s.readImageRaw c seq va n).2 = q := congrArg Prod.snd h
  unfold State.readImageRaw
  dsimp only
  split
  · exact .acquire s c _
  · exact (SameWork.acquire s c (imageNeeds va n seq)).trans (.of_same (by simp) (by simp) (by simp) (by simp) (by simp) (by simp))

/-- The image `img` that the command at place `i` has read. -/
def State.keepImage (q : State) (c : CtxNo) (i : Nat) (m : Cmd) (img : BitVec 1024) : State :=
  (q.modCtx c (fun x => x.setCmd i { m with img := some img })).unpin c

theorem State.cmds_keepImage (q : State) (c : CtxNo) (i : Nat) (m : Cmd) (img : BitVec 1024) :
    ((q.keepImage c i m img).ctx c).cmds = setAt (q.ctx c).cmds i { m with img := some img } := by
  rw [State.keepImage, State.cmds_unpin, State.ctx_modCtx_same]
  rfl

theorem SameGo.keepImage (hcmd : (q.ctx c).cmds[i]? = some m) (img : BitVec 1024) : SameGo q (q.keepImage c i m img) := by
  have hcmds : ((q.ctx c).setCmd i { m with img := some img }).cmds.map Cmd.dropImg = (q.ctx c).cmds.map Cmd.dropImg :=
    map_setAt hcmd rfl
  refine SameGo.trans (t := q.modCtx c (fun x => x.setCmd i { m with img := some img }))
    ⟨rfl, rfl, rfl, fun d => ?standing, fun d e => ?exports⟩ (SameWork.unpin _ c).go
  case standing =>
    rw [State.ctx_modCtx]
    split
    next hd => rw [hd]; rfl
    next => rfl
  case exports =>
    rw [State.ctx_modCtx]
    split
    next hd => rw [hd]; exact any_eq_of_map_eq (g := Cmd.dropImg) (fun _ => rfl) hcmds
    next => rfl

theorem SameStart.keepImage (hcmd : (q.ctx c).cmds[i]? = some m) (img : BitVec 1024) : SameStart c q (q.keepImage c i m img) where
  active := (SameGo.keepImage hcmd img).active c
  bist := rfl
  tick := rfl
  cmds := by
    rw [State.cmds_keepImage]
    exact map_setAt hcmd rfl

theorem SameStart.of_readImageRaw {seq : Word} {va n : Nat} {b : Bool} (h : s.readImageRaw c seq va n = (b, q)) : SameStart c s q where
  active := (SameWork.of_readImageRaw h).go.active c
  bist := (Fr.of_readImageRaw h).same .bist (by simp [imageWork])
  tick := (Fr.of_readImageRaw h).same .tick (by simp [imageWork])
  cmds := by rw [State.cmds_of_readImageRaw h]

theorem SameStart.trans {u : State} (h : SameStart c s t) (k : SameStart c t u) : SameStart c s u :=
  ⟨k.active.trans h.active, k.bist.trans h.bist, k.tick.trans h.tick, k.cmds.trans h.cmds⟩

/-- A DESC_CREATE at its admission whose address is good keeps the image it read, and does not start by it. -/
theorem exec_descCreate_reads (hcmd : (s.ctx c).cmds[i]? = some m) (hat : s.atAdmission c 0x10 = some (i, m))
    (hstart : s.starting c 0x10 = none) (hreserved : m.reservedBad = none) (halign : m.f 128 48 % 128 = 0)
    (hregion : (s.findRegion c (m.f 128 48) (m.f 128 48 + 127) true false).isSome = true)
    (hfree : s.readFree c i (m.f 128 48) 128 = true) (hread : s.readImageRaw c m.seq (m.f 128 48) 128 = (true, q)) :
    exec (.descCreate c) s = .next (q.keepImage c i m (BitVec.ofNat 1024 (q.peekLe c (m.f 128 48) 128))) := by
  have hcmdq : (q.ctx c).cmds[i]? = some m := by rw [State.cmds_of_readImageRaw hread, hcmd]
  have hfetch : s.fetchDesc c = q.keepImage c i m (BitVec.ofNat 1024 (q.peekLe c (m.f 128 48) 128)) := by
    unfold State.fetchDesc
    simp only [hat, hreserved, halign, hfree, hread, Option.isNone_eq_false_iff.2 hregion, ne_eq, not_true_eq_false, if_false,
      Bool.not_true, Bool.false_eq_true]
    rfl
  have hlater (img : BitVec 1024) : (q.keepImage c i m img).starting c 0x10 = none :=
    ((SameStart.of_readImageRaw hread).trans (.keepImage hcmdq img)).starting_eq_none hstart
  refine congrArg Host.Outcome.next (?_ : (s.fetchDesc c).makeDesc c = _)
  rw [hfetch]
  unfold State.makeDesc
  simp only [hlater]

/-! ### An entry is made (R145) -/

/-- The entry that is free is the lowest-numbered one. -/
theorem State.freeDesc_lowest {n f k : Nat} (h : s.freeDesc n f = some k) :
    k < n + f ∧ s.descAt k = none ∧ ∀ j, n ≤ j → j < k → (s.descAt j).isSome = true := by
  induction f generalizing n with
  | zero => cases h
  | succ f ih =>
    unfold State.freeDesc at h
    split at h
    · obtain rfl := Option.some.inj h
      exact ⟨by omega, Option.isNone_iff_eq_none.1 ‹_›, fun j hle hlt => absurd hlt (by omega)⟩
    · obtain ⟨hlt, hfree, hbelow⟩ := ih h
      refine ⟨by omega, hfree, fun j hle hjk => ?_⟩
      obtain rfl | hj := Nat.eq_or_lt_of_le hle
      · exact Option.isSome_iff_ne_none.2 (mt Option.isNone_iff_eq_none.2 ‹_›)
      · exact hbelow j hj hjk

/-- A DESC_CREATE whose image passes its checks makes the entry and replies with its handle. -/
theorem exec_descCreate_makes {k : Nat} {img : BitVec 1024} (hat : s.atAdmission c 0x10 = none)
    (hstart : s.starting c 0x10 = some (i, m)) (himg : m.img = some img)
    (hgood : s.imageBad c m.fmts (s.newDesc c m.fmts img) = none) (hfree : s.freeDesc 0 1024 = some k) :
    exec (.descCreate c) s = .next (State.finish { s with descs := s.descs ++ [(k, s.newDesc c m.fmts img)] } c i
      { Reply.ok with result0 := w32 (s.handleOf k) }) := by
  have hfetch : s.fetchDesc c = s := by rw [State.fetchDesc, hat]
  refine congrArg Host.Outcome.next (?_ : (s.fetchDesc c).makeDesc c = _)
  rw [hfetch]
  unfold State.makeDesc
  simp only [hstart, himg, hgood, hfree]

/-- The descriptors that a command which completes leaves are those it was given. -/
theorem State.descAt_congr (h : t.descs = s.descs) (j : Nat) : t.descAt j = s.descAt j := by rw [State.descAt, h, State.descAt]

theorem State.handleOf_mod {k : Nat} (h : k < 1024) : s.handleOf k % 1024 = k := by
  rw [State.handleOf, Nat.add_mul_mod_self_right, Nat.mod_eq_of_lt h]

theorem State.handleOf_gen {k : Nat} (h : k < 1024) : s.handleOf k / 1024 % 64 = (Tbl.get 0 s.descGen k).toNat := by
  have hgen := (Tbl.get 0 s.descGen k).isLt
  rw [State.handleOf]
  omega

/-- The handle of an entry names it for its context while the generations stay. -/
theorem State.handle_handleOf {k : Nat} {d : Desc} (hk : k < 1024) (hgens : t.descGen = s.descGen) (hdesc : t.descAt k = some d)
    (hctx : d.ctx = c) : t.handle c (s.handleOf k) = some d := by
  rw [State.handle, State.handleOf_mod hk, hdesc, hgens, State.handleOf_gen hk]
  exact if_pos ⟨rfl, hctx⟩

theorem State.descAt_append {k : Nat} (d : Desc) (hfree : s.descAt k = none) :
    State.descAt { s with descs := s.descs ++ [(k, d)] } k = some d := by
  have hnone : s.descs.find? (fun p => p.1 == k) = none := Option.map_eq_none_iff.1 hfree
  simp [State.descAt, hnone]

/-! ### An entry is freed (R146) -/

/-- The state once entry `k` is freed and its generation has advanced. -/
def State.dropDesc (s : State) (k : Nat) : State :=
  { s with descs := s.descs.filter (fun p => p.1 != k), descGen := Tbl.put 0 s.descGen k (Tbl.get 0 s.descGen k + 1) }

theorem State.descAt_dropDesc_same (s : State) (k : Nat) : (s.dropDesc k).descAt k = none := by
  simp [State.descAt, State.dropDesc, List.find?_filter]

theorem State.descAt_dropDesc_other (s : State) {j k : Nat} (h : j ≠ k) : (s.dropDesc k).descAt j = s.descAt j := by
  rw [State.descAt, State.dropDesc, List.find?_filter, State.descAt]
  congr 2
  funext p
  by_cases hp : p.1 = j <;> simp [hp, h]

/-- A DESC_FREE of an entry that is not in use frees it and completes. -/
theorem exec_descFree (hstart : s.starting c 0x11 = some (i, m)) (hearlier : s.earlierDone c i = true)
    (hhandle : (s.handle c (m.f 128 16)).isSome = true) (hreserved : m.reservedBad = none) (hidle : s.descInUse (m.f 128 10) = false) :
    exec (.descFree c) s = .next ((s.dropDesc (m.f 128 10)).finish c i .ok) := by
  obtain ⟨d, hd⟩ := Option.isSome_iff_exists.1 hhandle
  refine congrArg Host.Outcome.next (?_ : s.freeDescCmd c = _)
  unfold State.freeDescCmd
  simp only [hstart, hearlier, hd, hreserved, hidle, Bool.not_true, Bool.false_eq_true, if_false]
  rfl

end

/-! ### The obligation -/

/-- Settles O40: the image kept is `exec_descCreate_reads`, the entry made `exec_descCreate_makes` and the entry freed `exec_descFree`. -/
theorem descriptorsCreatedAndFreed : Obligations.DescriptorsCreatedAndFreed := by
  unfold Obligations.DescriptorsCreatedAndFreed
  intro s q c i k m img hcmd
  refine ⟨?reads, ?makes, ?frees⟩
  case reads =>
    intro hat hstart hreserved halign hregion hfree hread
    have hframe := Fr.of_readImageRaw hread
    refine ⟨_, exec_descCreate_reads hcmd hat hstart hreserved halign hregion hfree hread,
      (hframe.sameMem (by simp [imageWork]) (by simp [imageWork])).trans (.of_eq rfl rfl),
      hframe.same .descs (by simp [imageWork]), ?_⟩
    rw [State.cmds_keepImage, getElem?_setAt, if_pos rfl, State.cmds_of_readImageRaw hread, hcmd]
    rfl
  case makes =>
    intro hat hstart himg hgood hfree
    obtain ⟨hlt, hnone, hbelow⟩ := State.freeDesc_lowest hfree
    let v := { s with descs := s.descs ++ [(k, s.newDesc c m.fmts img)] }
    refine ⟨_, exec_descCreate_makes hat hstart himg hgood hfree, (OnlyCtx.finish v c i _).1, State.phase_finish v hcmd _,
      State.handle_handleOf (by omega) (State.finish_descGen v c i _) ?_ rfl, fun j hj => hbelow j (Nat.zero_le j) hj⟩
    rw [State.descAt_congr (State.finish_descs v c i _)]
    exact State.descAt_append _ hnone
  case frees =>
    intro hstart hearlier hhandle hreserved hidle hwf
    let k := m.f 128 10
    let t := (s.dropDesc k).finish c i .ok
    have hdescs : t.descs = (s.dropDesc k).descs := State.finish_descs _ c i _
    have hgens : t.descGen = (s.dropDesc k).descGen := State.finish_descGen _ c i _
    have hnone : t.descAt k = none := (State.descAt_congr hdescs k).trans (s.descAt_dropDesc_same k)
    have hentry : m.f 128 16 % 1024 = k := fld_mod_two_pow m.pkt 128 (a := 10) (b := 16) (by decide)
    obtain ⟨hframe, -⟩ := OnlyCtx.finish (s.dropDesc k) c i .ok
    refine ⟨t, exec_descFree hstart hearlier hhandle hreserved hidle, ?frame, State.phase_finish (s.dropDesc k) hcmd .ok, ?gone, hnone, ?gen, ?others⟩
    case frame =>
      rw [hdescs, hgens]
      exact hframe
    case gone => rw [State.handle, hentry, hnone]
    case gen =>
      rw [hgens]
      exact (Tbl.get_put _ _ _ hwf).trans (if_pos rfl)
    case others => exact fun j hj => (State.descAt_congr hdescs j).trans (s.descAt_dropDesc_other hj)

end Sys2Proof.Machine
end

section
/-! SUPPORT. RESUME and ABORT (R160, R190): a context that runs again has each of its commands resumed once, in ring order, and each of them
only by its own phase. -/

namespace Sys2Proof.Machine

/-! ### One command resumed -/

/-- A context that runs again. -/
def Context.unpark (x : Context) : Context := { x with state := .running, fault := none }

/-- Between `s` and `t` context `c` has changed its command at place `i` at most, and nothing that says whether it may start a unit. -/
structure OnlyCmd (c : CtxNo) (i : Nat) (s t : State) : Prop where
  standing : (t.ctx c).standing = (s.ctx c).standing
  others : ∀ j, j ≠ i → (t.ctx c).cmds[j]? = (s.ctx c).cmds[j]?

section
variable {s t : State} {c : CtxNo} {i j : Nat}

theorem OnlyCmd.refl (c : CtxNo) (i : Nat) (s : State) : OnlyCmd c i s s := ⟨rfl, fun _ _ => rfl⟩

theorem OnlyCmd.of_ctx {u : State} (h : OnlyCmd c i s t) (hctx : u.ctx c = t.ctx c) : OnlyCmd c i s u := by
  refine ⟨?_, fun j hj => ?_⟩
  · rw [hctx, h.standing]
  · rw [hctx, h.others j hj]

theorem OnlyCmd.setPhase (s : State) (c : CtxNo) (i : Nat) (p : Phase) : OnlyCmd c i s (s.setPhase c i p) := by
  refine ⟨?_, fun j hj => State.cmds_setPhase_other s hj p⟩
  rw [State.ctx_setPhase, if_pos rfl]
  split <;> rfl

theorem OnlyCmd.finish (s : State) (c : CtxNo) (i : Nat) (r : Reply) : OnlyCmd c i s (s.finish c i r) := by
  refine ⟨?_, fun j hj => State.cmds_finish_other s hj r⟩
  rw [State.finish, (SameWork.unpin _ c).go.standing, (OnlyCmd.setPhase _ c i _).standing, State.ctx_unwaitCmd]

/-- A recomputed position changes its job, and the log besides. -/
theorem OnlyCmd.resync (s : State) (c : CtxNo) (i : Nat) (m : Cmd) (p : ProdOps) (x : ProdJob) : OnlyCmd c i s (s.resync c i m p x) := by
  have logged (u : State) (l : List (Nat × Nat)) : Fr [.eng, .log, .mgmt] u (l.foldl (fun t x =>
      t.logErr 0x08 0 0x8 (some c) (BitVec.ofNat 64 x.1) (BitVec.ofNat 64 x.2)) u) :=
    Fr.foldl (fun _ _ h => h.logErr _ _ _ _ _ _ (by simp) (by simp) (by simp)) l (Fr.refl _ u)
  exact (OnlyCmd.setPhase s c i _).of_ctx ((logged _ _).same (.ctx c) (by simp))

theorem OnlyCmd.resumeCmd (s : State) (c : CtxNo) (i : Nat) : OnlyCmd c i s (s.resumeCmd c i) := by
  unfold State.resumeCmd
  split
  · exact .refl c i s
  · split
    · split
      · exact .finish s c i _
      · exact .setPhase s c i _
    · split
      · split
        · exact .refl c i s
        · exact .resync s c i _ _ _
      · exact .refl c i s
    · exact .refl c i s

theorem State.cmdAt_of_phaseAt {p : Phase} (h : PhaseAt s c i p) : ∃ m, s.cmdAt c i = some m ∧ m.phase = p :=
  Option.map_eq_some_iff.1 h

/-- An unsatisfied WAIT counts its boundaries anew. -/
theorem State.resumeCmd_unsatisfied {v : BitVec 64} {seen : Option Nat} {n : Nat} {timed : Bool}
    (h : PhaseAt s c i (.running (.waitCounter v seen n false timed))) :
    PhaseAt (s.resumeCmd c i) c i (.running (.waitCounter v seen 0 false false)) := by
  obtain ⟨m, hcmd, hphase⟩ := State.cmdAt_of_phaseAt h
  have heq : s.resumeCmd c i = s.setPhase c i (.running (.waitCounter v seen 0 false false)) := by
    unfold State.resumeCmd
    simp [hcmd, hphase]
  rw [heq]
  exact State.phase_setPhase s hcmd _

/-- A satisfied WAIT completes with the counter's value. -/
theorem State.resumeCmd_satisfied {v : BitVec 64} {seen : Option Nat} {n : Nat} {timed : Bool}
    (h : PhaseAt s c i (.running (.waitCounter v seen n true timed))) :
    PhaseAt (s.resumeCmd c i) c i (.finished (counterReply v)) := by
  obtain ⟨m, hcmd, hphase⟩ := State.cmdAt_of_phaseAt h
  have heq : s.resumeCmd c i = s.finish c i (counterReply v) := by
    unfold State.resumeCmd
    simp [hcmd, hphase, counterReply]
  rw [heq]
  exact State.phase_finish s hcmd _

theorem State.resumeCmd_finished {r : Reply} (h : PhaseAt s c i (.finished r)) : PhaseAt (s.resumeCmd c i) c i (.finished r) := by
  obtain ⟨m, hcmd, hphase⟩ := State.cmdAt_of_phaseAt h
  have heq : s.resumeCmd c i = s := by
    unfold State.resumeCmd
    simp [hcmd, hphase]
  rwa [heq]

/-! ### Every command resumed -/

/-- The commands at the places `l` resumed. -/
def State.resumeCmds (s : State) (c : CtxNo) (l : List Nat) : State := l.foldl (fun t i => t.resumeCmd c i) s

theorem State.standing_resumeCmds (l : List Nat) : ((s.resumeCmds c l).ctx c).standing = (s.ctx c).standing := by
  induction l generalizing s with
  | nil => rfl
  | cons k l ih => exact ih.trans (OnlyCmd.resumeCmd s c k).standing

/-- Resuming the commands at other places leaves a command. -/
theorem State.cmds_resumeCmds_other {l : List Nat} (h : i ∉ l) : ((s.resumeCmds c l).ctx c).cmds[i]? = (s.ctx c).cmds[i]? := by
  induction l generalizing s with
  | nil => rfl
  | cons k l ih =>
    exact (ih (List.not_mem_of_not_mem_cons h)).trans ((OnlyCmd.resumeCmd s c k).others i (List.ne_of_not_mem_cons h))

/-- The commands of a context resumed, one of them goes on as it does by itself. -/
theorem State.phase_resumeCmds {p q : Phase} (hstep : ∀ u : State, PhaseAt u c i p → PhaseAt (u.resumeCmd c i) c i q) {l : List Nat}
    (hnodup : l.Nodup) (hi : i ∈ l) (h : PhaseAt s c i p) : PhaseAt (s.resumeCmds c l) c i q := by
  induction l generalizing s with
  | nil => exact absurd hi List.not_mem_nil
  | cons k l ih =>
    obtain ⟨hnot, hrest⟩ := List.nodup_cons.1 hnodup
    obtain rfl | hl := List.mem_cons.1 hi
    · have hafter := State.cmds_resumeCmds_other (s := s.resumeCmd c i) (c := c) hnot
      rw [State.resumeCmds, List.foldl_cons, PhaseAt]
      exact (congrArg _ hafter).trans (hstep s h)
    · have hne : i ≠ k := fun e => hnot (e ▸ hl)
      exact ih hrest hl (by rw [PhaseAt, (OnlyCmd.resumeCmd s c k).others i hne]; exact h)

/-! ### RESUME -/

/-- The walks that stand once the faulting request of a context is issued again. -/
theorem State.resumeCtx_eq (s : State) (c : CtxNo) : ∃ ws,
    s.resumeCtx c = (State.modCtx { s with walks := ws } c Context.unpark).resumeCmds c (List.range (s.ctx c).cmds.length)
      ∧ ∀ f, (s.ctx c).fault = some f → f.guard = false → s.needOk c f = false →
          ws = addWalk s.walks ⟨pageOf f.vaddr, c, false, false, f, 1⟩ := by
  unfold State.resumeCtx
  dsimp only
  split
  next f hf =>
    split
    next hno =>
      refine ⟨s.walks, rfl, fun g hg hguard hneed => ?_⟩
      cases hf.symm.trans hg
      simp [hguard, hneed] at hno
    next =>
      refine ⟨_, rfl, fun g hg _ _ => ?_⟩
      cases hf.symm.trans hg
      rfl
  next hf => exact ⟨s.walks, rfl, fun g hg => by cases hf.symm.trans hg⟩

theorem State.control_open {ok : CtxState → Bool} {f : State} (hw : s.windowOpen = true) (hr : (s.ctx c).resetting = false)
    (hok : ok (s.ctx c).state = true) : s.control c ok f = f := by
  simp [State.control, hw, hr, hok]

theorem exec_resume (hw : s.windowOpen = true) (hr : (s.ctx c).resetting = false) (hparked : (s.ctx c).state = .parked) :
    exec (.resume c) s = .next (s.resumeCtx c) :=
  congrArg Host.Outcome.next (State.control_open hw hr (by rw [hparked]; rfl))

/-- The context runs, without a fault. -/
theorem State.resumeCtx_runs (s : State) (c : CtxNo) : ((s.resumeCtx c).ctx c).state = .running ∧ ((s.resumeCtx c).ctx c).fault = none := by
  obtain ⟨ws, heq, -⟩ := s.resumeCtx_eq c
  have hstanding := State.standing_resumeCmds (s := State.modCtx { s with walks := ws } c Context.unpark) (c := c)
    (List.range (s.ctx c).cmds.length)
  rw [← heq, State.ctx_modCtx_same] at hstanding
  simp only [Context.standing, Context.unpark, Prod.mk.injEq] at hstanding
  obtain ⟨hstate, -, hfault, -⟩ := hstanding
  exact ⟨hstate, hfault⟩

/-- The pieces that a RESUME may change. -/
def resumeWork (c : CtxNo) : List Piece := [.eng, .ctx c, .walks, .sent, .waits, .log, .mgmt]

theorem Fr.resumes (s : State) (c : CtxNo) : Fr (resumeWork c) s (s.resumeCtx c) := by
  apply Fr.resumeCtx (Fr.refl _ s) <;> simp [resumeWork]

theorem State.phase_resumeCtx {p q : Phase} (hstep : ∀ u : State, PhaseAt u c i p → PhaseAt (u.resumeCmd c i) c i q)
    (h : PhaseAt s c i p) : PhaseAt (s.resumeCtx c) c i q := by
  obtain ⟨ws, heq, -⟩ := s.resumeCtx_eq c
  obtain ⟨m, hcmd, -⟩ := State.cmdAt_of_phaseAt h
  obtain ⟨hlt, -⟩ := List.getElem?_eq_some_iff.1 hcmd
  rw [heq]
  refine State.phase_resumeCmds hstep List.nodup_range (List.mem_range.2 hlt) ?_
  rw [PhaseAt, State.ctx_modCtx_same]
  exact h

/-- With room for it, the walk of a request stands among those outstanding. -/
theorem exists_mem_addWalk {l : List WalkReq} (w : WalkReq) (h : l.length < 8) : ∃ v ∈ addWalk l w, v.page = w.page ∧ v.ctx = w.ctx := by
  unfold addWalk
  dsimp only
  split
  next hany =>
    obtain ⟨v, hv, hsame⟩ := List.any_eq_true.1 hany
    have hnames : v.page = w.page ∧ v.ctx = w.ctx := by
      simp only [Bool.and_eq_true, beq_iff_eq] at hsame
      exact hsame.1
    refine ⟨_, List.mem_map_of_mem hv, ?_⟩
    rw [if_pos hsame]
    exact hnames
  next =>
    exact ⟨w, List.mem_append_right _ (List.mem_singleton_self w), rfl, rfl⟩

theorem State.walks_resumeCtx {f : FaultRec} (hfault : (s.ctx c).fault = some f) (hguard : f.guard = false) (hneed : s.needOk c f = false) :
    (s.resumeCtx c).walks = addWalk s.walks ⟨pageOf f.vaddr, c, false, false, f, 1⟩ := by
  obtain ⟨ws, heq, hws⟩ := s.resumeCtx_eq c
  have hframe : Fr [.eng, .ctx c, .sent, .waits, .log, .mgmt] (State.modCtx { s with walks := ws } c Context.unpark) (s.resumeCtx c) := by
    rw [heq]
    exact Fr.foldl (fun t j h => by apply Fr.resumeCmd h <;> simp) _ (Fr.refl _ _)
  rw [hframe.same .walks (by simp)]
  exact hws f hfault hguard hneed

/-! ### ABORT -/

variable {m : Cmd}

theorem exec_abort (hw : s.windowOpen = true) (hr : (s.ctx c).resetting = false) (hparked : (s.ctx c).state = .parked)
    (hcause : (s.ctx c).parkCause ≠ 2) (htarget : (s.ctx c).abortTarget = some (i, m)) :
    exec (.abort c) s = .next (((s.abortCmd c i m).modCtx c (fun y => { y with fault := none })).resumeCtx c) := by
  refine congrArg Host.Outcome.next ((State.control_open hw hr (by rw [hparked]; rfl)).trans (?_ : s.abortCtx c = _))
  unfold State.abortCtx
  simp only [if_neg hcause, htarget]

/-- An ABORT that ends its command at once with reply `r`, `v` differing from `s` in its slots at most. -/
theorem exec_abort_finishes {v : State} {r : Reply} (hw : s.windowOpen = true) (hr : (s.ctx c).resetting = false)
    (hparked : (s.ctx c).state = .parked) (hcause : (s.ctx c).parkCause ≠ 2) (htarget : (s.ctx c).abortTarget = some (i, m))
    (hcmd : (s.ctx c).cmds[i]? = some m) (hslots : Fr [.slots] s v) (hend : s.abortCmd c i m = v.finish c i r) :
    ∃ t, exec (.abort c) s = .next t ∧ (t.ctx c).state = .running ∧ (t.ctx c).fault = none ∧ SameMem s t
      ∧ (∀ d, d ≠ c → t.ctx d = s.ctx d) ∧ PhaseAt t c i (.finished r) := by
  let u := (v.finish c i r).modCtx c (fun y => { y with fault := none })
  have hexec := exec_abort hw hr hparked hcause htarget
  rw [hend] at hexec
  obtain ⟨hstate, hfault⟩ := u.resumeCtx_runs c
  have hresume := Fr.resumes u c
  have hcmdv : (v.ctx c).cmds[i]? = some m := by rw [hslots.same (.ctx c) (by simp), hcmd]
  refine ⟨_, hexec, hstate, hfault, ?mem, fun d hd => ?ctxs, State.phase_resumeCtx (fun _ => State.resumeCmd_finished) ?phase⟩
  case mem =>
    have hu : SameMem v u := (SameMem.finish v c i r).trans (.of_eq rfl rfl)
    exact ((hslots.sameMem (by simp) (by simp)).trans hu).trans (hresume.sameMem (by simp [resumeWork]) (by simp [resumeWork]))
  case ctxs =>
    rw [hresume.same (.ctx d) (by simp [resumeWork, hd]), State.ctx_modCtx_other _ hd, State.ctx_finish_other v hd,
      hslots.same (.ctx d) (by simp)]
  case phase =>
    rw [PhaseAt, State.ctx_modCtx_same]
    exact State.phase_finish v hcmdv r

end

/-! ### The obligation -/

/-- Settles O6: a RESUME is `resumeCtx`, whose commands go on each by itself (`phase_resumeCtx`); an ABORT ends its command and resumes
(`exec_abort_finishes`). -/
theorem resumeAndAbort : Obligations.ResumeAndAbort := by
  unfold Obligations.ResumeAndAbort
  refine ⟨fun s c hw hr hparked => ?resume, fun s c i m hw hr hparked hcause htarget hcmd => ⟨?wait, ?zero⟩⟩
  case resume =>
    have hframe := Fr.resumes s c
    obtain ⟨hstate, hfault⟩ := s.resumeCtx_runs c
    refine ⟨_, exec_resume hw hr hparked, hstate, hfault, fun d hd => hframe.same (.ctx d) (by simp [resumeWork, hd]),
      hframe.sameMem (by simp [resumeWork]) (by simp [resumeWork]),
      fun i v seen n timed => State.phase_resumeCtx fun _ => State.resumeCmd_unsatisfied,
      fun i v seen n timed => State.phase_resumeCtx fun _ => State.resumeCmd_satisfied, fun f hf hguard hneed hroom => ?_⟩
    rw [State.walks_resumeCtx hf hguard hneed]
    exact exists_mem_addWalk _ hroom
  case wait =>
    intro v seen n ok timed hphase
    refine exec_abort_finishes hw hr hparked hcause htarget hcmd (Fr.refl _ s) ?_
    unfold State.abortCmd
    rw [hphase]
  case zero =>
    intro row hop hphase
    have hslots : Fr [.slots] s (s.keepGen c m) := Fr.keepGen (Fr.refl _ s) c m (by simp)
    refine exec_abort_finishes hw hr hparked hcause htarget hcmd hslots ?_
    unfold State.abortCmd
    rw [hphase]
    exact congrArg (fun u : State => u.finish c i _) (if_neg fun h => by rw [hop] at h; exact absurd h.1 (by decide))

end Sys2Proof.Machine
end

section
/-! SUPPORT. What a context says of its parking and of the events it has counted (R157, R200): the units that end as it parks change neither,
and an event counts one. -/

namespace Sys2Proof.Machine

/-! ### PARK_CAUSE and the count of events stay -/

/-- Context `c` has in `t` the PARK_CAUSE and the count of events that it has in `s`. -/
structure SameTally (c : CtxNo) (s t : State) : Prop where
  cause : (t.ctx c).parkCause = (s.ctx c).parkCause
  seq : (t.ctx c).eventSeq = (s.ctx c).eventSeq

section
variable {s t u : State} {c : CtxNo}

theorem SameTally.of_ctx (h : t.ctx c = s.ctx c) : SameTally c s t := ⟨congrArg _ h, congrArg _ h⟩

theorem SameTally.refl (s : State) (c : CtxNo) : SameTally c s s := ⟨rfl, rfl⟩

theorem SameTally.trans (h : SameTally c s t) (k : SameTally c t u) : SameTally c s u := ⟨k.cause.trans h.cause, k.seq.trans h.seq⟩

theorem SameTally.of_frame {ks : List Piece} (h : Fr ks s t) (hc : Piece.ctx c ∉ ks) : SameTally c s t := .of_ctx (h.same (.ctx c) hc)

end

section
variable (s : State) (c : CtxNo)

theorem SameTally.modCtx {f : Context → Context} (hf : ∀ x, (f x).parkCause = x.parkCause ∧ (f x).eventSeq = x.eventSeq) :
    SameTally c s (s.modCtx c f) := by
  obtain ⟨hcause, hseq⟩ := hf (s.ctx c)
  exact ⟨by rw [State.ctx_modCtx_same, hcause], by rw [State.ctx_modCtx_same, hseq]⟩

theorem SameTally.runRows {f : State → Bool × State} (hf : ∀ s, SameTally c s (f s).2) (n : Nat) : SameTally c s (runRows f n s) := by
  induction n generalizing s with
  | zero => exact .refl s c
  | succ n ih =>
    rw [Machine.runRows]
    split
    · exact (hf s).trans (ih _)
    · exact hf s

/-! Commands, units and slices. -/

theorem SameTally.unpin : SameTally c s (s.unpin c) := .modCtx s c fun x => by split <;> exact ⟨rfl, rfl⟩

theorem SameTally.setPhase (i : Nat) (p : Phase) : SameTally c s (s.setPhase c i p) := by
  unfold State.setPhase
  refine .modCtx s c fun x => ?_
  split <;> exact ⟨rfl, rfl⟩

theorem SameTally.finish (i : Nat) (r : Reply) : SameTally c s (s.finish c i r) := by
  have hwait : SameTally c s (s.unwaitCmd c i) := .of_ctx (s.ctx_unwaitCmd c i c)
  exact (hwait.trans (.setPhase _ c i _)).trans (.unpin _ c)

theorem SameTally.countOob (n : Nat) : SameTally c s (s.countOob c n) := .modCtx s c fun _ => ⟨rfl, rfl⟩

theorem SameTally.pin (ns : List FaultRec) : SameTally c s (s.pin c ns) := by
  have hxlats (xs : List (Nat × Xlat)) : SameTally c s (s.modCtx c (fun x => { x with xlats := xs })) := .modCtx s c fun _ => ⟨rfl, rfl⟩
  exact ⟨(hxlats _).cause, (hxlats _).seq⟩

theorem SameTally.acquire (ns : List FaultRec) : SameTally c s (s.acquire c ns).2 := by
  unfold State.acquire
  dsimp only
  split
  · exact .pin s c _
  · exact (SameTally.pin s c _).trans (.of_ctx rfl)

theorem SameTally.takeSlots (seq : Word) (use : ReqUse) (as : List Acc) : SameTally c s (s.takeSlots c seq use as).2 :=
  .of_ctx (s.ctx_takeSlots c seq use as c)

theorem SameTally.openSome (seq : Word) (use : ReqUse) (as bs : List Acc) : SameTally c s (s.openSome c seq use as bs).2 := by
  unfold State.openSome
  dsimp only
  split
  · exact .acquire s c _
  · exact (SameTally.acquire s c _).trans (.takeSlots _ c seq use bs)

theorem SameTally.copiedFirst (seq : Word) (as : List Acc) : SameTally c s (s.copiedFirst c seq as).2 := by
  unfold State.copiedFirst
  split
  · exact SameTally.modCtx s c (f := fun x => { x with wantPage := _, wantSeq := _ }) fun _ => ⟨rfl, rfl⟩
  · exact .refl s c

theorem SameTally.openWrites (seq : Word) (as : List Acc) : SameTally c s (s.openWrites c seq as).2 := by
  unfold State.openWrites
  dsimp only
  split
  · exact .openSome s c seq .demand as as
  · exact (SameTally.openSome s c seq .demand as as).trans (.copiedFirst _ c seq as)

theorem SameTally.endUnit (as : List Acc) : SameTally c s (s.endUnit c as) := by
  let u := { s with ckpt := s.ckpt.noteUnwatched (s.writePages c as) }
  have hnote : SameTally c s u := .of_ctx rfl
  have htracked : SameTally c u (if (s.writePages c as).isEmpty then u else u.modCtx c (fun x => { x with tracked := true })) := by
    split
    · exact .refl u c
    · exact .modCtx u c fun _ => ⟨rfl, rfl⟩
  exact ((hnote.trans htracked).trans (.countOob _ c _)).trans (.unpin _ c)

theorem SameTally.issue (seq : Word) (use : ReqUse) (as : List Acc) : SameTally c s (s.issue c seq use as) :=
  .of_ctx (s.ctx_issue c seq use as c)

theorem SameTally.closeUnit (seq : Word) (as : List Acc) : SameTally c s (s.closeUnit c seq as) :=
  (SameTally.issue s c seq .demand as).trans (.endUnit _ c as)

theorem SameTally.streamGo (seq : Word) (est : Nat → Nat) (n : Nat) : SameTally c s (s.streamGo c seq est n).2 := by
  unfold State.streamGo
  dsimp only
  split
  · exact .refl s c
  · split
    · exact .refl s c
    · split
      · exact SameTally.modCtx s c (f := fun x => { x with streamDone := _ }) fun _ => ⟨rfl, rfl⟩
      · exact SameTally.modCtx s c (f := fun x => { x with stream := _, slices := _ }) fun _ => ⟨rfl, rfl⟩

theorem SameTally.streamStart : SameTally c s (s.streamStart c) := .modCtx s c fun _ => ⟨rfl, rfl⟩

theorem SameTally.endOverrun : SameTally c s (s.endOverrun c) := by
  unfold State.endOverrun
  exact .modCtx s c fun _ => ⟨rfl, rfl⟩

theorem SameTally.streamNext (more : Bool) : SameTally c s (s.streamNext c more) := by
  refine .modCtx s c fun x => ?_
  split
  · exact ⟨rfl, rfl⟩
  · split <;> exact ⟨rfl, rfl⟩

theorem SameTally.streamCommit (raw : Nat) (more : Bool) : SameTally c s (s.streamCommit c raw more) := by
  have hcommit : SameTally c s (s.modCtx c (fun x => x.unitCommit s.now (s.streamBegun c) raw)) := .modCtx s c fun _ => ⟨rfl, rfl⟩
  exact (hcommit.trans (.streamNext _ c more)).trans (.endOverrun _ c)

/-! ### The units of a copy (R155, R166, R169) -/

variable (i : Nat) (m : Cmd) (src dst : Opnd) (perm : List Nat) (mode : CopyMode)

theorem SameTally.copyHolds : SameTally c s (s.copyHolds c m mode src).2 :=
  .of_frame (ks := [.staging, .waits, .dovetail]) (Fr.copyHolds (Fr.refl _ s) c m mode src (by simp) (by simp) (by simp)) (by simp)

theorem SameTally.takeStaging (seq : Word) (prio granules user : Nat) : SameTally c s (s.takeStaging c seq prio granules user).2 :=
  .of_frame (ks := [.staging, .waits]) (Fr.takeStaging (Fr.refl _ s) c seq prio granules user (by simp) (by simp)) (by simp)

theorem SameTally.copyRelease (blockEnd : Bool) : SameTally c s (s.copyRelease c m blockEnd) :=
  .of_frame (ks := [.staging, .dovetail]) (Fr.copyRelease (Fr.refl _ s) c m blockEnd (by simp) (by simp)) (by simp)

theorem SameTally.copyStore (els : List (Nat → Nat)) (vals : List Nat) : SameTally c s (s.copyStore c dst els vals) :=
  .of_frame (ks := [.core, .remote]) (Fr.copyStore (Fr.refl _ s) c dst els vals (by simp) (by simp)) (by simp)

theorem SameTally.copyBlock (els : List (Nat → Nat)) (u : Nat) : SameTally c s (s.copyBlock c i m src perm els u).2 := by
  have hopen := SameTally.openSome s c m.seq .demand [copyReads src perm els] [copyReads src perm els]
  unfold State.copyBlock
  dsimp only
  split
  · exact hopen
  · exact (hopen.trans (.closeUnit _ c m.seq _)).trans (.setPhase _ c i _)

theorem SameTally.copySegment (byRows : Bool) (els : List (Nat → Nat)) (blockEnd more : Bool) (u : Nat) (blk : List Nat) :
    SameTally c s (s.copySegment c i m src dst perm byRows els blockEnd more u blk).2 := by
  unfold State.copySegment
  dsimp only
  generalize (if byRows then [copyReads src perm els] else []) ++ [copyWrites dst els] = as
  have hopen := SameTally.openWrites s c m.seq as
  split
  · exact hopen
  · exact ((((hopen.trans (.copyStore _ c dst els _)).trans (.closeUnit _ c m.seq as)).trans (.streamCommit _ c _ more)).trans
      (.setPhase _ c i _)).trans (.copyRelease _ c m blockEnd)

theorem SameTally.copyDirect (units : List (List (Nat → Nat) × Bool)) :
    SameTally c s (State.copyDirect c i src dst perm mode units s).2 := by
  unfold State.copyDirect
  split
  · exact .refl s c
  next m _ =>
    split
    next u _ blk _ =>
      split
      · exact .finish s c i _
      next els blockEnd _ =>
        dsimp only
        generalize (fun k => s.directEst c src perm ((units.getD (u + k) ([], false)).1)) = est
        have hgo := SameTally.streamGo s c m.seq est (units.length - u)
        have hholds := hgo.trans (.copyHolds _ c m src mode)
        split
        · exact hgo
        · split
          · exact hholds
          · split
            · exact (hholds.trans (.streamStart _ c)).trans (.copyBlock _ c i m src perm _ u)
            · exact (hholds.trans (.streamStart _ c)).trans (.copySegment _ c i m src dst perm _ els blockEnd _ u blk)
    · exact .refl s c

theorem SameTally.copyRead (u : Nat) : SameTally c s (s.copyRead c i m src dst perm mode u) := by
  unfold State.copyRead
  split
  · exact .finish s c i _
  next els _ =>
    dsimp only
    have hgo := SameTally.streamGo s c m.seq (fun k => s.stagedEst c src dst perm mode (u + k)) (stagedUnits mode dst - u)
    have hstaged := hgo.trans (.takeStaging _ c m.seq 1 (copyGranules mode src) (stagingUser c m.seq))
    have hopen := (hstaged.trans (.streamStart _ c)).trans
      (.openSome _ c m.seq .demand [copyReads src perm els, copyWrites dst els] [copyReads src perm els])
    have hcopied := hopen.trans (.copiedFirst _ c m.seq [copyWrites dst els])
    split
    · exact hgo
    · split
      · exact hstaged
      · split
        · exact hopen
        · split
          · exact hcopied
          · exact ((hcopied.trans (.countOob _ c _)).trans (.issue _ c m.seq .demand _)).trans (.setPhase _ c i _)

theorem SameTally.copyWrite (u : Nat) (vals : List Nat) (parking : Bool) :
    SameTally c s (s.copyWrite c i m src dst perm mode u vals parking) := by
  unfold State.copyWrite
  split
  · exact .finish s c i _
  next els _ =>
    dsimp only
    have hslots : SameTally c s (if parking then (true, s) else s.takeSlots c m.seq .demand [copyWrites dst els]).2 := by
      split
      · exact .refl s c
      · exact .takeSlots s c m.seq .demand _
    generalize (if parking then (true, s) else s.takeSlots c m.seq .demand [copyWrites dst els]) = o at hslots
    have hput (t : State) (bad : List (Nat × Nat)) :
        SameTally c t ((List.zip els vals).foldl (fun t x => t.putBits c bad dst x.1 x.2) t) :=
      .of_frame (ks := [.core, .remote]) (Fr.foldl (fun _ _ h => h.putBits c bad dst _ _ (by simp) (by simp)) _ (Fr.refl _ t)) (by simp)
    have hdrop (t : State) : SameTally c t (t.dropStaging (stagingUser c m.seq)) := .of_ctx rfl
    have hend (t : State) : SameTally c t (if parking then t.endUnit c [copyWrites dst els] else t.closeUnit c m.seq [copyWrites dst els]) := by
      split
      · exact .endUnit t c _
      · exact .closeUnit t c m.seq _
    split
    · exact hslots
    · have hdone (bad : List (Nat × Nat)) (n raw : Nat) (more : Bool) :=
        ((((hslots.trans (hput o.2 bad)).trans (.countOob _ c n)).trans (hdrop _)).trans (hend _)).trans (.streamCommit _ c raw more)
      split
      · exact ((hdone ..).trans (.setPhase _ c i _)).trans (.unpin _ c)
      · exact (hdone ..).trans (.finish _ c i _)

theorem SameTally.copyStep (parking : Bool) : SameTally c s (s.copyStep c i m parking) := by
  unfold State.copyStep
  split
  next src dst u vals blk _ _ =>
    dsimp only
    generalize m.perm src.desc.ndim = perm
    generalize copyMode src dst perm = mode
    split
    · exact .runRows s c (fun t => .copyDirect t c i src dst _ _ _) _
    · exact .runRows s c (fun t => .copyDirect t c i src dst _ _ _) _
    · exact .copyRead s c i m src dst _ _ u
    · exact .copyWrite s c i m src dst _ _ u vals parking
  · exact .refl s c

/-! ### The units of a context end (R157) -/

theorem SameTally.dropHolds : SameTally c s (s.dropHolds c) :=
  .of_frame (ks := [.staging, .walks, .sent, .waits, .dovetail, .ckpt])
    (Fr.dropHolds (Fr.refl _ s) c (by simp) (by simp) (by simp) (by simp) (by simp) (by simp)) (by simp)

theorem SameTally.endWrites : SameTally c s (s.endWrites c) := by
  unfold State.endWrites
  generalize List.range (s.ctx c).cmds.length = l
  induction l generalizing s with
  | nil => exact .refl s c
  | cons j l ih =>
    refine SameTally.trans ?_ (ih _)
    dsimp only
    split
    · split
      · exact .copyStep s c j _ true
      · exact .refl s c
    · exact .refl s c

end

section
variable {s : State} {c : CtxNo}

theorem State.bankHeld_dropSlice : (s.dropSlice c).bankHeld c = s.bankHeld c := by
  unfold State.dropSlice
  split
  · split <;> rfl
  · rfl

theorem State.drainOwn_of_not_bankHeld (h : s.bankHeld c = false) (n : Nat) : State.drainOwn c n s = s := by
  cases n with
  | zero => rfl
  | succ n => rw [State.drainOwn, h, if_neg Bool.false_ne_true]

/-- With no interval of its own in the lane bank, a context's units end without an event. -/
theorem SameTally.settleUnits (h : s.bankHeld c = false) : SameTally c s (s.settleUnits c) := by
  have hslice : SameTally c s (s.dropSlice c) := by
    unfold State.dropSlice
    split
    · split <;> exact .of_ctx rfl
    · exact .refl s c
  have hunits (t : State) : SameTally c t (t.modCtx c (fun x =>
      { x with xlats := [], wantUnit := none, wantPage := none, stream := none, cmds := x.cmds.map Cmd.dropUnit })) :=
    .modCtx t c fun _ => ⟨rfl, rfl⟩
  unfold State.settleUnits
  rw [State.drainOwn_of_not_bankHeld (State.bankHeld_dropSlice.trans h)]
  exact (((hslice.trans (.endWrites _ c)).trans (.dropHolds _ c)).trans (hunits _)).trans (.endOverrun _ c)

end

/-! ### Events (R200) -/

section
variable (s : State) (c : CtxNo)

theorem SameTally.postEntry (e : BitVec 256) : SameTally c s (s.postEntry c e) := by
  have hpoke (va : Nat) (l : List Byte) : SameTally c s (s.pokeN c va l) := .of_ctx (by simp only [State.ctx, State.pokeN_ctxs])
  unfold State.postEntry
  exact (hpoke _ _).trans (.modCtx _ c fun _ => ⟨rfl, rfl⟩)

theorem SameTally.postEvent (r : EventRec) : SameTally c s (s.postEvent c r) := by
  have hposted (e : BitVec 256) : SameTally c s ((s.postEntry c e).modCtx c (fun y => if r.room.isSome then y else { y with lost := 0 })) :=
    (SameTally.postEntry s c e).trans (.modCtx _ c fun x => by split <;> exact ⟨rfl, rfl⟩)
  have hpulse (t : State) (line : Nat) : SameTally c t (t.pulse line) := .of_ctx rfl
  unfold State.postEvent
  dsimp only
  split
  · exact (hposted _).trans (hpulse _ _)
  · exact hposted _

theorem SameTally.takeEntry (r : EventRec) : SameTally c s (s.takeEntry c r) := by
  have hready : SameTally c s (s.ringReady c (s.ctx c).cplAddr true).2 := .of_ctx (by simp only [State.ctx, State.ringReady_ctxs])
  unfold State.takeEntry
  dsimp only
  split
  · exact hready.trans (.postEvent _ c r)
  · exact hready.trans (.modCtx _ c fun _ => ⟨rfl, rfl⟩)

/-- The state once context `c` has counted an event. -/
def State.countEvent : State := s.modCtx c (fun y => { y with eventSeq := y.eventSeq + 1 })

/-- An event of a context that is not mute is counted; its record leaves the count and PARK_CAUSE alone. -/
theorem SameTally.event (h : s.mute c = false) (kind : Byte) (payload : BitVec 128) :
    SameTally c (s.countEvent c) (s.event c kind payload) := by
  unfold State.event
  rw [h, if_neg Bool.false_ne_true]
  dsimp only
  split
  · exact .takeEntry (s.countEvent c) c _
  · split <;> exact .modCtx (s.countEvent c) c fun _ => ⟨rfl, rfl⟩

end

end Sys2Proof.Machine
end

section
/-! SUPPORT. WALK and PARK (R152, R154, R157, R161): what a walk that comes back does for the one request that waited for it, and the fault that
parks a context. -/

namespace Sys2Proof.Machine

/-! ### What the end of a context's units can change -/

/-- What the end of a context's units may change: the engine's registers, the log and the tick, among others, are not of it. -/
def settlePieces : List Piece :=
  [.free, .core, .remote, .evt, .schedTurn, .slots, .lane, .staging, .tlb, .walks, .reqs, .sent, .waits, .dovetail, .chains, .chainOut,
    .ckpt, .tel] ++ everyCtx

theorem ctx_mem_settlePieces (d : CtxNo) : Piece.ctx d ∈ settlePieces := List.mem_append_right _ (Fr.mem_everyCtx d)

theorem Fr.settles (s : State) (c : CtxNo) : Fr settlePieces s (s.settleUnits c) :=
  Fr.settleUnits (Fr.refl _ s) c (by decide) (by decide) (by decide) (by decide) ctx_mem_settlePieces (by decide) (by decide) (by decide)
    (by decide) (by decide) (by decide) (by decide) (by decide) (by decide) (by decide) (by decide) (by decide) (by decide) (by decide)

/-! ### A walk comes back -/

section
variable {s : State} {page : BitVec 32} {w : WalkReq}

/-- What a walk that comes back for request `w` leaves: `l` the TLB, the walks of its page gone. -/
def State.walkLeft (s : State) (page : Nat) (l : List TlbEntry) : State :=
  { s with walks := s.walks.filter (fun v => v.page != page), tlb := l }

theorem exec_walk_found (halive : s.alive = true) (hone : s.walks.filter (fun v => v.page == page.toNat) = [w]) (x : Xlat) :
    exec (.walk page (some x)) s = .next (State.walkBack (some x) (s.walkLeft page.toNat (tlbFill s.tlb page.toNat x)) w) := by
  refine congrArg Host.Outcome.next (?_ : s.walkDone page.toNat (some x) = _)
  unfold State.walkDone
  simp only [halive, hone]
  rfl

theorem exec_walk_absent (halive : s.alive = true) (hone : s.walks.filter (fun v => v.page == page.toNat) = [w]) :
    exec (.walk page none) s = .next (State.walkBack none (s.walkLeft page.toNat (s.tlb.filter (fun e => e.page != page.toNat))) w) := by
  refine congrArg Host.Outcome.next (?_ : s.walkDone page.toNat none = _)
  unfold State.walkDone
  simp only [halive, hone]
  rfl

theorem head?_tlbFill (l : List TlbEntry) (p : Nat) (x : Xlat) : (tlbFill l p x).head?.map (fun e => (e.page, e.xlat)) = some (p, x) := rfl

end

section
variable {s : State} {w : WalkReq}

theorem State.walkBack_permitted {x : Xlat} (h : permOk x w.need = true) : State.walkBack (some x) s w = s := by
  simp [State.walkBack, h]

theorem State.walkBack_prefetch (h : w.prefetch = true) :
    State.walkBack none s w = { s with tel := { s.tel with prefetchDrop := satAdd s.tel.prefetchDrop w.many } } := by
  simp [State.walkBack, h]

theorem State.walkBack_ring (hdemand : w.prefetch = false) (hring : w.ring = true) (hgoing : (s.ctx w.ctx).state ≠ .stopped) :
    State.walkBack none s w = s.ringFault w.ctx w.need.vaddr := by
  simp [State.walkBack, hdemand, hring, hgoing]

theorem State.walkBack_demand (hdemand : w.prefetch = false) (hring : w.ring = false) (hguard : w.need.guard = false)
    (hfault : (s.ctx w.ctx).canFault = true) : State.walkBack none s w =
      s.modCtx w.ctx (fun x => { x with fault := some { w.need with perm := false }, faultAt := s.now }) := by
  simp [State.walkBack, State.takeFault, hdemand, hring, hguard, hfault]

end

section
variable (s : State) (c : CtxNo)

/-- A ring fault stops its context and leaves an entry of class RING (R161). -/
theorem State.ringFault_stops (va : Nat) : ((s.ringFault c va).ctx c).state = .stopped ∧ ((s.ringFault c va).ctx c).ringFault = true
    ∧ (s.ringFault c va).log.summary = setFld s.log.summary 9 1 1 := by
  have hctx : (s.ringFault c va).ctx c = { (s.settleUnits c).ctx c with state := .stopped, ringFault := true } := by
    rw [State.ringFault, State.ctx, State.logErr_ctxs, ← State.ctx, State.ctx_modCtx_same, State.stopCtx, State.ctx_modCtx_same]
  have hlog : (s.settleUnits c).log = s.log := (Fr.settles s c).same .log (by decide)
  refine ⟨by rw [hctx], by rw [hctx], ?_⟩
  rw [State.ringFault, State.logErr_log, State.logNext_summary, State.stopCtx, State.modCtx_log, State.modCtx_log, hlog]
  rfl

/-! ### PARK -/

theorem Context.countFault_tally (x : Context) (f : FaultRec) :
    (x.countFault f).1.parkCause = x.parkCause ∧ (x.countFault f).1.eventSeq = x.eventSeq := by
  unfold Context.countFault
  split
  · split
    · split <;> exact ⟨rfl, rfl⟩
    · exact ⟨rfl, rfl⟩
  · split <;> exact ⟨rfl, rfl⟩

/-- The state in which a context whose units have ended parks with fault `f`, its record still to come. -/
def State.parkWith (f : FaultRec) : State :=
  { s with chains := s.chains.map (fun (k : Chain) => k.mustLeave c 2) }.setCtx c
    { ((s.ctx c).countFault f).1.stopPolls with fault := some ((s.ctx c).countFault f).2, state := .parked, parkCause := 0 }

/-- A context whose units have ended parks with fault `f`, and has a record of it as it is counted. -/
def State.parkEvent (f : FaultRec) : State := (s.parkWith c f).event c 0x01 ((s.ctx c).countFault f).2.payload

variable {s c}

theorem exec_park {f : FaultRec} (hup : s.up = true) (hfault : (s.ctx c).fault = some f) (hrun : (s.ctx c).state = .running)
    (hreset : (s.ctx c).resetting = false) : exec (.park c) s = .next ((s.settleUnits c).parkEvent c f) := by
  have hmust : (s.ctx c).mustPark = true := by simp [Context.mustPark, hfault, hrun, hreset]
  refine congrArg Host.Outcome.next (?_ : s.park c = _)
  unfold State.park
  rw [hup, hmust, hfault, if_neg (by decide)]
  dsimp only
  generalize s.settleUnits c = u
  rfl

theorem State.ctx_parkWith (f : FaultRec) : ((s.parkWith c f).ctx c).state = .parked ∧ ((s.parkWith c f).ctx c).parkCause = 0
    ∧ ((s.parkWith c f).ctx c).eventSeq = (s.ctx c).eventSeq := by
  have hseq := (Context.countFault_tally (s.ctx c) f).2
  rw [State.parkWith, State.ctx_setCtx_same]
  exact ⟨rfl, rfl, hseq⟩

/-- In an engine that is up a context that has parked is not mute. -/
theorem State.mute_parkWith (hstep : s.eng.step = 7) (f : FaultRec) : (s.parkWith c f).mute c = false := by
  obtain ⟨hstate, -⟩ := State.ctx_parkWith (s := s) (c := c) f
  have heng : (s.parkWith c f).eng = s.eng := rfl
  rw [State.mute, hstate, State.isFatal, heng, hstep]
  rfl

/-- The context is parked with PARK_CAUSE 0 and has counted one event (R157, R200). -/
theorem State.parkEvent_ctx (hstep : s.eng.step = 7) (f : FaultRec) : ((s.parkEvent c f).ctx c).state = .parked
    ∧ ((s.parkEvent c f).ctx c).parkCause = 0 ∧ ((s.parkEvent c f).ctx c).eventSeq = (s.ctx c).eventSeq + 1 := by
  obtain ⟨hstate, hcause, hseq⟩ := State.ctx_parkWith (s := s) (c := c) f
  have hrecord := SameTally.event _ c (State.mute_parkWith (c := c) hstep f) 0x01 ((s.ctx c).countFault f).2.payload
  have hstanding := (SameWork.event (s.parkWith c f) c 0x01 ((s.ctx c).countFault f).2.payload).go.standing c
  have hcounted : (((s.parkWith c f).countEvent c).ctx c) = { (s.parkWith c f).ctx c with eventSeq := ((s.parkWith c f).ctx c).eventSeq + 1 } :=
    State.ctx_modCtx_same _ c _
  refine ⟨(congrArg Prod.fst hstanding).trans hstate, ?_, ?_⟩
  · exact hrecord.cause.trans ((congrArg Context.parkCause hcounted).trans hcause)
  · exact hrecord.seq.trans ((congrArg Context.eventSeq hcounted).trans (congrArg (· + 1) hseq))

theorem State.step_of_up (hup : s.up = true) : s.eng.step = 7 := by
  simp only [State.up, Bool.and_eq_true, beq_iff_eq] at hup
  exact hup.1

end

/-! ### The obligation -/

/-- Settles O35: the walk is `walkBack` of its one request; the park is `parkWith`, whose record counts one event. -/
theorem walksFillTlbOrFault : Obligations.WalksFillTlbOrFault := by
  unfold Obligations.WalksFillTlbOrFault
  refine ⟨fun s page x w halive hone => ?walk, fun s c f hup hfault hrun hreset => ?park⟩
  case' walk => refine ⟨?found, ?demand, ?prefetch, ?ring⟩
  case found =>
    intro hperm
    exact ⟨_, (exec_walk_found halive hone x).trans (congrArg _ (State.walkBack_permitted hperm)), rfl, head?_tlbFill ..,
      length_tlbFill ..⟩
  case demand =>
    intro hdemand hring hguard hcan
    refine ⟨_, (exec_walk_absent halive hone).trans (congrArg _ (State.walkBack_demand hdemand hring hguard hcan)), ?_, .of_eq rfl rfl, rfl,
      fun d hd => State.ctx_modCtx_other _ hd _⟩
    rw [State.ctx_modCtx_same]
  case prefetch =>
    intro hprefetch
    exact ⟨_, (exec_walk_absent halive hone).trans (congrArg _ (State.walkBack_prefetch hprefetch)), rfl, rfl⟩
  case ring =>
    intro hdemand hring hgoing
    exact ⟨_, (exec_walk_absent halive hone).trans (congrArg _ (State.walkBack_ring hdemand hring hgoing)), State.ringFault_stops ..⟩
  case park =>
    have hstep : (s.settleUnits c).eng.step = 7 := by
      rw [(Fr.settles s c).same .eng (by decide)]
      exact State.step_of_up hup
    obtain ⟨hstate, hcause, hseq⟩ := State.parkEvent_ctx (c := c) hstep f
    exact ⟨_, exec_park hup hfault hrun hreset, hstate, hcause, fun hbank => hseq.trans (congrArg (· + 1) (SameTally.settleUnits hbank).seq)⟩

end Sys2Proof.Machine
end

section
/-! SUPPORT. GATHER_ACC (R170 to R178, R227): the command starts, a window runs and flies, and its writes, acknowledged, let the window
commit and the command end. -/

namespace Sys2Proof.Machine

/-! ### The command starts (R170, R227) -/

section
variable {s : State} {c : CtxNo} {i : Nat} {m : Cmd} {g : GatherOps}

theorem State.gatherOps_table (h : s.gatherOps m = some g) : g.tbl.idx = m.f 160 10 ∧ s.descAt (m.f 160 10) = some g.tbl.desc := by
  have hentry : m.f 160 16 % 1024 = m.f 160 10 := fld_mod_two_pow m.pkt 160 (a := 10) (b := 16) (by decide)
  unfold State.gatherOps at h
  split at h
  next a b t _ _ ht =>
    cases h
    obtain ⟨d, hd, rfl⟩ := Option.map_eq_some_iff.1 ht
    exact ⟨hentry, hentry ▸ hd⟩
  next => cases h

/-- A GATHER_ACC whose checks pass starts at the first window of the first pass. -/
theorem exec_gatherAcc (hops : s.gatherOps m = some g) (hstart : s.starting c 0x14 = some (i, m)) (hconflict : s.noConflict c i m = true)
    (hidx : (s.handle c (m.f 128 16)).isSome = true) (hdat : (s.handle c (m.f 144 16)).isSome = true)
    (htbl : (s.handle c (m.f 160 16)).isSome = true) (hreserved : m.reservedBad = none) (hgood : gatherBad m g = none) :
    exec (.gatherAcc c) s = .next (s.setPhase c i (.running (.gather ⟨0, 0, false, [], 0, 0, 0, 0⟩))) := by
  obtain ⟨a, ha⟩ := Option.isSome_iff_exists.1 hidx
  obtain ⟨b, hb⟩ := Option.isSome_iff_exists.1 hdat
  obtain ⟨t, ht⟩ := Option.isSome_iff_exists.1 htbl
  refine congrArg Host.Outcome.next (?_ : s.startGather c = _)
  unfold State.startGather
  simp only [hstart, hconflict, ha, hb, ht, hops, hreserved, hgood, Bool.not_true, Bool.false_eq_true, if_false]

end

/-! ### A window runs (R171 to R173, R176, R177) -/

/-- The rows of window `p` updated, and the flags its updates set. -/
def State.gatherRows (s : State) (c : CtxNo) (g : GatherOps) (a : GatherAccs) (p : GatherPlan) (pass : Nat) : State × Flag :=
  let cs := passCols (g.dat.desc.size 0) pass
  p.rows.foldl (State.gatherRow s c g (s.refusals c a.dat) (s.refusals c a.rd) (a.wr.flatMap (fun x => s.refusals c x.2)) cs.1 cs.2)
    (s, Flag.clear)

/-- The window that flies: its counts are those of the first pass (R175). -/
def GatherPlan.flight (p : GatherPlan) (j : GatherJob) (flags start raw : Nat) : GatherWin where
  pass := j.pass
  win := j.win
  neg := if j.pass = 0 then p.neg else 0
  oob := if j.pass = 0 then p.oob else 0
  valid := decide (j.pass = 0) && !p.rows.isEmpty
  flags := flags
  start := start
  raw := raw

/-- The locks a window takes, one for each of its rows (R176). -/
def GatherPlan.rowLocks (p : GatherPlan) (c : CtxNo) (d : Nat) (seq : Word) (j : GatherJob) : List RowLock :=
  p.rows.map (fun r => ⟨c, d, r.1, seq, j.pass, j.win⟩)

/-- A window's writes `as` are issued, and it takes the locks `ls`. -/
def State.takeRows (s : State) (c : CtxNo) (seq : Word) (as : List Acc) (ls : List RowLock) : State :=
  let q := s.issue c seq .demand as
  { q with ckpt := q.ckpt.noteUnwatched (q.writePages c as), locks := q.locks ++ ls }

/-- A window whose rows stand updated in `z` has taken its locks and issued its writes; its reads, opened in `s`, are done with. -/
def State.windowIssued (z s : State) (c : CtxNo) (m : Cmd) (g : GatherOps) (j : GatherJob) (a : GatherAccs) (p : GatherPlan) : State :=
  let as := a.wr.map (·.2)
  let oob := (a.wr.map (fun x => (s.refusals c x.2).length)).foldl (· + ·) 0
  let q := (z.takeRows c m.seq as (p.rowLocks c g.tbl.idx m.seq j)).closeUnit c m.seq [a.idx, a.dat, a.rd]
  (q.countOob c oob).modCtx c (fun x => { x with tracked := x.tracked || !((z.issue c m.seq .demand as).writePages c as).isEmpty })

/-- The cursor of a GATHER_ACC goes on to job `j`. -/
def State.windowNext (s : State) (c : CtxNo) (i : Nat) (j : GatherJob) : State :=
  (s.setPhase c i (.running (.gather j))).streamNext c (!j.ended)

section
variable (s z : State) (c : CtxNo) (i : Nat) (m : Cmd) (g : GatherOps) (j : GatherJob) (a : GatherAccs) (p : GatherPlan)

/-- A window that runs updates its rows, flies, and the cursor goes on; then whatever is acknowledged commits. -/
theorem State.gatherRun_eq (raw : Nat) :
    let r := s.gatherRows c g a p j.pass
    s.gatherRun c i m g j a p raw = ((r.1.windowIssued s c m g j a p).windowNext c i
      (g.next { j with flying := j.flying ++ [p.flight j r.2.bits (s.streamBegun c) raw] })).rowsDone := by
  simp only [State.gatherRun, GatherPlan.flight, decide_eq_true_eq]
  rfl

theorem SameWork.gatherRow (src : State) (badD badT badW : List (Nat × Nat)) (col0 n : Nat) (q : State × Flag) (x : Nat × List Nat) :
    SameWork q.1 (State.gatherRow src c g badD badT badW col0 n q x).1 :=
  .foldl_fst (fun q _ => .putBits q.1 c _ _ _ _) _ q

theorem SameWork.gatherRows (pass : Nat) : SameWork s (s.gatherRows c g a p pass).1 :=
  .foldl_fst (fun q x => .gatherRow c g s _ _ _ _ _ q x) p.rows (s, Flag.clear)

theorem State.locks_gatherRows (pass : Nat) : (s.gatherRows c g a p pass).1.locks = s.locks := by
  have h : Fr [.core, .remote] s (s.gatherRows c g a p pass).1 :=
    Fr.foldl_fst (fun _ x h => h.gatherRow c g _ _ _ _ _ x (by decide) (by decide)) p.rows (Fr.refl _ s)
  exact h.same .locks (by decide)

theorem SameWork.takeRows (seq : Word) (as : List Acc) (ls : List RowLock) : SameWork s (s.takeRows c seq as ls) :=
  ⟨rfl, rfl, rfl, rfl, Ckpt.noteUnwatched_effective _ _, fun _ => rfl⟩

theorem SameWork.countOob (n : Nat) : SameWork s (s.countOob c n) := .modCtx s c fun _ => rfl

theorem SameWork.windowIssued : SameWork z (z.windowIssued s c m g j a p) := by
  unfold State.windowIssued
  refine SameWork.trans ?_ (.modCtx _ c fun _ => rfl)
  exact ((SameWork.takeRows z c m.seq _ _).trans (.closeUnit _ c m.seq _)).trans (.countOob _ c _)

theorem SameMem.takeRows (seq : Word) (as : List Acc) (ls : List RowLock) : SameMem s (s.takeRows c seq as ls) := .of_eq rfl rfl

theorem SameMem.modCtx (f : Context → Context) : SameMem s (s.modCtx c f) := .of_eq rfl rfl

theorem SameMem.windowIssued : SameMem z (z.windowIssued s c m g j a p) := by
  unfold State.windowIssued
  exact (((SameMem.takeRows z c m.seq _ _).trans (.closeUnit _ c m.seq _)).trans (.modCtx _ c _)).trans (.modCtx _ c _)

theorem State.locks_windowIssued : (z.windowIssued s c m g j a p).locks = z.locks ++ p.rowLocks c g.tbl.idx m.seq j := by
  unfold State.windowIssued
  rw [State.modCtx_locks, State.countOob_locks, State.closeUnit_locks]
  rfl

theorem SameMem.windowNext : SameMem s (s.windowNext c i j) := (SameMem.setPhase s c i _).trans (.modCtx _ c _)

theorem State.slots_windowNext : (s.windowNext c i j).slots = s.slots := rfl

theorem State.locks_windowNext : (s.windowNext c i j).locks = s.locks := rfl

variable {s c i m}

theorem State.phase_windowNext (hcmd : (s.ctx c).cmds[i]? = some m) : PhaseAt (s.windowNext c i j) c i (.running (.gather j)) :=
  (phaseAt_congr ((SameWork.streamNext _ c _).cmds c)).2 (State.phase_setPhase s hcmd _)

end

section
variable {s q v o : State} {c : CtxNo} {i : Nat} {m : Cmd} {g : GatherOps}

theorem State.locks_of_streamGo {seq : Word} {est : Nat → Nat} {n : Nat} {ok : Bool} (h : s.streamGo c seq est n = (ok, q)) :
    q.locks = s.locks := by
  obtain rfl : (s.streamGo c seq est n).2 = q := congrArg Prod.snd h
  have frame : Fr [.ctx c] s (s.streamGo c seq est n).2 := by
    apply Fr.streamGo (Fr.refl _ s)
    simp
  exact frame.same .locks (by simp)

/-- A window whose index elements and data are read, whose rows are translated and free and need no capture, runs. -/
theorem exec_gleanerWindow {j : GatherJob} (hops : s.gatherOps m = some g) (hactive : s.active c = true)
    (hfirst : findAt Cmd.gathering (s.ctx c).cmds 0 = some (i, m)) (hphase : m.phase = .running (.gather j)) :
    let es := windowEntries (g.idx.desc.size 0) j.win
    let ia := g.idx.acc false false (es.map (fun x => g.idx.span (fun _ => x)))
    let p := q.gatherPlan c m g ia es
    let cs := passCols (g.dat.desc.size 0) j.pass
    let a := g.accs ia p cs.1 cs.2
    s.openAll c m.seq [ia] = (true, q) → q.streamGo c m.seq (q.gatherEst c g j a p) (g.left j) = (true, v) →
    (v.streamStart c).openWrites c m.seq a.all = (true, o) → o.locksFree g.tbl.idx (p.rows.map (·.1)) = true →
    (∀ r ∈ p.rows, o.mustCapture c ⟨4, g.tbl.idx, 0, r.1, 0⟩ = false) →
    exec (.gleanerWindow c) s = .next (o.gatherRun c i m g j a p (q.gatherEst c g j a p 0)) := by
  intro es ia p cs a hread hgo hopen hfree hcaptured
  have hgoes : s.goesOn c m.seq = true := by rw [State.goesOn, hactive, Bool.true_or]
  have hnone : (p.rows.map (fun r => (⟨4, g.tbl.idx, 0, r.1, 0⟩ : Unit))).find? (o.mustCapture c) = none := by
    rw [List.find?_eq_none, List.forall_mem_map]
    exact fun r hr => Bool.eq_false_iff.1 (hcaptured r hr)
  have hwindow : s.gatherWindow c i m g j = o.gatherRun c i m g j a p (q.gatherEst c g j a p 0) := by
    unfold State.gatherWindow
    simp only [es, ia, p, cs, a] at hread hgo hopen hfree hnone ⊢
    simp only [hread, hgo, hopen, hfree, hnone, Bool.not_true, Bool.false_eq_true, if_false]
  refine congrArg Host.Outcome.next (?_ : s.gleaner c = _)
  unfold State.gleaner
  simp only [hfirst, hgoes, hphase, hops, hwindow, Bool.not_true, Bool.false_eq_true, if_false]

end

/-! ### A window commits, and a command ends (R177, R178) -/

/-- The reply of a GATHER_ACC that succeeds (R227). -/
def GatherJob.reply (g : GatherJob) : Reply :=
  { Reply.ok with acc := g.acc, result0 := w32 g.neg, result1 := w32 g.oob, result2 := w32 g.used }

/-- What a GATHER_ACC into table `d`, entry `k`, does after its last window: it owes the header update, or completes (R178). -/
def GatherJob.endPhase (g : GatherJob) (d : Desc) (k : Nat) : Phase :=
  if d.hdrEn = true ∧ 0 < g.used then .header ⟨k, 2, true, g.used, w32 (accFlags g.acc), g.used, false⟩ g.reply else .finished g.reply

/-- Window `w` commits: its time and its skipped entries are counted (R171, R177). -/
def State.commitWindow (s : State) (c : CtxNo) (w : GatherWin) : State :=
  s.modCtx c (fun x => { x.unitCommit s.now w.start w.raw with idxNeg := satAdd x.idxNeg w.neg, idxOob := satAdd x.idxOob w.oob })

section
variable (s : State) (c : CtxNo)

theorem SameWork.commitWindow (w : GatherWin) : SameWork s (s.commitWindow c w) := .modCtx s c fun _ => rfl

theorem SameWork.gatherCommits (seq : Word) (n : Nat) (g : GatherJob) : SameWork s (s.gatherCommits c seq n g).1 := by
  induction n generalizing s g with
  | zero => exact .refl s
  | succ n ih =>
    unfold State.gatherCommits
    split
    · exact .refl s
    next w _ _ =>
      split
      · exact .refl s
      · exact (SameWork.commitWindow s c w).trans (ih _ _)

variable {s c} {i : Nat} {m : Cmd} {j : GatherJob} {w : GatherWin}

/-- A window of a command that locks no row has landed. -/
theorem State.windowFlies_of_unlocked {seq : Word} (h : ∀ l ∈ s.locks, l.ctx ≠ c ∨ l.seq ≠ seq) (w : GatherWin) :
    s.windowFlies c seq w = false := by
  rw [State.windowFlies, List.any_eq_false]
  intro l hl
  obtain hctx | hseq := h l hl
  · simp [hctx]
  · simp [hseq]

/-- The only window of a command commits once none of its rows is locked. -/
theorem State.gatherCommits_one {seq : Word} (hflying : j.flying = [w]) (hlanded : s.windowFlies c seq w = false) :
    s.gatherCommits c seq j.flying.length j = (s.commitWindow c w, j.commit w) := by
  rw [hflying, List.length_singleton, State.gatherCommits]
  simp only [hflying, hlanded, Bool.false_eq_true, if_false]
  rfl

theorem GatherJob.flying_commit (hflying : j.flying = [w]) : (j.commit w).flying = [] := by
  simp [GatherJob.commit, hflying]

theorem State.phase_gatherEnd {d : Desc} (hcmd : (s.ctx c).cmds[i]? = some m) (hdesc : s.descAt (m.f 160 10) = some d) :
    PhaseAt (s.gatherEnd c i m j 0x00) c i (j.endPhase d (m.f 160 10)) := by
  unfold State.gatherEnd GatherJob.endPhase
  simp only [hdesc]
  split
  · exact State.phase_setPhase s hcmd _
  · exact State.phase_finish s hcmd _

/-- A command past its last window ends when its only window in flight has landed. -/
theorem State.phase_gatherSettle {d : Desc} (hcmd : (s.ctx c).cmds[i]? = some m) (hphase : m.phase = .running (.gather j))
    (hended : j.ended = true) (hflying : j.flying = [w]) (hlanded : s.windowFlies c m.seq w = false)
    (hdesc : s.descAt (m.f 160 10) = some d) :
    PhaseAt (State.gatherSettle c s (i, m)) c i ((j.commit w).endPhase d (m.f 160 10)) := by
  have hcommit : SameWork s (s.commitWindow c w) := .commitWindow s c w
  have hsettle : State.gatherSettle c s (i, m) = ((s.commitWindow c w).gatherEnd c i m (j.commit w) 0x00).endOverrun c := by
    have hover : ((j.commit w).ended && (j.commit w).flying.isEmpty) = true := by
      rw [GatherJob.flying_commit hflying]
      exact (Bool.and_true _).trans hended
    unfold State.gatherSettle
    simp only [hphase, State.gatherCommits_one hflying hlanded, hover, if_true]
  rw [hsettle, phaseAt_congr ((SameWork.endOverrun _ c).cmds c)]
  exact State.phase_gatherEnd (by rw [hcommit.cmds, hcmd]) ((State.descAt_congr hcommit.descs _).trans hdesc)

end

/-! ### What is acknowledged commits, command by command and context by context -/

/-- The pieces that the commits of context `c` may change. -/
def settleWork (c : CtxNo) : List Piece := [.ctx c, .sent, .waits]

/-- In a list whose elements `f` tells apart, an element's neighbours on both sides differ from it under `f`. -/
theorem exists_split_of_nodup_map {α β : Type} (f : α → β) {xs : List α} {a : α} (hnodup : (xs.map f).Nodup) (hmem : a ∈ xs) :
    ∃ l r, xs = l ++ a :: r ∧ (∀ y ∈ l, f a ≠ f y) ∧ ∀ y ∈ r, f a ≠ f y := by
  obtain ⟨l, r, hsplit⟩ := List.append_of_mem hmem
  rw [hsplit, List.map_append, List.map_cons, List.nodup_append, List.nodup_cons] at hnodup
  obtain ⟨-, ⟨hr, -⟩, hl⟩ := hnodup
  exact ⟨l, r, hsplit, fun y hy => (hl (f y) (List.mem_map_of_mem hy) (f a) List.mem_cons_self).symm,
    fun y hy e => hr (List.mem_map.2 ⟨y, hy, e.symm⟩)⟩

section
variable (s : State) {c : CtxNo} {i : Nat}

theorem Fr.settles_gathers (c : CtxNo) (l : List (Nat × Cmd)) : Fr (settleWork c) s (l.foldl (State.gatherSettle c) s) :=
  Fr.foldl (fun _ x h => h.gatherSettle c x (by simp [settleWork]) (by simp [settleWork]) (by simp [settleWork])) l (Fr.refl _ s)

theorem State.cmds_gatherEnd_other {k : Nat} (h : i ≠ k) (m : Cmd) (j : GatherJob) (status : Byte) :
    ((s.gatherEnd c k m j status).ctx c).cmds[i]? = (s.ctx c).cmds[i]? := by
  unfold State.gatherEnd
  dsimp only
  split
  · split
    · exact State.cmds_setPhase_other s h _
    · exact State.cmds_finish_other s h _
  · exact State.cmds_finish_other s h _

/-- The windows of a command commit, and that command alone goes on or ends. -/
theorem State.cmds_gatherSettle_other {x : Nat × Cmd} (h : i ≠ x.1) :
    ((State.gatherSettle c s x).ctx c).cmds[i]? = (s.ctx c).cmds[i]? := by
  unfold State.gatherSettle
  split
  next j _ =>
    have hcommits := (SameWork.gatherCommits s c x.2.seq j.flying.length j).cmds c
    dsimp only
    split
    · rw [(SameWork.endOverrun _ c).cmds, State.cmds_gatherEnd_other _ h, hcommits]
    · split
      · rw [hcommits]
      · rw [(SameWork.endOverrun _ c).cmds, State.cmds_setPhase_other _ h, hcommits]
  next => rfl

theorem State.cmds_settles_other {l : List (Nat × Cmd)} (h : ∀ x ∈ l, i ≠ x.1) :
    ((l.foldl (State.gatherSettle c) s).ctx c).cmds[i]? = (s.ctx c).cmds[i]? := by
  induction l generalizing s with
  | nil => rfl
  | cons x l ih =>
    obtain ⟨hx, hl⟩ := List.forall_mem_cons.1 h
    exact (ih _ hl).trans (s.cmds_gatherSettle_other hx)

/-- A command stands once among the commands of its context with their places. -/
theorem Context.placed_split {x : Context} {m : Cmd} (h : x.cmds[i]? = some m) :
    ∃ l r, x.placed = l ++ (i, m) :: r ∧ (∀ y ∈ l, i ≠ y.1) ∧ ∀ y ∈ r, i ≠ y.1 := by
  obtain ⟨hlt, hget⟩ := List.getElem?_eq_some_iff.1 h
  have hmem : (i, m) ∈ x.placed := List.mem_iff_getElem.2 ⟨i, by simpa [Context.placed] using hlt, by simp [Context.placed, hget]⟩
  have hplaces : (x.placed.map Prod.fst).Nodup := by
    rw [Context.placed, List.map_fst_zip (by simp)]
    exact List.nodup_range
  exact exists_split_of_nodup_map Prod.fst hplaces hmem

/-- The commits of other contexts change nothing of a context. -/
theorem State.ctx_gatherAlls_other {l : List CtxNo} (h : c ∉ l) : (l.foldl State.gatherAll s).ctx c = s.ctx c := by
  induction l generalizing s with
  | nil => rfl
  | cons d l ih =>
    obtain ⟨hd, hl⟩ := not_or.1 (mt List.mem_cons.2 h)
    exact (ih _ hl).trans ((Fr.settles_gathers s d _).same (.ctx c) (by simp [settleWork, hd]))

end

section
variable {s : State} {c : CtxNo} {i : Nat} {m : Cmd} {j : GatherJob} {w : GatherWin} {d : Desc}
  (hcmd : (s.ctx c).cmds[i]? = some m) (hphase : m.phase = .running (.gather j)) (hended : j.ended = true) (hflying : j.flying = [w])
  (hunlocked : ∀ l ∈ s.locks, l.ctx ≠ c ∨ l.seq ≠ m.seq) (hdesc : s.descAt (m.f 160 10) = some d)

include hcmd hphase hended hflying hunlocked hdesc

theorem State.phase_gatherAll : PhaseAt (s.gatherAll c) c i ((j.commit w).endPhase d (m.f 160 10)) := by
  obtain ⟨l, r, hsplit, hl, hr⟩ := Context.placed_split hcmd
  let u := l.foldl (State.gatherSettle c) s
  have hframe : Fr (settleWork c) s u := .settles_gathers s c l
  have hlocks : u.locks = s.locks := hframe.same .locks (by simp [settleWork])
  have hdescs : u.descs = s.descs := hframe.same .descs (by simp [settleWork])
  have hsettled : PhaseAt (State.gatherSettle c u (i, m)) c i ((j.commit w).endPhase d (m.f 160 10)) :=
    State.phase_gatherSettle ((s.cmds_settles_other hl).trans hcmd) hphase hended hflying
      (State.windowFlies_of_unlocked (by rwa [hlocks]) w) ((State.descAt_congr hdescs _).trans hdesc)
  rw [State.gatherAll, hsplit, List.foldl_append, List.foldl_cons, PhaseAt, State.cmds_settles_other _ hr]
  exact hsettled

/-- The windows of every context commit, and the command ends. -/
theorem State.phase_gatherAlls : PhaseAt (allCtx.foldl State.gatherAll s) c i ((j.commit w).endPhase d (m.f 160 10)) := by
  have hmem : c ∈ allCtx := (by decide : ∀ e : CtxNo, e ∈ allCtx) c
  obtain ⟨l, r, hsplit, hbefore, hafter⟩ := exists_split_of_nodup_map id (by decide : (allCtx.map id).Nodup) hmem
  have hl : c ∉ l := fun h => hbefore c h rfl
  have hr : c ∉ r := fun h => hafter c h rfl
  let u := l.foldl State.gatherAll s
  have hframe : Fr (.sent :: .waits :: everyCtx) s u :=
    Fr.foldl (fun _ e h => h.gatherAll e (by simp [everyCtx]) (by simp) (by simp)) l (Fr.refl _ s)
  have hlocks : u.locks = s.locks := hframe.same .locks (by simp [everyCtx])
  have hdescs : u.descs = s.descs := hframe.same .descs (by simp [everyCtx])
  rw [hsplit, List.foldl_append, List.foldl_cons, PhaseAt, State.ctx_gatherAlls_other _ hr]
  exact State.phase_gatherAll (by rw [State.ctx_gatherAlls_other _ hl, hcmd]) hphase hended hflying (by rwa [hlocks])
    ((State.descAt_congr hdescs _).trans hdesc)

end

/-- A clean acknowledgement frees its request's slot; locks go and windows commit. -/
theorem exec_requestComplete_clean {s : State} (halive : s.alive = true) (idx : Nat) :
    exec (.requestComplete idx .clean) s = .next { s with reqs := dropAt s.reqs idx }.rowsDone := by
  refine congrArg Host.Outcome.next (?_ : s.requestDone idx .clean = _)
  rw [State.requestDone, halive, Bool.not_true, if_neg Bool.false_ne_true]
  rfl

/-! ### The obligation -/

/-- Settles O55: the start is `exec_gatherAcc`; a window runs by `exec_gleanerWindow` and flies as `gatherRun_eq` says; an acknowledgement
after which the command locks no row lets its last window commit (`phase_gatherAlls`). -/
theorem gatherRunsWindows : Obligations.GatherRunsWindows := by
  unfold Obligations.GatherRunsWindows
  intro s q v o c i m g hcmd hops
  refine ⟨?start, ?window, ?ends⟩
  case start =>
    intro hstart hconflict hidx hdat htbl hreserved hgood
    exact ⟨_, exec_gatherAcc hops hstart hconflict hidx hdat htbl hreserved hgood, .setPhase s c i _, State.phase_setPhase s hcmd _⟩
  case window =>
    intro j hactive hfirst hphase es ia p cs a hread hgo hopen hfree hcaptured z
    let r := o.gatherRows c g a p j.pass
    let y := r.1.windowIssued o c m g j a p
    let w := p.flight j r.2.bits (o.streamBegun c) (q.gatherEst c g j a p 0)
    let j1 := g.next { j with flying := j.flying ++ [w] }
    have hexec : exec (.gleanerWindow c) s = .next (y.windowNext c i j1).rowsDone :=
      (exec_gleanerWindow hops hactive hfirst hphase hread hgo hopen hfree hcaptured).trans (congrArg _ (o.gatherRun_eq c i m g j a p _))
    have hbefore : SameWork s o :=
      (((SameWork.of_openAll hread).trans (.of_streamGo hgo)).trans (.streamStart v c)).trans (.of_openWrites hopen)
    have hwork : SameWork s y := (hbefore.trans (.gatherRows o c g a p j.pass)).trans (.windowIssued o r.1 c m g j a p)
    have hlocks : o.locks = s.locks := by
      have hq : q.locks = s.locks := by
        have h := s.openAll_locks c m.seq [ia]
        rwa [hread] at h
      have ho : o.locks = v.locks := by
        have h := (v.streamStart c).openWrites_locks c m.seq a.all
        rwa [hopen] at h
      exact (ho.trans (State.locks_of_streamGo hgo)).trans hq
    have hrows : y.locks = s.locks ++ p.rowLocks c g.tbl.idx m.seq j :=
      (State.locks_windowIssued o r.1 c m g j a p).trans (congrArg (· ++ _) ((o.locks_gatherRows c g a p j.pass).trans hlocks))
    have hmem : SameMem r.1 (y.windowNext c i j1) := (SameMem.windowIssued o r.1 c m g j a p).trans (.windowNext y c i j1)
    exact ⟨y.windowNext c i j1, w, hexec, (y.slots_windowNext c i j1).trans hwork.slots, hmem,
      State.phase_windowNext j1 (by rw [hwork.cmds, hcmd]), (y.locks_windowNext c i j1).trans hrows, rfl, rfl, rfl, rfl⟩
  case ends =>
    intro j w idx halive hphase hended hflying hunlocked n acc r
    obtain ⟨hentry, hdesc⟩ := State.gatherOps_table hops
    let u := { s with reqs := dropAt s.reqs idx }
    have hframe : Fr (.locks :: .sent :: .waits :: everyCtx) u u.rowsDone := by
      apply Fr.rowsDone (Fr.refl _ u) <;> simp [everyCtx]
    refine ⟨u.rowsDone, exec_requestComplete_clean halive idx, hframe.sameMem (by simp [everyCtx]) (by simp [everyCtx]), ?_⟩
    rw [hentry]
    exact State.phase_gatherAlls (s := u.freeLocks) hcmd hphase hended hflying hunlocked hdesc

end Sys2Proof.Machine
end

section
/-! SUPPORT. What a chain entry does with what comes over its chain (R183, R184, R186): how an entry settles after a change, the beats it takes and
refuses, the credits it counts and the neighbours it gets. -/

namespace Sys2Proof.Machine

/-! ### An entry settles after a change (R184) -/

section
variable (k : Chain)

theorem Chain.forward_of_out_nil (h : k.out = []) (n : Nat) : k.forward n = ([], k) := by
  cases n with
  | zero => rfl
  | succ n => simp only [Chain.forward, h]

/-- What the beats out and kept, the credits and the slack do not tell stays as an entry forwards. -/
theorem Chain.forward_same {α : Type} {f : Chain → α}
    (hf : ∀ k out credits kept slack, f { k with out := out, credits := credits, kept := kept, slack := slack } = f k) (n : Nat) :
    f (k.forward n).2 = f k := by
  induction n generalizing k with
  | zero => rfl
  | succ n ih =>
    rw [Chain.forward]
    split
    · split
      · rfl
      · exact (ih _).trans (hf ..)
    · rfl

theorem Chain.free_of_slack_nil (h : k.slack = []) : k.free.2 = k := by
  rw [Chain.free, h]
  exact congrArg (fun l => { k with slack := l }) h.symm

theorem Chain.noteHeld_of_slack_nil (h : k.slack = []) (now : Nat) : k.noteHeld now = { k with heldSince := none } := by
  rw [Chain.noteHeld, Chain.heldLocally, h]
  rfl

end

section
variable (s : State) {e : Nat} (k : Chain)

theorem State.chain_setChain_same (h : e < 4) : (s.setChain e k).chain e = k := by rw [State.chain_setChain, if_pos ⟨rfl, h⟩]

theorem State.chain_setChain_other {j : Nat} (h : j ≠ e) : (s.setChain e k).chain j = s.chain j := by
  rw [State.chain_setChain, if_neg fun hj => h hj.1]

theorem State.chain_settleChain (h : e < 4) : (s.settleChain e k).chain e = ((k.forward 2048).2.free.2).noteHeld s.now :=
  s.chain_setChain_same _ h

/-- An entry with nothing to send and an empty slack stays as it is. -/
theorem State.chain_settleChain_idle (h : e < 4) (hout : k.out = []) (hslack : k.slack = []) :
    (s.settleChain e k).chain e = { k with heldSince := none } := by
  rw [State.chain_settleChain s k h, Chain.forward_of_out_nil k hout, Chain.free_of_slack_nil k hslack, Chain.noteHeld_of_slack_nil k hslack]

/-- Settling leaves the beat that an entry expects next. -/
theorem State.next_settleChain (h : e < 4) : ((s.settleChain e k).chain e).next = k.next := by
  rw [State.chain_settleChain s k h]
  exact Chain.forward_same k (f := Chain.next) (fun _ _ _ _ _ => rfl) 2048

/-- An entry settles in its place and sends messages, nothing else. -/
theorem State.settleChain_frame (e : Nat) :
    s.settleChain e k = { s with chains := (s.settleChain e k).chains, chainOut := (s.settleChain e k).chainOut } := rfl

end

/-! ### Beats and credits (R183, R184) -/

section
variable {k : Chain} {b : Beat}

/-- A beat in its order opens no gap: it is the last one accepted, unless it waits behind one. -/
theorem Chain.next_accept (hlate : k.late = false) (haccepts : k.accepts k.id b = true) :
    (k.accept b).next = if k.next < k.gapTo then k.next else k.next + 1 := by
  have hnum : b.num = k.expect := by
    simp only [Chain.accepts, hlate, Bool.false_and, Bool.or_false, Bool.and_eq_true, beq_iff_eq] at haccepts
    obtain ⟨⟨-, hnum⟩, -⟩ := haccepts
    exact hnum
  simp only [Chain.accept, hnum, Nat.lt_irrefl, if_false, decide_eq_true_eq]

theorem Chain.credits_credit {core : BitVec 4} (hcore : core = k.succ) (hend : k.cutOff = false) :
    (k.credit core).credits = min 256 (k.credits + 1) := by
  simp [Chain.credit, hcore, hend]

theorem Chain.credit_home {core : BitVec 4} (hother : core ≠ k.succ ∨ k.cutOff = true) (hown : core = k.ownSucc) :
    k.credit core = { k with home := min 256 (k.home + 1) } := by
  have hnot : ¬ (core = k.succ ∧ ¬ k.cutOff = true) := fun h => hother.elim (· h.1) h.2
  rw [Chain.credit, if_neg hnot, if_pos hown]

theorem Chain.credit_links (core : BitVec 4) : (k.credit core).out = k.out ∧ (k.credit core).slack = k.slack := by
  unfold Chain.credit
  split
  · exact ⟨rfl, rfl⟩
  · split <;> exact ⟨rfl, rfl⟩

end

section
variable {s : State}

/-- A credit counts, and the entry goes on with it. -/
theorem exec_credit {e : Fin 4} (hup : s.up = true) (hvalid : (s.chain e.val).valid = true) (core : Fin 16) :
    exec (.credit ⟨e, core⟩) s = .next (s.settleChain e.val ((s.chain e.val).credit (BitVec.ofNat 4 core.val))) :=
  congrArg Host.Outcome.next (if_pos (by rw [hup, hvalid]; rfl))

/-- A beat that reaches a member, its slack not full. -/
theorem State.chainBeat_member {e : Nat} {b : Beat} (hup : s.up = true) (hvalid : (s.chain e).valid = true)
    (hhead : (s.chain e).head = false) (hroom : (s.chain e).slack.length < 256) (hjoined : (s.chain e).detached = false)
    (hlate : (s.chain e).late = false) (id : BitVec 12) : s.chainBeat e id b =
      if (s.chain e).due.isSome then s.setChain e { s.chain e with owed := (s.chain e).owed + 1 }
      else if (s.chain e).accepts id b then s.settleChain e ((s.chain e).accept b)
      else s.setChain e { s.chain e with due := some 1, owed := (s.chain e).owed + 1 } := by
  simp [State.chainBeat, hup, hvalid, hhead, hjoined, hlate, Nat.not_le.2 hroom]

end

/-! ### New neighbours (R186) -/

section
variable {s : State} {e : Fin 4} (hup : s.up = true) (hvalid : (s.chain e.val).valid = true) (hjoined : (s.chain e.val).detached = false)
include hup hvalid hjoined

theorem exec_detachNotification (fromSucc : Bool) (neighbour : Option (Fin 16)) (credits : Fin 257) :
    exec (.detachNotification e fromSucc neighbour ⟨credits⟩) s =
      .next (s.settleChain e.val ((s.chain e.val).rejoin fromSucc neighbour credits.val)) :=
  congrArg Host.Outcome.next (if_pos (by rw [hup, hvalid, hjoined]; rfl))

/-- A member whose slack is empty, and that has nothing to send beside its new neighbour, only takes the notice. -/
theorem exec_detachNotification_idle (fromSucc : Bool) (neighbour : Option (Fin 16)) (credits : Fin 257)
    (hout : ((s.chain e.val).rejoin fromSucc neighbour credits.val).out = [])
    (hslack : ((s.chain e.val).rejoin fromSucc neighbour credits.val).slack = []) :
    ∃ t, exec (.detachNotification e fromSucc neighbour ⟨credits⟩) s = .next t
      ∧ t.chain e.val = { (s.chain e.val).rejoin fromSucc neighbour credits.val with heldSince := none }
      ∧ t = { s with chains := t.chains, chainOut := t.chainOut } :=
  ⟨_, exec_detachNotification hup hvalid hjoined .., s.chain_settleChain_idle _ e.isLt hout hslack, s.settleChain_frame _ _⟩

end

end Sys2Proof.Machine
end

section
/-! SUPPORT. A member leaves its chain (R186, R188): the entry it leaves behind, its messages, and the record of its owner, which is posted at
once where the completion ring has room. -/

namespace Sys2Proof.Machine

/-! ### An event's record is posted (R200) -/

section
variable {s : State} {c : CtxNo}

theorem State.mute_of_up (hup : s.up = true) (hgoing : (s.ctx c).state ≠ .stopped) : s.mute c = false := by
  rw [State.mute, State.isFatal, State.step_of_up hup, beq_eq_false_iff_ne.2 hgoing]
  rfl

theorem State.eventSeq_event (h : s.mute c = false) (kind : Byte) (payload : BitVec 128) :
    ((s.event c kind payload).ctx c).eventSeq = (s.ctx c).eventSeq + 1 := by
  rw [(SameTally.event s c h kind payload).seq, State.countEvent, State.ctx_modCtx_same]

theorem State.cplTail_postEvent (s : State) (c : CtxNo) (r : EventRec) : ((s.postEvent c r).ctx c).cplTail = (s.ctx c).cplTail + 1 := by
  have hposted (b : BitVec 256) : ((s.postEntry c b).ctx c).cplTail = (s.ctx c).cplTail + 1 := by
    rw [State.postEntry, State.ctx_modCtx_same, State.ctx, State.pokeN_ctxs, ← State.ctx]
  have hlost (u : State) : ((u.modCtx c (fun y => if r.room.isSome then y else { y with lost := 0 })).ctx c).cplTail = (u.ctx c).cplTail := by
    rw [State.ctx_modCtx_same]
    split <;> rfl
  have hpulse (u : State) (line : Nat) : (u.pulse line).ctx c = u.ctx c := rfl
  unfold State.postEvent
  dsimp only
  split
  · rw [hpulse, hlost, hposted]
  · rw [hlost, hposted]

/-- With no record waiting, an entry free and the ring's page translated, the record is posted as the event happens. -/
theorem State.cplTail_event (hmute : s.mute c = false) (hheld : (s.ctx c).held = []) (hroom : (s.ctx c).cmds.length < (s.ctx c).cplFree)
    (hneed : s.needOk c (ringNeed (s.ctx c).cplAddr true) = true) (kind : Byte) (payload : BitVec 128) :
    ((s.event c kind payload).ctx c).cplTail = (s.ctx c).cplTail + 1 := by
  have hctx : (s.countEvent c).ctx c = { s.ctx c with eventSeq := (s.ctx c).eventSeq + 1 } := State.ctx_modCtx_same s c _
  have hfree : (s.ctx c).held.all (fun r => r.room.isSome) = true ∧ (s.ctx c).cmds.length < (s.ctx c).evtFree := by
    rw [Context.evtFree, hheld]
    exact ⟨rfl, hroom⟩
  have hxlat : (s.countEvent c).needOk c (ringNeed (s.ctx c).cplAddr true) = true := by
    rw [State.needOk, State.xlat, hctx]
    exact hneed
  have hready : (s.countEvent c).ringReady c ((s.countEvent c).ctx c).cplAddr true
      = (true, (s.countEvent c).touchTlb (pageOf (s.ctx c).cplAddr)) := by
    rw [hctx]
    exact if_pos hxlat
  have hempty : ((s.countEvent c).ctx c).held.isEmpty = true := by rw [hctx, hheld]; rfl
  have htail : ((s.countEvent c).ctx c).cplTail = (s.ctx c).cplTail := by rw [hctx]
  unfold State.event
  rw [hmute, if_neg Bool.false_ne_true]
  dsimp only
  rw [if_pos hfree]
  change (((s.countEvent c).takeEntry c _).ctx c).cplTail = _
  rw [State.takeEntry, hready, if_pos ⟨rfl, hempty⟩, State.cplTail_postEvent, State.ctx_touchTlb, htail]

end

/-! ### The member out of its chain -/

theorem Chain.owner_leave (k : Chain) : k.leave.owner = k.owner := by
  rw [Chain.owner, Chain.owner, Chain.leave, fld_setFld_below k.entry _ (by decide) (by decide)]

/-- The state once the member at entry `e` has left its chain, its record still to come; `n` the next free value. -/
def State.leftChain (s : State) (e n : Nat) : State :=
  { s.setChain e (s.chain e).leave with
    free := n, chainOut := s.chainOut ++ (s.chain e).notices, tel := { s.tel with detach := satAdd s.tel.detach 1 } }

section
variable {s : State} {e : Nat}

theorem State.leaveChain_eq (s : State) (e : Nat) (cause : BitVec 2) (beat : Nat) :
    ∃ n p, s.leaveChain e cause beat = (s.leftChain e n).event (s.chain e).owner 0x04 p := by
  unfold State.leaveChain
  dsimp only
  rw [Chain.owner_leave]
  split <;> exact ⟨_, _, rfl⟩

theorem State.detach_leaves (hup : s.up = true) {cause : BitVec 2} (hleaves : (s.chain e).leaves s.now cause = true) :
    ∃ n p, s.detach e cause = (s.leftChain e n).event (s.chain e).owner 0x04 p := by
  unfold State.detach
  simp only [hup, hleaves, Bool.not_true, Bool.or_self, Bool.false_eq_true, if_false]
  exact State.leaveChain_eq ..

theorem State.detach_stays {cause : BitVec 2} (hstays : (s.chain e).leaves s.now cause = false) : s.detach e cause = s := by
  simp [State.detach, hstays]

end

end Sys2Proof.Machine
end

section
/-! SUPPORT. CHAIN_SETUP (R181, R236): the entry it takes or releases, and the replies that refuse it. -/

namespace Sys2Proof.Machine

/-! ### Where the command ends -/

section
variable (s : State)

/-- A command that completes having written a chain entry changes this entry, its own context and the waits of it. -/
theorem State.finish_setChain_frame (c : CtxNo) (i n : Nat) (k : Chain) (r : Reply) :
    let t := (s.setChain n k).finish c i r
    t = { s with chains := t.chains, ctxs := t.ctxs, waits := t.waits, sent := t.sent } := by
  intro t
  obtain ⟨hframe, -⟩ := OnlyCtx.finish (s.setChain n k) c i r
  rw [show t.chains = (s.setChain n k).chains from State.finish_chains _ c i r]
  exact hframe

theorem State.freeChain_lowest {n : Nat} (hn : n < 4) (hfree : (s.chain n).valid = false) (hbelow : ∀ j, j < n → (s.chain j).valid = true) :
    (List.range 4).find? (fun j => !(s.chain j).valid) = some n :=
  List.find?_range_eq_some.2 ⟨by rw [hfree]; rfl, List.mem_range.2 hn, fun j hj => by simp [hbelow j hj]⟩

theorem State.freeChain_none (htaken : ∀ j, j < 4 → (s.chain j).valid = true) :
    (List.range 4).find? (fun j => !(s.chain j).valid) = none :=
  List.find?_eq_none.2 fun j hj => by simp [htaken j (List.mem_range.1 hj)]

end

section
variable {s : State} {c : CtxNo} {i : Nat} {m : Cmd}

/-- A CHAIN_SETUP that replies `r` at once changes no chain entry. -/
theorem exec_chainSetup_replies (hcmd : (s.ctx c).cmds[i]? = some m) {r : Reply} (h : s.setupChain c = s.finish c i r) :
    ∃ t, exec (.chainSetup c) s = .next t ∧ PhaseAt t c i (.finished r)
      ∧ t = { s with ctxs := t.ctxs, waits := t.waits, sent := t.sent } := by
  obtain ⟨hframe, -⟩ := OnlyCtx.finish s c i r
  exact ⟨_, congrArg Host.Outcome.next h, State.phase_finish s hcmd r, hframe⟩

/-- A CHAIN_SETUP that writes entry `n` completes and changes no other entry. -/
theorem exec_chainSetup_writes (hcmd : (s.ctx c).cmds[i]? = some m) {n : Nat} (hn : n < 4) {k : Chain} {r : Reply}
    (h : s.setupChain c = (s.setChain n k).finish c i r) :
    ∃ t, exec (.chainSetup c) s = .next t ∧ t.chain n = k ∧ (∀ j, j ≠ n → t.chain j = s.chain j) ∧ PhaseAt t c i (.finished r)
      ∧ t = { s with chains := t.chains, ctxs := t.ctxs, waits := t.waits, sent := t.sent } := by
  refine ⟨_, congrArg Host.Outcome.next h, ?_, fun j hj => ?_, State.phase_finish (s.setChain n k) hcmd r,
    s.finish_setChain_frame c i n k r⟩
  · rw [State.chain_finish, s.chain_setChain_same k hn]
  · rw [State.chain_finish, s.chain_setChain_other k hj]

/-! ### An entry is taken (R181) -/

section
variable (hstart : s.starting c 0x3A = some (i, m)) (hvalid : m.bit 128 = true) (hreserved : m.reservedBad = none)
include hstart hvalid hreserved

theorem State.setupChain_refused {r : Reply} (hbad : setupBad (fld s.eng.position 0 4) m = some r) : s.setupChain c = s.finish c i r := by
  unfold State.setupChain
  simp only [hstart, hvalid, if_true, hreserved, hbad]

theorem State.setupChain_takes {n : Nat} (hgood : setupBad (fld s.eng.position 0 4) m = none)
    (hfree : (List.range 4).find? (fun j => !(s.chain j).valid) = some n) : s.setupChain c =
      (s.setChain n (newChain c (m.pkt.extractLsb' 128 64))).finish c i { Reply.ok with result0 := w32 (n + 1) } := by
  unfold State.setupChain
  simp only [hstart, hvalid, if_true, hreserved, hgood, hfree]

theorem State.setupChain_busy (hgood : setupBad (fld s.eng.position 0 4) m = none)
    (htaken : (List.range 4).find? (fun j => !(s.chain j).valid) = none) : s.setupChain c = s.finish c i (.of stChainBusy) := by
  unfold State.setupChain
  simp only [hstart, hvalid, if_true, hreserved, hgood, htaken]

end

/-! ### An entry is released (R181) -/

section
variable (hstart : s.starting c 0x3A = some (i, m)) (hrelease : m.bit 128 = false)
include hstart hrelease

theorem State.setupChain_badHandle (hzero : m.f 192 3 ≠ 0) (hhandle : ¬ (m.f 192 3 ≤ 4 ∧ s.chainHandleOk c (m.f 192 3) = true)) :
    s.setupChain c = s.finish c i (.of stHandle) := by
  unfold State.setupChain
  simp only [hstart, hrelease, Bool.false_eq_true, if_false]
  exact if_pos ⟨hzero, hhandle⟩

theorem State.setupChain_noEntry (hreserved : m.reservedBad = none) (hzero : m.f 192 3 = 0) : s.setupChain c = s.finish c i (.bad 192) := by
  unfold State.setupChain
  simp only [hstart, hrelease, Bool.false_eq_true, if_false, hzero, ne_eq, not_true_eq_false, false_and, hreserved, if_true]

/-- The entry a handle names waits for the commands that name it, and is released then. -/
theorem State.setupChain_release (hreserved : m.reservedBad = none) {n : Nat} (hentry : m.f 192 3 = n + 1) (hn : n < 4)
    (hhandle : s.chainHandleOk c (n + 1) = true) :
    s.setupChain c = if s.chainUsed c i (n + 1) then s else (s.setChain n .reset).finish c i .ok := by
  unfold State.setupChain
  simp only [hstart, hrelease, Bool.false_eq_true, if_false, hentry, hhandle, hreserved, Nat.add_sub_cancel, Nat.add_one_ne_zero,
    Nat.succ_le_of_lt hn, and_self, not_true_eq_false, and_false]

end

end

end Sys2Proof.Machine
end

section
/-! SUPPORT. The obligation on chain members. -/

namespace Sys2Proof.Machine

/-- Settles O26: a beat is `chainBeat_member`, a notice `exec_detachNotification_idle`; a member leaves by `detach_leaves`, the state it
leaves is `leftChain`, whose record is an event; CHAIN_SETUP replies at once or writes one entry. -/
theorem chainMembersRelayAndDetach : Obligations.ChainMembersRelayAndDetach := by
  unfold Obligations.ChainMembersRelayAndDetach
  refine ⟨fun s e seq num sig data core hup hvalid hjoined => ⟨fun hhead hroom hlate => ?beats, ?credits⟩,
    fun s e cause n credits hup => ⟨?leaves, ?stays, fun hvalid hjoined hslack => ⟨?tail, fun hout => ⟨?head, ?pred, ?succ⟩⟩⟩,
    fun s c i n m hstart hcmd => ⟨fun hbit hreserved => ⟨?taken, ?busy, ?refused⟩, fun hbit => ⟨?noEntry, ?badHandle, ?release⟩⟩⟩
  case beats =>
    have hbeat := State.chainBeat_member (b := ⟨seq, num.toNat, sig, data⟩) hup hvalid hhead hroom hjoined hlate (s.chain e.val).id
    refine ⟨fun hdue haccepts => ?_, fun hdue => ?_, fun hdue haccepts => ?_⟩
    · rw [hdue, haccepts] at hbeat
      exact ⟨_, congrArg Host.Outcome.next hbeat, s.chain_setChain_same _ e.isLt, rfl⟩
    · rw [if_pos (Option.isSome_iff_ne_none.2 hdue)] at hbeat
      exact ⟨_, congrArg Host.Outcome.next hbeat, s.chain_setChain_same _ e.isLt, rfl⟩
    · rw [hdue, haccepts] at hbeat
      exact ⟨_, congrArg Host.Outcome.next hbeat, (s.next_settleChain _ e.isLt).trans (Chain.next_accept hlate haccepts),
        s.settleChain_frame _ _⟩
  case credits =>
    intro hout hslack
    obtain ⟨hout', hslack'⟩ := (s.chain e.val).credit_links (BitVec.ofNat 4 core.val)
    have hentry := s.chain_settleChain_idle _ e.isLt (hout'.trans hout) (hslack'.trans hslack)
    refine ⟨_, exec_credit hup hvalid core, fun hsucc hend => ?_, fun hother hown => ?_, s.settleChain_frame _ _⟩
    · rw [hentry]
      exact Chain.credits_credit hsucc hend
    · rw [hentry, Chain.credit_home hother hown]
      exact ⟨rfl, rfl⟩
  case leaves =>
    intro hleaves
    obtain ⟨n, p, hdetach⟩ := State.detach_leaves hup hleaves
    let u := s.leftChain e.val n
    let c := (s.chain e.val).owner
    have hchain : (u.event c 0x04 p).chain e.val = (s.chain e.val).leave := by
      rw [State.chain, State.event_chains]
      exact s.chain_setChain_same _ e.isLt
    have htel : (u.event c 0x04 p).tel = u.tel := State.event_tel u c 0x04 p
    have hmute (hgoing : (s.ctx c).state ≠ .stopped) : u.mute c = false := State.mute_of_up (s := u) hup hgoing
    exact ⟨u.event c 0x04 p, congrArg Host.Outcome.next hdetach, congrArg Chain.detached hchain, congrArg Chain.due hchain,
      congrArg Chain.out hchain, congrArg Chain.entry hchain, congrArg Telemetry.detach htel, State.event_chainOut u c 0x04 p,
      fun hgoing => State.eventSeq_event (hmute hgoing) 0x04 p,
      fun hgoing hheld hroom hneed => State.cplTail_event (s := u) (hmute hgoing) hheld hroom hneed 0x04 p⟩
  case stays => exact fun hstays => congrArg Host.Outcome.next (State.detach_stays hstays)
  case tail =>
    obtain ⟨t, hexec, hentry, hframe⟩ := exec_detachNotification_idle hup hvalid hjoined true none credits rfl hslack
    exact ⟨t, hexec, congrArg Chain.tail hentry, congrArg Chain.out hentry, hframe⟩
  case head =>
    have hempty : ((s.chain e.val).slack.filter (fun b => decide (b.beat.num < (s.chain e.val).next))) = [] := by rw [hslack]; rfl
    obtain ⟨t, hexec, hentry, hframe⟩ := exec_detachNotification_idle hup hvalid hjoined false none credits hout hempty
    exact ⟨t, hexec, congrArg Chain.head hentry, hframe⟩
  case pred =>
    obtain ⟨t, hexec, hentry, hframe⟩ := exec_detachNotification_idle hup hvalid hjoined false (some n) credits hout hslack
    exact ⟨t, hexec, congrArg Chain.pred hentry, congrArg Chain.late hentry, hframe⟩
  case succ =>
    intro hkept
    have hempty : (s.chain e.val).kept ++ (s.chain e.val).out = [] := by rw [hkept, hout]; rfl
    obtain ⟨t, hexec, hentry, hframe⟩ := exec_detachNotification_idle hup hvalid hjoined true (some n) credits hempty hslack
    exact ⟨t, hexec, congrArg Chain.succ hentry, congrArg Chain.credits hentry, hframe⟩
  case taken =>
    exact fun hgood hn hfree hbelow =>
      exec_chainSetup_writes hcmd hn (State.setupChain_takes hstart hbit hreserved hgood (s.freeChain_lowest hn hfree hbelow))
  case busy =>
    exact fun hgood htaken =>
      exec_chainSetup_replies hcmd (State.setupChain_busy hstart hbit hreserved hgood (s.freeChain_none htaken))
  case refused => exact fun r hbad => exec_chainSetup_replies hcmd (State.setupChain_refused hstart hbit hreserved hbad)
  case noEntry => exact fun hzero hreserved => exec_chainSetup_replies hcmd (State.setupChain_noEntry hstart hbit hreserved hzero)
  case badHandle => exact fun hzero hhandle => exec_chainSetup_replies hcmd (State.setupChain_badHandle hstart hbit hzero hhandle)
  case release =>
    intro hentry hn hhandle hreserved
    have hrelease := State.setupChain_release hstart hbit hreserved hentry hn hhandle
    refine ⟨fun hused => ?_, fun hused => ?_⟩
    · exact congrArg Host.Outcome.next (hrelease.trans (if_pos hused))
    · exact exec_chainSetup_writes hcmd hn (hrelease.trans (if_neg (Bool.eq_false_iff.1 hused)))

end Sys2Proof.Machine
end

section
/-! SUPPORT. The end of a context's units (R157) drains banks, ends tiles and runs write phases to their end, and yet leaves every command of
every context at its place. -/

namespace Sys2Proof.Machine

/-! ### Every command stays at its place -/

/-- Each context has in `t` as many commands as in `s`. -/
structure SamePlaces (s t : State) : Prop where
  length : ∀ d, (t.ctx d).cmds.length = (s.ctx d).cmds.length

section
variable {s t u : State}

theorem SamePlaces.trans (h : SamePlaces s t) (k : SamePlaces t u) : SamePlaces s u := ⟨fun d => (k.length d).trans (h.length d)⟩

theorem SamePlaces.of_ctxs (h : t.ctxs = s.ctxs) : SamePlaces s t := ⟨fun d => by rw [State.ctx, h, State.ctx]⟩

theorem SamePlaces.refl (s : State) : SamePlaces s s := .of_ctxs rfl

theorem SamePlaces.of_work (h : SameWork s t) : SamePlaces s t := ⟨fun d => congrArg List.length (h.cmds d)⟩

/-- The contexts are not of the pieces that may have changed. -/
theorem SamePlaces.of_frame {ks : List Piece} (h : Fr ks s t) (hctx : ∀ d, Piece.ctx d ∉ ks) : SamePlaces s t :=
  ⟨fun d => congrArg (fun x : Context => x.cmds.length) (h.same (.ctx d) (hctx d))⟩

theorem SamePlaces.cmd (h : SamePlaces s t) {c : CtxNo} {i : Nat} {m : Cmd} (hcmd : (s.ctx c).cmds[i]? = some m) :
    ∃ m1, (t.ctx c).cmds[i]? = some m1 := by
  obtain ⟨hlt, -⟩ := List.getElem?_eq_some_iff.1 hcmd
  exact ⟨_, List.getElem?_eq_getElem (by rw [h.length]; exact hlt)⟩

end

section
variable (s : State) (c : CtxNo)

theorem SamePlaces.modCtx {f : Context → Context} (hf : ∀ x, (f x).cmds.length = x.cmds.length) : SamePlaces s (s.modCtx c f) := by
  refine ⟨fun d => ?_⟩
  rw [State.ctx_modCtx]
  split
  next hd => rw [hf, hd]
  next => rfl

theorem SamePlaces.setPhase (i : Nat) (p : Phase) : SamePlaces s (s.setPhase c i p) :=
  .modCtx s c fun x => by split <;> simp [Context.setCmd]

theorem SamePlaces.finish (i : Nat) (r : Reply) : SamePlaces s (s.finish c i r) :=
  ((SamePlaces.of_ctxs (s.unwaitCmd_ctxs c i)).trans (.setPhase _ c i _)).trans (.of_work (.unpin _ c))

theorem SamePlaces.runRows {f : State → Bool × State} (hf : ∀ s, SamePlaces s (f s).2) (n : Nat) : SamePlaces s (runRows f n s) := by
  induction n generalizing s with
  | zero => exact .refl s
  | succ n ih =>
    rw [Machine.runRows]
    split
    · exact (hf s).trans (ih _)
    · exact hf s

/-! ### A product command's tiles and its end (R82, R98, R107, R183, R241) -/

theorem SamePlaces.leaveChain (e : Nat) (cause : BitVec 2) (beat : Nat) : SamePlaces s (s.leaveChain e cause beat) := by
  obtain ⟨n, p, hleft⟩ := s.leaveChain_eq e cause beat
  rw [hleft]
  exact (SamePlaces.of_ctxs (s := s) (t := s.leftChain e n) rfl).trans (.of_work (.event _ _ _ _))

theorem SamePlaces.finishChain (e : Nat) : SamePlaces s (s.finishChain e) := by
  have hput (t : State) (k : Chain) (out : List ChainMsg) : SamePlaces t { t.setChain e k with chainOut := out } := .of_ctxs rfl
  unfold State.finishChain
  dsimp only
  split
  · exact (SamePlaces.leaveChain s e _ _).trans (hput _ _ _)
  · exact hput s _ _

theorem SamePlaces.chainEnd (m : Cmd) : SamePlaces s (s.chainEnd m) := by
  unfold State.chainEnd
  split
  · exact .refl s
  · split
    · split
      · exact .finishChain s _
      · exact .refl s
    · exact .refl s

theorem SamePlaces.holdSlots (ks : List Nat) : SamePlaces s (s.holdSlots ks) :=
  .of_frame (ks := [.slots]) (Fr.holdSlots (Fr.refl _ s) ks (by simp)) (by simp)

theorem SamePlaces.productEnd (i : Nat) (m : Cmd) (j : ProdJob) (status : Byte) : SamePlaces s (s.productEnd c i m j status) := by
  have hheld : SamePlaces s ((s.chainEnd m).holdSlots j.mine) := (SamePlaces.chainEnd s m).trans (.holdSlots _ _)
  unfold State.productEnd
  dsimp only
  split
  · split
    · exact hheld.trans (.setPhase _ c i _)
    · exact hheld.trans (.finish _ c i _)
  · exact hheld.trans (.finish _ c i _)

theorem SamePlaces.leaveTile (i : Nat) (m : Cmd) (j : ProdJob) (n : Nat) : SamePlaces s (s.leaveTile c i m j n) := by
  unfold State.leaveTile
  dsimp only
  split
  · exact .productEnd s c i m _ _
  · exact .setPhase s c i _

theorem SamePlaces.residentDone (i : Nat) (m : Cmd) (j : ProdJob) (n k tiles : Nat) : SamePlaces s (s.residentDone c i m j n k tiles) := by
  have hheld (more : Bool) : SamePlaces s (if more then s else s.holdSlots [k]) := by
    split
    · exact .refl s
    · exact .holdSlots s [k]
  unfold State.residentDone
  dsimp only
  split
  · exact (hheld _).trans (.setPhase _ c i _)
  · exact (hheld _).trans (.leaveTile _ c i m _ n)

theorem SamePlaces.tileIn (i : Nat) (m : Cmd) (j : ProdJob) (n slot : Nat) (res : Bool) (tiles : Nat) :
    SamePlaces s (s.tileIn c i m j n slot res tiles) := by
  unfold State.tileIn
  split
  · split
    · exact .setPhase s c i _
    · exact .residentDone s c i m j n slot tiles
  · exact (SamePlaces.of_ctxs (s := s) (t := s.modSlot slot _) rfl).trans (.setPhase _ c i _)

theorem SamePlaces.tileDone (i : Nat) (m : Cmd) (j : ProdJob) (r : TileRun) : SamePlaces s (s.tileDone c i m j r) := by
  have hturn : SamePlaces s (if j.lead = m.seq then s.turnTile c else s) := by
    split
    · exact .of_frame (ks := [.schedTurn]) (Fr.turnTile (Fr.refl _ s) c (by simp)) (by simp)
    · exact .refl s
  have hnote (t : State) (l : Lane) : SamePlaces t { t with lane := l } := .of_ctxs rfl
  unfold State.tileDone
  dsimp only
  split
  · split <;> exact (hturn.trans (hnote _ _)).trans (.setPhase _ c i _)
  · exact (hturn.trans (hnote _ _)).trans (.tileIn _ c i m _ _ _ _ _)

/-! ### Intervals commit and banks drain (R47, R91, R241) -/

theorem SamePlaces.trySliceEnd : SamePlaces s s.trySliceEnd := by
  have hend (d : CtxNo) (cut : Bool) : SamePlaces s (s.endSlice d cut) :=
    (SamePlaces.of_ctxs (s := s) (t := { s with lane := { s.lane with slice := none } }) rfl).trans (.modCtx _ d fun x => by split <;> rfl)
  unfold State.trySliceEnd
  split
  · exact .refl s
  · split
    · exact hend _ _
    · exact .refl s

theorem SamePlaces.countInterval (it : Interval) : SamePlaces s (s.countInterval it) := by
  unfold State.countInterval
  refine SamePlaces.trans ?_ (.modCtx _ it.ctx fun _ => rfl)
  exact .of_ctxs rfl

theorem SamePlaces.commitInterval (it : Interval) : SamePlaces s (s.commitInterval it) := by
  have hcount : SamePlaces s ((s.countInterval it).endOverrun it.ctx) :=
    (SamePlaces.countInterval s it).trans (.of_work (.endOverrun _ it.ctx))
  unfold State.commitInterval
  dsimp only
  split
  · exact hcount
  · split
    · split
      · refine (hcount.trans ?_).trans (.trySliceEnd _)
        split
        · exact .tileDone _ _ _ _ _ _
        · exact .setPhase _ _ _ _
      · exact hcount
    · exact hcount

theorem SamePlaces.drainGroup (g : Fin 16) : SamePlaces s (s.drainGroup g) := by
  unfold State.drainGroup
  split
  · exact .refl s
  next h b rest _ =>
    split
    · exact .refl s
    · dsimp only
      split
      · exact .of_ctxs rfl
      next it _ =>
        have hpromoted : SamePlaces s (s.promoteBank it g b rest) := .of_ctxs rfl
        change SamePlaces s (if (s.promoteBank it g b rest).lane.drained it then (s.promoteBank it g b rest).commitInterval it
          else s.promoteBank it g b rest)
        split
        · exact hpromoted.trans (.commitInterval _ it)
        · exact hpromoted

theorem SamePlaces.drainOwn (n : Nat) : SamePlaces s (State.drainOwn c n s) := by
  induction n generalizing s with
  | zero => exact .refl s
  | succ n ih =>
    have hnext : SamePlaces s s.drainNext := by
      unfold State.drainNext
      split
      · refine SamePlaces.trans ?_ (.drainGroup _ _)
        exact .of_ctxs rfl
      · exact .refl s
    rw [State.drainOwn]
    split
    · exact hnext.trans (ih _)
    · exact .refl s

/-! ### The units of a copy (R155, R166, R169) -/

variable (i : Nat) (m : Cmd) (src dst : Opnd) (perm : List Nat) (mode : CopyMode)

theorem SamePlaces.openSome (seq : Word) (use : ReqUse) (as bs : List Acc) : SamePlaces s (s.openSome c seq use as bs).2 := by
  unfold State.openSome
  dsimp only
  split
  · exact .of_work (.acquire s c _)
  · exact .of_work ((SameWork.acquire s c _).trans (.takeSlots _ c seq use bs))

theorem SamePlaces.putElems (bad : List (Nat × Nat)) (els : List (Nat → Nat)) (vals : List Nat) :
    SamePlaces s ((List.zip els vals).foldl (fun t x => t.putBits c bad dst x.1 x.2) s) :=
  .of_frame (ks := [.core, .remote]) (Fr.foldl (fun _ _ h => h.putBits c bad dst _ _ (by simp) (by simp)) _ (Fr.refl _ s)) (by simp)

theorem SamePlaces.copyBlock (els : List (Nat → Nat)) (u : Nat) : SamePlaces s (s.copyBlock c i m src perm els u).2 := by
  have hopen := SameWork.openAll s c m.seq [copyReads src perm els]
  unfold State.copyBlock
  dsimp only
  split
  · exact .of_work hopen
  · dsimp only
    refine SamePlaces.trans ?_ (.setPhase _ c i _)
    exact .of_work (hopen.trans (.closeUnit _ c m.seq _))

theorem SamePlaces.copySegment (byRows : Bool) (els : List (Nat → Nat)) (blockEnd more : Bool) (u : Nat) (blk : List Nat) :
    SamePlaces s (s.copySegment c i m src dst perm byRows els blockEnd more u blk).2 := by
  have hrelease (t : State) : SamePlaces t (t.copyRelease c m blockEnd) :=
    .of_frame (ks := [.staging, .dovetail]) (Fr.copyRelease (Fr.refl _ t) c m blockEnd (by simp) (by simp)) (by simp)
  unfold State.copySegment
  dsimp only
  generalize (if byRows then [copyReads src perm els] else []) ++ [copyWrites dst els] = as
  have hopen := SamePlaces.of_work (SameWork.openWrites s c m.seq as)
  split
  · exact hopen
  · have hstored (bad : List (Nat × Nat)) (vals : List Nat) :=
      (hopen.trans (.putElems _ c dst bad els vals)).trans (.of_work (.closeUnit _ c m.seq as))
    refine (SamePlaces.trans ?_ (.setPhase _ c i _)).trans (hrelease _)
    exact (hstored _ _).trans (.of_work (.streamCommit _ c _ more))

theorem SamePlaces.copyDirect (units : List (List (Nat → Nat) × Bool)) :
    SamePlaces s (State.copyDirect c i src dst perm mode units s).2 := by
  unfold State.copyDirect
  split
  · exact .refl s
  next m _ =>
    split
    next u _ blk _ =>
      split
      · exact .finish s c i _
      next els blockEnd _ =>
        dsimp only
        generalize (fun k => s.directEst c src perm ((units.getD (u + k) ([], false)).1)) = est
        have hgo := SamePlaces.of_work (SameWork.streamGo s c m.seq est (units.length - u))
        have hheld (t : State) : SamePlaces t (t.copyHolds c m mode src).2 :=
          .of_frame (ks := [.staging, .waits, .dovetail]) (Fr.copyHolds (Fr.refl _ t) c m mode src (by simp) (by simp) (by simp)) (by simp)
        have hbegun := (hgo.trans (hheld _)).trans (.of_work (.streamStart _ c))
        split
        · exact hgo
        · split
          · exact hgo.trans (hheld _)
          · split
            · exact hbegun.trans (.copyBlock _ c i m src perm _ u)
            · exact hbegun.trans (.copySegment _ c i m src dst perm _ els blockEnd _ u blk)
    · exact .refl s

theorem SamePlaces.copyRead (u : Nat) : SamePlaces s (s.copyRead c i m src dst perm mode u) := by
  unfold State.copyRead
  split
  · exact .finish s c i _
  next els _ =>
    dsimp only
    have hgo := SamePlaces.of_work (SameWork.streamGo s c m.seq (fun k => s.stagedEst c src dst perm mode (u + k)) (stagedUnits mode dst - u))
    have htake (t : State) (n : Nat) : SamePlaces t (t.takeStaging c m.seq 1 n (stagingUser c m.seq)).2 :=
      .of_frame (ks := [.staging, .waits]) (Fr.takeStaging (Fr.refl _ t) c m.seq 1 n _ (by simp) (by simp)) (by simp)
    have hstaged := hgo.trans (htake _ (copyGranules mode src))
    have hopen := (hstaged.trans (.of_work (.streamStart _ c))).trans
      (.openSome _ c m.seq .demand [copyReads src perm els, copyWrites dst els] [copyReads src perm els])
    have hcopied := hopen.trans (.of_work (.copiedFirst _ c m.seq [copyWrites dst els]))
    split
    · exact hgo
    · split
      · exact hstaged
      · split
        · exact hopen
        · split
          · exact hcopied
          · exact (hcopied.trans (.of_work ((SameWork.countOob _ c _).trans (.issue _ c m.seq .demand _)))).trans (.setPhase _ c i _)

theorem SamePlaces.copyWrite (u : Nat) (vals : List Nat) (parking : Bool) :
    SamePlaces s (s.copyWrite c i m src dst perm mode u vals parking) := by
  unfold State.copyWrite
  split
  · exact .finish s c i _
  next els _ =>
    dsimp only
    have hslots : SamePlaces s (if parking then (true, s) else s.takeSlots c m.seq .demand [copyWrites dst els]).2 := by
      split
      · exact .refl s
      · exact .of_work (.takeSlots s c m.seq .demand _)
    generalize (if parking then (true, s) else s.takeSlots c m.seq .demand [copyWrites dst els]) = o at hslots
    have hdrop (t : State) : SamePlaces t (t.dropStaging (stagingUser c m.seq)) := .of_ctxs rfl
    have hend (t : State) : SamePlaces t (if parking then t.endUnit c [copyWrites dst els] else t.closeUnit c m.seq [copyWrites dst els]) := by
      split
      · exact .of_work (.endUnit t c _)
      · exact .of_work (.closeUnit t c m.seq _)
    split
    · exact hslots
    · have hput (bad : List (Nat × Nat)) (n : Nat) := (hslots.trans (.putElems o.2 c dst bad els vals)).trans (.of_work (.countOob _ c n))
      have hdone (bad : List (Nat × Nat)) (n raw : Nat) (more : Bool) :=
        (((hput bad n).trans (hdrop _)).trans (hend _)).trans (.of_work (.streamCommit _ c raw more))
      split
      · exact ((hdone ..).trans (.setPhase _ c i _)).trans (.of_work (.unpin _ c))
      · exact (hdone ..).trans (.finish _ c i _)

theorem SamePlaces.copyStep (parking : Bool) : SamePlaces s (s.copyStep c i m parking) := by
  unfold State.copyStep
  split
  next src dst u vals blk _ _ =>
    dsimp only
    generalize m.perm src.desc.ndim = perm
    generalize copyMode src dst perm = mode
    split
    · exact .runRows s (fun t => .copyDirect t c i src dst _ _ _) _
    · exact .runRows s (fun t => .copyDirect t c i src dst _ _ _) _
    · exact .copyRead s c i m src dst _ _ u
    · exact .copyWrite s c i m src dst _ _ u vals parking
  · exact .refl s

/-! ### The units of a context end (R157) -/

theorem SamePlaces.endWrites : SamePlaces s (s.endWrites c) := by
  unfold State.endWrites
  generalize List.range (s.ctx c).cmds.length = l
  induction l generalizing s with
  | nil => exact .refl s
  | cons j l ih =>
    refine SamePlaces.trans ?_ (ih _)
    dsimp only
    split
    · split
      · exact .copyStep s c j _ true
      · exact .refl s
    · exact .refl s

/-- A context's units end, and every command stays at its place. -/
theorem SamePlaces.settleUnits : SamePlaces s (s.settleUnits c) := by
  have hslice : SamePlaces s (s.dropSlice c) :=
    .of_frame (ks := [.lane]) (Fr.dropSlice (Fr.refl _ s) c (by simp)) (by simp)
  have hholds (t : State) : SamePlaces t (t.dropHolds c) :=
    .of_frame (ks := [.staging, .walks, .sent, .waits, .dovetail, .ckpt])
      (Fr.dropHolds (Fr.refl _ t) c (by simp) (by simp) (by simp) (by simp) (by simp) (by simp)) (by simp)
  have hunits (t : State) : SamePlaces t (t.modCtx c (fun x =>
      { x with xlats := [], wantUnit := none, wantPage := none, stream := none, cmds := x.cmds.map Cmd.dropUnit })) :=
    .modCtx t c fun _ => List.length_map _
  exact ((((hslice.trans (.drainOwn _ c 64)).trans (.endWrites _ c)).trans (hholds _)).trans (hunits _)).trans (.of_work (.endOverrun _ c))

end

end Sys2Proof.Machine
end

section
/-! SUPPORT. BARRIER WAIT (R189, R190): a poll whose counter is translated reads its value, and the value decides the phase of the WAIT; its
timeout parks the context with the WAIT in force. -/

namespace Sys2Proof.Machine

/-! ### A value lies in one page -/

theorem mem_upFrom {lo n a : Nat} : a ∈ upFrom lo n ↔ lo ≤ a ∧ a < lo + n := by
  induction n generalizing lo with
  | zero => simp [upFrom]
  | succ n ih => simp only [upFrom, List.mem_cons, ih]; omega

theorem pageOf_of_mem_dword {va a : Nat} (halign : va % 8 = 0) (hmem : a ∈ upFrom va 8) : pageOf a = pageOf va := by
  obtain ⟨hlow, hhigh⟩ := mem_upFrom.1 hmem
  simp only [pageOf]
  omega

section
variable {s t : State} {c : CtxNo}

/-- Memories and translations alike give the same value. -/
theorem State.peekLe_congr {va n : Nat} (hcore : t.core = s.core) (hremote : t.remote = s.remote)
    (hxlat : ∀ a ∈ upFrom va n, t.xlat c (pageOf a) = s.xlat c (pageOf a)) : t.peekLe c va n = s.peekLe c va n := by
  refine congrArg ofLeBytes (List.map_congr_left fun a ha => ?_)
  simp only [State.peek, State.peekAt, hxlat a ha, hcore, hremote]

theorem State.findRegion_congr (h : t.regions = s.regions) (lo hi : Nat) (rd wr : Bool) :
    t.findRegion c lo hi rd wr = s.findRegion c lo hi rd wr := by
  have hfrom (i n : Nat) : t.findRegionFrom c lo hi rd wr i n = s.findRegionFrom c lo hi rd wr i n := by
    induction n generalizing i with
    | zero => rfl
    | succ n ih => rw [State.findRegionFrom, State.findRegionFrom, ih, State.regionOk, State.regionOk, h]
  exact hfrom 0 256

theorem State.xlat_setPhase (s : State) (c : CtxNo) (i : Nat) (p : Phase) (page : Nat) : (s.setPhase c i p).xlat c page = s.xlat c page := by
  have hxlats : ((s.setPhase c i p).ctx c).xlats = (s.ctx c).xlats := by
    rw [State.ctx_setPhase, if_pos rfl]
    split <;> rfl
  rw [State.xlat, hxlats, State.xlat, State.setPhase_tlb]

end

/-! ### A translated access is held (R156) -/

section
variable {s : State} {c : CtxNo} {n : FaultRec} {x : Xlat}

theorem State.acquire_of_needOk (h : s.needOk c n = true) : s.acquire c [n] = (true, s.pin c [n]) := by
  simp [State.acquire, h]

theorem xlatFind_append_of_not_any {l : List (Nat × Xlat)} {page : Nat} (h : ¬ l.any (fun q => q.1 == page) = true) (x : Xlat) :
    xlatFind (l ++ [(page, x)]) page = some x := by
  have hnone : l.find? (fun q => q.1 == page) = none := List.find?_eq_none.2 fun q hq heq => h (List.any_eq_true.2 ⟨q, hq, heq⟩)
  simp [xlatFind, hnone]

/-- A context keeps the translation that its unit found. -/
theorem State.xlat_pin (h : s.xlat c (pageOf n.vaddr) = some x) : (s.pin c [n]).xlat c (pageOf n.vaddr) = some x := by
  have hpinned : ((s.pin c [n]).ctx c).xlats = if (s.ctx c).xlats.any (fun q => q.1 == pageOf n.vaddr) then (s.ctx c).xlats
      else (s.ctx c).xlats ++ [(pageOf n.vaddr, x)] := by
    have hput (l : List (Nat × Xlat)) : ((s.modCtx c (fun y => { y with xlats := l })).ctx c).xlats = l := by rw [State.ctx_modCtx_same]
    refine (hput _).trans ?_
    simp [h]
  rw [State.xlat, hpinned]
  by_cases hany : (s.ctx c).xlats.any (fun q => q.1 == pageOf n.vaddr) = true
  · obtain ⟨q, hq⟩ := Option.isSome_iff_exists.1 (List.find?_isSome.2 (List.any_eq_true.1 hany))
    have hfound : xlatFind (s.ctx c).xlats (pageOf n.vaddr) = some q.2 := by rw [xlatFind, hq]; rfl
    rw [State.xlat, hfound] at h
    rw [if_pos hany, hfound]
    exact h
  · rw [if_neg hany, xlatFind_append_of_not_any hany]

end

/-! ### One poll (R189, R190) -/

/-- The phase of a WAIT whose poll finds `v` short of its TARGET. -/
def pollPhase (s : State) (v : BitVec 64) (seen : Option Nat) (n : Nat) (timed : Bool) : Phase :=
  .running (.waitCounter v (some (seen.getD s.now)) (if seen.isSome then n else 0) false timed)

/-- The state in which a poll has read the counter and given its translation up. -/
def State.polled (s : State) (c : CtxNo) (m : Cmd) : State := (s.pin c [m.counterNeed false]).unpin c

section
variable {s : State} {c : CtxNo} {i : Nat} {m : Cmd} {x : Xlat} {v : BitVec 64}

theorem SameWork.polled (s : State) (c : CtxNo) (m : Cmd) : SameWork s (s.polled c m) := (SameWork.pin s c _).trans (.unpin _ c)

theorem SameMem.polled (s : State) (c : CtxNo) (m : Cmd) : SameMem s (s.polled c m) := .of_eq rfl rfl

/-- A poll whose counter is translated and granted reads the counter, and its value decides. -/
theorem State.poll_reads (halign : m.counter % 8 = 0) (hxlat : s.xlat c (pageOf m.counter) = some x) (hread : x.read = true)
    (hregion : (s.findRegion c m.counter (m.counter + 7) true false).isSome = true)
    (hv : v = BitVec.ofNat 64 (s.peekLe c m.counter 8)) (seen : Option Nat) (n : Nat) (timed : Bool) :
    s.poll c i m seen n timed =
      if (v - m.pkt.extractLsb' 192 64).msb then (s.polled c m).setPhase c i (pollPhase s v seen n timed)
      else if (s.ctx c).state = .parked then (s.polled c m).setPhase c i (.running (.waitCounter v seen n true timed))
      else (s.polled c m).finish c i (counterReply v) := by
  have hneed : s.needOk c (m.counterNeed false) = true := by
    simp [State.needOk, Cmd.counterNeed, ringNeed, permOk, hxlat, hread]
  have hpinned : (s.pin c [m.counterNeed false]).peekLe c m.counter 8 = s.peekLe c m.counter 8 := by
    refine State.peekLe_congr rfl rfl fun a ha => ?_
    rw [pageOf_of_mem_dword halign ha, hxlat]
    exact State.xlat_pin (n := m.counterNeed false) hxlat
  unfold State.poll
  simp only [State.acquire_of_needOk hneed, hregion, hpinned, ← hv, reached, Bool.not_true, Bool.false_eq_true, if_false, if_true]
  cases (v - m.pkt.extractLsb' 192 64).msb <;> rfl

variable (halign : m.counter % 8 = 0) (hxlat : s.xlat c (pageOf m.counter) = some x) (hread : x.read = true)
  (hregion : (s.findRegion c m.counter (m.counter + 7) true false).isSome = true)
  (hv : v = BitVec.ofNat 64 (s.peekLe c m.counter 8)) {m1 : Cmd} (hcmd : (s.ctx c).cmds[i]? = some m1)
  (seen : Option Nat) (n : Nat) (timed : Bool)
include halign hxlat hread hregion hv hcmd

/-- A poll in a context that is not parked ends a WAIT that is satisfied. -/
theorem State.poll_settles (hgoing : (s.ctx c).state ≠ .parked) : SameMem s (s.poll c i m seen n timed)
    ∧ PhaseAt (s.poll c i m seen n timed) c i
      (if (v - m.pkt.extractLsb' 192 64).msb then pollPhase s v seen n timed else .finished (counterReply v)) := by
  have hpolled : ((s.polled c m).ctx c).cmds[i]? = some m1 := by rw [(SameWork.polled s c m).cmds, hcmd]
  have hmem := SameMem.polled s c m
  rw [State.poll_reads halign hxlat hread hregion hv]
  split
  · exact ⟨hmem.trans (.setPhase _ c i _), State.phase_setPhase _ hpolled _⟩
  · exact ⟨hmem.trans (.finish _ c i _), State.phase_finish _ hpolled _⟩

/-- A poll in a parked context notes that the WAIT is satisfied. -/
theorem State.poll_notes (hparked : (s.ctx c).state = .parked) : SameMem s (s.poll c i m seen n timed)
    ∧ ((s.poll c i m seen n timed).ctx c).state = .parked ∧ PhaseAt (s.poll c i m seen n timed) c i
      (if (v - m.pkt.extractLsb' 192 64).msb then pollPhase s v seen n timed else .running (.waitCounter v seen n true timed)) := by
  have hpolled : ((s.polled c m).ctx c).cmds[i]? = some m1 := by rw [(SameWork.polled s c m).cmds, hcmd]
  have hput (p : Phase) : SameMem s ((s.polled c m).setPhase c i p) ∧ (((s.polled c m).setPhase c i p).ctx c).state = .parked
      ∧ PhaseAt ((s.polled c m).setPhase c i p) c i p := by
    have hstanding := (OnlyCmd.setPhase (s.polled c m) c i p).standing.trans ((SameWork.polled s c m).go.standing c)
    exact ⟨(SameMem.polled s c m).trans (.setPhase _ c i _), (congrArg Prod.fst hstanding).trans hparked,
      State.phase_setPhase _ hpolled p⟩
  rw [State.poll_reads halign hxlat hread hregion hv]
  split
  · exact hput _
  · exact hput _

end

/-! ### The commands of a WAIT -/

section
variable {s : State} {c : CtxNo} {i : Nat} {m : Cmd} {v : BitVec 64} {seen : Option Nat} {n : Nat} {ok timed : Bool}

theorem State.active_of_starting {op : Nat} (h : s.starting c op = some (i, m)) : s.active c = true := by
  unfold State.starting at h
  split at h
  next hactive => exact hactive
  next => exact absurd h (by simp)

theorem State.running_of_active (h : s.active c = true) : (s.ctx c).state = .running := by
  have halert := State.alert_of_active h
  simp only [State.alert, Bool.and_eq_true, beq_iff_eq] at halert
  obtain ⟨⟨⟨-, hrunning⟩, -⟩, -⟩ := halert
  exact hrunning

theorem State.up_of_active (h : s.active c = true) : s.up = true := by
  have halert := State.alert_of_active h
  simp only [State.alert, Bool.and_eq_true] at halert
  obtain ⟨⟨⟨hup, -⟩, -⟩, -⟩ := halert
  exact hup

/-- A WAIT in progress: it is polled from the state it is read in. -/
def State.waitBegun (s : State) (c : CtxNo) (i : Nat) : State := s.setPhase c i (.running (.waitCounter 0 none 0 false false))

theorem exec_barrierWait (hstart : s.starting c 0x2B = some (i, m)) (hwait : m.bit 12 = true) (hgood : s.barrierBad c m = none)
    (hfree : s.readFree c i m.counter 8 = true) : exec (.barrierWait c) s = .next ((s.waitBegun c i).poll c i m none 0 false) := by
  refine congrArg Host.Outcome.next (?_ : s.startWait c = _)
  unfold State.startWait
  simp only [hstart, hwait, hgood, hfree, Bool.not_true, Bool.false_eq_true, if_false]
  rfl

theorem exec_barrierPoll (hup : s.up = true) (hreset : (s.ctx c).resetting = false) (hfault : (s.ctx c).fault = none)
    (hwaiting : (s.ctx c).waiting = some (i, m, v, seen, n, ok, timed)) : exec (.barrierPoll c) s =
      .next (if (s.ctx c).state == .running || ((s.ctx c).waitPark && !ok) then s.poll c i m seen n timed else s) := by
  refine congrArg Host.Outcome.next ?_
  simp only [hup, hreset, hfault, hwaiting, Option.isSome_none, Bool.not_true, Bool.or_self, Bool.false_eq_true, if_false]

/-! ### The timeout (R190) -/

/-- The state in which a context whose units have ended parks with the WAIT at place `i` in force, its record still to come. -/
def State.waitParked (s : State) (c : CtxNo) (i : Nat) (v : BitVec 64) (seen : Option Nat) (n : Nat) : State :=
  (s.setPhase c i (.running (.waitCounter v seen n false true))).modCtx c (fun y => { y with state := .parked, parkCause := 1 })

/-- The context parks so, and has a record of it as it is counted. -/
def State.waitTimeout (s : State) (c : CtxNo) (i : Nat) (m : Cmd) (v : BitVec 64) (seen : Option Nat) (n : Nat) : State :=
  (s.waitParked c i v seen n).event c 0x02 (timeoutPayload v (seq16 m.seq))

theorem exec_barrierTimeout_due (hactive : s.active c = true) (hwaiting : (s.ctx c).waiting = some (i, m, v, seen, n, ok, timed))
    (hdue : m.f 176 16 ≠ 0 ∧ m.f 176 16 ≤ n) : exec (.barrierTimeout c) s =
      .next ((s.settleUnits c).waitTimeout c i m v seen n) := by
  refine congrArg Host.Outcome.next ?_
  simp only [hactive, hwaiting, hdue, Bool.not_true, Bool.false_eq_true, if_false, ne_eq, not_false_eq_true, and_self, if_true]
  rfl

theorem exec_barrierTimeout_early (hactive : s.active c = true) (hwaiting : (s.ctx c).waiting = some (i, m, v, seen, n, ok, timed))
    (hearly : ¬ (m.f 176 16 ≠ 0 ∧ m.f 176 16 ≤ n)) : exec (.barrierTimeout c) s = .next s := by
  refine congrArg Host.Outcome.next ?_
  simp only [hactive, hwaiting, Bool.not_true, Bool.false_eq_true, if_false]
  exact if_neg hearly

/-- The context is parked with PARK_CAUSE 1, its WAIT in force, and counts one event. -/
theorem State.ctx_waitTimeout (hstep : s.eng.step = 7) {m1 : Cmd} (hcmd : (s.ctx c).cmds[i]? = some m1) :
    ((s.waitTimeout c i m v seen n).ctx c).state = .parked ∧ ((s.waitTimeout c i m v seen n).ctx c).parkCause = 1
      ∧ PhaseAt (s.waitTimeout c i m v seen n) c i (.running (.waitCounter v seen n false true))
      ∧ ((s.waitTimeout c i m v seen n).ctx c).eventSeq = (s.ctx c).eventSeq + 1 := by
  let p := s.setPhase c i (.running (.waitCounter v seen n false true))
  let u := s.waitParked c i v seen n
  have hctx : u.ctx c = { p.ctx c with state := .parked, parkCause := 1 } := State.ctx_modCtx_same p c _
  have hmute : u.mute c = false := by
    have heng : u.eng = s.eng := rfl
    rw [State.mute, State.isFatal, heng, hstep, hctx]
    rfl
  have hrecord := SameTally.event u c hmute 0x02 (timeoutPayload v (seq16 m.seq))
  have hwork := SameWork.event u c 0x02 (timeoutPayload v (seq16 m.seq))
  have hcmds : (u.ctx c).cmds = (p.ctx c).cmds := by rw [hctx]
  have hphase : PhaseAt u c i (.running (.waitCounter v seen n false true)) := (phaseAt_congr hcmds).2 (State.phase_setPhase s hcmd _)
  unfold State.waitTimeout
  refine ⟨?_, ?_, (phaseAt_congr (hwork.cmds c)).2 hphase, ?_⟩
  · exact (congrArg Prod.fst (hwork.go.standing c)).trans (congrArg Context.state hctx)
  · rw [hrecord.cause, State.countEvent, State.ctx_modCtx_same, hctx]
  · rw [State.eventSeq_event hmute, hctx]
    exact congrArg (fun w => w + 1) (SameTally.setPhase s c i _).seq

end

/-! ### The obligation -/

/-- Settles O32: each poll is `poll_settles` or, in a parked context, `poll_notes`; the timeout parks the context once its units have ended
(`ctx_waitTimeout`), which leaves the WAIT at its place (`SamePlaces.settleUnits`). -/
theorem waitPollsUntilReached : Obligations.WaitPollsUntilReached := by
  unfold Obligations.WaitPollsUntilReached
  intro s c i m x hcmd halign hxlat hread hregion v target
  refine ⟨?start, ?poll, ?parked, ?timeout⟩
  case start =>
    intro hstart hwait hgood hfree
    let u := s.waitBegun c i
    have hx (page : Nat) : u.xlat c page = s.xlat c page := s.xlat_setPhase c i _ page
    have hpeek : u.peekLe c m.counter 8 = s.peekLe c m.counter 8 := State.peekLe_congr rfl rfl fun a _ => hx (pageOf a)
    have hgoing : (u.ctx c).state = .running :=
      (congrArg Prod.fst (OnlyCmd.setPhase s c i _).standing).trans (State.running_of_active (State.active_of_starting hstart))
    have hgranted : (u.findRegion c m.counter (m.counter + 7) true false).isSome = true := by
      rw [State.findRegion_congr (t := u) (s := s) rfl]
      exact hregion
    obtain ⟨hmem, hphase⟩ := State.poll_settles (s := u) (v := v) halign ((hx _).trans hxlat) hread hgranted
      (by rw [hpeek]) (s.cmds_setPhase_same hcmd _) none 0 false (by rw [hgoing]; simp)
    exact ⟨_, exec_barrierWait hstart hwait hgood hfree, (SameMem.setPhase s c i _).trans hmem, hphase⟩
  case poll =>
    intro v0 seen n ok timed hwaiting hup hreset hfault hrunning
    have hgoes : ((s.ctx c).state == .running || ((s.ctx c).waitPark && !ok)) = true := by rw [hrunning]; rfl
    exact ⟨_, (exec_barrierPoll hup hreset hfault hwaiting).trans (congrArg _ (if_pos hgoes)),
      State.poll_settles (v := v) halign hxlat hread hregion rfl hcmd seen n timed (by rw [hrunning]; simp)⟩
  case parked =>
    intro v0 seen n ok timed hwaiting hup hreset hfault hpark
    have hparked : (s.ctx c).state = .parked := by
      obtain ⟨hstate, -⟩ := Bool.and_eq_true_iff.1 hpark
      exact beq_iff_eq.1 hstate
    have hgoes : ((s.ctx c).state == .running || ((s.ctx c).waitPark && !ok)) = !ok := by rw [hparked, hpark]; rfl
    have hpoll := exec_barrierPoll hup hreset hfault hwaiting
    rw [hgoes] at hpoll
    refine ⟨fun hok => ?_, fun hok => ?_⟩
    · rw [hok] at hpoll
      exact ⟨_, hpoll, State.poll_notes (v := v) halign hxlat hread hregion rfl hcmd seen n timed hparked⟩
    · rw [hok] at hpoll
      exact hpoll
  case timeout =>
    intro v0 seen n ok timed hwaiting hactive
    refine ⟨fun hdue => ?_, fun hearly => exec_barrierTimeout_early hactive hwaiting hearly⟩
    have hstep : (s.settleUnits c).eng.step = 7 := by
      rw [(Fr.settles s c).same .eng (by decide)]
      exact State.step_of_up (State.up_of_active hactive)
    obtain ⟨m1, hplace⟩ := (SamePlaces.settleUnits s c).cmd hcmd
    obtain ⟨hstate, hcause, hphase, hseq⟩ := State.ctx_waitTimeout (m := m) (v := v0) (seen := seen) (n := n) hstep hplace
    exact ⟨_, exec_barrierTimeout_due hactive hwaiting hdue, hstate, hcause, hphase,
      fun hbank => by rw [hseq, (SameTally.settleUnits hbank).seq]⟩

end Sys2Proof.Machine
end

section
/-! SUPPORT. Doorbells, completion heads, CTX_CFG and ENABLE (R195, R202, R366, R367): what each does to its context. -/

namespace Sys2Proof.Machine

section
variable {s : State} {c : CtxNo} {v : Word}

/-! ### Doorbells (R195, R366) -/

/-- A doorbell of a context that runs or is parked is checked against the ring. -/
theorem exec_doorbell (hw : s.windowOpen = true) (hr : (s.ctx c).resetting = false)
    (hstate : (s.ctx c).state = .running ∨ (s.ctx c).state = .parked) : exec (.doorbell c v) s = .next (s.ring c v) := by
  change Host.Outcome.next (s.writeTail c v) = _
  rcases hstate with h | h <;> simp [State.writeTail, hw, hr, h]

theorem State.ring_accepts (h : dist32 v (s.ctx c).cmdHead ≤ (s.ctx c).cmdDepth ∧ dist32 v (s.ctx c).cmdTail ≤ (s.ctx c).cmdDepth) :
    s.ring c v = s.modCtx c (fun y => { y with cmdTail := v }) :=
  if_neg (by omega)

/-- A bad doorbell sets DOORBELL_ERR and leaves an entry in the error log. -/
theorem State.ring_refuses (h : (s.ctx c).cmdDepth < dist32 v (s.ctx c).cmdHead ∨ (s.ctx c).cmdDepth < dist32 v (s.ctx c).cmdTail)
    (hstop : s.eng.doorbellStop = false) :
    s.ring c v = (s.modCtx c (fun y => { y with doorbellErr := true })).logErr 0x09 2 0x8 (some c) (v.setWidth 64) 1 :=
  (if_pos h).trans (if_neg (by simp [hstop]))

/-! ### CPL_HEAD (R366) -/

/-- What a context that is not STOPPED does with a write to CPL_HEAD. -/
def Context.takeHead (v : Word) (x : Context) : Context :=
  if x.state = .disabled ∨ dist32 x.cplTail v ≤ dist32 x.cplTail x.cplHead then { x with cplHead := v } else { x with headErr := true }

theorem exec_cplHead (hw : s.windowOpen = true) (hr : (s.ctx c).resetting = false) (hstate : (s.ctx c).state ≠ .stopped) :
    exec (.cplHead c v) s = .next (s.modCtx c (Context.takeHead v)) := by
  change Host.Outcome.next (s.writeHead c v) = _
  cases h : (s.ctx c).state with
  | disabled => simp [State.writeHead, State.modCtx, Context.takeHead, hw, hr, h]
  | stopped => exact absurd h hstate
  | running | parked =>
    by_cases hroom : dist32 (s.ctx c).cplTail v ≤ dist32 (s.ctx c).cplTail (s.ctx c).cplHead <;>
      simp [State.writeHead, State.modCtx, Context.takeHead, hw, hr, h, hroom, -Nat.not_le]

/-! ### ENABLE (R367) -/

/-- What a context does with an ENABLE. -/
def Context.takeEnable (x : Context) : Context :=
  if x.state ≠ .disabled then { x with ctrlIgn := true }
  else if x.enableOk then { x with state := .running } else { x with cfgErr := true }

theorem exec_enable (hw : s.windowOpen = true) (hr : (s.ctx c).resetting = false) :
    exec (.enable c) s = .next (s.modCtx c Context.takeEnable) := by
  change Host.Outcome.next (s.control c _ _) = _
  by_cases h : (s.ctx c).state = .disabled <;>
    simp [State.control, State.ignored, State.modCtx, Context.takeEnable, hw, hr, h]

theorem Context.enableOk_iff (x : Context) : x.enableOk = true ↔
    x.cmdBase.toNat % (64 * x.cmdDepth) = 0 ∧ x.cplBase.toNat % (32 * x.cplDepth) = 0 ∧ x.cplHead = x.cplTail
      ∧ dist32 x.cmdTail x.cmdHead ≤ x.cmdDepth := by
  simp [Context.enableOk, and_assoc]

end

/-! ### The obligation -/

/-- Settles O5: each command changes its context alone, a refused doorbell the error log as well. -/
theorem doorbellHeadAndEnable : Obligations.DoorbellHeadAndEnable := by
  unfold Obligations.DoorbellHeadAndEnable
  refine ⟨fun s c v hw hr hstate => ⟨fun hgood => ?accepted, fun hbad hstop => ?refused⟩, fun s c v hw hr hstate => ?head,
    fun s c v hw hr => ⟨?cfg, ?enable⟩⟩
  case accepted =>
    exact ⟨_, (exec_doorbell hw hr hstate).trans (congrArg _ (State.ring_accepts hgood)), OnlyCtx.modCtx s c _,
      State.ctx_modCtx_same s c _⟩
  case refused =>
    refine ⟨_, (exec_doorbell hw hr hstate).trans (congrArg _ (State.ring_refuses hbad hstop)), ?_, fun d hd => ?_, ?_,
      .of_eq (by simp) (by simp)⟩
    · simp only [State.ctx, State.logErr_ctxs]
      exact State.ctx_modCtx_same s c _
    · simp only [State.ctx, State.logErr_ctxs]
      exact State.ctx_modCtx_other s hd _
    · rw [State.logErr_plain _ _ _ _ _ _ (by decide)]
      exact State.logNext_summary _ _ _ _ _ _ _
  case head => exact ⟨_, exec_cplHead hw hr hstate, OnlyCtx.modCtx s c _, State.ctx_modCtx_same s c _⟩
  case cfg => exact exec_writeCfg_spec (f := fun x => { x with cfg := v &&& 0xFFFF#32 }) hw hr rfl
  case enable =>
    refine ⟨_, exec_enable hw hr, OnlyCtx.modCtx s c _, (State.ctx_modCtx_same s c _).trans ?_⟩
    simp only [Context.takeEnable, Context.enableOk_iff]

end Sys2Proof.Machine
end

section
/-! SUPPORT. The rings of a context (R194 to R200): using a ring's page keeps what is translated, the 32 bytes of a completion entry and no
other byte are written, and what an admitted command is. -/

namespace Sys2Proof.Machine

/-! ### A ring's page is used (R152) -/

theorem tlbFind_tlbFill_same (l : List TlbEntry) (page : Nat) (x : Xlat) : tlbFind (tlbFill l page x) page = some x := by
  simp [tlbFind, tlbFill]

/-- Using a translation of a TLB that is not over its size drops none. -/
theorem tlbFind_tlbFill {l : List TlbEntry} {page : Nat} {x : Xlat} (hfound : tlbFind l page = some x) (hsize : l.length ≤ 256) (q : Nat) :
    tlbFind (tlbFill l page x) q = tlbFind l q := by
  obtain ⟨e, hfind, rfl⟩ := Option.map_eq_some_iff.1 hfound
  have hshorter : (l.filter (fun e => e.page != page)).length < l.length :=
    List.length_filter_lt_length_iff_exists.2 ⟨e, List.mem_of_find?_eq_some hfind, by simpa using List.find?_some hfind⟩
  have hkept : tlbFill l page e.xlat = ⟨page, e.xlat, tlbPlace l page⟩ :: l.filter (fun e => e.page != page) :=
    List.take_of_length_le (by simp only [List.length_cons]; omega)
  rw [hkept, tlbFind]
  by_cases hq : q = page
  · subst hq
    simpa using hfound.symm
  · have hother : (fun a : TlbEntry => decide ((a.page != page) = true ∧ (a.page == q) = true)) = fun a => a.page == q := by
      funext a
      by_cases ha : a.page = q <;> simp [ha, hq]
    rw [List.find?_cons_of_neg (by simpa using fun h => hq h.symm), List.find?_filter, hother, tlbFind]

section
variable {s : State} {c : CtxNo}

theorem State.xlat_touchTlb_same (s : State) (c : CtxNo) (page : Nat) : (s.touchTlb page).xlat c page = s.xlat c page := by
  have htlb : tlbFind (s.touchTlb page).tlb page = tlbFind s.tlb page := by
    unfold State.touchTlb
    cases h : tlbFind s.tlb page with
    | none => simp [h]
    | some x => exact tlbFind_tlbFill_same _ _ x
  simp only [State.xlat, State.ctx_touchTlb, htlb]

theorem State.xlat_touchTlb (hsize : s.tlb.length ≤ 256) (page q : Nat) : (s.touchTlb page).xlat c q = s.xlat c q := by
  have htlb : tlbFind (s.touchTlb page).tlb q = tlbFind s.tlb q := by
    unfold State.touchTlb
    cases h : tlbFind s.tlb page with
    | none => rfl
    | some x => exact tlbFind_tlbFill h hsize q
  simp only [State.xlat, State.ctx_touchTlb, htlb]

/-- A ring's page that is translated with permission is used. -/
theorem State.ringReady_of_needOk {va : Nat} {write : Bool} (h : s.needOk c (ringNeed va write) = true) :
    s.ringReady c va write = (true, s.touchTlb (pageOf va)) := if_pos h

theorem State.needOk_ring {va : Nat} {x : Xlat} (hx : s.xlat c (pageOf va) = some x) (hwrite : x.write = true) :
    s.needOk c (ringNeed va true) = true := by
  simp [State.needOk, ringNeed, hx, permOk, hwrite]

/-! ### Bytes of one page are stored -/

theorem State.peekAt_pokeAt (hwf : s.memWf = true) (p q : Bool × Nat) (b : Byte) :
    (s.pokeAt p b).peekAt q = if q = p then b else s.peekAt q := by
  obtain ⟨hcore, hremote⟩ := Bool.and_eq_true_iff.1 hwf
  obtain ⟨far, a⟩ := p
  obtain ⟨far', a'⟩ := q
  cases far <;> cases far' <;>
    simp [State.pokeAt, State.peekAt, Memory.read_write _ _ _ hcore, Memory.read_write _ _ _ hremote]

theorem State.memWf_pokeAt (hwf : s.memWf = true) (p : Bool × Nat) (b : Byte) : (s.pokeAt p b).memWf = true := by
  obtain ⟨hcore, hremote⟩ := Bool.and_eq_true_iff.1 hwf
  unfold State.pokeAt
  split
  · exact Bool.and_eq_true_iff.2 ⟨Memory.wf_write _ _ hcore, hremote⟩
  · exact Bool.and_eq_true_iff.2 ⟨hcore, Memory.wf_write _ _ hremote⟩

theorem State.poke_of_xlat {va : Nat} {x : Xlat} (hx : s.xlat c (pageOf va) = some x) (b : Byte) :
    s.poke c va b = s.pokeAt (physOf x va) b := by
  rw [State.poke, hx]

theorem State.xlat_pokeAt (s : State) (c : CtxNo) (p : Bool × Nat) (b : Byte) (page : Nat) : (s.pokeAt p b).xlat c page = s.xlat c page := by
  simp only [State.xlat, State.ctx, State.pokeAt_ctxs, State.pokeAt_tlb]

/-- Two addresses of a page lie at different places. -/
theorem physOf_inj {x : Xlat} {a b : Nat} (hpage : pageOf a = pageOf b) (h : physOf x a = physOf x b) : a = b := by
  have hlow : a % 65536 = b % 65536 := by
    unfold physOf at h
    split at h <;> simpa using h
  simp only [pageOf] at hpage
  omega

/-- Bytes stored where one translation holds leave every other byte alone. -/
theorem State.peekAt_pokeN_other {x : Xlat} (l : List Byte) {s : State} (hwf : s.memWf = true) {va : Nat}
    (hx : ∀ a ∈ upFrom va l.length, s.xlat c (pageOf a) = some x) {p : Bool × Nat} (hp : ∀ a ∈ upFrom va l.length, p ≠ physOf x a) :
    (s.pokeN c va l).peekAt p = s.peekAt p := by
  induction l generalizing s va with
  | nil => rfl
  | cons b l ih =>
    simp only [List.length_cons, upFrom, List.forall_mem_cons] at hx hp
    obtain ⟨hfirst, hrest⟩ := hx
    rw [State.pokeN, State.poke_of_xlat hfirst,
      ih (State.memWf_pokeAt hwf _ b) (fun a ha => (State.xlat_pokeAt ..).trans (hrest a ha)) hp.2, State.peekAt_pokeAt hwf, if_neg hp.1]

/-- Bytes stored within one page are there. -/
theorem State.peekAt_pokeN {x : Xlat} (l : List Byte) {s : State} (hwf : s.memWf = true) {va : Nat}
    (hx : ∀ a ∈ upFrom va l.length, s.xlat c (pageOf a) = some x) (hpage : ∀ a ∈ upFrom va l.length, pageOf a = pageOf va) :
    (upFrom va l.length).map (fun a => (s.pokeN c va l).peekAt (physOf x a)) = l := by
  induction l generalizing s va with
  | nil => rfl
  | cons b l ih =>
    simp only [List.length_cons, upFrom, List.forall_mem_cons] at hx hpage
    obtain ⟨hfirst, hrest⟩ := hx
    have hrest' : ∀ a ∈ upFrom (va + 1) l.length, (s.pokeAt (physOf x va) b).xlat c (pageOf a) = some x :=
      fun a ha => (State.xlat_pokeAt ..).trans (hrest a ha)
    have hwf' := State.memWf_pokeAt hwf (physOf x va) b
    have hpage' : ∀ a ∈ upFrom (va + 1) l.length, pageOf a = pageOf (va + 1) := by
      intro a ha
      have hsame := hpage.2 a ha
      obtain ⟨hlow, -⟩ := mem_upFrom.1 ha
      simp only [pageOf] at hsame ⊢
      omega
    have hkept : ∀ a ∈ upFrom (va + 1) l.length, physOf x va ≠ physOf x a := by
      intro a ha h
      have := physOf_inj (hpage.2 a ha).symm h
      obtain ⟨hlow, -⟩ := mem_upFrom.1 ha
      omega
    rw [State.pokeN, State.poke_of_xlat hfirst, List.length_cons, upFrom, List.map_cons, ih hwf' hrest' hpage',
      State.peekAt_pokeN_other l hwf' hrest' hkept, State.peekAt_pokeAt hwf, if_pos rfl]

end

/-! ### A completion entry is posted (R198) -/

theorem length_leBytes (n v : Nat) : (leBytes n v).length = n := by
  induction n generalizing v with
  | zero => rfl
  | succ n ih => simp [leBytes, ih]

/-- An aligned completion entry lies in one page. -/
theorem Context.pageOf_of_mem_entry {x : Context} (halign : x.cplBase.toNat % 32 = 0) {a : Nat} (h : a ∈ upFrom x.cplAddr 32) :
    pageOf a = pageOf x.cplAddr := by
  obtain ⟨hlow, hhigh⟩ := mem_upFrom.1 h
  have hentry : x.cplAddr % 32 = 0 := by
    unfold Context.cplAddr
    omega
  simp only [pageOf]
  omega

/-- Entry `e` stands in `t` at the CPL_TAIL that context `c` has in `s`, with its PHASE, where `x` translates its page; no other byte and
no other context differs. -/
structure Posted (c : CtxNo) (x : Xlat) (e : BitVec 256) (s t : State) : Prop where
  bytes : (upFrom (s.ctx c).cplAddr 32).map (fun a => t.peekAt (physOf x a))
    = leBytes 32 (setFld e 8 1 (phaseBit (s.ctx c).cplTail (s.ctx c).cplDepth)).toNat
  others : ∀ p, (∀ a ∈ upFrom (s.ctx c).cplAddr 32, p ≠ physOf x a) → t.peekAt p = s.peekAt p
  tail : (t.ctx c).cplTail = (s.ctx c).cplTail + 1
  frame : ∀ d, d ≠ c → t.ctx d = s.ctx d

section
variable {s t u : State} {c : CtxNo} {x : Xlat} {e : BitVec 256}

theorem Posted.postEntry (hwf : s.memWf = true) (halign : (s.ctx c).cplBase.toNat % 32 = 0)
    (hx : s.xlat c (pageOf (s.ctx c).cplAddr) = some x) : Posted c x e s (s.postEntry c e) := by
  have hpage : ∀ a ∈ upFrom (s.ctx c).cplAddr 32, pageOf a = pageOf (s.ctx c).cplAddr := fun a ha => Context.pageOf_of_mem_entry halign ha
  have hxlat : ∀ a ∈ upFrom (s.ctx c).cplAddr 32, s.xlat c (pageOf a) = some x := fun a ha => by rw [hpage a ha, hx]
  have hctx (d : CtxNo) (va : Nat) (l : List Byte) : (s.pokeN c va l).ctx d = s.ctx d := by simp only [State.ctx, State.pokeN_ctxs]
  have hmem (p : Bool × Nat) : (s.postEntry c e).peekAt p = (s.pokeN c (s.ctx c).cplAddr
      (leBytes 32 (setFld e 8 1 (phaseBit (s.ctx c).cplTail (s.ctx c).cplDepth)).toNat)).peekAt p := by
    simp only [State.postEntry, State.peekAt, State.modCtx_core, State.modCtx_remote]
  have hlen := length_leBytes 32 (setFld e 8 1 (phaseBit (s.ctx c).cplTail (s.ctx c).cplDepth)).toNat
  refine ⟨?bytes, ?others, ?tail, ?frame⟩
  case tail => rw [State.postEntry, State.ctx_modCtx_same, hctx]
  case frame =>
    intro d hd
    rw [State.postEntry, State.ctx_modCtx_other _ hd, hctx]
  all_goals
    simp only [hmem]
    generalize leBytes 32 _ = l at hlen ⊢
    rw [← hlen] at hpage hxlat ⊢
  case bytes => exact State.peekAt_pokeN l hwf hxlat hpage
  case others => exact fun p hp => State.peekAt_pokeN_other l hwf hxlat hp

/-- What an entry is posted from: its page is used, and changes of the context that its place does not depend on. -/
theorem Posted.of_before (h : Posted c x e u t) (haddr : (u.ctx c).cplAddr = (s.ctx c).cplAddr) (htail : (u.ctx c).cplTail = (s.ctx c).cplTail)
    (hdepth : (u.ctx c).cplDepth = (s.ctx c).cplDepth) (hmem : ∀ p, u.peekAt p = s.peekAt p) (hframe : ∀ d, d ≠ c → u.ctx d = s.ctx d) :
    Posted c x e s t where
  bytes := by rw [← haddr, ← htail, ← hdepth]; exact h.bytes
  others p hp := (h.others p (haddr ▸ hp)).trans (hmem p)
  tail := by rw [h.tail, htail]
  frame d hd := (h.frame d hd).trans (hframe d hd)

/-- The context is changed behind a posted entry, but for CPL_TAIL. -/
theorem Posted.modCtx (h : Posted c x e s t) {f : Context → Context} (hf : ∀ y, (f y).cplTail = y.cplTail) : Posted c x e s (t.modCtx c f) where
  bytes := h.bytes
  others := h.others
  tail := by rw [State.ctx_modCtx_same, hf, h.tail]
  frame d hd := (State.ctx_modCtx_other t hd f).trans (h.frame d hd)

theorem Posted.pulse (h : Posted c x e s t) (line : Nat) : Posted c x e s (t.pulse line) := ⟨h.bytes, h.others, h.tail, h.frame⟩

/-- An entry is posted where the ring's page is translated: the page counts as used. -/
theorem Posted.postEntry_touchTlb (hwf : s.memWf = true) (halign : (s.ctx c).cplBase.toNat % 32 = 0)
    (hx : s.xlat c (pageOf (s.ctx c).cplAddr) = some x) : Posted c x e s ((s.touchTlb (pageOf (s.ctx c).cplAddr)).postEntry c e) :=
  (Posted.postEntry (s := s.touchTlb _) hwf halign ((State.xlat_touchTlb_same ..).trans hx)).of_before rfl rfl rfl (fun _ => rfl)
    fun _ _ => rfl

end

/-! ### Status replies (R198) -/

/-- The state once the reply of the first command has been posted and the command is gone, but for the event line. -/
def State.replied (s : State) (c : CtxNo) (m : Cmd) (r : Reply) (rest : List Cmd) : State :=
  ((s.touchTlb (pageOf (s.ctx c).cplAddr)).postEntry c (replyBits c m r)).modCtx c (fun y => { y with cmds := rest })

theorem State.ctx_pulse (s : State) (line : Nat) (d : CtxNo) : (s.pulse line).ctx d = s.ctx d := rfl

section
variable {s : State} {c : CtxNo} {m : Cmd} {rest : List Cmd} {r : Reply} {x : Xlat}

theorem exec_statusReply_parked (hposting : s.posting c = true) (hparked : (s.ctx c).state = .parked) :
    exec (.statusReply c) s = .next s :=
  congrArg Host.Outcome.next (if_pos (by simp [hposting, hparked]))

section
variable (hposting : s.posting c = true) (hgoing : (s.ctx c).state ≠ .parked) (hcmds : (s.ctx c).cmds = m :: rest)
  (hdone : m.phase = .finished r) (hacked : s.acked c m.seq = true)
include hposting hgoing hcmds hdone hacked

theorem exec_statusReply_quiet (hquiet : m.bit 9 = true) (hok : r.status = 0) :
    exec (.statusReply c) s = .next (s.modCtx c (fun y => { y with cmds := rest })) := by
  change Host.Outcome.next (s.postReply c) = _
  simp [State.postReply, hposting, hgoing, hcmds, hdone, hacked, hquiet, hok]

theorem exec_statusReply_posts (hwf : s.memWf = true) (halign : (s.ctx c).cplBase.toNat % 32 = 0)
    (hloud : m.bit 9 = false ∨ r.status ≠ 0) (hx : s.xlat c (pageOf (s.ctx c).cplAddr) = some x) (hwrite : x.write = true) :
    ∃ t, exec (.statusReply c) s = .next t ∧ Posted c x (replyBits c m r) s t ∧ (t.ctx c).cmds = rest := by
  have hsaid : (m.bit 9 && r.status == 0) = false := by
    rcases hloud with h | h
    · rw [h, Bool.false_and]
    · rw [beq_eq_false_iff_ne.2 h, Bool.and_false]
  have hready := State.ringReady_of_needOk (State.needOk_ring hx hwrite)
  have hposted : Posted c x (replyBits c m r) s (s.replied c m r rest) := (Posted.postEntry_touchTlb hwf halign hx).modCtx fun _ => rfl
  have hrest : ((s.replied c m r rest).ctx c).cmds = rest := by rw [State.replied, State.ctx_modCtx_same]
  have hreply : s.postReply c = if m.bit 8 || bitAt (s.ctx c).cfg 12
      then (s.replied c m r rest).pulse (fld (s.ctx c).cfg 10 2) else s.replied c m r rest := by
    simp only [State.postReply, hposting, beq_eq_false_iff_ne.2 hgoing, hcmds, hdone, hacked, hsaid, hready, Bool.not_true, Bool.or_self,
      Bool.false_eq_true, if_false, State.replied]
  refine ⟨_, congrArg Host.Outcome.next hreply, ?_⟩
  split
  · exact ⟨hposted.pulse _, by rw [State.ctx_pulse, hrest]⟩
  · exact ⟨hposted, hrest⟩

end

/-! ### Event records (R200) -/

theorem exec_eventRecord_waits {e : EventRec} {rest : List EventRec} (hposting : s.posting c = true) (hheld : (s.ctx c).held = e :: rest)
    (hroom : e.room = none) (hfull : (s.ctx c).evtFree ≤ (s.ctx c).cmds.length) : exec (.eventRecord c) s = .next s := by
  change Host.Outcome.next (s.postHeld c) = _
  simp [State.postHeld, hposting, hheld, hroom, hfull]

/-- The state once a record has been posted with the lost count, but for the event line. -/
def State.recorded (s : State) (c : CtxNo) (e : EventRec) : State :=
  (s.postEntry c (eventBits c e (e.room.getD (s.ctx c).lost))).modCtx c (fun y => if e.room.isSome then y else { y with lost := 0 })

/-- What a posted record changes of its context. -/
def Context.recorded (x : Context) (e : EventRec) : Context :=
  { x with cplTail := x.cplTail + 1, lost := if e.room.isSome then x.lost else 0 }

theorem State.ctx_recorded (s : State) (c : CtxNo) (e : EventRec) : (s.recorded c e).ctx c = (s.ctx c).recorded e := by
  have hctx (va : Nat) (l : List Byte) : (s.pokeN c va l).ctx c = s.ctx c := by simp only [State.ctx, State.pokeN_ctxs]
  rw [State.recorded, State.ctx_modCtx_same, State.postEntry, State.ctx_modCtx_same, hctx, Context.recorded]
  split <;> rfl

theorem State.postEvent_posted {e : EventRec} (hwf : s.memWf = true) (halign : (s.ctx c).cplBase.toNat % 32 = 0)
    (hx : s.xlat c (pageOf (s.ctx c).cplAddr) = some x) :
    Posted c x (eventBits c e (e.room.getD (s.ctx c).lost)) s (s.postEvent c e) ∧ (s.postEvent c e).ctx c = (s.ctx c).recorded e := by
  have hposted : Posted c x (eventBits c e (e.room.getD (s.ctx c).lost)) s (s.recorded c e) :=
    (Posted.postEntry hwf halign hx).modCtx fun y => by split <;> rfl
  have hpost : s.postEvent c e = if bitAt (s.ctx c).cfg 15 then (s.recorded c e).pulse (fld (s.ctx c).cfg 13 2) else s.recorded c e := by
    simp only [State.postEvent, State.recorded]
  rw [hpost]
  split
  · exact ⟨hposted.pulse _, by rw [State.ctx_pulse, State.ctx_recorded]⟩
  · exact ⟨hposted, State.ctx_recorded ..⟩

/-- The oldest record has left the queue, and the ring's page counts as used. -/
def State.unheld (s : State) (c : CtxNo) (rest : List EventRec) : State :=
  (s.touchTlb (pageOf (s.ctx c).cplAddr)).modCtx c (fun y => { y with held := rest })

theorem State.ctx_unheld (s : State) (c : CtxNo) (rest : List EventRec) : (s.unheld c rest).ctx c = { s.ctx c with held := rest } := by
  rw [State.unheld, State.ctx_modCtx_same, State.ctx_touchTlb]

theorem exec_eventRecord_posts {e : EventRec} {rest : List EventRec} (hwf : s.memWf = true) (hposting : s.posting c = true)
    (hheld : (s.ctx c).held = e :: rest) (hroom : e.room = none → (s.ctx c).cmds.length < (s.ctx c).evtFree)
    (halign : (s.ctx c).cplBase.toNat % 32 = 0) (hx : s.xlat c (pageOf (s.ctx c).cplAddr) = some x) (hwrite : x.write = true) :
    ∃ t, exec (.eventRecord c) s = .next t ∧ Posted c x (eventBits c e (e.room.getD (s.ctx c).lost)) s t
      ∧ t.ctx c = { s.ctx c with held := rest }.recorded e := by
  have hfree : ¬ (e.room.isNone ∧ (s.ctx c).evtFree ≤ (s.ctx c).cmds.length) := by
    rintro ⟨hnone, hfull⟩
    exact absurd hfull (Nat.not_le.2 (hroom (Option.isNone_iff_eq_none.1 hnone)))
  have hready := State.ringReady_of_needOk (State.needOk_ring hx hwrite)
  have hpost : s.postHeld c = (s.unheld c rest).postEvent c e := by
    simp only [State.postHeld, hposting, hheld, hready, if_neg hfree, Bool.not_true, Bool.false_eq_true, if_false, State.unheld]
  have hux : (s.unheld c rest).xlat c (pageOf ((s.unheld c rest).ctx c).cplAddr) = some x := by
    have hsame := (State.xlat_touchTlb_same s c (pageOf (s.ctx c).cplAddr)).trans hx
    rw [State.xlat, State.ctx_unheld]
    exact hsame
  have halignu : ((s.unheld c rest).ctx c).cplBase.toNat % 32 = 0 := by rw [State.ctx_unheld]; exact halign
  obtain ⟨hposted, hctx⟩ := State.postEvent_posted (e := e) (s := s.unheld c rest) hwf halignu hux
  rw [State.ctx_unheld] at hposted hctx
  refine ⟨_, congrArg Host.Outcome.next hpost, hposted.of_before ?_ ?_ ?_ (fun _ => rfl) (fun d hd => State.ctx_modCtx_other _ hd _), hctx⟩
  · rw [State.ctx_unheld]; rfl
  · rw [State.ctx_unheld]
  · rw [State.ctx_unheld]; rfl

end

/-! ### The obligation on completion entries -/

/-- Settles O34: each reply and each record is posted as one entry (`Posted`). -/
theorem completionEntriesPostInOrder : Obligations.CompletionEntriesPostInOrder := by
  unfold Obligations.CompletionEntriesPostInOrder
  refine ⟨fun s c m rest r x hwf hposting hcmds hdone => ⟨exec_statusReply_parked hposting, fun hgoing hacked halign =>
      ⟨fun hquiet hok => ?quiet, fun hloud hx hwrite => ?loud⟩⟩,
    fun s c e rest x hwf hposting hheld => ⟨fun hroom halign hx hwrite => ?record, exec_eventRecord_waits hposting hheld⟩⟩
  case quiet =>
    have hctx := State.ctx_modCtx_same s c (fun y => { y with cmds := rest })
    exact ⟨_, exec_statusReply_quiet hposting hgoing hcmds hdone hacked hquiet hok, OnlyCtx.modCtx s c _,
      by rw [hctx], by rw [hctx]⟩
  case loud =>
    obtain ⟨t, hexec, hposted, hrest⟩ := exec_statusReply_posts hposting hgoing hcmds hdone hacked hwf halign hloud hx hwrite
    exact ⟨t, hexec, hrest, hposted.tail, hposted.bytes, hposted.others, hposted.frame⟩
  case record =>
    obtain ⟨t, hexec, hposted, hctx⟩ := exec_eventRecord_posts hwf hposting hheld hroom halign hx hwrite
    exact ⟨t, hexec, by rw [hctx]; rfl, hposted.tail, by rw [hctx]; rfl, hposted.bytes, hposted.others, by rw [hctx]; rfl,
      hposted.frame⟩

end Sys2Proof.Machine
end

section
/-! SUPPORT. COMMAND_ADMISSION (R194 to R196): the packet is read, checked and admitted, with one entry of the ring or two. -/

namespace Sys2Proof.Machine

section
variable {s : State} {c : CtxNo}

/-- Packet `p`, of `n` entries, is admitted with the format table `fmts`. -/
def Context.withAdmitted (c : CtxNo) (fmts : Vector Word 8) (p : BitVec 512) (n : Nat) (x : Context) : Context :=
  { x with cmdHead := x.cmdHead + BitVec.ofNat 32 n, expSeq := x.expSeq + 1, cmds := x.cmds ++ [admitted c x fmts p] }

/-- Both entries of a command are read where its header says two; their pages count as used. -/
theorem State.readEntries_of_needOk {n : Nat}
    (h : n = 2 → s.needOk c (ringNeed ((s.ctx c).entryAddr ((s.ctx c).cmdHead + 1)) false) = true) :
    ∃ l, s.readEntries c n = (true, { s with tlb := l }) := by
  unfold State.readEntries
  split
  · exact ⟨_, State.ringReady_of_needOk (h ‹_›)⟩
  · exact ⟨s.tlb, rfl⟩

/-- The next command is admitted once its entries can be read. -/
theorem State.admitNext_admits (hfree : s.admissible c = true) (hfirst : s.needOk c (ringNeed (s.ctx c).cmdAddr false) = true)
    {p : BitVec 512} (hp : BitVec.ofNat 512 (s.peekLe c (s.ctx c).cmdAddr 64) = p) (hpass : s.admissionFree c (fld p 0 8) = true)
    (hlen : entryCount p ≤ dist32 (s.ctx c).cmdTail (s.ctx c).cmdHead)
    (hsecond : entryCount p = 2 →
      s.tlb.length ≤ 256 ∧ s.needOk c (ringNeed ((s.ctx c).entryAddr ((s.ctx c).cmdHead + 1)) false) = true) :
    ∃ l, s.admitNext c = ({ s with tlb := l }).modCtx c (Context.withAdmitted c s.fmts p (entryCount p)) := by
  let u := s.touchTlb (pageOf (s.ctx c).cmdAddr)
  have hneed : entryCount p = 2 → u.needOk c (ringNeed ((u.ctx c).entryAddr ((u.ctx c).cmdHead + 1)) false) = true := fun htwo => by
    obtain ⟨hsize, hok⟩ := hsecond htwo
    rwa [State.needOk, State.xlat_touchTlb hsize]
  obtain ⟨l, hread⟩ := State.readEntries_of_needOk hneed
  refine ⟨l, ?_⟩
  simp only [State.admitNext, hfree, State.ringReady_of_needOk hfirst, hp, hpass, if_neg (Nat.not_lt.2 hlen), hread, u, Bool.not_true,
    Bool.false_eq_true, if_false]
  rfl

end

/-! ### The obligation -/

/-- Settles O33: the command is admitted (`State.admitNext_admits`), and only its context and the order of the TLB differ. -/
theorem admissionChecksHeader : Obligations.AdmissionChecksHeader := by
  unfold Obligations.AdmissionChecksHeader
  intro s c hfree hfirst p hpass hlen hsecond ph
  obtain ⟨l, hadmit⟩ := State.admitNext_admits hfree hfirst rfl hpass hlen hsecond
  have hctx := State.ctx_modCtx_same { s with tlb := l } c (Context.withAdmitted c s.fmts p (entryCount p))
  exact ⟨_, congrArg Host.Outcome.next hadmit, rfl, fun d hd => State.ctx_modCtx_other _ hd _, congrArg Context.cmdHead hctx,
    congrArg Context.expSeq hctx, congrArg Context.cmds hctx⟩

end Sys2Proof.Machine
end

section
/-! SUPPORT. RESET and its completion (R207): what settling a context's units ends, and what a reset leaves in the context. -/

namespace Sys2Proof.Machine

/-! ### The slice in progress goes on or ends, and none begins -/

/-- The slice in progress is in `t` what it is in `s`, or has ended. -/
structure SliceGoesOn (s t : State) : Prop where
  slice : t.lane.slice = s.lane.slice ∨ t.lane.slice = none

section
variable {s t u : State}

theorem SliceGoesOn.of_slice (h : t.lane.slice = s.lane.slice) : SliceGoesOn s t := ⟨.inl h⟩

theorem SliceGoesOn.refl (s : State) : SliceGoesOn s s := .of_slice rfl

theorem SliceGoesOn.trans (h : SliceGoesOn s t) (k : SliceGoesOn t u) : SliceGoesOn s u := by
  refine ⟨?_⟩
  rcases k.slice with hsame | hnone
  · rw [hsame]; exact h.slice
  · exact .inr hnone

/-- The lane bank is not of the pieces that may have changed. -/
theorem SliceGoesOn.of_frame {ks : List Piece} (h : Fr ks s t) (hlane : Piece.lane ∉ ks) : SliceGoesOn s t :=
  .of_slice (congrArg Lane.slice (h.same .lane hlane))

theorem Lane.slice_emptyBank (l : Lane) (g : Fin 16) (b : Bool) : (l.emptyBank g b).slice = l.slice := by
  have hset (k : Lane) (x : Bank) : (k.setBank g b x).slice = k.slice := by
    unfold Lane.setBank
    split <;> rfl
  unfold Lane.emptyBank
  dsimp only
  split
  · exact (hset _ _).trans (hset _ _)
  · exact hset _ _

end

section
variable (s : State) (c : CtxNo)

theorem SliceGoesOn.setPhase (i : Nat) (p : Phase) : SliceGoesOn s (s.setPhase c i p) := .of_slice rfl

/-- What a product tile's way into its slot or to its end may change. -/
def tilePieces : List Piece := [.free, .core, .remote, .evt, .slots, .tlb, .walks, .sent, .waits, .chains, .chainOut, .tel] ++ everyCtx

theorem ctx_mem_tilePieces (d : CtxNo) : Piece.ctx d ∈ tilePieces := List.mem_append_right _ (Fr.mem_everyCtx d)

theorem SliceGoesOn.tileIn (i : Nat) (m : Cmd) (j : ProdJob) (n slot : Nat) (res : Bool) (tiles : Nat) :
    SliceGoesOn s (s.tileIn c i m j n slot res tiles) :=
  .of_frame (ks := tilePieces) (Fr.tileIn (Fr.refl _ s) c i m j n slot res tiles (by decide) (by decide) (by decide) (by decide)
    ctx_mem_tilePieces (by decide) (by decide) (by decide) (by decide) (by decide) (by decide) (by decide) (by decide)) (by decide)

theorem SliceGoesOn.tileDone (i : Nat) (m : Cmd) (j : ProdJob) (r : TileRun) : SliceGoesOn s (s.tileDone c i m j r) := by
  have hturn : SliceGoesOn s (if j.lead = m.seq then s.turnTile c else s) := by
    split
    · exact .of_frame (ks := [.schedTurn]) (Fr.turnTile (Fr.refl _ s) c (by decide)) (by decide)
    · exact .refl s
  have hnote (t : State) (pos : Nat) (endA : Bool) : SliceGoesOn t { t with lane := t.lane.noteEnd pos endA } := .of_slice rfl
  unfold State.tileDone
  dsimp only
  split
  · split <;> exact (hturn.trans (hnote ..)).trans (.setPhase _ c i _)
  · exact (hturn.trans (hnote ..)).trans (.tileIn _ c i m _ _ _ _ _)

theorem SliceGoesOn.trySliceEnd : SliceGoesOn s s.trySliceEnd := by
  unfold State.trySliceEnd
  split
  · exact .refl s
  · split
    · exact ⟨.inr rfl⟩
    · exact .refl s

theorem SliceGoesOn.commitInterval (it : Interval) : SliceGoesOn s (s.commitInterval it) := by
  have hcount : SliceGoesOn s ((s.countInterval it).endOverrun it.ctx) := .of_slice rfl
  unfold State.commitInterval
  dsimp only
  split
  · exact hcount
  · split
    · split
      · refine (hcount.trans ?_).trans (.trySliceEnd _)
        split
        · exact .tileDone _ _ _ _ _ _
        · exact .setPhase _ _ _ _
      · exact hcount
    · exact hcount

theorem SliceGoesOn.drainGroup (g : Fin 16) : SliceGoesOn s (s.drainGroup g) := by
  unfold State.drainGroup
  split
  · exact .refl s
  next h b rest _ =>
    split
    · exact .refl s
    · dsimp only
      split
      · exact .of_slice rfl
      next it _ =>
        have hpromoted : SliceGoesOn s (s.promoteBank it g b rest) := .of_slice (Lane.slice_emptyBank _ g b)
        change SliceGoesOn s (if (s.promoteBank it g b rest).lane.drained it then (s.promoteBank it g b rest).commitInterval it
          else s.promoteBank it g b rest)
        split
        · exact hpromoted.trans (.commitInterval _ it)
        · exact hpromoted

theorem SliceGoesOn.drainOwn (n : Nat) : SliceGoesOn s (State.drainOwn c n s) := by
  induction n generalizing s with
  | zero => exact .refl s
  | succ n ih =>
    have hnext : SliceGoesOn s s.drainNext := by
      unfold State.drainNext
      split
      · refine SliceGoesOn.trans ?_ (.drainGroup _ _)
        exact .of_slice rfl
      · exact .refl s
    rw [State.drainOwn]
    split
    · exact hnext.trans (ih _)
    · exact .refl s

/-- What the end of a copy's write phase may change. -/
def writePieces (c : CtxNo) : List Piece :=
  [.core, .remote, .ctx c, .staging, .tlb, .walks, .reqs, .sent, .waits, .dovetail, .ckpt]

theorem SliceGoesOn.endWrites : SliceGoesOn s (s.endWrites c) :=
  .of_frame (ks := writePieces c) (Fr.endWrites (Fr.refl _ s) c (by simp [writePieces]) (by simp [writePieces]) (by simp [writePieces])
    (by simp [writePieces]) (by simp [writePieces]) (by simp [writePieces]) (by simp [writePieces]) (by simp [writePieces])
    (by simp [writePieces]) (by simp [writePieces]) (by simp [writePieces])) (by simp [writePieces])

/-! ### The units of the context have ended (R157) -/

theorem State.slice_dropSlice {r : SliceRun} (h : (s.dropSlice c).lane.slice = some r) : r.ctx ≠ c := by
  unfold State.dropSlice at h
  split at h
  next q hq =>
    split at h
    · exact absurd h (by simp)
    next hother =>
      rw [hq, Option.some.injEq] at h
      rwa [← h]
  next hnone => rw [hnone] at h; exact absurd h (by simp)

/-- No slice of the context goes on. -/
theorem State.slice_settleUnits {r : SliceRun} (h : (s.settleUnits c).lane.slice = some r) : r.ctx ≠ c := by
  simp only [State.settleUnits, State.endOverrun, State.modCtx_lane, State.dropHolds, State.unwaitAll] at h
  rcases ((SliceGoesOn.drainOwn (s.dropSlice c) c 64).trans (.endWrites _ c)).slice with hsame | hnone
  · exact State.slice_dropSlice s c (hsame.symm.trans h)
  · rw [hnone] at h
    cases h

theorem State.waits_settleUnits {w : Wait} (h : w ∈ (s.settleUnits c).waits) : w.ctx ≠ c := by
  simp only [State.settleUnits, State.endOverrun, State.modCtx_waits, State.dropHolds, State.unwaitAll, List.mem_filter, bne_iff_ne] at h
  exact h.2

theorem State.staging_settleUnits {p : Nat × Nat} (h : p ∈ (s.settleUnits c).staging) : p.2 = benchUser ∨ p.2 % 8 ≠ c.val := by
  simp only [State.settleUnits, State.endOverrun, State.modCtx_staging, State.dropHolds, List.mem_filter, Bool.or_eq_true, bne_iff_ne,
    beq_iff_eq] at h
  exact h.2.symm

theorem State.dovetail_settleUnits {p : CtxNo × Word} (h : p ∈ (s.settleUnits c).dovetail) : p.1 ≠ c := by
  simp only [State.settleUnits, State.endOverrun, State.modCtx_dovetail, State.dropHolds, List.mem_filter, bne_iff_ne] at h
  exact h.2

/-- The context waits for nothing any more. -/
theorem State.ctx_settleUnits : ((s.settleUnits c).ctx c).stream = none ∧ ((s.settleUnits c).ctx c).wantUnit = none
    ∧ ((s.settleUnits c).ctx c).wantPage = none ∧ ((s.settleUnits c).ctx c).xlats = [] := by
  simp only [State.settleUnits, State.endOverrun, State.ctx_modCtx_same, and_self]

end

/-! ### RESET (R207) -/

section
variable {s : State} {c : CtxNo}

theorem exec_reset (hw : s.windowOpen = true) (hr : (s.ctx c).resetting = false) : exec (.reset c) s = .next (s.beginReset c) := by
  change Host.Outcome.next (s.control c _ _) = _
  simp [State.control, hw, hr]

/-! ### Its completion (R207) -/

/-- A context whose reset completes, its task aside. -/
def Context.cleared (x : Context) : Context :=
  { x with
    state := .disabled, resetting := false, ringFault := false, doorbellErr := false, cfgErr := false, ctrlIgn := false
    headErr := false, lost := 0, cmdHead := 0, cplTail := 0, expSeq := 0, eventSeq := 0, cmds := [], held := [], early := false
    xlats := [], fault := none, settled := false, overrunFrom := [], adj := 0, sumActual := 0, sumRaw := 0, unitsDone := 0, stream := none }

/-- The context's task is given up, its journal's header written (R117, R207). -/
def State.dropTask (s : State) (c : CtxNo) : State :=
  match (s.ctx c).task with
  | some t => (s.journalHeader c t).releaseTask c
  | none => s

theorem State.task_dropTask (s : State) (c : CtxNo) : ((s.dropTask c).ctx c).task = none := by
  unfold State.dropTask
  split
  · rw [State.releaseTask, State.ctx_modCtx_same]
  next hnone => exact hnone

/-- What a reset that completes gives up before the context is cleared. -/
def State.resetBase (s : State) (c : CtxNo) : State :=
  (((List.range 4).foldl (State.dropChain c) ((s.ctx c).cmds.foldl (fun t m => t.keepGen c m) (s.dropStores c))).freeTransient c).dropTask c

theorem State.task_resetBase (s : State) (c : CtxNo) : ((s.resetBase c).ctx c).task = none := by
  rw [State.resetBase, State.task_dropTask]

theorem State.ctx_resetCtx (s : State) (c : CtxNo) : (s.resetCtx c).ctx c = ((s.resetBase c).ctx c).cleared := by
  have hctx (u : State) (locks : List RowLock) (walks : List WalkReq) : ({ u with locks := locks, walks := walks }).ctx c = u.ctx c := rfl
  unfold State.resetCtx State.resetBase
  dsimp only
  generalize State.freeTransient _ c = u
  rw [State.ctx_modCtx_same, hctx]
  cases htask : (u.ctx c).task <;> simp only [State.dropTask, htask, Context.cleared]

theorem exec_contextResetComplete (hr : (s.ctx c).resetting = true) (hrun : s.pow.state = .running)
    (hreqs : s.reqs.all (fun r => r.ctx != c) = true) (hlooked : (s.headerLookup c).1 = true) :
    exec (.contextResetComplete c) s = .next (s.resetCtx c) := by
  have hnone : s.reqs.any (fun r => r.ctx == c) = false := by
    simpa [List.all_eq_true, List.any_eq_false] using hreqs
  have hsame : (s.headerLookup c).2 = s := by
    unfold State.headerLookup at hlooked ⊢
    dsimp only at hlooked ⊢
    split
    · rfl
    next hneeds => rw [if_neg hneeds] at hlooked; exact absurd hlooked Bool.false_ne_true
  refine congrArg Host.Outcome.next ((if_neg ?_).trans ((if_pos hlooked).trans ?_))
  · simp [hr, hrun, hnone]
  · rw [hsame]

end

/-! ### The obligation -/

/-- Settles O7: a RESET settles the context's units, its completion clears the context (`State.ctx_resetCtx`). -/
theorem contextResetClearsContext : Obligations.ContextResetClearsContext := by
  unfold Obligations.ContextResetClearsContext
  intro s c
  refine ⟨fun hw hr => ?begins, fun hr hrun hreqs hlooked => ?completes⟩
  case begins =>
    have hslice := fun r h => s.slice_settleUnits c (r := r) h
    have hwaits := fun w h => s.waits_settleUnits c (w := w) h
    have hstaging := fun p h => s.staging_settleUnits c (p := p) h
    have hdovetail := fun p h => s.dovetail_settleUnits c (p := p) h
    have hctx := s.ctx_settleUnits c
    refine ⟨_, exec_reset hw hr, ?_⟩
    unfold State.beginReset
    generalize s.settleUnits c = u at hslice hwaits hstaging hdovetail hctx ⊢
    rw [State.ctx_modCtx_same]
    obtain ⟨hstream, hunit, hpage, hxlats⟩ := hctx
    exact ⟨rfl, rfl, hstream, hunit, hpage, hxlats, hslice, fun w h => by simpa using (List.mem_filter.1 h).2, hwaits, hstaging,
      hdovetail⟩
  case completes =>
    refine ⟨_, exec_contextResetComplete hr hrun hreqs hlooked, ?_⟩
    have htask := s.task_resetBase c
    rw [State.ctx_resetCtx]
    generalize (s.resetBase c).ctx c = x at htask ⊢
    exact ⟨rfl, rfl, rfl, rfl, rfl, rfl, rfl, rfl, rfl, htask, rfl, rfl, rfl, rfl, rfl, rfl⟩

end Sys2Proof.Machine
end

section
/-! SUPPORT. SLICE on an idle lane bank (R205, R238 to R240, R243, R244): the context that is picked, what a slice of one tile takes, and the
state in which it begins. -/

namespace Sys2Proof.Machine

/-! ### The pick (R205) -/

section
variable {s : State} {c : CtxNo}

theorem State.prepareFor_eq (s : State) (c : CtxNo) : s.prepareFor c = { s with pow := (s.prepareFor c).pow } := by
  unfold State.prepareFor
  split <;> rfl

theorem State.ctx_prepareFor (s : State) (c d : CtxNo) : (s.prepareFor c).ctx d = s.ctx d := by
  rw [State.prepareFor_eq]
  rfl

theorem State.remaining_prepareFor (s : State) (c : CtxNo) : (s.prepareFor c).remaining = s.remaining := by
  rw [State.prepareFor_eq]
  rfl

theorem State.fullReserve_prepareFor (s : State) (c : CtxNo) : (s.prepareFor c).fullReserve = s.fullReserve := by
  rw [State.prepareFor_eq]
  rfl

/-- A first unit that can start has asked for nothing. -/
theorem State.firstOpen_of_opens (h : (s.firstOpen c).1 = true) : (s.firstOpen c).2 = s := by
  have hfirst (q : Bool × State) (h : (if q.1 then (true, s) else q).1 = true) : (if q.1 then (true, s) else q).2 = s := by
    split at h
    next hq => rw [if_pos hq]
    next hq => exact absurd h hq
  have hany (qs : List (Bool × State)) (h : (if qs.isEmpty || qs.any (fun q => q.1) then (true, s) else qs.headD (true, s)).1 = true) :
      (if qs.isEmpty || qs.any (fun q => q.1) then (true, s) else qs.headD (true, s)).2 = s := by
    cases qs with
    | nil => rfl
    | cons q qs =>
      split at h
      next hq => rw [if_pos hq]
      next hq => exact absurd (by simpa using .inl h) hq
  unfold State.firstOpen at h ⊢
  split
  · rfl
  next m hm =>
    rw [hm] at h
    dsimp only at h
    split
    next j hj =>
      rw [hj] at h
      dsimp only at h
      split
      · rfl
      next hplace =>
        rw [if_neg hplace] at h
        exact hany _ h
    next row _ _ _ _ hrow =>
      rw [hrow] at h
      dsimp only at h
      split
      next src dst hsrc hdst =>
        rw [hsrc, hdst] at h
        exact hfirst _ h
      · rfl
    · rfl

/-- The picked context whose next tile can start has a slice of it admitted. -/
theorem State.slicePick_admits (hadmits : s.admits = true) (hpick : s.pickCtx s.readyCtxs = some c) (hready : s.laneReady c = true)
    (hopen : ((s.prepareFor c).firstOpen c).1 = true) (hwaits : (s.prepareFor c).laneWaits c = false) :
    s.slicePick = (s.prepareFor c).admitSlice c false := by
  simp only [State.slicePick, hadmits, hpick, hready, State.firstOpen_of_opens hopen, hopen, hwaits, Bool.not_true, Bool.not_false,
    Bool.and_true, Bool.false_eq_true, if_false, if_true]

theorem exec_slice_idle (hidle : s.lane.slice = none) (hprio : s.prioNext = none) : exec .slice s = .next s.slicePick := by
  change Host.Outcome.next (match s.lane.slice with | some r => s.sliceRun r | none => s.takePrio.slicePick) = _
  rw [hidle]
  simp only [State.takePrio, hprio]

/-! ### What a slice of one tile takes (R240, R243) -/

/-- The slice of a picked context that takes the units of one tile of the job. -/
def FitTile.run (x : FitTile) (c : CtxNo) (j : ProdJob) : SliceRun := ⟨c, [⟨j.lead, x.tile, x.units, none⟩], false, x.large, x.channels⟩

/-- A slice in progress on the lane bank, in jig `jig`. -/
def State.withSlice (s : State) (jig : Nat) (r : SliceRun) : State := { s with lane := { s.lane.enter jig with slice := some r } }

/-- The state in which a slice of tile `x.tile` has begun, its channels taken. -/
def State.sliceBegun (v : State) (c : CtxNo) (j : ProdJob) (x : FitTile) : State :=
  ((State.enterTile c j.lead v x.tile).withSlice j.jig (x.run c j)).noteSlice c false

section
variable {j : ProdJob} {n : Nat} {x : FitTile} (hready : s.readyTiles c j = [n]) (hx : s.admitTile c false j.lead n = x)
include hready hx

/-- None of the one ready tile's units is taken: the context is left until the next tick. -/
theorem State.admitProduct_none (hunits : x.units = 0) :
    s.admitProduct c false j = s.modCtx c (fun y => { y with laneDone := true }) := by
  unfold State.admitProduct
  rw [hready, List.map_singleton, hx]
  simp [hunits]

/-- Units of the one ready tile are taken, and the slice has its channels. -/
theorem State.admitProduct_begins (hunits : x.units ≠ 0) {v : State} (hchannels : s.channels c j.lead x.channels = (true, v)) :
    s.admitProduct c false j = v.sliceBegun c j x := by
  unfold State.admitProduct
  rw [hready, List.map_singleton, hx]
  by_cases hlarge : x.large = true <;> simp [hunits, hlarge, hchannels, State.sliceBegun, State.withSlice, FitTile.run]

end

end

/-- The cost of a tile's units to a slice (R238, R239): the adjusted estimate of each, the first with the tile's prologue (log 9). -/
def State.unitCost (s : State) (c : CtxNo) (x : LanePart) (u : Nat) : Nat :=
  adjusted (s.ctx c).adj (s.partEst c [x] u + if u = x.run.filled then
    (if x.run.filled = 0 ∧ x.run.early = false then x.ops.prologue x.cmd (partFills [x]) else 0) else 0)

/-- Does the tile's next unit fit no tick (R243)? -/
def State.oversizedUnit (s : State) (c : CtxNo) (x : LanePart) : Bool := decide (14000 - s.fullReserve < s.unitCost c x x.run.filled)

/-- The units of the tile that a slice of a picked context takes (R240, R243). -/
def State.unitsTaken (s : State) (c : CtxNo) (x : LanePart) : Nat :=
  if s.oversizedUnit c x then (if (s.ctx c).slicedTick then 0 else 1)
  else fitUnits (s.unitCost c x) s.remaining (x.ops.intervals x.cmd x.job x.tile - x.run.filled) x.run.filled

theorem State.fitSlice_of_cost {s : State} {c : CtxNo} {est cost : Nat → Nat} {pro k : Nat}
    (hcost : ∀ u, adjusted (s.ctx c).adj (est u + if u = k then pro else 0) = cost u) (n : Nat) :
    s.fitSlice c false est pro n k = if 14000 - s.fullReserve < cost k then (if (s.ctx c).slicedTick then 0 else 1, true)
      else (fitUnits cost s.remaining n k, false) := by
  obtain rfl : (fun u => adjusted (s.ctx c).adj (est u + if u = k then pro else 0)) = cost := funext hcost
  simp only [State.fitSlice, Bool.false_or, Bool.false_eq_true, if_false]

theorem State.admitTile_one {s : State} {c : CtxNo} {lead : Word} {n : Nat} {x : LanePart} (hparts : s.partsAt c lead n = [x]) :
    s.admitTile c false lead n = ⟨n, s.unitsTaken c x, s.oversizedUnit c x, partFills [x]⟩ := by
  have hfit := State.fitSlice_of_cost (s := s) (c := c) (est := s.partEst c [x]) (cost := s.unitCost c x) (k := x.run.filled)
    (pro := if x.run.filled = 0 ∧ ¬ x.run.early = true then x.ops.prologue x.cmd (partFills [x]) else 0)
    (fun u => by simp only [State.unitCost, Bool.not_eq_true]) (x.ops.intervals x.cmd x.job x.tile - x.run.filled)
  unfold State.admitTile
  simp only [hparts, hfit, State.unitsTaken, State.oversizedUnit, decide_eq_true_eq]
  split <;> simp [*]

/-! ### The slice has begun (R205, R244) -/

section
variable (s v : State) (c : CtxNo)

theorem State.channels_eq (seq : Word) (need : Nat) :
    (s.channels c seq need).2 = { s with waits := (s.channels c seq need).2.waits } := by
  unfold State.channels
  split
  · rfl
  · split
    · unfold State.await
      split <;> rfl
    · rfl

/-- The state in which the channels of a slice have been asked for, the power its tile needs prepared. -/
theorem State.eq_of_channels {s v : State} {c : CtxNo} {seq : Word} {need : Nat} {ok : Bool}
    (h : (s.prepareFor c).channels c seq need = (ok, v)) : v = { s with pow := (s.prepareFor c).pow, waits := v.waits } := by
  have hv := (s.prepareFor c).channels_eq c seq need
  rw [h] at hv
  refine hv.trans ?_
  generalize v.waits = ws
  rw [State.prepareFor_eq]

/-- A slice's tile that enters the lane bank, and its turn, change no more than the contexts. -/
structure OnlyWork (c : CtxNo) (s t : State) : Prop where
  eq : ∃ x, t = { s with ctxs := x }
  others : ∀ d, d ≠ c → t.ctx d = s.ctx d
  slices : (t.ctx c).slices = (s.ctx c).slices

theorem OnlyWork.refl : OnlyWork c s s := ⟨⟨_, rfl⟩, fun _ _ => rfl, rfl⟩

theorem OnlyWork.setPhase (i : Nat) (p : Phase) : OnlyWork c s (s.setPhase c i p) := by
  refine ⟨⟨_, rfl⟩, fun d hd => State.ctx_setPhase_other s hd i p, ?_⟩
  rw [State.ctx_setPhase, if_pos rfl]
  split <;> rfl

theorem OnlyWork.trans {s t u : State} (h : OnlyWork c s t) (k : OnlyWork c t u) : OnlyWork c s u where
  eq := by
    obtain ⟨x, rfl⟩ := h.eq
    exact k.eq
  others d hd := (k.others d hd).trans (h.others d hd)
  slices := k.slices.trans h.slices

theorem OnlyWork.enterTile (lead : Word) (n : Nat) : OnlyWork c s (State.enterTile c lead s n) := by
  unfold State.enterTile
  generalize s.lane = l
  generalize s.partsAt c lead n = ps
  induction ps generalizing s with
  | nil => exact .refl s c
  | cons x ps ih =>
    refine OnlyWork.trans c ?_ (ih _)
    dsimp only
    split
    · exact .refl s c
    · exact .setPhase s c x.place _

end

section
variable {s v : State} {c : CtxNo} {j : ProdJob} {x : FitTile}

/-- The turn of the context's LEVEL is its own. -/
theorem State.schedLast_takeTurn (s : State) (c : CtxNo) : (s.takeTurn c).schedLast.get (s.level c) = c := by
  unfold State.takeTurn
  split
  next hturn =>
    rw [State.inTurn, Bool.and_eq_true, beq_iff_eq] at hturn
    exact hturn.1
  next => exact Vector.getElem_set_self ..

/-- The turns of other LEVELs stand. -/
theorem State.takeTurn_other {l : Fin 8} (hl : l ≠ s.level c) :
    (s.takeTurn c).schedLast.get l = s.schedLast.get l ∧ (s.takeTurn c).schedTurn.get l = s.schedTurn.get l := by
  have hne : (s.level c).val ≠ l.val := fun h => hl (Fin.ext h.symm)
  unfold State.takeTurn
  split
  · exact ⟨rfl, rfl⟩
  · exact ⟨Vector.getElem_set_ne (s.level c).isLt l.isLt hne, Vector.getElem_set_ne (s.level c).isLt l.isLt hne⟩

theorem State.takeTurn_eq (s : State) (c : CtxNo) :
    s.takeTurn c = { s with schedLast := (s.takeTurn c).schedLast, schedTurn := (s.takeTurn c).schedTurn } := by
  unfold State.takeTurn
  split <;> rfl

/-- In `t` a slice of tile `x.tile` has begun from `v`, with the power `p` asked for, and the context's turn goes on. -/
structure SliceBegins (c : CtxNo) (j : ProdJob) (x : FitTile) (p : Power) (v t : State) : Prop where
  eq : t = { v with pow := p, lane := t.lane, ctxs := t.ctxs, waits := t.waits, schedTurn := t.schedTurn, schedLast := t.schedLast }
  lane : t.lane = { v.lane.enter j.jig with slice := some (x.run c j) }
  turn : t.schedLast.get (v.level c) = c
  turns : ∀ l, l ≠ v.level c → t.schedLast.get l = v.schedLast.get l ∧ t.schedTurn.get l = v.schedTurn.get l
  others : ∀ d, d ≠ c → t.ctx d = v.ctx d
  sliced : (t.ctx c).slicedTick = true
  slices : (t.ctx c).slices = satAdd (v.ctx c).slices 1

/-- A slice is noted in its context. -/
def Context.noteSlice (x : Context) : Context := { x with slicedTick := true, slices := satAdd x.slices 1 }

theorem SliceBegins.sliceBegun (v : State) (c : CtxNo) (j : ProdJob) (x : FitTile) : SliceBegins c j x v.pow v (v.sliceBegun c j x) := by
  obtain ⟨heq, hothers, hslices⟩ := OnlyWork.enterTile v c j.lead x.tile
  unfold State.sliceBegun
  generalize State.enterTile c j.lead v x.tile = e at heq hothers hslices ⊢
  obtain ⟨cs, rfl⟩ := heq
  generalize hu : (State.withSlice { v with ctxs := cs } j.jig (x.run c j)).modCtx c Context.noteSlice = u
  have hlevel : u.level c = v.level c := by rw [← hu]; rfl
  have hctx (d : CtxNo) : (u.takeTurn c).ctx d = u.ctx d := by rw [State.takeTurn_eq]; rfl
  have hown : u.ctx c = (State.ctx { v with ctxs := cs } c).noteSlice := by rw [← hu, State.ctx_modCtx_same]; rfl
  change SliceBegins c j x v.pow v ((State.modCtx _ c Context.noteSlice).takeTurn c)
  rw [hu]
  refine ⟨?_, ?_, ?_, fun l hl => ?_, fun d hd => ?_, ?_, ?_⟩
  · rw [State.takeTurn_eq, ← hu]; rfl
  · rw [State.takeTurn_eq, ← hu]; rfl
  · rw [← hlevel]; exact State.schedLast_takeTurn u c
  · have hother := State.takeTurn_other (s := u) (c := c) (l := l) (by rwa [hlevel])
    rwa [← hu] at hother ⊢
  · rw [hctx, ← hu, State.ctx_modCtx_other _ hd]; exact hothers d hd
  · rw [hctx, hown]; rfl
  · rw [hctx, hown, ← hslices]; rfl

/-- The power that was prepared and the channels that were taken before a slice began leave the rest alone. -/
theorem SliceBegins.of_prepared {t : State} {p : Power} (h : SliceBegins c j x p v t) {q : Power} (hv : v = { s with pow := q, waits := v.waits }) :
    SliceBegins c j x p s t := by
  generalize v.waits = ws at hv
  subst hv
  obtain ⟨heq, hlane, hturn, hturns, hothers, hsliced, hslices⟩ := h
  exact ⟨heq, hlane, hturn, hturns, hothers, hsliced, hslices⟩

/-- With a product's open tiles all placed, the slice is one of them. -/
theorem State.admitSlice_product {i : Nat} {m : Cmd} {j : ProdJob} (hcmd : s.laneCmd c = some (i, m)) (hphase : m.phase = .running (.product j))
    (htiles : j.tiles ≠ []) (hplaced : (s.members c j.lead).any (s.placeable c) = false) :
    s.admitSlice c false = s.admitProduct c false j := by
  simp [State.admitSlice, hcmd, hphase, htiles, hplaced]

end

/-- SLICE on an idle lane bank admits a slice of the picked context's product. -/
theorem exec_slice_admits {s : State} {c : CtxNo} {i : Nat} {m : Cmd} {j : ProdJob} (hphase : m.phase = .running (.product j))
    (hidle : s.lane.slice = none) (hadmits : s.admits = true) (hprio : s.prioNext = none) (hpick : s.pickCtx s.readyCtxs = some c)
    (hready : s.laneReady c = true) (hopen : ((s.prepareFor c).firstOpen c).1 = true) (hwaits : (s.prepareFor c).laneWaits c = false)
    (hcmd : (s.prepareFor c).laneCmd c = some (i, m)) (htiles : j.tiles ≠ [])
    (hplaced : ((s.prepareFor c).members c j.lead).any ((s.prepareFor c).placeable c) = false) :
    exec .slice s = .next ((s.prepareFor c).admitProduct c false j) := by
  rw [exec_slice_idle hidle hprio, State.slicePick_admits hadmits hpick hready hopen hwaits,
    State.admitSlice_product hcmd hphase htiles hplaced]

end Sys2Proof.Machine
end

section
/-! SUPPORT. SLICE in progress (R47, R155, R237): a lane group takes its part of an interval, a tile's interval is filled and its command's run
counts it, and reading ahead changes no more than requests, walks and a count. -/

namespace Sys2Proof.Machine

/-! ### Lane groups take their parts (R42, R47) -/

section
variable {l : Lane} {g h : Fin 16} {b : Bool} {it : Interval}

theorem Lane.bank_setBank (l : Lane) (g h : Fin 16) (b : Bool) (x : Bank) : (l.setBank g b x).bank h b = if h = g then x else l.bank h b := by
  have hget (v : Vector Bank 16) : (v.set g.val x g.isLt).get h = if h = g then x else v.get h := by
    by_cases hg : h = g
    · subst hg
      rw [if_pos rfl]
      exact Vector.getElem_set_self ..
    · rw [if_neg hg]
      exact Vector.getElem_set_ne g.isLt h.isLt fun e => hg (Fin.ext e.symm)
  cases b
  · exact hget l.bankA
  · exact hget l.bankB

/-- Bank `b` of lane group `h` holds the interval, and waits to drain. -/
structure Lane.Holds (l : Lane) (h : Fin 16) (b : Bool) (it : Interval) : Prop where
  drains : (h, b) ∈ l.drains
  interval : (l.bank h b).interval = some it

/-- An empty bank takes its lane group's part. -/
theorem Lane.Holds.takePart_empty (hempty : (l.bank g b).interval = none) (cells : Tbl (BitVec 20)) (it : Interval)
    (beats : List SkidBeat) : (l.takePart g b ⟨cells, some it⟩ it beats).Holds g b it := by
  have hput : l.takePart g b ⟨cells, some it⟩ it beats = { l.setBank g b ⟨cells, some it⟩ with drains := l.drains ++ [(g, b)] } := by
    rw [Lane.takePart, hempty]
    rfl
  rw [hput]
  exact ⟨by simp, congrArg Bank.interval ((Lane.bank_setBank l g g b _).trans (if_pos rfl))⟩

/-- Another lane group's bank stays as it is. -/
theorem Lane.bank_takePart_other (hother : h ≠ g) (x : Bank) (jt : Interval) (beats : List SkidBeat) :
    (l.takePart g b x jt beats).bank h b = l.bank h b := by
  unfold Lane.takePart
  split
  · exact (Lane.bank_setBank l g h b x).trans (if_neg hother)
  · rfl

theorem Lane.Holds.takePart (hold : l.Holds h b it) (g : Fin 16) (x : Bank) (jt : Interval) (beats : List SkidBeat) :
    (l.takePart g b x jt beats).Holds h b it := by
  by_cases hg : h = g
  · subst hg
    rw [Lane.takePart, hold.interval]
    exact ⟨hold.drains, hold.interval⟩
  · refine ⟨?_, by rw [Lane.bank_takePart_other hg, hold.interval]⟩
    unfold Lane.takePart
    split
    · exact List.mem_append_left _ hold.drains
    · exact hold.drains

theorem Lane.slice_takePart (l : Lane) (g : Fin 16) (b : Bool) (x : Bank) (jt : Interval) (beats : List SkidBeat) :
    (l.takePart g b x jt beats).slice = l.slice := by
  unfold Lane.takePart Lane.setBank
  split
  · split <;> rfl
  · rfl

/-- The stationary banks are loaded apart from the accumulator banks (R51). -/
theorem Lane.loadBlocks_eq (lane0 : Nat) (blocks : List (List (List (BitVec 16)))) (l : Lane) (k : Nat) :
    l.loadBlocks lane0 k blocks = { l with s0 := (l.loadBlocks lane0 k blocks).s0, s1 := (l.loadBlocks lane0 k blocks).s1 } := by
  induction blocks generalizing l k with
  | nil => rfl
  | cons rows blocks ih =>
    rw [Lane.loadBlocks]
    split <;> exact ih _ _

/-- Lane groups take their parts of an interval in order. -/
def Lane.takeParts (l : Lane) (gs : List (Fin 16)) (b : Bool) (cells : Fin 16 → Tbl (BitVec 20)) (it : Interval) (beats : List SkidBeat) : Lane :=
  gs.foldl (fun t g => t.takePart g b ⟨cells g, some it⟩ it beats) l

section
variable (cells : Fin 16 → Tbl (BitVec 20)) (beats : List SkidBeat)

theorem Lane.slice_takeParts (gs : List (Fin 16)) (l : Lane) : (l.takeParts gs b cells it beats).slice = l.slice := by
  induction gs generalizing l with
  | nil => rfl
  | cons g gs ih => exact (ih _).trans (Lane.slice_takePart ..)

theorem Lane.Holds.takeParts {l : Lane} (hold : l.Holds h b it) (gs : List (Fin 16)) : (l.takeParts gs b cells it beats).Holds h b it := by
  induction gs generalizing l with
  | nil => exact hold
  | cons g gs ih => exact ih (hold.takePart g _ _ _)

theorem Lane.Holds.takeParts_empty {gs : List (Fin 16)} {l : Lane} (hgroup : h ∈ gs) (hempty : (l.bank h b).interval = none) :
    (l.takeParts gs b cells it beats).Holds h b it := by
  induction gs generalizing l with
  | nil => cases hgroup
  | cons g gs ih =>
    by_cases hg : h = g
    · subst hg
      exact (Lane.Holds.takePart_empty hempty _ _ _).takeParts cells beats gs
    · exact ih ((List.mem_cons.1 hgroup).resolve_left hg) (by rw [Lane.bank_takePart_other hg, hempty])

end

section
variable (l : Lane) (c : CtxNo) (x : LanePart) (useB : Bool) (d : FillData)

theorem Lane.slice_fill : (l.fill c x useB d).slice = l.slice := by
  refine (Lane.slice_takeParts _ _ x.groups _).trans ?_
  rw [Lane.loadBlocks_eq]

/-- Every lane group of the tile whose bank is empty holds the filled interval. -/
theorem Lane.Holds.fill (hgroup : h ∈ x.groups) (hempty : (l.bank h useB).interval = none) : (l.fill c x useB d).Holds h useB d.it := by
  refine Lane.Holds.takeParts_empty _ _ hgroup ?_
  rw [Lane.loadBlocks_eq]
  exact hempty

end

end

/-! ### A tile's interval is filled -/

section
variable {s : State} {c : CtxNo} {x : LanePart}

theorem State.recordStats_eq (s : State) (o : Opnd) (vals : List ((Nat → Nat) × Num)) :
    ∃ r, s.recordStats o vals = { s with rts := r } := by
  unfold State.recordStats
  split
  · induction vals generalizing s with
    | nil => exact ⟨s.rts, rfl⟩
    | cons p vals ih =>
      obtain ⟨r, hr⟩ := ih (s.recordRange o.desc.qtable (o.desc.channel p.1) p.2)
      exact ⟨r, hr⟩
  · exact ⟨s.rts, rfl⟩

/-- Whether a command is chained is its own matter (R182). -/
theorem State.chainOf_unchained {t : State} {m : Cmd} (h : s.chainOf m = none) : t.chainOf m = none := by
  unfold State.chainOf at h ⊢
  split at h
  · cases h
  next hnot => rw [if_neg hnot]

section
variable {m : Cmd} (h : s.chainOf m = none) (p : ProdOps) (j : ProdJob) (n k : Nat)
include h

theorem State.chainTake_unchained : s.chainTake m p j n k = s := by rw [State.chainTake, h]

theorem State.chainUse_unchained (t : State) (bits : List Nat) : t.chainUse m p j n k bits = t := by
  rw [State.chainUse, State.chainOf_unchained h]

theorem State.beatsReady_unchained : s.beatsReady m p j n k = true := by rw [State.beatsReady, h]

theorem State.chainGiven_unchained :
    s.chainGiven m p j n k = (p.opaElems m j (j.tileAt n) k (j.tileAt n).rows).map (fun _ => none) := by rw [State.chainGiven, h]

end

/-- The multiply-accumulates of an interval are counted (R342). -/
def Telemetry.countMacs (t : Telemetry) (eight : Bool) (n : Nat) : Telemetry :=
  if eight then { t with mac8 := satAdd t.mac8 n } else { t with mac16 := satAdd t.mac16 n }

/-- The multiply-accumulates of interval `k` of a tile. -/
def LanePart.macs (x : LanePart) (k : Nat) : Nat :=
  ((x.ops.span x.cmd x.job x.tile k).2 - (x.ops.span x.cmd x.job x.tile k).1) * x.tile.rows.length * x.tile.cols

/-- The command's job once the tile's next interval has been filled. -/
def LanePart.filledJob (x : LanePart) : ProdJob :=
  x.job.modRun x.run.tile (fun y => y.fillOne (x.ops.intervals x.cmd x.job x.tile))

/-- An unchained tile's interval fills its banks, its command's run counts it. -/
theorem State.fillMember_unchained (hchain : s.chainOf x.cmd = none) (raw start : Nat) (useB : Bool) (given : List (Option Nat)) :
    ∃ r, State.fillMember c raw start useB given s (x, true) =
      ({ s with
        lane := s.lane.fill c x useB (s.fillData c x x.run.filled raw start given)
        tel := s.tel.countMacs x.job.eight (x.macs x.run.filled)
        pow := s.pow.beat s.now x.groups, rts := r }).setJob c x.place x.filledJob := by
  let d := s.fillData c x x.run.filled raw start given
  let u : State := { s with
    lane := s.lane.fill c x useB d, tel := s.tel.countMacs x.job.eight (x.macs x.run.filled), pow := s.pow.beat s.now x.groups }
  obtain ⟨r1, hopa⟩ := u.recordStats_eq x.ops.opa d.opaVals
  obtain ⟨r2, hdy⟩ := (u.recordStats x.ops.opa d.opaVals).recordStats_eq x.ops.dy d.dyVals
  have hstats : (u.recordStats x.ops.opa d.opaVals).recordStats x.ops.dy d.dyVals = { u with rts := r2 } := by rw [hdy, hopa]
  refine ⟨r2, ?_⟩
  unfold State.fillMember
  simp only [Bool.true_or, if_true]
  rw [State.chainUse_unchained hchain]
  exact congrArg (fun t : State => t.setJob c x.place x.filledJob) hstats

end

/-! ### Reading ahead (R154) -/

section
variable (s : State) (c : CtxNo) (seq : Word)

/-- What streams read ahead is a matter of requests and walks: no multiply-accumulate is counted. -/
theorem State.tel_prefetch (as : List Acc) : (s.prefetch c seq as).tel.mac8 = s.tel.mac8 ∧ (s.prefetch c seq as).tel.mac16 = s.tel.mac16 := by
  unfold State.prefetch
  induction as generalizing s with
  | nil => exact ⟨rfl, rfl⟩
  | cons a as ih =>
    obtain ⟨h8, h16⟩ := ih (State.prefetchAcc c seq s a)
    have hone : (State.prefetchAcc c seq s a).tel.mac8 = s.tel.mac8 ∧ (State.prefetchAcc c seq s a).tel.mac16 = s.tel.mac16 := by
      unfold State.prefetchAcc
      split
      · exact ⟨rfl, rfl⟩
      · exact ⟨rfl, rfl⟩
    exact ⟨h8.trans hone.1, h16.trans hone.2⟩

end

/-! ### The interval of a slice in progress (R155, R237) -/

/-- A part of a tile in progress is its command's, at the command's place. -/
theorem State.mem_partsAt {s : State} {c : CtxNo} {lead : Word} {n : Nat} {x : LanePart} (h : x ∈ s.partsAt c lead n) :
    (s.ctx c).cmds[x.place]? = some x.cmd ∧ x.run.tile = n := by
  obtain ⟨⟨i, m⟩, hplaced, hpart⟩ := List.mem_filterMap.1 h
  have hcmd : (s.ctx c).cmds[i]? = some m := by
    obtain ⟨k, hk, hget⟩ := List.mem_iff_getElem.1 hplaced
    simp only [Context.placed, List.getElem_zip, List.getElem_range, Prod.mk.injEq] at hget
    obtain ⟨rfl, rfl⟩ := hget
    exact List.getElem?_eq_getElem _
  unfold State.partOf at hpart
  split at hpart
  · split at hpart
    · cases hpart
    · split at hpart
      next r _ hrun =>
        cases hpart
        exact ⟨hcmd, by simpa using List.find?_some hrun⟩
      · cases hpart
  · cases hpart

/-- The bank that the tile's next interval takes (R45). -/
def LanePart.nextBank (x : LanePart) : Bool := xor x.run.firstB (x.run.filled % 2 == 1)

/-- The A-stream elements of an unchained tile's next interval: no chain gives any. -/
def LanePart.given (x : LanePart) : List (Option Nat) :=
  (x.ops.opaElems x.cmd x.job x.tile x.run.filled x.tile.rows).map (fun _ => none)

/-- The accesses of an unchained tile's next interval. -/
def LanePart.nextAccs (x : LanePart) : List Acc := partAccs [x] x.run.filled x.given

/-- The next unit of a part of the slice has begun (R239). -/
def State.unitBegun (s : State) (w : SlicePart) : State := { s with lane := s.lane.beginUnit w.seq w.tile s.now }

/-- The tile's interval has been filled from the state in which its unit was opened. -/
def State.intervalFilled (v s : State) (c : CtxNo) (w : SlicePart) (x : LanePart) : State :=
  State.fillMember c (v.partEst c [x] x.run.filled) (w.begun.getD s.now) x.nextBank x.given v (x, true)

section
variable {s v : State} {c : CtxNo} {w : SlicePart} {x : LanePart}

theorem State.fillPart_fills (hparts : s.partsAt c w.seq w.tile = [x]) (hchain : s.chainOf x.cmd = none)
    (hroom : s.lane.room x.groups x.nextBank (x.ops.beatCount x.cmd x.job x.tile x.run.filled) = true)
    (hready : s.pow.readyFor x.groups x.job.eight = true) (hopen : (s.unitBegun w).openAll c w.seq x.nextAccs = (true, v)) :
    ∃ as, s.fillPart c w = (({ v.intervalFilled s c w x with
      lane := (v.intervalFilled s c w x).lane.startUnit w.seq w.tile }).closeUnit c w.seq x.nextAccs).prefetch c w.seq as := by
  obtain ⟨-, htile⟩ := State.mem_partsAt (s := s) (c := c) (by rw [hparts]; exact List.mem_singleton_self x)
  have hgiven : s.chainGiven x.cmd x.ops x.job w.tile x.run.filled = x.given := by
    rw [State.chainGiven_unchained hchain, ← htile]
    rfl
  have hgroups : [x].flatMap LanePart.groups = x.groups := by simp
  unfold State.unitBegun LanePart.nextAccs at hopen
  unfold LanePart.nextBank at hroom
  unfold State.fillPart
  simp only [hparts, hgroups, hroom, hready, State.chainTake_unchained hchain, State.beatsReady_unchained hchain, hgiven, hopen,
    Bool.not_true, Bool.false_eq_true, if_false]
  exact ⟨_, rfl⟩

/-- SLICE with one product tile in its slice that has units left fills the tile's next interval. -/
theorem exec_slice_fills {r : SliceRun} {i : Nat} {m : Cmd} {j : ProdJob} (hup : s.up = true) (hphase : m.phase = .running (.product j))
    (hslice : s.lane.slice = some r) (hone : r.parts = [w]) (hleft : w.left ≠ 0) (hactive : s.active r.ctx = true)
    (hcmd : s.runningCmd r.ctx w.seq = some (i, m)) : exec .slice s = .next (s.fillPart r.ctx w) := by
  have halert : s.alert r.ctx = true := by
    simp only [State.active, Bool.and_eq_true] at hactive
    exact hactive.1.1.1
  change Host.Outcome.next (match s.lane.slice with | some r => s.sliceRun r | none => s.takePrio.slicePick) = _
  rw [hslice]
  simp [State.sliceRun, hup, hone, State.partOver, hleft, hcmd, halert, State.slicePart, hactive, hphase]

/-- What an unchained tile's filled interval leaves alone besides its commands, lane bank, counts and range banks. -/
theorem State.intervalFilled_eq (hchain : v.chainOf x.cmd = none) :
    ∃ r f, v.intervalFilled s c w x = ({ v with
        lane := v.lane.fill c x x.nextBank f
        tel := v.tel.countMacs x.job.eight (x.macs x.run.filled)
        pow := v.pow.beat v.now x.groups, rts := r }).setJob c x.place x.filledJob
      ∧ ∃ fl, f.it = x.ops.intervalOf x.cmd x.job c x.run x.run.filled (w.begun.getD s.now) (v.partEst c [x] x.run.filled) fl := by
  obtain ⟨r, hr⟩ := State.fillMember_unchained (c := c) hchain (v.partEst c [x] x.run.filled) (w.begun.getD s.now) x.nextBank x.given
  exact ⟨r, _, hr, _, rfl⟩

/-- What a slice's interval that has been filled leaves: its banks, its run and its counts. -/
structure FillsInterval (s v : State) (c : CtxNo) (r : SliceRun) (w : SlicePart) (x : LanePart) (t : State) : Prop where
  slice : t.lane.slice = some { r with parts := [{ w with left := w.left - 1, begun := none }] }
  banks : ∃ f, ∀ h ∈ x.groups, (s.lane.bank h x.nextBank).interval = none → t.lane.Holds h x.nextBank
    (x.ops.intervalOf x.cmd x.job c x.run x.run.filled (w.begun.getD s.now) (v.partEst c [x] x.run.filled) f)
  run : PhaseAt t c x.place (.running (.product x.filledJob))
  macs : (if x.job.eight then t.tel.mac8 else t.tel.mac16) =
    satAdd (if x.job.eight then s.tel.mac8 else s.tel.mac16) (x.macs x.run.filled)
  mem : SameMem s t
  slots : t.slots = s.slots

/-- What reading ahead may change. -/
def aheadPieces : List Piece := [.walks, .reqs, .sent, .tel]

/-- Freeing the unit's streams and reading ahead keep what the interval left. -/
theorem FillsInterval.closed {r : SliceRun} {z : State} (h : FillsInterval s v c r w x z) (seq : Word) (bs as : List Acc) :
    FillsInterval s v c r w x ((z.closeUnit c seq bs).prefetch c seq as) := by
  have hahead : Fr aheadPieces (z.closeUnit c seq bs) ((z.closeUnit c seq bs).prefetch c seq as) :=
    Fr.prefetch (Fr.refl _ _) c seq as (by decide) (by decide) (by decide) (by decide)
  have hlane : ((z.closeUnit c seq bs).prefetch c seq as).lane = z.lane :=
    (hahead.same .lane (by decide)).trans (State.closeUnit_lane z c seq bs)
  have hctx : ((z.closeUnit c seq bs).prefetch c seq as).ctx c = (z.closeUnit c seq bs).ctx c :=
    hahead.same (.ctx c) (by simp [aheadPieces])
  obtain ⟨h8, h16⟩ := State.tel_prefetch (z.closeUnit c seq bs) c seq as
  rw [State.closeUnit_tel] at h8 h16
  obtain ⟨f, hbanks⟩ := h.banks
  refine ⟨hlane ▸ h.slice, ⟨f, fun g hgroup hempty => hlane ▸ hbanks g hgroup hempty⟩, ?_, ?_, ?_, ?_⟩
  · exact (phaseAt_congr (((SameWork.closeUnit z c seq bs).cmds c).symm.trans (congrArg Context.cmds hctx).symm)).1 h.run
  · rw [h8, h16]
    exact h.macs
  · exact (h.mem.trans (.closeUnit z c seq bs)).trans (hahead.sameMem (by decide) (by decide))
  · exact (hahead.same .slots (by decide)).trans ((State.closeUnit_slots z c seq bs).trans h.slots)

/-- The unit of a slice that has one part has begun and is started. -/
theorem Lane.slice_startUnit {l : Lane} {r : SliceRun} {b : Option Nat} (h : l.slice = some { r with parts := [{ w with begun := b }] }) :
    (l.startUnit w.seq w.tile).slice = some { r with parts := [{ w with left := w.left - 1, begun := none }] } := by
  simp [Lane.startUnit, h]

theorem FillsInterval.of_open {r : SliceRun} (hslice : s.lane.slice = some r) (hone : r.parts = [w])
    (hparts : s.partsAt c w.seq w.tile = [x]) (hchain : s.chainOf x.cmd = none)
    (hopen : (s.unitBegun w).openAll c w.seq x.nextAccs = (true, v)) :
    FillsInterval s v c r w x { v.intervalFilled s c w x with lane := (v.intervalFilled s c w x).lane.startUnit w.seq w.tile } := by
  obtain ⟨hcmd, -⟩ := State.mem_partsAt (s := s) (c := c) (by rw [hparts]; exact List.mem_singleton_self x)
  obtain ⟨rts, f, hfilled, fl, hit⟩ := State.intervalFilled_eq (s := s) (c := c) (w := w) (State.chainOf_unchained (t := v) hchain)
  have hwork : SameWork (s.unitBegun w) v := .of_openAll hopen
  have hlane : v.lane = s.lane.beginUnit w.seq w.tile s.now := by
    have h := (s.unitBegun w).openAll_lane c w.seq x.nextAccs
    rwa [hopen] at h
  have htel : v.tel = s.tel := by
    have h := (s.unitBegun w).openAll_tel c w.seq x.nextAccs
    rwa [hopen] at h
  have hmem : SameMem s v := (SameMem.of_eq (t := s.unitBegun w) rfl rfl).trans (.of_openAll hopen)
  rw [hfilled]
  refine ⟨?slice, ⟨fl, fun h hgroup hempty => ?bank⟩, ?run, ?macs, hmem.trans (.of_eq rfl rfl), hwork.slots⟩
  case slice =>
    have hbegun : (v.lane.fill c x x.nextBank f).slice = some { r with parts := [{ w with begun := some (w.begun.getD s.now) }] } := by
      rw [Lane.slice_fill, hlane]
      simp [Lane.beginUnit, hslice, hone]
    exact Lane.slice_startUnit hbegun
  case bank =>
    have hold := Lane.Holds.fill v.lane c x x.nextBank f hgroup (by rw [hlane]; exact hempty)
    rw [hit] at hold
    exact ⟨hold.drains, hold.interval⟩
  case run =>
    have hat : (v.ctx c).cmds[x.place]? = some x.cmd := (congrArg (·[x.place]?) (hwork.cmds c)).trans hcmd
    exact State.phase_setPhase _ hat _
  case macs =>
    change (if x.job.eight then (v.tel.countMacs x.job.eight (x.macs x.run.filled)).mac8
      else (v.tel.countMacs x.job.eight (x.macs x.run.filled)).mac16) = _
    rw [htel]
    cases x.job.eight <;> rfl

end

end Sys2Proof.Machine
end

section
/-! SUPPORT. The settling of SLICE (R205, R237 to R244): its first slice on an idle lane bank, and its intervals while it is in progress. -/

namespace Sys2Proof.Machine

/-- Settles O47: an idle lane bank's slice is what `admitTile` takes of the only placeable tile (`SliceBegins`), or nothing but the tick's mark;
a slice in progress fills its tile's next interval, and freeing its streams and reading ahead keep that (`FillsInterval`). -/
theorem slicesAdmitAndFill : Obligations.SlicesAdmitAndFill := by
  unfold Obligations.SlicesAdmitAndFill
  intro s v c i n m j x r w hup hphase
  refine ⟨fun hidle hadmits hprio hpick hready => ?admits, ?fills⟩
  case admits =>
    intro a hopen hwaits hcmd htiles hplaced htile hparts first pro cost large k
    have hexec := exec_slice_admits hphase hidle hadmits hprio hpick hready hopen hwaits hcmd htiles hplaced
    have hfit : a.admitTile c false j.lead n = ⟨n, k, large, partFills [x]⟩ := by
      have hcost : a.unitCost c x = cost := funext fun u => by rw [State.unitCost, State.ctx_prepareFor]
      rw [State.admitTile_one hparts, State.unitsTaken, State.oversizedUnit, hcost, State.ctx_prepareFor, State.remaining_prepareFor,
        State.fullReserve_prepareFor]
    refine ⟨fun hk hchannels => ?_, fun hk => ?_⟩
    · have hprepared := State.eq_of_channels hchannels
      have hpow : v.pow = a.pow := by rw [hprepared]
      have hbegins := (SliceBegins.sliceBegun v c j ⟨n, k, large, partFills [x]⟩).of_prepared hprepared
      rw [State.admitProduct_begins htile hfit hk hchannels] at hexec
      exact ⟨_, hexec, hpow ▸ hbegins.eq, hbegins.lane, hbegins.turn, hbegins.turns, hbegins.others, hbegins.sliced, hbegins.slices⟩
    · rw [State.admitProduct_none htile hfit hk] at hexec
      exact ⟨_, hexec, OnlyCtx.modCtx a c _, by rw [State.ctx_modCtx_same, State.ctx_prepareFor]⟩
  case fills =>
    intro hslice hone hleft hactive hcmd hparts hchain k useB g hroom hready hopen
    obtain ⟨as, hfill⟩ := State.fillPart_fills hparts hchain hroom hready hopen
    have hexec := exec_slice_fills hup hphase hslice hone hleft hactive hcmd
    have hfills := (FillsInterval.of_open hslice hone hparts hchain hopen).closed w.seq x.nextAccs as
    rw [← hfill] at hfills
    obtain ⟨f, hbanks⟩ := hfills.banks
    exact ⟨_, f, hexec, hfills.slice, fun h hgroup hempty => ⟨(hbanks h hgroup hempty).drains, (hbanks h hgroup hempty).interval⟩,
      hfills.run, hfills.macs, hfills.mem, hfills.slots⟩

end Sys2Proof.Machine
end

section
/-! SUPPORT. The frame of every command: the pieces of the state that `mayChange` names for it. What most commands change is `Fr` of their
shared operation; the rest are updates of one register block, and small case splits over such operations. -/

namespace Sys2Proof.Machine

-- One after another: checked at once, the proofs would wait for the equations of `mayChange` in a thread each.
set_option Elab.async false

/-! ### The named lists of pieces -/

section
variable (p : Piece)

@[simp] theorem mem_translating : p ∈ translating ↔ p = .tlb ∨ p = .walks := by simp [translating]

@[simp] theorem mem_waiting : p ∈ waiting ↔ p = .sent ∨ p = .waits := by simp [waiting]

@[simp] theorem mem_reading : p ∈ reading ↔ p = .reqs ∨ p = .ckpt ∨ p ∈ waiting ∨ p ∈ translating := by simp [reading]

@[simp] theorem mem_storing : p ∈ storing ↔ p = .core ∨ p = .remote ∨ p ∈ reading := by simp [storing]

@[simp] theorem mem_posting : p ∈ posting ↔ p = .core ∨ p = .remote ∨ p = .evt ∨ p ∈ translating := by simp [posting]

@[simp] theorem mem_leaving : p ∈ leaving ↔ p = .free ∨ p = .chains ∨ p = .chainOut ∨ p = .tel ∨ p ∈ posting := by simp [leaving]

@[simp] theorem mem_stopping : p ∈ stopping ↔ p = .schedTurn ∨ p = .slots ∨ p = .lane ∨ p = .staging ∨ p = .dovetail ∨ p = .reqs ∨ p = .ckpt
    ∨ p ∈ waiting ∨ p ∈ leaving := by simp [stopping]

@[simp] theorem mem_logging : p ∈ logging ↔ p = .eng ∨ p = .log ∨ p = .mgmt := by simp [logging]

@[simp] theorem mem_portWork : p ∈ portWork ↔ p = .evt ∨ p = .port ∨ p ∈ storing := by simp [portWork]

@[simp] theorem ctx_mem_everyCtx (c : CtxNo) : Piece.ctx c ∈ everyCtx := Fr.mem_everyCtx c

end

/-! ### Updates of one piece, and choices -/

section
variable {ks : List Piece} {s t u : State}

theorem Fr.ite {P : Prop} [Decidable P] (h : Fr ks s t) (k : Fr ks s u) : Fr ks s (if P then t else u) := by
  split
  · exact h
  · exact k

theorem Fr.withEng (h : Fr ks s t) (x : Engine) (k : Piece.eng ∈ ks) : Fr ks s { t with eng := x } := by
  refine ⟨fun p hp => ?_⟩
  cases p
  case eng => exact absurd k hp
  all_goals exact h.same _ hp

theorem Fr.withTick (h : Fr ks s t) (x : Tick) (k : Piece.tick ∈ ks) : Fr ks s { t with tick := x } := by
  refine ⟨fun p hp => ?_⟩
  cases p
  case tick => exact absurd k hp
  all_goals exact h.same _ hp

theorem Fr.withPow (h : Fr ks s t) (x : Power) (k : Piece.pow ∈ ks) : Fr ks s { t with pow := x } := by
  refine ⟨fun p hp => ?_⟩
  cases p
  case pow => exact absurd k hp
  all_goals exact h.same _ hp

theorem Fr.withSec (h : Fr ks s t) (x : Security) (k : Piece.sec ∈ ks) : Fr ks s { t with sec := x } := by
  refine ⟨fun p hp => ?_⟩
  cases p
  case sec => exact absurd k hp
  all_goals exact h.same _ hp

theorem Fr.withMgmt (h : Fr ks s t) (x : Mgmt) (k : Piece.mgmt ∈ ks) : Fr ks s { t with mgmt := x } := by
  refine ⟨fun p hp => ?_⟩
  cases p
  case mgmt => exact absurd k hp
  all_goals exact h.same _ hp

theorem Fr.withBist (h : Fr ks s t) (x : SelfTest) (k : Piece.bist ∈ ks) : Fr ks s { t with bist := x } := by
  refine ⟨fun p hp => ?_⟩
  cases p
  case bist => exact absurd k hp
  all_goals exact h.same _ hp

theorem Fr.withTrain (h : Fr ks s t) (x : Vector Train 6) (k : Piece.train ∈ ks) : Fr ks s { t with train := x } := by
  refine ⟨fun p hp => ?_⟩
  cases p
  case train => exact absurd k hp
  all_goals exact h.same _ hp

theorem Fr.withRisk (h : Fr ks s t) (x : Risk) (k : Piece.risk ∈ ks) : Fr ks s { t with risk := x } := by
  refine ⟨fun p hp => ?_⟩
  cases p
  case risk => exact absurd k hp
  all_goals exact h.same _ hp

theorem Fr.withRegions (h : Fr ks s t) (x : Tbl (BitVec 128)) (k : Piece.regions ∈ ks) : Fr ks s { t with regions := x } := by
  refine ⟨fun p hp => ?_⟩
  cases p
  case regions => exact absurd k hp
  all_goals exact h.same _ hp

theorem Fr.withGroups (h : Fr ks s t) (x : Vector (BitVec 256) 16) (k : Piece.groups ∈ ks) : Fr ks s { t with groups := x } := by
  refine ⟨fun p hp => ?_⟩
  cases p
  case groups => exact absurd k hp
  all_goals exact h.same _ hp

end

/-! ### Commands of more than one operation -/

section
variable (s : State)

theorem execNop_frame (c : CtxNo) : ∃ t, execNop c s = .next t ∧ Fr (mayChange (.nop c)) s t := by
  have k := Fr.refl (mayChange (.nop c)) s
  refine ⟨_, rfl, ?_⟩
  split
  · apply @Fr.finish _ _ _ k <;> simp [mayChange]
  · exact k

theorem execFence_frame (c : CtxNo) : ∃ t, execFence c s = .next t ∧ Fr (mayChange (.fence c)) s t := by
  have k := Fr.refl (mayChange (.fence c)) s
  refine ⟨_, rfl, ?_⟩
  split
  · exact .ite (by apply @Fr.finish _ _ _ k <;> simp [mayChange]) k
  · exact k

theorem execBucketSend_frame (c : CtxNo) : ∃ t, execBucketSend c s = .next t ∧ Fr (mayChange (.bucketSend c)) s t := by
  have k := Fr.refl (mayChange (.bucketSend c)) s
  have started : Fr (mayChange (.bucketSend c)) s (s.startBucket c 0x20 (.send 0)) := by apply k.startBucket <;> simp [mayChange]
  exact ⟨_, rfl, .ite (by apply started.portStep <;> simp [mayChange]) k⟩

theorem execBucketRecv_frame (c : CtxNo) : ∃ t, execBucketRecv c s = .next t ∧ Fr (mayChange (.bucketRecv c)) s t := by
  have k := Fr.refl (mayChange (.bucketRecv c)) s
  have started : Fr (mayChange (.bucketRecv c)) s (s.startBucket c 0x21 (.recv 0 0 0xFFFF 0 0 0 false false)) := by
    apply k.startBucket <;> simp [mayChange]
  exact ⟨_, rfl, .ite (by apply started.portStep <;> simp [mayChange]) k⟩

theorem execLateInput_frame (job : BitVec 12) (input : Fin 5) :
    ∃ t, execLateInput job input s = .next t ∧ Fr (mayChange (.lateInput job input)) s t := by
  have k := Fr.refl (mayChange (.lateInput job input)) s
  refine ⟨_, rfl, .ite k ?_⟩
  split
  case h_1 i _ =>
    have taken : Fr (mayChange (.lateInput job input)) s (s.late i) := by apply k.late <;> simp [mayChange]
    apply taken.portStep <;> simp [mayChange]
  case h_2 => exact k

theorem execReceiveBufferCredit_frame (ch : Chan) (job : BitVec 12) :
    ∃ t, execReceiveBufferCredit ch job s = .next t ∧ Fr (mayChange (.receiveBufferCredit ch job)) s t := by
  have k := Fr.refl (mayChange (.receiveBufferCredit ch job)) s
  have credited := k.modCh ch (fun x => x.credit job) (by simp [mayChange])
  exact ⟨_, rfl, .ite (by apply credited.portStep <;> simp [mayChange]) k⟩

theorem execContextResetComplete_frame (c : CtxNo) :
    ∃ t, execContextResetComplete c s = .next t ∧ Fr (mayChange (.contextResetComplete c)) s t := by
  have k := Fr.refl (mayChange (.contextResetComplete c)) s
  have looked := k.headerLookup c (by simp [mayChange])
  exact ⟨_, rfl, .ite k (.ite (by apply @Fr.resetCtx _ _ _ looked <;> simp [mayChange]) looked)⟩

theorem execBarrierPoll_frame (c : CtxNo) : ∃ t, execBarrierPoll c s = .next t ∧ Fr (mayChange (.barrierPoll c)) s t := by
  have k := Fr.refl (mayChange (.barrierPoll c)) s
  refine ⟨_, rfl, .ite k ?_⟩
  split
  · exact .ite (by apply k.poll <;> simp [mayChange]) k
  · exact k

theorem execBarrierTimeout_frame (c : CtxNo) :
    ∃ t, execBarrierTimeout c s = .next t ∧ Fr (mayChange (.barrierTimeout c)) s t := by
  have k := Fr.refl (mayChange (.barrierTimeout c)) s
  have settled : Fr (mayChange (.barrierTimeout c)) s (s.settleUnits c) := by apply @Fr.settleUnits _ _ _ k <;> simp [mayChange]
  refine ⟨_, rfl, .ite k ?_⟩
  split
  case h_1 i _ v seen n _ _ _ =>
    refine .ite ?_ k
    have parked := (settled.setPhase c i (.running (.waitCounter v seen n false true)) (by simp [mayChange])).modCtx c
      (fun y => { y with state := .parked, parkCause := 1 }) (by simp [mayChange])
    apply parked.event <;> simp [mayChange]
  case h_2 => exact k

theorem execSlice_frame : ∃ t, execSlice s = .next t ∧ Fr (mayChange .slice) s t := by
  have k := Fr.refl (mayChange .slice) s
  refine ⟨_, rfl, ?_⟩
  split
  · apply k.sliceRun <;> simp [mayChange]
  · have taken : Fr (mayChange .slice) s s.takePrio := by apply Fr.takePrio k <;> simp [mayChange]
    apply Fr.slicePick taken <;> simp [mayChange]

theorem execBindingWordWrite_frame (c : CtxNo) (secure : Bool) (v : Word) :
    ∃ t, execBindingWordWrite c secure v s = .next t ∧ Fr (mayChange (.bindingWordWrite c secure v)) s t := by
  have k := Fr.refl (mayChange (.bindingWordWrite c secure v)) s
  have bound := k.modCtx c (fun x => { x with key := ⟨fld v 0 4, Nat.mod_lt _ (by decide)⟩, bound := bitAt v 4 }) (by simp [mayChange])
  have refused : Fr (mayChange (.bindingWordWrite c secure v)) s (s.denied (mgmtOffset 0x3200 (64 + c.val))) := by
    apply @Fr.denied _ _ _ k <;> simp [mayChange]
  exact ⟨_, rfl, by apply @Fr.secureWrite _ _ _ _ k (.ite bound refused) <;> simp [mayChange]⟩

theorem execKeyCommit_frame (secure : Bool) (v : Word) :
    ∃ t, execKeyCommit secure v s = .next t ∧ Fr (mayChange (.keyCommit secure v)) s t := by
  have k := Fr.refl (mayChange (.keyCommit secure v)) s
  have committed : Fr (mayChange (.keyCommit secure v)) s (if h : v.toNat < 16
      then { s.takeKey with sec := { s.takeKey.sec with pendKey := some (⟨v.toNat, h⟩, s.mgmt.key) } } else s.commitError) := by
    split
    · exact (k.takeKey (by simp [mayChange])).withSec _ (by simp [mayChange])
    · exact k.commitError (by simp [mayChange])
  exact ⟨_, rfl, by apply @Fr.secureWrite _ _ _ _ k committed <;> simp [mayChange]⟩

theorem execRegionCommit_frame (secure : Bool) (v : Word) :
    ∃ t, execRegionCommit secure v s = .next t ∧ Fr (mayChange (.regionCommit secure v)) s t := by
  have k := Fr.refl (mayChange (.regionCommit secure v)) s
  refine ⟨_, rfl, ?_⟩
  refine k.secureWrite ?_ _ _ (by simp [mayChange]) (by simp [mayChange]) (by simp [mayChange]) (by simp [mayChange])
  split
  · exact k.withRegions _ (by simp [mayChange])
  · exact k.commitError (by simp [mayChange])

theorem execGroupCommit_frame (secure : Bool) (v : Word) :
    ∃ t, execGroupCommit secure v s = .next t ∧ Fr (mayChange (.groupCommit secure v)) s t := by
  have k := Fr.refl (mayChange (.groupCommit secure v)) s
  refine ⟨_, rfl, ?_⟩
  refine k.secureWrite ?_ _ _ (by simp [mayChange]) (by simp [mayChange]) (by simp [mayChange]) (by simp [mayChange])
  split
  · exact k.withGroups _ (by simp [mayChange])
  · exact k.commitError (by simp [mayChange])

theorem execExportSeq_frame (secure : Bool) (v : BitVec 64) :
    ∃ t, execExportSeq secure v s = .next t ∧ Fr (mayChange (.exportSeq secure v)) s t := by
  have k := Fr.refl (mayChange (.exportSeq secure v)) s
  have refused : Fr (mayChange (.exportSeq secure v)) s (s.denied (mgmtOffset 0x3300 96)) := by apply @Fr.denied _ _ _ k <;> simp [mayChange]
  exact ⟨_, rfl, by apply @Fr.secureWrite _ _ _ _ k (.ite refused (k.withSec _ _)) <;> simp [mayChange]⟩

theorem execSvnCommit_frame (secure : Bool) : ∃ t, execSvnCommit secure s = .next t ∧ Fr (mayChange (.svnCommit secure)) s t := by
  have k := Fr.refl (mayChange (.svnCommit secure)) s
  exact ⟨_, rfl, by apply @Fr.secureWrite _ _ _ _ k (k.withEng _ _) <;> simp [mayChange]⟩

theorem execRetainRequest_frame : ∃ t, execRetainRequest s = .next t ∧ Fr (mayChange .retainRequest) s t := by
  have k := Fr.refl (mayChange .retainRequest) s
  have asked (p : Power) (m : Mgmt) : Fr (mayChange .retainRequest) s { s with pow := p, mgmt := m } :=
    (k.withPow p (by simp [mayChange])).withMgmt m (by simp [mayChange])
  exact ⟨_, rfl, .ite k (.ite (asked s.pow _) ((asked _ _).retainNext (by simp [mayChange])))⟩

theorem execRetainExit_frame : ∃ t, execRetainExit s = .next t ∧ Fr (mayChange .retainExit) s t := by
  have k := Fr.refl (mayChange .retainExit) s
  have asked (p : Power) (m : Mgmt) : Fr (mayChange .retainExit) s { s with pow := p, mgmt := m } :=
    (k.withPow p (by simp [mayChange])).withMgmt m (by simp [mayChange])
  exact ⟨_, rfl, .ite (asked _ _) k⟩

theorem execDbgChallenge_frame : ∃ t, execDbgChallenge s = .next t ∧ Fr (mayChange .dbgChallenge) s t := by
  have k := Fr.refl (mayChange .dbgChallenge) s
  exact ⟨_, rfl, .ite k ((k.drawFree (by simp [mayChange])).withSec _ (by simp [mayChange]))⟩

theorem execDbgResponseVerified_frame : ∃ t, execDbgResponseVerified s = .next t ∧ Fr (mayChange .dbgResponseVerified) s t := by
  have k := Fr.refl (mayChange .dbgResponseVerified) s
  have entry (x : Security) (cls : BitVec 6) (sev : BitVec 2) (a b : BitVec 64) :
      Fr (mayChange .dbgResponseVerified) s (State.logErr { s with sec := x } cls sev 0x8 none a b) := by
    apply (k.withSec x (by simp [mayChange])).logErr <;> simp [mayChange]
  refine ⟨_, rfl, ?_⟩
  split
  · exact k
  · exact .ite k (.ite (entry ..) (entry ..))

theorem execOffRequest_frame : ∃ t, execOffRequest s = .next t ∧ Fr (mayChange .offRequest) s t := by
  refine ⟨_, rfl, ⟨fun p hp => ?_⟩⟩
  cases p
  case pending | now | free | core | remote => rfl
  all_goals exact absurd (by simp [mayChange, allButMemory]) hp

theorem execRampComplete_frame : ∃ t, execRampComplete s = .next t ∧ Fr (mayChange .rampComplete) s t := by
  have k := Fr.refl (mayChange .rampComplete) s
  refine ⟨_, rfl, ?_⟩
  split
  case h_1 r _ =>
    have ended : Fr (mayChange .rampComplete) s (s.rampDone r) := by apply @Fr.rampDone _ _ _ k <;> simp [mayChange]
    exact .ite (ended.retainNext (by simp [mayChange])) k
  case h_2 => exact k

theorem execPower_frame : ∃ t, execPower s = .next t ∧ Fr (mayChange .power) s t := by
  have k := Fr.refl (mayChange .power) s
  exact ⟨_, rfl, .ite (by apply (k.withPow _ _).logErr <;> simp [mayChange]) k⟩

theorem execQuickBist_frame (lanes : List (Fin 130)) (columns : List (BitVec 4 × Nat × Nat)) :
    ∃ t, execQuickBist lanes columns s = .next t ∧ Fr (mayChange (.quickBist lanes columns)) s t := by
  have k := Fr.refl (mayChange (.quickBist lanes columns)) s
  have tested := Fr.foldl (fun t (x : BitVec 4 × Nat × Nat) (h : Fr (mayChange (.quickBist lanes columns)) s t) =>
      show Fr _ s (t.quickColumn x.1.toNat x.2.1 x.2.2) by apply h.quickColumn <;> simp [mayChange]) columns
    (Fr.foldl (fun t (l : Fin 130) (h : Fr (mayChange (.quickBist lanes columns)) s t) =>
      show Fr _ s (t.quickLane l.val) by apply h.quickLane <;> simp [mayChange])
      (lanes.filter (fun l => decide (128 ≤ l.val)) ++ lanes.filter (fun l => decide (l.val < 128))) k)
  exact ⟨_, rfl, .ite k (.ite tested (tested.withEng _ (by simp [mayChange])))⟩

theorem execImageVerification_frame : ∃ t, execImageVerification s = .next t ∧ Fr (mayChange .imageVerification) s t := by
  have k := Fr.refl (mayChange .imageVerification) s
  refine ⟨_, rfl, .ite k ?_⟩
  split
  · exact (k.startStep 4 (by simp [mayChange])).withEng _ (by simp [mayChange])
  · have entry : Fr (mayChange .imageVerification) s (s.logErr 0x0C 3 0x8 none (BitVec.ofNat 64 s.imageCheck)
        (BitVec.ofNat 64 (fld s.jexloHeader 32 32))) := by apply k.logErr <;> simp [mayChange]
    exact entry.withMgmt _ (by simp [mayChange])

theorem execPositionRead_frame : ∃ t, execPositionRead s = .next t ∧ Fr (mayChange .positionRead) s t := by
  have k := Fr.refl (mayChange .positionRead) s
  have latched := ((k.startStep 5 (by simp [mayChange])).withEng { (s.startStep 5).eng with position := s.mgmt.position }
    (by simp [mayChange])).withTrain (s.train.map (fun t => { t with probing := true, nextProbe := s.now })) (by simp [mayChange])
  exact ⟨_, rfl, .ite k (.ite (by apply k.logErr <;> simp [mayChange]) latched)⟩

theorem execProbe_frame (ch : Chan) : ∃ t, execProbe ch s = .next t ∧ Fr (mayChange (.probe ch)) s t := by
  have k := Fr.refl (mayChange (.probe ch)) s
  have answered := (k.tookTrain ch (by simp [mayChange])).sendAck ch (by simp [mayChange])
  exact ⟨_, rfl, .ite k (.ite (by apply answered.modTrain <;> simp [mayChange]) answered)⟩

theorem execRetrain_frame (ch : Chan) (wrongPos : Option (BitVec 15)) :
    ∃ t, execRetrain ch wrongPos s = .next t ∧ Fr (mayChange (.retrain ch wrongPos)) s t := by
  have k := Fr.refl (mayChange (.retrain ch wrongPos)) s
  have again : Fr (mayChange (.retrain ch wrongPos)) s (s.retrainCh ch) := by apply k.retrainCh <;> simp [mayChange]
  refine ⟨_, rfl, .ite k ?_⟩
  cases wrongPos <;> exact .ite again k

theorem execAck_frame (ch : Chan) (step : BitVec 4) (pos : BitVec 15) :
    ∃ t, execAck ch step pos s = .next t ∧ Fr (mayChange (.ack ch step pos)) s t := by
  have k := Fr.refl (mayChange (.ack ch step pos)) s
  have met : Fr (mayChange (.ack ch step pos)) s ((s.tookTrain ch).meet ch pos) := by
    apply (k.tookTrain ch (by simp [mayChange])).meet <;> simp [mayChange]
  have named : Fr (mayChange (.ack ch step pos)) s (((s.tookTrain ch).meet ch pos).newPartner ch pos) := by
    apply met.newPartner <;> simp [mayChange]
  have put (f : Train → Train) := named.modTrain ch f (by simp [mayChange]) (by simp [mayChange])
  exact ⟨_, rfl, .ite k (.ite (put _) (.ite (put _) (put _)))⟩

theorem execTrainData_frame (ch : Chan) (p : Packet) :
    ∃ t, execTrainData ch p s = .next t ∧ Fr (mayChange (.trainData ch p)) s t := by
  have k := Fr.refl (mayChange (.trainData ch p)) s
  have met : Fr (mayChange (.trainData ch p)) s ((s.tookTrain ch).meet ch (BitVec.ofNat 15 p.pos)) := by
    apply (k.tookTrain ch (by simp [mayChange])).meet <;> simp [mayChange]
  exact ⟨_, rfl, .ite k (by apply met.modTrain <;> simp [mayChange])⟩

theorem execDigest_frame (ch : Chan) (pos : BitVec 15) (crc : BitVec 64) :
    ∃ t, execDigest ch pos crc s = .next t ∧ Fr (mayChange (.digest ch pos crc)) s t := by
  have k := Fr.refl (mayChange (.digest ch pos crc)) s
  have met : Fr (mayChange (.digest ch pos crc)) s ((s.tookTrain ch).meet ch pos) := by
    apply (k.tookTrain ch (by simp [mayChange])).meet <;> simp [mayChange]
  have put (f : Train → Train) := met.modTrain ch f (by simp [mayChange]) (by simp [mayChange])
  exact ⟨_, rfl, .ite k (.ite ((put _).sendAck ch (by simp [mayChange])) (by apply met.rxFail <;> simp [mayChange]))⟩

theorem execTrainingWindowEnd_frame : ∃ t, execTrainingWindowEnd s = .next t ∧ Fr (mayChange .trainingWindowEnd) s t := by
  have k := Fr.refl (mayChange .trainingWindowEnd) s
  have failed := Fr.foldl (fun t a (h : Fr (mayChange .trainingWindowEnd) s t) =>
    show Fr _ s (t.trainFail a) by apply h.trainFail <;> simp [mayChange]) allChans k
  exact ⟨_, rfl, .ite k (.ite (failed.startStep 6 (by simp [mayChange])) k)⟩

theorem execNeighbourReport_frame : ∃ t, execNeighbourReport s = .next t ∧ Fr (mayChange .neighbourReport) s t := by
  have k := Fr.refl (mayChange .neighbourReport) s
  have ready : Fr (mayChange .neighbourReport) s s.readyTables := by apply @Fr.readyTables _ _ _ k <;> simp [mayChange]
  exact ⟨_, rfl, .ite ((ready.report (by simp [mayChange])).startStep 7 (by simp [mayChange])) k⟩

theorem execLocalBoundary_frame : ∃ t, execLocalBoundary s = .next t ∧ Fr (mayChange .localBoundary) s t := by
  have k := Fr.refl (mayChange .localBoundary) s
  have counted (x : Tick) : Fr (mayChange .localBoundary) s { s with tick := x } := k.withTick x (by simp [mayChange])
  exact ⟨_, rfl, .ite k (.ite (counted _) (by apply (counted _).logErr <;> simp [mayChange]))⟩

theorem execTickBoundary_frame (temps : Vector (BitVec 16) 16) :
    ∃ t, execTickBoundary temps s = .next t ∧ Fr (mayChange (.tickBoundary temps)) s t := by
  have k := Fr.refl (mayChange (.tickBoundary temps)) s
  refine ⟨_, rfl, ?_⟩
  split
  · exact .ite (by apply k.boundary <;> simp [mayChange]) k
  · exact k

end

/-- Every command changes no piece but those that `mayChange` names for it. -/
theorem exec_frame (s : State) (i : Instr) : ∃ t, exec i s = .next t ∧ Fr (mayChange i) s t := by
  have k := Fr.refl (mayChange i) s
  cases i with
  | nop c => exact execNop_frame s c
  | gradw c => exact ⟨_, rfl, by apply k.startProduct <;> simp [mayChange]⟩
  | gradx c => exact ⟨_, rfl, by apply k.startProduct <;> simp [mayChange]⟩
  | reduce c => exact ⟨_, rfl, by apply k.startReduce <;> simp [mayChange]⟩
  | accload c => exact ⟨_, rfl, by apply k.startAccload <;> simp [mayChange]⟩
  | accstore c => exact ⟨_, rfl, by apply k.startAccstore <;> simp [mayChange]⟩
  | zeroSlot c => exact ⟨_, rfl, by apply k.startZeroSlot <;> simp [mayChange]⟩
  | zeroTensor c => exact ⟨_, rfl, by apply k.zeroTensor <;> simp [mayChange]⟩
  | descCreate c => exact ⟨_, rfl, by apply k.createDesc <;> simp [mayChange]⟩
  | descFree c => exact ⟨_, rfl, by apply k.freeDescCmd <;> simp [mayChange]⟩
  | xpose c => exact ⟨_, rfl, by apply k.copyCmd <;> simp [mayChange]⟩
  | permute c => exact ⟨_, rfl, by apply k.copyCmd <;> simp [mayChange]⟩
  | gatherAcc c => exact ⟨_, rfl, by apply k.startGather <;> simp [mayChange]⟩
  | qstat c => exact ⟨_, rfl, by apply k.qstat <;> simp [mayChange]⟩
  | qcal c => exact ⟨_, rfl, by apply k.qcal <;> simp [mayChange]⟩
  | bucketSend c => exact execBucketSend_frame s c
  | bucketRecv c => exact execBucketRecv_frame s c
  | digestRead c => exact ⟨_, rfl, by apply k.digestRead <;> simp [mayChange]⟩
  | taskBegin c => exact ⟨_, rfl, by apply k.beginTask <;> simp [mayChange]⟩
  | taskCommit c => exact ⟨_, rfl, by apply k.closing <;> simp [mayChange]⟩
  | taskDiscard c => exact ⟨_, rfl, by apply k.closing <;> simp [mayChange]⟩
  | barrierSignal c => exact ⟨_, rfl, by apply k.signal <;> simp [mayChange]⟩
  | barrierWait c => exact ⟨_, rfl, by apply k.startWait <;> simp [mayChange]⟩
  | fence c => exact execFence_frame s c
  | ckptArm c => exact ⟨_, rfl, by apply k.ckptArm <;> simp [mayChange]⟩
  | ctxExport c => exact ⟨_, rfl, by apply k.startExport <;> simp [mayChange]⟩
  | ctxImport c => exact ⟨_, rfl, by apply k.startImport <;> simp [mayChange]⟩
  | bistSlice c results => exact ⟨_, rfl, by apply k.bistSlice <;> simp [mayChange]⟩
  | chainSetup c => exact ⟨_, rfl, by apply k.setupChain <;> simp [mayChange]⟩
  | commandAdmission c => exact ⟨_, rfl, by apply k.admitNext <;> simp [mayChange]⟩
  | statusReply c => exact ⟨_, rfl, by apply k.postReply <;> simp [mayChange]⟩
  | eventRecord c => exact ⟨_, rfl, by apply k.postHeld <;> simp [mayChange]⟩
  | doorbell c v => exact ⟨_, rfl, by apply @Fr.writeTail _ _ _ k <;> simp [mayChange]⟩
  | cplHead c v => exact ⟨_, rfl, k.writeHead c v (by simp [mayChange])⟩
  | ctxCfg c v => exact ⟨_, rfl, k.writeCfg c _ (by simp [mayChange])⟩
  | enable c => exact ⟨_, rfl, k.control (k.modCtx c _ (by simp [mayChange])) c _ (by simp [mayChange])⟩
  | resume c => exact ⟨_, rfl, k.control (by apply k.resumeCtx <;> simp [mayChange]) c _ (by simp [mayChange])⟩
  | abort c => exact ⟨_, rfl, k.control (by apply k.abortCtx <;> simp [mayChange]) c _ (by simp [mayChange])⟩
  | reset c => exact ⟨_, rfl, k.control (by apply @Fr.beginReset _ _ _ k <;> simp [mayChange]) c _ (by simp [mayChange])⟩
  | contextResetComplete c => exact execContextResetComplete_frame s c
  | clearStall => exact ⟨_, rfl, k.writeClear _ (by simp [mayChange])⟩
  | clearMac => exact ⟨_, rfl, k.writeClear _ (by simp [mayChange])⟩
  | clearEnergy => exact ⟨_, rfl, k.writeClear _ (by simp [mayChange])⟩
  | clearIdle => exact ⟨_, rfl, k.writeClear _ (by simp [mayChange])⟩
  | clearMisc => exact ⟨_, rfl, k.writeClear _ (by simp [mayChange])⟩
  | clearTempMax => exact ⟨_, rfl, k.writeClear _ (by simp [mayChange])⟩
  | clearReduce => exact ⟨_, rfl, k.writeClear _ (by simp [mayChange])⟩
  | clearTick => exact ⟨_, rfl, k.writeClear _ (by simp [mayChange])⟩
  | clearOobSilent c => exact ⟨_, rfl, by apply @Fr.writeCtxClear _ _ _ k <;> simp [mayChange]⟩
  | clearIdx c => exact ⟨_, rfl, by apply @Fr.writeCtxClear _ _ _ k <;> simp [mayChange]⟩
  | clearSched c => exact ⟨_, rfl, by apply @Fr.writeCtxClear _ _ _ k <;> simp [mayChange]⟩
  | firstValid => exact ⟨_, rfl, k.logLater _ (by simp [mayChange])⟩
  | clearLost => exact ⟨_, rfl, k.logLater _ (by simp [mayChange])⟩
  | logSummary mask => exact ⟨_, rfl, k.logWrite _ (by simp [mayChange])⟩
  | logRdIdx v => exact ⟨_, rfl, k.writeRdIdx v (by simp [mayChange])⟩
  | jobRelease v => exact ⟨_, rfl, .ite (by apply k.releaseJob <;> simp [mayChange]) k⟩
  | tlbInvalAll => exact ⟨_, rfl, by apply (k.keepInvalLo _ (by simp [mayChange])).invalidate <;> simp [mayChange]⟩
  | tlbInvalPage page => exact ⟨_, rfl, by apply (k.keepInvalLo _ (by simp [mayChange])).invalidate <;> simp [mayChange]⟩
  | invalidationComplete => exact ⟨_, rfl, by apply k.invalComplete <;> simp [mayChange]⟩
  | registerWrite ofs width v => exact ⟨_, rfl, by apply k.writeReg <;> simp [mayChange]⟩
  | managementWrite reg secure v => exact ⟨_, rfl, by apply @Fr.mgmtWrite _ _ _ k <;> simp [mayChange]⟩
  | bindingWordWrite c secure v => exact execBindingWordWrite_frame s c secure v
  | exportSeq secure v => exact execExportSeq_frame s secure v
  | retainRequest => exact execRetainRequest_frame s
  | retainExit => exact execRetainExit_frame s
  | dbgChallenge => exact execDbgChallenge_frame s
  | dbgResponse level key r sig => exact ⟨_, rfl, .ite (k.withSec _ (by simp [mayChange])) k⟩
  | tickEdge => exact ⟨_, rfl, .ite k (.ite (k.withTick _ (by simp [mayChange])) (k.withTick _ (by simp [mayChange])))⟩
  | localBoundary => exact execLocalBoundary_frame s
  | tickBoundary temps => exact execTickBoundary_frame s temps
  | settlePoint c => exact ⟨_, rfl, by apply k.settlePoint <;> simp [mayChange]⟩
  | epochPoint => exact ⟨_, rfl, by apply k.epochPoint <;> simp [mayChange]⟩
  | guardRead c => exact ⟨_, rfl, by apply k.guardRead <;> simp [mayChange]⟩
  | earlyDiscard c => exact ⟨_, rfl, by apply k.earlyDiscard <;> simp [mayChange]⟩
  | barrierPoll c => exact execBarrierPoll_frame s c
  | barrierTimeout c => exact execBarrierTimeout_frame s c
  | slice => exact execSlice_frame s
  | drain g => exact ⟨_, rfl, .ite (by apply k.drainGroup <;> simp [mayChange]) k⟩
  | preload c => exact ⟨_, rfl, by apply k.preloadRows <;> simp [mayChange]⟩
  | segmentMerge c => exact ⟨_, rfl, by apply k.segMerge <;> simp [mayChange]⟩
  | mergeAddition c => exact ⟨_, rfl, by apply k.mergeAdd <;> simp [mayChange]⟩
  | writeBack c => exact ⟨_, rfl, by apply k.writeBack <;> simp [mayChange]⟩
  | clipWindowEnd n => exact ⟨_, rfl, k.windowEnd _ (by simp [mayChange])⟩
  | headerUpdate c => exact ⟨_, rfl, by apply k.headerUpdate <;> simp [mayChange]⟩
  | journalCapture c => exact ⟨_, rfl, by apply k.capture <;> simp [mayChange]⟩
  | pageCopy c => exact ⟨_, rfl, by apply k.pageCopy <;> simp [mayChange]⟩
  | gleanerWindow c => exact ⟨_, rfl, by apply k.gleaner <;> simp [mayChange]⟩
  | requestComplete idx ecc => exact ⟨_, rfl, by apply k.requestDone <;> simp [mayChange]⟩
  | correctedWriteBack unit word => exact ⟨_, rfl, .ite (k.withBist _ (by simp [mayChange])) k⟩
  | walk page found => exact ⟨_, rfl, by apply k.walkDone <;> simp [mayChange]⟩
  | park c => exact ⟨_, rfl, by apply k.park <;> simp [mayChange]⟩
  | chainBeat e chainId seq beat sig data => exact ⟨_, rfl, by apply k.chainBeat <;> simp [mayChange]⟩
  | credit src => exact ⟨_, rfl, .ite (k.settleChain _ _ (by simp [mayChange]) (by simp [mayChange])) k⟩
  | detach e cause => exact ⟨_, rfl, by apply k.detach <;> simp [mayChange]⟩
  | detachNotification e fromSucc neighbour terms => exact ⟨_, rfl, .ite (k.settleChain _ _ (by simp [mayChange]) (by simp [mayChange])) k⟩
  | data ch p => exact ⟨_, rfl, by apply k.packetIn <;> simp [mayChange]⟩
  | result ch p => exact ⟨_, rfl, by apply k.packetIn <;> simp [mayChange]⟩
  | backup p => exact ⟨_, rfl, by apply k.packetIn <;> simp [mayChange]⟩
  | abortPacket ch p => exact ⟨_, rfl, by apply k.packetIn <;> simp [mayChange]⟩
  | lateInput job input => exact execLateInput_frame s job input
  | probe ch => exact execProbe_frame s ch
  | ack ch step pos => exact execAck_frame s ch step pos
  | probeSend ch => exact ⟨_, rfl, .ite k ((k.modTrain ch _ (by simp [mayChange]) (by simp [mayChange])).sendTrain ch _ (by simp [mayChange]))⟩
  | trainData ch p => exact execTrainData_frame s ch p
  | digest ch pos crc => exact execDigest_frame s ch pos crc
  | trainingTimeout ch => exact ⟨_, rfl, .ite (by apply k.rxFail <;> simp [mayChange]) k⟩
  | retrain ch wrongPos => exact execRetrain_frame s ch wrongPos
  | gnt => exact ⟨_, rfl, .ite (by apply k.startRamp <;> simp [mayChange]) k⟩
  | laneGroupRelease g => exact ⟨_, rfl, .ite k (k.withPow _ (by simp [mayChange]))⟩
  | power => exact execPower_frame s
  | fallowSlice results => exact ⟨_, rfl, by apply @Fr.fallow _ _ _ k <;> simp [mayChange]⟩
  | forcedReservation => exact ⟨_, rfl, .ite (k.withBist _ (by simp [mayChange])) k⟩
  | bankRewrite unit bank => exact ⟨_, rfl, by apply k.bankRewrite <;> simp [mayChange]⟩
  | riskWindowEnd => exact ⟨_, rfl, .ite (k.withRisk _ (by simp [mayChange])) k⟩
  | resetRelease => exact ⟨_, rfl, .ite ((k.startStep 1 (by simp [mayChange])).withPow _ (by simp [mayChange])) k⟩
  | quickBist lanes columns => exact execQuickBist_frame s lanes columns
  | imageVerification => exact execImageVerification_frame s
  | positionRead => exact execPositionRead_frame s
  | trainingWindowEnd => exact execTrainingWindowEnd_frame s
  | receiveBufferCredit ch job => exact execReceiveBufferCredit_frame s ch job
  | tableLoad c => exact ⟨_, rfl, by apply k.tableLoad <;> simp [mayChange]⟩
  | assumePosition c => exact ⟨_, rfl, by apply k.assumePosition <;> simp [mayChange]⟩
  | keyCommit secure v => exact execKeyCommit_frame s secure v
  | keyWriteEffect => exact ⟨_, rfl, .ite (k.takeKey (by simp [mayChange])) k⟩
  | regionCommit secure v => exact execRegionCommit_frame s secure v
  | groupCommit secure v => exact execGroupCommit_frame s secure v
  | svnCommit secure => exact execSvnCommit_frame s secure
  | dbgResponseVerified => exact execDbgResponseVerified_frame s
  | lock => exact ⟨_, rfl, .ite (k.withSec _ (by simp [mayChange])) k⟩
  | offRequest => exact execOffRequest_frame s
  | rampComplete => exact execRampComplete_frame s
  | neighbourReport => exact execNeighbourReport_frame s

/-- Settles O58: what the command leaves is the state of `exec_frame`. -/
theorem commandsChangeOnlyTheirPieces : Obligations.CommandsChangeOnlyTheirPieces := by
  unfold Obligations.CommandsChangeOnlyTheirPieces
  intro i s t p hexec hp
  obtain ⟨u, hu, hframe⟩ := exec_frame s i
  cases hu.symm.trans hexec
  exact hframe.same p hp

end Sys2Proof.Machine
end

section
/-! SUPPORT. The state that only secure firmware, the debug port, power-off, entry to RETAIN and READY change: most commands are `Keep`; what each
of the others changes of it is its frame (`exec_frame`), and the fields that its frame leaves open are followed here. -/

namespace Sys2Proof.Machine

/-! ### What `Keep` says of each field -/

section
variable {s t : State}

theorem Keep.sec_keys (h : Keep s t) : t.sec.keys = s.sec.keys := congrArg (fun f => f.2.2.1) h.fixed

theorem Keep.dbg (h : Keep s t) : t.sec.dbg = s.sec.dbg := congrArg (fun f => f.2.2.2.1) h.fixed

theorem Keep.refuses (h : Keep s t) : t.sec.refuses = s.sec.refuses := congrArg (fun f => f.2.2.2.2.1) h.fixed

theorem Keep.regions (h : Keep s t) : t.regions = s.regions := congrArg (fun f => f.2.2.2.2.2.1) h.fixed

theorem Keep.groups (h : Keep s t) : t.groups = s.groups := congrArg (fun f => f.2.2.2.2.2.2.1) h.fixed

theorem Keep.fwSvn (h : Keep s t) : t.eng.fwSvn = s.eng.fwSvn := congrArg (fun f => f.2.2.2.2.2.2.2.1) h.fixed

theorem Keep.fmts (h : Keep s t) : t.fmts = s.fmts := congrArg (fun f => f.2.2.2.2.2.2.2.2) h.fixed

end

/-! ### The blown fuses (R338) -/

section
variable (s : State)

@[simp] theorem State.report_eng : s.report.eng = s.eng := (Fr.report (.refl [.mgmt] s) (by simp)).same .eng (by simp)

@[simp] theorem State.report_sec : s.report.sec = s.sec := (Fr.report (.refl [.mgmt] s) (by simp)).same .sec (by simp)

@[simp] theorem State.takePosition_fwSvn (pos : Nat) (groups : Vector (BitVec 256) 16) (recs : List (BitVec 128)) :
    (s.takePosition pos groups recs).eng.fwSvn = s.eng.fwSvn := by
  rw [State.takePosition, State.report_eng]

theorem State.fwSvn_assumeArea (c : CtxNo) (i : Nat) (m : Cmd) (o : Opnd) : (s.assumeArea c i m o).eng.fwSvn = s.eng.fwSvn := by
  have closed (seq : Word) (as bs : List Acc) := ((Keep.refl s).openAll c seq as).closeUnit c seq bs
  unfold State.assumeArea
  dsimp only
  split
  · exact ((Keep.refl s).openAll c ..).fwSvn
  · split
    · exact ((closed ..).finish c ..).fwSvn
    · rw [((Keep.refl _).setPhase c ..).fwSvn, State.takePosition_fwSvn]
      exact (closed ..).fwSvn

theorem State.fwSvn_assumePosition (c : CtxNo) : (s.assumePosition c).eng.fwSvn = s.eng.fwSvn := by
  have finished (i : Nat) (r : Reply) : (s.finish c i r).eng.fwSvn = s.eng.fwSvn := ((Keep.refl s).finish c i r).fwSvn
  unfold State.assumePosition
  split
  case h_1 =>
    split
    · dsimp only
      split
      · exact finished _ _
      · rfl
    · rfl
  case h_2 =>
    split
    · rfl
    · split
      · rfl
      · split
        · exact finished _ _
        · split
          · split
            · exact finished _ _
            · split
              · exact finished _ _
              · exact s.fwSvn_assumeArea ..
          · exact finished _ _
          · exact finished _ _

/-- A write that only secure firmware may make does nothing while the engine is not served, is refused, or does what it names (R347). -/
theorem State.secureWrite_cases {P : State → Prop} {f : State} (secure : Bool) (ofs : Nat) (hs : P s) (hdenied : P (s.denied ofs)) (hf : P f) :
    P (s.secureWrite secure ofs f) := by
  unfold State.secureWrite
  split
  · exact hs
  · split
    · exact hdenied
    · exact hf

theorem State.takeKey_port : s.takeKey.sec.dbg = s.sec.dbg ∧ s.takeKey.sec.refuses = s.sec.refuses ∧ s.takeKey.eng = s.eng := by
  unfold State.takeKey
  split <;> exact ⟨rfl, rfl, rfl⟩

/-- RETAIN keeps the debug port's level and the fuses (R305, R341). -/
theorem State.retained_port : s.retained.sec.dbg = s.sec.dbg ∧ s.retained.sec.refuses = s.sec.refuses ∧ s.retained.eng.fwSvn = s.eng.fwSvn := by
  have ended : Keep s s.endEc := (Keep.refl s).endEc
  rw [State.retained, State.report_sec, State.report_eng]
  exact ⟨ended.dbg, ended.refuses, ended.fwSvn⟩

theorem State.rampDone_port (r : Ramp) :
    (s.rampDone r).sec.dbg = s.sec.dbg ∧ (s.rampDone r).sec.refuses = s.sec.refuses ∧ (s.rampDone r).eng.fwSvn = s.eng.fwSvn := by
  have progressed := (Keep.refl s).rampProgress
  unfold State.rampDone
  cases r with
  | wake | release | mode | retainOut => exact ⟨progressed.dbg, progressed.refuses, progressed.fwSvn⟩
  | retainIn =>
    obtain ⟨hdbg, hrefuses, hsvn⟩ := s.rampProgress.retained_port
    dsimp only
    rw [hdbg, hrefuses, hsvn]
    exact ⟨progressed.dbg, progressed.refuses, progressed.fwSvn⟩
  | startUp | bistWake | bistRelease =>
    have ended (r : Ramp) (p : Power) := progressed.startUpRamp r p
    exact ⟨(ended ..).dbg, (ended ..).refuses, (ended ..).fwSvn⟩

end

/-! ### The commands that change a fixed field -/

section
variable (s : State)

theorem execKeyCommit_port (secure : Bool) (v : Word) : ∃ t, exec (.keyCommit secure v) s = .next t
    ∧ t.sec.dbg = s.sec.dbg ∧ t.sec.refuses = s.sec.refuses ∧ t.eng.fwSvn = s.eng.fwSvn := by
  have refused := (Keep.refl s).denied (mgmtOffset 0x3200 80)
  obtain ⟨hdbg, hrefuses, heng⟩ := s.takeKey_port
  refine ⟨_, rfl, s.secureWrite_cases (P := fun t => t.sec.dbg = s.sec.dbg ∧ t.sec.refuses = s.sec.refuses ∧ t.eng.fwSvn = s.eng.fwSvn)
    secure _ ⟨rfl, rfl, rfl⟩ ⟨refused.dbg, refused.refuses, refused.fwSvn⟩ ?_⟩
  split
  · exact ⟨hdbg, hrefuses, congrArg Engine.fwSvn heng⟩
  · exact ⟨rfl, rfl, rfl⟩

theorem execKeyWriteEffect_port : ∃ t, exec .keyWriteEffect s = .next t ∧ t.sec.dbg = s.sec.dbg ∧ t.sec.refuses = s.sec.refuses := by
  obtain ⟨hdbg, hrefuses, -⟩ := s.takeKey_port
  refine ⟨_, rfl, ?_⟩
  split
  · exact ⟨hdbg, hrefuses⟩
  · exact ⟨rfl, rfl⟩

theorem execRegionCommit_fwSvn (secure : Bool) (v : Word) :
    ∃ t, exec (.regionCommit secure v) s = .next t ∧ t.eng.fwSvn = s.eng.fwSvn := by
  refine ⟨_, rfl, s.secureWrite_cases (P := fun t => t.eng.fwSvn = s.eng.fwSvn) secure _ rfl ((Keep.refl s).denied _).fwSvn ?_⟩
  split <;> rfl

theorem execGroupCommit_fwSvn (secure : Bool) (v : Word) :
    ∃ t, exec (.groupCommit secure v) s = .next t ∧ t.eng.fwSvn = s.eng.fwSvn := by
  refine ⟨_, rfl, s.secureWrite_cases (P := fun t => t.eng.fwSvn = s.eng.fwSvn) secure _ rfl ((Keep.refl s).denied _).fwSvn ?_⟩
  split <;> rfl

theorem execDbgResponseVerified_fwSvn : ∃ t, exec .dbgResponseVerified s = .next t ∧ t.eng.fwSvn = s.eng.fwSvn := by
  refine ⟨_, rfl, ?_⟩
  split
  · rfl
  · split
    · rfl
    · split <;> exact State.logErr_fwSvn ..

theorem execLock_keys : ∃ t, exec .lock s = .next t ∧ t.sec.keys = s.sec.keys := by
  refine ⟨_, rfl, ?_⟩
  split <;> rfl

theorem execRampComplete_port : ∃ t, exec .rampComplete s = .next t
    ∧ t.sec.dbg = s.sec.dbg ∧ t.sec.refuses = s.sec.refuses ∧ t.eng.fwSvn = s.eng.fwSvn := by
  refine ⟨_, rfl, ?_⟩
  split
  case h_1 r _ =>
    split
    · obtain ⟨hdbg, hrefuses, hsvn⟩ := s.rampDone_port r
      have next := (Keep.refl (s.rampDone r)).retainNext
      exact ⟨next.dbg.trans hdbg, next.refuses.trans hrefuses, next.fwSvn.trans hsvn⟩
    · exact ⟨rfl, rfl, rfl⟩
  case h_2 => exact ⟨rfl, rfl, rfl⟩

theorem execNeighbourReport_port : ∃ t, exec .neighbourReport s = .next t
    ∧ t.sec.dbg = s.sec.dbg ∧ t.sec.refuses = s.sec.refuses ∧ t.eng.fwSvn = s.eng.fwSvn := by
  refine ⟨_, rfl, ?_⟩
  split
  · have next := ((Keep.refl s.readyTables).report).startStep 7
    exact ⟨next.dbg, next.refuses, next.fwSvn⟩
  · exact ⟨rfl, rfl, rfl⟩

end

theorem pending_notMem_mayChange (i : Instr) : Piece.pending ∉ mayChange i := by
  cases i <;> simp [mayChange, allButMemory, everyCtx]

theorem now_notMem_mayChange (i : Instr) : Piece.now ∉ mayChange i := by
  cases i <;> simp [mayChange, allButMemory, everyCtx]

/-! ### The obligation -/

/-- Settles O57: a command that `keepsFixed` is `Keep`; the others leave what their frame does not name, and of the pieces that it names, the
fields of the lemmas above. -/
theorem onlyNamedCommandsChangeSecureState : Obligations.OnlyNamedCommandsChangeSecureState := by
  unfold Obligations.OnlyNamedCommandsChangeSecureState
  intro i s t hexec
  have next {P : State → Prop} (h : ∃ u, exec i s = .next u ∧ P u) : P t := by
    obtain ⟨u, hu, hP⟩ := h
    cases hu.symm.trans hexec
    exact hP
  have hframe : Fr (mayChange i) s t := next (exec_frame s i)
  refine ⟨hframe.same .pending (pending_notMem_mayChange i), hframe.same .now (now_notMem_mayChange i), ?_⟩
  have kept (h : keepsFixed i = true) : Keep s t := next (exec_keep s h)
  have same (p : Piece) (h : p ∉ mayChange i) : p.Same s t := hframe.same p h
  cases i
  case keyCommit secure v =>
    obtain ⟨hdbg, hrefuses, hsvn⟩ := next (execKeyCommit_port s secure v)
    exact ⟨trivial, ⟨hdbg, hrefuses⟩, same .regions (by simp [mayChange]), same .groups (by simp [mayChange]), hsvn,
      same .fmts (by simp [mayChange])⟩
  case keyWriteEffect =>
    obtain ⟨hdbg, hrefuses⟩ := next (execKeyWriteEffect_port s)
    exact ⟨trivial, ⟨hdbg, hrefuses⟩, same .regions (by simp [mayChange]), same .groups (by simp [mayChange]),
      congrArg Engine.fwSvn (same .eng (by simp [mayChange])), same .fmts (by simp [mayChange])⟩
  case regionCommit secure v =>
    have hsec : t.sec = s.sec := same .sec (by simp [mayChange])
    exact ⟨by rw [hsec], by rw [hsec]; exact ⟨rfl, rfl⟩, trivial, same .groups (by simp [mayChange]), next (execRegionCommit_fwSvn s secure v),
      same .fmts (by simp [mayChange])⟩
  case groupCommit secure v =>
    have hsec : t.sec = s.sec := same .sec (by simp [mayChange])
    exact ⟨by rw [hsec], by rw [hsec]; exact ⟨rfl, rfl⟩, same .regions (by simp [mayChange]), trivial, next (execGroupCommit_fwSvn s secure v),
      same .fmts (by simp [mayChange])⟩
  case svnCommit secure =>
    have hsec : t.sec = s.sec := same .sec (by simp [mayChange])
    exact ⟨by rw [hsec], by rw [hsec]; exact ⟨rfl, rfl⟩, same .regions (by simp [mayChange]), same .groups (by simp [mayChange]), trivial,
      same .fmts (by simp [mayChange])⟩
  case tableLoad c =>
    have hsec : t.sec = s.sec := same .sec (by simp [mayChange])
    exact ⟨by rw [hsec], by rw [hsec]; exact ⟨rfl, rfl⟩, same .regions (by simp [mayChange]), same .groups (by simp [mayChange]),
      congrArg Engine.fwSvn (same .eng (by simp [mayChange])), trivial⟩
  case assumePosition c =>
    have hsec : t.sec = s.sec := same .sec (by simp [mayChange])
    exact ⟨by rw [hsec], by rw [hsec]; exact ⟨rfl, rfl⟩, same .regions (by simp [mayChange]), trivial,
      next (P := fun t => t.eng.fwSvn = s.eng.fwSvn) ⟨_, rfl, s.fwSvn_assumePosition c⟩,
      same .fmts (by simp [mayChange])⟩
  case dbgResponseVerified =>
    exact ⟨trivial, trivial, same .regions (by simp [mayChange]), same .groups (by simp [mayChange]),
      next (execDbgResponseVerified_fwSvn s), same .fmts (by simp [mayChange])⟩
  case lock =>
    exact ⟨next (execLock_keys s), trivial, same .regions (by simp [mayChange]), same .groups (by simp [mayChange]),
      congrArg Engine.fwSvn (same .eng (by simp [mayChange])), same .fmts (by simp [mayChange])⟩
  case offRequest => exact ⟨trivial, trivial, trivial, trivial, next (P := fun t => t.eng.fwSvn = s.eng.fwSvn) ⟨_, rfl, rfl⟩, trivial⟩
  case rampComplete =>
    obtain ⟨hdbg, hrefuses, hsvn⟩ := next (execRampComplete_port s)
    exact ⟨trivial, ⟨hdbg, hrefuses⟩, trivial, same .groups (by simp [mayChange, everyCtx]), hsvn, same .fmts (by simp [mayChange, everyCtx])⟩
  case neighbourReport =>
    obtain ⟨hdbg, hrefuses, hsvn⟩ := next (execNeighbourReport_port s)
    exact ⟨trivial, ⟨hdbg, hrefuses⟩, trivial, trivial, hsvn, trivial⟩
  all_goals
    have k := kept rfl
    exact ⟨k.sec_keys, ⟨k.dbg, k.refuses⟩, k.regions, k.groups, k.fwSvn, k.fmts⟩

end Sys2Proof.Machine
end

section
/-! SUPPORT. Management services (R331 to R338, R347, R348): writes that secure firmware makes and writes that are refused, the commits of regions,
groups and keys, EXPORT_SEQ, the SVN fuses; and that the control window reads no key. -/

namespace Sys2Proof.Machine

section
variable (s : State)

/-! ### Secure writes and refusals (R347) -/

theorem State.served_of_running {s : State} (h : s.pow.state = .running) : s.served = true := by simp [State.served, h]

theorem State.secureWrite_secure {s : State} (h : s.pow.state = .running) (ofs : Nat) (f : State) : s.secureWrite true ofs f = f := by
  simp [State.secureWrite, State.served_of_running h]

theorem State.secureWrite_insecure {s : State} (h : s.pow.state = .running) (ofs : Nat) (f : State) :
    s.secureWrite false ofs f = s.denied ofs := by
  simp [State.secureWrite, State.served_of_running h]

/-- A refusal advances MGMT_DENIED and may write the error log; nothing else changes (R347). -/
def Refused (s t : State) : Prop :=
  t = { s with tel := t.tel, log := t.log } ∧ t.tel = { s.tel with mgmtDenied := satAdd s.tel.mgmtDenied 1 }

theorem State.refused_denied (ofs : Nat) : Refused s (s.denied ofs) := by
  unfold State.denied
  dsimp only
  split
  · rw [State.logErr_plain _ _ _ _ _ _ (by decide)]
    exact ⟨rfl, rfl⟩
  · exact ⟨rfl, rfl⟩

theorem State.refused_secureWrite {s : State} (h : s.pow.state = .running) (ofs : Nat) (f : State) : Refused s (s.secureWrite false ofs f) := by
  rw [State.secureWrite_insecure h]
  exact s.refused_denied ofs

/-- A word that takes no write: in a secure service a write by anything but secure firmware is counted (R347). -/
theorem State.otherWrite_secure {s : State} (h : s.pow.state = .running) (ofs : Nat) : s.otherWrite true ofs = s := by
  unfold State.otherWrite
  split
  · exact State.secureWrite_secure h ofs s
  · rfl

theorem State.refused_otherWrite {s : State} (h : s.pow.state = .running) {ofs : Nat} (hlow : 0x3000 ≤ ofs) (hhigh : ofs ≤ 0x33FF) :
    Refused s (s.otherWrite false ofs) := by
  unfold State.otherWrite
  rw [if_pos ⟨hlow, hhigh⟩]
  exact State.refused_secureWrite h ofs s

/-! ### The running engine's commits (R333 to R336, R348) -/

variable {s}

theorem regionStagedOk_iff (r : BitVec 128) :
    regionStagedOk r = true ↔ fld r 48 16 = 0 ∧ fld r 115 5 = 0 ∧ fld r 0 48 ≤ fld r 64 48 := by
  simp [regionStagedOk, and_assoc]

theorem execRegionCommit_running (h : s.pow.state = .running) (v : Word) : exec (.regionCommit true v) s =
    .next (if v.toNat < 256 ∧ fld s.mgmt.region 48 16 = 0 ∧ fld s.mgmt.region 115 5 = 0 ∧ fld s.mgmt.region 0 48 ≤ fld s.mgmt.region 64 48
      then { s with regions := Tbl.put 0 s.regions v.toNat s.mgmt.region } else s.commitError) := by
  change Host.Outcome.next (s.secureWrite true _ _) = _
  rw [State.secureWrite_secure h]
  simp only [← regionStagedOk_iff, commitIndex]
  by_cases hv : v.toNat < 256
  · cases regionStagedOk s.mgmt.region <;> simp [hv]
  · simp [hv]

theorem execGroupCommit_running (h : s.pow.state = .running) (i : Fin 16) : exec (.groupCommit true (BitVec.ofNat 32 i.val)) s =
    .next (if groupReservedOk s.mgmt.group = true then { s with groups := s.groups.set i.val s.mgmt.group i.isLt } else s.commitError) := by
  change Host.Outcome.next (s.secureWrite true _ _) = _
  have hi : (BitVec.ofNat 32 i.val).toNat = i.val := by
    rw [BitVec.toNat_ofNat]
    exact Nat.mod_eq_of_lt (by omega)
  rw [State.secureWrite_secure h, commitIndex, hi, if_pos i.isLt]
  cases groupReservedOk s.mgmt.group with
  | true =>
    have hset : s.groups.setIfInBounds i.val s.mgmt.group = s.groups.set i.val s.mgmt.group i.isLt := by
      ext k hk
      rw [Vector.getElem_setIfInBounds, Vector.getElem_set]
    exact congrArg (fun g => Host.Outcome.next { s with groups := g }) hset
  | false => rfl

theorem execKeyCommit_running (h : s.pow.state = .running) (hpend : s.sec.pendKey = none) (v : Word) : exec (.keyCommit true v) s =
    .next (if hv : v.toNat < 16 then { s with sec := { s.sec with pendKey := some (⟨v.toNat, hv⟩, s.mgmt.key) } } else s.commitError) := by
  change Host.Outcome.next (s.secureWrite true _ _) = _
  have htake : s.takeKey = s := by rw [State.takeKey, hpend]
  rw [State.secureWrite_secure h, htake]

end

/-! ### The window and the key slots (R331) -/

/-- The readable registers name no key. -/
theorem State.regs_hide_keys (s : State) (keys : Vector (Option (BitVec 256)) 16) (p : Option (Fin 16 × BitVec 256)) (k : BitVec 256) :
    State.regs { s with sec := { s.sec with keys := keys, pendKey := p }, mgmt := { s.mgmt with key := k } } = s.regs := rfl

theorem State.read32_hides_keys (s : State) (keys : Vector (Option (BitVec 256)) 16) (p : Option (Fin 16 × BitVec 256)) (k : BitVec 256)
    (ofs : Nat) : State.read32 { s with sec := { s.sec with keys := keys, pendKey := p }, mgmt := { s.mgmt with key := k } } ofs
      = s.read32 ofs := by
  rw [State.read32, State.regs_hide_keys]
  rfl

/-! ### The obligations -/

/-- Settles O10: each staging word, commit and refusal is `secureWrite` of one update (`secureWrite_secure`) or a refusal (`Refused`). -/
theorem stagingWordsAndRegions : Obligations.StagingWordsAndRegions := by
  unfold Obligations.StagingWordsAndRegions
  refine ⟨fun s v k4 k8 off hrun => ?words, fun s v hrun hwf => ?regions, fun s i hrun => ?groups, fun s c v k4 k8 off hrun hlow hhigh => ?refusals⟩
  case words =>
    have secure (ofs : Nat) (f : State) := State.secureWrite_secure hrun ofs f
    have hup : s.mgmtUp = true := by simp [State.mgmtUp, hrun]
    refine ⟨congrArg Host.Outcome.next (secure ..), congrArg Host.Outcome.next (secure ..), congrArg Host.Outcome.next (secure ..),
      fun hstep => ?_, fun hstep => ?_, congrArg Host.Outcome.next (if_pos hup),
      congrArg Host.Outcome.next (if_pos hup), congrArg Host.Outcome.next (State.otherWrite_secure hrun _),
      congrArg Host.Outcome.next (State.otherWrite_secure hrun _), fun hofs => ?_⟩
    · exact congrArg Host.Outcome.next (if_pos (decide_eq_true hstep))
    · exact congrArg Host.Outcome.next (if_neg (by simpa [State.positionOpen] using hstep))
    · have hout : ¬ (0x3000 ≤ off.toNat ∧ off.toNat ≤ 0x33FF) := by omega
      exact ⟨congrArg Host.Outcome.next (if_neg hout), congrArg Host.Outcome.next (if_neg hout)⟩
  case regions =>
    rw [execRegionCommit_running hrun]
    refine ⟨fun hok => ⟨_, congrArg Host.Outcome.next (if_pos hok), rfl, fun k => ?_⟩, fun hbad => congrArg Host.Outcome.next (if_neg hbad)⟩
    exact Tbl.get_put v.toNat k s.mgmt.region hwf
  case groups =>
    rw [execGroupCommit_running hrun]
    exact ⟨fun hok => congrArg Host.Outcome.next (if_pos hok), fun hbad => congrArg Host.Outcome.next (if_neg (by simp [hbad]))⟩
  case refusals =>
    have denied (ofs : Nat) : Refused s (s.denied ofs) := s.refused_denied ofs
    have insecure (ofs : Nat) (f : State) := State.refused_secureWrite hrun ofs f
    have other := State.refused_otherWrite hrun hlow hhigh
    have hposition : s.mgmtWrite .position false v = s.denied (mgmtOffset 0x0000 0) := if_pos (State.served_of_running hrun)
    intro i hi
    simp only [List.mem_cons, List.not_mem_nil, or_false] at hi
    rcases hi with rfl | rfl | rfl | rfl | rfl | rfl | rfl | rfl | rfl | rfl
    case inr.inr.inr.inr.inl => exact ⟨_, congrArg Host.Outcome.next hposition, denied _⟩
    case inr.inr.inr.inr.inr.inr.inr.inr.inl => exact ⟨_, rfl, other⟩
    case inr.inr.inr.inr.inr.inr.inr.inr.inr => exact ⟨_, rfl, other⟩
    all_goals exact ⟨_, rfl, insecure ..⟩

/-- Settles O11. -/
theorem keysAndBindings : Obligations.KeysAndBindings := by
  unfold Obligations.KeysAndBindings
  refine ⟨fun s c v hrun => ⟨fun hdisabled => ?bound, fun hbusy => ?refused⟩, fun s i v hrun hpend => ⟨?latched, ?effect, fun hv => ?beyond⟩⟩
  case bound =>
    refine ⟨_, congrArg Host.Outcome.next ((State.secureWrite_secure hrun ..).trans (if_pos hdisabled)), OnlyCtx.modCtx s c _, ?_⟩
    rw [State.ctx_modCtx_same]
  case refused =>
    exact ⟨_, congrArg Host.Outcome.next ((State.secureWrite_secure hrun ..).trans (if_neg hbusy)), s.refused_denied _⟩
  case latched =>
    have hi : (BitVec.ofNat 32 i.val).toNat = i.val := by
      rw [BitVec.toNat_ofNat]
      exact Nat.mod_eq_of_lt (by omega)
    rw [execKeyCommit_running hrun hpend, dif_pos (by omega)]
    simp only [hi]
  case effect =>
    change Host.Outcome.next (if s.served = true then _ else _) = _
    rw [if_pos (State.served_of_running hrun)]
    simp [State.takeKey, hpend]
  case beyond =>
    rw [execKeyCommit_running hrun hpend, dif_neg (by omega)]
    rfl

/-- Settles O12. -/
theorem exportSeqBeforeFirstExport : Obligations.ExportSeqBeforeFirstExport := by
  unfold Obligations.ExportSeqBeforeFirstExport
  refine ⟨rfl, fun s secure v hrun => ⟨fun hsecure hfirst => ?written, fun hlate => ?refused⟩⟩
  case written =>
    subst hsecure
    exact congrArg Host.Outcome.next ((State.secureWrite_secure hrun ..).trans (if_neg (by simp [hfirst])))
  case refused =>
    cases secure with
    | false => exact ⟨_, rfl, State.refused_secureWrite hrun ..⟩
    | true =>
      have hexported : s.sec.exported = true := hlate.resolve_left (by decide)
      exact ⟨_, congrArg Host.Outcome.next ((State.secureWrite_secure hrun ..).trans (if_pos hexported)), s.refused_denied _⟩

/-- An image whose SVN is below the blown fuses fails a check of R337: check 4, where it has passed those before. -/
theorem State.imageCheck_ne_zero_of_svn {u : State} (h : fld u.jexloHeader 64 8 < u.eng.fwSvn) : u.imageCheck ≠ 0 := by
  rw [State.imageCheck, if_pos h]
  split
  · decide
  · split
    · decide
    · split <;> decide

/-- Settles O13: SVN_COMMIT takes the greater of the two counts, and check 4 of an image compares with it. -/
theorem svnCommitBlowsFuses : Obligations.SvnCommitBlowsFuses := by
  unfold Obligations.SvnCommitBlowsFuses
  intro s hrun
  refine ⟨_, congrArg Host.Outcome.next (State.secureWrite_secure hrun ..), rfl, fun h => Nat.max_eq_right h, fun h => Nat.max_eq_left h, fun u hu hlow => ?_, ?_⟩
  · refine State.imageCheck_ne_zero_of_svn (Nat.lt_of_lt_of_le hlow ?_)
    rw [hu]
    exact Nat.le_max_right _ _
  · obtain ⟨hsame, -⟩ := s.refused_denied (mgmtOffset 0x3300 97)
    refine ⟨_, congrArg Host.Outcome.next (State.secureWrite_insecure hrun ..), ?_⟩
    rw [hsame]

/-- Settles O14: a read answers from the readable registers, which name no key. -/
theorem windowReadsHideKeys : Obligations.WindowReadsHideKeys := by
  unfold Obligations.WindowReadsHideKeys
  intro s keys p k ofs width
  rw [State.readReg, State.readReg]
  simp only [State.read32_hides_keys]

/-- Settles O1. -/
theorem stepRunsFrontCommand : Obligations.StepRunsFrontCommand := by
  unfold Obligations.StepRunsFrontCommand
  intro c rest s h
  rw [step, h]

end Sys2Proof.Machine
end

section
/-! SUPPORT. Power states, ramps and tokens (R304 to R309, R348): what a ramp's progress does to the lane groups, the end of each ramp, the requests
for RETAIN and OFF, what starts under a token, and the releases of lane groups. -/

namespace Sys2Proof.Machine

/-! ### The lane groups of a ramp (R307) -/

section
variable (now step : Nat)

/-- Rising lane groups change nothing of the power controller but which groups are awake and since when. -/
theorem Power.rise_eq (p : Power) (t : Nat) (gs : List (Fin 16)) :
    p.rise now step t gs = { p with awake := (p.rise now step t gs).awake, lastBeat := (p.rise now step t gs).lastBeat } := by
  induction gs generalizing p t with
  | nil => rfl
  | cons g rest ih =>
    rw [Power.rise]
    split <;> exact ih ..

/-- Falling lane groups change nothing of the power controller but which groups are awake. -/
theorem Power.fall_eq (p : Power) (t : Nat) (gs : List (Fin 16)) :
    p.fall now step t gs = { p with awake := (p.fall now step t gs).awake } := by
  induction gs generalizing p t with
  | nil => rfl
  | cons g rest ih =>
    rw [Power.fall]
    split <;> exact ih ..

theorem vector_get_eq {α : Type} {n : Nat} (v : Vector α n) (i : Fin n) : v.get i = v[i.val] := rfl

theorem vector_get_set {α : Type} {n : Nat} (v : Vector α n) (i j : Fin n) (a : α) :
    (v.set i.val a i.isLt).get j = if j = i then a else v.get j := by
  have := Vector.getElem_set i.isLt j.isLt (xs := v) (x := a)
  rw [vector_get_eq, this, vector_get_eq]
  simp [Fin.ext_iff, eq_comm]

variable {now step}

/-- Once its EC have passed, a wake leaves exactly its groups awake beside those that were. -/
theorem Power.rise_awake (p : Power) {t : Nat} {gs : List (Fin 16)} (h : t + gs.length * step ≤ now) (g : Fin 16) :
    (p.rise now step t gs).awake.get g = true ↔ g ∈ gs ∨ p.awake.get g = true := by
  induction gs generalizing p t with
  | nil => simp [Power.rise]
  | cons k rest ih =>
    rw [List.length_cons, Nat.succ_mul] at h
    rw [Power.rise]
    rw [ih _ (by omega), List.mem_cons]
    have hnow : ¬ now < t + step := by omega
    cases hk : p.awake.get k
    · simp only [hnow, decide_false, Bool.or_false, Bool.false_eq_true, if_false, vector_get_set]
      split <;> simp_all
    · simp only [Bool.true_or, if_true]
      constructor
      · exact fun h => h.elim (fun hg => .inl (.inr hg)) .inr
      · rintro ((rfl | hg) | hg)
        · exact .inr hk
        · exact .inl hg
        · exact .inr hg

/-- Once its EC have passed, a release leaves its groups released. -/
theorem Power.fall_awake (p : Power) {t : Nat} {gs : List (Fin 16)} (h : t + gs.length * step ≤ now) (g : Fin 16) :
    (p.fall now step t gs).awake.get g = true ↔ g ∉ gs ∧ p.awake.get g = true := by
  induction gs generalizing p t with
  | nil => simp [Power.fall]
  | cons k rest ih =>
    rw [List.length_cons, Nat.succ_mul] at h
    rw [Power.fall]
    rw [ih _ (by omega), if_neg (by omega), List.mem_cons, vector_get_set]
    split <;> simp_all

end

section
variable {s : State}

/-! ### The end of a ramp (R305, R307, R309) -/

theorem State.retainNext_of_not_retaining (h : s.pow.retaining = false) : s.retainNext = s := by simp [State.retainNext, h]

theorem execRampComplete_early {r : Ramp} (hr : s.pow.ramp = some r) (h : s.now < s.pow.rampStart + s.rampEc r) : exec .rampComplete s = .next s := by
  have early : s.rampOver r = false := by simp [State.rampOver, Nat.not_le.mpr h]
  refine congrArg Host.Outcome.next ?_
  simp [hr, early]

theorem execRampComplete_over {r : Ramp} (hr : s.pow.ramp = some r) (h : s.rampOver r = true) :
    exec .rampComplete s = .next (s.rampDone r).retainNext := by
  refine congrArg Host.Outcome.next ?_
  simp [hr, h]

/-- A ramp that is not a mode change is over when its EC have passed. -/
theorem State.rampOver_of_le {r : Ramp} (hmode : r.isMode = false) (h : s.pow.rampStart + s.rampEc r ≤ s.now) : s.rampOver r = true := by
  simp [State.rampOver, h, hmode]

theorem State.rampProgress_wake {gs : List (Fin 16)} (h : s.pow.ramp = some (.wake gs)) :
    s.rampProgress = { s with pow := s.pow.rise s.now (s.stepEc s.pow.eight) s.pow.rampStart gs } := by
  simp [State.rampProgress, Power.rising, Power.falling, h, Power.fall]

theorem State.rampProgress_release {gs : List (Fin 16)} (h : s.pow.ramp = some (.release gs)) :
    s.rampProgress = { s with pow := s.pow.fall s.now (s.stepEc s.pow.eight) s.pow.rampStart gs } := by
  simp [State.rampProgress, Power.rising, Power.falling, h, Power.rise]

theorem State.rampProgress_mode {e : Bool} (h : s.pow.ramp = some (.mode e)) (hout : s.lane.beatsOut = true) : s.rampProgress = s := by
  simp [State.rampProgress, Power.rising, Power.falling, h, Power.rise, Power.fall, hout]

theorem State.rampProgress_retainIn (h : s.pow.ramp = some .retainIn) : s.rampProgress = s := by
  simp [State.rampProgress, Power.rising, Power.falling, h, Power.rise, Power.fall]

theorem State.rampProgress_retainOut (h : s.pow.ramp = some .retainOut) : s.rampProgress = s := by
  simp [State.rampProgress, Power.rising, Power.falling, h, Power.rise, Power.fall]

theorem execRampComplete_wake {gs : List (Fin 16)} (hret : s.pow.retaining = false) (hr : s.pow.ramp = some (.wake gs))
    (h : s.pow.rampStart + s.rampEc (.wake gs) ≤ s.now) :
    exec .rampComplete s = .next { s with pow := (s.pow.rise s.now (s.stepEc s.pow.eight) s.pow.rampStart gs).giveToken } := by
  rw [execRampComplete_over hr (State.rampOver_of_le rfl h), State.rampDone, State.rampProgress_wake hr]
  refine congrArg Host.Outcome.next (State.retainNext_of_not_retaining ?_)
  rw [Power.rise_eq]
  exact hret

theorem execRampComplete_release {gs : List (Fin 16)} (hret : s.pow.retaining = false) (hr : s.pow.ramp = some (.release gs))
    (h : s.pow.rampStart + s.rampEc (.release gs) ≤ s.now) :
    exec .rampComplete s = .next { s with pow := (s.pow.fall s.now (s.stepEc s.pow.eight) s.pow.rampStart gs).giveToken } := by
  rw [execRampComplete_over hr (State.rampOver_of_le rfl h), State.rampDone, State.rampProgress_release hr]
  refine congrArg Host.Outcome.next (State.retainNext_of_not_retaining ?_)
  rw [Power.fall_eq]
  exact hret

theorem execRampComplete_mode {e : Bool} (hret : s.pow.retaining = false) (hr : s.pow.ramp = some (.mode e))
    (h : s.pow.rampStart + s.rampEc (.mode e) ≤ s.now) (hout : s.lane.beatsOut = true) :
    exec .rampComplete s = .next { s with pow := { s.pow.giveToken with eight := e } } := by
  have hover : s.rampOver (.mode e) = true := by simp [State.rampOver, h, hout]
  rw [execRampComplete_over hr hover, State.rampDone, State.rampProgress_mode hr hout]
  exact congrArg Host.Outcome.next (State.retainNext_of_not_retaining hret)

theorem execRampComplete_mode_beats {e : Bool} (hr : s.pow.ramp = some (.mode e)) (hout : s.lane.beatsOut = false) :
    exec .rampComplete s = .next s := by
  have hover : s.rampOver (.mode e) = false := by simp [State.rampOver, Ramp.isMode, hout]
  refine congrArg Host.Outcome.next ?_
  simp [hr, hover]

theorem execRampComplete_retainOut (hret : s.pow.retaining = false) (hr : s.pow.ramp = some .retainOut)
    (h : s.pow.rampStart + s.rampEc .retainOut ≤ s.now) :
    exec .rampComplete s = .next { s with
      pow := { s.pow.giveToken with state := .running }
      mgmt := { s.mgmt with powerOk := true, alertPower := true }
      tick := { s.tick with waitEdge := true, due := none, last := s.now } } := by
  rw [execRampComplete_over hr (State.rampOver_of_le rfl h), State.rampDone, State.rampProgress_retainOut hr]
  exact congrArg Host.Outcome.next (State.retainNext_of_not_retaining hret)

/-- The entry to RETAIN ends in RETAIN, with what `State.retained` keeps. -/
theorem execRampComplete_retainIn (hr : s.pow.ramp = some .retainIn) (h : s.pow.rampStart + s.rampEc .retainIn ≤ s.now) :
    exec .rampComplete s = .next { s.retained with
      pow := { s.pow.giveToken with state := .retain, retaining := false }
      mgmt := { s.retained.mgmt with powerOk := true, alertPower := true } } := by
  rw [execRampComplete_over hr (State.rampOver_of_le rfl h), State.rampDone, State.rampProgress_retainIn hr]
  exact congrArg Host.Outcome.next (State.retainNext_of_not_retaining rfl)

/-! ### What RETAIN keeps (R13, R305) -/

/-- The pieces that the writes left for the end of an EC may change. -/
def lateWork : List Piece := [.eng, .tick, .port, .log, .tel, .pow] ++ everyCtx

theorem State.endEc_frame (s : State) : Fr lateWork s s.endEc := by
  have hctx (c : CtxNo) : Piece.ctx c ∈ lateWork := List.mem_append_right _ (Fr.mem_everyCtx c)
  exact Fr.endEc (.refl _ s) (by decide) (by decide) hctx (by decide) (by decide) (by decide) (by decide)

theorem Fr.reported (s : State) : Fr [.mgmt] s s.report := Fr.report (.refl _ s) (by decide)

/-- What RETAIN keeps of the state, and what the model empties. -/
theorem State.retained_keeps (s : State) : SameMem s s.retained ∧ s.retained.slots = s.slots ∧ s.retained.descs = s.descs
    ∧ s.retained.fmts = s.fmts ∧ s.retained.rts = s.rts ∧ s.retained.groups = s.groups ∧ s.retained.log = s.endEc.log
    ∧ s.retained.tel = s.endEc.tel ∧ s.retained.tlb = [] ∧ s.retained.walks = [] ∧ s.retained.reqs = [] ∧ s.retained.regions = []
    ∧ s.retained.sec.keys = Vector.replicate 16 none := by
  have ended := s.endEc_frame
  have same (p : Piece) (h : p ∉ lateWork) := ended.same p h
  unfold State.retained
  dsimp only
  have reported := Fr.reported
  refine ⟨SameMem.of_eq (((reported _).same .core (by decide)).trans (same .core (by decide)))
      (((reported _).same .remote (by decide)).trans (same .remote (by decide))),
    ((reported _).same .slots (by decide)).trans (same .slots (by decide)),
    ((reported _).same .descs (by decide)).trans (same .descs (by decide)),
    ((reported _).same .fmts (by decide)).trans (same .fmts (by decide)),
    ((reported _).same .rts (by decide)).trans (same .rts (by decide)),
    ((reported _).same .groups (by decide)).trans (same .groups (by decide)),
    (reported _).same .log (by decide), (reported _).same .tel (by decide), (reported _).same .tlb (by decide),
    (reported _).same .walks (by decide), (reported _).same .reqs (by decide), (reported _).same .regions (by decide), ?_⟩
  rw [State.report_sec]

/-! ### Requests for RETAIN and OFF (R304, R305) -/

theorem Power.ask_idle {p : Power} (now : Nat) (r : Ramp) (hramp : p.ramp = none) (hwant : p.want = []) (hret : p.ret = false) :
    p.ask now r = { p with want := [r], req := true, reqSince := if p.req then p.reqSince else now } := by
  simp [Power.ask, Power.request, hramp, hwant, hret]

theorem Power.request_eq (p : Power) (now : Nat) : ∃ req since ticks logged,
    p.request now = { p with req := req, reqSince := since, waitTicks := ticks, waitLogged := logged } := by
  unfold Power.request
  split <;> exact ⟨_, _, _, _, rfl⟩

/-- A ramp asked for is wanted besides those wanted before; the groups and the state of the domain stay. -/
theorem Power.ask_eq (p : Power) (now : Nat) (r : Ramp) : ∃ want req since ticks logged,
    p.ask now r = { p with want := want, req := req, reqSince := since, waitTicks := ticks, waitLogged := logged }
    ∧ ∀ x ∈ want, x ∈ p.want ∨ x = r := by
  unfold Power.ask
  split
  · exact ⟨_, _, _, _, _, rfl, fun x hx => .inl hx⟩
  · obtain ⟨req, since, ticks, logged, h⟩ := Power.request_eq { p with want := p.want ++ [r] } now
    exact ⟨_, _, _, _, _, h, fun x hx => by simpa using hx⟩

/-- The next step towards RETAIN may ask for the entry ramp. -/
theorem State.retainNext_eq (s : State) : ∃ want req since ticks logged,
    s.retainNext = { s with pow := { s.pow with want := want, req := req, reqSince := since, waitTicks := ticks, waitLogged := logged } }
    ∧ ∀ x ∈ want, x ∈ s.pow.want ∨ x = .retainIn := by
  unfold State.retainNext
  split
  · obtain ⟨want, req, since, ticks, logged, h, hwant⟩ := s.pow.ask_eq s.now .retainIn
    exact ⟨want, req, since, ticks, logged, by rw [h], hwant⟩
  · exact ⟨_, _, _, _, _, rfl, fun x hx => .inl hx⟩

theorem State.active_of_retaining (h : s.pow.retaining = true) (c : CtxNo) : s.active c = false := by simp [State.active, h]

/-- RETAIN_REQUEST with no job context ACTIVE: no slice is admitted any more, wakes and mode changes that have not begun are given up. -/
theorem execRetainRequest_taken (hrun : s.pow.state = .running) (hret : s.pow.retaining = false) (hjob : s.jobActive = false) :
    ∃ t, exec .retainRequest s = .next t ∧ t = { s with pow := t.pow, mgmt := { s.mgmt with powerReq := .retain } }
      ∧ t.pow.retaining = true ∧ t.pow.state = .running ∧ t.pow.awake = s.pow.awake
      ∧ (∀ r ∈ t.pow.want, r.isMode = false ∧ r.wakes = []) ∧ ∀ c : CtxNo, t.active c = false := by
  have hstep : exec .retainRequest s = .next (State.retainNext { s with
      pow := ({ s.pow with retaining := true, want := s.pow.want.filter (fun r => !r.isMode && r.wakes.isEmpty) }).request s.now
      mgmt := { s.mgmt with powerReq := .retain } }) := by
    refine congrArg Host.Outcome.next ?_
    simp [hrun, hret, hjob]
  obtain ⟨req, since, ticks, logged, hp⟩ := Power.request_eq
    { s.pow with retaining := true, want := s.pow.want.filter (fun r => !r.isMode && r.wakes.isEmpty) } s.now
  rw [hp] at hstep
  obtain ⟨want, req', since', ticks', logged', hnext, hwant⟩ := State.retainNext_eq _
  rw [hnext] at hstep
  refine ⟨_, hstep, rfl, rfl, hrun, rfl, fun r hr => ?_, State.active_of_retaining rfl⟩
  rcases hwant r hr with hold | rfl
  · simpa using (List.mem_filter.mp hold).2
  · exact ⟨rfl, rfl⟩

theorem execRetainRequest_refused (hrun : s.pow.state = .running) (hret : s.pow.retaining = false) (hjob : s.jobActive = true) :
    exec .retainRequest s = .next { s with mgmt := { s.mgmt with powerReq := .retain, powerOk := false } } := by
  refine congrArg Host.Outcome.next ?_
  simp [hrun, hret, hjob]

theorem execRetainExit_idle (hstate : s.pow.state = .retain) (hramp : s.pow.ramp = none) (hwant : s.pow.want = []) (hret : s.pow.ret = false) :
    exec .retainExit s = .next { s with
      pow := { s.pow with want := [.retainOut], req := true, reqSince := if s.pow.req then s.pow.reqSince else s.now }
      mgmt := { s.mgmt with powerReq := .running } } := by
  refine congrArg Host.Outcome.next ?_
  rw [if_pos hstate, Power.ask_idle _ _ hramp hwant hret]

/-! ### Tokens (R309, R310) -/

theorem execGnt_taken (hreq : s.pow.req = true) (hheld : s.pow.held = false) : exec .gnt s = .next s.startRamp := by
  refine congrArg Host.Outcome.next ?_
  simp [hreq, hheld]

theorem execGnt_ignored (h : s.pow.req = false ∨ s.pow.held = true) : exec .gnt s = .next s := by
  refine congrArg Host.Outcome.next ?_
  rcases h with h | h <;> simp [h]

theorem State.startRamp_cons {r : Ramp} {rest : List Ramp} (h : s.pow.want.filterMap s.stillWanted = r :: rest) :
    s.startRamp = { s with
      rampTab := s.rampNext.getD s.rampTab, rampNext := none
      pow := { s.pow with held := true, want := rest, ramp := some r, rampStart := s.now, waitTicks := 0, waitLogged := false } } := by
  rw [State.startRamp, h]

theorem State.startRamp_nil (h : s.pow.want.filterMap s.stillWanted = []) :
    s.startRamp = { s with pow := { s.pow.giveToken with want := [] } } := by
  rw [State.startRamp, h]

/-! ### Which ramps are still wanted (R306, R308) -/

theorem mem_allGroups (g : Fin 16) : g ∈ allGroups := by
  revert g
  decide

theorem mem_sortGroups (g : Fin 16) (gs : List (Fin 16)) : g ∈ sortGroups gs ↔ g ∈ gs := by
  simp [sortGroups, mem_allGroups]

theorem sortGroups_filter_eq_nil (gs : List (Fin 16)) (p : Fin 16 → Bool) :
    (sortGroups gs).filter p = [] ↔ ∀ g ∈ gs, p g = false := by
  simp [List.filter_eq_nil_iff, mem_sortGroups]

theorem State.stillWanted_wake (gs : List (Fin 16)) : s.stillWanted (.wake gs) = none ↔ ∀ h ∈ gs, s.pow.awake.get h = true := by
  have hnil := sortGroups_filter_eq_nil gs (fun g => !s.pow.awake.get g)
  simp only [Bool.not_eq_false'] at hnil
  rw [← hnil]
  simp [State.stillWanted]

theorem State.stillWanted_release (gs : List (Fin 16)) :
    s.stillWanted (.release gs) = none ↔ ∀ h ∈ gs, s.pow.awake.get h = true → s.now < s.pow.lastBeat.get h + s.dwell := by
  have hnil := sortGroups_filter_eq_nil gs (fun g => s.pow.awake.get g && decide (s.pow.lastBeat.get g + s.dwell ≤ s.now))
  simp only [Bool.and_eq_false_imp, decide_eq_false_iff_not, Nat.not_le] at hnil
  rw [← hnil]
  simp [State.stillWanted]

/-! ### Releases of lane groups (R308) -/

section
variable {g : Fin 16}

/-- A group in use that is asked for by no release, and has been without a beat for its dwell, asks for its release. -/
theorem execLaneGroupRelease_asks (hup : s.up = true) (hawake : s.pow.awake.get g = true) (hdwell : s.pow.lastBeat.get g + s.dwell ≤ s.now)
    (hnew : ∀ gs, .release gs ∈ s.pow.ramp.toList ++ s.pow.want → g ∉ gs) :
    exec (.laneGroupRelease g) s = .next { s with pow := s.pow.wantRelease s.now g } := by
  obtain ⟨hstep, hrun⟩ : s.eng.step = 7 ∧ s.pow.state = .running := by simpa [State.up] using hup
  refine congrArg Host.Outcome.next (if_neg fun h => ?_)
  simp only [Bool.or_eq_true] at h
  rcases h with (((h | h) | h) | h) | h
  case inl.inr =>
    obtain ⟨r, hr, hg⟩ := List.any_eq_true.mp h
    cases r with
    | release gs => exact hnew gs hr (by simpa using hg)
    | _ => simp at hg
  all_goals simp [State.alive, State.isFatal, hstep, hrun, hawake, Nat.not_lt.mpr hdwell] at h

theorem execLaneGroupRelease_early (hdwell : s.now < s.pow.lastBeat.get g + s.dwell) : exec (.laneGroupRelease g) s = .next s := by
  refine congrArg Host.Outcome.next (if_pos ?_)
  simp [hdwell]

theorem execLaneGroupRelease_first (hup : s.up = true) (hawake : s.pow.awake.get g = true) (hdwell : s.pow.lastBeat.get g + s.dwell ≤ s.now)
    (hwant : s.pow.want = []) (hramp : s.pow.ramp = none) (hret : s.pow.ret = false) :
    exec (.laneGroupRelease g) s = .next { s with pow := { s.pow with
      want := [.release [g]], req := true, reqSince := if s.pow.req then s.pow.reqSince else s.now } } := by
  rw [execLaneGroupRelease_asks hup hawake hdwell (by simp [hwant, hramp]), Power.wantRelease, hwant, Power.ask_idle _ _ hramp hwant hret]
  rfl

theorem execLaneGroupRelease_joins {gs : List (Fin 16)} (hup : s.up = true) (hawake : s.pow.awake.get g = true)
    (hdwell : s.pow.lastBeat.get g + s.dwell ≤ s.now) (hwant : s.pow.want = [.release gs]) (hnew : g ∉ gs) (hramp : s.pow.ramp = none) :
    exec (.laneGroupRelease g) s = .next { s with pow := { s.pow with want := [.release (sortGroups (g :: gs)).reverse] } } := by
  rw [execLaneGroupRelease_asks hup hawake hdwell (by simp [hwant, hramp, hnew]), Power.wantRelease, hwant]
  rfl

end

/-! ### The long wait for a token (R309) -/

/-- A wait of 1,000 ticks that has not been logged writes one POWER entry. -/
theorem execPower_logs (hrun : s.pow.state = .running) (hreq : s.pow.req = true) (hheld : s.pow.held = false)
    (hlogged : s.pow.waitLogged = false) (hwait : 1000 ≤ s.pow.waitTicks) :
    exec .power s = .next { s with
      pow := { s.pow with waitLogged := true }, log := s.logNext 0x0A 0 0xB none (BitVec.ofNat 64 s.pow.waitTicks) 0 } := by
  refine congrArg Host.Outcome.next ?_
  rw [if_pos (by simp [hreq, hheld, hlogged, hwait, State.served_of_running hrun]), State.logErr_plain _ _ _ _ _ _ (by decide)]
  rfl

theorem execPower_logged (h : s.pow.waitLogged = true) : exec .power s = .next s :=
  congrArg Host.Outcome.next (if_neg (by simp [h]))

end

/-! ### The obligation of power states and ramps -/

/-- Settles O15: each request and each ramp's end is its own lemma; a wake and a release by the groups they leave awake. -/
theorem powerStatesAndRamps : Obligations.PowerStatesAndRamps := by
  unfold Obligations.PowerStatesAndRamps
  refine ⟨fun s => ⟨execRetainRequest_refused, execRetainRequest_taken, execRetainExit_idle, ?off⟩, fun s gs e g hret => ⟨?wake, ?release, ?mode, ?exit,
    fun r hr => execRampComplete_early hr⟩, ?entry⟩
  case off => exact ⟨s.off, rfl, rfl, SameMem.of_eq (s := s) (t := s.off) rfl rfl, rfl, rfl, rfl, rfl, rfl, rfl, rfl, rfl, rfl, rfl, rfl, rfl⟩
  case wake =>
    intro hr h
    exact ⟨_, execRampComplete_wake hret hr h, rfl, rfl, rfl, rfl, rfl, Power.rise_awake s.pow h g⟩
  case release =>
    intro hr h
    exact ⟨_, execRampComplete_release hret hr h, rfl, rfl, rfl, rfl, rfl, Power.fall_awake s.pow h g⟩
  case mode =>
    intro hr h
    exact ⟨execRampComplete_mode_beats hr, fun hout => ⟨_, execRampComplete_mode hret hr h hout, rfl, rfl, rfl, rfl, rfl, rfl, rfl⟩⟩
  case exit =>
    intro hr h
    exact ⟨_, execRampComplete_retainOut hret hr h, rfl, rfl, rfl, rfl, rfl, rfl⟩
  case entry =>
    intro s hr h
    have hstep := execRampComplete_retainIn hr h
    have hkept := s.retained_keeps
    generalize s.retained = u at hstep hkept
    obtain ⟨hmem, hslots, hdescs, hfmts, hrts, hgroups, hlog, htel, htlb, hwalks, hreqs, hregions, hkeys⟩ := hkept
    refine ⟨_, hstep, rfl, rfl, hmem, hslots, hdescs, hfmts, hrts, hgroups, hlog, htel, htlb, hwalks, hreqs, hregions, fun k => ?_⟩
    change u.sec.keys.get k = none
    simp [hkeys, vector_get_eq]

/-! ### The obligation of tokens and releases -/

/-- Settles O16: what GNT starts, which ramps are still wanted, and the two commands that ask for a release and log a long wait. -/
theorem tokensAndReleases : Obligations.TokensAndReleases := by
  unfold Obligations.TokensAndReleases
  refine ⟨fun s r rest => ⟨fun hreq hheld h => ?starts, fun hreq hheld h => ?returned, execGnt_ignored⟩, fun s g gs =>
    ⟨State.stillWanted_wake gs, State.stillWanted_release gs, execLaneGroupRelease_first, ?joins, fun _ => execLaneGroupRelease_early, ?logs⟩⟩
  case starts => rw [execGnt_taken hreq hheld, State.startRamp_cons h]
  case returned =>
    rw [execGnt_taken hreq hheld, State.startRamp_nil h]
    exact ⟨_, rfl, rfl, rfl, rfl, rfl, rfl, rfl, rfl⟩
  case joins =>
    intro hup hawake hdwell hwant hnew hramp
    exact ⟨_, execLaneGroupRelease_joins hup hawake hdwell hwant hnew hramp, fun h => by simp [mem_sortGroups]⟩
  case logs =>
    intro hrun hreq hheld hlogged hwait
    exact ⟨_, execPower_logs hrun hreq hheld hlogged hwait, rfl, rfl, rfl, s.logNext_summary .., execPower_logged rfl⟩

end Sys2Proof.Machine
end

section
/-! SUPPORT. The end of an EC (R364, R368, R369): the one write left for it acts after the counts of the EC, and what each such write leaves.
Translation invalidations (R153, R363, R365). -/

namespace Sys2Proof.Machine

/-! ### Temperatures through an engine clock -/

section
variable (s : State)

theorem Power.retDone_temps (p : Power) (now : Nat) : (p.retDone now).temp = p.temp ∧ (p.retDone now).tempMax = p.tempMax := by
  unfold Power.retDone
  split
  · obtain ⟨req, since, ticks, logged, h⟩ := Power.request_eq { p with ret := false } now
    rw [h]
    exact ⟨rfl, rfl⟩
  · exact ⟨rfl, rfl⟩

theorem State.rampProgress_tempMax : s.rampProgress.pow.tempMax = s.pow.tempMax := by
  unfold State.rampProgress
  dsimp only
  rw [Power.fall_eq, Power.rise_eq]
  split
  · split <;> rfl
  · rfl

theorem State.retainNext_tempMax : s.retainNext.pow.tempMax = s.pow.tempMax := by
  obtain ⟨want, req, since, ticks, logged, h, -⟩ := s.retainNext_eq
  rw [h]

/-! ### The clock and the write left for the end of the EC -/

/-- The state at the end of an EC of the running clock, with everything counted that the EC counts, before the writes left for its end act. -/
def State.counted : State :=
  { s with
    evt := 0, pow := s.pow.retDone (s.now + 1), tel := s.telEc, port := s.portTel
    staging := if s.bist.busyUntil ≤ s.now + 1 then s.staging.filter (fun p => p.2 != benchUser) else s.staging }

theorem clockTick_of_running (h : s.pow.state = .running) : clockTick s = s.counted.endEc.clockOn.retainNext := by
  unfold clockTick
  dsimp only
  rw [if_pos h]
  rfl

variable {s}

theorem State.endEc_of_late {a : LateAct} (h : s.eng.late = [a]) : s.endEc = { s.act a with eng := { (s.act a).eng with late := [] } } := by
  unfold State.endEc
  rw [h]
  rfl

theorem Fr.ctxs {ks : List Piece} {s t : State} (h : Fr ks s t) (hctx : ∀ c, Piece.ctx c ∉ ks) : t.ctxs = s.ctxs := by
  ext1 i hi
  exact h.same (.ctx ⟨i, hi⟩) (hctx _)

/-- The clock after the end of an EC counts the EC and lets a ramp go on. -/
theorem Fr.clockOn {ks : List Piece} {s t : State} (h : Fr ks s t) (hnow : .now ∈ ks) (hpow : .pow ∈ ks) : Fr ks s t.clockOn.retainNext := by
  have counted : Fr ks s { t with now := t.now + 1 } := by
    refine ⟨fun p hp => ?_⟩
    have same := h.same p hp
    cases p
    case now => exact absurd hnow hp
    all_goals exact same
  exact (counted.rampProgress hpow).retainNext hpow

/-- An EC of the running clock at whose end one write acts: it acts on the counted state, and besides it only the clock and a ramp go on. -/
theorem step_late {a : LateAct} (hempty : s.pending = []) (hrun : s.pow.state = .running) (hlate : s.eng.late = [a]) :
    ∃ t, step s = .next t ∧ t.eng.late = [] ∧ Fr [.now, .pow, .eng] (s.counted.act a) t ∧ t.pow.tempMax = (s.counted.act a).pow.tempMax := by
  have hstep : step s = .next s.counted.endEc.clockOn.retainNext := by
    rw [step_of_pending_nil hempty, clockTick_of_running s hrun]
  rw [State.endEc_of_late (s := s.counted) hlate] at hstep
  have kept : Fr [.now, .pow] _ _ := Fr.clockOn
    (.refl [.now, .pow] { s.counted.act a with eng := { (s.counted.act a).eng with late := [] } }) (by decide) (by decide)
  refine ⟨_, hstep, congrArg Engine.late (kept.same .eng (by decide)),
    Fr.clockOn (Fr.withEng (.refl _ _) _ (by decide)) (by decide) (by decide), ?_⟩
  rw [State.retainNext_tempMax, State.clockOn, State.rampProgress_tempMax]

/-! ### What the write does -/

/-- The counters that a CNT_CLEAR value names, as it leaves them. -/
theorem State.cntClear_eq (s : State) (v : Word) : s.cntClear v = { s with
    tel := { s.tel with
      stall := if bitAt v 0 then Vector.replicate 16 0 else s.tel.stall
      busy := if bitAt v 0 then 0 else s.tel.busy
      mac16 := if bitAt v 1 then 0 else s.tel.mac16
      mac8 := if bitAt v 1 then 0 else s.tel.mac8
      energy := if bitAt v 2 then 0 else s.tel.energy
      idle := if bitAt v 3 then 0 else s.tel.idle
      fallow := if bitAt v 3 then 0 else s.tel.fallow
      prefetchDrop := if bitAt v 4 then 0 else s.tel.prefetchDrop
      detach := if bitAt v 4 then 0 else s.tel.detach
      tokenWait := if bitAt v 4 then 0 else s.tel.tokenWait
      mgmtDenied := if bitAt v 4 then 0 else s.tel.mgmtDenied }
    pow := { s.pow with tempMax := if bitAt v 5 then s.pow.temp else s.pow.tempMax }
    port := if bitAt v 6 then s.clearReduce.port else s.port
    tick := if bitAt v 7 then { s.tick with early := 0, localCount := 0 } else s.tick } := by
  have hstall (u : State) : u.clearIf v 0 State.clearStall = { u with tel := { u.tel with
      stall := if bitAt v 0 then Vector.replicate 16 0 else u.tel.stall, busy := if bitAt v 0 then 0 else u.tel.busy } } := by
    unfold State.clearIf
    split <;> rfl
  have hmac (u : State) : u.clearIf v 1 State.clearMac = { u with tel := { u.tel with
      mac16 := if bitAt v 1 then 0 else u.tel.mac16, mac8 := if bitAt v 1 then 0 else u.tel.mac8 } } := by
    unfold State.clearIf
    split <;> rfl
  have henergy (u : State) : u.clearIf v 2 State.clearEnergy = { u with tel := { u.tel with
      energy := if bitAt v 2 then 0 else u.tel.energy } } := by
    unfold State.clearIf
    split <;> rfl
  have hidle (u : State) : u.clearIf v 3 State.clearIdle = { u with tel := { u.tel with
      idle := if bitAt v 3 then 0 else u.tel.idle, fallow := if bitAt v 3 then 0 else u.tel.fallow } } := by
    unfold State.clearIf
    split <;> rfl
  have hmisc (u : State) : u.clearIf v 4 State.clearMisc = { u with tel := { u.tel with
      prefetchDrop := if bitAt v 4 then 0 else u.tel.prefetchDrop, detach := if bitAt v 4 then 0 else u.tel.detach
      tokenWait := if bitAt v 4 then 0 else u.tel.tokenWait, mgmtDenied := if bitAt v 4 then 0 else u.tel.mgmtDenied } } := by
    unfold State.clearIf
    split <;> rfl
  have htemp (u : State) : u.clearIf v 5 State.clearTempMax = { u with pow := { u.pow with
      tempMax := if bitAt v 5 then u.pow.temp else u.pow.tempMax } } := by
    unfold State.clearIf
    split <;> rfl
  have hreduce (u : State) : u.clearIf v 6 State.clearReduce = { u with port := if bitAt v 6 then u.clearReduce.port else u.port } := by
    unfold State.clearIf
    split <;> rfl
  have htick (u : State) : u.clearIf v 7 State.clearTick = { u with
      tick := if bitAt v 7 then { u.tick with early := 0, localCount := 0 } else u.tick } := by
    unfold State.clearIf
    split <;> rfl
  rw [State.cntClear, hstall, hmac, henergy, hidle, hmisc, htemp, hreduce, htick]
  rfl

/-- A CNT_CLEAR write at the end of its EC. -/
theorem step_clear {v : Word} (hempty : s.pending = []) (hrun : s.pow.state = .running) (hlate : s.eng.late = [.counters v]) :
    ∃ t, step s = .next t ∧ t.eng.late = [] ∧ Fr [.now, .pow, .eng] (s.counted.cntClear v) t
      ∧ t.pow.tempMax = (if bitAt v 5 then s.pow.temp else s.pow.tempMax) := by
  obtain ⟨t, hstep, hdone, hframe, htemp⟩ := step_late hempty hrun hlate
  obtain ⟨htemps, hmax⟩ := s.pow.retDone_temps (s.now + 1)
  refine ⟨t, hstep, hdone, hframe, htemp.trans ?_⟩
  rw [← htemps, ← hmax, State.act, State.cntClear_eq]
  rfl

/-- The channels after CNT_CLEAR.REDUCE: every counter is zero, the one of the EC too. -/
theorem State.clearReduce_counted (k : Chan) : s.counted.clearReduce.port.chans.get k =
    { s.port.chans.get k with pktsSent := 0, pktsRecv := 0, creditWait := 0, lateDrop := 0, badPeer := 0 } := by
  simp only [State.clearReduce, State.modPort, State.counted, State.portTel, vector_get_eq, Vector.getElem_map, Vector.getElem_ofFn]
  split <;> rfl

/-- The counters of a context that a CTX_CLEAR value names, as it leaves them. -/
theorem State.ctxClear_ctx (x : Context) (v : Word) (c : CtxNo) (h : s.ctx c = x) : (s.ctxClear c v).ctx c = { x with
    oobSilent := if bitAt v 0 then 0 else x.oobSilent
    idxNeg := if bitAt v 1 then 0 else x.idxNeg
    idxOob := if bitAt v 1 then 0 else x.idxOob
    slices := if bitAt v 2 then 0 else x.slices
    cuts := if bitAt v 2 then 0 else x.cuts
    overruns := if bitAt v 2 then 0 else x.overruns
    overrunEc := if bitAt v 2 then 0 else x.overrunEc
    maxOverrun := if bitAt v 2 then 0 else x.maxOverrun
    heldTicks := if bitAt v 2 then 0 else x.heldTicks
    bubbles := if bitAt v 2 then 0 else x.bubbles } := by
  rw [State.ctxClear, State.ctx_modCtx_same, h]
  cases bitAt v 0 <;> cases bitAt v 1 <;> cases bitAt v 2 <;> rfl

/-! ### Writes that wait for the end of the EC -/

theorem exec_counterClears (hw : s.windowOpen = true) :
    ∀ p ∈ [(Instr.clearStall, 1#32), (.clearMac, 2), (.clearEnergy, 4), (.clearIdle, 8), (.clearMisc, 16), (.clearTempMax, 32),
      (.clearReduce, 64), (.clearTick, 128)], exec p.1 s = .next (s.later (.counters p.2)) := by
  have waits (v : Word) := congrArg (Host.Outcome.next (φ := Fault) (ρ := Refusal)) (State.writeClear_open hw v)
  simp only [List.forall_mem_cons, List.not_mem_nil, false_imp_iff, implies_true, and_true]
  exact ⟨waits _, waits _, waits _, waits _, waits _, waits _, waits _, waits _⟩

theorem exec_contextClears {c : CtxNo} (hw : s.windowOpen = true) (hr : (s.ctx c).resetting = false) :
    ∀ p ∈ [(Instr.clearOobSilent c, 1#32), (.clearIdx c, 2), (.clearSched c, 4)], exec p.1 s = .next (s.later (.context c p.2)) := by
  have waits (v : Word) := congrArg (Host.Outcome.next (φ := Fault) (ρ := Refusal)) (State.writeCtxClear_open hw hr v)
  simp only [List.forall_mem_cons, List.not_mem_nil, false_imp_iff, implies_true, and_true]
  exact ⟨waits _, waits _, waits _⟩

theorem State.logLater_open (hl : s.logOpen = true) (a : LateAct) : s.logLater a = s.later a := if_pos hl

theorem exec_logRdIdx_taken (hl : s.logOpen = true) {v : Word} (h : dist32 s.log.wr v ≤ dist32 s.log.wr s.log.rd) :
    exec (.logRdIdx v) s = .next (s.later (.advance v)) := by
  refine congrArg Host.Outcome.next ?_
  rw [State.writeRdIdx, ErrLog.rdOk, decide_eq_true h, if_pos rfl, State.logLater_open hl]

theorem exec_logRdIdx_ignored {v : Word} (h : dist32 s.log.wr s.log.rd < dist32 s.log.wr v) : exec (.logRdIdx v) s = .next s := by
  refine congrArg Host.Outcome.next ?_
  rw [State.writeRdIdx, ErrLog.rdOk, decide_eq_false (Nat.not_le.mpr h)]
  rfl

theorem ErrLog.advance_eq (l : ErrLog) (v : Word) :
    l.advance v = if dist32 l.wr v ≤ dist32 l.wr l.rd then { l with rd := v } else l := by
  simp [ErrLog.advance, ErrLog.rdOk]

end

/-! ### The obligation of clears and log registers -/

/-- Settles O4: the writes wait as `State.later`; at the end of the EC `State.act` does what they name on the counted state. -/
theorem counterClearsAndLogRegisters : Obligations.CounterClearsAndLogRegisters := by
  unfold Obligations.CounterClearsAndLogRegisters
  refine ⟨fun s c v => ⟨fun hw => ⟨exec_counterClears hw, exec_contextClears hw⟩, fun hl => ⟨?rearms, ?clears, ?acks, exec_logRdIdx_taken hl,
    exec_logRdIdx_ignored⟩⟩, fun s v c hempty hrun => ⟨fun hlate => ?counters, fun hlate => ?context, fun hlate => ?lost, fun hlate => ?rearm,
    fun hlate => ?advance⟩⟩
  case rearms => exact congrArg _ (State.logLater_open hl _)
  case clears => exact congrArg _ (State.logLater_open hl _)
  case acks => exact congrArg _ (if_pos hl)
  case counters =>
    obtain ⟨t, hstep, hdone, hframe, htemp⟩ := step_clear hempty hrun hlate
    rw [State.cntClear_eq] at hframe
    have hport : t.port = if bitAt v 6 then s.counted.clearReduce.port else s.portTel := hframe.same .port (by decide)
    refine ⟨t, hstep, hdone, hframe.ctxs (by simp), hframe.same .log (by decide), hframe.sameMem (by decide) (by decide),
      hframe.same .tel (by decide), htemp, ?_, ?_, ?_, fun k => ?_, hframe.same .tick (by decide)⟩
    all_goals rw [hport]
    case refine_4 =>
      split
      · exact State.clearReduce_counted k
      · rfl
    all_goals split <;> rfl
  case context =>
    obtain ⟨t, hstep, hdone, hframe, -⟩ := step_late hempty hrun hlate
    have hclear : Fr [.ctx c] s.counted (s.counted.ctxClear c v) := Fr.ctxClear (.refl _ _) c v (by simp)
    refine ⟨t, hstep, hdone, fun d hd => ?_, hframe.same .log (by decide), hframe.same .tel (by decide), hframe.same .tick (by decide),
      hframe.sameMem (by decide) (by decide), ?_⟩
    · exact (hframe.same (.ctx d) (by simp)).trans (hclear.same (.ctx d) (by simpa using hd))
    · exact (hframe.same (.ctx c) (by simp)).trans (State.ctxClear_ctx (s := s.counted) _ v c rfl)
  case lost =>
    obtain ⟨t, hstep, hdone, hframe, -⟩ := step_late hempty hrun hlate
    exact ⟨t, hstep, hdone, hframe.same .log (by decide), hframe.ctxs (by simp)⟩
  case rearm =>
    obtain ⟨t, hstep, hdone, hframe, -⟩ := step_late hempty hrun hlate
    exact ⟨t, hstep, hdone, hframe.same .log (by decide), hframe.ctxs (by simp)⟩
  case advance =>
    obtain ⟨t, hstep, hdone, hframe, -⟩ := step_late hempty hrun hlate
    exact ⟨t, hstep, hdone, hframe.ctxs (by simp), (hframe.same .log (by decide)).trans (s.log.advance_eq v)⟩

/-! ### Invalidations (R153, R363, R365) -/

section
variable {s : State}

/-- An invalidation that the window takes while fewer than 16 are outstanding. -/
theorem State.invalidate_taken (hw : s.windowOpen = true) (h : s.invals.length < 16) (v : Inval) : s.invalidate v = { s with
    invals := s.invals ++ [v], invalReq := s.invalReq + 1, tlb := s.tlb.filter (fun e => !v.names e.page) } := by
  simp [State.invalidate, hw, Nat.not_le.mpr h]

theorem State.invalidate_full (h : 16 ≤ s.invals.length) (v : Inval) : s.invalidate v = s := by simp [State.invalidate, h]

theorem State.keepInvalLo_open (hw : s.windowOpen = true) (v : Word) : s.keepInvalLo v = { s with eng := { s.eng with invalLo := v } } := if_pos hw

theorem State.keepInvalLo_invalidate_taken (hw : s.windowOpen = true) (h : s.invals.length < 16) (lo : Word) (v : Inval) :
    (s.keepInvalLo lo).invalidate v = { s with
      invals := s.invals ++ [v], invalReq := s.invalReq + 1, tlb := s.tlb.filter (fun e => !v.names e.page)
      eng := { s.eng with invalLo := lo } } := by
  have hopen := State.keepInvalLo_open hw lo
  have hwindow : (s.keepInvalLo lo).windowOpen = true := by rwa [hopen]
  rw [State.invalidate_taken hwindow (by rwa [hopen]), hopen]

theorem State.keepInvalLo_invalidate_full (hw : s.windowOpen = true) (h : 16 ≤ s.invals.length) (lo : Word) (v : Inval) :
    (s.keepInvalLo lo).invalidate v = { s with eng := { s.eng with invalLo := lo } } := by
  have hopen := State.keepInvalLo_open hw lo
  rw [State.invalidate_full (by rwa [hopen]), hopen]

theorem State.invalBusy_eq_false {v : Inval} (hreqs : ∀ r ∈ s.reqs, v.names r.page = false)
    (hxlats : ∀ c : CtxNo, ∀ p ∈ (s.ctx c).xlats, v.names p.1 = false) : s.invalBusy v = false := by
  simp only [State.invalBusy, Bool.or_eq_false_iff, List.any_eq_false]
  refine ⟨fun r hr => by simp [hreqs r hr], fun c _ => ?_⟩
  simpa using hxlats c

theorem execInvalidationComplete_done {v : Inval} {rest : List Inval} (halive : s.alive = true) (hinvals : s.invals = v :: rest)
    (hidle : s.invalBusy v = false) : exec .invalidationComplete s =
      .next { s with invals := rest, invalDone := s.invalDone + 1, tlb := s.tlb.filter (fun e => !v.names e.page) } := by
  refine congrArg Host.Outcome.next ?_
  rw [State.invalComplete, hinvals]
  simp [halive, hidle]

end

/-- Settles O8: an accepted invalidation joins the queue, the oldest one leaves it once nothing uses what it names. -/
theorem invalidationsInOrder : Obligations.InvalidationsInOrder := by
  unfold Obligations.InvalidationsInOrder
  refine ⟨fun s page hw => ⟨fun hroom => ⟨?all, ?page⟩, fun hfull => ⟨?allFull, ?pageFull⟩⟩, ?complete⟩
  case all =>
    refine congrArg Host.Outcome.next ?_
    rw [State.keepInvalLo_invalidate_taken hw hroom]
    simp [Inval.names]
  case page =>
    refine congrArg Host.Outcome.next ?_
    rw [State.keepInvalLo_invalidate_taken hw hroom]
    simp [Inval.names, bne, BEq.comm]
  case allFull => exact congrArg _ (State.keepInvalLo_invalidate_full hw hfull ..)
  case pageFull => exact congrArg _ (State.keepInvalLo_invalidate_full hw hfull ..)
  case complete =>
    intro s v rest halive hinvals hreqs hxlats
    refine ⟨_, execInvalidationComplete_done halive hinvals (State.invalBusy_eq_false hreqs hxlats), rfl, fun p => ?_⟩
    simp

end Sys2Proof.Machine
end

section
/-! SUPPORT. The debug port (R339 to R341), start-up (R351 to R353, R357, R359) and channel training (R354 to R356, R358): what each of their
operations makes of the state, as an equation, and the outcomes of their commands. -/

namespace Sys2Proof.Machine

/-- A command's outcome with something left open, from the state that it ends in. -/
theorem next_of_state {α : Type} {f : α → State} {t : State} (h : ∃ a, t = f a) : ∃ a, (Host.Outcome.next t : Out) = .next (f a) :=
  h.imp fun _ => congrArg _

section
variable {s : State}

/-! ### The debug port (R339 to R341) -/

theorem State.mgmtUp_of_ne_off (h : s.pow.state ≠ .off) : s.mgmtUp = true := by simp [State.mgmtUp, h]

theorem execDbgChallenge_draws (hup : s.pow.state ≠ .off) (hopen : s.sec.refuses = false) : exec .dbgChallenge s = .next { s with
    free := s.free + 1
    sec := { s.sec with nonce := some (Config.random s.free), shifted := s.sec.shifted ++ [(Config.random s.free, Config.uniqueId)] } } :=
  congrArg Host.Outcome.next (if_neg (by simp [State.mgmtUp_of_ne_off hup, hopen]))

theorem execDbgChallenge_refused (hshut : s.sec.refuses = true) : exec .dbgChallenge s = .next s :=
  congrArg Host.Outcome.next (if_pos (by simp [hshut]))

section
variable {level : Byte} {key : BitVec 776} {r q : BitVec 384}

/-- A response that verifies opens the port and writes an entry (R340). -/
theorem execDbgResponseVerified_opens (halive : s.alive = true) (hresp : s.sec.response = some (level, key, r, q))
    (hok : responseOk s.sec.nonce level key r q = true) :
    ∃ l, exec .dbgResponseVerified s = .next { s with sec := { s.sec.unlock level with response := none }, log := l } := by
  refine next_of_state ?_
  rw [hresp]
  dsimp only
  rw [if_neg (by simp [halive]), if_pos hok, State.logErr_plain _ _ _ _ _ _ (by decide)]
  exact ⟨_, rfl⟩

/-- One that does not verify counts; the third in a row shuts the port (R341). -/
theorem execDbgResponseVerified_fails (halive : s.alive = true) (hresp : s.sec.response = some (level, key, r, q))
    (hbad : responseOk s.sec.nonce level key r q = false) :
    ∃ l, exec .dbgResponseVerified s = .next { s with
      sec := { s.sec with response := none, failures := s.sec.failures + 1, refuses := s.sec.refuses || decide (3 ≤ s.sec.failures + 1) }
      log := l } := by
  refine next_of_state ?_
  rw [hresp]
  dsimp only
  rw [if_neg (by simp [halive]), if_neg (by simp [hbad]), State.logErr_plain _ _ _ _ _ _ (by decide)]
  exact ⟨_, rfl⟩

theorem Security.unlock_full (x : Security) :
    x.unlock 2 = { x with dbg := .full, dbgFull := true, keys := Vector.replicate 16 none, pendKey := none, failures := 0 } := rfl

theorem Security.unlock_observe {x : Security} (h : x.dbg ≠ .full) : x.unlock 1 = { x with dbg := .observe, failures := 0 } := by
  rw [Security.unlock, if_neg (by decide), if_neg h]

end

/-! ### The neighbour report (R357) -/

theorem State.reportCh_eq (s : State) (k : Chan) : ∃ r n, s.reportCh k = { s with mgmt := { s.mgmt with reports := r, reportSeq := n } }
    ∧ ∀ d : Chan, r.get d = if d = k then (s.train.get k).word else s.mgmt.reports.get d := by
  unfold State.reportCh
  dsimp only
  split
  case isTrue h => exact ⟨_, _, rfl, fun d => by split <;> simp_all⟩
  case isFalse => exact ⟨_, _, rfl, fun d => vector_get_set ..⟩

/-- Channels reported one after another: each word is its channel's, the others stay. -/
theorem State.foldl_reportCh (ks : List Chan) (s : State) :
    ∃ r n, ks.foldl State.reportCh s = { s with mgmt := { s.mgmt with reports := r, reportSeq := n } }
      ∧ ∀ d : Chan, r.get d = if d ∈ ks then (s.train.get d).word else s.mgmt.reports.get d := by
  induction ks generalizing s with
  | nil => exact ⟨_, _, rfl, fun d => rfl⟩
  | cons k rest ih =>
    obtain ⟨r, n, hk, hr⟩ := s.reportCh_eq k
    obtain ⟨r', n', hrest, hr'⟩ := ih (s.reportCh k)
    rw [hk] at hrest hr'
    refine ⟨r', n', by rw [List.foldl_cons, hk, hrest], fun d => ?_⟩
    rw [hr']
    dsimp only
    rw [hr]
    by_cases hd : d = k <;> simp [hd]

theorem mem_allChans (k : Chan) : k ∈ allChans := by
  revert k
  decide

/-- The report brought up to date carries every channel's word. -/
theorem State.report_eq (s : State) : ∃ r n, s.report = { s with mgmt := { s.mgmt with reports := r, reportSeq := n } }
    ∧ ∀ d : Chan, r.get d = (s.train.get d).word := by
  obtain ⟨r, n, h, hr⟩ := State.foldl_reportCh allChans s
  exact ⟨r, n, h, fun d => by rw [hr, if_pos (mem_allChans d)]⟩

/-! ### The steps of start-up (R8, R337, R351, R353, R359) -/

theorem execResetRelease_off (hoff : s.pow.state = .off) (hramp : s.pow.ramp = none) (hwant : s.pow.want = []) (hret : s.pow.ret = false) :
    exec .resetRelease s = .next { s with
      eng := { s.eng with step := 1, stepStart := s.now }
      pow := { s.pow with
        state := .running, want := [.startUp], req := true, reqSince := if s.pow.req then s.pow.reqSince else s.now } } := by
  have hask := Power.ask_idle (p := { s.pow with state := .running }) s.now .startUp hramp hwant hret
  refine congrArg Host.Outcome.next ?_
  rw [if_pos hoff, hask]
  rfl

theorem execNeighbourReport_ready (hrun : s.pow.state = .running) (hstep : s.eng.step = 6) :
    exec .neighbourReport s = .next (s.readyTables.report.startStep 7) :=
  congrArg Host.Outcome.next (if_pos ⟨hrun, hstep⟩)

theorem execPositionRead_good (hrun : s.pow.state = .running) (hstep : s.eng.step = 4) (hpos : positionOk s.mgmt.position.toNat = true) :
    exec .positionRead s = .next { s with
      eng := { s.eng with step := 5, stepStart := s.now, position := s.mgmt.position }
      train := s.train.map (fun t => { t with probing := true, nextProbe := s.now }) } := by
  refine congrArg Host.Outcome.next ?_
  simp only [hrun, hstep, hpos]
  rfl

/-- A FATAL entry of an engine that has not stopped before stops it with the entry's class. -/
theorem State.logErr_stops (h : s.eng.step ≠ 15) (cls : BitVec 6) (u : BitVec 4) (c : Option CtxNo) (a b : BitVec 64) :
    s.logErr cls 3 u c a b = { s with
      log := s.logNext cls 3 u c a b
      eng := { s.eng with step := 15, fatalClass := cls }
      mgmt := { s.mgmt with alertFatal := true } } := by
  rw [State.logErr_fatal, if_neg (by simpa [State.isFatal] using h)]

theorem execPositionRead_bad (hrun : s.pow.state = .running) (hstep : s.eng.step = 4) (hpos : positionOk s.mgmt.position.toNat = false) :
    ∃ l, exec .positionRead s = .next { s with
      log := l, eng := { s.eng with step := 15, fatalClass := 0x10 }, mgmt := { s.mgmt with alertFatal := true } } := by
  refine next_of_state ?_
  rw [if_neg (by simp [hrun, hstep]), if_pos (by simp [hpos]), State.logErr_stops (by simp [hstep])]
  exact ⟨_, rfl⟩

theorem State.trainFail_eq (s : State) (k : Chan) : ∃ l, s.trainFail k = { s with log := l } := by
  unfold State.trainFail
  dsimp only
  split
  · exact ⟨_, rfl⟩
  · exact ⟨_, State.logErr_plain _ _ _ _ _ _ (by decide)⟩

theorem State.foldl_trainFail (ks : List Chan) (s : State) : ∃ l, ks.foldl State.trainFail s = { s with log := l } := by
  induction ks generalizing s with
  | nil => exact ⟨_, rfl⟩
  | cons k rest ih =>
    obtain ⟨l, hk⟩ := s.trainFail_eq k
    obtain ⟨l', hrest⟩ := ih (s.trainFail k)
    exact ⟨l', by rw [List.foldl_cons, hrest, hk]⟩

theorem vector_toList_all {α : Type} {n : Nat} (v : Vector α n) (p : α → Bool) : v.toList.all p = true ↔ ∀ i : Fin n, p (v.get i) = true := by
  simp only [List.all_eq_true, Vector.mem_toList_iff, Vector.mem_iff_getElem, vector_get_eq]
  exact ⟨fun h i => h _ ⟨i.val, i.isLt, rfl⟩, fun h x ⟨i, hi, hx⟩ => hx ▸ h ⟨i, hi⟩⟩

/-- Is the training window over: its EC have passed, or every channel is trained (R351, log 43)? -/
def State.windowOver (s : State) : Bool :=
  decide (s.eng.stepStart + 22400000 ≤ s.now) || s.train.toList.all (fun t => t.link == 1)

theorem State.windowOver_iff : s.windowOver = true ↔ (∀ k : Chan, (s.train.get k).link = 1) ∨ s.eng.stepStart + 22400000 ≤ s.now := by
  simp only [State.windowOver, Bool.or_eq_true, decide_eq_true_eq, vector_toList_all, beq_iff_eq]
  exact or_comm

theorem execTrainingWindowEnd_step (hrun : s.pow.state = .running) (hstep : s.eng.step = 5) :
    exec .trainingWindowEnd s = .next (if s.windowOver then (allChans.foldl State.trainFail s).startStep 6 else s) :=
  congrArg Host.Outcome.next (if_neg (by simp [hrun, hstep]))

theorem execImageVerification_good (hrun : s.pow.state = .running) (hstep : s.eng.step = 3) (h : s.imageCheck = 0) :
    exec .imageVerification s = .next { s with eng := { s.eng with
      step := 4, stepStart := s.now, jexloVer := s.jexloHeader.extractLsb' 32 32, svn := fld s.jexloHeader 64 8, verified := true } } := by
  refine congrArg Host.Outcome.next ?_
  rw [if_neg (by simp [hrun, hstep]), h]
  rfl

theorem execImageVerification_bad (hrun : s.pow.state = .running) (hstep : s.eng.step = 3) (h : s.imageCheck ≠ 0) :
    ∃ l, exec .imageVerification s = .next { s with
      log := l, eng := { s.eng with step := 15, fatalClass := 0x0C }, mgmt := { s.mgmt with alertFatal := true, alertAuth := true } } := by
  refine next_of_state ?_
  rw [if_neg (by simp [hrun, hstep])]
  dsimp only
  split
  case h_1 h0 => exact absurd h0 h
  case h_2 =>
    rw [State.logErr_stops (by simp [hstep])]
    exact ⟨_, rfl⟩

end

/-! ### The obligations of the debug port and of start-up -/

/-- Settles O17: a response's outcome is whether it verifies; a level is opened as `Security.unlock` opens it. -/
theorem debugPortOpens : Obligations.DebugPortOpens := by
  unfold Obligations.DebugPortOpens
  refine ⟨fun s level key r q hup => ⟨execDbgChallenge_draws hup, execDbgChallenge_refused, ?response, ?lock⟩,
    fun s level key r q halive hresp => ⟨fun hok hlevel => ?full, fun hok hlevel hdbg => ?observe, fun hbad => ?bad⟩⟩
  case response => exact congrArg Host.Outcome.next (if_pos (State.mgmtUp_of_ne_off hup))
  case lock => exact congrArg Host.Outcome.next (if_pos (State.mgmtUp_of_ne_off hup))
  case full =>
    obtain ⟨l, hstep⟩ := execDbgResponseVerified_opens halive hresp hok
    rw [hlevel, Security.unlock_full] at hstep
    exact ⟨_, hstep, rfl, rfl, rfl, fun k => by simp [vector_get_eq], rfl⟩
  case observe =>
    obtain ⟨l, hstep⟩ := execDbgResponseVerified_opens halive hresp hok
    rw [hlevel, Security.unlock_observe hdbg] at hstep
    exact ⟨_, hstep, rfl, rfl⟩
  case bad =>
    obtain ⟨l, hstep⟩ := execDbgResponseVerified_fails halive hresp hbad
    exact ⟨_, hstep, rfl, rfl⟩

/-- Settles O20: each step of start-up is its own lemma; the report and the failures at the window's end by their folds over the channels. -/
theorem startupSequence : Obligations.StartupSequence := by
  unfold Obligations.StartupSequence
  refine ⟨⟨fun s => ⟨?release, ?ready, ?legal, ?illegal⟩, fun s hrun hstep => ⟨?ends, ?waits⟩⟩, fun s hrun hstep => ⟨?good, ?bad⟩⟩
  case release =>
    intro hoff hramp hwant hret
    exact ⟨_, execResetRelease_off hoff hramp hwant hret, rfl, rfl, rfl, rfl, rfl⟩
  case ready =>
    intro hrun hstep
    obtain ⟨r, n, hreport, hr⟩ := s.readyTables.report_eq
    refine ⟨_, execNeighbourReport_ready hrun hstep, rfl, ?_⟩
    rw [hreport]
    exact ⟨rfl, hr⟩
  case legal =>
    intro hrun hstep hpos
    exact ⟨_, execPositionRead_good hrun hstep hpos, rfl, rfl, fun k => by simp [vector_get_eq], rfl⟩
  case illegal =>
    intro hrun hstep hpos
    obtain ⟨l, h⟩ := execPositionRead_bad hrun hstep hpos
    exact ⟨_, h, rfl, rfl, rfl⟩
  case ends =>
    intro hover
    obtain ⟨l, hfold⟩ := State.foldl_trainFail allChans s
    refine ⟨_, execTrainingWindowEnd_step hrun hstep, ?_⟩
    rw [if_pos (State.windowOver_iff.mpr hover), hfold]
    exact ⟨rfl, rfl⟩
  case waits =>
    intro ⟨k, hk⟩ hnow
    rw [execTrainingWindowEnd_step hrun hstep, if_neg]
    rw [State.windowOver_iff]
    exact not_or_intro (fun h => hk (h k)) (Nat.not_le.mpr hnow)
  case good =>
    intro h
    exact ⟨_, execImageVerification_good hrun hstep h, rfl, rfl, rfl, rfl, rfl⟩
  case bad =>
    intro h
    obtain ⟨l, hnext⟩ := execImageVerification_bad hrun hstep h
    exact ⟨_, hnext, rfl, rfl, rfl, rfl, rfl, SameMem.of_eq rfl rfl⟩

end Sys2Proof.Machine
end

section
/-! SUPPORT. Channel training (R354 to R356, R358): each operation on a channel as an equation of the state, and the outcomes of its commands. -/

namespace Sys2Proof.Machine

/-! ### Operations on a channel -/

section
variable (s : State) (k : Chan)

/-- Training of one channel changes that channel's training, and the report of it. -/
theorem State.modTrain_eq (f : Train → Train) : ∃ r n, s.modTrain k f = { s with
    train := s.train.set k.val (f (s.train.get k)) k.isLt, mgmt := { s.mgmt with reports := r, reportSeq := n } } := by
  unfold State.modTrain
  dsimp only
  split
  · obtain ⟨r, n, h, -⟩ := State.reportCh_eq { s with train := s.train.set k.val (f (s.train.get k)) k.isLt } k
    exact ⟨r, n, h⟩
  · exact ⟨_, _, rfl⟩

/-- Training of one channel leaves the others as they are. -/
theorem State.modTrain_train (f : Train → Train) (d : Chan) :
    (s.modTrain k f).train.get d = if d = k then f (s.train.get k) else s.train.get d := by
  obtain ⟨r, n, h⟩ := s.modTrain_eq k f
  rw [h]
  exact vector_get_set ..

theorem State.modCh_chans (f : Channel → Channel) (d : Chan) :
    (s.modCh k f).port.chans.get d = if d = k then f (s.port.chans.get k) else s.port.chans.get d :=
  vector_get_set ..

/-- The port after TRAIN packets went out on a channel, or came in: what is sent stands last, and the other channels are as before. -/
def PortSent (k : Chan) (ps : List Packet) (s t : State) : Prop :=
  t = { s with port := t.port } ∧ t.port.out = s.port.out ++ ps.map (fun x => (k, x))
    ∧ ∀ d : Chan, d ≠ k → t.port.chans.get d = s.port.chans.get d

theorem State.sendTrain_sent (ps : List Packet) : PortSent k ps s (s.sendTrain k ps) := by
  unfold State.sendTrain
  dsimp only
  split
  · exact ⟨rfl, rfl, fun d hd => (State.modCh_chans _ k _ d).trans (if_neg hd)⟩
  · exact ⟨rfl, rfl, fun d hd => rfl⟩

theorem State.tookTrain_sent : PortSent k [] s (s.tookTrain k) := by
  unfold State.tookTrain
  split
  · exact ⟨rfl, by simp, fun d hd => rfl⟩
  · exact ⟨rfl, by simp [State.modCh, State.modPort], fun d hd => (State.modCh_chans _ k _ d).trans (if_neg hd)⟩

theorem State.tookTrain_eq : ∃ p, s.tookTrain k = { s with port := p } := ⟨_, (s.tookTrain_sent k).1⟩

/-- A channel that is not trained takes packets from any position. -/
theorem State.meet_untrained {s : State} {k : Chan} (h : (s.train.get k).link ≠ 1) (pos : BitVec 15) : s.meet k pos = s := by
  have hknown : s.strange k pos = false := by rw [State.strange, beq_eq_false_iff_ne.mpr h, Bool.false_and]
  simp [State.meet, hknown]

/-- An untrained channel takes a TRAIN packet: it is counted, and nothing else happens before what the packet itself does. -/
theorem State.tookTrain_meet {s : State} {k : Chan} (h : (s.train.get k).link ≠ 1) (pos : BitVec 15) :
    (s.tookTrain k).meet k pos = s.tookTrain k := by
  obtain ⟨p, hp⟩ := s.tookTrain_eq k
  refine State.meet_untrained ?_ pos
  rwa [hp]

theorem State.newPartner_train (pos : BitVec 15) :
    (s.newPartner k pos).train.get k = { s.train.get k with partner := pos } := by
  have hk : (s.modTrain k (fun t => { t with partner := pos })).train.get k = { s.train.get k with partner := pos } :=
    (s.modTrain_train k _ k).trans (if_pos rfl)
  unfold State.newPartner
  dsimp only
  split
  · rw [State.logErr_plain _ _ _ _ _ _ (by decide)]
    exact hk
  · exact hk

/-- A trained channel that trains again: it starts over, and counts it (R358). -/
theorem State.retrainCh_train : (s.retrainCh k).train.get k =
    { (s.train.get k).restart s.now with retrains := satAdd (s.train.get k).retrains 1 } := by
  unfold State.retrainCh
  dsimp only
  rw [State.logErr_plain _ _ _ _ _ _ (by decide)]
  exact (s.modTrain_train k _ k).trans (if_pos rfl)

theorem State.retrainCh_sameMem : SameMem s (s.retrainCh k) :=
  (Fr.retrainCh (.refl [.eng, .risk, .log, .mgmt, .train] s) k (by decide) (by decide) (by decide) (by decide) (by decide)).sameMem
    (by decide) (by decide)

/-- A failed receiver starts over; a channel that is not trained reads FAILED (R356, R357). -/
theorem State.rxFail_train (pos : BitVec 15) :
    (s.rxFail k pos).train.get k = { (s.train.get k).rxReset with link := if (s.train.get k).link = 1 then 1 else 2 } := by
  unfold State.rxFail
  rw [State.logErr_plain _ _ _ _ _ _ (by decide)]
  exact (s.modTrain_train k _ k).trans (if_pos rfl)

theorem State.rxFail_sameMem (pos : BitVec 15) : SameMem s (s.rxFail k pos) := by
  obtain ⟨r, n, h⟩ := s.modTrain_eq k (fun t => { t.rxReset with link := if t.link = 1 then 1 else 2 })
  unfold State.rxFail
  rw [State.logErr_plain _ _ _ _ _ _ (by decide), h]
  exact SameMem.of_eq rfl rfl

end

/-! ### PROBE and ACK (R354, R355) -/

section
variable {s : State} {k : Chan}

/-- A probe taken and answered: the acknowledgement stands last among what is sent. -/
theorem State.answered_sent (s : State) (k : Chan) : PortSent k [s.trainPacket 1 s.eng.step.toNat []] s ((s.tookTrain k).sendAck k) := by
  obtain ⟨htook, hout, hchans⟩ := s.tookTrain_sent k
  obtain ⟨hsent, hout', hchans'⟩ := (s.tookTrain k).sendTrain_sent k [(s.tookTrain k).trainPacket 1 (s.tookTrain k).eng.step.toNat []]
  have heng : (s.tookTrain k).eng = s.eng := by rw [htook]
  refine ⟨?_, ?_, fun d hd => (hchans' d hd).trans (hchans d hd)⟩
  · rw [State.sendAck, hsent, htook]
  · rw [State.sendAck, hout', hout, State.trainPacket, heng]
    simp [State.trainPacket]

theorem execProbe_answers (hon : s.pow.state ≠ .off) (hstep : s.eng.step ≠ 1) :
    ∃ t, exec (.probe k) s = .next t ∧ t.port.out = s.port.out ++ [(k, s.trainPacket 1 s.eng.step.toNat [])] ∧ SameMem s t
      ∧ ∀ d : Chan, d ≠ k → t.train.get d = s.train.get d ∧ t.port.chans.get d = s.port.chans.get d := by
  obtain ⟨hsent, hout, hchans⟩ := s.answered_sent k
  have hexec : exec (.probe k) s = .next (if (s.train.get k).link = 3 && s.trains then
      ((s.tookTrain k).sendAck k).modTrain k (fun t => { t with link := 0, probing := true, nextProbe := s.now })
      else (s.tookTrain k).sendAck k) :=
    congrArg Host.Outcome.next (if_neg (by rw [decide_eq_false hon, decide_eq_false hstep]; decide))
  refine ⟨_, hexec, ?_⟩
  split
  · obtain ⟨r, n, h⟩ := ((s.tookTrain k).sendAck k).modTrain_eq k (fun t => { t with link := 0, probing := true, nextProbe := s.now })
    have hmem : SameMem s ((s.tookTrain k).sendAck k) := by
      rw [hsent]
      exact SameMem.of_eq rfl rfl
    refine ⟨by rw [h]; exact hout, hmem.trans (by rw [h]; exact SameMem.of_eq rfl rfl), fun d hd => ⟨?_, by rw [h]; exact hchans d hd⟩⟩
    rw [State.modTrain_train, if_neg hd, hsent]
  · exact ⟨hout, by rw [hsent]; exact SameMem.of_eq rfl rfl, fun d hd => ⟨by rw [hsent], hchans d hd⟩⟩

theorem execProbeSend_due (htrains : s.trains = true) (h1 : (s.train.get k).link ≠ 1) (h3 : (s.train.get k).link ≠ 3)
    (hprobing : (s.train.get k).probing = true) (hdue : (s.train.get k).nextProbe ≤ s.now) :
    ∃ t, exec (.probeSend k) s = .next t ∧ t.port.out = s.port.out ++ [(k, s.trainPacket 0 0 [])]
      ∧ t.train.get k = { s.train.get k with
        probes := (s.train.get k).probes + 1, nextProbe := s.now + s.gapNow (s.train.get k), awaiting := some s.now, probing := true } := by
  have hgo : (!s.trains || decide ((s.train.get k).link = 1) || decide ((s.train.get k).link = 3) || decide (s.now < (s.train.get k).nextProbe)
      || !((s.train.get k).probing || s.eng.step == 7)) = false := by
    rw [htrains, decide_eq_false h1, decide_eq_false h3, decide_eq_false (Nat.not_lt.mpr hdue), hprobing]
    rfl
  refine ⟨_, congrArg Host.Outcome.next (if_neg (Bool.eq_false_iff.mp hgo)), ?_⟩
  obtain ⟨r, n, h⟩ := s.modTrain_eq k
    (fun t => { t with probes := t.probes + 1, nextProbe := s.now + s.gapNow t, awaiting := some s.now, probing := true })
  have hk := s.modTrain_train k
    (fun t => { t with probes := t.probes + 1, nextProbe := s.now + s.gapNow t, awaiting := some s.now, probing := true }) k
  obtain ⟨hsent, hout, -⟩ := (s.modTrain k
    (fun t => { t with probes := t.probes + 1, nextProbe := s.now + s.gapNow t, awaiting := some s.now, probing := true })).sendTrain_sent k
      [s.trainPacket 0 0 []]
  refine ⟨by rw [hout, h]; rfl, ?_⟩
  rw [hsent]
  exact hk.trans (if_pos rfl)

theorem State.gapNow_eq (s : State) (t : Train) : s.gapNow t = if s.eng.step = 7 then 4480000 else 280000 * 2 ^ min t.probes 4 := rfl

/-- The partner of an untrained channel is named before its ACK does anything else. -/
theorem State.named_train (h1 : (s.train.get k).link ≠ 1) (pos : BitVec 15) :
    (((s.tookTrain k).meet k pos).newPartner k pos).train.get k = { s.train.get k with partner := pos } := by
  obtain ⟨p, hp⟩ := s.tookTrain_eq k
  rw [State.tookTrain_meet h1, State.newPartner_train, hp]

theorem Train.acked_of_untrained (t : Train) (now : Nat) : (t.acked now).partner = t.partner ∧ (t.acked now).txReady = true
    ∧ (t.acked now).awaiting = none := by
  have both (u : Train) : u.both.partner = u.partner ∧ u.both.txReady = u.txReady ∧ u.both.awaiting = u.awaiting := by
    unfold Train.both
    split <;> exact ⟨rfl, rfl, rfl⟩
  unfold Train.acked
  dsimp only
  split
  all_goals
    split
    · exact both _
    · exact ⟨rfl, rfl, rfl⟩

theorem execAck_takes (htrains : s.trains = true) (step : BitVec 4) (pos : BitVec 15) : exec (.ack k step pos) s = .next (
    if step = 15 then (((s.tookTrain k).meet k pos).newPartner k pos).modTrain k (fun t => { t with link := 3, probing := false, awaiting := none })
    else if step.toNat < 5 then (((s.tookTrain k).meet k pos).newPartner k pos).modTrain k
      (fun t => if t.link = 3 then { t with link := 0, probing := true, nextProbe := s.now } else t)
    else (((s.tookTrain k).meet k pos).newPartner k pos).modTrain k (fun t => t.acked s.now)) :=
  congrArg Host.Outcome.next (if_neg (by simp [htrains]))

theorem execAck_partner (htrains : s.trains = true) (h1 : (s.train.get k).link ≠ 1) {step : BitVec 4} {pos : BitVec 15}
    (hlow : 5 ≤ step.toNat) (hhigh : step.toNat < 15) :
    ∃ t, exec (.ack k step pos) s = .next t ∧ t.train.get k = { s.train.get k with partner := pos }.acked s.now := by
  have hstep : step ≠ 15 := fun h => by simp [h] at hhigh
  refine ⟨_, execAck_takes htrains step pos, ?_⟩
  rw [if_neg hstep, if_neg (by omega), State.modTrain_train, if_pos rfl, State.named_train h1]

theorem execAck_fatal (htrains : s.trains = true) (h1 : (s.train.get k).link ≠ 1) (pos : BitVec 15) :
    ∃ t, exec (.ack k 15 pos) s = .next t
      ∧ t.train.get k = { s.train.get k with partner := pos, link := 3, probing := false, awaiting := none } := by
  refine ⟨_, execAck_takes htrains 15 pos, ?_⟩
  rw [if_pos rfl, State.modTrain_train, if_pos rfl, State.named_train h1]

/-! ### DATA, DIGEST, timeouts and retraining (R356, R358) -/

theorem execTrainData_takes (htrains : s.trains = true) (h1 : (s.train.get k).link ≠ 1) {p : Packet} (hkind : p.kind = 4) (hbucket : p.bucket = 2) :
    ∃ t, exec (.trainData k p) s = .next t ∧ t.train.get k = (s.train.get k).taken p s.now := by
  obtain ⟨port, hport⟩ := s.tookTrain_eq k
  refine ⟨_, congrArg Host.Outcome.next (if_neg (by simp [htrains, hkind, hbucket])), ?_⟩
  rw [State.tookTrain_meet h1, State.modTrain_train, if_pos rfl, hport]

/-- Does a DIGEST complete the receiver's direction: all packets, every sum, the position and the digest (R356)? -/
def Train.digestOk (t : Train) (pos : BitVec 15) (crc : BitVec 64) : Bool := t.rxCount = 256 && t.rxOk && pos == t.partner && crc == t.rxCrc

theorem Train.digestOk_iff (t : Train) (pos : BitVec 15) (crc : BitVec 64) :
    t.digestOk pos crc = true ↔ t.rxCount = 256 ∧ t.rxOk = true ∧ pos = t.partner ∧ crc = t.rxCrc := by
  simp [Train.digestOk, and_assoc]

theorem execDigest_takes (htrains : s.trains = true) (h1 : (s.train.get k).link ≠ 1) (pos : BitVec 15) (crc : BitVec 64) :
    exec (.digest k pos crc) s = .next (if (s.train.get k).digestOk pos crc
      then ((s.tookTrain k).modTrain k (fun t => ({ t.rxReset with rxDone := true }).both)).sendAck k else (s.tookTrain k).rxFail k pos) := by
  obtain ⟨port, hport⟩ := s.tookTrain_eq k
  have htrain : (s.tookTrain k).train = s.train := by rw [hport]
  refine congrArg Host.Outcome.next ?_
  rw [if_neg (by simp [htrains]), State.tookTrain_meet h1]
  dsimp only
  rw [htrain]
  rfl

theorem Train.both_rxDone (t : Train) : t.both.rxDone = t.rxDone := by
  unfold Train.both
  split <;> rfl

theorem Train.both_link {t : Train} (htx : t.txDone = true) (hrx : t.rxDone = true) : t.both.link = 1 := by simp [Train.both, htx, hrx]

theorem execDigest_good (htrains : s.trains = true) (h1 : (s.train.get k).link ≠ 1) {pos : BitVec 15} {crc : BitVec 64}
    (hok : (s.train.get k).digestOk pos crc = true) :
    ∃ t, exec (.digest k pos crc) s = .next t ∧ t.train.get k = ({ (s.train.get k).rxReset with rxDone := true }).both
      ∧ t.port.out = s.port.out ++ [(k, s.trainPacket 1 s.eng.step.toNat [])] := by
  obtain ⟨htook, hout, -⟩ := s.tookTrain_sent k
  obtain ⟨r, n, h⟩ := (s.tookTrain k).modTrain_eq k (fun t => ({ t.rxReset with rxDone := true }).both)
  have hk := (s.tookTrain k).modTrain_train k (fun t => ({ t.rxReset with rxDone := true }).both) k
  obtain ⟨hsent, hout', -⟩ := State.sendTrain_sent ((s.tookTrain k).modTrain k (fun t => ({ t.rxReset with rxDone := true }).both)) k
    [State.trainPacket ((s.tookTrain k).modTrain k (fun t => ({ t.rxReset with rxDone := true }).both)) 1
      ((s.tookTrain k).modTrain k (fun t => ({ t.rxReset with rxDone := true }).both)).eng.step.toNat []]
  refine ⟨_, (execDigest_takes htrains h1 pos crc).trans (by rw [if_pos hok]), ?_, ?_⟩
  · rw [State.sendAck, hsent]
    dsimp only
    rw [hk, if_pos rfl, htook]
  · rw [State.sendAck, hout', h]
    dsimp only
    rw [hout, htook]
    simp [State.trainPacket]

theorem execDigest_bad (htrains : s.trains = true) (h1 : (s.train.get k).link ≠ 1) {pos : BitVec 15} {crc : BitVec 64}
    (hbad : ¬ (s.train.get k).digestOk pos crc = true) :
    ∃ t, exec (.digest k pos crc) s = .next t ∧ t.train.get k = { (s.train.get k).rxReset with link := 2 } := by
  obtain ⟨port, hport⟩ := s.tookTrain_eq k
  refine ⟨_, (execDigest_takes htrains h1 pos crc).trans (by rw [if_neg hbad]), ?_⟩
  rw [State.rxFail_train, hport]
  dsimp only
  rw [if_neg h1]

theorem execTrainingTimeout_fails (htrains : s.trains = true) (hsome : (s.train.get k).rxCount ≠ 0) (hless : (s.train.get k).rxCount < 256)
    (hdue : (s.train.get k).rxStart + 14000 ≤ s.now) : exec (.trainingTimeout k) s = .next (s.rxFail k (s.train.get k).partner) :=
  congrArg Host.Outcome.next (if_pos (by simp [htrains, hsome, hless, hdue]))

theorem execRetrain_down (htrains : s.trains = true) (h1 : (s.train.get k).link = 1) : exec (.retrain k none) s = .next (s.retrainCh k) :=
  congrArg Host.Outcome.next ((if_neg (by simp [htrains])).trans (if_pos h1))

theorem execRetrain_packet (htrains : s.trains = true) (pos : BitVec 15) :
    exec (.retrain k (some pos)) s = .next (if s.strange k pos then s.retrainCh k else s) :=
  congrArg Host.Outcome.next (if_neg (by simp [htrains]))

theorem State.strange_iff (h1 : (s.train.get k).link = 1) (pos : BitVec 15) : s.strange k pos = true ↔ pos ≠ (s.train.get k).partner := by
  rw [State.strange, beq_iff_eq.mpr h1, Bool.true_and, bne_iff_ne, ne_comm]

end

/-! ### The obligations of channel training -/

/-- Settles O21: the answer to a PROBE, the probe that is due, and what an ACK makes of its channel. -/
theorem probesAndAcknowledgements : Obligations.ProbesAndAcknowledgements := by
  unfold Obligations.ProbesAndAcknowledgements
  refine ⟨fun s k => execProbe_answers, fun s k step pos htrains => ⟨fun h1 h3 hprobing hdue => ?send, fun h1 hlow hhigh => ?partner,
    fun h1 hstep => ?fatal⟩⟩
  case send =>
    obtain ⟨t, hexec, hout, htrain⟩ := execProbeSend_due htrains h1 h3 hprobing hdue
    refine ⟨t, hexec, hout, ?_⟩
    rw [htrain]
    exact ⟨rfl, rfl, rfl⟩
  case partner =>
    obtain ⟨t, hexec, htrain⟩ := execAck_partner htrains h1 (pos := pos) hlow hhigh
    refine ⟨t, hexec, ?_⟩
    rw [htrain]
    exact Train.acked_of_untrained _ _
  case fatal =>
    obtain ⟨t, hexec, htrain⟩ := execAck_fatal htrains h1 pos
    refine ⟨t, hstep ▸ hexec, ?_⟩
    rw [htrain]
    exact ⟨rfl, rfl, rfl⟩

/-- Settles O22: a DATA packet by `Train.taken`, a DIGEST by `Train.digestOk`, failures by `State.rxFail`, retraining by `State.retrainCh`. -/
theorem trainingChecksData : Obligations.TrainingChecksData := by
  unfold Obligations.TrainingChecksData
  refine ⟨fun s k p pos crc htrains h1 => ⟨fun hkind hbucket => ?data, fun hcount hok hpos hcrc => ?good, fun hbad => ?bad⟩,
    fun s k p htrains => ⟨fun hsome hless hdue h1 => ?timeout, fun h1 => ⟨?down, fun hp => ?stranger, ?partner⟩⟩⟩
  case data =>
    obtain ⟨t, hexec, htrain⟩ := execTrainData_takes htrains h1 hkind hbucket
    refine ⟨t, hexec, ?_⟩
    rw [htrain]
    exact ⟨rfl, rfl, rfl⟩
  case good =>
    obtain ⟨t, hexec, htrain, hout⟩ := execDigest_good htrains h1 ((Train.digestOk_iff ..).mpr ⟨hcount, hok, hpos, hcrc⟩)
    refine ⟨t, hexec, ?_, fun htx => ?_, hout⟩
    · rw [htrain, Train.both_rxDone]
    · rw [htrain]
      exact Train.both_link htx rfl
  case bad =>
    obtain ⟨t, hexec, htrain⟩ := execDigest_bad htrains h1 (mt (Train.digestOk_iff ..).mp hbad)
    refine ⟨t, hexec, ?_⟩
    rw [htrain]
    exact ⟨rfl, rfl⟩
  case timeout =>
    refine ⟨_, execTrainingTimeout_fails htrains hsome hless hdue, ?_, ?_, s.rxFail_sameMem k _⟩
    · rw [State.rxFail_train, if_neg h1]
    · rw [State.rxFail_train]
      rfl
  case down =>
    refine ⟨_, execRetrain_down htrains h1, ?_⟩
    rw [State.retrainCh_train]
    exact ⟨rfl, rfl, rfl, s.retrainCh_sameMem k⟩
  case stranger =>
    refine ⟨_, (execRetrain_packet htrains p).trans (by rw [if_pos ((State.strange_iff h1 p).mpr hp)]), ?_⟩
    rw [State.retrainCh_train]
    exact ⟨rfl, rfl, rfl⟩
  case partner =>
    rw [execRetrain_packet htrains, if_neg]
    rw [State.strange_iff h1]
    exact not_not_intro rfl

end Sys2Proof.Machine
end

section
/-! SUPPORT. The tick boundary (R190, R245, R346, R349): what each of its duties makes of the state. -/

namespace Sys2Proof.Machine

section
variable (s : State)

/-! ### The duties one after another -/

/-- A slice beside the boundary changes no command of any context (R242). -/
theorem State.sliceBoundary_cmds (c : CtxNo) : (s.sliceBoundary.ctx c).cmds = (s.ctx c).cmds := by
  have kept (t : State) (d : CtxNo) (f : Context → Context) (hf : ∀ x, (f x).cmds = x.cmds) (ht : t.ctxs = s.ctxs) :
      ((t.modCtx d f).ctx c).cmds = (s.ctx c).cmds := by
    have hctx (e : CtxNo) : t.ctx e = s.ctx e := congrArg (·.get e) ht
    rw [State.ctx_modCtx]
    split
    · rw [hf, hctx, ← ‹c = d›]
    · rw [hctx]
  unfold State.sliceBoundary
  split
  · rfl
  · split
    · exact kept s _ _ (fun _ => rfl) rfl
    · split
      · rfl
      · exact kept _ _ _ (fun x => by split <;> rfl) rfl

/-- What a boundary's report says of a state: the tick's follower, the heartbeat, the temperatures, the contexts and the memories. -/
def State.boundaryView : Tick × Word × Vector (BitVec 16) 16 × Vector Context 8 × Memory × Memory :=
  (s.tick, s.mgmt.heartbeat, s.pow.temp, s.ctxs, s.core, s.remote)

theorem State.takeTemps_view (temps : Vector (BitVec 16) 16) :
    (s.takeTemps temps).boundaryView = (s.tick, s.mgmt.heartbeat, temps, s.ctxs, s.core, s.remote) := by
  unfold State.takeTemps
  dsimp only
  split <;> rfl

theorem State.takeMap_view : s.takeMap.boundaryView = s.boundaryView := by
  unfold State.takeMap
  split
  · rfl
  · split
    · rfl
    · dsimp only
      rw [State.logErr_plain _ _ _ _ _ _ (by decide)]
      rfl

theorem State.trainSend_view (k : Chan) : (s.trainSend k).boundaryView = s.boundaryView := by
  unfold State.trainSend
  dsimp only
  split
  · obtain ⟨r, n, h⟩ := s.modTrain_eq k (fun t => { t with txSent := true })
    rw [(State.sendTrain_sent _ k _).1, h]
    rfl
  · rfl

theorem State.foldl_trainSend_view (ks : List Chan) : (ks.foldl State.trainSend s).boundaryView = s.boundaryView := by
  induction ks generalizing s with
  | nil => rfl
  | cons k rest ih => rw [List.foldl_cons, ih, State.trainSend_view]

/-! ### The boundary -/

/-- What a boundary leaves: the tick's follower advanced, the heartbeat and the temperatures, every context's part in it. -/
theorem State.boundary_view (at_ : Nat) (byClock : Bool) (temps : Vector (BitVec 16) 16) : (s.boundary at_ byClock temps).boundaryView =
    (s.tick.advance at_ byClock, s.tick.count + 1, temps, s.sliceBoundary.ctxBoundary at_, s.sliceBoundary.core, s.sliceBoundary.remote) := by
  unfold State.boundary
  dsimp only
  rw [State.foldl_trainSend_view, State.takeMap_view, State.takeTemps_view]
  rfl

theorem State.boundary_sameMem (at_ : Nat) (byClock : Bool) (temps : Vector (BitVec 16) 16) : SameMem s (s.boundary at_ byClock temps) := by
  have hslice : Fr (.lane :: everyCtx) s s.sliceBoundary :=
    Fr.sliceBoundary (.refl _ s) (fun d => List.mem_cons_of_mem _ (Fr.mem_everyCtx d)) (by decide)
  have hview := s.boundary_view at_ byClock temps
  simp only [State.boundaryView, Prod.mk.injEq] at hview
  obtain ⟨-, -, -, -, hcore, hremote⟩ := hview
  exact SameMem.of_eq (hcore.trans (hslice.same .core (by decide))) (hremote.trans (hslice.same .remote (by decide)))

/-- The commands of a context at a boundary: each takes its part in it (R190, R293). -/
theorem State.ctxBoundary_cmds (at_ : Nat) (c : CtxNo) :
    ∃ opens late, ((s.sliceBoundary.ctxBoundary at_).get c).cmds = (s.ctx c).cmds.map (fun m => m.boundary at_ opens late) := by
  refine ⟨s.sliceBoundary.ckpt.pending.isSome, allCtx.find? s.sliceBoundary.oversizedRuns, ?_⟩
  rw [← s.sliceBoundary_cmds c, State.ctxBoundary, vector_get_eq, Vector.getElem_ofFn]
  change (s.sliceBoundary.ctx c).learn.streamBoundary.cmds.map _ = _
  congr 1
  unfold Context.streamBoundary
  split
  · rfl
  · split <;> rfl

/-- A WAIT counts a boundary after its first unsatisfied read (R190). -/
theorem Cmd.boundary_wait {m : Cmd} {v : BitVec 64} {u n : Nat} {ok timed : Bool}
    (h : m.phase = .running (.waitCounter v (some u) n ok timed)) (at_ : Nat) (opens : Bool) (late : Option CtxNo) :
    (m.boundary at_ opens late).phase = .running (.waitCounter v (some u) (if u < at_ then n + 1 else n) ok timed) := by
  unfold Cmd.boundary
  rw [h]
  simp

theorem State.boundary_wait (at_ : Nat) (byClock : Bool) (temps : Vector (BitVec 16) 16) {c : CtxNo} {i : Nat} {v : BitVec 64} {u n : Nat}
    {ok timed : Bool} (h : PhaseAt s c i (.running (.waitCounter v (some u) n ok timed))) :
    PhaseAt (s.boundary at_ byClock temps) c i (.running (.waitCounter v (some u) (if u < at_ then n + 1 else n) ok timed)) := by
  have hview := s.boundary_view at_ byClock temps
  simp only [State.boundaryView, Prod.mk.injEq] at hview
  obtain ⟨-, -, -, hctxs, -, -⟩ := hview
  obtain ⟨opens, late, hcmds⟩ := s.ctxBoundary_cmds at_ c
  obtain ⟨m, hm, hphase⟩ := Option.map_eq_some_iff.mp h
  unfold PhaseAt
  rw [State.ctx, hctxs, hcmds, List.getElem?_map, hm]
  exact congrArg some (Cmd.boundary_wait hphase at_ opens late)

/-! ### The command -/

variable {s}

theorem execTickBoundary_of_due {byClock : Bool} {at_ : Nat} (hon : s.sampled = true) (hdue : s.tick.due = some (byClock, at_))
    (temps : Vector (BitVec 16) 16) :
    exec (.tickBoundary temps) s = .next (if at_ ≤ s.now then s.boundary at_ byClock temps else s) := by
  refine congrArg Host.Outcome.next ?_
  rw [hdue]
  simp [hon]

theorem execTickBoundary_none (hdue : s.tick.due = none) (temps : Vector (BitVec 16) 16) : exec (.tickBoundary temps) s = .next s := by
  refine congrArg Host.Outcome.next ?_
  rw [hdue]

end

/-! ### The obligation -/

/-- Settles O19: without a boundary due, or before its EC, the command does nothing; else what it leaves is `State.boundary_view`. -/
theorem boundaryDuties : Obligations.BoundaryDuties := by
  unfold Obligations.BoundaryDuties
  refine fun s temps => ⟨fun hdue => execTickBoundary_none hdue temps, fun byClock at_ hon hdue => ?_⟩
  have hexec := execTickBoundary_of_due hon hdue temps
  refine ⟨fun hnow => hexec.trans (by rw [if_neg (Nat.not_le.mpr hnow)]), fun hnow => ?_⟩
  rw [if_pos hnow] at hexec
  have hview := s.boundary_view at_ byClock temps
  simp only [State.boundaryView, Prod.mk.injEq] at hview
  obtain ⟨htick, hheart, htemp, -, -, -⟩ := hview
  refine ⟨_, hexec, ?_, ?_, ?_, ?_, hheart, htemp, s.boundary_sameMem .., fun c i v u n ok timed h => s.boundary_wait _ _ _ h⟩
  all_goals
    rw [htick]
    rfl

end Sys2Proof.Machine
end

section
/-! SUPPORT. In-service self-test, repair and risk (R256, R290, R314 to R317, R324, R325, R350, R351): runs of items that all pass, the fallow
slice, the quick BIST's lanes, a bank's rewrite, the risk window. -/

namespace Sys2Proof.Machine

theorem upFrom_eq_range (lo n : Nat) : upFrom lo n = (List.range n).map (lo + ·) := by
  induction n generalizing lo with
  | zero => rfl
  | succ n ih =>
    rw [upFrom, ih, List.range_succ_eq_map, List.map_cons, List.map_map]
    congr 1
    exact List.map_congr_left fun k _ => by simp [Nat.add_comm, Nat.add_left_comm]

theorem length_upFrom (lo n : Nat) : (upFrom lo n).length = n := by simp [upFrom_eq_range]

section
variable (s : State)

/-! ### Items that pass (R314, R317, R319) -/

theorem State.itemResult_pass (u i k : Nat) : s.itemResult u i [] k = itemPass := by
  unfold State.itemResult
  split <;> rfl

theorem itemSeen_pass (u : Nat) : itemSeen itemPass u = .pass := rfl

/-- An item that passes: its record, no failure, and besides the table of passes only the TLB may change, which loses entries (R317). -/
theorem State.itemDone_pass (u i : Nat) (fallow : Bool) :
    ∃ l t, t ⊆ s.tlb ∧ s.itemDone u i itemPass fallow =
      (itemRecord u 0 0 i itemPass s.tick.count, false, { s with tlb := t, bist := { s.bist with lastPass := l } }) := by
  have hbefore : ∃ t, t ⊆ s.tlb ∧ s.beforeItem u i = { s with tlb := t } := by
    unfold State.beforeItem
    split
    · exact ⟨_, fun e he => (List.mem_filter.mp he).1, rfl⟩
    · exact ⟨_, List.Subset.refl _, rfl⟩
  obtain ⟨t, ht, h⟩ := hbefore
  refine ⟨Tbl.put 0 s.bist.lastPass (itemKey u i) s.tick.count.toNat, t, ht, ?_⟩
  unfold State.itemDone
  rw [itemSeen_pass, h]

/-- Items that all pass run to the end: their records in order, and besides the table of passes only the TLB may change. -/
theorem State.runItems_pass (u i : Nat) (fallow : Bool) (n k : Nat) :
    ∃ l t, t ⊆ s.tlb ∧ State.runItems u i [] fallow n k s =
      ((upFrom k n).map (fun j => itemRecord u 0 0 (i + j) itemPass s.tick.count), { s with tlb := t, bist := { s.bist with lastPass := l } }) := by
  induction n generalizing s k with
  | zero => exact ⟨_, _, List.Subset.refl _, rfl⟩
  | succ n ih =>
    obtain ⟨l, t, ht, hitem⟩ := s.itemDone_pass u (i + k) fallow
    obtain ⟨l', t', ht', hrest⟩ := ih { s with tlb := t, bist := { s.bist with lastPass := l } } (k + 1)
    refine ⟨l', t', fun e he => ht (ht' he), ?_⟩
    rw [State.runItems]
    dsimp only
    rw [State.itemResult_pass, hitem]
    dsimp only
    rw [hrest]
    rfl

variable {s}

/-- Items of an SRAM unit need no lane group. -/
theorem State.groupReady_sram {u : Nat} (h : u ≠ 0) (i n : Nat) : s.groupReady u i n = (true, { s with pow := s.pow.beat s.now [] }) := by
  simp [State.groupReady, h]

/-! ### The fallow slice (R314 to R316) -/

/-- The units in the order in which a fallow slice takes them are those there are. -/
theorem State.fallowUnit_lt {u : Nat} (h : s.fallowUnit = some u) : u < 7 := by
  have hmem := List.mem_of_find?_eq_some h
  simp only [List.mem_cons, List.not_mem_nil, or_false] at hmem
  omega

/-- A cursor that stops before its unit's last item ends no sweep. -/
theorem State.advanceCursor_midway {u n : Nat} (hu : u < 7) (h : s.bist.cursor u + n < unitItems u) :
    s.advanceCursor u n = { s with bist := { s.bist with cursors := s.bist.cursors.setIfInBounds u (s.bist.cursor u + n) } } := by
  refine if_neg ?_
  rw [List.all_eq_true]
  intro hall
  have hmine := hall u (List.mem_range.mpr hu)
  simp [List.getD_eq_getElem?_getD, hu] at hmine
  omega

/-- The staging that a slice of a unit's items holds (R164). -/
def benchStaging (u : Nat) : List (Nat × Nat) := if itemGranules u = 0 then [] else [(itemGranules u, benchUser)]

theorem State.takeBench_eq (s : State) (u : Nat) : s.takeBench u = { s with staging := s.staging ++ benchStaging u } := by
  unfold State.takeBench benchStaging
  split
  · rw [List.append_nil]
  · rfl

/-- A fallow slice of an SRAM unit in a tick without reservation, all its items passing. -/
theorem State.fallowRun_pass {u : Nat} (hu : u < 7) (hsram : u ≠ 0) (hforced : s.bist.forced = false)
    {n : Nat} (hn : n = itemsFit u (unitItems u - s.bist.cursor u) (min 1800 s.fallowBudget)) (hsome : n ≠ 0)
    (hmid : s.bist.cursor u + n < unitItems u) :
    ∃ l t p, s.fallowRun u 0 [] = { s with
      tlb := t, pow := p, staging := s.staging ++ benchStaging u
      bist := { s.bist with
        lastPass := l, cursors := s.bist.cursors.setIfInBounds u (s.bist.cursor u + n), busyUntil := s.now + 80 + n * itemEc u
        wake := none, owner := none, dry := 0, full := true } } := by
  obtain ⟨l, t, -, hrun⟩ := State.runItems_pass { s with pow := s.pow.beat s.now [], staging := s.staging ++ benchStaging u } u (s.bist.cursor u)
    true n 0
  refine ⟨l, t, s.pow.beat s.now [], ?_⟩
  unfold State.fallowRun
  dsimp only
  rw [Nat.sub_zero, ← hn, if_neg hsome, State.groupReady_sram hsram, hforced]
  simp only [Bool.not_true, Bool.false_eq_true, if_false, Bool.false_and]
  rw [State.takeBench_eq, hrun]
  dsimp only
  rw [List.length_map, length_upFrom, State.advanceCursor_midway hu (by exact hmid)]
  simp only [hforced, SelfTest.cursor]

theorem State.fallow_admitted {u : Nat} (hfree : s.fallowFree = true) (hwake : s.bist.wake = none) (hunit : s.fallowUnit = some u)
    (rs : List ItemResult) : exec (.fallowSlice rs) s = .next (s.fallowRun u 0 rs) := by
  refine congrArg Host.Outcome.next ?_
  unfold State.fallow
  rw [hwake]
  simp only [hfree, hunit]
  rfl

/-! ### Lane items whose group is released (R314) -/

theorem mem_dedup {α : Type} [DecidableEq α] {a : α} {l seen : List α} : a ∈ dedup l seen ↔ a ∈ l ∧ a ∉ seen := by
  induction l generalizing seen with
  | nil => simp [dedup]
  | cons b rest ih =>
    rw [dedup]
    split
    · rw [ih]
      by_cases h : a = b <;> simp_all
    · by_cases h : a = b <;> simp_all

/-- Asking for the groups of a slice changes neither which groups are awake nor the ramp in progress. -/
theorem Power.prepare_awake (p : Power) (now : Nat) (gs : List (Fin 16)) (eight : Bool) : (p.prepare now gs eight).awake = p.awake := by
  have requested (q : Power) : (q.request now).awake = q.awake := by
    obtain ⟨req, since, ticks, logged, h⟩ := q.request_eq now
    rw [h]
  unfold Power.prepare Power.wantWake
  dsimp only
  split
  · split
    · exact requested _
    · exact requested _
  · split
    · exact requested _
    · exact requested _

theorem State.groupReady_cold {i n : Nat} {g : Fin 16} (hn : 0 < n) (hg : itemGroup i = some g) (hcold : s.pow.awake.get g = false) :
    ∃ gs, s.groupReady 0 i n = (false, { s with pow := s.pow.prepare s.now gs s.pow.eight }) := by
  have hmem : g ∈ dedup ((upFrom i n).filterMap itemGroup) [] := by
    refine mem_dedup.mpr ⟨List.mem_filterMap.mpr ⟨i, ?_, hg⟩, List.not_mem_nil⟩
    rw [upFrom_eq_range]
    exact List.mem_map.mpr ⟨0, List.mem_range.mpr hn, rfl⟩
  refine ⟨dedup ((upFrom i n).filterMap itemGroup) [], ?_⟩
  unfold State.groupReady
  dsimp only
  rw [if_pos rfl, if_neg]
  intro hall
  exact absurd (List.all_eq_true.mp hall g hmem) (by simp [hcold])

/-- A fallow slice of lane items whose first lane group is released waits for its wake and holds the lane bank for its budget. -/
theorem State.fallowRun_cold {g : Fin 16} (hn : 0 < itemsFit 0 (unitItems 0 - s.bist.cursor 0) (min 1800 s.fallowBudget))
    (hg : itemGroup (s.bist.cursor 0) = some g) (hcold : s.pow.awake.get g = false) (rs : List ItemResult) :
    ∃ gs, s.fallowRun 0 0 rs = { s with
      pow := s.pow.prepare s.now gs s.pow.eight
      bist := { s.bist with wake := some s.now, owner := none, busyUntil := s.now + min 1800 s.fallowBudget } } := by
  obtain ⟨gs, hready⟩ := State.groupReady_cold hn hg hcold
  refine ⟨gs, ?_⟩
  unfold State.fallowRun
  dsimp only
  rw [Nat.sub_zero, if_neg (Nat.ne_of_gt hn), hready]
  rfl

/-! ### Reservation and risk (R256, R290) -/

theorem execRiskWindowEnd_over (halive : s.alive = true) (h : windowTicks s.riskTab ≤ s.risk.ticks) : exec .riskWindowEnd s =
    .next { s with risk := ⟨BitVec.ofNat 8 (riskLevel s.riskTab s.risk.counts), Vector.replicate 4 0, 0⟩ } :=
  congrArg Host.Outcome.next (if_pos (by simp [halive, h]))

theorem riskLevel_lt (tab : BitVec 640) (counts : Vector (BitVec 16) 4) : riskLevel tab counts < 2 ^ 8 :=
  Nat.lt_of_le_of_lt (Nat.min_le_left ..) (by decide)

/-! ### The quick BIST (R325, R351) -/

theorem execQuickBist_lane {l : Fin 130} (hrun : s.pow.state = .running) (hstep : s.eng.step = 2)
    (hbist : s.eng.bistDone = true) (hl : l.val < 64) : exec (.quickBist [l] []) s =
      .next (if (s.quickLane l.val).isFatal then s.quickLane l.val else (s.quickLane l.val).startStep 3) := by
  refine congrArg Host.Outcome.next ?_
  rw [if_neg (by simp [hrun, hstep, hbist])]
  have hplain : ¬ 128 ≤ l.val := by omega
  simp [hplain, Nat.lt_of_not_le hplain, State.startStep]

theorem State.quickLane_spare {lane : Nat} (hl : lane < 64) (hspare : s.bist.sl0 = none) (hgood : s.bist.sl0Bad = false) :
    ∃ g, s.quickLane lane = { s with bist := { s.bist with sl0 := some lane }, log := g } := by
  have hlow : lane < 128 := by omega
  have hhalf : decide (64 ≤ lane) = false := by simpa using hl
  unfold State.quickLane
  dsimp only
  rw [if_pos hlow, if_pos hlow, hhalf]
  simp only [SelfTest.spare, hspare, hgood, Bool.false_eq_true, if_false, Option.isSome_none, Bool.or_false]
  rw [State.logErr_plain _ _ _ _ _ _ (by decide)]
  exact ⟨_, rfl⟩

theorem State.quickLane_gone {lane : Nat} (hl : lane < 64) (hspare : s.bist.sl0 ≠ none) :
    s.quickLane lane = s.logErr 0x06 3 0xE none (BitVec.ofNat 64 lane) (s.tick.count.setWidth 64) := by
  have hlow : lane < 128 := by omega
  have hhalf : decide (64 ≤ lane) = false := by simpa using hl
  have htaken : s.bist.sl0.isSome = true := Option.isSome_iff_ne_none.mpr hspare
  unfold State.quickLane
  dsimp only
  rw [if_pos hlow, if_pos hlow, hhalf, if_pos (by simp [SelfTest.spare, htaken])]

/-! ### A bank's rewrite (R324, R350) -/

theorem execBankRewrite_due {unit : BitVec 4} {bank col : Nat} {tick : Word} (halive : s.alive = true)
    (hquiet : s.bankQuiet unit.toNat bank = true) (hdue : s.bist.rewriteDue = [(unit.toNat, bank, col, tick)]) (htick : tick ≠ s.tick.count) :
    exec (.bankRewrite unit bank) s = .next { s with
      bist := { s.bist with rewriteDue := [], columns := s.bist.columns ++ [(unit.toNat, bank, col)] }
      log := s.logNext 0x05 0 0xE none (BitVec.ofNat 64 (col + bank * 2 ^ 16)) (tick.setWidth 64) } := by
  refine congrArg Host.Outcome.next ?_
  unfold State.bankRewrite
  rw [hdue]
  simp only [List.filter_cons, List.filter_nil, beq_self_eq_true, Bool.true_and, bne_iff_ne.mpr htick, halive, hquiet]
  simp only [if_true, Bool.not_true, Bool.false_eq_true, if_false, List.isEmpty_cons, Bool.or_false, List.map_cons, List.map_nil,
    List.foldl_cons, List.foldl_nil]
  rw [State.logErr_plain _ _ _ _ _ _ (by decide)]
  rfl

end

/-! ### The obligations of self-test and repair -/

/-- Settles O23: a slice of passing items, a slice that waits for its lane groups, the reservation and the risk window by their lemmas. -/
theorem fallowSlicesAndRisk : Obligations.FallowSlicesAndRisk := by
  unfold Obligations.FallowSlicesAndRisk
  refine ⟨fun s u hfree hwake hunit hsram hforced hsome hmid => ?pass, fun s rs g hfree hwake hunit hn hg hcold => ?cold,
    fun s => ⟨fun hup hnext => ?reserve, fun hnext => ?unreserved, fun halive h => ?window, fun h => ?inside⟩⟩
  case pass =>
    obtain ⟨l, t, p, hrun⟩ := State.fallowRun_pass (State.fallowUnit_lt hunit) hsram hforced rfl hsome hmid
    refine ⟨_, State.fallow_admitted hfree hwake hunit [], ?_⟩
    rw [hrun]
    exact ⟨rfl, rfl, rfl, rfl, rfl, SameMem.of_eq rfl rfl, rfl, rfl, rfl⟩
  case cold =>
    obtain ⟨gs, hrun⟩ := State.fallowRun_cold hn hg hcold rs
    refine ⟨_, State.fallow_admitted hfree hwake hunit rs, ?_⟩
    rw [hrun]
    exact ⟨rfl, rfl, rfl, rfl, Power.prepare_awake ..⟩
  case reserve => exact congrArg Host.Outcome.next (if_pos (by simp [hup, hnext]))
  case unreserved => exact congrArg Host.Outcome.next (if_neg (by simp [hnext]))
  case window =>
    refine ⟨_, execRiskWindowEnd_over halive h, rfl, ?_, rfl, fun k => by simp [vector_get_eq]⟩
    exact (BitVec.toNat_ofNat ..).trans (Nat.mod_eq_of_lt (riskLevel_lt ..))
  case inside => exact congrArg Host.Outcome.next (if_neg (by simp [Nat.not_le.mpr h]))

/-- Settles O24: the quick BIST by what it makes of one lane, a bank's rewrite by its lemma. -/
theorem repairMapsSpares : Obligations.RepairMapsSpares := by
  unfold Obligations.RepairMapsSpares
  refine ⟨fun s l hrun hstep hdone hl => ⟨?none, fun hspare hgood => ?mapped, fun hspare => ?gone⟩,
    fun s unit bank col tick halive hquiet hdue htick => ?rewrite⟩
  case none =>
    refine congrArg Host.Outcome.next ((if_neg (by simp [hrun, hstep, hdone])).trans ?_)
    exact if_neg (by simp [State.isFatal, hstep])
  case mapped =>
    obtain ⟨g, hlane⟩ := State.quickLane_spare hl hspare hgood
    refine ⟨_, execQuickBist_lane hrun hstep hdone hl, ?_⟩
    rw [hlane, if_neg (by simp [State.isFatal, hstep])]
    exact ⟨rfl, rfl, SameMem.of_eq rfl rfl⟩
  case gone =>
    refine ⟨_, execQuickBist_lane hrun hstep hdone hl, ?_⟩
    have hgone := (State.quickLane_gone hl hspare).trans (s.logErr_fatal ..)
    have hfatal : (s.quickLane l.val).isFatal = true := by
      rw [hgone]
      rfl
    rw [if_pos hfatal, hgone]
    exact ⟨rfl, rfl⟩
  case rewrite => exact ⟨_, execBankRewrite_due halive hquiet hdue htick, rfl, rfl, rfl, s.logNext_summary ..⟩

end Sys2Proof.Machine
end

section
/-! SUPPORT. NOP, FENCE and BARRIER SIGNAL (R189, R192, R232). -/

namespace Sys2Proof.Machine

theorem ofLeBytes_leBytes (n v : Nat) : ofLeBytes (leBytes n v) = v % 256 ^ n := by
  induction n generalizing v with
  | zero => simp [leBytes, ofLeBytes, Nat.mod_one]
  | succ n ih =>
    rw [leBytes, ofLeBytes, ih, BitVec.toNat_ofNat, Nat.pow_succ' (n := n) (m := 256), Nat.mod_mul]

theorem State.peekAt_finish (s : State) (c : CtxNo) (i : Nat) (r : Reply) (p : Bool × Nat) : (s.finish c i r).peekAt p = s.peekAt p := by
  simp [State.peekAt]

section
variable {s : State} {c : CtxNo} {i : Nat} {m : Cmd} {x : Xlat}

/-! ### NOP and FENCE -/

theorem execNop_finishes (hstart : s.starting c 0x00 = some (i, m)) (hgood : m.reservedBad = none) : exec (.nop c) s = .next (s.finish c i .ok) := by
  refine congrArg Host.Outcome.next ?_
  rw [hstart]
  simp [hgood]

theorem execFence_starts (hstart : s.starting c 0x2C = some (i, m)) (hgood : m.reservedBad = none) :
    exec (.fence c) s = .next (if i = 0 then s.finish c i .ok else s) := by
  refine congrArg Host.Outcome.next ?_
  rw [hstart]
  simp [hgood]

/-! ### SIGNAL (R189) -/

theorem State.barrierBad_eq_none (h : s.barrierBad c m = none) : m.reservedBad = none ∧ m.counter % 8 = 0 := by
  unfold State.barrierBad at h
  split at h
  · exact absurd h (by simp)
  · refine ⟨‹_›, ?_⟩
    refine Classical.byContradiction fun halign => ?_
    have hbad : (m.counter % 8 == 0) = false := by simpa using halign
    rw [hbad] at h
    exact absurd h (by simp [firstBad])

/-- The counter's value after a SIGNAL. -/
def State.signalled (s : State) (m : Cmd) (x : Xlat) : BitVec 64 :=
  BitVec.ofNat 64 (ofLeBytes ((upFrom m.counter 8).map (fun a => s.peekAt (physOf x a)))) + m.pkt.extractLsb' 192 64

/-- A translated counter lies in one page, which the context keeps. -/
theorem State.xlat_counter (halign : m.counter % 8 = 0) (hxlat : s.xlat c (pageOf m.counter) = some x) {a : Nat} (ha : a ∈ upFrom m.counter 8) :
    s.xlat c (pageOf a) = some x ∧ (s.pin c [m.counterNeed true]).xlat c (pageOf a) = some x := by
  rw [pageOf_of_mem_dword halign ha]
  exact ⟨hxlat, State.xlat_pin (n := m.counterNeed true) hxlat⟩

theorem execBarrierSignal_adds (hstart : s.starting c 0x2B = some (i, m)) (hsignal : m.bit 12 = false) (hdone : s.earlierDone c i = true)
    (hgood : s.barrierBad c m = none) (hxlat : s.xlat c (pageOf m.counter) = some x) (hread : x.read = true) (hwrite : x.write = true) :
    exec (.barrierSignal c) s = .next (((s.pin c [m.counterNeed true]).pokeN c m.counter (leBytes 8 (s.signalled m x).toNat)).finish c i
      (counterReply (s.signalled m x))) := by
  obtain ⟨-, halign⟩ := State.barrierBad_eq_none hgood
  have hneed : s.needOk c (m.counterNeed true) = true := by
    simp [State.needOk, Cmd.counterNeed, ringNeed, permOk, hxlat, hread, hwrite]
  have hvalue : (s.pin c [m.counterNeed true]).peekLe c m.counter 8
      = ofLeBytes ((upFrom m.counter 8).map (fun a => s.peekAt (physOf x a))) := by
    refine congrArg ofLeBytes (List.map_congr_left fun a ha => ?_)
    rw [State.peek, (State.xlat_counter halign hxlat ha).2]
    rfl
  refine congrArg Host.Outcome.next ?_
  unfold State.signal
  rw [hstart]
  dsimp only
  rw [hsignal, hdone, hgood, State.acquire_of_needOk hneed, hvalue]
  rfl

end

/-! ### The obligation -/

/-- Settles O31: NOP and FENCE complete at once or wait; a SIGNAL stores its counter's eight bytes, which lie in one page, and no other. -/
theorem nopFenceAndSignal : Obligations.NopFenceAndSignal := by
  unfold Obligations.NopFenceAndSignal
  refine ⟨fun s c i m hcmd hgood => ⟨fun hstart => ?nop, fun hstart hfirst => ?fence, fun hstart hlater => ?waits⟩,
    fun s c i m x hwf hstart hcmd hsignal hdone hgood hxlat hread hwrite => ?signal⟩
  case nop =>
    exact ⟨_, execNop_finishes hstart hgood, State.phase_finish s hcmd _, OnlyCtx.finish s c i _, fun j hj => s.cmds_finish_other hj _⟩
  case fence =>
    subst hfirst
    exact ⟨_, execFence_starts hstart hgood, State.phase_finish s hcmd _, OnlyCtx.finish s c 0 _⟩
  case waits => rw [execFence_starts hstart hgood, if_neg hlater]
  case signal =>
    obtain ⟨-, halign⟩ := State.barrierBad_eq_none hgood
    have hwf' : (s.pin c [m.counterNeed true]).memWf = true := hwf
    have hlen : (leBytes 8 (s.signalled m x).toNat).length = 8 := length_leBytes ..
    have hpinned : ∀ a ∈ upFrom m.counter (leBytes 8 (s.signalled m x).toNat).length,
        (s.pin c [m.counterNeed true]).xlat c (pageOf a) = some x := by
      rw [hlen]
      exact fun a ha => (State.xlat_counter halign hxlat ha).2
    have hcmds : ((s.pin c [m.counterNeed true]).pokeN c m.counter (leBytes 8 (s.signalled m x).toNat)).ctx c
        = (s.pin c [m.counterNeed true]).ctx c := by rw [State.ctx, State.pokeN_ctxs]; rfl
    refine ⟨_, execBarrierSignal_adds hstart hsignal hdone hgood hxlat hread hwrite, State.phase_finish _ (m := m) ?_ _, ?_, fun p hp => ?_⟩
    · rw [hcmds, (SameWork.pin s c _).cmds, hcmd]
    · have hstored := State.peekAt_pokeN (leBytes 8 (s.signalled m x).toNat) hwf' hpinned
        (by rw [hlen]; exact fun a ha => pageOf_of_mem_dword halign ha)
      rw [hlen] at hstored
      simp only [State.peekAt_finish]
      rw [hstored, ofLeBytes_leBytes, Nat.mod_eq_of_lt (by exact (s.signalled m x).isLt)]
      rfl
    · rw [State.peekAt_finish, State.peekAt_pokeN_other (leBytes 8 (s.signalled m x).toNat) hwf' hpinned (by rwa [hlen])]
      rfl

end Sys2Proof.Machine
end

section
/-! SUPPORT. DIGEST_READ (R229, R279). -/

namespace Sys2Proof.Machine

section
variable {s q : State} {c : CtxNo} {i : Nat} {m : Cmd} {o : Opnd}

/-- What digests are read depends on the port alone. -/
theorem State.digests_congr (h : q.port = s.port) (job : BitVec 12) : q.digests job = s.digests job := by
  simp only [State.digests, State.portCh, h]

theorem execDigestRead_writes (hstart : s.starting c 0x22 = some (i, m)) (hfree : s.noConflict c i m = true)
    (hquiet : s.jobQuiet c i m.job = true) (hhandle : (s.handle c (m.f 128 16)).isSome = true) (hopnd : s.opnd m.fmts (m.f 128 16) 0 = some o)
    (hgood : m.reservedBad = none) (harea : (o.desc.canWrite && o.areaOk 96) = true)
    (hopen : s.openWrites c m.seq [o.acc true false (o.byteSpans 0 96)] = (true, q)) :
    exec (.digestRead c) s = .next (((q.putArea c (q.refusals c (o.acc true false (o.byteSpans 0 96))) o 0 (q.digests m.job).1).closeUnit c m.seq
      [o.acc true false (o.byteSpans 0 96)]).finish c i { Reply.ok with result0 := w32 (q.digests m.job).2 }) := by
  obtain ⟨d, hd⟩ := Option.isSome_iff_exists.mp hhandle
  refine congrArg Host.Outcome.next ?_
  unfold State.digestRead
  rw [hstart]
  dsimp only
  rw [hfree, hquiet, hd, hopnd, hgood]
  simp only [harea, hopen]
  rfl

end

/-- Settles O30: the area is written from the port's contexts and given up; neither changes the port. -/
theorem digestReadWritesDigests : Obligations.DigestReadWritesDigests := by
  unfold Obligations.DigestReadWritesDigests
  intro s q c i m o hstart hcmd hfree hquiet hhandle hopnd hgood harea a hopen
  have hexec := execDigestRead_writes hstart hfree hquiet hhandle hopnd hgood harea hopen
  have hq : (s.openWrites c m.seq [a]).2 = q := congrArg Prod.snd hopen
  have hport : q.port = s.port := by rw [← hq, State.openWrites_port]
  have hcmds : (q.ctx c).cmds[i]? = some m := by rw [← hq, State.cmds_openWrites, hcmd]
  rw [State.digests_congr hport] at hexec
  refine ⟨_, hexec, State.phase_completeUnit _ m.seq _ (m := m) ?_ _, ?_, .completeUnit ..⟩
  · rw [State.ctx, State.putArea_ctxs, ← hcmds, State.ctx]
  · simp [hport]

end Sys2Proof.Machine
end

section
/-! SUPPORT. TASK_BEGIN, TASK_COMMIT and TASK_DISCARD (R114, R117, R230). -/

namespace Sys2Proof.Machine

section
variable (s : State) (c : CtxNo)

/-! ### Rules: a completion leaves the task, and a released task is gone -/

theorem State.task_setPhase (i : Nat) (p : Phase) : ((s.setPhase c i p).ctx c).task = (s.ctx c).task := by
  rw [State.setPhase, State.ctx_modCtx_same]
  split <;> rfl

theorem State.task_unpin : ((s.unpin c).ctx c).task = (s.ctx c).task := by
  rw [State.unpin, State.ctx_modCtx_same]
  split <;> rfl

theorem State.task_finish (i : Nat) (r : Reply) : ((s.finish c i r).ctx c).task = (s.ctx c).task := by
  rw [State.finish, State.task_unpin, State.task_setPhase, State.ctx, State.unwaitCmd_ctxs, State.ctx]

theorem State.task_releaseTask : ((s.releaseTask c).ctx c).task = none := by rw [State.releaseTask, State.ctx_modCtx_same]

theorem State.touch_releaseTask : ∀ e ∈ (s.releaseTask c).touch, e.ctx ≠ c := by
  intro e he
  obtain ⟨-, hne⟩ := List.mem_filter.mp he
  exact bne_iff_ne.mp hne

/-- A fold of changes to slots leaves everything else. -/
theorem State.foldl_modSlot (f : Nat → Slot → Slot) (l : List Nat) :
    l.foldl (fun t k => t.modSlot k (f k)) s = { s with slots := (l.foldl (fun t k => t.modSlot k (f k)) s).slots } := by
  induction l generalizing s with
  | nil => rfl
  | cons k l ih => exact ih (s.modSlot k (f k))

/-- A released task leaves the commands and the memories. -/
theorem State.releaseTask_leaves : ((s.releaseTask c).ctx c).cmds = (s.ctx c).cmds ∧ SameMem s (s.releaseTask c) := by
  unfold State.releaseTask
  dsimp only
  have hfold := s.foldl_modSlot (fun _ x => if x.ctx = c ∧ x.state ≠ .free then
    (if x.state = .releasePending then { Slot.reset with gen := x.gen } else { x with touched := false }) else x) (List.range 48)
  generalize List.foldl _ s _ = u at hfold ⊢
  rw [hfold, State.ctx_modCtx_same]
  exact ⟨rfl, .of_eq rfl rfl⟩

/-- An area written through the journal. -/
def State.journalled (seq : Word) (j : Opnd) (a : Acc) (bytes : List Byte) : State :=
  (s.putArea c (s.refusals c a) j 0 bytes).issue c seq .journal [a]

theorem SameMem.journalled (seq : Word) (j : Opnd) (a : Acc) (bytes : List Byte) :
    SameMem (s.putArea c (s.refusals c a) j 0 bytes) (s.journalled c seq j a bytes) := .of_eq (State.issue_core ..) (State.issue_remote ..)

variable {s c} {q : State} {i n : Nat} {m : Cmd} {seq : Word} {j : Opnd} {a : Acc} {t0 : Task}

theorem State.cmds_journalled (bytes : List Byte) : ((s.journalled c seq j a bytes).ctx c).cmds = (s.ctx c).cmds := by
  rw [State.journalled, State.ctx_issue, State.ctx, State.putArea_ctxs, State.ctx]

theorem State.cmds_of_openFor {use : ReqUse} {as : List Acc} {ok : Bool} (h : s.openFor c seq use as = (ok, q)) :
    (q.ctx c).cmds = (s.ctx c).cmds := by
  obtain rfl : (s.openFor c seq use as).2 = q := congrArg Prod.snd h
  exact State.cmds_openSome ..

/-- A task that was restored is released. -/
theorem State.released_of_restoreTask {fmts : Vector Word 8} (h : s.restoreTask c t0 fmts seq = (true, q, n)) : ∃ p : State, q = p.releaseTask c := by
  unfold State.restoreTask at h
  split at h
  · exact ⟨s, (congrArg (·.2.1) h).symm⟩
  · dsimp only at h
    iterate 3
      split at h
      · exact absurd (congrArg Prod.fst h) (by simp)
    exact ⟨_, (congrArg (·.2.1) h).symm⟩

/-! ### The three commands -/

/-- TASK_BEGIN once its journal's header may be written. -/
theorem exec_taskBegin {q2 : State} (hstart : s.starting c 0x28 = some (i, m)) (hdone : s.earlierDone c i = true)
    (hhandle : (s.handle c (m.f 128 16)).isSome = true) (hopnd : s.opnd m.fmts (m.f 128 16) 0 = some j) (hgood : m.reservedBad = none)
    (harea : taskAreaBad j = none) (hacquire : s.acquire c (areaNeeds j m.seq) = (true, q))
    (hcore : q.areaInCore c (areaNeeds j m.seq) = true) (htask : q.taskBad c m = none)
    (hopen : q.openFor c m.seq .journal [j.areaAcc 0 64] = (true, q2)) :
    let t := q2.newTask c m j
    exec (.taskBegin c) s = .next (((q2.journalled c m.seq j (j.areaAcc 0 64) (leBytes 64 t.header)).modCtx c
      (fun x => { x with task := some t })).finish c i .ok) := by
  obtain ⟨d, hd⟩ := Option.isSome_iff_exists.mp hhandle
  refine congrArg Host.Outcome.next (?_ : s.beginTask c = _)
  unfold State.beginTask
  rw [hstart]
  dsimp only
  rw [hdone, hd, hopnd, hgood]
  simp only [harea, hacquire, hcore, htask, hopen]
  rfl

/-- A closing command of an unguarded task acts by its opcode. -/
theorem State.closing_unguarded {op : Nat} (hcont : s.continuing c op = none) (hstart : s.starting c op = some (i, m))
    (hdone : s.earlierDone c i = true) (hgood : m.reservedBad = none) (htask : (s.ctx c).task = some t0) (hguard : t0.guard = none) :
    s.closing c op = if m.op = 0x29 then s.closeCommit c i m t0 else s.closeDiscard c i m t0 := by
  unfold State.closing
  rw [hcont, hstart]
  simp only [hdone, hgood, State.closeTask, htask, hguard, Bool.not_true, Bool.false_eq_true, if_false]

theorem latchWord_unguarded (h : t0.guard = none) : latchWord t0 = 0 := by rw [latchWord, h]

theorem State.closeCommit_of_open (hjournal : s.journal t0 = some j) (hopen : s.openFor c m.seq .journal [j.areaAcc 0 64] = (true, q)) :
    s.closeCommit c i m t0 = ((q.journalled c m.seq j (j.areaAcc 0 64) (leBytes 64 t0.header)).releaseTask c).finish c i
      { Reply.ok with result0 := w32 t0.entries, result1 := w32 t0.unguarded, result2 := latchWord t0 } := by
  simp only [State.closeCommit, State.commitTask, hjournal, hopen]
  rfl

theorem State.closeDiscard_of_restored (hrestore : s.restoreTask c t0 m.fmts m.seq = (true, q, n)) :
    s.closeDiscard c i m t0 = q.finish c i { Reply.of (if t0.unguarded = 0 then 0 else stDiscardPartial) with
      result0 := w32 t0.unguarded, result1 := w32 n, result2 := latchWord t0 } := by
  simp only [State.closeDiscard, hrestore]
  rfl

end

/-- Settles O37: each command's closed form, and the rules on what a completion leaves and a released task gives up. -/
theorem tasksOpenAndClose : Obligations.TasksOpenAndClose := by
  unfold Obligations.TasksOpenAndClose
  intro s q q2 c i n m j t0 hcmd hgood hdone
  refine ⟨?begins, ?commits, ?discards⟩
  case begins =>
    intro hstart hhandle hopnd harea hacquire hcore htask hopen
    have hq : (q.ctx c).cmds = (s.ctx c).cmds := by
      obtain rfl : (s.acquire c (areaNeeds j m.seq)).2 = q := congrArg Prod.snd hacquire
      exact State.cmds_acquire ..
    let t := q2.newTask c m j
    let w := q2.journalled c m.seq j (j.areaAcc 0 64) (leBytes 64 t.header)
    have hw : (w.ctx c).cmds[i]? = some m := by rw [State.cmds_journalled, State.cmds_of_openFor hopen, hq, hcmd]
    refine ⟨_, t, exec_taskBegin hstart hdone hhandle hopnd hgood harea hacquire hcore htask hopen, ?_, rfl, rfl, rfl, rfl, rfl, rfl, ?_,
      State.phase_finish _ (m := m) ?_ _, (SameMem.journalled q2 c ..).trans ((SameMem.modCtx _ _ _).trans (.finish _ c i _))⟩
    · rw [State.task_finish, State.ctx_modCtx_same]
    · show Option.isSome (if m.bit 12 then _ else _) = _
      cases m.bit 12 <;> rfl
    · rw [State.ctx_modCtx_same]
      exact hw
  case commits =>
    intro hcont hstart hop htask hguard hjournal hopen
    have hexec := ((State.closing_unguarded hcont hstart hdone hgood htask hguard).trans (if_pos hop)).trans
      (State.closeCommit_of_open hjournal hopen)
    rw [latchWord_unguarded hguard] at hexec
    refine ⟨_, congrArg Host.Outcome.next hexec, ?_, ?_, State.phase_finish _ (m := m) ?_ _,
      (SameMem.journalled q c ..).trans ((State.releaseTask_leaves _ c).2.trans (.finish _ c i _))⟩
    · rw [State.task_finish, State.task_releaseTask]
    · rw [State.finish_touch]
      exact State.touch_releaseTask _ c
    · rw [(State.releaseTask_leaves _ c).1, State.cmds_journalled, State.cmds_of_openFor hopen, hcmd]
  case discards =>
    intro hcont hstart hop htask hguard hrestore hqcmd
    have hne : m.op ≠ 0x29 := by rw [hop]; decide
    have hexec := ((State.closing_unguarded hcont hstart hdone hgood htask hguard).trans (if_neg hne)).trans
      (State.closeDiscard_of_restored hrestore)
    rw [latchWord_unguarded hguard] at hexec
    obtain ⟨p, rfl⟩ := State.released_of_restoreTask hrestore
    refine ⟨_, congrArg Host.Outcome.next hexec, State.phase_finish _ hqcmd _, ?_, ?_, .finish _ c i _⟩
    · rw [State.task_finish, State.task_releaseTask]
    · rw [State.finish_touch]
      exact State.touch_releaseTask p c

end Sys2Proof.Machine
end

section
/-! SUPPORT. ASSUME_POSITION (R298, R299). -/

namespace Sys2Proof.Machine

/-! ### Its place: the position, the group table, the job contexts and the training of every channel -/

/-- What a taken position replaces; the memories and the contexts stay. -/
theorem State.takePosition_place (s : State) (pos : Nat) (groups : Vector (BitVec 256) 16) (recs : List (BitVec 128)) :
    let t := s.takePosition pos groups recs
    t.eng.position = BitVec.ofNat 15 pos ∧ t.groups = groups ∧ SameMem s t ∧ t.ctxs = s.ctxs
      ∧ ∀ k : Chan, t.train.get k = (s.train.get k).restart s.now ∧ t.portCh k = (s.portCh k).assume groups k.val recs s.now := by
  unfold State.takePosition
  obtain ⟨r, n, hreport, -⟩ := State.report_eq { s with
    eng := { s.eng with position := BitVec.ofNat 15 pos }
    groups := groups
    port := { s.port with
      chans := Vector.ofFn (fun (k : Fin 6) => (s.port.chans.get k).assume groups k.val recs s.now)
      jobs := [], inputs := [], partials := [], results := [], aborts := [] }
    train := s.train.map (fun (t : Train) => t.restart s.now) }
  rw [hreport]
  refine ⟨rfl, rfl, .of_eq rfl rfl, rfl, fun k => ⟨?_, ?_⟩⟩
  · simp only [vector_get_eq, Vector.getElem_map]
  · simp only [State.portCh, vector_get_eq, Vector.getElem_ofFn]

section
variable {s q : State} {c : CtxNo} {i n : Nat} {m : Cmd} {o : Opnd}

/-- An area whose header, groups and records are good is taken. -/
theorem State.assumeArea_of_open (groups : Vector (BitVec 256) 16) (recs : List (BitVec 128)) :
    let len := min (o.desc.size 0) (528 + 16 * 4096)
    let a := o.acc false false (o.byteSpans 0 len)
    let b := q.areaBytes c (q.refusals c a) o 0 len
    groups = Vector.ofFn (fun (k : Fin 16) => BitVec.ofNat 256 (numAt b (16 + 32 * k.val) 32)) →
    recs = (List.range n).map (fun k => BitVec.ofNat 128 (numAt b (528 + 16 * k) 16)) →
    s.openAll c m.seq [a] = (true, q) → numAt b 0 16 = n → n ≤ 4096 → 528 + 16 * n ≤ o.desc.size 0 →
    groups.toList.all groupReservedOk = true → recs.all recordReservedOk = true →
    s.assumeArea c i m o = ((q.closeUnit c m.seq [a]).takePosition (m.f 128 15) groups recs).setPhase c i (.running (.assume s.now)) := by
  dsimp only
  rintro rfl rfl hopen hcount hn hsize hgroups hrecs
  unfold State.assumeArea
  dsimp only
  rw [hopen]
  dsimp only
  rw [hcount, Nat.mod_eq_of_lt (show n < 2 ^ 13 by omega), Nat.div_eq_of_lt (show n < 2 ^ 13 by omega), if_neg (by simp), if_neg]
  rintro (h | h | h | h)
  · exact Nat.not_lt.mpr hn h
  · exact Nat.not_lt.mpr hsize h
  · exact h rfl
  · exact h (Bool.and_eq_true_iff.mpr ⟨hgroups, hrecs⟩)

section
variable (hcont : s.continuing c 0x33 = none) (hstart : s.starting c 0x33 = some (i, m)) (hdone : s.earlierDone c i = true)
include hcont hstart hdone

theorem exec_assumePosition_denied (hsecure : s.secureCtx c = false) :
    exec (.assumePosition c) s = .next (s.finish c i (.of stDenied)) := by
  refine congrArg Host.Outcome.next (?_ : s.assumePosition c = _)
  unfold State.assumePosition
  rw [hcont, hstart]
  simp [hdone, hsecure]

/-- The checks before the area's contents passed, the area is read. -/
theorem exec_assumePosition_area (hsecure : s.secureCtx c = true) (hhandle : (s.handle c (m.f 144 16)).isSome = true)
    (hopnd : s.opnd m.fmts (m.f 144 16) 0 = some o) (hgood : m.reservedBad = none) (hpos : positionOk (m.f 128 15) = true)
    (hdisabled : ∀ d, d ≠ c → (s.ctx d).state = .disabled) (hjobs : s.jobActive = false)
    (harea : (o.desc.canRead && o.byteArea && decide (528 ≤ o.desc.size 0)) = true) :
    exec (.assumePosition c) s = .next (s.assumeArea c i m o) := by
  obtain ⟨d, hd⟩ := Option.isSome_iff_exists.mp hhandle
  have hothers : allCtx.any (fun d => d != c && (s.ctx d).state != .disabled) = false := by
    refine List.any_eq_false.mpr fun d _ => ?_
    by_cases h : d = c
    · simp [h]
    · simp [hdisabled d h]
  refine congrArg Host.Outcome.next (?_ : s.assumePosition c = _)
  unfold State.assumePosition
  rw [hcont, hstart]
  dsimp only
  rw [hdone, hsecure, hd, hopnd, hgood]
  simp only [hpos, hothers, hjobs, harea, Bool.not_true, Bool.or_self, Bool.false_eq_true, if_false]

end

/-! ### Its wait for the channels (R298) -/

theorem exec_assumePosition_waits {since : Nat} (hcont : s.continuing c 0x33 = some (i, m)) (hphase : m.phase = .running (.assume since)) :
    exec (.assumePosition c) s = .next (if (∀ k : Chan, (s.train.get k).link = 1) ∨ since + 2800000 ≤ s.now then
      s.finish c i { Reply.ok with result0 := w32 (packBits (s.train.toList.map (fun x => ((x.link == 1).toNat, 1)))) } else s) := by
  have hup : ((s.train.toList.map (fun t => t.link == 1)).all id = true) ↔ ∀ k : Chan, (s.train.get k).link = 1 := by
    rw [List.all_map, vector_toList_all]
    exact forall_congr' fun k => beq_iff_eq
  refine congrArg Host.Outcome.next (?_ : s.assumePosition c = _)
  unfold State.assumePosition
  rw [hcont]
  simp only [hphase, hup, List.map_map]
  rfl

end

/-- Settles O45: the area's contents taken (`takePosition_place`), and the wait for every channel's training. -/
theorem assumePositionTakesPlace : Obligations.AssumePositionTakesPlace := by
  unfold Obligations.AssumePositionTakesPlace
  intro s q c i n m o hcmd
  refine ⟨fun hcont hstart hdone => ⟨?denied, ?taken⟩, fun since hcont hphase => ⟨?completes, ?waits⟩⟩
  case denied =>
    intro hsecure
    exact ⟨_, exec_assumePosition_denied hcont hstart hdone hsecure, .finish s c i _, State.phase_finish s hcmd _⟩
  case taken =>
    intro hsecure hhandle hopnd hgood hpos hdisabled hjobs harea len a b groups recs hopen hcount hn hsize hgroups hrecs
    have hexec := (exec_assumePosition_area hcont hstart hdone hsecure hhandle hopnd hgood hpos hdisabled hjobs harea).trans
      (congrArg Host.Outcome.next (State.assumeArea_of_open groups recs rfl rfl hopen hcount hn hsize hgroups hrecs))
    have hq : (s.openAll c m.seq [a]).2 = q := congrArg Prod.snd hopen
    have hnow : (q.closeUnit c m.seq [a]).now = s.now := by rw [State.closeUnit_now, ← hq, State.openAll_now]
    obtain ⟨hposition, htable, hmem, hctxs, hchans⟩ := State.takePosition_place (q.closeUnit c m.seq [a]) (m.f 128 15) groups recs
    generalize (q.closeUnit c m.seq [a]).takePosition (m.f 128 15) groups recs = w at hexec hposition htable hmem hctxs hchans
    refine ⟨_, hexec, State.phase_setPhase _ (m := m) ?_ _, hposition, htable,
      (SameMem.of_openAll hopen).trans ((SameMem.closeUnit q c _ _).trans (hmem.trans (.setPhase _ c i _))), fun k => ?_⟩
    · rw [State.ctx, hctxs, ← State.ctx, State.cmds_closeUnit, ← hq, State.cmds_openAll, hcmd]
    · obtain ⟨htrain, hport⟩ := hchans k
      refine ⟨congrArg Train.probing htrain, congrArg Train.link htrain, (congrArg Channel.jobs hport).trans ?_⟩
      rw [Channel.assume, hnow]
  case completes =>
    intro hdue
    exact ⟨_, (exec_assumePosition_waits hcont hphase).trans (congrArg Host.Outcome.next (if_pos hdue)), .finish s c i _,
      State.phase_finish s hcmd _⟩
  case waits =>
    rintro ⟨k, hk⟩ hearly
    refine (exec_assumePosition_waits hcont hphase).trans (congrArg Host.Outcome.next (if_neg ?_))
    rintro (hall | hlate)
    · exact hk (hall k)
    · omega

end Sys2Proof.Machine
end

section
/-! SUPPORT. CTX_EXPORT and settle points (R233, R242, R293, R294). -/

namespace Sys2Proof.Machine

/-! ### Stores through the same translations -/

/-- Two states store alike where `ok` holds: their memories agree, and there they translate alike for context `c`. -/
structure SameStore (c : CtxNo) (ok : Nat → Prop) (p q : State) : Prop where
  core : p.core = q.core
  remote : p.remote = q.remote
  xlat : ∀ va, ok va → p.xlat c (pageOf va) = q.xlat c (pageOf va)

section
variable {c : CtxNo} {ok : Nat → Prop} {p q : State}

theorem SameStore.pokeAt (h : SameStore c ok p q) (a : Bool × Nat) (b : Byte) : SameStore c ok (p.pokeAt a b) (q.pokeAt a b) := by
  unfold State.pokeAt
  split
  · exact ⟨congrArg (·.write a.2 b) h.core, h.remote, h.xlat⟩
  · exact ⟨h.core, congrArg (·.write a.2 b) h.remote, h.xlat⟩

theorem SameStore.poke (h : SameStore c ok p q) {va : Nat} (hva : ok va) (b : Byte) : SameStore c ok (p.poke c va b) (q.poke c va b) := by
  unfold State.poke
  rw [h.xlat va hva]
  split
  · exact h.pokeAt _ b
  · exact h

/-- An area is stored alike where the bytes that are not refused are translated alike. -/
theorem SameStore.putArea {bad : List (Nat × Nat)} {o : Opnd} (l : List Byte) {i : Nat} (h : SameStore c ok p q)
    (hok : ∀ k, i ≤ k → k < i + l.length → inRefused bad (o.byteAddr k) = false → ok (o.byteAddr k)) :
    SameStore c ok (p.putArea c bad o i l) (q.putArea c bad o i l) := by
  induction l generalizing p q i with
  | nil => exact h
  | cons b l ih =>
    refine ih ?_ fun k hi hk => hok k (by omega) (by simp only [List.length_cons]; omega)
    simp only [State.writeB]
    split
    · exact h
    next hrefused => exact h.poke (hok i (Nat.le_refl i) (by simp) (by simpa using hrefused)) b

theorem SameStore.sameMem (h : SameStore c ok p q) : SameMem p q := .of_eq h.core.symm h.remote.symm

end

/-! ### The settle point of a context (R242, R293) -/

theorem State.readOwnSlots_eq (s : State) (c : CtxNo) : s.readOwnSlots c = { s with slots := (s.readOwnSlots c).slots } :=
  s.foldl_modSlot (fun _ x => { x with acc := accSet x.acc (⟨false, !x.bad.isEmpty⟩ : Flag).bits }) _

/-- A CTX_EXPORT that waits for context `c` once it has taken that context's state. -/
def Cmd.noteExport (c : CtxNo) (header : Bool → Nat) (body : List Byte) (m : Cmd) : Cmd :=
  match m.phase with
  | .running (.exporting true opens none) =>
    if m.f 128 3 = c.val then { m with phase := .running (.exporting true opens (some (header opens, body))) } else m
  | _ => m

theorem Context.noteExports_eq (x : Context) (c : CtxNo) (header : Bool → Nat) (body : List Byte) :
    x.noteExports c header body = { x with cmds := x.cmds.map (Cmd.noteExport c header body) } := rfl

theorem Cmd.noteExport_of_not_due {m : Cmd} (h : m.exportDue = false) (c : CtxNo) (header : Bool → Nat) (body : List Byte) :
    m.noteExport c header body = m := by
  unfold Cmd.noteExport
  split
  next opens hphase =>
    rw [Cmd.exportDue, hphase] at h
    exact Bool.noConfusion h
  next => rfl

/-- The settle point of `c` as one context sees it. -/
theorem State.ctx_settle (s : State) (c e : CtxNo) :
    let v := s.readOwnSlots c
    let x := (s.ctx e).noteExports c (v.imageHeader c) (v.imageBody c)
    (s.settle c).ctx e = if e = c then { x with settled := true } else x := by
  intro v x
  have hv : v.ctxs = s.ctxs := (congrArg State.ctxs (s.readOwnSlots_eq c) :)
  have hset (y : Context) (w : Vector Context 8) : (w.set c.val y c.isLt).get e = if e = c then y else w.get e := vector_get_set w c e y
  unfold State.settle
  dsimp only
  rw [show ∀ w : Vector Context 8, ({ s.readOwnSlots c with ctxs := w } : State).ctx e = w.get e from fun _ => rfl, hset]
  split
  next he =>
    subst he
    simp only [x, State.ctx]
    exact congrArg (fun w : Vector Context 8 =>
      ({ ((w.get e).noteExports e (v.imageHeader e) (v.imageBody e)) with settled := true } : Context)) hv
  next =>
    rw [vector_get_eq, Vector.getElem_map, ← vector_get_eq]
    exact congrArg (fun w : Vector Context 8 => (w.get e).noteExports c (v.imageHeader c) (v.imageBody c)) hv

theorem State.standing_settle (s : State) (c : CtxNo) {e : CtxNo} : ((s.settle c).ctx e).state = (s.ctx e).state
    ∧ ((s.settle c).ctx e).resetting = (s.ctx e).resetting ∧ ((s.settle c).ctx e).fault = (s.ctx e).fault := by
  rw [State.ctx_settle]
  split <;> exact ⟨rfl, rfl, rfl⟩

theorem State.settle_eq (s : State) (c : CtxNo) : s.settle c = { s with ctxs := (s.settle c).ctxs, slots := (s.readOwnSlots c).slots } := by
  unfold State.settle
  rw [s.readOwnSlots_eq c]

theorem State.alert_settle (s : State) (c e : CtxNo) : (s.settle c).alert e = s.alert e := by
  obtain ⟨hstate, hresetting, hfault⟩ := s.standing_settle c (e := e)
  have hup : (s.settle c).up = s.up := by rw [State.settle_eq]; rfl
  rw [State.alert, hup, hstate, hresetting, hfault, State.alert]

theorem findAt_eq_none {α : Type} {p : α → Bool} {l : List α} (h : ∀ a ∈ l, p a = false) (n : Nat) : findAt p l n = none := by
  induction l generalizing n with
  | nil => rfl
  | cons a l ih => rw [findAt, h a List.mem_cons_self, if_neg (by simp), ih (fun b hb => h b (List.mem_cons_of_mem a hb))]

/-- No context's exports are due, so that none waits for the settle point of `c` or has its state. -/
theorem State.dueExport_none {s : State} (h : ∀ e : CtxNo, ∀ x ∈ (s.ctx e).cmds, x.exportDue = false) (c : CtxNo) : s.dueExport c = none := by
  refine List.findSome?_eq_none_iff.mpr fun e _ => ?_
  rw [findAt_eq_none fun x hx => by rw [h e x hx, Bool.false_and], Option.map_none]

theorem State.unshot_none {s : State} (h : ∀ e : CtxNo, ∀ x ∈ (s.ctx e).cmds, x.exportDue = false) (f : Bool → CtxNo → Bool) :
    s.unshot f = false := by
  refine List.any_eq_false.mpr fun y hy => ?_
  obtain ⟨e, he, rfl⟩ := Vector.mem_iff_getElem.mp (Vector.mem_toList_iff.mp hy)
  rw [List.any_eq_true]
  rintro ⟨x, hx, hwaits⟩
  have hdue := h ⟨e, he⟩ x hx
  split at hwaits
  next hphase =>
    rw [Cmd.exportDue, hphase] at hdue
    exact Bool.noConfusion hdue
  next => exact Bool.noConfusion hwaits

section
variable {s q : State} {c d : CtxNo} {i : Nat} {m : Cmd} {o : Opnd}

/-! ### CTX_EXPORT's start (R233) -/

theorem exec_ctxExport_denied (hstart : s.starting d 0x31 = some (i, m)) (hother : ctxOf (m.f 128 3) ≠ d) (hsecure : s.secureCtx d = false) :
    exec (.ctxExport d) s = .next (s.finish d i (.of stDenied)) := by
  refine congrArg Host.Outcome.next (?_ : s.startExport d = _)
  unfold State.startExport
  rw [hstart]
  simp [hother, hsecure]

/-- An admitted CTX_EXPORT: without a key it is refused, and it waits for the earlier commands that use its bytes. -/
theorem exec_ctxExport_admitted (hstart : s.starting d 0x31 = some (i, m)) (hmay : ctxOf (m.f 128 3) = d ∨ s.secureCtx d = true)
    (hhandle : (s.handle d (m.f 144 16)).isSome = true) (hopnd : s.opnd m.fmts (m.f 144 16) 0 = some o) (hgood : m.reservedBad = none)
    (harea : (o.desc.canWrite && o.byteArea) = true) :
    exec (.ctxExport d) s = .next (if (s.imageKey (ctxOf (m.f 128 3))).isNone then s.finish d i (.of stAuth)
      else if !s.noConflict d i m then s else s.setPhase d i (.running (.exporting false false none))) := by
  obtain ⟨k, hk⟩ := Option.isSome_iff_exists.mp hhandle
  refine congrArg Host.Outcome.next (?_ : s.startExport d = _)
  unfold State.startExport
  rw [hstart]
  dsimp only
  rw [if_neg (fun h => hmay.elim h.1 h.2), hk, hopnd, hgood]
  simp only [harea, Bool.not_true, Bool.false_eq_true, if_false]

/-! ### The image written (R233, R293) -/

/-- An image stored in its area and its CTX_EXPORT counted. -/
def State.imageStored (s : State) (d : CtxNo) (seq : Word) (as : List Acc) (o : Opnd) (a : Acc) (bytes : List Byte) (refused : Nat) : State :=
  let w := ((s.putArea d (s.refusals d a) o 0 bytes).issue d seq .demand as).countOob d refused
  { w with sec := { w.sec with exportSeq := w.sec.exportSeq + 1, exported := true } }

theorem State.putArea_sameWork (s : State) (d : CtxNo) (bad : List (Nat × Nat)) (o : Opnd) (l : List Byte) :
    SameWork s (s.putArea d bad o 0 l) := .of_same (by simp) (by simp) (by simp) (by simp) (by simp) (by simp)

theorem State.imageStored_sameWork (s : State) (d : CtxNo) (seq : Word) (as : List Acc) (o : Opnd) (a : Acc) (bytes : List Byte) (refused : Nat) :
    SameWork s (s.imageStored d seq as o a bytes refused) :=
  (s.putArea_sameWork d _ o bytes).trans ((SameWork.issue _ d seq _ as).trans ((SameWork.countOob _ d refused).trans
    (.of_same rfl rfl rfl rfl rfl rfl)))

theorem SameMem.imageStored (s : State) (d : CtxNo) (seq : Word) (as : List Acc) (o : Opnd) (a : Acc) (bytes : List Byte) (refused : Nat) :
    SameMem (s.putArea d (s.refusals d a) o 0 bytes) (s.imageStored d seq as o a bytes refused) := by
  unfold State.imageStored
  generalize s.putArea d (s.refusals d a) o 0 bytes = w
  exact .of_eq rfl rfl

/-- Writing an image leaves what says whether a context may start a unit, and every other context's commands. -/
theorem State.writeImage_leaves (s : State) (d : CtxNo) (i : Nat) (m : Cmd) (c : CtxNo) (hdr : Nat) (body : List Byte) (e : CtxNo) :
    ((s.writeImage d i m c hdr body).ctx e).standing = (s.ctx e).standing
      ∧ (e ≠ d → ((s.writeImage d i m c hdr body).ctx e).cmds = (s.ctx e).cmds) := by
  have finished (p : State) (r : Reply) : ((p.finish d i r).ctx e).standing = (p.ctx e).standing
      ∧ (e ≠ d → ((p.finish d i r).ctx e).cmds = (p.ctx e).cmds) := by
    by_cases he : e = d
    · exact ⟨he ▸ (OnlyCmd.finish p d i r).standing, fun hne => absurd he hne⟩
    · rw [State.ctx_finish_other p he]
      exact ⟨rfl, fun _ => rfl⟩
  have working {p t : State} (h : SameWork s p)
      (ht : (t.ctx e).standing = (p.ctx e).standing ∧ (e ≠ d → (t.ctx e).cmds = (p.ctx e).cmds)) :
      (t.ctx e).standing = (s.ctx e).standing ∧ (e ≠ d → (t.ctx e).cmds = (s.ctx e).cmds) :=
    ⟨ht.1.trans (congrArg Prod.snd (h.work e)), fun hne => (ht.2 hne).trans (h.cmds e)⟩
  unfold State.writeImage
  split
  next o key _ _ =>
    dsimp only
    split
    · exact finished s _
    · generalize hopen : s.openAll d m.seq _ = r
      obtain ⟨ok, q⟩ := r
      have hq : SameWork s q := .of_openAll hopen
      cases ok
      · exact working hq ⟨rfl, fun _ => rfl⟩
      · have hjournal : SameWork q ((s.exportJournal c).foldl (fun t x => t.putArea d (t.refusals d x.2.1) x.1 0 x.2.2) q.drawFree.2) :=
          List.foldlRecOn (s.exportJournal c) _ (.of_same rfl rfl rfl rfl rfl rfl) fun t ht x _ => ht.trans (t.putArea_sameWork d _ _ _)
        exact working (hq.trans (hjournal.trans (State.imageStored_sameWork _ d m.seq _ o _ _ _))) (finished _ _)
  · exact finished s _
  · exact finished s _

/-- An image that fits its area is written and its CTX_EXPORT counted, the target without an open task. -/
theorem State.writeImage_of_open {key : BitVec 256} {hdr : Nat} {body : List Byte} (hopnd : s.opnd m.fmts (m.f 144 16) 0 = some o)
    (hkey : s.imageKey c = some key) (htask : (s.ctx c).task = none) :
    let len := 128 + body.length + 16
    let a := o.acc true false (o.byteSpans 0 len)
    len ≤ o.desc.size 0 → s.openAll d m.seq [a] = (true, q) →
    s.writeImage d i m c hdr body = (q.drawFree.2.imageStored d m.seq [a] o a (q.sealImage key hdr body q.free) (q.refusals d a).length).finish d i
      { Reply.ok with result0 := w32 len, result1 := w32 (fld (BitVec.ofNat 1024 hdr) 160 32) } := by
  intro len a hfits hopen
  have hjournal : s.exportJournal c = [] := by rw [State.exportJournal, htask]
  unfold State.writeImage
  rw [hopnd, hkey]
  dsimp only
  rw [if_neg (Nat.not_lt.mpr hfits), hjournal]
  rw [List.map_nil, hopen]
  rfl

/-! ### The settle point's command -/

section
variable (hup : s.up = true) (hsettle : s.canSettle c = true)
include hup hsettle

theorem State.settlePoint_settled (hsettled : (s.ctx c).settled = true) (hshot : s.unshot (fun _ x => x == c) = false) :
    s.settlePoint c = match s.dueExport c with
      | none => s
      | some (d, i, m) =>
        if !s.alert d then s else
        match m.phase with
        | .running (.exporting _ _ (some x)) => s.writeImage d i m c x.1 x.2
        | _ => s := by
  unfold State.settlePoint
  simp only [hup, hsettle, hsettled, hshot, Bool.not_true, Bool.not_false, Bool.or_self, Bool.and_self, Bool.false_eq_true, if_true,
    if_false] <;> rfl

/-- An unsettled context settles; an image may be written then, of a CTX_EXPORT whose context is alert. -/
theorem State.settlePoint_unsettled (hsettled : (s.ctx c).settled = false) :
    s.settlePoint c = s.settle c ∨ ∃ (e : CtxNo) (i : Nat) (m : Cmd) (x : Nat × List Byte), s.alert e = true ∧ (s.settle c).dueExport c = some (e, i, m)
      ∧ s.settlePoint c = (s.settle c).writeImage e i m c x.1 x.2 := by
  unfold State.settlePoint
  simp only [hup, hsettle, hsettled, Bool.not_true, Bool.or_self, Bool.false_and, Bool.false_eq_true, if_false, State.alert_settle]
  split
  · exact .inl rfl
  next e i m hdue =>
    split
    · exact .inl rfl
    next halert =>
      split
      next x _ => exact .inr ⟨e, i, m, x, by simpa using halert, hdue, rfl⟩
      next => exact .inl rfl

end
end

/-- Settles O43: the start's cases, the settle point as each context sees it (`ctx_settle`), and the image stored (`writeImage_of_open`). -/
theorem exportsSettleAndWrite : Obligations.ExportsSettleAndWrite := by
  unfold Obligations.ExportsSettleAndWrite
  intro s q c d i m o opens hcmd hopnd
  refine ⟨?denied, ?starts, ?settles, ?takes, ?writes⟩
  case denied =>
    intro hstart hother hsecure
    exact ⟨_, exec_ctxExport_denied hstart hother hsecure, .finish s d i _, State.phase_finish s hcmd _⟩
  case starts =>
    intro hstart hmay hhandle hgood harea
    have hexec := exec_ctxExport_admitted hstart hmay hhandle hopnd hgood harea
    refine ⟨fun hkey => ?_, fun hkey => ⟨fun hconflict => ?_, fun hconflict => ?_⟩⟩
    · exact ⟨_, hexec.trans (congrArg Host.Outcome.next (if_pos hkey)), .finish s d i _, State.phase_finish s hcmd _⟩
    all_goals
      simp only [Option.isNone_eq_false_iff.mpr hkey, hconflict, Bool.not_true, Bool.not_false, Bool.false_eq_true, if_true, if_false] at hexec
    · exact hexec
    · exact ⟨_, hexec, .setPhase s d i _, State.phase_setPhase s hcmd _⟩
  case settles =>
    intro hup hsettle hnone
    refine ⟨fun hsettled => congrArg Host.Outcome.next ?_, fun hsettled => ?_⟩
    · rw [State.settlePoint_settled hup hsettle hsettled (State.unshot_none hnone _), State.dueExport_none hnone]
    · have hnote (e : CtxNo) (h : Bool → Nat) (b : List Byte) : (s.ctx e).noteExports c h b = s.ctx e := by
        rw [Context.noteExports_eq, List.map_congr_left fun x hx => Cmd.noteExport_of_not_due (hnone e x hx) c h b, List.map_id']
      have hctx (e : CtxNo) : (s.settle c).ctx e = if e = c then { s.ctx e with settled := true } else s.ctx e := by
        rw [State.ctx_settle, hnote]
      have hdue : (s.settle c).dueExport c = none := State.dueExport_none (fun e x hx => hnone e x (by
        rw [hctx] at hx
        split at hx <;> exact hx)) c
      have hpoint : s.settlePoint c = s.settle c := by
        obtain h | ⟨e, j, w, x, -, hsome, -⟩ := State.settlePoint_unsettled hup hsettle hsettled
        · exact h
        · rw [hdue] at hsome
          exact absurd hsome (by simp)
      refine ⟨s.settle c, congrArg Host.Outcome.next hpoint, State.settle_eq s c, fun e he => ?_, ?_⟩
      · rw [hctx, if_neg he]
      · rw [hctx, if_pos rfl]
  case takes =>
    intro hup hsettle hsettled halert htarget hphase v
    have hctx (e : CtxNo) := State.ctx_settle s c e
    have hsettledNow : ((s.settle c).ctx c).settled = true := by rw [hctx, if_pos rfl]
    have htaken : PhaseAt (s.settle c) d i (.running (.exporting true opens (some (v.imageHeader c opens, v.imageBody c)))) := by
      have hnoted : m.noteExport c (v.imageHeader c) (v.imageBody c)
          = { m with phase := .running (.exporting true opens (some (v.imageHeader c opens, v.imageBody c))) } := by
        rw [Cmd.noteExport, hphase]
        exact if_pos htarget
      have hcmds : ((s.settle c).ctx d).cmds = (s.ctx d).cmds.map (Cmd.noteExport c (v.imageHeader c) (v.imageBody c)) := by
        rw [hctx]
        split <;> rfl
      rw [PhaseAt, hcmds, List.getElem?_map, hcmd, Option.map_some, Option.map_some, hnoted]
    obtain h | ⟨e, j, w, x, hother, -, h⟩ := State.settlePoint_unsettled hup hsettle hsettled
    · exact ⟨_, congrArg Host.Outcome.next h, hsettledNow, htaken⟩
    · have hne : d ≠ e := by
        rintro rfl
        exact Bool.noConfusion (halert.symm.trans hother)
      have hleaves := (s.settle c).writeImage_leaves e j w c x.1 x.2
      refine ⟨_, congrArg Host.Outcome.next h, ?_, ?_⟩
      · exact (congrArg (fun y => y.2.2.2) (hleaves c).1).trans hsettledNow
      · rw [PhaseAt, (hleaves d).2 hne]
        exact htaken
  case writes =>
    intro key hdr body hup hsettle hsettled hshot hdue halert hphase hkey htask len hfits hopen
    have hq : (s.openAll d m.seq [o.acc true false (o.byteSpans 0 len)]).2 = q := congrArg Prod.snd hopen
    have hfree : q.free = s.free := by rw [← hq, State.openAll_free]
    have hpoint : s.settlePoint c = s.writeImage d i m c hdr body := by
      rw [State.settlePoint_settled hup hsettle hsettled hshot, hdue]
      simp only [halert, hphase, Bool.not_true, Bool.false_eq_true, if_false]
    have hexec := hpoint.trans (State.writeImage_of_open (hdr := hdr) (body := body) hopnd hkey htask hfits hopen)
    rw [hfree] at hexec
    refine ⟨_, congrArg Host.Outcome.next hexec, State.phase_finish _ (m := m) ?_ _, ?_, ?_⟩
    · rw [(State.imageStored_sameWork ..).cmds, ← hcmd, ← (SameWork.of_openAll hopen).cmds d]
      rfl
    · have hstore : SameStore d (fun _ => True) q q.drawFree.2 := ⟨rfl, rfl, fun _ _ => rfl⟩
      exact (hstore.putArea _ fun _ _ _ _ => trivial).sameMem.trans ((SameMem.imageStored ..).trans (.finish _ d i _))
    · have hsec : q.sec = s.sec := by rw [← hq, State.openAll_sec]
      rw [State.finish_sec, ← hsec]
      simp [State.imageStored, State.drawFree]

end Sys2Proof.Machine
end

section
/-! SUPPORT. CTX_IMPORT (R296, R297). -/

namespace Sys2Proof.Machine

/-! ### What an import restores -/

/-- What of a state lies beside slots, tables and chains. -/
def State.beside (s : State) : Vector Context 8 × Memory × Memory × List (Nat × Desc) × List Touch := (s.ctxs, s.core, s.remote, s.descs, s.touch)

/-- An accepted import's target is its image's context block; the memories stay, its descriptors and touch entries are added. -/
theorem State.restoreImage_parts (s : State) (c : CtxNo) (h : BitVec 1024) (x : Import) :
    ((s.restoreImage c h x).ctx c).state = CtxState.ofCode (fld h 83 2) ∧ (∀ d, d ≠ c → (s.restoreImage c h x).ctx d = s.ctx d)
      ∧ SameMem s (s.restoreImage c h x) ∧ (s.restoreImage c h x).descs.length = s.descs.length + x.descs.length
      ∧ (s.restoreImage c h x).touch = s.touch ++ x.touch := by
  let ds := x.descs.map (fun p => (p.1, (s.regionsFor c p.2.2).getD p.2.2))
  have fold {α : Type} {f : State → α → State} (hf : ∀ t a, (f t a).beside = t.beside) (l : List α) (t : State) :
      (l.foldl f t).beside = t.beside := by
    refine List.foldlRecOn (motive := fun u => u.beside = t.beside) l f rfl ?_
    exact fun u hu a _ => (hf u a).trans hu
  have hparts : (s.restoreParts c x).beside = (s.ctxs, s.core, s.remote, s.descs ++ ds, s.touch ++ x.touch) := by
    unfold State.restoreParts
    dsimp only
    refine (fold ?_ x.tables _).trans ((fold ?_ x.slots _).trans rfl) <;> exact fun _ _ => rfl
  unfold State.restoreImage
  dsimp only
  have hall (cmds : List Cmd) : (x.slots.foldl (fun t p => t.modSlot p.1 (fun y => y.beforeRelease p.1 cmds))
      (x.chains.foldl (fun t p => t.drawFree.2.setChain p.1
        (readChain c p.1 p.2 ((Config.freeWord t.drawFree.1).setWidth 16) cmds)) (s.restoreParts c x))).beside
      = (s.ctxs, s.core, s.remote, s.descs ++ ds, s.touch ++ x.touch) := by
    refine (fold ?_ x.slots _).trans ((fold ?_ x.chains _).trans hparts) <;> exact fun _ _ => rfl
  specialize hall ((s.restoreParts c x).readCmds c (w32 (x.values.getD 3 0)) x.cmds)
  generalize x.slots.foldl _ _ = u at hall ⊢
  simp only [State.beside, Prod.mk.injEq] at hall
  obtain ⟨hctxs, hcore, hremote, hdescs, htouch⟩ := hall
  refine ⟨?_, fun d hd => ?_, .of_eq hcore hremote, ?_, htouch⟩
  · rw [State.ctx_modCtx_same]
    rfl
  · rw [State.ctx_modCtx_other _ hd]
    exact congrArg (·.get d) hctxs
  · show u.descs.length = _
    rw [hdescs, List.length_append, List.length_map]

section
variable {s p q : State} {c : CtxNo} {i : Nat} {m : Cmd} {o : Opnd} {h : BitVec 1024} {bytes : List Byte}

/-! ### Its checks (R296) -/

section
variable (hstart : s.starting c 0x32 = some (i, m)) (hdone : s.earlierDone c i = true)
include hstart hdone

theorem exec_ctxImport_denied (hsecure : s.secureCtx c = false) : exec (.ctxImport c) s = .next (s.finish c i (.of stDenied)) := by
  refine congrArg Host.Outcome.next (?_ : s.startImport c = _)
  unfold State.startImport
  rw [hstart]
  simp [hdone, hsecure]

theorem exec_ctxImport_image (hsecure : s.secureCtx c = true) (hhandle : (s.handle c (m.f 144 16)).isSome = true)
    (hopnd : s.opnd m.fmts (m.f 144 16) 0 = some o) (hgood : m.reservedBad = none) :
    exec (.ctxImport c) s = .next (s.importImage c i m o) := by
  obtain ⟨d, hd⟩ := Option.isSome_iff_exists.mp hhandle
  refine congrArg Host.Outcome.next (?_ : s.startImport c = _)
  unfold State.startImport
  rw [hstart]
  dsimp only
  rw [hdone, hsecure, hd, hopnd, hgood]
  rfl

end

/-- An image read whole restores nothing where it does not open, and is placed where everything it holds can be. -/
theorem State.importImage_of_open :
    let x := ctxOf (m.f 128 3)
    let a1 := o.acc false false (o.byteSpans 0 128)
    let a := o.acc false false (o.byteSpans 0 (o.desc.size 0))
    let u := p.closeUnit c m.seq [a]
    (s.ctx x).state = .disabled → (s.ctx x).resetting = false →
    (o.desc.canRead && o.byteArea && decide (128 ≤ o.desc.size 0)) = true →
    s.openAll c m.seq [a1] = (true, q) → h = BitVec.ofNat 1024 (ofLeBytes (q.areaBytes c (q.refusals c a1) o 0 128)) →
    q.imageHeaderBad h (o.desc.size 0) = none → q.openAll c m.seq [a] = (true, p) →
    bytes = p.areaBytes c (p.refusals c a) o 0 (o.desc.size 0) →
    (u.openImage x h bytes = none → s.importImage c i m o = u.finish c i (.of stAuth))
    ∧ (∀ body, u.openImage x h bytes = some body → u.importBad x (readImage x h body) = none →
      s.importImage c i m o = (u.restoreImage x h (readImage x h body)).finish c i { Reply.ok with result0 := w32 (fld h 160 32) }) := by
  dsimp only
  rintro hdisabled hresetting harea hopen rfl hheader hall rfl
  unfold State.importImage
  dsimp only
  rw [if_neg (by simp [hdisabled, hresetting]), harea, hopen]
  dsimp only
  rw [hheader]
  dsimp only
  rw [hall]
  dsimp only
  refine ⟨fun hnone => ?_, fun body hsome hgood => ?_⟩
  · rw [hnone]
    rfl
  · rw [hsome]
    dsimp only
    rw [hgood]
    rfl

end

/-- Reading an area twice and closing the unit changes the reading context and the requests alone. -/
theorem Fr.readTwice {s p q : State} {c : CtxNo} {seq : Word} {as bs : List Acc} (h1 : s.openAll c seq as = (true, q))
    (h2 : q.openAll c seq bs = (true, p)) : Fr (.ctx c :: reading) s (p.closeUnit c seq bs) := by
  obtain rfl : (s.openAll c seq as).2 = q := congrArg Prod.snd h1
  obtain rfl := congrArg Prod.snd h2
  refine (((Fr.refl _ s).openAll c seq as ?_ ?_ ?_ ?_ ?_ ?_).openAll c seq bs ?_ ?_ ?_ ?_ ?_ ?_).closeUnit c seq bs ?_ ?_ ?_ ?_
  all_goals simp [reading, waiting, translating]

/-- Settles O44: what the image's area is read into (`importImage_of_open`) and what a good image restores (`restoreImage_parts`). -/
theorem importRestoresContext : Obligations.ImportRestoresContext := by
  unfold Obligations.ImportRestoresContext
  intro s q p c i m o h bytes hstart hcmd hdone
  refine ⟨fun hsecure => ?denied, fun hsecure hhandle hopnd hgood => ?image⟩
  case denied => exact ⟨_, exec_ctxImport_denied hstart hdone hsecure, .finish s c i _, State.phase_finish s hcmd _⟩
  case image =>
    intro x a1 a u hdisabled hresetting harea hopen hh hheader hall hbytes
    have hexec := exec_ctxImport_image hstart hdone hsecure hhandle hopnd hgood
    obtain ⟨hclosed, hopened⟩ := State.importImage_of_open (i := i) hdisabled hresetting harea hopen hh hheader hall hbytes
    have hxc : x ≠ c := by
      rintro hx
      have hrunning := State.running_of_active (State.active_of_starting hstart)
      rw [← hx, hdisabled] at hrunning
      exact CtxState.noConfusion hrunning
    have hfr : Fr (.ctx c :: reading) s u := .readTwice hopen hall
    have hmem : SameMem s u := hfr.sameMem (by simp [reading, waiting, translating]) (by simp [reading, waiting, translating])
    have hdescs : u.descs = s.descs := hfr.same .descs (by simp [reading, waiting, translating])
    have htouch : u.touch = s.touch := hfr.same .touch (by simp [reading, waiting, translating])
    have hcmds : (u.ctx c).cmds[i]? = some m := by
      have hq : (s.openAll c m.seq [a1]).2 = q := congrArg Prod.snd hopen
      have hp : (q.openAll c m.seq [a]).2 = p := congrArg Prod.snd hall
      rw [State.cmds_closeUnit, ← hp, State.cmds_openAll, ← hq, State.cmds_openAll, hcmd]
    refine ⟨fun hnone => ?auth, fun body hsome hfits => ?restored⟩
    case auth =>
      refine ⟨_, hexec.trans (congrArg Host.Outcome.next (hclosed hnone)), State.phase_finish u hcmds _, ?_, ?_, ?_, ?_, ?_, ?_,
        hmem.trans (.finish u c i _)⟩
      · rw [State.finish_descs, hdescs]
      · rw [State.finish_slots, hfr.same .slots (by simp [reading, waiting, translating])]
      · rw [State.finish_rts, hfr.same .rts (by simp [reading, waiting, translating])]
      · rw [State.finish_chains, hfr.same .chains (by simp [reading, waiting, translating])]
      · rw [State.finish_touch, htouch]
      · rw [State.ctx_finish_other u hxc, hfr.same (.ctx x) (by simp [reading, waiting, translating, hxc])]
    case restored =>
      obtain ⟨hstate, hothers, hplaced, hadded, htouched⟩ := u.restoreImage_parts x h (readImage x h body)
      refine ⟨_, hexec.trans (congrArg Host.Outcome.next (hopened body hsome hfits)), State.phase_finish _ (m := m) ?_ _, ?_,
        hmem.trans (hplaced.trans (.finish _ c i _)), ?_, ?_⟩
      · rw [hothers c hxc.symm, hcmds]
      · rw [State.ctx_finish_other _ hxc, hstate]
      · rw [State.finish_descs, hadded, hdescs]
      · rw [State.finish_touch, htouched, htouch]

end Sys2Proof.Machine
end

section
/-! SUPPORT. ZERO of a tensor (R224). -/

namespace Sys2Proof.Machine

section
variable {s q g : State} {c : CtxNo} {i u : Nat} {m : Cmd} {o : Opnd}

/-- The elements of unit `u`, by their coordinates. -/
def zeroCells (o : Opnd) (u : Nat) : List (Nat → Nat) :=
  (List.range (zeroUnit o u).2.2).map (fun k => o.desc.view 0 (zeroUnit o u).1 ((zeroUnit o u).2.1 + k))

/-- The EC of one unit. -/
def zeroEc (o : Opnd) : Nat := if o.desc.format = 7 then 2 else 1

/-- The unit as captures name it (R113). -/
def zeroCapture (o : Opnd) (u : Nat) : Unit := ⟨1, o.idx, 0, (zeroUnit o u).1 / 128, (zeroUnit o u).2.1 / 128⟩

/-- Going on with a slice stores nothing. -/
theorem SameMem.of_streamGo {seq : Word} {est : Nat → Nat} {n : Nat} {ok : Bool} (h : s.streamGo c seq est n = (ok, g)) : SameMem s g := by
  obtain rfl := congrArg Prod.snd h
  unfold State.streamGo
  dsimp only
  repeat' split
  all_goals exact .of_eq rfl rfl

/-- Zeros stored over a unit's elements. -/
def State.zeroCellsOf (q : State) (c : CtxNo) (o : Opnd) (bad : List (Nat × Nat)) (l : List (Nat → Nat)) : State :=
  l.foldl (fun x e => x.putBits c bad o e 0) q

theorem State.zeroCellsOf_sameWork (q : State) (c : CtxNo) (o : Opnd) (bad : List (Nat × Nat)) (l : List (Nat → Nat)) :
    SameWork q (q.zeroCellsOf c o bad l) := List.foldlRecOn l _ (.refl q) fun t ht e _ => ht.trans (.putBits t c bad o e 0)

/-- The unit's access. -/
def zeroAcc (o : Opnd) (u : Nat) : Acc := o.acc true false ((zeroCells o u).map o.span)

section
variable (hcmd : (s.ctx c).cmds[i]? = some m) (hphase : m.phase = .running (.zeroTensor u))
include hcmd hphase

theorem State.zeroRow_end (hend : zeroUnits o ≤ u) : State.zeroRow c i o s = (false, if o.desc.hdrEn then
    s.setPhase c i (.header ⟨o.idx, 0, false, 0, 0, 0, true⟩ .ok) else s.finish c i .ok) := by
  unfold State.zeroRow
  simp only [State.cmdAt, hcmd, hphase, if_pos hend]

/-- A unit's row: it asks for its capture, waits for its slice or its page, or stores its elements. -/
theorem State.zeroRow_unit (hmore : u < zeroUnits o) : State.zeroRow c i o s =
    (if s.mustCapture c (zeroCapture o u) then (false, s.askCapture c (zeroCapture o u) m.seq) else
    let g := s.streamGo c m.seq (fun _ => zeroEc o) (zeroUnits o - u)
    if !g.1 then g else
    let r := (g.2.streamStart c).openWrites c m.seq [zeroAcc o u]
    if !r.1 then r else
    let s2 := (((r.2.zeroCellsOf c o (r.2.refusals c (zeroAcc o u)) (zeroCells o u)).closeUnit c m.seq [zeroAcc o u]).setPhase c i
      (.running (.zeroTensor (u + 1)))).streamCommit c (zeroEc o) (decide (u + 1 < zeroUnits o))
    (s2.streaming c || decide (zeroUnits o ≤ u + 1), s2)) := by
  unfold State.zeroRow
  simp only [State.cmdAt, hcmd, hphase, if_neg (Nat.not_le_of_lt hmore)]
  rfl

variable (hmore : u < zeroUnits o) (hcaptured : s.mustCapture c (zeroCapture o u) = false)
  (hgo : s.streamGo c m.seq (fun _ => zeroEc o) (zeroUnits o - u) = (true, g))
include hmore hcaptured hgo

/-- A unit whose page is not translated waits and stores nothing. -/
theorem State.zeroRow_waits (hopen : (g.streamStart c).openWrites c m.seq [zeroAcc o u] = (false, q)) :
    State.zeroRow c i o s = (false, q) := by
  rw [State.zeroRow_unit hcmd hphase hmore, hcaptured, hgo]
  dsimp only
  rw [hopen]
  rfl

/-- A unit whose page is translated is stored; the row of the last one goes on. -/
theorem State.zeroRow_stores (hlast : zeroUnits o = u + 1) (hopen : (g.streamStart c).openWrites c m.seq [zeroAcc o u] = (true, q)) :
    State.zeroRow c i o s = (true, (((q.zeroCellsOf c o (q.refusals c (zeroAcc o u)) (zeroCells o u)).closeUnit c m.seq [zeroAcc o u]).setPhase c i
      (.running (.zeroTensor (u + 1)))).streamCommit c (zeroEc o) (decide (u + 1 < zeroUnits o))) := by
  rw [State.zeroRow_unit hcmd hphase hmore, hcaptured, hgo]
  dsimp only
  rw [hopen, decide_eq_true (Nat.le_of_eq hlast), Bool.or_true]
  rfl

end

/-! ### Its start and its going on -/

theorem exec_zeroTensor_starts (hcont : s.continuing c 0x06 = none) (hstart : s.starting c 0x06 = some (i, m)) (htensor : m.bit 12 = true)
    (hfree : s.noConflict c i m = true) (hhandle : (s.handle c (m.f 128 16)).isSome = true) (hgood : m.reservedBad = none)
    (hopnd : s.opnd m.fmts (m.f 128 16) 0 = some o) (hout : (o.output && fmtClass o.fmt != 2) = true) :
    exec (.zeroTensor c) s = .next (runRows (State.zeroRow c i o) (zeroUnits o + 1) (s.setPhase c i (.running (.zeroTensor 0)))) := by
  obtain ⟨d, hd⟩ := Option.isSome_iff_exists.mp hhandle
  refine congrArg Host.Outcome.next (?_ : s.zeroTensor c = _)
  unfold State.zeroTensor
  rw [hcont, hstart]
  dsimp only
  rw [htensor, hfree, hd, hgood, hopnd]
  simp only [hout, Bool.not_true, Bool.false_eq_true, if_true, if_false]

theorem exec_zeroTensor_continues (hcont : s.continuing c 0x06 = some (i, m)) (hopnd : s.opnd m.fmts (m.f 128 16) 0 = some o) :
    exec (.zeroTensor c) s = .next (runRows (State.zeroRow c i o) (zeroUnits o + 1) s) := by
  refine congrArg Host.Outcome.next (?_ : s.zeroTensor c = _)
  unfold State.zeroTensor
  rw [hcont]
  dsimp only
  rw [hopnd]

end

/-- Settles O53: the first unit waits (`zeroRow_waits`); the last one is stored, and the row after it ends the command. -/
theorem zeroTensorStoresZeros : Obligations.ZeroTensorStoresZeros := by
  unfold Obligations.ZeroTensorStoresZeros
  intro s q g c i m o hcmd hopnd blk ec
  refine ⟨?starts, ?ends⟩
  case starts =>
    intro hcont hstart htensor hfree hhandle hgood hout htask hunits hgo hopen
    have hexec := exec_zeroTensor_starts hcont hstart htensor hfree hhandle hgood hopnd hout
    have hcmds := State.cmds_setPhase_same s hcmd (.running (.zeroTensor 0))
    have hcaptured : (s.setPhase c i (.running (.zeroTensor 0))).mustCapture c (zeroCapture o 0) = false := by
      rw [State.mustCapture, State.task_setPhase, htask]
    have hwaits := runRows_stop (zeroUnits o) (State.zeroRow_waits hcmds rfl (Nat.pos_of_ne_zero hunits) hcaptured hgo hopen)
    rw [hwaits] at hexec
    have hwork := ((SameWork.of_streamGo hgo).trans (.streamStart g c)).trans (.of_openWrites hopen)
    refine ⟨q, hexec, ?_, ?_⟩
    · have hmem : SameMem (g.streamStart c) q := by
        obtain rfl := congrArg Prod.snd hopen
        exact .of_eq (by simp) (by simp)
      exact (SameMem.setPhase s c i _).trans ((SameMem.of_streamGo hgo).trans (SameMem.trans (.of_eq rfl rfl) hmem))
    · rw [PhaseAt, hwork.cmds, hcmds]
      rfl
  case ends =>
    intro u hcont hphase hlast hcaptured hgo hopen
    have hexec := exec_zeroTensor_continues hcont hopnd
    have hstores := State.zeroRow_stores hcmd hphase (by omega) hcaptured hgo hlast hopen
    have hwork := (((SameWork.of_streamGo hgo).trans (.streamStart g c)).trans (.of_openWrites hopen)).trans
      ((State.zeroCellsOf_sameWork q c o (q.refusals c (zeroAcc o u)) (zeroCells o u)).trans (.closeUnit _ c m.seq [zeroAcc o u]))
    generalize hz : q.zeroCellsOf c o (q.refusals c (zeroAcc o u)) (zeroCells o u) = z at hstores hwork
    generalize hw : ((z.closeUnit c m.seq [zeroAcc o u]).setPhase c i (.running (.zeroTensor (u + 1)))).streamCommit c (zeroEc o)
      (decide (u + 1 < zeroUnits o)) = w at hstores
    have hcmds : (w.ctx c).cmds[i]? = some { m with phase := .running (.zeroTensor (u + 1)) } := by
      rw [← hw, (SameWork.streamCommit _ c _ _).cmds]
      exact State.cmds_setPhase_same _ ((hwork.cmds c).symm ▸ hcmd) _
    have hmem : SameMem z w := by
      rw [← hw]
      exact (SameMem.closeUnit z c _ _).trans ((SameMem.setPhase _ c i _).trans (.streamCommit _ c _ _))
    have hends := (runRows_go (zeroUnits o) hstores).trans ((congrArg (runRows _ · w) hlast).trans
      (runRows_stop u (State.zeroRow_end hcmds rfl (Nat.le_of_eq hlast))))
    rw [hends] at hexec
    refine ⟨_, hexec, ?_, ?_⟩
    · rw [← hz] at hmem
      refine hmem.trans ?_
      split
      · exact .setPhase w c i _
      · exact .finish w c i _
    · split
      · exact State.phase_setPhase w hcmds _
      · exact State.phase_finish w hcmds _

end Sys2Proof.Machine
end

section
/-! SUPPORT. The reduction port where nothing moves: a step of it brings the job contexts' states up to date (R260). -/

namespace Sys2Proof.Machine

/-! ### A pass over a port where nothing moves -/

section
variable {s : State}

theorem State.acceptHead_empty {k : Chan} (h : (s.portCh k).inq = []) : s.acceptHead k = s := by
  unfold State.acceptHead
  split
  · rfl
  · rw [h]

theorem State.takeChan_empty {k : Chan} (h : (s.portCh k).rx = []) : s.takeChan k = s := by
  unfold State.takeChan
  split
  · rfl
  · rw [h]
    rfl

theorem State.supply_empty (h : (s.portCh 3).rx = []) (i : Input) : s.supply i = s := by
  unfold State.supply
  split
  · rfl
  · rw [h]
    rfl

theorem State.finishPartials_empty (hpartials : s.port.partials = []) : s.finishPartials = s := by
  have hsame (x : List Partial) (y : List Held) (hx : x = s.port.partials) (hy : y = s.port.results) :
      s.modPort (fun (p : Port) => { p with partials := x, results := y }) = s := by
    subst hx hy
    rfl
  refine hsame _ _ ?_ ?_
  · rw [hpartials]
    rfl
  · rw [hpartials]
    exact List.append_nil _

theorem State.forward_empty (hresults : s.port.results = []) : s.forward = s := by
  have hsame (y : List Held) (hy : y = s.port.results) : s.modPort (fun (p : Port) => { p with results := y }) = s := by
    subst hy
    rfl
  unfold State.forward
  rw [hresults]
  exact hsame _ hresults.symm

theorem State.sendAborts_empty (haborts : s.port.aborts = []) : s.sendAborts = s := by
  unfold State.sendAborts
  rw [haborts]
  rfl

end

/-! ### The job contexts' states brought up to date (R260) -/

section
variable (s : State)

/-- A job context whose state is up to date. -/
def State.refreshed (j : JobCtx) : JobCtx := if j.state = .failed then j else { j with state := if s.jobBusy j.job then .active else .idle }

theorem State.refreshed_job (j : JobCtx) : (s.refreshed j).job = j.job := by
  unfold State.refreshed
  split <;> rfl

theorem State.refreshed_group (j : JobCtx) : (s.refreshed j).group = j.group := by
  unfold State.refreshed
  split <;> rfl

theorem State.refreshed_credits (j : JobCtx) : (s.refreshed j).credits = j.credits := by
  unfold State.refreshed
  split <;> rfl

theorem State.portCh_refreshJobs (k : Chan) : s.refreshJobs.portCh k = { s.portCh k with jobs := (s.portCh k).jobs.map s.refreshed } := by
  rw [State.portCh, State.refreshJobs, vector_get_eq]
  exact Vector.getElem_map ..

/-- A fold whose steps all leave the start is the start. -/
theorem foldl_of_fixed {α β : Type} {f : α → β → α} {a : α} (hf : ∀ b, f a b = a) (l : List β) : l.foldl f a = a :=
  List.foldlRecOn (motive := (· = a)) l f rfl fun _ h b _ => h ▸ hf b

theorem find?_map_of_eq {α : Type} {p : α → Bool} {f : α → α} (hf : ∀ a, p (f a) = p a) (l : List α) : (l.map f).find? p = (l.find? p).map f := by
  rw [List.find?_map, show p ∘ f = p from funext hf]

theorem State.jobCtx_refreshJobs (k : Chan) (job : BitVec 12) :
    (s.refreshJobs.portCh k).ctx job = ((s.portCh k).ctx job).map s.refreshed := by
  rw [State.portCh_refreshJobs]
  exact find?_map_of_eq (fun j => by rw [State.refreshed_job]) _

theorem State.jobBusy_refreshJobs (job : BitVec 12) : s.refreshJobs.jobBusy job = s.jobBusy job := by
  have hpackets : s.refreshJobs.jobPackets job = s.jobPackets job := by
    simp only [State.jobPackets, State.portCh_refreshJobs]
  unfold State.jobBusy
  rw [hpackets]
  rfl

theorem State.refreshed_refreshJobs (j : JobCtx) : s.refreshJobs.refreshed (s.refreshed j) = s.refreshed j := by
  simp only [State.refreshed, State.jobBusy_refreshJobs]
  by_cases hfailed : j.state = .failed
  · rw [if_pos hfailed, if_pos hfailed]
  · rw [if_neg hfailed]
    split <;> simp

theorem State.refreshJobs_refreshJobs : s.refreshJobs.refreshJobs = s.refreshJobs := by
  have hchans (v : Vector Channel 6) (hv : v = s.refreshJobs.port.chans) : s.refreshJobs.modPort (fun (p : Port) => { p with chans := v })
      = s.refreshJobs := by
    subst hv
    rfl
  refine hchans _ (Vector.ext fun i hi => ?_)
  have hget := s.portCh_refreshJobs ⟨i, hi⟩
  simp only [State.portCh, vector_get_eq] at hget
  rw [Vector.getElem_map, hget]
  have hjobs (l : List JobCtx) : (l.map s.refreshed).map s.refreshJobs.refreshed = l.map s.refreshed := by
    rw [List.map_map]
    exact List.map_congr_left fun j _ => s.refreshed_refreshJobs j
  exact congrArg (fun l => ({ s.port.chans[i] with jobs := l } : Channel)) (hjobs _)

theorem State.jobGroup_refreshJobs (job : BitVec 12) : s.refreshJobs.jobGroup job = s.jobGroup job := by
  have hctxs : s.refreshJobs.jobCtxs job = (s.jobCtxs job).map s.refreshed := by
    rw [State.jobCtxs, State.jobCtxs, List.map_filterMap]
    exact congrArg (List.filterMap · _) (funext fun k => s.jobCtx_refreshJobs k job)
  unfold State.jobGroup
  rw [hctxs]
  cases s.jobCtxs job with
  | nil => rfl
  | cons j l => exact s.refreshed_group j

theorem State.maySend_refreshJobs (c : CtxNo) (i : Nat) (m : Cmd) : s.refreshJobs.maySend c i m = s.maySend c i m := by
  unfold State.maySend
  rw [State.jobGroup_refreshJobs]
  rfl

end

/-! ### The step -/

section
variable {s : State} (h : PortCalm s)
include h

theorem PortCalm.refreshJobs : PortCalm s.refreshJobs := by
  obtain ⟨hchans, hpartials, hresults, haborts, hsends⟩ := h
  refine ⟨fun k => ?_, hpartials, hresults, haborts, fun c i m n hcmd hphase => ?_⟩
  · exact (congrArg (fun ch : Channel => ch.inq = [] ∧ ch.rx = []) (s.portCh_refreshJobs k)).mpr (hchans k)
  · obtain ⟨hop, hwaits⟩ := hsends c i m n hcmd hphase
    exact ⟨hop, hwaits.imp_right (s.maySend_refreshJobs c i m).trans⟩

theorem PortCalm.portPass : s.portPass = s.refreshJobs := by
  obtain ⟨hchans, hpartials, hresults, haborts, -⟩ := h
  have haccept : allChans.foldl State.acceptHead s = s := foldl_of_fixed (fun k => State.acceptHead_empty (hchans k).1) _
  have htake : [0, 1, 2, 3].foldl State.takeChan s = s := foldl_of_fixed (fun k => State.takeChan_empty (hchans k).2) _
  have hsupply : s.port.inputs.foldl State.supply s = s := foldl_of_fixed (State.supply_empty (hchans 3).2) _
  unfold State.portPass
  dsimp only
  rw [haccept, htake, hsupply, State.finishPartials_empty hpartials, State.forward_empty hresults, State.sendAborts_empty haborts]

theorem PortCalm.portRun : s.portRun = s.refreshJobs := by
  have hpasses (n : Nat) : State.portPasses n s.refreshJobs = s.refreshJobs := by
    induction n with
    | zero => rfl
    | succ n ih => rw [State.portPasses, h.refreshJobs.portPass, State.refreshJobs_refreshJobs, ih]
  rw [State.portRun, State.portPasses, h.portPass, hpasses]

theorem PortCalm.sendAll (c : CtxNo) : s.sendAll c = s := by
  obtain ⟨-, -, -, -, hsends⟩ := h
  refine foldl_of_fixed (fun i => ?_) _
  split
  next m hcmd =>
    split
    next n o hphase hopnd =>
      have hstop : State.sendPacket c i s = (false, s) := by
        obtain ⟨-, hwaits⟩ := hsends c i m n hcmd hphase
        unfold State.sendPacket
        rw [hcmd]
        dsimp only
        rw [hphase, hopnd]
        dsimp only
        rw [if_pos (by simpa using hwaits)]
      cases o.packets + 1 - n with
      | zero => rfl
      | succ k => exact runRows_stop k hstop
    next => rfl
  next => rfl

theorem PortCalm.recvAll (c : CtxNo) : s.recvAll c = s := by
  obtain ⟨-, -, hresults, -, -⟩ := h
  refine foldl_of_fixed (fun i => runRows_stop _ ?_) _
  unfold State.recvPacket
  split
  · rfl
  next m _ =>
    have hnone : s.nextResult m = none := by
      rw [State.nextResult, hresults]
      rfl
    rw [hnone]
    split
    next hheld => exact absurd hheld (by simp)
    next => rfl

/-- Where nothing moves, a step of the port brings the states of the job contexts up to date. -/
theorem PortCalm.portStep : s.portStep = s.refreshJobs := by
  have hround {t : State} (ht : PortCalm t) : t.portRound = t.refreshJobs := by
    have hcalm := ht.refreshJobs
    have hsend : allCtx.foldl State.sendAll t.refreshJobs = t.refreshJobs := foldl_of_fixed hcalm.sendAll _
    have hrecv : allCtx.foldl State.recvAll t.refreshJobs = t.refreshJobs := foldl_of_fixed hcalm.recvAll _
    unfold State.portRound
    dsimp only
    rw [ht.portRun, hsend, hcalm.portRun, State.refreshJobs_refreshJobs, hrecv, hcalm.portRun, State.refreshJobs_refreshJobs]
  rw [State.portStep, hround h, hround h.refreshJobs, State.refreshJobs_refreshJobs]

end

theorem SameMem.refreshJobs (s : State) : SameMem s s.refreshJobs := .of_eq rfl rfl

theorem State.phase_refreshJobs {s : State} {c : CtxNo} {i : Nat} {p : Phase} (h : PhaseAt s c i p) : PhaseAt s.refreshJobs c i p := h

end Sys2Proof.Machine
end

section
/-! SUPPORT. BUCKET_SEND and BUCKET_RECV take their job contexts (R260, R261). -/

namespace Sys2Proof.Machine

/-! ### Job records and job contexts -/

section
variable (s : State) (job : BitVec 12)

theorem State.jobRec_id : (s.jobRec job).id = job := by
  unfold State.jobRec
  cases hfind : s.port.jobs.find? (fun (j : Job) => j.id == job) with
  | none => rfl
  | some x => exact beq_iff_eq.mp (List.find?_some hfind :)

theorem State.jobRec_modJob (f : Job → Job) (hf : ∀ x, (f x).id = x.id) : (s.modJob job f).jobRec job = f (s.jobRec job) := by
  have hid : ((f (s.jobRec job)).id == job) = true := by rw [hf, State.jobRec_id, beq_self_eq_true]
  show ((f (s.jobRec job) :: s.port.jobs.filter (fun (j : Job) => j.id != job)).find? (fun (j : Job) => j.id == job)).getD _ = _
  rw [List.find?_cons_of_pos (p := fun (j : Job) => j.id == job) hid]
  rfl

end

theorem Channel.ctx_addCtx (ch : Channel) (j : JobCtx) : ((ch.addCtx j).ctx j.job).isSome = true := by
  rw [Channel.ctx, List.find?_isSome]
  exact ⟨{ j with credits := ch.owed j.job }, List.mem_append_right _ List.mem_cons_self, beq_self_eq_true _⟩

theorem Channel.ctx_modJob_isSome (ch : Channel) (job : BitVec 12) (f : JobCtx → JobCtx) (hf : ∀ j, (f j).job = j.job) (job' : BitVec 12) :
    ((ch.modJob job f).ctx job').isSome = (ch.ctx job').isSome := by
  have hmap : (ch.modJob job f).ctx job' = (ch.ctx job').map (fun j => if j.job = job then f j else j) := by
    refine find?_map_of_eq (fun j => ?_) _
    split
    · rw [hf]
    · rfl
  rw [hmap, Option.isSome_map]

/-- The job has a context on the channel, or the channel has room for one. -/
def State.roomFor (s : State) (job : BitVec 12) (k : Chan) : Prop := ((s.portCh k).ctx job).isSome = true ∨ (s.portCh k).jobs.length < 64

/-- Between `s` and `t` job contexts have been added at most. -/
structure Allocated (job : BitVec 12) (s t : State) : Prop where
  rest : t = { s with port := { s.port with chans := t.port.chans } }
  buffers : ∀ k, (t.portCh k).inq = (s.portCh k).inq ∧ (t.portCh k).rx = (s.portCh k).rx
  kept : ∀ k, ((s.portCh k).ctx job).isSome = true → ((t.portCh k).ctx job).isSome = true
  room : ∀ k, s.roomFor job k → t.roomFor job k

section
variable {job : BitVec 12}

theorem Allocated.refl (s : State) : Allocated job s s := ⟨rfl, fun _ => ⟨rfl, rfl⟩, fun _ h => h, fun _ h => h⟩

theorem Allocated.trans {s t u : State} (h : Allocated job s t) (k : Allocated job t u) : Allocated job s u := by
  refine ⟨?_, fun d => ?_, fun d hd => k.kept d (h.kept d hd), fun d hd => k.room d (h.room d hd)⟩
  · have hu := k.rest
    rw [h.rest] at hu
    exact hu
  · obtain ⟨hinq, hrx⟩ := h.buffers d
    obtain ⟨kinq, krx⟩ := k.buffers d
    exact ⟨kinq.trans hinq, krx.trans hrx⟩

/-- A channel with a context, or with room for one, has one after. -/
theorem State.allocCtx_of_room {s : State} {k : Chan} {j : JobCtx} (h : s.roomFor j.job k) :
    ∃ t, s.allocCtx k j = some t ∧ Allocated j.job s t ∧ ((t.portCh k).ctx j.job).isSome = true := by
  unfold State.allocCtx
  dsimp only
  cases hctx : (s.portCh k).ctx j.job with
  | some x => exact ⟨s, rfl, .refl s, by rw [hctx]; rfl⟩
  | none =>
    have hroom : (s.portCh k).jobs.length < 64 := h.resolve_left (by rw [hctx]; simp)
    have hget (d : Chan) : (s.modCh k (fun (c : Channel) => c.addCtx j)).portCh d
        = if d = k then (s.portCh k).addCtx j else s.portCh d := State.modCh_chans ..
    have hself : (((s.modCh k (fun (c : Channel) => c.addCtx j)).portCh k).ctx j.job).isSome = true := by
      rw [hget, if_pos rfl]
      exact Channel.ctx_addCtx _ j
    refine ⟨_, if_pos hroom, ⟨rfl, fun d => ?_, fun d hd => ?_, fun d hd => ?_⟩, hself⟩
    · rw [hget]
      split
      next heq =>
        subst heq
        exact ⟨rfl, rfl⟩
      next => exact ⟨rfl, rfl⟩
    · by_cases heq : d = k
      · exact heq ▸ hself
      · rw [hget, if_neg heq]
        exact hd
    · by_cases heq : d = k
      · exact .inl (heq ▸ hself)
      · rw [State.roomFor, hget, if_neg heq]
        exact hd

/-- Every channel of the job with a context, or with room for one, takes one. -/
theorem State.allocAll_of_room (ks : List Chan) {s : State} {j : JobCtx} (h : ∀ k, s.roomFor j.job k) :
    ∃ t, ks.foldl (fun (t : Option State) k => t.bind (fun u => u.allocCtx k j)) (some s) = some t ∧ Allocated j.job s t
      ∧ ∀ k ∈ ks, ((t.portCh k).ctx j.job).isSome = true := by
  induction ks generalizing s with
  | nil => exact ⟨s, rfl, .refl s, fun k hk => absurd hk List.not_mem_nil⟩
  | cons k ks ih =>
    obtain ⟨u, halloc, hu, hk⟩ := State.allocCtx_of_room (h k)
    obtain ⟨t, hfold, ht, hks⟩ := ih fun d => hu.room d (h d)
    refine ⟨t, ?_, hu.trans ht, fun d hd => ?_⟩
    · rw [List.foldl_cons, Option.bind_some, halloc, hfold]
    · obtain rfl | hd := List.mem_cons.mp hd
      · exact ht.kept _ hk
      · exact hks d hd

end

/-! ### Bucket commands start (R261) -/

/-- No packet, sum, result or ABORT is in the port. -/
def PortEmpty (s : State) : Prop :=
  (∀ k : Chan, (s.portCh k).inq = [] ∧ (s.portCh k).rx = []) ∧ s.port.partials = [] ∧ s.port.results = [] ∧ s.port.aborts = []

section
variable {s t : State} {c : CtxNo} {m : Cmd} {o : Opnd}

theorem PortEmpty.calm (h : PortEmpty s) (hcmds : (s.ctx c).cmds = [m]) (hothers : ∀ d : CtxNo, d ≠ c → (s.ctx d).cmds = [])
    (hsend : ∀ n, m.phase = .running (.send n) → m.op = 0x20 ∧ s.maySend c 0 m = false) : PortCalm s := by
  obtain ⟨hchans, hpartials, hresults, haborts⟩ := h
  refine ⟨hchans, hpartials, hresults, haborts, fun d i m' n hget hphase => ?_⟩
  by_cases hd : d = c
  · subst hd
    rw [hcmds] at hget
    obtain ⟨rfl, hm⟩ : i = 0 ∧ m = m' := by simpa [List.getElem?_singleton] using hget
    obtain ⟨hop, hwaits⟩ := hsend n (hm ▸ hphase)
    exact ⟨hm ▸ hop, .inr (hm ▸ hwaits)⟩
  · rw [hothers d hd] at hget
    exact absurd hget (by simp)

theorem PortEmpty.finish (h : PortEmpty s) (i : Nat) (r : Reply) : PortEmpty (s.finish c i r) := by
  unfold PortEmpty State.portCh at *
  rwa [State.finish_port]

theorem State.cmds_finish_only (s : State) (hcmds : (s.ctx c).cmds = [m]) (r : Reply) :
    ((s.finish c 0 r).ctx c).cmds = [{ m with phase := .finished r }] := by
  have hunwait : ((s.unwaitCmd c 0).ctx c).cmds = [m] := by rw [State.ctx, State.unwaitCmd_ctxs, ← State.ctx, hcmds]
  rw [State.finish, State.cmds_unpin, State.cmds_setPhase _ c 0 _ (m := m) (by rw [hunwait]; rfl), hunwait]
  rfl

/-- The port empty and its context's only command completed, a step brings the states of the job contexts up to date. -/
theorem State.portStep_finished (h : PortEmpty s) (hcmds : (s.ctx c).cmds = [m]) (hothers : ∀ d : CtxNo, d ≠ c → (s.ctx d).cmds = []) (r : Reply) :
    PhaseAt (s.finish c 0 r).portStep c 0 (.finished r) ∧ SameMem s (s.finish c 0 r).portStep := by
  have hphase : PhaseAt (s.finish c 0 r) c 0 (.finished r) := State.phase_finish s (m := m) (by rw [hcmds]; rfl) r
  have hdone := s.cmds_finish_only hcmds r
  have hcalm : PortCalm (s.finish c 0 r) := (h.finish 0 r).calm hdone
    (fun d hd => by rw [State.ctx_finish_other s hd, hothers d hd]) (fun n hn => Phase.noConfusion hn)
  rw [hcalm.portStep]
  exact ⟨State.phase_refreshJobs hphase, (SameMem.finish s c 0 r).trans (.refreshJobs _)⟩

theorem State.op_of_starting {op i : Nat} (h : s.starting c op = some (i, m)) : m.op = op := by
  unfold State.starting at h
  repeat' split at h
  next hop =>
    obtain ⟨-, rfl⟩ : _ ∧ _ = m := by simpa using h
    exact hop.1
  all_goals exact absurd h (by simp)

/-- A bucket command whose checks pass, as far as its job and its bucket. -/
theorem State.startBucket_checked {op : Nat} {w : Work} (hstart : s.starting c op = some (0, m)) (hhandle : (s.handle c (m.f 128 16)).isSome = true)
    (hopnd : s.opnd m.fmts (m.f 128 16) 0 = some o) (hgood : m.reservedBad = none) (hchecks : s.bucketBad c m o = none) :
    s.startBucket c op w = if s.jobFailed m.job then (s.issueJob c m).finish c 0 (.of stJobFailed)
      else if (if op = 0x20 then (s.jobRec m.job).sends else (s.jobRec m.job).recvs).contains m.bucket then s.finish c 0 (.bad 160)
      else match (s.issueJob c m).allocAll m (dedup (gChannels (s.jobGroup m.job) (m.bit 177)) []) with
        | none => (s.issueJob c m).finish c 0 (.of stJobBusy)
        | some s2 => (s2.openBucket m o).setPhase c 0 (.running w) := by
  obtain ⟨d, hd⟩ := Option.isSome_iff_exists.mp hhandle
  unfold State.startBucket
  rw [hstart]
  dsimp only
  rw [hd, hopnd, hgood]
  dsimp only
  rw [hchecks] <;> rfl

/-- A job's record once a context has issued a bucket command of it. -/
def Job.issued (c : CtxNo) (x : Job) : Job := { x with issuer := some c, kept := none }

theorem State.issueJob_unkept (hkept : (s.jobRec m.job).kept = none) :
    s.issueJob c m = s.modJob m.job (Job.issued c) := by
  rw [State.issueJob, hkept]
  rfl

theorem PortEmpty.modJob (h : PortEmpty s) (job : BitVec 12) (f : Job → Job) : PortEmpty (s.modJob job f) := h

/-- A job context that a bucket command uses. -/
def Cmd.touchCtx (m : Cmd) (now : Nat) (j : JobCtx) : JobCtx :=
  { j with timeout := some (j.timeout.getD (m.pkt.extractLsb' 192 16)), last := now }

/-- The bucket is noted in its job's record. -/
def Cmd.noteBucket (m : Cmd) (x : Job) : Job :=
  if m.op = 0x20 then { x with sends := x.sends ++ [m.bucket] } else { x with recvs := x.recvs ++ [m.bucket] }

theorem Cmd.noteBucket_keeps (m : Cmd) (x : Job) : (m.noteBucket x).id = x.id ∧ (m.noteBucket x).sentUpTo = x.sentUpTo := by
  unfold Cmd.noteBucket
  split <;> exact ⟨rfl, rfl⟩

/-- A bucket command of a tree job in flight uses its contexts and is noted. -/
theorem State.openBucket_tree (htree : m.bit 177 = false) : s.openBucket m o =
    (s.modPort (fun (p : Port) => { p with chans := p.chans.map (fun (ch : Channel) => ch.modJob m.job (m.touchCtx s.now)) })).modJob m.job
      m.noteBucket := by
  unfold State.openBucket
  simp only [htree, Bool.false_eq_true, and_false, if_false]
  rfl

theorem State.portCh_openBucket (htree : m.bit 177 = false) (k : Chan) :
    (s.openBucket m o).portCh k = (s.portCh k).modJob m.job (m.touchCtx s.now) := by
  rw [State.openBucket_tree htree, State.portCh, vector_get_eq]
  exact Vector.getElem_map ..

/-- A bucket command of a tree job takes a context on each of its job's channels. -/
theorem State.allocated_openBucket (hkept : (s.jobRec m.job).kept = none) (htree : m.bit 177 = false)
    (hroom : ∀ k : Chan, (s.portCh k).jobs.length < 64) (hempty : PortEmpty s) (ks : List Chan) :
    ∃ s2, (s.issueJob c m).allocAll m ks = some s2 ∧ PortEmpty (s2.openBucket m o) ∧ (s2.openBucket m o).ctxs = s.ctxs
      ∧ SameMem s (s2.openBucket m o) ∧ ((s2.openBucket m o).jobRec m.job).sentUpTo = (s.jobRec m.job).sentUpTo
      ∧ ∀ k ∈ ks, (((s2.openBucket m o).portCh k).ctx m.job).isSome = true := by
  rw [State.issueJob_unkept hkept]
  let s1 := s.modJob m.job (Job.issued c)
  have hs1 : s1 = s.modJob m.job (Job.issued c) := rfl
  obtain ⟨s2, halloc, hadded, hall⟩ := State.allocAll_of_room ks (s := s1)
    (j := s1.freshCtx m.job (m.bit 176) (m.bit 177) (some (m.pkt.extractLsb' 192 16))) fun k => .inr (hroom k)
  obtain ⟨hchans, hpartials, hresults, haborts⟩ := hempty
  have hport : s2.port = { s1.port with chans := s2.port.chans } := congrArg State.port hadded.rest
  have hjobs : s2.port.jobs = s1.port.jobs := (congrArg Port.jobs hport :)
  refine ⟨s2, halloc, ⟨fun k => ?_, ?_, ?_, ?_⟩, ?_, ?_, ?_, fun k hk => ?_⟩
  · obtain ⟨hinq, hrx⟩ := hadded.buffers k
    rw [State.portCh_openBucket htree]
    exact ⟨hinq.trans (hchans k).1, hrx.trans (hchans k).2⟩
  · rw [State.openBucket_tree htree]
    exact (congrArg Port.partials hport :).trans hpartials
  · rw [State.openBucket_tree htree]
    exact (congrArg Port.results hport :).trans hresults
  · rw [State.openBucket_tree htree]
    exact (congrArg Port.aborts hport :).trans haborts
  · rw [State.openBucket_tree htree]
    exact (congrArg State.ctxs hadded.rest :)
  · rw [State.openBucket_tree htree]
    exact .of_eq (congrArg State.core hadded.rest :) (congrArg State.remote hadded.rest :)
  · have hrec : (s2.modPort (fun (p : Port) => { p with chans := p.chans.map (fun (ch : Channel) =>
        ch.modJob m.job (m.touchCtx s2.now)) })).jobRec m.job = s1.jobRec m.job := by
      unfold State.jobRec
      exact congrArg (fun l : List Job => (l.find? (fun (j : Job) => j.id == m.job)).getD ⟨m.job, none, [], [], none, 0⟩) hjobs
    rw [State.openBucket_tree htree, State.jobRec_modJob _ _ m.noteBucket fun x => (m.noteBucket_keeps x).1, (m.noteBucket_keeps _).2, hrec,
      hs1, State.jobRec_modJob s m.job (Job.issued c) fun _ => rfl]
    rfl
  · rw [State.portCh_openBucket htree, Channel.ctx_modJob_isSome _ _ (m.touchCtx s2.now) fun _ => rfl]
    exact hall k hk

end

/-- Settles O56: the port stays empty, so that the step after the start only brings the job contexts' states up to date (`PortCalm.portStep`). -/
theorem bucketCommandsStart : Obligations.BucketCommandsStart := by
  unfold Obligations.BucketCommandsStart
  intro s c m o send hup hchans hpartials hresults haborts hinputs hcmds hothers hstart hhandle hopnd hgood hchecks hkept htree
  have hempty : PortEmpty s := ⟨hchans, hpartials, hresults, haborts⟩
  let w : Work := if send then .send 0 else .recv 0 0 0xFFFF 0 0 0 false false
  have hexec : exec (if send then .bucketSend c else .bucketRecv c) s
      = .next (s.startBucket c (if send then 0x20 else 0x21) w).portStep := by
    cases send <;> exact congrArg Host.Outcome.next (if_pos hup)
  have hrecs : (if (if send then 0x20 else 0x21 : Nat) = 0x20 then (s.jobRec m.job).sends else (s.jobRec m.job).recvs)
      = if send then (s.jobRec m.job).sends else (s.jobRec m.job).recvs := by cases send <;> rfl
  rw [State.startBucket_checked hstart hhandle hopnd hgood hchecks, hrecs] at hexec
  refine ⟨fun hfailed => ?failed, fun hgoes hnamed => ?named, fun hgoes hnew hroom hturn => ?started⟩
  case failed =>
    simp only [show s.jobFailed m.job = true from hfailed, if_true, State.issueJob_unkept hkept] at hexec
    obtain ⟨hphase, hmem⟩ := State.portStep_finished (c := c) (m := m) (hempty.modJob m.job _) hcmds hothers (.of stJobFailed)
    exact ⟨_, hexec, hphase, SameMem.trans (.of_eq rfl rfl) hmem⟩
  case named =>
    simp only [show s.jobFailed m.job = false from hgoes, hnamed, Bool.false_eq_true, if_true, if_false] at hexec
    obtain ⟨hphase, hmem⟩ := State.portStep_finished hempty hcmds hothers (.bad 160)
    exact ⟨_, hexec, hphase, hmem⟩
  case started =>
    obtain ⟨s2, halloc, hstill, hctxs, hmem, hsent, hheld⟩ := State.allocated_openBucket (c := c) (o := o) hkept htree hroom hempty
      (dedup (gChannels (s.jobGroup m.job) (m.bit 177)) [])
    simp only [show s.jobFailed m.job = false from hgoes, hnew, halloc, Bool.false_eq_true, if_false] at hexec
    have hctx (d : CtxNo) : (s2.openBucket m o).ctx d = s.ctx d := congrArg (·.get d) hctxs
    have hcmds2 : ((s2.openBucket m o).ctx c).cmds[0]? = some m := by rw [hctx, hcmds]; rfl
    have hphase := State.phase_setPhase (s2.openBucket m o) hcmds2 (.running w)
    have honly : (((s2.openBucket m o).setPhase c 0 (.running w)).ctx c).cmds = [{ m with phase := .running w }] := by
      rw [State.cmds_setPhase _ c 0 _ hcmds2, hctx, hcmds]
      rfl
    have hcalm : PortCalm ((s2.openBucket m o).setPhase c 0 (.running w)) := by
      refine PortEmpty.calm (c := c) hstill honly (fun d hd => ?_) (fun n hn => ?_)
      · rw [State.ctx_setPhase_other _ hd, hctx, hothers d hd]
      · cases send with
        | false => exact absurd (show Phase.running w = _ from hn) (by simp [w])
        | true =>
          have hop : m.op = 0x20 := State.op_of_starting hstart
          refine ⟨hop, ?_⟩
          have hearly : ¬ m.bucket ≤ ((s2.openBucket m o).jobRec m.job).sentUpTo := by
            rw [hsent]
            exact Nat.not_le_of_lt (hturn rfl)
          show (_ && decide (m.bucket ≤ ((s2.openBucket m o).jobRec m.job).sentUpTo) && _) = false
          rw [decide_eq_false hearly, Bool.and_false, Bool.false_and]
    rw [show ((s2.openBucket m o).setPhase c 0 (.running w)).portStep = _ from hcalm.portStep] at hexec
    refine ⟨_, hexec, hmem.trans ((SameMem.setPhase _ c 0 _).trans (.refreshJobs _)), State.phase_refreshJobs hphase, fun k hk => ?_⟩
    rw [State.jobCtx_refreshJobs, Option.isSome_map]
    exact hheld k (mem_dedup.mpr ⟨by rwa [htree], List.not_mem_nil⟩)

end Sys2Proof.Machine
end

section
/-! SUPPORT. Three statements about the port fail in states that they allow: they ask neither that a command in flight has the opcode its work
belongs to (`misTyped`), nor that the contexts of a job with a bucket command in flight are ACTIVE (R260, `idleRing`). -/

namespace Sys2Proof.Machine

/-! ### The states -/

/-- A READY engine; its region 0 grants everything, and page 0 is in its TLB. -/
def readyEngine : State :=
  { State.reset with
    eng := { Engine.reset with step := 7 }
    pow := { Power.reset with state := .running }
    regions := [(0, BitVec.ofNat 128 ((2 ^ 48 - 1) * 2 ^ 64 + 2 ^ 112 + 2 ^ 113 + 2 ^ 114 + 0xFF * 2 ^ 120))]
    tlb := [⟨0, ⟨.core 0, true, true⟩, 0⟩] }

/-- A word with the given fields (position, width, value). -/
def withFields (n : Nat) (fs : List (Nat × Nat × Nat)) : BitVec n := fs.foldl (fun p f => setFld p f.1 f.2.1 f.2.2) 0

/-- A vector of two BF16 elements from byte 0x3000 on, to be read and written. -/
def twoElems : Desc where
  image := withFields 1024 [(0, 48, 0x3000), (52, 3, 1), (56, 1, 1), (57, 1, 1), (256, 32, 2), (288, 40, 2)]
  ctx := 0
  region := 0
  hdrRegion := 0
  lo := 0x3000
  hi := 0x3003

/-- The vector as the first stream of a command. -/
def twoElemsOpnd : Opnd := ⟨twoElems, 3, fixedEntry 0, 0⟩

/-- A running command of context 0 on that vector, of a job and a bucket. -/
def bucketWork (op job bucket : Nat) (fs : List (Nat × Nat × Nat)) (w : Work) : Cmd where
  pkt := withFields 512 ([(0, 8, op), (27, 2, 1), (128, 16, 3), (144, 12, job), (160, 16, bucket)] ++ fs)
  fmts := Vector.replicate 8 0
  tabs := []
  ringAt := 0
  tailAt := 0
  phase := .running w
  faults := 0
  img := none

theorem bucketWork_phase (op job bucket : Nat) (fs : List (Nat × Nat × Nat)) (w : Work) : (bucketWork op job bucket fs w).phase = .running w := rfl

/-- A context of a job that is IDLE. -/
def idleCtx (job : BitVec 12) (g : Group) : JobCtx := ⟨job, .idle, g, false, false, none, 0, 0, 0, 0⟩

/-- Context 0 runs with these commands; the vector is its descriptor 3. -/
def working (l : List Cmd) : State :=
  { readyEngine.modCtx 0 (fun x => { x with state := .running, cmds := l }) with descs := [(3, twoElems)] }

theorem cmds_working (l : List Cmd) : ((working l).ctx 0).cmds = l := congrArg Context.cmds
  (State.ctx_modCtx_same readyEngine 0 (fun x => { x with state := .running, cmds := l }))

theorem getElem?_pair {α : Type} {a b x : α} {i : Nat} (h : [a, b][i]? = some x) : (i = 0 ∧ x = a) ∨ (i = 1 ∧ x = b) := by
  match i with
  | 0 => exact .inl ⟨rfl, (Option.some.inj h).symm⟩
  | 1 => exact .inr ⟨rfl, (Option.some.inj h).symm⟩
  | _ + 2 => exact absurd h (by simp)

theorem eq_of_fst {α : Type} {p : Bool × α} (h : p.1 = true) : p = (true, p.2) := by rw [← h]

/-! ### A RESULT completes a command that is not a bucket command -/

/-- The receive of bucket 1 of job 5 in flight, in a command whose opcode is NOP's. -/
def wrongReceive : Cmd := bucketWork 0 5 1 [] (.recv 0 0 0xFFFF 0 0 0 false false)

/-- The BUCKET_SEND of bucket 0 of job 0x105. -/
def leafSend : Cmd := bucketWork 0x20 0x105 0 [] (.send 0)

/-- In flight: the receive of job 5, in a command whose opcode is NOP's, and behind it the BUCKET_SEND of job 0x105, whose group is `g`;
channel 5 holds a context of job 5 and `n` of another job. -/
def misTyped (g : Group) (n : Nat) : State :=
  let s := working [wrongReceive, leafSend]
  { (s.modCh 5 (fun ch => { ch with jobs := idleCtx 5 1 :: List.replicate n (idleCtx 7 1) })).modPort
      (fun p => { p with jobs := [⟨5, none, [1], [], none, 0⟩] }) with
    groups := s.groups.set 1 g }

/-- The last RESULT packet of the bucket, beyond the vector's elements. -/
def lastResult : Packet := ⟨withFields 512 [(0, 12, 5), (12, 4, 1), (16, 16, 1), (32, 21, 1), (53, 1, 1)], 0⟩

section
variable {s : State}

/-- Only context 0 has commands, and its sends may not send now. -/
theorem PortEmpty.calm_of_waiting (h : PortEmpty s) (hothers : ∀ d : CtxNo, d ≠ 0 → (s.ctx d).cmds = [])
    (hsend : ∀ (i : Nat) (m : Cmd) (n : Nat), (s.ctx 0).cmds[i]? = some m → m.phase = .running (.send n) →
      m.op = 0x20 ∧ s.maySend 0 i m = false) : PortCalm s := by
  obtain ⟨hchans, hpartials, hresults, haborts⟩ := h
  refine ⟨hchans, hpartials, hresults, haborts, fun c i m n hcmd hphase => ?_⟩
  by_cases hc : c = 0
  · subst hc
    exact (hsend i m n hcmd hphase).imp_right .inr
  · rw [hothers c hc] at hcmd
    exact absurd hcmd (by simp)

end

/-- The commands of `misTyped`, by their places. -/
theorem misTyped_cmds {g : Group} {n i : Nat} {m : Cmd} (h : ((misTyped g n).ctx 0).cmds[i]? = some m) :
    (i = 0 ∧ m = wrongReceive) ∨ (i = 1 ∧ m = leafSend) := by
  have hcmds : ((misTyped g n).ctx 0).cmds = [wrongReceive, leafSend] := cmds_working [wrongReceive, leafSend]
  rw [hcmds] at h
  exact getElem?_pair h

/-- Before its producer has completed the send of `misTyped` waits, so that nothing moves. -/
theorem misTyped_calm {g : Group} {n : Nat} (hempty : PortEmpty (misTyped g n))
    (hothers : ∀ d : CtxNo, d ≠ 0 → ((misTyped g n).ctx d).cmds = [])
    (hwaits : (misTyped g n).maySend 0 1 (leafSend) = false) : PortCalm (misTyped g n) := by
  refine hempty.calm_of_waiting hothers fun i m k hcmd hphase => ?_
  obtain ⟨-, rfl⟩ | ⟨rfl, rfl⟩ := misTyped_cmds hcmd
  · exact absurd hphase (by simp [wrongReceive, bucketWork_phase])
  · exact ⟨by decide +kernel, hwaits⟩

/-- Channel 5 full and the group of job 0x105 a leaf's, the send's packet takes the place of job 5's context. -/
theorem misTyped_result_reclaims : (((misTyped 1 63).packetIn 5 lastResult 1).portCh 5).ctx lastResult.job = none := by decide +kernel

/-- The group of job 0x105 a root's without children, the send's packet is a sum that waits to be received. -/
theorem misTyped_result_sums : ((misTyped 11 0).packetIn 5 lastResult 1).port.results ≠ [] := by decide +kernel

/-- Refutes O27: the RESULT that completes the receive of `misTyped` lets its send go, whose packet reclaims the context the RESULT came for
(`misTyped_result_reclaims`). The receive's command has NOP's opcode, so that it is no bucket command for R262. -/
theorem not_packetsCountAndDigest : ¬ Obligations.PacketsCountAndDigest := by
  unfold Obligations.PacketsCountAndDigest
  intro h
  have hcalm : PortCalm (misTyped 1 63) :=
    misTyped_calm ⟨by decide +kernel, rfl, rfl, rfl⟩ (by decide +kernel) (by decide +kernel)
  obtain ⟨hgoes, -⟩ := h (misTyped 1 63) 5 lastResult (idleCtx 5 1) (.result 5 lastResult) (by decide +kernel) (by decide +kernel)
    (by decide +kernel) (.inr (.inl ⟨rfl, by decide +kernel⟩))
  obtain ⟨t, hexec, -, hdigest⟩ := hgoes (by decide +kernel)
  obtain rfl := Host.Outcome.next.inj hexec
  obtain ⟨x, hx, -⟩ := hdigest hcalm
  exact absurd (misTyped_result_reclaims.symm.trans hx) (by simp)

/-- Refutes O28: the RESULT that completes the receive of `misTyped` lets its send go, whose packet becomes a sum of its node, so that a result
still waits in the port (`misTyped_result_sums`). -/
theorem not_packetsReachTheirJob : ¬ Obligations.PacketsReachTheirJob := by
  unfold Obligations.PacketsReachTheirJob
  rintro ⟨h, -⟩
  have hcalm : PortCalm (misTyped 11 0) :=
    misTyped_calm ⟨by decide +kernel, rfl, rfl, rfl⟩ (by decide +kernel) (by decide +kernel)
  obtain ⟨hresult, -⟩ := h (misTyped 11 0) 5 lastResult (idleCtx 5 1) (by decide +kernel) hcalm (by decide +kernel) (by decide +kernel)
    (by decide +kernel) (by decide +kernel) (by decide +kernel)
  obtain ⟨-, hwrites⟩ := hresult (by decide +kernel) rfl (by decide +kernel) (by decide +kernel)
  have honly : ∀ c' i', Receives (misTyped 11 0) c' i' lastResult.job lastResult.bucket → c' = 0 ∧ i' = 0 := by
    rintro c' i' ⟨m, _, _, _, _, _, _, _, _, hcmd, hphase, -⟩
    by_cases hc : c' = 0
    · subst hc
      obtain ⟨rfl, -⟩ | ⟨-, rfl⟩ := misTyped_cmds hcmd
      · exact ⟨rfl, rfl⟩
      · exact absurd hphase (by simp [leafSend, bucketWork_phase])
    · have hnone : ∀ d : CtxNo, d ≠ 0 → ((misTyped 11 0).ctx d).cmds = [] := by decide +kernel
      rw [hnone c' hc] at hcmd
      exact absurd hcmd (by simp)
  obtain ⟨t, hexec, hresults, -⟩ := hwrites 0 0 (wrongReceive) 0 0 0xFFFF 0 0 0 false false
    twoElemsOpnd _ (by decide +kernel) rfl (by decide +kernel) (by decide +kernel) honly (by decide +kernel)
    (by decide +kernel) (by decide +kernel) (by decide +kernel) (eq_of_fst (by decide +kernel))
  obtain rfl := Host.Outcome.next.inj hexec
  exact misTyped_result_sums hresults

/-! ### The contexts of a job with a BUCKET_SEND in flight are freed -/

/-- The strict BUCKET_SEND of bucket 1 of job 0x105. -/
def ringSend : Cmd := bucketWork 0x20 0x105 1 [(177, 1, 1)] (.send 0)

/-- In flight: a strict BUCKET_SEND of job 0x105, which waits for the ring's RESULT packet of the bucket before; the job's only context is
IDLE, and the group table has another index for the engine than the context's copy. -/
def idleRing : State :=
  let s := working [ringSend]
  { (s.modCh 0 (fun ch => { ch with jobs := [{ idleCtx 0x105 (1 + 2 ^ 16) with strict := true }] })).modPort
      (fun p => { p with
        jobs := [⟨0x105, none, [1], [], none, 1⟩]
        inputs := [⟨0x105, 0, 0, 0, none, false, false, false, 0, none, 1, 0, 0⟩] }) with
    groups := s.groups.set 1 (1 + 2 ^ 16 + 2 ^ 32) }

/-- Freed, the job's context no longer says that the send waits: its packet takes a new context on the ring's output. -/
theorem idleRing_release_sends : ∃ x ∈ ((idleRing.releaseJob 0x105).portCh 4).jobs, x.job = 0x105 := by decide +kernel

/-- Refutes O29: a JOB_RELEASE of the job of `idleRing` frees its context, but leaves it a context that its send takes at once
(`idleRing_release_sends`). The job's context is IDLE although a bucket command of it is in flight (R260). -/
theorem not_creditsReleasesAndLateInputs : ¬ Obligations.CreditsReleasesAndLateInputs := by
  unfold Obligations.CreditsReleasesAndLateInputs
  rintro ⟨h, -⟩
  have hempty : PortEmpty idleRing := ⟨by decide +kernel, rfl, rfl, rfl⟩
  have hcmds : (idleRing.ctx 0).cmds = [ringSend] := cmds_working [ringSend]
  have hcalm : PortCalm idleRing := hempty.calm hcmds (by decide +kernel) fun _ _ => by decide +kernel
  obtain ⟨-, hrelease⟩ := h idleRing 0 0x105 0x105 hcalm
  obtain ⟨t, hexec, hfreed, -⟩ := hrelease (by decide +kernel)
  obtain rfl := (if_pos (show idleRing.windowOpen = true by decide +kernel)).symm.trans (Host.Outcome.next.inj hexec)
  obtain ⟨x, hx, hjob⟩ := idleRing_release_sends
  obtain ⟨y, hy, -, hactive⟩ := hfreed 4 x hx hjob
  have hnone : (idleRing.portCh 4).jobs = [] := by decide +kernel
  rw [hnone] at hy
  exact absurd hy List.not_mem_nil

end Sys2Proof.Machine
end

section
/-! SUPPORT. CKPT_ARM, the epoch point and page copies (R283, R287 to R289, R302). -/

namespace Sys2Proof.Machine

/-- The first element with a property, by its place. -/
theorem findAt_first {α : Type} {p : α → Bool} {l : List α} {i : Nat} {a : α} (ha : l[i]? = some a) (hp : p a = true)
    (hfirst : ∀ k, k < i → ∀ b, l[k]? = some b → p b = false) (n : Nat) : findAt p l n = some (n + i, a) := by
  induction l generalizing i n with
  | nil => exact absurd ha (by simp)
  | cons b l ih =>
    cases i with
    | zero =>
      obtain rfl : b = a := Option.some.inj ha
      rw [findAt, if_pos hp, Nat.add_zero]
    | succ i =>
      rw [findAt, if_neg (by rw [hfirst 0 (Nat.succ_pos i) b rfl]; simp), ih ha fun k hk b hb => hfirst (k + 1) (Nat.succ_lt_succ hk) b hb]
      congr 2
      omega

section
variable {s q : State} {c : CtxNo} {i w p : Nat} {m : Cmd} {o : Opnd}

/-! ### CKPT_ARM of mode 0 (R283) -/

theorem exec_ckptArm_waits (hstart : s.starting c 0x30 = some (i, m)) (hmode : m.f 144 2 = 0) (hgood : m.reservedBad = none)
    (hdone : s.earlierButExports c i = true) (hnone : s.ckpt.pending = none) :
    exec (.ckptArm c) s = .next (s.ckptWait c i 0 0 0) := by
  refine congrArg Host.Outcome.next (?_ : s.ckptArm c = _)
  unfold State.ckptArm
  rw [hstart]
  dsimp only
  rw [if_neg (by simp [hdone, hnone]), if_pos hmode, hgood]

/-! ### The epoch point (R283) -/

/-- The unit once the epoch is closed and the next one is not armed. -/
def Ckpt.closed (k : Ckpt) (c : CtxNo) (m : Cmd) (area : Option (Nat × Desc × Word)) (tick : Word) : Ckpt :=
  k.opened c m false 0 0 0 area tick

/-- The state once an epoch is closed: no context has made a tracked write. -/
def State.epochClosed (s : State) (k : Ckpt) : State := { s with ckpt := k, ctxs := s.ctxs.map (fun (x : Context) => { x with tracked := false }) }

theorem State.cmds_epochClosed (s : State) (k : Ckpt) (d : CtxNo) : ((s.epochClosed k).ctx d).cmds = (s.ctx d).cmds := by
  rw [State.epochClosed, State.ctx, State.ctx, vector_get_eq, Vector.getElem_map, vector_get_eq]

/-- Nothing written into an area takes no slot. -/
theorem State.areaWrite_nil (s : State) (c : CtxNo) (seq : Word) :
    s.areaWrite c seq [] = (true, ((s.openFor c seq .ckpt []).2).issue c seq .ckpt []) := by
  have hopen : (s.openFor c seq .ckpt []).1 = true := rfl
  rw [State.areaWrite, List.map_nil, hopen]
  rfl

/-- What runs at the epoch point of an unarmed unit, for a CKPT_ARM of mode 0. -/
def State.epochBase (s : State) (c : CtxNo) (m : Cmd) : State :=
  (((s.openFor c m.seq .ckpt []).2).issue c m.seq .ckpt []).epochClosed
    (s.ckpt.closed c m ((s.opnd m.fmts (m.f 128 16) 0).map (fun o => (o.idx, o.desc, o.fmt))) s.tick.count)

theorem exec_epochPoint_closes (hcmd : (s.ctx c).cmds[i]? = some m) (hup : s.up = true) (heffective : s.ckpt.effective = true)
    (hwriting : s.writingUnit = false) (hpending : s.ckpt.pending = some c) (halert : s.alert c = true) (harmed : s.ckpt.armed = false)
    (hop : m.op = 0x30) (hmode : m.f 144 2 = 0) (hphase : m.phase = .running (.epochWait 0 0 0))
    (hflights : s.landCopies.ckpt.flights.any (fun f => f.written) = false)
    (hshot : s.unshot (fun opens t => opens && !(s.ctx t).bucketRuns) = false)
    (hfirst : ∀ k, k < i → ∀ y, (s.ctx c).cmds[k]? = some y → ¬ (y.op = 0x30 ∧ y.phase.isRunning = true)) :
    exec .epochPoint s = .next ((s.epochBase c m).finish c i
      { Reply.ok with result0 := s.ckpt.epoch + 1, result1 := 0, result2 := 0 }) := by
  have hrunning : (s.ctx c).state = .running := by
    simp only [State.alert, Bool.and_eq_true, beq_iff_eq] at halert
    exact halert.1.1.2
  have hfind : findAt (fun m => m.op == 0x30 && m.phase.isRunning) (s.ctx c).cmds 0 = some (i, m) := by
    have hfound := findAt_first (p := fun m : Cmd => m.op == 0x30 && m.phase.isRunning) hcmd (by rw [hop, hphase]; rfl)
      (fun k hk y hy => by
        have hnot := hfirst k hk y hy
        rw [Bool.eq_false_iff]
        simpa using hnot) 0
    rwa [Nat.zero_add] at hfound
  have hnever : armedBy 0 s.risk.level.toNat (m.f 146 8) = false := by simp [armedBy]
  have hparts (area : Option (Nat × Desc × Word)) : s.epochParts (s.ckpt.closed c m area s.tick.count) = [] := by
    have hnone (k : Ckpt) (hk : k.armed = false) (l : List (Nat × List Byte)) : k.parts l = [] := by
      rw [Ckpt.parts, hk]
    rw [State.epochParts, hnone _ harmed, hnone _ rfl]
    rfl
  refine congrArg Host.Outcome.next (?_ : s.epochPoint = _)
  unfold State.epochPoint
  rw [if_neg (by simp only [hup, heffective, hwriting, hflights, hshot]; simp), hpending]
  dsimp only
  rw [hrunning, if_neg (by decide), hfind]
  dsimp only
  rw [hphase]
  dsimp only
  rw [hmode, hnever, Bool.false_and, show s.ckpt.opened c m false 0 0 0 _ s.tick.count = s.ckpt.closed c m _ s.tick.count from rfl, hparts,
    State.areaWrite_nil]
  rfl

theorem State.epochBase_leaves (s : State) (c : CtxNo) (m : Cmd) :
    ((s.epochBase c m).ctx c).cmds = (s.ctx c).cmds ∧ SameMem s (s.epochBase c m) := by
  refine ⟨?_, .of_eq ?_ ?_⟩
  · rw [State.epochBase, State.cmds_epochClosed, State.ctx_issue]
    exact State.cmds_openSome ..
  · exact State.openFor_core ..
  · exact State.openFor_remote ..

/-! ### Page copies (R287 to R289) -/

section
variable (hactive : s.active c = true) (hwant : (s.ctx c).wantPage = some p) (hwindow : s.ckpt.window p = some w) (hopnd : s.ckpt.opnd = some o)
include hactive hwant hwindow hopnd

/-- What a context's page copy does, in the state in which acknowledged copies have landed. -/
theorem exec_pageCopy : exec (.pageCopy c) s = .next (
    let v := s.landCopies
    let seq := (s.ctx c).wantSeq
    if v.ckpt.settled w then v.copyDone c else
    match v.ckpt.flight w with
    | some f => if f.ctx = c && !f.written then v.writeCopy c seq o p w else v
    | none =>
      if v.ckpt.slots ≤ v.ckpt.slotsUsed then ({ v with ckpt := v.ckpt.miss w p }).copyDone c
      else if (s.xlat c p).isNone then v.copyDone c
      else v.startCopy c seq p w) := by
  have hgo : s.landCopies.goesOn c (s.ctx c).wantSeq = true := Bool.or_eq_true_iff.mpr (.inl hactive)
  refine congrArg Host.Outcome.next (?_ : s.pageCopy c = _)
  unfold State.pageCopy
  simp only [State.alert_of_active hactive, hwant, hgo, show s.landCopies.ckpt.window p = some w from hwindow,
    show s.landCopies.ckpt.opnd = some o from hopnd, Bool.not_true, Bool.false_eq_true, if_false, Bool.and_true]
  rfl

end

theorem State.wantPage_copyDone (s : State) (c : CtxNo) : ((s.copyDone c).ctx c).wantPage = none := by
  rw [State.copyDone, State.ctx_modCtx_same]

theorem SameMem.copyDone (s : State) (c : CtxNo) : SameMem s (s.copyDone c) := .of_eq rfl rfl

theorem SameMem.landCopies (s : State) : SameMem s s.landCopies := .of_eq rfl rfl

theorem State.wantPage_openFor (s : State) (c : CtxNo) (seq : Word) (use : ReqUse) (as : List Acc) :
    (((s.openFor c seq use as).2).ctx c).wantPage = (s.ctx c).wantPage := by
  have hpin (ns : List FaultRec) : ((s.pin c ns).ctx c).wantPage = (s.ctx c).wantPage := by
    unfold State.pin
    dsimp only
    generalize List.foldl _ (s.ctx c).xlats _ = xs
    exact (congrArg Context.wantPage (s.ctx_modCtx_same c (fun x => { x with xlats := xs })) :)
  have hacquire (ns : List FaultRec) : (((s.acquire c ns).2).ctx c).wantPage = (s.ctx c).wantPage := by
    unfold State.acquire
    dsimp only
    split <;> exact hpin _
  unfold State.openFor State.openSome
  dsimp only
  split
  · exact hacquire _
  · rw [State.ctx_takeSlots]
    exact hacquire _

/-- A copy that finds its staging and its read slots is in flight. -/
theorem State.startCopy_starts {seq : Word} (hflights : s.ckpt.flights.length < 4) (hfree : 16 ≤ s.stagingFree)
    (hturn : s.behind .staging 0 c seq = false) (hnew : ∀ x ∈ s.staging, x.2 ≠ copyUser c) :
    let h : State := { (s.unwait c seq) with staging := s.staging ++ [(16, copyUser c)] }
    h.takeRaw c seq .ckpt (h.rawReads c seq .ckpt (p * 65536) 65536) = (true, q) →
    s.startCopy c seq p w = { q with ckpt := { q.ckpt with flights := q.ckpt.flights ++ [⟨c, w, false⟩] } } := by
  intro h htake
  have hheld : s.staging.any (fun p => p.2 == copyUser c) = false := by simpa using hnew
  have hstaging : s.takeStaging c seq 0 16 (copyUser c) = (true, h) := by
    rw [State.takeStaging, hheld, if_neg (by decide), if_neg (by simp [hturn, hfree])]
  unfold State.startCopy
  rw [if_neg (by omega), hstaging]
  dsimp only
  rw [htake]
  rfl

/-- What a copy writes, its pages translated and its slots free. -/
def State.copyStored (q : State) (c : CtxNo) (seq : Word) (ps : List AreaPart) : State :=
  (ps.foldl (fun t p => t.putArea c (t.refusals c p.acc) p.area p.off p.bytes) q).issue c seq .ckpt (ps.map AreaPart.acc)

theorem State.copyStored_leaves (q : State) (c : CtxNo) (seq : Word) (ps : List AreaPart) :
    (q.copyStored c seq ps).ckpt = q.ckpt ∧ (q.copyStored c seq ps).ctxs = q.ctxs
      ∧ SameMem (ps.foldl (fun t p => t.putArea c (t.refusals c p.acc) p.area p.off p.bytes) q) (q.copyStored c seq ps) := by
  have hfold : (ps.foldl (fun t p => t.putArea c (t.refusals c p.acc) p.area p.off p.bytes) q).ckpt = q.ckpt
      ∧ (ps.foldl (fun t p => t.putArea c (t.refusals c p.acc) p.area p.off p.bytes) q).ctxs = q.ctxs := by
    refine List.foldlRecOn (motive := fun (t : State) => t.ckpt = q.ckpt ∧ t.ctxs = q.ctxs) ps _ ⟨rfl, rfl⟩ ?_
    rintro t ⟨hckpt, hctxs⟩ p -
    exact ⟨(State.putArea_ckpt ..).trans hckpt, (State.putArea_ctxs ..).trans hctxs⟩
  exact ⟨(State.issue_ckpt ..).trans hfold.1, (State.issue_ctxs ..).trans hfold.2, .of_eq (State.issue_core ..) (State.issue_remote ..)⟩

/-- The first copy that is not written is written, its pages translated and its slots free. -/
theorem State.writeCopy_of_open {seq : Word} (hturn : s.ckpt.flights.find? (fun f => !f.written) = some ⟨c, w, false⟩) :
    let ps := s.ckpt.copyParts o w (s.pageBytes c p)
    s.openFor c seq .ckpt (ps.map AreaPart.acc) = (true, q) →
    s.writeCopy c seq o p w = { q.copyStored c seq ps with ckpt := { q.ckpt with
      copied := q.ckpt.copied ++ [w]
      flights := q.ckpt.flights.map (fun f => if f.page = w then { f with written := true } else f) } } := by
  intro ps hopen
  have harea : s.areaWrite c seq ps = (true, q.copyStored c seq ps) := by
    rw [State.areaWrite, hopen]
    rfl
  obtain ⟨hckpt, -, -⟩ := q.copyStored_leaves c seq ps
  unfold State.writeCopy
  rw [if_neg (by rw [hturn]; simp), show s.areaWrite c seq _ = _ from harea, ← hckpt]
  rfl

end

/-- Settles O39: the three commands' closed forms in the states the statement names. -/
theorem epochsAdvanceAtTheirPoint : Obligations.EpochsAdvanceAtTheirPoint := by
  unfold Obligations.EpochsAdvanceAtTheirPoint
  intro s q c i w p m o
  refine ⟨?arms, ?closes, fun hactive hwant hwindow hopnd => ⟨?settled, fun hopen hnone => ⟨?full, ?starts⟩, ?written⟩⟩
  case arms =>
    intro hcmd hstart hmode hgood hdone hnone
    exact ⟨_, exec_ckptArm_waits hstart hmode hgood hdone hnone, rfl, State.phase_setPhase s hcmd _, rfl⟩
  case closes =>
    intro hcmd hup heffective hwriting hpending halert hreqs harmed hop hmode hphase hflights hshot hfirst
    obtain ⟨hcmds, hmem⟩ := s.epochBase_leaves c m
    refine ⟨_, exec_epochPoint_closes hcmd hup heffective hwriting hpending halert harmed hop hmode hphase hflights hshot hfirst, ?_, ?_, ?_,
      State.phase_finish _ (m := m) (by rw [hcmds, hcmd]) _, hmem.trans (.finish _ c i _)⟩
    all_goals
      rw [State.finish_ckpt]
      rfl
  case settled =>
    intro hsettled
    exact ⟨_, (exec_pageCopy hactive hwant hwindow hopnd).trans (congrArg Host.Outcome.next (if_pos hsettled)), State.wantPage_copyDone _ c,
      rfl, (SameMem.landCopies s).trans (.copyDone _ c), rfl⟩
  case full =>
    intro hfull
    have hexec := exec_pageCopy hactive hwant hwindow hopnd
    simp only [hopen, hnone, if_pos hfull, Bool.false_eq_true, if_false] at hexec
    exact ⟨_, hexec, State.wantPage_copyDone _ c, rfl, rfl, (SameMem.landCopies s).trans (SameMem.trans (.of_eq rfl rfl) (.copyDone _ c))⟩
  case starts =>
    intro hroom hxlat hflights hfree hturn hnew h htake
    have hexec := exec_pageCopy hactive hwant hwindow hopnd
    have hsome : (s.xlat c p).isNone = false := Option.isNone_eq_false_iff.mpr hxlat
    simp only [hopen, hnone, if_neg (Nat.not_le_of_lt hroom), hsome, Bool.false_eq_true, if_false] at hexec
    rw [State.startCopy_starts (s := s.landCopies) (w := w) hflights hfree hturn hnew htake] at hexec
    have hq : (h.takeRaw c (s.ctx c).wantSeq .ckpt (h.rawReads c (s.ctx c).wantSeq .ckpt (p * 65536) 65536)).2 = q := congrArg Prod.snd htake
    have hckpt : q.ckpt = s.landCopies.ckpt := by rw [← hq, State.takeRaw_ckpt]; rfl
    have hctxs : q.ctxs = s.ctxs := by rw [← hq, State.takeRaw_ctxs]; rfl
    refine ⟨_, hexec, by rw [hckpt], ?_, rfl, ?_, ?_⟩
    · rw [← hq]
      exact State.takeRaw_staging ..
    · rw [← hwant]
      exact congrArg (fun v => (v.get c).wantPage) hctxs
    · refine .of_eq ?_ ?_
      · rw [← hq]
        exact State.takeRaw_core ..
      · rw [← hq]
        exact State.takeRaw_remote ..
  case written =>
    intro hopen hflight hturn parts hparts
    have hexec := exec_pageCopy hactive hwant hwindow hopnd
    simp only [hopen, hflight, Bool.false_eq_true, if_false, decide_true, Bool.not_false, Bool.and_self, if_true] at hexec
    rw [State.writeCopy_of_open hturn hparts] at hexec
    have hq : (s.landCopies.openFor c (s.ctx c).wantSeq .ckpt (parts.map AreaPart.acc)).2 = q := congrArg Prod.snd hparts
    have hckpt : q.ckpt = s.landCopies.ckpt := by rw [← hq, State.openFor_ckpt]
    obtain ⟨-, hctxs, hmem⟩ := q.copyStored_leaves c (s.ctx c).wantSeq parts
    generalize q.copyStored c (s.ctx c).wantSeq parts = z at hexec hctxs hmem
    refine ⟨_, hexec, ?_, ?_, ?_, hmem.trans (.of_eq rfl rfl)⟩
    · show q.ckpt.copied ++ [w] = _
      rw [hckpt]
      rfl
    · have hwanted : (q.ctx c).wantPage = some p := by rw [← hq, State.wantPage_openFor, ← hwant]; rfl
      rw [← hwanted]
      exact congrArg (fun v => (v.get c).wantPage) hctxs
    · show q.ckpt.flights.map _ = _
      rw [hckpt]

end Sys2Proof.Machine
end

section
/-! SUPPORT. The start of a product command (R63, R206, R216 to R218). -/

namespace Sys2Proof.Machine

section
variable (s : State) (c : CtxNo)

/-! ### The members of a J128C tile (R206) -/

/-- Joiners stand at the places behind each other. -/
theorem State.joiners_places (i : Nat) (lead : Cmd) (p0 : ProdOps) (l : List Cmd) (n : Nat) (got : List (Cmd × ProdOps)) :
    (s.joiners c i lead p0 l n got).map Prod.fst = List.range' n (s.joiners c i lead p0 l n got).length
      ∧ (s.joiners c i lead p0 l n got).length ≤ l.length := by
  induction l generalizing n got with
  | nil => exact ⟨rfl, Nat.le_refl _⟩
  | cons k t ih =>
    rw [State.joiners]
    split
    · next p _ =>
      obtain ⟨hplaces, hlen⟩ := ih (n + 1) (got ++ [(k, p)])
      exact ⟨by simp [hplaces, List.range'_succ], by simpa using hlen⟩
    · exact ⟨rfl, Nat.zero_le _⟩

/-- A group's members stand at the leader's place and those behind it, which hold commands. -/
theorem State.combined_places {i : Nat} {m : Cmd} (p : ProdOps) (hcmd : (s.ctx c).cmds[i]? = some m) :
    (s.combined c i m p).map Prod.fst = List.range' i (s.combined c i m p).length
      ∧ i + (s.combined c i m p).length ≤ (s.ctx c).cmds.length := by
  obtain ⟨hlt, -⟩ := List.getElem?_eq_some_iff.1 hcmd
  unfold State.combined
  split
  · split
    · exact ⟨rfl, Nat.le_of_lt hlt⟩
    · next l _ =>
      obtain ⟨hplaces, hlen⟩ := s.joiners_places c i m p ((s.ctx c).cmds.drop (i + 1)) (i + 1) [(m, p)]
      rw [List.length_drop] at hlen
      refine ⟨?_, ?_⟩
      · rw [List.map_cons, hplaces, List.length_cons, List.range'_succ]
      · rw [List.length_cons]
        omega
  · exact ⟨rfl, Nat.le_of_lt hlt⟩

/-! ### Their start (R63) -/

theorem State.prodJob_setPhase (k : Nat) (ph : Phase) (m : Cmd) (p : ProdOps) (jig sp lane0 : Nat) (lead : Word) (early : Bool)
    (ts : List TileSpec) : (s.setPhase c k ph).prodJob c m p jig sp lane0 lead early ts = s.prodJob c m p jig sp lane0 lead early ts := rfl

theorem State.prodJob_chainBegin (k : Cmd) (sig : Word) (n : Nat) (m : Cmd) (p : ProdOps) (jig sp lane0 : Nat) (lead : Word) (early : Bool)
    (ts : List TileSpec) :
    (s.chainBegin c k sig n).prodJob c m p jig sp lane0 lead early ts = s.prodJob c m p jig sp lane0 lead early ts := by
  unfold State.chainBegin
  split <;> rfl

/-- A chain's start changes the chains alone. -/
theorem State.chainBegin_eq (k : Cmd) (sig : Word) (n : Nat) :
    s.chainBegin c k sig n = { s with chains := (s.chainBegin c k sig n).chains } := by
  unfold State.chainBegin
  split <;> rfl

variable (lead : Word) (early : Bool)

/-- The start of a group changes contexts alone. -/
theorem State.startGroup_eq (l : List (Nat × Cmd × ProdOps)) (g : Nat) :
    s.startGroup c lead early l g = { s with ctxs := (s.startGroup c lead early l g).ctxs } := by
  induction l generalizing s g with
  | nil => rfl
  | cons y t ih => exact ih (s.setPhase c _ _) _

theorem State.startGroup_ctx_other {d : CtxNo} (hd : d ≠ c) (l : List (Nat × Cmd × ProdOps)) (g : Nat) :
    (s.startGroup c lead early l g).ctx d = s.ctx d := by
  induction l generalizing s g with
  | nil => rfl
  | cons y t ih => exact (ih (s.setPhase c _ _) _).trans (State.ctx_setPhase_other s hd _ _)

/-- Commands that are not of the group stay as they are. -/
theorem State.startGroup_cmds_other {k : Nat} (l : List (Nat × Cmd × ProdOps)) (g : Nat) (hk : k ∉ l.map Prod.fst) :
    ((s.startGroup c lead early l g).ctx c).cmds[k]? = (s.ctx c).cmds[k]? := by
  induction l generalizing s g with
  | nil => rfl
  | cons y t ih =>
    rw [List.map_cons, List.mem_cons, not_or] at hk
    exact (ih (s.setPhase c _ _) _ hk.2).trans (State.cmds_setPhase_other s hk.1 _)

/-- Each member runs its tiles from the lane group behind those of the members before it. -/
theorem State.startGroup_phase {i : Nat} (y : List (Nat × Cmd × ProdOps)) (g : Nat) (hplaces : y.map Prod.fst = List.range' i y.length)
    (hlen : i + y.length ≤ (s.ctx c).cmds.length) (l : List (Nat × Cmd × ProdOps)) (k : Nat) (x : Cmd) (q : ProdOps)
    (rest : List (Nat × Cmd × ProdOps)) (hy : y = l ++ (k, x, q) :: rest) :
    PhaseAt (s.startGroup c lead early y g) c k (.running (.product (s.prodJob c x q 4 1
      (8 * ((l.map (fun z => z.2.2.groups z.2.1)).foldl (· + ·) g)) lead early (q.tiles x 4 1 [] [])))) := by
  induction y generalizing s i g l with
  | nil => simp at hy
  | cons a t ih =>
    obtain ⟨j, m, p⟩ := a
    rw [List.map_cons, List.length_cons, List.range'_succ] at hplaces
    obtain ⟨rfl, htail⟩ := List.cons.inj hplaces
    obtain ⟨m1, hm1⟩ : ∃ m1, (s.ctx c).cmds[j]? = some m1 :=
      ⟨_, List.getElem?_eq_getElem (Nat.lt_of_lt_of_le (by simp) hlen)⟩
    rw [State.startGroup]
    cases l with
    | nil =>
      obtain ⟨⟨rfl, rfl, rfl⟩, rfl⟩ : (j = k ∧ m = x ∧ p = q) ∧ t = rest := by simpa using hy
      have hout : j ∉ t.map Prod.fst := by
        rw [htail, List.mem_range'_1]
        exact fun h => Nat.not_succ_le_self j h.1
      rw [PhaseAt, State.startGroup_cmds_other _ c lead early t _ hout]
      exact State.phase_setPhase s hm1 _
    | cons b l =>
      obtain ⟨rfl, rfl⟩ := List.cons.inj hy
      have hnext := ih (i := j + 1) (s.setPhase c j (.running (.product (s.prodJob c m p 4 1 (8 * g) lead early (p.tiles m 4 1 [] [])))))
        (g + p.groups m) htail ?_ l rfl
      · exact hnext
      · rw [(SamePlaces.setPhase s c _ _).length c]
        simpa [Nat.add_assoc, Nat.add_comm] using hlen

end

/-! ### A product command starts (R216) -/

section
variable {s u : State} {c : CtxNo} {i jig sp : Nat} {m : Cmd} {dW : Bool} {p : ProdOps} {ts : List TileSpec}

theorem exec_product (s : State) (c : CtxNo) (dW : Bool) :
    exec (if dW then .gradw c else .gradx c) s = .next (s.startProduct c dW) := by
  cases dW <;> rfl

section
variable (hstart : s.starting c (if dW then 0x01 else 0x02) = some (i, m)) (hfree : s.noConflict c i m = true)
  (hchain : s.chainIdle m = true) (hhandles : s.prodHandlesOk c m dW = true) (hreserved : m.reservedBad = none)
  (hprod : s.prod m dW = some p)
include hstart hfree hchain hhandles hreserved hprod

/-- A command with a failing check completes with it. -/
theorem State.startProduct_bad {r : Reply} (hbad : s.prodBad c m p = some r) : s.startProduct c dW = s.finish c i r := by
  unfold State.startProduct
  simp [hstart, hfree, hchain, hhandles, hreserved, hprod, hbad]

/-- One whose checks pass takes the jig and split of the tiling rule. -/
theorem State.startProduct_good (hbad : s.prodBad c m p = none) (hchoose : p.choose m = some (jig, sp)) :
    s.startProduct c dW = s.launch c i m p jig sp := by
  unfold State.startProduct
  simp [hstart, hfree, hchain, hhandles, hreserved, hprod, hbad, hchoose]

end

/-- The mask areas of a command that takes its tiles have been read: no slot, no byte and no command has changed. -/
theorem SameWork.of_tileOut (s : State) (c : CtxNo) (m : Cmd) (p : ProdOps) (jig sp : Nat) : SameWork s (s.tileOut c m p jig sp).2.1 := by
  unfold State.tileOut
  dsimp only
  split
  · exact .openAll s c m.seq _
  · exact (SameWork.openAll s c m.seq _).trans (.closeUnit _ c m.seq _)

/-- What reading the mask areas may change. -/
theorem Fr.ofTileOut (s : State) (c : CtxNo) (m : Cmd) (p : ProdOps) (jig sp : Nat) :
    Fr (.ctx c :: reading) s (s.tileOut c m p jig sp).2.1 := by
  apply Fr.tileOut (Fr.refl _ s) <;> simp [reading, waiting, translating]

/-- A chain's end leaves the lane bank alone. -/
theorem State.chainEnd_lane (s : State) (m : Cmd) : (s.chainEnd m).lane = s.lane := by
  have h : Fr (.free :: .core :: .remote :: .evt :: .tlb :: .walks :: .chains :: .chainOut :: .tel :: everyCtx) s (s.chainEnd m) := by
    apply Fr.chainEnd (Fr.refl _ s) <;> simp [everyCtx]
  exact h.same .lane (by simp [everyCtx])

/-- A command that runs alone starts with the tiles its masks leave, or completes when they leave none. -/
theorem State.launch_alone (hcmd : (s.ctx c).cmds[i]? = some m) (halone : s.combined c i m p = [])
    (htiles : s.tileOut c m p jig sp = (true, u, ts)) :
    let j := u.prodJob c m p jig sp 0 m.seq (s.overlaps c i) ts
    (s.launch c i m p jig sp).slots = s.slots ∧ (s.launch c i m p jig sp).lane = s.lane
      ∧ (ts ≠ [] ∨ m.chainNo = 0 → SameMem s (s.launch c i m p jig sp))
      ∧ PhaseAt (s.launch c i m p jig sp) c i (if ts.isEmpty then .finished (j.reply 0) else .running (.product j)) := by
  have hwork : SameWork s u := by simpa [htiles] using SameWork.of_tileOut s c m p jig sp
  have hframe : Fr (.ctx c :: reading) s u := by simpa [htiles] using Fr.ofTileOut s c m p jig sp
  have hlane : u.lane = s.lane := hframe.same .lane (by simp [reading, translating])
  have hmem : SameMem s u := .of_eq (hframe.same .core (by simp [reading, translating]))
    (hframe.same .remote (by simp [reading, translating]))
  unfold State.launch
  rw [halone, htiles]
  dsimp only
  rw [if_neg (by simp)]
  have hu : ((u.chainBegin c m (p.sig m 1 ts) 1).ctx c).cmds[i]? = some m := by
    rw [State.chainBegin_eq]
    exact (congrArg (·[i]?) (hwork.cmds c)).trans hcmd
  generalize hv : u.chainBegin c m (p.sig m 1 ts) 1 = v at hu ⊢
  obtain ⟨hvslots, hvlane, hvmem⟩ : v.slots = s.slots ∧ v.lane = s.lane ∧ SameMem s v := by
    rw [← hv, State.chainBegin_eq]
    exact ⟨hwork.slots, hlane, hmem.trans (.of_eq rfl rfl)⟩
  cases ts with
  | nil =>
    obtain ⟨m1, hm1⟩ := (SamePlaces.chainEnd v m).cmd hu
    refine ⟨?_, ?_, fun h => ?_, State.phase_finish _ hm1 _⟩
    · exact (State.finish_slots _ c i _).trans ((v.chainEnd_slots m).trans hvslots)
    · exact (State.finish_lane _ c i _).trans ((v.chainEnd_lane m).trans hvlane)
    · rw [State.chainEnd_unchained v (h.resolve_left (by simp))]
      exact hvmem.trans (.finish v c i _)
  | cons x l => exact ⟨hvslots, hvlane, fun _ => hvmem.trans (.setPhase v c i _), State.phase_setPhase v hu _⟩

/-- The commands that combine start together. -/
theorem State.launch_group (hgroup : s.combined c i m p ≠ []) : s.launch c i m p jig sp =
    (s.chainBegin c m (p.sig m 4 (p.tiles m 4 1 [] []))
      ((s.combined c i m p).filter (fun y => y.2.1.chainNo == m.chainNo)).length).startGroup c m.seq (s.overlaps c i) (s.combined c i m p) 0 := by
  unfold State.launch
  split
  next h => rw [h]
  next h => exact absurd h hgroup

end

/-- Settles O46: the checks of a product command come first; what it starts with are the tiles of `launch`, whose J128C members stand
at consecutive places. -/
theorem productsStart : Obligations.ProductsStart := by
  unfold Obligations.ProductsStart
  intro s u c i jig sp m dW p ts hstart hcmd hfree hchain hhandles hreserved hprod
  refine ⟨fun r hbad => ?_, fun hbad hchoose halone htiles => ?_, fun hbad hchoose hgroup => ?_⟩
  · rw [exec_product, State.startProduct_bad hstart hfree hchain hhandles hreserved hprod hbad]
    exact ⟨_, rfl, OnlyCtx.finish s c i r, State.phase_finish s hcmd r⟩
  · rw [exec_product, State.startProduct_good hstart hfree hchain hhandles hreserved hprod hbad hchoose]
    exact ⟨_, rfl, State.launch_alone hcmd halone htiles⟩
  · rw [exec_product, State.startProduct_good hstart hfree hchain hhandles hreserved hprod hbad hchoose, State.launch_group hgroup]
    refine ⟨_, rfl, ?_⟩
    obtain ⟨hplaces, hlen⟩ := s.combined_places c p hcmd
    generalize hn : ((s.combined c i m p).filter (fun y => y.2.1.chainNo == m.chainNo)).length = n
    have hjob := s.prodJob_chainBegin c m (p.sig m 4 (p.tiles m 4 1 [] [])) n
    have heq := s.chainBegin_eq c m (p.sig m 4 (p.tiles m 4 1 [] [])) n
    generalize s.chainBegin c m (p.sig m 4 (p.tiles m 4 1 [] [])) n = v at hjob heq ⊢
    have hctxs : v.ctxs = s.ctxs := by rw [heq]
    have hctx (d : CtxNo) : v.ctx d = s.ctx d := congrArg (Vector.get · d) hctxs
    have hstarted := v.startGroup_eq c m.seq (s.overlaps c i) (s.combined c i m p) 0
    refine ⟨?_, ?_, fun d hd => ?_, fun l k x q rest hl => ?_⟩
    · rw [hstarted, heq]
    · rw [hstarted]
    · exact (v.startGroup_ctx_other c _ _ hd _ 0).trans (hctx d)
    · rw [← hjob]
      exact v.startGroup_phase c _ _ _ 0 hplaces (by rw [hctx]; exact hlen) l k x q rest hl

end Sys2Proof.Machine
end

section
/-! SUPPORT. The plan of an access covers its bytes, and an access that has been opened holds the pages of the requests that are allowed
(R147, R152, R156). -/

namespace Sys2Proof.Machine

/-! ### Where a byte lies -/

/-- A span is cut into pieces of 512-byte segments, which hold all its bytes. -/
theorem cutSpan_covers {va : Nat} (f a n : Nat) (hfuel : n + a % 512 ≤ f * 512) (hlo : a ≤ va) (hhi : va < a + n) :
    ∃ p ∈ cutSpan f a n, va / 512 = p.1 / 512 := by
  induction f generalizing a n with
  | zero => omega
  | succ f ih =>
    rw [cutSpan, if_neg (by omega)]
    by_cases hhere : va < a + (512 - a % 512)
    · exact ⟨_, List.mem_cons_self, by omega⟩
    · have hlong : min n (512 - a % 512) = 512 - a % 512 := by omega
      obtain ⟨p, hp, hsame⟩ := ih (a + (512 - a % 512)) (n - (512 - a % 512)) (by omega) (by omega) (by omega)
      refine ⟨p, List.mem_cons_of_mem _ ?_, hsame⟩
      rwa [hlong]

/-- The pieces of an access's spans. -/
def Acc.pieces (a : Acc) : List (Nat × Nat) := a.spans.flatMap (fun p => cutSpan (p.2 / 512 + 2) p.1 p.2)

theorem Acc.pieces_cover {a : Acc} {x : Nat × Nat} (hx : x ∈ a.spans) {va : Nat} (hlo : x.1 ≤ va) (hhi : va < x.1 + x.2) :
    ∃ p ∈ a.pieces, va / 512 = p.1 / 512 := by
  obtain ⟨p, hp, hsame⟩ := cutSpan_covers (x.2 / 512 + 2) x.1 x.2 (by omega) hlo hhi
  exact ⟨p, List.mem_flatMap.mpr ⟨x, hx, hp⟩, hsame⟩

section
variable (s q : State) (c : CtxNo)

/-- A block holds its address and lies in its page. -/
theorem State.blockOf_spec (va : Nat) : (s.blockOf c va).1 ≤ va ∧ va < (s.blockOf c va).1 + (s.blockOf c va).2
    ∧ ∀ w, (s.blockOf c va).1 ≤ w → w < (s.blockOf c va).1 + (s.blockOf c va).2 → pageOf w = pageOf va := by
  unfold State.blockOf pageOf
  split <;> exact ⟨by dsimp only; omega, by dsimp only; omega, fun w h1 h2 => by dsimp only at h1 h2; omega⟩

variable {s q c}

theorem State.pageOf_blockOf (va : Nat) : pageOf (s.blockOf c va).1 = pageOf va := by
  obtain ⟨hlo, hhi, hpage⟩ := s.blockOf_spec c va
  exact hpage _ (Nat.le_refl _) (by omega)

/-- The block depends on where its page lies. -/
theorem State.blockOf_of_xlat {va : Nat} (h : s.xlat c (pageOf va) = q.xlat c (pageOf va)) : s.blockOf c va = q.blockOf c va := by
  unfold State.blockOf
  rw [h]

/-- Blocks with the same start are one block. -/
theorem State.blockOf_of_base {va w : Nat} (h : (s.blockOf c va).1 = (s.blockOf c w).1) : s.blockOf c va = s.blockOf c w := by
  have hpage : pageOf va = pageOf w := by rw [← State.pageOf_blockOf (s := s) (c := c), h, State.pageOf_blockOf]
  refine Prod.ext h ?_
  unfold State.blockOf
  rw [hpage]
  split <;> rfl

/-- Addresses of one 512-byte segment are in one block. -/
theorem State.blockOf_of_segment {va w : Nat} (h : va / 512 = w / 512) : s.blockOf c va = s.blockOf c w := by
  have hpage : pageOf va = pageOf w := by
    unfold pageOf
    omega
  unfold State.blockOf
  rw [hpage]
  split
  · exact Prod.ext (by dsimp only; omega) rfl
  · exact Prod.ext (by dsimp only; omega) rfl

/-! ### The requests of an access -/

/-- A request stands for a block, and its own first byte is of it. -/
def ReqPlan.InBlock (s : State) (c : CtxNo) (r : ReqPlan) : Prop :=
  ∃ va, (r.base, r.len) = s.blockOf c va ∧ r.base ≤ r.first ∧ r.first < r.base + r.len

theorem addPiece_inBlock {l : List ReqPlan} {va n : Nat} (hl : ∀ r ∈ l, r.InBlock s c) : ∀ r ∈ addPiece l (s.blockOf c va) va n, r.InBlock s c := by
  obtain ⟨hlo, hhi, -⟩ := s.blockOf_spec c va
  unfold addPiece
  split
  · intro r hr
    obtain ⟨r0, hr0, rfl⟩ := List.mem_map.mp hr
    obtain ⟨w, hblock, hfirst, hlast⟩ := hl r0 hr0
    split
    · next hbase =>
      exact ⟨w, hblock, Nat.le_min.mpr ⟨hfirst, hbase ▸ hlo⟩, Nat.lt_of_le_of_lt (Nat.min_le_left ..) hlast⟩
    · exact ⟨w, hblock, hfirst, hlast⟩
  · intro r hr
    rcases List.mem_append.mp hr with h | h
    · exact hl r h
    · obtain rfl := List.mem_singleton.mp h
      exact ⟨va, rfl, hlo, hhi⟩

/-- Adding a piece keeps the requests that are there and has one for the piece's block. -/
theorem mem_base_addPiece {l : List ReqPlan} {b : Nat × Nat} {x n k : Nat} (h : k ∈ l.map (·.base) ∨ k = b.1) :
    k ∈ (addPiece l b x n).map (·.base) := by
  unfold addPiece
  split
  · next hany =>
    have hsame : (l.map fun r => if r.base = b.1 then { r with first := min r.first x, last := max r.last (x + n - 1) } else r).map (·.base)
        = l.map (·.base) := by
      rw [List.map_map]
      exact List.map_congr_left fun r _ => by dsimp only [Function.comp]; split <;> rfl
    rw [hsame]
    rcases h with h | rfl
    · exact h
    · obtain ⟨r, hr, hbase⟩ := List.any_eq_true.mp hany
      exact List.mem_map.mpr ⟨r, hr, eq_of_beq hbase⟩
  · rw [List.map_append, List.mem_append]
    exact h.imp id fun h => by simp [h]

/-- The requests of pieces, added to those there are. -/
def State.planFrom (s : State) (c : CtxNo) (l : List ReqPlan) (ps : List (Nat × Nat)) : List ReqPlan :=
  ps.foldl (fun l p => addPiece l (s.blockOf c p.1) p.1 p.2) l

theorem State.planFrom_inBlock (l : List ReqPlan) (ps : List (Nat × Nat)) (hl : ∀ r ∈ l, r.InBlock s c) :
    ∀ r ∈ s.planFrom c l ps, r.InBlock s c := by
  induction ps generalizing l with
  | nil => exact hl
  | cons p ps ih => exact ih _ (addPiece_inBlock hl)

theorem State.planFrom_covers (ps : List (Nat × Nat)) (l : List ReqPlan) (k : Nat)
    (h : k ∈ l.map (·.base) ∨ ∃ p ∈ ps, k = (s.blockOf c p.1).1) : k ∈ (s.planFrom c l ps).map (·.base) := by
  induction ps generalizing l with
  | nil => simpa [State.planFrom] using h
  | cons p ps ih =>
    refine ih _ ?_
    simp only [List.mem_cons, exists_eq_or_imp] at h
    rcases h with h | h | h
    · exact .inl (mem_base_addPiece (.inl h))
    · exact .inl (mem_base_addPiece (.inr h))
    · exact .inr h

/-- What the plan makes of a request: the bytes it checks, and whether the region table refuses it. -/
def State.checked (s : State) (c : CtxNo) (a : Acc) (r : ReqPlan) : ReqPlan :=
  let lo := if a.write then r.first else min r.first (max r.base a.lo)
  let hi := if a.write then r.last else max r.last (min (r.base + r.len - 1) a.hi)
  { r with lo := lo, refused := !s.regionOk a.region (a.rctx.getD c) lo hi (!a.write) (a.write || a.rfw) }

theorem State.plan_eq (s : State) (c : CtxNo) (a : Acc) : s.plan c a = (s.planFrom c [] a.pieces).map (s.checked c a) := rfl

/-- Every byte of a span that is written is in a request of its page. -/
theorem State.plan_covers {a : Acc} (hwrite : a.write = true) {x : Nat × Nat} (hx : x ∈ a.spans) {va : Nat} (hlo : x.1 ≤ va)
    (hhi : va < x.1 + x.2) :
    ∃ r ∈ s.plan c a, r.base ≤ va ∧ va < r.base + r.len ∧ pageOf r.lo = pageOf va ∧ pageOf r.base = pageOf va := by
  obtain ⟨p, hp, hseg⟩ := Acc.pieces_cover hx hlo hhi
  obtain ⟨r, hr, hbase⟩ := List.mem_map.mp (State.planFrom_covers (s := s) (c := c) a.pieces [] _ (.inr ⟨p, hp, rfl⟩))
  obtain ⟨w, hblock, hfirst, hlast⟩ := State.planFrom_inBlock [] a.pieces (by simp) r hr
  have hsame : (r.base, r.len) = s.blockOf c va := by
    rw [hblock, State.blockOf_of_segment hseg]
    exact State.blockOf_of_base ((congrArg Prod.fst hblock.symm).trans hbase)
  have hb : r.base = (s.blockOf c va).1 := congrArg Prod.fst hsame
  have hl : r.len = (s.blockOf c va).2 := congrArg Prod.snd hsame
  obtain ⟨hva, hva', hpage⟩ := s.blockOf_spec c va
  rw [← hb] at hva
  rw [← hb, ← hl] at hva' hpage
  refine ⟨s.checked c a r, State.plan_eq s c a ▸ List.mem_map_of_mem hr, hva, hva', ?_, hpage _ (Nat.le_refl _) (Nat.lt_of_le_of_lt hva hva')⟩
  have hfirst' : (s.checked c a r).lo = r.first := by simp [State.checked, hwrite]
  rw [hfirst']
  exact hpage _ hfirst hlast

/-! ### Requests of one page -/

/-- The requests whose blocks are in a page. -/
def ofPage (p : Nat) (l : List ReqPlan) : List ReqPlan := l.filter (fun r => pageOf r.base == p)

theorem ofPage_map {f : ReqPlan → ReqPlan} (hf : ∀ r, (f r).base = r.base) (p : Nat) (l : List ReqPlan) :
    ofPage p (l.map f) = (ofPage p l).map f := by
  unfold ofPage
  rw [List.filter_map]
  exact congrArg _ (List.filter_congr fun r _ => by simp [hf])

/-- A piece changes the requests of its page as if there were no others, and those of no other page. -/
theorem ofPage_addPiece (p : Nat) (l : List ReqPlan) {b : Nat × Nat} {x : Nat} (hb : pageOf b.1 = pageOf x) (n : Nat) :
    ofPage p (addPiece l b x n) = if pageOf x = p then addPiece (ofPage p l) b x n else ofPage p l := by
  unfold addPiece
  have hkeep (r : ReqPlan) :
      (if r.base = b.1 then { r with first := min r.first x, last := max r.last (x + n - 1) } else r).base = r.base := by
    split <;> rfl
  by_cases hpage : pageOf x = p
  · have hany : (ofPage p l).any (fun r => r.base == b.1) = l.any (fun r => r.base == b.1) := by
      rw [Bool.eq_iff_iff]
      simp only [List.any_eq_true, ofPage, List.mem_filter]
      refine exists_congr fun r => ⟨fun h => ⟨h.1.1, h.2⟩, fun h => ⟨⟨h.1, ?_⟩, h.2⟩⟩
      rw [eq_of_beq h.2, hb, hpage, beq_self_eq_true]
    rw [if_pos hpage, hany]
    split
    · exact ofPage_map hkeep p l
    · simp [ofPage, hb, hpage]
  · rw [if_neg hpage]
    split
    · rw [ofPage_map hkeep]
      refine (List.map_congr_left fun r hr => if_neg ?_).trans (List.map_id _)
      intro hbase
      have hr' := eq_of_beq (List.mem_filter.mp hr).2
      exact hpage (by rw [← hr', hbase, hb])
    · simp [ofPage, hb, hpage]

/-- Where two states translate a page alike, the requests of that page are the same. -/
theorem State.planFrom_ofPage {p : Nat} (hx : s.xlat c p = q.xlat c p) (ps : List (Nat × Nat)) {l k : List ReqPlan}
    (h : ofPage p l = ofPage p k) : ofPage p (s.planFrom c l ps) = ofPage p (q.planFrom c k ps) := by
  induction ps generalizing l k with
  | nil => exact h
  | cons y ps ih =>
    refine ih ?_
    rw [ofPage_addPiece p l (State.pageOf_blockOf y.1), ofPage_addPiece p k (State.pageOf_blockOf y.1), h]
    split
    · next hy => rw [State.blockOf_of_xlat (hy ▸ hx)]
    · rfl

theorem State.mem_plan_of_page {a : Acc} {r : ReqPlan} (hx : s.xlat c (pageOf r.base) = q.xlat c (pageOf r.base))
    (hregions : s.regions = q.regions) (hr : r ∈ q.plan c a) : r ∈ s.plan c a := by
  have hplan : ofPage (pageOf r.base) (s.plan c a) = ofPage (pageOf r.base) (q.plan c a) := by
    have hcheck : s.checked c a = q.checked c a := by
      funext x
      simp only [State.checked, State.regionOk, hregions]
    rw [State.plan_eq, State.plan_eq, ofPage_map (f := s.checked c a) fun _ => rfl, ofPage_map (f := q.checked c a) fun _ => rfl, State.planFrom_ofPage hx a.pieces rfl, hcheck]
  have hmem : r ∈ ofPage (pageOf r.base) (q.plan c a) := List.mem_filter.mpr ⟨hr, beq_self_eq_true _⟩
  exact (List.mem_filter.mp (hplan ▸ hmem)).1

end

/-! ### Pages held (R152, R156) -/

theorem xlatFind_eq_none {l : List (Nat × Xlat)} {p : Nat} : xlatFind l p = none ↔ p ∉ l.map Prod.fst := by
  simp only [xlatFind, Option.map_eq_none_iff, List.find?_eq_none, List.mem_map, beq_iff_eq]
  exact ⟨fun h ⟨x, hx, e⟩ => h x hx e, fun h x hx e => h ⟨x, hx, e⟩⟩

/-- Translations found join those that are held. -/
theorem mem_pinned {p : Nat} (got l : List (Nat × Xlat)) :
    p ∈ (got.foldl (fun l y => if l.any (fun q => q.1 == y.1) then l else l ++ [y]) l).map Prod.fst
      ↔ p ∈ l.map Prod.fst ∨ p ∈ got.map Prod.fst := by
  induction got generalizing l with
  | nil => simp
  | cons y got ih =>
    rw [List.foldl_cons, ih]
    split
    · next hany =>
      have hy : y.1 ∈ l.map Prod.fst := by simpa using hany
      rw [List.map_cons, List.mem_cons]
      exact ⟨fun h => h.imp_right .inr, fun h => h.elim .inl fun h => h.elim (fun h => .inl (h ▸ hy)) .inr⟩
    · simp [or_assoc]

/-- An entry that is used again answers for its page as before, and no other page gains a translation. -/
theorem tlbFind_of_tlbFill {l : List TlbEntry} {p k : Nat} {x y : Xlat} (hx : tlbFind l k = some x) (h : tlbFind (tlbFill l k x) p = some y) :
    tlbFind l p = some y := by
  unfold tlbFind tlbFill at h
  obtain ⟨e, he, rfl⟩ := Option.map_eq_some_iff.mp h
  have hwhole : (⟨k, x, tlbPlace l k⟩ :: l.filter (fun e => e.page != k)).find? (fun e => e.page == p) = some e := by
    rw [← List.take_append_drop 256 (_ :: _), List.find?_append, he]
    rfl
  rw [List.find?_cons] at hwhole
  split at hwhole
  · next hp =>
    obtain rfl := Option.some.inj hwhole
    obtain rfl : k = p := eq_of_beq hp
    exact hx
  · next hp =>
    have hne : k ≠ p := by simpa using hp
    rw [List.find?_filter] at hwhole
    refine Option.map_eq_some_iff.mpr ⟨e, ?_, rfl⟩
    rw [← hwhole]
    refine congrArg (fun f => l.find? f) (funext fun z => ?_)
    by_cases hz : z.page = p
    · simp [hz, hne.symm]
    · simp [hz]

/-- Entries lost answer for no page that had no entry. -/
theorem tlbFind_eq_none_of_subset {l t : List TlbEntry} {p : Nat} (ht : t ⊆ l) (h : tlbFind l p = none) : tlbFind t p = none := by
  simp only [tlbFind, Option.map_eq_none_iff, List.find?_eq_none] at h ⊢
  exact fun e he => h e (ht he)

section
variable {s q : State} {c : CtxNo}

/-- Holding translations drops no other and gives the TLB no new one. -/
theorem State.tlbFind_pin (ns : List FaultRec) {p : Nat} {y : Xlat} (h : tlbFind (s.pin c ns).tlb p = some y) : tlbFind s.tlb p = some y := by
  refine List.foldlRecOn (motive := fun t : List TlbEntry => tlbFind t p = some y → tlbFind s.tlb p = some y) _ _ id (fun t ht k _ h => ?_) h
  split at h
  · next hk => exact ht (tlbFind_of_tlbFill hk h)
  · exact ht h

theorem State.mem_xlats_pin (ns : List FaultRec) (p : Nat) : p ∈ ((s.pin c ns).ctx c).xlats.map Prod.fst ↔
    p ∈ (s.ctx c).xlats.map Prod.fst ∨ ∃ n ∈ ns, pageOf n.vaddr = p ∧ (s.xlat c p).isSome = true := by
  have hpin : ((s.pin c ns).ctx c).xlats = (ns.filterMap (fun n => (s.xlat c (pageOf n.vaddr)).map (fun x => (pageOf n.vaddr, x)))).foldl
      (fun l y => if l.any (fun q => q.1 == y.1) then l else l ++ [y]) (s.ctx c).xlats := by
    show ((s.modCtx c (fun x => { x with xlats := _ })).ctx c).xlats = _
    rw [State.ctx_modCtx_same]
  rw [hpin, mem_pinned]
  refine or_congr_right ?_
  simp only [List.mem_map, List.mem_filterMap, Option.map_eq_some_iff]
  constructor
  · rintro ⟨_, ⟨n, hn, x, hx, rfl⟩, rfl⟩
    exact ⟨n, hn, rfl, Option.isSome_iff_exists.mpr ⟨x, hx⟩⟩
  · rintro ⟨n, hn, rfl, hx⟩
    obtain ⟨x, hx⟩ := Option.isSome_iff_exists.mp hx
    exact ⟨_, ⟨n, hn, x, hx, rfl⟩, rfl⟩

/-- The context holds the page's translation, or nothing translates the page. -/
def State.Settled (q : State) (c : CtxNo) (va : Nat) : Prop :=
  pageOf va ∈ (q.ctx c).xlats.map Prod.fst ∨ tlbFind q.tlb (pageOf va) = none

/-- Where all is settled, a TLB that lost entries translates alike. -/
theorem State.Settled.xlat {va : Nat} {t : List TlbEntry} (h : q.Settled c va) (ht : t ⊆ q.tlb) {u : State} (hctx : u.ctx c = q.ctx c)
    (htlb : u.tlb = t) : u.xlat c (pageOf va) = q.xlat c (pageOf va) := by
  unfold State.xlat
  rw [hctx, htlb]
  cases hx : xlatFind (q.ctx c).xlats (pageOf va) with
  | some x => rfl
  | none =>
    have hnone := h.resolve_left (xlatFind_eq_none.mp hx)
    exact (tlbFind_eq_none_of_subset ht hnone).trans hnone.symm

/-- Taking slots leaves the contexts and the TLB alone. -/
theorem State.takeSlots_places (seq : Word) (use : ReqUse) (as : List Acc) :
    (∀ d, (s.takeSlots c seq use as).2.ctx d = s.ctx d) ∧ (s.takeSlots c seq use as).2.tlb = s.tlb := by
  have hframe : Fr [.reqs, .sent, .waits] s (s.takeSlots c seq use as).2 := by
    apply Fr.takeSlots (Fr.refl _ s) <;> simp
  exact ⟨fun d => hframe.same (.ctx d) (by simp), hframe.same .tlb (by simp)⟩

/-- Every page that an access needs is held once it has been acquired. -/
theorem State.acquire_pins {ns : List FaultRec} {t : State} (h : s.acquire c ns = (true, t)) :
    (∀ n ∈ ns, s.needOk c n = true) ∧ t = s.pin c ns := by
  unfold State.acquire at h
  dsimp only at h
  split at h
  · next hbad =>
    have hall : ∀ n ∈ ns, s.needOk c n = true := fun n hn => by
      simpa using List.filter_eq_nil_iff.mp hbad n hn
    exact ⟨hall, by rw [← (Prod.mk.inj h).2, List.filter_eq_self.mpr hall]⟩
  · cases (Prod.mk.inj h).1

/-- An access that has been opened for a write holds every page that its allowed requests need. -/
theorem State.openWrites_pins {seq : Word} {a : Acc} (h : s.openWrites c seq [a] = (true, q)) :
    let ns := accNeeds a (BitVec.ofNat 16 seq.toNat) (s.plan c a)
    (∀ n ∈ ns, s.needOk c n = true) ∧ (∀ d, q.ctx d = (s.pin c ns).ctx d) ∧ q.tlb = (s.pin c ns).tlb := by
  intro ns
  have hns : [a].flatMap (fun a => accNeeds a (BitVec.ofNat 16 seq.toNat) (s.plan c a)) = ns := by simp [ns]
  cases hacq : s.acquire c ns with
  | mk ok t =>
    simp only [State.openWrites, State.openAll, State.openFor, State.openSome, hns, hacq, State.copiedFirst] at h
    cases ok with
    | false => simp at h
    | true =>
      obtain ⟨hneeds, rfl⟩ := State.acquire_pins hacq
      have hq : ((s.pin c ns).takeSlots c seq .demand [a]).2 = q := by
        simp only [Bool.not_true, Bool.false_eq_true, if_false] at h
        split at h
        · exact congrArg Prod.snd h
        · split at h
          · exact absurd (congrArg Prod.fst h) Bool.false_ne_true
          · exact congrArg Prod.snd h
      obtain ⟨hctx, htlb⟩ := (s.pin c ns).takeSlots_places (c := c) seq .demand [a]
      rw [hq] at hctx htlb
      exact ⟨hneeds, hctx, htlb⟩

/-- A byte of an access that has been opened for a write: its page is held, unless its request is refused or nothing translates it. -/
theorem State.openWrites_settles {seq : Word} {a : Acc} (hwrite : a.write = true) (h : s.openWrites c seq [a] = (true, q)) {x : Nat × Nat}
    (hx : x ∈ a.spans) {va : Nat} (hlo : x.1 ≤ va) (hhi : va < x.1 + x.2) (hfree : inRefused (q.refusals c a) va = false) :
    q.Settled c va := by
  obtain ⟨hneeds, hctx, htlb⟩ := State.openWrites_pins h
  refine Classical.or_iff_not_imp_left.mpr fun hout => ?_
  rw [hctx, State.mem_xlats_pin, not_or] at hout
  obtain ⟨hbefore, hneed⟩ := hout
  refine Option.eq_none_iff_forall_ne_some.mpr fun y hy => ?_
  have hs : s.xlat c (pageOf va) = some y := by
    unfold State.xlat
    rw [xlatFind_eq_none.mpr hbefore]
    exact State.tlbFind_pin _ (htlb ▸ hy)
  have hq : q.xlat c (pageOf va) = some y := by
    unfold State.xlat
    rw [xlatFind_eq_none.mpr]
    · exact hy
    · rw [hctx, State.mem_xlats_pin, not_or]
      exact ⟨hbefore, hneed⟩
  obtain ⟨r, hr, hbase, hlen, hpage, hpage'⟩ := State.plan_covers (s := q) (c := c) hwrite hx hlo hhi
  have hregions : s.regions = q.regions := by
    have hopened := State.openWrites_regions s c seq [a]
    rw [h] at hopened
    exact hopened.symm
  have hplan : r ∈ s.plan c a := State.mem_plan_of_page (by rw [hpage', hs, hq]) hregions hr
  have hallowed : r.refused = false := by
    refine Bool.eq_false_iff.mpr fun hr' => ?_
    have hin : inRefused (q.refusals c a) va = true :=
      List.any_eq_true.mpr ⟨(r.base, r.len), List.mem_map_of_mem (List.mem_filter.mpr ⟨hr, hr'⟩), by simp [hbase, hlen]⟩
    rw [hin] at hfree
    cases hfree
  exact hneed ⟨_, List.mem_map_of_mem (List.mem_filter.mpr ⟨hplan, by simp [hallowed]⟩), hpage, by simp [hs]⟩

end

end Sys2Proof.Machine
end

section
/-! SUPPORT. BIST_SLICE (R235, R320). -/

namespace Sys2Proof.Machine

/-! ### Byte areas (R212) -/

theorem Opnd.byteAddr_eq {o : Opnd} (harea : o.byteArea = true) (k : Nat) :
    o.byteAddr k = ((o.desc.base : Int) + o.desc.stride 0 * (k : Int)).toNat := by
  simp only [Opnd.byteArea, Bool.and_eq_true, beq_iff_eq] at harea
  obtain ⟨⟨hdim, -⟩, hwidth⟩ := harea
  simp [Opnd.byteAddr, Desc.addr, Desc.strided, Desc.dims, hdim, hwidth]

/-- Every byte of a byte area is in a span of its access. -/
theorem Opnd.byteSpans_cover {o : Opnd} (harea : o.byteArea = true) {k n : Nat} (hk : k < n) :
    ∃ x ∈ o.byteSpans 0 n, x.1 ≤ o.byteAddr k ∧ o.byteAddr k < x.1 + x.2 := by
  unfold Opnd.byteSpans
  split
  · next hstride =>
    refine ⟨_, List.mem_singleton_self _, ?_⟩
    rw [Opnd.byteAddr_eq harea, Opnd.byteAddr_eq harea, hstride]
    dsimp only
    omega
  · refine ⟨(o.byteAddr k, 1), List.mem_map.mpr ⟨k, ?_, rfl⟩, Nat.le_refl _, Nat.lt_succ_self _⟩
    rw [upFrom_eq_range]
    exact List.mem_map.mpr ⟨k, List.mem_range.mpr hk, Nat.zero_add k⟩

/-! ### Records (R320) -/

/-- The outcome of a record. -/
theorem fld_itemRecord_pass (u repair item : Nat) (r : ItemResult) (tick : Word) : fld (itemRecord u 0 repair item r tick) 4 4 = 0 := by
  unfold itemRecord fld
  rw [BitVec.toNat_ofNat]
  iterate 2 rw [packBits]
  generalize packBits _ = x
  omega

/-- The record of item `k` of a slice of `n` passing items. -/
def sliceRecord (u start n : Nat) (tick : Word) (k : Nat) : BitVec 256 :=
  itemRecord u (if k < n then 0 else 3) 0 (start + k) itemPass tick

/-- The records of the items that ran, then of those that did not, are those of all items in order. -/
theorem sliceRecords {u start n count : Nat} (hn : n ≤ count) (tick : Word) :
    (upFrom 0 n).map (fun j => itemRecord u 0 0 (start + j) itemPass tick)
      ++ (upFrom n (count - n)).map (fun k => itemRecord u 3 0 (start + k) itemPass tick)
    = (List.range count).map (sliceRecord u start n tick) := by
  have hsplit : List.range count = List.range n ++ (List.range (count - n)).map (n + ·) := by
    rw [← List.range_add, Nat.add_sub_cancel' hn]
  rw [hsplit, List.map_append, upFrom_eq_range, upFrom_eq_range, List.map_map, List.map_map, List.map_map]
  refine Eq.trans (congrArg (· ++ _) ?_) (congrArg (_ ++ ·) ?_)
  · refine List.map_congr_left fun k hk => ?_
    simp [sliceRecord, List.mem_range.mp hk]
  · refine List.map_congr_left fun k _ => ?_
    simp [sliceRecord, Nat.not_lt.mpr (Nat.le_add_right n k)]

/-! ### The slice (R205, R320) -/

section
variable {s q : State} {c : CtxNo} {i : Nat} {m : Cmd} {o : Opnd}

theorem State.turnTile_eq (s : State) (c : CtxNo) : ∃ b, s.turnTile c = { s with schedTurn := b } := by
  unfold State.turnTile
  dsimp only
  split <;> exact ⟨_, rfl⟩

/-- Checks that find nothing all hold. -/
theorem firstBad_eq_none {l : List (Bool × Reply)} (h : firstBad l = none) : ∀ x ∈ l, x.1 = true := by
  induction l with
  | nil => simp
  | cons y l ih =>
    obtain ⟨ok, r⟩ := y
    cases ok with
    | true => exact List.forall_mem_cons.mpr ⟨rfl, ih h⟩
    | false => cases h

/-- The result area of a checked BIST_SLICE is a byte area. -/
theorem byteArea_of_bistBad (h : bistBad m o = none) : o.byteArea = true := by
  have harea := firstBad_eq_none h (o.desc.canWrite && o.areaOk (32 * m.f 192 16), .bad 144) (by simp)
  simp only [Opnd.areaOk, Bool.and_eq_true] at harea
  exact harea.2.1

/-- A checked BIST_SLICE runs in its context's turn. -/
theorem State.bistSlice_turn (hcont : s.continuing c 0x39 = none) (hstart : s.starting c 0x39 = some (i, m))
    (hhandle : (s.handle c (m.f 144 16)).isSome = true) (hopnd : s.opnd m.fmts (m.f 144 16) 0 = some o) (hreserved : m.reservedBad = none)
    (hgood : bistBad m o = none) (hfree : s.noConflict c i m = true) (hwake : s.bist.wake = none)
    (hturn : (s.setPhase c i (.running .bist)).bistTurn c m = true) (rs : List ItemResult) :
    s.bistSlice c rs = (s.setPhase c i (.running .bist)).bistRun c i m o rs 0 := by
  obtain ⟨h, hhandle⟩ := Option.isSome_iff_exists.mp hhandle
  have hopnd' : (s.setPhase c i (.running .bist)).opnd m.fmts (m.f 144 16) 0 = some o := hopnd
  have hwaited : (s.setPhase c i (.running .bist)).bist.waited c (s.setPhase c i (.running .bist)).now = none := by
    show (if s.bist.owner = some c then s.bist.wake.map _ else none) = none
    simp [hwake]
  unfold State.bistSlice
  simp only [hcont, hstart, hhandle, hopnd, hreserved, hgood, hfree, if_true, hopnd', hwaited, hturn]

/-- The state a slice's items leave. -/
structure BistLeaves (q p : State) : Prop where
  core : p.core = q.core
  remote : p.remote = q.remote
  ctxs : p.ctxs = q.ctxs
  tlb : p.tlb ⊆ q.tlb
  cursors : p.bist.cursors = q.bist.cursors

/-- The items of a slice of an SRAM unit all pass: their records in order. -/
theorem State.bistItems {u : Nat} (start n : Nat) :
    ∃ p, BistLeaves q p ∧ State.runItems u start [] false n 0 (((({ q with pow := q.pow.beat q.now [] }).takeTurn c).turnTile c).takeBench u)
      = ((upFrom 0 n).map (fun j => itemRecord u 0 0 (start + j) itemPass q.tick.count), p) := by
  obtain ⟨a, b, hturn⟩ : ∃ a b, ({ q with pow := q.pow.beat q.now [] } : State).takeTurn c =
      { q with pow := q.pow.beat q.now [], schedLast := a, schedTurn := b } := ⟨_, _, State.takeTurn_eq _ c⟩
  obtain ⟨b', htile⟩ := ({ q with pow := q.pow.beat q.now [], schedLast := a, schedTurn := b } : State).turnTile_eq c
  rw [hturn, htile, State.takeBench_eq]
  obtain ⟨l, t, ht, hrun⟩ := State.runItems_pass
    { q with pow := q.pow.beat q.now [], schedLast := a, schedTurn := b', staging := q.staging ++ benchStaging u } u start false n 0
  refine ⟨_, ?_, hrun⟩
  exact ⟨rfl, rfl, rfl, ht, rfl⟩

/-- A slice of passing items of an SRAM unit whose area is open: the items that fit, the records of all, the reply. -/
theorem State.bistRun_pass (hsram : m.f 128 4 ≠ 0)
    (hopen : s.openWrites c m.seq [o.acc true false (o.byteSpans 0 (32 * m.f 192 16))] = (true, q)) :
    let n := itemsFit (m.f 128 4) (m.f 192 16) 1800
    let a := o.acc true false (o.byteSpans 0 (32 * m.f 192 16))
    ∃ p, BistLeaves q p ∧ p.bist.busyUntil = s.now + bistEc m ∧ s.bistRun c i m o [] 0 =
      ((p.putArea c (q.refusals c a) o 0 ((List.range (m.f 192 16)).flatMap (fun k =>
        leBytes 32 (sliceRecord (m.f 128 4) (m.f 160 32) n s.tick.count k).toNat))).closeUnit c m.seq [a]).finish c i
        { Reply.ok with result0 := w32 n, result1 := 0, result2 := 0 } := by
  intro n a
  have hn : n ≤ m.f 192 16 := Nat.min_le_left ..
  have htick : q.tick.count = s.tick.count := by
    have hkept := State.openWrites_tick s c m.seq [a]
    rw [hopen] at hkept
    exact congrArg (·.count) hkept
  obtain ⟨p, hleaves, hrun⟩ := State.bistItems (q := q) (c := c) (u := m.f 128 4) (m.f 160 32) n
  rw [htick] at hrun
  refine ⟨{ p with bist := { p.bist with busyUntil := s.now + bistEc m, wake := none, owner := some c } },
    ⟨hleaves.core, hleaves.remote, hleaves.ctxs, hleaves.tlb, hleaves.cursors⟩, rfl, ?_⟩
  have hnone {k : Nat} (hk : k ≠ 0) :
      ((upFrom 0 n).map (fun j => itemRecord (m.f 128 4) 0 0 (m.f 160 32 + j) itemPass s.tick.count)).filter (fun w => fld w 4 4 == k) = [] := by
    refine List.filter_eq_nil_iff.mpr fun w hw => ?_
    obtain ⟨j, -, rfl⟩ := List.mem_map.mp hw
    rw [fld_itemRecord_pass, beq_iff_eq]
    exact hk.symm
  unfold State.bistRun
  dsimp only
  rw [hopen]
  dsimp only
  rw [State.groupReady_sram hsram, Nat.sub_zero]
  dsimp only
  simp only [Bool.not_true, Bool.false_eq_true, if_false]
  rw [hrun]
  dsimp only
  rw [hnone (by decide), hnone (by decide), List.length_map, length_upFrom, sliceRecords hn, List.flatMap_map, Nat.add_assoc]
  rfl

end

/-- Settles O25: a slice of an SRAM unit needs no lane group, so it runs at once; its items can only empty places of the TLB, and the
pages its records go to are held. -/
theorem bistSliceRunsItems : Obligations.BistSliceRunsItems := by
  unfold Obligations.BistSliceRunsItems
  intro s q c i m o hcont hstart hcmd hhandle hopnd hreserved hgood hfree hwake hturn hsram hopen n record
  obtain ⟨p, hleaves, hbusy, hrun⟩ := State.bistRun_pass (i := i) hsram hopen
  have hrecord : record = sliceRecord (m.f 128 4) (m.f 160 32) n s.tick.count := rfl
  have hlen : ((List.range (m.f 192 16)).flatMap fun k => leBytes 32 (record k).toNat).length = 32 * m.f 192 16 := by
    rw [List.length_flatMap]
    simp only [length_leBytes, List.map_const', List.length_range, List.sum_replicate_nat]
    exact Nat.mul_comm ..
  rw [show (s.setPhase c i (.running .bist)).tick = s.tick from rfl, ← hrecord] at hrun
  generalize (List.range (m.f 192 16)).flatMap (fun k => leBytes 32 (record k).toNat) = l at hrun hlen ⊢
  have harea : o.byteArea = true := byteArea_of_bistBad hgood
  have hexec : exec (.bistSlice c []) s = .next _ := congrArg Host.Outcome.next
    ((State.bistSlice_turn hcont hstart hhandle hopnd hreserved hgood hfree hwake hturn []).trans hrun)
  have hqcmd : (q.ctx c).cmds[i]? = some { m with phase := .running .bist } :=
    (congrArg (·[i]?) ((SameWork.of_openWrites hopen).cmds c)).trans (State.cmds_setPhase_same s hcmd _)
  have hqbist : q.bist = s.bist := by
    have hopened := State.openWrites_bist (s.setPhase c i (.running .bist)) c m.seq [o.acc true false (o.byteSpans 0 (32 * m.f 192 16))]
    rwa [hopen] at hopened
  have hstore : SameStore c (q.Settled c) q p := ⟨hleaves.core.symm, hleaves.remote.symm, fun va hva =>
    (hva.xlat hleaves.tlb (congrArg (Vector.get · c) hleaves.ctxs) rfl).symm⟩
  refine ⟨_, hexec, ?_, ?_, ?_, ?_⟩
  · rw [State.finish_bist, State.closeUnit_bist, State.putArea_bist]
    exact hbusy
  · rw [State.finish_bist, State.closeUnit_bist, State.putArea_bist, hleaves.cursors]
    exact congrArg (·.cursors) hqbist
  · refine State.phase_finish _ (m := { m with phase := .running .bist }) ?_ _
    rw [(SameWork.closeUnit _ c m.seq _).cmds c, State.ctx, State.putArea_ctxs, hleaves.ctxs]
    exact hqcmd
  · refine SameMem.trans (hstore.putArea l fun k _ hk hfree => ?_).sameMem ((SameMem.closeUnit _ c m.seq _).trans (.finish _ c i _))
    rw [Nat.zero_add, hlen] at hk
    obtain ⟨x, hx, hlo, hhi⟩ := Opnd.byteSpans_cover harea hk
    exact State.openWrites_settles rfl hopen hx hlo hhi hfree

end Sys2Proof.Machine
end

section
/-! SUPPORT. REDUCE: its start and its last tile (R70 to R72, R221). -/

namespace Sys2Proof.Machine

section
variable {s q : State} {c : CtxNo} {i : Nat} {m : Cmd} {src dst : Opnd}

/-- A REDUCE whose checks pass starts with its first row and its tables bound. -/
theorem State.startReduce_good (hsrc : s.opnd m.fmts (m.f 128 16) 0 = some src) (hdst : s.opnd m.fmts (m.f 144 16) 1 = some dst)
    (hstart : s.starting c 0x03 = some (i, m)) (hfree : s.noConflict c i m = true) (hhandle : (s.handle c (m.f 128 16)).isSome = true)
    (hhandle' : (s.handle c (m.f 144 16)).isSome = true) (hreserved : m.reservedBad = none) (hgood : s.reduceBad c m src dst = none) :
    s.startReduce c = s.setPhase c i (.running (.reduceRows 0 0 (s.bindFor c m src) (s.bindFor c m dst) (s.overlaps c i))) := by
  obtain ⟨_, hhandle⟩ := Option.isSome_iff_exists.mp hhandle
  obtain ⟨_, hhandle'⟩ := Option.isSome_iff_exists.mp hhandle'
  simp [State.startReduce, hstart, hfree, hhandle, hhandle', hsrc, hdst, hreserved, hgood]

/-! ### The last tile (R70, R155) -/

/-- The results of a tile: its statistics counted, its rows written. -/
def State.reduced (q : State) (c : CtxNo) (seq : BitVec 16) (badW : List (Nat × Nat)) (src dst : Opnd) (counted : Bool) (lane : Lane)
    (vals : List (List (Nat → Nat) × List (Num × Flag × Num))) (outs : List (Nat × (Nat × Flag × Clip × Num))) : State :=
  outs.foldl (State.reducePut c seq badW dst counted)
    (vals.foldl (fun y e => y.recordStats src (e.1.zip (e.2.map (·.2.2)))) { q with lane := lane })

theorem SameWork.reducePut (s : State) (c : CtxNo) (seq : BitVec 16) (badW : List (Nat × Nat)) (dst : Opnd) (counted : Bool)
    (x : Nat × (Nat × Flag × Clip × Num)) : SameWork s (State.reducePut c seq badW dst counted s x) := by
  unfold State.reducePut
  dsimp only
  split
  · exact (SameWork.putBits s c badW dst _ _).trans (.countConv _ _ _ _ _ _)
  · exact .putBits s c badW dst _ _

/-- The lane bank is the one given; no slot and no command changes. -/
theorem State.reduced_keeps (q : State) (c : CtxNo) (seq : BitVec 16) (badW : List (Nat × Nat)) (src dst : Opnd) (counted : Bool) (lane : Lane)
    (vals : List (List (Nat → Nat) × List (Num × Flag × Num))) (outs : List (Nat × (Nat × Flag × Clip × Num))) :
    (q.reduced c seq badW src dst counted lane vals outs).slots = q.slots
      ∧ (q.reduced c seq badW src dst counted lane vals outs).lane = lane
      ∧ ∀ d, ((q.reduced c seq badW src dst counted lane vals outs).ctx d).cmds = (q.ctx d).cmds := by
  unfold State.reduced
  have hstats : Fr [.rts] { q with lane := lane } (vals.foldl (fun y e => y.recordStats src (e.1.zip (e.2.map (·.2.2)))) { q with lane := lane }) :=
    Fr.foldl (fun t e ht => Fr.recordStats ht src _ (by simp)) vals (Fr.refl _ _)
  generalize vals.foldl (fun y e => y.recordStats src (e.1.zip (e.2.map (·.2.2)))) { q with lane := lane } = x at hstats ⊢
  have hput : SameWork x (outs.foldl (State.reducePut c seq badW dst counted) x) :=
    List.foldlRecOn outs _ (.refl x) fun t ht y _ => ht.trans (.reducePut t c seq badW dst counted y)
  have hframe : Fr (.core :: .remote :: .evt :: .rts :: .tlb :: .walks :: everyCtx) x
      (outs.foldl (State.reducePut c seq badW dst counted) x) :=
    Fr.foldl (fun t y ht => Fr.reducePut ht c seq badW dst counted y (by simp) (by simp) (by simp) (by simp [everyCtx]) (by simp) (by simp)
      (by simp)) outs (Fr.refl _ _)
  refine ⟨hput.slots.trans (hstats.same .slots (by simp)), ?_, fun d => (hput.cmds d).trans ?_⟩
  · exact (hframe.same .lane (by simp [everyCtx])).trans (hstats.same .lane (by simp))
  · exact congrArg Context.cmds (hstats.same (.ctx d) (by simp))

/-- What the rows of a tile read, as the trees take them. -/
def State.reduceVals (q : State) (c : CtxNo) (m : Cmd) (src dst : Opnd) (row : Nat) (tab : Option BoundTable) : List (List (Num × Flag × Num)) :=
  let axis := m.f 160 3
  let n := min 128 (src.desc.rows axis - row)
  (reduceElems src axis row n).map
    (q.reduceRead c (((reduceAccs src dst axis row n).take 1).flatMap (q.refusals c)) src tab (reducePres src axis))

/-- A tile that holds the last rows stores its results and ends the command. -/
theorem State.reduceTile_last {row : Nat} {acc : Word} {tab dtab : Option BoundTable} (hlast : src.desc.rows (m.f 160 3) ≤ row + 128)
    (hopen : s.openWrites c m.seq (reduceAccs src dst (m.f 160 3) row (min 128 (src.desc.rows (m.f 160 3) - row))) = (true, q)) :
    let axis := m.f 160 3
    let n := min 128 (src.desc.rows axis - row)
    let as := reduceAccs src dst axis row n
    let pres := reducePres src axis
    let eight := reduceEight src axis
    let f := src.heldFmt pres eight
    let ers := reduceElems src axis row n
    let rows := q.reduceVals c m src dst row tab
    let tots := rows.map (fun y => reduceTotal (m.f 163 3) eight (heldRow f eight (y.map (·.1))))
    let words := tots.map (fun y => totalWord y.1 y.2.1)
    let outs := ((upFrom row n).zip words).map (fun y =>
      (y.1, reduceOut (m.f 163 3) src dst tab dtab pres (src.desc.view axis y.1 0) (dst.desc.coords y.1) y.2))
    let lane := (q.lane.loadBlocks 0 0 (reduceHold f eight (rows.map (fun y => y.map (·.1))))).putTotals words
    let fl := (joinFlags (rows.flatMap (fun y => y.map (·.2.1)))).or
      ((joinFlags (tots.map (·.2.2))).or (joinFlags (outs.map (·.2.2.1))))
    s.reduceTile c i m row acc tab dtab src dst =
      (true, ((q.reduced c (BitVec.ofNat 16 m.seq.toNat) ((as.drop 1).flatMap (q.refusals c)) src dst dtab.isSome lane (ers.zip rows) outs).closeUnit
        c m.seq as).finish c i { Reply.ok with acc := accSet acc (fl.bits + (if pres then 8 else 0)), result0 := w32 (src.desc.rows axis) }) := by
  have hdone : src.desc.rows (m.f 160 3) ≤ row + min 128 (src.desc.rows (m.f 160 3) - row) := by omega
  unfold State.reduceTile
  dsimp only
  rw [hopen]
  dsimp only
  rw [if_neg (by simp), if_pos hdone]
  rfl

/-! ### Its slice (R237, R241) -/

/-- The part of a slice that runs a REDUCE. -/
theorem exec_slice_reduce {r : SliceRun} {w : SlicePart} {row : Nat} {acc : Word} {tab dtab : Option BoundTable} {early : Bool}
    (hup : s.up = true) (hslice : s.lane.slice = some r) (hctx : r.ctx = c) (hparts : r.parts = [w]) (hleft : w.left ≠ 0)
    (hactive : s.active c = true) (hrunning : s.runningCmd c w.seq = some (i, m))
    (hphase : m.phase = .running (.reduceRows row acc tab dtab early)) :
    exec .slice s = .next (s.sliceReduce c w i m row acc tab dtab) := by
  refine congrArg Host.Outcome.next ?_
  rw [hslice]
  dsimp only
  unfold State.sliceRun
  rw [hctx, hparts, hup, if_neg (by simp), if_neg (by simp [State.partOver, hleft, hrunning]), if_neg (by simp [hleft]),
    State.alert_of_active hactive, if_neg (by simp)]
  have hgo : (decide (w.left = 0) || w.begun.isNone && !s.active c) = false := by simp [hleft, hactive]
  simp only [List.foldl_cons, List.foldl_nil, State.slicePart, hgo, Bool.false_eq_true, if_false, hrunning, hphase]

/-- The slice of a tile that has run ends: the lane bank is free of it, nothing is stored. -/
theorem State.tileSlice_ends (t : State) (c : CtxNo) (b raw : Nat) :
    let u := (((t.turnTile c).endSlice c false).modCtx c (fun x => x.unitCommit s.now b raw)).endOverrun c
    SameMem t u ∧ u.slots = t.slots ∧ u.lane = { t.lane with slice := none } ∧ (u.ctx c).cmds = (t.ctx c).cmds := by
  obtain ⟨turn, hturn⟩ := t.turnTile_eq c
  intro u
  have hu : u = (((t.turnTile c).endSlice c false).modCtx c (fun x => x.unitCommit s.now b raw)).endOverrun c := rfl
  rw [hturn] at hu
  refine ⟨hu ▸ .of_eq rfl rfl, hu ▸ rfl, hu ▸ rfl, ?_⟩
  rw [hu]
  refine ((SameWork.endOverrun _ c).cmds c).trans ?_
  refine ((SameWork.modCtx _ c (f := fun x => x.unitCommit s.now b raw) fun _ => rfl).cmds c).trans ?_
  exact (SameWork.modCtx _ c (f := fun x => if false = true then { x with cuts := satAdd x.cuts 1 } else x) fun _ => rfl).cmds c

/-- A tile of a REDUCE that has begun runs whole, and its slice ends. -/
theorem State.sliceReduce_runs {u : State} {w : SlicePart} {row b : Nat} {acc : Word} {tab dtab : Option BoundTable}
    (hbegun : w.begun = some b) (hsrc : s.opnd m.fmts (m.f 128 16) 0 = some src) (hdst : s.opnd m.fmts (m.f 144 16) 1 = some dst)
    (htile : s.reduceTile c i m row acc tab dtab src dst = (true, u)) :
    let t := s.sliceReduce c w i m row acc tab dtab
    SameMem u t ∧ t.slots = u.slots ∧ t.lane = { u.lane with slice := none } ∧ (t.ctx c).cmds = (u.ctx c).cmds := by
  unfold State.sliceReduce
  rw [hbegun, hsrc, hdst]
  dsimp only
  rw [htile, if_pos rfl]
  exact State.tileSlice_ends u c b _

/-- The slice of the last tile of a REDUCE stores the results and ends the command. -/
theorem State.sliceReduce_last {w : SlicePart} {row b : Nat} {acc : Word} {tab dtab : Option BoundTable} {z : State} {as : List Acc} {r : Reply}
    (hcmd : (s.ctx c).cmds[i]? = some m) (hbegun : w.begun = some b) (hsrc : s.opnd m.fmts (m.f 128 16) 0 = some src)
    (hdst : s.opnd m.fmts (m.f 144 16) 1 = some dst) (hopened : SameWork s q) (hslots : z.slots = q.slots)
    (hcmds : (z.ctx c).cmds = (q.ctx c).cmds)
    (htile : s.reduceTile c i m row acc tab dtab src dst = (true, (z.closeUnit c m.seq as).finish c i r)) :
    let t := s.sliceReduce c w i m row acc tab dtab
    SameMem z t ∧ t.slots = s.slots ∧ t.lane = { z.lane with slice := none } ∧ PhaseAt t c i (.finished r) := by
  obtain ⟨hmem, hslots', hlane, hcmds'⟩ := State.sliceReduce_runs hbegun hsrc hdst htile
  have hclose := SameWork.closeUnit z c m.seq as
  have hzcmd : ((z.closeUnit c m.seq as).ctx c).cmds[i]? = some m := by
    rw [hclose.cmds, hcmds, hopened.cmds]
    exact hcmd
  refine ⟨((SameMem.closeUnit z c m.seq as).trans (.finish _ c i r)).trans hmem, ?_, ?_, ?_⟩
  · rw [hslots', State.finish_slots, hclose.slots, hslots, hopened.slots]
  · rw [hlane, State.finish_lane, State.closeUnit_lane]
  · rw [PhaseAt, hcmds']
    exact State.phase_finish _ hzcmd r

end

end Sys2Proof.Machine
end

section
/-! SUPPORT. XPOSE and PERMUTE: their start, their direct units, their staged units (R155, R166, R167, R169). -/

namespace Sys2Proof.Machine

/-! ### What a slice of units and a copy's channels or staging keep -/

/-- Context `c` is in the same slice of units. -/
structure SameStream (c : CtxNo) (s t : State) : Prop where
  stream : (t.ctx c).stream = (s.ctx c).stream

section
variable {s t u : State} {c : CtxNo}

theorem SameStream.trans (h : SameStream c s t) (k : SameStream c t u) : SameStream c s u := ⟨k.stream.trans h.stream⟩

theorem SameStream.of_ctx (h : t.ctx c = s.ctx c) : SameStream c s t := ⟨congrArg _ h⟩

variable (s c)

theorem SameStream.modCtx {f : Context → Context} (hf : ∀ x, (f x).stream = x.stream) : SameStream c s (s.modCtx c f) :=
  ⟨by rw [State.ctx_modCtx_same, hf]⟩

theorem SameStream.setPhase (i : Nat) (p : Phase) : SameStream c s (s.setPhase c i p) := .modCtx s c fun x => by split <;> rfl

theorem SameStream.acquire (ns : List FaultRec) : SameStream c s (s.acquire c ns).2 := by
  have hxlats (xs : List (Nat × Xlat)) : SameStream c s (s.modCtx c (fun x => { x with xlats := xs })) := .modCtx s c fun _ => rfl
  have hpin (ns : List FaultRec) : SameStream c s (s.pin c ns) := ⟨(hxlats _).stream⟩
  unfold State.acquire
  dsimp only
  split
  · exact hpin _
  · exact (hpin _).trans (.of_ctx rfl)

theorem SameStream.openAll (seq : Word) (as : List Acc) : SameStream c s (s.openAll c seq as).2 := by
  unfold State.openAll State.openFor State.openSome
  dsimp only
  split
  · exact .acquire s c _
  · exact (SameStream.acquire s c _).trans (.of_ctx (State.ctx_takeSlots _ c seq .demand as c))

theorem SameStream.unpin : SameStream c s (s.unpin c) := .modCtx s c fun x => by split <;> rfl

theorem SameStream.countOob (n : Nat) : SameStream c s (s.countOob c n) := .modCtx s c fun _ => rfl

theorem SameStream.closeUnit (seq : Word) (as : List Acc) : SameStream c s (s.closeUnit c seq as) := by
  let v := s.issue c seq .demand as
  let u := { v with ckpt := v.ckpt.noteUnwatched (v.writePages c as) }
  have hissue : SameStream c s u := .of_ctx (s.ctx_issue c seq .demand as c)
  have htracked : SameStream c u (if (v.writePages c as).isEmpty then u else u.modCtx c (fun x => { x with tracked := true })) := by
    split
    · exact .of_ctx rfl
    · exact .modCtx u c fun _ => rfl
  exact ((hissue.trans htracked).trans (.countOob _ c _)).trans (.unpin _ c)

end

/-- Context `c` is in a slice that its command `seq` has begun and that has units left. -/
def State.InSlice (s : State) (c : CtxNo) (seq : Word) : Prop :=
  ∃ r, (s.ctx c).stream = some r ∧ r.seq = seq ∧ 0 < r.left ∧ r.begun.isSome = true

section
variable {s t g h : State} {c : CtxNo} {seq : Word} {est : Nat → Nat} {n : Nat}

theorem State.InSlice.keep (hin : s.InSlice c seq) (hsame : SameStream c s t) : t.InSlice c seq := by
  obtain ⟨r, hr, hrest⟩ := hin
  exact ⟨r, hsame.stream.trans hr, hrest⟩

/-- A slice that has begun goes on. -/
theorem State.InSlice.goes (hin : s.InSlice c seq) : s.streamGo c seq est n = (true, s) := by
  obtain ⟨r, hr, hseq, hleft, hbegun⟩ := hin
  unfold State.streamGo
  simp only [hr, hseq, beq_self_eq_true, hleft, decide_true, hbegun, Bool.or_true, Bool.and_self]

/-- A unit that may go on is of a slice with units left. -/
theorem State.stream_of_go (hgo : s.streamGo c seq est n = (true, g)) : ∃ r, (g.ctx c).stream = some r ∧ r.seq = seq ∧ 0 < r.left := by
  unfold State.streamGo at hgo
  dsimp only at hgo
  split at hgo
  · next r hr =>
    obtain ⟨hok, rfl⟩ := Prod.mk.inj hgo
    simp only [Bool.and_eq_true, beq_iff_eq, decide_eq_true_eq] at hok
    exact ⟨r, hr, hok.1.1, hok.1.2⟩
  · split at hgo
    · cases (Prod.mk.inj hgo).1
    · split at hgo
      · cases (Prod.mk.inj hgo).1
      · obtain ⟨-, rfl⟩ := Prod.mk.inj hgo
        exact ⟨_, congrArg Context.stream (State.ctx_modCtx_same s c _), rfl, Nat.succ_pos _⟩

/-- With its first unit the slice begins. -/
theorem State.inSlice_streamStart (hgo : ∃ r, (g.ctx c).stream = some r ∧ r.seq = seq ∧ 0 < r.left) : (g.streamStart c).InSlice c seq := by
  obtain ⟨r, hr, hseq, hleft⟩ := hgo
  refine ⟨{ r with begun := some (r.begun.getD g.now) }, ?_, hseq, hleft, rfl⟩
  unfold State.streamStart
  rw [State.ctx_modCtx_same, hr]
  rfl

variable {m : Cmd} {mode : CopyMode} {src : Opnd} {prio granules user : Nat}

/-- Staging taken is held; nothing else changes but waits. -/
theorem State.takeStaging_eq (hheld : g.takeStaging c seq prio granules user = (true, h)) :
    h = { g with waits := h.waits, staging := h.staging }
      ∧ h.staging = if granules = 0 ∨ g.staging.any (fun p => p.2 == user) = true then g.staging else g.staging ++ [(granules, user)] := by
  unfold State.takeStaging at hheld
  split at hheld
  · next hhas =>
    obtain ⟨-, rfl⟩ := Prod.mk.inj hheld
    exact ⟨rfl, by rw [if_pos (by simpa using hhas)]⟩
  · next hhas =>
    split at hheld
    · cases (Prod.mk.inj hheld).1
    · obtain ⟨-, rfl⟩ := Prod.mk.inj hheld
      exact ⟨rfl, by rw [if_neg (by simpa using hhas)]⟩

theorem State.takeStaging_again (hheld : g.takeStaging c seq prio granules user = (true, h)) (hsame : t.staging = h.staging) :
    t.takeStaging c seq prio granules user = (true, t) := by
  refine if_pos ?_
  obtain ⟨-, hstaging⟩ := State.takeStaging_eq hheld
  rw [hsame, hstaging]
  split <;> simp_all

/-- Channels taken are held; nothing else changes but waits. -/
theorem State.takeDovetail_eq (hheld : g.takeDovetail c seq = (true, h)) :
    h = { g with waits := h.waits, dovetail := h.dovetail } ∧ h.dovetail.contains (c, seq) = true := by
  unfold State.takeDovetail at hheld
  split at hheld
  · next hhas =>
    obtain ⟨-, rfl⟩ := Prod.mk.inj hheld
    exact ⟨rfl, hhas⟩
  · split at hheld
    · cases (Prod.mk.inj hheld).1
    · obtain ⟨-, rfl⟩ := Prod.mk.inj hheld
      exact ⟨rfl, by simp⟩

/-- What a unit has taken the next finds held. -/
theorem State.copyHolds_again (hheld : g.copyHolds c m mode src = (true, h)) (hstaging : t.staging = h.staging)
    (hdovetail : t.dovetail = h.dovetail) : t.copyHolds c m mode src = (true, t) := by
  unfold State.copyHolds at hheld ⊢
  split
  · dsimp only at hheld
    split
    · next hstaged =>
      rw [if_pos hstaged] at hheld
      exact State.takeStaging_again hheld hstaging
    · next hstaged =>
      rw [if_neg hstaged] at hheld
      exact if_pos (hdovetail ▸ (State.takeDovetail_eq hheld).2)
  · rfl

theorem Fr.of_copyHolds (hheld : g.copyHolds c m mode src = (true, h)) : Fr [.staging, .waits, .dovetail] g h := by
  have hframe := Fr.copyHolds (Fr.refl [.staging, .waits, .dovetail] g) c m mode src (by simp) (by simp) (by simp)
  rwa [hheld] at hframe

end

/-! ### A copy starts or goes on (R167) -/

section
variable {s q g h v : State} {c : CtxNo} {i op u : Nat} {m : Cmd} {src dst : Opnd} {perm : List Nat} {mode : CopyMode}
  {els : List (Nat → Nat)} {blk vals : List Nat}

theorem exec_copy (s : State) (c : CtxNo) (hop : op = 0x12 ∨ op = 0x13) :
    exec (if op = 0x12 then .xpose c else .permute c) s = .next (s.copyCmd c op) := by
  rcases hop with rfl | rfl <;> rfl

section
variable (hcont : s.continuing c op = none) (hstart : s.starting c op = some (i, m)) (hfree : s.noConflict c i m = true)
  (hhandle : (s.handle c (m.f 128 16)).isSome = true) (hhandle' : (s.handle c (m.f 144 16)).isSome = true)
  (hops : s.copyOps m = some (src, dst)) (hreserved : m.reservedBad = none) (hgood : copyBad m src dst = none)
include hcont hstart hfree hhandle hhandle' hops hreserved hgood

theorem State.copyCmd_identity (hmode : copyMode src dst (m.perm src.desc.ndim) = .identity) : s.copyCmd c op = s.finish c i .ok := by
  obtain ⟨_, hhandle⟩ := Option.isSome_iff_exists.mp hhandle
  obtain ⟨_, hhandle'⟩ := Option.isSome_iff_exists.mp hhandle'
  simp [State.copyCmd, hcont, hstart, hfree, hhandle, hhandle', hops, hreserved, hgood, hmode]

theorem State.copyCmd_refused (hmode : copyMode src dst (m.perm src.desc.ndim) = .refused) :
    s.copyCmd c op = s.finish c i (.of stOverlap) := by
  obtain ⟨_, hhandle⟩ := Option.isSome_iff_exists.mp hhandle
  obtain ⟨_, hhandle'⟩ := Option.isSome_iff_exists.mp hhandle'
  simp [State.copyCmd, hcont, hstart, hfree, hhandle, hhandle', hops, hreserved, hgood, hmode]

end

theorem State.copyCmd_goes (hcont : s.continuing c op = some (i, m)) : s.copyCmd c op = s.copyStep c i m false := by
  unfold State.copyCmd
  rw [hcont]

/-! ### Direct units (R155, R166) -/

/-- Is a mode run by direct units? -/
def CopyMode.Direct (mode : CopyMode) : Prop := mode = .rows ∨ ∃ d, mode = .blocks d

theorem State.copyStep_direct (hops : s.copyOps m = some (src, dst)) (hphase : m.phase = .running (.copy u vals blk))
    (hmode : copyMode src dst (m.perm src.desc.ndim) = mode) (hdirect : mode.Direct) :
    s.copyStep c i m false = runRows (State.copyDirect c i src dst (m.perm src.desc.ndim) mode (directUnits mode dst))
      (2 * (directUnits mode dst).length + 1) s := by
  unfold State.copyStep
  rw [hops, hphase]
  dsimp only
  rw [hmode]
  rcases hdirect with rfl | ⟨d, rfl⟩ <;> rfl

variable {us : List (List (Nat → Nat) × Bool)} {blockEnd : Bool}

/-- The estimate of direct units from `u` on. -/
def State.directEsts (s : State) (c : CtxNo) (src : Opnd) (perm : List Nat) (us : List (List (Nat → Nat) × Bool)) (u k : Nat) : Nat :=
  s.directEst c src perm ((us.getD (u + k) ([], false)).1)

section
variable (hcmd : (s.ctx c).cmds[i]? = some m) (hphase : m.phase = .running (.copy u vals blk))
include hcmd hphase

/-- Without a unit left the copy completes. -/
theorem State.copyDirect_end (hend : us[u]? = none) : State.copyDirect c i src dst perm mode us s = (false, s.finish c i .ok) := by
  unfold State.copyDirect
  simp only [State.cmdAt, hcmd, hphase, hend]

variable (hunit : us[u]? = some (els, blockEnd)) (hgo : s.streamGo c m.seq (s.directEsts c src perm us u) (us.length - u) = (true, g))
  (hheld : g.copyHolds c m mode src = (true, h))
include hunit hgo hheld

/-- A unit that may go on is a segment that is written, or the read of its block. -/
theorem State.copyDirect_unit : State.copyDirect c i src dst perm mode us s =
    if mode != .rows && blk.isEmpty then (h.streamStart c).copyBlock c i m src perm (blockRest (us.drop u)) u
    else (h.streamStart c).copySegment c i m src dst perm (mode == .rows) els blockEnd (decide (u + 1 < us.length)) u blk := by
  unfold State.copyDirect
  simp only [State.cmdAt, hcmd, hphase, hunit]
  rw [show (s.streamGo c m.seq (fun k => s.directEst c src perm ((us.getD (u + k) ([], false)).1)) (us.length - u)) = (true, g) from hgo]
  simp only [hheld, Bool.not_true, Bool.false_eq_true, if_false]

end

/-- The accesses of a direct unit. -/
def segmentAccs (src dst : Opnd) (perm : List Nat) (byRows : Bool) (els : List (Nat → Nat)) : List Acc :=
  (if byRows then [copyReads src perm els] else []) ++ [copyWrites dst els]

/-- The bits a direct unit stores. -/
def State.segmentBits (q : State) (c : CtxNo) (src : Opnd) (perm : List Nat) (byRows : Bool) (els : List (Nat → Nat)) (blk : List Nat) :
    List Nat := if byRows then q.copyBits c src perm els else blk

/-- The last segment is stored, and the copy gives back what it holds. -/
theorem State.copySegment_last {byRows : Bool} (hopen : s.openWrites c m.seq (segmentAccs src dst perm byRows els) = (true, q)) :
    ∃ raw, s.copySegment c i m src dst perm byRows els blockEnd false u blk =
      (true, (((((q.copyStore c dst els (q.segmentBits c src perm byRows els blk)).closeUnit c m.seq (segmentAccs src dst perm byRows els)).streamCommit
        c raw false).setPhase c i (.running (.copy (u + 1) [] []))).dropCopy c m.seq)) := by
  refine ⟨s.directEst c src perm els, ?_⟩
  unfold State.copySegment
  dsimp only
  rw [show s.openWrites c m.seq ((if byRows then [copyReads src perm els] else []) ++ [copyWrites dst els]) = (true, q) from hopen]
  dsimp only
  have hover (t : State) (raw : Nat) (p : Phase) : ((t.streamCommit c raw false).setPhase c i p).streaming c = false := by
    rw [State.streaming, (SameStream.setPhase _ c i p).stream]
    exact State.streaming_streamCommit_last t c raw
  simp only [State.copyRelease, State.streaming_streamCommit_last, hover, Bool.not_true, Bool.not_false, Bool.false_eq_true, if_false, if_true,
    Bool.or_true]
  rfl

theorem State.copySegment_waits {byRows more : Bool} (hopen : s.openWrites c m.seq (segmentAccs src dst perm byRows els) = (false, v)) :
    s.copySegment c i m src dst perm byRows els blockEnd more u blk = (false, v) := by
  unfold State.copySegment
  dsimp only
  rw [show s.openWrites c m.seq ((if byRows then [copyReads src perm els] else []) ++ [copyWrites dst els]) = (false, v) from hopen]
  rfl

theorem State.copyBlock_reads (hopen : s.openAll c m.seq [copyReads src perm els] = (true, q)) :
    s.copyBlock c i m src perm els u =
      (true, (q.closeUnit c m.seq [copyReads src perm els]).setPhase c i (.running (.copy u [] (q.copyBits c src perm els)))) := by
  unfold State.copyBlock
  dsimp only
  rw [hopen]
  rfl

theorem SameWork.copyStore (q : State) (c : CtxNo) (dst : Opnd) (els : List (Nat → Nat)) (vals : List Nat) :
    SameWork q (q.copyStore c dst els vals) :=
  List.foldlRecOn (els.zip vals) _ (.refl q) fun t ht x _ => ht.trans (.putBits t c _ dst x.1 x.2)

/-- A direct copy whose last unit is open stores it and completes; it gives back its channels and its staging. -/
theorem State.copyDirect_last {n : Nat} {byRows : Bool} (hcmd : (s.ctx c).cmds[i]? = some m) (hphase : m.phase = .running (.copy u vals blk))
    (hunit : (us[u]?).map (·.1) = some els) (hlast : us.length = u + 1)
    (hgo : s.streamGo c m.seq (s.directEsts c src perm us u) (us.length - u) = (true, g)) (hheld : g.copyHolds c m mode src = (true, h))
    (hrows : (mode == .rows) = byRows) (hread : byRows = true ∨ blk ≠ [])
    (hopen : (h.streamStart c).openWrites c m.seq (segmentAccs src dst perm byRows els) = (true, q)) :
    let t := runRows (State.copyDirect c i src dst perm mode us) (n + 2) s
    SameMem (q.copyStore c dst els (q.segmentBits c src perm byRows els blk)) t ∧ PhaseAt t c i (.finished .ok)
      ∧ (c, m.seq) ∉ t.dovetail ∧ ∀ p ∈ t.staging, p.2 ≠ stagingUser c m.seq := by
  obtain ⟨⟨els', blockEnd⟩, hunit', rfl⟩ := Option.map_eq_some_iff.mp hunit
  have hmode : (mode != .rows && blk.isEmpty) = false := by
    rw [bne, hrows]
    rcases hread with h | h <;> simp [h]
  obtain ⟨raw, hsegment⟩ := State.copySegment_last (i := i) (u := u) (blk := blk) (blockEnd := blockEnd) hopen
  have hfirst := State.copyDirect_unit (dst := dst) hcmd hphase hunit' hgo hheld
  rw [hmode, if_neg Bool.false_ne_true, hrows, decide_eq_false (by omega), hsegment] at hfirst
  have hqcmd : (q.ctx c).cmds[i]? = some m := by
    rw [(SameWork.of_openWrites hopen).cmds, (SameWork.streamStart h c).cmds]
    have hheld' : (h.ctx c).cmds = (g.ctx c).cmds := congrArg Context.cmds ((Fr.of_copyHolds hheld).same (.ctx c) (by simp))
    rw [hheld', (SameWork.of_streamGo hgo).cmds]
    exact hcmd
  generalize hz : q.copyStore c dst _ (q.segmentBits c src perm byRows _ blk) = z at hfirst ⊢
  have hzwork : SameWork q z := hz ▸ SameWork.copyStore ..
  generalize hw : (z.closeUnit c m.seq (segmentAccs src dst perm byRows els')).streamCommit c raw false = w at hfirst
  have hwwork : SameWork z w := hw ▸ (SameWork.closeUnit z c m.seq _).trans (.streamCommit _ c raw false)
  have hwmem : SameMem z w := hw ▸ (SameMem.closeUnit z c m.seq _).trans (.streamCommit _ c raw false)
  have hwcmd : (w.ctx c).cmds[i]? = some m := by
    rw [hwwork.cmds, hzwork.cmds]
    exact hqcmd
  have hnext : ((((w.setPhase c i (.running (.copy (u + 1) [] []))).dropCopy c m.seq)).ctx c).cmds[i]? =
      some { m with phase := .running (.copy (u + 1) [] []) } := State.cmds_setPhase_same w hwcmd _
  have hend : us[u + 1]? = none := List.getElem?_eq_none (by omega)
  have hsecond := State.copyDirect_end (src := src) (dst := dst) (perm := perm) (mode := mode) hnext rfl hend
  rw [runRows_go _ hfirst, runRows_stop _ hsecond]
  refine ⟨?_, State.phase_finish _ hnext _, ?_, ?_⟩
  · have hdropped : SameMem w ((w.setPhase c i (.running (.copy (u + 1) [] []))).dropCopy c m.seq) := .of_eq rfl rfl
    exact (hwmem.trans hdropped).trans (.finish _ c i _)
  · rw [State.finish_dovetail]
    simp [State.dropCopy, State.dropStaging]
  · rw [State.finish_staging]
    intro p hp
    simpa using (List.mem_filter.mp hp).2

/-- A block's rest has been read: the command holds its bits, its slice goes on, what it has taken it still has; nothing is stored. -/
theorem State.blockRead_keeps {rest : List (Nat → Nat)} {w : State} {est : Nat → Nat} {n : Nat} (hcmd : (s.ctx c).cmds[i]? = some m)
    (hgo : s.streamGo c m.seq est n = (true, g)) (hheld : g.copyHolds c m mode src = (true, h))
    (hread : (h.streamStart c).openAll c m.seq [copyReads src perm rest] = (true, q)) {p : Phase}
    (hw : (q.closeUnit c m.seq [copyReads src perm rest]).setPhase c i p = w) :
    (w.ctx c).cmds[i]? = some { m with phase := p } ∧ w.InSlice c m.seq ∧ w.copyHolds c m mode src = (true, w) ∧ SameMem s w := by
  have hframe := Fr.of_copyHolds hheld
  have hhctx : h.ctx c = g.ctx c := hframe.same (.ctx c) (by simp)
  have hopened : SameStream c (h.streamStart c) q ∧ q.staging = h.staging ∧ q.dovetail = h.dovetail := by
    have hstream := SameStream.openAll (h.streamStart c) c m.seq [copyReads src perm rest]
    have hstaging := State.openAll_staging (h.streamStart c) c m.seq [copyReads src perm rest]
    have hdovetail := State.openAll_dovetail (h.streamStart c) c m.seq [copyReads src perm rest]
    rw [hread] at hstream hstaging hdovetail
    exact ⟨hstream, hstaging, hdovetail⟩
  obtain ⟨hstream, hstaging, hdovetail⟩ := hopened
  subst hw
  refine ⟨?_, ?_, ?_, ?_⟩
  · refine State.cmds_setPhase_same _ ?_ p
    rw [(SameWork.closeUnit q c m.seq _).cmds, (SameWork.of_openAll hread).cmds, (SameWork.streamStart h c).cmds, hhctx,
      (SameWork.of_streamGo hgo).cmds]
    exact hcmd
  · have hstarted : (h.streamStart c).InSlice c m.seq := State.inSlice_streamStart (hhctx ▸ State.stream_of_go hgo)
    exact hstarted.keep ((hstream.trans (.closeUnit q c m.seq _)).trans (.setPhase _ c i _))
  · refine State.copyHolds_again hheld ?_ ?_
    · rw [State.setPhase_staging, State.closeUnit_staging, hstaging]
    · rw [State.setPhase_dovetail, State.closeUnit_dovetail, hdovetail]
  · have hmem : SameMem g h := .of_eq (hframe.same .core (by simp)) (hframe.same .remote (by simp))
    have hstart : SameMem h (h.streamStart c) := .of_eq rfl rfl
    exact ((((SameMem.of_streamGo hgo).trans hmem).trans hstart).trans (.of_openAll hread)).trans
      ((SameMem.closeUnit q c m.seq _).trans (.setPhase _ c i p))

/-- What is left of a block is read whole; its first segment, whose page is not translated, waits. -/
theorem State.copyDirect_block {n : Nat} {w : State} (hcmd : (s.ctx c).cmds[i]? = some m) (hphase : m.phase = .running (.copy u vals []))
    (hunit : (us[u]?).map (·.1) = some els) (hblocks : (mode == .rows) = false)
    (hgo : s.streamGo c m.seq (s.directEsts c src perm us u) (us.length - u) = (true, g)) (hheld : g.copyHolds c m mode src = (true, h))
    (hrest : blockRest (us.drop u) ≠ [])
    (hread : (h.streamStart c).openAll c m.seq [copyReads src perm (blockRest (us.drop u))] = (true, q))
    (hw : (q.closeUnit c m.seq [copyReads src perm (blockRest (us.drop u))]).setPhase c i
      (.running (.copy u [] (q.copyBits c src perm (blockRest (us.drop u))))) = w)
    (hopen : (w.streamStart c).openWrites c m.seq [copyWrites dst els] = (false, v)) :
    runRows (State.copyDirect c i src dst perm mode us) (n + 2) s = v ∧ SameMem s v
      ∧ PhaseAt v c i (.running (.copy u [] (q.copyBits c src perm (blockRest (us.drop u))))) := by
  obtain ⟨⟨els', blockEnd⟩, hunit', rfl⟩ := Option.map_eq_some_iff.mp hunit
  have hfirst := State.copyDirect_unit (dst := dst) hcmd hphase hunit' hgo hheld
  rw [if_pos (show (mode != .rows && ([] : List Nat).isEmpty) = true by simp [bne, hblocks])] at hfirst
  have hbits : (q.copyBits c src perm (blockRest (us.drop u))).isEmpty = false := by
    unfold State.copyBits
    simpa using hrest
  generalize blockRest (us.drop u) = rest at hread hw hfirst hbits ⊢
  rw [State.copyBlock_reads hread, hw] at hfirst
  obtain ⟨hwcmd, hslice, hagain, hmem⟩ := State.blockRead_keeps hcmd hgo hheld hread hw
  have hsecond := State.copyDirect_unit (s := w) (dst := dst) (perm := perm) hwcmd rfl hunit' hslice.goes hagain
  have hwrite : (mode != .rows && (q.copyBits c src perm rest).isEmpty) = false := by rw [hbits, Bool.and_false]
  have hwaits := State.copySegment_waits (m := { m with phase := .running (.copy u [] (q.copyBits c src perm rest)) }) (i := i) (src := src)
    (perm := perm) (byRows := false) (blockEnd := blockEnd) (more := decide (u + 1 < us.length)) (u := u) (blk := q.copyBits c src perm rest) hopen
  rw [hwrite, if_neg Bool.false_ne_true, hblocks, hwaits] at hsecond
  rw [runRows_go _ hfirst, runRows_stop _ hsecond]
  refine ⟨rfl, ?_, ?_⟩
  · have hcore := State.openWrites_core (w.streamStart c) c m.seq [copyWrites dst els']
    have hremote := State.openWrites_remote (w.streamStart c) c m.seq [copyWrites dst els']
    rw [hopen] at hcore hremote
    exact hmem.trans (.of_eq hcore hremote)
  · rw [PhaseAt, (SameWork.of_openWrites hopen).cmds, (SameWork.streamStart w c).cmds, hwcmd]
    rfl

/-! ### Staged units (R169) -/

/-- A mode that has a staged unit. -/
theorem staged_of_unit (hunit : stagedUnit mode dst u = some els) : mode = .staged ∨ ∃ a b, mode = .swap a b := by
  cases mode with
  | staged => exact .inl rfl
  | swap a b => exact .inr ⟨a, b, rfl⟩
  | rows => cases hunit
  | blocks d => cases hunit
  | identity => cases hunit
  | refused => cases hunit

section
variable (hops : s.copyOps m = some (src, dst)) (hmode : copyMode src dst (m.perm src.desc.ndim) = mode)
  (hunit : stagedUnit mode dst u = some els)
include hops hmode hunit

theorem State.copyStep_read (hphase : m.phase = .running (.copy u [] blk)) :
    s.copyStep c i m false = s.copyRead c i m src dst (m.perm src.desc.ndim) mode u := by
  unfold State.copyStep
  rw [hops, hphase]
  dsimp only
  rw [hmode]
  rcases staged_of_unit hunit with rfl | ⟨a, b, rfl⟩ <;> rfl

theorem State.copyStep_write {b : Nat} {bits : List Nat} (hphase : m.phase = .running (.copy u (b :: bits) blk)) :
    s.copyStep c i m false = s.copyWrite c i m src dst (m.perm src.desc.ndim) mode u (b :: bits) false := by
  unfold State.copyStep
  rw [hops, hphase]
  dsimp only
  rw [hmode]
  rcases staged_of_unit hunit with rfl | ⟨a, b, rfl⟩ <;> rfl

end

/-- The estimate of staged units from `u` on. -/
def State.stagedEsts (s : State) (c : CtxNo) (src dst : Opnd) (perm : List Nat) (mode : CopyMode) (u k : Nat) : Nat :=
  s.stagedEst c src dst perm mode (u + k)

/-- The read phase of a staged unit takes staging, reads the unit and stores nothing. -/
theorem State.copyRead_reads (hcmd : (s.ctx c).cmds[i]? = some m) (hunit : stagedUnit mode dst u = some els)
    (hgo : s.streamGo c m.seq (s.stagedEsts c src dst perm mode u) (stagedUnits mode dst - u) = (true, g))
    (hheld : g.takeStaging c m.seq 1 (copyGranules mode src) (stagingUser c m.seq) = (true, h))
    (hopen : (h.streamStart c).openSome c m.seq .demand [copyReads src perm els, copyWrites dst els] [copyReads src perm els] = (true, v))
    (hcopied : v.copiedFirst c m.seq [copyWrites dst els] = (true, q)) :
    let t := s.copyRead c i m src dst perm mode u
    SameMem s t ∧ PhaseAt t c i (.running (.copy u (q.copyBits c src perm els) []))
      ∧ t.staging = if copyGranules mode src = 0 ∨ s.staging.any (fun p => p.2 == stagingUser c m.seq) = true then s.staging
        else s.staging ++ [(copyGranules mode src, stagingUser c m.seq)] := by
  have hread : s.copyRead c i m src dst perm mode u =
      ((q.countOob c (q.refusals c (copyReads src perm els)).length).issue c m.seq .demand [copyReads src perm els]).setPhase c i
        (.running (.copy u (q.copyBits c src perm els) [])) := by
    unfold State.copyRead
    rw [hunit]
    dsimp only
    rw [show s.streamGo c m.seq (fun k => s.stagedEst c src dst perm mode (u + k)) (stagedUnits mode dst - u) = (true, g) from hgo]
    simp only [Bool.not_true, Bool.false_eq_true, if_false, hheld, hopen, hcopied]
  intro t
  have ht : t = _ := hread
  rw [ht]
  obtain ⟨hh, hstaging⟩ := State.takeStaging_eq hheld
  have hgstaging : g.staging = s.staging := by
    have hkept := Fr.streamGo (Fr.refl [.ctx c] s) c m.seq (s.stagedEsts c src dst perm mode u) (stagedUnits mode dst - u) (by simp)
    rw [hgo] at hkept
    exact hkept.same .staging (by simp)
  have hframe : Fr (.ctx c :: reading) (h.streamStart c) q := by
    have hsome := Fr.openSome (Fr.refl (.ctx c :: reading) (h.streamStart c)) c m.seq .demand [copyReads src perm els, copyWrites dst els]
      [copyReads src perm els] (by simp) (by simp [reading, translating]) (by simp [reading, translating]) (by simp [reading])
      (by simp [reading]) (by simp [reading])
    rw [hopen] at hsome
    have hfirst := Fr.copiedFirst hsome c m.seq [copyWrites dst els] (by simp)
    rwa [hcopied] at hfirst
  refine ⟨?_, ?_, ?_⟩
  · have hgh : SameMem g (h.streamStart c) := by
      rw [hh]
      exact .of_eq rfl rfl
    have hhq : SameMem (h.streamStart c) q := .of_eq (hframe.same .core (by simp [reading, translating]))
      (hframe.same .remote (by simp [reading, translating]))
    exact (((SameMem.of_streamGo hgo).trans hgh).trans hhq).trans (.of_eq rfl rfl)
  · have hplaces : SamePlaces s q := by
      have hgh : SamePlaces g h := by
        rw [hh]
        exact .of_ctxs rfl
      have hhv := SamePlaces.openSome (h.streamStart c) c m.seq .demand [copyReads src perm els, copyWrites dst els] [copyReads src perm els]
      have hvq := SameWork.copiedFirst v c m.seq [copyWrites dst els]
      rw [hopen] at hhv
      rw [hcopied] at hvq
      exact ((((SamePlaces.of_work (.of_streamGo hgo)).trans hgh).trans (.of_work (.streamStart h c))).trans hhv).trans (.of_work hvq)
    obtain ⟨m1, hm1⟩ := (hplaces.trans (.of_work ((SameWork.countOob q c _).trans (.issue _ c m.seq .demand _)))).cmd hcmd
    exact State.phase_setPhase _ hm1 _
  · have hqstaging : q.staging = h.staging := hframe.same .staging (by simp [reading, translating])
    rw [hgstaging] at hstaging
    exact hqstaging.trans hstaging

/-- The requests of a staged unit's writes that have lost their page. -/
def State.lostWrites (v : State) (c : CtxNo) (a : Acc) : List FaultRec := (accNeeds a 0 (v.plan c a)).filter (fun n => !v.needOk c n)

/-- The state after a staged unit's writes, its staging given back. -/
def State.stagedDone (v : State) (c : CtxNo) (seq : Word) (a : Acc) (dst : Opnd) (els : List (Nat → Nat)) (vals : List Nat)
    (bad : List (Nat × Nat)) (lost raw : Nat) (more : Bool) : State :=
  ((((((els.zip vals).foldl (fun t x => t.putBits c bad dst x.1 x.2) v).countOob c lost).dropStaging (stagingUser c seq)).closeUnit c seq [a]).streamCommit
    c raw more)

/-- The write phase stores the elements whose pages it has, and goes on only if it has all. -/
theorem State.copyWrite_eq (hunit : stagedUnit mode dst u = some els) (hslots : s.takeSlots c m.seq .demand [copyWrites dst els] = (true, v)) :
    ∃ bad raw more, (v.lostWrites c (copyWrites dst els) = [] → bad = v.refusals c (copyWrites dst els)) ∧
      s.copyWrite c i m src dst perm mode u vals false =
        let w := v.stagedDone c m.seq (copyWrites dst els) dst els vals bad (v.lostWrites c (copyWrites dst els)).length raw more
        if (v.lostWrites c (copyWrites dst els)).isEmpty then (w.setPhase c i (.running (.copy (u + 1) [] []))).unpin c
        else w.finish c i (.of stPageFault) := by
  refine ⟨v.refusals c (copyWrites dst els) ++ (v.lostWrites c (copyWrites dst els)).map (fun n => (pageOf n.vaddr * 65536, 65536)),
    s.stagedEst c src dst perm mode u, (v.lostWrites c (copyWrites dst els)).isEmpty && decide (u + 1 < stagedUnits mode dst), fun h => ?_, ?_⟩
  · rw [h, List.map_nil, List.append_nil]
  · unfold State.copyWrite
    rw [hunit]
    dsimp only
    rw [if_neg Bool.false_ne_true, hslots]
    rfl

/-- It gives its staging back and changes no command; besides the elements nothing is stored. -/
theorem State.stagedDone_keeps (v : State) (c : CtxNo) (seq : Word) (a : Acc) (dst : Opnd) (els : List (Nat → Nat)) (vals : List Nat)
    (bad : List (Nat × Nat)) (lost raw : Nat) (more : Bool) :
    let w := v.stagedDone c seq a dst els vals bad lost raw more
    w.staging = v.staging.filter (fun p => p.2 != stagingUser c seq) ∧ SamePlaces v w
      ∧ SameMem ((els.zip vals).foldl (fun t x => t.putBits c bad dst x.1 x.2) v) w := by
  have hput : Fr [.core, .remote] v ((els.zip vals).foldl (fun t x => t.putBits c bad dst x.1 x.2) v) :=
    Fr.foldl (fun _ _ h => h.putBits c bad dst _ _ (by simp) (by simp)) _ (Fr.refl _ v)
  unfold State.stagedDone
  generalize (els.zip vals).foldl (fun t x => t.putBits c bad dst x.1 x.2) v = z at hput ⊢
  have hdropped : ((z.countOob c lost).dropStaging (stagingUser c seq)).staging = v.staging.filter (fun p => p.2 != stagingUser c seq) :=
    congrArg (List.filter _) (hput.same .staging (by simp))
  have hplaces : SamePlaces v ((z.countOob c lost).dropStaging (stagingUser c seq)) :=
    ⟨((SamePlaces.of_frame hput (by simp)).trans (.of_work (.countOob z c lost))).length⟩
  have hmem : SameMem z ((z.countOob c lost).dropStaging (stagingUser c seq)) := .of_eq rfl rfl
  generalize (z.countOob c lost).dropStaging (stagingUser c seq) = d at hdropped hplaces hmem ⊢
  refine ⟨?_, ?_, ?_⟩
  · have hcommit := Fr.streamCommit (Fr.refl [.ctx c] (d.closeUnit c seq [a])) c raw more (by simp)
    exact (hcommit.same .staging (by simp)).trans ((State.closeUnit_staging d c seq [a]).trans hdropped)
  · exact hplaces.trans (.of_work ((SameWork.closeUnit d c seq [a]).trans (.streamCommit _ c raw more)))
  · exact (hmem.trans (.closeUnit d c seq [a])).trans (.streamCommit _ c raw more)

end

end Sys2Proof.Machine
end

section
/-! SUPPORT. The obligation of REDUCE and of copies (R70 to R72, R155, R166, R167, R169, R221). -/

namespace Sys2Proof.Machine

section
variable {s v : State} {c : CtxNo} {i op u : Nat} {m : Cmd} {src dst : Opnd} {els : List (Nat → Nat)} {blk vals : List Nat}

/-- A copy by rows or by blocks goes on unit by unit: there are steps for every unit and every read of a block. -/
theorem State.copyCmd_direct {k : Nat} (hcont : s.continuing c op = some (i, m)) (hops : s.copyOps m = some (src, dst))
    (hphase : m.phase = .running (.copy u vals blk)) (hdirect : (copyMode src dst (m.perm src.desc.ndim)).Direct)
    (hlen : (directUnits (copyMode src dst (m.perm src.desc.ndim)) dst).length = k + 1) :
    s.copyCmd c op = runRows (State.copyDirect c i src dst (m.perm src.desc.ndim) (copyMode src dst (m.perm src.desc.ndim))
      (directUnits (copyMode src dst (m.perm src.desc.ndim)) dst)) (2 * k + 1 + 2) s := by
  rw [State.copyCmd_goes hcont, State.copyStep_direct hops hphase rfl hdirect, hlen]
  rfl

/-- The write phase of a staged unit: what it stores, how its command goes on, and its staging. -/
theorem State.copyWrite_stores {perm : List Nat} {mode : CopyMode} (hcmd : (s.ctx c).cmds[i]? = some m)
    (hunit : stagedUnit mode dst u = some els) (hslots : s.takeSlots c m.seq .demand [copyWrites dst els] = (true, v)) :
    let t := s.copyWrite c i m src dst perm mode u vals false
    t.staging = s.staging.filter (fun p => p.2 != stagingUser c m.seq)
      ∧ (v.lostWrites c (copyWrites dst els) = [] →
        SameMem (v.copyStore c dst els vals) t ∧ PhaseAt t c i (.running (.copy (u + 1) [] [])))
      ∧ (v.lostWrites c (copyWrites dst els) ≠ [] → PhaseAt t c i (.finished (.of stPageFault))) := by
  obtain ⟨bad, raw, more, hbad, hwrite⟩ := State.copyWrite_eq (i := i) (src := src) (perm := perm) (vals := vals) hunit hslots
  dsimp only at hwrite ⊢
  obtain ⟨hstaging, hplaces, hmem⟩ := v.stagedDone_keeps c m.seq (copyWrites dst els) dst els vals bad
    (v.lostWrites c (copyWrites dst els)).length raw more
  rw [hwrite]
  generalize v.stagedDone c m.seq (copyWrites dst els) dst els vals bad (v.lostWrites c (copyWrites dst els)).length raw more = w
    at hstaging hplaces hmem ⊢
  have hv := SameWork.takeSlots s c m.seq .demand [copyWrites dst els]
  have hvstaging := State.takeSlots_staging s c m.seq .demand [copyWrites dst els]
  rw [hslots] at hv hvstaging
  obtain ⟨m1, hm1⟩ := ((SamePlaces.of_work hv).trans hplaces).cmd hcmd
  rw [hvstaging] at hstaging
  cases hlost : v.lostWrites c (copyWrites dst els) with
  | nil =>
    rw [hbad hlost] at hmem
    refine ⟨hstaging, fun _ => ⟨hmem.trans (.of_eq rfl rfl), ?_⟩, fun h => absurd rfl h⟩
    rw [List.isEmpty_nil, if_pos rfl, PhaseAt, (SameWork.unpin _ c).cmds]
    exact State.phase_setPhase w hm1 _
  | cons n l =>
    rw [List.isEmpty_cons, if_neg Bool.false_ne_true]
    exact ⟨(State.finish_staging w c i _).trans hstaging, fun h => absurd h (List.cons_ne_nil n l), fun _ => State.phase_finish w hm1 _⟩

end

/-- Settles O54: REDUCE by its start and its last tile; a copy by its mode: direct units by `copyDirect_last` and `copyDirect_block`, staged
units by `copyRead_reads` and `copyWrite_stores`. -/
theorem reduceAndCopies : Obligations.ReduceAndCopies := by
  unfold Obligations.ReduceAndCopies
  intro s q g h v c i op u m src dst els blk hcmd
  refine ⟨fun hsrc hdst => ⟨?start, ?tile⟩, fun hop hops => ?copy⟩
  case start =>
    intro hstart hfree hhandle hhandle' hreserved hgood
    have hexec := State.startReduce_good hsrc hdst hstart hfree hhandle hhandle' hreserved hgood
    exact ⟨_, congrArg Host.Outcome.next hexec, OnlyCtx.setPhase s c i _, State.phase_setPhase s hcmd _⟩
  case tile =>
    intro r w b row acc tab dtab early hup hslice hctx hparts hleft hbegun hactive hrunning hphase hlast axis n as hopen
    obtain ⟨hslots, hlane, hcmds⟩ := State.reduced_keeps q c (BitVec.ofNat 16 m.seq.toNat) ((as.drop 1).flatMap (q.refusals c)) src dst dtab.isSome _ _ _
    obtain ⟨hmem, hslots', hlane', hend⟩ := State.sliceReduce_last hcmd hbegun hsrc hdst (SameWork.of_openWrites hopen) hslots (hcmds c)
      (State.reduceTile_last hlast hopen)
    rw [hlane] at hlane'
    exact ⟨_, exec_slice_reduce hup hslice hctx hparts hleft hactive hrunning hphase, hmem, hslots', hlane', hend⟩
  case copy =>
    intro cmd perm mode us est
    refine ⟨fun hcont hstart hfree hhandle hhandle' hreserved hgood => ⟨fun hmode => ?identity, fun hmode => ?refused⟩,
      fun hcont hphase hgo hheld => ⟨fun hmode hlen hunit hopen => ?rows, fun d hmode =>
        ⟨fun hblk hlen hunit hopen => ?segment, fun hblk hunit => ?block⟩⟩,
      fun hcont hunit hphase hgo hheld hopen hcopied => ?read,
      fun b bits hcont hunit hphase hslots => ⟨fun hall => ?write, fun hlost => ?fault⟩⟩
    case identity =>
      have hexec := State.copyCmd_identity hcont hstart hfree hhandle hhandle' hops hreserved hgood hmode
      exact ⟨_, (exec_copy s c hop).trans (congrArg _ hexec), OnlyCtx.finish s c i _, State.phase_finish s hcmd _⟩
    case refused =>
      have hexec := State.copyCmd_refused hcont hstart hfree hhandle hhandle' hops hreserved hgood hmode
      exact ⟨_, (exec_copy s c hop).trans (congrArg _ hexec), OnlyCtx.finish s c i _, State.phase_finish s hcmd _⟩
    case rows =>
      obtain ⟨hmem, hend, -, -⟩ := State.copyDirect_last (n := 2 * u + 1) (byRows := true) hcmd hphase hunit hlen hgo hheld (by rw [hmode]; rfl)
        (.inl rfl) hopen
      have hexec := State.copyCmd_direct hcont hops hphase (.inl hmode) hlen
      exact ⟨_, (exec_copy s c hop).trans (congrArg _ hexec), hmem, hend⟩
    case segment =>
      have hlast := State.copyDirect_last (n := 2 * u + 1) (byRows := false) hcmd hphase hunit hlen hgo hheld (by rw [hmode]; rfl) (.inr hblk) hopen
      have hexec := State.copyCmd_direct hcont hops hphase (.inr ⟨d, hmode⟩) hlen
      exact ⟨_, (exec_copy s c hop).trans (congrArg _ hexec), hlast⟩
    case block =>
      intro rest bits w hrest hread hopen
      subst hblk
      obtain ⟨k, hlen⟩ : ∃ k, us.length = k + 1 := by
        obtain ⟨x, hx, -⟩ := Option.map_eq_some_iff.mp hunit
        exact Nat.exists_eq_succ_of_ne_zero (Nat.ne_zero_of_lt (List.getElem?_eq_some_iff.mp hx).1)
      obtain ⟨hrun, hmem, hend⟩ := State.copyDirect_block hcmd hphase hunit (by rw [hmode]; rfl) hgo hheld hrest hread rfl hopen
      have hexec := State.copyCmd_direct hcont hops hphase (.inr ⟨d, hmode⟩) hlen
      exact ⟨_, (exec_copy s c hop).trans (congrArg _ (hexec.trans hrun)), hmem, hend⟩
    case read =>
      have hexec := (State.copyCmd_goes hcont).trans (State.copyStep_read hops rfl hunit hphase)
      exact ⟨_, (exec_copy s c hop).trans (congrArg _ hexec), State.copyRead_reads hcmd hunit hgo hheld hopen hcopied⟩
    case write =>
      have hexec := (State.copyCmd_goes hcont).trans (State.copyStep_write hops rfl hunit hphase)
      obtain ⟨hstaging, hstored, -⟩ := State.copyWrite_stores (i := i) (src := src) (perm := perm) (vals := b :: bits) hcmd hunit hslots
      obtain ⟨hmem, hphase'⟩ := hstored (List.filter_eq_nil_iff.mpr fun n hn => by simp [hall n hn])
      exact ⟨_, (exec_copy s c hop).trans (congrArg _ hexec), hmem, hphase', hstaging⟩
    case fault =>
      have hexec := (State.copyCmd_goes hcont).trans (State.copyStep_write hops rfl hunit hphase)
      obtain ⟨hstaging, -, hfault⟩ := State.copyWrite_stores (i := i) (src := src) (perm := perm) (vals := b :: bits) hcmd hunit hslots
      obtain ⟨n, hn, hbad⟩ := hlost
      have hsome : v.lostWrites c (copyWrites dst els) ≠ [] := List.ne_nil_of_mem (List.mem_filter.mpr ⟨hn, by simp [hbad]⟩)
      exact ⟨_, (exec_copy s c hop).trans (congrArg _ hexec), hfault hsome, hstaging⟩

end Sys2Proof.Machine
end
